-- ==== Sys2Proof/Word.lean ====
section
/-! DEFINITION. The word types of the Greant: bytes, register words, 64-bit words, and the index types of its units. -/

namespace Sys2Proof

/-- One byte (R10). -/
abbrev Byte := BitVec 8

/-- A register word: every register is accessed as an aligned 32-bit word (R520). -/
abbrev W32 := BitVec 32

/-- A 64-bit word. -/
abbrev W64 := BitVec 64

/-- A hand of the package: suit * 160 + h with h = hy * 16 + hx (R21). -/
abbrev HandIx := Fin 640

/-- A physical core of the package: hand * 17 + physical core (R22). -/
abbrev CoreIx := Fin 10880

/-- A suit (R16). -/
abbrev SuitIx := Fin 4

/-- A Mill: suit * 2 + m (R24). -/
abbrev MillIx := Fin 8

/-- A reeve: suit * 4 + r (R24). -/
abbrev ReeveIx := Fin 16

/-- A bridge end: suit * 2 + e (R24). -/
abbrev BridgeIx := Fin 8

/-- A unit that fetches a stream or is stopped by the Bell: 0..639 hands, 640..647 Mills,
648..655 bridge ends, 656 the dealer, 657 the Manor DMA (R446, R563). -/
abbrev UnitIx := Fin 658

end Sys2Proof
end

