-- ==== Sys2Proof/Config.lean ====
section
/-! DEFINITION. What an implementation fixes and what the manual leaves open: ordering codes (R1), the operand
records of commands that come from outside, and the free values, each an opaque constant with no body. -/

namespace Sys2Proof

/-- The unpublished hashes of one part (R286, R290), as data: every arrangement that the rules admit is some value. A swap
exchanges two places; a list of swaps, applied in order, gives every permutation of finitely many places. -/
structure Hash where
  /-- which live pseudo-channel holds a granule of a block: suit, mask of the pseudo-channels that are out, block, and the
  two places that a swap exchanges -/
  granules : List (Nat × Nat × Nat × Nat × Nat) := []
  /-- which sector of a pseudo-channel's storage holds a sector: suit, mask, pseudo-channel, and the two sectors that a swap
  exchanges -/
  sectors : List (Nat × Nat × Nat × Nat × Nat) := []
  /-- the set of a line: line, set; a line that is not listed stands in the set of its number -/
  sets : List (Nat × Nat) := []
  deriving DecidableEq, Repr, Inhabited

/-- An ordering code (R1): the fused suits, the HBM capacity of a suit and of a pseudo-channel in MB. -/
structure Part where
  /-- 0 HYG4-288L, 1 HYG4-192L, 2 HYG3-216L -/
  code : Nat
  /-- bit s: suit s is enabled by the fuses -/
  fused : Nat
  suitMB : Nat
  pcMB : Nat
  /-- the hashes of this part, which differ between parts (R286) -/
  hash : Hash := {}
  /-- by how much the timebase copy of a unit's domain is ahead of the Manor's, up to 8 ns (R29) -/
  skew : List (Nat × Nat) := []
  deriving DecidableEq, Repr

/-- HYG4-288L, the part the manual is written against (R2). -/
def Part.hyg4_288 : Part := ⟨0, 0xF, 72000, 1125, {}, []⟩
/-- HYG4-192L (R1, R2). -/
def Part.hyg4_192 : Part := ⟨1, 0xF, 48000, 750, {}, []⟩
/-- HYG3-216L (R1, R3). -/
def Part.hyg3_216 : Part := ⟨2, 0x7, 72000, 1125, {}, []⟩

/-- The frame of a critical command (R504): every field the constable checks. `formOk` says whether VERSION, LEN and
the frame length agree; the code is the row's. -/
structure CmdFrame where
  formOk : Bool
  counter : BitVec 64
  target : BitVec 64
  tag : BitVec 128
  body : List Byte
  deriving DecidableEq, Repr

/-- Sensor readings at a housekeeping edge (R603 to R609): input voltage in 10 mV, input power in 0.1 W, the hottest
logic, HBM and handle readings in 0.5 degree units, and per suit its power, hottest logic and hottest HBM reading. -/
structure Sensors where
  vin : BitVec 16
  pin : BitVec 16
  logic : BitVec 10
  hbm : BitVec 10
  handle : BitVec 10
  psuit : List (BitVec 16)
  slogic : List (BitVec 10)
  shbm : List (BitVec 10)
  deriving DecidableEq, Repr

/-- What a start-up step found (R476, R478): the flash mode (step 1), suits whose rails failed (step 3),
pseudo-channels that failed training as suit * 64 + pc and whether DDR5 trained (step 4), failing physical cores as
hand * 17 + core and failing hand units as hands (step 5), suits whose granary failed (step 6). -/
structure StepResult where
  flashMode : Nat
  badSuits : List Nat
  badPcs : List Nat
  ddrOk : Bool
  badCores : List Nat
  badHands : List Nat
  deriving DecidableEq, Repr

namespace Config

/-- FREE VALUE: the n-th choice that the manual leaves open to the hardware (orders of block steps under R130, orders
of sums inside the pivot engine, lanes of R274, contents it calls undefined). State.free counts the choices. -/
opaque freeNat : Nat → Nat
/-- FREE VALUE: an activation of R157 other than identity and ReLU on a finite argument: within 4 ulp under R158,
otherwise not fixed. Code, argument encoding, result encoding (FP64). -/
opaque activation : Nat → BitVec 64 → BitVec 64
/-- FREE VALUE: the derivative of an activation of R157 on a finite argument (R158). -/
opaque activationDeriv : Nat → BitVec 64 → BitVec 64
/-- FREE VALUE: BC1 and BC2 of R269, 1 - H^t, given within 2 ulp only. -/
opaque biasCorrection : BitVec 64 → Nat → BitVec 64
/-- FREE VALUE: the unpublished hashes of the part in hand (R286, R290). -/
opaque hash : Hash
/-- FREE VALUE: how far the timebase copies of the package are apart: unit and nanoseconds (R29). -/
opaque skew : List (Nat × Nat)
/-- KMAC256 of R504 and R511: key, data, output bits, customisation string. Not defined by the manual. -/
opaque kmac256 : BitVec 256 → List Byte → Nat → String → Nat
/-- SHAKE256 with a 256-bit output (R472, R504, R514). Not defined by the manual. -/
opaque shake256 : List Byte → BitVec 256
/-- XMSS verification against the firmware key in the boot ROM (R473): header bytes, signature bytes. -/
opaque xmssVerify : List Byte → List Byte → Bool
/-- XMSS signature of R498: private seed, index, message to signature bytes. -/
opaque xmssSign : BitVec 256 → Nat → List Byte → List Byte
/-- XMSS public key (68 bytes, R496) of a private seed. -/
opaque xmssPublic : BitVec 256 → List Byte
/-- FREE VALUE: the private seed that the n-th key generation of the constable makes (R500). -/
opaque keySeed : Nat → BitVec 256
/-- FREE VALUE: the command key that Dewesa provisions (R495). -/
opaque commandKey : BitVec 256
/-- FREE VALUE: the private seed of the identity key, made at manufacture (R495). -/
opaque identitySeed : BitVec 256
/-- FREE VALUE: the certificate of the first attestation key (R500). -/
opaque firstCert : List Byte
/-- Dewesa's certificate of the identity key (R514), whose contents the manual does not give. -/
opaque dewesaCert : List Byte
/-- The RISC-V IOMMU translation of an inbound PCIe address (R483): port, address to physical address or none. -/
opaque iommu : Nat → Nat → Option Nat
/-- The module's serial number, 16 ASCII bytes (R487). -/
opaque serialNumber : Nat → Byte

end Config
end Sys2Proof
end

