-- ==== Sys2Proof/Syntax.lean ====
section
/-! DEFINITION. The commands of the Greant, one constructor per row of spec/opcode_table.json, with the row's
operands. A command names the unit that acts; the record, tile or packet it works on stands in the machine's state. Operands that
carry what the outside decides (an ECC outcome, a self-test result, a sensor reading) are the environment's. -/

namespace Sys2Proof

/-- The commands of the block. -/
inductive Instr where
  /-- SEQ_NOP (R81): SEQ NOP record executes at dispatch once its waits hold, applying only its increments. -/
  | seqNop (h : HandIx)
  /-- SEQ_JUMP (R81): SEQ JUMP redirects the sequencer's fetch to TARGET. -/
  | seqJump (h : HandIx)
  /-- SEQ_LOOP (R82): SEQ LOOP loads, decrements and tests a loop register, jumping to TARGET or falling through. -/
  | seqLoop (h : HandIx)
  /-- EPOCH (R84): SEQ EPOCH waits for all prior commits, passes the epoch, commits staged changes and writes the checkpoint. -/
  | epoch (h : HandIx) (katStep katTimes : Nat)
  /-- MARK (R85): SEQ MARK waits for all prior commits and writes the hand's event-counter checkpoint to the LAST slot. -/
  | mark (h : HandIx)
  /-- SEQ_SIGNAL (R83): SEQ SIGNAL sends an increment packet to a counter of another hand's sequencer once its own waits hold. -/
  | seqSignal (h : HandIx)
  /-- PORTS (R58): SEQ PORTS waits until the logical core is idle and the closed ports are empty, recalls P8 grants if needed and sets the open-port mask. -/
  | ports (h : HandIx)
  /-- SEQ_END (R81): SEQ END stops fetching for the hand. -/
  | seqEnd (h : HandIx)
  /-- HOLD (R81): SEQ HOLD stops dispatch until the Manor's resume packet arrives. -/
  | hold (h : HandIx)
  /-- GRANT (R60): SEQ GRANT moves P8 credits of a logical core to a producer endpoint, committing when the producer acknowledges them. -/
  | grant (h : HandIx)
  /-- LOAD_TILES (R307): LOAD TILES reads headers and payloads of an extent from memory into ports or resident slots, checking each tile. -/
  | loadTiles (k : CoreIx)
  /-- GATHER (R308): LOAD GATHER reads index tiles and writes the indexed source elements, read through the narrow path, into output tiles. -/
  | gather (k : CoreIx)
  /-- MMA (R135): CUBE MMA issues block steps of a matrix product into a tally group, opening or continuing it. -/
  | mma (k : CoreIx)
  /-- ELEM (R141): CUBE ELEM combines elements of A and B by MUL, ADD or SUB into a tally group. -/
  | elem (k : CoreIx)
  /-- DRAIN (R156): DRAIN takes the oldest handed-over group, applies scales, fused steps and activation, rounds and writes output tiles. -/
  | drain (k : CoreIx)
  /-- DISCARD (R150): DISCARD returns the oldest handed-over group's tally credits without writing anything. -/
  | discard (k : CoreIx)
  /-- RUN (R180): VECT RUN checks the kernel tile, clears vector state and runs the kernel once per step over the input tiles. -/
  | run (k : CoreIx)
  /-- RADD (R195): VECT RADD adds an arriving wide partial to the local partial, in plain or double-double form, optionally rounding once into the payload format. -/
  | radd (k : CoreIx)
  /-- STORE_TILES (R311): STORE TILES writes tiles with their headers to memory or sends them to a remote P8 port. -/
  | storeTiles (k : CoreIx)
  /-- SCATTER (R312): STORE SCATTER applies each data element to the indexed destination element by a granary add, minimum or maximum atomic. -/
  | scatter (k : CoreIx)
  /-- RESEAL (R313): STORE RESEAL rereads each tile of an extent and rewrites its CRC and HCHK. -/
  | reseal (k : CoreIx)
  /-- SOLVE (R205): PIVOT SOLVE runs the interior-point solve of each problem of the command and writes outputs and the slot. -/
  | solve (h : HandIx)
  /-- GRAD (R234): PIVOT GRAD differentiates the slot's last solution through its retained factor and writes the gradient outputs. -/
  | grad (h : HandIx)
  /-- COLL (R369): XCHG COLL reads and checks the collective descriptor and sends the dealer a join for the collective. -/
  | coll (h : HandIx)
  /-- MILL_NOP (R263): Mill NOP applies only its waits and increments. -/
  | millNop (m : MillIx)
  /-- UPDATE (R269): Mill UPDATE claims the target buffer, applies the entry's recipe over the extent, writes results and telemetry sums. -/
  | update (m : MillIx)
  /-- PUBLISH (R258): Mill PUBLISH makes the written version live in one version-record write and sets the old buffer's release condition. -/
  | publish (m : MillIx)
  /-- MIRROR (R262): Mill MIRROR binds a mirror counter to a hand counter, committing when the first value arrives. -/
  | mirror (m : MillIx)
  /-- MILL_SIGNAL (R263): Mill SIGNAL sends an increment to a hand counter as the SEQ SIGNAL does. -/
  | millSignal (m : MillIx)
  /-- TABLES (R265): Mill TABLES sets the update, recipe and telemetry table bases and zeroes telemetry row 0. -/
  | tables (m : MillIx)
  /-- STEP (R263): Mill STEP increments MILL.STEP, zeroes the next telemetry row and writes the Mill's STEP checkpoint. -/
  | step (m : MillIx) (katTimes : Nat)
  /-- MILL_JUMP (R263): Mill JUMP redirects the Mill's fetch to TARGET. -/
  | millJump (m : MillIx)
  /-- MILL_LOOP (R82): Mill LOOP acts on one of the Mill's loop registers as the SEQ LOOP does. -/
  | millLoop (m : MillIx)
  /-- MILL_END (R263): Mill END stops the Mill's fetching. -/
  | millEnd (m : MillIx)
  /-- VEND (R181): VEND ends a kernel step, returning input credits and writing the output tile when due. -/
  | vend (k : CoreIx)
  /-- SETL (R174): SETL sets the vector type and the granted length VL. -/
  | setl (k : CoreIx)
  /-- SADDI (R184): SADDI adds an immediate to a scalar register. -/
  | saddi (k : CoreIx)
  /-- SADD (R184): SADD adds two scalar registers. -/
  | sadd (k : CoreIx)
  /-- SSUB (R184): SSUB subtracts two scalar registers. -/
  | ssub (k : CoreIx)
  /-- SBNZ (R184): SBNZ branches relative when a scalar register is non-zero. -/
  | sbnz (k : CoreIx)
  /-- VLD (R186): VLD loads VL elements from a window into a register group. -/
  | vld (k : CoreIx)
  /-- VLD2 (R186): VLD2 de-interleaves 2-field structures from a window into register groups. -/
  | vld2 (k : CoreIx)
  /-- VLD3 (R186): VLD3 de-interleaves 3-field structures from a window into register groups. -/
  | vld3 (k : CoreIx)
  /-- VLD4 (R186): VLD4 de-interleaves 4-field structures from a window into register groups. -/
  | vld4 (k : CoreIx)
  /-- VST (R186): VST stores VL elements of a register group to the output window. -/
  | vst (k : CoreIx)
  /-- VST2 (R186): VST2 interleaves 2 register groups into the output window. -/
  | vst2 (k : CoreIx)
  /-- VST3 (R186): VST3 interleaves 3 register groups into the output window. -/
  | vst3 (k : CoreIx)
  /-- VST4 (R186): VST4 interleaves 4 register groups into the output window. -/
  | vst4 (k : CoreIx)
  /-- VADD (R184): VADD adds two vector groups elementwise. -/
  | vadd (k : CoreIx)
  /-- VSUB (R184): VSUB subtracts two vector groups elementwise. -/
  | vsub (k : CoreIx)
  /-- VMUL (R184): VMUL multiplies two vector groups elementwise. -/
  | vmul (k : CoreIx)
  /-- VFMA (R184): VFMA computes va * vb + vd with one rounding. -/
  | vfma (k : CoreIx)
  /-- VFMS (R184): VFMS computes vd - va * vb with one rounding. -/
  | vfms (k : CoreIx)
  /-- VMIN (R184): VMIN takes the elementwise minimum. -/
  | vmin (k : CoreIx)
  /-- VMAX (R184): VMAX takes the elementwise maximum. -/
  | vmax (k : CoreIx)
  /-- VDIV (R184): VDIV divides elementwise with correct rounding. -/
  | vdiv (k : CoreIx)
  /-- VSQRT (R184): VSQRT takes the elementwise square root with correct rounding. -/
  | vsqrt (k : CoreIx)
  /-- VABS (R184): VABS takes the elementwise magnitude. -/
  | vabs (k : CoreIx)
  /-- VNEG (R184): VNEG negates elementwise. -/
  | vneg (k : CoreIx)
  /-- VCMPEQ (R184): VCMPEQ writes the equal comparison into the mask register v0. -/
  | vcmpeq (k : CoreIx)
  /-- VCMPLT (R184): VCMPLT writes the less-than comparison into the mask register v0. -/
  | vcmplt (k : CoreIx)
  /-- VCMPLE (R184): VCMPLE writes the less-or-equal comparison into the mask register v0. -/
  | vcmple (k : CoreIx)
  /-- VAND (R184): VAND takes the bitwise AND of integer groups. -/
  | vand (k : CoreIx)
  /-- VOR (R184): VOR takes the bitwise OR of integer groups. -/
  | vor (k : CoreIx)
  /-- VXOR (R184): VXOR takes the bitwise XOR of integer groups. -/
  | vxor (k : CoreIx)
  /-- VSHL (R184): VSHL shifts integer elements left. -/
  | vshl (k : CoreIx)
  /-- VSHR (R184): VSHR shifts integer elements right arithmetically. -/
  | vshr (k : CoreIx)
  /-- VQADD (R188): VQADD adds integers with saturation. -/
  | vqadd (k : CoreIx)
  /-- VQSUB (R188): VQSUB subtracts integers with saturation. -/
  | vqsub (k : CoreIx)
  /-- VQMUL (R189): VQMUL forms a Q15 or Q31 product, rounded under RM and saturated. -/
  | vqmul (k : CoreIx)
  /-- VQMAC (R189): VQMAC adds a rounded Q product to vd and saturates. -/
  | vqmac (k : CoreIx)
  /-- VQCVT (R188): VQCVT narrows integers with a right shift, rounding and saturation. -/
  | vqcvt (k : CoreIx)
  /-- VCVT (R185): VCVT converts elements to the target type under the conversion rules. -/
  | vcvt (k : CoreIx)
  /-- VRSUM (R184): VRSUM sums the active elements in ascending order into element 0. -/
  | vrsum (k : CoreIx)
  /-- VLDB (R184): VLDB loads one element and broadcasts it to VL elements. -/
  | vldb (k : CoreIx)
  /-- SCHED_FACT (R219): Schedule step FACT factors a range of columns. -/
  | schedFact (h : HandIx)
  /-- SCHED_UPD (R219): Schedule step UPD applies a range of columns to a column block. -/
  | schedUpd (h : HandIx)
  /-- SCHED_SEND (R219): Schedule step SEND publishes columns to a peer rank. -/
  | schedSend (h : HandIx)
  /-- SCHED_RECV (R219): Schedule step RECV waits for columns from a peer rank. -/
  | schedRecv (h : HandIx)
  /-- SCHED_SYNC (R219): Schedule step SYNC is a group barrier of the ranks. -/
  | schedSync (h : HandIx)
  /-- SCHED_END (R219): Schedule step END ends a rank's step list. -/
  | schedEnd (h : HandIx)
  /-- PIVOT_DEADLINE (R232): A problem's deadline arrives; during a factorisation it ends the solve at once with the fallback, otherwise it settles at the next loop top. -/
  | pivotDeadline (h : HandIx) (i : Fin 8)
  /-- ALLREDUCE (R382): Collective ALLREDUCE reduces each strand's chunks along the ring and multicasts each owner's rounded chunk. -/
  | allreduce (g : BitVec 8) (tag : BitVec 28) (pos : Fin 160) (tile : Nat)
  /-- REDUCE_SCATTER (R382): Collective REDUCE_SCATTER reduces each chunk to its owner, which alone writes it. -/
  | reduceScatter (g : BitVec 8) (tag : BitVec 28) (pos : Fin 160) (tile : Nat)
  /-- ALL_GATHER (R367): Collective ALL_GATHER gives every member all members' tiles in rank order. -/
  | allGather (g : BitVec 8) (tag : BitVec 28) (src tile : Nat)
  /-- BROADCAST (R367): Collective BROADCAST copies the root's tiles to every member, pruning fenced members. -/
  | broadcast (g : BitVec 8) (tag : BitVec 28) (dst tile : Nat)
  /-- ALL_TO_ALL (R384): Collective ALL_TO_ALL exchanges capacity-limited blocks between every pair of members. -/
  | allToAll (g : BitVec 8) (tag : BitVec 28) (src dst : Nat)
  /-- COLL_GATHER (R384): Collective GATHER collects one capacity-limited block from each member at the root. -/
  | collGather (g : BitVec 8) (tag : BitVec 28) (src : Nat)
  /-- BARRIER (R367): Collective BARRIER completes when every member has joined. -/
  | barrier (g : BitVec 8) (tag : BitVec 28)
  /-- SHUFFLE (R385): Collective SHUFFLE moves tiles within a region by a map, in sections, using reduction memory as stash. -/
  | shuffle (g : BitVec 8) (tag : BitVec 28) (entry : Nat)
  /-- FW_BEGIN (R502): FW_BEGIN checks SEQ against MIN_SEQ and erases the first 8 KiB of the unused bank. -/
  | fwBegin (f : CmdFrame)
  /-- FW_CHUNK (R507): FW_CHUNK writes data at an offset of the bank being updated, holding the first 8 KiB. -/
  | fwChunk (f : CmdFrame)
  /-- FW_COMMIT (R502): FW_COMMIT verifies the new image and rollback rule and writes its held header. -/
  | fwCommit (f : CmdFrame)
  /-- KEY_ERASE (R513): KEY_ERASE sets ERASE_PENDING, zeroes the key area, reads it back and posts SEC_ALARM. -/
  | keyErase (f : CmdFrame)
  /-- POLICY_SET (R511): POLICY_SET changes permitted owner policy values and optionally the command key. -/
  | policySet (f : CmdFrame)
  /-- FENCE (R509): FENCE fences a hand or folds a suit for later deals. -/
  | fence (f : CmdFrame)
  /-- UNFENCE (R509): UNFENCE reverses a fence set by a FENCE command. -/
  | unfence (f : CmdFrame)
  /-- POWER_LIMIT (R510): POWER_LIMIT lowers or restores F_MAX and P_LIMIT, staged to the next package epoch while a deal runs. -/
  | powerLimit (f : CmdFrame)
  /-- JOB_START (R63): JOB_START reads and checks the root table and multicasts the start packet to every sequencer and Mill. -/
  | jobStart (f : CmdFrame)
  /-- JOB_STOP (R507): JOB_STOP stops the deal at once or after a checkpoint at the next step boundary. -/
  | jobStop (f : CmdFrame)
  /-- ATTESTATION_REQUEST (R514): An attestation request returns a report signed with the attestation key and its certificate. -/
  | attestationRequest (nonce : BitVec 256)
  /-- IDENTITY_REQUEST (R514): Request 0x0101 returns the identity public key and Dewesa's certificate. -/
  | identityRequest
  /-- BYPASS (R488): JTAG BYPASS instruction. -/
  | bypass
  /-- IDCODE (R488): JTAG IDCODE returns 0x2A47_E3C7. -/
  | idcode
  /-- SAMPLE_PRELOAD (R488): JTAG SAMPLE/PRELOAD instruction. -/
  | samplePreload
  /-- EXTEST (R488): JTAG EXTEST, ringing a package Bell first if a deal runs. -/
  | extest
  /-- CLAMP (R488): JTAG CLAMP, ringing a package Bell first if a deal runs. -/
  | clamp
  /-- HIGHZ (R488): JTAG HIGHZ, ringing a package Bell first if a deal runs. -/
  | highz
  /-- I3C_DYNAMIC_ADDRESS (R487): ENTDAA or SETDASA assigns the sideband target a dynamic address. -/
  | i3cDynamicAddress (setdasa : Bool) (static addr : BitVec 7)
  /-- I3C_READ (R487): A sideband read returns the read-only identity, state, power and temperature registers. -/
  | i3cRead (off len : Nat)
  /-- BELL_RING (R446): A write of MANOR.BELL.CTL.RING rings the Bell at SCOPE, multicasting the stop marker. -/
  | bellRing (v : W32)
  /-- BELL_RESUME (R448): A write of MANOR.BELL.CTL.RESUME or a reeve resume packet restarts every unit of the scope from the cut. -/
  | bellResume (reeve : Bool) (v : W32)
  /-- APPLY (R360): A write of SUIT.FAB.CTL.APPLY requests the copy of pending routing, fence and fold tables to active. -/
  | apply (s : SuitIx) (reeve : Bool)
  /-- TABLE_COPY (R360): Once the suit is drained, pending fabric tables are copied to active and APPLY clears. -/
  | tableCopy (s : SuitIx)
  /-- CFG_REF_WRITE (R542): A write of CFG.REF sets VALID, clears DRIFT and restarts the scan. -/
  | cfgRefWrite (addr : Nat) (v : W32)
  /-- DBG_DATA_READ (R550): A read of DBG.DATA returns four bytes of the selected space and advances OFFSET by 4. -/
  | dbgDataRead (addr : Nat)
  /-- XLQ_WRITE (R613): A write of SUIT.HBM.XLQ translates a pseudo-channel sector into its physical address in SUIT.HBM.XLA. -/
  | xlqWrite (s : SuitIx) (v : W32)
  /-- FAULT_TAIL_WRITE (R459): A write of MANOR.FAULT.TAIL frees log space, clears LOST and releases held fence and fold records. -/
  | faultTailWrite (v : W32)
  /-- CLEAR (R568): A write of 1 to an observation block's CLEAR bit zeroes all its counters in one cycle. -/
  | clear (addr : Nat)
  /-- REGISTER_WRITE (R12): A write to a register without its own row acts by its access code, staging, gating and 64-bit pairing rules. -/
  | registerWrite (reeve : Bool) (addr width : Nat) (v : W32)
  /-- START_PACKET (R67): On the start packet a sequencer or Mill reads its entry and begins fetching its stream. -/
  | startPacket (u : Fin 648)
  /-- STREAM_FETCH (R67): A sequencer fetch of 16 records returns into the fetch buffer. -/
  | streamFetch (u : Fin 648)
  /-- RECORD_DISPATCH (R70): The sequencer checks the next record and dispatches it to its station's queue, or stops on a malformed record. -/
  | recordDispatch (h : HandIx)
  /-- RESUME_PACKET (R81): The Manor's resume packet ends a HOLD and dispatch continues. -/
  | resumePacket (h : HandIx)
  /-- DETOUR (R377): A detour packet makes a sequencer dispatch a detour record list and then resume its stream. -/
  | detour (h : HandIx)
  /-- COMMAND_COMMIT (R77): A command commits when its outputs are complete and its increments apply. -/
  | commandCommit (ep : BitVec 16) (station : BitVec 4) (diverged : Bool)
  /-- TILE_CHECK (R50): A station checks an arriving tile's CRC, header and position before use. `corrupt` says that the bytes that arrive differ from the tile at its source (R52). -/
  | tileCheck (k : CoreIx) (station opd : Nat) (corrupt : Bool)
  /-- CREDIT_RETURN (R59): A returned local port or tally credit reaches its producer. -/
  | creditReturn (k : CoreIx) (port : Nat)
  /-- P8_CREDIT (R59): A P8 credit packet reaches its producer on the control channel. -/
  | p8Credit (i : Nat)
  /-- P8_RECALL (R60): A producer receiving a recall gives back every credit it holds for the core. -/
  | p8Recall (i : Nat)
  /-- P8_TILE_RECEIVE (R59): A remote tile arrives at a core's P8; if closed or full it is discarded with P8DROP. -/
  | p8TileReceive (i : Nat)
  /-- SIGNAL_RECEIVE (R83): A SIGNAL packet from a hand or the Manor increments a hand or Mill counter. -/
  | signalReceive (manor : Bool) (dest : BitVec 16) (ctr : BitVec 6) (amt : BitVec 8)
  /-- MIRROR_SEND (R262): A hand sends a bound counter's latest value to its Mill mirror, at most once per 16 cycles. -/
  | mirrorSend (h : HandIx) (b : Fin 8)
  /-- MIRROR_UPDATE (R262): A mirror value packet updates a Mill's mirror counter. -/
  | mirrorUpdate (m : MillIx) (mirror : BitVec 5)
  /-- BUFFER_CLAIM (R257): A pinned UPDATE claims its target buffer once the release condition holds. -/
  | bufferClaim (m : MillIx)
  /-- HAND_DONE (R81): After END, when every queue has drained and committed, the hand reports done to the Manor. -/
  | handDone (h : HandIx)
  /-- MILL_DONE (R263): After END, when every record has committed, the Mill reports done to the Manor. -/
  | millDone (m : MillIx)
  /-- STALL (R71): The hang watch expires with no commit for HANG_LIMIT ms, setting STALL and notifying the reeve. -/
  | stall (h : HandIx) (fail : Nat)
  /-- GAP_FILL_END (R165): A cube gap outlasts GAP_FILL cycles and ramp-down begins. -/
  | gapFillEnd (k : CoreIx)
  /-- DUTY_STEP (R166): Each 32-cycle interval of a ramp lowers or raises the cube duty by one eighth. -/
  | dutyStep (k : CoreIx)
  /-- NAP (R190): After NAP_IDLE idle cycles the vector unit naps and loses its registers. -/
  | nap (k : CoreIx)
  /-- WAKE_END (R191): A 220-cycle vector-unit wake completes and the waiting record begins. -/
  | wakeEnd (k : CoreIx)
  /-- MEMORY_READ (R289): A read request is served at its home slice from the granary or HBM. -/
  | memoryRead (ep : BitVec 16) (va len : Nat) (tid : BitVec 24) (ecc sev : Nat) (hard : Bool)
  /-- MEMORY_WRITE (R289): A write is accepted at its home slice, forwarded to the partner copy when PCOPY is set. -/
  | memoryWrite (ep : BitVec 16) (va : Nat) (data : List Byte)
  /-- ATOMIC (R297): An atomic add, minimum, maximum or compare-and-swap is applied at its home slice. -/
  | atomic (ep : BitVec 16) (va op ty : Nat) (v cmp : BitVec 64)
  /-- PREFETCH_ISSUE (R317): A trained stream issues a prefetch, or drops it silently at a forbidden page. -/
  | prefetchIssue (s : SuitIx) (det : Nat) (arrived : Bool)
  /-- PATROL_READ (R325): A controller's patrol reads and corrects sectors of its pseudo-channels over 24 hours. -/
  | patrolRead (s : SuitIx) (pc : Fin 64) (sector ecc sev : Nat) (hard : Bool)
  /-- MAP_OUT (R328): A pseudo-channel is mapped out: suit quiesced, granary flushed, interleave rebuilt and contents migrated. -/
  | mapOut (s : SuitIx) (pc : Fin 64) (reason : Nat)
  /-- DDR_READ_UE (R467): An uncorrectable DDR5 read faults the reader, records the error and interrupts the cores. -/
  | ddrReadUe (ch : Fin 2) (addr : Nat) (dma : Bool)
  /-- DDR_PATROL (R466): DDR5 patrol reads cover all of DDR5 every 24 hours and write back corrections. -/
  | ddrPatrol (ch : Fin 2) (addr ecc : Nat)
  /-- APERTURE_ACCESS (R465): An application-core access through the HBM aperture is translated and checked. -/
  | apertureAccess (op addr len : Nat) (v cmp : BitVec 64)
  /-- DMA_TRANSFER (R465): A Manor DMA transfer between HBM, DDR5 and NVMe completes. -/
  | dmaTransfer (src dst n : Nat)
  /-- PCIE_INBOUND (R483): An inbound PCIe request is translated by the IOMMU or completed as Unsupported Request. -/
  | pcieInbound (port : Fin 2) (write : Bool) (addr len : Nat) (v : BitVec 64)
  /-- PACKET_FORWARD (R347): A router forwards or replicates a packet's flits toward the next hop, pruning or dropping as needed. -/
  | packetForward (i : Nat)
  /-- PACKET_RECEIVE (R356): A packet is delivered; its message completes when received bytes equal MSGLEN. -/
  | packetReceive (i : Nat)
  /-- PRUNE_NOTICE (R359): A prune notice reaches the multicast source and is recorded for a collective. -/
  | pruneNotice (i : Nat)
  /-- LINK_REPLAY (R361): A link CRC error makes the receiver request a replay from the sender's buffer. -/
  | linkReplay (b : BridgeIx) (manor sent : Bool)
  /-- LINK_RETRY_EXHAUSTED (R361): After 8 failed replays a lane is spared or the link is taken down. -/
  | linkRetryExhausted (b : BridgeIx) (manor sent oneLane : Bool) (lgroup lane : Nat)
  /-- RESIDUE_MISMATCH (R363): A bridge adder residue mismatch retries the block, or fences the adder and restarts the collective on the vector-engine path. -/
  | residueMismatch (b : BridgeIx) (lane slot : Nat) (g : BitVec 8) (tag : BitVec 28) (retryOk : Bool)
  /-- COLL_JOIN (R369): The dealer receives a member's join, checks the descriptor and detects order faults. -/
  | collJoin (i : Nat)
  /-- COLL_ADMIT (R373): A fully joined collective is admitted once all its slots are reserved, or on the vector-engine path. -/
  | collAdmit (g : BitVec 8) (tag : BitVec 28)
  /-- ADMIT_TIMEOUT (R375): A collective waiting for slots beyond ADMIT_TIMEOUT is downgraded to the vector-engine path. -/
  | admitTimeout (g : BitVec 8) (tag : BitVec 28)
  /-- COLL_TIMEOUT (R391): A member absent COLL_TIMEOUT after the first join is reported to its suit's reeve. -/
  | collTimeout (g : BitVec 8) (tag : BitVec 28) (h : HandIx)
  /-- COLL_COMPLETE (R389): Every member has written its destinations and completion record, and every COLL commits. -/
  | collComplete (g : BitVec 8) (tag : BitVec 28)
  /-- STOP_MARKER (R446): A unit receives the Bell's stop marker and stops at its next stop point. -/
  | stopMarker (u : UnitIx)
  /-- UNIT_STOP (R446): A unit reaches its stop point for the cut and writes its STOP trace record. -/
  | unitStop (u : UnitIx)
  /-- CUT_COMPLETE (R447): The last unit in the scope has stopped and the cut is complete. -/
  | cutComplete
  /-- CUT_LATE (R447): A cut exceeds 20 µs and sets LATE. -/
  | cutLate
  /-- UNIT_STOP_TIMEOUT (R447): A unit not stopped 10 ms after the marker makes its hand be handled as stalled. -/
  | unitStopTimeout (u : UnitIx)
  /-- FAULT_RECORD (R421): A reeve receives or posts a fault record and appends it to the package fault log. -/
  | faultRecord (r : ReeveIx)
  /-- HEARTBEAT (R423): Each reeve sends its heartbeat every HB_PERIOD ms. -/
  | heartbeat (r : ReeveIx)
  /-- REEVE_LOST (R424): Three missing heartbeats mark a reeve lost and pass its duties on. -/
  | reeveLost (r : ReeveIx)
  /-- WATCHDOG_EXPIRY (R469): A reeve watchdog expires 50 ms after its last service and halts the reeve. -/
  | watchdogExpiry (r : ReeveIx)
  /-- CORE_SWAP (R426): A reeve tests the kitty and swaps it in for a failed core, then replays the hand. -/
  | coreSwap (k : CoreIx) (cause : Nat) (kittyOk : Bool)
  /-- HAND_REPLAY (R434): A stopped hand and its P8 peers are replayed from a checkpoint slot. -/
  | handReplay (h : HandIx) (epochSlot : Bool)
  /-- SECTOR_REBUILD (R426): Poisoned sectors are rebuilt from their recovery source. -/
  | sectorRebuild (addr : Nat) (data : BitVec 256)
  /-- HAND_FOLD (R439): A hand is fenced and its suit taken out of service. -/
  | handFold (h : HandIx) (cause : Nat)
  /-- SUIT_FOLD (R440): A suit is fenced, its rails turned off and the fold mask applied. -/
  | suitFold (s : SuitIx) (cause : Nat)
  /-- VARIANT_SWITCH (R441): The running deal is replaced by its variant under a package Bell without a scrub. -/
  | variantSwitch (rootVa : Nat) (resume : List (Nat × List Nat))
  /-- STEP_ROLL_FORWARD (R442): Mills of suits in service commit the step's UPDATEs before a variant switch. -/
  | stepRollForward
  /-- SUIT_REJOIN (R443): A suit that left with a hand fold rejoins at a step boundary. -/
  | suitRejoin (s : SuitIx)
  /-- BRIDGE_RETRAIN (R426): A downed bridge is retrained once before the ring is re-routed through the Manor. -/
  | bridgeRetrain (b : BridgeIx) (manor ok : Bool)
  /-- SCRUB (R40): After a deal stops, its memory and state are zeroed before the next deal is admitted. -/
  | scrub
  /-- CHECKPOINT (R452): At a held step boundary the runtime copies persistent state to NVMe and resumes. -/
  | checkpoint (linksUp : Bool)
  /-- CHECKPOINT_TIMEOUT (R454): A release checkpoint not complete 9 s after the request is abandoned. -/
  | checkpointTimeout
  /-- RELEASE_BOUNDARY_TIMEOUT (R454): No step boundary within 4 s of a release request sends the release straight to the Bell. -/
  | releaseBoundaryTimeout
  /-- RELEASE_REQUEST (R592): A Release press or latch opening starts the release sequence or turns the rails off. -/
  | releaseRequest (byLatch : Bool)
  /-- RELEASE_HOLD_RESTART (R593): Release held 3 s with the latch closed restarts the module from step 1. -/
  | releaseHoldRestart
  /-- CFG_SCAN (R539): Every 1,024 µs each configuration block starts a CRC scan of its covered words. -/
  | cfgScan
  /-- CFG_SCAN_END (R540): A scan ends, writes CFG.CRC and raises CFG_DRIFT on a mismatch. -/
  | cfgScanEnd (block : Nat)
  /-- GRACE_END (R541): A block's configuration grace period expires. -/
  | graceEnd (block : Nat)
  /-- TRACE_DRAIN (R561): A sequencer or Mill drains 32 trace records to its HBM ring and updates the ring record. -/
  | traceDrain (u : Fin 648)
  /-- POWER_ON (R588): With EN high and input stable, the module precharges its bulk and closes the main switch. -/
  | powerOn
  /-- START_UP_STEP_END (R476): A start-up step completes and the next step begins. -/
  | startUpStepEnd (r : StepResult)
  /-- START_UP_STEP_LIMIT (R476): A start-up step exceeds its limit and its failure action is taken. -/
  | startUpStepLimit
  /-- REFERENCE_TIMEOUT (R477): No reference within 100 ms of step 3 starts the timebase from the internal oscillator. -/
  | referenceTimeout
  /-- REFERENCE_LOSS (R32): The 100 MHz reference stops and the timebase continues from the internal oscillator. -/
  | referenceLoss
  /-- REFERENCE_RETURN (R32): The reference returns and the module switches back at the next edge. -/
  | referenceReturn
  /-- STOP_N (R490): STOP_N held low for 100 samples rings the package Bell. -/
  | stopN (low : Bool)
  /-- POWER_FAIL (R455): Power-fail detection rings the Bell, stops writes and shuts the rails down. -/
  | powerFail
  /-- OVER_VOLTAGE (R578): Input over-voltage opens the hot-swap switch as a power loss. -/
  | overVoltage
  /-- VIN_LOW (R578): Input between 44 V and 48 V sets VIN_LOW. -/
  | vinLow
  /-- EN_LOW (R593): EN going low removes power; going high again restarts from step 1. -/
  | enLow (high : Bool)
  /-- GOVERNOR_FAST (R582): Every 10 µs the governor lowers cube caps if power exceeds P_LIMIT + 50 W. -/
  | governorFast (p : Nat)
  /-- GOVERNOR_TICK (R582): Every 100 µs the governor adjusts each suit's clock and cube cap. -/
  | governorTick (a : Nat) (hot near : List Nat)
  /-- FLOOR (R584): A suit at its floor for 10 ms sets FLOOR. -/
  | floor (s : SuitIx)
  /-- THROTTLE (R585): A temperature throttle threshold lowers the clock and sets THROTTLE or HANDLE_HOT. -/
  | throttle (kind : Fin 4) (s : SuitIx)
  /-- TRIP (R586): A temperature trip shuts the suit rails down and halts the module. -/
  | trip (kind : Fin 2) (s : SuitIx)
  /-- SENSOR_TRIP (R516): A constable sensor trips and raises an alarm of its level. -/
  | sensorTrip (sensor : Fin 5) (level : Fin 4) (value : W32)
  /-- KEY_ROTATION (R500): A background attestation key generation completes and the new key is certified. -/
  | keyRotation
  /-- PCIE_LINK_CHANGE (R484): A PCIe link goes up or down, failing any checkpoint write on it. -/
  | pcieLinkChange (link : Fin 4) (up dpc : Bool) (width rate : BitVec 4)
  /-- MGMT_LINK_CHANGE (R486): The management link goes up or down. -/
  | mgmtLinkChange (up : Bool) (phy fec : BitVec 2)
  /-- HOUSEKEEPING_EDGE (R526): On each rising edge of the 1 MHz housekeeping clock, every RS register copy is refreshed, all words of a multi-word RS register on the same edge. -/
  | housekeepingEdge (r : Sensors)
  /-- FAULT_LOG (R421): When the one-millisecond rate limit for info and corrected records runs out with records still unsignalled, the Manor raises the rate-limited FAULT_LOG interrupt to the application cores. -/
  | faultLog
  /-- STATUS_READ (R554): A read of MANOR.BOOT.STAT, MANOR.MGMT.STAT or MANOR.SEC.STAT marks the change as read and so deasserts interrupt source 7, 8 or 11. -/
  | statusRead (addr : Nat)
  deriving DecidableEq, Repr

end Sys2Proof
end

