-- ==== Sys2Proof/WellFormed.lean ====
section
/-! DEFINITION. Well-formed commands: the operand ranges that the index types do not already give. -/

namespace Sys2Proof

/-- A frame's body is 0 to 8,196 bytes long (R504). -/
def CmdFrame.wf (f : CmdFrame) : Bool := f.body.length ≤ 8196

/-- One reading per suit (R608, R609). -/
def Sensors.wf (r : Sensors) : Bool :=
  r.psuit.length == 4 && r.slogic.length == 4 && r.shbm.length == 4

/-- The operand ranges of a command, each from the rule the row cites. -/
def Instr.wf : Instr → Bool
  | .epoch _ st n => st ≤ 6 && n ≤ 2                              -- R431: steps 0 to 6 of a hand's test
  | .step _ n => n ≤ 2
  | .allToAll _ _ s d => s < 640 && d < 640                       -- R368: at most 640 members
  | .allGather _ _ s _ => s < 640
  | .broadcast _ _ d _ => d < 640
  | .collGather _ _ s => s < 640
  | .fwBegin f => f.wf
  | .fwChunk f => f.wf
  | .fwCommit f => f.wf
  | .keyErase f => f.wf
  | .policySet f => f.wf
  | .fence f => f.wf
  | .unfence f => f.wf
  | .powerLimit f => f.wf
  | .jobStart f => f.wf
  | .jobStop f => f.wf
  | .memoryRead _ va len _ ecc sev _ => va < 2 ^ 48 && 0 < len && len ≤ 4096 && ecc ≤ 2 && sev ≤ 3   -- R299, R324
  | .memoryWrite _ va d => va < 2 ^ 48 && 0 < d.length && d.length ≤ 4096
  | .atomic _ va op ty _ _ => va < 2 ^ 48 && op ≤ 3 && ty ≤ 3      -- R295
  | .patrolRead _ _ sec ecc sev _ => sec < 2 ^ 26 && ecc ≤ 2 && sev ≤ 3
  | .mapOut _ _ r => r ≤ 2                                        -- R329
  | .ddrReadUe _ a _ => a < 2 ^ 35
  | .ddrPatrol _ a e => a < 2 ^ 35 && e ≤ 2
  | .linkRetryExhausted _ _ _ _ g l => g < 12 && l < 34           -- R392
  | .residueMismatch _ lane slot _ _ _ => lane < 160 && slot < 256
  | .sectorRebuild a _ => a < 2 ^ 48 && a % 32 == 0             -- R285, R286, R465
  | .handFold _ c => c ≤ 3                                        -- R439: in service, causes 0 to 3
  | .suitFold _ c => c ≤ 5                                        -- R429
  | .coreSwap _ c _ => c ≤ 3                                      -- R427
  | .stall _ f => f ≤ 2
  | .startUpStepEnd r => r.flashMode ≤ 3                           -- R470: 3 the fallback read
  | .housekeepingEdge r => r.wf
  | .governorTick _ hot near => hot.all (· < 4) && near.all (· < 4)
  | _ => true

end Sys2Proof
end

