-- ==== Sys2Proof/Decode.lean ====
section
/-! DEFINITION. The decoder of table words. spec/opcode_table.json gives bits to no row ("fields" is empty in all 215
rows), so no word spells a command. -/

namespace Sys2Proof

/-- The command that a word of `nbits` bits spells by the table's bits: none, because the table gives no row any. -/
def decodeTableWord (_nbits _w : Nat) : Option Instr := none

end Sys2Proof
end

