-- ==== Sys2Proof/Machine/Flags.lean ====
section
/-! DEFINITION. Number formats, exact values, the one rounding and the sticky flags (chapter 3, R89 to R105). -/

namespace Sys2Proof.Machine

/-- The five sticky flags INV, DZ, OVF, UNF, SAT in bits 4 down to 0 (R105, R525). -/
abbrev Fl := BitVec 5

def Fl.inv : Fl := 0b10000#5
def Fl.dz  : Fl := 0b01000#5
def Fl.ovf : Fl := 0b00100#5
def Fl.unf : Fl := 0b00010#5
def Fl.sat : Fl := 0b00001#5

/-- An exact value, before any rounding (R113): a NaN (signalling or quiet), an infinity, or (-1)^neg * m * 2^e;
m = 0 is a signed zero. -/
inductive Val where
  | nan (signalling : Bool)
  | inf (neg : Bool)
  | fin (neg : Bool) (m : Nat) (e : Int)
  deriving DecidableEq, Repr

namespace Val

def zero : Val := .fin false 0 0
def negZero : Val := .fin true 0 0
def one : Val := .fin false 1 0
def ofNat (n : Nat) : Val := .fin false n 0
def ofInt (i : Int) : Val := .fin (decide (i < 0)) i.natAbs 0

def isNan : Val → Bool
  | .nan _ => true
  | _ => false

def isInf : Val → Bool
  | .inf _ => true
  | _ => false

def isZero : Val → Bool
  | .fin _ m _ => m == 0
  | _ => false

def isFinite : Val → Bool
  | .fin .. => true
  | _ => false

/-- The sign; of a NaN, positive. -/
def sign : Val → Bool
  | .nan _ => false
  | .inf n => n
  | .fin n _ _ => n

def neg : Val → Val
  | .nan s => .nan s
  | .inf n => .inf !n
  | .fin n m e => .fin (!n) m e

def abs : Val → Val
  | .nan s => .nan s
  | .inf _ => .inf false
  | .fin _ m e => .fin false m e

/-- The flag of a signalling operand (R100). -/
def sigFlag : Val → Fl
  | .nan true => Fl.inv
  | _ => 0

/-- m * 2^e as an integer multiple of 2^g, for g at most e. -/
def scaled (n : Bool) (m : Nat) (e g : Int) : Int :=
  let k := (m <<< (e - g).toNat : Nat)
  if n then -(k : Int) else k

/-- A sum of two values (R100, R101, R103): exact, with INV for a signalling NaN and for infinities of both signs. -/
def add (a b : Val) : Val × Fl :=
  match a, b with
  | .nan _, _ => (.nan false, a.sigFlag ||| b.sigFlag)
  | _, .nan _ => (.nan false, b.sigFlag)
  | .inf x, .inf y => if x = y then (.inf x, 0) else (.nan false, Fl.inv)
  | .inf x, _ => (.inf x, 0)
  | _, .inf y => (.inf y, 0)
  | .fin x m e, .fin y k f =>
    if m = 0 ∧ k = 0 then (.fin (x && y) 0 0, 0)
    else if m = 0 then (.fin y k f, 0)
    else if k = 0 then (.fin x m e, 0)
    else
      let g := min e f
      let t := scaled x m e g + scaled y k f g
      (.fin (decide (t < 0)) t.natAbs g, 0)

def sub (a b : Val) : Val × Fl := add a b.neg

/-- A product (R100, R101, R103): exact. -/
def mul (a b : Val) : Val × Fl :=
  match a, b with
  | .nan _, _ => (.nan false, a.sigFlag ||| b.sigFlag)
  | _, .nan _ => (.nan false, b.sigFlag)
  | .inf x, .inf y => (.inf (x != y), 0)
  | .inf x, .fin y m _ => if m = 0 then (.nan false, Fl.inv) else (.inf (x != y), 0)
  | .fin x m _, .inf y => if m = 0 then (.nan false, Fl.inv) else (.inf (x != y), 0)
  | .fin x m e, .fin y k f => (.fin (x != y) (m * k) (e + f), 0)

/-- a * b + c, exact; 0 times infinity is invalid whatever c is. -/
def fma (a b c : Val) : Val × Fl :=
  let p := mul a b
  let r := add p.1 c
  (r.1, p.2 ||| r.2)

/-- A quotient as a value whose rounding to any format of R90 is the rounding of the exact quotient: 130 bits of the
quotient and a sticky bit (R100, R105). -/
def div (a b : Val) : Val × Fl :=
  match a, b with
  | .nan _, _ => (.nan false, a.sigFlag ||| b.sigFlag)
  | _, .nan _ => (.nan false, b.sigFlag)
  | .inf _, .inf _ => (.nan false, Fl.inv)
  | .inf x, .fin y _ _ => (.inf (x != y), 0)
  | .fin x _ _, .inf y => (.fin (x != y) 0 0, 0)
  | .fin x m e, .fin y k f =>
    if k = 0 then
      if m = 0 then (.nan false, Fl.inv) else (.inf (x != y), Fl.dz)
    else if m = 0 then (.fin (x != y) 0 0, 0)
    else
      let sh := 130 + Nat.log2 k
      let n := m <<< sh
      let q := n / k
      (.fin (x != y) (2 * q + (if n % k = 0 then 0 else 1)) (e - f - sh - 1), 0)

/-- The integer square root, one bit at a time from bit `fuel` down. -/
def isqrtFrom : Nat → Nat → Nat → Nat
  | 0, _, r => r
  | b + 1, n, r =>
    let t := r + 2 ^ b
    if t * t ≤ n then isqrtFrom b n t else isqrtFrom b n r

/-- The floor of the square root of n. -/
def isqrt (n : Nat) : Nat := isqrtFrom (Nat.log2 n / 2 + 1) n 0

/-- A square root in the same sense as `div` (R100): invalid below zero, and the root of a signed zero is that zero. -/
def sqrt (a : Val) : Val × Fl :=
  match a with
  | .nan s => (.nan false, (Val.nan s).sigFlag)
  | .inf n => if n then (.nan false, Fl.inv) else (.inf false, 0)
  | .fin n m e =>
    if m = 0 then (.fin n 0 0, 0)
    else if n then (.nan false, Fl.inv)
    else
      let odd := e.emod 2
      let w := (m <<< (260 + odd.toNat))
      let r := isqrt w
      (.fin false (2 * r + (if r * r = w then 0 else 1)) ((e - 260 - odd) / 2 - 1), 0)

/-- a < b for numbers; a NaN is unordered and answers no. -/
def lt (a b : Val) : Bool :=
  match a, b with
  | .nan _, _ => false
  | _, .nan _ => false
  | .inf x, .inf y => x && !y
  | .inf x, _ => x
  | _, .inf y => !y
  | .fin x m e, .fin y k f =>
    let g := min e f
    decide (scaled x m e g < scaled y k f g)

/-- a = b for numbers (both zeros are equal); a NaN is unordered and answers no. -/
def eq (a b : Val) : Bool :=
  match a, b with
  | .nan _, _ => false
  | _, .nan _ => false
  | .inf x, .inf y => x == y
  | .inf _, _ => false
  | _, .inf _ => false
  | .fin x m e, .fin y k f =>
    let g := min e f
    decide (scaled x m e g = scaled y k f g)

def le (a b : Val) : Bool := lt a b || eq a b

/-- m * 2^e rounded to an integer, ties to even (R94). -/
def rne (m : Nat) (e : Int) : Nat :=
  if 0 ≤ e then m <<< e.toNat
  else
    let s := (-e).toNat
    let q := m >>> s
    let r := m - (q <<< s)
    let half := 2 ^ s
    if 2 * r < half then q
    else if half < 2 * r then q + 1
    else if q % 2 = 0 then q else q + 1

end Val

/-- A floating-point format (R90): exponent bits, stored mantissa bits, bias, largest finite encoding, and whether it
has infinities and signalling NaNs (R91, R92). -/
structure Fmt where
  eb : Nat
  mb : Nat
  bias : Nat
  maxEnc : Nat
  hasInf : Bool
  hasSig : Bool
  deriving DecidableEq, Repr

namespace Fmt

def fp64 : Fmt := ⟨11, 52, 1023, 0x7FEFFFFFFFFFFFFF, true, true⟩
def fp32 : Fmt := ⟨8, 23, 127, 0x7F7FFFFF, true, true⟩
def fp16 : Fmt := ⟨5, 10, 15, 0x7BFF, true, true⟩
def bf16 : Fmt := ⟨8, 7, 127, 0x7F7F, true, true⟩
def e4m3 : Fmt := ⟨4, 3, 7, 0x7E, false, false⟩
def e5m2 : Fmt := ⟨5, 2, 15, 0x7B, true, false⟩

/-- The canonical quiet NaN (R93). -/
def qnan (f : Fmt) : Nat :=
  if f.hasInf then (2 ^ f.eb - 1) * 2 ^ f.mb + 2 ^ (f.mb - 1) else 0x7F

/-- Positive infinity; for E4M3 its overflow encoding S.1111.111 (R98). -/
def infEnc (f : Fmt) : Nat := if f.hasInf then f.maxEnc + 1 else 0x7F

/-- The exponent of the least subnormal. -/
def emin (f : Fmt) : Int := 1 - (f.bias : Int) - f.mb

/-- The value an encoding stands for (R90 to R92, R114). -/
def decode (f : Fmt) (w : Nat) : Val :=
  let sgn := w.testBit (f.eb + f.mb)
  let x := (w >>> f.mb) % 2 ^ f.eb
  let t := w % 2 ^ f.mb
  if f.hasInf && x == 2 ^ f.eb - 1 then
    if t = 0 then .inf sgn else .nan (f.hasSig && !(t.testBit (f.mb - 1)))
  else if !f.hasInf && x == 2 ^ f.eb - 1 && t == 2 ^ f.mb - 1 then .nan false
  else if x = 0 then .fin sgn t f.emin
  else .fin sgn (t + 2 ^ f.mb) (f.emin + x - 1)

/-- The encoding of a non-zero magnitude m * 2^e without its sign, before the overflow check, by the one rounding of
R94 into normals and subnormals (R95). -/
def mag (f : Fmt) (m : Nat) (e : Int) : Nat :=
  let ue := max (e + Nat.log2 m - f.mb) f.emin
  (ue - f.emin).toNat * 2 ^ f.mb + Val.rne m (e - ue)

/-- The magnitude is below the smallest normal (R99). -/
def tiny (f : Fmt) (m : Nat) (e : Int) : Bool := decide (e + Nat.log2 m < f.emin + f.mb)

/-- The rounding changed the value. -/
def inexact (f : Fmt) (m : Nat) (e : Int) : Bool :=
  let ue := max (e + Nat.log2 m - f.mb) f.emin
  decide (e < ue) && !(m % 2 ^ (ue - e).toNat == 0)

def withSign (f : Fmt) (n : Bool) (w : Nat) : Nat := if n then w + 2 ^ (f.eb + f.mb) else w

/-- Rounding a value into the format (R93 to R99, R104): the encoding and the flags it sets. -/
def round (f : Fmt) (v : Val) : Nat × Fl :=
  match v with
  | .nan s => (f.qnan, if s then Fl.inv else 0)
  | .inf n => (f.withSign n f.infEnc, if f.hasInf then 0 else Fl.ovf)
  | .fin n m e =>
    if m = 0 then (f.withSign n 0, 0)
    else
      let w := f.mag m e
      if f.maxEnc < w then (f.withSign n f.infEnc, Fl.ovf)
      else (f.withSign n w, if f.tiny m e && f.inexact m e then Fl.unf else 0)

end Fmt

/-- Conversion to a two's-complement integer of n bits (R102): the encoding and its flags. -/
def roundInt (n : Nat) (v : Val) : Nat × Fl :=
  let hi := 2 ^ (n - 1) - 1
  let lo := 2 ^ (n - 1)
  match v with
  | .nan _ => (0, Fl.inv)
  | .inf s => (if s then lo else hi, Fl.inv)
  | .fin s m e =>
    let k := Val.rne m e
    if s then (if lo < k then (lo, Fl.sat) else ((2 ^ n - k) % 2 ^ n, 0))
    else (if hi < k then (hi, Fl.sat) else (k, 0))

/-- The value of a two's-complement encoding of n bits. -/
def decodeInt (n w : Nat) : Val :=
  let x := w % 2 ^ n
  if x < 2 ^ (n - 1) then .fin false x 0 else .fin true (2 ^ n - x) 0

/-- Whether a format code of R89 is an integer format. -/
def fmtIsInt (c : Nat) : Bool := c == 6 || c == 7

/-- The floating-point format of a code (FP64 for a code that is none: such codes are refused before use). -/
def fmtOf : Nat → Fmt
  | 1 => Fmt.fp32
  | 2 => Fmt.fp16
  | 3 => Fmt.bf16
  | 4 => Fmt.e4m3
  | 5 => Fmt.e5m2
  | _ => Fmt.fp64

/-- Element size in bytes (R89). -/
def fmtSize : Nat → Nat
  | 0 => 8
  | 1 => 4
  | 2 => 2
  | 3 => 2
  | 7 => 2
  | _ => 1

/-- Rows of a tile (R41). -/
def fmtRows : Nat → Nat
  | 0 => 16
  | 1 => 32
  | 2 => 32
  | 3 => 32
  | 7 => 32
  | _ => 64

/-- Columns of a tile (R41). -/
def fmtCols : Nat → Nat
  | 0 => 32
  | 1 => 32
  | _ => 64

/-- Bytes of a tile row (R41). -/
def fmtRowBytes (c : Nat) : Nat := fmtCols c * fmtSize c

/-- The value of an element of a format code (R89 to R92). -/
def decodeFmt (c w : Nat) : Val :=
  if c = 6 then decodeInt 8 w else if c = 7 then decodeInt 16 w else (fmtOf c).decode w

/-- Rounding into a format code (R94 to R104). -/
def roundFmt (c : Nat) (v : Val) : Nat × Fl :=
  if c = 6 then roundInt 8 v else if c = 7 then roundInt 16 v else (fmtOf c).round v

/-- The canonical quiet NaN of a format code, or 0 for an integer format (R112). -/
def nanFmt (c : Nat) : Nat := if fmtIsInt c then 0 else (fmtOf c).qnan

/-- FP64 arithmetic on encodings, one rounding each (R94). -/
def f64 (v : Val) : Nat := (Fmt.fp64.round v).1
def v64 (w : Nat) : Val := Fmt.fp64.decode w
def v32 (w : Nat) : Val := Fmt.fp32.decode w

/-- A positive, finite, normal FP32 value (R112). -/
def scaleOk (w : Nat) : Bool := decide (0x00800000 ≤ w) && decide (w ≤ 0x7F7FFFFF)

end Sys2Proof.Machine
end

