-- ==== Sys2Proof/Machine/Map.lean ====
section
/-! DEFINITION. Sparse maps by number, byte memories in one canonical form, and bit fields. -/

namespace Sys2Proof.Machine

/-- A sparse map by number: keys strictly rising; an unlisted key reads as its default. -/
abbrev PMap (α : Type) := List (Nat × α)

/-- The value at a key. -/
def PMap.get {α : Type} (d : α) : PMap α → Nat → α
  | [], _ => d
  | (k, v) :: m, x => if k = x then v else if x < k then d else PMap.get d m x

/-- The value at a key, if the map lists it. -/
def PMap.find {α : Type} : PMap α → Nat → Option α
  | [], _ => none
  | (k, v) :: m, x => if k = x then some v else if x < k then none else PMap.find m x

/-- The map with one key set. -/
def PMap.put {α : Type} : PMap α → Nat → α → PMap α
  | [], x, v => [(x, v)]
  | (k, w) :: m, x, v =>
    if k = x then (x, v) :: m else if x < k then (x, v) :: (k, w) :: m else (k, w) :: PMap.put m x v

/-- The map without a key. -/
def PMap.del {α : Type} : PMap α → Nat → PMap α
  | [], _ => []
  | (k, w) :: m, x => if k = x then m else if x < k then (k, w) :: m else (k, w) :: PMap.del m x

/-- A byte memory: addresses strictly rising, and no entry equal to 0, which an unlisted address reads as
(DESIGN CHOICE, assumption 2). -/
abbrev Memory := List (Nat × BitVec 8)

namespace Memory

/-- One byte. -/
def byte : Memory → Nat → BitVec 8
  | [], _ => 0
  | (k, v) :: m, x => if k = x then v else if x < k then 0 else byte m x

/-- One byte cleared. -/
def clear : Memory → Nat → Memory
  | [], _ => []
  | (k, v) :: m, x => if k = x then m else if x < k then (k, v) :: m else (k, v) :: clear m x

/-- One byte set, whatever its value. -/
def insert : Memory → Nat → BitVec 8 → Memory
  | [], x, v => [(x, v)]
  | (k, w) :: m, x, v =>
    if k = x then (x, v) :: m else if x < k then (x, v) :: (k, w) :: m else (k, w) :: insert m x v

/-- One byte written; writing what an unlisted address reads as removes the entry. -/
def set (m : Memory) (x : Nat) (v : BitVec 8) : Memory := if v = 0 then clear m x else insert m x v

/-- Addresses strictly rise from `lo` on and no entry is 0. -/
def wfFrom : Memory → Nat → Bool
  | [], _ => true
  | (k, v) :: m, lo => decide (lo ≤ k) && !(v == 0) && wfFrom m (k + 1)

/-- The canonical form. -/
def wf (m : Memory) : Bool := wfFrom m 0

/-- n bytes from an address as one little-endian number (R10). -/
def read (m : Memory) (a : Nat) : Nat → Nat
  | 0 => 0
  | n + 1 => (byte m a).toNat + 256 * read m (a + 1) n

/-- A number written as n little-endian bytes from an address (R10). -/
def write (m : Memory) (a : Nat) : Nat → Nat → Memory
  | 0, _ => m
  | n + 1, v => write (set m a (BitVec.ofNat 8 (v % 256))) (a + 1) n (v / 256)

/-- n bytes from an address as a list. -/
def bytes (m : Memory) (a : Nat) : Nat → List (BitVec 8)
  | 0 => []
  | n + 1 => byte m a :: bytes m (a + 1) n

/-- A list of bytes written from an address. -/
def writeBytes (m : Memory) (a : Nat) : List (BitVec 8) → Memory
  | [] => m
  | b :: bs => writeBytes (set m a b) (a + 1) bs

/-- Every byte from `lo` up to, not including, `hi` cleared. -/
def clearRange (m : Memory) (lo hi : Nat) : Memory := m.filter fun c => decide (c.1 < lo) || decide (hi ≤ c.1)

end Memory

/-- Bits lo .. lo + w - 1 of a number. -/
def bits (x lo w : Nat) : Nat := (x >>> lo) % 2 ^ w

/-- Bit i of a number as a flag. -/
def bit (x i : Nat) : Bool := bits x i 1 == 1

/-- A flag as a number. -/
def b2n (b : Bool) : Nat := if b then 1 else 0

/-- A number with bits lo .. lo + w - 1 replaced. -/
def setBits (x lo w v : Nat) : Nat := x - bits x lo w <<< lo + (v % 2 ^ w) <<< lo

/-- The numbers 0 to n - 1, as a structural recursion the kernel evaluates. -/
def upTo : Nat → List Nat
  | 0 => []
  | n + 1 => upTo n ++ [n]

/-- The sum of a list. -/
def sumL (l : List Nat) : Nat := l.foldl (· + ·) 0

/-- A number, saturated at a largest value. -/
def satAt (hi n : Nat) : Nat := if hi < n then hi else n

/-- Bytes, least significant first, of a number. -/
def toBytes : Nat → Nat → List (BitVec 8)
  | 0, _ => []
  | n + 1, v => BitVec.ofNat 8 (v % 256) :: toBytes n (v / 256)

/-- A number from bytes, least significant first. -/
def ofBytes : List (BitVec 8) → Nat
  | [] => 0
  | b :: bs => b.toNat + 256 * ofBytes bs

end Sys2Proof.Machine
end

