-- ==== Sys2Proof/Machine/State.lean ====
section
/-! DEFINITION. The state of the Greant as plain data, its reset value, and the reasons a command can stop. -/

namespace Sys2Proof.Machine

/-- The block answers every command with a next state: nothing in the manual stops the machine without a described
effect, so there is no fault. -/
inductive Fault where
  deriving DecidableEq, Repr

/-- Why a command is refused. -/
inductive Refusal where
  /-- Raised by exec's arm of a command that has no meaning yet. Safe: it only stops. -/
  | notModelled (mnemonic : String)
  deriving DecidableEq, Repr

/-- What the last access or request answered to its sender (R12, R465, R506, R514, R520). -/
inductive Rsp where
  | none
  | word (v : BitVec 64)
  /-- an access fault on the requesting core (R464, R465, R520) -/
  | accessFault
  /-- a PCIe completion with Unsupported Request (R483) -/
  | unsupported
  /-- poison returned by memory (R323) -/
  | poison
  /-- response of a critical command (R506): CODE, COUNTER, STATUS, tag -/
  | command (code counter status tag : Nat)
  /-- a request dropped unanswered (R506, R514) -/
  | dropped
  /-- the constable answers BUSY (R500) -/
  | busy
  /-- bytes returned (R487, R514) -/
  | bytes (b : List Byte)
  deriving DecidableEq, Repr

/-- A tile: the 32-byte header and the 4,096-byte payload (R41, R43). -/
structure Tile where
  hdr : BitVec 256
  pay : BitVec 32768
  deriving DecidableEq, Repr

/-- What a command keeps of one input operand: tiles that have arrived and passed their checks, tiles used for the
last time, tiles read from memory and not yet used for the last time (the oldest first), the header of the first tile,
the largest valid counts of its last tile row or column, along the group and along the depth, and the lines requested for
the next tile and not yet answered, each of which holds a context of the core (R50, R59, R109, R130, R139, R333). -/
structure Flow where
  got : Nat := 0
  used : Nat := 0
  buf : List Tile := []
  first : Option (BitVec 256) := none
  ext : Nat := 0
  dep : Nat := 0
  req : List Nat := []
  deriving DecidableEq, Repr

/-- A command record in a queue or in progress (R56, R72). -/
structure Cmd where
  r : BitVec 512
  /-- address of the record (R70) -/
  va : Nat := 0
  begun : Bool := false
  /-- every output tile is complete (R77); the commit is due -/
  complete : Bool := false
  a : Flow := {}
  b : Flow := {}
  /-- output tiles written -/
  out : Nat := 0
  /-- block steps of an MMA, or blocks of an ELEM, already issued -/
  steps : List Nat := []
  /-- versions selected at begin for OPD0, OPD1, OPD2 (R252); 256 where the operand is not versioned -/
  ver : List Nat := []
  /-- TENSOR_ID that the tiles of OPD0, OPD1, OPD2 must carry (R253) -/
  vtid : List Nat := []
  /-- scale entries read at begin (R111): FP32 encodings -/
  scales : List Nat := []
  /-- the station's counter at the first and after the last issue (R562) -/
  cnt0 : Nat := 0
  cnt1 : Nat := 0
  /-- a CLEAR hit the counter while the command ran: its COUNT is undefined (R568) -/
  cleared : Bool := false
  /-- AUX of the END record: pair class and passes of a CUBE command (R556) -/
  aux : Nat := 0
  tBegin : Nat := 0
  /-- tiles sent to a remote P8 port and not yet acknowledged (R77) -/
  acks : Nat := 0
  /-- the record is skipped in a replay (R434) -/
  skip : Bool := false
  /-- the record came from a detour (R377) -/
  det : Bool := false
  /-- WSS, GSS and USS of an UPDATE (R274) -/
  sums : List (BitVec 64) := [0, 0, 0]
  /-- the begin waits, or waited, for a vector-unit wake (R557) -/
  woke : Bool := false
  /-- cycles it could not issue for want of a credit or a context (R556) -/
  starve : Nat := 0
  deriving DecidableEq, Repr

/-- The 2-bit state tag of a tally element (R143, R145). -/
inductive ZTag where
  | empty | negzero | other
  deriving DecidableEq, Repr

/-- A tally element: sum and compensation in the word format, state tag, terms received (R143 to R145). -/
structure Cell where
  s : BitVec 64 := 0
  c : BitVec 64 := 0
  z : ZTag := .empty
  n : Nat := 0
  deriving DecidableEq, Repr

/-- A tally group (R136 to R139). -/
structure Group where
  wide : Bool
  br : Nat
  bc : Nat
  /-- first tally tile of the ring -/
  first : Nat
  rows : Nat := 0
  cols : Nat := 0
  /-- WVER of the first B tile of the group's first command (R160) and the scale indices (R108) -/
  wver : Nat := 0
  scaleA : Nat := 0
  scaleB : Nat := 0
  deriving DecidableEq, Repr

/-- What the sequencer remembers at dispatch of a CUBE group (R138, R154). -/
structure GroupDecl where
  wide : Bool
  br : Nat
  bc : Nat
  deriving DecidableEq, Repr

/-- A port: a ring of tile slots (R57, R59). `rd` is the oldest tile's place in the ring, `count` the tiles held,
`credits` those the producer holds, `returning` those on their way back (R59), `checked` the leading tiles whose
checks have passed (R50), `srcs` the SRC endpoints of a P8's tiles. -/
structure Port where
  rd : Nat := 0
  count : Nat := 0
  credits : Nat
  returning : Nat := 0
  checked : Nat := 0
  srcs : List Nat := []
  deriving DecidableEq, Repr

/-- A kernel that VECT runs (R180, R181). -/
structure Kern where
  step : Nat
  pc : Nat
  w0 : Tile
  w1 : Tile
  wo : BitVec 32768
  /-- SCALE_IDX and WVER of the first OPD0 tile (R181) -/
  scale : Nat
  wver : Nat
  /-- the step's input tiles are still held, and the kernel awaits VEND -/
  running : Bool
  deriving DecidableEq, Repr

/-- A physical core (R22, R23): command queues of 32 records, scratch, ports, tally, vector unit. Keys of `ports` are
port numbers; a missing one is the reset port of its depth. -/
structure Core where
  ld : List Cmd := []
  cu : List Cmd := []
  dr : List Cmd := []
  ve : List Cmd := []
  st : List Cmd := []
  slots : PMap Tile := []
  /-- the 2,080 bytes of scratch reserved to the hand -/
  scratchTop : List Host.Cell := []
  ports : PMap Port := []
  /-- credits of the core's own P8 that it holds itself (R60) -/
  p8own : Nat := 8
  /-- grants of P8 in force: producer endpoint, credits (R60) -/
  grants : PMap Nat := []
  /-- producers that were sent a recall that has not come back (R60) -/
  recalls : List Nat := []
  tally : PMap Cell := []
  /-- term counters of the tally rows: tile * 32 + row (R143) -/
  rows : PMap Nat := []
  grp : Option Group := none
  /-- groups that are complete and wait for the commit of their last command (R137) -/
  closing : List Group := []
  handed : List Group := []
  /-- next tally tile of the ring (R137) -/
  ringNext : Nat := 0
  /-- tally tiles of the oldest handed-over group that DRAIN has read whole (R162) -/
  drained : List Nat := []
  /-- tally tiles whose credit is on its way back to CUBE (R162) -/
  tallyRet : List Nat := []
  /-- phase of the cube's load: 0 steady, 1 gap filling, 2 ramping down, 3 ramping up (R164 to R166) -/
  ramp : Nat := 0
  vreg : BitVec 16384 := 0
  x : PMap W32 := []
  vl : Nat := 0
  et : Nat := 0
  lg : Nat := 0
  kern : Option Kern := none
  /-- stations stopped by an escalation (R54), a page fault (R303) or an illegal instruction (R187) -/
  halted : List Nat := []
  deriving DecidableEq, Repr

/-- A mirror binding a hand serves (R262): Mill, mirror, counter, the value last sent. -/
structure Bind where
  mill : Nat
  mir : Nat
  ctr : Nat
  sent : Option W32 := none
  deriving DecidableEq, Repr

/-- A detour in progress (R377): next address to fetch, records still to fetch, records fetched, records still to
dispatch, the collective's GROUP and TAG, and whether the stream's SEQ record in hand has written its BEGIN. -/
structure Detour where
  va : Nat
  toFetch : Nat
  buf : List (Nat × BitVec 512) := []
  left : Nat
  grp : Nat
  tag : Nat
  begun : Bool := false
  deriving DecidableEq, Repr

/-- What the sequencer keeps since a checkpoint slot was written (R433). -/
structure Since where
  /-- remote increments received, per counter -/
  inc : PMap Nat := []
  signals : Nat := 0
  colls : Nat := 0
  deriving DecidableEq, Repr

/-- A problem's data as read from memory (R201, R216 to R218): stored entries of P and A as row, column and FP64
encoding, the vectors, the permutation, the stages' sizes. -/
structure Qp where
  n : Nat := 0
  m : Nat := 0
  p : List (Nat × Nat × Nat) := []
  a : List (Nat × Nat × Nat) := []
  q : List Nat := []
  l : List Nat := []
  u : List Nat := []
  perm : List Nat := []
  stages : List (Nat × Nat) := []
  deriving DecidableEq, Repr

/-- An iterate (R203): x, z, the multipliers y of equality rows, slacks and duals. FP64 encodings; a missing side
holds 0. -/
structure Iter where
  x : List Nat := []
  z : List Nat := []
  ye : List Nat := []
  sl : List Nat := []
  ll : List Nat := []
  su : List Nat := []
  lu : List Nat := []
  deriving DecidableEq, Repr

/-- A factorisation (R204, R208): columns of the working matrix, of L, and D, all of the permuted matrix; the Θ it was
formed from; the columns that are factored; the pivots replaced. -/
structure Fact where
  w : List (List Nat) := []
  l : List (List Nat) := []
  d : List Nat := []
  th : List Nat := []
  dmax : Nat := 0
  done : List Nat := []
  pert : Nat := 0
  deriving DecidableEq, Repr

/-- A problem of a running SOLVE or GRAD (R205, R221). FP64 values are encodings. -/
structure Prob where
  /-- index of the problem within the command (R224) -/
  ix : Nat
  desc : BitVec 2048
  qp : Qp := {}
  /-- 0 to be read, 1 at the top of the loop with its measures, 5 forming the matrix, 2 in the columns of a factorisation, 3
  at the affine step, 6 at the combined step, 7 at the update, 4 result fixed -/
  phase : Nat := 0
  /-- the working vectors by number, the vector phase the engine stands in, and its elements done (R213) -/
  vecs : PMap (List Nat) := []
  vp : Nat := 0
  vdone : Nat := 0
  /-- the deadline passed while the Bell held the problem outside a factorisation phase (R233) -/
  heldLate : Bool := false
  it : Nat := 0
  iter : Iter := {}
  fact : Fact := {}
  /-- a factor of this solve is complete -/
  hasFact : Bool := false
  /-- the fallback (R223): x and y -/
  fbx : List Nat := []
  fby : List Nat := []
  eps : Nat := 0x7FF0000000000000
  mu : Nat := 0
  perturb : Nat := 0
  tBegin : Nat := 0
  /-- absolute deadline, 0 for none (R230) -/
  deadline : Nat := 0
  status : Nat := 0
  /-- FLAGS of R221 from the start, and those that the fallback adds -/
  flags : Nat := 0
  fbFlags : Nat := 0
  /-- this rank's steps in schedule mode (R219), and the ranks -/
  sched : List (BitVec 128) := []
  ranks : Nat := 1
  /-- physical address of tile 0 of the slot, if the slot could be read, and the tiles of the STATE area -/
  slot : Option Nat := none
  tiles : Nat := 1
  /-- the run that a schedule-mode group's tokens name: the slot's reference and the SOLVEs of it that have committed -/
  run : Nat := 0
  deriving DecidableEq, Repr

/-- What the engine keeps in a slot's STATE area beyond the result record (R220), whose layout the manual does not
give: the stored solution, final slacks and duals, the retained factor with its final Θ, and the iterate of a problem that
waits its turn in a rotation (R211). -/
structure Slot where
  x : List Nat := []
  y : List Nat := []
  iter : Iter := {}
  fact : Fact := {}
  hasFactor : Bool := false
  work : Iter := {}
  deriving DecidableEq, Repr

/-- A hand: its sequencer, pivot engine, XCHG station and trace ring. -/
structure Hand where
  /-- fetch buffer: address and record, at most 64 (R67) -/
  buf : List (Nat × BitVec 512) := []
  /-- the hand has a stream in the running deal (R65) -/
  stream : Bool := false
  ended : Bool := false
  /-- a HOLD in force (R81) -/
  held : Option (Nat × BitVec 512) := none
  detour : Option Detour := none
  /-- records of a detour not yet committed (R377) -/
  detLeft : Nat := 0
  /-- the record SEQ is executing has written its BEGIN trace record (R558) -/
  seqBegun : Bool := false
  /-- a GRANT or PORTS in progress: producers still to answer -/
  waitAck : List Nat := []
  pq : List Cmd := []
  xq : List Cmd := []
  /-- open group and handed-over groups of each logical core, as dispatched (R138, R154) -/
  opens : PMap GroupDecl := []
  handed : PMap (List GroupDecl) := []
  /-- open-port masks by logical core (R58); unlisted: all nine open -/
  mask : PMap Nat := []
  /-- epoch numbers passed since the last package epoch boundary (R84) -/
  epochs : List Nat := []
  /-- timebase time of the last commit, for the hang watch (R71) -/
  lastCommit : Nat := 0
  sinceLast : Since := {}
  sinceEpoch : Since := {}
  /-- P8 peers since the last checkpoint (R433) and whether there were more than 8 (R435) -/
  peers : List Nat := []
  morePeers : Bool := false
  /-- SIGNAL and COLL records still to be skipped in a replay (R434) -/
  skipSig : Nat := 0
  skipColl : Nat := 0
  writesLast : Nat := 0
  writesEpoch : Nat := 0
  /-- the slots LAST and EPOCH hold a checkpoint of the stream that runs; where a replay starts else: the contents of such a slot
  for the stream's entry, or for the resume table of a variant switch (R434, R441) -/
  hasLast : Bool := false
  hasEpoch : Bool := false
  base : Nat := 0
  /-- credits its producers hold: unit * 16384 + destination core (R60) -/
  p8held : PMap Nat := []
  /-- producer units of the hand that hold a grant: unit * 16384 + destination core (R60) -/
  p8grants : List Nat := []
  binds : List Bind := []
  /-- on-chip trace ring, next RSEQ, losses not yet announced (R561) -/
  ring : List (BitVec 256) := []
  rseq : Nat := 0
  lostNew : Nat := 0
  /-- problems of the running PIVOT command, and the one whose turn it is (R211) -/
  probs : List Prob := []
  turn : Nat := 0
  /-- schedule step this rank stands at, whether its barrier token is out, whether its list has ended (R212, R219) -/
  schedAt : Nat := 0
  syncSent : Bool := false
  schedDone : Bool := false
  /-- tokens received: kind * 16 + rank, columns, run and iteration (R212); schedule-mode SOLVEs committed, by slot reference -/
  tokens : List (Nat × Nat × Nat) := []
  solves : PMap Nat := []
  /-- pivot local store (R199, R211): the problems whose working sets lie in its two frames; whether the engine has worked
  since the store was scrubbed -/
  frames : List Nat := []
  stored : Bool := false
  /-- stations of the hand stopped: the sequencer (9), PIVOT (6), XCHG (7) (R54, R70, R303) -/
  halted : List Nat := []
  /-- the hand has reported done (R81) -/
  reported : Bool := false
  /-- HAND.SEQ.FETCH was written: the fetch buffer is discarded on resume (R548) -/
  discard : Bool := false
  /-- time of the last drain write's start (R561) -/
  drainT : Nat := 0
  /-- AUX of the next RESUME record: 1 replay from LAST, 2 from EPOCH, 3 variant switch (R556) -/
  resumeAux : Nat := 0
  deriving DecidableEq, Repr

/-- A Mill (R260 to R281). -/
structure Mill where
  fetch : Nat := 0
  buf : List (Nat × BitVec 512) := []
  stream : Bool := false
  ended : Bool := false
  /-- stopped: no further record starts (R264); `broken`: nor does the UPDATE at work go on, an access or tile of it failed -/
  halted : Bool := false
  broken : Bool := false
  q : List Cmd := []
  loops : PMap Nat := []
  utab : Nat := 0
  rtab : Nat := 0
  tele : Nat := 0
  nlayers : Nat := 0
  tlog : Nat := 0
  tabled : Bool := false
  /-- first values of bound mirrors have arrived (R262) -/
  mirrored : List Nat := []
  writes : Nat := 0
  /-- the STEP slot holds a checkpoint of the stream that runs; where a replay starts else (R434, R441) -/
  hasStep : Bool := false
  base : Nat := 0
  ring : List (BitVec 256) := []
  rseq : Nat := 0
  lostNew : Nat := 0
  /-- records lost so far: LOST of the ring record (R565) -/
  lostAll : Nat := 0
  drainT : Nat := 0
  lastCommit : Nat := 0
  reported : Bool := false
  /-- time since which the head UPDATE has been pinned (R279) -/
  pinT : Option Nat := none
  /-- AUX of the next RESUME record (R556) -/
  resumeAux : Nat := 0
  deriving DecidableEq, Repr

/-- A granary line (R290 to R293): line number (physical address / 128), set of the suit (slice * 1536 + set of the slice),
way, valid and dirty bits of its four sectors, age, class, whether a prefetch brought it and has not been met, whether its
fill is in flight. `bad` marks valid sectors that hold poison (R323). `State.mem` holds the bytes that every access meets,
those of a valid sector included; `under` holds the bytes that HBM itself still has under a dirty sector. -/
structure GLine where
  line : Nat
  set : Nat
  way : Nat
  valid : BitVec 4
  dirty : BitVec 4
  bad : BitVec 4 := 0
  under : BitVec 1024 := 0
  age : Nat
  cls : Nat
  pf : Bool := false
  filling : Bool := false
  deriving DecidableEq, Repr

/-- A stream detector (R317): its slot among the suit's 4,096 (128 to a slice), the tensor, the virtual line of the latest
demand request, the stride in lines (0 while only one request has been seen), requests seen at that stride up to 3, lines
prefetched ahead, the frame of the page it stands in, and the next page with its frame, if a demand request has reached the
boundary and attached them (R315): none for a page that a prefetch may not read (R316). -/
structure Det where
  slot : Nat
  tid : Nat
  last : Nat
  stride : Int
  hits : Nat
  ahead : Nat := 0
  frame : Nat
  next : Option (Nat × Option Nat) := none
  deriving DecidableEq, Repr

/-- A suit's fabric, granary and controllers. -/
structure Suit where
  /-- rails on (R440, R580) -/
  powered : Bool := false
  gran : List GLine := []
  dets : List Det := []
  /-- mapped-out pseudo-channels, in the order of their map-outs -/
  outPcs : List Nat := []
  /-- a pseudo-channel whose map-out waits for the suit's cut (R328) -/
  mapping : Option Nat := none
  /-- uncorrectable errors of each pseudo-channel (R324) -/
  ueCounts : PMap Nat := []
  /-- hand clock in MHz, cube duty cap, ticks at the floor, a throttle threshold holds (R582, R585) -/
  clock : Nat := 1200
  cap : Nat := 8
  floorTicks : Nat := 0
  throttled : Bool := false
  deriving DecidableEq, Repr

/-- One direction of a link: of a bridge, by the bridge end that receives; of a Manor link, by its suit and whether the suit's
end sends (R361). Replays of the flit at hand, spares used per group, whether the link carries nothing further, whether the one
retrain attempt has been made (R426). -/
structure Link where
  tries : Nat := 0
  spared : PMap Nat := []
  down : Bool := false
  retrained : Bool := false
  deriving DecidableEq, Repr

/-- A message of the control virtual channel or a data message (R349). -/
inductive Msg where
  /-- a tile for a core's P8 -/
  | p8tile (t : Tile)
  /-- a P8 credit, or a grant of n credits, for the destination core (R59, R60) -/
  | p8credit (core n : Nat) (grant : Bool)
  | p8recall (core : Nat)
  /-- a producer acknowledges a grant for the core (R60) -/
  | p8ack (core : Nat)
  /-- a core acknowledges a P8 tile (R77) -/
  | tileAck
  | signal (ctr : Nat) (amt : Nat)
  | mirror (m : Nat) (v : W32)
  /-- a member joins a collective: GROUP, TAG, CRC of its descriptor, hand (R369) -/
  | join (g tag : Nat) (crc : Nat) (h : Nat)
  | prune (g tag : Nat) (hands : List Nat)
  /-- sync of columns (0), decision (1), abort (2), barrier (3) or end of a list (4) token of a schedule-mode group, with its
  run and iteration (R212, R219, R232) -/
  | token (kind rank col tag : Nat)
  /-- the dealer's detour packet: address, records, GROUP, TAG (R377) -/
  | detour (va n g tag : Nat)
  /-- bytes of a data message: length of the message, offset (R352, R356) -/
  | data (id len off : Nat) (bytes : List Byte)
  | other
  deriving DecidableEq, Repr

/-- A packet in flight (R352). `pos` is the router its head stands at, as a hand index, or 640 + s for the Manor side of suit
s's link. `way` lists the input buffers that hold its flits, the head's first, each with the number of flits (R350): buffer
q * 1024 + p is that of place q's input from place p, q * 1024 + 1023 that of its local port. `sent` flits have left the
packet's unit, or the replicating router that feeds it; `sunk` flits have reached its destination, or every branch. `fed` is the
number of the replication that feeds a copy, `split` that of the packet's own at its router (R358), 0 for none. `arrived` says
that the packet has been delivered whole to its destination unit. -/
structure Packet where
  dest : BitVec 16
  src : BitVec 16
  vc : BitVec 2
  ord : Bool
  mcast : Bool := false
  /-- FLAGS.LOGICAL: UNITS of the mask names logical cores (R357) -/
  logical : Bool := false
  /-- FLAGS.LAST: for trace only (R356) -/
  last : Bool := true
  mask : BitVec 64 := 0
  paylen : Nat := 0
  msg : Msg
  pos : Nat
  way : List (Nat × Nat) := []
  sent : Nat := 0
  sunk : Nat := 0
  fed : Nat := 0
  split : Nat := 0
  arrived : Bool := false
  deriving DecidableEq, Repr

/-- A data message being received at an endpoint (R356): destination, source, identifier, length, bytes so far. -/
structure Inbox where
  dest : Nat
  src : Nat
  id : Nat
  len : Nat
  got : Nat
  bytes : PMap Byte
  done : Bool := false
  deriving DecidableEq, Repr

/-- A member's join (R369). -/
structure Join where
  hand : Nat
  time : Nat
  crc : Nat
  deriving DecidableEq, Repr

/-- A collective the dealer holds (R369 to R391). -/
structure Coll where
  g : Nat
  tag : Nat
  desc : BitVec 2048
  joins : List Join := []
  malformed : Bool := false
  aborted : Bool := false
  admitted : Bool := false
  vector : Bool := false
  /-- FLAGS of R390 -/
  flags : Nat := 0
  tFull : Option Nat := none
  tAdmit : Nat := 0
  /-- work units done by a collective's data rows -/
  doneWork : List (Nat × Nat) := []
  dropped : PMap Nat := []
  pruned : List Nat := []
  timedOut : List Nat := []
  /-- slots reserved at each bridge end it uses -/
  slots : Nat := 0
  /-- the slots reserved at each bridge end, by number, in order (R373, R386) -/
  places : PMap (List Nat) := []
  /-- ring of the suits in service at the first join: ranks count no other suit (R417) -/
  ring : List Nat := [0, 1, 3, 2]
  /-- time that cuts have paused its timers, in all and when it was fully joined (R375, R391) -/
  paused : Nat := 0
  pausedFull : Nat := 0
  deriving DecidableEq, Repr

/-- A cut of the Bell (R444 to R448): scope 0 package, 1 suit, 2 hand; its suit, hand, source, start. -/
structure Cut where
  scope : Nat
  suit : Nat
  hand : Nat
  source : Nat
  t0 : Nat
  complete : Bool := false
  /-- a resume is held until the cut completes (R448) -/
  resume : Bool := false
  deriving DecidableEq, Repr

/-- The Bell: cuts in progress or held, units with the marker, units stopped. -/
structure Bell where
  cuts : List Cut := []
  marked : List Nat := []
  stopped : List Nat := []
  /-- time at which the marker reached a unit (R447) -/
  markT : PMap Nat := []
  /-- time at which a unit stopped, for the clocks that pause -/
  stopT : PMap Nat := []
  deriving DecidableEq, Repr

/-- What the module took from the root table (R64), and where the job stands (R39, R40, R553). -/
structure Job where
  run : Bool := false
  scrub : Bool := false
  rootVa : Nat := 0
  tensorVa : Nat := 0
  tensorCount : Nat := 0
  scaleVa : Nat := 0
  traceVa : Nat := 0
  ringLog : Nat := 16
  wrap : Nat := 0
  entries : PMap Nat := []
  startPending : List Nat := []
  /-- a stop is wanted at the package cut: 0 none, 1 now, 2 after the checkpoint at the next step boundary -/
  stopWanted : Nat := 0
  /-- pages the deal mapped, for the scrub (R40) -/
  pages : List Nat := []
  /-- a checkpoint boundary is armed (R454) -/
  ckptArmed : Bool := false
  /-- which of the two NVMe slots is complete (R453), and which is being written -/
  ckptSlots : List Bool := [false, false]
  ckptNext : Nat := 0
  /-- an UPDATE of the step in progress had begun (R442) -/
  rollForward : Bool := false
  /-- pseudo-channels of each suit that were out when the job started (R327) -/
  outAt : PMap Nat := []
  deriving DecidableEq, Repr

/-- The constable's store and state (R495 to R519). -/
structure Sec where
  cmdKey : Option (BitVec 256) := none
  idSeed : Option (BitVec 256) := none
  attSeed : Option (BitVec 256) := none
  minSeq : BitVec 32 := 0
  idNext : Nat := 0
  attGen : Nat := 0
  attNext : Nat := 0
  lastCtr : BitVec 64 := 0
  pwrLoss : BitVec 32 := 0
  alarms : BitVec 32 := 0
  erasePending : Bool := false
  /-- certificate of the attestation key (R500) -/
  attCert : List Byte := []
  keysMade : Nat := 0
  /-- the identity key was found exhausted (R498, R500) -/
  idOut : Bool := false
  /-- policy section (R511) and the owner's values (none: not set) -/
  policy : List Nat := [0, 0, 0, 2, 4, 0, 0]
  owner : List (Option Nat) := [none, none, none, none, none]
  /-- effective DEBUG since power-on (R512) -/
  debug : Nat := 0
  level : Nat := 0
  hold : Bool := false
  erased : Bool := false
  rotating : Bool := false
  tripped : Nat := 0
  /-- alarm levels per sensor that already hold (R516) -/
  holding : List (Nat × Nat) := []
  tagFail : Nat := 0
  rateLimited : Bool := false
  lastFrame : Option Nat := none
  lastAtt : Option Nat := none
  /-- firmware update (R502): bank, LENGTH, SEQ, held first 8 KiB -/
  fw : Option (Nat × Nat × Nat) := none
  fwHeld : List Host.Cell := []
  /-- fences set by FENCE commands: hands, suits (R509) -/
  fencedHands : List Nat := []
  fencedSuits : List Nat := []
  deriving DecidableEq, Repr

/-- Start-up, sideband, JTAG and pins (R470 to R494, R591 to R593). -/
structure Ctl where
  /-- start-up step in progress, 0 before power-on, 9 when ready -/
  step : Nat := 0
  /-- when the step began, as State.clock -/
  stepT : Nat := 0
  config : BitVec 512 := 0
  /-- bank in use and its SEQ -/
  bank : Nat := 0
  bankSeq : Nat := 0
  /-- the flash is read by the fallback read (R470) -/
  fallback : Bool := false
  flashRecovery : Bool := false
  halted : Bool := false
  i3cAddr : Option (BitVec 7) := none
  /-- In-Band Interrupts (SMBALERT# in the SMBus form) so far (R487), enabled or not (DESIGN CHOICE, assumption 103) -/
  ibis : Nat := 0
  /-- the JTAG instruction in force: 0 BYPASS, 1 IDCODE, 2 SAMPLE/PRELOAD, 3 EXTEST, 4 CLAMP, 5 HIGHZ -/
  jtagIr : Nat := 1
  stopNLow : Bool := false
  en : Bool := false
  latchOpen : Bool := false
  mainSwitch : Bool := false
  /-- FAULT_N is low: the hot-swap switch is open by fault or trip (R601) -/
  faultN : Bool := false
  /-- the timebase has started (R29, R477) -/
  timeOn : Bool := false
  /-- suits that the configuration image disables, as a mask (R6) -/
  suitOff : Nat := 0
  /-- module state of R487 -/
  state : Nat := 0
  releaseReq : Option Nat := none
  /-- step results sent on the service UART since power-on: step, whether it failed (R476, R489) -/
  uart : List (Nat × Bool) := []
  /-- "safe to remove" is lit (R592) -/
  safe : Bool := false
  fenceLogged : Nat := 0
  endAtBoundary : Bool := false
  osUp : Bool := false
  deriving DecidableEq, Repr

/-- Governor limits (R510, R581): effective and staged, as F_MAX and P_LIMIT. -/
structure Gov where
  fMax : Nat := 1200
  pLimit : Nat := 700
  staged : Option (Nat × Nat) := none
  deriving DecidableEq, Repr

/-- A report to a reeve or the runtime that is not a fault record. -/
inductive Notice where
  /-- hand, address of the record (R70) -/
  | badRec (hand va : Nat)
  /-- hand, virtual address (R303) -/
  | pageFault (hand va : Nat)
  /-- core, kernel slot, word offset (R187) -/
  | illegal (core slot word : Nat)
  /-- hand (R71) -/
  | stall (hand : Nat)
  /-- a STALL whose known-answer test passed, reported to the runtime (R432) -/
  | stallPassed (hand : Nat)
  /-- hand of the router, endpoint (R346) -/
  | badDest (hand ep : Nat)
  /-- hand, SRC endpoint (R59) -/
  | p8Drop (hand ep : Nat)
  /-- producing hand, granting endpoint (R60) -/
  | grantRefused (hand ep : Nat)
  /-- Mill, address of the record or of the page (R264, R303) -/
  | millStop (mill va : Nat)
  /-- Mill, layer, address of the record (R276) -/
  | bound (mill layer va : Nat)
  /-- reeve that was lost (R424) -/
  | reeveLost (reeve : Nat)
  deriving DecidableEq, Repr

/-- Recovery: faults on their way to reeves, the log, what waits, notices. -/
structure Rec where
  /-- records posted and not yet handled: reeve, record (R420) -/
  flight : List (Nat × BitVec 128) := []
  /-- records in the log ring in DDR5, oldest first, from TAIL to HEAD (R421) -/
  log : List (BitVec 128) := []
  heldRecs : List (BitVec 128) := []
  reeveQ : List (Nat × BitVec 128) := []
  /-- start-up buffer of 256 records (R480) -/
  startBuf : List (BitVec 128) := []
  baseWritten : Bool := false
  /-- notices to reeves and the runtime, oldest first -/
  notices : List Notice := []
  /-- reeves out of service, the time of each reeve's last heartbeat, reeves halted by the watchdog -/
  lostReeves : List Nat := []
  beatT : PMap Nat := []
  haltedReeves : List Nat := []
  /-- FAULT_LOG: signal pending, asserted, time of the last interrupt (R421) -/
  logPending : Bool := false
  logIrq : Bool := false
  logT : Option Nat := none
  /-- marks of the read-cleared interrupt sources 7, 8, 11 (R554) -/
  irq7 : Bool := false
  irq8 : Bool := false
  irq11 : Bool := false
  /-- suits out of service by a hand fold (R439) and suits folded with rails off (R440) -/
  outSuits : List Nat := []
  foldedSuits : List Nat := []
  /-- collectives already replayed after COLL_ORDER; pairs whose members the reeves quiesce for the replay: hands, the two tags
  (R372) -/
  replayed : List (Nat × Nat) := []
  pairs : List (List Nat × Nat × Nat) := []
  /-- configuration blocks that have drifted, with the time of the last drift, and those that drifted a second time within
  24 hours (R451) -/
  drifts : PMap Nat := []
  redrifted : List Nat := []
  /-- the lead reeve rang the package Bell because it held 64 records (R422) -/
  overCut : Bool := false
  /-- the recovery in progress, by what it is of: a hand, 640 + suit for a map-out, 650 for a variant switch (R438) -/
  busy : Option Nat := none
  /-- suits whose granary a recovery has put into tensor-aware mode (R294) -/
  aware : List Nat := []
  /-- PCIe root ports with a logged AER error (R483, R554) -/
  aer : List Nat := []
  deriving DecidableEq, Repr

/-- A configuration block's scan and grace period (R539 to R542). -/
structure CfgBlk where
  /-- number of the last scan that ended -/
  scanned : Nat := 0
  /-- end of the running grace period -/
  grace : Option Nat := none
  deriving DecidableEq, Repr

/-- The state of the block. -/
structure State where
  /-- commands waiting, first in, first out -/
  pending : List Instr
  part : Part
  /-- the Manor's copy of the timebase in nanoseconds (R29); `State.now` is that of another domain -/
  time : Nat
  /-- nanoseconds since power-on reset, which the rates and deadlines of R454, R506, R514 and R584 are counted in -/
  clock : Nat
  /-- the external 100 MHz reference is in use (R32) -/
  extRef : Bool
  /-- registers by address; an unlisted one reads its reset value -/
  regs : PMap W32
  /-- pending values of staged and applied registers (R531, R360) -/
  staged : PMap W32
  /-- held low words of 64-bit registers (R528) -/
  heldLow : PMap W32
  /-- housekeeping-clock copies of RS registers (R526) -/
  rs : PMap W32
  rsp : Rsp
  /-- free choices made so far: the model's own counter -/
  free : Nat
  hands : PMap Hand
  cores : PMap Core
  mills : PMap Mill
  suits : PMap Suit
  links : PMap Link
  /-- what an access to a physical address meets (R285, R289): the byte of its granary line where the sector is valid there,
  HBM's byte elsewhere -/
  mem : List Host.Cell
  /-- sectors whose HBM holds the poison codeword, cells that are hard-failed (R322, R323), errors that stand in the HBM
  array and wait for a read: cell to ecc (1 correctable, 2 uncorrectable) + 4 * on-die severity + 16 if a write does not
  mend it (R321, R322); a cell is (suit * 64 + pseudo-channel) * 2^26 + sector -/
  poisoned : List Nat
  hardSectors : List Nat
  latent : PMap Nat
  /-- what the translation caches hold: unit, virtual page (R302) -/
  tlb : List (Nat × Nat)
  /-- map-outs, whose lost granules are poison until they are rewritten: suit, mask of the pseudo-channels out before it,
  pseudo-channel lost (R328); sectors of them rewritten since -/
  lostPc : List (Nat × Nat × Nat)
  healed : List Nat
  /-- what the pivot engine keeps in slots, by physical address of the slot's tile 0 (R220) -/
  pvSlots : PMap Slot
  /-- DDR5 contents and poisoned bursts (R466) -/
  ddr : List Host.Cell
  ddrPoisoned : List Nat
  /-- the DDR5 words that an LR of an application core has reserved: address and bytes (R296, R463) -/
  reserved : Option (Nat × Nat)
  /-- words last written in the APLIC and IMSIC windows, whose registers R533 leaves to the RISC-V AIA -/
  aia : PMap W32
  flash : List Host.Cell
  job : Job
  colls : List Coll
  /-- reduction memory of the bridge ends: (end * 256 + slot) * 16 + tile (R364) -/
  redMem : PMap Tile
  /-- packets in flight, in the order in which they were sent; links whose last flit of the request or collective channel was
  one of the collective channel (R351) -/
  net : List Packet
  served : List Nat
  inbox : List Inbox
  bell : Bell
  sec : Sec
  ctl : Ctl
  gov : Gov
  recov : Rec
  cfg : PMap CfgBlk
  /-- number of the last configuration scan that started: the timebase in units of 1,024 us (R539) -/
  scanNo : Nat
  deriving DecidableEq, Repr

/-- The constable's store of a module that Dewesa has provisioned (R495, R500): free keys, the first attestation key
certified, and cells that the manual gives no value (DESIGN CHOICE, assumption 32). -/
def Sec.provisioned : Sec :=
  { cmdKey := some Config.commandKey, idSeed := some Config.identitySeed, attSeed := some (Config.keySeed 0), idNext := 1, attGen := 1,
    keysMade := 1, attCert := Config.firstCert }

/-- The module right after power-on reset of an HYG4-288L: every register at the value the manual states, memories
with nothing listed, and every value the manual does not state as the assumption log names it. -/
def State.reset : State :=
  { pending := [], part := { Part.hyg4_288 with hash := Config.hash, skew := Config.skew }, time := 0, clock := 0, extRef := false, regs := [], staged := [], heldLow := [], rs := [],
    rsp := .none, free := 0, hands := [], cores := [], mills := [], suits := [], links := [], mem := [], poisoned := [],
    hardSectors := [], latent := [], tlb := [], lostPc := [], healed := [], pvSlots := [], ddr := [], ddrPoisoned := [], reserved := none, aia := [], flash := [], job := {}, colls := [], redMem := [], net := [], served := [],
    inbox := [], bell := {}, sec := Sec.provisioned, ctl := {}, gov := {}, recov := {}, cfg := [], scanNo := 0 }

end Sys2Proof.Machine
end

