-- ==== Sys2Proof/Machine/Operands.lean ====
section
/-! DEFINITION. The operand forms: the command record, operand descriptors, tiles and their headers and checks, the
tensor table's entries, endpoints (chapters 2 and 9). -/

namespace Sys2Proof.Machine

/-! ## The command record (R72) and its descriptors (R74) -/

namespace Record

def opcode (r : BitVec 512) : Nat := bits r.toNat 0 8
def station (r : BitVec 512) : Nat := bits r.toNat 8 4
def core (r : BitVec 512) : Nat := bits r.toNat 12 5
def prec (r : BitVec 512) : Nat := bits r.toNat 17 2
def trace (r : BitVec 512) : Bool := bit r.toNat 19
def serial (r : BitVec 512) : Nat := bits r.toNat 32 32
def layer (r : BitVec 512) : Nat := bits r.toNat 64 16
def oper (r : BitVec 512) : Nat := bits r.toNat 80 16
/-- Wait i: enabled, counter, value. -/
def waitEn (r : BitVec 512) (i : Nat) : Bool := bit r.toNat (102 + 8 * i)
def waitCtr (r : BitVec 512) (i : Nat) : Nat := bits r.toNat (96 + 8 * i) 6
def waitVal (r : BitVec 512) (i : Nat) : Nat := bits r.toNat (128 + 32 * i) 32
/-- Increment i: enabled, counter, amount. -/
def incEn (r : BitVec 512) (i : Nat) : Bool := bit r.toNat (118 + 8 * i)
def incCtr (r : BitVec 512) (i : Nat) : Nat := bits r.toNat (112 + 8 * i) 6
def incAmt (r : BitVec 512) (i : Nat) : Nat := bits r.toNat (192 + 8 * i) 8
def arg (r : BitVec 512) : Nat := bits r.toNat 208 32
/-- Bits lo .. lo + w - 1 of ARG. -/
def argBits (r : BitVec 512) (lo w : Nat) : Nat := bits (arg r) lo w
/-- TARGET of JUMP and LOOP. -/
def target (r : BitVec 512) : Nat := bits r.toNat 240 48
/-- The 88 bits of operand descriptor i. -/
def opd (r : BitVec 512) (i : Nat) : Nat := bits r.toNat (240 + 88 * i) 88

end Record

/-- An operand descriptor (R74). -/
structure Desc where
  kind : Nat
  orient : Bool
  port : Nat
  tid : Nat
  row0 : Nat
  col0 : Nat
  nrows : Nat
  ncols : Nat
  deriving DecidableEq, Repr

/-- The descriptor of 88 bits; an NROWS or NCOLS of 0 means 256. -/
def Desc.ofBits (d : Nat) : Desc :=
  { kind := bits d 0 3, orient := bit d 3, port := bits d 4 4, tid := bits d 8 24, row0 := bits d 32 20,
    col0 := bits d 52 20, nrows := if bits d 72 8 = 0 then 256 else bits d 72 8,
    ncols := if bits d 80 8 = 0 then 256 else bits d 80 8 }

/-- Operand i of a record. -/
def Record.desc (r : BitVec 512) (i : Nat) : Desc := Desc.ofBits (Record.opd r i)

/-- Tiles of the extent. -/
def Desc.count (d : Desc) : Nat := d.nrows * d.ncols
/-- Destination endpoint of KIND 3. -/
def Desc.dest (d : Desc) : Nat := d.tid % 2 ^ 16
/-- Tile row and column of tile n of the extent, counted from (0, 0) (R75). -/
def Desc.relPos (d : Desc) (n : Nat) : Nat × Nat := (n / d.ncols, n % d.ncols)
/-- Tile row and column of tile n in the tensor; for KIND 4 counted from (0, 0) (R75). -/
def Desc.pos (d : Desc) (n : Nat) : Nat × Nat :=
  let q := d.relPos n
  if d.kind = 4 then q else (d.row0 + q.1, d.col0 + q.2)

/-! ## Endpoints (R343 to R345) -/

/-- A hand unit's endpoint. -/
def epHand (h unit : Nat) : Nat :=
  let k := h % 160
  (h / 160) <<< 13 + (k / 16) <<< 9 + (k % 16) <<< 5 + unit
/-- A station-form endpoint. -/
def epStation (suit kind index : Nat) : Nat := 0x8000 + suit <<< 13 + kind <<< 8 + index
def epCore (k : Nat) : Nat := epHand (k / 17) (k % 17)
def epMill (m : Nat) : Nat := epStation (m / 2) 2 (m % 2)
def epBridge (b : Nat) : Nat := epStation (b / 2) 3 (b % 2)
def epReeve (r : Nat) : Nat := epStation (r / 4) 4 (r % 4)
def epDealer : Nat := epStation 0 16 0
def epConstable : Nat := epStation 0 17 0

/-- The hand, suit * 160 + h, of a hand-unit endpoint; none for the station form and reserved HY values. -/
def epToHand (e : Nat) : Option Nat :=
  if bit e 15 then none
  else if 10 ≤ bits e 9 4 then none
  else some (bits e 13 2 * 160 + bits e 9 4 * 16 + bits e 5 4)
def epUnit (e : Nat) : Nat := bits e 0 5
/-- The core index of a physical core's endpoint. -/
def epToCore (e : Nat) : Option Nat :=
  match epToHand e with
  | none => none
  | some h => if epUnit e ≤ 16 then some (h * 17 + epUnit e) else none
/-- The Mill of an endpoint. -/
def epToMill (e : Nat) : Option Nat :=
  if bit e 15 && bits e 8 5 == 2 && decide (bits e 0 8 ≤ 1) then some (bits e 13 2 * 2 + bits e 0 8) else none

/-- An endpoint with no reserved value and no index beyond its kind (R343 to R346). -/
def epValid (e : Nat) : Bool :=
  if bit e 15 then
    let k := bits e 8 5
    let i := bits e 0 8
    let s0 := bits e 13 2 == 0
    match k with
    | 0 => decide (i < 32)
    | 1 => decide (i < 64)
    | 2 => decide (i < 2)
    | 3 => decide (i < 2)
    | 4 => decide (i < 4)
    | 20 => i == 0
    | 21 => s0 && decide (i < 2)
    | 16 | 17 | 18 | 19 | 22 | 23 => s0 && i == 0
    | _ => false
  else decide (bits e 9 4 < 10) && (decide (epUnit e ≤ 16) || epUnit e == 24 || epUnit e == 25 || epUnit e == 26 || epUnit e == 31)

/-- The suit of an endpoint. -/
def epSuit (e : Nat) : Nat := bits e 13 2

/-! ## Tiles (R41 to R49) -/

/-- One byte of CRC-32C, reflected (R44). -/
def crc32cBits : Nat → Nat → Nat
  | 0, c => c
  | n + 1, c => crc32cBits n (if c % 2 = 1 then (c >>> 1) ^^^ 0x82F63B78 else c >>> 1)

/-- CRC-32C of a byte string (R44). -/
def crc32c (b : List (BitVec 8)) : Nat :=
  (b.foldl (fun c x => crc32cBits 8 (c ^^^ x.toNat)) 0xFFFFFFFF) ^^^ 0xFFFFFFFF

def crc16Bits : Nat → Nat → Nat
  | 0, c => c
  | n + 1, c => crc16Bits n (if c.testBit 15 then ((c <<< 1) ^^^ 0x1021) % 65536 else (c <<< 1) % 65536)

/-- CRC-16 with polynomial 0x1021 and initial value 0xFFFF (R44). -/
def crc16 (b : List (BitVec 8)) : Nat := b.foldl (fun c x => crc16Bits 8 (c ^^^ (x.toNat <<< 8))) 0xFFFF

/-- The fields of a tile header (R43), without its CRC and HCHK. -/
structure Head where
  tid : Nat := 0
  row : Nat := 0
  col : Nat := 0
  fmt : Nat := 0
  scale : Nat := 0
  wver : Nat := 0
  bytes : Nat := 4096
  pad : Bool := false
  partial_ : Bool := false
  last : Bool := false
  vrows : Nat := 0
  vcols : Nat := 0
  deriving DecidableEq, Repr

/-- The header's fields of a 256-bit header. -/
def Head.ofBits (h : BitVec 256) : Head :=
  let n := h.toNat
  { tid := bits n 0 24, row := bits n 24 20, col := bits n 44 20, fmt := bits n 64 4, scale := bits n 68 12,
    wver := bits n 80 8, bytes := bits n 88 13, pad := bit n 104, partial_ := bit n 105, last := bit n 106,
    vrows := bits n 112 7, vcols := bits n 119 7 }

/-- The 128 low bits of a header. -/
def Head.word (h : Head) : Nat :=
  h.tid % 2 ^ 24 + (h.row % 2 ^ 20) <<< 24 + (h.col % 2 ^ 20) <<< 44 + (h.fmt % 16) <<< 64 + (h.scale % 4096) <<< 68 +
  (h.wver % 256) <<< 80 + (h.bytes % 8192) <<< 88 + b2n h.pad <<< 104 + b2n h.partial_ <<< 105 + b2n h.last <<< 106 +
  (h.vrows % 128) <<< 112 + (h.vcols % 128) <<< 119

/-- HCHK over bytes 0 to 29 of a header (R44). -/
def hchkOf (n : Nat) : Nat := crc16 (toBytes 30 n)

/-- The 30 header bytes with a payload's CRC placed, then HCHK placed (R44). -/
def sealHdr (low crc : Nat) : BitVec 256 :=
  let n := low % 2 ^ 128 + (crc % 2 ^ 32) <<< 128
  BitVec.ofNat 256 (n + hchkOf n <<< 240)

/-- A tile that a station produces: header fields and payload, with CRC and HCHK (R44, R45). -/
def Tile.seal (h : Head) (pay : BitVec 32768) : Tile :=
  { hdr := sealHdr h.word (crc32c (toBytes 4096 pay.toNat)), pay := pay }

def Tile.head (t : Tile) : Head := Head.ofBits t.hdr
def Tile.crc (t : Tile) : Nat := bits t.hdr.toNat 128 32
def Tile.hchk (t : Tile) : Nat := bits t.hdr.toNat 240 16

/-- The header of a full tile of a format (R47, R48). -/
def Head.full (h : Head) : Head :=
  { h with bytes := 4096, pad := false, partial_ := false, vrows := fmtRows h.fmt, vcols := fmtCols h.fmt }

/-- The header of a PAD tile (R49). -/
def Head.padded (h : Head) : Head := { h.full with bytes := 0, pad := true }

/-- The header of a tile with r valid rows and c valid columns (R47, R48). -/
def Head.valid (h : Head) (r c : Nat) : Head :=
  if r = fmtRows h.fmt ∧ c = fmtCols h.fmt then h.full
  else { h with bytes := r * fmtRowBytes h.fmt, pad := false, partial_ := true, vrows := r, vcols := c }

/-- The validity fields copied from another tile of the same shape (R181, R272, R612, R615). A PAD tile, whose BYTES 0 would
break R48 beside PAD 0, gives a full tile (DESIGN CHOICE, assumption 77). -/
def Head.validAs (h src : Head) : Head :=
  { h with bytes := if src.pad then 4096 else src.bytes, pad := false, partial_ := src.partial_, vrows := src.vrows,
           vcols := src.vcols }

/-- The header rules of R47 to R49 and the reserved formats of R89. -/
def Head.ok (h : Head) : Bool :=
  decide (h.fmt < 8) &&
  (if h.partial_ then
     !h.pad && decide (1 ≤ h.vrows) && decide (h.vrows ≤ fmtRows h.fmt) && decide (1 ≤ h.vcols) &&
     decide (h.vcols ≤ fmtCols h.fmt) && h.bytes == h.vrows * fmtRowBytes h.fmt
   else
     h.vrows == fmtRows h.fmt && h.vcols == fmtCols h.fmt && h.bytes == (if h.pad then 0 else 4096))

/-- What a command expects of an input tile (R51): tensor, place and format; `none` compares nothing. -/
structure Expect where
  tid : Nat
  pos : Option (Nat × Nat) := none
  fmt : Option Nat := none
  deriving DecidableEq, Repr

/-- The comparison of R51; a tensor ID of 0 suppresses it. -/
def Expect.meets (x : Expect) (h : Head) : Bool :=
  x.tid == 0 ||
    (h.tid == x.tid && (match x.pos with | none => true | some p => p == (h.row, h.col)) &&
      (match x.fmt with | none => true | some f => f == h.fmt))

/-- HCHK and the header rules hold. -/
def Tile.headSound (t : Tile) : Bool := t.hchk == hchkOf (t.hdr.toNat % 2 ^ 240) && t.head.ok

/-- The checks of R50 to R52 on a tile that carries no poison: the KIND of the first that fails, in the order of R54. -/
def Tile.check (t : Tile) (x : Expect) : Option Nat :=
  if !t.headSound then some 1
  else if !x.meets t.head then some 2
  else if t.crc != crc32c (toBytes 4096 t.pay.toNat) then some 0
  else none

/-- Element k of a payload with elements of `size` bytes (R41). -/
def payElem (pay : BitVec 32768) (size k : Nat) : Nat := bits pay.toNat (8 * size * k) (8 * size)

/-- Element (i, j) of a tile of format f. -/
def Tile.elem (t : Tile) (f i j : Nat) : Nat := payElem t.pay (fmtSize f) (i * fmtCols f + j)

/-- A payload from elements of `size` bytes, element 0 first; the rest zero. -/
def packElems (size : Nat) : List Nat → Nat
  | [] => 0
  | x :: xs => x % 2 ^ (8 * size) + packElems size xs <<< (8 * size)

/-- The elements of a payload in row-major order. -/
def payElems (size : Nat) (pay : BitVec 32768) : List Nat := (upTo (4096 / size)).map (payElem pay size)

/-- Element index n lies in the valid extent of r rows and c columns. -/
def inValid (f r c n : Nat) : Bool := decide (n / fmtCols f < r) && decide (n % fmtCols f < c)

/-- A payload of format f from a function of the element index, zero outside r x c (R47). -/
def payOf (f r c : Nat) (g : Nat → Nat) : BitVec 32768 :=
  BitVec.ofNat 32768 (packElems (fmtSize f) ((upTo (4096 / fmtSize f)).map fun n => if inValid f r c n then g n else 0))

/-! ## Tensor-table entries (R66) -/

namespace Entry

def payVa (e : Nat) : Nat := bits e 0 48
def hdrVa (e : Nat) : Nat := bits e 64 48
def trows (e : Nat) : Nat := bits e 128 20
def tcols (e : Nat) : Nat := bits e 148 20
def fmt (e : Nat) : Nat := bits e 168 4
def scale (e : Nat) : Nat := bits e 172 12
def nver (e : Nat) : Nat := bits e 192 2
def vstride (e : Nat) : Nat := bits e 256 48
/-- Payload address of tile (r, c) in buffer b (R42, R248). -/
def payAddr (e b r c : Nat) : Nat := payVa e + b * vstride e + (r * tcols e + c) * 4096
/-- Header address of tile (r, c) in buffer b. -/
def hdrAddr (e b r c : Nat) : Nat := hdrVa e + b * (vstride e / 128) + (r * tcols e + c) * 32
/-- Address of the version record (R250). -/
def verAddr (e : Nat) : Nat := payVa e + (nver e + 1) * vstride e

end Entry

/-! ## Stations (R55) -/

def stLOAD : Nat := 1
def stCUBE : Nat := 2
def stDRAIN : Nat := 3
def stVECT : Nat := 4
def stSTORE : Nat := 5
def stPIVOT : Nat := 6
def stXCHG : Nat := 7
def stMILL : Nat := 8
def stSEQ : Nat := 9

/-- Depth of a port (R57). -/
def portDepth : Nat → Nat
  | 0 => 8
  | 1 => 8
  | 8 => 8
  | _ => 4

/-- First scratch slot of a port (R57). -/
def portSlot : Nat → Nat
  | 0 => 55
  | 1 => 47
  | 2 => 43
  | 3 => 39
  | 4 => 35
  | 5 => 31
  | 6 => 27
  | 7 => 23
  | _ => 15

/-- The port whose slots a slot belongs to (R57); none for slots 0 to 14. -/
def slotPort (n : Nat) : Option Nat :=
  if n < 15 then none
  else if n < 23 then some 8
  else if n < 27 then some 7
  else if n < 31 then some 6
  else if n < 35 then some 5
  else if n < 39 then some 4
  else if n < 43 then some 3
  else if n < 47 then some 2
  else if n < 55 then some 1
  else if n < 63 then some 0
  else none

end Sys2Proof.Machine
end

