-- ==== Sys2Proof/Machine/Reg.lean ====
section
/-! DEFINITION. Where the registers lie (R532 to R536), what each reads after reset, and the one read and write of a
stored register word. -/

namespace Sys2Proof.Machine

/-- Base of a suit's window (R532). -/
def suitBase (s : Nat) : Nat := 0x10000000 + s * 0x08000000
/-- Base of a hand's common block; h = suit * 160 + hand (R532). -/
def handBase (h : Nat) : Nat := suitBase (h / 160) + 0x01000000 + (h % 160) * 0x40000
/-- Base of a physical core's window; k = h * 17 + core (R532). -/
def coreBase (k : Nat) : Nat := handBase (k / 17) + 0x10000 + (k % 17) * 0x2000
/-- Base of a Mill; m = suit * 2 + Mill (R534). -/
def millBase (m : Nat) : Nat := suitBase (m / 2) + 0x50000 + (m % 2) * 0x10000

namespace Reg

def bootStat : Nat := 0x00000000
def cfgCtl : Nat := 0x00010000
def mmuRoot : Nat := 0x00020000
def dealerCtl : Nat := 0x00030000
def dealerStat : Nat := 0x00030004
def bellCtl : Nat := 0x00040000
def bellStat : Nat := 0x00040004
def faultBase : Nat := 0x00050000
def faultHead : Nat := 0x00050008
def faultTail : Nat := 0x0005000C
def faultStat : Nat := 0x00050010
def ddrStat : Nat := 0x00060000
def pcieLink (n : Nat) : Nat := 0x00070000 + 4 * n
def mgmtStat : Nat := 0x00080000
def secStat : Nat := 0x00090000
def secIdx : Nat := 0x00090008
def timeNow : Nat := 0x000A0000
def jobStat : Nat := 0x000B0000
def jobId : Nat := 0x000B0004
def pwrLimit : Nat := 0x000C0000
def pwrIn : Nat := 0x000C0004
def pwrTemp : Nat := 0x000C0008
def pwrEvent : Nat := 0x000C000C
def pwrPanel : Nat := 0x000C0010
def collDone : Nat := 0x000D0000
def collLate : Nat := 0x000D0008
def maxLate : Nat := 0x000D0010
def maxLateEp : Nat := 0x000D0014
def downgraded : Nat := 0x000D0018
def pruned : Nat := 0x000D001C
def order : Nat := 0x000D0020
def timeouts : Nat := 0x000D0024
def manorObsCtl : Nat := 0x000D0028

def fabCtl (s : Nat) : Nat := suitBase s
def fence (s n : Nat) : Nat := suitBase s + 0x10 + 4 * n
def bridgeEnd (b : Nat) : Nat := suitBase (b / 2) + 0x10000 + 4 * (b % 2)
def granCtl (s : Nat) : Nat := suitBase s + 0x20000
def prio (s n : Nat) : Nat := suitBase s + 0x20080 + 4 * n
def hbmCtl (s : Nat) : Nat := suitBase s + 0x30000
def hbmCap (s : Nat) : Nat := suitBase s + 0x30004
def xlq (s : Nat) : Nat := suitBase s + 0x30008
def xla (s : Nat) : Nat := suitBase s + 0x30010
def hbmPc (s n : Nat) : Nat := suitBase s + 0x30100 + 4 * n
def reeveCtl (s : Nat) : Nat := suitBase s + 0x40000
def reeveStat (s : Nat) : Nat := suitBase s + 0x40004
def millStat (m : Nat) : Nat := millBase m
def vpinEvt (m : Nat) : Nat := millBase m + 4
def vpinCyc (m : Nat) : Nat := millBase m + 8
def millStep (m : Nat) : Nat := millBase m + 0x10
def millEvc (m c : Nat) : Nat := millBase m + 0x100 + 4 * c
def suitPwrStat (s : Nat) : Nat := suitBase s + 0x80000
def suitPwrTemp (s : Nat) : Nat := suitBase s + 0x80004
def pfIssued (s : Nat) : Nat := suitBase s + 0x90000
def pfUsed (s : Nat) : Nat := suitBase s + 0x90008
def pfOnTime (s : Nat) : Nat := suitBase s + 0x90010
def pfLate (s : Nat) : Nat := suitBase s + 0x90018
def pfDrop (s : Nat) : Nat := suitBase s + 0x90020
def narrow (s : Nat) : Nat := suitBase s + 0x90028
def atomics (s : Nat) : Nat := suitBase s + 0x90030
def obsMill (m : Nat) : Nat := suitBase (m / 2) + 0x90038 + 8 * (m % 2)
def suitObsCtl (s : Nat) : Nat := suitBase s + 0x90048

def seqCtl (h : Nat) : Nat := handBase h
def seqStat (h : Nat) : Nat := handBase h + 4
def spare (h : Nat) : Nat := handBase h + 8
def seqFetch (h : Nat) : Nat := handBase h + 0x10
def loopReg (h n : Nat) : Nat := handBase h + 0x20 + 4 * n
def evc (h c : Nat) : Nat := handBase h + 0x100 + 4 * c
def pivotCtl (h : Nat) : Nat := handBase h + 0x200
def pivotStat (h : Nat) : Nat := handBase h + 0x204
def pivotPert (h : Nat) : Nat := handBase h + 0x208
def routerStat (h : Nat) : Nat := handBase h + 0x300
def fva (h : Nat) : Nat := handBase h + 0x400
def fstat (h : Nat) : Nat := handBase h + 0x408
def handDbg (h : Nat) : Nat := handBase h + 0x600
def handObsCtl (h : Nat) : Nat := handBase h + 0x1000
def handObsStat (h : Nat) : Nat := handBase h + 0x1004
def handLost (h : Nat) : Nat := handBase h + 0x1008
def refetch (h : Nat) : Nat := handBase h + 0x100C
def pvops (h : Nat) : Nat := handBase h + 0x1010
def xbytes (h : Nat) : Nat := handBase h + 0x1018
def xwait (h : Nat) : Nat := handBase h + 0x1020
def p8starve (h : Nat) : Nat := handBase h + 0x1024

def coreId (k : Nat) : Nat := coreBase k
def loadStat (k : Nat) : Nat := coreBase k + 0x80
def cubeCtl (k : Nat) : Nat := coreBase k + 0x100
def cubeStat (k : Nat) : Nat := coreBase k + 0x104
def drainStat (k : Nat) : Nat := coreBase k + 0x180
def vectCtl (k : Nat) : Nat := coreBase k + 0x200
def vectStat (k : Nat) : Nat := coreBase k + 0x204
def storeStat (k : Nat) : Nat := coreBase k + 0x280
def coreDbg (k : Nat) : Nat := coreBase k + 0x300
def coreObsCtl (k : Nat) : Nat := coreBase k + 0x380
def starve (k : Nat) : Nat := coreBase k + 0x384
/-- Operation counter of a pair class 0 to 4 (R571). -/
def ops (k cls : Nat) : Nat := coreBase k + 0x388 + 8 * cls
def vops (k : Nat) : Nat := coreBase k + 0x3B0
def ldbytes (k : Nat) : Nat := coreBase k + 0x3B8
def stbytes (k : Nat) : Nat := coreBase k + 0x3C0
def gapfill (k : Nat) : Nat := coreBase k + 0x3C8
def drtiles (k : Nat) : Nat := coreBase k + 0x3CC
def wakes (k : Nat) : Nat := coreBase k + 0x3D0

/-- CFG.STAT of a configuration block's three registers, given the block's STAT address (R533 to R536). -/
def cfgStatManor : Nat := 0x00010004
def cfgStatSuit (s : Nat) : Nat := suitBase s + 0x70000
def cfgStatHand (h : Nat) : Nat := handBase h + 0x500
def cfgStatCore (k : Nat) : Nat := coreBase k + 4

/-- What an offset within a hand's common block reads after reset (R86, R546, R572). -/
def resetHand (o : Nat) : W32 :=
  if o = 0 then 0x00006401
  else if o = 8 then 0x00001000
  else if o = 0x200 then 0x28
  else if o = 0x1000 then 0x040003FE
  else 0

/-- What an offset within a core's 1 KiB reads after reset (R169, R170, R197, R198). -/
def resetCore (o : Nat) : W32 :=
  if o = 0x100 then 0x40
  else if o = 0x104 then 0x00800000
  else if o = 0x200 then 0x8001
  else if o = 0x204 then 0x40000000
  else 0

/-- What an offset within a suit's window below the hands reads after reset (R338, R340, R393, R395, R461, R462). -/
def resetSuit (o : Nat) : W32 :=
  if o = 0 then 0x40000000
  else if o = 0x10000 then 0x01000000
  else if o = 0x10004 then 0x01000000
  else if o = 0x20000 then 0x00010101
  else if o = 0x30000 then 0x00080101
  else if o = 0x40000 then 0x0A004000
  else if o = 0x40004 then 0x0F000000
  else 0

/-- What a Manor register reads after reset (R397, R457, R491, R494, R543, R603). -/
def resetManor (a : Nat) : W32 :=
  if a = bootStat then 0x10000000
  else if a = cfgCtl then 0x000A0000
  else if a = dealerCtl then 0x00320C80
  else if a = bellCtl then 1
  else if a = mgmtStat then 0x60000000
  else if a = pwrLimit then 0x04B002BC
  else 0

/-- What a register reads after reset, by its address: the value its rule states. FOLD of SUIT.FAB.CTL and
SUIT.HBM.CAP follow the part and are added by `readReg`. -/
def reset (a : Nat) : W32 :=
  if a < 0x10000000 then resetManor a
  else
    let o := (a - 0x10000000) % 0x08000000
    if o < 0x01000000 then resetSuit o
    else
      let q := (o - 0x01000000) % 0x40000
      if q < 0x10000 then resetHand q else resetCore ((q - 0x10000) % 0x2000)

end Reg

/-- The stored word of a register: active value of a staged one. -/
def State.reg (s : State) (a : Nat) : W32 := PMap.get (Reg.reset a) s.regs a

/-- A register's stored word written by hardware or by an accepted write. -/
def State.setReg (s : State) (a : Nat) (v : W32) : State := { s with regs := PMap.put s.regs a v }

/-- Bits w from bit lo of a register. -/
def State.field (s : State) (a lo w : Nat) : Nat := bits (s.reg a).toNat lo w

/-- Bits w from bit lo of a register replaced. -/
def State.setField (s : State) (a lo w v : Nat) : State :=
  s.setReg a (BitVec.ofNat 32 (setBits (s.reg a).toNat lo w v))

/-- A bit of a register as a flag. -/
def State.flag (s : State) (a i : Nat) : Bool := s.field a i 1 == 1

/-- Bits set in a register. -/
def State.orReg (s : State) (a : Nat) (m : W32) : State := s.setReg a (s.reg a ||| m)

/-- One bit of a register set. -/
def State.setBit (s : State) (a i : Nat) : State := s.setField a i 1 1
/-- One bit of a register cleared. -/
def State.clearBit (s : State) (a i : Nat) : State := s.setField a i 1 0

/-- The sticky flags of a station status register gain flags (R105, R525). -/
def State.flags (s : State) (a : Nat) (f : Fl) : State := s.orReg a (f.setWidth 32)

/-- A field that counts and saturates at its largest value. -/
def State.countSat (s : State) (a lo w n : Nat) : State :=
  s.setField a lo w (satAt (2 ^ w - 1) (s.field a lo w + n))

/-- A 64-bit counter in two words (R527, R567). -/
def State.reg64 (s : State) (a : Nat) : Nat := (s.reg a).toNat + (s.reg (a + 4)).toNat * 2 ^ 32
def State.setReg64 (s : State) (a v : Nat) : State :=
  (s.setReg a (BitVec.ofNat 32 v)).setReg (a + 4) (BitVec.ofNat 32 (v / 2 ^ 32))
/-- A 64-bit counter advanced, modulo 2^64. -/
def State.add64 (s : State) (a n : Nat) : State := s.setReg64 a ((s.reg64 a + n) % 2 ^ 64)
/-- A 32-bit counter advanced, modulo 2^32. -/
def State.add32 (s : State) (a n : Nat) : State := s.setReg a (s.reg a + BitVec.ofNat 32 n)

end Sys2Proof.Machine
end

