-- ==== Sys2Proof/Machine/Ops.lean ====
section
/-! DEFINITION. The named operations over the state: units and their records, traces, faults and notices, the Bell, ports and
credits, event counters, staged registers. Memory.lean holds the operations over memory. Raising a fault or an interrupt is an
effect on State; the block has no exception entry. -/

namespace Sys2Proof.Machine

/-! ## Units -/

def State.hand (s : State) (h : Nat) : Hand := PMap.get {} s.hands h
def State.core (s : State) (k : Nat) : Core := PMap.get {} s.cores k
def State.mill (s : State) (m : Nat) : Mill := PMap.get {} s.mills m
def State.suit (s : State) (i : Nat) : Suit := PMap.get {} s.suits i
def State.setHand (s : State) (h : Nat) (v : Hand) : State := { s with hands := PMap.put s.hands h v }
def State.setCore (s : State) (k : Nat) (v : Core) : State := { s with cores := PMap.put s.cores k v }
def State.setMill (s : State) (m : Nat) (v : Mill) : State := { s with mills := PMap.put s.mills m v }
def State.setSuit (s : State) (i : Nat) (v : Suit) : State := { s with suits := PMap.put s.suits i v }

/-- The next free choice, and the state that has spent it. -/
def State.fresh (s : State) : Nat := Config.freeNat s.free
def State.spend (s : State) : State := { s with free := s.free + 1 }

/-- The timebase as the domain of a unit reads it (R28, R29): hands 0 to 639, Mills 640 to 647, bridge ends 648 to 655. No copy is
more than 8 ns ahead of the Manor's. -/
def State.now (s : State) (u : Nat) : Nat := s.time + PMap.get 0 s.part.skew u % 9

/-- The unit that an endpoint belongs to (R344, R345): a hand, a Mill, a bridge end, the Manor DMA (657); 658 for any other. -/
def unitOfEp (e : Nat) : Nat :=
  match epToHand e, epToMill e with
  | some h, _ => h
  | none, some m => 640 + m
  | none, none =>
    if bit e 15 && bits e 8 5 == 3 then 648 + bits e 13 2 * 2 + bits e 0 1 else if bit e 15 && bits e 8 5 == 19 then 657 else 658

/-- The four suits. -/
def suits4 : List Nat := [0, 1, 2, 3]
/-- The suit is neither fused off nor disabled by the configuration image (R1, R5, R6). -/
def State.fusedIn (s : State) (i : Nat) : Bool := bit s.part.fused i && !bit s.ctl.suitOff i
/-- The suit is in service: powered, neither folded nor out with a hand fold (R36, R439, R440). -/
def State.suitUp (s : State) (i : Nat) : Bool :=
  s.fusedIn i && (s.suit i).powered && !(s.recov.outSuits.contains i) && !(s.recov.foldedSuits.contains i)
/-- The suit has no rails: fused off, or folded under R440 (R5, R523). -/
def State.suitDark (s : State) (i : Nat) : Bool := !s.fusedIn i || s.recov.foldedSuits.contains i
/-- The hand's active fence bit (R359, R394). -/
def State.fenced (s : State) (h : Nat) : Bool := s.flag (Reg.fence (h / 160) (h % 160 / 32)) (h % 32)
/-- Suits that the fuses turn off, as a mask (R5). -/
def State.fusedOff (s : State) : Nat := sumL ((suits4.filter fun i => !s.fusedIn i).map (2 ^ ·))
/-- The active fold mask of suit i: fused-off suits always read 1 (R393). -/
def State.foldMask (s : State) (i : Nat) : Nat := s.field (Reg.fabCtl i) 0 4 ||| s.fusedOff
/-- The active fold mask of a suit in service names suit i. -/
def State.folded (s : State) (i : Nat) : Bool := suits4.any fun a => s.suitUp a && bit (s.foldMask a) i
/-- The hand is in service: the hands of a folded suit count as fenced (R388). -/
def State.handUp (s : State) (h : Nat) : Bool := s.suitUp (h / 160) && !s.fenced h && !s.folded (h / 160)
/-- Suits in service, in ascending number. -/
def State.suitsUp (s : State) : List Nat := suits4.filter s.suitUp
/-- All hands, by index. -/
def hands640 : List Nat := upTo 640

/-- The Bell has stopped the hand (R87). -/
def State.handStopped (s : State) (h : Nat) : Bool := s.bell.stopped.contains h
def State.millStopped (s : State) (m : Nat) : Bool := s.bell.stopped.contains (640 + m)
/-- A unit has the stop marker and no longer dispatches or admits (R446). -/
def State.marked (s : State) (u : Nat) : Bool := s.bell.marked.contains u

/-- The physical core, as a core index, that runs logical core l of hand h (R22, R546). -/
def State.physCore (s : State) (h l : Nat) : Nat :=
  h * 17 + (if s.flag (Reg.spare h) 31 && s.field (Reg.spare h) 24 4 == l then 16 else l)
/-- The kitty, as a physical core number (R546). -/
def State.kitty (s : State) (h : Nat) : Nat := if s.flag (Reg.spare h) 31 then s.field (Reg.spare h) 24 4 else 16
/-- The logical core that physical core c of hand h serves; 31 for the kitty (R551). -/
def State.logical (s : State) (h c : Nat) : Nat :=
  if s.kitty h = c then 31 else if c = 16 then s.field (Reg.spare h) 24 4 else c

/-! ## Queues (R56) -/

/-- The command queue of station st of core or hand u. -/
def State.queue (s : State) (st u : Nat) : List Cmd :=
  match st with
  | 1 => (s.core u).ld
  | 2 => (s.core u).cu
  | 3 => (s.core u).dr
  | 4 => (s.core u).ve
  | 5 => (s.core u).st
  | 6 => (s.hand u).pq
  | 7 => (s.hand u).xq
  | 8 => (s.mill u).q
  | _ => []

def State.setQueue (s : State) (st u : Nat) (q : List Cmd) : State :=
  match st with
  | 1 => s.setCore u { s.core u with ld := q }
  | 2 => s.setCore u { s.core u with cu := q }
  | 3 => s.setCore u { s.core u with dr := q }
  | 4 => s.setCore u { s.core u with ve := q }
  | 5 => s.setCore u { s.core u with st := q }
  | 6 => s.setHand u { s.hand u with pq := q }
  | 7 => s.setHand u { s.hand u with xq := q }
  | 8 => s.setMill u { s.mill u with q := q }
  | _ => s

/-- The hand of a station: cores stand 17 to a hand. -/
def handOf (st u : Nat) : Nat := if st ≤ 5 then u / 17 else u

/-- The endpoint a station writes in records (R555). -/
def epOf (st u : Nat) : Nat :=
  if st ≤ 5 then epCore u
  else if st = 6 then epHand u 24
  else if st = 7 then epHand u 26
  else if st = 8 then epMill u
  else epHand u 25

/-- The first record of a queue that has not completed, with its place. -/
def activeFrom : Nat → List Cmd → Option (Nat × Cmd)
  | _, [] => none
  | i, c :: q => if c.complete then activeFrom (i + 1) q else some (i, c)

/-- The record a station works on. -/
def State.active (s : State) (st u : Nat) : Option (Nat × Cmd) := activeFrom 0 (s.queue st u)

/-- Record i of a queue replaced. -/
def State.setCmd (s : State) (st u i : Nat) (c : Cmd) : State := s.setQueue st u ((s.queue st u).set i c)

/-- The station was stopped by an escalation, a page fault or an illegal instruction. A Mill that only starts no further record
still works on those it has begun (R264). -/
def State.stHalted (s : State) (st u : Nat) : Bool :=
  if st ≤ 5 then (s.core u).halted.contains st
  else if st = 8 then (s.mill u).broken
  else (s.hand u).halted.contains st

/-- Stop a station where it stands (R54, R187, R303). -/
def State.haltStation (s : State) (st u : Nat) : State :=
  if st ≤ 5 then s.setCore u { s.core u with halted := st :: (s.core u).halted }
  else if st = 8 then s.setMill u { s.mill u with halted := true, broken := true }
  else s.setHand u { s.hand u with halted := st :: (s.hand u).halted }

/-- A station may work: its hand or Mill is not stopped by the Bell and it is not stopped itself. -/
def State.stRuns (s : State) (st u : Nat) : Bool :=
  !s.stHalted st u && !(if st = 8 then s.millStopped u else s.handStopped (handOf st u))

/-! ## Event counters (R76 to R80) -/

/-- A wait on counter value c with value v holds (R76). -/
def waitMet (c : W32) (v : Nat) : Bool := decide ((c - BitVec.ofNat 32 v).toNat < 2 ^ 31)

/-- Both waits of a record hold; `ctr` reads a counter. -/
def waitsMet (ctr : Nat → W32) (r : BitVec 512) : Bool :=
  (!Record.waitEn r 0 || waitMet (ctr (Record.waitCtr r 0)) (Record.waitVal r 0)) &&
  (!Record.waitEn r 1 || waitMet (ctr (Record.waitCtr r 1)) (Record.waitVal r 1))

/-- Counter c of hand h, or of Mill m. -/
def State.evc (s : State) (h c : Nat) : W32 := s.reg (Reg.evc h c)
def State.millEvc (s : State) (m c : Nat) : W32 := s.reg (Reg.millEvc m c)
def State.waitsHold (s : State) (h : Nat) (r : BitVec 512) : Bool := waitsMet (s.evc h) r
def State.millWaitsHold (s : State) (m : Nat) (r : BitVec 512) : Bool := waitsMet (s.millEvc m) r

/-- A counter of a hand advanced; a mirror binding sees it at its next send (R262). -/
def State.addEvc (s : State) (h c n : Nat) : State := s.setReg (Reg.evc h c) (s.evc h c + BitVec.ofNat 32 n)

/-- One increment of a record (R77). -/
def State.inc1 (s : State) (addr : Nat → Nat) (r : BitVec 512) (i : Nat) : State :=
  if Record.incEn r i then
    s.setReg (addr (Record.incCtr r i)) (s.reg (addr (Record.incCtr r i)) + BitVec.ofNat 32 (Record.incAmt r i))
  else s

/-- Both increments of a record, applied once at its commit (R77). -/
def State.applyIncs (s : State) (h : Nat) (r : BitVec 512) : State :=
  (s.inc1 (Reg.evc h) r 0).inc1 (Reg.evc h) r 1
def State.millIncs (s : State) (m : Nat) (r : BitVec 512) : State :=
  (s.inc1 (Reg.millEvc m) r 0).inc1 (Reg.millEvc m) r 1

/-! ## Trace records (R555 to R561) -/

/-- A trace record; `rseq` is filled in when it enters a ring. -/
structure Trace where
  event : Nat
  station : Nat := 0
  ep : Nat
  opcode : Nat := 0
  aux : Nat := 0
  layer : Nat := 0
  oper : Nat := 0
  serial : Nat := 0
  data : Nat := 0
  deriving DecidableEq, Repr

/-- The 32 bytes of a trace record (R555). -/
def Trace.word (t : Trace) (time rseq : Nat) : BitVec 256 :=
  BitVec.ofNat 256 (time % 2 ^ 48 + (t.station % 16) <<< 80 + (t.event % 16) <<< 84 + (rseq % 256) <<< 88 +
    (t.aux % 256) <<< 96 + (t.opcode % 256) <<< 104 + (t.ep % 65536) <<< 112 + (t.layer % 65536) <<< 128 +
    (t.oper % 65536) <<< 144 + (t.serial % 2 ^ 32) <<< 160 + (t.data % 2 ^ 64) <<< 192)

/-- A ring after a record: the ring, the next RSEQ, losses not announced, losses added (R561). -/
def ringAdd (ring : List (BitVec 256)) (rseq lostNew time : Nat) (t : Trace) : List (BitVec 256) × Nat × Nat × Nat :=
  if 2048 ≤ ring.length then (ring, rseq, lostNew + 1, 1)
  else if lostNew = 0 then (ring ++ [t.word time rseq], rseq + 1, 0, 0)
  else
    let r1 := ring ++ [(Trace.word { event := 8, station := t.station, ep := t.ep, data := lostNew } time rseq)]
    if 2048 ≤ r1.length then (r1, rseq + 1, 1, 1) else (r1 ++ [t.word time (rseq + 1)], rseq + 2, 0, 0)

/-- A record written into a hand's ring (R561). -/
def State.traceHand (s : State) (h : Nat) (t : Trace) : State :=
  let d := s.hand h
  let r := ringAdd d.ring d.rseq d.lostNew (s.now h) t
  let s := s.setHand h { d with ring := r.1, rseq := r.2.1, lostNew := r.2.2.1 }
  if r.2.2.2 = 0 then s else s.add32 (Reg.handLost h) r.2.2.2

/-- A record written into a Mill's ring. A Mill's losses stand in its ring record only, so `lostNew` alone keeps
them until the next drain (R565). -/
def State.traceMill (s : State) (m : Nat) (t : Trace) : State :=
  let d := s.mill m
  let r := ringAdd d.ring d.rseq d.lostNew (s.now (640 + m)) t
  s.setMill m { d with ring := r.1, rseq := r.2.1, lostNew := r.2.2.1, lostAll := d.lostAll + r.2.2.2 }

/-- A record written by station st of u. -/
def State.traceSt (s : State) (st u : Nat) (t : Trace) : State :=
  if st = 8 then s.traceMill u t else s.traceHand (handOf st u) t

/-- BEGIN and END are written for this record (R557). -/
def State.traces (s : State) (st u : Nat) (r : BitVec 512) : Bool :=
  if st = 8 then Record.trace r
  else (Record.trace r || s.flag (Reg.seqCtl (handOf st u)) 1) && s.flag (Reg.handObsCtl (handOf st u)) st

def Trace.ofRecord (event st u : Nat) (r : BitVec 512) (aux data : Nat) : Trace :=
  { event := event, station := st, ep := epOf st u, opcode := Record.opcode r, aux := aux, layer := Record.layer r,
    oper := Record.oper r, serial := Record.serial r, data := data }

/-- BEGIN, with WAIT a free value (cycle counts are not modelled, assumption 5) that holds the WAKE cycles given. -/
def State.traceBegin (s : State) (st u : Nat) (r : BitVec 512) (wake : Nat) : State :=
  if s.traces st u r then
    (s.traceSt st u (Trace.ofRecord 1 st u r 0 ((max wake (s.fresh % 2 ^ 32)) <<< 32 + wake))).spend
  else s

/-- COUNT of a command: the difference of its station's counter between its first and its last issue, in the counter's width; after
a CLEAR a free value (R562, R567, R568). -/
def State.countOfEnd (s : State) (st : Nat) (c : Cmd) : Nat :=
  if c.cleared then s.fresh else (c.cnt1 + 2 ^ 64 - c.cnt0) % (if st = 3 then 2 ^ 32 else 2 ^ 64)

/-- END, with COUNT and STARVE (R556, R562). -/
def State.traceEnd (s : State) (st u : Nat) (r : BitVec 512) (aux count starve : Nat) : State :=
  if s.traces st u r then
    s.traceSt st u (Trace.ofRecord 2 st u r aux ((count % 2 ^ 40) <<< 24 + satAt (2 ^ 24 - 1) starve))
  else s

/-- Cycles that a unit waited, counted in a register: a free number of them (assumption 5). -/
def State.addCycles (s : State) (a : Nat) : State := (s.add32 a s.fresh).spend

/-- Record i of a core station cannot issue for want of a credit or a context: a free number of cycles (assumption 5), of
which the core counts those in which no other station starved already (R333, R556, R571). -/
def State.starved (s : State) (st u i : Nat) (c : Cmd) : State :=
  ((s.setCmd st u i { c with starve := c.starve + s.fresh }).add32 (Reg.starve u) (min s.fresh s.spend.fresh)).spend.spend

/-! ## Faults and notices (R418 to R432) -/

/-- The fault record (R418). -/
def faultWord (time sev code ep detail : Nat) : BitVec 128 :=
  BitVec.ofNat 128 (code % 256 + (sev % 4) <<< 8 + (ep % 65536) <<< 16 + (time % 2 ^ 48) <<< 32 + (detail % 2 ^ 48) <<< 80)

/-- The reeve that serves reeve r's duties: r, or the next of its suit that is not lost (R424). -/
def State.dutyReeve (s : State) (r : Nat) : Nat :=
  let b := r / 4 * 4
  let c := [r, b + (r + 1) % 4, b + (r + 2) % 4, b + (r + 3) % 4]
  (c.filter fun x => !(s.recov.lostReeves.contains x)).headD r

/-- A fault record posted to a reeve at a time (R420): it is under way until the reeve handles it. -/
def State.postAt (s : State) (time reeve sev code ep detail : Nat) : State :=
  { s with recov := { s.recov with flight := s.recov.flight ++ [(s.dutyReeve reeve, faultWord time sev code ep detail)] } }

/-- A fault record posted by the unit it concerns, with the time that the unit reads (R418). -/
def State.post (s : State) (reeve sev code ep detail : Nat) : State := s.postAt (s.now (unitOfEp ep)) reeve sev code ep detail

/-- The reeve of a hand (R420). -/
def handReeve (h : Nat) : Nat := h / 160 * 4 + (h % 16) / 4
/-- The suits whose reeve 0 can lead, each the deputy of the one before it (R423): from the lowest-numbered suit in service on, in ring
position order. A lost reeve is passed over, as a deputy too (DEDUCED, assumption 101). -/
def State.leadSuits (s : State) : List Nat :=
  let r := [0, 1, 3, 2].filter s.suitUp
  let low := s.suitsUp.headD 0
  (r.dropWhile (· != low) ++ r.takeWhile (· != low)).filter fun i => !s.recov.lostReeves.contains (i * 4)
/-- The lead reeve: reeve 0 of the lowest-numbered suit in service, or the deputy that has taken the lead (R423). Where no reeve 0 is
left, the duties of the lowest suit's pass on under R424 (DEDUCED, assumption 101). -/
def State.leadReeve (s : State) : Nat :=
  match s.leadSuits with
  | i :: _ => i * 4
  | [] => s.dutyReeve ((s.suitsUp.headD 0) * 4)

/-- The queued record of a station that has a serial number; 0 where the queue has none. -/
def State.recordOf (s : State) (st u serial : Nat) : BitVec 512 :=
  (((s.queue st u).map (·.r)).find? fun r => Record.serial r == serial).getD 0

/-- The FAULT trace record of a posted record: with the command's IDs and opcode where it belongs to one (R555, R556). -/
def faultTrace (st ep sev code detail serial : Nat) (r : BitVec 512) : Trace :=
  { event := 6, station := st, ep := ep, opcode := Record.opcode r, aux := sev, layer := Record.layer r, oper := Record.oper r,
    serial := serial, data := code <<< 56 + detail % 2 ^ 48 }

/-- A fault record posted by a unit of a hand, with its FAULT trace record, which the sequencer writes as unit 25 (R555, R556). -/
def State.postHand (s : State) (h st ep sev code detail serial : Nat) (r : BitVec 512) : State :=
  let t := faultTrace st (if st = 9 then epHand h 25 else ep) sev code detail serial r
  (s.traceHand h t).post (handReeve h) sev code ep detail

def State.note (s : State) (n : Notice) : State := { s with recov := { s.recov with notices := s.recov.notices ++ [n] } }

/-! ## The module state (R487) -/

/-- The state of R487: 0 start-up, 1 ready, 2 job running, 3 recovering, 4 releasing, 5 safe to remove, 6 flash recovery,
7 halted. Recovering is a reeve's Bell that has not been resumed (DEDUCED, assumption 33). -/
def State.modeOf (s : State) : Nat :=
  if s.ctl.safe then 5
  else if s.ctl.releaseReq.isSome then 4
  else if s.ctl.flashRecovery then 6
  else if s.ctl.halted then 7
  else if s.bell.cuts.any fun c => c.source == 7 then 3
  else if s.job.run then 2
  else if s.ctl.step = 9 then 1
  else 0

/-- The state follows, and an In-Band Interrupt marks its change (R487). -/
def State.syncMode (s : State) : State :=
  if s.modeOf = s.ctl.state then s else { s with ctl := { s.ctl with state := s.modeOf, ibis := s.ctl.ibis + 1 } }

/-- Governor limits in force: no suit's clock exceeds F_MAX (R510, R582). -/
def State.setLimits (s : State) (f p : Nat) : State :=
  { s with gov := { fMax := f, pLimit := p, staged := none }
           suits := s.suits.map fun x => (x.1, { x.2 with clock := min x.2.clock f }) }

/-! ## Power (R455, R476, R497, R592) -/

/-- What the constable keeps without power (R497, R511): the keys, the cells, the owner's policy values. -/
def Sec.offline (x : Sec) : Sec :=
  { cmdKey := x.cmdKey, idSeed := x.idSeed, attSeed := x.attSeed, minSeq := x.minSeq, idNext := x.idNext, attGen := x.attGen,
    attNext := x.attNext, lastCtr := x.lastCtr, pwrLoss := x.pwrLoss, alarms := x.alarms, erasePending := x.erasePending,
    attCert := x.attCert, keysMade := x.keysMade, idOut := x.idOut, owner := x.owner, debug := x.debug }

/-- The module with every rail off: registers, memories and streams are gone; flash, the constable's store, NVMe and the
pins remain (R455, R592). -/
def State.unpowered (s : State) : State :=
  { State.reset with
    pending := s.pending, part := s.part, clock := s.clock, free := s.free, rsp := s.rsp, flash := s.flash
    sec := s.sec.offline
    job := { ckptSlots := s.job.ckptSlots, ckptNext := s.job.ckptNext }
    ctl := { en := s.ctl.en, latchOpen := s.ctl.latchOpen, stopNLow := s.ctl.stopNLow, ibis := s.ctl.ibis
             state := s.ctl.state } }

/-- Start-up begins at step 1 (R476). -/
def State.restart (s : State) : State :=
  let u := s.unpowered
  State.syncMode { u with ctl := { u.ctl with mainSwitch := true, step := 1 } }

/-- The rails are off, the bulk discharges, and "safe to remove" lights (R592). -/
def State.safeOff (s : State) : State :=
  let u := s.unpowered
  State.syncMode { u with ctl := { u.ctl with safe := true } }

/-! ## The Bell (R444 to R448) -/

/-- The units of a cut's scope: hands, Mills and bridge ends of its suits that are in service, and with a package cut
the dealer and the Manor DMA. Fenced hands are pruned from the marker's multicast (R359, R446). -/
def State.inScope (s : State) (c : Cut) (u : Nat) : Bool :=
  if c.scope = 0 ∨ 3 ≤ c.scope then
    if u < 640 then s.fusedIn (u / 160) && (s.suit (u / 160)).powered && !s.fenced u
    else if u < 648 then (s.suit ((u - 640) / 2)).powered
    else if u < 656 then (s.suit ((u - 648) / 2)).powered
    else u < 658
  else if c.scope = 1 then
    if u < 640 then u / 160 == c.suit && !s.fenced u
    else if u < 648 then (u - 640) / 2 == c.suit
    else if u < 656 then (u - 648) / 2 == c.suit
    else false
  else u == c.suit * 160 + c.hand

/-- Cut d contains cut c (R444). -/
def Cut.covers (d c : Cut) : Bool :=
  d.scope == 0 || (d.scope == 1 && 1 ≤ c.scope && d.suit == c.suit) ||
    (d.scope == 2 && c.scope == 2 && d.suit == c.suit && d.hand == c.hand)

/-- The Bell rings: a new cut starts, absorbs the narrower cuts in progress, and is itself part of a wider cut in
progress or held (R444 to R448). BELL.STAT takes the source. -/
def State.ring (s : State) (scope suit hand source : Nat) : State :=
  let c : Cut := { scope := scope, suit := suit, hand := hand, source := source, t0 := s.time }
  let s1 := s.setField Reg.bellStat 25 4 source
  if s.bell.cuts.any (·.covers c) then s1
  else
    let keep := s.bell.cuts.filter fun d => d.complete || !(c.covers d)
    State.syncMode { s1.setBit Reg.bellStat 30 with bell := { s.bell with cuts := keep ++ [c] } }

/-- The reeves' action on a condition that arises from the deal: the package Bell, and the job stops (R432). -/
def State.reeveStop (s : State) : State :=
  let s := s.ring 0 0 0 7
  { s with job := { s.job with stopWanted := if s.job.run then 1 else s.job.stopWanted } }

/-! ## Capacity (R285, R342) -/

/-- Bytes of a suit's range less its mapped-out pseudo-channels, whether or not the suit is in service. -/
def State.range (s : State) (i : Nat) : Nat := (s.part.suitMB - (s.suit i).outPcs.length * s.part.pcMB) * 1000000

/-- Bytes of the suit's valid range (R285, R342). A suit folded with its rails off holds none (DEDUCED, assumption 25). -/
def State.capMB (s : State) (i : Nat) : Nat :=
  if !s.suitDark i then s.part.suitMB - (s.suit i).outPcs.length * s.part.pcMB else 0
def State.capBytes (s : State) (i : Nat) : Nat := s.capMB i * 1000000

/-! ## Escalation and page faults of stations (R54, R303) -/

/-- A station escalates a tile or record read (R54): it stops, HAND.SEQ.STAT.CRCFAIL is set and TILE_CRC is posted. -/
def State.escalate (s : State) (st u tid kind : Nat) (refetched : Bool) (serial : Nat) : State :=
  let h := handOf st u
  let d := (tid % 2 ^ 24) <<< 24 + st <<< 20 + kind <<< 18 + b2n refetched <<< 17 + serial % 2 ^ 17
  (((s.haltStation st u).setBit (Reg.seqStat h) 26).postHand h st (epOf st u) 2 0x01 d serial (s.recordOf st u serial))

/-- A demand access of a station faults (R303, R335): the station stops, the hand records the first such fault and
reports it, and R432 follows. -/
def State.pageFault (s : State) (st u va kind : Nat) (pcopy : Bool) (serial : Nat) : State :=
  let h := handOf st u
  let unit := if st ≤ 5 then u % 17 else if st = 6 then 24 else 25
  let s := s.haltStation st u
  let s := if st = 1 then s.setBit (Reg.loadStat u) 30 else if st = 5 then s.setBit (Reg.storeStat u) 30 else s
  let s :=
    if s.flag (Reg.fstat h) 31 then s
    else
      (s.setReg64 (Reg.fva h) (va % 2 ^ 48)).setReg (Reg.fstat h)
        (BitVec.ofNat 32 (2 ^ 31 + unit <<< 24 + st <<< 20 + b2n pcopy <<< 18 + kind <<< 16 + serial % 2 ^ 16))
  (s.note (.pageFault h va)).reeveStop

/-! ## Ports and credits (R57 to R62) -/

/-- Lines that the core's stations have requested and not yet received, each in a context of the core's pool (R333). -/
def Core.requests (c : Core) : List Nat :=
  (c.ld ++ c.cu ++ c.dr ++ c.ve ++ c.st).flatMap fun x => x.a.req ++ x.b.req

def Core.port (c : Core) (p : Nat) : Port := PMap.get { credits := portDepth p } c.ports p
def Core.slot (c : Core) (n : Nat) : Tile := PMap.get { hdr := 0, pay := 0 } c.slots n
def Core.setPort (c : Core) (p : Nat) (v : Port) : Core := { c with ports := PMap.put c.ports p v }
def Core.setSlot (c : Core) (n : Nat) (t : Tile) : Core := { c with slots := PMap.put c.slots n t }

/-- The scratch slot of the i-th oldest tile of a port. -/
def portSlotOf (p : Nat) (q : Port) (i : Nat) : Nat := portSlot p + (q.rd + i) % portDepth p

/-- The i-th oldest tile that a port holds, if it holds so many. -/
def Core.peek (c : Core) (p i : Nat) : Option Tile :=
  let q := c.port p
  if i < q.count then some (c.slot (portSlotOf p q i)) else none

/-- A tile written into a port: the producer spends a credit (R59). -/
def Core.push (c : Core) (p : Nat) (t : Tile) : Core :=
  let q := c.port p
  (c.setSlot (portSlotOf p q q.count) t).setPort p { q with count := q.count + 1, credits := q.credits - 1 }

/-- The oldest tile of a local port used for the last time: its credit is on its way to the producer (R59). -/
def Core.release (c : Core) (p : Nat) : Core :=
  let q := c.port p
  c.setPort p { q with rd := (q.rd + 1) % portDepth p, count := q.count - 1, returning := q.returning + 1,
                       checked := q.checked - 1, srcs := q.srcs.drop 1 }

/-- The message is a tile for a P8, and the payload bytes of a message's packet (R352). -/
def Msg.isTile : Msg → Bool
  | .p8tile _ => true
  | _ => false
def Msg.size : Msg → Nat
  | .p8tile _ => 4096
  | .data _ _ _ bytes => bytes.length
  | _ => 0

/-- A packet that a unit sends: it stands at the router of its source (R347). Control packets and P8 tiles are ordered
(R353). -/
def State.send (s : State) (src dest vc pos : Nat) (m : Msg) : State :=
  { s with net := s.net ++ [{ dest := BitVec.ofNat 16 dest, src := BitVec.ofNat 16 src, vc := BitVec.ofNat 2 vc,
                              ord := vc == 3 || m.isTile, paylen := m.size, msg := m, pos := pos }] }

/-- The oldest tile of a port used for the last time. A P8 credit travels to the endpoint in the tile's SRC on the
control channel, or stays with the core when it is the core's own (R59, R60). -/
def State.releaseTile (s : State) (k p : Nat) : State :=
  if p = 8 then
    let q := (s.core k).port 8
    let src := q.srcs.headD 0
    let c := (s.core k).setPort 8 { q with rd := (q.rd + 1) % 8, count := q.count - 1, checked := q.checked - 1, srcs := q.srcs.drop 1 }
    (s.setCore k c).send (epCore k) src 3 (k / 17) (.p8credit k 1 false)
  else s.setCore k ((s.core k).release p)

/-- A P8 peer noted, up to 8 hands (R433, R435). -/
def Hand.notePeer (d : Hand) (p : Nat) : Hand :=
  if d.peers.contains p then d
  else if d.peers.length < 8 then { d with peers := d.peers ++ [p] }
  else { d with morePeers := true }

/-! ## Staged registers and grace periods (R84, R449, R531, R541) -/

/-- The configuration block, by block number, that a covered register belongs to (R537, R538). -/
def blockOf (a : Nat) : Nat :=
  if a < 0x10000000 then 0x1FC0
  else
    let su := (a - 0x10000000) / 0x08000000
    let o := (a - 0x10000000) % 0x08000000
    if o < 0x01000000 then su * 0x2000 + 0x1FE0
    else
      let h := (o - 0x01000000) / 0x40000
      let q := (o - 0x01000000) % 0x40000
      if q < 0x10000 then su * 0x2000 + h * 0x20 else 0x8000 + su * 0x2000 + h * 0x20 + (q - 0x10000) / 0x2000

/-- A grace period starts in the block of a register (R541). -/
def State.startGrace (s : State) (a : Nat) : State :=
  let b := blockOf a
  let g := max 1 (s.field Reg.cfgCtl 16 16) * 1000000
  { s with cfg := PMap.put s.cfg b { (PMap.get {} s.cfg b) with grace := some (s.time + g) } }

/-- The pending value of a register takes effect, as a change to covered words. -/
def State.commitOne (s : State) (a : Nat) (v : W32) : State := (s.setReg a v).startGrace a

/-- The pending values of the addresses that `p` admits take effect all at once (R449). -/
def State.commitStaged (s : State) (p : Nat → Bool) : State :=
  let s1 := (s.staged.filter fun e => p e.1).foldl (fun (s : State) (e : Nat × W32) => s.commitOne e.1 e.2) s
  { s1 with staged := s1.staged.filter fun e => !p e.1 }

/-- MODE of SUIT.GRAN.CTL takes effect at once, for its pending value too (R294, R338). -/
def State.setGranMode (s : State) (i m : Nat) : State :=
  let a := Reg.granCtl i
  let s1 := if s.field a 16 2 = m then s else (s.setField a 16 2 m).startGrace a
  match PMap.find s1.staged a with
  | some x => { s1 with staged := PMap.put s1.staged a (BitVec.ofNat 32 (setBits x.toNat 16 2 m)) }
  | none => s1

/-- A recovery begins: the reeves of its suits set tensor-aware mode (R294). -/
def State.recover (s : State) (l : List Nat) : State :=
  if !s.job.run then s
  else
    let s1 := l.foldl (fun (s : State) i => s.setGranMode i 1) s
    { s1 with recov := { s1.recov with aware := (s1.recov.aware ++ l).dedup } }

/-- The recovery of a unit goes on, or may begin: no other is in progress, no cut is, and the lead reeve is not waiting for room in
the log (R422, R438, R448; DEDUCED, assumption 98). -/
def State.mayRecover (s : State) (key : Nat) : Bool :=
  !s.recov.overCut && (match s.recov.busy with | none => s.bell.cuts.all fun c => c.complete | some b => b == key)
/-- A fold in suit i may act: it ends a recovery of a unit of the suit (R438, R448). -/
def State.mayFold (s : State) (i : Nat) : Bool :=
  !s.recov.overCut &&
    (match s.recov.busy with | none => s.bell.cuts.all fun c => c.complete | some b => (decide (b < 640) && b / 160 == i) || b == 640 + i)
def State.setBusy (s : State) (b : Option Nat) : State := { s with recov := { s.recov with busy := b } }

/-- Normal mode again in the suits in which the deal streams: no cut holds any part of them (R294). -/
def State.streams (s : State) : State :=
  let held := fun (i : Nat) => s.bell.cuts.any fun c => c.scope == 0 || decide (3 ≤ c.scope) || c.suit == i
  let s1 := (s.recov.aware.filter fun i => !held i).foldl (fun (s : State) i => s.setGranMode i 0) s
  { s1 with recov := { s1.recov with aware := s1.recov.aware.filter held } }

/-- A staged register of hand h, its cores' included (R533 to R536). -/
def isHandStaged (h a : Nat) : Bool :=
  a == Reg.seqCtl h || a == Reg.pivotCtl h ||
    (decide (handBase h + 0x10000 ≤ a) && decide (a < handBase h + 0x32000) &&
      ((a - handBase h) % 0x2000 == 0x100 || (a - handBase h) % 0x2000 == 0x200))

/-- A package-epoch register. -/
def isPkgStaged (a : Nat) : Bool :=
  a == Reg.dealerCtl || suits4.any fun i => a == Reg.granCtl i || a == Reg.hbmCtl i || a == Reg.reeveCtl i

/-- A register whose pending value is applied under R360. -/
def isApplied (a : Nat) : Bool :=
  suits4.any fun i => a == Reg.fabCtl i || (decide (Reg.fence i 0 ≤ a) && decide (a ≤ Reg.fence i 4))

end Sys2Proof.Machine
end

