-- ==== Sys2Proof/Machine/Links.lean ====
section
/-! DEFINITION. Places of the fabric and the links between suits (R17 to R20, R24, R288, R347, R348, R355, R361, R395). -/

namespace Sys2Proof.Machine

/-! ## Places (R347, R348) -/

/-- Column, row of a hand router; a place below 640 is the router of that hand, 640 + a the Manor side of suit a's link. -/
def px (p : Nat) : Nat := p % 160 % 16
def py (p : Nat) : Nat := p % 160 / 16
def place (a x y : Nat) : Nat := a * 160 + y * 16 + x

/-- Side of suit a that faces suit b: 0 E, 1 S, 2 W, 3 N; none for partners (R348). -/
def facing (a b : Nat) : Option Nat :=
  match a, b with
  | 0, 1 => some 0
  | 0, 2 => some 1
  | 1, 0 => some 2
  | 1, 3 => some 1
  | 2, 0 => some 3
  | 2, 3 => some 0
  | 3, 1 => some 3
  | 3, 2 => some 2
  | _, _ => none

/-- The bridge end of suit a that faces suit b, as suit * 2 + end, and the bridge end that faces bridge end b (R24). -/
def bridgeOf (a b : Nat) : Nat :=
  match a, b with
  | 0, 2 => 1
  | 1, 3 => 3
  | 2, 3 => 5
  | 3, 2 => 7
  | _, _ => a * 2
def peerEnd (b : Nat) : Nat := [2, 4, 0, 6, 1, 7, 3, 5].getD b 0

/-- Router of the i-th of suit a's five M ports (R348). -/
def mPort (a i : Nat) : Nat :=
  match a with
  | 0 => place 0 (11 + i % 5) 9
  | 1 => place 1 (i % 5) 9
  | 2 => place 2 (11 + i % 5) 0
  | _ => place a (i % 5) 0

/-- Place of an element in a list. -/
def indexOf (l : List Nat) (x : Nat) : Nat := (l.takeWhile (· != x)).length

/-- The ring of R17 in ring position order, and the ring over the suits in service (R20). -/
def ring4 : List Nat := [0, 1, 3, 2]
def State.ringSuits (s : State) : List Nat := ring4.filter s.suitUp

/-- Suit b carries traffic as the routers of suit a have it: their active fold mask does not name it (R359, R360, R393). -/
def State.routed (s : State) (a b : Nat) : Bool := !bit (s.foldMask a) b

/-! ## Links (R361, R395) -/

/-- Key of a link's direction, which a bridge end, or with `manor` the Manor link end of its suit, sends or receives. A
bridge's direction goes by the end that receives. -/
def linkKey (b : Nat) (manor sent : Bool) : Nat :=
  if manor then b / 2 * 8 + 2 + b2n sent else (if sent then peerEnd b else b) * 4
def State.link (s : State) (k : Nat) : Link := PMap.get {} s.links k
def State.setLink (s : State) (k : Nat) (l : Link) : State := { s with links := PMap.put s.links k l }

/-- The direction of a link between suits, or of a suit and the Manor, that the hop from place p to place q crosses. -/
def linkOf (p q : Nat) : Option Nat :=
  if p < 640 ∧ q < 640 then (if p / 160 = q / 160 then none else some (linkKey (bridgeOf (p / 160) (q / 160)) false true))
  else if p < 640 then some (linkKey (p / 160 * 2) true true)
  else if q < 640 then some (linkKey (q / 160 * 2) true false)
  else none

/-- Suit a's Manor link is in service. -/
def State.manorUp (s : State) (a : Nat) : Bool := !(s.link (linkKey (a * 2) true true)).down
/-- The bridge between neighbours a and b is trained and in service. -/
def State.bridgeUp (s : State) (a b : Nat) : Bool :=
  (facing a b).isSome && s.flag (Reg.bridgeEnd (bridgeOf a b)) 31 && !(s.link (linkKey (bridgeOf a b) false true)).down

/-- Suit a reaches suit b over their bridge: neighbours, both in the ring, the link in service (R355). -/
def State.bridged (s : State) (a b : Nat) : Bool := s.routed a b && s.bridgeUp a b

/-- A request of suit a reaches a home slice of suit b: its own, over the bridge of neighbours, or over the two Manor links
(R288, R355). A request that finds none of them in service waits. -/
def State.reaches (s : State) (a b : Nat) : Bool := a == b || s.bridgeUp a b || (s.manorUp a && s.manorUp b)

/-- Both ends of a link lose it, or have it again: LINK_UP and LINK_OUT of a bridge's two ends (R361, R395, R426). -/
def State.setLinkDown (s : State) (b : Nat) (manor down retrained : Bool) : State :=
  let one := fun (s : State) (sent : Bool) =>
    let k := linkKey b manor sent
    s.setLink k { s.link k with down := down, tries := if retrained then 0 else (s.link k).tries, retrained := retrained || (s.link k).retrained }
  let s1 := one (one s true) false
  if manor then s1
  else [b, peerEnd b].foldl (fun (s : State) e =>
    if down then (s.setBit (Reg.bridgeEnd e) 30).clearBit (Reg.bridgeEnd e) 31
    else (s.clearBit (Reg.bridgeEnd e) 30).setBit (Reg.bridgeEnd e) 31) s1

end Sys2Proof.Machine
end

