-- ==== Sys2Proof/Machine/Memory.lean ====
section
/-! DEFINITION. The operations over memory: the interleave, the granary's lines and their write-back, HBM and its errors, the
stream detectors, translation, reads and writes of bytes and tiles, the tensor table (R285 to R305, R309, R315 to R323, R339,
R610). -/

namespace Sys2Proof.Machine

/-! ## The interleave (R286, R287, R613) -/

/-- A place after a list of swaps, those beyond the places 0 to n - 1 left out: a permutation of them. -/
def swapped (n : Nat) (l : List (Nat × Nat)) (x : Nat) : Nat :=
  l.foldl (fun x p => if n ≤ p.1 ∨ n ≤ p.2 then x else if x = p.1 then p.2 else if x = p.2 then p.1 else x) x

/-- The swaps of a hash table that belong to one suit, mask and third key. -/
def swapsFor (t : List (Nat × Nat × Nat × Nat × Nat)) (i mask key : Nat) : List (Nat × Nat) :=
  t.filterMap fun e => if e.1 = i ∧ e.2.1 = mask ∧ e.2.2.1 = key then some e.2.2.2 else none

/-- The live pseudo-channels of a suit, given the mask of those that are out. -/
def livePcs (mask : Nat) : List Nat := (upTo 64).filter fun p => !bit mask p

/-- Blocks of a suit's range: each holds one 256-byte granule of every live pseudo-channel (R286, R328). The last one is not
whole (assumption 13). -/
def blocksOf (p : Part) : Nat := (p.pcMB * 1000000 + 255) / 256

/-- The pseudo-channel of a byte offset within a suit (R286). -/
def channelOf (p : Part) (i mask off : Nat) : Nat :=
  let l := livePcs mask
  let g := off / 256
  l.getD (swapped l.length (swapsFor p.hash.granules i mask (g / l.length)) (g % l.length)) 0

/-- The sector, within its pseudo-channel's storage, of a byte offset (R286). -/
def sectorOf (p : Part) (i mask off : Nat) : Nat :=
  let n := off / 256 / (livePcs mask).length * 8 + off % 256 / 32
  swapped (8 * blocksOf p) (swapsFor p.hash.sectors i mask (channelOf p i mask off)) n

/-- The byte offset that a sector of a live pseudo-channel holds: the inverse of the two above (R613). -/
def offsetOf (p : Part) (i mask pc sector : Nat) : Nat :=
  let l := livePcs mask
  let n := swapped (8 * blocksOf p) (swapsFor p.hash.sectors i mask pc).reverse sector
  let b := n / 8
  (b * l.length + swapped l.length (swapsFor p.hash.granules i mask b).reverse (l.idxOf pc)) * 256 + n % 8 * 32

/-- Mask of a suit's pseudo-channels that are out. -/
def State.outMask (s : State) (i : Nat) : Nat := sumL ((s.suit i).outPcs.map (2 ^ ·))

/-- Pseudo-channel, sector and home slice of a physical address under the interleave in force (R286, R287). -/
def State.pcOf (s : State) (pa : Nat) : Nat := channelOf s.part (pa / 2 ^ 38) (s.outMask (pa / 2 ^ 38)) (pa % 2 ^ 38)
def State.sectorNo (s : State) (pa : Nat) : Nat := sectorOf s.part (pa / 2 ^ 38) (s.outMask (pa / 2 ^ 38)) (pa % 2 ^ 38)
/-- The cell of HBM that holds a sector: suit, pseudo-channel and sector number in one key. -/
def hbmKey (i pc sector : Nat) : Nat := (i * 64 + pc) * 2 ^ 26 + sector
def State.cellOf (s : State) (p : Nat) : Nat := hbmKey (p / 2 ^ 38) (s.pcOf p) (s.sectorNo p)
/-- The address whose sector a cell holds. -/
def State.cellAt (s : State) (k : Nat) : Nat :=
  k / 2 ^ 32 * 2 ^ 38 + offsetOf s.part (k / 2 ^ 32) (s.outMask (k / 2 ^ 32)) (k / 2 ^ 26 % 64) (k % 2 ^ 26)
def State.sliceOf (s : State) (pa : Nat) : Nat := s.pcOf pa / 2

/-- The set of a line among its suit's: the slice's 1,536 sets stand together (R290). -/
def State.setOf (s : State) (line : Nat) : Nat :=
  let n := match s.part.hash.sets.find? fun e => e.1 == line with | some e => e.2 | none => line
  s.sliceOf (line * 128) * 1536 + n % 1536

/-! ## Sectors and lines -/

/-- The sectors that n bytes from an address touch. -/
def sectorsIn (pa n : Nat) : List Nat :=
  if n = 0 then [] else (upTo ((pa + n - 1) / 32 - pa / 32 + 1)).map fun i => (pa / 32 + i) * 32

/-- The lines that n bytes from a physical address touch. -/
def linesIn (pa n : Nat) : List Nat :=
  if n = 0 then [] else (upTo ((pa + n - 1) / 128 - pa / 128 + 1)).map fun i => pa / 128 + i

/-- Four flags, one to a sector of a line. -/
def mask4 (f : Nat → Bool) : BitVec 4 := BitVec.ofNat 4 (b2n (f 0) + 2 * b2n (f 1) + 4 * b2n (f 2) + 8 * b2n (f 3))
/-- Sectors of a line that n bytes from a touch, and those that they cover. -/
def sectorMask (line a n : Nat) : BitVec 4 :=
  mask4 fun k => decide (a < line * 128 + 32 * (k + 1)) && decide (line * 128 + 32 * k < a + n)
def wholeMask (line a n : Nat) : BitVec 4 :=
  mask4 fun k => decide (a ≤ line * 128 + 32 * k) && decide (line * 128 + 32 * (k + 1) ≤ a + n)

/-- The line is in its home slice. -/
def State.lineAt (s : State) (i line : Nat) : Option GLine := (s.suit i).gran.find? fun g => g.line == line

/-- The sector is valid in its line. -/
def State.sectorCached (s : State) (p : Nat) : Option GLine :=
  match s.lineAt (p / 2 ^ 38) (p / 128) with
  | some g => if g.valid.getLsbD (p % 128 / 32) then some g else none
  | none => none

/-- The byte that HBM itself holds: beneath a dirty sector it is older than what accesses meet (R290). -/
def State.hbmByte (s : State) (a : Nat) : BitVec 8 :=
  match s.sectorCached a with
  | some g => if g.dirty.getLsbD (a % 128 / 32) then g.under.extractLsb' (a % 128 * 8) 8 else Memory.byte s.mem a
  | none => Memory.byte s.mem a

/-! ## Errors in HBM (R321 to R324, R328, R341) -/

/-- A sector whose contents a map-out lost and that nothing has rewritten (R328). -/
def State.lostSector (s : State) (p : Nat) : Bool :=
  (s.lostPc.any fun x => x.1 == p / 2 ^ 38 && channelOf s.part x.1 x.2.1 (p % 2 ^ 38) == x.2.2) && !s.healed.contains p

/-- A read of the sector from HBM returns poison (R322, R323). -/
def State.hbmBad (s : State) (p : Nat) : Bool :=
  s.poisoned.contains p || (!s.lostPc.isEmpty && s.lostSector p) || (!s.latent.isEmpty && PMap.get 0 s.latent (s.cellOf p) % 4 == 2)

/-- An access that meets the sector meets poison: its line's mark where the sector is valid there, HBM's elsewhere. -/
def State.sectorBad (s : State) (p : Nat) : Bool :=
  match s.sectorCached p with
  | some g => g.bad.getLsbD (p % 128 / 32)
  | none => s.hbmBad p

/-- Neither HBM nor a line of the suit holds any poison. -/
def State.poisonFree (s : State) (i : Nat) : Bool :=
  s.poisoned.isEmpty && s.lostPc.isEmpty && s.latent.isEmpty && (s.suit i).gran.all fun g => g.bad == 0

/-- A sector of the n bytes from a physical address holds poison (R323). -/
def State.poisonIn (s : State) (pa n : Nat) : Bool := !s.poisonFree (pa / 2 ^ 38) && (sectorsIn pa n).any s.sectorBad

/-- The severity that the stack reported is kept if it is the highest (R341). -/
def State.noteSev (s : State) (i pc sev : Nat) : State :=
  if s.field (Reg.hbmPc i pc) 28 2 < sev then s.setField (Reg.hbmPc i pc) 28 2 sev else s

/-- A corrected error (R321). -/
def State.hbmCe (s : State) (i pc : Nat) : State := s.countSat (Reg.hbmPc i pc) 0 16 1

/-- An uncorrectable error in a sector (R322, R324): poison, read back, counted, posted. `hard` says that the read-back
does not return the poison codeword. -/
def State.hbmUe (s : State) (i pc sector pa sev : Nat) (hard demand : Bool) : State :=
  let p := pa / 32 * 32
  let k := hbmKey i pc sector
  let n := PMap.get 0 (s.suit i).ueCounts pc + 1
  let s1 := { s with poisoned := if s.poisoned.contains p then s.poisoned else s.poisoned ++ [p]
                     hardSectors := if hard && !s.hardSectors.contains k then s.hardSectors ++ [k] else s.hardSectors
                     latent := if hard then s.latent else PMap.del s.latent k }
  let s2 := s1.setSuit i { s1.suit i with ueCounts := PMap.put (s1.suit i).ueCounts pc n }
  let s3 := s2.countSat (Reg.hbmPc i pc) 16 8 1
  let s4 := if hard then s3.setBit (Reg.hbmPc i pc) 30 else s3
  let detail := (sector % 2 ^ 26) <<< 22 + (sev % 4) <<< 20 + b2n hard <<< 19 + b2n demand <<< 18 + (satAt 1023 n) <<< 8
  s4.post (i * 4 + pc / 16) 2 0x03 (epStation i 1 pc) detail

/-- A controller reads a sector: a poisoned one returns its codeword; an error that waits there is reported, corrected or
found uncorrectable (R321, R322). -/
def State.hbmRead (s : State) (p : Nat) (demand : Bool) : State :=
  if s.latent.isEmpty || s.poisoned.contains p then s
  else
    match PMap.find s.latent (s.cellOf p) with
    | none => s
    | some x =>
      let i := p / 2 ^ 38
      let pc := s.pcOf p
      let s1 := s.noteSev i pc (bits x 2 2)
      match x % 4 with
      | 0 => s1
      | 1 => s1.hbmCe i pc
      | _ => s1.hbmUe i pc (s.sectorNo p) p (bits x 2 2) (bit x 4) demand

/-- The sectors of a line that a mask names, read from HBM in order. -/
def State.hbmReads (s : State) (line : Nat) (m : BitVec 4) (demand : Bool) : State :=
  (upTo 4).foldl (fun (s : State) (k : Nat) => if m.getLsbD k then s.hbmRead (line * 128 + 32 * k) demand else s) s

/-- Sectors of a line that HBM holds as poison. -/
def State.badMask (s : State) (line : Nat) : BitVec 4 := mask4 fun k => s.hbmBad (line * 128 + 32 * k)

/-- A dirty sector reaches HBM (R290): poison is written as the codeword, data clears it; an error that stood there is
overwritten unless it is hard. -/
def State.hbmWrite (s : State) (p : Nat) (bad : Bool) : State :=
  { s with
    poisoned := if bad then (if s.poisoned.contains p then s.poisoned else s.poisoned ++ [p]) else s.poisoned.filter (· != p)
    latent := if s.latent.isEmpty || bit (PMap.get 0 s.latent (s.cellOf p)) 4 then s.latent else PMap.del s.latent (s.cellOf p)
    healed := if !s.lostPc.isEmpty && s.lostSector p then s.healed ++ [p] else s.healed }

/-- A line's dirty sectors are written back. -/
def State.writeBack (s : State) (g : GLine) : State :=
  (upTo 4).foldl (fun (s : State) (k : Nat) =>
    if g.dirty.getLsbD k then s.hbmWrite (g.line * 128 + 32 * k) (g.bad.getLsbD k) else s) s

/-- An error put into a cell of the HBM array: ecc, on-die severity, whether a write does not mend it. -/
def State.putError (s : State) (k ecc sev : Nat) (hard : Bool) : State :=
  if ecc = 0 ∧ sev = 0 then s else { s with latent := PMap.put s.latent k (min 2 ecc + (sev % 4) <<< 2 + b2n hard <<< 4) }

/-! ## Lines (R290 to R293, R318, R319) -/

/-- The class of a request's tensor under SUIT.GRAN.PRIO, in tensor-aware mode (R293, R339). -/
def State.tensorClass (s : State) (i tid : Nat) : Nat :=
  if tid = 0 ∨ s.field (Reg.granCtl i) 16 2 ≠ 1 then 0
  else
    let hit := (upTo 32).find? fun n =>
      let sh := min 24 (s.field (Reg.prio i n) 24 5)
      s.field (Reg.prio i n) 0 24 >>> sh == tid >>> sh
    match hit with | none => 0 | some n => s.field (Reg.prio i n) 29 3

/-- The way that makes room in a set, and by how much every age rises: a free way, else the victim of R292, among the
ways of the lowest class in tensor-aware mode (R293). A line whose fill is in flight is never the victim, nor, for a
prefetch, a line of age 0 (R318). -/
def victim (ls : List GLine) (aware prefetch : Bool) : Option (Nat × Nat) :=
  match (upTo 16).find? fun w => !(ls.any fun g => g.way == w) with
  | some w => some (w, 0)
  | none =>
    let ok := ls.filter fun g => !g.filling
    let low := ok.foldl (fun m g => min m g.cls) 7
    let cand := if aware then ok.filter fun g => g.cls == low else ok
    let top := cand.foldl (fun m g => max m g.age) 0
    if cand.isEmpty || (prefetch && top == 0) then none
    else
      match (upTo 16).find? fun w => cand.any fun g => g.way == w && g.age == top with
      | some w => some (w, 3 - top)
      | none => none

/-- The fill of a line in flight has arrived: the sectors that no write has covered come from HBM (R319). -/
def State.landFill (s : State) (i : Nat) (g : GLine) : State :=
  let s1 := s.hbmReads g.line (~~~g.valid) false
  let g1 := { g with filling := false, valid := 0xF, bad := (g.bad &&& g.valid) ||| (s.badMask g.line &&& ~~~g.valid) }
  s1.setSuit i { s1.suit i with gran := (s1.suit i).gran.map fun x => if x = g then g1 else x }

/-- Every fill in flight of a suit that `p` admits arrives. -/
def State.landFills (s : State) (i : Nat) (p : GLine → Bool) : State :=
  ((s.suit i).gran.filter fun g => g.filling && p g).foldl (fun (s : State) g => s.landFill i g) s

/-- A line enters the granary; the victim is written back first. A demand fill that finds every way of its set filling waits
until those fills have arrived; a prefetch that finds no way is dropped. -/
def State.fillLine (s : State) (i line tid age : Nat) (pf filling : Bool) (valid dirty bad : BitVec 4) (under : BitVec 1024) : State :=
  let st := s.setOf line
  let aware := s.field (Reg.granCtl i) 16 2 == 1
  let first := victim ((s.suit i).gran.filter fun g => g.set == st) aware pf
  let s1 := if first.isNone && !pf then s.landFills i fun g => g.set == st else s
  match (if pf then first else victim ((s1.suit i).gran.filter fun g => g.set == st) aware pf) with
  | none => s1
  | some (w, up) =>
    let out := (s1.suit i).gran.filter fun g => g.set == st && g.way == w
    let s2 := out.foldl State.writeBack s1
    let others := (s2.suit i).gran.filterMap fun g =>
      if g.set = st then (if g.way = w then none else some { g with age := min 3 (g.age + up) }) else some g
    let g : GLine := { line := line, set := st, way := w, valid := valid, dirty := dirty, bad := bad, under := under, age := age,
                       cls := s.tensorClass i tid, pf := pf, filling := filling }
    s2.setSuit i { s2.suit i with gran := others ++ [g] }

/-- A demand request meets a line: its age is 0, and a prefetch is counted as used, on time or late (R292, R319, R569). -/
def State.meetLine (s : State) (i : Nat) (g g1 : GLine) : State :=
  let g2 := { g1 with age := 0, pf := false }
  let s1 := s.setSuit i { s.suit i with gran := (s.suit i).gran.map fun x => if x = g then g2 else x }
  if g.pf then ((s1.add64 (Reg.pfUsed i) 1).add64 (if g.filling then Reg.pfLate i else Reg.pfOnTime i) 1) else s1

/-- A demand read of some sectors of a line: a hit, sectors that are not valid being read from HBM, or a demand fill of the
whole line with age 1. -/
def State.readLine (s : State) (i line tid : Nat) (m : BitVec 4) : State :=
  match s.lineAt i line with
  | some g =>
    let need := if g.filling then ~~~g.valid else m &&& ~~~g.valid
    (s.hbmReads line need true).meetLine i g
      { g with valid := g.valid ||| need, bad := (g.bad &&& g.valid) ||| (s.badMask line &&& need), filling := false }
  | none => (s.hbmReads line 0xF true).fillLine i line tid 1 false false 0xF 0 (s.badMask line) 0

/-- Bytes of a line as accesses meet them, as one number. -/
def State.lineBytes (s : State) (line : Nat) : BitVec 1024 := BitVec.ofNat 1024 (Memory.read s.mem (line * 128) 128)

/-- The sectors of a mask taken from one line image, the others from another. -/
def pickSectors (m : BitVec 4) (x y : BitVec 1024) : BitVec 1024 :=
  let k := fun (i : Nat) => if m.getLsbD i then (BitVec.allOnes 256).setWidth 1024 <<< (256 * i) else 0#1024
  let sel := k 0 ||| k 1 ||| k 2 ||| k 3
  (x &&& sel) ||| (y &&& ~~~sel)

/-- A write of n bytes from a to part of a line (R290, R291): a sector written in part and not valid is read from HBM first;
the sectors touched are valid and dirty; one written whole loses its poison, one written in part keeps it (R323). It stands
before the bytes themselves change. -/
def State.writeLine (s : State) (i line a n tid : Nat) : State :=
  let m := sectorMask line a n
  let w := wholeMask line a n
  match s.lineAt i line with
  | some g =>
    let need := m &&& ~~~w &&& ~~~g.valid
    (s.hbmReads line need true).meetLine i g
      { g with valid := g.valid ||| m, dirty := g.dirty ||| m,
               bad := ((g.bad &&& g.valid) ||| (s.badMask line &&& need)) &&& ~~~w,
               under := pickSectors (m &&& ~~~g.dirty) (s.lineBytes line) g.under }
  | none =>
    (s.hbmReads line (m &&& ~~~w) true).fillLine i line tid 1 false false m m (s.badMask line &&& m &&& ~~~w)
      (pickSectors m (s.lineBytes line) 0)

/-- Every line of a suit is written back and leaves the granary (R328). -/
def State.flushGranary (s : State) (i : Nat) : State :=
  let s1 := (s.suit i).gran.foldl State.writeBack s
  s1.setSuit i { s1.suit i with gran := [] }

/-! ## Page tables (R299 to R301) -/

/-- What an access does (R301). -/
inductive Acc where
  | read | write | atomic
  deriving DecidableEq, Repr

/-- The answer of a translation: a physical address and PCOPY, a fault with FSTAT's KIND and PCOPY (R335), or poison in a page
table (R323). -/
inductive Tr where
  | ok (pa : Nat) (pcopy : Bool)
  | fault (kind : Nat) (pcopy : Bool)
  | poison
  deriving DecidableEq, Repr

/-- Physical addresses of the entries of the three levels that a walk reads, as far as it comes (R299, R300). -/
def State.walkAt (s : State) (va : Nat) : List Nat :=
  let a1 := s.field Reg.mmuRoot 12 20 * 4096 + s.field (Reg.mmuRoot + 4) 0 8 * 2 ^ 32 + bits va 42 6 * 8
  let e1 := Memory.read s.mem a1 8
  if !bit e1 0 then [a1]
  else
    let a2 := bits e1 16 24 * 65536 + bits va 29 13 * 8
    let e2 := Memory.read s.mem a2 8
    if !bit e2 0 then [a1, a2] else [a1, a2, bits e2 16 24 * 65536 + bits va 16 13 * 8]

/-- The level-3 entry of a virtual address, if levels 1 and 2 are mapped. -/
def State.walk (s : State) (va : Nat) : Option Nat :=
  match s.walkAt va with
  | [_, _, a] => some (Memory.read s.mem a 8)
  | _ => none

/-- A sector that the walk reads holds poison: the reader stops as at poison in its data (DEDUCED, assumption 89). -/
def State.walkBad (s : State) (va : Nat) : Bool := (s.walkAt va).any fun a => s.poisonIn a 8

/-- The suit of a unit of the Bell's numbering: hands, Mills, bridge ends; 4, no suit, for those of the Manor. -/
def suitOfUnit (u : Nat) : Nat := if u < 640 then u / 160 else if u < 648 then (u - 640) / 2 else if u < 656 then (u - 648) / 2 else 4

/-- Requests of a unit find a way to the home of a virtual address (R288). A request that finds none waits
(DEDUCED, assumption 90). -/
def State.wayTo (s : State) (unit va : Nat) : Bool :=
  match s.walk va with
  | some e => s.reaches (suitOfUnit unit) (bits e 16 24 * 65536 / 2 ^ 38)
  | none => true

/-- The partner copy of a suit can be written: the partner is neither fused off nor folded, with its rails off or with a hand
fold (R305, R439, R440). -/
def State.partnerOk (s : State) (i : Nat) : Bool :=
  s.fusedIn (3 - i) && !(s.recov.foldedSuits.contains (3 - i)) && !(s.recov.outSuits.contains (3 - i))

/-- Translation of an access (R299 to R305). -/
def State.translate (s : State) (va : Nat) (a : Acc) : Tr :=
  if s.walkBad va then .poison
  else
  match s.walk va with
  | none => .fault 0 false
  | some e =>
    let frame := bits e 16 24 * 65536
    let suit := frame / 2 ^ 38
    if !bit e 0 || decide (s.capBytes suit ≤ frame % 2 ^ 38) then .fault 0 false
    else
      match a with
      | .read => if bit e 1 then .ok (frame + va % 65536) (bit e 6) else .fault 1 false
      | .write =>
        if !bit e 2 then .fault 2 false
        else if bit e 6 && !s.partnerOk suit then .fault 2 true
        else .ok (frame + va % 65536) (bit e 6)
      | .atomic =>
        if !(bit e 1 && bit e 2 && bit e 4) then .fault 3 false
        else if bit e 6 && !s.partnerOk suit then .fault 2 true
        else .ok (frame + va % 65536) (bit e 6)

/-- The page after that of va may be entered by a run-ahead read (R315). -/
def State.contPage (s : State) (va : Nat) : Bool :=
  match s.walk va with
  | none => false
  | some e => bit e 0 && bit e 1 && bit e 5

/-! ## Stream detectors (R315 to R317) -/

/-- The next page as a requester's translation attaches it (R315): with CONT = 1 the page and its frame, or no frame where a
prefetch may not read it (R316); nothing without CONT. Unmapped tables count as such a page. -/
def State.attach (s : State) (page : Nat) : Option (Nat × Option Nat) :=
  match s.walk (page * 65536) with
  | none => some (page, none)
  | some e =>
    if !bit e 0 then some (page, none)
    else if !bit e 5 then none
    else match s.translate (page * 65536) .read with | .ok pa _ => some (page, some pa) | _ => some (page, none)

/-- A stream after a demand request for virtual line v in the page with a frame: `att` is what the request carries if the
stream's next line lies in the page after. -/
def Det.step (d : Det) (v frame : Nat) (att : Option (Nat × Option Nat)) (stride : Int) (hits : Nat) : Det :=
  { d with last := v, frame := frame, stride := stride, hits := min 3 hits, ahead := d.ahead - 1,
           next := if (v : Int) / 512 < ((v : Int) + stride) / 512 then att else if d.last / 512 = v / 512 then d.next else none }

/-- A new stream takes the lowest free detector, or that of the stream that has gone longest without a demand request; the
list runs from that one to the latest used. -/
def takeDet (ds : List Det) (tid v frame : Nat) (stride : Int) (hits : Nat) (att : Option (Nat × Option Nat)) : List Det :=
  let mk := fun (n : Nat) => Det.step { slot := n, tid := tid, last := v, stride := 0, hits := 0, frame := frame } v frame att stride hits
  if ds.length < 4096 then
    match (upTo 4096).find? fun n => !ds.any fun d => d.slot == n with
    | some n => ds ++ [mk n]
    | none => ds
  else
    match ds with
    | [] => []
    | d :: r => r ++ [mk d.slot]

/-- A demand line request of a tensor at virtual line v trains the suit's detectors: a stream that expects the line goes on;
else the line and the tensor's request before it make a stream if they lie 1 to 511 lines apart. The tensor's latest request
is kept, with stride 0, to pair with the next (DEDUCED, assumption 91). -/
def train (ds : List Det) (tid v frame : Nat) (att : Option (Nat × Option Nat)) : List Det :=
  let lone := ds.find? fun d => d.tid == tid && d.stride == 0
  let ds1 :=
    match ds.find? fun d => d.tid == tid && d.stride != 0 && (v : Int) == (d.last : Int) + d.stride with
    | some d => (ds.erase d) ++ [d.step v frame att d.stride (d.hits + 1)]
    | none =>
      match lone with
      | none => ds
      | some l =>
        let st := (v : Int) - l.last
        if st = 0 ∨ 511 < st.natAbs then ds else takeDet ds tid v frame st 2 att
  match lone with
  | some l => if ds1.contains l then (ds1.erase l) ++ [{ l with last := v, frame := frame }] else ds1
  | none => takeDet ds1 tid v frame 0 1 none

/-- Detection is active while PF_EN = 1; requests without a tensor train nothing (R317, R338). -/
def State.trainOn (s : State) (i tid v frame : Nat) : State :=
  if tid = 0 ∨ !s.flag (Reg.granCtl i) 0 then s
  else s.setSuit i { s.suit i with dets := train (s.suit i).dets tid v frame (s.attach (v / 512 + 1)) }

/-! ## Demand accesses (R284, R289, R302) -/

/-- A unit whose translation cache does not hold a page walks the tables through the granary (R299, R302). Hands, Mills, bridge
ends and the Manor DMA (657) hold one; unit 658 stands for the application cores and PCIe, which hold none. Between deals no table
is walked (R465). -/
def State.walkLines (s : State) (unit va : Nat) : State :=
  if s.tlb.contains (unit, va / 65536) || !s.job.run then s
  else
    let s1 := (s.walkAt va).foldl (fun (s : State) a => s.readLine (a / 2 ^ 38) (a / 128) 0 (sectorMask (a / 128) a 8)) s
    if (s.walk va).isSome && decide (unit < 658) then { s1 with tlb := s1.tlb ++ [(unit, va / 65536)] } else s1

/-- The lines of n bytes within one page are read by demand. -/
def State.readLines (s : State) (va pa n tid : Nat) : State :=
  (List.zip (linesIn pa n) (linesIn va n)).foldl (fun (s : State) x =>
    (s.readLine (pa / 2 ^ 38) x.1 tid (sectorMask x.1 pa n)).trainOn (pa / 2 ^ 38) tid x.2 (pa / 65536 * 65536)) s

/-- What a demand read of n bytes within one page does to the granary, to HBM and to the detectors; the bytes themselves are
those of `vread`. -/
def State.seen (s : State) (unit tid va n : Nat) : State :=
  let s1 := s.walkLines unit va
  match s1.translate va .read with
  | .ok pa _ => s1.readLines va pa n tid
  | _ => s1

/-- Bytes written at a physical address through their lines. -/
def State.storePa (s : State) (tid pa n v : Nat) : State :=
  let s1 := (linesIn pa n).foldl (fun (s : State) l => s.writeLine (pa / 2 ^ 38) l pa n tid) s
  { s1 with mem := Memory.write s1.mem pa n v }

/-- The same offset in the partner suit (R18, R305). -/
def partnerPa (pa : Nat) : Nat := (3 - pa / 2 ^ 38) * 2 ^ 38 + pa % 2 ^ 38

/-- A write accepted at home, with its partner copy (R289, R305). -/
def State.storeHome (s : State) (tid pa : Nat) (pcopy : Bool) (n v : Nat) : State :=
  let s := s.storePa tid pa n v
  if pcopy then s.storePa tid (partnerPa pa) n v else s

/-- A write of a unit at a virtual address that translates to pa: the walk, the detectors, the bytes. -/
def State.storeVa (s : State) (unit tid va pa : Nat) (pcopy : Bool) (n v : Nat) : State :=
  let s1 := (s.walkLines unit va).storeHome tid pa pcopy n v
  (linesIn va n).foldl (fun (s : State) l => s.trainOn (pa / 2 ^ 38) tid l (pa / 65536 * 65536)) s1

/-- An atomic of a unit meets its word in the line at the home slice (R295), before it is applied. -/
def State.atHome (s : State) (unit tid va pa n : Nat) : State :=
  (s.walkLines unit va).readLine (pa / 2 ^ 38) (pa / 128) tid (sectorMask (pa / 128) pa n)

/-- The answer of a demand read. -/
inductive Rd (α : Type) where
  | ok (a : α)
  | poison
  | fault (va kind : Nat) (pcopy : Bool)
  deriving DecidableEq, Repr

/-- n bytes within one page, as a snapshot (R79). -/
def State.vread (s : State) (va n : Nat) : Rd Nat :=
  match s.translate va .read with
  | .fault k p => .fault va k p
  | .poison => .poison
  | .ok pa _ => if s.poisonIn pa n then .poison else .ok (Memory.read s.mem pa n)

/-- A write of n bytes within one page by a unit; none where it faults. -/
def State.vwrite (s : State) (unit tid va n v : Nat) : Option State :=
  match s.translate va .write with
  | .ok pa p => some (s.storeVa unit tid va pa p n v)
  | _ => none

/-- Why a write is not made: the fault it raises, or poison in its page tables. -/
inductive Refuse where
  | fault (va kind : Nat) (pcopy : Bool)
  | poison
  deriving DecidableEq, Repr

/-- What an access at an address meets before it is made, if it may not be made. -/
def State.accFault (s : State) (a : Acc) (va : Nat) : Option Refuse :=
  match s.translate va a with
  | .ok _ _ => none
  | .fault k p => some (.fault va k p)
  | .poison => some .poison

/-- The first of two. -/
def orFault (x y : Option Refuse) : Option Refuse := match x with | some f => some f | none => y

/-- A tile read from memory: the header, and the payload bytes that its BYTES covers, the rest zero (R48, R307). -/
def State.readTile (s : State) (hva pva : Nat) : Rd Tile :=
  match s.vread hva 32 with
  | .fault a k p => .fault a k p
  | .poison => .poison
  | .ok h =>
    let n := min 4096 (bits h 88 13)
    match s.translate pva .read with
    | .fault k p => .fault pva k p
    | .poison => .poison
    | .ok pa _ =>
      if s.poisonIn pa n then .poison else .ok { hdr := BitVec.ofNat 256 h, pay := BitVec.ofNat 32768 (Memory.read s.mem pa n) }

/-- Payload bytes that a tile read takes: those of the header's BYTES, none where the header does not answer. -/
def State.payloadBytes (s : State) (hva : Nat) : Nat := match s.vread hva 32 with | .ok h => min 4096 (bits h 88 13) | _ => 0

/-- What the read of a tile does to the granary. -/
def State.seenTile (s : State) (unit tid hva pva : Nat) : State :=
  (s.seen unit tid hva 32).seen unit tid pva (s.payloadBytes hva)

/-- A tile written to memory: its header and the first BYTES payload bytes (R311), or why not. -/
def State.writeTile (s : State) (unit tid hva pva : Nat) (t : Tile) : Except Refuse State :=
  match orFault (s.accFault .write hva) (s.accFault .write pva) with
  | some f => .error f
  | none =>
    match s.vwrite unit tid hva 32 t.hdr.toNat with
    | none => .error .poison
    | some s1 =>
      match s1.vwrite unit tid pva (min 4096 t.head.bytes) t.pay.toNat with
      | none => .error .poison
      | some s2 => .ok s2

/-! ## The tensor table (R66, R610) -/

/-- Virtual address of a tensor's table entry. -/
def State.entryVa (s : State) (tid : Nat) : Nat := s.job.tensorVa + tid * 64

/-- The entry of a tensor ID, read at use as a snapshot (R64); zero where the read does not answer. -/
def State.entry (s : State) (tid : Nat) : Nat :=
  match s.vread (s.entryVa tid) 64 with
  | .ok e => e
  | _ => 0

/-- The tensor ID names a tensor (R610). -/
def State.names (s : State) (tid : Nat) : Bool :=
  decide (1 ≤ tid) && decide (tid < s.job.tensorCount) && decide (Entry.fmt (s.entry tid) ≤ 7) &&
    decide (1 ≤ Entry.trows (s.entry tid)) && decide (1 ≤ Entry.tcols (s.entry tid))

/-- A read of one of the table's entries, for the tensor IDs given, that does not answer: a fault or poison (R303, R323). -/
def State.entryFault (s : State) (tids : List Nat) : Option Refuse :=
  tids.findSome? fun t =>
    if t = 0 ∨ s.job.tensorCount ≤ t then none
    else
      match s.vread (s.entryVa t) 64 with
      | .ok _ => none
      | .poison => some .poison
      | .fault a k p => some (.fault a k p)

/-- The table entries read. -/
def State.seenEntries (s : State) (unit : Nat) (tids : List Nat) : State :=
  tids.foldl (fun (s : State) t => if t = 0 ∨ s.job.tensorCount ≤ t then s else s.seen unit 0 (s.entryVa t) 64) s

/-- A station, or the sequencer, stops because of an access it may not make, or of poison that is not a tile's: TENSOR_ID as
given (R303, R323). -/
def State.refuse (s : State) (st u : Nat) (f : Refuse) (tid serial : Nat) : State :=
  match f with
  | .fault a k p => s.pageFault st u a k p serial
  | .poison => s.escalate st u tid 3 false serial

/-- A version the reader of tensor `tid` selects and the TENSOR_ID its tiles carry (R252, R253): 257 where no reader
entry matches, 512 + s where version s is selected and its buffer is not live or holds another version. -/
def versionOf (e tid rec : Nat) : Nat × Nat :=
  let rd := fun (i : Nat) => bits rec (32 + 32 * i) 32
  let hit := (upTo 4).filter fun i => bit (rd i) 31 && bits (rd i) 0 24 == tid
  match hit with
  | [] => (257, bits (rd 0) 0 24)
  | i :: _ =>
    let v := (bits rec 0 8 + 256 - bits (rd i) 24 2) % 256
    let b := bits rec (8 * (24 + 8 * (v % (Entry.nver e + 1)))) 64
    if bits b 8 2 == 1 && bits b 0 8 == v then (v, bits (rd 0) 0 24) else (512 + v, bits (rd 0) 0 24)

end Sys2Proof.Machine
end

