-- ==== Sys2Proof/Machine/Check.lean ====
section
/-! DEFINITION. The malformed records that the sequencer finds at dispatch: R70 and what each station's chapter adds
to it. -/

namespace Sys2Proof.Machine

/-- The open-port mask of logical core l of hand h (R58). -/
def State.portMask (s : State) (h l : Nat) : Nat := PMap.get 0x1FF (s.hand h).mask l
def State.portOpen (s : State) (h l p : Nat) : Bool := (s.portMask h l).testBit p

/-- Slots n .. n + c - 1 exist and none belongs to an open port (R58). -/
def State.slotsFree (s : State) (h l n c : Nat) : Bool :=
  decide (n + c ≤ 63) && (upTo c).all fun i =>
    match slotPort (n + i) with
    | none => true
    | some p => !s.portOpen h l p

/-- The extent lies in its tensor (R70). -/
def State.inTensor (s : State) (d : Desc) : Bool :=
  decide (d.row0 + d.nrows ≤ Entry.trows (s.entry d.tid)) && decide (d.col0 + d.ncols ≤ Entry.tcols (s.entry d.tid))

/-- An operand of one of the kinds given, a local port among `ports`, and the general rules of R70. -/
def State.opdOk (s : State) (h l : Nat) (kinds ports : List Nat) (d : Desc) : Bool :=
  kinds.contains d.kind &&
  (match d.kind with
   | 0 => true
   | 1 => s.names d.tid && s.inTensor d
   | 2 => ports.contains d.port && s.portOpen h l d.port && (d.tid == 0 || (s.names d.tid && s.inTensor d))
   | 3 => d.port == 8
   | 4 => s.slotsFree h l d.row0 d.count && (d.tid == 0 || s.names d.tid)
   | _ => false)

/-- The descriptor carries KIND and TENSOR_ID and nothing else (R306, R310). -/
def bareDesc (d : Nat) : Bool := bits d 3 5 == 0 && bits d 32 56 == 0

/-- A versioned tensor (R248). -/
def State.versioned (s : State) (tid : Nat) : Bool := Entry.nver (s.entry tid) != 0

/-- Tensor IDs whose table entries a record names: dispatch and begin read them (R64, R66). -/
def recordTids (r : BitVec 512) : List Nat :=
  ([0, 1, 2].map (Record.desc r)).filterMap fun d => if d.kind = 1 ∨ d.kind = 2 ∨ d.kind = 4 then some d.tid else none

/-- LOAD records (R306, R308, R314). -/
def State.loadOk (s : State) (h l : Nat) (r : BitVec 512) : Bool :=
  let a := Record.desc r 0
  let b := Record.desc r 1
  let c := Record.desc r 2
  let out := s.opdOk h l [2, 4] [0, 1, 2, 3] c
  if Record.opcode r = 1 then s.opdOk h l [1] [] a && b.kind == 0 && out && a.count == c.count
  else if Record.opcode r = 2 then
    s.opdOk h l [1] [] a && Entry.fmt (s.entry a.tid) == 6 && b.kind == 1 && bareDesc (Record.opd r 1) && s.names b.tid &&
      !s.versioned b.tid && out
  else false

/-- The group a CUBE record declares (R133). -/
def groupDecl (r : BitVec 512) : GroupDecl :=
  { wide := bit (Record.arg r) 31, br := Record.argBits r 25 3, bc := Record.argBits r 22 3 }

/-- CUBE records (R134, R138). -/
def State.cubeOk (s : State) (h l : Nat) (r : BitVec 512) : Bool :=
  let g := groupDecl r
  let eop := Record.argBits r 20 2
  (Record.opcode r == 1 || Record.opcode r == 2) &&
  s.opdOk h l [1, 2, 4] [0, 1, 7, 8] (Record.desc r 0) && s.opdOk h l [1, 2, 4] [0, 1, 7, 8] (Record.desc r 1) &&
  (Record.desc r 2).kind == 0 && decide ((g.br + 1) * (g.bc + 1) ≤ 8) &&
  (if Record.opcode r = 1 then eop == 0 else eop != 3) &&
  (match PMap.find (s.hand h).opens l with
   | none => bit (Record.arg r) 30
   | some o => !bit (Record.arg r) 30 && decide (o = g))

/-- The output grid of R153, if it is whole. -/
def drainGrid (g : GroupDecl) (ofmt : Nat) : Option (Nat × Nat) :=
  let rows := (g.br + 1) * (if g.wide then 16 else 32)
  let cols := (g.bc + 1) * 32
  if rows % fmtRows ofmt = 0 ∧ cols % fmtCols ofmt = 0 then some (rows / fmtRows ofmt, cols / fmtCols ofmt) else none

/-- DRAIN records (R150 to R154, R159); DISCARD ignores ARG and its operands. The second row of R245's table, a DRAIN
into P2, is none of R152's destinations and is refused (DEDUCED, assumption 93). -/
def State.drainOk (s : State) (h l : Nat) (r : BitVec 512) : Bool :=
  match PMap.get [] (s.hand h).handed l with
  | [] => false
  | g :: _ =>
    if Record.opcode r = 2 then true
    else if Record.opcode r = 1 then
      let ofmt := Record.argBits r 28 4
      let ew := Record.argBits r 26 2
      let deriv := bit (Record.arg r) 20
      let sumsq := bit (Record.arg r) 19
      let a := Record.desc r 0
      let b := Record.desc r 1
      let c := Record.desc r 2
      decide (ofmt < 8) && ew != 3 && decide (Record.argBits r 21 4 ≤ 8) && !(deriv && ew != 0) &&
      (if ew != 0 || deriv then s.opdOk h l [2, 4] [2, 8] a && a.count == c.count else a.kind == 0) &&
      s.opdOk h l [0, 4] [] b && (b.kind == 0 || b.count == 1) && s.opdOk h l [2, 4] [4, 5] c &&
      (c.tid == 0 || Entry.fmt (s.entry c.tid) == ofmt) &&
      decide (drainGrid g ofmt = some (c.nrows, c.ncols)) &&
      (!sumsq || (b.kind == 4 && decide (Record.argBits r 10 9 + c.count ≤ 512)))
    else false

/-- Wide tiles per payload tile (R193). -/
def wideCount (ofmt : Nat) : Nat := if ofmt = 2 ∨ ofmt = 3 then 4 else 2

/-- VECT records (R176 to R182, R194). -/
def State.vectOk (s : State) (h l : Nat) (r : BitVec 512) : Bool :=
  let a := Record.desc r 0
  let b := Record.desc r 1
  let c := Record.desc r 2
  if Record.opcode r = 1 then
    let once := bit (Record.arg r) 11
    let bcast := bit (Record.arg r) 10
    decide (Record.argBits r 12 4 < 8) && s.slotsFree h l (Record.argBits r 26 6) 1 &&
    s.opdOk h l [2, 4] [3, 4, 8] a && s.opdOk h l [0, 2, 4] [3, 4, 8] b && s.opdOk h l [2, 4] [6, 7] c &&
    (b.kind == 0 || (if bcast then b.count == 1 else b.count == a.count)) &&
    c.count == (if once then 1 else a.count)
  else if Record.opcode r = 2 then
    let ofmt := Record.argBits r 26 4
    let w := if ofmt = 0 then (if bit (Record.arg r) 31 then 2 else 1) else wideCount ofmt
    let fin := bit (Record.arg r) 30
    decide (ofmt < 4) && s.opdOk h l [0, 2, 4] [3, 4, 8] a && s.opdOk h l [2, 4] [3, 4] b &&
    s.opdOk h l [2, 4] [6, 7] c &&
    (let t := if fin then c.count else c.count / w
     (fin || c.count % w == 0) && (a.kind == 0 || a.count == w * t) && (b.count == t || b.count == w * t))
  else false

/-- STORE records (R310, R314, R251). -/
def State.storeOk (s : State) (h l : Nat) (r : BitVec 512) : Bool :=
  let a := Record.desc r 0
  let b := Record.desc r 1
  let c := Record.desc r 2
  if Record.opcode r = 1 then
    s.opdOk h l [2, 4] [5, 6] a && b.kind == 0 && s.opdOk h l [1, 3] [] c && a.count == c.count &&
      !(c.kind == 1 && s.versioned c.tid)
  else if Record.opcode r = 2 then
    s.opdOk h l [2, 4] [5, 6] a && s.opdOk h l [4] [] b && c.kind == 1 && bareDesc (Record.opd r 2) && s.names c.tid &&
      !s.versioned c.tid && decide (Entry.fmt (s.entry c.tid) ≤ 1) && (b.tid == 0 || Entry.fmt (s.entry b.tid) == 6) &&
      Record.argBits r 0 2 != 3
  else if Record.opcode r = 3 then
    a.kind == 0 && b.kind == 0 && s.opdOk h l [1] [] c && !s.versioned c.tid
  else false

/-- PIVOT records (R224). -/
def State.pivotOk (s : State) (h : Nat) (r : BitVec 512) : Bool :=
  let a := Record.desc r 0
  let mode := Record.argBits r 30 2
  let cnt := Record.argBits r 27 3
  (Record.opcode r == 1 || Record.opcode r == 2) && decide (mode ≤ 1) && !(mode == 1 && cnt != 0) &&
  !(mode == 0 && Record.argBits r 19 4 != 0) && s.opdOk h 0 [1] [] a && (Record.desc r 1).kind == 0 &&
  (Record.desc r 2).kind == 0 && decide (Record.argBits r 23 4 + cnt + 1 ≤ 16 * a.count)

/-- XCHG records (R365, R367, R251). -/
def State.xchgOk (s : State) (h : Nat) (r : BitVec 512) : Bool :=
  let b := Record.desc r 1
  let c := Record.desc r 2
  Record.opcode r == 1 && s.opdOk h 0 [0, 1] [] (Record.desc r 0) && s.opdOk h 0 [1] [] b && b.count == 1 &&
  s.opdOk h 0 [0, 1, 3] [] c && !(c.kind == 1 && s.versioned c.tid)

/-- P8 credits of a core that grants in force hold (R60). -/
def Core.granted (c : Core) : Nat := sumL (c.grants.map (·.2))

/-- SEQ records (R81, R83, R60, R58): operands are KIND 0 but for TARGET. -/
def State.seqOk (s : State) (h : Nat) (r : BitVec 512) : Bool :=
  let op := Record.opcode r
  let none0 := (Record.desc r 1).kind == 0 && (Record.desc r 2).kind == 0
  decide (op ≤ 9) && none0 && (op == 1 || op == 2 || (Record.desc r 0).kind == 0) &&
  (if op = 5 then !bit (Record.arg r) 15 && decide (Record.argBits r 9 4 < 10) && Record.argBits r 0 5 == 25
   else if op = 9 then
     let n := Record.argBits r 16 4
     let e := Record.argBits r 0 16
     decide (1 ≤ n) && decide (n ≤ 8) && !bit e 15 && decide (bits e 9 4 < 10) &&
       (decide (epUnit e ≤ 16) || epUnit e == 24 || epUnit e == 26) &&
       decide ((s.core (s.physCore h (Record.argBits r 20 4))).granted + n ≤ 8)
   else true)

/-- The record is well formed at dispatch in hand h (R70). -/
def State.recordOk (s : State) (h : Nat) (r : BitVec 512) : Bool :=
  let l := Record.core r
  match Record.station r with
  | 1 => decide (l ≤ 15) && s.loadOk h l r
  | 2 => decide (l ≤ 15) && s.cubeOk h l r
  | 3 => decide (l ≤ 15) && s.drainOk h l r
  | 4 => decide (l ≤ 15) && s.vectOk h l r
  | 5 => decide (l ≤ 15) && s.storeOk h l r
  | 6 => l == 16 && s.pivotOk h r
  | 7 => l == 16 && s.xchgOk h r
  | 9 => (if Record.opcode r = 6 then decide (l ≤ 15) else l == 16) && s.seqOk h r
  | _ => false

end Sys2Proof.Machine
end

