-- ==== Sys2Proof/Machine/Input.lean ====
section
/-! DEFINITION. What every station does with a record: its begin, the arrival and check of input tiles, and the writing
of output tiles (R50 to R54, R56, R59, R75 to R77, R252, R253, R303). -/

namespace Sys2Proof.Machine

/-! ## Addresses of an operand's tiles -/

/-- Header and payload address of tile n of a memory operand, in the buffer of the version selected (R42, R248). -/
def State.tileVa (s : State) (d : Desc) (ver n : Nat) : Nat × Nat :=
  let e := s.entry d.tid
  let b := if ver = 256 then 0 else ver % 256 % (Entry.nver e + 1)
  let p := d.pos n
  (Entry.hdrAddr e b p.1 p.2, Entry.payAddr e b p.1 p.2)

/-- The first access of a memory operand's extent that breaks R301. A station stops for it before it writes any output
(R303), so it looks at the whole extent when the record begins. -/
def State.extentFault (s : State) (a : Acc) (d : Desc) (ver : Nat) : Option Refuse :=
  if d.kind = 1 ∧ ver ≠ 257 then
    (upTo d.count).findSome? fun n => orFault (s.accFault a (s.tileVa d ver n).1) (s.accFault a (s.tileVa d ver n).2)
  else none

/-! ## Begin (R56, R76, R252, R557) -/

/-- The counter whose difference is COUNT of a station's END record (R562); that of CUBE is latched by its first issue. -/
def State.countOf (s : State) (st u : Nat) : Nat :=
  match st with
  | 1 => s.reg64 (Reg.ldbytes u)
  | 3 => (s.reg (Reg.drtiles u)).toNat
  | 4 => s.reg64 (Reg.vops u)
  | 5 => s.reg64 (Reg.stbytes u)
  | 6 => s.reg64 (Reg.pvops u)
  | 7 => s.reg64 (Reg.xbytes u)
  | 8 => s.reg64 (Reg.obsMill u)
  | _ => 0

/-- Whether a station reads operand i of a record from memory as tiles, under a version selection (R252). -/
def readsTiles (st op i : Nat) : Bool :=
  match st with
  | 1 => i == 0
  | 2 => i == 0 || i == 1
  | 5 => op == 3 && i == 2
  | 6 => i == 0
  | 7 => i == 0 || i == 1
  | _ => false

/-- Version and TENSOR_ID of a memory operand as a record's begin selects them. -/
def State.select (s : State) (d : Desc) : Rd (Nat × Nat) :=
  if s.versioned d.tid then
    let e := s.entry d.tid
    match s.vread (Entry.verAddr e) 64 with
    | .ok v => .ok (versionOf e d.tid v)
    | .poison => .poison
    | .fault a k p => .fault a k p
  else .ok (256, d.tid)

/-- The selections of all three operands; an operand that the station does not read from memory selects nothing. -/
def State.selectAll (s : State) (st : Nat) (r : BitVec 512) : List Nat → Rd (List (Nat × Nat)) × Nat
  | [] => (.ok [], 0)
  | i :: is =>
    let d := Record.desc r i
    if d.kind = 1 ∧ readsTiles st (Record.opcode r) i then
      match s.select d with
      | .ok v =>
        match s.selectAll st r is with
        | (.ok l, t) => (.ok (v :: l), t)
        | x => x
      | .poison => (.poison, d.tid)
      | .fault a k p => (.fault a k p, d.tid)
    else
      match s.selectAll st r is with
      | (.ok l, t) => (.ok ((256, d.tid) :: l), t)
      | x => x

/-- The faults a record would raise over the extents it reads and writes (R303). -/
def State.recordFault (s : State) (st : Nat) (r : BitVec 512) (ver : List Nat) : Option Refuse :=
  let rd := fun (i : Nat) =>
    if readsTiles st (Record.opcode r) i then s.extentFault .read (Record.desc r i) (ver.getD i 256) else none
  let wr := if (st = 5 ∧ Record.opcode r ≠ 2) ∨ st = 7 then s.extentFault .write (Record.desc r 2) 256 else none
  orFault (orFault (rd 0) (rd 1)) (orFault (rd 2) wr)

/-- The waits of a record at its station, and the marker of the Bell has not reached its unit (R76, R446). -/
def State.mayBegin (s : State) (st u : Nat) (r : BitVec 512) : Bool :=
  if st = 8 then s.millWaitsHold u r && !s.marked (640 + u) else s.waitsHold (handOf st u) r && !s.marked (handOf st u)

/-- The unit whose translation cache a station uses (R302): its hand, or its Mill. -/
def cacheOf (st u : Nat) : Nat := if st = 8 then 640 + u else handOf st u

/-- Version records that a record's begin reads (R252), by their tensor IDs. -/
def State.versionReads (s : State) (st : Nat) (r : BitVec 512) : List Nat :=
  [0, 1, 2].filterMap fun i =>
    let d := Record.desc r i
    if d.kind = 1 ∧ readsTiles st (Record.opcode r) i ∧ s.versioned d.tid then some d.tid else none

/-- No context of the core's 48 is free (R333; which requests hold one between commands: assumption 68). -/
def State.noContext (s : State) (st u : Nat) : Bool := decide (st ≤ 5) && decide (48 ≤ (s.core u).requests.length)

/-- Record i of the queue begins, if its waits hold. Table entries and version records are read; an access of its extents
that faults stops the station first. -/
def State.beginCmd (s : State) (st u i : Nat) (c : Cmd) : State :=
  let sr := Record.serial c.r
  if s.mayBegin st u c.r then
    if s.noContext st u && !(s.versionReads st c.r).isEmpty then s.starved st u i c
    else
      let unit := cacheOf st u
      let s1 := s.seenEntries unit (recordTids c.r)
      let s2 := (s.versionReads st c.r).foldl (fun (s : State) t => s.seen unit 0 (Entry.verAddr (s.entry t)) 64) s1
      match s.entryFault (recordTids c.r) with
      | some f => s1.refuse st u f 0 sr
      | none =>
        match s.selectAll st c.r [0, 1, 2] with
        | (.poison, tid) => s2.escalate st u tid 3 false sr
        | (.fault a k p, _) => s2.pageFault st u a k p sr
        | (.ok sel, _) =>
          match s.recordFault st c.r (sel.map (·.1)) with
          | some f => s2.refuse st u f 0 sr
          | none =>
            let c1 := { c with begun := true, tBegin := s.now (unitOfEp (epOf st u)), ver := sel.map (·.1), vtid := sel.map (·.2), cnt0 := s.countOf st u,
                               scales := [] }
            (s2.setCmd st u i c1).traceBegin st u c.r (if c.woke then 220 else 0)
  else s

/-- A record at work has issued all its input reads: the next one may begin (R56, R62). The tiles of every operand have arrived,
or the last of them is on its way; what a station reads while it writes its outputs is not all issued before its last output. -/
def Cmd.issuedAll (st : Nat) (c : Cmd) : Bool :=
  let op := Record.opcode c.r
  let all := fun (o : Nat) (f : Flow) =>
    let d := Record.desc c.r o
    d.kind == 0 || decide (d.count ≤ f.got) || (decide (d.count ≤ f.got + 1) && !f.req.isEmpty)
  c.begun &&
  match st with
  | 1 => op == 1 && all 0 c.a
  | 2 => all 0 c.a && all 1 c.b
  | 3 => op == 2
  | 4 => all 0 c.a && all 1 c.b
  | 5 => op == 1 && all 0 c.a
  | _ => false

/-- The record behind the one at work, if it may begin already: the one at work has issued all its input reads (R56). -/
def State.nextUp (s : State) (st u op i : Nat) (c : Cmd) : Option Cmd :=
  if c.issuedAll st then
    match (s.queue st u)[i + 1]? with
    | some n => if !n.begun && Record.opcode n.r == op && s.mayBegin st u n.r then some n else none
    | none => none
  else none

/-- The state in which the record behind the one at work has begun. A record that would stop the station at its begin, or find no
context, is left until the one at work, which runs to its commit (R54), is complete (DESIGN CHOICE, assumption 96). -/
def State.beginNext (s : State) (st u op i : Nat) (c : Cmd) : Option State :=
  match s.nextUp st u op i c with
  | none => none
  | some n =>
    let s1 := s.beginCmd st u (i + 1) n
    if (((s1.queue st u)[i + 1]?).map (·.begun)).getD false then some s1 else none

/-- A station works on its active record: a record that has not begun begins, a record that has begun does one piece of
`work`; behind one that has issued all its input reads the next begins as soon as its waits hold. A row acts on records of
its own opcode only. -/
def State.runStation (s : State) (st u op : Nat) (work : State → Nat → Cmd → State) : State :=
  match s.active st u with
  | none => s
  | some (i, c) =>
    if !s.stRuns st u then s
    else
      match s.beginNext st u op i c with
      | some s1 => s1
      | none =>
        if Record.opcode c.r != op then s
        else if !c.begun then s.beginCmd st u i c
        else work s i c

/-- The record's outputs are complete; its counter is latched at its last issue, and there the next record's count starts if
it has begun already (R77, R562). -/
def State.finish (s : State) (st u i : Nat) (c : Cmd) : State :=
  let n := s.countOf st u
  let s1 := s.setCmd st u i { c with complete := true, cnt1 := if st = 2 then c.cnt1 else n }
  match (s1.queue st u)[i + 1]? with
  | some d => if d.begun then s1.setCmd st u (i + 1) { d with cnt0 := n } else s1
  | none => s1

/-! ## Arrival and check of an input tile (R50 to R54) -/

/-- One reading of a tile from memory. -/
inductive Got where
  | good (t : Tile)
  /-- KIND, TENSOR_ID as read, and whether a re-fetch cannot change it (R253) -/
  | bad (kind tid : Nat) (atOnce : Bool)
  | fault (va kind : Nat) (pcopy : Bool)
  deriving DecidableEq, Repr

/-- The checks of R50 to R53 and R253 on a tile, in the order of R54; `more` is what the station's chapter adds (none: it
passes; some: it fails, and whether at once), and `corrupt` says that the payload that arrived is not the payload its CRC
stands for. -/
def checkTile (t : Tile) (x : Expect) (ver : Nat) (more : Head → Option Bool) (corrupt : Bool) : Got :=
  if !t.headSound then .bad 1 t.head.tid false
  else if decide (ver ≠ 256) && (decide (512 ≤ ver) || t.head.wver != ver % 256) then .bad 2 t.head.tid true
  else if !x.meets t.head then .bad 2 t.head.tid false
  else
    match more t.head with
    | some b => .bad 2 t.head.tid b
    | none => if corrupt || t.crc != crc32c (toBytes 4096 t.pay.toNat) then .bad 0 t.head.tid false else .good t

/-- A tile read from memory and checked. A poisoned header sector names no tensor (R54); nor does poison in a page table. -/
def State.tryTile (s : State) (x : Expect) (ver hva pva : Nat) (more : Head → Option Bool) (corrupt : Bool) : Got :=
  match s.vread hva 32 with
  | .fault a k p => .fault a k p
  | .poison => .bad 3 0 false
  | .ok h =>
    match s.readTile hva pva with
    | .fault a k p => .fault a k p
    | .poison => .bad 3 (bits h 0 24) false
    | .ok t => checkTile t x ver more corrupt

/-- The lines of a tile's header and of the payload that its BYTES covers: home suit and line. -/
def State.tileLines (s : State) (hva pva : Nat) : List (Nat × Nat) :=
  let at_ := fun (va n : Nat) => match s.translate va .read with | .ok pa _ => (linesIn pa n).map fun l => (pa / 2 ^ 38, l) | _ => []
  at_ hva 32 ++ at_ pva (s.payloadBytes hva)

/-- The granary lines of a tile are invalidated before a re-fetch when all of them are clean, wherever their homes lie
(R53). -/
def State.dropLines (s : State) (hva pva : Nat) : State :=
  let ls := s.tileLines hva pva
  if ls.all fun x => match s.lineAt x.1 x.2 with | some g => g.dirty == 0 | none => true then
    ls.foldl (fun (s : State) x =>
      s.setSuit x.1 { s.suit x.1 with gran := (s.suit x.1).gran.filter fun g => g.line != x.2 }) s
  else s

/-- How an arrival ends: no tile is there yet, lines of memory are to be requested first, the station stopped, or the tile
passed its checks. -/
inductive Arr where
  | wait
  | ask (lines : List Nat)
  | stop (s : State)
  | ok (s : State) (t : Tile)
  deriving DecidableEq, Repr

/-- A tile of a memory operand arrives and is checked (R50 to R54, R253), once a way to its home is in service (R288): one
re-fetch after a first failure, counted where it succeeds. -/
def State.arriveMem (s : State) (st u : Nat) (c : Cmd) (x : Expect) (ver hva pva : Nat) (more : Head → Option Bool) (corrupt : Bool) : Arr :=
  let sr := Record.serial c.r
  let unit := cacheOf st u
  if ver = 257 then .stop ((s.escalate st u s.fresh 2 false sr).spend)
  else if !(s.wayTo unit hva && s.wayTo unit pva) then .wait
  else
    let s0 := s.seenTile unit x.tid hva pva
    match s.tryTile x ver hva pva more corrupt with
    | .good t => .ok s0 t
    | .fault a k p => .stop (s0.pageFault st u a k p sr)
    | .bad kind tid true => .stop (s0.escalate st u tid kind false sr)
    | .bad _ _ false =>
      let s1 := s0.dropLines hva pva
      let s2 := s1.seenTile unit x.tid hva pva
      match s1.tryTile x ver hva pva more false with
      | .good t =>
        .ok ((s2.add32 (Reg.refetch (handOf st u)) 1).traceSt st u
          (Trace.ofRecord 5 st u c.r 0 (bits t.hdr.toNat 0 64))) t
      | .fault a k p => .stop (s2.pageFault st u a k p sr)
      | .bad kind tid atOnce => .stop (s2.escalate st u tid kind (!atOnce) sr)

/-- A tile of a port or a resident slot is checked: a failure escalates at once (R52). -/
def State.arriveLocal (s : State) (st u : Nat) (c : Cmd) (x : Expect) (t : Tile) (more : Head → Option Bool) (corrupt : Bool) : Arr :=
  match checkTile t x 256 more corrupt with
  | .good t => .ok s t
  | .bad kind tid _ => .stop (s.escalate st u tid kind false (Record.serial c.r))
  | .fault .. => .stop s

def Cmd.flow (c : Cmd) (o : Nat) : Flow := if o = 0 then c.a else c.b
def Cmd.setFlow (c : Cmd) (o : Nat) (f : Flow) : Cmd := if o = 0 then { c with a := f } else { c with b := f }

/-- What the command expects of tile n of an operand (R51, R75, R253). A KIND 4 operand has no place in a tensor; the
kernel and RADD forms give their own. -/
def State.expect (s : State) (c : Cmd) (o n : Nat) (fmt : Option Nat) : Expect :=
  let d := Record.desc c.r o
  { tid := if d.kind = 1 then c.vtid.getD o d.tid else d.tid
    pos := if d.kind = 4 then none else some (d.pos n)
    fmt := match fmt with | some f => some f | none => some (Entry.fmt (s.entry d.tid)) }

/-- The next tile of operand o arrives and its checks are made. A core's station requests a memory tile's lines first, each in a
context of the core (R333); the other units' requests are answered at once. -/
def State.arrive (s : State) (st u : Nat) (c : Cmd) (o : Nat) (fmt : Option Nat) (more : Head → Option Bool) (corrupt : Bool) : Arr :=
  let d := Record.desc c.r o
  let f := c.flow o
  let x := s.expect c o f.got fmt
  if d.count ≤ f.got then .wait
  else
    match d.kind with
    | 1 =>
      let ver := c.ver.getD o 256
      let va := s.tileVa d ver f.got
      let ls := (s.tileLines va.1 va.2).map (·.2)
      if st ≤ 5 ∧ ver ≠ 257 ∧ f.req.isEmpty ∧ !ls.isEmpty then .ask ls else s.arriveMem st u c x ver va.1 va.2 more corrupt
    | 2 =>
      match (s.core u).peek d.port (f.got - f.used) with
      | none => .wait
      | some t => s.arriveLocal st u c x t more corrupt
    | 4 => s.arriveLocal st u c x ((s.core u).slot (d.row0 + f.got)) more corrupt
    | _ => .wait

/-- The flow after a tile has arrived: memory tiles are kept until their last use, and a port's tile counts as
checked. -/
def Flow.take (f : Flow) (d : Desc) (t : Tile) (ext dep : Nat) : Flow :=
  { f with got := f.got + 1, req := [], buf := if d.kind = 1 then f.buf ++ [t] else f.buf,
           first := match f.first with | none => some t.hdr | some h => some h, ext := max f.ext ext,
           dep := max f.dep dep }

/-- The port's leading tiles whose checks have passed. -/
def State.markChecked (s : State) (u : Nat) (d : Desc) (n : Nat) : State :=
  if d.kind = 2 then
    let q := (s.core u).port d.port
    s.setCore u ((s.core u).setPort d.port { q with checked := max q.checked n })
  else s

/-- Tile n of operand o, which has arrived and is still held. -/
def State.heldTile (s : State) (u : Nat) (c : Cmd) (o n : Nat) : Tile :=
  let d := Record.desc c.r o
  let f := c.flow o
  match d.kind with
  | 1 => f.buf.getD (n - f.used) { hdr := 0, pay := 0 }
  | 2 => ((s.core u).peek d.port (n - f.used)).getD { hdr := 0, pay := 0 }
  | _ => (s.core u).slot (d.row0 + n)

/-- The oldest held tile of operand o has been used for the last time: its credit returns (R59). -/
def State.useUp (s : State) (u : Nat) (c : Cmd) (o : Nat) : State × Cmd :=
  let d := Record.desc c.r o
  let f := c.flow o
  let c1 := c.setFlow o { f with used := f.used + 1, buf := f.buf.drop 1 }
  if d.kind = 2 then (s.releaseTile u d.port, c1) else (s, c1)

/-- n tiles used up. -/
def State.useUpN (s : State) (u : Nat) (c : Cmd) (o : Nat) : Nat → State × Cmd
  | 0 => (s, c)
  | n + 1 => let r := s.useUp u c o; r.1.useUpN u r.2 o n

/-! ## Output tiles -/

/-- The station may write the next output tile of a local destination: it holds a credit of the port (R59). -/
def State.canPut (s : State) (u : Nat) (d : Desc) : Bool :=
  if d.kind = 2 then decide (0 < ((s.core u).port d.port).credits) else true

/-- Output tile n written into a port or a resident slot. -/
def State.put (s : State) (u : Nat) (d : Desc) (n : Nat) (t : Tile) : State :=
  if d.kind = 2 then s.setCore u ((s.core u).push d.port t) else s.setCore u ((s.core u).setSlot (d.row0 + n) t)

end Sys2Proof.Machine
end

