-- ==== Sys2Proof/Machine/Arrive.lean ====
section
/-! DEFINITION. What each station adds to the checks of an arriving tile (R109, R135, R139, R141, R159, R194, R308, R314),
and the arrival with them. -/

namespace Sys2Proof.Machine

/-! ## Operands of the cube (R131, R135) -/

/-- Rows and columns of a tile of a format as the tile buffer presents it (R131). -/
def tileDims (orient : Bool) (f : Nat) : Nat × Nat := if orient then (fmtCols f, fmtRows f) else (fmtRows f, fmtCols f)
/-- Tile rows and columns of an extent after orientation. -/
def gridDims (d : Desc) : Nat × Nat := if d.orient then (d.ncols, d.nrows) else (d.nrows, d.ncols)
/-- Element rows and columns of an extent after orientation. -/
def opExt (d : Desc) (f : Nat) : Nat × Nat :=
  ((gridDims d).1 * (tileDims d.orient f).1, (gridDims d).2 * (tileDims d.orient f).2)

/-- Rows of a tally tile (R143). -/
def tallyRows (wide : Bool) : Nat := if wide then 16 else 32

/-- The rules of R135 and R141 at the first tile of operand o with format f; `other` is the other operand's format if
it is known. R141 names no size for ELEM: the size rules of R135 hold for it too (DEDUCED, assumption 92). -/
def cubeFirstOk (r : BitVec 512) (o f : Nat) (other : Option Nat) : Bool :=
  let g := groupDecl r
  let d := Record.desc r o
  let x := opExt d f
  let y := match other with | none => none | some f2 => some (opExt (Record.desc r (1 - o)) f2)
  (f != 0 || g.wide) &&
  (if o = 0 then decide (x.1 ≤ (g.br + 1) * tallyRows g.wide) else decide (x.2 ≤ (g.bc + 1) * 32)) &&
  (match y with
   | none => true
   | some y =>
     if Record.opcode r = 1 then (if o = 0 then x.2 == y.1 else x.1 == y.2) else decide (x = y))

/-- The format code of an operand's first tile. -/
def Flow.fmt (f : Flow) : Option Nat := f.first.map fun h => (Head.ofBits h).fmt
def Flow.scale (f : Flow) : Option Nat := f.first.map fun h => (Head.ofBits h).scale
def Flow.wver (f : Flow) : Nat := match f.first with | none => 0 | some h => (Head.ofBits h).wver

/-- Whether RADD's operand o is in wide form (R194): OPD0 always, OPD1 when its extent counts wide tiles. -/
def raddWide (r : BitVec 512) (o : Nat) : Bool :=
  let ofmt := Record.argBits r 26 4
  let w := if ofmt = 0 then (if bit (Record.arg r) 31 then 2 else 1) else wideCount ofmt
  let t := if bit (Record.arg r) 30 then (Record.desc r 2).count else (Record.desc r 2).count / w
  o == 0 || (Record.desc r 1).count != t

/-- What a station finds wrong with a tile of operand o beyond R50 to R53, reported with KIND 2: `some true` escalates at once,
`some false` is treated as a header mismatch under R52, with its one re-fetch (R109; which checks re-fetch is DEDUCED, assumption 89). -/
def State.extra (s : State) (st : Nat) (c : Cmd) (o : Nat) (h : Head) : Option Bool :=
  let op := Record.opcode c.r
  let f := c.flow o
  match st with
  | 1 => if op = 2 ∧ h.vcols ≠ 64 then some true else none
  | 2 =>
    match f.first with
    | none => if cubeFirstOk c.r o h.fmt (c.flow (1 - o)).fmt then none else some true
    | some _ => if f.fmt ≠ some h.fmt then some true else if f.scale ≠ some h.scale then some false else none
  | 3 =>
    let ofmt := Record.argBits c.r 28 4
    if fmtRows h.fmt ≠ fmtRows ofmt ∨ fmtCols h.fmt ≠ fmtCols ofmt then some true
    else if f.first.isSome ∧ f.scale ≠ some h.scale then some true
    else none
  | 4 => if op = 2 ∧ h.fmt ≠ (if raddWide c.r o then 0 else Record.argBits c.r 26 4) then some true else none
  | 5 =>
    if op = 2 then
      if o = 0 then (if h.fmt ≠ Entry.fmt (s.entry (Record.desc c.r 2).tid) then some true else none)
      else if h.fmt ≠ 6 ∨ h.vcols ≠ 64 then some true
      else none
    else none
  | _ => none

/-- The format that R51 compares, where it is not the tensor table's (R193). -/
def wideFmt (st : Nat) (r : BitVec 512) (o : Nat) : Option Nat :=
  if st = 4 ∧ Record.opcode r = 2 ∧ raddWide r o then some 0 else none

/-- Valid rows of a tile in the last tile row of its operand after orientation, 0 elsewhere (R139). -/
def lastRows (d : Desc) (n : Nat) (h : Head) : Nat :=
  let q := d.relPos n
  if d.orient then (if q.2 + 1 = d.ncols then h.vcols else 0) else if q.1 + 1 = d.nrows then h.vrows else 0
/-- Valid columns of a tile in the last tile column of its operand after orientation, 0 elsewhere (R139). -/
def lastCols (d : Desc) (n : Nat) (h : Head) : Nat :=
  let q := d.relPos n
  if d.orient then (if q.1 + 1 = d.nrows then h.vrows else 0) else if q.2 + 1 = d.ncols then h.vcols else 0

/-- How the arrival of a record's tile ends: no tile is there yet; its lines have been requested, or no context is free for
them; the station stopped; or the tile is there. -/
inductive Arrival where
  | wait
  | asked (s : State)
  | stop (s : State)
  | ok (s : State) (c : Cmd)
  deriving DecidableEq, Repr

/-- The operands whose tiles a station checks as they arrive (R50, R135, R141, R150, R182, R194, R306, R310). The source of a
GATHER is read by the narrow path, RESEAL rereads its tiles itself, OPD1 of DRAIN names the SUMSQ slot, and DISCARD ignores its
operands (R151). -/
def inputOperand (st op o : Nat) : Bool :=
  match st with
  | 1 => o == 0
  | 2 => decide (o ≤ 1)
  | 3 => op == 1 && o == 0
  | 4 => decide (o ≤ 1)
  | 5 => if op = 1 then o == 0 else op == 2 && decide (o ≤ 1)
  | _ => false

/-- The next tile of operand o of record i arrives with every check its station makes; or its lines are requested, as many as
contexts are free (R333). -/
def State.arriveTile (s : State) (st u i : Nat) (c : Cmd) (o : Nat) (corrupt : Bool) : Arrival :=
  let d := Record.desc c.r o
  let f := c.flow o
  match s.arrive st u c o (wideFmt st c.r o) (s.extra st c o) corrupt with
  | .wait => .wait
  | .ask ls =>
    if s.noContext st u then .asked (s.starved st u i c)
    else .asked (s.setCmd st u i (c.setFlow o { f with req := ls.take (48 - (s.core u).requests.length) }))
  | .stop s1 => .stop s1
  | .ok s1 t => .ok (s1.markChecked u d (f.got + 1 - f.used)) <|
      let e := (lastRows d f.got t.head, lastCols d f.got t.head)
      c.setFlow o (if o = 0 then f.take d t e.1 e.2 else f.take d t e.2 e.1)

/-- Continue with tile n of operand o, arrived and checked; a record that must wait for it waits. -/
def State.withTile (s : State) (st u i : Nat) (c : Cmd) (o n : Nat) (k : State → Cmd → Tile → State) : State :=
  if n < (c.flow o).got then k s c (s.heldTile u c o n)
  else
    match s.arriveTile st u i c o false with
    | .wait => s
    | .asked s1 => s1
    | .stop s1 => s1
    | .ok s1 c1 => if n < (c1.flow o).got then k s1 c1 (s1.heldTile u c1 o n) else s1.setCmd st u i c1

end Sys2Proof.Machine
end

