-- ==== Sys2Proof/Machine/LoadStore.lean ====
section
/-! DEFINITION. LOAD and STORE (R306 to R314), and the granary atomics (R295, R297). -/

namespace Sys2Proof.Machine

/-! ## LOAD TILES (R307) -/

/-- Bytes a tile read takes from memory: the header and the whole payload lines that BYTES covers (R307, R562). -/
def tileBytes (h : Head) : Nat := 32 + (min 4096 h.bytes + 127) / 128 * 128

def State.loadStep (s : State) (k i : Nat) (c : Cmd) : State :=
  let d := Record.desc c.r 2
  if s.canPut k d then
    s.withTile 1 k i c 0 c.out fun s c t =>
      let s1 := (s.put k d c.out t).add64 (Reg.ldbytes k) (tileBytes t.head)
      let r := s1.useUp k c 0
      let c1 := { r.2 with out := c.out + 1 }
      if c1.out = d.count then r.1.finish 1 k i c1 else r.1.setCmd 1 k i c1
  else s.starved 1 k i c

/-- LOAD_TILES (R307): begins, or moves one tile from memory into the port or slot, unchanged. -/
def execLoadTiles (k : CoreIx) (s : State) : Host.Outcome State Fault Refusal :=
  .next (s.runStation 1 k.val 1 fun s i c => s.loadStep k.val i c)

/-! ## Indexed elements (R308, R309, R312) -/

/-- The skip index. -/
def skipIx : Nat := 0xFFFFFFFF

/-- The indices of an index tile: 16 of 32 bits in each valid row. -/
def tileIndices (t : Tile) : List Nat := (upTo (t.head.vrows * 16)).map (payElem t.pay 4)

/-- Virtual address of element k of a tensor in row-major order over its whole tiles; none beyond it. -/
def elemVa (e k : Nat) : Option Nat :=
  let f := Entry.fmt e
  let w := Entry.tcols e * fmtCols f
  let i := k / w
  let j := k % w
  if w = 0 ∨ Entry.trows e * fmtRows f ≤ i then none
  else
    some (Entry.payAddr e 0 (i / fmtRows f) (j / fmtCols f) + (i % fmtRows f * fmtCols f + j % fmtCols f) * fmtSize f)

/-- Sectors that a window of addresses touches, each once. -/
def sectorsOf (l : List Nat) : List Nat := (l.map (· / 32)).dedup

/-- The addresses that a list of indices names, in windows of 16 consecutive indices: one narrow read per sector and
window (R309). -/
def narrowReads (e : Nat) : Nat → List Nat → List Nat
  | 0, _ => []
  | n + 1, l =>
    if l.isEmpty then []
    else
      sectorsOf ((l.take 16).filterMap fun k => if k = skipIx then none else elemVa e k) ++ narrowReads e n (l.drop 16)

/-- The first index whose access breaks R301. -/
def State.indexFault (s : State) (a : Acc) (e : Nat) (l : List Nat) : Option Refuse :=
  l.findSome? fun k => if k = skipIx then none else match elemVa e k with | none => none | some va => s.accFault a va

/-- A narrow request for an element finds a way to its home (R288). -/
def State.elemWay (s : State) (unit e k : Nat) : Bool :=
  k == skipIx || (match elemVa e k with | none => true | some va => s.wayTo unit va)

/-- One gathered element: its encoding, and whether it lay beyond the source or met poison. -/
def State.gatherOne (s : State) (e k : Nat) : Nat × Bool × Bool :=
  if k = skipIx then (0, false, false)
  else
    match elemVa e k with
    | none => (0, true, false)
    | some va =>
      match s.vread va (fmtSize (Entry.fmt e)) with
      | .ok v => (v, false, false)
      | .poison => (nanFmt (Entry.fmt e), false, true)
      | .fault .. => (0, false, false)

/-- A narrow read of one sector (R309, R575): a sector whose line is in its home slice is served from the line, which it meets
as any demand does; otherwise the sector is read from HBM and no line is filled. -/
def State.narrowRead (s : State) (unit x : Nat) : State :=
  let va := x * 32
  let s1 := s.walkLines unit va
  match s1.translate va .read with
  | .ok pa _ =>
    let i := pa / 2 ^ 38
    let s2 := if (s1.lineAt i (pa / 128)).isSome then s1.readLine i (pa / 128) 0 (sectorMask (pa / 128) pa 32) else s1.hbmRead pa true
    s2.add64 (Reg.narrow i) 1
  | _ => s1

/-- The narrow reads of an output tile, each counted at the suit that serves it. -/
def State.countNarrow (s : State) (unit : Nat) (secs : List Nat) : State := secs.foldl (fun (s : State) x => s.narrowRead unit x) s

/-- All index tiles have arrived: the count is known and OPD2 is measured (R308), every access is looked at (R303). -/
def State.gatherOut (s : State) (k i : Nat) (c : Cmd) : State :=
  let d := Record.desc c.r 2
  let e := s.entry (Record.desc c.r 1).tid
  let f := Entry.fmt e
  let per := 4096 / fmtSize f
  let ixs := c.a.buf.flatMap tileIndices
  let sr := Record.serial c.r
  if d.count ≠ (ixs.length + per - 1) / per then
    s.escalate 1 k ((c.a.buf.getLast?.getD { hdr := 0, pay := 0 }).head.tid) 2 false sr
  else
    match (if c.out = 0 then s.indexFault .read e ixs else none) with
    | some f => s.refuse 1 k f 0 sr
    | none =>
      if !s.canPut k d || s.noContext 1 k then s.starved 1 k i c
      else if !(ixs.all fun x => s.elemWay (k / 17) e x) then s
      else
        let mine := (ixs.drop (c.out * per)).take per
        let els := mine.map (s.gatherOne e)
        let secs := narrowReads e per mine
        let p := d.pos c.out
        let h : Head :=
          { tid := d.tid, row := p.1, col := p.2, fmt := f, scale := Entry.scale e, last := c.out + 1 == d.count }
        let t := Tile.seal h.full (BitVec.ofNat 32768 (packElems (fmtSize f) (els.map (·.1))))
        let s1 := ((s.put k d c.out t).add64 (Reg.ldbytes k) (32 * secs.length)).countNarrow (k / 17) secs
        let s1 := if els.any fun x => x.2.1 then s1.setBit (Reg.loadStat k) 29 else s1
        let s1 := if els.any fun x => x.2.2 then s1.setBit (Reg.loadStat k) 28 else s1
        let c1 := { c with out := c.out + 1 }
        if c1.out = d.count then s1.finish 1 k i { c1 with a := { c1.a with buf := [] } } else s1.setCmd 1 k i c1

/-- GATHER (R308): begins, reads one index tile, or, once all are read, writes one output tile. -/
def execGather (k : CoreIx) (s : State) : Host.Outcome State Fault Refusal :=
  .next <|
    s.runStation 1 k.val 2 fun s i c =>
      if c.a.got < (Record.desc c.r 0).count then
        match s.arriveTile 1 k.val i c 0 false with
        | .wait => s
        | .asked s1 => s1
        | .stop s1 => s1
        | .ok s1 c1 =>
          (s1.add64 (Reg.ldbytes k.val) (tileBytes ((c1.a.buf.getLast?.getD { hdr := 0, pay := 0 }).head))).setCmd 1 k.val i c1
      else s.gatherOut k.val i c

/-! ## Atomics (R295, R297) -/

/-- min or max of two values: -0 below +0, NaN under R101. -/
def minMax (hi : Bool) (a b : Val) : Val × Fl :=
  if a.isNan || b.isNan then (.nan false, a.sigFlag ||| b.sigFlag)
  else
    let less := if a.isZero && b.isZero then a.sign && !b.sign else a.lt b
    (if less = hi then b else a, 0)

/-- The operations of an atomic: 0 add, 1 minimum, 2 maximum. -/
def atomicVal (op : Nat) (old v : Val) : Val × Fl :=
  match op with
  | 0 => old.add v
  | 1 => minMax false old v
  | _ => minMax true old v

/-- A floating-point atomic on encodings of a format (0 FP64, 1 FP32): new value and flags. -/
def atomicFp (op f old v : Nat) : Nat × Fl :=
  let r := atomicVal op (decodeFmt f old) (decodeFmt f v)
  let e := roundFmt f r.1
  (e.1, r.2 ||| e.2)

/-- An integer atomic on n bits. -/
def atomicInt (op n old v : Nat) : Nat :=
  let a := decodeInt n old
  let b := decodeInt n v
  match op with
  | 0 => (old + v) % 2 ^ n
  | 1 => if b.lt a then v % 2 ^ n else old % 2 ^ n
  | _ => if a.lt b then v % 2 ^ n else old % 2 ^ n

/-! ## STORE TILES (R311, R59, R60) -/

/-- Key of a hand's P8 credits: producing unit and destination core. -/
def p8Key (unit dest : Nat) : Nat := unit * 16384 + dest

/-- A producer of hand h sends a tile to a core's P8, if it holds a credit (R59, R60); the destination is noted as a
peer (R433). -/
def State.sendP8 (s : State) (h unit src dest : Nat) (t : Tile) : Option State :=
  match epToCore dest with
  | none => none
  | some kd =>
    let d := s.hand h
    let n := PMap.get 0 d.p8held (p8Key unit kd)
    if n = 0 then none
    else
      let d1 := { d with p8held := PMap.put d.p8held (p8Key unit kd) (n - 1) }
      some ((s.setHand h (d1.notePeer (kd / 17))).send src dest 0 h (.p8tile t))

/-- A tile stored to memory at its place in the destination extent; its fault, if it raises one. -/
def State.storeTileAt (s : State) (unit : Nat) (d : Desc) (n : Nat) (t : Tile) : Except Refuse State :=
  let va := s.tileVa d 256 n
  s.writeTile unit d.tid va.1 va.2 t

def State.storeStep (s : State) (k i : Nat) (c : Cmd) : State :=
  let d := Record.desc c.r 2
  let total := (Record.desc c.r 0).count
  let after := fun (s : State) (c : Cmd) (t : Tile) =>
    let s1 := s.add64 (Reg.stbytes k) (32 + min 4096 t.head.bytes)
    let r := s1.useUp k c 0
    let c1 := { r.2 with out := c.out + 1 }
    if c1.out = total then r.1.finish 5 k i c1 else r.1.setCmd 5 k i c1
  s.withTile 5 k i c 0 c.out fun s c t =>
    if d.kind = 3 then
      match s.sendP8 (k / 17) (k % 17) (epCore k) d.dest t with
      | none => ((s.setCmd 5 k i c).starved 5 k i c).addCycles (Reg.p8starve (k / 17))
      | some s1 => after s1 { c with acks := c.acks + 1 } t
    else
      let va := s.tileVa d 256 c.out
      if s.noContext 5 k then (s.setCmd 5 k i c).starved 5 k i c
      else if !(s.wayTo (k / 17) va.1 && s.wayTo (k / 17) va.2) then s.setCmd 5 k i c
      else
      match s.storeTileAt (k / 17) d c.out t with
      | .error f => s.refuse 5 k f 0 (Record.serial c.r)
      | .ok s1 => after s1 c t

/-- STORE_TILES (R311): begins, or stores one tile to memory or sends it to a remote P8. -/
def execStoreTiles (k : CoreIx) (s : State) : Host.Outcome State Fault Refusal :=
  .next (s.runStation 5 k.val 1 fun s i c => s.storeStep k.val i c)

/-! ## SCATTER (R312) -/

/-- One atomic of a SCATTER on the element at a virtual address; a poisoned sector is skipped (R323). -/
def State.scatterOne (s : State) (k tid op f va v : Nat) : State :=
  let n := fmtSize f
  match s.translate va .atomic with
  | .ok pa pc =>
    let s1 := s.atHome (k / 17) tid va pa n
    if s.poisonIn pa n then s1.setBit (Reg.storeStat k) 28
    else
      let r := atomicFp op f (Memory.read s.mem pa n) v
      (((s1.storeHome tid pa pc n r.1).flags (Reg.storeStat k) (r.2 &&& 0b10110#5)).add64 (Reg.atomics (pa / 2 ^ 38)) 1).add64
        (Reg.stbytes k) n
  | _ => s

/-- The elements of one data tile applied under their indices. -/
def State.scatterTile (s : State) (k tid op e : Nat) (ixs : List Nat) (t : Tile) : State :=
  let f := Entry.fmt e
  (List.zip ixs (payElems (fmtSize f) t.pay)).foldl (fun (s : State) (x : Nat × Nat) =>
    if x.1 = skipIx then s
    else
      match elemVa e x.1 with
      | none => s.setBit (Reg.storeStat k) 29
      | some va => s.scatterOne k tid op f va x.2) s

/-- The indices of a SCATTER: its resident index tiles, all of them arrived. -/
def State.scatterIxs (s : State) (k : Nat) (c : Cmd) : List Nat :=
  (upTo (Record.desc c.r 1).count).flatMap fun n => tileIndices (s.heldTile k c 1 n)

def State.scatterStep (s : State) (k i : Nat) (c : Cmd) : State :=
  let e := s.entry (Record.desc c.r 2).tid
  let per := 4096 / fmtSize (Entry.fmt e)
  let total := (Record.desc c.r 0).count
  if c.b.got < (Record.desc c.r 1).count then
    match s.arriveTile 5 k i c 1 false with
    | .wait => s
    | .asked s1 => s1
    | .stop s1 => s1
    | .ok s1 c1 => s1.setCmd 5 k i c1
  else
    let ixs := s.scatterIxs k c
    match (if c.out = 0 then s.indexFault .atomic e (ixs.take (total * per)) else none) with
    | some f => s.refuse 5 k f 0 (Record.serial c.r)
    | none =>
      if s.noContext 5 k then s.starved 5 k i c
      else if !(ixs.all fun x => s.elemWay (k / 17) e x) then s
      else
      s.withTile 5 k i c 0 c.out fun s c t =>
        let s1 := s.scatterTile k (Record.desc c.r 2).tid (Record.argBits c.r 0 2) e ((ixs.drop (c.out * per)).take per) t
        let r := s1.useUp k c 0
        let c1 := { r.2 with out := c.out + 1 }
        if c1.out = total then r.1.finish 5 k i c1 else r.1.setCmd 5 k i c1

/-- SCATTER (R312): begins, checks one index tile, or applies the elements of one data tile. -/
def execScatter (k : CoreIx) (s : State) : Host.Outcome State Fault Refusal :=
  .next (s.runStation 5 k.val 2 fun s i c => s.scatterStep k.val i c)

/-! ## RESEAL (R313) -/

/-- A header with CRC and HCHK of its payload and every other bit kept. -/
def sealKeep (t : Tile) : BitVec 256 :=
  let n := setBits (t.hdr.toNat % 2 ^ 240) 128 32 (crc32c (toBytes 4096 t.pay.toNat))
  BitVec.ofNat 256 (n + hchkOf n <<< 240)

def State.resealStep (s : State) (k i : Nat) (c : Cmd) : State :=
  let d := Record.desc c.r 2
  let va := s.tileVa d 256 c.out
  let sr := Record.serial c.r
  if s.noContext 5 k then s.starved 5 k i c
  else if !(s.wayTo (k / 17) va.1 && s.wayTo (k / 17) va.2) then s
  else
    let s0 := s.seenTile (k / 17) d.tid va.1 va.2
    match s.vread va.1 32 with
    | .fault a b p => s0.pageFault 5 k a b p sr
    | .poison => s0.escalate 5 k 0 3 false sr
    | .ok h =>
      match s.readTile va.1 va.2 with
      | .fault a b p => s0.pageFault 5 k a b p sr
      | .poison => s0.escalate 5 k (bits h 0 24) 3 false sr
      | .ok t =>
        if !t.headSound then s0.escalate 5 k t.head.tid 1 false sr
        else
          match s0.vwrite (k / 17) d.tid va.1 32 (sealKeep t).toNat with
          | none => (match s.accFault .write va.1 with | some f => s0.refuse 5 k f 0 sr | none => s0)
          | some s1 =>
            let s2 := s1.add64 (Reg.stbytes k) 32
            let c1 := { c with out := c.out + 1 }
            if c1.out = d.count then s2.finish 5 k i c1 else s2.setCmd 5 k i c1

/-- RESEAL (R313): begins, or rewrites CRC and HCHK of one tile of its extent. -/
def execReseal (k : CoreIx) (s : State) : Host.Outcome State Fault Refusal :=
  .next (s.runStation 5 k.val 3 fun s i c => s.resealStep k.val i c)

end Sys2Proof.Machine
end

