-- ==== Sys2Proof/Machine/Seq.lean ====
section
/-! DEFINITION. The hand sequencer: fetch, dispatch, the SEQ commands, checkpoints, detours, the hang watch (chapter 2,
R60, R69 to R71, R81 to R85, R377, R425, R433). -/

namespace Sys2Proof.Machine

/-! ## The trace region (R561 to R566) -/

/-- Hand or Mill index in the trace region: hands 0 to 639, Mills 640 to 647. -/
def State.traceBlock (s : State) (u : Nat) : Nat :=
  if u < 640 then s.job.traceVa + 0x1000 + u * 0x400 else s.job.traceVa + 0xA1000 + (u - 640) * 0x400
def State.traceRing (s : State) (u : Nat) : Nat := s.job.traceVa + 0x100000 + u * 2 ^ s.job.ringLog

def State.ringOf (s : State) (u : Nat) : List (BitVec 256) := if u < 640 then (s.hand u).ring else (s.mill (u - 640)).ring
def State.setRing (s : State) (u : Nat) (r : List (BitVec 256)) : State :=
  if u < 640 then s.setHand u { s.hand u with ring := r } else s.setMill (u - 640) { s.mill (u - 640) with ring := r }

/-- Records lost by a drain or by a full ring are counted (R561, R565). -/
def State.loseTrace (s : State) (u n : Nat) : State :=
  if u < 640 then (s.setHand u { s.hand u with lostNew := (s.hand u).lostNew + n }).add32 (Reg.handLost u) n
  else
    let m := s.mill (u - 640)
    s.setMill (u - 640) { m with lostNew := m.lostNew + n, lostAll := m.lostAll + n }

/-- What a drain write that failed lost: its records are counted, and a LOST record, with the place of the last of them, precedes
the next record drained (R561). DATA counts what earlier LOST records among them announced, too (DEDUCED,
assumption 97). -/
def State.loseDrain (s : State) (u : Nat) (out : List (BitVec 256)) : State :=
  match s.ringOf u with
  | [] => s.loseTrace u out.length
  | rest =>
    let told := sumL (out.map fun r => if bits r.toNat 84 4 = 8 then bits r.toNat 192 64 else 1)
    let x := (out.getLastD 0).toNat
    let lost := setBits (setBits (setBits (setBits x 84 4 8) 96 16 0) 128 64 0) 192 64 told
    let s1 := s.setRing u (BitVec.ofNat 256 lost :: rest)
    if u < 640 then s1.add32 (Reg.handLost u) out.length
    else s1.setMill (u - 640) { s1.mill (u - 640) with lostAll := (s1.mill (u - 640)).lostAll + out.length }

/-- Trace records as bytes of one write, 32 of them, padded with records of EVENT 0. -/
def packTrace : List (BitVec 256) → Nat
  | [] => 0
  | r :: rs => r.toNat + packTrace rs <<< 256

/-- One drain write of at most 32 records (R561, R565): it lands in the HBM ring and the ring record follows; it loses
its records where the write faults or where WRAP = 1 has stopped the ring. -/
def State.drainWrite (s : State) (u : Nat) : State :=
  let out := (s.ringOf u).take 32
  let s1 := s.setRing u ((s.ringOf u).drop 32)
  let blk := s.traceBlock u + 0x300
  let written := match s.vread blk 8 with | .ok v => v | _ => 0
  let full := s.job.wrap == 1 && decide (2 ^ s.job.ringLog ≤ written)
  let lost := if u < 640 then (s.reg (Reg.handLost u)).toNat else (s.mill (u - 640)).lostAll
  if full then (if u < 640 then s1.setBit (Reg.handObsStat u) 30 else s1).loseTrace u out.length
  else
    match s1.vwrite u 0 (s.traceRing u + written % 2 ^ s.job.ringLog) 1024 (packTrace out) with
    | none => s1.loseDrain u out
    | some s2 =>
      match s2.vwrite u 0 blk 16 ((written + 1024) % 2 ^ 64 + lost <<< 64) with
      | none => s2
      | some s3 => s3

/-- Every waiting record drained (R561). -/
def State.drainAll : Nat → State → Nat → State
  | 0, s, _ => s
  | n + 1, s, u => if (s.ringOf u).isEmpty then s else State.drainAll n (s.drainWrite u) u
def State.flushRing (s : State) (u : Nat) : State := State.drainAll 80 s u

/-! ## The end of a job (R40, R449, R553, R566) -/

/-- Valid entries of a page-table level: n entries from an address, with their indices. -/
def State.tableAt (s : State) (base n : Nat) : List Nat :=
  (upTo n).filterMap fun i => let e := Memory.read s.mem (base + 8 * i) 8; if bit e 0 then some e else none

/-- Frames of the pages that the running deal maps, and of their partner copies (R40, R299, R300, R411). A page whose home suit
has been folded still has its copy in the partner suit. -/
def State.mappedPages (s : State) : List Nat :=
  let root := s.field Reg.mmuRoot 12 20 * 4096 + s.field (Reg.mmuRoot + 4) 0 8 * 2 ^ 32
  let es := (s.tableAt root 64).flatMap fun e1 =>
    (s.tableAt (bits e1 16 24 * 65536) 8192).flatMap fun e2 => s.tableAt (bits e2 16 24 * 65536) 8192
  es.flatMap fun e =>
    let f := bits e 16 24 * 65536
    if s.range (f / 2 ^ 38) ≤ f % 2 ^ 38 then [] else if bit e 6 then [f, partnerPa f] else [f]

/-- A unit whose start packet has not arrived has a stream (R65). -/
def State.willStart (s : State) (u : Nat) : Bool := s.job.startPending.contains u && PMap.get 0 s.job.entries u != 0
/-- Hands and Mills of the deal that have not reported done (R553). -/
def State.handsLeft (s : State) : List Nat :=
  hands640.filter fun h => (((s.hand h).stream && !(s.hand h).reported) || s.willStart h) && s.handUp h
def State.millsLeft (s : State) : List Nat :=
  (upTo 8).filter fun m => (((s.mill m).stream && !(s.mill m).reported) || s.willStart (640 + m)) && s.suitUp (m / 2)
/-- Every hand and Mill of the deal has reported done; units out of service are not waited for (DEDUCED, assumption 48). -/
def State.allDone (s : State) : Bool := s.handsLeft.isEmpty && s.millsLeft.isEmpty && !s.suitsUp.isEmpty

/-- The deal stops: pending staged writes and governor limits take effect (the limits DEDUCED, assumption 34), the rings
drain, STOPPED is set if the deal was not done, and the scrub begins; a release under way turns the rails off (R454, R592). -/
def State.endJob (s : State) : State :=
  let s := s.commitStaged fun a => isPkgStaged a || hands640.any fun h => isHandStaged h a
  let s := (upTo 648).foldl (fun (s : State) u => s.flushRing u) s
  let s := if s.allDone then s else s.setBit Reg.jobStat 28
  let s := match s.gov.staged with | none => s | some (f, p) => s.setLimits f p
  let j := { s.job with run := false, scrub := true, stopWanted := 0, startPending := [], ckptArmed := false, pages := (s.job.pages ++ s.mappedPages).dedup }
  let s1 := (State.setBusy { s with job := j } none).syncMode
  if s1.ctl.releaseReq.isSome then s1.safeOff else s1

/-- The last hand and Mill of a running deal have reported: DONE is set. The deal goes on until it is stopped, and HBM keeps
its results (R40, R553; DEDUCED, assumption 48). -/
def State.jobDone (s : State) : State :=
  if s.job.run && s.allDone then
    ((upTo 648).foldl (fun (s : State) u => s.flushRing u) s).setBit Reg.jobStat 29
  else s

/-! ## Fetch (R67, R69) -/

/-- What a fetch brought: records with their addresses, and how it ended. -/
inductive FetchEnd where
  | ok | poison | fault (va kind : Nat) (pcopy : Bool)
  deriving DecidableEq, Repr

/-- At most n records from va; `first` marks the demand read that dispatch waits for (R69, R304). -/
def State.fetchFrom (s : State) : Nat → Nat → Bool → List (Nat × BitVec 512) × FetchEnd
  | 0, _, _ => ([], .ok)
  | n + 1, va, demand =>
    if va % 65536 = 0 ∧ !demand ∧ !s.contPage va then ([], .ok)
    else
      match s.vread va 64 with
      | .ok v =>
        let r := s.fetchFrom n (va + 64) false
        ((va, BitVec.ofNat 512 v) :: r.1, r.2)
      | .poison => ([], .poison)
      | .fault a k p => if demand then ([], .fault a k p) else ([], .ok)

/-- The records of a fetch read through the granary. -/
def State.seenRecords (s : State) (unit : Nat) (l : List (Nat × BitVec 512)) : State :=
  l.foldl (fun (s : State) x => s.seen unit 0 x.1 64) s

/-- The sequencer is not stopped; it dispatches unless a HOLD is in force, which does not keep it from fetching (R81). -/
def State.seqAwake (s : State) (h : Nat) : Bool := !(s.hand h).halted.contains 9 && !s.handStopped h && !s.marked h
def State.seqRuns (s : State) (h : Nat) : Bool := s.seqAwake h && (s.hand h).held.isNone

/-- The next record to dispatch: of a detour while one is under way, else of the stream (R377). -/
def State.nextRecord (s : State) (h : Nat) : Option (Nat × BitVec 512) :=
  match (s.hand h).detour with
  | some d => d.buf.head?
  | none => (s.hand h).buf.head?

/-- The record at the front leaves the fetch buffer. -/
def State.popRecord (s : State) (h : Nat) : State :=
  let d := s.hand h
  match d.detour with
  | some x =>
    s.setHand h { d with detour := if x.left ≤ 1 then none else some { x with buf := x.buf.drop 1, left := x.left - 1 },
                         seqBegun := decide (x.left ≤ 1) && x.begun }
  | none => s.setHand h { d with buf := d.buf.drop 1, seqBegun := false }

def State.streamFetchHand (s : State) (h : Nat) : State :=
  let d := s.hand h
  match d.detour with
  | some x =>
    let r := s.fetchFrom (min 16 x.toFetch) x.va x.buf.isEmpty
    let y := { x with va := x.va + 64 * r.1.length, toFetch := x.toFetch - r.1.length, buf := x.buf ++ r.1 }
    let s1 := (s.seenRecords h r.1).setHand h { d with detour := some y }
    match r.2 with
    | .ok => s1
    | .poison => s1.escalate 9 h 0 3 false 0
    | .fault a k p => s1.pageFault 9 h a k p 0
  | none =>
    let va := s.reg64 (Reg.seqFetch h)
    let r := s.fetchFrom 16 va d.buf.isEmpty
    let s1 := ((s.seenRecords h r.1).setHand h { d with buf := d.buf ++ r.1 }).setReg64 (Reg.seqFetch h) (va + 64 * r.1.length)
    match r.2 with
    | .ok => s1
    | .poison => s1.escalate 9 h 0 3 false 0
    | .fault a k p => s1.pageFault 9 h a k p 0

/-- A sequencer can fetch: it has a stream it has not ended, room for 16 records and a way to their home (R67, R288). -/
def State.canFetch (s : State) (h : Nat) : Bool :=
  let d := s.hand h
  s.seqAwake h && d.stream &&
  (match d.detour with
   | some x => decide (0 < x.toFetch) && decide (x.buf.length + 16 ≤ 64) && s.wayTo h x.va
   | none => !d.ended && decide (d.buf.length + 16 ≤ 64) && s.wayTo h (s.reg64 (Reg.seqFetch h)))

/-- STREAM_FETCH of a Mill: as a sequencer's (R260); a fetch fault stops the Mill (R303), poison stops it too (R277). -/
def State.millStop (s : State) (m va : Nat) : State :=
  let s := (s.setMill m { s.mill m with halted := true }).setBit (Reg.millStat m) 28
  (s.note (.millStop m va)).reeveStop

/-- A Mill meets a tile failure or poison: it posts TILE_CRC and stops (R277). -/
def State.millEscalate (s : State) (m tid kind : Nat) (refetched : Bool) (serial : Nat) : State :=
  let d := (tid % 2 ^ 24) <<< 24 + 8 <<< 20 + kind <<< 18 + b2n refetched <<< 17 + serial % 2 ^ 17
  let s := (s.setMill m { s.mill m with halted := true }).setBit (Reg.millStat m) 27
  let t := faultTrace 8 (epMill m) 2 1 d serial (s.recordOf 8 m serial)
  (s.traceMill m t).post (m / 2 * 4 + 2 * (m % 2)) 2 0x01 (epMill m) d

def State.streamFetchMill (s : State) (m : Nat) : State :=
  let d := s.mill m
  let r := s.fetchFrom 16 d.fetch d.buf.isEmpty
  let s1 := (s.seenRecords (640 + m) r.1).setMill m { d with buf := d.buf ++ r.1, fetch := d.fetch + 64 * r.1.length }
  match r.2 with
  | .ok => s1
  | .poison => s1.millEscalate m 0 3 false 0
  | .fault a _ _ => s1.millStop m a

def State.millRuns (s : State) (m : Nat) : Bool := !(s.mill m).halted && !s.millStopped m && !s.marked (640 + m)
def State.millCanFetch (s : State) (m : Nat) : Bool :=
  s.millRuns m && (s.mill m).stream && !(s.mill m).ended && decide ((s.mill m).buf.length + 16 ≤ 64) && s.wayTo (640 + m) (s.mill m).fetch

def execStreamFetch (u : Fin 648) (s : State) : Host.Outcome State Fault Refusal :=
  .next <|
    if u.val < 640 then (if s.canFetch u.val then s.streamFetchHand u.val else s)
    else (if s.millCanFetch (u.val - 640) then s.streamFetchMill (u.val - 640) else s)

/-- The unit takes its root-table entry and begins fetching (R63, R65, R67, R260). -/
def State.startUnit (s : State) (u : Nat) : State :=
  let va := PMap.get 0 s.job.entries u
  let s := { s with job := { s.job with startPending := s.job.startPending.filter (· != u) } }
  if u < 640 then
    let s := s.setHand u { s.hand u with buf := [], ended := false, stream := decide (va ≠ 0), reported := false, base := va <<< 2176,
                                         lastCommit := s.now u }
    let s := s.clearBit (Reg.seqStat u) 30
    if va = 0 then s else s.setReg64 (Reg.seqFetch u) va
  else
    let m := u - 640
    let s := s.setMill m { s.mill m with buf := [], ended := false, stream := decide (va ≠ 0), reported := false, base := va <<< 2176,
                                         fetch := va, lastCommit := s.now u }
    s.clearBit (Reg.millStat m) 30

def execStartPacket (u : Fin 648) (s : State) : Host.Outcome State Fault Refusal :=
  .next (if s.job.startPending.contains u.val then s.startUnit u.val else s)

/-! ## Dispatch (R56, R67 to R70) -/

/-- A malformed record: nothing further is dispatched, BADREC is set, its address is reported, and R432 follows. -/
def State.badRecord (s : State) (h va : Nat) : State :=
  let s := (s.haltStation 9 h).setBit (Reg.seqStat h) 28
  (s.note (.badRec h va)).reeveStop

/-- What the sequencer remembers of CUBE groups, in stream order (R138, R154). -/
def Hand.trackGroups (d : Hand) (l : Nat) (r : BitVec 512) : Hand :=
  if Record.station r = 2 then
    if bit (Record.arg r) 29 then { d with opens := PMap.put d.opens l (groupDecl r) }
    else { d with opens := PMap.del d.opens l, handed := PMap.put d.handed l (PMap.get [] d.handed l ++ [groupDecl r]) }
  else if Record.station r = 3 then { d with handed := PMap.put d.handed l ((PMap.get [] d.handed l).drop 1) }
  else d

/-- The unit whose queue a record goes to. -/
def State.queueUnit (s : State) (h : Nat) (r : BitVec 512) : Nat :=
  if Record.station r ≤ 5 then s.physCore h (Record.core r) else h

/-- A record dispatched to its station's queue. -/
def State.dispatch (s : State) (h va : Nat) (r : BitVec 512) : State :=
  let st := Record.station r
  let u := s.queueUnit h r
  let det := (s.hand h).detour.isSome
  let skip := st == 7 && decide (0 < (s.hand h).skipColl)
  let s1 := s.setQueue st u (s.queue st u ++ [{ r := r, va := va, det := det, skip := skip }])
  let d := (s1.hand h).trackGroups (Record.core r) r
  let d := { d with detLeft := if det then d.detLeft + 1 else d.detLeft,
                    skipColl := if skip then d.skipColl - 1 else d.skipColl }
  (s1.setHand h d).popRecord h

/-- The next record is well formed; the SEQ record at work was found so when it began. -/
def State.recordFits (s : State) (h : Nat) (r : BitVec 512) : Bool :=
  (Record.station r == 9 && (s.hand h).seqBegun) || s.recordOk h r

/-- RECORD_DISPATCH acts on every record but a well-formed SEQ record, which its own row executes. -/
def State.dispatches (s : State) (h : Nat) (r : BitVec 512) : Bool := Record.station r != 9 || !s.recordFits h r

def execRecordDispatch (h : HandIx) (s : State) : Host.Outcome State Fault Refusal :=
  .next <|
    match s.nextRecord h.val with
    | none => s
    | some (va, r) =>
      if s.seqRuns h.val && s.dispatches h.val r then
        if s.recordFits h.val r then
          if (s.queue (Record.station r) (s.queueUnit h.val r)).length < 32 then
            (s.seenEntries h.val (recordTids r)).dispatch h.val va r
          else s
        else
          match s.entryFault (recordTids r) with
          | some f => (s.seenEntries h.val (recordTids r)).refuse 9 h.val f 0 (Record.serial r)
          | none => (s.seenEntries h.val (recordTids r)).badRecord h.val va
      else s

/-! ## SEQ records (R81) -/

/-- The SEQ record of an opcode that is next, well formed, with its waits holding. -/
def State.seqReady (s : State) (h op : Nat) : Option (Nat × BitVec 512) :=
  match s.nextRecord h with
  | none => none
  | some (va, r) =>
    if s.seqRuns h && Record.station r == 9 && Record.opcode r == op && s.recordFits h r && s.waitsHold h r then some (va, r)
    else none

/-- BEGIN of a SEQ record, once, when its waits hold (R558). -/
def State.seqBegin (s : State) (h : Nat) (r : BitVec 512) : State :=
  if (s.hand h).seqBegun then s
  else (s.setHand h { s.hand h with seqBegun := true }).traceBegin 9 h r 0

/-- A SEQ record commits: its increments, END, and dispatch goes on; the hang watch counts from here (R71). -/
def State.seqCommit (s : State) (h : Nat) (r : BitVec 512) : State :=
  let s1 := ((s.applyIncs h r).traceEnd 9 h r 0 0 0).popRecord h
  s1.setHand h { s1.hand h with lastCommit := s1.now h }

/-- Fetching goes on at TARGET: what was fetched beyond is discarded (R81). A JUMP or LOOP among the records of a detour
redirects the stream, and the detour's own records go on; neither R81 nor R377 says which (DESIGN CHOICE, assumption 75). -/
def State.redirect (s : State) (h target : Nat) : State :=
  (s.setHand h { s.hand h with buf := [] }).setReg64 (Reg.seqFetch h) target

def execSeqNop (h : HandIx) (s : State) : Host.Outcome State Fault Refusal :=
  .next <|
    match s.seqReady h.val 0 with
    | none => s
    | some (_, r) => (s.seqBegin h.val r).seqCommit h.val r

def execSeqJump (h : HandIx) (s : State) : Host.Outcome State Fault Refusal :=
  .next <|
    match s.seqReady h.val 1 with
    | none => s
    | some (_, r) => ((s.seqBegin h.val r).seqCommit h.val r).redirect h.val (Record.target r)

/-- One arrival at a LOOP: the register's count after it (R82). -/
def loopStep (count n : Nat) : Nat := (if count = 0 then max n 1 else count) - 1

def execSeqLoop (h : HandIx) (s : State) : Host.Outcome State Fault Refusal :=
  .next <|
    match s.seqReady h.val 2 with
    | none => s
    | some (_, r) =>
      let a := Reg.loopReg h.val (Record.argBits r 30 2)
      let c := loopStep (s.field a 0 28) (Record.argBits r 0 28)
      let s1 := ((s.seqBegin h.val r).setReg a (BitVec.ofNat 32 c)).seqCommit h.val r
      if c = 0 then s1 else s1.redirect h.val (Record.target r)

/-- Every queue of the hand is empty: everything dispatched has committed (R84). -/
def State.handIdle (s : State) (h : Nat) : Bool :=
  (s.hand h).pq.isEmpty && (s.hand h).xq.isEmpty &&
  (upTo 17).all fun c =>
    let k := s.core (h * 17 + c)
    k.ld.isEmpty && k.cu.isEmpty && k.dr.isEmpty && k.ve.isEmpty && k.st.isEmpty

/-- n 32-bit words, read from registers, as one little-endian number. -/
def State.packWords (s : State) (addr : Nat → Nat) : Nat → Nat → Nat
  | 0, _ => 0
  | n + 1, i => (s.reg (addr i)).toNat + s.packWords addr n (i + 1) <<< 32

/-- The 384 bytes of a hand's checkpoint slot (R564). -/
def State.slotImage (s : State) (h next serial arg writes : Nat) : Nat :=
  s.packWords (Reg.evc h) 64 0 + s.packWords (Reg.loopReg h) 4 0 <<< 2048 + (next % 2 ^ 48) <<< 2176 +
    (serial % 2 ^ 32) <<< 2240 + (arg % 2 ^ 32) <<< 2272 + (s.now h % 2 ^ 64) <<< 2304 + (writes % 2 ^ 32) <<< 2368

/-- The checkpoint of R85 written to LAST, and at an EPOCH to the EPOCH slot too; it precedes the record's own
increments (DEDUCED, assumption 8). The fetch address of a record among those of a detour is that of the detour's next record
(DESIGN CHOICE, assumption 75). -/
def State.checkpoint (s : State) (h va : Nat) (r : BitVec 512) (epoch : Bool) : State :=
  let arg := if epoch then Record.arg r else 0
  let d := s.hand h
  let img := fun (w : Nat) => s.slotImage h (va + 64) (Record.serial r) arg w
  let s1 := (s.vwrite h 0 (s.traceBlock h) 384 (img (d.writesLast + 1))).getD s
  let s2 := if epoch then (s1.vwrite h 0 (s.traceBlock h + 0x180) 384 (img (d.writesEpoch + 1))).getD s1 else s1
  let d := s2.hand h
  let d := { d with writesLast := d.writesLast + 1, sinceLast := {}, peers := [], morePeers := false,
                    writesEpoch := if epoch then d.writesEpoch + 1 else d.writesEpoch, hasLast := true,
                    hasEpoch := d.hasEpoch || epoch,
                    sinceEpoch := if epoch then {} else d.sinceEpoch }
  (s2.setHand h d).traceHand h (Trace.ofRecord 7 9 h r (b2n epoch) arg)

def execMark (h : HandIx) (s : State) : Host.Outcome State Fault Refusal :=
  .next <|
    match s.seqReady h.val 4 with
    | none => s
    | some (va, r) =>
      let s1 := s.seqBegin h.val r
      if s.handIdle h.val then
        match s1.accFault .write (s1.traceBlock h.val) with
        | some f => s1.refuse 9 h.val f 0 (Record.serial r)   -- R303: nothing is written, no commit
        | none => (s1.checkpoint h.val va r false).seqCommit h.val r
      else s1

/-- PART of a known-answer step (R431). -/
def katPart (step : Nat) : Nat := if step ≤ 3 then 0 else if step = 4 then 1 else if step = 5 then 2 else if step = 6 then 3 else 4

/-- The in-service known-answer test at an EPOCH whose number is a multiple of KAT_EVERY (R425). `times` is how many of
the test and its repeat mismatched, at step `step`; one record is posted, and SECOND says whether the repeat mismatched
too (R426, R431; DEDUCED, assumption 9). The test runs in tensor-aware mode, and leaves the normal one (R294). -/
def State.kat (s : State) (h n step times : Nat) : State :=
  let every := s.field (Reg.reeveCtl (h / 160)) 8 16
  if every = 0 ∨ n % every ≠ 0 then s
  else
    let s := s.setGranMode (h / 160) 0
    if times = 0 then s else
    let k := s.physCore h (n / every % 16)
    let ep := if step = 6 then epHand h 24 else epCore k
    s.postHand h 9 ep 2 0x11 (katPart step <<< 45 + step <<< 40 + b2n (decide (2 ≤ times)) <<< 39) 0 0

/-- Every hand in service that has a stream in the deal has passed epoch n: the package boundary, where suit and package
staged changes and staged governor limits commit (R84, R449, R510); the step that an UPDATE had begun in is over (R436,
R442). A hand whose start packet is on its way has passed no epoch. -/
def State.packageEpoch (s : State) (n : Nat) : State :=
  let hs := hands640.filter fun h => s.handUp h && ((s.hand h).stream || s.willStart h)
  if hs.all fun h => !s.willStart h && (s.hand h).epochs.contains n then
    let s := s.commitStaged isPkgStaged
    let s := match s.gov.staged with | none => s | some (f, p) => s.setLimits f p
    let s := hs.foldl (fun (s : State) h =>
      s.setHand h { s.hand h with epochs := ((s.hand h).epochs.dropWhile (· != n)).drop 1 }) s
    { s with job := { s.job with rollForward := false } }
  else s

def execEpoch (h : HandIx) (katStep katTimes : Nat) (s : State) : Host.Outcome State Fault Refusal :=
  .next <|
    match s.seqReady h.val 3 with
    | none => s
    | some (va, r) =>
      let s1 := s.seqBegin h.val r
      if s.handIdle h.val then
        match s1.accFault .write (s1.traceBlock h.val) with
        | some f => s1.refuse 9 h.val f 0 (Record.serial r)
        | none =>
          let n := Record.arg r
          let s2 := s1.kat h.val n katStep katTimes
          let d := s2.hand h.val
          let s3 := (s2.setHand h.val { d with epochs := d.epochs ++ [n] }).setField (Reg.seqStat h.val) 16 8 n
          let s4 := (s3.commitStaged (isHandStaged h.val)).checkpoint h.val va r true
          ((s4.flushRing h.val).seqCommit h.val r).packageEpoch n
      else s1

/-- Where the counts since a checkpoint slot grow (R433). -/
def Hand.countSignal (d : Hand) : Hand :=
  { d with sinceLast := { d.sinceLast with signals := d.sinceLast.signals + 1 }
           sinceEpoch := { d.sinceEpoch with signals := d.sinceEpoch.signals + 1 } }
def Hand.countColl (d : Hand) : Hand :=
  { d with sinceLast := { d.sinceLast with colls := d.sinceLast.colls + 1 }
           sinceEpoch := { d.sinceEpoch with colls := d.sinceEpoch.colls + 1 } }
def Hand.countInc (d : Hand) (c n : Nat) : Hand :=
  let up := fun (x : Since) => { x with inc := PMap.put x.inc c (PMap.get 0 x.inc c + n) }
  { d with sinceLast := up d.sinceLast, sinceEpoch := up d.sinceEpoch }
def execSeqSignal (h : HandIx) (s : State) : Host.Outcome State Fault Refusal :=
  .next <|
    match s.seqReady h.val 5 with
    | none => s
    | some (_, r) =>
      let s1 := s.seqBegin h.val r
      let d := s1.hand h.val
      let s2 :=
        if 0 < d.skipSig then s1.setHand h.val { d with skipSig := d.skipSig - 1 }
        else
          (s1.setHand h.val d.countSignal).send (epHand h.val 25) (Record.argBits r 0 16) 3 h.val
            (.signal (Record.argBits r 16 6) (Record.argBits r 22 8))
      s2.seqCommit h.val r

/-- Every station of a core is idle and the ports that close are empty (R58). -/
def Core.quiet (c : Core) (closing : List Nat) : Bool :=
  c.ld.isEmpty && c.cu.isEmpty && c.dr.isEmpty && c.ve.isEmpty && c.st.isEmpty &&
    closing.all fun p => (c.port p).count == 0

/-- Ports that are open now and closed by a new mask. -/
def closingPorts (old new : Nat) : List Nat := (upTo 9).filter fun p => old.testBit p && !new.testBit p

def execPorts (h : HandIx) (s : State) : Host.Outcome State Fault Refusal :=
  .next <|
    match s.seqReady h.val 6 with
    | none => s
    | some (_, r) =>
      let l := Record.core r
      let k := s.physCore h.val l
      let new := Record.argBits r 0 9
      let closing := closingPorts (s.portMask h.val l) new
      let s1 := s.seqBegin h.val r
      let c := s1.core k
      if c.quiet closing then
        let done := fun (s : State) =>
          (s.setHand h.val { s.hand h.val with mask := PMap.put (s.hand h.val).mask l new }).seqCommit h.val r
        if closing.contains 8 && !c.grants.isEmpty && c.recalls.isEmpty then
          (c.grants.foldl (fun (s : State) (g : Nat × Nat) => s.send (epHand h.val 25) g.1 3 h.val (.p8recall k)) s1).setCore k
            { c with recalls := c.grants.map (·.1) }
        else if closing.contains 8 && !c.grants.isEmpty then
          if c.p8own = 8 then done (s1.setCore k { c with grants := [], recalls := [] }) else s1
        else done s1
      else s1

def execSeqEnd (h : HandIx) (s : State) : Host.Outcome State Fault Refusal :=
  .next <|
    match s.seqReady h.val 7 with
    | none => s
    | some (_, r) =>
      let s1 := (s.seqBegin h.val r).seqCommit h.val r
      (s1.setHand h.val { s1.hand h.val with ended := true, buf := [] }).flushRing h.val

def execHold (h : HandIx) (s : State) : Host.Outcome State Fault Refusal :=
  .next <|
    match s.seqReady h.val 8 with
    | none => s
    | some (va, r) =>
      let s1 := s.seqBegin h.val r
      s1.setHand h.val { s1.hand h.val with held := some (va, r) }

def execResumePacket (h : HandIx) (s : State) : Host.Outcome State Fault Refusal :=
  .next <|
    match (s.hand h.val).held with
    | none => s
    | some (_, r) => (s.setHand h.val { s.hand h.val with held := none }).seqCommit h.val r

/-- GRANT (R60): the credits leave with the sequencer's packet, and the record commits at the acknowledgement. -/
def execGrant (h : HandIx) (s : State) : Host.Outcome State Fault Refusal :=
  .next <|
    match s.seqReady h.val 9 with
    | none => s
    | some (_, r) =>
      let k := s.physCore h.val (Record.argBits r 20 4)
      let e := Record.argBits r 0 16
      let n := Record.argBits r 16 4
      if !(s.hand h.val).seqBegun then
        let s1 := s.seqBegin h.val r
        let c := s1.core k
        let s2 := s1.setCore k { c with p8own := c.p8own - n, grants := PMap.put c.grants e (PMap.get 0 c.grants e + n) }
        (s2.setHand h.val { s2.hand h.val with waitAck := [e] }).send (epHand h.val 25) e 3 h.val (.p8credit k n true)
      else if (s.hand h.val).waitAck.isEmpty then s.seqCommit h.val r
      else s

/-- DETOUR (R377): once the record in hand is finished, the records of the fallback entry are dispatched before the stream
goes on. The dealer's packet has reached the sequencer: the message names its address and length. A SEQ record that waits,
for its counters or for earlier records to commit, is not in hand; a GRANT that awaits its answer is (DEDUCED, assumption
50), and while a HOLD is in force nothing is dispatched, a detour's records neither (R81). -/
def execDetour (h : HandIx) (s : State) : Host.Outcome State Fault Refusal :=
  .next <|
    match s.net.find? fun p => p.arrived && p.dest.toNat == epHand h.val 25 && (match p.msg with | .detour .. => true | _ => false) with
    | none => s
    | some p =>
      match p.msg with
      | .detour va n g tag =>
        if (s.hand h.val).detour.isNone && (s.hand h.val).waitAck.isEmpty && (s.hand h.val).held.isNone then
          let s1 := { s with net := s.net.erase p }
          let d := s1.hand h.val
          let x : Detour := { va := va, toFetch := n, left := n, grp := g, tag := tag, begun := d.seqBegun }
          s1.setHand h.val { d with detour := some x, seqBegun := false }
        else s
      | _ => s

/-- HAND_DONE (R81, R553). -/
def execHandDone (h : HandIx) (s : State) : Host.Outcome State Fault Refusal :=
  .next <|
    let d := s.hand h.val
    if d.stream && d.ended && !d.reported && s.handIdle h.val && d.detour.isNone then
      let s1 := s.setHand h.val { d with reported := true }
      ((s1.setBit (Reg.seqStat h.val) 30).flushRing h.val).jobDone
    else s

/-- Some queue of the hand holds a record (R71). -/
def State.handBusy (s : State) (h : Nat) : Bool := !s.handIdle h

/-- STALL (R71, R432): the hang watch fires once HANG_LIMIT ms have passed since the last commit. `fail` is the outcome
of the reeve's known-answer test: 0 it passed, which is reported to the runtime. -/
def execStall (h : HandIx) (fail : Nat) (s : State) : Host.Outcome State Fault Refusal :=
  .next <|
    let lim := max 1 (s.field (Reg.seqCtl h.val) 8 16) * 1000000
    if s.job.run && s.flag (Reg.seqCtl h.val) 0 && !s.flag (Reg.seqStat h.val) 27 && s.handBusy h.val && !s.handStopped h.val &&
        decide ((s.hand h.val).lastCommit + lim ≤ s.now h.val) then
      let s1 := (s.setBit (Reg.seqStat h.val) 27).note (.stall h.val)
      if fail = 0 then s1.note (.stallPassed h.val) else s1
    else s

end Sys2Proof.Machine
end

