-- ==== Sys2Proof/Machine/Fabric.lean ====
section
/-! DEFINITION. The suit mesh, its links and the packets of the control channel (R59, R60, R343 to R361, R393 to R396). -/

namespace Sys2Proof.Machine

/-- The endpoint lies in the Manor. -/
def epManor (e : Nat) : Bool := bit e 15 && decide (16 ≤ bits e 8 5) && bits e 8 5 != 20
/-- The endpoint is a suit's Manor link end. -/
def epLink (e : Nat) : Bool := bit e 15 && bits e 8 5 == 20

/-- The routers that carry unordered traffic between a suit and the Manor link (R355). -/
def mPorts (a : Nat) : List Nat := (upTo 5).map (mPort a)

/-! ## Flits and credits (R349 to R352) -/

/-- Flits of a packet: the header, and one for each 128 bytes of payload; up to 64 bytes travel in the header's ARGS. A tile
travels with its header in THDR and its payload in 32 flits. -/
def Packet.size (p : Packet) : Nat := if p.paylen ≤ 64 then 1 else 1 + (p.paylen + 127) / 128

/-- A packet within the limits of R352. -/
def Packet.ok (p : Packet) : Bool := decide (p.paylen ≤ 4096) && (p.vc != 3 || p.size == 1)

/-- MSGID, MSGLEN and OFFSET of a packet. The manual gives the control messages none, and a message of one packet has its length. -/
def Packet.message (p : Packet) : Nat × Nat × Nat :=
  match p.msg with
  | .data id len off _ => (id, len, off)
  | _ => (0, p.paylen, 0)

/-- The header flit (R352). `args` is what ARGS hold where no short payload stands there, which the manual leaves to each message. -/
def Packet.header (p : Packet) (args : BitVec 512) : BitVec 1024 :=
  let thdr := match p.msg with | .p8tile t => t.hdr.toNat | _ => 0
  let short := match p.msg with | .data _ _ _ bytes => if bytes.length ≤ 64 then ofBytes bytes else args.toNat | _ => args.toNat
  BitVec.ofNat 1024 (p.dest.toNat + p.src.toNat <<< 16 +
    (p.vc.toNat + b2n p.ord <<< 2 + b2n p.mcast <<< 3 + b2n p.logical <<< 4 + b2n p.last <<< 5) <<< 32 +
    (p.message.1 % 2 ^ 32) <<< 64 + (p.message.2.1 % 2 ^ 32) <<< 96 + (p.message.2.2 % 2 ^ 32) <<< 128 + (p.paylen % 2 ^ 16) <<< 160 +
    (if p.mcast then p.mask.toNat <<< 192 else 0) + thdr <<< 256 + short <<< 512)

/-- The input buffer of place q from place p, and of its local port; the place of a buffer, and where its flits come from. -/
def buffer (p q : Nat) : Nat := q * 1024 + p
def localBuffer (p : Nat) : Nat := p * 1024 + 1023
def bufAt (l : Nat) : Nat := l / 1024
def bufFrom (l : Nat) : Nat := l % 1024

/-- Flits of the packet in a buffer. -/
def Packet.held (p : Packet) (l : Nat) : Nat := sumL ((p.way.filter fun e => e.1 == l).map (·.2))

/-- Free flits of a virtual channel in a buffer of 12, as its sender's credits count them; a link that is down has none
(R350, R361). -/
def State.credits (s : State) (vc : BitVec 2) (l : Nat) : Nat :=
  let up := match linkOf (bufFrom l) (bufAt l) with
    | none => true
    | some k => !(s.link k).down && (decide (640 ≤ bufFrom l) || decide (640 ≤ bufAt l) || s.bridgeUp (bufFrom l / 160) (bufAt l / 160))
  if bufFrom l == 1023 || up then 12 - sumL (s.net.map fun p => if p.vc = vc then p.held l else 0) else 0

/-! ## One hop (R353 to R355) -/

/-- Of some next places, in order of preference, the first whose input has the most free credits (R354). -/
def State.freest (s : State) (p : Packet) (qs : List Nat) : Option Nat :=
  let c := fun (q : Nat) => s.credits p.vc (buffer p.pos q)
  qs.find? fun q => qs.all fun r => decide (c r ≤ c q)

/-- One router further along the row toward a column, and along the column toward a row. -/
def stepX (p x : Nat) : Option Nat :=
  if px p = x then none else some (place (p / 160) (if px p < x then px p + 1 else px p - 1) (py p))
def stepY (p y : Nat) : Option Nat :=
  if py p = y then none else some (place (p / 160) (px p) (if py p < y then py p + 1 else py p - 1))

/-- Toward a router of the same suit: X first and then Y for ordered traffic, adaptively otherwise; none when there. -/
def State.toward (s : State) (p : Packet) (t : Nat) : Option Nat :=
  let qs := (stepX p.pos (px t)).toList ++ (stepY p.pos (py t)).toList
  if p.ord then qs.head? else s.freest p qs

/-- Over the bridge from suit a to suit b: toward the edge, or across it to the router of the same row or column. -/
def crossTo (a b p : Nat) : Nat :=
  let x := px p
  let y := py p
  match facing a b with
  | some 0 => if x = 15 then place b 0 y else place a (x + 1) y
  | some 1 => if y = 9 then place b x 0 else place a x (y + 1)
  | some 2 => if x = 0 then place b 15 y else place a (x - 1) y
  | _ => if y = 0 then place b x 9 else place a x (y - 1)

/-- Over the bridge toward suit b: straight for ordered traffic; an unordered packet uses any edge router on a minimal way to its
hand's row or column. -/
def State.overBridge (s : State) (p : Packet) (b : Nat) : Option Nat :=
  let a := p.pos / 160
  let c := crossTo a b p.pos
  if p.ord then some c
  else
    match epToHand p.dest.toNat, (facing a b).getD 0 % 2 with
    | none, _ => some c
    | some h, 0 => s.freest p (c :: (stepY p.pos (py h)).toList)
    | some h, _ => s.freest p ((stepX p.pos (px h)).toList ++ [c])

/-- The M port of an ordered packet: position (hx + hy) mod 5 of its source hand, or of its destination hand for a
source that is none (R355; DEDUCED, assumption 19). -/
def Packet.mIndex (p : Packet) : Nat :=
  match epToHand p.src.toNat, epToHand p.dest.toNat with
  | some h, _ => px h + py h
  | none, some h => px h + py h
  | none, none => 0

/-- Toward the Manor: by the packet's M port for ordered traffic, by the nearest M routers otherwise. -/
def State.toManor (s : State) (p : Packet) : Option Nat :=
  let a := p.pos / 160
  let out := 640 + a
  if p.ord then
    let m := mPort a p.mIndex
    if m = p.pos then some out else s.toward p m
  else if (mPorts a).contains p.pos then some out
  else
    let lo := px (mPort a 0)
    let x := if px p.pos < lo then stepX p.pos lo else if lo + 4 < px p.pos then stepX p.pos (lo + 4) else none
    s.freest p (x.toList ++ (stepY p.pos (py (mPort a 0))).toList)

/-- From the Manor into a suit: by the packet's M port, or by any of the M routers whose input has the most free credits. -/
def State.fromManor (s : State) (p : Packet) (a : Nat) : Nat :=
  if p.ord then mPort a p.mIndex
  else
    let c := fun (q : Nat) => s.credits p.vc (buffer p.pos q)
    let best := (mPorts a).filter fun q => (mPorts a).all fun r => decide (c r ≤ c q)
    best.getD (s.fresh % max 1 best.length) (mPort a 0)

/-- The next place of a unicast packet; none where it has reached its destination. The router at which a suit's other
units hang is not given: they take a packet at any router of their suit (assumption 30). -/
def State.nextHop (s : State) (p : Packet) : Option Nat :=
  let e := p.dest.toNat
  let ds := epSuit e
  if 640 ≤ p.pos then
    let a := p.pos - 640
    if epManor e then none
    else if epLink e then (if a = ds then none else some (640 + ds))
    else if a = ds then some (s.fromManor p a)
    else some (640 + ds)
  else
    let a := p.pos / 160
    if epManor e || epLink e then s.toManor p
    else if a = ds then
      match epToHand e with
      | none => none
      | some h => s.toward p h
    else if s.bridged a ds then s.overBridge p ds
    else s.toManor p

/-- The router that decodes at a place: the hand's, or for a Manor link end the first M-port router of its suit; and the suit
whose fold mask it holds. -/
def routerAt (p : Nat) : Nat := if p < 640 then p else mPort (p - 640) 0
def suitAt (p : Nat) : Nat := if p < 640 then p / 160 else p - 640

/-- The destination is one that R346 drops at a place: reserved, beyond its kind, or in a fused-off or folded suit. -/
def State.badDest (s : State) (at_ e : Nat) : Bool :=
  !epValid e || (!epManor e && !s.routed (suitAt at_) (epSuit e))

/-- The packet is removed from the fabric. -/
def State.dropPacket (s : State) (i : Nat) : State := { s with net := s.net.take i ++ s.net.drop (i + 1) }
/-- Packet i replaced. -/
def State.setPacket (s : State) (i : Nat) (p : Packet) : State := { s with net := s.net.set i p }

/-! ## Multicast (R357 to R359, R417) -/

/-- Fields of a multicast mask. -/
def mSuits (m : Nat) : Nat := bits m 0 4
def mRows (m : Nat) : Nat := bits m 4 10
def mCols (m : Nat) : Nat := bits m 14 16
def mUnits (m : Nat) : Nat := bits m 30 17
def mTarget (m : Nat) : Nat := bits m 47 2
def withSuits (m v : Nat) : Nat := setBits m 0 4 v
def withRows (m v : Nat) : Nat := setBits m 4 10 v
def withCols (m v : Nat) : Nat := setBits m 14 16 v

/-- Bits of a mask below and above a place. -/
def below (m x : Nat) : Nat := m % 2 ^ x
def above (m x : Nat) : Nat := m / 2 ^ (x + 1) * 2 ^ (x + 1)

/-- The units of a hand that a mask names (R357): its cores, physical or by the hand's own spare map, its XCHG station or its
sequencer. TARGET 3 is reserved and names none. -/
def State.targets (s : State) (p : Packet) (h : Nat) : List Nat :=
  let m := p.mask.toNat
  let cores := (upTo 17).filter fun u => bit (mUnits m) u
  match mTarget m with
  | 0 => if p.logical then (cores.filter (· < 16)).map fun l => epCore (s.physCore h l) else cores.map fun u => epHand h u
  | 1 => [epHand h 26]
  | 2 => [epHand h 25]
  | _ => []

/-- The ring of R17 without the suits that suit a's routers hold as folded (R20, R393). -/
def State.ringAt (s : State) (a : Nat) : List Nat := ring4.filter fun b => b == a || s.routed a b

/-- Around the ring: the element after, or before, an element. -/
def ringStep (l : List Nat) (a : Nat) (forward : Bool) : Nat :=
  l.getD ((indexOf l a + (if forward then 1 else l.length - 1)) % max 1 l.length) a

/-- A multicast's way from suit a to suit b is the forward one: positions up to half the ring (R358, R417). -/
def State.forwardTo (s : State) (a b : Nat) : Bool :=
  let l := s.ringAt a
  decide (2 * ((indexOf l b + l.length - indexOf l a) % max 1 l.length) ≤ l.length)

/-- The next place of a copy for the ring's next suit v: over the bridge where v is the neighbour on that side of the full ring,
by the Manor where a suit between them is missing or the bridge is out of service (R20, R355). -/
def State.mcastHop (s : State) (p : Packet) (v : Nat) (forward : Bool) : Nat :=
  let a := p.pos / 160
  if ringStep ring4 a forward = v ∧ s.bridged a v then crossTo a v p.pos
  else if mPort a p.mIndex = p.pos then 640 + a
  else (s.toward { p with ord := true } (mPort a p.mIndex)).getD (640 + a)

/-- Toward the link end that would carry a branch into a folded suit b: the bridge end that faces it, else the Manor link end. -/
def foldedHop (p : Packet) (b : Nat) : Nat :=
  let a := p.pos / 160
  if (facing a b).isSome then crossTo a b p.pos
  else
    let m := mPort a p.mIndex
    if m = p.pos then 640 + a else ((stepX p.pos (px m)).orElse fun _ => stepY p.pos (py m)).getD (640 + a)

/-- Suits whose branch the link end at a packet's place prunes (R359). -/
def State.prunedHere (s : State) (p : Packet) : List Nat :=
  let a := suitAt p.pos
  suits4.filter fun b => bit p.mask.toNat b && b != a && !s.routed a b &&
    (decide (640 ≤ p.pos) || foldedHop p b / 160 != a)

/-- The branches that leave a packet's place: next place and mask. -/
def State.branches (s : State) (p : Packet) : List (Nat × Nat) :=
  let m := p.mask.toNat
  let a := suitAt p.pos
  if 640 ≤ p.pos then
    (suits4.filter fun b => bit m b && (b == a || s.routed a b)).map fun b =>
      (if b = a then mPort b p.mIndex else 640 + b, withSuits m (2 ^ b))
  else
    let x := px p.pos
    let y := py p.pos
    let own := withSuits m (2 ^ a)
    let c := mCols m
    let r := mRows m
    let col := withCols own (2 ^ x)
    let inSuit : List (Nat × Nat) :=
      if !bit m a then []
      else
        (if below c x = 0 then [] else [(place a (x - 1) y, withCols own (below c x))]) ++
        (if above c x = 0 then [] else [(place a (x + 1) y, withCols own (above c x))]) ++
        (if !bit c x || below r y == 0 then [] else [(place a x (y - 1), withRows col (below r y))]) ++
        (if !bit c x || above r y == 0 then [] else [(place a x (y + 1), withRows col (above r y))])
    let others := suits4.filter fun b => b != a && bit m b
    let live := others.filter (s.routed a)
    let dirs := [true, false].filter fun f => live.any fun b => s.forwardTo a b == f
    let dead := others.filter fun b => !s.routed a b && foldedHop p b / 160 == a
    inSuit ++
      (dirs.map fun f => (s.mcastHop p (ringStep (s.ringAt a) a f) f, withSuits m (sumL ((live.filter fun b => s.forwardTo a b == f).map (2 ^ ·))))) ++
      dead.map fun b => (foldedHop p b, withSuits m (2 ^ b))

/-- The packet's place is a hand that its mask names. -/
def Packet.hits (p : Packet) : Bool :=
  decide (p.pos < 640) && bit p.mask.toNat (p.pos / 160) && bit (mRows p.mask.toNat) (py p.pos) && bit (mCols p.mask.toNat) (px p.pos)

/-- The copies that a router makes, fed by replication n with the first flit (R358): one for each branch, and one for each
unit of its own hand that the mask names, unless the hand is fenced. -/
def State.mcastCopies (s : State) (p : Packet) (n : Nat) : List Packet :=
  (s.branches p).map (fun b =>
    { p with pos := b.1, mask := BitVec.ofNat 64 b.2, way := [(buffer p.pos b.1, 1)], sent := 1, sunk := 0, fed := n, split := 0 }) ++
  (if p.hits && !s.fenced p.pos then
    (s.targets p p.pos).map fun e =>
      { p with mcast := false, dest := BitVec.ofNat 16 e, way := [], sent := 1, sunk := 1, fed := n, split := 0, arrived := p.size == 1 }
   else [])

/-! ## Order and the output ports (R351, R353, R361) -/

/-- The packet has flits at a place, or still to enter there. -/
def Packet.stands (p : Packet) (q : Nat) : Bool :=
  p.pos == q || p.way.any fun e => bufAt e.1 == q && (decide (0 < e.2) || (bufFrom e.1 == 1023 && decide (p.sent < p.size)))

/-- An ordered packet waits behind an earlier one of its source and channel at the same place, unless both go to one
destination each and these differ (R353). -/
def State.overtakes (s : State) (i : Nat) (p : Packet) : Bool :=
  p.ord && (s.net.take i).any fun q =>
    q.ord && q.src == p.src && q.vc == p.vc && !q.arrived && q.stands p.pos && (q.mcast || p.mcast || q.dest == p.dest)

/-- Buffers that flits of a packet wait to enter: its head's next ones, and those that its body's flits follow into. -/
def State.asks (s : State) (p : Packet) : List Nat :=
  let head :=
    if p.mcast then (s.branches p).map fun b => buffer p.pos b.1
    else match s.nextHop p with | none => [] | some q => [buffer p.pos q]
  let body := (List.zip p.way (p.way.drop 1)).filterMap fun x => if 0 < x.2.2 then some x.1.1 else none
  (if p.way.isEmpty || p.way.any (fun e => bufAt e.1 == p.pos && decide (0 < e.2)) then head else []) ++ body

/-- Channel v goes before channel w at the output port of a buffer: control first, response second, request and collective
in turn (R351). -/
def State.ahead (s : State) (v w : BitVec 2) (l : Nat) : Bool :=
  match v.toNat, w.toNat with
  | 3, w => w != 3
  | 1, w => w == 0 || w == 2
  | 0, 2 => s.served.contains l
  | 2, 0 => !s.served.contains l
  | _, _ => false

/-- Packet i's flit for a buffer yields: to another channel's flit that has a credit and goes first, or, while a replay runs on the
link, to the packet that stood first in its channel's line (R351, R361). -/
def State.yields (s : State) (i : Nat) (p : Packet) (l : Nat) : Bool :=
  let replay := match linkOf (bufFrom l) (bufAt l) with | none => false | some k => decide (0 < (s.link k).tries)
  (List.zip (upTo s.net.length) s.net).any fun x =>
    x.1 != i && !x.2.arrived && (s.asks x.2).contains l && !s.overtakes x.1 x.2 && decide (0 < s.credits x.2.vc l) &&
      (s.ahead x.2.vc p.vc l || (replay && decide (x.1 < i)))

/-- A flit of packet i may enter a buffer now. -/
def State.mayEnter (s : State) (i : Nat) (p : Packet) (l : Nat) : Bool := decide (0 < s.credits p.vc l) && !s.yields i p l

/-- The flits behind the head follow, each into the buffer before its own if it may enter; `u` flits wait in the unit. The
buffers, and the flits that left the unit. -/
def followers (ok : Nat → Bool) (u l n : Nat) : List (Nat × Nat) → List (Nat × Nat) × Nat
  | [] => if 0 < u && ok l then ([(l, n + 1)], 1) else ([(l, n)], 0)
  | (m, k) :: r =>
    if 0 < k && ok l then let x := followers ok u m (k - 1) r; ((l, n + 1) :: x.1, x.2)
    else let x := followers ok u m k r; ((l, n) :: x.1, x.2)

/-- Buffers that the whole packet has left are forgotten. -/
def trimWay (whole : Bool) (w : List (Nat × Nat)) : List (Nat × Nat) :=
  if whole then (w.reverse.dropWhile fun e => e.2 == 0).reverse else w

/-- The packet's first flit enters the local port, if there is room; a copy is fed by its router. -/
def State.entered (s : State) (p : Packet) : Packet :=
  if p.way.isEmpty && p.fed == 0 && p.sent == 0 && decide (0 < s.credits p.vc (localBuffer p.pos)) then
    { p with way := [(localBuffer p.pos, 1)], sent := 1 }
  else p

/-- What a packet holds after its head flit has gone on (`out`), with the flits behind it one buffer further. -/
def State.advance (s : State) (i : Nat) (p : Packet) (out : Bool) : Packet :=
  match p.way with
  | [] => p
  | (l, n) :: r =>
    let u := if p.fed = 0 then p.size - p.sent else 0
    let x := followers (s.mayEnter i p) u l (if out then n - 1 else n) r
    { p with way := trimWay (decide (p.size ≤ p.sent + x.2)) x.1, sent := p.sent + x.2 }

/-- Links that took a flit: the failed replays of one that crosses a link between suits are over, and the output port has
served the channel (R351, R361). -/
def State.took (s : State) (p q : Packet) : State :=
  let ls := (q.way.map (·.1)).filter fun l => decide (p.held l < q.held l) && bufFrom l != 1023
  let s1 := ls.foldl (fun (s : State) l =>
    match linkOf (bufFrom l) (bufAt l) with | none => s | some k => s.setLink k { s.link k with tries := 0 }) s
  if p.vc.toNat = 2 then { s1 with served := (s1.served ++ ls).dedup }
  else if p.vc.toNat = 0 then { s1 with served := s1.served.filter fun l => !ls.contains l }
  else s1

/-- The head flit is at its packet's place. -/
def Packet.headHere (p : Packet) : Bool := p.way.any fun e => bufAt e.1 == p.pos && decide (0 < e.2)

/-- A unicast packet goes on: its head flit sinks at the destination or takes the next hop, and the flits behind it follow. The
packet is delivered when all its flits have sunk. -/
def State.forwardOne (s : State) (i : Nat) (p : Packet) : State :=
  match s.nextHop p with
  | none =>
    if !p.headHere then s.setPacket i (s.advance i p false)
    else
      let p1 := s.advance i { p with sunk := p.sunk + 1 } true
      (s.took p p1).setPacket i (if p1.sunk = p1.size then { p1 with arrived := true, way := [] } else p1)
  | some q =>
    let l := buffer p.pos q
    if p.headHere && s.mayEnter i p l then
      let p1 := s.advance i p true
      let p2 := { p1 with pos := q, way := (l, 1) :: p1.way }
      ((s.spend).took p p2).setPacket i p2
    else s.setPacket i (s.advance i p false)

/-- A fenced hand's router prunes: its PRUNE is set. A notice of pruned hands goes to the source of a collective's packet; for
every other multicast pruning is silent (R359). -/
def State.pruneNotice (s : State) (p : Packet) (src router : Nat) (hands : List Nat) : State :=
  if p.vc = 2 then
    let id := match p.msg with | .data id _ _ _ => id | _ => 0
    s.send src p.src.toNat 3 router (.prune (id / 2 ^ 28) (id % 2 ^ 28) hands)
  else s
def State.pruneAll (s : State) (p : Packet) : State :=
  let s1 := if p.hits && s.fenced p.pos then (s.setBit (Reg.routerStat p.pos) 30).pruneNotice p (epHand p.pos 26) p.pos [p.pos] else s
  let a := suitAt p.pos
  (s.prunedHere p).foldl (fun (s : State) b =>
    let end_ := if p.pos < 640 ∧ (facing a b).isSome then epBridge (bridgeOf a b) else epStation a 20 0
    s.pruneNotice p end_ (routerAt p.pos) ((upTo 160).map (b * 160 + ·))) s1

/-- One flit more for a copy that replication n feeds. -/
def Packet.feed (p : Packet) (n : Nat) : Packet :=
  if p.fed ≠ n ∨ p.size ≤ p.sent then p
  else if p.mcast then { p with sent := p.sent + 1, way := p.way.dropLast ++ (p.way.getLast?.toList.map fun e => (e.1, e.2 + 1)) }
  else { p with sent := p.sent + 1, sunk := p.sunk + 1, arrived := p.sunk + 1 == p.size }

/-- A multicast packet gives its head flit to every branch at once, when each may take it (R358): at first the copies are made and the
dead branches pruned; once its last flit is given, only the copies remain. -/
def State.forwardMulti (s : State) (i : Nat) (p : Packet) : State :=
  let n := 1 + (s.net.foldl (fun m q => max m (max q.fed q.split)) 0)
  let ls :=
    if p.split = 0 then (s.branches p).map fun b => buffer p.pos b.1
    else (s.net.filter fun q => q.fed == p.split && q.mcast).filterMap fun q => q.way.getLast?.map (·.1)
  if !p.headHere || !ls.all (s.mayEnter i p) then s.setPacket i (s.advance i p false)
  else
    let p1 := s.advance i { p with sunk := p.sunk + 1, split := if p.split = 0 then n else p.split } true
    let me := if p1.sunk = p1.size then [] else [p1]
    if p.split = 0 then
      let kids := s.mcastCopies p n
      let s1 := kids.foldl (fun (s : State) k => s.took { k with way := [] } k) (s.took p p1)
      State.pruneAll { s1 with net := s.net.take i ++ me ++ kids ++ s.net.drop (i + 1) } p
    else { s.took p p1 with net := (s.net.take i ++ me ++ s.net.drop (i + 1)).map fun q => q.feed p.split }

/-- PACKET_FORWARD (R346 to R359): the flits of packet i move on by one buffer each, where they hold credits and the output ports
serve them; the packet is delivered, replicates, or is dropped. -/
def execPacketForward (i : Nat) (s : State) : Host.Outcome State Fault Refusal :=
  .next <|
    match s.net[i]? with
    | none => s
    | some p =>
      if p.arrived then s
      else if !p.mcast && s.badDest p.pos p.dest.toNat then
        let r := routerAt p.pos
        let s1 := ((s.dropPacket i).setBit (Reg.routerStat r) 31).setField (Reg.routerStat r) 0 16 p.dest.toNat
        s1.note (.badDest r p.dest.toNat)
      else if s.overtakes i p then s
      else if p.mcast then s.forwardMulti i (s.entered p)
      else s.forwardOne i (s.entered p)

/-! ## Delivery (R356, R59, R60, R77) -/

/-- A payload byte range placed in a message (R356). -/
def putBytes (m : PMap Byte) (a : Nat) : List Byte → PMap Byte
  | [] => m
  | b :: bs => putBytes (PMap.put m a b) (a + 1) bs

/-- A data packet received at an endpoint: its message completes on its byte count. -/
def State.receiveData (s : State) (dest src id len off n : Nat) (bytes : List Byte) : State :=
  let mine := fun (m : Inbox) => m.dest == dest && m.src == src && m.id == id && !m.done
  let x := (s.inbox.find? mine).getD { dest := dest, src := src, id := id, len := len, got := 0, bytes := [] }
  let y := { x with got := x.got + n, bytes := putBytes x.bytes off bytes, done := x.got + n == x.len }
  { s with inbox := (s.inbox.filter fun m => !mine m) ++ [y] }

/-- One acknowledgement fewer is awaited by the first record of a queue that awaits any (R77). -/
def ackFirst : List Cmd → List Cmd
  | [] => []
  | c :: q => if 0 < c.acks then { c with acks := c.acks - 1 } :: q else c :: ackFirst q

/-- A P8 tile's acknowledgement reaches its producer. -/
def State.ackProducer (s : State) (e : Nat) : State :=
  match epToHand e with
  | none => s
  | some h =>
    let u := epUnit e
    if u ≤ 16 then s.setQueue 5 (h * 17 + u) (ackFirst (s.queue 5 (h * 17 + u)))
    else if u = 24 then s.setQueue 6 h (ackFirst (s.queue 6 h))
    else s.setQueue 7 h (ackFirst (s.queue 7 h))

/-- PACKET_RECEIVE (R356): a delivered packet that has no row of its own reaches its unit. -/
def execPacketReceive (i : Nat) (s : State) : Host.Outcome State Fault Refusal :=
  .next <|
    match s.net[i]? with
    | none => s
    | some p =>
      if !p.arrived then s
      else
        let s1 := s.dropPacket i
        match p.msg with
        | .data id len off bytes => s1.receiveData p.dest.toNat p.src.toNat id len off p.paylen bytes
        | .tileAck => s1.ackProducer p.dest.toNat
        | .p8ack _ =>
          match epToHand p.dest.toNat with
          | none => s1
          | some h => s1.setHand h { s1.hand h with waitAck := (s1.hand h).waitAck.erase p.src.toNat }
        | .token kind rank col tag =>
          match epToHand p.dest.toNat with
          | none => s1
          | some h => s1.setHand h { s1.hand h with tokens := (s1.hand h).tokens ++ [(kind * 16 + rank, col, tag)] }
        | .other => s1
        | _ => s

/-- Destination cores for which a hand holds credits or grants (R60). -/
def Hand.p8Dests (d : Hand) : List Nat := ((d.p8grants ++ d.p8held.map (·.1)).map (· % 16384)).dedup

/-- P8_CREDIT (R59, R60): a grant reaches its producer, which acknowledges it; a returned credit reaches the producer that
spent it, which keeps it while it holds a grant and else passes it back to the core. The core keeps what other units pass back, and what comes back to it when its own STORE is no
granted producer of its P8. -/
def execP8Credit (i : Nat) (s : State) : Host.Outcome State Fault Refusal :=
  .next <|
    match s.net[i]? with
    | none => s
    | some p =>
      match p.msg, epToHand p.dest.toNat with
      | .p8credit core n grant, some h =>
        if !p.arrived then s
        else
          let s1 := s.dropPacket i
          let e := p.dest.toNat
          let key := p8Key (epUnit e) core
          let d := s1.hand h
          if e = epCore core ∧ !grant ∧ (p.src.toNat ≠ e ∨ !d.p8grants.contains key) then s1.setCore core { s1.core core with p8own := (s1.core core).p8own + n }
          else if grant then
            if !d.p8Dests.contains core && decide (32 ≤ d.p8Dests.length) then
              ((s1.setBit (Reg.seqStat h) 28).note (.grantRefused h p.src.toNat)).reeveStop
            else
              (s1.setHand h { d with p8held := PMap.put d.p8held key (PMap.get 0 d.p8held key + n)
                                     p8grants := if d.p8grants.contains key then d.p8grants else d.p8grants ++ [key] }).send
                e p.src.toNat 3 h (.p8ack core)
          else if d.p8grants.contains key then
            s1.setHand h { d with p8held := PMap.put d.p8held key (PMap.get 0 d.p8held key + n) }
          else s1.send e (epCore core) 3 h (.p8credit core n false)
      | _, _ => s

/-- P8_RECALL (R60): a producer gives back every credit it holds for the core and holds no grant from then on. -/
def execP8Recall (i : Nat) (s : State) : Host.Outcome State Fault Refusal :=
  .next <|
    match s.net[i]? with
    | none => s
    | some p =>
      match p.msg, epToHand p.dest.toNat with
      | .p8recall core, some h =>
        if !p.arrived then s
        else
          let s1 := s.dropPacket i
          let key := p8Key (epUnit p.dest.toNat) core
          let d := s1.hand h
          let n := PMap.get 0 d.p8held key
          let s2 := s1.setHand h { d with p8held := PMap.del d.p8held key, p8grants := d.p8grants.filter (· != key) }
          if n = 0 then s2 else s2.send p.dest.toNat (epCore core) 3 h (.p8credit core n false)
      | _, _ => s

/-- P8_TILE_RECEIVE (R59, R77): the tile takes a slot of an open P8 and is acknowledged, or it is discarded. -/
def execP8TileReceive (i : Nat) (s : State) : Host.Outcome State Fault Refusal :=
  .next <|
    match s.net[i]? with
    | none => s
    | some p =>
      match p.msg, epToCore p.dest.toNat with
      | .p8tile t, some k =>
        if !p.arrived then s
        else
          let s1 := s.dropPacket i
          let h := k / 17
          let l := s1.logical h (k % 17)
          let q := (s1.core k).port 8
          if l < 16 ∧ s1.portOpen h l 8 ∧ q.count < 8 then
            let c := (s1.core k).setSlot (portSlotOf 8 q q.count) t
            let c := c.setPort 8 { q with count := q.count + 1, srcs := q.srcs ++ [p.src.toNat] }
            let s2 := s1.setCore k c
            let s3 := match epToHand p.src.toNat with | none => s2 | some f => s2.setHand h ((s2.hand h).notePeer f)
            s3.send p.dest.toNat p.src.toNat 1 h .tileAck
          else
            let s2 := (s1.setBit (Reg.routerStat h) 29).setField (Reg.routerStat h) 0 16 p.src.toNat
            s2.note (.p8Drop h p.src.toNat)
      | _, _ => s

/-- SIGNAL_RECEIVE (R80, R83, R263, R433): an increment that has arrived, or one that the Manor sends, is applied to a
hand's or a Mill's counter. -/
def execSignalReceive (manor : Bool) (dest : BitVec 16) (ctr : BitVec 6) (amt : BitVec 8) (s : State) :
    Host.Outcome State Fault Refusal :=
  .next <|
    let mine := fun (p : Packet) => p.arrived && p.dest == dest && p.msg == .signal ctr.toNat amt.toNat
    let apply := fun (s : State) =>
      match epToHand dest.toNat, epToMill dest.toNat with
      | some h, _ =>
        if epUnit dest.toNat = 25 then
          (s.addEvc h ctr.toNat amt.toNat).setHand h (((s.addEvc h ctr.toNat amt.toNat).hand h).countInc ctr.toNat amt.toNat)
        else s
      | none, some m =>
        if ctr.toNat < 32 then s.setReg (Reg.millEvc m ctr.toNat) (s.millEvc m ctr.toNat + BitVec.ofNat 32 amt.toNat) else s
      | none, none => s
    if manor then apply s
    else
      match s.net.find? mine with
      | none => s
      | some p => apply { s with net := s.net.erase p }

/-! ## Links (R361, R392, R395) -/

/-- Endpoint and reeve of a link end (R345, R420). -/
def linkEp (b : Nat) (manor : Bool) : Nat := if manor then epStation (b / 2) 20 0 else epBridge b
def linkReeve (b : Nat) (manor : Bool) : Nat := b / 2 * 4 + (if manor then 0 else 1 + 2 * (b % 2))

/-- LINK_REPLAY (R361): a flit fails its link CRC and is sent again from the replay buffer. -/
def execLinkReplay (b : BridgeIx) (manor sent : Bool) (s : State) : Host.Outcome State Fault Refusal :=
  .next <|
    let k := linkKey b.val manor sent
    if (s.link k).down ∨ 8 ≤ (s.link k).tries then s else s.setLink k { s.link k with tries := (s.link k).tries + 1 }

/-- LINK_RETRY_EXHAUSTED (R361, R392): 8 replays of one flit have failed. Errors on one lane of a group with a spare
take the spare, which SPARED of the bridge end that receives counts (DEDUCED, assumption 82); in any other case the link
carries nothing further. -/
def execLinkRetryExhausted (b : BridgeIx) (manor sent oneLane : Bool) (lgroup lane : Nat) (s : State) :
    Host.Outcome State Fault Refusal :=
  .next <|
    let k := linkKey b.val manor sent
    let l := s.link k
    let used := PMap.get 0 l.spared lgroup
    if l.tries < 8 ∨ l.down ∨ 34 ≤ lane ∨ (if manor then 6 else 12) ≤ lgroup then s
    else
      let detail := fun (left : Nat) => lgroup <<< 44 + lane <<< 38 + b2n sent <<< 37 + left <<< 35
      if oneLane && decide (used < 2) then
        let s1 := s.setLink k { l with tries := 0, spared := PMap.put l.spared lgroup (used + 1) }
        let s2 := if manor then s1 else s1.countSat (Reg.bridgeEnd (if sent then peerEnd b.val else b.val)) 0 5 1
        s2.post (linkReeve b.val manor) 1 0x05 (linkEp b.val manor) (detail (1 - used))
      else (s.setLinkDown b.val manor true false).post (linkReeve b.val manor) 2 0x06 (linkEp b.val manor) (detail (2 - used))

/-! ## Drained (R360, R393) -/

/-- The endpoint lies in the suit. -/
def inSuit (i e : Nat) : Bool := !epManor e && epSuit e == i
/-- The suit holds no flit of the packet, and the packet's message has neither source nor destination there. -/
def Packet.clear (p : Packet) (i : Nat) : Bool :=
  suitAt p.pos != i && (p.way.all fun e => suitAt (bufAt e.1) != i) && !inSuit i p.src.toNat &&
    (if p.mcast then !bit p.mask.toNat i else !inSuit i p.dest.toNat)

/-- The suit holds no flit and no message in progress. -/
def State.drained (s : State) (i : Nat) : Bool :=
  (s.net.all fun p => p.clear i) && s.inbox.all fun m => m.done || (!inSuit i m.src && !inSuit i m.dest)

end Sys2Proof.Machine
end

