-- ==== Sys2Proof/Machine/Tally.lean ====
section
/-! DEFINITION. The cube and the tally: pair classes and passes (R117 to R125, R128, R129), the tally's algorithm
(R143 to R146), block steps (R130, R140, R144), and the load of the cube (R164 to R168). -/

namespace Sys2Proof.Machine

/-! ## Pair classes (R117, R118, R128, R129) -/

/-- 0: 9-bit, 1: 13-bit, 2: 27-bit significand, 3: FP64 (R116). -/
def sigClass (f : Nat) : Nat :=
  match f with
  | 0 => 3
  | 1 => 2
  | 7 => 2
  | 2 => 1
  | 3 => 1
  | _ => 0

/-- The class of a pair: 0 = 9, 1 = 13, 2 = 27, 3 = M, 4 = D (R117, R556). -/
def pairClass (a b : Nat) : Nat :=
  let x := sigClass a
  let y := sigClass b
  if x = 3 ∧ y = 3 then 4 else max x y

/-- K of a block step (R128). -/
def classK (cls : Nat) : Nat := if cls = 0 then 16 else if cls = 1 then 8 else 2

/-- Cycles of a block step (R128, R129). -/
def classCycles (cls prec : Nat) : Nat :=
  if cls = 3 then (if prec = 1 then 1 else 2)
  else if cls = 4 then (if prec = 1 then 1 else if prec = 2 then 3 else 4)
  else 1

/-- Passes as R118 counts them. -/
def classPasses (cls prec : Nat) : Nat :=
  if cls = 3 then (if prec = 1 then 1 else 2)
  else if cls = 4 then (if prec = 1 then 1 else if prec = 2 then 2 else 3)
  else 1

/-- The 53-bit significand and exponent of a finite non-zero FP64 value, normalised (R114, R121). -/
def normSig (m : Nat) (e : Int) : Nat × Int :=
  let sh := 52 - Nat.log2 m
  (m <<< sh, e - sh)

/-- The hi and lo parts of an FP64 value (R121). -/
def splitFp64 (v : Val) : Val × Val :=
  match v with
  | .fin n m e =>
    let q := normSig m e
    (.fin n (q.1 / 2 ^ 26) (q.2 + 26), .fin n (q.1 % 2 ^ 26) q.2)
  | v => (v, v)

/-- The terms that a pair of elements delivers, one per cycle, and its flags (R122, R123, R129): `da`, `db` say which
operands are FP64. A NaN, an infinity or a zero operand bypasses the passes. -/
def pairTerms (da db : Bool) (cyc : Nat) (a b : Val) : List Val × Fl :=
  let p := a.mul b
  if a.isFinite && b.isFinite && !a.isZero && !b.isZero then
    let l :=
      if da && db then
        let x := splitFp64 a
        let y := splitFp64 b
        [(x.1.mul y.1).1, (x.1.mul y.2).1, (x.2.mul y.1).1, (x.2.mul y.2).1]
      else if da then [((splitFp64 a).1.mul b).1, ((splitFp64 a).2.mul b).1]
      else if db then [(a.mul (splitFp64 b).1).1, (a.mul (splitFp64 b).2).1]
      else [p.1]
    (l.take cyc, 0)
  else
    let later := if p.1.isFinite then p.1 else Val.zero
    ((p.1 :: List.replicate 3 later).take cyc, p.2)

/-! ## The tally (R143 to R146) -/

/-- The word format of a group (R143). -/
def wordFmt (wide : Bool) : Fmt := if wide then Fmt.fp64 else Fmt.fp32

/-- The state tag after the terms of an update (R145). -/
def tagStep (z : ZTag) (q : Val) : ZTag :=
  match q with
  | .fin true 0 _ => if z = .other then .other else .negzero
  | _ => .other

/-- The infinite terms of an update, in order: sum, compensation, flag, and whether the element is settled. -/
def infStep (f : Fmt) : List Val → Val → Bool → Val × Bool × Fl × Bool
  | [], s, cz => (s, cz, 0, s.isInf)
  | q :: qs, s, cz =>
    if q.isInf then
      if s.isInf && s.sign != q.sign then (.nan false, true, Fl.inv, true) else infStep f qs q true
    else infStep f qs s cz

/-- The exact sum of finite terms. -/
def sumVals (l : List Val) : Val := l.foldl (fun (a b : Val) => (a.add b).1) (match l with | [] => Val.zero | q :: _ => if q.sign && q.isZero then Val.negZero else Val.zero)

/-- One tally update (R145): the element after the terms q, and the flags it sets. -/
def Cell.update (f : Fmt) (x : Cell) (q : List Val) : Cell × Fl :=
  let x1 := { x with n := min (x.n + q.length) (2 ^ 36 - 1), z := q.foldl tagStep x.z }
  let enc := fun (v : Val) => BitVec.ofNat 64 (f.round v).1
  let sv := f.decode x.s.toNat
  if sv.isNan then (x1, 0)
  else if q.any Val.isNan then ({ x1 with s := BitVec.ofNat 64 f.qnan, c := 0 }, 0)
  else
    let r := infStep f q sv false
    if r.2.2.2 then ({ x1 with s := enc r.1, c := if r.2.1 then 0 else x.c }, r.2.2.1)
    else
      let t := sumVals q
      let th := f.round t
      let thv := f.decode th.1
      if thv.isInf then ({ x1 with s := BitVec.ofNat 64 th.1, c := 0 }, Fl.ovf)
      else
        let tl := f.round (t.sub thv).1
        let sum := (sv.add thv).1
        let sn := f.round sum
        let snv := f.decode sn.1
        let unf := (th.2 ||| tl.2) &&& Fl.unf
        if snv.isInf then ({ x1 with s := BitVec.ofNat 64 sn.1, c := 0 }, Fl.ovf ||| unf)
        else
          let e := (sum.sub snv).1
          let c := f.round (((f.decode x.c.toNat).add e).1.add (f.decode tl.1)).1
          ({ x1 with s := BitVec.ofNat 64 sn.1, c := BitVec.ofNat 64 c.1 }, unf)

/-- The value that DRAIN receives (R145). -/
def Cell.value (f : Fmt) (x : Cell) : Val :=
  let s := f.decode x.s.toNat
  if s.isNan || s.isInf then s
  else
    let t := (s.add (f.decode x.c.toNat)).1
    if t.isZero then (if x.z = .negzero then Val.negZero else Val.zero) else t

/-- Tally tile, row and column of group element (i, j) (R136). -/
def Group.place (g : Group) (i j : Nat) : Nat × Nat × Nat :=
  let ht := tallyRows g.wide
  ((g.first + j / 32 * (g.br + 1) + i / ht) % 8, i % ht, j % 32)

/-- Keys of an element and of a row's term counter. -/
def cellKey (p : Nat × Nat × Nat) : Nat := p.1 * 1024 + p.2.1 * 32 + p.2.2
def rowKey (p : Nat × Nat × Nat) : Nat := p.1 * 32 + p.2.1

/-- One update of group element (i, j) with the terms of one cycle; no term, no update (R140, R144). -/
def Core.deliver (c : Core) (g : Group) (i j : Nat) (q : List Val) : Core × Fl :=
  if q.isEmpty then (c, 0)
  else
    let p := g.place i j
    let r := (PMap.get {} c.tally (cellKey p)).update (wordFmt g.wide) q
    ({ c with tally := PMap.put c.tally (cellKey p) r.1
              rows := PMap.put c.rows (rowKey p) (max (PMap.get 0 c.rows (rowKey p)) r.1.n) }, r.2)

/-- The updates of the cycles of one block step for one element. -/
def Core.deliverAll (c : Core) (g : Group) (i j : Nat) : List (List Val) → Core × Fl
  | [] => (c, 0)
  | q :: qs =>
    let r := c.deliver g i j q
    let t := r.1.deliverAll g i j qs
    (t.1, r.2 ||| t.2)

/-- Tally tiles of a group. -/
def Group.tiles (g : Group) : List Nat := (upTo ((g.br + 1) * (g.bc + 1))).map fun n => (g.first + n) % 8

/-- Tally tiles that are not free: open, handed over and not drained, or with their credit on its way (R137, R162). -/
def Core.busyTiles (c : Core) : List Nat :=
  (match c.grp with | none => [] | some g => g.tiles) ++ c.closing.flatMap Group.tiles ++
    ((c.handed.flatMap Group.tiles).filter fun t => !c.drained.contains t) ++ c.tallyRet

/-- The group of an OPEN = 1 command is taken: all its credits at once, from the next tile of the ring; its elements and
row counters are cleared (R137, R144, R145). -/
def Core.openGroup (c : Core) (d : GroupDecl) : Option Core :=
  let g : Group := { wide := d.wide, br := d.br, bc := d.bc, first := c.ringNext }
  if g.tiles.any fun t => c.busyTiles.contains t then none
  else
    some { c with grp := some g
                  ringNext := (c.ringNext + g.tiles.length) % 8
                  tally := c.tally.filter fun e => !g.tiles.contains (e.1 / 1024)
                  rows := c.rows.filter fun e => !g.tiles.contains (e.1 / 32) }

/-! ## Block steps (R130, R140 to R142) -/

/-- Shape of a CUBE command: format codes of both operands, descriptors, and the output rows, output columns and depth that
the valid elements of the tiles arrived so far span (R130, R139, R242). -/
structure CubeShape where
  fa : Nat
  fb : Nat
  da : Desc
  db : Desc
  mma : Bool
  eop : Nat
  prec : Nat
  m : Nat
  n : Nat
  k : Nat
  deriving DecidableEq, Repr

def CubeShape.cls (x : CubeShape) : Nat := pairClass x.fa x.fb
def CubeShape.kc (x : CubeShape) : Nat := classK x.cls
def CubeShape.rows (x : CubeShape) : Nat := (opExt x.da x.fa).1
def CubeShape.cols (x : CubeShape) : Nat := (opExt x.db x.fb).2
def CubeShape.depth (x : CubeShape) : Nat := if x.mma then (opExt x.da x.fa).2 else 1
def CubeShape.mBlocks (x : CubeShape) : Nat := (x.rows + 5) / 6
def CubeShape.nBlocks (x : CubeShape) : Nat := (x.cols + 1) / 2
def CubeShape.kBlocks (x : CubeShape) : Nat := if x.mma then (x.depth + x.kc - 1) / x.kc else 1
/-- Block steps, or blocks of an ELEM, over whole tiles. -/
def CubeShape.total (x : CubeShape) : Nat := x.mBlocks * x.nBlocks * x.kBlocks

/-- Row block, column block and depth block of issue n. -/
def CubeShape.block (x : CubeShape) (n : Nat) : Nat × Nat × Nat :=
  (n / x.kBlocks / x.nBlocks, n / x.kBlocks % x.nBlocks, n % x.kBlocks)

/-- The block lies beyond the valid rows, or columns, or depth: R130 counts none there. -/
def CubeShape.offRows (x : CubeShape) (n : Nat) : Bool := decide (x.m ≤ (x.block n).1 * 6)
def CubeShape.offCols (x : CubeShape) (n : Nat) : Bool := decide (x.n ≤ (x.block n).2.1 * 2)
def CubeShape.offDepth (x : CubeShape) (n : Nat) : Bool := x.mma && decide (x.k ≤ (x.block n).2.2 * x.kc)
def CubeShape.off (x : CubeShape) (n : Nat) : Bool := x.offRows n || x.offCols n || x.offDepth n

/-- The rows and columns that a block covers. -/
def CubeShape.rowsOf (x : CubeShape) (b : Nat × Nat × Nat) : List Nat :=
  ((upTo 6).map fun i => b.1 * 6 + i).filter fun i => decide (i < x.rows)
def CubeShape.colsOf (x : CubeShape) (b : Nat × Nat × Nat) : List Nat :=
  ((upTo 2).map fun j => b.2.1 * 2 + j).filter fun j => decide (j < x.cols)
/-- The depth indices of a block step. -/
def CubeShape.depthOf (x : CubeShape) (b : Nat × Nat × Nat) : List Nat :=
  ((upTo x.kc).map fun k => b.2.2 * x.kc + k).filter fun k => decide (k < x.depth)

/-- Tile of an operand that holds its element (r, c) after orientation, as an index of the extent. -/
def tileAt (d : Desc) (f r c : Nat) : Nat :=
  let t := (r / (tileDims d.orient f).1, c / (tileDims d.orient f).2)
  if d.orient then t.2 * d.ncols + t.1 else t.1 * d.ncols + t.2

/-- The tiles of operand A, and of operand B, that issue n draws on. -/
def CubeShape.tilesA (x : CubeShape) (n : Nat) : List Nat :=
  let b := x.block n
  (x.rowsOf b).map fun i => if x.mma then tileAt x.da x.fa i (b.2.2 * x.kc) else tileAt x.da x.fa i (b.2.1 * 2)
def CubeShape.tilesB (x : CubeShape) (n : Nat) : List Nat :=
  let b := x.block n
  if x.mma then (x.colsOf b).map fun j => tileAt x.db x.fb (b.2.2 * x.kc) j
  else (x.rowsOf b).map fun i => tileAt x.db x.fb i (b.2.1 * 2)

/-- Element (r, c) after orientation of an operand: whether it lies in a PAD tile, and its value (R131, R140). -/
def operandElem (tile : Nat → Tile) (d : Desc) (f r c : Nat) : Bool × Val :=
  let t := tile (tileAt d f r c)
  let q := (r % (tileDims d.orient f).1, c % (tileDims d.orient f).2)
  let p := if d.orient then (q.2, q.1) else q
  (t.head.pad, decodeFmt f (t.elem f p.1 p.2))

/-- Rows of equal length turned into columns: the terms of each cycle from the terms of each pair. -/
def cyclesOf (n : Nat) (l : List (List Val)) : List (List Val) := (upTo n).map fun c => l.filterMap fun t => t[c]?

/-- What issue n delivers to element (i, j): the terms of each cycle, the flags, the products of valid elements. -/
def CubeShape.terms (x : CubeShape) (ta tb : Nat → Tile) (b : Nat × Nat × Nat) (i j : Nat) : List (List Val) × Fl × Nat :=
  let da := x.fa == 0
  let db := x.fb == 0
  let cyc := classCycles x.cls x.prec
  if x.mma then
    let ps := (x.depthOf b).filterMap fun k =>
      let a := operandElem ta x.da x.fa i k
      let c := operandElem tb x.db x.fb k j
      if a.1 || c.1 then none else some (k, pairTerms da db cyc a.2 c.2)
    (cyclesOf cyc (ps.map (·.2.1)), ps.foldl (fun f p => f ||| p.2.2) 0,
      if i < x.m ∧ j < x.n then (ps.filter fun p => decide (p.1 < x.k)).length else 0)
  else
    let a := operandElem ta x.da x.fa i j
    let c := operandElem tb x.db x.fb i j
    if a.1 || c.1 then ([], 0, 0)
    else if x.eop = 0 then
      let p := pairTerms da db cyc a.2 c.2
      (p.1.map fun t => [t], p.2, if i < x.m ∧ j < x.n then 1 else 0)
    else ([[a.2, if x.eop = 1 then c.2 else c.2.neg]], a.2.sigFlag ||| c.2.sigFlag, if i < x.m ∧ j < x.n then 1 else 0)

/-- Issue n of a CUBE command: the tally, the flags, the products delivered. -/
def CubeShape.issue (x : CubeShape) (ta tb : Nat → Tile) (n : Nat) (g : Group) (c : Core) : Core × Fl × Nat :=
  let b := x.block n
  let cells := (x.rowsOf b).flatMap fun i => (x.colsOf b).map fun j => (i, j)
  cells.foldl (fun (acc : Core × Fl × Nat) (p : Nat × Nat) =>
    let t := x.terms ta tb b p.1 p.2
    let r := acc.1.deliverAll g p.1 p.2 t.1
    (r.1, acc.2.1 ||| t.2.1 ||| r.2, acc.2.2 + t.2.2)) (c, 0, 0)

/-- Issue n is still to be made, and the tiles it draws on are not released. -/
def CubeShape.due (x : CubeShape) (c : Cmd) (n : Nat) : Bool :=
  !c.steps.contains n && !x.off n && ((x.tilesA n).all fun t => decide (c.a.used ≤ t)) && (x.tilesB n).all fun t => decide (c.b.used ≤ t)

/-- The issues that can be made now: their tiles have arrived. -/
def CubeShape.ready (x : CubeShape) (c : Cmd) : List Nat :=
  (upTo x.total).filter fun n =>
    x.due c n && ((x.tilesA n).all fun t => decide (t < c.a.got)) && (x.tilesB n).all fun t => decide (t < c.b.got)

/-- Every tile has arrived and every issue is made. -/
def CubeShape.over (x : CubeShape) (c : Cmd) : Bool :=
  decide (x.da.count ≤ c.a.got) && decide (x.db.count ≤ c.b.got) && (upTo x.total).all fun n => !x.due c n

/-- Tile t of operand o is not needed by any issue that is still to come: those that touch it are made, or lie, once all the
tiles they draw on have arrived, beyond the valid elements of each. -/
def CubeShape.spent (x : CubeShape) (c : Cmd) (o t : Nat) : Bool :=
  (upTo x.total).all fun n =>
    c.steps.contains n || !(if o = 0 then x.tilesA n else x.tilesB n).contains t ||
      (x.off n && ((x.tilesA n).all fun t => decide (t < c.a.got)) && (x.tilesB n).all fun t => decide (t < c.b.got))

/-- Leading tiles of operand o that have had their last use are released. -/
def State.releaseSpent (s : State) (u : Nat) (x : CubeShape) (c : Cmd) (o : Nat) : Nat → State × Cmd
  | 0 => (s, c)
  | n + 1 =>
    if (c.flow o).used < (c.flow o).got ∧ x.spent c o (c.flow o).used then
      let r := s.useUp u c o
      r.1.releaseSpent u x r.2 o n
    else (s, c)

/-- The same for both operands. -/
def State.releaseBoth (s : State) (u : Nat) (x : CubeShape) (c : Cmd) : State × Cmd :=
  let r := s.releaseSpent u x c 0 c.a.got
  r.1.releaseSpent u x r.2 1 r.2.b.got

/-! ## CUBE commands -/

/-- The shape of a command whose first tiles have both arrived. The valid depth is that of the operand whose last tiles are
valid the farther (DEDUCED, assumption 76). -/
def Cmd.shape (c : Cmd) : Option CubeShape :=
  match c.a.fmt, c.b.fmt with
  | some fa, some fb =>
    let da := Record.desc c.r 0
    let db := Record.desc c.r 1
    let ta := tileDims da.orient fa
    let tb := tileDims db.orient fb
    some { fa := fa, fb := fb, da := da, db := db, mma := Record.opcode c.r == 1, eop := Record.argBits c.r 20 2
           prec := Record.prec c.r, m := (opExt da fa).1 - ta.1 + c.a.ext, n := (opExt db fb).2 - tb.2 + c.b.ext
           k := max ((opExt da fa).2 - ta.2 + c.a.dep) ((opExt db fb).1 - tb.1 + c.b.dep) }
  | _, _ => none

/-- The command at work in the cube, with its group and shape, and the issues it can make now. -/
def State.cubeReady (s : State) (k : Nat) : List Nat :=
  match s.active 2 k with
  | none => []
  | some (_, c) =>
    match c.shape, (s.core k).grp with
    | some x, some _ => if s.stRuns 2 k && c.begun && (c.out == 1 || !bit (Record.arg c.r) 30) then x.ready c else []
    | _, _ => []

/-! ## Load of the cube (R164 to R168) -/

/-- Current duty in eighths. -/
def State.duty (s : State) (k : Nat) : Nat := s.field (Reg.cubeStat k) 24 4
/-- The highest duty a cube may take: its suit's cap (R583). -/
def State.dutyTop (s : State) (k : Nat) : Nat := min 8 (s.suit (k / 2720)).cap

/-- GAP_FILL as it behaves (R169). -/
def State.gapFill (s : State) (k : Nat) : Nat := min 4096 (s.field (Reg.cubeCtl k) 0 13)

/-- The cube issues dummy block steps: it has a duty and nothing to issue (R164, R165, R170). -/
def State.filling (s : State) (k : Nat) : Bool := decide (0 < s.duty k) && (s.cubeReady k).isEmpty

/-- The dummy cycles of a stretch are counted in GAPFILL (R164). -/
def State.addGapfill (s : State) (k n : Nat) : State := s.add32 (Reg.gapfill k) n

/-- A gap opens where nothing more can issue: dummy filling starts at the current duty (R164, R166). -/
def State.openGap (s : State) (k : Nat) : State :=
  if s.filling k && (s.core k).ramp != 2 then s.setCore k { s.core k with ramp := 1 } else s

/-- Work arrives at the cube: the dummy cycles of the stretch it ends are counted, a free number of those the stretch can hold
(assumption 5), and below its full duty the cube ramps up (R164, R166). -/
def State.cubeWork (s : State) (k : Nat) : State :=
  let d := s.duty k
  let most := match (s.core k).ramp with | 1 => s.gapFill k * d / 8 | 2 => 4 * d | _ => 0
  let s1 := if most = 0 then s else (s.addGapfill k (s.fresh % (most + 1))).spend
  s1.setCore k { s1.core k with ramp := if d < s.dutyTop k then 3 else 0 }

/-! ## The work of a CUBE command -/

/-- The group's valid extent, scale indices and weight version after the command's tiles have arrived (R108, R139,
R160). The scales and WVER are those of the group's first command (DEDUCED for the scales, assumption 20). -/
def Group.extend (g : Group) (c : Cmd) (x : CubeShape) : Group :=
  let g1 := { g with rows := max g.rows x.m, cols := max g.cols x.n }
  if bit (Record.arg c.r) 30 then { g1 with wver := c.b.wver, scaleA := c.a.scale.getD 0, scaleB := c.b.scale.getD 0 } else g1

/-- The group of a command that has issued its last block step stays open with KEEP = 1, else waits for the commit (R137). -/
def Core.endCommand (c : Core) (g : Group) (keep : Bool) : Core :=
  if keep then { c with grp := some g } else { c with grp := none, closing := c.closing ++ [g] }

/-- After an arrival or an issue: tiles that are spent are released, and a command that is over is complete. -/
def State.cubeSettle (s : State) (k i : Nat) (c : Cmd) (x : CubeShape) (g : Group) : State :=
  let r := s.releaseBoth k x c
  if x.over r.2 then
    (r.1.setCore k ((r.1.core k).endCommand (g.extend r.2 x) (bit (Record.arg c.r) 29))).finish 2 k i r.2
  else r.1.setCmd 2 k i r.2

/-- One issue of a CUBE command: a block step chosen freely among those whose tiles have arrived (R130). -/
def State.cubeIssue (s : State) (k i : Nat) (c : Cmd) (x : CubeShape) (g : Group) : State :=
  let ready := x.ready c
  match ready[s.fresh % ready.length]? with
  | none => s.cubeSettle k i c x g
  | some n =>
    let s := s.spend.cubeWork k
    if s.duty k = 0 then s
    else
      let r := x.issue (s.heldTile k c 0) (s.heldTile k c 1) n g (s.core k)
      let a := Reg.ops k x.cls
      let before := s.reg64 a
      let s1 := ((s.setCore k r.1).flags (Reg.cubeStat k) r.2.1).add64 a ((if x.mma then 2 else 1) * r.2.2)
      let c1 := { c with steps := n :: c.steps
                         cnt0 := if c.steps.isEmpty then before else c.cnt0
                         cnt1 := s1.reg64 a
                         aux := x.cls + (if x.mma || x.eop == 0 then classPasses x.cls x.prec else 1) <<< 3 }
      (s1.cubeSettle k i c1 x g).openGap k

/-- One piece of a CUBE command's work: it takes its group, a tile arrives, or a block issues. A group that must wait for tally
credits starves the cube (R137, R556). -/
def State.cubeStep (s : State) (k i : Nat) (c : Cmd) : State :=
  if bit (Record.arg c.r) 30 && c.out == 0 then
    match (s.core k).openGroup (groupDecl c.r) with
    | none => s.starved 2 k i c
    | some k1 => (s.setCore k k1).setCmd 2 k i { c with out := 1 }
  else
    match s.arriveTile 2 k i c 0 false with
    | .stop s1 => s1
    | .asked s1 => s1
    | .ok s1 c1 => s1.setCmd 2 k i c1
    | .wait =>
      match s.arriveTile 2 k i c 1 false with
      | .stop s1 => s1
      | .asked s1 => s1
      | .ok s1 c1 => s1.setCmd 2 k i c1
      | .wait =>
        match c.shape, (s.core k).grp with
        | some x, some g => s.cubeIssue k i c x g
        | _, _ => s

end Sys2Proof.Machine
end

