-- ==== Sys2Proof/Machine/Bell.lean ====
section
/-! DEFINITION. The Bell: ringing, the marker, unit stops, the cut, the resume (R444 to R448, R457, R458, R490). -/

namespace Sys2Proof.Machine

/-! ## Ringing (R444, R446, R457, R490) -/

/-- Scope, suit and hand of a BELL.CTL value (R457): scope 3 behaves as 0, a hand above 159 as 159. -/
def bellScope (v : Nat) : Nat × Nat × Nat :=
  (if bits v 28 2 = 3 then 0 else bits v 28 2, bits v 26 2, min 159 (bits v 18 8))

/-- The fields of BELL.CTL that a write stores. -/
def bellCtlMask : Nat := 0x3FFC0001

/-- A write stores SCOPE, SUIT, HAND and STOPN_EN; the register is covered by the configuration check (R533, R541). -/
def State.storeBellCtl (s : State) (v : W32) : State :=
  (s.setReg Reg.bellCtl (BitVec.ofNat 32 (v.toNat &&& bellCtlMask))).startGrace Reg.bellCtl

/-- BELL_RING (R446, R457): a write of BELL.CTL with RING = 1. -/
def State.bellRing (s : State) (v : W32) : State :=
  let s1 := s.storeBellCtl v
  if bit v.toNat 31 then let x := bellScope v.toNat; s1.ring x.1 x.2.1 x.2.2 0 else s1

def execBellRing (v : W32) (s : State) : Host.Outcome State Fault Refusal := .next (s.bellRing v)

/-- STOP_N (R490): the input has been low for 100 samples, or has gone high. A STOP_N during a cut adds nothing to it. -/
def execStopN (low : Bool) (s : State) : Host.Outcome State Fault Refusal :=
  .next <|
    let s1 := { s with ctl := { s.ctl with stopNLow := low } }
    if low && !s.ctl.stopNLow && s.flag Reg.bellCtl 0 && s.bell.cuts.all fun c => c.complete then s1.ring 0 0 0 1 else s1

/-! ## Stopping (R445 to R447) -/

/-- A cut in progress whose scope holds the unit. -/
def State.cutting (s : State) (u : Nat) : Bool := s.bell.cuts.any fun c => !c.complete && s.inScope c u

/-- STOP_MARKER (R446): the marker of a cut in progress reaches a unit of its scope. -/
def execStopMarker (u : UnitIx) (s : State) : Host.Outcome State Fault Refusal :=
  .next <|
    if s.cutting u.val && !s.marked u.val && !s.bell.stopped.contains u.val then
      { s with bell := { s.bell with marked := s.bell.marked ++ [u.val], markT := PMap.put s.bell.markT u.val (s.now u.val) } }
    else s

/-- A hand is at its stop point (R446): no kernel is inside a step (R192), every read that its stations have issued has returned, and
no P8 tile is on its way to one of its cores. Every other station of the model is between two tiles whenever a command has been
taken. -/
def State.atStopPoint (s : State) (u : Nat) : Bool :=
  if 640 ≤ u then true
  else
    ((upTo 17).all fun c =>
      let k := s.core (u * 17 + c)
      ((match k.kern with | some x => !x.running | none => true) || k.halted.contains 4) &&
        [1, 2, 3, 4, 5].all fun st => s.stHalted st (u * 17 + c) || (s.queue st (u * 17 + c)).all fun q => q.a.req.isEmpty && q.b.req.isEmpty) &&
    !(s.net.any fun p => match p.msg, epToCore p.dest.toNat with | .p8tile _, some k => k / 17 == u | _, _ => false)

/-- A trace record of a hand's sequencer or of a Mill (R556): STOP, RESUME. -/
def State.traceUnit (s : State) (u event aux : Nat) : State :=
  if u < 640 then s.traceHand u { event := event, station := 9, ep := epHand u 25, aux := aux }
  else if u < 648 then s.traceMill (u - 640) { event := event, station := 8, ep := epMill (u - 640), aux := aux }
  else s

/-- A stop by the Bell opens a gap in each cube of a hand that has a duty (R164). -/
def State.openGaps (s : State) (h : Nat) : State := (upTo 17).foldl (fun (s : State) c => s.openGap (h * 17 + c)) s

/-- UNIT_STOP (R446): a marked unit stops at its stop point and writes STOP with the SOURCE of the Bell. -/
def execUnitStop (u : UnitIx) (s : State) : Host.Outcome State Fault Refusal :=
  .next <|
    if s.marked u.val && !s.bell.stopped.contains u.val && s.atStopPoint u.val then
      let s1 := s.traceUnit u.val 3 (s.field Reg.bellStat 25 4)
      let s2 := { s1 with bell := { s1.bell with stopped := s1.bell.stopped ++ [u.val], stopT := PMap.put s1.bell.stopT u.val (s1.now u.val) } }
      if u.val < 640 then s2.openGaps u.val else s2
    else s

/-- A place that holds a flit of the packet is one of those that `f` admits. -/
def Packet.touches (p : Packet) (f : Nat → Bool) : Bool := f p.pos || p.way.any fun e => f (bufAt e.1)

/-- Every packet that a cut's scope holds has been delivered (R445, R447). -/
def State.quiet (s : State) (c : Cut) : Bool :=
  s.net.all fun p =>
    p.arrived ||
      !(if c.scope = 0 ∨ 3 ≤ c.scope then true
        else if c.scope = 1 then p.touches fun q => decide (q < 640) && q / 160 == c.suit
        else epToHand p.dest.toNat == some (c.suit * 160 + c.hand) && p.touches fun q => q == c.suit * 160 + c.hand)

/-- All units of a cut's scope have stopped. -/
def State.allStopped (s : State) (c : Cut) : Bool :=
  (upTo 658).all fun u => !s.inScope c u || s.bell.stopped.contains u

/-! ## Resuming (R166, R448) -/

/-- A cube with work ramps up again (R166, R448). -/
def State.rampUp (s : State) (k : Nat) : State := if (s.core k).cu.isEmpty then s else s.cubeWork k

/-- A problem whose deadline passed since a time, at which the Bell stopped it outside a factorisation (phases 2 and 5): R231
holds at its next loop top (R233). -/
def Prob.held (p : Prob) (since now : Nat) : Prob :=
  { p with heldLate := p.heldLate || (p.deadline != 0 && decide (since < p.deadline) && decide (p.deadline ≤ now) && p.phase != 2 && p.phase != 5) }

/-- A hand goes on from the cut: the hang watch loses no time, a written fetch address takes effect, RESUME is traced
(R71, R233, R548, R556). -/
def State.resumeHand (s : State) (h pause : Nat) : State :=
  let d := s.hand h
  let s1 := s.traceUnit h 4 d.resumeAux
  let d := s1.hand h
  let s2 := s1.setHand h { d with lastCommit := d.lastCommit + pause, resumeAux := 0, probs := d.probs.map fun p => p.held (s.now h - pause) (s.now h)
                                  buf := if d.discard then [] else d.buf, discard := false }
  (upTo 17).foldl (fun (s : State) c => s.rampUp (h * 17 + c)) s2

/-- One unit restarts. -/
def State.resumeUnit (s : State) (u : Nat) : State :=
  let pause := if s.bell.stopped.contains u then s.now u - PMap.get (s.now u) s.bell.stopT u else 0
  let s1 := { s with bell := { s.bell with marked := s.bell.marked.filter (· != u), stopped := s.bell.stopped.filter (· != u) } }
  if u < 640 then s1.resumeHand u pause
  else if u < 648 then
    let m := u - 640
    let s2 := s1.traceUnit u 4 (s1.mill m).resumeAux
    s2.setMill m { s2.mill m with lastCommit := (s2.mill m).lastCommit + pause, resumeAux := 0 }
  else if u = 656 then { s1 with colls := s1.colls.map fun c => { c with paused := c.paused + pause } }
  else s1

/-- A resume of a scope: complete cuts inside it end, cuts in progress remember it, and every unit that no remaining cut
holds restarts; a recovery ends where the deal streams again (R294, R448). -/
def State.resumeScope (s : State) (scope suit hand : Nat) : State :=
  let r : Cut := { scope := scope, suit := suit, hand := hand, source := 0, t0 := 0 }
  let keep := (s.bell.cuts.filter fun c => !(r.covers c && c.complete)).map fun c => if r.covers c then { c with resume := true } else c
  let s1 := { s with bell := { s.bell with cuts := keep } }
  ((s1.bell.marked.filter fun u => !(keep.any fun c => s1.inScope c u)).foldl (fun (s : State) u => s.resumeUnit u) s1).syncMode.streams

/-- BELL_RESUME (R448, R457): a write of BELL.CTL with RESUME = 1, or a reeve's resume packet of the scope coded alike. -/
def execBellResume (reeve : Bool) (v : W32) (s : State) : Host.Outcome State Fault Refusal :=
  .next <|
    let x := bellScope v.toNat
    if reeve then s.resumeScope x.1 x.2.1 x.2.2
    else if bit v.toNat 30 then (s.storeBellCtl v).resumeScope x.1 x.2.1 x.2.2
    else s.storeBellCtl v

/-! ## The cut (R447, R458) -/

/-- A cut that is now complete. -/
def State.finishCut (s : State) (c : Cut) : State :=
  let d := s.time - c.t0
  let s1 := s.setField Reg.bellStat 0 20 (satAt (2 ^ 20 - 1) d)
  let s2 := if 20000 < d then s1.setBit Reg.bellStat 29 else s1
  let s3 := { s2 with bell := { s2.bell with cuts := s2.bell.cuts.map fun x => if x = c then { x with complete := true } else x } }
  let s4 := if c.resume then s3.resumeScope c.scope c.suit c.hand else s3
  if (c.scope = 0 ∨ 3 ≤ c.scope) ∧ s.job.run ∧ s.job.stopWanted = 1 then s4.endJob else s4

/-- A cut whose last unit has stopped, every packet of it delivered, is complete. A package cut that a job stop waits for ends the
job, one that was complete before the stop was asked for included. -/
def State.cutComplete (s : State) : State :=
  match s.bell.cuts.find? fun c => !c.complete && s.allStopped c && s.quiet c with
  | none =>
    let held := s.bell.cuts.any fun c => c.complete && (c.scope == 0 || decide (3 ≤ c.scope))
    if held && s.job.run && s.job.stopWanted == 1 then s.endJob else s
  | some c => s.finishCut c

/-- CUT_LATE (R447): a cut has taken longer than 20 us. -/
def execCutLate (s : State) : Host.Outcome State Fault Refusal :=
  .next (if s.bell.cuts.any fun c => !c.complete && decide (c.t0 + 20000 < s.time) then s.setBit Reg.bellStat 29 else s)

/-- UNIT_STOP_TIMEOUT (R447): a hand that has not stopped 10 ms after the marker is handled as stalled under R432. -/
def execUnitStopTimeout (u : UnitIx) (s : State) : Host.Outcome State Fault Refusal :=
  .next <|
    if u.val < 640 && s.marked u.val && !s.bell.stopped.contains u.val &&
        decide (PMap.get (s.now u.val) s.bell.markT u.val + 10000000 ≤ s.now u.val) && !s.flag (Reg.seqStat u.val) 27 then
      (s.setBit (Reg.seqStat u.val) 27).note (.stall u.val)
    else s

end Sys2Proof.Machine
end

