-- ==== Sys2Proof/Machine/Elementary.lean ====
section
/-! DEFINITION. The elementary functions that the rules name, to far more bits than FP64 holds, and the acceptance of a free
result within so many units in the last place of them (R157, R158, R269). -/

namespace Sys2Proof.Machine

/-! ## Arithmetic on 320 bits -/

/-- Bits kept of a working value. The error of every function below is under 2^-200 of its result. -/
def workBits : Nat := 320

namespace Val

/-- The leading bits of a value. -/
def cut : Val → Val
  | .fin n m e =>
    let k := Nat.log2 m + 1 - workBits
    .fin n (m >>> k) (e + k)
  | v => v

/-- The exponent of the leading bit; of zero and of no number, far below every other. -/
def top : Val → Int
  | .fin _ m e => if m = 0 then -2 ^ 80 else e + Nat.log2 m
  | _ => -2 ^ 80

/-- A working sum: an addend too small to be seen leaves the other. -/
def wadd (a b : Val) : Val :=
  if b.top + 2 * workBits < a.top then a
  else if a.top + 2 * workBits < b.top then b
  else (a.add b).1.cut
def wsub (a b : Val) : Val := wadd a b.neg
def wmul (a b : Val) : Val := (a.mul b).1.cut

/-- A working quotient of finite values with a divisor that is not zero. -/
def wdiv (a b : Val) : Val :=
  match a, b with
  | .fin x m e, .fin y k f =>
    let sh := workBits + Nat.log2 k + 1
    .cut (.fin (x != y) ((m <<< sh) / k) (e - f - sh))
  | _, _ => zero

/-- The value times a power of two. -/
def scale2 (v : Val) (k : Int) : Val := match v with | .fin n m e => .fin n m (e + k) | v => v

/-- The floor of a finite value as an integer multiple of 2^-b. -/
def fixed (v : Val) (b : Nat) : Int :=
  match v with
  | .fin n m e =>
    let t : Int := e + b
    let k : Int := if n then -(m : Int) else m
    if 0 ≤ t then k * 2 ^ t.toNat else k.ediv (2 ^ (-t).toNat)
  | _ => 0

/-- The value x * 2^-b. -/
def ofFixed (x : Int) (b : Nat) : Val := .fin (decide (x < 0)) x.natAbs (-(b : Int))

/-- A natural power. -/
def wpow (v : Val) (n : Nat) : Val :=
  (upTo (Nat.log2 n + 1)).foldr (fun i (a : Val) => let q := a.wmul a; if n.testBit i then q.wmul v else q) one

end Val

/-- A power series: the terms t_i with t_0 = first and t_(i+1) = t_i * x * num i / den i. -/
def series (n : Nat) (first x : Val) (num den : Nat → Nat) : Val :=
  ((upTo n).foldl (fun (a : Val × Val) i =>
    let t := ((a.2.wmul x).wmul (Val.ofNat (num i))).wdiv (Val.ofNat (den i))
    (a.1.wadd t, t)) (first, first)).1

/-! ## Exponential, logarithm, circular functions -/

/-- ln(1 + t) for t from 0 to 1: twice the inverse hyperbolic tangent of t / (2 + t). -/
def log1p (t : Val) : Val :=
  let z := t.wdiv ((Val.ofNat 2).wadd t)
  (series 120 z (z.wmul z) (fun i => 2 * i + 1) (fun i => 2 * i + 3)).scale2 1

/-- ln 2. -/
def ln2 : Val := log1p Val.one

/-- e^r - 1 for |r| at most 1/2. -/
def expm1Near (r : Val) : Val := series 70 r r (fun _ => 1) (fun i => i + 2)

/-- e^x; an exponent beyond 8,192 either way is taken as 8,192, where FP64 has long overflowed or reached zero. -/
def expV (x : Val) : Val :=
  let b := Val.ofNat 8192
  let y := if b.lt x then b else if x.lt b.neg then b.neg else x
  let k := ((y.wdiv ln2).wadd (.fin false 1 (-1))).fixed 0
  (Val.one.wadd (expm1Near (y.wsub ((Val.ofInt k).wmul ln2)))).scale2 k

/-- e^x - 1. -/
def expm1V (x : Val) : Val := if x.abs.lt (.fin false 1 (-2)) then expm1Near x else (expV x).wsub Val.one

/-- Bits after the point in an argument reduced by a multiple of half pi. -/
def piBits : Nat := 1600

/-- The inverse tangent of 1 / n times 2^piBits. -/
def atanInv (n : Nat) : Int :=
  ((upTo 800).foldl (fun (a : Int × Nat) i =>
    let t : Int := (a.2 / (2 * i + 1) : Nat)
    (if i % 2 = 0 then a.1 + t else a.1 - t, a.2 / (n * n))) (0, 2 ^ piBits / n)).1

/-- Pi times 2^piBits. -/
def piFixed : Int := 16 * atanInv 5 - 4 * atanInv 239

def piV : Val := Val.cut (.ofFixed piFixed piBits)

/-- The quadrant of an argument and what is left of it, from -pi/4 to pi/4. -/
def quadrant (x : Val) : Nat × Val :=
  let f := x.fixed piBits
  let h := piFixed / 2
  let q := (f + h / 2).ediv h
  let r := if q = 0 then x else .ofFixed (f - q * h) piBits
  ((q.emod 4).toNat, r.cut)

def sinNear (r : Val) : Val := series 60 r (r.wmul r).neg (fun _ => 1) (fun i => (2 * i + 2) * (2 * i + 3))
def cosNear (r : Val) : Val := series 60 Val.one (r.wmul r).neg (fun _ => 1) (fun i => (2 * i + 1) * (2 * i + 2))

/-- sin(x + n * pi/2). -/
def sinShift (x : Val) (n : Nat) : Val :=
  let q := quadrant x
  match (q.1 + n) % 4 with
  | 0 => sinNear q.2
  | 1 => cosNear q.2
  | 2 => (sinNear q.2).neg
  | _ => (cosNear q.2).neg

/-! ## The activations of R157 -/

/-- sigma(x) = 1 / (1 + e^-x). -/
def sigma (x : Val) : Val :=
  if x.sign then let t := expV x; t.wdiv (Val.one.wadd t) else Val.one.wdiv (Val.one.wadd (expV x.neg))

def tanhV (x : Val) : Val :=
  let w := expm1V (x.abs.scale2 1).neg
  let t := w.neg.wdiv ((Val.ofNat 2).wadd w)
  if x.sign then t.neg else t

/-- A decimal fraction. -/
def decimal (n d : Nat) : Val := (Val.ofNat n).wdiv (Val.ofNat d)

/-- k = sqrt(2 / pi). -/
def geluK : Val := (Val.ofNat (Val.isqrt (2 ^ (piBits + 1 + 800) / piFixed.toNat))).scale2 (-400)

/-- 2 * k * (x + 0.044715 x^3), of which 1 + T = 2 sigma. -/
def geluArg (x : Val) : Val :=
  let c := x.wadd ((decimal 44715 1000000).wmul (x.wmul (x.wmul x)))
  (geluK.wmul c).scale2 1

/-- g(x) of a finite argument, codes 0x2 to 0x8. -/
def actExact (code : Nat) (x : Val) : Val :=
  match code with
  | 2 => x.wmul (sigma (geluArg x))
  | 3 => x.wmul (sigma x)
  | 4 => tanhV x
  | 5 => sigma x
  | 6 => (if x.sign then Val.zero else x).wadd (log1p (expV x.abs.neg))
  | 7 => sinShift x 0
  | _ => sinShift x 1

/-- g'(x) of a finite argument, codes 0x2 to 0x8. -/
def derivExact (code : Nat) (x : Val) : Val :=
  match code with
  | 2 =>
    let u := geluArg x
    let p := Val.one.wadd ((decimal 134145 1000000).wmul (x.wmul x))
    let t := (x.wmul (sigma u.neg)).wmul (geluK.wmul p)
    (sigma u).wmul (Val.one.wadd (t.scale2 1))
  | 3 => (sigma x).wmul (Val.one.wadd (x.wmul (sigma x.neg)))
  | 4 => ((sigma (x.scale2 1)).wmul (sigma (x.scale2 1).neg)).scale2 2
  | 5 => (sigma x).wmul (sigma x.neg)
  | 6 => sigma x
  | 7 => sinShift x 1
  | _ => (sinShift x 0).neg

/-! ## Results that are given within so many units in the last place -/

/-- The exponent of a unit in the last place of FP64 at a value. -/
def ulp64 (v : Val) : Int := max (v.top - 52) (-1074)

/-- g lies within n units in the last place of a, and 2^-10 of a unit for what the working value is short of. -/
def within (n : Nat) (a g : Val) : Bool :=
  g.isFinite && !((Val.fin false (1024 * n + 1) (ulp64 a - 10)).lt (g.wsub a).abs)

/-- A result given within n units in the last place of the exact value a: the free encoding w if it lies there, else a
rounded. -/
def near (n : Nat) (a : Val) (w : Nat) : Val := if within n a (v64 w) then v64 w else v64 (f64 a)

/-- An activation of a finite argument, codes 0x2 to 0x8 (R158). -/
def actNear (code : Nat) (x : Val) : Val :=
  near 4 (actExact code x) (Config.activation code (BitVec.ofNat 64 (f64 x))).toNat
def derivNear (code : Nat) (x : Val) : Val :=
  near 4 (derivExact code x) (Config.activationDeriv code (BitVec.ofNat 64 (f64 x))).toNat

end Sys2Proof.Machine
end

