-- ==== Sys2Proof/Machine/Recipe.lean ====
section
/-! DEFINITION. Recipes of the Mill: programs, registers, and what one element computes (R268 to R271, R274). -/

namespace Sys2Proof.Machine

/-- One program operation: OP, D, A, B, C (R269). -/
structure POp where
  op : Nat
  d : Nat
  a : Nat
  b : Nat := 0
  c : Nat := 0
  deriving DecidableEq, Repr

def POp.of (w : Nat) : POp := { op := bits w 27 5, d := bits w 22 5, a := bits w 17 5, b := bits w 12 5, c := bits w 7 5 }

/-- A register that exists (R269). -/
def recReg (r : Nat) : Bool := decide (r ≤ 11) || (decide (16 ≤ r) && decide (r ≤ 27))
/-- A register a program may write. -/
def recWritable (r : Nat) : Bool := decide (r ≤ 11) && r != 1

/-- Operands that an OP uses. -/
def opArity (op : Nat) : Nat := if op = 4 ∨ op = 5 then 3 else if op = 7 ∨ op = 10 ∨ op = 11 then 1 else 2

/-- A legal operation (R269). -/
def POp.ok (p : POp) : Bool :=
  decide (1 ≤ p.op) && decide (p.op ≤ 12) && recWritable p.d && recReg p.a && (opArity p.op == 1 || recReg p.b) &&
    (opArity p.op != 3 || recReg p.c)

namespace Recipe

/-- Fields of a recipe entry of 2,048 bits (R268). -/
def kind (x : Nat) : Nat := bits x 0 8
def nesterov (x : Nat) : Bool := bit x 8
def nobias (x : Nat) : Bool := bit x 9
def nops (x : Nat) : Nat := bits x 16 8
def h (x n : Nat) : Nat := bits x (64 + 64 * n) 64
def bound (x : Nat) : Nat := bits x 576 64
def word (x n : Nat) : Nat := bits x (1024 + 32 * n) 32

/-- The program of a recipe; none where it is illegal (R268 to R270). -/
def program (x : Nat) : Option (List POp) :=
  match kind x with
  | 1 => some [⟨4, 4, 20, 0, 1⟩, ⟨5, 0, 16, 4, 0⟩]
  | 2 =>
    some ([⟨4, 4, 20, 0, 1⟩, ⟨4, 2, 17, 2, 4⟩] ++
      (if nesterov x then [⟨4, 5, 17, 2, 4⟩, ⟨5, 0, 16, 5, 0⟩] else [⟨5, 0, 16, 2, 0⟩]))
  | 3 =>
    some [⟨2, 4, 2, 1, 0⟩, ⟨4, 2, 17, 4, 1⟩, ⟨3, 5, 1, 1, 0⟩, ⟨2, 6, 3, 5, 0⟩, ⟨4, 3, 18, 6, 5⟩, ⟨6, 7, 2, 26, 0⟩,
      ⟨6, 8, 3, 27, 0⟩, ⟨7, 9, 8, 0, 0⟩, ⟨1, 9, 9, 19, 0⟩, ⟨6, 10, 7, 9, 0⟩, ⟨4, 10, 20, 0, 10⟩, ⟨5, 0, 16, 10, 0⟩]
  | 128 =>
    let p := (upTo (nops x)).map fun n => POp.of (word x n)
    if 1 ≤ nops x ∧ nops x ≤ 16 ∧ p.all POp.ok then some p else none
  | _ => none

end Recipe

/-- One operation on FP64 encodings, rounded once, with its flags (R269). -/
def recOp (op a b c : Nat) : Nat × Fl :=
  let x := v64 a
  let y := v64 b
  let z := v64 c
  let r : Val × Fl :=
    match op with
    | 1 => x.add y
    | 2 => x.sub y
    | 3 => x.mul y
    | 4 => x.fma y z
    | 5 => x.neg.fma y z
    | 6 => x.div y
    | 7 => x.sqrt
    | 8 => minMax false x y
    | 9 => minMax true x y
    | 10 => (x.abs, x.sigFlag)
    | 11 => (x.neg, x.sigFlag)
    | _ =>
      if x.isNan || y.isNan then (.nan false, x.sigFlag ||| y.sigFlag)
      else (if x.sign = y.sign then x else x.neg, 0)
  let e := Fmt.fp64.round r.1
  (e.1, r.2 ||| e.2)

/-- A program run on registers; writes to an absent moment are discarded (R269). -/
def runProgram (m1 m2 : Bool) : List POp → PMap Nat → Fl → PMap Nat × Fl
  | [], r, f => (r, f)
  | p :: ps, r, f =>
    let v := recOp p.op (PMap.get 0 r p.a) (PMap.get 0 r p.b) (PMap.get 0 r p.c)
    let r1 := if (p.d = 2 ∧ !m1) ∨ (p.d = 3 ∧ !m2) then r else PMap.put r p.d v.1
    runProgram m1 m2 ps r1 (f ||| v.2)

/-- The registers an element starts with: W, G, M1, M2 as FP64 encodings (R269). -/
def recRegs (x bc1 bc2 w g m1 m2 : Nat) : PMap Nat :=
  [(0, w), (1, g), (2, m1), (3, m2), (16, Recipe.h x 0), (17, Recipe.h x 1), (18, Recipe.h x 2), (19, Recipe.h x 3),
   (20, Recipe.h x 4), (21, Recipe.h x 5), (22, Recipe.h x 6), (23, Recipe.h x 7), (24, 0x3FF0000000000000), (25, 0),
   (26, bc1), (27, bc2)]

/-- Formats of the tensors of an entry; none where the tensor is absent. -/
structure UpdFmts where
  p : Nat
  g : Nat
  m1 : Option Nat
  m2 : Option Nat
  sh : Option Nat
  deriving DecidableEq, Repr

/-- What one element yields: encodings of parameter, moments and shadow, the values of R274, and flags. -/
structure UpdElem where
  p : Nat := 0
  m1 : Nat := 0
  m2 : Nat := 0
  sh : Nat := 0
  w : Nat := 0
  g : Nat := 0
  u : Nat := 0
  fl : Fl := 0
  deriving DecidableEq, Repr

/-- One element of an UPDATE (R269 to R271, R274). -/
def updElem (f : UpdFmts) (x bc1 bc2 : Nat) (prog : List POp) (p g m1 m2 : Nat) : UpdElem :=
  let wide := fun (c v : Nat) => Fmt.fp64.round (decodeFmt c v)
  let mom := fun (c : Option Nat) (v : Nat) => match c with | none => (0, (0 : Fl)) | some k => wide k v
  let h5 := if Recipe.h x 5 = 0 then 0x3FF0000000000000 else Recipe.h x 5
  let w0 := wide f.p p
  let gm := (decodeFmt f.g g).mul (v64 h5)
  let g0 := Fmt.fp64.round gm.1
  let a := mom f.m1 m1
  let b := mom f.m2 m2
  let r := runProgram f.m1.isSome f.m2.isSome prog (recRegs x bc1 bc2 w0.1 g0.1 a.1 b.1)
    (w0.2 ||| gm.2 ||| g0.2 ||| a.2 ||| b.2)
  let w := v64 (PMap.get 0 r.1 0)
  let po := roundFmt f.p w
  let out := fun (c : Option Nat) (n : Nat) =>
    match c with | none => (0, (0 : Fl)) | some k => roundFmt k (v64 (PMap.get 0 r.1 n))
  let o1 := out f.m1 2
  let o2 := out f.m2 3
  let os := out f.sh 0
  let new := decodeFmt f.p po.1
  { p := po.1, m1 := o1.1, m2 := o2.1, sh := os.1, w := f64 new, g := g0.1, u := f64 (new.sub (decodeFmt f.p p)).1,
    fl := r.2 ||| po.2 ||| o1.2 ||| o2.2 ||| os.2 }

/-- One square added to a lane's sum, the addition rounded once (R274); the square itself is exact (DEDUCED,
assumption 23). -/
def addSquare (acc x : Nat) : Nat := f64 ((v64 x).fma (v64 x) (v64 acc)).1

/-- The lanes' sums combined in lane order (R274). -/
def laneTotal (l : List (BitVec 64)) : Nat := l.foldl (fun a x => (add64r0 a x.toNat)) 0
where
  /-- An FP64 addition rounded once. -/
  add64r0 (a b : Nat) : Nat := f64 ((v64 a).add (v64 b)).1

end Sys2Proof.Machine
end

