-- ==== Sys2Proof/Machine/Mill.lean ====
section
/-! DEFINITION. The Mill (R248 to R281). -/

namespace Sys2Proof.Machine

/-- The UPDATE at work cannot go on (R264, R277, R303). -/
def State.millFail (s : State) (m : Nat) : State := s.setMill m { s.mill m with broken := true }

/-- A Mill meets an access it may not make, or poison outside a tile (R277, R303). -/
def State.millRefuse (s : State) (m : Nat) (f : Refuse) (serial : Nat) : State :=
  match f with
  | .fault a _ _ => s.millStop m a
  | .poison => s.millEscalate m 0 3 false serial

/-! ## Records (R260 to R264) -/

/-- The endpoint names unit 25 of an unfenced hand with a valid HY in a suit in service (R263). -/
def State.mirrorEpOk (s : State) (e : Nat) : Bool :=
  match epToHand e with
  | none => false
  | some h => epUnit e == 25 && s.handUp h

/-- A well-formed Mill record (R263, R264). -/
def State.millRecordOk (s : State) (r : BitVec 512) : Bool :=
  let op := Record.opcode r
  let k := fun (i : Nat) => (Record.desc r i).kind
  let incOk := fun (i : Nat) => !Record.incEn r i || decide (Record.incCtr r i < 32)
  Record.station r == 8 && Record.core r == 16 && decide (op ≤ 9) && incOk 0 && incOk 1 &&
  (match op with
   | 1 => k 0 == 1 && k 1 == 0 && k 2 == 0
   | 2 => k 0 == 1 && k 2 == 0
   | 5 => decide (Record.argBits r 0 4 ≤ 12)
   | 7 => k 1 == 0 && k 2 == 0
   | 8 => k 1 == 0 && k 2 == 0
   | _ => k 0 == 0 && k 1 == 0 && k 2 == 0) &&
  (op != 3 || s.mirrorEpOk (Record.argBits r 16 16)) &&
  (op != 4 || (!bit (Record.arg r) 15 && decide (Record.argBits r 9 4 < 10) && Record.argBits r 0 5 == 25))

/-- What a Mill row finds at the front of its stream. -/
inductive MillHead where
  | none
  | stop (s : State)
  | ready (va : Nat) (r : BitVec 512)
  deriving DecidableEq, Repr

/-- The record of opcode op that is next: every record before it has committed, or, for an UPDATE behind UPDATEs, has
issued all its reads (R260); its waits hold. A malformed record stops the Mill. -/
def State.millHead (s : State) (m op : Nat) : MillHead :=
  let d := s.mill m
  match d.buf with
  | [] => .none
  | (va, r) :: _ =>
    if !s.millRuns m then .none
    else if !(d.q.isEmpty || (Record.opcode r == 1 && d.q.all fun c => c.complete && Record.opcode c.r == 1)) then .none
    else if !s.millRecordOk r then .stop (s.millStop m va)
    else if Record.opcode r != op || !s.millWaitsHold m r then .none
    else .ready va r

/-- The front record leaves the fetch buffer. -/
def State.millPop (s : State) (m : Nat) : State := s.setMill m { s.mill m with buf := (s.mill m).buf.drop 1 }

/-- A record that completes at once commits: its increments, END, and the next record follows. -/
def State.millCommit (s : State) (m : Nat) (r : BitVec 512) : State :=
  let s1 := ((s.millIncs m r).traceEnd 8 m r 0 0 0).millPop m
  s1.setMill m { s1.mill m with lastCommit := s1.now (640 + m) }

/-- A row whose record completes at once. -/
def State.millRow (s : State) (m op : Nat) (f : State → Nat → BitVec 512 → Option State) : State :=
  match s.millHead m op with
  | .none => s
  | .stop s1 => s1
  | .ready va r =>
    match f (s.traceBegin 8 m r 0) va r with
    | none => s.millStop m va
    | some s1 => if (s1.mill m).halted then s1 else s1.millCommit m r

/-- MILL_NOP (R263). -/
def execMillNop (m : MillIx) (s : State) : Host.Outcome State Fault Refusal :=
  .next (s.millRow m.val 0 fun s _ _ => some s)

/-- MILL_SIGNAL (R263, R83). -/
def execMillSignal (m : MillIx) (s : State) : Host.Outcome State Fault Refusal :=
  .next (s.millRow m.val 4 fun s _ r =>
    some (s.send (epMill m.val) (Record.argBits r 0 16) 3 (640 + m.val / 2)
      (.signal (Record.argBits r 16 6) (Record.argBits r 22 8))))

/-- Fetching goes on at TARGET. -/
def State.millRedirect (s : State) (m target : Nat) : State :=
  s.setMill m { s.mill m with buf := (s.mill m).buf.take 1, fetch := target }

/-- MILL_JUMP (R263): the records fetched beyond it are dropped. -/
def execMillJump (m : MillIx) (s : State) : Host.Outcome State Fault Refusal :=
  .next (s.millRow m.val 7 fun s _ r => some (s.millRedirect m.val (Record.target r)))

/-- MILL_LOOP (R82, R263). -/
def execMillLoop (m : MillIx) (s : State) : Host.Outcome State Fault Refusal :=
  .next (s.millRow m.val 8 fun s _ r =>
    let n := Record.argBits r 30 2
    let c := loopStep (PMap.get 0 (s.mill m.val).loops n) (Record.argBits r 0 28)
    let s1 := s.setMill m.val { s.mill m.val with loops := PMap.put (s.mill m.val).loops n c }
    some (if c = 0 then s1 else s1.millRedirect m.val (Record.target r)))

/-- MILL_END (R263): fetching stops; the ring drains (R561). -/
def execMillEnd (m : MillIx) (s : State) : Host.Outcome State Fault Refusal :=
  .next <|
    match s.millHead m.val 9 with
    | .none => s
    | .stop s1 => s1
    | .ready _ r =>
      let s1 := (s.traceBegin 8 m.val r 0).millCommit m.val r
      (s1.setMill m.val { s1.mill m.val with ended := true, buf := [] }).flushRing (640 + m.val)

/-- MILL_DONE (R263, R553). -/
def execMillDone (m : MillIx) (s : State) : Host.Outcome State Fault Refusal :=
  .next <|
    let d := s.mill m.val
    if d.stream && d.ended && !d.reported && d.q.isEmpty && !s.millStopped m.val then
      let s1 := s.setMill m.val { d with reported := true }
      ((s1.setBit (Reg.millStat m.val) 30).flushRing (640 + m.val)).jobDone
    else s

/-! ## Mirrors (R261, R262) -/

/-- A hand's bindings but those of a mirror. -/
def Hand.keepBinds (d : Hand) (m mir : Nat) : List Bind := d.binds.filter fun b => !(b.mill == m && b.mir == mir)
/-- The hand serves a mirror. -/
def Hand.serves (d : Hand) (m mir : Nat) : Bool := d.binds.any fun b => b.mill == m && b.mir == mir

/-- MIRROR (R262): the hand takes the binding, any other hand that had the mirror loses it, and the record waits for the first value. A ninth binding of a hand stops
the Mill. -/
def execMirror (m : MillIx) (s : State) : Host.Outcome State Fault Refusal :=
  .next <|
    match s.millHead m.val 3 with
    | .none => s
    | .stop s1 => s1
    | .ready va r =>
      match epToHand (Record.argBits r 16 16) with
      | none => s
      | some h =>
        let mir := Record.argBits r 0 5
        let keep := (s.hand h).keepBinds m.val mir
        if 8 ≤ keep.length then s.millStop m.val va
        else
          let s0 := { s with hands := s.hands.map fun (e : Nat × Hand) => (e.1, { e.2 with binds := e.2.keepBinds m.val mir }) }
          let s1 := (s0.traceBegin 8 m.val r 0).setHand h
            { s0.hand h with binds := keep ++ [{ mill := m.val, mir := mir, ctr := Record.argBits r 8 6 }] }
          let d := (s1.millPop m.val).mill m.val
          (s1.millPop m.val).setMill m.val
            { d with q := d.q ++ [{ r := r, va := va, begun := true, tBegin := s.now (640 + m.val) }] }

/-- MIRROR_SEND (R262): the hand sends a bound counter's latest value, the first time at once and then after each
change. -/
def execMirrorSend (h : HandIx) (b : Fin 8) (s : State) : Host.Outcome State Fault Refusal :=
  .next <|
    match (s.hand h.val).binds[b.val]? with
    | none => s
    | some x =>
      let v := s.evc h.val x.ctr
      if x.sent = some v ∨ s.handStopped h.val then s
      else
        (s.setHand h.val { s.hand h.val with binds := (s.hand h.val).binds.set b.val { x with sent := some v } }).send
          (epHand h.val 25) (epMill x.mill) 3 h.val (.mirror x.mir v)

/-- MIRROR_UPDATE (R262): a value that has arrived at the Mill from the hand that the mirror is bound to becomes the mirror's; the
first one completes the MIRROR record. A value of an earlier binding is dropped. -/
def execMirrorUpdate (m : MillIx) (mirror : BitVec 5) (s : State) : Host.Outcome State Fault Refusal :=
  .next <|
    let mine := fun (p : Packet) =>
      p.arrived && p.dest.toNat == epMill m.val && (match p.msg with | .mirror k _ => k == mirror.toNat | _ => false)
    match s.net.find? mine with
    | none => s
    | some p =>
      match p.msg with
      | .mirror k v =>
        let s0 := { s with net := s.net.erase p }
        if !(match epToHand p.src.toNat with | some h => (s.hand h).serves m.val k | none => false) then s0
        else
        let s1 := s0.setReg (Reg.millEvc m.val (32 + k)) v
        let q := (s1.mill m.val).q.map fun c =>
          if Record.opcode c.r = 3 ∧ Record.argBits c.r 0 5 = k then { c with complete := true } else c
        s1.setMill m.val { s1.mill m.val with q := q }
      | _ => s

/-! ## Tables and steps (R263, R265, R275) -/

/-- n zero bytes that a Mill writes from a virtual address, page by page; none where a page may not be written. -/
def State.vzero (s : State) (m : Nat) : Nat → Nat → Nat → Option State
  | 0, _, n => if n = 0 then some s else none
  | fuel + 1, va, n =>
    if n = 0 then some s
    else
      let k := min n (65536 - va % 65536)
      match s.vwrite (640 + m) 0 va k 0 with
      | none => none
      | some s1 => s1.vzero m fuel (va + k) (n - k)

/-- Telemetry row i of a Mill zeroed. -/
def State.zeroRow (s : State) (m i : Nat) : Option State :=
  let d := s.mill m
  s.vzero m 64 (d.tele + i * d.nlayers * 24) (d.nlayers * 24)

/-- TABLES (R265): the table bases, and telemetry row 0 zeroed. -/
def execTables (m : MillIx) (s : State) : Host.Outcome State Fault Refusal :=
  .next (s.millRow m.val 5 fun s _ r =>
    let nl := Record.argBits r 16 16
    (s.setMill m.val { s.mill m.val with
      utab := bits (Record.opd r 0) 0 48, rtab := bits (Record.opd r 1) 0 48, tele := bits (Record.opd r 2) 0 48
      nlayers := if nl = 0 then 65536 else nl, tlog := Record.argBits r 0 4, tabled := true }).zeroRow m.val 0)

/-- The bytes of a Mill's STEP slot (R564). -/
def State.millSlot (s : State) (m next writes : Nat) : Nat :=
  let l := (s.mill m).loops
  s.packWords (Reg.millEvc m) 32 0 +
    (PMap.get 0 l 0 + PMap.get 0 l 1 <<< 32 + PMap.get 0 l 2 <<< 64 + PMap.get 0 l 3 <<< 96) <<< 2048 +
    (next % 2 ^ 48) <<< 2176 + (s.reg (Reg.millStep m)).toNat <<< 2240 + (s.now (640 + m) % 2 ^ 64) <<< 2304 + (writes % 2 ^ 32) <<< 2368

/-- The in-service known-answer update of a Mill at a STEP (R425, R431); `times` mismatches of the test and its
repeat. It leaves the normal mode of the granary (R294). -/
def State.millKat (s : State) (m times : Nat) : State :=
  if s.field (Reg.reeveCtl (m / 2)) 8 16 = 0 then s
  else
    let s := s.setGranMode (m / 2) 0
    if times = 0 then s else
    let d := 4 <<< 45 + 7 <<< 40 + b2n (decide (2 ≤ times)) <<< 39
    (s.traceMill m (faultTrace 8 (epMill m) 2 0x11 d 0 0)).post (m / 2 * 4 + 2 * (m % 2)) 2 0x11 (epMill m) d

/-- STEP (R263, R425, R433): the step count advances, the next telemetry row is zeroed, and the checkpoint is written
before the record's own increments (DEDUCED, assumption 8). -/
def execStep (m : MillIx) (katTimes : Nat) (s : State) : Host.Outcome State Fault Refusal :=
  .next (s.millRow m.val 6 fun s va r =>
    if !(s.mill m.val).tabled then none
    else
      let s1 := (s.millKat m.val katTimes).setReg (Reg.millStep m.val) (s.reg (Reg.millStep m.val) + 1)
      let n := (s1.reg (Reg.millStep m.val)).toNat
      match s1.zeroRow m.val (n % 2 ^ (s1.mill m.val).tlog) with
      | none => none
      | some s2 =>
        let w := (s2.mill m.val).writes + 1
        match s2.vwrite (640 + m.val) 0 (s2.traceBlock (640 + m.val)) 384 (s2.millSlot m.val (va + 64) w) with
        | none => none
        | some s3 =>
          some ((s3.setMill m.val { s3.mill m.val with writes := w, hasStep := true }).traceMill m.val (Trace.ofRecord 7 8 m.val r 2 n)))

/-! ## Version records (R250, R257, R258) -/

/-- Entry b of a version record. -/
def bufEntry (rec b : Nat) : Nat := bits rec (8 * (24 + 8 * b)) 64
def bufState (x : Nat) : Nat := bits x 8 2
def bufVer (x : Nat) : Nat := bits x 0 8
def bufRset (x : Nat) : Bool := bit x 10

/-- The bits of a version record, and of a BUF entry, that are not reserved (R11, R250). -/
def bufMask : Nat := 0xFFFFFFFF003F07FF
def verRecMask : Nat :=
  0xFFFF00FF + sumL ((upTo 4).map fun i => 0x83FFFFFF <<< (32 + 32 * i)) + sumL ((upTo 4).map fun b => bufMask <<< (192 + 64 * b))

/-- R257 refuses the target buffer: writing with another version, live with RSET = 0, or reserved. -/
def bufRefused (x v : Nat) : Bool :=
  bufState x == 3 || (bufState x == 2 && bufVer x != v) || (bufState x == 1 && !bufRset x)

/-- PUBLISH (R258): one write of the version record. -/
def execPublish (m : MillIx) (s : State) : Host.Outcome State Fault Refusal :=
  .next (s.millRow m.val 2 fun s _ r =>
    let d := Record.desc r 0
    if !s.names d.tid || !s.versioned d.tid then none
    else
      let e := s.entry d.tid
      let va := Entry.verAddr e
      let s := (s.seenEntries (640 + m.val) [d.tid]).seen (640 + m.val) 0 va 64
      match s.vread va 64 with
      | .poison => some (s.millEscalate m.val 0 3 false (Record.serial r))
      | .fault .. => none
      | .ok rec =>
        let pub := bits rec 0 8
        let n := Entry.nver e + 1
        let v := (pub + 1) % 256
        let t := v % n
        let o := pub % n
        if bufState (bufEntry rec t) ≠ 2 ∨ bufVer (bufEntry rec t) ≠ v then none
        else
          let at_ := fun (b lo : Nat) => 8 * (24 + 8 * b) + lo
          let r1 := setBits (setBits (setBits (rec &&& verRecMask) (at_ o 10) 1 1) (at_ o 16) 6 (bits (Record.opd r 1) 0 6)) (at_ o 32) 32
            (Record.arg r)
          s.vwrite (640 + m.val) 0 va 64 (setBits (setBits r1 (at_ t 8) 2 1) 0 8 v))

/-- The answer of a claim. -/
inductive Claim where
  /-- claimed: the published version, READER0's TENSOR_ID -/
  | got (s : State) (pub rtid : Nat)
  | pinned
  | stop (s : State)
  deriving DecidableEq, Repr

/-- An UPDATE claims the target buffer of a versioned tensor by a compare-and-swap of its BUF entry, whose reserved bits are
written 0 (R11, R257). -/
def State.claim (s : State) (m : Nat) (c : Cmd) (tid : Nat) : Claim :=
  let e := s.entry tid
  let va := Entry.verAddr e
  let s1 := s.seen (640 + m) 0 va 64
  match s.vread va 64 with
  | .poison => .stop ((s1.millEscalate m 0 3 false (Record.serial c.r)).millFail m)
  | .fault a _ _ => .stop ((s1.millStop m a).millFail m)
  | .ok rec =>
    let pub := bits rec 0 8
    let v := (pub + 1) % 256
    let b := v % (Entry.nver e + 1)
    let x := bufEntry rec b
    let rtid := bits rec 32 24
    let ba := va + 24 + 8 * b
    let take : Claim :=
      match s.translate ba .atomic with
      | .ok pa pc =>
        .got (((s1.atHome (640 + m) 0 ba pa 8).storeHome 0 pa pc 8 (setBits (setBits (x &&& bufMask) 8 2 2) 0 8 v)).add64
          (Reg.atomics (pa / 2 ^ 38)) 1) pub rtid
      | .fault .. => .stop ((s1.millStop m ba).millFail m)
      | .poison => .stop ((s1.millEscalate m 0 3 false (Record.serial c.r)).millFail m)
    if bufRefused x v then .stop ((s1.millStop m c.va).millFail m)
    else if bufState x = 0 then take
    else if bufState x = 1 then (if waitMet (s.millEvc m (bits x 16 6)) (bits x 32 32) then take else .pinned)
    else .got s1 pub rtid

/-! ## UPDATE (R265 to R277) -/

namespace Upd

/-- IDs of an update-table entry (R266). -/
def param (x : Nat) : Nat := bits x 0 24
def grad (x : Nat) : Nat := bits x 32 24
def m1 (x : Nat) : Nat := bits x 64 24
def m2 (x : Nat) : Nat := bits x 96 24
def shadow (x : Nat) : Nat := bits x 128 24
def rslot (x : Nat) : Nat := bits x 168 4

end Upd

/-- The tensors of an entry that are present: kind (0 parameter, 1 gradient, 2 M1, 3 M2, 4 shadow) and ID. -/
def updTensors (x : Nat) : List (Nat × Nat) :=
  [(0, Upd.param x), (1, Upd.grad x), (2, Upd.m1 x), (3, Upd.m2 x), (4, Upd.shadow x)].filter fun t => t.2 != 0

/-- Formats that R267 allows. -/
def updFmtOk (kind f : Nat) : Bool :=
  match kind with
  | 0 => f == 0 || f == 1 || f == 2 || f == 3
  | 1 => f == 0 || f == 1 || f == 2 || f == 3
  | 4 => f == 1 || f == 2 || f == 3 || f == 4 || f == 5
  | _ => f == 0 || f == 1 || f == 3

/-- First row, first column, rows and columns of the element region of a parameter extent. -/
def updRegion (e : Nat) (d : Desc) : Nat × Nat × Nat × Nat :=
  let f := Entry.fmt e
  (d.row0 * fmtRows f, d.col0 * fmtCols f, d.nrows * fmtRows f, d.ncols * fmtCols f)

/-- Tile counts of tensors, each with its tile's extent, that some one element count fits (R267): the tensor table counts whole
tiles, the last of which may be partial. -/
def sameExtent (l : List (Nat × Nat)) : Bool := l.all fun x => l.all fun y => decide ((x.1 - 1) * x.2 < y.1 * y.2)

/-- The rules of R266 and R267 on an entry. -/
def State.updEntryOk (s : State) (x : Nat) (d : Desc) : Bool :=
  let pe := s.entry d.tid
  let g := updRegion pe d
  let es := (updTensors x).map fun t => s.entry t.2
  Upd.param x == d.tid && Upd.grad x != 0 && s.names d.tid && s.inTensor d &&
  sameExtent (es.map fun e => (Entry.trows e, fmtRows (Entry.fmt e))) && sameExtent (es.map fun e => (Entry.tcols e, fmtCols (Entry.fmt e))) &&
  (updTensors x).all fun t =>
    let e := s.entry t.2
    let f := Entry.fmt e
    s.names t.2 && updFmtOk t.1 f && (t.1 == 0 || t.1 == 4 || Entry.nver e == 0) &&
      g.1 % fmtRows f == 0 && g.2.1 % fmtCols f == 0 && g.2.2.1 % fmtRows f == 0 && g.2.2.2 % fmtCols f == 0

/-- The record of a versioned tensor names this Mill (R267). -/
def State.ownedBy (s : State) (m tid : Nat) : Bool :=
  if s.versioned tid then
    match s.vread (Entry.verAddr (s.entry tid)) 64 with
    | .ok rec => bits rec 16 16 == epMill m
    | _ => true
  else true

/-- The extent of a tensor over the element region of an UPDATE. -/
def State.updDesc (s : State) (x : Nat) (d : Desc) (tid : Nat) : Desc :=
  let g := updRegion (s.entry (Upd.param x)) d
  let f := Entry.fmt (s.entry tid)
  { kind := 1, orient := false, port := 0, tid := tid, row0 := g.1 / fmtRows f, col0 := g.2.1 / fmtCols f,
    nrows := g.2.2.1 / fmtRows f, ncols := g.2.2.2 / fmtCols f }

/-- BC1 and BC2 (R269), computed once per command: within 2 units in the last place of 1 - H^t. -/
def biasOf (rcp h step : Nat) : Nat :=
  if Recipe.nobias rcp then 0x3FF0000000000000
  else
    let x := Recipe.h rcp h
    f64 (near 2 (Val.one.wsub ((v64 x).wpow (step + 1))) (Config.biasCorrection (BitVec.ofNat 64 x) (step + 1)).toNat)

/-- R257 refuses the target buffer of a tensor of an UPDATE (R264); the claim itself answers where the record does not. -/
def State.tensorRefused (s : State) (tid : Nat) : Bool :=
  if tid ≠ 0 ∧ s.versioned tid then
    match s.vread (Entry.verAddr (s.entry tid)) 64 with
    | .ok rec => let v := (bits rec 0 8 + 1) % 256; bufRefused (bufEntry rec (v % (Entry.nver (s.entry tid) + 1))) v
    | _ => false
  else false

/-- UPDATE begins (R260, R264 to R268): tables, entry, recipe and version records are read, and every check that precedes the
first write is made. -/
def State.updBegin (s : State) (m va : Nat) (r : BitVec 512) : State :=
  let d := Record.desc r 0
  let t := s.mill m
  let sr := Record.serial r
  let unit := 640 + m
  let ua := t.utab + Record.argBits r 0 24 * 32
  if !t.tabled then s.millStop m va
  else
    match s.vread ua 32 with
    | .poison => (s.seen unit 0 ua 32).millEscalate m 0 3 false sr
    | .fault a _ _ => s.millStop m a
    | .ok x =>
      let ra := t.rtab + Upd.rslot x * 256
      let tids := (updTensors x).map (·.2)
      let s0 := (((s.seen unit 0 ua 32).seen unit 0 ra 256).seenEntries unit tids)
      match s.vread ra 256 with
      | .poison => s0.millEscalate m 0 3 false sr
      | .fault a _ _ => s.millStop m a
      | .ok rcp =>
        match s.entryFault tids with
        | some f => s0.millRefuse m f sr
        | none =>
          if !s.updEntryOk x d || (Recipe.program rcp).isNone || !s.ownedBy m d.tid ||
              (Upd.shadow x != 0 && !s.ownedBy m (Upd.shadow x)) || s.tensorRefused d.tid || s.tensorRefused (Upd.shadow x) then
            s0.millStop m va
          else
            let step := (s.reg (Reg.millStep m)).toNat
            let pend := fun (tid : Nat) => if tid ≠ 0 ∧ s.versioned tid then 300 else 256
            let c : Cmd :=
              { r := r, va := va, begun := true, tBegin := s.now (640 + m), cnt0 := s.reg64 (Reg.obsMill m)
                scales := [x, rcp, biasOf rcp 1 step, biasOf rcp 2 step], ver := [pend d.tid, pend (Upd.shadow x)]
                vtid := [d.tid, Upd.shadow x], sums := List.replicate 96 0 }
            let s1 := (s0.traceBegin 8 m r 0).millPop m
            let s2 := { s1 with job := { s1.job with rollForward := true } }
            s2.setMill m { s2.mill m with q := (s2.mill m).q ++ [c] }

/-- The version after one, in the coding of `Cmd.ver`. -/
def nextVer (v : Nat) : Nat := if v = 256 then 256 else (v + 1) % 256

/-- The first access of an UPDATE that may not be made (R303), once its buffers are claimed. -/
def State.updFault (s : State) (c : Cmd) : Option Refuse :=
  let x := c.scales.getD 0 0
  let d := Record.desc c.r 0
  let vp := c.ver.getD 0 256
  let vs := c.ver.getD 1 256
  (updTensors x).findSome? fun t =>
    let e := s.updDesc x d t.2
    let rd := if t.1 = 4 then none else s.extentFault .read e (if t.1 = 0 then vp else 256)
    let wr := if t.1 = 1 then none else s.extentFault .write e (if t.1 = 0 then nextVer vp else if t.1 = 4 then nextVer vs else 256)
    orFault rd wr

/-- The active UPDATE's record in the queue replaced. -/
def State.setUpd (s : State) (m i : Nat) (c : Cmd) : State := s.setCmd 8 m i c

/-- A versioned parameter is read at version PUB: some enabled reader entry names it, and its buffer is live and holds PUB
(R253, R271). -/
def State.readerOk (s : State) (tid : Nat) : Bool :=
  match s.vread (Entry.verAddr (s.entry tid)) 64 with
  | .ok rec =>
    let pub := bits rec 0 8
    let x := bufEntry rec (pub % (Entry.nver (s.entry tid) + 1))
    ((upTo 4).any fun i => bit rec (63 + 32 * i) && bits rec (32 + 32 * i) 24 == tid) && bufState x == 1 && bufVer x == pub
  | _ => true

/-- One claim of an UPDATE that has not claimed all its buffers; a stall is counted once (R257, R279). A parameter that fails
R253 is marked, and its first tile escalates. -/
def State.updClaim (s : State) (m i : Nat) (c : Cmd) (k : Nat) : State :=
  match s.claim m c (c.vtid.getD k 0) with
  | .got s1 pub rtid =>
    let v := if k = 0 ∧ !s.readerOk (c.vtid.getD 0 0) then 512 + pub else pub
    s1.setUpd m i { c with ver := c.ver.set k v, vtid := c.vtid.set k rtid }
  | .stop s1 => s1
  | .pinned =>
    let n := min (2 ^ 32 - 1) ((s.reg (Reg.vpinEvt m)).toNat + 1)
    let s1 := (s.setReg (Reg.vpinEvt m) (BitVec.ofNat 32 n)).setBit (Reg.millStat m) 25
    s1.setMill m { s1.mill m with pinT := some (s.now (640 + m)) }

/-- The tensor whose buffer is still to be claimed: 0 the parameter, 1 the shadow. -/
def Cmd.unclaimed (c : Cmd) : Option Nat :=
  if c.ver.getD 0 256 = 300 then some 0 else if c.ver.getD 1 256 = 300 then some 1 else none

/-- BUFFER_CLAIM (R257, R279): the release condition of a pinned UPDATE holds, the stall ends with its cycles counted
(a free number of them, assumption 5), and the buffer is claimed. -/
def execBufferClaim (m : MillIx) (s : State) : Host.Outcome State Fault Refusal :=
  .next <|
    match s.active 8 m.val with
    | none => s
    | some (i, c) =>
      match c.unclaimed with
      | none => s
      | some k =>
        if (s.mill m.val).pinT.isNone || !s.stRuns 8 m.val then s
        else
          match s.claim m.val c (c.vtid.getD k 0) with
          | .pinned => s
          | _ =>
            let cyc := min (2 ^ 64 - 1) (s.reg64 (Reg.vpinCyc m.val) + s.fresh)
            let s1 := ((s.setReg64 (Reg.vpinCyc m.val) cyc).clearBit (Reg.millStat m.val) 25).spend
            (s1.setMill m.val { s1.mill m.val with pinT := none }).updClaim m.val i c k

/-- A tile of an UPDATE's tensor, with its place in the tensor. -/
structure UTile where
  r : Nat
  c : Nat
  t : Tile
  deriving DecidableEq, Repr

/-- One tile read and checked by a Mill (R277): one re-fetch after a first failure. -/
def State.millTile (s : State) (m : Nat) (cmd : Cmd) (tid rtid ver r c : Nat) : Except State (State × Tile) :=
  let e := s.entry tid
  let b := if ver = 256 then 0 else ver % 256 % (Entry.nver e + 1)
  let x : Expect := { tid := rtid, pos := some (r, c), fmt := some (Entry.fmt e) }
  let hva := Entry.hdrAddr e b r c
  let pva := Entry.payAddr e b r c
  let sr := Record.serial cmd.r
  let s0 := s.seenTile (640 + m) tid hva pva
  match s.tryTile x ver hva pva (fun _ => none) false with
  | .good t => .ok (s0, t)
  | .fault a _ _ => .error ((s0.millStop m a).millFail m)
  | .bad kind id true => .error ((s0.millEscalate m id kind false sr).millFail m)
  | .bad _ _ false =>
    let s1 := s0.dropLines hva pva
    let s2 := s1.seenTile (640 + m) tid hva pva
    match s1.tryTile x ver hva pva (fun _ => none) false with
    | .good t => .ok (s2.traceMill m (Trace.ofRecord 5 8 m cmd.r 0 (bits t.hdr.toNat 0 64)), t)
    | .fault a _ _ => .error ((s2.millStop m a).millFail m)
    | .bad kind id at1 => .error ((s2.millEscalate m id kind (!at1) sr).millFail m)

/-- Tiles of a tensor read one after another. -/
def State.millTiles (s : State) (m : Nat) (cmd : Cmd) (tid rtid ver : Nat) : List (Nat × Nat) → Except State (State × List UTile)
  | [] => .ok (s, [])
  | p :: ps =>
    match s.millTile m cmd tid rtid ver p.1 p.2 with
    | .error e => .error e
    | .ok (s1, t) =>
      match s1.millTiles m cmd tid rtid ver ps with
      | .error e => .error e
      | .ok (s2, l) => .ok (s2, { r := p.1, c := p.2, t := t } :: l)

/-- Tile positions of a format over a block of the element region. -/
def blockTiles (f r0 c0 h w : Nat) : List (Nat × Nat) :=
  (upTo (h / fmtRows f)).flatMap fun a => (upTo (w / fmtCols f)).map fun b => (r0 / fmtRows f + a, c0 / fmtCols f + b)

/-- The tile that holds element (i, j), among those read. -/
def tileOf (f : Nat) (l : List UTile) (i j : Nat) : Tile :=
  match l.find? fun t => t.r == i / fmtRows f && t.c == j / fmtCols f with
  | some t => t.t
  | none => { hdr := 0, pay := 0 }

def elemOf (f : Nat) (l : List UTile) (i j : Nat) : Nat := (tileOf f l i j).elem f (i % fmtRows f) (j % fmtCols f)
def validOf (f : Nat) (l : List UTile) (i j : Nat) : Bool :=
  let h := (tileOf f l i j).head
  decide (i % fmtRows f < h.vrows) && decide (j % fmtCols f < h.vcols)

/-- Height and width of the block that an UPDATE works on at a time: whole tiles of every tensor present. -/
def State.updBlock (s : State) (x : Nat) : Nat × Nat :=
  (updTensors x).foldl (fun b t =>
    let f := Entry.fmt (s.entry t.2)
    (max b.1 (fmtRows f), max b.2 (fmtCols f))) (1, 1)

/-- Everything read for one block. -/
structure UBlock where
  p : List UTile
  g : List UTile
  m1 : List UTile
  m2 : List UTile
  deriving DecidableEq, Repr

/-- The tiles of the parameter, gradient and moments over a block. -/
def State.updRead (s : State) (m : Nat) (c : Cmd) (r0 c0 h w : Nat) : Except State (State × UBlock) :=
  let x := c.scales.getD 0 0
  let go := fun (s : State) (tid rtid ver : Nat) =>
    if tid = 0 then .ok (s, []) else s.millTiles m c tid rtid ver (blockTiles (Entry.fmt (s.entry tid)) r0 c0 h w)
  match go s (Upd.param x) (c.vtid.getD 0 0) (c.ver.getD 0 256) with
  | .error e => .error e
  | .ok (s1, p) =>
    match go s1 (Upd.grad x) (Upd.grad x) 256 with
    | .error e => .error e
    | .ok (s2, g) =>
      match go s2 (Upd.m1 x) (Upd.m1 x) 256 with
      | .error e => .error e
      | .ok (s3, a) =>
        match go s3 (Upd.m2 x) (Upd.m2 x) 256 with
        | .error e => .error e
        | .ok (s4, b) => .ok (s4, { p := p, g := g, m1 := a, m2 := b })

/-- Formats of an entry's tensors. -/
def State.updFmts (s : State) (x : Nat) : UpdFmts :=
  let f := fun (tid : Nat) => if tid = 0 then none else some (Entry.fmt (s.entry tid))
  { p := Entry.fmt (s.entry (Upd.param x)), g := Entry.fmt (s.entry (Upd.grad x)), m1 := f (Upd.m1 x), m2 := f (Upd.m2 x)
    sh := f (Upd.shadow x) }

/-- The cells of a block, in row-major order. -/
def blockCells (r0 c0 h w : Nat) : List (Nat × Nat) := (upTo h).flatMap fun i => (upTo w).map fun j => (r0 + i, c0 + j)

/-- The validity fields of two tiles of one shape agree. -/
def Head.sameValid (a b : Head) : Bool :=
  a.pad == b.pad && a.partial_ == b.partial_ && a.vrows == b.vrows && a.vcols == b.vcols && a.bytes == b.bytes

/-- A tile whose validity fields differ from the parameter's at the same elements, if there is one (R272): field by field where
the tiles have one shape, element by element where they have not. -/
def badValidity (f : UpdFmts) (b : UBlock) (cells : List (Nat × Nat)) : Option Nat :=
  let differs := fun (k : Nat) (l : List UTile) =>
    let off := fun (q : Nat × Nat) =>
      if fmtCols k = fmtCols f.p ∧ fmtRows k = fmtRows f.p then
        !(tileOf k l q.1 q.2).head.sameValid (tileOf f.p b.p q.1 q.2).head
      else validOf k l q.1 q.2 != validOf f.p b.p q.1 q.2
    (cells.find? off).map fun q => (tileOf k l q.1 q.2).head.tid
  match differs f.g b.g with
  | some t => some t
  | none =>
    match (match f.m1 with | none => none | some k => differs k b.m1) with
    | some t => some t
    | none => match f.m2 with | none => none | some k => differs k b.m2

/-- Lanes' sums after the elements of a block. Which lane takes an element is not fixed: a free choice. -/
def lanesAfter (base : Nat) (sums : List (BitVec 64)) (els : List UpdElem) : List (BitVec 64) :=
  (List.zip (upTo els.length) els).foldl (fun l (x : Nat × UpdElem) =>
    let k := Config.freeNat (base + x.1) % 32
    let up := fun (l : List (BitVec 64)) (i v : Nat) => l.set i (BitVec.ofNat 64 (addSquare (l.getD i 0).toNat v))
    up (up (up l k x.2.w) (32 + k) x.2.g) (64 + k) x.2.u) sums

/-- An output tile of an UPDATE: its header by R272, its elements from the block's results. Validity fields are those of the
tile read at its place; a shadow whose tile has another shape than the parameter's takes the extent of the valid elements
(DEDUCED, assumption 77). -/
def updTile (f : Nat) (h : Head) (old : Option Head) (res : List ((Nat × Nat) × Option UpdElem)) (pick : UpdElem → Nat) (r c : Nat) : Tile :=
  let val := fun (i j : Nat) =>
    match (res.find? fun x => x.1 == (i, j)) with
    | some (_, some e) => some (pick e)
    | _ => none
  let pos := fun (n : Nat) => (r * fmtRows f + n / fmtCols f, c * fmtCols f + n % fmtCols f)
  let ns := upTo (4096 / fmtSize f)
  let vr := ns.foldl (fun a n => if (val (pos n).1 (pos n).2).isSome then max a (n / fmtCols f + 1) else a) 1
  let vc := ns.foldl (fun a n => if (val (pos n).1 (pos n).2).isSome then max a (n % fmtCols f + 1) else a) 1
  Tile.seal (match old with | some o => h.validAs o | none => h.valid vr vc)
    (BitVec.ofNat 32768 (packElems (fmtSize f) (ns.map fun n => (val (pos n).1 (pos n).2).getD 0)))

/-- Tiles written one after another, at their places in a buffer. -/
def State.updWrite (s : State) (m tid ver : Nat) : List (Nat × Nat × Tile) → Except Refuse State
  | [] => .ok s
  | (r, c, t) :: ts =>
    let e := s.entry tid
    let b := if ver = 256 then 0 else ver % 256 % (Entry.nver e + 1)
    match s.writeTile (640 + m) tid (Entry.hdrAddr e b r c) (Entry.payAddr e b r c) t with
    | .error f => .error f
    | .ok s1 => s1.updWrite m tid ver ts

/-- The block that an UPDATE works on: first row and column, height and width (c.out counts blocks from 1). -/
def State.updAt (s : State) (c : Cmd) : Nat × Nat × Nat × Nat :=
  let g := updRegion (s.entry (Upd.param (c.scales.getD 0 0))) (Record.desc c.r 0)
  let bl := s.updBlock (c.scales.getD 0 0)
  let n := c.out - 1
  (g.1 + n / (g.2.2.2 / bl.2) * bl.1, g.2.1 + n % (g.2.2.2 / bl.2) * bl.2, bl.1, bl.2)

/-- Blocks of an UPDATE. -/
def State.updBlocks (s : State) (c : Cmd) : Nat :=
  let g := updRegion (s.entry (Upd.param (c.scales.getD 0 0))) (Record.desc c.r 0)
  let bl := s.updBlock (c.scales.getD 0 0)
  (g.2.2.1 / bl.1) * (g.2.2.2 / bl.2)

/-- The update of one element of a block (R269). -/
def updCell (f : UpdFmts) (b : UBlock) (c : Cmd) (q : Nat × Nat) : UpdElem :=
  let rcp := c.scales.getD 1 0
  updElem f rcp (c.scales.getD 2 0) (c.scales.getD 3 0) ((Recipe.program rcp).getD []) (elemOf f.p b.p q.1 q.2) (elemOf f.g b.g q.1 q.2)
    (match f.m1 with | none => 0 | some k => elemOf k b.m1 q.1 q.2)
    (match f.m2 with | none => 0 | some k => elemOf k b.m2 q.1 q.2)

/-- The cells of a block with the results of the valid ones. -/
def updResults (f : UpdFmts) (b : UBlock) (c : Cmd) (cells : List (Nat × Nat)) : List ((Nat × Nat) × Option UpdElem) :=
  cells.map fun q => (q, if validOf f.p b.p q.1 q.2 then some (updCell f b c q) else none)

/-- The output tiles of one tensor over a block (R272): its format, its TENSOR_ID, the version read, the source tiles whose
scale and version the headers take. -/
def updOuts (at_ : Nat × Nat × Nat × Nat) (lastR lastC : Nat) (res : List ((Nat × Nat) × Option UpdElem)) (k rtid ver : Nat)
    (src : List UTile) (srcF : Nat) (pick : UpdElem → Nat) : List (Nat × Nat × Tile) :=
  (blockTiles k at_.1 at_.2.1 at_.2.2.1 at_.2.2.2).map fun p =>
    let old := (tileOf srcF src (p.1 * fmtRows k) (p.2 * fmtCols k)).head
    let h : Head :=
      { tid := rtid, row := p.1, col := p.2, fmt := k, scale := old.scale
        wver := if ver = 256 then old.wver else (ver + 1) % 256
        last := (p.1 + 1) * fmtRows k == lastR && (p.2 + 1) * fmtCols k == lastC }
    (p.1, p.2, updTile k h (if fmtCols srcF = fmtCols k ∧ fmtRows srcF = fmtRows k then some old else none) res pick p.1 p.2)

/-- The block's tiles written: parameter, moments, shadow (R269 to R274); the first refusal instead. -/
def State.updStore (s : State) (m : Nat) (c : Cmd) (f : UpdFmts) (b : UBlock) (at_ : Nat × Nat × Nat × Nat) (lastR lastC : Nat)
    (res : List ((Nat × Nat) × Option UpdElem)) : Except Refuse State :=
  let x := c.scales.getD 0 0
  let vp := c.ver.getD 0 256
  let vs := c.ver.getD 1 256
  let w1 := s.updWrite m (Upd.param x) (nextVer vp) (updOuts at_ lastR lastC res f.p (c.vtid.getD 0 0) vp b.p f.p (·.p))
  let step := fun (r : Except Refuse State) (k : Option Nat) (tid rtid ver : Nat) (src : List UTile) (srcF : Nat)
      (pick : UpdElem → Nat) =>
    match r, k with
    | .ok s, some kf => s.updWrite m tid (nextVer ver) (updOuts at_ lastR lastC res kf rtid ver src srcF pick)
    | r, _ => r
  let w2 := step w1 f.m1 (Upd.m1 x) (Upd.m1 x) 256 b.m1 (f.m1.getD 0) (·.m1)
  let w3 := step w2 f.m2 (Upd.m2 x) (Upd.m2 x) 256 b.m2 (f.m2.getD 0) (·.m2)
  step w3 f.sh (Upd.shadow x) (c.vtid.getD 1 0) vs b.p f.p (·.sh)

/-- One block of an UPDATE: read, checked, evaluated and written (R269 to R274). -/
def State.updStep (s : State) (m i : Nat) (c : Cmd) : State :=
  let x := c.scales.getD 0 0
  let g := updRegion (s.entry (Upd.param x)) (Record.desc c.r 0)
  let q := s.updAt c
  let f := s.updFmts x
  match s.updRead m c q.1 q.2.1 q.2.2.1 q.2.2.2 with
  | .error s1 => s1
  | .ok (s1, b) =>
    let cells := blockCells q.1 q.2.1 q.2.2.1 q.2.2.2
    match badValidity f b cells with
    | some tid => (s1.millEscalate m tid 2 false (Record.serial c.r)).millFail m
    | none =>
      let res := updResults f b c cells
      let els := res.filterMap (·.2)
      match s1.updStore m c f b q (g.1 + g.2.2.1) (g.2.1 + g.2.2.2) res with
      | .error e => (s1.millRefuse m e (Record.serial c.r)).millFail m
      | .ok s2 =>
        let s3 := (s2.flags (Reg.millStat m) (els.foldl (fun a e => a ||| e.fl) 0)).add64 (Reg.obsMill m) els.length
        let c1 := { c with out := c.out + 1, sums := lanesAfter s.free c.sums els }
        let s4 := { s3 with free := s3.free + els.length }
        if c.out = s.updBlocks c then s4.setUpd m i { c1 with complete := true, cnt1 := s4.reg64 (Reg.obsMill m) } else s4.setUpd m i c1

/-- The working UPDATE: claims first, then the look at every page, then block after block. -/
def State.updWork (s : State) (m i : Nat) (c : Cmd) : State :=
  match c.unclaimed with
  | some k => if (s.mill m).pinT.isSome then s else s.updClaim m i c k
  | none =>
    if c.out = 0 then
      match s.updFault c with
      | some f => (s.millRefuse m f (Record.serial c.r)).millFail m
      | none => s.setUpd m i { c with out := 1 }
    else s.updStep m i c

/-- UPDATE (R269): the running UPDATE does one piece of its work; with none running, the next one begins. -/
def execUpdate (m : MillIx) (s : State) : Host.Outcome State Fault Refusal :=
  .next <|
    match s.active 8 m.val with
    | some (i, c) => if s.stRuns 8 m.val && Record.opcode c.r == 1 then s.updWork m.val i c else s
    | none =>
      match s.millHead m.val 1 with
      | .none => s
      | .stop s1 => s1
      | .ready va r => s.updBegin m.val va r

/-! ## Commit of an UPDATE (R275, R276) -/

/-- The three sums of a command. -/
def Cmd.totals (c : Cmd) : List Nat :=
  [laneTotal (c.sums.take 32), laneTotal ((c.sums.drop 32).take 32), laneTotal ((c.sums.drop 64).take 32)]

/-- One telemetry add at the home slice (R275): the Mill stops where the access faults or meets poison. -/
def State.teleAdd (s : State) (m va v : Nat) : Except State State :=
  match s.translate va .atomic with
  | .fault .. => .error ((s.millStop m va).millFail m)
  | .poison => .error ((s.millEscalate m 0 3 false 0).millFail m)
  | .ok pa pc =>
    let s1 := s.atHome (640 + m) 0 va pa 8
    if s1.poisonIn pa 8 then .error ((s1.millEscalate m 0 3 false 0).millFail m)
    else
      let r := atomicFp 0 0 (Memory.read s.mem pa 8) v
      .ok (((s1.storeHome 0 pa pc 8 r.1).flags (Reg.millStat m) r.2).add64 (Reg.atomics (pa / 2 ^ 38)) 1)

/-- The sums added to the telemetry entry at commit (R275). -/
def State.telemetry (s : State) (m : Nat) (c : Cmd) : Except State State :=
  let d := s.mill m
  let l := Record.layer c.r
  if d.nlayers ≤ l then .ok (s.setBit (Reg.millStat m) 24)
  else
    let va := d.tele + ((s.reg (Reg.millStep m)).toNat % 2 ^ d.tlog * d.nlayers + l) * 24
    let t := c.totals
    match s.teleAdd m va (t.getD 0 0) with
    | .error e => .error e
    | .ok s1 =>
      match s1.teleAdd m (va + 8) (t.getD 1 0) with
      | .error e => .error e
      | .ok s2 => s2.teleAdd m (va + 16) (t.getD 2 0)

/-- The sums stop the Mill (R276). -/
def boundHit (c : Cmd) : Bool :=
  let t := c.totals
  let b := v64 (Recipe.bound (c.scales.getD 1 0))
  t.any (fun x => (v64 x).isNan || (v64 x).isInf) || (!b.isZero && b.lt (v64 (t.getD 2 0)))

/-- The commit of the head record of a Mill's queue: telemetry and the bound of an UPDATE (R275 to R277). Where the reeve
finds that the training has diverged, the package Bell rings and the job stops (R432). -/
def State.millHeadCommit (s : State) (m : Nat) (diverged : Bool) (c : Cmd) : State :=
  let done := fun (s : State) =>
    let s1 := (s.millIncs m c.r).traceEnd 8 m c.r 0 (s.countOfEnd 8 c) 0
    let s1 := if c.cleared then s1.spend else s1
    s1.setMill m { s1.mill m with q := (s1.mill m).q.drop 1, lastCommit := s1.now (640 + m) }
  if Record.opcode c.r = 1 then
    match s.telemetry m c with
    | .error s1 => s1
    | .ok s1 =>
      let s2 := done s1
      if boundHit c then
        let s3 := (s2.setMill m { s2.mill m with halted := true }).setBit (Reg.millStat m) 26
        let s4 := s3.note (.bound m (Record.layer c.r) c.va)
        if diverged then s4.reeveStop else s4
      else s2
  else done s

end Sys2Proof.Machine
end

