-- ==== Sys2Proof/Machine/PivotNum.lean ====
section
/-! DEFINITION. The arithmetic of the pivot engine (R201 to R209, R223, R227, R228, R234): FP64 with one rounding each
(R94), every sum and product chain in an order the manual leaves open. -/

namespace Sys2Proof.Machine

/-- What a piece of the engine's work spends and raises: free choices made, flags, FP64 operations (R574). -/
structure Eng where
  free : Nat
  fl : Fl := 0
  ops : Nat := 0
  deriving DecidableEq, Repr

abbrev EngM := StateM Eng

/-- Round a value that an operation counting `k` produced. -/
def roundE (k : Nat) (r : Val × Fl) : EngM Nat := fun s =>
  let e := Fmt.fp64.round r.1
  (e.1, { s with fl := s.fl ||| r.2 ||| e.2, ops := s.ops + k })

def addE (a b : Nat) : EngM Nat := roundE 1 ((v64 a).add (v64 b))
def subE (a b : Nat) : EngM Nat := roundE 1 ((v64 a).sub (v64 b))
def mulE (a b : Nat) : EngM Nat := roundE 1 ((v64 a).mul (v64 b))
def divE (a b : Nat) : EngM Nat := roundE 1 ((v64 a).div (v64 b))
def fmaE (a b c : Nat) : EngM Nat := roundE 2 ((v64 a).fma (v64 b) (v64 c))

def negW (a : Nat) : Nat := a ^^^ 2 ^ 63
def absW (a : Nat) : Nat := a % 2 ^ 63
def oneW : Nat := 0x3FF0000000000000
def isFin (a : Nat) : Bool := (v64 a).isFinite
def ltW (a b : Nat) : Bool := (v64 a).lt (v64 b)
def leW (a b : Nat) : Bool := (v64 a).le (v64 b)
def eqW (a b : Nat) : Bool := (v64 a).eq (v64 b)
/-- The larger and the smaller of two values (R101). -/
def maxW (a b : Nat) : Nat := f64 (minMax true (v64 a) (v64 b)).1
def minW (a b : Nat) : Nat := f64 (minMax false (v64 a) (v64 b)).1
/-- The larger of two values with the flag of a signalling operand (R100). -/
def maxE (a b : Nat) : EngM Nat := roundE 0 (minMax true (v64 a) (v64 b))
/-- The infinity norm of a vector; 0 of an empty one. -/
def normInf (v : List Nat) : Nat := v.foldl (fun a x => maxW a (absW x)) 0

/-- A term of a sum: a value, or a product taken by a fused multiply-add. -/
inductive Term where
  | val (a : Nat)
  | prod (a b : Nat)
  deriving DecidableEq, Repr

/-- One element taken from a list at a free place. -/
def pickE {α : Type} (d : α) (l : List α) : EngM (α × List α) := fun s =>
  let i := Config.freeNat s.free % l.length
  ((l.getD i d, l.take i ++ l.drop (i + 1)), { s with free := s.free + 1 })

/-- Two terms added. -/
def joinE (a b : Term) : EngM Term :=
  match a, b with
  | .val x, .val y => do return .val (← addE x y)
  | .prod x y, .val z => do return .val (← fmaE x y z)
  | .val z, .prod x y => do return .val (← fmaE x y z)
  | .prod x y, .prod z w => do
    let p ← mulE x y
    return .val (← fmaE z w p)

/-- A sum of terms, each step with one rounding, in an order the manual leaves open: a free choice. -/
def sumFrom : Nat → List Term → EngM Nat
  | _, [] => pure 0
  | _, [.val a] => pure a
  | _, [.prod a b] => mulE a b
  | 0, _ => pure 0
  | n + 1, l => do
    let p ← pickE (.val 0) l
    let q ← pickE (.val 0) p.2
    let t ← joinE p.1 q.1
    sumFrom n (t :: q.2)

def sumE (l : List Term) : EngM Nat := sumFrom l.length l

/-- A component of a vector. -/
def at0 (v : List Nat) (i : Nat) : Nat := v.getD i 0

/-! ## The problem (R201 to R204) -/

namespace Qp

def eqRow (p : Qp) (i : Nat) : Bool := eqW (at0 p.l i) (at0 p.u i)
def hasL (p : Qp) (i : Nat) : Bool := !p.eqRow i && isFin (at0 p.l i)
def hasU (p : Qp) (i : Nat) : Bool := !p.eqRow i && isFin (at0 p.u i)

/-- Terms of (Px)_i, (Ax)_i and (Aᵀy)_j. -/
def pTerms (p : Qp) (x : List Nat) (i : Nat) : List Term :=
  p.p.filterMap fun e =>
    if e.1 = i then some (.prod e.2.2 (at0 x e.2.1))
    else if e.2.1 = i then some (.prod e.2.2 (at0 x e.1))
    else none
def aTerms (p : Qp) (x : List Nat) (i : Nat) : List Term :=
  p.a.filterMap fun e => if e.1 = i then some (.prod e.2.2 (at0 x e.2.1)) else none
def atTerms (p : Qp) (y : List Nat) (j : Nat) : List Term :=
  p.a.filterMap fun e => if e.2.1 = j then some (.prod e.2.2 (at0 y e.1)) else none

/-- The conditions of R202 on the data. -/
def dataOk (p : Qp) : Bool :=
  p.p.all (fun e => isFin e.2.2) && p.a.all (fun e => isFin e.2.2) && p.q.all isFin &&
  (upTo p.m).all fun i =>
    let l := v64 (at0 p.l i)
    let u := v64 (at0 p.u i)
    !l.isNan && !u.isNan && l.le u && l != .inf false && u != .inf true && !(l == .inf true && u == .inf false)

end Qp

/-- The multiplier y_i (R203): λ_u - λ_l, and the free multiplier of an equality row. -/
def Iter.yAt (t : Iter) (p : Qp) (i : Nat) : EngM Nat :=
  if p.eqRow i then pure (at0 t.ye i)
  else if !p.hasU i then pure (negW (at0 t.ll i))
  else if !p.hasL i then pure (at0 t.lu i)
  else subE (at0 t.lu i) (at0 t.ll i)

/-- Slack and dual of every finite side of a row that is not an equality row. -/
def Iter.pairs (t : Iter) (p : Qp) : List (Nat × Nat) :=
  ((upTo p.m).filter p.hasL).map (fun i => (at0 t.sl i, at0 t.ll i)) ++
    ((upTo p.m).filter p.hasU).map fun i => (at0 t.su i, at0 t.lu i)

/-- The mean of products, 0 when there are none (R205). -/
def meanE (ps : List (Nat × Nat)) : EngM Nat :=
  if ps.isEmpty then pure 0
  else do
    let t ← sumE (ps.map fun x => .prod x.1 x.2)
    divE t (f64 (.ofNat ps.length))

/-- Θ_i (R204). -/
def thetaAt (p : Qp) (t : Iter) (i : Nat) : EngM Nat :=
  if p.eqRow i then pure 0
  else do
    let a ← if p.hasL i then divE (at0 t.ll i) (at0 t.sl i) else pure 0
    let b ← if p.hasU i then divE (at0 t.lu i) (at0 t.su i) else pure 0
    let c ← if p.hasL i && p.hasU i then addE a b else pure (if p.hasL i then a else b)
    divE oneW c

/-! ## Vector phases (R213) -/

/-- A vector phase: it writes vector `dst` of `len` items of `width` elements each, item after item, each from the vectors
written before it. -/
structure VPhase where
  dst : Nat
  len : Nat
  width : Nat := 1
  item : PMap (List Nat) → Nat → EngM (List Nat)

/-- A phase whose items are single elements. -/
def vphase (dst len : Nat) (el : PMap (List Nat) → Nat → EngM Nat) : VPhase :=
  { dst := dst, len := len, item := fun w i => do return [← el w i] }

/-- Vector k, and element i of it. -/
def vecOf (w : PMap (List Nat)) (k : Nat) : List Nat := PMap.get [] w k
def vecAt (w : PMap (List Nat)) (k i : Nat) : Nat := at0 (vecOf w k) i

/-- Items of a phase between two stop points: those of 512 elements, at least one. -/
def VPhase.block (f : VPhase) : Nat := max 1 (512 / f.width)

/-- n items of a phase from item i on. -/
def VPhase.runE (f : VPhase) (i : Nat) : Nat → PMap (List Nat) → EngM (PMap (List Nat))
  | 0, w => pure w
  | n + 1, w => do
    let v ← f.item w i
    f.runE (i + 1) n (PMap.put w f.dst (vecOf w f.dst ++ v))

/-- The engine runs on to the next stop point of a list of phases: the vectors, the phase it then stands in, the items of it
that are done. -/
def blockE (fs : List VPhase) (at_ done : Nat) (w : PMap (List Nat)) : EngM (PMap (List Nat) × Nat × Nat) :=
  match fs[at_]? with
  | none => pure (w, at_, done)
  | some f => do
    let n := min f.block (f.len - done)
    let w1 ← f.runE done n (if done = 0 then PMap.put w f.dst [] else w)
    return if f.len ≤ done + n then (w1, at_ + 1, 0) else (w1, at_, done + n)

/-! ## Measures (R206): vectors 0 to 11 -/

/-- y, Ax, the residuals of R206, Px, Aᵀy, then μ, the objective and ε. -/
def measurePhases (p : Qp) (t : Iter) : List VPhase :=
  let rows := upTo p.m
  let cols := upTo p.n
  [ vphase 0 p.m fun _ i => t.yAt p i,
    vphase 1 p.m fun _ i => sumE (p.aTerms t.x i),
    vphase 2 p.m fun _ i => sumE (.val (negW (at0 t.z i)) :: p.aTerms t.x i),
    vphase 3 p.m fun _ i =>
      if p.hasL i then sumE [.val (at0 t.z i), .val (negW (at0 p.l i)), .val (negW (at0 t.sl i))] else pure 0,
    vphase 4 p.m fun _ i =>
      if p.hasU i then sumE [.val (at0 p.u i), .val (negW (at0 t.z i)), .val (negW (at0 t.su i))] else pure 0,
    vphase 5 p.n fun _ i => sumE (p.pTerms t.x i),
    vphase 6 p.n fun w i => sumE (p.atTerms (vecOf w 0) i),
    vphase 7 p.n fun w i => sumE (.val (at0 p.q i) :: (p.pTerms t.x i ++ p.atTerms (vecOf w 0) i)),
    vphase 8 1 fun _ _ => meanE (t.pairs p),
    vphase 9 1 fun w _ => sumE (cols.map fun i => .prod (vecAt w 5 i) (at0 t.x i)),
    vphase 10 1 fun w _ => sumE (.prod 0x3FE0000000000000 (vecAt w 9 0) :: cols.map fun i => .prod (at0 p.q i) (at0 t.x i)),
    vphase 11 1 fun w _ => do
      let dp ← addE oneW (maxW (normInf (vecOf w 1)) (normInf (rows.map (at0 t.z))))
      let ep ← divE (maxW (normInf (vecOf w 2)) (maxW (normInf (vecOf w 3)) (normInf (vecOf w 4)))) dp
      let dd ← addE oneW (maxW (normInf (vecOf w 5)) (maxW (normInf (vecOf w 6)) (normInf p.q)))
      let ed ← divE (normInf (vecOf w 7)) dd
      let dg ← addE oneW (absW (vecAt w 10 0))
      let eg ← divE (vecAt w 8 0) dg
      return maxW ep (maxW ed eg) ]

/-! ## The factor (R204, R208) -/

/-- σ and δ. -/
def regW : Nat := (1023 - 32) * 2 ^ 52

/-- An entry of K. -/
def kEntry (p : Qp) (th : List Nat) (r c : Nat) : EngM Nat :=
  let find := fun (l : List (Nat × Nat × Nat)) (i j : Nat) =>
    match l.find? fun e => e.1 == i && e.2.1 == j with | some e => e.2.2 | none => 0
  if r < p.n ∧ c < p.n then
    if r = c then addE (find p.p r r) regW else pure (find p.p (min r c) (max r c))
  else if r < p.n then pure (find p.a (c - p.n) r)
  else if c < p.n then pure (find p.a (r - p.n) c)
  else if r = c then do return negW (← addE (at0 th (r - p.n)) regW)
  else pure 0

/-- Θ into vector 12, then the permuted matrix into vector 13, column by column. -/
def formPhases (p : Qp) (t : Iter) : List VPhase :=
  let n := p.n + p.m
  [ vphase 12 p.m fun _ i => thetaAt p t i,
    { dst := 13, len := n, width := n,
      item := fun w j => (upTo n).mapM fun i => kEntry p (vecOf w 12) (at0 p.perm i) (at0 p.perm j) } ]

/-- The matrix formed, its largest diagonal magnitude, nothing factored. -/
def formed (p : Qp) (w : PMap (List Nat)) : Fact :=
  let n := p.n + p.m
  let m := (upTo n).map fun j => (upTo n).map fun i => vecAt w 13 (j * n + i)
  { w := m, l := List.replicate n [], d := List.replicate n 0, th := vecOf w 12
    dmax := (upTo n).foldl (fun a j => maxW a (absW ((m.getD j []).getD j 0))) 0 }

/-- The pivot that is used, and whether it replaced a tiny one (R208). -/
def pivotE (tau dmax d : Nat) : EngM (Nat × Bool) := do
  let lim ← mulE (f64 (.fin false 1 (-(tau : Int)))) dmax
  if ltW (absW d) lim then
    return (if (v64 d).isZero then lim else if (v64 d).sign then negW lim else lim, true)
  else return (d, false)

/-- Columns ks applied to the entries i ≥ j of column j, in the working matrix. -/
def applyE (f : Fact) (ks : List Nat) (j : Nat) : EngM Fact := do
  let n := f.d.length
  let col ← (upTo n).mapM fun i =>
    if i < j then pure (at0 (f.w.getD j []) i)
    else
      sumE (.val (at0 (f.w.getD j []) i) :: ks.map fun k => .prod (negW (at0 (f.w.getD k []) i)) (at0 (f.l.getD k []) j))
  return { f with w := f.w.set j col }

/-- Column j is factored: pivot and column of L. A replacement is counted. -/
def factorColE (tau : Nat) (f : Fact) (j : Nat) : EngM Fact := do
  let n := f.d.length
  let w := f.w.getD j []
  let d ← pivotE tau f.dmax (at0 w j)
  let l ← (upTo n).mapM fun i => if i < j then pure 0 else if i = j then pure oneW else divE (at0 w i) d.1
  return { f with l := f.l.set j l, d := f.d.set j d.1, done := f.done ++ [j], pert := f.pert + b2n d.2 }

/-- Columns c0 to c0 + n - 1 are factored, each after the earlier ones of the range (R219). -/
def factE (tau c0 : Nat) : Nat → Fact → EngM Fact
  | 0, f => pure f
  | n + 1, f => do
    let r ← factE tau c0 n f
    let g ← applyE r ((upTo n).map (c0 + ·)) (c0 + n)
    factorColE tau g (c0 + n)

/-- Column j of a factorisation in one engine: every earlier column is applied to it, and it is factored. -/
def nextColE (tau : Nat) (f : Fact) (j : Nat) : EngM Fact := do factorColE tau (← applyE f (upTo j) j) j

/-- Columns c0 to c0 + n - 1 applied to each column of a block (R219). -/
def updE (c0 n : Nat) : List Nat → Fact → EngM Fact
  | [], f => pure f
  | j :: js, f => do
    let g ← applyE f ((upTo n).map (c0 + ·)) j
    updE c0 n js g

/-- Every entry of L and D is finite (R209). -/
def Fact.finite (f : Fact) : Bool := f.d.all isFin && f.l.all fun c => c.all isFin

/-- Terms of row i of K with σ = δ = 0 applied to w. -/
def k0Terms (p : Qp) (th w : List Nat) (i : Nat) : List Term :=
  if i < p.n then p.pTerms w i ++ p.atTerms (w.drop p.n) i
  else p.aTerms w (i - p.n) ++ [.prod (negW (at0 th (i - p.n))) (at0 w i)]

def negTerm (x : Term) : Term := match x with | .prod a b => .prod (negW a) b | .val a => .val (negW a)

/-- One solve with the factor: vector `rhs`, in the order of K, permuted and substituted forward into b, divided into b + 1,
substituted backward into b + 2 (last element first), and put back into the order of K in b + 3. -/
def solveOnce (p : Qp) (f : Fact) (rhs b : Nat) : List VPhase :=
  let n := p.n + p.m
  [ vphase b n fun w i =>
      sumE (.val (vecAt w rhs (at0 p.perm i)) :: (upTo i).map fun j => .prod (negW (at0 (f.l.getD j []) i)) (vecAt w b j)),
    vphase (b + 1) n fun w k => divE (vecAt w b k) (at0 f.d k),
    vphase (b + 2) n fun w k =>
      let l := f.l.getD (n - 1 - k) []
      sumE (.val (vecAt w (b + 1) (n - 1 - k)) :: (upTo k).map fun j => .prod (negW (at0 l (n - 1 - j))) (vecAt w (b + 2) j)),
    vphase (b + 3) n fun w i => pure (vecAt w (b + 2) (n - 1 - p.perm.idxOf i)) ]

/-- A solve with one step of iterative refinement against K with σ = δ = 0 (R204): vectors b to b + 9, the result in b + 9. -/
def solvePhases (p : Qp) (f : Fact) (th : PMap (List Nat) → List Nat) (rhs b : Nat) : List VPhase :=
  let n := p.n + p.m
  solveOnce p f rhs b ++
    [ vphase (b + 4) n fun w i => sumE (.val (vecAt w rhs i) :: (k0Terms p (th w) (vecOf w (b + 3)) i).map negTerm) ] ++
    solveOnce p f (b + 4) (b + 5) ++
    [ vphase (b + 9) n fun w i => addE (vecAt w (b + 3) i) (vecAt w (b + 8) i) ]

/-! ## A step (R205) -/

/-- A step of every variable. -/
structure Step where
  dx : List Nat := []
  dz : List Nat := []
  dy : List Nat := []
  dsl : List Nat := []
  dll : List Nat := []
  dsu : List Nat := []
  dlu : List Nat := []
  deriving DecidableEq, Repr

/-- The step whose vectors stand from b on. -/
def Step.of (p : Qp) (w : PMap (List Nat)) (b : Nat) : Step :=
  { dx := (vecOf w (b + 13)).take p.n, dy := (vecOf w (b + 13)).drop p.n, dz := vecOf w (b + 14), dsl := vecOf w (b + 15)
    dsu := vecOf w (b + 16), dll := vecOf w (b + 17), dlu := vecOf w (b + 18) }

/-- s · λ target of a side: the centring target, less the product, less the second-order term. -/
def targetTerms (tgt s lam ds dlam : Nat) : List Term := [.val tgt, .prod (negW s) lam, .prod (negW ds) dlam]

/-- The Newton step to complementarity `tgt`, with the second-order term of `o` (DEDUCED, assumption 55: the elimination of R203's
conditions that gives the matrix of R204): right-hand sides in b to b + 3, the solve in b + 4 to b + 13, the other
variables' steps in b + 14 to b + 18. Vector 0 holds y. -/
def newtonPhases (p : Qp) (t : Iter) (f : Fact) (tgt : PMap (List Nat) → Nat) (o : PMap (List Nat) → Step) (b : Nat) : List VPhase :=
  let tl := fun (w : PMap (List Nat)) (i : Nat) =>
    targetTerms (tgt w) (at0 t.sl i) (at0 t.ll i) (at0 (o w).dsl i) (at0 (o w).dll i)
  let tu := fun (w : PMap (List Nat)) (i : Nat) =>
    targetTerms (tgt w) (at0 t.su i) (at0 t.lu i) (at0 (o w).dsu i) (at0 (o w).dlu i)
  [ vphase b p.m fun _ i =>
      if p.hasL i then sumE [.val (at0 t.z i), .val (negW (at0 p.l i)), .val (negW (at0 t.sl i))] else pure 0,
    vphase (b + 1) p.m fun _ i =>
      if p.hasU i then sumE [.val (at0 p.u i), .val (negW (at0 t.z i)), .val (negW (at0 t.su i))] else pure 0,
    vphase (b + 2) p.m fun w i => do
      let a ← if p.hasU i then do
          let v ← sumE (tu w i ++ [.prod (negW (at0 t.lu i)) (vecAt w (b + 1) i)])
          divE v (at0 t.su i)
        else pure 0
      let c ← if p.hasL i then do
          let v ← sumE (tl w i ++ [.prod (negW (at0 t.ll i)) (vecAt w b i)])
          divE v (at0 t.sl i)
        else pure 0
      if p.hasL i && p.hasU i then subE a c else pure (if p.hasU i then a else negW c),
    vphase (b + 3) (p.n + p.m) fun w k =>
      if k < p.n then sumE (((.val (at0 p.q k) :: (p.pTerms t.x k ++ p.atTerms (vecOf w 0) k))).map negTerm)
      else
        let i := k - p.n
        sumE (.val (at0 t.z i) :: .prod (negW (at0 f.th i)) (vecAt w (b + 2) i) :: (p.aTerms t.x i).map negTerm) ] ++
    solvePhases p f (fun _ => f.th) (b + 3) (b + 4) ++
    [ vphase (b + 14) p.m fun w i =>
        if p.eqRow i then pure 0
        else do
          let v ← subE (vecAt w (b + 13) (p.n + i)) (vecAt w (b + 2) i)
          mulE (at0 f.th i) v,
      vphase (b + 15) p.m fun w i => if p.hasL i then addE (vecAt w (b + 14) i) (vecAt w b i) else pure 0,
      vphase (b + 16) p.m fun w i => if p.hasU i then subE (vecAt w (b + 1) i) (vecAt w (b + 14) i) else pure 0,
      vphase (b + 17) p.m fun w i =>
        if p.hasL i then do
          let v ← sumE (tl w i ++ [.prod (negW (at0 t.ll i)) (vecAt w (b + 15) i)])
          divE v (at0 t.sl i)
        else pure 0,
      vphase (b + 18) p.m fun w i =>
        if p.hasU i then do
          let v ← sumE (tu w i ++ [.prod (negW (at0 t.lu i)) (vecAt w (b + 16) i)])
          divE v (at0 t.su i)
        else pure 0 ]

/-- Slacks and duals with their steps. -/
def stepPairs (p : Qp) (t : Iter) (d : Step) : List (Nat × Nat) :=
  ((upTo p.m).filter p.hasL).flatMap (fun i => [(at0 t.sl i, at0 d.dsl i), (at0 t.ll i, at0 d.dll i)]) ++
    ((upTo p.m).filter p.hasU).flatMap fun i => [(at0 t.su i, at0 d.dsu i), (at0 t.lu i, at0 d.dlu i)]

/-- The largest step that keeps every slack and dual at or above 0; none when no step ends it. -/
def ratioE (vs : List (Nat × Nat)) : EngM (Option Nat) :=
  vs.foldlM (fun (m : Option Nat) v =>
    if ltW v.2 0 then do
      let r ← divE v.1 (negW v.2)
      return some (match m with | none => r | some x => minW x r)
    else return m) none

/-- v + a d, an element. -/
def moveAt (a : Nat) (v d : List Nat) (i : Nat) : EngM Nat := fmaE a (at0 d i) (at0 v i)

def Step.finite (d : Step) : Bool := (d.dx ++ d.dz ++ d.dy ++ d.dsl ++ d.dll ++ d.dsu ++ d.dlu).all isFin
def Iter.finite (t : Iter) : Bool := (t.x ++ t.z ++ t.ye ++ t.sl ++ t.ll ++ t.su ++ t.lu).all isFin

/-- The affine step, in the vectors from 20 on. -/
def affinePhases (p : Qp) (t : Iter) (f : Fact) : List VPhase := newtonPhases p t f (fun _ => 0) (fun _ => {}) 20

/-- Products of pairs of consecutive values. -/
def pairUp (v : List Nat) : List (Nat × Nat) := (upTo (v.length / 2)).map fun k => (at0 v (2 * k), at0 v (2 * k + 1))

/-- The step length and mean complementarity of the affine step, the target, and the combined step, in the vectors from 40
on. -/
def combinedPhases (p : Qp) (t : Iter) (f : Fact) (mu : Nat) : List VPhase :=
  [ vphase 60 1 fun w _ => do
      let r ← ratioE (stepPairs p t (Step.of p w 20))
      return match r with | none => oneW | some r => minW oneW r,
    vphase 61 1 fun w _ => do
      let v ← (stepPairs p t (Step.of p w 20)).mapM fun v => fmaE (vecAt w 60 0) v.2 v.1
      meanE (pairUp v),
    vphase 62 1 fun w _ => do
      let c ← if (t.pairs p).isEmpty then pure 0
        else do
          let q ← divE (vecAt w 61 0) mu
          let q2 ← mulE q q
          mulE q2 q
      mulE c mu ] ++
    newtonPhases p t f (fun w => vecAt w 62 0) (fun w => Step.of p w 20) 40

/-- The step length, and the iterate moved by it, in the vectors from 63 on. -/
def movePhases (p : Qp) (t : Iter) : List VPhase :=
  let mv := fun (k : Nat) (v : List Nat) (d : Step → List Nat) =>
    vphase k v.length fun w i => moveAt (vecAt w 63 0) v (d (Step.of p w 40)) i
  [ vphase 63 1 fun w _ => do
      match ← ratioE (stepPairs p t (Step.of p w 40)) with
      | none => pure oneW
      | some r => do let v ← mulE 0x3FEFAE147AE147AE r; pure (minW oneW v),
    mv 64 t.x Step.dx, mv 65 t.z Step.dz, mv 66 t.ye Step.dy, mv 67 t.sl Step.dsl, mv 68 t.ll Step.dll, mv 69 t.su Step.dsu,
    mv 70 t.lu Step.dlu ]

/-- The iterate that the update has made. -/
def Iter.of (w : PMap (List Nat)) : Iter :=
  { x := vecOf w 64, z := vecOf w 65, ye := vecOf w 66, sl := vecOf w 67, ll := vecOf w 68, su := vecOf w 69, lu := vecOf w 70 }

/-! ## Start and shift (R223, R227 to R229) -/

/-- A shift of one vector with stage sizes (R228). -/
def shiftFrom : List Nat → List Nat → List Nat
  | [], v => v
  | [_], v => v
  | a :: b :: ss, v =>
    let old := v.take a
    let nxt := (v.drop a).take b
    let k := min a b
    (nxt.take k ++ old.drop k) ++ shiftFrom (b :: ss) (v.drop a)

def Qp.shiftX (p : Qp) (v : List Nat) : List Nat := shiftFrom (p.stages.map (·.1)) v
def Qp.shiftY (p : Qp) (v : List Nat) : List Nat := shiftFrom (p.stages.map (·.2)) v

/-- A vector of a given length. -/
def fit (n : Nat) (v : List Nat) : List Nat := (upTo n).map (at0 v)

/-- The cold start (R227): x, y and z 0, z at an equality row its bound, slacks and duals 1. -/
def coldStart (p : Qp) : Iter :=
  let side := fun (b : Nat → Bool) => (upTo p.m).map fun i => if b i then oneW else 0
  { x := List.replicate p.n 0, z := (upTo p.m).map fun i => if p.eqRow i then at0 p.l i else 0
    ye := List.replicate p.m 0, sl := side p.hasL, ll := side p.hasL, su := side p.hasU, lu := side p.hasU }

/-- The warm start from a point (R227). -/
def warmStartE (p : Qp) (th : Nat) (x y : List Nat) : EngM Iter := do
  let rows := upTo p.m
  let z ← rows.mapM fun i => if p.eqRow i then pure (at0 p.l i) else sumE (p.aTerms x i)
  let sl ← rows.mapM fun i => if p.hasL i then do maxE (← subE (at0 z i) (at0 p.l i)) th else pure 0
  let su ← rows.mapM fun i => if p.hasU i then do maxE (← subE (at0 p.u i) (at0 z i)) th else pure 0
  let ll ← rows.mapM fun i => if p.hasL i then maxE (negW (at0 y i)) th else pure 0
  let lu ← rows.mapM fun i => if p.hasU i then maxE (at0 y i) th else pure 0
  return { x := x, z := z, ye := y, sl := sl, su := su, ll := ll, lu := lu }

/-! ## The backward pass (R234) -/

/-- The outputs of a GRAD. -/
structure Grads where
  q : List Nat
  p : List Nat
  a : List Nat
  l : List Nat
  u : List Nat
  deriving DecidableEq, Repr

/-- GRAD's solve for w: the final Θ in vector 12, -g in vector 14, from vectors 15 (g_x) and 16 (g_y); w in vector 29. -/
def gradSolve (p : Qp) (sl : Slot) : List VPhase :=
  [ vphase 12 p.m fun _ i => thetaAt p sl.iter i,
    vphase 14 (p.n + p.m) fun w k => pure (negW (if k < p.n then vecAt w 15 k else vecAt w 16 (k - p.n))) ] ++
    solvePhases p sl.fact (fun w => vecOf w 12) 14 20

/-- The outputs of GRAD from w, in vectors 31 to 34. -/
def gradOuts (p : Qp) (sl : Slot) : List VPhase :=
  let wx := fun (w : PMap (List Nat)) (i : Nat) => vecAt w 29 i
  let wy := fun (w : PMap (List Nat)) (i : Nat) => vecAt w 29 (p.n + i)
  let half : Nat := 0x3FE0000000000000
  let weight := fun (has : Bool) (lam s th : Nat) =>
    if has then (do let r ← divE lam s; mulE r th : EngM Nat) else pure 0
  [ vphase 31 p.p.length fun w k =>
      let e := p.p.getD k (0, 0, 0)
      if e.1 = e.2.1 then mulE (wx w e.1) (at0 sl.x e.1)
      else sumE [.prod (wx w e.1) (at0 sl.x e.2.1), .prod (at0 sl.x e.1) (wx w e.2.1)],
    vphase 32 p.a.length fun w k =>
      let e := p.a.getD k (0, 0, 0)
      sumE [.prod (wy w e.1) (at0 sl.x e.2.1), .prod (at0 sl.y e.1) (wx w e.2.1)],
    vphase 33 p.m fun w i => do
      let o ← if p.eqRow i then pure half else weight (p.hasL i) (at0 sl.iter.ll i) (at0 sl.iter.sl i) (vecAt w 12 i)
      mulE (negW o) (wy w i),
    vphase 34 p.m fun w i => do
      let o ← if p.eqRow i then pure half else weight (p.hasU i) (at0 sl.iter.lu i) (at0 sl.iter.su i) (vecAt w 12 i)
      mulE (negW o) (wy w i) ]

/-- The outputs that a GRAD has formed. -/
def Grads.of (p : Qp) (w : PMap (List Nat)) : Grads :=
  { q := (vecOf w 29).take p.n, p := vecOf w 31, a := vecOf w 32, l := vecOf w 33, u := vecOf w 34 }

end Sys2Proof.Machine
end

