-- ==== Sys2Proof/Machine/Pivot.lean ====
section
/-! DEFINITION. The PIVOT station: SOLVE, GRAD, the schedule steps and deadlines (R199 to R240). -/

namespace Sys2Proof.Machine

/-! ## The problem descriptor (R214, R215) -/

namespace PDesc

def version (d : BitVec 2048) : Nat := bits d.toNat 0 16
def warm (d : BitVec 2048) : Bool := bit d.toNat 16
def staged (d : BitVec 2048) : Bool := bit d.toNat 17
def tauExp (d : BitVec 2048) : Nat := bits d.toNat 24 8
def maxIt (d : BitVec 2048) : Nat := if bits d.toNat 32 16 = 0 then 50 else bits d.toNat 32 16
def nvar (d : BitVec 2048) : Nat := bits d.toNat 64 32
def ncon (d : BitVec 2048) : Nat := bits d.toNat 96 32
def deadline (d : BitVec 2048) : Nat := bits d.toNat 128 64
/-- TOL_CONV, TOL_ACC and WS_MARGIN with their defaults (R207, R214). -/
def tolConv (d : BitVec 2048) : Nat := if bits d.toNat 192 64 = 0 then (1023 - 30) * 2 ^ 52 else bits d.toNat 192 64
def tolAcc (d : BitVec 2048) : Nat := if bits d.toNat 256 64 = 0 then (1023 - 16) * 2 ^ 52 else bits d.toNat 256 64
def margin (d : BitVec 2048) : Nat := if bits d.toNat 320 64 = 0 then (1023 - 10) * 2 ^ 52 else bits d.toNat 320 64
/-- Reference k: 0 PATTERN, 1 STATE, 2 PVAL, 3 QVEC, 4 AVAL, 5 LVEC, 6 UVEC, 7 XOUT, 8 YOUT, 9 STAGES, 10 GX, 11 GY,
12 GQ, 13 GP, 14 GA, 15 GL, 16 GU. -/
def ref (d : BitVec 2048) (k : Nat) : Nat := bits d.toNat (384 + 64 * k) 64
def group (d : BitVec 2048) (i : Nat) : Nat := bits d.toNat (1472 + 16 * i) 16

end PDesc

/-- TENSOR_ID of a reference (R215). -/
def refTid (r : Nat) : Nat := bits r 0 24

/-- Row and column of tile i from a reference, in row-major tile order of its tensor (R216). -/
def State.refPos (s : State) (r i : Nat) : Nat × Nat :=
  let tc := max 1 (Entry.tcols (s.entry (refTid r)))
  let x := bits r 24 20 * tc + bits r 44 20 + i
  (x / tc, x % tc)

/-- What the engine keeps in the slot at a physical address. -/
def State.slotAt (s : State) (pa : Nat) : Slot := PMap.get {} s.pvSlots pa

/-- How reading a problem ends early: the station stopped, or the data are bad (BADDATA). -/
inductive PvEnd where
  | stop (s : State)
  | bad (s : State)
  deriving DecidableEq, Repr

/-! ## Reading (R50 to R52, R214, R216) -/

/-- Tile i from a reference, read by station st of unit u and checked against a format. The table entry, and the version
record of a versioned tensor, are read first. -/
def State.refTile (s : State) (st u : Nat) (c : Cmd) (r i fmt : Nat) : Except PvEnd (State × Tile) :=
  let p := s.refPos r i
  let sr := Record.serial c.r
  let unit := cacheOf st u
  let d : Desc := { kind := 1, orient := false, port := 0, tid := refTid r, row0 := p.1, col0 := p.2, nrows := 1, ncols := 1 }
  let s0 := s.seenEntries unit [d.tid]
  match s.entryFault [d.tid] with
  | some f => .error (.stop (s0.refuse st u f 0 sr))
  | none =>
    let s1 := if s.versioned d.tid then s0.seen unit 0 (Entry.verAddr (s.entry d.tid)) 64 else s0
    match s.select d with
    | .poison => .error (.stop (s1.escalate st u d.tid 3 false sr))
    | .fault a k q => .error (.stop (s1.pageFault st u a k q sr))
    | .ok v =>
      let va := s.tileVa d v.1 0
      match s1.arriveMem st u c { tid := v.2, pos := some p, fmt := some fmt } v.1 va.1 va.2 (fun _ => none) false with
      | .ok s2 t => .ok (s2, t)
      | .stop s2 => .error (.stop s2)
      | .wait => .error (.stop s1)
      | .ask _ => .error (.stop s1)

/-- Tile i from a reference of a problem. -/
def State.pvTile (s : State) (h : Nat) (c : Cmd) (r i fmt : Nat) : Except PvEnd (State × Tile) := s.refTile 6 h c r i fmt

/-- Tiles i, i + 1, … from a reference: their payloads as one number. -/
def State.pvTiles (s : State) (h : Nat) (c : Cmd) (r fmt : Nat) : Nat → Nat → Except PvEnd (State × Nat)
  | 0, _ => .ok (s, 0)
  | n + 1, i =>
    match s.pvTile h c r i fmt with
    | .error e => .error e
    | .ok (s1, t) =>
      match s1.pvTiles h c r fmt n (i + 1) with
      | .error e => .error e
      | .ok (s2, v) => .ok (s2, t.pay.toNat + v <<< 32768)

/-- An array of n FP64 elements (R216). -/
def State.pvArray (s : State) (h : Nat) (c : Cmd) (r n : Nat) : Except PvEnd (State × List Nat) :=
  if n = 0 ∨ refTid r = 0 then .ok (s, [])
  else
    match s.pvTiles h c r 0 ((n + 511) / 512) 0 with
    | .error e => .error e
    | .ok (s1, v) => .ok (s1, (upTo n).map fun k => bits v (64 * k) 64)

/-- The first nb bytes of a byte record. -/
def State.pvBytes (s : State) (h : Nat) (c : Cmd) (r nb : Nat) : Except PvEnd (State × Nat) :=
  s.pvTiles h c r 6 ((nb + 4095) / 4096) 0

/-- 32-bit word k of a byte record from an offset. -/
def word32 (v ofs k : Nat) : Nat := bits v (8 * ofs + 32 * k) 32

/-- Entries of a compressed sparse column pattern (R218) with values: row, column, value. -/
def cscEntries (v ofs n : Nat) (vals : List Nat) : List (Nat × Nat × Nat) :=
  (upTo n).flatMap fun j =>
    let a := word32 v ofs j
    let b := word32 v ofs (j + 1)
    (upTo (b - a)).map fun k => (word32 v ofs (n + 1 + a + k), j, at0 vals (a + k))

/-- The pattern header's fields (R218). -/
structure PatHead where
  mode : Nat
  hands : Nat
  n : Nat
  m : Nat
  nnzP : Nat
  nnzA : Nat
  nnzL : Nat
  stateTiles : Nat
  ofsP : Nat
  ofsA : Nat
  ofsPerm : Nat
  ofsSched : Nat
  version : Nat
  deriving DecidableEq, Repr

def PatHead.of (v : Nat) : PatHead :=
  { version := bits v 0 16, mode := bits v 16 8, hands := bits v 24 8, n := bits v 32 32, m := bits v 64 32, nnzP := bits v 96 32,
    nnzA := bits v 128 32, nnzL := bits v 160 32, stateTiles := bits v 256 32, ofsP := bits v 288 32, ofsA := bits v 320 32,
    ofsPerm := bits v 352 32, ofsSched := bits v 384 32 }

/-- Bytes that a SOLVE needs of the pattern, its own step list aside. -/
def PatHead.bytes (p : PatHead) : Nat :=
  max (max 64 (p.ofsP + 4 * (p.n + 1 + p.nnzP)))
    (max (p.ofsA + 4 * (p.n + 1 + p.nnzA))
      (max (p.ofsPerm + 4 * (p.n + p.m)) (if p.mode = 1 then p.ofsSched + 8 * p.hands else 0)))

/-- The limits of R210 and the agreement with descriptor and command (R214, R218, R224). -/
def PatHead.ok (p : PatHead) (d : BitVec 2048) (mode rank h : Nat) : Bool :=
  p.version == 1 && p.mode == mode && p.n == PDesc.nvar d && p.m == PDesc.ncon d && decide (1 ≤ p.n) &&
  (if p.mode = 0 then
     p.hands == 1 && decide (p.n + p.m ≤ 256) && decide (p.nnzL + 12 * (p.n + p.m) ≤ 7168)
   else
     decide (1 ≤ p.hands) && decide (p.hands ≤ 16) && decide (p.n + p.m ≤ 65536) && decide (p.nnzL ≤ 4194304) &&
     decide (rank < p.hands) && PDesc.group d rank == h % 160)

/-- References that may not be absent are present, and every present one names a tensor (R215). -/
def State.refsOk (s : State) (d : BitVec 2048) (p : PatHead) : Bool :=
  let absent := fun (k : Nat) => refTid (PDesc.ref d k) == 0
  let may := fun (k : Nat) =>
    match k with
    | 2 => p.nnzP == 0
    | 4 => p.m == 0
    | 5 => p.m == 0
    | 6 => p.m == 0
    | 8 => p.m == 0
    | 9 => !PDesc.staged d
    | 0 => false
    | 1 => false
    | 3 => false
    | 7 => false
    | 10 => false
    | _ => true
  (upTo 17).all fun k => if absent k then may k else s.names (refTid (PDesc.ref d k))

/-! ## The slot (R220 to R223) -/

/-- A vector of free values: the contents of a STATE area that the model does not hold. -/
def freeVec (base n : Nat) : List Nat := (upTo n).map fun i => Config.freeNat (base + i) % 2 ^ 64

/-- The slot of a problem: physical address, result record, stored solution; the solution is none for an empty slot. -/
def State.readSlot (s : State) (h : Nat) (c : Cmd) (d : BitVec 2048) (n m : Nat) :
    Except PvEnd (State × Option Nat × Nat × Option Slot) :=
  let r := PDesc.ref d 1
  if refTid r = 0 ∨ !s.names (refTid r) then .ok (s, none, 0, none)
  else
    match s.pvTile h c r 0 6 with
    | .error e => .error e
    | .ok (s1, t) =>
      let p := s1.refPos r 0
      match s1.translate (Entry.payAddr (s1.entry (refTid r)) 0 p.1 p.2) .read with
      | .fault .. => .ok (s1, none, 0, none)
      | .poison => .ok (s1, none, 0, none)
      | .ok pa _ =>
        let rec0 := t.pay.toNat % 2 ^ 512
        if bits rec0 0 8 = 0 then .ok (s1, some pa, rec0, none)
        else
          match PMap.find s1.pvSlots pa with
          | some x => .ok (s1, some pa, rec0, some x)
          | none =>
            .ok ({ s1 with free := s1.free + n + m }, some pa, rec0,
              some { x := freeVec s1.free n, y := freeVec (s1.free + n) m })

/-! ## Loading a problem (R202, R207, R215 to R218, R223, R225, R227) -/

/-- The stages of a stage table, if they partition x and y (R217). -/
def stagesOf (v n m : Nat) : Option (List (Nat × Nat)) :=
  let k := bits v 0 32
  let l := (upTo k).map fun i => (bits v (32 + 32 * i) 16, bits v (48 + 32 * i) 16)
  if sumL (l.map (·.1)) = n ∧ sumL (l.map (·.2)) = m then some l else none

/-- The pattern's header, if the descriptor names a pattern (R215, R218). -/
def State.readPat (s : State) (h : Nat) (c : Cmd) (d : BitVec 2048) : Except PvEnd (State × Option PatHead) :=
  let r := PDesc.ref d 0
  if refTid r = 0 ∨ !s.names (refTid r) then .ok (s, none)
  else
    match s.pvBytes h c r 64 with
    | .error e => .error e
    | .ok (s1, v) => .ok (s1, some (PatHead.of v))

/-- The stage table of a staged problem, if it is a good one for the descriptor's n and m (R217). -/
def State.readStages (s : State) (h : Nat) (c : Cmd) (d : BitVec 2048) : Except PvEnd (State × Option (List (Nat × Nat))) :=
  let r := PDesc.ref d 9
  if !PDesc.staged d || refTid r == 0 || !s.names (refTid r) then .ok (s, none)
  else
    match s.pvBytes h c r 4 with
    | .error e => .error e
    | .ok (s1, v) =>
      let k := bits v 0 32
      if k = 0 ∨ 4096 < k then .ok (s1, none)
      else
        match s1.pvBytes h c r (4 + 4 * k) with
        | .error e => .error e
        | .ok (s2, w) => .ok (s2, stagesOf w (PDesc.nvar d) (PDesc.ncon d))

/-- The problem's values and this rank's steps, given what was read of its pattern and stages. -/
def State.readQp (s : State) (h : Nat) (c : Cmd) (d : BitVec 2048) (pat : Option PatHead) (stages : Option (List (Nat × Nat))) :
    Except PvEnd (State × Qp × List (BitVec 128)) := do
  let mode := Record.argBits c.r 30 2
  let rank := Record.argBits c.r 19 4
  match pat with
  | none => throw (.bad s)
  | some p =>
    if PDesc.version d ≠ 1 ∨ !leW (PDesc.tolConv d) (PDesc.tolAcc d) ∨ 1000 < PDesc.maxIt d ∨ !p.ok d mode rank h ∨ !s.refsOk d p ∨
        (PDesc.staged d && stages.isNone) = true then
      throw (.bad s)
    let (s, v0) ← s.pvBytes h c (PDesc.ref d 0) p.bytes
    let ent := bits v0 (8 * (p.ofsSched + 8 * rank)) 64
    let (s, v) ← if p.mode = 1 then s.pvBytes h c (PDesc.ref d 0) (max p.bytes (bits ent 0 32 + 16 * bits ent 32 32)) else pure (s, v0)
    let steps := if p.mode = 1 then
      (upTo (bits ent 32 32)).map fun i => BitVec.ofNat 128 (bits v (8 * (bits ent 0 32 + 16 * i)) 128) else []
    let (s, pv) ← s.pvArray h c (PDesc.ref d 2) p.nnzP
    let (s, q) ← s.pvArray h c (PDesc.ref d 3) p.n
    let (s, av) ← s.pvArray h c (PDesc.ref d 4) p.nnzA
    let (s, l) ← s.pvArray h c (PDesc.ref d 5) p.m
    let (s, u) ← s.pvArray h c (PDesc.ref d 6) p.m
    return (s, { n := p.n, m := p.m, p := cscEntries v p.ofsP p.n pv, a := cscEntries v p.ofsA p.n av, q := q, l := l, u := u
                 perm := (upTo (p.n + p.m)).map (word32 v p.ofsPerm), stages := stages.getD [] }, steps)

/-- A piece of the engine's arithmetic run by hand h: its result, and the state with the free choices spent, the flags of
R239 and the operations of R574. -/
def State.eng {α : Type} (s : State) (h : Nat) (x : EngM α) : α × State :=
  let r := x.run { free := s.free }
  (r.1, (({ s with free := r.2.free }).flags (Reg.pivotStat h) (r.2.fl &&& 0b11110#5)).add64 (Reg.pvops h) r.2.ops)

/-- The engine runs a problem on to the next stop point of a list of vector phases (R213): the state, the problem, and whether
the whole list is done. -/
def State.pvRun (s : State) (h : Nat) (p : Prob) (fs : List VPhase) : State × Prob × Bool :=
  let r := s.eng h (blockE fs p.vp p.vdone p.vecs)
  (r.2, { p with vecs := r.1.1, vp := r.1.2.1, vdone := r.1.2.2 }, decide (fs.length ≤ r.1.2.1))

/-- A problem that goes on to a phase, at its first vector. -/
def Prob.enter (p : Prob) (phase : Nat) : Prob := { p with phase := phase, vp := 0, vdone := 0 }

/-- The absolute deadline of a problem that begins at a time (R230). -/
def deadlineAt (d t : Nat) : Nat := if d = 0 then 0 else if bit d 63 then t + bits d 0 48 else bits d 0 63

/-- The problem's deadline has passed. -/
def Prob.late (p : Prob) (now : Nat) : Bool := p.deadline != 0 && decide (p.deadline ≤ now)

/-- The problem's deadline has passed before its first factorisation, and not while the Bell held it there (R232, R233). -/
def Prob.lateFirst (p : Prob) (now : Nat) : Bool := p.it == 0 && p.late now && !p.heldLate

/-- Problem i of the hand replaced. -/
def State.setProb (s : State) (h i : Nat) (p : Prob) : State := s.setHand h { s.hand h with probs := (s.hand h).probs.set i p }

/-- An earlier problem of the command names the same STATE tile (R225). -/
def State.repeatsSlot (s : State) (h i : Nat) (d : BitVec 2048) : Bool :=
  let at_ := fun (d : BitVec 2048) => (refTid (PDesc.ref d 1), s.refPos (PDesc.ref d 1) 0)
  ((s.hand h).probs.take i).any fun q => at_ q.desc == at_ d

/-! ## Writing results (R216, R220, R221, R225) -/

/-- A tile written at place i of a reference; `error` where the page may not be written. -/
def State.pvPut (s : State) (h r i fmt : Nat) (lastOne : Bool) (pay : BitVec 32768) : Except Refuse State :=
  let e := s.entry (refTid r)
  let p := s.refPos r i
  let hd : Head := { tid := refTid r, row := p.1, col := p.2, fmt := fmt, scale := Entry.scale e, last := lastOne }
  s.writeTile h (refTid r) (Entry.hdrAddr e 0 p.1 p.2) (Entry.payAddr e 0 p.1 p.2) (Tile.seal hd.full pay)

/-- Tiles of an output array from element 512 i on. -/
def State.pvPutAll (s : State) (h r n : Nat) (v : List Nat) : Nat → Nat → Except Refuse State
  | 0, _ => .ok s
  | k + 1, i =>
    let els := (upTo 512).map fun j => if 512 * i + j < n then at0 v (512 * i + j) else 0
    match s.pvPut h r i 0 (k == 0) (BitVec.ofNat 32768 (packElems 8 els)) with
    | .error f => .error f
    | .ok s1 => s1.pvPutAll h r n v k (i + 1)

/-- An output array of n elements (R216); an absent reference is skipped (R215). -/
def State.pvOut (s : State) (h r n : Nat) (v : List Nat) : Except Refuse State :=
  if refTid r = 0 ∨ !s.names (refTid r) then .ok s else s.pvPutAll h r n v ((n + 511) / 512) 0

/-- The first output tile of n tiles from a reference that may not be written. -/
def State.pvOutFault (s : State) (r n : Nat) : Option Refuse :=
  if refTid r = 0 ∨ !s.names (refTid r) then none
  else
    (upTo n).findSome? fun i =>
      let e := s.entry (refTid r)
      let p := s.refPos r i
      orFault (s.accFault .write (Entry.hdrAddr e 0 p.1 p.2)) (s.accFault .write (Entry.payAddr e 0 p.1 p.2))

/-- The first of a SOLVE's outputs that may not be written: XOUT, YOUT, the slot (R225, R303). -/
def State.solveFault (s : State) (d : BitVec 2048) (tiles : Nat) : Option Refuse :=
  orFault (orFault (s.pvOutFault (PDesc.ref d 7) ((PDesc.nvar d + 511) / 512)) (s.pvOutFault (PDesc.ref d 8) ((PDesc.ncon d + 511) / 512)))
    (s.pvOutFault (PDesc.ref d 1) tiles)

/-- STATE tiles from tile i on: contents that the manual does not give, free bytes (R220). -/
def State.putState (s : State) (h r : Nat) : Nat → Nat → Except Refuse State
  | 0, _ => .ok s
  | k + 1, i =>
    match s.pvPut h r i 6 (k == 0) (BitVec.ofNat 32768 (Config.freeNat s.free)) with
    | .error f => .error f
    | .ok s1 => s1.spend.putState h r k (i + 1)

/-- The slot's tiles written: 64 bytes of result record, then free bytes (R220). -/
def State.putSlot (s : State) (h r tiles rec0 : Nat) : Except Refuse State :=
  match s.pvPut h r 0 6 (decide (tiles ≤ 1)) (BitVec.ofNat 32768 (rec0 % 2 ^ 512 + Config.freeNat s.free <<< 512)) with
  | .error f => .error f
  | .ok s1 => s1.spend.putState h r (tiles - 1) 1

/-- The result record (R221). -/
def resultRec (p : Prob) (obj mu tEnd serial : Nat) : Nat :=
  p.status + p.flags <<< 8 + (p.it % 65536) <<< 16 + (p.perturb % 2 ^ 32) <<< 32 + p.eps <<< 64 + obj <<< 128 + mu <<< 192 +
    (p.tBegin % 2 ^ 64) <<< 256 + (tEnd % 2 ^ 64) <<< 320 + (serial % 2 ^ 32) <<< 384

/-- What the tokens of a group carry besides their kind (R212): the run and the iteration (DESIGN CHOICE, assumption 31). -/
def Prob.tag (p : Prob) : Nat := p.run * 65536 + p.it

/-- A token to one rank of a group (R212). -/
def State.toRank (s : State) (h : Nat) (p : Prob) (kind me col r : Nat) : State :=
  s.send (epHand h 24) (epHand (h / 160 * 160 + PDesc.group p.desc r % 160) 24) 3 h (.token kind me col p.tag)

/-- Ranks other than one's own. -/
def otherRanks (p : Prob) (me : Nat) : List Nat := (upTo p.ranks).filter (· != me)

/-- Tokens to every other rank of a group (R212). -/
def State.toRanks (s : State) (h : Nat) (p : Prob) (kind me col : Nat) : State :=
  (otherRanks p me).foldl (fun (s : State) r => s.toRank h p kind me col r) s

/-- The outputs of a SOLVE written: XOUT, YOUT, and the slot with its record (R216, R220, R221). A page that may not be written
forbids all of them before anything is written (R303). -/
def State.pvWrites (s : State) (h : Nat) (c : Cmd) (p : Prob) (x y : List Nat) (obj mu : Nat) : Except Refuse State :=
  match s.solveFault p.desc (if p.slot.isSome then p.tiles else 0) with
  | some f => .error f
  | none => do
    let s1 ← s.pvOut h (PDesc.ref p.desc 7) (PDesc.nvar p.desc) x
    let s2 ← s1.pvOut h (PDesc.ref p.desc 8) (PDesc.ncon p.desc) y
    if p.slot.isNone then return s2
    s2.putSlot h (PDesc.ref p.desc 1) p.tiles (resultRec p obj mu (s.now h) (Record.serial c.r))

/-- The sticky bits that a problem's status sets (R239). -/
def State.pvStatus (s : State) (h status : Nat) : State :=
  match status with
  | 3 => s.setBit (Reg.pivotStat h) 8
  | 5 => s.setBit (Reg.pivotStat h) 7
  | 6 => s.setBit (Reg.pivotStat h) 9
  | _ => s

/-- What the engine keeps in a problem's slot from now on. -/
def State.keepSlot (s : State) (p : Prob) (slot : Slot) : State :=
  match p.slot with
  | none => s
  | some pa => { s with pvSlots := PMap.put s.pvSlots pa { slot with work := (s.slotAt pa).work } }

/-- The result of a problem is fixed (R221 to R223): outputs, record, slot and the sticky bits of R239. A page that may not be
written stops the station (R303). -/
def State.pvFix (s : State) (h i : Nat) (c : Cmd) (p : Prob) (x y : List Nat) (obj mu : Nat) (slot : Slot) : State :=
  match s.pvWrites h c p x y obj mu with
  | .error f => s.refuse 6 h f 0 (Record.serial c.r)
  | .ok s1 => ((s1.keepSlot p slot).pvStatus h p.status).setProb h i (p.enter 4)

/-- The problem with the status and the flags of a fallback (R222, R223). -/
def Prob.fallen (p : Prob) (status : Nat) : Prob :=
  { p with status := status, flags := p.flags ||| p.fbFlags ||| 8 ||| (if p.perturb = 0 then 0 else 4) }

/-- The problem with the status and the flags of a returned point (R222). -/
def Prob.returned (p : Prob) (status : Nat) : Prob :=
  { p with status := status, flags := p.flags ||| (if p.perturb = 0 then 0 else 4) }

/-- A fallback ends the problem (R222, R223): status, flags, the stored solution becomes the fallback without a factor.
In schedule mode rank 0 tells the group (R212, R232). -/
def State.pvFallback (s : State) (h i : Nat) (c : Cmd) (p : Prob) (status : Nat) : State :=
  let nan := Fmt.fp64.qnan
  (s.pvFix h i c (p.fallen status) p.fbx p.fby nan nan { x := p.fbx, y := p.fby }).toRanks h p 2 0 0

/-- What a returned point leaves in its slot. A SOLVE that returns before it has completed an iteration has no factor to retain:
the slot keeps the one it holds (DESIGN CHOICE, assumption 81: R222 retains the factor and R234 takes that of the last completed
iteration, and here there is none). -/
def State.retained (s : State) (p : Prob) : Slot :=
  let old := match p.slot with | none => ({} : Slot) | some pa => s.slotAt pa
  { x := p.iter.x, y := vecOf p.vecs 0, iter := p.iter, fact := if p.hasFact then p.fact else old.fact
    hasFactor := p.hasFact || old.hasFactor }

/-- A returned point ends the problem: CONVERGED or ACCEPTED (R222), y and the objective as the measures found them. -/
def State.pvReturn (s : State) (h i : Nat) (c : Cmd) (p : Prob) (status : Nat) : State :=
  (s.pvFix h i c (p.returned status) p.iter.x (vecOf p.vecs 0) (vecAt p.vecs 10 0) p.mu (s.retained p)).toRanks h p 1 0 1

/-- The data of a problem are bad: rank 0 ends it with the fallback; another rank tells rank 0 and leaves (R212). -/
def State.pvBad (s : State) (h i : Nat) (c : Cmd) (p : Prob) : State :=
  let me := Record.argBits c.r 19 4
  if me = 0 then s.pvFallback h i c p 6 else (s.toRank h p 2 me 0 0).setProb h i { p.enter 4 with status := 6 }

/-- Problem i is read, its slot first, and its start and fallback are prepared (R202, R223, R227 to R229). The fallback is
shifted where STAGED is 1 and the stage table is a good one; with a bad table it stays unshifted (DESIGN CHOICE, assumption 80).
The problem takes one of the two frames of the local store (R211). -/
def State.pvLoad (s : State) (h i : Nat) (c : Cmd) (p : Prob) : State :=
  let d := p.desc
  let w : Except PvEnd State := do
    let (s0, slot, _, sol) ← s.readSlot h c d (PDesc.nvar d) (PDesc.ncon d)
    let (s1, pat) ← s0.readPat h c d
    let (s2, stages) ← s1.readStages h c d
    let st : Qp := { n := PDesc.nvar d, m := PDesc.ncon d, stages := stages.getD [] }
    let shift := stages.isSome && sol.isSome
    let sx := match sol with | some z => fit st.n z.x | none => []
    let sy := match sol with | some z => fit st.m z.y | none => []
    let x := if shift then st.shiftX sx else sx
    let y := if shift then st.shiftY sy else sy
    let q : Prob :=
      { p with slot := slot, fbx := x, fby := y, fbFlags := if shift then 2 else if sol.isNone then 1 else 0
               ranks := match pat with | some t => if Record.argBits c.r 30 2 = 1 then max 1 (min 16 t.hands) else 1 | none => 1
               tiles := match pat with | some t => max 1 (min t.stateTiles 65536) | none => 1 }
    if s.repeatsSlot h i d then return s2.pvBad h i c q
    match s2.readQp h c d pat stages with
    | .error (.bad s3) => return s3.pvBad h i c q
    | .error (.stop s3) => throw (.stop s3)
    | .ok (s3, qp, steps) =>
      let q1 := { q with qp := qp, sched := steps }
      if !qp.dataOk then return s3.pvBad h i c q1
      match s3.solveFault d q.tiles with
      | some f => return s3.refuse 6 h f 0 (Record.serial c.r)
      | none =>
        let s4 := s3.setHand h { s3.hand h with stored := true, frames := ((s3.hand h).frames.filter (· != i) ++ [i]).reverse.take 2 |>.reverse }
        if PDesc.warm d && sol.isSome then
          let v := s4.eng h (warmStartE qp (PDesc.margin d) x y)
          return v.2.setProb h i { q1.enter 1 with iter := v.1, flags := if shift then 2 else 0 }
        else return s4.setProb h i { q1.enter 1 with iter := coldStart qp, flags := 1 }
  match w with
  | .error (.stop s1) => s1
  | .error (.bad s1) => s1
  | .ok s1 => s1

/-! ## The iteration (R205, R208, R209, R211, R213, R231, R232) -/

/-- τ exponent (R208, R238). -/
def State.tauOf (s : State) (h : Nat) (d : BitVec 2048) : Nat :=
  if PDesc.tauExp d ≠ 0 then PDesc.tauExp d
  else
    let t := s.field (Reg.pivotCtl h) 0 8
    if t = 0 then 40 else t

/-- Replacements counted in HAND.PIVOT.PERT and PERTURBED (R208, R240). -/
def State.addPert (s : State) (h n : Nat) : State :=
  if n = 0 then s else (s.countSat (Reg.pivotPert h) 0 32 n).setBit (Reg.pivotStat h) 6

/-- The shared factor of a group, in the slot's STATE tiles (R212). -/
def State.groupFact (s : State) (p : Prob) : Fact := match p.slot with | none => ({} : Fact) | some pa => (s.slotAt pa).fact
def State.setGroupFact (s : State) (p : Prob) (f : Fact) : State :=
  match p.slot with
  | none => s
  | some pa => { s with pvSlots := PMap.put s.pvSlots pa { s.slotAt pa with fact := f } }

/-- The pivots that a factorisation in progress has replaced: its own in batch mode, the group's in schedule mode (R208). -/
def State.pertNow (s : State) (c : Cmd) (p : Prob) : Nat :=
  if p.phase ≠ 2 then 0 else if Record.argBits c.r 30 2 = 1 then (s.groupFact p).pert else p.fact.pert

/-- A fallback that abandons a factorisation, whose replacements count (R208, R232). -/
def State.pvAbandon (s : State) (h i : Nat) (c : Cmd) (p : Prob) (status : Nat) : State :=
  s.pvFallback h i c { p with perturb := p.perturb + s.pertNow c p } status

/-- The measures of the iterate are known: the decisions at the top of the loop (R205, R231). -/
def State.pvDecide (s : State) (h i : Nat) (c : Cmd) (p : Prob) : State :=
  let q := { p with eps := vecAt p.vecs 11 0, mu := vecAt p.vecs 8 0 }
  if leW q.eps (PDesc.tolConv p.desc) then s.pvReturn h i c q 1
  else if leW q.eps (PDesc.tolAcc p.desc) && (q.it == PDesc.maxIt p.desc || q.late (s.now h)) then s.pvReturn h i c q 2
  else if q.it = PDesc.maxIt p.desc then s.pvFallback h i c q 4
  else if q.late (s.now h) then s.pvFallback h i c q 3
  else s.setProb h i (q.enter 5)

/-- The top of the loop (R205, R231, R232): measures, block by block, then the decisions. A deadline that has passed before the
first factorisation ends the solve unmeasured by R232, at the first loop top too, where R231 could be read to measure first
(DESIGN CHOICE, assumption 81). -/
def State.pvTop (s : State) (h i : Nat) (c : Cmd) (p : Prob) : State :=
  if p.lateFirst (s.now h) then s.pvFallback h i c p 3
  else
    let r := s.pvRun h p (measurePhases p.qp p.iter)
    if r.2.2 then r.1.pvDecide h i c r.2.1 else r.1.setProb h i r.2.1

/-- K is formed, block by block; then the columns follow: here, or in schedule mode at every rank (R204, R208, R212). -/
def State.pvForm (s : State) (h i : Nat) (c : Cmd) (p : Prob) : State :=
  if p.late (s.now h) then s.pvFallback h i c p 3
  else
    let r := s.pvRun h p (formPhases p.qp p.iter)
    if !r.2.2 then r.1.setProb h i r.2.1
    else
      let q := { r.2.1.enter 2 with fact := formed p.qp r.2.1.vecs }
      if Record.argBits c.r 30 2 = 1 then
        let s1 := (r.1.setGroupFact p q.fact).setProb h i q
        (s1.setHand h { s1.hand h with schedAt := 0, syncSent := false, schedDone := false }).toRanks h p 1 0 0
      else r.1.setProb h i q

/-- The factorisation phase has ended: an overflow ends the solve, else the iteration goes on (R209). -/
def State.pvFactored (s : State) (h i : Nat) (c : Cmd) (p : Prob) (f : Fact) : State :=
  let q := { p with fact := f, perturb := p.perturb + f.pert }
  if f.finite then s.setProb h i { q.enter 3 with hasFact := true } else s.pvFallback h i c (q.enter 3) 5

/-- The next column of a factorisation of batch mode, or its abandonment (R213, R232). -/
def State.pvFactor (s : State) (h i : Nat) (c : Cmd) (p : Prob) : State :=
  if p.late (s.now h) then s.pvAbandon h i c p 3
  else
    let r := s.eng h (nextColE (s.tauOf h p.desc) p.fact p.fact.done.length)
    let s1 := r.2.addPert h (r.1.pert - p.fact.pert)
    if p.qp.n + p.qp.m ≤ r.1.done.length then s1.pvFactored h i c p r.1 else s1.setProb h i { p with fact := r.1 }

/-- The affine step, block by block (R205, R209). -/
def State.pvAffine (s : State) (h i : Nat) (c : Cmd) (p : Prob) : State :=
  let r := s.pvRun h p (affinePhases p.qp p.iter p.fact)
  if !r.2.2 then r.1.setProb h i r.2.1
  else if (Step.of p.qp r.2.1.vecs 20).finite then r.1.setProb h i (r.2.1.enter 6)
  else r.1.pvFallback h i c r.2.1 5

/-- The combined step, block by block (R205, R209). -/
def State.pvCombined (s : State) (h i : Nat) (c : Cmd) (p : Prob) : State :=
  let r := s.pvRun h p (combinedPhases p.qp p.iter p.fact p.mu)
  if !r.2.2 then r.1.setProb h i r.2.1
  else if (Step.of p.qp r.2.1.vecs 40).finite then r.1.setProb h i (r.2.1.enter 7)
  else r.1.pvFallback h i c r.2.1 5

/-- Another problem of the command than i is open (R211). -/
def Hand.othersOpen (d : Hand) (i : Nat) : Bool :=
  (upTo d.probs.length).any fun k => k != i && (match d.probs[k]? with | some q => q.phase != 4 | none => false)

/-- A problem's iterate written to its STATE tiles, with the record that stands in tile 0 (R211); the bytes are the engine's
own (assumption 79). -/
def State.pvSave (s : State) (h : Nat) (p : Prob) (pa : Nat) : Except Refuse State :=
  let r := PDesc.ref p.desc 1
  let q := s.refPos r 0
  let rec0 := match s.vread (Entry.payAddr (s.entry (refTid r)) 0 q.1 q.2) 64 with | .ok v => v | _ => 0
  match s.putSlot h r p.tiles rec0 with
  | .error f => .error f
  | .ok s1 => .ok { s1 with pvSlots := PMap.put s1.pvSlots pa { s1.slotAt pa with work := p.iter } }

/-- The rotation goes on to the next problem (R211): where another problem is open, the iterate is written to the problem's STATE
tiles. -/
def State.pvRotate (s : State) (h i : Nat) (c : Cmd) (p : Prob) : State :=
  let s0 := s.setProb h i p
  let s1 := s0.setHand h { s0.hand h with turn := i + 1 }
  match p.slot with
  | none => s1
  | some pa =>
    if !(s.hand h).othersOpen i then s1
    else
      match s1.pvSave h p pa with
      | .error f => s1.refuse 6 h f 0 (Record.serial c.r)
      | .ok s2 => s2

/-- The update, block by block; the iteration ends (R205, R209, R211). -/
def State.pvMove (s : State) (h i : Nat) (c : Cmd) (p : Prob) : State :=
  let r := s.pvRun h p (movePhases p.qp p.iter)
  if !r.2.2 then r.1.setProb h i r.2.1
  else
    let t := Iter.of r.2.1.vecs
    if t.finite then r.1.pvRotate h i c { r.2.1.enter 1 with iter := t, it := p.it + 1, vecs := [] } else r.1.pvFallback h i c r.2.1 5

/-- The problem whose turn it is comes into a frame: the iterate is read back from its STATE tiles (R211). -/
def State.pvFrame (s : State) (h i : Nat) (c : Cmd) (p : Prob) : State :=
  match s.pvTiles h c (PDesc.ref p.desc 1) 6 p.tiles 0 with
  | .error (.stop s1) => s1
  | .error (.bad s1) => s1
  | .ok (s1, _) =>
    let s2 := s1.setHand h { s1.hand h with frames := ((s1.hand h).frames ++ [i]).reverse.take 2 |>.reverse }
    s2.setProb h i { p with iter := match p.slot with | none => p.iter | some pa => (s2.slotAt pa).work }

/-! ## Schedule mode (R212, R219) -/

namespace SchedStep

def kind (x : BitVec 128) : Nat := bits x.toNat 120 8
def peer (x : BitVec 128) : Nat := bits x.toNat 116 4
def len (x : BitVec 128) : Nat := bits x.toNat 64 32
def c1 (x : BitVec 128) : Nat := bits x.toNat 32 32
def c0 (x : BitVec 128) : Nat := bits x.toNat 0 32

/-- A step the engine cannot run gives BADDATA (R219). -/
def ok (x : BitVec 128) (n ranks : Nat) : Bool := decide (kind x ≤ 5) && decide (c0 x + len x ≤ n) && decide (peer x < ranks)

end SchedStep

/-- A token of a kind from a rank, for the problem's run and iteration, that has arrived; taking it. -/
def Hand.hasToken (d : Hand) (p : Prob) (kind rank : Nat) : Bool := d.tokens.any fun t => t.1 == kind * 16 + rank && t.2.2 == p.tag
def Hand.dropToken (d : Hand) (p : Prob) (kind rank : Nat) : Hand :=
  match d.tokens.find? fun t => t.1 == kind * 16 + rank && t.2.2 == p.tag with
  | none => d
  | some t => { d with tokens := d.tokens.erase t }

/-- A barrier (kind 3) or list-end (kind 4) token of every other rank has arrived; taking them. -/
def Hand.allTokens (d : Hand) (p : Prob) (me kind : Nat) : Option Hand :=
  if (otherRanks p me).all fun r => d.hasToken p kind r then some ((otherRanks p me).foldl (fun d r => d.dropToken p kind r) d)
  else none

/-- A rank other than this has told the group to stop (R212, R232). -/
def Hand.aborted (d : Hand) (p : Prob) : Bool := d.tokens.any fun t => t.1 / 16 == 2 && t.2.2 / 65536 == p.run

/-- Rank 0 in the columns of schedule mode: its deadline, an abort, or the group's end of the phase. -/
def State.pvSchedZero (s : State) (h i : Nat) (c : Cmd) (p : Prob) : State :=
  let d := s.hand h
  if p.late (s.now h) then s.pvAbandon h i c p 3
  else if d.aborted p then s.pvAbandon h i c p 6
  else if d.schedDone then
    match d.allTokens p 0 4, p.slot with
    | some d1, some pa => (s.setHand h { d1 with schedDone := false }).pvFactored h i c p (s.slotAt pa).fact
    | _, _ => s
  else s

/-- A rank other than 0 between factorisation phases, or told to stop (R212, R232): the first decision or abort of its run. -/
def State.pvSchedRank (s : State) (h i : Nat) (p : Prob) : State :=
  let d := s.hand h
  match d.tokens.find? fun t => (t.1 == 16 || t.1 == 32) && t.2.2 / 65536 == p.run with
  | none => s
  | some t =>
    let d1 := { d with tokens := d.tokens.erase t, schedAt := 0, syncSent := false, schedDone := false }
    let go := t.1 == 16 && t.2.1 == 0
    (s.setHand h d1).setProb h i (if go then { p.enter 2 with it := t.2.2 % 65536 } else p.enter 4)

/-- A rank meets a step it cannot run (R219): rank 0 ends the solve, another rank tells rank 0 and waits. -/
def State.pvBadStep (s : State) (h i : Nat) (c : Cmd) (p : Prob) : State :=
  let me := Record.argBits c.r 19 4
  if me = 0 then s.pvAbandon h i c p 6 else (s.toRank h p 2 me 0 0).setProb h i (p.enter 1)

/-- The list of this rank ends (R219). -/
def State.pvListEnd (s : State) (h i : Nat) (c : Cmd) (p : Prob) : State :=
  let me := Record.argBits c.r 19 4
  let s1 := s.setHand h { s.hand h with schedDone := true }
  if me = 0 then s1 else (s1.toRank h p 4 me 0 0).setProb h i (p.enter 1)

/-! ## SOLVE (R205, R211, R224) -/

/-- The number of descriptor tiles that a command needs, and its problems. -/
def pvTilesNeeded (r : BitVec 512) : Nat := (Record.argBits r 23 4 + Record.argBits r 27 3) / 16 + 1

/-- The problems of a command whose descriptor tiles have been read. -/
def Cmd.problems (c : Cmd) : List Prob :=
  (upTo (Record.argBits c.r 27 3 + 1)).map fun k =>
    let x := Record.argBits c.r 23 4 + k
    let d := BitVec.ofNat 2048 (bits (c.a.buf.getD (x / 16) { hdr := 0, pay := 0 }).pay.toNat (2048 * (x % 16)) 2048)
    { ix := k, desc := d, tBegin := c.tBegin, deadline := deadlineAt (PDesc.deadline d) c.tBegin }

/-- The run of a schedule-mode problem at this hand: its slot's reference, and how many SOLVEs of it have committed here. -/
def Hand.runOf (d : Hand) (x : BitVec 2048) : Nat := PDesc.ref x 1 * 2 ^ 32 + PMap.get 0 d.solves (PDesc.ref x 1) % 2 ^ 32

/-- One descriptor tile is read, or, once all are, the problems are set up. Tokens that an earlier run of their slots left
behind are dropped (R212). -/
def State.pvDescs (s : State) (h i : Nat) (c : Cmd) : State :=
  if c.a.got < pvTilesNeeded c.r then
    match s.arrive 6 h c 0 (some 6) (fun _ => none) false with
    | .wait => s
    | .ask _ => s
    | .stop s1 => s1
    | .ok s1 t => s1.setCmd 6 h i (c.setFlow 0 (c.a.take (Record.desc c.r 0) t 0 0))
  else
    let d := s.hand h
    let ps := if Record.argBits c.r 30 2 = 1 then c.problems.map fun p => { p with run := d.runOf p.desc } else c.problems
    let stale := fun (t : Nat × Nat × Nat) =>
      ps.any fun p => t.2.2 / 65536 / 2 ^ 32 == p.run / 2 ^ 32 && decide (t.2.2 / 65536 < p.run)
    s.setHand h { d with probs := ps, turn := 0, schedDone := false, syncSent := false, schedAt := 0, frames := []
                         tokens := d.tokens.filter fun t => !stale t }

/-- The place of the problem whose turn it is: the next that is not settled (R211). -/
def Hand.current (d : Hand) : Option Nat :=
  let open_ := fun (k : Nat) => (match d.probs[k]? with | some p => p.phase != 4 | none => false)
  let n := d.probs.length
  ((upTo n).map fun k => (d.turn + k) % n).find? open_

/-- A piece of work on problem k: what its phase asks for, up to the next stop point (R213). -/
def State.probWork (s : State) (h k : Nat) (c : Cmd) (p : Prob) : State :=
  let sched := Record.argBits c.r 30 2 == 1
  let me := Record.argBits c.r 19 4
  if p.phase ≠ 0 ∧ !sched ∧ !((s.hand h).frames.contains k) then s.pvFrame h k c p
  else
    match p.phase with
    | 0 => s.pvLoad h k c p
    | 1 =>
      if sched && me != 0 then s.pvSchedRank h k p
      else if sched && (s.hand h).aborted p then s.pvBad h k c p
      else s.pvTop h k c p
    | 5 => s.pvForm h k c p
    | 2 =>
      if !sched then s.pvFactor h k c p
      else if me = 0 then s.pvSchedZero h k c p
      else if (s.hand h).aborted p then s.pvSchedRank h k p
      else s
    | 3 => s.pvAffine h k c p
    | 6 => s.pvCombined h k c p
    | _ => s.pvMove h k c p

/-- One piece of a PIVOT command's work: its descriptors, then the problem whose turn it is, then its end. -/
def State.pvWork (s : State) (h i : Nat) (c : Cmd) (one : State → Nat → Prob → State) : State :=
  let d := s.hand h
  if d.probs.isEmpty then s.pvDescs h i c
  else
    match d.current with
    | none => s.finish 6 h i c
    | some k => match d.probs[k]? with | none => s | some p => one s k p

/-- The record PIVOT works on: the head of its queue (R224). -/
def State.pivotRow (s : State) (h op : Nat) (work : State → Nat → Cmd → State) : State :=
  match s.active 6 h with
  | some (0, _) => s.runStation 6 h op work
  | _ => s

def execSolve (h : HandIx) (s : State) : Host.Outcome State Fault Refusal :=
  .next (s.pivotRow h.val 1 fun s i c => s.pvWork h.val i c fun s k p => s.probWork h.val k c p)

/-! ## Schedule steps (R219) -/

/-- A schedule step of a kind, if the rank stands at one: command, problem, step. -/
def State.schedStep (s : State) (h kind : Nat) : Option (Cmd × Prob × BitVec 128) :=
  match s.active 6 h, (s.hand h).probs with
  | some (0, c), [p] =>
    if s.stRuns 6 h && c.begun && Record.opcode c.r == 1 && p.phase == 2 && Record.argBits c.r 30 2 == 1 && !(s.hand h).schedDone then
      match p.sched[(s.hand h).schedAt]? with
      | some x => if SchedStep.kind x = kind ∨ (5 < SchedStep.kind x ∧ kind = 0) then some (c, p, x) else none
      | none => if kind = 0 then some (c, p, 0) else none
    else none
  | _, _ => none

/-- The next step of the list. -/
def State.nextStep (s : State) (h : Nat) : State :=
  s.setHand h { s.hand h with schedAt := (s.hand h).schedAt + 1, syncSent := false }

/-- A row that runs one step: a step the engine cannot run gives BADDATA. -/
def State.schedRow (s : State) (h kind : Nat) (f : State → Cmd → Prob → BitVec 128 → State) : State :=
  match s.schedStep h kind with
  | none => s
  | some (c, p, x) =>
    if SchedStep.ok x (p.qp.n + p.qp.m) p.ranks then f s c p x else s.pvBadStep h 0 c p

/-- SCHED_FACT (R219): columns C0 to C0 + LEN - 1 are factored. -/
def execSchedFact (h : HandIx) (s : State) : Host.Outcome State Fault Refusal :=
  .next (s.schedRow h.val 1 fun s _ p x =>
    let f := s.groupFact p
    let r := s.eng h.val (factE (s.tauOf h.val p.desc) (SchedStep.c0 x) (SchedStep.len x) f)
    (((r.2.addPert h.val (r.1.pert - f.pert)).setGroupFact p r.1)).nextStep h.val)

/-- Columns of the block that starts at a column: those of the FACT step, of any rank's list, that starts there; the
model knows its own list (DEDUCED, assumption 31). Without one, the block is as long as the step. -/
def blockFrom (p : Prob) (x : BitVec 128) : List Nat :=
  let n := p.qp.n + p.qp.m
  let len := match p.sched.find? fun y => SchedStep.kind y == 1 && SchedStep.c0 y == SchedStep.c1 x with
    | some y => SchedStep.len y
    | none => SchedStep.len x
  ((upTo len).map (SchedStep.c1 x + ·)).filter (· < n)

/-- SCHED_UPD (R219): columns C0 to C0 + LEN - 1 are applied to the column block starting at C1. -/
def execSchedUpd (h : HandIx) (s : State) : Host.Outcome State Fault Refusal :=
  .next (s.schedRow h.val 2 fun s _ p x =>
    let r := s.eng h.val (updE (SchedStep.c0 x) (SchedStep.len x) (blockFrom p x) (s.groupFact p))
    (r.2.setGroupFact p r.1).nextStep h.val)

/-- SCHED_SEND (R212, R219): the columns stand in the STATE tiles, and a sync token tells the peer. -/
def execSchedSend (h : HandIx) (s : State) : Host.Outcome State Fault Refusal :=
  .next (s.schedRow h.val 3 fun s c p x =>
    (s.toRank h.val p 0 (Record.argBits c.r 19 4) (SchedStep.c0 x + SchedStep.len x * 2 ^ 32) (SchedStep.peer x)).nextStep h.val)

/-- A sync token of the problem's run and iteration, from a rank, covers a column. -/
def coversCol (p : Prob) (peer j : Nat) (t : Nat × Nat × Nat) : Bool :=
  t.1 == peer && t.2.2 == p.tag && decide (t.2.1 % 2 ^ 32 ≤ j) && decide (j < t.2.1 % 2 ^ 32 + t.2.1 / 2 ^ 32)

/-- SCHED_RECV (R212, R219): it waits until tokens of the peer cover every column. Columns once published stay published. -/
def execSchedRecv (h : HandIx) (s : State) : Host.Outcome State Fault Refusal :=
  .next (s.schedRow h.val 4 fun s _ p x =>
    if (upTo (SchedStep.len x)).all fun j => (s.hand h.val).tokens.any (coversCol p (SchedStep.peer x) (SchedStep.c0 x + j)) then
      s.nextStep h.val
    else s)

/-- SCHED_SYNC (R219): the rank tells the others, and waits for all of them. -/
def execSchedSync (h : HandIx) (s : State) : Host.Outcome State Fault Refusal :=
  .next (s.schedRow h.val 5 fun s c p _ =>
    let me := Record.argBits c.r 19 4
    let d := s.hand h.val
    if !d.syncSent then (s.setHand h.val { d with syncSent := true }).toRanks h.val p 3 me 0
    else
      match d.allTokens p me 3 with
      | none => s
      | some d1 => (s.setHand h.val d1).nextStep h.val)

/-- SCHED_END (R219): the rank's list ends; a reserved kind gives BADDATA. -/
def execSchedEnd (h : HandIx) (s : State) : Host.Outcome State Fault Refusal :=
  .next (s.schedRow h.val 0 fun s c p _ => s.pvListEnd h.val 0 c p)

/-! ## Deadlines (R230 to R233) -/

/-- The deadline ends the solve where the problem stands (R232): in a factorisation phase, or read and before the first one. -/
def Prob.endsNow (p : Prob) (now : Nat) : Bool :=
  p.late now && (p.phase == 5 || p.phase == 2 || (p.phase == 1 && p.lateFirst now))

/-- PIVOT_DEADLINE (R232): a deadline that has arrived during a factorisation phase, or before the first one, ends the
solve with the fallback. Otherwise R231 settles it at the next loop top. A hand that the Bell holds meets it on resume
(R233). -/
def execPivotDeadline (h : HandIx) (i : Fin 8) (s : State) : Host.Outcome State Fault Refusal :=
  .next <|
    match s.active 6 h.val, (s.hand h.val).probs[i.val]? with
    | some (0, c), some p =>
      if s.stRuns 6 h.val && c.begun && Record.opcode c.r == 1 && Record.argBits c.r 19 4 == 0 && p.endsNow (s.now h.val) then
        s.pvAbandon h.val i.val c p 3
      else s
    | _, _ => s

/-! ## GRAD (R234 to R236) -/

/-- The outputs of a GRAD written: its gradients, zeros where there are none, and the slot's record with BWD_DONE, and BWD_ZERO
where the outputs are zero; its reserved bits are 0 (R11). `nP` and `nA` are the pattern's counts, where it could be read. -/
def State.gradWrites (s : State) (h : Nat) (c : Cmd) (p : Prob) (nP nA : Nat) (g : Option Grads) : Except PvEnd State :=
  let sr := Record.serial c.r
  let d := p.desc
  let o := g.getD { q := [], p := [], a := [], l := [], u := [] }
  let outs := [(12, PDesc.nvar d, o.q), (13, nP, o.p), (14, nA, o.a), (15, PDesc.ncon d, o.l), (16, PDesc.ncon d, o.u)]
  match orFault (outs.findSome? fun x => s.pvOutFault (PDesc.ref d x.1) ((x.2.1 + 511) / 512))
      (if p.slot.isSome then s.pvOutFault (PDesc.ref d 1) 1 else none) with
  | some f => .error (.stop (s.refuse 6 h f 0 sr))
  | none => do
    let s1 ← outs.foldlM (fun (s : State) x =>
      match s.pvOut h (PDesc.ref d x.1) x.2.1 x.2.2 with | .ok s1 => .ok s1 | .error f => .error (PvEnd.stop (s.refuse 6 h f 0 sr))) s
    if p.slot.isNone then return s1
    let (s2, t) ← s1.pvTile h c (PDesc.ref d 1) 0 6
    let rec0 := t.pay.toNat
    let rec1 := setBits (setBits (setBits (setBits rec0 12 1 1) 11 1 (if g.isNone then 1 else bits rec0 11 1)) 13 3 0) 416 96 0
    match s2.pvPut h (PDesc.ref d 1) 0 6 t.head.last (BitVec.ofNat 32768 rec1) with
    | .ok s3 => return s3
    | .error f => throw (PvEnd.stop (s2.refuse 6 h f 0 sr))

/-- GRAD of problem i ends: its outputs, and the sticky bits of R239. -/
def State.gradFix (s : State) (h i : Nat) (c : Cmd) (p : Prob) (nP nA : Nat) (g : Option Grads) (overflow bad : Bool) : State :=
  match s.gradWrites h c p nP nA g with
  | .error (.stop s1) => s1
  | .error (.bad s1) => s1
  | .ok s1 =>
    let s2 := if overflow then s1.setBit (Reg.pivotStat h) 7 else s1
    let s3 := if bad then s2.setBit (Reg.pivotStat h) 9 else s2
    s3.setProb h i { p.enter 4 with status := if overflow then 5 else 0 }

/-- A problem of a GRAD is read: the slot, the problem, the upstream gradients (R225, R234, R235). -/
def State.gradLoad (s : State) (h i : Nat) (c : Cmd) (p : Prob) : State :=
  let d := p.desc
  let w : Except PvEnd State := do
    let (s0, slot, rec0, sol) ← s.readSlot h c d (PDesc.nvar d) (PDesc.ncon d)
    let (s1, pat) ← s0.readPat h c d
    let (s2, stages) ← s1.readStages h c d
    let nP := match pat with | some t => t.nnzP | none => 0
    let nA := match pat with | some t => t.nnzA | none => 0
    let p1 := { p with slot := slot, ranks := match pat with | some t => t.hands | none => 1 }
    if s.repeatsSlot h i d then return s2.gradFix h i c p1 nP nA none false true
    match s2.readQp h c d pat stages with
    | .error (.stop s3) => throw (.stop s3)
    | .error (.bad s3) => return s3.gradFix h i c p1 nP nA none false true
    | .ok (s3, qp, _) =>
      let p2 := { p1 with qp := qp }
      match sol with
      | none => return s3.gradFix h i c p2 nP nA none false false
      | some sl =>
        if bit rec0 11 || !sl.hasFactor then return s3.gradFix h i c p2 nP nA none false false
        let (s4, gx) ← s3.pvArray h c (PDesc.ref d 10) qp.n
        let (s5, gy) ← s4.pvArray h c (PDesc.ref d 11) qp.m
        return s5.setProb h i { p2.enter 3 with vecs := PMap.put (PMap.put [] 15 gx) 16 gy }
  match w with
  | .error (.stop s1) => s1
  | .error (.bad s1) => s1
  | .ok s1 => s1

/-- One piece of a GRAD's work on a problem, up to the next stop point: rank 0 reads it, solves for w, forms the outputs; an
overflow in w gives zeros (R213, R234, R236). -/
def State.gradOne (s : State) (h i : Nat) (c : Cmd) (p : Prob) : State :=
  let sl := match p.slot with | none => ({} : Slot) | some pa => s.slotAt pa
  if Record.argBits c.r 30 2 = 1 ∧ Record.argBits c.r 19 4 ≠ 0 then s.setProb h i (p.enter 4)
  else if p.phase = 0 then s.gradLoad h i c p
  else if p.phase = 3 then
    let r := s.pvRun h p (gradSolve p.qp sl)
    if !r.2.2 then r.1.setProb h i r.2.1
    else if (vecOf r.2.1.vecs 29).all isFin then r.1.setProb h i (r.2.1.enter 6)
    else r.1.gradFix h i c r.2.1 p.qp.p.length p.qp.a.length none true false
  else
    let r := s.pvRun h p (gradOuts p.qp sl)
    if !r.2.2 then r.1.setProb h i r.2.1
    else r.1.gradFix h i c r.2.1 p.qp.p.length p.qp.a.length (some (Grads.of p.qp r.2.1.vecs)) false false

/-- GRAD (R234): reads its descriptors, then differentiates one problem after another. -/
def execGrad (h : HandIx) (s : State) : Host.Outcome State Fault Refusal :=
  .next (s.pivotRow h.val 2 fun s i c => s.pvWork h.val i c fun s k p => s.gradOne h.val k c p)

/-! ## Commit (R237) -/

/-- The record of one fault code over the problems with an outcome. -/
def State.pivotReport (s : State) (h code status : Nat) (c : Cmd) : State :=
  match (s.hand h).probs.filter fun p => p.status == status with
  | [] => s
  | p :: ps =>
    s.postHand h 6 (epHand h 24) 0 code
      (((ps.length + 1) % 16) <<< 44 + p.ix <<< 41 + refTid (PDesc.ref p.desc 1) <<< 17 + Record.serial c.r % 2 ^ 17) (Record.serial c.r) c.r

/-- What a PIVOT command posts when it commits; its problems are done. A schedule-mode SOLVE ends its run: the run's tokens are
gone (R212). -/
def State.pivotCommit (s : State) (h : Nat) (c : Cmd) : State :=
  let s1 := (s.pivotReport h 0x10 3 c).pivotReport h 0x0D 5 c
  let d := s1.hand h
  let ended := fun (t : Nat × Nat × Nat) => d.probs.any fun p => t.2.2 / 65536 == p.run
  let d1 := if Record.argBits c.r 30 2 = 1 ∧ Record.opcode c.r = 1 then
      { d with tokens := d.tokens.filter fun t => !ended t
               solves := d.probs.foldl (fun m p => PMap.put m (PDesc.ref p.desc 1) (p.run % 2 ^ 32 + 1)) d.solves }
    else d
  s1.setHand h { d1 with probs := [], turn := 0, frames := [] }

end Sys2Proof.Machine
end

