-- ==== Sys2Proof/Machine/Commit.lean ====
section
/-! DEFINITION. The arrival of an input tile, the return of a credit and the commit of a command (R50, R59, R77, R162). -/

namespace Sys2Proof.Machine

/-- The unit of a station that an endpoint names (R343 to R345, R55). -/
def stationUnit (ep st : Nat) : Option Nat :=
  if 1 ≤ st ∧ st ≤ 5 then epToCore ep
  else if st = 6 then (if epUnit ep = 24 then epToHand ep else none)
  else if st = 7 then (if epUnit ep = 26 then epToHand ep else none)
  else if st = 8 then epToMill ep
  else none

/-- TILE_CHECK (R50 to R54): the next tile of operand `opd` of the record at work arrives and is checked. -/
def execTileCheck (k : CoreIx) (station opd : Nat) (corrupt : Bool) (s : State) : Host.Outcome State Fault Refusal :=
  .next <|
    if station < 1 ∨ 5 < station ∨ 1 < opd then s
    else
      match s.active station k.val with
      | none => s
      | some (i, c) =>
        if !s.stRuns station k.val || !c.begun || !inputOperand station (Record.opcode c.r) opd then s
        else
          match s.arriveTile station k.val i c opd corrupt with
          | .wait => s
          | .asked s1 => s1
          | .stop s1 => s1
          | .ok s1 c1 => s1.setCmd station k.val i c1

/-- CREDIT_RETURN (R59, R162): a credit on its way reaches its producer. `port` is 0 to 7 for a local port and 9 for the
tally; P8 credits travel as packets. -/
def execCreditReturn (k : CoreIx) (port : Nat) (s : State) : Host.Outcome State Fault Refusal :=
  .next <|
    let c := s.core k.val
    if port < 8 then
      let q := c.port port
      if 0 < q.returning then
        s.setCore k.val (c.setPort port { q with returning := q.returning - 1, credits := q.credits + 1 })
      else s
    else if port = 9 then s.setCore k.val { c with tallyRet := c.tallyRet.drop 1 }
    else s

/-- A committed CUBE command hands its group over unless it stays open (R138, R148). -/
def Core.handOver (c : Core) (r : BitVec 512) : Core :=
  if bit (Record.arg r) 29 then c
  else
    match c.closing with
    | [] => c
    | g :: gs => { c with closing := gs, handed := c.handed ++ [g] }

/-- The head record of a station of a hand commits: its increments once, END, and it leaves the queue (R77, R556). -/
def State.commitHead (s : State) (st u : Nat) (c : Cmd) : State :=
  let h := handOf st u
  let s1 := s.setQueue st u ((s.queue st u).drop 1)
  let s2 := if st = 2 then s1.setCore u ((s1.core u).handOver c.r) else s1
  let s2 := if st = 6 then s2.pivotCommit h c else s2
  let s2 := if st = 7 ∧ !c.skip then s2.setHand h ((s2.hand h).countColl) else s2
  let s3 := (s2.applyIncs h c.r).traceEnd st u c.r c.aux (s.countOfEnd st c) c.starve
  let s3 := if c.cleared then s3.spend else s3
  s3.setHand h { s3.hand h with lastCommit := s3.now h, detLeft := if c.det then (s3.hand h).detLeft - 1 else (s3.hand h).detLeft }

/-- COMMAND_COMMIT (R77): the record at the head of a station's queue has complete outputs, every tile it sent to a
remote P8 is acknowledged, and its hand is not stopped. `diverged` is the reeve's finding on an UPDATE that meets BOUND: its
known-answer test passed, and the sums match another replica's or there is none (R432). -/
def execCommandCommit (ep : BitVec 16) (station : BitVec 4) (diverged : Bool) (s : State) : Host.Outcome State Fault Refusal :=
  .next <|
    match stationUnit ep.toNat station.toNat with
    | none => s
    | some u =>
      match s.queue station.toNat u with
      | [] => s
      | c :: _ =>
        if !c.complete || c.acks != 0 then s
        else if station.toNat = 8 then
          (if (s.mill u).broken || s.millStopped u then s else s.millHeadCommit u diverged c)
        else if s.handStopped (handOf station.toNat u) then s
        else s.commitHead station.toNat u c

end Sys2Proof.Machine
end

