-- ==== Sys2Proof/Machine/Dealer.lean ====
section
/-! DEFINITION. Collectives as the dealer orders them: descriptors, joins, order faults, admission, timeouts, completion
(R365 to R379, R388 to R392, R397, R398, R570). -/

namespace Sys2Proof.Machine

/-! ## The descriptor (R366 to R368) -/

namespace CDesc

def version (d : BitVec 2048) : Nat := bits d.toNat 0 16
def op (d : BitVec 2048) : Nat := bits d.toNat 16 8
def rop (d : BitVec 2048) : Nat := bits d.toNat 24 2
def wide (d : BitVec 2048) : Bool := bit d.toNat 26
def group (d : BitVec 2048) : Nat := bits d.toNat 32 8
def pfmt (d : BitVec 2048) : Nat := bits d.toNat 40 4
def slots (d : BitVec 2048) : Nat := bits d.toNat 48 16
def capacity (d : BitVec 2048) : Nat := bits d.toNat 64 16
def scap (d : BitVec 2048) : Nat := bits d.toNat 80 16
def root (d : BitVec 2048) : Nat := bits d.toNat 96 16
def suits (d : BitVec 2048) : Nat := bits d.toNat 128 4
def rows (d : BitVec 2048) : Nat := bits d.toNat 132 10
def cols (d : BitVec 2048) : Nat := bits d.toNat 142 16
def fallback (d : BitVec 2048) : Nat := bits d.toNat 192 64
def compl (d : BitVec 2048) : Nat := bits d.toNat 256 64
def map (d : BitVec 2048) : Nat := bits d.toNat 320 64
def maplen (d : BitVec 2048) : Nat := bits d.toNat 384 32

/-- A reduction: ALLREDUCE or REDUCE_SCATTER. -/
def reduces (d : BitVec 2048) : Bool := op d == 1 || op d == 2

end CDesc

/-- Hand index within its suit of a snake position (R368). -/
def snakeHand (k : Nat) : Nat := k / 16 * 16 + (if k / 16 % 2 = 0 then k % 16 else 15 - k % 16)

/-- Suits of a descriptor in ring position order. -/
def ringOf (d : BitVec 2048) : List Nat := [0, 1, 3, 2].filter fun a => bit (CDesc.suits d) a

/-- Snake positions of a descriptor's members. -/
def snakes (d : BitVec 2048) : List Nat :=
  (upTo 160).filter fun k => bit (CDesc.rows d) (snakeHand k / 16) && bit (CDesc.cols d) (snakeHand k % 16)

/-- The members in the order of R368, and those that have a rank: rank positions count the suits of a ring (R368, R417). -/
def members (d : BitVec 2048) : List Nat := (ringOf d).flatMap fun a => (snakes d).map fun k => a * 160 + snakeHand k
def ranked (ring : List Nat) (d : BitVec 2048) : List Nat := (members d).filter fun h => ring.contains (h / 160)
/-- The member at a rank; 640 where there is none. -/
def Coll.member (c : Coll) (rank : Nat) : Nat := (ranked c.ring c.desc).getD rank 640
/-- Suits of the collective that have no ring position: its members there are pruned (R388, R417). -/
def Coll.foldedSuits (c : Coll) : List Nat := (ringOf c.desc).filter fun a => !c.ring.contains a

/-- Wide tiles that carry one payload tile of a reduction (R193, R381). -/
def collW (d : BitVec 2048) : Nat :=
  match CDesc.pfmt d with
  | 0 => if CDesc.rop d = 0 then 2 else 1
  | 1 => 2
  | _ => 4

/-- Source tiles per payload tile. -/
def srcW (d : BitVec 2048) : Nat := if CDesc.wide d then collW d else 1

/-- Chunk size of T payload tiles over S suits, and the tiles of chunk c (R382). -/
def chunkC (t n : Nat) : Nat := (t + n - 1) / max 1 n
def chunkSize (t n c : Nat) : Nat := min t ((c + 1) * chunkC t n) - min t (c * chunkC t n)

/-- Place of a hand's suit in the descriptor's ring. -/
def ringIx (d : BitVec 2048) (h : Nat) : Nat := indexOf (ringOf d) (h / 160)

/-- Two extents of one tensor share a tile. -/
def overlaps (a b : Desc) : Bool :=
  a.tid == b.tid && decide (a.row0 < b.row0 + b.nrows) && decide (b.row0 < a.row0 + a.nrows) &&
    decide (a.col0 < b.col0 + b.ncols) && decide (b.col0 < a.col0 + a.ncols)

/-- The extents of one member agree with R367. -/
def extentOk (ring : List Nat) (d : BitVec 2048) (h : Nat) (r : BitVec 512) : Bool :=
  let m := (members d).length
  let a := Record.desc r 0
  let c := Record.desc r 2
  let isRoot := (ranked ring d).getD (CDesc.root d) 640 == h
  match CDesc.op d with
  | 1 => a.kind == 1 && c.kind == 1 && a.count == srcW d * c.count && !overlaps a c
  | 2 =>
    let t := a.count / srcW d
    let n := chunkSize t (ringOf d).length (ringIx d h)
    a.kind == 1 && a.count % srcW d == 0 && (if n = 0 then c.kind == 0 else c.kind == 1 && c.count == n && !overlaps a c)
  | 3 => a.kind == 1 && c.kind == 1 && c.count == m * a.count
  | 4 =>
    (if isRoot then a.kind == 1 && a.count == c.count else a.kind == 0) &&
      (c.kind == 1 || (c.kind == 3 && (match epToCore c.dest with | some k => k / 17 == h | none => false)))
  | 5 => a.kind == 1 && c.kind == 1 && a.count == m * CDesc.scap d && c.count == m * CDesc.capacity d
  | 6 => a.kind == 1 && a.count == CDesc.scap d && (if isRoot then c.kind == 1 && c.count == m * CDesc.capacity d else c.kind == 0)
  | 7 => a.kind == 0 && c.kind == 0
  | 8 => a.kind == 1 && decide ({ c with orient := a.orient, port := a.port } = a)
  | _ => false

/-- The size that must be the same at every member. -/
def commonSize (d : BitVec 2048) (r : BitVec 512) : Nat :=
  match CDesc.op d with
  | 1 => (Record.desc r 2).count
  | 2 => (Record.desc r 0).count
  | 3 => (Record.desc r 0).count
  | 4 => (Record.desc r 2).count
  | 8 => Record.opd r 0
  | _ => 0

/-- References that the collective uses name tensors (R369, R610). -/
def State.collRefsOk (s : State) (d : BitVec 2048) : Bool :=
  let named := fun (r : Nat) => s.names (refTid r)
  (refTid (CDesc.compl d) == 0 || named (CDesc.compl d)) && (!CDesc.reduces d || named (CDesc.fallback d)) &&
    (CDesc.op d != 8 || named (CDesc.map d))

/-- The checks of R369 on one member's join. -/
def State.joinOk (s : State) (ring : List Nat) (d : BitVec 2048) (h : Nat) (r : BitVec 512) : Bool :=
  CDesc.version d == 1 && decide (1 ≤ CDesc.op d) && decide (CDesc.op d ≤ 8) && CDesc.rop d != 3 && decide (CDesc.pfmt d ≤ 3) &&
    (members d).contains h && decide (CDesc.root d < (members d).length) && s.collRefsOk d && extentOk ring d h r

/-! ## XCHG's side (R365, R369) -/

/-- The descriptor that a COLL command has read. -/
def Cmd.collDesc (c : Cmd) : BitVec 2048 :=
  BitVec.ofNat 2048 (bits (c.b.buf.getD 0 { hdr := 0, pay := 0 }).pay.toNat (2048 * Record.argBits c.r 0 4) 2048)
def Cmd.collTag (c : Cmd) : Nat := Record.argBits c.r 4 28

/-- The COLL at a hand's XCHG, once it has joined. -/
def State.collCmd (s : State) (h : Nat) : Option Cmd :=
  match (s.hand h).xq with
  | c :: _ => if c.begun && c.out == 1 then some c else none
  | [] => none

/-- COLL (R365, R369): begins once the previous record has committed, reads its descriptor tile, and sends its join. A
skipped record joins nothing (R434). -/
def execColl (h : HandIx) (s : State) : Host.Outcome State Fault Refusal :=
  .next <|
    match s.active 7 h.val with
    | some (0, _) =>
      s.runStation 7 h.val 1 fun s i c =>
        if c.skip then s.finish 7 h.val i c
        else if c.out ≠ 0 then s
        else if c.b.got = 0 then
          match s.arrive 7 h.val c 1 (some 6) (fun _ => none) false with
          | .wait | .ask _ => s
          | .stop s1 => s1
          | .ok s1 t => s1.setCmd 7 h.val i (c.setFlow 1 (c.b.take (Record.desc c.r 1) t 0 0))
        else
          let d := c.collDesc
          (s.setCmd 7 h.val i { c with out := 1 }).send (epHand h.val 26) epDealer 3 h.val
            (.join (CDesc.group d) c.collTag (crc32c (toBytes 256 d.toNat)) h.val)
    | _ => s

/-! ## The dealer's table -/

def State.findColl (s : State) (g tag : Nat) : Option Coll := s.colls.find? fun c => c.g == g && c.tag == tag
def State.setColl (s : State) (c : Coll) : State :=
  { s with colls := s.colls.map fun x => if x.g = c.g ∧ x.tag = c.tag then c else x }
def State.delColl (s : State) (g tag : Nat) : State := { s with colls := s.colls.filter fun x => !(x.g == g && x.tag == tag) }

/-- The hands a collective waits for: its members, without the fenced ones of a BROADCAST (R388). -/
def State.wanted (s : State) (c : Coll) : List Nat := (members c.desc).filter fun h => s.handUp h
def State.fullyJoined (s : State) (c : Coll) : Bool := (s.wanted c).all fun h => c.joins.any fun j => j.hand == h

/-- Suits with a member. -/
def memberSuits (d : BitVec 2048) : List Nat := suits4.filter fun a => bit (CDesc.suits d) a

/-- GROUP and TAG in a dealer record's detail (R392). -/
def collDetail (g tag b11 : Nat) : Nat := g <<< 40 + tag <<< 12 + b11 <<< 11

/-- A record of the dealer posted to reeve 0 of each of some suits (R372, R391, R420). -/
def State.postDealer (s : State) (sl : List Nat) (code ep detail : Nat) : State :=
  sl.foldl (fun (s : State) a => s.postAt s.time (a * 4) 0 code ep detail) s

/-- A bridge end's free slots (R395). -/
def State.slotsFreeAt (s : State) (b : Nat) : Nat := s.field (Reg.bridgeEnd b) 16 11

/-- The bridge end of a suit that a reduction uses: it faces the suit's predecessor in the full ring (R374). -/
def reduceEnd (a : Nat) : Nat :=
  match a with
  | 0 => 1
  | 1 => 2
  | 2 => 5
  | _ => 6

/-- The bridge ends whose slots a collective uses (R374). -/
def slotEnds (d : BitVec 2048) : List Nat :=
  if CDesc.reduces d then (ringOf d).map reduceEnd
  else if CDesc.op d = 8 then (ringOf d).flatMap fun a => [2 * a, 2 * a + 1]
  else []

/-- The lowest-numbered free slots of each bridge end that a collective uses (which ones is not to be seen, assumption 83). -/
def State.slotPlaces (s : State) (d : BitVec 2048) (n : Nat) : PMap (List Nat) :=
  (slotEnds d).foldl (fun (m : PMap (List Nat)) b =>
    let used := s.colls.flatMap fun c => PMap.get [] c.places b
    PMap.put m b (((upTo 256).filter fun k => !used.contains k).take n)) []

/-- Slots taken from, or given back to, the bridge ends. -/
def State.takeSlots (s : State) (d : BitVec 2048) (n : Nat) : State :=
  (slotEnds d).foldl (fun (s : State) b => s.setField (Reg.bridgeEnd b) 16 11 (s.slotsFreeAt b - n)) s
def State.giveSlots (s : State) (d : BitVec 2048) (n : Nat) : State :=
  (slotEnds d).foldl (fun (s : State) b => s.setField (Reg.bridgeEnd b) 16 11 (min 256 (s.slotsFreeAt b + n))) s

/-! ## Completion records (R390) -/

/-- The last two joins: the last member and the lateness in cycles of 1.2 GHz, saturating. -/
def Coll.lastJoin (c : Coll) : Nat := match c.joins.getLast? with | some j => epHand j.hand 26 | none => 0
def Coll.lateCyc (c : Coll) : Nat :=
  match c.joins.reverse with
  | a :: b :: _ => satAt (2 ^ 32 - 1) ((a.time - b.time) * 6 / 5)
  | _ => 0
def Coll.tFirst (c : Coll) : Nat := match c.joins with | j :: _ => j.time | [] => 0

/-- The smallest MEMBERS-form mask that covers some hands. -/
def coverMask (hs : List Nat) : Nat :=
  hs.foldl (fun m h => m ||| 2 ^ (h / 160) ||| 2 ^ (4 + py h) ||| 2 ^ (14 + px h)) 0

/-- The 64 bytes of a member's completion record. -/
def Coll.record (c : Coll) (status h t : Nat) : Nat :=
  let drop := PMap.get 0 c.dropped h
  let total := sumL (c.dropped.map (·.2))
  status + (c.flags ||| (if 0 < total then 16 else 0) ||| (if c.pruned.isEmpty then 0 else 1)) <<< 8 + c.g <<< 16 +
    CDesc.op c.desc <<< 24 + c.tag <<< 32 + c.lastJoin <<< 64 + (members c.desc).length <<< 80 + c.lateCyc <<< 96 +
    (c.tFirst % 2 ^ 48) <<< 128 + (c.tAdmit % 2 ^ 64) <<< 192 + (t % 2 ^ 64) <<< 256 + coverMask c.pruned <<< 320 +
    c.pruned.length <<< 384 + (drop % 2 ^ 32) <<< 416 + (total % 2 ^ 32) <<< 448

/-- A member writes its completion record, if the collective has a place for it. -/
def State.writeCompl (s : State) (c : Coll) (status h : Nat) : State :=
  let ref := CDesc.compl c.desc
  if refTid ref = 0 ∨ !s.names (refTid ref) then s
  else
    let n := indexOf (ranked c.ring c.desc) h
    let e := s.entry (refTid ref)
    let p := s.refPos ref n
    let hd : Head := { tid := refTid ref, row := p.1, col := p.2, fmt := Entry.fmt e, scale := Entry.scale e }
    let t := Tile.seal hd.full (BitVec.ofNat 32768 (c.record status h (s.now h)))
    match s.writeTile h (refTid ref) (Entry.hdrAddr e 0 p.1 p.2) (Entry.payAddr e 0 p.1 p.2) t with
    | .ok s1 => s1
    | .error f => s.refuse 7 h f 0 (match s.collCmd h with | some x => Record.serial x.r | none => 0)

/-! ## Failure (R369, R388) -/

/-- The collective is malformed at every member (R369, R70): each joined member's sequencer stops. -/
def State.collMalformed (s : State) (c : Coll) : State :=
  let s1 := s.setColl { c with malformed := true }
  c.joins.foldl (fun (s : State) j =>
    s.badRecord j.hand (match s.collCmd j.hand with | some x => x.va | none => 0)) s1

/-- A collective with a fenced member fails (R388, R390): its slots are freed, every member that is not fenced writes a
MEMBER_FENCED record, and one fault record is posted for each fenced member. -/
def State.collFail (s : State) (c : Coll) : State :=
  let fenced := (members c.desc).filter fun h => !s.handUp h
  let s1 := s.setColl { c with aborted := true, slots := 0, places := [] }
  let s2 := if c.slots = 0 then s1 else s1.giveSlots c.desc c.slots
  let s3 := fenced.foldl (fun (s : State) h =>
    s.postDealer [h / 160] 0x0C (epHand h 26) (collDetail c.g c.tag (b2n c.admitted))) s2
  ((members c.desc).filter s.handUp).foldl (fun (s : State) h => s.writeCompl c 2 h) s3

/-- Fenced members that make a collective fail: any, but those of a BROADCAST whose root is not fenced. -/
def State.collDoomed (s : State) (c : Coll) : Bool :=
  let fenced := (members c.desc).filter fun h => !s.handUp h
  !fenced.isEmpty && !(CDesc.op c.desc == 4 && !(fenced.contains (c.member (CDesc.root c.desc))))

/-- Everyone a collective waits for has joined: the extents must agree among the members (R367, R369). -/
def State.sizesAgree (s : State) (c : Coll) : Bool :=
  let sizes := c.joins.map fun j => match s.collCmd j.hand with | some x => commonSize c.desc x.r | none => 0
  sizes.all (· == sizes.headD 0)

/-- Everyone the dealer waits for may now have joined: the collective is full, or malformed. -/
def State.collFilled (s : State) (c : Coll) : State :=
  if c.tFull.isSome || !s.fullyJoined c then s.setColl c
  else if s.sizesAgree c then s.setColl { c with tFull := some s.time, pausedFull := c.paused }
  else (s.setColl c).collMalformed c

/-- After a fence or a fold: every collective that now fails, and every BROADCAST that waits for no member any more (R388). -/
def State.failFenced (s : State) : State :=
  (s.colls.filter fun c => !c.aborted && !c.malformed).foldl (fun (s : State) c =>
    if s.collDoomed c then s.collFail c else s.collFilled c) s

/-! ## Order (R370 to R372) -/

/-- tag a precedes tag b. -/
def tagBefore (a b : Nat) : Bool :=
  let d := (b + 2 ^ 28 - a) % 2 ^ 28
  d != 0 && decide (d < 2 ^ 27)

/-- An order fault between two collectives (R371). -/
def orderFault (x y : Coll) : Bool :=
  let both := (members x.desc).filter fun h => (members y.desc).contains h
  let inX := fun (h : Nat) => x.joins.any fun j => j.hand == h
  let inY := fun (h : Nat) => y.joins.any fun j => j.hand == h
  (both.any fun h => inX h && !inY h) && both.any fun h => inY h && !inX h

/-- A record of a queue put back unstarted. -/
def Cmd.fresh (c : Cmd) : Cmd := { r := c.r, va := c.va, det := c.det, skip := c.skip }

/-- The two records of a pair at the head of a queue, in ascending tag order (R372). -/
def reorder (q : List Cmd) (t1 t2 : Nat) : List Cmd :=
  let mine := fun (t : Nat) => (q.filter fun c => Record.opcode c.r == 1 && c.collTag == t).take 1
  let rest := q.filter fun c => !((mine t1).contains c) && !((mine t2).contains c)
  let a := if tagBefore t2 t1 then t2 else t1
  let b := if tagBefore t2 t1 then t1 else t2
  ((mine a).map Cmd.fresh) ++ ((mine b).map Cmd.fresh) ++ rest

/-- A collective begins again from its sources: its slots are free, and every member's record is unstarted, so that each
joins again (R434, R437). -/
def State.restartColl (s : State) (c : Coll) : State :=
  let s1 := (if c.slots = 0 then s else s.giveSlots c.desc c.slots).delColl c.g c.tag
  (members c.desc).foldl (fun (s : State) h =>
    s.setHand h { s.hand h with xq := (s.hand h).xq.map fun x => if Record.opcode x.r == 1 && x.collTag == c.tag then x.fresh else x }) s1

/-- COLL_ORDER (R372): both collectives abort and are posted; the reeves quiesce every member that is not fenced with a local Bell to
replay the pair, or, if either had been replayed before, the job stops. -/
def State.collOrder (s : State) (x y : Coll) : State :=
  let again := s.recov.replayed.contains (x.g, x.tag) || s.recov.replayed.contains (y.g, y.tag)
  let s1 := (s.postDealer (memberSuits x.desc) 0x0A epDealer (collDetail x.g x.tag (b2n again))).postDealer
    (memberSuits y.desc) 0x0A epDealer (collDetail y.g y.tag (b2n again))
  let s2 := ((s1.add32 Reg.order 1).delColl x.g x.tag).delColl y.g y.tag
  if again then
    let s3 := (s2.setBit Reg.dealerStat 31).ring 0 0 0 5
    { s3 with job := { s3.job with stopWanted := if s3.job.run then 1 else s3.job.stopWanted } }
  else
    let hs := (members x.desc ++ members y.desc).dedup.filter s.handUp
    let s3 := (hs.foldl (fun (s : State) h => s.ring 2 (h / 160) (h % 160) 7) s2).recover (hs.map (· / 160)).dedup
    { s3 with recov := { s3.recov with replayed := s3.recov.replayed ++ [(x.g, x.tag), (y.g, y.tag)]
                                       pairs := s3.recov.pairs ++ [(hs, x.tag, y.tag)] } }

/-- The reeves go on with the replay of a pair once all its members have stopped: the two records move to the head of each queue,
and the hands resume (R372). -/
def State.replayPairs (s : State) : State :=
  let ready := s.recov.pairs.filter fun p => s.job.run && p.1.all s.handStopped
  let s1 := ready.foldl (fun (s : State) p =>
    p.1.foldl (fun (s : State) h => s.setHand h { s.hand h with xq := reorder (s.hand h).xq p.2.1 p.2.2 }) s) s
  let s2 := { s1 with recov := { s1.recov with pairs := s1.recov.pairs.filter fun p => !ready.contains p } }
  ready.foldl (fun (s : State) p => p.1.foldl (fun (s : State) h => s.resumeScope 2 (h / 160) (h % 160)) s) s2

/-- CUT_COMPLETE (R372, R447): the last unit of a cut's scope has stopped and every packet is delivered; the reeves go on with what
they rang it for. -/
def execCutComplete (s : State) : Host.Outcome State Fault Refusal := .next s.cutComplete.replayPairs

/-- COLL_JOIN (R369 to R372, R388): the dealer takes a join that has arrived. -/
def execCollJoin (i : Nat) (s : State) : Host.Outcome State Fault Refusal :=
  .next <|
    match s.net[i]? with
    | none => s
    | some p =>
      match p.msg with
      | .join g tag crc h =>
        match s.collCmd h with
        | none => if p.arrived then s.dropPacket i else s
        | some cmd =>
          if !p.arrived then s
          else if (s.findColl g tag).isNone && decide (256 ≤ s.colls.length) then s
          else
            let s1 := s.dropPacket i
            let old := s1.findColl g tag
            let c0 : Coll := old.getD
              { g := g, tag := tag, desc := cmd.collDesc, flags := if s.recov.replayed.contains (g, tag) then 32 else 0, ring := ring4.filter fun a => s.suitUp a && !s.folded a }
            let s2 := if old.isNone then { s1 with colls := s1.colls ++ [c0] } else s1
            let same := c0.joins.all fun j => j.crc == crc
            let c1 := { c0 with joins := (c0.joins.filter fun j => j.hand != h) ++ [{ hand := h, time := s.time, crc := crc }] }
            if c0.admitted then s1
            else if c1.malformed || !same || !s2.joinOk c1.ring cmd.collDesc h cmd.r then (s2.setColl c1).collMalformed c1
            else if c1.aborted then s2.setColl c1
            else if s2.collDoomed c1 then s2.collFail c1
            else
              match s2.colls.find? fun y => !(y.g == g && y.tag == tag) && !y.admitted && !y.aborted && !y.malformed && orderFault c1 y with
              | some y => s2.collOrder c1 y
              | none => s2.collFilled c1
      | _ => s

/-! ## Admission (R373 to R377) -/

/-- The vector-engine path is taken from admission on (R376). -/
def State.vectorFromStart (s : State) (c : Coll) : Bool :=
  CDesc.reduces c.desc &&
    (CDesc.slots c.desc == 0 || s.flag Reg.dealerCtl 0 || (slotEnds c.desc).any fun b => s.flag (Reg.bridgeEnd b) 29)

/-- The collective waits for slots (R375, R398): a BARRIER, a copy, and a reduction that runs on the vector engines from
admission, wait for none. -/
def State.waiting (s : State) (c : Coll) : Bool :=
  c.tFull.isSome && !c.admitted && !c.aborted && !c.malformed && !(slotEnds c.desc).isEmpty && CDesc.slots c.desc != 0 &&
    !s.vectorFromStart c

/-- Slots are free at every bridge end, and no collective with an earlier tag waits for one of them (R373, R375). -/
def State.canReserve (s : State) (c : Coll) : Bool :=
  (slotEnds c.desc).all (fun b => decide (CDesc.slots c.desc ≤ s.slotsFreeAt b) && !s.flag (Reg.bridgeEnd b) 29) &&
    !(s.colls.any fun y => s.waiting y && tagBefore y.tag c.tag && (slotEnds y.desc).any fun b => (slotEnds c.desc).contains b)

/-- Place k of a table named by a reference, whose entries have n bytes: the tile's place and addresses, the bits of the entry in
it, and what R51 compares. -/
def State.tableTile (s : State) (ref n k : Nat) : Expect × Nat × Nat × Nat :=
  let p := s.refPos ref (k * n / 4096)
  let e := s.entry (refTid ref)
  ({ tid := refTid ref, pos := some p, fmt := some (Entry.fmt e) }, Entry.hdrAddr e 0 p.1 p.2, Entry.payAddr e 0 p.1 p.2, k * n % 4096 * 8)

/-- Entry k, of n bytes, of a collective's table, read as a tile by a member's XCHG (R323, R377, R385); `error` carries the state
that waits or has stopped. -/
def State.tableEntry (s : State) (h : Nat) (c : Cmd) (ref n k : Nat) : Except State (State × Nat) :=
  let t := s.tableTile ref n k
  match s.arriveMem 7 h c t.1 256 t.2.1 t.2.2.1 (fun _ => none) false with
  | .wait | .ask _ => .error s
  | .stop s1 => .error s1
  | .ok s1 x => .ok (s1, bits x.pay.toNat t.2.2.2 (8 * n))

/-- The fallback entries of every rank can be reached (R288). -/
def State.fallbackWay (s : State) (c : Coll) : Bool :=
  let ms := ranked c.ring c.desc
  (List.zip (upTo ms.length) ms).all fun x =>
    let t := s.tableTile (CDesc.fallback c.desc) 16 x.1
    s.wayTo x.2 t.2.1 && s.wayTo x.2 t.2.2.1

/-- The detour packets of a collective that runs on the vector-engine path (R377). A member whose entry fails its checks stops,
and gets none. -/
def State.sendDetours (s : State) (c : Coll) : State :=
  let ms := ranked c.ring c.desc
  (List.zip (upTo ms.length) ms).foldl (fun (s : State) x =>
    match s.collCmd x.2 with
    | none => s
    | some cmd =>
      match s.tableEntry x.2 cmd (CDesc.fallback c.desc) 16 x.1 with
      | .error s1 => s1
      | .ok (s1, e) => s1.send epDealer (epHand x.2 25) 3 640 (.detour (bits e 0 48) (bits e 48 16) c.g c.tag)) s

/-- The collective runs on the vector-engine path from now on; `why` are the flags of R390 to set. -/
def State.toVector (s : State) (c : Coll) (why : Nat) : State :=
  let s1 := if c.slots = 0 then s else s.giveSlots c.desc c.slots
  let c1 := { c with vector := true, admitted := true, slots := 0, places := [], doneWork := [], flags := c.flags ||| 4 ||| why,
                     tAdmit := if c.admitted then c.tAdmit else s.time }
  let s2 := if why &&& 2 ≠ 0 ∧ c.flags &&& 2 = 0 then s1.add32 Reg.downgraded 1 else s1
  (s2.setColl c1).sendDetours c1

/-- Cycles that the members' XCHG stations waited since their joins (R574; a free number of them, assumption 5). -/
def State.countWait (s : State) (c : Coll) : State := c.joins.foldl (fun (s : State) j => s.addCycles (Reg.xwait j.hand)) s

/-- COLL_ADMIT (R373 to R376): a fully joined collective is admitted. The dealer admits nothing under a cut (R446). -/
def execCollAdmit (g : BitVec 8) (tag : BitVec 28) (s : State) : Host.Outcome State Fault Refusal :=
  .next <|
    match s.findColl g.toNat tag.toNat with
    | none => s
    | some c =>
      if c.tFull.isNone || c.admitted || c.aborted || c.malformed || s.marked 656 || s.bell.stopped.contains 656 then s
      else if s.collDoomed c then s.collFail c
      else if s.vectorFromStart c then
        if !s.fallbackWay c then s else
        let fencedAdder := (slotEnds c.desc).any fun b => s.flag (Reg.bridgeEnd b) 29
        (s.countWait c).toVector c (if CDesc.slots c.desc != 0 && !s.flag Reg.dealerCtl 0 && fencedAdder then 2 else 0)
      else if (slotEnds c.desc).isEmpty then (s.countWait c).setColl { c with admitted := true, tAdmit := s.time }
      else if s.canReserve c then
        let s1 := (s.countWait c).takeSlots c.desc (CDesc.slots c.desc)
        s1.setColl { c with admitted := true, tAdmit := s.time, slots := CDesc.slots c.desc, places := s.slotPlaces c.desc (CDesc.slots c.desc) }
      else s

/-- ADMIT_TIMEOUT (R375): a collective that has waited for slots longer than the limit is downgraded. It now uses its fallback table,
and is malformed if the reference names no tensor (R369; DEDUCED, assumption 83). -/
def execAdmitTimeout (g : BitVec 8) (tag : BitVec 28) (s : State) : Host.Outcome State Fault Refusal :=
  .next <|
    match s.findColl g.toNat tag.toNat with
    | none => s
    | some c =>
      match c.tFull with
      | none => s
      | some t =>
        let lim := max 1 (s.field Reg.dealerCtl 4 12) * 1000
        if s.waiting c && decide (t + lim + (c.paused - c.pausedFull) < s.time) && !s.marked 656 && !s.bell.stopped.contains 656 then
          if !s.names (refTid (CDesc.fallback c.desc)) then s.collMalformed c
          else if !s.fallbackWay c then s
          else (s.countWait c).toVector c 2
        else s

/-- COLL_TIMEOUT (R391): a member that has not joined in time is reported, once. -/
def execCollTimeout (g : BitVec 8) (tag : BitVec 28) (h : HandIx) (s : State) : Host.Outcome State Fault Refusal :=
  .next <|
    match s.findColl g.toNat tag.toNat with
    | none => s
    | some c =>
      let lim := max 1 (s.field Reg.dealerCtl 16 16) * 1000000
      let absent := (s.wanted c).contains h.val && !(c.joins.any fun j => j.hand == h.val)
      if absent && !c.aborted && !c.malformed && !c.timedOut.contains h.val && decide (c.tFirst + lim + c.paused ≤ s.time) &&
          !s.bell.stopped.contains 656 then
        ((s.setColl { c with timedOut := c.timedOut ++ [h.val] }).add32 Reg.timeouts 1).postDealer [h.val / 160] 0x0B
          (epHand h.val 26) (collDetail c.g c.tag 0)
      else s

/-- PRUNE_NOTICE (R359, R388): a notice that has reached the multicast's source is recorded for its collective. -/
def execPruneNotice (i : Nat) (s : State) : Host.Outcome State Fault Refusal :=
  .next <|
    match s.net[i]? with
    | none => s
    | some p =>
      match p.msg with
      | .prune g tag hs =>
        if !p.arrived then s
        else
          let s1 := s.dropPacket i
          match s1.findColl g tag with
          | none => s1
          | some c => s1.setColl { c with pruned := c.pruned ++ hs.filter fun h => (members c.desc).contains h && !c.pruned.contains h }
      | _ => s

/-! ## Completion (R389, R390, R570) -/

/-- The pieces of work a collective's data rows must do. -/
def State.units (s : State) (c : Coll) : List (Nat × Nat) :=
  let d := c.desc
  let ms := ranked c.ring d
  let n := match c.joins.head? with | some j => (match s.collCmd j.hand with | some x => commonSize d x.r | none => 0) | none => 0
  let pairs := fun (a : List Nat) (b : Nat) => a.flatMap fun x => (upTo b).map fun y => (x, y)
  match CDesc.op d with
  | 1 => pairs (snakes d) n
  | 2 => pairs (snakes d) (n / srcW d)
  | 3 => pairs (upTo ms.length) n
  | 4 => pairs ((upTo ms.length).filter fun k => !c.pruned.contains (ms.getD k 640)) n ++ (upTo c.foldedSuits.length).map fun k => (ms.length + k, 0)
  | 5 => pairs (upTo ms.length) ms.length
  | 6 => (upTo ms.length).map fun k => (k, 0)
  | 7 => [(0, 0)]
  | _ => (upTo (CDesc.maplen d)).map fun k => (k, 0)

/-- A member's detour has run (R377). -/
def State.detourDone (s : State) (c : Coll) (h : Nat) : Bool :=
  let out := s.net.any fun p => p.dest.toNat == epHand h 25 && (match p.msg with | .detour _ _ g t => g == c.g && t == c.tag | _ => false)
  !out && (match (s.hand h).detour with | some d => !(d.grp == c.g && d.tag == c.tag) | none => true) && (s.hand h).detLeft == 0

/-- All of a collective's work is done. -/
def State.collDone (s : State) (c : Coll) : Bool :=
  if c.vector then (s.wanted c).all (s.detourDone c)
  else
    ((s.units c).all fun u => c.doneWork.contains u) &&
      ((s.wanted c).all fun h => match s.collCmd h with | some x => x.acks == 0 | none => true) &&
      (CDesc.op c.desc != 4 || ((members c.desc).filter fun h => !s.handUp h).all fun h => c.pruned.contains h)

/-- COLL_COMPLETE (R389, R390, R570): every member writes its completion record and its COLL may commit; the dealer's
counters follow. -/
def execCollComplete (g : BitVec 8) (tag : BitVec 28) (s : State) : Host.Outcome State Fault Refusal :=
  .next <|
    match s.findColl g.toNat tag.toNat with
    | none => s
    | some c =>
      if !c.admitted || c.aborted || c.malformed || !s.collDone c then s
      else
        let hs := s.wanted c
        let s1 := hs.foldl (fun (s : State) h =>
          let s1 := s.writeCompl c 1 h
          match (s1.hand h).xq with
          | x :: _ => if s1.stHalted 7 h then s1 else s1.finish 7 h 0 x
          | [] => s1) s
        let s2 := if c.slots = 0 then s1 else s1.giveSlots c.desc c.slots
        let s3 := (s2.add64 Reg.collDone 1).add64 Reg.collLate c.lateCyc
        let s4 := if (s3.reg Reg.maxLate).toNat < c.lateCyc then
            (s3.setReg Reg.maxLate (BitVec.ofNat 32 c.lateCyc)).setReg Reg.maxLateEp (BitVec.ofNat 32 c.lastJoin) else s3
        let s5 := if c.pruned.isEmpty then s4 else s4.add32 Reg.pruned 1
        s5.delColl c.g c.tag

/-! ## The adders' residue check (R363, R379, R392) -/

/-- RESIDUE_MISMATCH (R363, R379): the block is added again; a second mismatch fences the adder and its reduction memory, and every
reduction that runs on the bridge path over this end restarts on the vector-engine path. Tiles that a Shuffle has stashed there stay
readable (DESIGN CHOICE, assumption 94). -/
def execResidueMismatch (b : BridgeIx) (lane slot : Nat) (g : BitVec 8) (tag : BitVec 28) (retryOk : Bool) (s : State) :
    Host.Outcome State Fault Refusal :=
  .next <|
    match s.findColl g.toNat tag.toNat with
    | none => s
    | some c =>
      if !c.admitted || c.vector || c.aborted || !CDesc.reduces c.desc || !(slotEnds c.desc).contains b.val then s
      else
        let s1 := s.countSat (Reg.bridgeEnd b.val) 8 8 1
        let detail := fun (twice : Nat) => (lane % 256) <<< 40 + (slot % 256) <<< 32 + c.g <<< 24 + twice <<< 23
        if retryOk then
          (s1.setColl { c with flags := c.flags ||| 8 }).post (linkReeve b.val false) 1 0x02 (epBridge b.val) (detail 0)
        else
          let s2 := (s1.post (linkReeve b.val false) 2 0x02 (epBridge b.val) (detail 1)).setBit (Reg.bridgeEnd b.val) 29
          (s2.colls.filter fun y => y.admitted && !y.vector && !y.aborted && !y.malformed && CDesc.reduces y.desc && (slotEnds y.desc).contains b.val).foldl
            (fun (s : State) y => s.toVector y 10) s2

/-! ## Table changes (R360, R388, R524, R530) -/

/-- APPLY (R360, R524): the copy of pending tables is requested; a reeve may ask at any time, an application core only
while no deal runs. -/
def execApply (i : SuitIx) (reeve : Bool) (s : State) : Host.Outcome State Fault Refusal :=
  .next <|
    if s.suitDark i.val ∨ (!reeve && s.job.run) then s else s.setBit (Reg.fabCtl i.val) 31

/-- The pending copies of a suit become active once it is drained, all at once, if APPLY is set; collectives with a member that
is now fenced or folded follow R388. -/
def State.copyTables (s : State) (i : Nat) : State :=
  if s.flag (Reg.fabCtl i) 31 && s.drained i then
    let mine := fun (a : Nat) => a == Reg.fabCtl i || (decide (Reg.fence i 0 ≤ a) && decide (a ≤ Reg.fence i 4))
    ((s.commitStaged mine).clearBit (Reg.fabCtl i) 31).failFenced
  else s

/-- TABLE_COPY (R360, R388, R541). -/
def execTableCopy (i : SuitIx) (s : State) : Host.Outcome State Fault Refusal := .next (s.copyTables i.val)

/-- One bit of a register that R360 applies, written by the module itself to its pending copy, and APPLY of its suit. The active
copies follow at once in a suit that is drained, else at TABLE_COPY. -/
def State.applyBit (s : State) (a i n : Nat) (on : Bool) : State :=
  let old := PMap.get (s.reg a &&& (if a = Reg.fabCtl i then 0xF else 0xFFFFFFFF)) s.staged a
  let s1 := { s with staged := PMap.put s.staged a (BitVec.ofNat 32 (setBits old.toNat n 1 (b2n on))) }
  (s1.setBit (Reg.fabCtl i) 31).copyTables i

/-- A hand's fence bit, and a suit's fold bit in every suit with power, changed under R360 (R359, R393, R394, R439, R541). -/
def State.setFence (s : State) (h : Nat) (on : Bool) : State := s.applyBit (Reg.fence (h / 160) (h % 160 / 32)) (h / 160) (h % 32) on
def State.setFold (s : State) (i : Nat) (on : Bool) : State :=
  (suits4.filter fun j => !s.suitDark j).foldl (fun (s : State) j => s.applyBit (Reg.fabCtl j) j i on) s

end Sys2Proof.Machine
end

