-- ==== Sys2Proof/Machine/FaultLog.lean ====
section
/-! DEFINITION. The package fault log: records that reach the reeves, the ring, what is held, lost and signalled (R421,
R422, R459, R460, R480). -/

namespace Sys2Proof.Machine

def recSev (r : BitVec 128) : Nat := bits r.toNat 8 2
def recTime (r : BitVec 128) : Nat := bits r.toNat 32 48

/-- The ring is full (R459). -/
def State.logFull (s : State) : Bool :=
  (s.field Reg.faultHead 0 16 + 1) % 65536 == s.field Reg.faultTail 0 16

/-- A record is lost: LOST counts it, saturating; FENCELOST for a fence or fold record (R460). -/
def State.loseRecord (s : State) (r : BitVec 128) : State :=
  let s1 := s.countSat Reg.faultStat 0 16 1
  if 2 ≤ recSev r then s1.setBit Reg.faultStat 30 else s1

/-- The signal of info and corrected records: at most once per millisecond (R421). -/
def State.signalLog (s : State) : State :=
  let due := match s.recov.logT with | none => true | some t => decide (t + 1000000 ≤ s.time)
  if due then { s with recov := { s.recov with logIrq := true, logPending := false, logT := some s.time } }
  else { s with recov := { s.recov with logPending := true } }

/-- A record written at HEAD, in DDR5 and in the list of what lies between TAIL and HEAD. -/
def State.logPut (s : State) (r : BitVec 128) : State :=
  let h := s.field Reg.faultHead 0 16
  let base := (s.reg64 Reg.faultBase) % 2 ^ 35
  let s1 := { s with ddr := Memory.write s.ddr (base + h * 16) 16 r.toNat
                     recov := { s.recov with log := s.recov.log ++ [r] }
                     ctl := { s.ctl with fenceLogged := s.ctl.fenceLogged + b2n (decide (2 ≤ recSev r)) } }
  let s2 := s1.setField Reg.faultHead 0 16 (h + 1)
  if recSev r < 2 then s2.signalLog else s2

/-- A fence or fold record kept in a reeve's own queue of 16 (R422). -/
def State.queueRecord (s : State) (reeve : Nat) (r : BitVec 128) : State :=
  if (s.recov.reeveQ.filter fun x => x.1 == reeve).length < 16 then
    { s with recov := { s.recov with reeveQ := s.recov.reeveQ ++ [(reeve, r)] } }
  else s.loseRecord r

/-- A fence or fold record that finds the ring full: held by the lead reeve, or, once it holds 64, in the reeve's queue
under a package Bell (R421, R422). -/
def State.holdRecord (s : State) (reeve : Nat) (r : BitVec 128) : State :=
  if s.recov.heldRecs.length < 64 then { s with recov := { s.recov with heldRecs := s.recov.heldRecs ++ [r] } }
  else if s.recov.overCut then s.queueRecord reeve r
  else
    let s1 := s.ring 0 0 0 7
    { s1 with recov := { s1.recov with overCut := true } }.queueRecord reeve r

/-- A record that a reeve has received or posted reaches the log, or waits, or is lost (R421, R422, R480). A surplus fence
or fold record of the start-up buffer is lost and marked (DESIGN CHOICE, assumption 26). -/
def State.logRecord (s : State) (reeve : Nat) (r : BitVec 128) : State :=
  if !s.recov.baseWritten then
    if s.recov.startBuf.length < 256 then { s with recov := { s.recov with startBuf := s.recov.startBuf ++ [r] } }
    else s.loseRecord r
  else if !s.logFull && s.recov.heldRecs.isEmpty then s.logPut r
  else if recSev r < 2 then (if s.logFull then s.loseRecord r else s.logPut r)
  else s.holdRecord reeve r

/-- The reeve takes records: it is neither halted nor lost. -/
def State.takes (s : State) (r : Nat) : Bool := !s.recov.haltedReeves.contains r && !s.recov.lostReeves.contains r

/-- FAULT_RECORD (R420, R421): reeve r takes the oldest record on its way to it. Across reeves records reach the log in the order of
their TIME, so an earlier one on its way to another reeve goes first. -/
def execFaultRecord (r : ReeveIx) (s : State) : Host.Outcome State Fault Refusal :=
  .next <|
    match s.recov.flight.find? fun x => x.1 == r.val with
    | none => s
    | some x =>
      if !s.takes r.val || s.recov.flight.any fun y => y.1 != r.val && s.takes y.1 && decide (recTime y.2 < recTime x.2) then s
      else ({ s with recov := { s.recov with flight := s.recov.flight.erase x } }).logRecord r.val x.2

/-- Held records reach the log while it has room. -/
def State.releaseHeld : Nat → State → State
  | 0, s => s
  | n + 1, s =>
    match s.recov.heldRecs with
    | [] => s
    | r :: rs => if s.logFull then s else State.releaseHeld n (({ s with recov := { s.recov with heldRecs := rs } }).logPut r)

/-- The entry of the reeves' queues with the earliest TIME. -/
def earliest : List (Nat × BitVec 128) → Option (Nat × BitVec 128)
  | [] => none
  | x :: xs => match earliest xs with | none => some x | some y => if recTime y.2 < recTime x.2 then some y else some x

/-- The reeves' queues follow in TIME order (R422). -/
def State.releaseQueues : Nat → State → State
  | 0, s => s
  | n + 1, s =>
    match earliest s.recov.reeveQ with
    | none => s
    | some x =>
      let s1 := { s with recov := { s.recov with reeveQ := s.recov.reeveQ.erase x } }
      if !s.recov.heldRecs.isEmpty then
        if s.recov.heldRecs.length < 64 then
          State.releaseQueues n { s1 with recov := { s1.recov with heldRecs := s1.recov.heldRecs ++ [x.2] } }
        else s
      else if s.logFull then State.releaseQueues n { s1 with recov := { s1.recov with heldRecs := [x.2] } }
      else State.releaseQueues n (s1.logPut x.2)

/-- The cut of R422 is resumed once the log and the lead reeve hold everything. -/
def State.endOverCut (s : State) : State :=
  if s.recov.overCut && s.recov.reeveQ.isEmpty && decide (s.recov.heldRecs.length < 64) then
    ({ s with recov := { s.recov with overCut := false } }).resumeScope 0 0 0
  else s

/-- A write of FAULT.TAIL (R421, R422, R459, R460): the records it passes leave the ring, LOST is 0, and what was held
follows. -/
def State.writeTail (s : State) (v : W32) : State :=
  let n := (v.toNat % 65536 + 65536 - s.field Reg.faultTail 0 16) % 65536
  let log := s.recov.log.drop n
  let s1 := (s.setReg Reg.faultTail (BitVec.ofNat 32 (v.toNat % 65536))).setField Reg.faultStat 0 16 0
  let s2 := { s1 with recov := { s1.recov with log := log, logIrq := false
                                               logPending := s1.recov.logPending && log.any fun r => decide (recSev r < 2) } }
  (State.releaseQueues 256 (State.releaseHeld 64 s2)).endOverCut

def execFaultTailWrite (v : W32) (s : State) : Host.Outcome State Fault Refusal := .next (s.writeTail v)

/-- The first write of FAULT.BASE: the start-up buffer, which reeves filled in the order of R421, reaches the log (R480). -/
def State.openLog (s : State) : State :=
  if s.recov.baseWritten then s
  else
    let buf := s.recov.startBuf
    buf.foldl (fun (s : State) r => s.logRecord 0 r)
      { s with recov := { s.recov with baseWritten := true, startBuf := [] } }

/-- FAULT_LOG (R421): the rate limit runs out with records still unsignalled. -/
def execFaultLog (s : State) : Host.Outcome State Fault Refusal :=
  .next <|
    match s.recov.logT with
    | none => s
    | some t =>
      if s.recov.logPending && decide (t + 1000000 ≤ s.time) then
        { s with recov := { s.recov with logIrq := true, logPending := false, logT := some s.time } }
      else s

end Sys2Proof.Machine
end

