-- ==== Sys2Proof/Machine/RegRead.lean ====
section
/-! DEFINITION. Reading registers: repeats, listed words, access codes, derived fields, slow-domain copies, windows on
state at a cut, interrupt sources (R5, R12, R520 to R536, R544 to R554, and each chapter's register tables). -/

namespace Sys2Proof.Machine

/-! ## Addresses (R521, R532, R536) -/

/-- The listed address that a core alias reaches (R536); every other address itself. -/
def canon (a : Nat) : Nat :=
  if a < 0x10000000 then a
  else
    let o := (a - 0x10000000) % 0x08000000
    let q := (o - 0x01000000) % 0x40000
    if o < 0x01000000 ∨ 0x03800000 ≤ o ∨ q < 0x10000 ∨ 0x32000 ≤ q then a
    else
      let w := (q - 0x10000) % 0x2000
      let b := w % 0x400
      let r := b / 0x80 * 0x80 + (if b / 0x80 = 7 then b % 0x80 else b % 0x20)
      a - w + r

/-- The AIA windows, whose registers the manual leaves to the RISC-V AIA (R533). -/
def isAia (a : Nat) : Bool :=
  (decide (0x01000000 ≤ a) && decide (a < 0x01008000)) || (decide (0x02000000 ≤ a) && decide (a < 0x02010000)) ||
    (decide (0x03000000 ≤ a) && decide (a < 0x03010000))

/-- Where a register address points. -/
inductive Loc where
  | manor (a : Nat)
  | suit (s o : Nat)
  | hand (h q : Nat)
  | core (k w : Nat)
  | none
  deriving DecidableEq, Repr

/-- The place of a listed or unlisted word (R532). -/
def locate (a : Nat) : Loc :=
  if a < 0x10000000 then .manor a
  else if 0x30000000 ≤ a then .none
  else
    let s := (a - 0x10000000) / 0x08000000
    let o := (a - 0x10000000) % 0x08000000
    if o < 0x01000000 then .suit s o
    else if 0x03800000 ≤ o then .none
    else
      let h := s * 160 + (o - 0x01000000) / 0x40000
      let q := (o - 0x01000000) % 0x40000
      if q < 0x10000 then .hand h q
      else if q < 0x32000 then .core (h * 17 + (q - 0x10000) / 0x2000) ((q - 0x10000) % 0x2000)
      else .none

/-- The suit whose window holds an address. -/
def Loc.suitOf : Loc → Option Nat
  | .suit s _ => some s
  | .hand h _ => some (h / 160)
  | .core k _ => some (k / 2720)
  | _ => Option.none

/-! ## Access codes (R12): bits that a write sets, and bits that writing 1 clears -/

/-- A listed register: its RW bits, its W1C bits, and how a write takes effect: 0 at once, 1 at the hand's epoch, 2 at the
package epoch, 3 on APPLY, 4 low word and 5 high word of a 64-bit RW register, 6 a row of its own. -/
structure RegRow where
  rw : Nat := 0
  w1c : Nat := 0
  how : Nat := 0
  deriving DecidableEq, Repr

/-- One row of a register map: first address, number of words, row. -/
abbrev RegMap := List (Nat × Nat × RegRow)

/-- Manor registers (R533). -/
def manorMap : RegMap :=
  [(0x00000000, 1, {}), (0x00010000, 1, { rw := 0xFFFF0000 }), (0x00010004, 1, { w1c := 0x10000000 }), (0x00010008, 1, {}),
   (0x0001000C, 1, { how := 6 }), (0x00020000, 1, { rw := 0xFFFFF000, how := 4 }), (0x00020004, 1, { rw := 0xFF, how := 5 }),
   (0x00030000, 1, { rw := 0xFFFFFFF1, how := 2 }), (0x00030004, 1, { w1c := 0x80000000 }), (0x00040000, 1, { how := 6 }),
   (0x00040004, 1, { w1c := 0x20000000 }), (0x00050000, 1, { rw := 0xFFF00000, how := 4 }), (0x00050004, 1, { rw := 7, how := 5 }),
   (0x00050008, 1, {}), (0x0005000C, 1, { how := 6 }), (0x00050010, 1, { w1c := 0x40000000 }),
   (0x00060000, 1, { w1c := 0x80000000 }), (0x00070000, 4, { w1c := 0x40000000 }), (0x00080000, 1, { w1c := 0x04000000 }),
   (0x00090000, 1, {}), (0x00090008, 2, {}), (0x000A0000, 2, {}), (0x000B0000, 1, { w1c := 0x30000000 }), (0x000B0004, 1, {}),
   (0x000C0000, 3, {}), (0x000C000C, 1, { w1c := 0xFC000000 }), (0x000C0010, 1, { w1c := 0x80000000 }), (0x000D0000, 10, {}),
   (0x000D0028, 1, { how := 6 })]

/-- Registers of a Mill at an offset from its base (R278 to R281, R534). -/
def millMap : RegMap :=
  [(0x000, 1, { w1c := 0x1D00001E }), (0x004, 1, {}), (0x008, 2, {}), (0x010, 1, {}), (0x100, 32, { rw := 0xFFFFFFFF }), (0x180, 32, {})]

/-- Suit registers below the Mills and above them (R534). -/
def suitMap : RegMap :=
  [(0x00000, 1, { how := 6 }), (0x00010, 5, { rw := 0xFFFFFFFF, how := 3 }), (0x10000, 2, {}), (0x20000, 1, { rw := 0x301F1, how := 2 }),
   (0x20080, 32, { rw := 0xFFFFFFFF }), (0x30000, 1, { rw := 0x00FF0103, how := 2 }), (0x30004, 1, {}), (0x30008, 1, { how := 6 }),
   (0x30010, 2, {}), (0x30100, 64, {}), (0x40000, 1, { rw := 0xFFFFFF00, how := 2 }), (0x40004, 1, {}), (0x70000, 1, { w1c := 0x10000000 }),
   (0x70004, 1, {}), (0x70008, 1, { how := 6 }), (0x80000, 2, {}), (0x90000, 18, {}), (0x90048, 1, { how := 6 })]

/-- Hand common block (R535). -/
def handMap : RegMap :=
  [(0x0000, 1, { rw := 0x00FFFF03, how := 1 }), (0x0004, 1, { w1c := 0x1C000000 }), (0x0008, 1, { rw := 0x8F000001 }),
   (0x0010, 1, { rw := 0xFFFFFFC0, how := 4 }), (0x0014, 1, { rw := 0xFFFF, how := 5 }), (0x0020, 4, { rw := 0x0FFFFFFF }),
   (0x0100, 64, { rw := 0xFFFFFFFF }), (0x0200, 1, { rw := 0xFF, how := 1 }), (0x0204, 1, { w1c := 0x3DE }), (0x0208, 1, {}),
   (0x0300, 1, { w1c := 0xE0000000 }), (0x0400, 2, {}), (0x0408, 1, { w1c := 0x80000000 }), (0x0500, 1, { w1c := 0x10000000 }),
   (0x0504, 1, {}), (0x0508, 1, { how := 6 }), (0x0600, 1, { rw := 0xF003FFFC, w1c := 0x08000000 }), (0x0604, 1, {}),
   (0x1000, 1, { rw := 0xFFFF03FE, how := 6 }), (0x1004, 9, {})]

/-- A core's 1 KiB (R536). -/
def coreMap : RegMap :=
  [(0x000, 1, {}), (0x004, 1, { w1c := 0x10000000 }), (0x008, 1, {}), (0x00C, 1, { how := 6 }), (0x080, 1, { w1c := 0x70000000 }),
   (0x100, 1, { rw := 0x1FFF, how := 1 }), (0x104, 1, { w1c := 0x16 }), (0x180, 1, { w1c := 0x40000017 }),
   (0x200, 1, { rw := 0x1FFF1, how := 1 }), (0x204, 1, { w1c := 0x1000001F }), (0x280, 1, { w1c := 0x70000016 }),
   (0x300, 1, { rw := 0xF003FFFC, w1c := 0x08000000 }), (0x304, 1, {}), (0x380, 1, { how := 6 }), (0x384, 20, {})]

/-- The row of a listed offset. -/
def RegMap.find (m : RegMap) (o : Nat) : Option RegRow :=
  (List.find? (fun (x : Nat × Nat × RegRow) => decide (x.1 ≤ o) && decide (o < x.1 + 4 * x.2.1)) m).map (·.2.2)

/-- The listed register at a canonical address, or none (R521). -/
def regRow (a : Nat) : Option RegRow :=
  match locate a with
  | .manor a => RegMap.find manorMap a
  | .suit _ o => if 0x50000 ≤ o ∧ o < 0x70000 then RegMap.find millMap (o % 0x10000) else RegMap.find suitMap o
  | .hand _ q => RegMap.find handMap q
  | .core _ w => RegMap.find coreMap w
  | .none => none

/-! ## Derived fields -/

/-- A word with a field replaced. -/
def fld (w : W32) (lo n v : Nat) : W32 := BitVec.ofNat 32 (setBits w.toNat lo n v)
def fldB (w : W32) (i : Nat) (b : Bool) : W32 := fld w i 1 (b2n b)

/-- Tally tiles held by the running or open group, and by groups handed over (R170). -/
def Core.openTiles (c : Core) : Nat :=
  (match c.grp with | none => 0 | some g => g.tiles.length) + (c.closing.flatMap Group.tiles).length
def Core.waitTiles (c : Core) : Nat := sumL (c.handed.map fun g => g.tiles.length) - c.drained.length

/-- A station runs a command. -/
def busy (q : List Cmd) : Bool := q.any fun c => c.begun && !c.complete

/-- Core registers as they read (R170, R171, R198, R336, R337, R551). BUSY of CUBE is 1 for a command that has begun, also while it
waits for credits or tiles or is stopped by the Bell and issues no block step (DESIGN CHOICE, assumption 86). CTX of LOAD counts the
lines that the core's stations have requested and not received (R333). -/
def State.deriveCore (s : State) (k w : Nat) (v : W32) : W32 :=
  let c := s.core k
  let h := k / 17
  if w = 0x000 then
    let p := k % 17
    let failed := s.kitty h == p && s.flag (Reg.spare h) 0
    BitVec.ofNat 32 (p <<< 16 + s.logical h p <<< 8 + b2n failed)
  else if w = 0x080 then fld (fldB v 31 (busy c.ld)) 0 6 c.requests.length
  else if w = 0x104 then
    fld (fld (fld (fldB (fldB v 31 (busy c.cu)) 30 (s.filling k)) 20 4 (8 - c.openTiles - c.waitTiles)) 16 4 c.openTiles) 12 4 c.waitTiles
  else if w = 0x180 then fldB v 31 (busy c.dr)
  else if w = 0x204 then fldB v 31 (busy c.ve)
  else if w = 0x280 then fldB v 31 (busy c.st)
  else v

/-- Hand registers as they read (R87, R239, R546, R573). -/
def State.deriveHand (s : State) (h q : Nat) (v : W32) : W32 :=
  let d := s.hand h
  if q = 4 then
    let run := s.job.run && d.stream && (!d.ended || d.detour.isSome) && !d.halted.contains 9 && !s.handStopped h
    fld (fldB (fldB v 31 run) 29 (s.handStopped h)) 0 7 d.buf.length
  else if q = 8 then fld v 8 5 (s.kitty h)
  else if q = 0x204 then
    match s.active 6 h with
    | none => v
    | some (_, c) =>
      if !c.begun then v
      else
        let live := if d.probs.isEmpty then Record.argBits c.r 27 3 + 1 else (d.probs.filter fun p => p.phase != 4).length
        fldB (fld (fldB v 31 true) 27 4 live) 26 (Record.argBits c.r 30 2 == 1)
  else if q = 0x1004 then fld v 0 12 d.ring.length
  else v

/-- The lead reeve's suit, and its deputy's (R423); 4 for none. -/
def State.leadSuit (s : State) : Nat := if s.suitsUp.isEmpty then 4 else s.leadReeve / 4
def State.deputySuit (s : State) : Nat := s.leadSuits.getD 1 4

/-- Suit registers as they read (R278, R342, R393, R462). -/
def State.deriveSuit (s : State) (i o : Nat) (v : W32) : W32 :=
  if o = 0 then fld (fldB (fldB v 31 (s.flag (Reg.fabCtl i) 31)) 30 (s.drained i)) 0 4 (bits v.toNat 0 4 ||| s.fusedOff)
  else if o = 0x30004 then BitVec.ofNat 32 (s.capMB i)
  else if o = 0x40004 then
    let hs := (upTo 160).map (i * 160 + ·)
    let alive := sumL (((upTo 4).filter fun r => !s.recov.lostReeves.contains (i * 4 + r)).map (2 ^ ·))
    BitVec.ofNat 32 (b2n (s.leadSuit == i) <<< 31 + b2n (s.deputySuit == i) <<< 30 + alive <<< 24 +
      (hs.filter fun h => s.flag (Reg.spare h) 31).length <<< 16 + (hs.filter fun h => s.fenced h).length <<< 8)
  else if o = 0x50000 ∨ o = 0x60000 then
    let m := i * 2 + (o / 0x10000 - 5)
    let run := s.job.run && (s.mill m).stream && !(s.mill m).ended && !(s.mill m).halted && !s.millStopped m
    fldB (fldB (fldB v 31 run) 29 (s.millStopped m)) 25 (s.mill m).pinT.isSome
  else v

/-- Collectives joined and not completed, and those that wait for slots (R398). -/
def State.dealerCounts (s : State) : Nat × Nat :=
  (s.colls.length, (s.colls.filter s.waiting).length)

/-- Manor registers as they read (R398, R491, R458, R460, R518, R519, R552, R553, R607). -/
def State.deriveManor (s : State) (a : Nat) (v : W32) : W32 :=
  if a = Reg.bootStat then
    if s.ctl.step = 0 ∨ s.ctl.step = 9 ∨ bit v.toNat 26 then v
    else fld v 0 16 (satAt 65535 ((s.clock - s.ctl.stepT) / 10000000))
  else if a = Reg.dealerStat then
    let n := s.dealerCounts
    fld (fld (fldB v 30 (decide (256 ≤ n.1))) 8 9 n.1) 0 8 (min 255 n.2)
  else if a = Reg.bellStat then
    fldB (fldB v 31 (s.bell.cuts.any fun c => c.complete && (c.scope == 0 || decide (3 ≤ c.scope)))) 30 (s.bell.cuts.any fun c => !c.complete)
  else if a = Reg.faultStat then fld (fldB v 31 s.logFull) 16 7 s.recov.heldRecs.length
  else if a = Reg.secStat then
    let x := s.sec
    BitVec.ofNat 32 (x.level <<< 30 + b2n x.hold <<< 29 + b2n x.cmdKey.isSome <<< 28 + b2n x.erased <<< 27 + (x.debug % 4) <<< 25 +
      b2n x.rotating <<< 24 + (x.tripped % 16) <<< 20 + min 255 x.tagFail)
  else if a = Reg.secIdx then BitVec.ofNat 32 (s.sec.idNext % 2 ^ 21)
  else if a = Reg.secIdx + 4 then BitVec.ofNat 32 (s.sec.attNext % 2 ^ 17)
  else if a = Reg.timeNow then BitVec.ofNat 32 s.time
  else if a = Reg.timeNow + 4 then BitVec.ofNat 32 (s.time / 2 ^ 32)
  else if a = Reg.jobStat then
    fld (fld (fldB (fldB v 31 s.job.run) 30 s.job.scrub) 16 10 (if s.job.run then s.handsLeft.length else 0)) 0 4 (if s.job.run then s.millsLeft.length else 0)
  else if a = Reg.pwrPanel then fld (fldB v 29 s.ctl.latchOpen) 24 4 s.ctl.state
  else v

/-- CFG.STAT: PENDING and GRACE (R544). -/
def State.deriveCfg (s : State) (a : Nat) (v : W32) : W32 :=
  let b := blockOf a
  let pend := s.staged.any fun e => blockOf e.1 == b && !isApplied e.1
  let grace := match (PMap.get ({} : CfgBlk) s.cfg b).grace with | none => false | some t => decide (s.time < t)
  fldB (fldB v 30 pend) 29 grace

def isCfgStat (a : Nat) : Bool :=
  match locate a with
  | .manor a => a == Reg.cfgStatManor
  | .suit _ o => o == 0x70000
  | .hand _ q => q == 0x500
  | .core _ w => w == 4
  | .none => false

/-- The registers that read from the housekeeping copies (R526, R603 to R605, R608, R609). -/
def isRs (a : Nat) : Bool :=
  a == Reg.pwrLimit || a == Reg.pwrIn || a == Reg.pwrTemp || suits4.any fun i => a == Reg.suitPwrStat i || a == Reg.suitPwrTemp i

/-- The value of a listed register at a canonical address: a staged or applied register reads its pending value (R531). -/
def State.listedValue (s : State) (a : Nat) : W32 :=
  if isRs a then PMap.get (Reg.reset a) s.rs a
  else
    let v := match PMap.find s.staged a with | some v => v | none => s.reg a
    if isCfgStat a then s.deriveCfg a v
    else
      match locate a with
      | .manor a => s.deriveManor a v
      | .suit i o => s.deriveSuit i o v
      | .hand h q => s.deriveHand h q v
      | .core k w => s.deriveCore k w v
      | .none => 0

/-- The observation controls whose only field is write-only. -/
def isWriteOnly (a : Nat) : Bool :=
  a == Reg.manorObsCtl || (match locate a with | .suit _ o => o == 0x90048 | .core _ w => w == 0x380 | _ => false)

/-- A read of a word address: 0 where nothing is listed, in a dark suit's window, and for a write-only word (R5, R12, R521,
R523). -/
def State.readReg (s : State) (a0 : Nat) : W32 :=
  let a := canon a0
  match regRow a with
  | none => 0
  | some r =>
    if (match (locate a).suitOf with | some i => s.suitDark i | none => false) then 0
    else if r.how = 6 ∧ isWriteOnly a then 0
    else s.listedValue a

/-- An access is an aligned word of the register space (R520, R532). -/
def regAccessOk (a width : Nat) : Bool := width == 4 && a % 4 == 0 && decide (a < 0x30000000)

/-! ## Windows on state at a cut (R549, R550) -/

/-- Queue entries as 64-byte records; unused entries read 0. -/
def queueBytes (q : List Cmd) : Nat := packElems 64 (q.map fun c => c.r.toNat)

/-- The group that a tally tile belongs to. -/
def Core.groupOfTile (c : Core) (t : Nat) : Option Group :=
  ((match c.grp with | some g => [g] | none => []) ++ c.closing ++ c.handed).find? fun g => g.tiles.contains t

/-- Bytes of one tally tile: s then c of each element, as its group's mode lays them out; a closed tile in NARROW form
(DESIGN CHOICE, assumption 27). -/
def Core.tallyWord (c : Core) (t o : Nat) : Nat :=
  let wide := match c.groupOfTile t with | some g => g.wide | none => false
  let sz := if wide then 8 else 4
  let n := o / (2 * sz)
  let x : Cell := PMap.get {} c.tally (t * 1024 + n / 32 * 32 + n % 32)
  let both := x.s.toNat % 2 ^ (8 * sz) + (x.c.toNat % 2 ^ (8 * sz)) <<< (8 * sz)
  bits both (8 * (o % (2 * sz))) 32

/-- A row counter's 8 bytes. -/
def Core.rowWord (c : Core) (i : Nat) : Nat :=
  let mode := match c.groupOfTile (i / 32) with | none => 0 | some g => if g.wide then 2 else 1
  PMap.get 0 c.rows i % 2 ^ 36 + mode <<< 36

/-- Size of a core's or a hand's space; 0 for a reserved one. -/
def dbgSize (core : Bool) (sp : Nat) : Nat :=
  if core then
    match sp with
    | 0 => 262144
    | 1 => 65536
    | 2 | 3 | 4 | 5 | 6 | 7 | 8 => 2048
    | _ => 0
  else
    match sp with
    | 0 => 4096
    | 1 | 2 => 2048
    | 3 => 131072
    | _ => 0

/-- The four bytes at an offset of a space of a core. -/
def Core.dbgWord (c : Core) (sp o : Nat) : Nat :=
  match sp with
  | 0 =>
    if o < 63 * 4128 then
      let t := c.slot (o / 4128)
      bits (t.hdr.toNat + t.pay.toNat <<< 256) (8 * (o % 4128)) 32
    else Memory.read c.scratchTop o 4
  | 1 => c.tallyWord (o / 8192) (o % 8192)
  | 2 => bits (c.rowWord (o / 8)) (8 * (o % 8)) 32
  | 3 => bits (queueBytes c.ld) (8 * o) 32
  | 4 => bits (queueBytes c.cu) (8 * o) 32
  | 5 => bits (queueBytes c.dr) (8 * o) 32
  | 6 => bits (queueBytes c.ve) (8 * o) 32
  | 7 => bits (queueBytes c.st) (8 * o) 32
  | _ => bits c.vreg.toNat (8 * o) 32

/-- The four bytes at an offset of a space of a hand; none for the pivot engine's local store, whose layout the manual does not
give. -/
def Hand.dbgWord (d : Hand) (sp o : Nat) : Option Nat :=
  match sp with
  | 0 => some (bits (packElems 64 (d.buf.map fun x => x.2.toNat)) (8 * o) 32)
  | 1 => some (bits (queueBytes d.pq) (8 * o) 32)
  | 2 => some (bits (queueBytes d.xq) (8 * o) 32)
  | _ => none

/-- A read of DBG.DATA whose ADDR register is `ad`: OFFSET advances by 4 in every case (DEDUCED, assumption 27). The local store
reads 0 while the engine has not worked since the scrub, and a free value after (assumption 27). -/
def State.dbgRead (s : State) (ad h : Nat) (core : Option Nat) : State × W32 :=
  let sp := s.field ad 28 4
  let o := s.field ad 0 18
  let s1 := s.setField ad 0 18 (o + 4)
  if dbgSize core.isSome sp ≤ o ∨ (s.job.run ∧ !s.handStopped h) then (s1.setBit ad 27, 0)
  else
    match (match core with | some k => some ((s.core k).dbgWord sp o) | none => (s.hand h).dbgWord sp o) with
    | some v => (s1, BitVec.ofNat 32 v)
    | none => if (s.hand h).stored then (s1.spend, BitVec.ofNat 32 s.fresh) else (s1, 0)

/-- A read of a DBG.DATA register, with its value; none for any other address. A dark suit's window reads 0 (R5, R523). -/
def State.dbgDataAt (s : State) (a : Nat) : Option (State × W32) :=
  let dark := match (locate a).suitOf with | some i => s.suitDark i | none => false
  match locate a with
  | .hand h q => if q ≠ 0x604 then none else some (if dark then (s, 0) else s.dbgRead (Reg.handDbg h) h none)
  | .core k w => if w ≠ 0x304 then none else some (if dark then (s, 0) else s.dbgRead (Reg.coreDbg k) (k / 17) (some k))
  | _ => none

/-- DBG_DATA_READ (R550). -/
def execDbgDataRead (addr : Nat) (s : State) : Host.Outcome State Fault Refusal :=
  .next <|
    if !regAccessOk addr 4 then { s with rsp := .accessFault }
    else match s.dbgDataAt (canon addr) with | some x => { x.1 with rsp := .word (x.2.setWidth 64) } | none => s

/-! ## Reads with an effect, slow-domain copies, interrupts -/

/-- What MANOR.PWR.PANEL reads (R607): no command tells when Release is pressed or let go or an open latch is closed, so BUTTON, and
LATCH once it has been opened, read by free choice (assumption 73). -/
def State.readPanel (s : State) : State × W32 :=
  let v := s.readReg Reg.pwrPanel
  (s.spend, fldB (fldB v 28 (bit s.fresh 0)) 29 (s.ctl.latchOpen && bit s.fresh 1))

/-- A read of a register word through the map: its value and what the read does (R550, R554). What a register of the AIA windows
reads is not given (R533): a free value (assumption 85). -/
def State.readWord (s : State) (a : Nat) : State × W32 :=
  if isAia a then (s.spend, BitVec.ofNat 32 s.fresh)
  else if a = Reg.pwrPanel then s.readPanel
  else
    match s.dbgDataAt (canon a) with
    | some x => x
    | none =>
      let r := s.recov
      let r1 := if a = Reg.bootStat then { r with irq7 := false } else if a = Reg.mgmtStat then { r with irq8 := false }
        else if a = Reg.secStat then { r with irq11 := false } else r
      ({ s with recov := r1 }, s.readReg a)

/-- STATUS_READ (R554): a read of BOOT.STAT, MGMT.STAT or SEC.STAT answers its word and deasserts its source. -/
def execStatusRead (addr : Nat) (s : State) : Host.Outcome State Fault Refusal :=
  .next <|
    let s1 := { s with rsp := .word ((s.readReg addr).setWidth 64) }
    if addr = Reg.bootStat then { s1 with recov := { s1.recov with irq7 := false } }
    else if addr = Reg.mgmtStat then { s1 with recov := { s1.recov with irq8 := false } }
    else if addr = Reg.secStat then { s1 with recov := { s1.recov with irq11 := false } }
    else s

/-- One suit's copies (R608, R609). -/
def State.copySuit (s : State) (r : Sensors) (i : Nat) : State :=
  let x := s.suit i
  let st := (x.clock % 2048) <<< 21 + (x.cap % 16) <<< 17 + (r.psuit.getD i 0).toNat
  let te := b2n x.throttled <<< 30 + (r.slogic.getD i 0).toNat <<< 20 + (r.shbm.getD i 0).toNat <<< 10
  { s with rs := PMap.put (PMap.put s.rs (Reg.suitPwrStat i) (BitVec.ofNat 32 st)) (Reg.suitPwrTemp i) (BitVec.ofNat 32 te) }

/-- HOUSEKEEPING_EDGE (R33, R526): every RS copy is refreshed on the edge. -/
def execHousekeepingEdge (r : Sensors) (s : State) : Host.Outcome State Fault Refusal :=
  .next <|
    let rs1 := PMap.put s.rs Reg.pwrLimit (BitVec.ofNat 32 ((s.gov.fMax % 65536) <<< 16 + s.gov.pLimit % 65536))
    let rs2 := PMap.put rs1 Reg.pwrIn (BitVec.ofNat 32 (r.vin.toNat <<< 16 + r.pin.toNat))
    let rs3 := PMap.put rs2 Reg.pwrTemp (BitVec.ofNat 32 (r.logic.toNat <<< 20 + r.hbm.toNat <<< 10 + r.handle.toNat))
    suits4.foldl (fun (s : State) i => s.copySuit r i) { s with rs := rs3 }

/-- Interrupt source n is asserted (R554). -/
def State.irq (s : State) (n : Nat) : Bool :=
  match n with
  | 1 => s.recov.log.any fun r => decide (2 ≤ recSev r)
  | 2 => s.recov.logIrq
  | 3 => bit (s.readReg Reg.bellStat).toNat 31 || s.flag Reg.bellStat 29
  | 4 => s.flag Reg.jobStat 29 || s.flag Reg.jobStat 28
  | 5 => s.flag Reg.dealerStat 31
  | 6 => s.flag Reg.ddrStat 31
  | 7 => s.recov.irq7
  | 8 => s.flag Reg.mgmtStat 26 || s.recov.irq8
  | 9 => s.flag (Reg.pcieLink 0) 30 || s.flag (Reg.pcieLink 1) 30 || s.recov.aer.contains 0
  | 10 => s.flag (Reg.pcieLink 2) 30 || s.flag (Reg.pcieLink 3) 30 || s.recov.aer.contains 1
  | 11 => s.sec.hold || s.recov.irq11
  | 12 => s.field Reg.pwrEvent 26 6 != 0
  | 13 => s.flag Reg.pwrPanel 31
  | _ => false

end Sys2Proof.Machine
end

