-- ==== Sys2Proof/Machine/RegWrite.lean ====
section
/-! DEFINITION. Writing registers: access codes, gates, staging, pairs, clears; the sector translation; the configuration
check; the drain of trace rings (R12, R80, R294, R334, R360, R449, R520 to R548, R561, R568, R613, R614). -/

namespace Sys2Proof.Machine

/-! ## Observation blocks (R568) -/

/-- Addresses of n words from a. -/
def wordsFrom (a n : Nat) : List Nat := (upTo n).map fun i => a + 4 * i

/-- The counters of the observation block whose control register is at a canonical address. -/
def obsCounters (a : Nat) : List Nat :=
  match locate a with
  | .manor a => if a = Reg.manorObsCtl then wordsFrom 0x000D0000 10 else []
  | .suit i o => if o = 0x90048 then wordsFrom (suitBase i + 0x90000) 18 else []
  | .hand h q => if q = 0x1000 then wordsFrom (handBase h + 0x1008) 8 else []
  | .core k w => if w = 0x380 then wordsFrom (coreBase k + 0x384) 20 else []
  | .none => []

/-- The queues whose commands the counters of a block count: station and core, hand or Mill (R562). -/
def countedQueues (a : Nat) : List (Nat × Nat) :=
  match locate a with
  | .suit i _ => [(8, 2 * i), (8, 2 * i + 1)]
  | .hand h _ => [(6, h), (7, h)]
  | .core k _ => [(1, k), (2, k), (3, k), (4, k), (5, k)]
  | _ => []

/-- The commands of a queue that have begun when a CLEAR comes. -/
def State.markCleared (s : State) (x : Nat × Nat) : State :=
  if (s.queue x.1 x.2).any Cmd.begun then
    s.setQueue x.1 x.2 ((s.queue x.1 x.2).map fun c => if c.begun then { c with cleared := true } else c)
  else s

/-- Every counter of a block set to 0 at once (R568). -/
def State.clearBlock (s : State) (a : Nat) : State :=
  (if (obsCounters a).isEmpty then [] else countedQueues a).foldl State.markCleared
    { s with regs := (obsCounters a).foldl (fun (m : PMap W32) x => PMap.del m x) s.regs }

/-- The window of an address is dark, so it ignores writes (R5, R523). -/
def State.darkAt (s : State) (a : Nat) : Bool := match (locate a).suitOf with | some i => s.suitDark i | none => false

/-- CLEAR (R568): a write of 1 to the CLEAR bit of an observation block. -/
def execClear (addr : Nat) (s : State) : Host.Outcome State Fault Refusal :=
  .next <|
    if !regAccessOk addr 4 then { s with rsp := .accessFault }
    else if s.darkAt (canon addr) then s
    else s.clearBlock (canon addr)

/-! ## The sector translation (R613, R614) -/

/-- Sectors of a pseudo-channel. -/
def State.pcSectors (s : State) : Nat := s.part.pcMB * 1000000 / 32

/-- A write of XLQ: XLA is the sector's place under the interleave in force. -/
def State.writeXlq (s : State) (i : Nat) (v : W32) : State :=
  let pc := bits v.toNat 26 6
  let sec := bits v.toNat 0 26
  let off := offsetOf s.part i (s.outMask i) pc sec
  let ok := !(s.suit i).outPcs.contains pc && decide (sec < s.pcSectors) && decide (off < s.capBytes i)
  let x := if ok then 2 ^ 63 + off else 0
  ((s.setReg (Reg.xlq i) v).setReg (Reg.xla i) (BitVec.ofNat 32 x)).setReg (Reg.xla i + 4) (BitVec.ofNat 32 (x / 2 ^ 32))

/-- XLQ_WRITE (R613, R614); a dark suit ignores it (R5, R523). -/
def execXlqWrite (i : SuitIx) (v : W32) (s : State) : Host.Outcome State Fault Refusal :=
  .next (if s.suitDark i.val then s else s.writeXlq i.val v)

/-! ## The configuration check (R537 to R545) -/

/-- A configuration block, from its number (R538). -/
inductive Blk where
  | manor
  | suit (i : Nat)
  | hand (h : Nat)
  | core (k : Nat)
  deriving DecidableEq, Repr

def blkOf (n : Nat) : Option Blk :=
  if n = 0x1FC0 then some .manor
  else
    let core := decide (0x8000 ≤ n)
    let m := if core then n - 0x8000 else n
    let i := m / 0x2000
    let r := m % 0x2000
    let h := i * 160 + r / 0x20
    if 3 < i then none
    else if core then (if r / 0x20 < 160 ∧ r % 0x20 ≤ 16 then some (.core (h * 17 + r % 0x20)) else none)
    else if r = 0x1FE0 then some (.suit i)
    else if r % 0x20 = 0 ∧ r / 0x20 < 160 then some (.hand h)
    else none

/-- Address of the block's CFG.STAT; CRC and REF follow it. -/
def Blk.stat : Blk → Nat
  | .manor => Reg.cfgStatManor
  | .suit i => Reg.cfgStatSuit i
  | .hand h => Reg.cfgStatHand h
  | .core k => Reg.cfgStatCore k

/-- The words a block's CRC covers, in ascending address order, active values (R537). -/
def State.covered (s : State) (b : Blk) : List Nat :=
  match b with
  | .manor =>
    [(s.reg Reg.cfgCtl).toNat, (s.reg Reg.mmuRoot).toNat, (s.reg (Reg.mmuRoot + 4)).toNat, (s.reg Reg.dealerCtl).toNat,
     s.field Reg.bellCtl 0 1, (s.reg Reg.faultBase).toNat, (s.reg (Reg.faultBase + 4)).toNat]
  | .suit i =>
    [s.foldMask i] ++ ((upTo 5).map fun n => (s.reg (Reg.fence i n)).toNat) ++ [setBits (s.reg (Reg.granCtl i)).toNat 16 2 0] ++
      ((upTo 32).map fun n => (s.reg (Reg.prio i n)).toNat) ++ [(s.reg (Reg.hbmCtl i)).toNat, (s.reg (Reg.reeveCtl i)).toNat]
  | .hand h => [(s.reg (Reg.seqCtl h)).toNat, (s.deriveHand h 8 (s.reg (Reg.spare h))).toNat, (s.reg (Reg.pivotCtl h)).toNat]
  | .core k => [(s.reg (Reg.cubeCtl k)).toNat, (s.reg (Reg.vectCtl k)).toNat]

/-- CRC-32C over the little-endian bytes of the words (R44, R537). -/
def wordsCrc (l : List Nat) : Nat := crc32c (l.flatMap (toBytes 4))

/-- Reeve and endpoint of a block's unit (R420, R430). The manual names no unit for the Manor's block: the lead reeve and
the application-core complex (DESIGN CHOICE, assumption 28); unit 31 stands for a hand, reeve 0 for a suit. -/
def State.blkUnit (s : State) (b : Blk) : Nat × Nat :=
  match b with
  | .manor => (s.leadReeve, epStation 0 18 0)
  | .suit i => (i * 4, epReeve (i * 4))
  | .hand h => (handReeve h, epHand h 31)
  | .core k => (handReeve (k / 17), epCore k)

/-- A suit's blocks exist only while it has rails. -/
def State.blkDark (s : State) (b : Blk) : Bool := s.darkAt b.stat

/-- CFG_SCAN (R539): every block starts a scan at each multiple of 1,024 us of timebase time. -/
def execCfgScan (s : State) : Host.Outcome State Fault Refusal :=
  .next (if s.scanNo < s.time / 1024000 then { s with scanNo := s.time / 1024000 } else s)

/-- The cut that holds a block's unit (R451): scope, suit, hand. -/
def Blk.scope : Blk → Nat × Nat × Nat
  | .manor => (0, 0, 0)
  | .suit i => (1, i, 0)
  | .hand h => (2, h / 160, h % 160)
  | .core k => (2, k / 2720, k / 17 % 160)

/-- A block drifts (R430, R451, R540): DRIFT is set and the record posted; while a deal runs, the reeve rings a local Bell on
the block. A second drift within 24 hours is marked for the swap or fold that follows. -/
def State.raiseDrift (s : State) (n : Nat) (b : Blk) (crc : Nat) : State :=
  let u := s.blkUnit b
  let d := n <<< 32 + crc
  let again := match PMap.find s.recov.drifts n with | none => false | some t => decide (s.time < t + 86400000000000)
  let s1 := s.setBit b.stat 28
  let s1 := { s1 with recov := { s1.recov with drifts := PMap.put s1.recov.drifts n s.time
                                               redrifted := if again then s1.recov.redrifted ++ [n] else s1.recov.redrifted } }
  let s2 :=
    match b with
    | .hand h => s1.postHand h 9 u.2 2 0x0E d 0 0
    | .core k => s1.postHand (k / 17) 9 u.2 2 0x0E d 0 0
    | _ => s1.post u.1 2 0x0E u.2 d
  if s.job.run then let x := b.scope; s2.ring x.1 x.2.1 x.2.2 7 else s2

/-- CFG_SCAN_END (R539, R540): the scan of a block ends. -/
def execCfgScanEnd (block : Nat) (s : State) : Host.Outcome State Fault Refusal :=
  .next <|
    match blkOf block with
    | none => s
    | some b =>
      let c : CfgBlk := PMap.get {} s.cfg block
      if s.scanNo ≤ c.scanned ∨ s.blkDark b then s
      else
        let crc := wordsCrc (s.covered b)
        let st := (s.listedValue b.stat).toNat
        let n := s.field b.stat 0 16
        let s1 := (s.setReg (b.stat + 4) (BitVec.ofNat 32 crc)).setField b.stat 0 16 (n + 1)
        let s2 := { s1 with cfg := PMap.put s1.cfg block { c with scanned := s.scanNo } }
        if bit st 31 && !bit st 30 && !bit st 29 && !bit st 28 && crc != (s.reg (b.stat + 8)).toNat then s2.raiseDrift block b crc
        else s2

/-- GRACE_END (R541): a block's grace period has run out. -/
def execGraceEnd (block : Nat) (s : State) : Host.Outcome State Fault Refusal :=
  .next <|
    let c : CfgBlk := PMap.get {} s.cfg block
    match c.grace with
    | none => s
    | some t => if t ≤ s.time then { s with cfg := PMap.put s.cfg block { c with grace := none } } else s

/-- A write of CFG.REF (R542): VALID is set, DRIFT cleared, the scan in progress starts again. -/
def State.writeCfgRef (s : State) (a : Nat) (v : W32) : State := ((s.setReg a v).setBit (a - 8) 31).clearBit (a - 8) 28

def isCfgRef (a : Nat) : Bool := decide (8 ≤ a) && isCfgStat (a - 8)

/-- CFG_REF_WRITE (R542). -/
def execCfgRefWrite (addr : Nat) (v : W32) (s : State) : Host.Outcome State Fault Refusal :=
  .next <|
    if !regAccessOk addr 4 then { s with rsp := .accessFault }
    else if isCfgRef (canon addr) && !s.darkAt (canon addr) then s.writeCfgRef (canon addr) v
    else s

/-! ## REGISTER_WRITE (R12, R520 to R531) -/

/-- A hand's or Mill's counters, and the sequencer state registers, may be written (R80, R546). -/
def State.handOpen (s : State) (h : Nat) : Bool := !s.job.run || s.handStopped h
def State.evcOpen (s : State) (h : Nat) : Bool := s.handOpen h || s.job.startPending.contains h || !(s.hand h).stream
def State.millOpen (s : State) (m : Nat) : Bool :=
  !s.job.run || s.millStopped m || s.job.startPending.contains (640 + m) || !(s.mill m).stream

/-- The gates on a write: R80, R281, R294, R334, R459, R524, R546 to R548. -/
def State.gateOpen (s : State) (reeve : Bool) (a : Nat) : Bool :=
  match locate a with
  | .manor a => !(s.job.run && (a == Reg.mmuRoot || a == Reg.mmuRoot + 4 || a == Reg.faultBase || a == Reg.faultBase + 4))
  | .suit i o =>
    if o = 0 ∨ (0x10 ≤ o ∧ o < 0x24) ∨ o = 0x20000 then reeve || !s.job.run
    else if 0x50000 ≤ o ∧ o < 0x70000 ∧ 0x100 ≤ o % 0x10000 then s.millOpen (i * 2 + (o / 0x10000 - 5))
    else true
  | .hand h q =>
    if q = 8 then (reeve || !s.job.run) && s.handOpen h
    else if q = 0x10 ∨ q = 0x14 ∨ (0x20 ≤ q ∧ q < 0x30) then s.handOpen h
    else if 0x100 ≤ q ∧ q < 0x200 then s.evcOpen h
    else true
  | _ => true

/-- A register that the configuration check covers and that is not staged (R533 to R537, R541). -/
def isCoveredNow (a : Nat) : Bool :=
  match locate a with
  | .manor a => a == Reg.cfgCtl || a == Reg.mmuRoot || a == Reg.mmuRoot + 4 || a == Reg.faultBase || a == Reg.faultBase + 4
  | .suit _ o => decide (0x20080 ≤ o) && decide (o < 0x20100)
  | .hand _ q => q == 8
  | _ => false

/-- A word after a write under its access codes (R12): RW bits set, W1C bits cleared by 1, others kept. -/
def mixWord (old : W32) (r : RegRow) (v : W32) : W32 :=
  let rw := BitVec.ofNat 32 r.rw
  let wc := BitVec.ofNat 32 r.w1c
  (old &&& ~~~rw &&& ~~~(v &&& wc)) ||| (v &&& rw)

/-- A write that takes effect at once. -/
def State.writeNow (s : State) (a : Nat) (r : RegRow) (v : W32) : State :=
  let s1 := s.setReg a (mixWord (s.reg a) r v)
  if isCoveredNow a then s1.startGrace a else s1

/-- The hand passes no epoch of the running deal (R449). -/
def State.noEpochs (s : State) (h : Nat) : Bool := !(s.hand h).stream || s.fenced h || !s.suitUp (h / 160)

/-- A write of a staged register (R84, R449): pending until the boundary of its level, or at once. -/
def State.writeStaged (s : State) (a : Nat) (r : RegRow) (v : W32) : State :=
  let now := !s.job.run ||
    (r.how == 1 && (match locate a with | .hand h _ => s.noEpochs h | .core k _ => s.noEpochs (k / 17) | _ => false))
  let old := match PMap.find s.staged a with | some x => x | none => s.reg a
  let new := mixWord old r v
  if now then { s.commitOne a new with staged := PMap.del s.staged a } else { s with staged := PMap.put s.staged a new }

/-- SUIT.GRAN.CTL (R294, R338): MODE takes effect at once, the prefetch fields are staged. -/
def State.writeGran (s : State) (i : Nat) (v : W32) : State :=
  (s.setGranMode i (bits v.toNat 16 2)).writeStaged (Reg.granCtl i) { rw := 0x1F1 } v

/-- SUIT.FAB.CTL (R360, R393): the pending fold mask, and APPLY. -/
def State.writeFab (s : State) (i : Nat) (v : W32) : State :=
  let s1 := { s with staged := PMap.put s.staged (Reg.fabCtl i) (v &&& 0xF) }
  if bit v.toNat 31 then s1.setBit (Reg.fabCtl i) 31 else s1

/-- The low word of a 64-bit register is held (R528). -/
def State.holdLow (s : State) (a : Nat) (v : W32) : State := { s with heldLow := PMap.put s.heldLow a v }

/-- The high word writes both words (R528); HAND.SEQ.FETCH also discards the fetch buffer at the resume (R548), and the
first write of MANOR.FAULT.BASE opens the log (R480). -/
def State.writePair (s : State) (a : Nat) (r : RegRow) (v : W32) : State :=
  let lo := a - 4
  let lowRow := (regRow lo).getD {}
  let s1 := match PMap.find s.heldLow lo with | some x => s.writeNow lo lowRow x | none => s
  let s2 := ({ s1 with heldLow := PMap.del s1.heldLow lo }).writeNow a r v
  match locate a with
  | .hand h _ => s2.setHand h { s2.hand h with discard := true }
  | .manor x => if x = Reg.faultBase + 4 then s2.openLog else s2
  | _ => s2

/-- A write of a register that has a row of its own acts as that row. -/
def State.writeOwn (s : State) (a : Nat) (r : RegRow) (v : W32) : State :=
  if a = Reg.bellCtl then
    let s1 := s.bellRing v
    if bit v.toNat 30 then let x := bellScope v.toNat; s1.resumeScope x.1 x.2.1 x.2.2 else s1
  else if a = Reg.faultTail then s.writeTail v
  else if isCfgRef a then s.writeCfgRef a v
  else
    match locate a with
    | .suit i o =>
      if o = 0 then s.writeFab i v
      else if o = 0x30008 then s.writeXlq i v
      else if bit v.toNat 0 then s.clearBlock a
      else s
    | .hand _ _ => let s1 := s.writeNow a r v; if bit v.toNat 0 then s1.clearBlock a else s1
    | _ => if bit v.toNat 0 then s.clearBlock a else s

/-- A write of a word register at a canonical address. -/
def State.writeReg (s : State) (reeve : Bool) (a : Nat) (v : W32) : State :=
  match regRow a with
  | none => s
  | some r =>
    if s.darkAt a || !s.gateOpen reeve a then s
    else if r.how = 6 then s.writeOwn a r v
    else if r.how = 4 then s.holdLow a v
    else if r.how = 5 then s.writePair a r v
    else if r.how = 3 then { s with staged := PMap.put s.staged a v }
    else if r.how = 0 then s.writeNow a r v
    else
      match locate a with
      | .suit i o => if o = 0x20000 then s.writeGran i v else s.writeStaged a r v
      | _ => s.writeStaged a r v

/-- A word written anywhere in the register space. R533 leaves the registers of the AIA windows to the RISC-V AIA: the word is kept
(assumption 85). -/
def State.writeWord (s : State) (reeve : Bool) (a : Nat) (v : W32) : State :=
  if isAia a then { s with aia := PMap.put s.aia a v } else s.writeReg reeve (canon a) v

/-- REGISTER_WRITE (R12, R520 to R531): one access of `width` bytes by an application core or a reeve. -/
def execRegisterWrite (reeve : Bool) (addr width : Nat) (v : W32) (s : State) : Host.Outcome State Fault Refusal :=
  .next (if regAccessOk addr width then s.writeWord reeve addr v else { s with rsp := .accessFault })

/-! ## TRACE_DRAIN (R561, R566) -/

/-- Nanoseconds between drain-write starts: DRAIN_GAP cycles, at least 64, or 1,024 for a Mill, of the hand clock. -/
def State.drainGap (s : State) (u : Nat) : Nat :=
  let cyc := if u < 640 then max 64 (s.field (Reg.handObsCtl u) 16 16) else 1024
  let mhz := max 1 (s.suit (if u < 640 then u / 160 else (u - 640) / 2)).clock
  cyc * 1000 / mhz

/-- TRACE_DRAIN (R561): 32 records wait, the gap has passed, the unit is not stopped. -/
def execTraceDrain (u : Fin 648) (s : State) : Host.Outcome State Fault Refusal :=
  .next <|
    let last := if u.val < 640 then (s.hand u.val).drainT else (s.mill (u.val - 640)).drainT
    if s.job.run && decide (32 ≤ (s.ringOf u.val).length) && decide (last + s.drainGap u.val ≤ s.now u.val) && !s.bell.stopped.contains u.val then
      let s1 := s.drainWrite u.val
      if u.val < 640 then s1.setHand u.val { s1.hand u.val with drainT := s.now u.val }
      else s1.setMill (u.val - 640) { s1.mill (u.val - 640) with drainT := s.now u.val }
    else s

end Sys2Proof.Machine
end

