-- ==== Sys2Proof/Machine/Granary.lean ====
section
/-! DEFINITION. Prefetch, patrol and map-out (R315 to R319, R325 to R329, R332, R333). -/

namespace Sys2Proof.Machine

/-! ## Prefetch (R315 to R319) -/

/-- Prefetch lines ahead (R338). -/
def State.pfDepth (s : State) (i : Nat) : Nat := max 1 (s.field (Reg.granCtl i) 4 5)

/-- Contexts of a slice in use (R332, R333): lines that the suits' cores have requested there, and fills in flight. -/
def State.sliceContexts (s : State) (i slice : Nat) : Nat :=
  (s.cores.flatMap fun c => c.2.requests.filter fun l => l / 2 ^ 31 == i && s.sliceOf (l * 128) == slice).length +
    ((s.suit i).gran.filter fun g => g.filling && g.set / 1536 == slice).length

/-- Where a stream's next prefetch goes. -/
inductive PfTarget where
  /-- the stream stops: it has run PF_DEPTH ahead, or a boundary has no attachment -/
  | stop
  /-- the page entered may not be read (R316) -/
  | drop
  | line (pa : Nat)
  deriving DecidableEq, Repr

/-- A stream runs within the page of its latest demand request, and into the next page with the frame that a request has
attached (R315, R316). -/
def Det.target (d : Det) (depth : Nat) : PfTarget :=
  let v := (d.last : Int) + d.stride * (d.ahead + 1)
  if d.hits < 3 ∨ depth ≤ d.ahead ∨ v < 0 then .stop
  else
    let l := v.toNat
    if l / 512 = d.last / 512 then .line (d.frame + l % 512 * 128)
    else
      match d.next with
      | some (p, some f) => if p = l / 512 then .line (f + l % 512 * 128) else .stop
      | some (p, none) => if p = l / 512 then .drop else .stop
      | none => .stop

/-- PREFETCH_ISSUE (R315 to R319): detector `det` of the suit's list, if it is trained, prefetches the next line ahead while
at least 128 of the slice's 1,024 contexts are free; `arrived` says that its fill completes before the next demand. -/
def execPrefetchIssue (i : SuitIx) (det : Nat) (arrived : Bool) (s : State) : Host.Outcome State Fault Refusal :=
  .next <|
    match (s.suit i.val).dets[det]? with
    | none => s
    | some d =>
      if !s.flag (Reg.granCtl i.val) 0 then s
      else
        let s1 := s.setSuit i.val { s.suit i.val with dets := (s.suit i.val).dets.set det { d with ahead := d.ahead + 1 } }
        match d.target (s.pfDepth i.val) with
        | .stop => s
        | .drop => s1.add64 (Reg.pfDrop i.val) 1
        | .line pa =>
          let home := pa / 2 ^ 38
          if 896 < s.sliceContexts home (s.sliceOf pa) then s
          else if (s.lineAt home (pa / 128)).isSome then s1
          else
            let s2 := s1.fillLine home (pa / 128) d.tid 2 true true 0 0 0 0
            match s2.lineAt home (pa / 128) with
            | none => s2
            | some g => ((if arrived then s2.landFill home g else s2).add64 (Reg.pfIssued home) 1)

/-! ## Patrol (R325) -/

/-- PATROL_READ (R321, R322, R325): a patrol reads one sector of a pseudo-channel, in which it finds `ecc`: 0 nothing more than
stood there, 1 a corrected error, 2 an uncorrectable one. Corrected data is written back. -/
def execPatrolRead (i : SuitIx) (pc : Fin 64) (sector ecc sev : Nat) (hard : Bool) (s : State) : Host.Outcome State Fault Refusal :=
  .next <|
    if s.suitDark i.val ∨ !s.flag (Reg.hbmCtl i.val) 8 ∨ (s.suit i.val).outPcs.contains pc.val ∨ s.pcSectors ≤ sector then s
    else
      let k := hbmKey i.val pc.val sector
      let s1 := s.putError k ecc sev hard
      let x := PMap.get 0 s1.latent k
      let p := i.val * 2 ^ 38 + offsetOf s.part i.val (s.outMask i.val) pc.val sector
      let s2 := s1.noteSev i.val pc.val (bits x 2 2)
      match x % 4 with
      | 0 => { s2 with latent := PMap.del s2.latent k }
      | 1 => { s2.hbmCe i.val pc.val with latent := PMap.del s2.latent k }
      | _ => if s.poisoned.contains p then s2 else s2.hbmUe i.val pc.val sector p (bits x 2 2) (bit x 4) false

/-! ## Map-out (R326 to R329) -/

/-- The reason holds (R326, R329): 0 a hard-failed sector, 1 UE_LIMIT reached, 2 training failure. -/
def State.outReason (s : State) (i pc reason : Nat) : Bool :=
  match reason with
  | 0 => s.flag (Reg.hbmPc i pc) 30
  | 1 => decide (max 1 (s.field (Reg.hbmCtl i) 16 8) ≤ PMap.get 0 (s.suit i).ueCounts pc)
  | _ => s.ctl.step == 4

/-- The map-out reserve still holds a pseudo-channel's capacity (R327): while a deal runs, RESERVE less what has been taken
since it was admitted (DEDUCED, assumption 25). -/
def State.reserveLeft (s : State) (i : Nat) : Bool :=
  let taken := if s.job.run then (s.suit i).outPcs.length - PMap.get 0 s.job.outAt i else 0
  decide (taken < s.field (Reg.hbmCtl i) 0 2)

/-- The HBM_PC_OUT record (R329). -/
def State.postPcOut (s : State) (i pc reason : Nat) : State :=
  s.post (i * 4 + pc / 16) 2 0x04 (epStation i 1 pc) (reason <<< 44 + (((s.suit i).outPcs.length + 1) % 64) <<< 38)

/-- The migration of a map-out reads every sector of the other pseudo-channels and writes it to its new cell: errors that
stand there are found, and mended unless they are hard (R322, R324, R328 step 4). -/
def State.migrate (s : State) (i pc : Nat) : State :=
  let mine := s.latent.filter fun e => e.1 / 2 ^ 32 == i && e.1 / 2 ^ 26 % 64 != pc
  let s1 := mine.foldl (fun (s : State) e =>
    s.hbmRead (s.cellAt e.1) false) s
  { s1 with latent := s1.latent.filter fun e => e.1 / 2 ^ 32 != i || bit e.2 4 }

/-- Granary written back and empty, the interleave rebuilt, contents migrated, capacity reduced, OUT set (R328 steps 2 to 5).
Every granule that the lost pseudo-channel held is poison until it is rewritten. -/
def State.mapOutNow (s : State) (i pc : Nat) : State :=
  let s0 := (s.flushGranary i).migrate i pc
  let x := s0.suit i
  let top := s0.capBytes i
  let s1 := s0.setSuit i { x with outPcs := x.outPcs ++ [pc], mapping := none }
  let lo := i * 2 ^ 38 + s1.capBytes i
  let hi := i * 2 ^ 38 + top
  let s2 := { s1 with mem := Memory.clearRange s1.mem lo hi
                      poisoned := s1.poisoned.filter fun p => decide (p < lo) || decide (hi ≤ p)
                      lostPc := s1.lostPc ++ [(i, s0.outMask i, pc)]
                      healed := s1.healed.filter fun p => !(p / 2 ^ 38 == i && channelOf s.part i (s0.outMask i) (p % 2 ^ 38) == pc) }
  (s2.setBit (Reg.hbmPc i pc) 31).setBusy none

/-- The suit is quiesced: every hand and Mill of it in service has stopped. -/
def State.suitQuiet (s : State) (i : Nat) : Bool :=
  s.bell.cuts.any fun c => c.complete && (c.scope == 0 || decide (3 ≤ c.scope) || (c.scope == 1 && c.suit == i))

/-- MAP_OUT (R326 to R329): first the record and the suit's Bell; once the suit is quiesced, the map-out. A map-out beyond
the reserve does not proceed. While no deal runs the suit holds no work to quiesce. -/
def execMapOut (i : SuitIx) (pc : Fin 64) (reason : Nat) (s : State) : Host.Outcome State Fault Refusal :=
  .next <|
    let x := s.suit i.val
    if s.suitDark i.val ∨ x.outPcs.contains pc.val then s
    else if x.mapping = some pc.val then (if s.suitQuiet i.val || !s.job.run then s.mapOutNow i.val pc.val else s)
    else if x.mapping.isSome || !s.outReason i.val pc.val reason || !s.reserveLeft i.val || !s.mayRecover (640 + i.val) then s
    else
      let s1 := (s.postPcOut i.val pc.val reason).setSuit i.val { s.suit i.val with mapping := some pc.val }
      if s.job.run then ((s1.ring 1 i.val 0 7).recover [i.val]).setBusy (some (640 + i.val)) else s1

end Sys2Proof.Machine
end

