-- ==== Sys2Proof/Machine/MemEv.lean ====
section
/-! DEFINITION. Requests to memory and their answers: reads, writes, atomics, DDR5 errors, the aperture, the Manor DMA and
PCIe (R289 to R297, R323, R463 to R467, R483). -/

namespace Sys2Proof.Machine

/-! ## Requests at the home slice (R289) -/

/-- n bytes from an address, cut at 64 KiB pages: addresses and lengths. -/
def pagesFrom : Nat → Nat → Nat → List (Nat × Nat)
  | 0, _, _ => []
  | f + 1, a, n =>
    if n = 0 then []
    else
      let k := min n (65536 - a % 65536)
      (a, k) :: pagesFrom f (a + k) (n - k)
def pages (a n : Nat) : List (Nat × Nat) := pagesFrom (n / 65536 + 2) a n

/-- All pieces translated, or why the first that may not be accessed is not. -/
def State.trAll (s : State) (acc : Acc) : List (Nat × Nat) → Except Refuse (List (Nat × Nat × Bool))
  | [] => .ok []
  | (a, n) :: ps =>
    match s.translate a acc with
    | .fault k p => .error (.fault a k p)
    | .poison => .error .poison
    | .ok pa pc =>
      match s.trAll acc ps with
      | .error f => .error f
      | .ok r => .ok ((pa, n, pc) :: r)

/-- The bytes of the pieces, in order; poison anywhere answers poison. -/
def State.bytesOf (s : State) (l : List (Nat × Nat × Bool)) : List Byte := l.flatMap fun x => Memory.bytes s.mem x.1 x.2.1
def State.anyPoison (s : State) (l : List (Nat × Nat × Bool)) : Bool := l.any fun x => s.poisonIn x.1 x.2.1

/-- Every piece of a request finds a way to its home (R288). -/
def State.waysTo (s : State) (unit : Nat) (l : List (Nat × Nat)) : Bool := l.all fun x => s.wayTo unit x.1

/-- The station that issues the requests of an endpoint: of a core its LOAD, for a write or an atomic its STORE; a hand's other
units. -/
def stationOfEp (e : Nat) (write : Bool) : Option (Nat × Nat) :=
  match epToHand e with
  | none => none
  | some h =>
    let u := epUnit e
    if u ≤ 16 then some (if write then 5 else 1, h * 17 + u)
    else if u = 24 then some (6, h)
    else if u = 26 then some (7, h)
    else if u = 25 then some (9, h)
    else none

/-- A request that may not be made (R303, R323, R465): the station or the Mill that issued it stops and reports; any other
requester is answered with an access fault. -/
def State.refuseAt (s : State) (e : Nat) (write : Bool) (f : Refuse) : State :=
  match stationOfEp e write, epToMill e with
  | some (st, u), _ => s.refuse st u f 0 (match s.active st u with | some x => Record.serial x.2.r | none => 0)
  | none, some m => (match f with | .fault a _ _ => s.millStop m a | .poison => s.millEscalate m 0 3 false 0)
  | none, none => { s with rsp := .accessFault }

/-- MEMORY_READ (R289, R292, R303, R317, R321 to R323): `ecc`, `sev` and `hard` are what the HBM read of the first sector finds
if its line or sector misses the granary. The answer stands in `rsp`. -/
def execMemoryRead (ep : BitVec 16) (va len : Nat) (tid : BitVec 24) (ecc sev : Nat) (hard : Bool) (s : State) :
    Host.Outcome State Fault Refusal :=
  .next <|
    let unit := unitOfEp ep.toNat
    if !epValid ep.toNat || !s.waysTo unit (pages va len) then s
    else
      match s.trAll .read (pages va len) with
      | .error f => s.refuseAt ep.toNat false f
      | .ok l =>
        match l with
        | [] => s
        | x :: _ =>
          let miss := (s.sectorCached (x.1 / 32 * 32)).isNone
          let s1 := if miss then s.putError (s.cellOf (x.1 / 32 * 32)) ecc sev hard else s
          let s2 := (pages va len).foldl (fun (s : State) y => s.seen unit tid.toNat y.1 y.2) s1
          { s2 with rsp := if s2.anyPoison l then .poison else .bytes (s2.bytesOf l) }

/-- A list of bytes written over the pieces, partner copies included, for the pieces' virtual addresses. -/
def State.writePieces (s : State) (unit : Nat) : List (Nat × Nat) → List (Nat × Nat × Bool) → List Byte → State
  | (va, _) :: vs, (pa, n, pc) :: ps, d => (s.storeVa unit 0 va pa pc n (ofBytes (d.take n))).writePieces unit vs ps (d.drop n)
  | _, _, _ => s

/-- MEMORY_WRITE (R289 to R291, R303, R305, R323). -/
def execMemoryWrite (ep : BitVec 16) (va : Nat) (data : List Byte) (s : State) : Host.Outcome State Fault Refusal :=
  .next <|
    let unit := unitOfEp ep.toNat
    if !epValid ep.toNat || !s.waysTo unit (pages va data.length) then s
    else
      match s.trAll .write (pages va data.length) with
      | .error f => s.refuseAt ep.toNat true f
      | .ok l => { s.writePieces unit (pages va data.length) l data with rsp := .none }

/-! ## Atomics (R295 to R297, R323) -/

/-- Bytes of an atomic's word: `op` 0 add, 1 minimum, 2 maximum, 3 compare-and-swap; `ty` 0 FP32, 1 FP64, 2 INT32,
3 INT64. -/
def atomicSize (op ty : Nat) : Nat := if op = 3 then 8 else if ty = 0 ∨ ty = 2 then 4 else 8

/-- The new value and the flags. -/
def atomicNew (op ty old v cmp : Nat) : Nat × Fl :=
  if op = 3 then (if old = cmp then v else old, 0)
  else
    match ty with
    | 0 => atomicFp op 1 old (v % 2 ^ 32)
    | 1 => atomicFp op 0 old v
    | 2 => (atomicInt op 32 old (v % 2 ^ 32), 0)
    | _ => (atomicInt op 64 old v, 0)

def epApps : Nat := epStation 0 18 0

/-- Who may issue an atomic (R295): STORE the FP32 and FP64 ones, a Mill add and compare-and-swap, the application cores
all. -/
def mayIssue (e op ty : Nat) : Bool :=
  if (epToCore e).isSome then decide (op ≤ 2) && decide (ty ≤ 1)
  else if (epToMill e).isSome then op == 0 || op == 3
  else e == epApps

/-- An atomic on a poisoned sector is not applied (R323). -/
def State.atomicPoison (s : State) (e : Nat) : State :=
  match epToCore e, epToMill e with
  | some k, _ => s.setBit (Reg.storeStat k) 28
  | none, some m => { s.millEscalate m 0 3 false 0 with rsp := .poison }
  | none, none => { s with rsp := .accessFault }

/-- Flags reach the issuer's status register; the Mill and the application cores get the old value (R297). -/
def State.atomicAnswer (s : State) (e old : Nat) (f : Fl) : State :=
  match epToCore e, epToMill e with
  | some k, _ => s.flags (Reg.storeStat k) (f &&& 0b10110#5)
  | none, some m => { s.flags (Reg.millStat m) (f &&& 0b11110#5) with rsp := .word (BitVec.ofNat 64 old) }
  | none, none => { s with rsp := .word (BitVec.ofNat 64 old) }

/-- An atomic applied at its home slice, on the line that it meets there. -/
def State.applyAtomic (s : State) (e va pa : Nat) (pc : Bool) (op ty v cmp : Nat) : State :=
  let n := atomicSize op ty
  let s0 := s.atHome (unitOfEp e) 0 va pa n
  if s0.poisonIn pa n then s0.atomicPoison e
  else
    let old := Memory.read s0.mem pa n
    let r := atomicNew op ty old v cmp
    let s1 := (s0.storeHome 0 pa pc n r.1).add64 (Reg.atomics (pa / 2 ^ 38)) 1
    s1.atomicAnswer e old r.2

/-- ATOMIC (R295, R297, R303, R323): a word that is not naturally aligned is refused as an access fault to an application core;
no other unit forms such an address. -/
def execAtomic (ep : BitVec 16) (va op ty : Nat) (v cmp : BitVec 64) (s : State) : Host.Outcome State Fault Refusal :=
  .next <|
    let e := ep.toNat
    if !mayIssue e op ty || !s.wayTo (unitOfEp e) va then s
    else if va % atomicSize op ty ≠ 0 then (if e = epApps then { s with rsp := .accessFault } else s)
    else
      match s.translate va .atomic with
      | .fault k pc => s.refuseAt e true (.fault va k pc)
      | .poison => s.refuseAt e true .poison
      | .ok pa pc => s.applyAtomic e va pa pc op ty v.toNat cmp.toNat

/-! ## DDR5 (R466, R467, R492) -/

/-- An uncorrectable burst: poisoned, recorded in MANOR.DDR.STAT. -/
def State.ddrUe (s : State) (ch addr : Nat) : State :=
  let b := addr / 64 * 64
  let s1 := { s with ddrPoisoned := if s.ddrPoisoned.contains b then s.ddrPoisoned else s.ddrPoisoned ++ [b] }
  ((s1.setBit Reg.ddrStat 31).setField Reg.ddrStat 30 1 ch).countSat Reg.ddrStat 16 8 1

/-- DDR_READ_UE (R466, R467): the reading core takes an access fault; the Manor DMA gets a poisoned completion. -/
def execDdrReadUe (ch : Fin 2) (addr : Nat) (dma : Bool) (s : State) : Host.Outcome State Fault Refusal :=
  .next { s.ddrUe ch.val addr with rsp := if dma then .poison else .accessFault }

/-- DDR_PATROL (R466): `ecc` is 0 nothing, 1 corrected and written back, 2 uncorrectable. -/
def execDdrPatrol (ch : Fin 2) (addr ecc : Nat) (s : State) : Host.Outcome State Fault Refusal :=
  .next <|
    match ecc with
    | 0 => s
    | 1 => s.countSat Reg.ddrStat 0 16 1
    | _ => s.ddrUe ch.val addr

/-- n bytes of DDR5 hold a poisoned burst. -/
def State.ddrBad (s : State) (a n : Nat) : Bool := s.ddrPoisoned.any fun p => decide (p < a + n) && decide (a < p + 64)
/-- A write of DDR5: wholly written bursts lose their poison, and a reservation of the bytes is lost. -/
def State.ddrWrite (s : State) (a : Nat) (d : List Byte) : State :=
  { s with ddr := Memory.writeBytes s.ddr a d
           reserved := s.reserved.filter fun r => decide (r.1 + r.2 ≤ a) || decide (a + d.length ≤ r.1)
           ddrPoisoned := s.ddrPoisoned.filter fun p => !(decide (a ≤ p) && decide (p + 64 ≤ a + d.length)) }

/-! ## The application cores' map (R464, R465, R483) -/

/-- Where an address of the map of R464 lies. NVMe stands outside it, for the Manor DMA only. -/
inductive Place where
  | regs (a : Nat)
  | ddr (a : Nat)
  | hbm (a : Nat)
  | nvme
  | none
  deriving DecidableEq, Repr

def placeOf (a : Nat) : Place :=
  if a < 0x30000000 then .regs a
  else if 0x800000000 ≤ a ∧ a < 0x1000000000 then .ddr (a - 0x800000000)
  else if 2 ^ 48 ≤ a ∧ a < 2 ^ 49 then .hbm (a - 2 ^ 48)
  else if 2 ^ 60 ≤ a then .nvme
  else .none

/-- One page piece of the aperture: device virtual while a deal runs, physical otherwise (R465). -/
def State.apTranslate (s : State) (a : Nat) (acc : Acc) : Tr :=
  if s.job.run then s.translate a acc
  else if a < 2 ^ 40 ∧ a % 2 ^ 38 < s.capBytes (a / 2 ^ 38) then .ok a false
  else .fault 0 false

def State.apAll (s : State) (acc : Acc) : List (Nat × Nat) → Option (List (Nat × Nat × Bool))
  | [] => some []
  | (a, n) :: ps =>
    match s.apTranslate a acc with
    | .ok pa pc =>
      match s.apAll acc ps with
      | none => none
      | some r => some ((pa, n, pc) :: r)
    | _ => none

/-- A suit's home slices are reached from the Manor over its Manor link (R288). -/
def State.apWay (s : State) (l : List (Nat × Nat × Bool)) : Bool := l.all fun x => s.manorUp (x.1 / 2 ^ 38)

/-- The pieces of an aperture read meet their lines; those of a write take the bytes, partner copies included. Unit 658 holds no
translation cache; between deals no page is walked and no tensor is known. -/
def State.apSeen (s : State) (unit : Nat) (vs : List (Nat × Nat)) (l : List (Nat × Nat × Bool)) : State :=
  (List.zip vs l).foldl (fun (s : State) x => if s.job.run then s.seen unit 0 x.1.1 x.1.2 else s.readLines x.1.1 x.2.1 x.2.2.1 0) s
def State.apWrite (s : State) (unit : Nat) (vs : List (Nat × Nat)) (l : List (Nat × Nat × Bool)) (d : List Byte) : State :=
  if s.job.run then s.writePieces unit vs l d
  else (l.foldl (fun (x : State × List Byte) y => (x.1.storeHome 0 y.1 y.2.2 y.2.1 (ofBytes (x.2.take y.2.1)), x.2.drop y.2.1)) (s, d)).1

/-- The answer of a read through the map. -/
inductive MapRd where
  | ok (d : List Byte)
  | poison
  | fault
  /-- no way to the home is in service: the request waits (R288) -/
  | wait
  deriving DecidableEq, Repr

/-- n bytes read through the map by a unit of the Manor (R464, R465, R520), and what the read does. -/
def State.mapRead (s : State) (unit a n : Nat) : State × MapRd :=
  match placeOf a with
  | .regs r => if regAccessOk r n then let x := s.readWord r; (x.1, .ok (toBytes 4 x.2.toNat)) else (s, .fault)
  | .ddr o => (s, if 2 ^ 35 < o + n then .fault else if s.ddrBad o n then .poison else .ok (Memory.bytes s.ddr o n))
  | .hbm o =>
    if 2 ^ 48 < o + n then (s, .fault)
    else
      match s.apAll .read (pages o n) with
      | none => (s, .fault)
      | some l =>
        if !s.apWay l then (s, .wait)
        else (s.apSeen unit (pages o n) l, if s.anyPoison l then .poison else .ok (s.bytesOf l))
  | _ => (s, .fault)

/-- The outcome of a write through the map. -/
inductive MapWr where
  | ok (s : State)
  | fault
  | wait
  deriving DecidableEq, Repr

/-- Bytes written through the map. A word written in an AIA window is kept (R533, assumption 85). -/
def State.mapWrite (s : State) (unit a : Nat) (d : List Byte) : MapWr :=
  match placeOf a with
  | .regs r => if regAccessOk r d.length then .ok (s.writeWord false r (BitVec.ofNat 32 (ofBytes d))) else .fault
  | .ddr o => if 2 ^ 35 < o + d.length then .fault else .ok (s.ddrWrite o d)
  | .hbm o =>
    if 2 ^ 48 < o + d.length then .fault
    else
      match s.apAll .write (pages o d.length) with
      | none => .fault
      | some l => if !s.apWay l then .wait else .ok (s.apWrite unit (pages o d.length) l d)
  | _ => .fault

/-- The atomics of an application core that act on DDR5 only (R296, R463): 6 AMOSWAP, 7 AMOAND, 8 AMOOR, 9 AMOXOR, 10 AMOMINU,
11 AMOMAXU; the new word (their meaning is RISC-V's, PRESUMED, assumption 85). -/
def ddrAmo (op old v : Nat) : Nat :=
  match op with
  | 6 => v
  | 7 => old &&& v
  | 8 => old ||| v
  | 9 => old ^^^ v
  | 10 => min old v
  | _ => max old v

/-- An atomic on a word of n bytes of DDR5. 12 LR reads and reserves the word; 13 SC writes it while the reservation of that word
stands and answers 0, else answers 1, and ends the reservation. -/
def State.ddrAtomic (s : State) (op o n v cmp : Nat) : State :=
  if s.ddrBad o n then { s with rsp := .accessFault }
  else
    let old := Memory.read s.ddr o n
    let w := v % 2 ^ (8 * n)
    let put := fun (x : Nat) => { s.ddrWrite o (toBytes n x) with rsp := .word (BitVec.ofNat 64 old) }
    if op = 12 then { s with reserved := some (o, n), rsp := .word (BitVec.ofNat 64 old) }
    else if op = 13 then
      let hit := s.reserved == some (o, n)
      let s1 := if hit then s.ddrWrite o (toBytes n w) else s
      { s1 with reserved := none, rsp := .word (if hit then 0 else 1) }
    else if 6 ≤ op then put (ddrAmo op old w)
    else put (atomicNew (op - 2) (if n = 4 then 2 else 3) old w cmp).1

/-- An application core's atomic through the map (R295, R296): `op` 2 add, 3 minimum, 4 maximum, 5 compare-and-swap on 4 or
8 bytes reach the granary; any other on an HBM address raises an access fault; on DDR5 every atomic acts fully. -/
def State.mapAtomic (s : State) (op a n v cmp : Nat) : State :=
  if n ≠ 4 ∧ n ≠ 8 ∨ a % n ≠ 0 ∨ (op = 5 ∧ n ≠ 8) ∨ 13 < op then { s with rsp := .accessFault }
  else
    match placeOf a with
    | .hbm o =>
      if 5 < op then { s with rsp := .accessFault }
      else
        match s.apTranslate o .atomic with
        | .ok pa pc => if !s.manorUp (pa / 2 ^ 38) then s else s.applyAtomic epApps o pa pc (op - 2) (if n = 4 then 2 else 3) v cmp
        | _ => { s with rsp := .accessFault }
    | .ddr o => if 2 ^ 35 < o + n then { s with rsp := .accessFault } else s.ddrAtomic op o n v cmp
    | _ => { s with rsp := .accessFault }

/-- APERTURE_ACCESS (R296, R464, R465): `op` 0 read, 1 write of the low bytes of v, 2 to 5 the atomics of R295, 6 to 13 those of
DDR5 alone. `addr` is an address of the cores' map. -/
def execApertureAccess (op addr len : Nat) (v cmp : BitVec 64) (s : State) : Host.Outcome State Fault Refusal :=
  .next <|
    if op = 0 then
      match s.mapRead 658 addr len with
      | (s1, .ok d) => { s1 with rsp := .bytes d }
      | (s1, .poison) => { s1 with rsp := match placeOf addr with | .ddr _ => .accessFault | _ => .poison }
      | (s1, .fault) => { s1 with rsp := .accessFault }
      | (_, .wait) => s
    else if op = 1 then
      match s.mapWrite 658 addr (toBytes len v.toNat) with
      | .ok s1 => { s1 with rsp := .none }
      | .fault => { s with rsp := .accessFault }
      | .wait => s
    else s.mapAtomic op addr len v.toNat cmp.toNat

/-! ## Manor DMA and PCIe (R465, R466, R483) -/

/-- The Manor DMA moves data: it is not stopped, and power-fail has not forbidden writes (R446, R455). -/
def State.dmaRuns (s : State) : Bool := !s.bell.stopped.contains 657 && !s.ctl.halted

/-- The DMA's source and destination: the map, or NVMe. -/
def State.dmaRead (s : State) (a n : Nat) : State × MapRd :=
  if placeOf a = .nvme then ({ s with free := s.free + n }, .ok ((upTo n).map fun i => BitVec.ofNat 8 (Config.freeNat (s.free + i))))
  else s.mapRead 657 a n
def State.dmaWrite (s : State) (a : Nat) (d : List Byte) : MapWr := if placeOf a = .nvme then .ok s else s.mapWrite 657 a d

/-- DMA_TRANSFER (R465): n bytes between HBM, DDR5 and NVMe. NVMe addresses are those from 2^60; what NVMe holds is a free
value, and what is written to it leaves the module (assumption 29). -/
def execDmaTransfer (src dst n : Nat) (s : State) : Host.Outcome State Fault Refusal :=
  .next <|
    let ok := fun (a : Nat) => match placeOf a with | .regs _ => false | .none => false | _ => true
    if !s.dmaRuns then s
    else if !ok src || !ok dst then { s with rsp := .accessFault }
    else
      match s.dmaRead src n with
      | (s1, .ok d) =>
        (match s1.dmaWrite dst d with
         | .ok s2 => { s2 with rsp := .none }
         | .fault => { s1 with rsp := .accessFault }
         | .wait => s)
      | (s1, .poison) => { s1 with rsp := .poison }
      | (s1, .fault) => { s1 with rsp := .accessFault }
      | (_, .wait) => s

/-- A port has a link that is up (R493). -/
def State.portUp (s : State) (p : Nat) : Bool := s.flag (Reg.pcieLink (2 * p)) 31 || s.flag (Reg.pcieLink (2 * p + 1)) 31

/-- An inbound request that is not served completes with Unsupported Request and is reported by AER (R483). -/
def State.unsupported (s : State) (p : Nat) : State :=
  { s with rsp := .unsupported
           recov := { s.recov with aer := if s.recov.aer.contains p then s.recov.aer else s.recov.aer ++ [p] } }

/-- PCIE_INBOUND (R483): the request is translated by the I/O translation unit and serviced through the map of R464. -/
def execPcieInbound (port : Fin 2) (write : Bool) (addr len : Nat) (v : BitVec 64) (s : State) : Host.Outcome State Fault Refusal :=
  .next <|
    if !s.portUp port.val then s
    else
      match Config.iommu port.val addr with
      | none => s.unsupported port.val
      | some a =>
        if write then
          match s.mapWrite 658 a (toBytes len v.toNat) with
          | .ok s1 => { s1 with rsp := .none }
          | .fault => s.unsupported port.val
          | .wait => s
        else
          match s.mapRead 658 a len with
          | (s1, .ok d) => { s1 with rsp := .bytes d }
          | (s1, .poison) => { s1 with rsp := .poison }
          | (_, .fault) => s.unsupported port.val
          | (_, .wait) => s

end Sys2Proof.Machine
end

