-- ==== Sys2Proof/Machine/Security.lean ====
section
/-! DEFINITION. The constable: critical commands and their checks, keys, policy, attestation, sensors and alarms, firmware
images (R471 to R473, R495 to R519), and the start of a job (R39, R63 to R65, R563). -/

namespace Sys2Proof.Machine

/-! ## Alarms and the erase of the keys (R513, R515 to R517) -/

/-- A SEC_ALARM record (R517): severity info at level 1, fence above. -/
def State.secAlarm (s : State) (sensor level value : Nat) (erased : Bool) : State :=
  s.post s.leadReeve (if level ≤ 1 then 0 else 2) 0x0F epConstable (sensor <<< 44 + level <<< 42 + b2n erased <<< 41 + value % 2 ^ 32)

/-- The key area zeroed and read back (R513). ERASE_PENDING is a monotonic cell and stays 1 (R497). -/
def State.zeroKeys (s : State) : State :=
  { s with sec := { s.sec with cmdKey := none, idSeed := none, attSeed := none, erasePending := true, erased := true, rotating := false } }

/-- A key erase by command or policy: SEC_ALARM with sensor 5, whose LEVEL the manual does not give (a free value,
assumption 35). -/
def State.eraseKeys (s : State) : State := (s.zeroKeys.secAlarm 5 (1 + s.fresh % 3) 0 true).spend

/-- The effective value of policy field i: the owner's where it is set and OWNER permits it, else the section's (R511). -/
def Sec.effective (x : Sec) (i : Nat) : Nat :=
  match x.owner.getD i none with
  | some v => if bit (x.policy.getD 6 0) i then v else x.policy.getD i 0
  | none => x.policy.getD i 0

/-- A level already holds for a sensor (R516; that a level holds until power-on is DEDUCED, assumption 36). -/
def Sec.holds (x : Sec) (sensor level : Nat) : Bool := x.holding.any fun h => h.1 == sensor && decide (level ≤ h.2)

/-- An alarm (R515, R516): the actions of its level and of those below it. -/
def State.alarm (s : State) (sensor level value : Nat) : State :=
  if s.sec.holds sensor level then s
  else
    let erase := level == 3 && s.sec.effective 0 == 1
    let s1 := { s with sec := { s.sec with holding := s.sec.holding ++ [(sensor, level)]
                                           level := max s.sec.level level
                                           tripped := if sensor ≤ 3 then s.sec.tripped ||| 2 ^ sensor else s.sec.tripped }
                       recov := { s.recov with irq11 := s.recov.irq11 || decide (s.sec.level < level) } }
    let s2 := if erase then s1.zeroKeys.secAlarm 5 3 0 true else s1
    let s3 := s2.secAlarm sensor level value erase
    if level < 2 then s3
    else
      let s4 := { s3 with sec := { s3.sec with hold := true, alarms := if s3.sec.alarms = 0xFFFFFFFF then s3.sec.alarms else s3.sec.alarms + 1 }
                          ctl := { s3.ctl with ibis := s3.ctl.ibis + 1 } }
      let s5 := s4.ring 0 0 0 4
      { s5 with job := { s5.job with stopWanted := if s5.job.run then 1 else s5.job.stopWanted } }

/-- The level of a sensor's trip as R515 gives it; none where no such trip exists. The tag-failure rule of sensor 4 raises
its alarm itself. Until step 2 has read the policy section, MESH_LEVEL is 2 or 3 by free choice (assumption 36). -/
def State.tripLevel (s : State) (sensor level : Nat) : Option Nat :=
  match sensor with
  | 0 => some (if s.ctl.step < 3 then 2 + s.fresh % 2 else s.sec.effective 3)
  | 1 => if level = 1 ∨ level = 2 then some level else none
  | 2 => if level = 1 ∨ level = 2 then some level else none
  | 3 => some 2
  | _ => none

/-- SENSOR_TRIP (R515, R516): sensors run while the Manor has power. -/
def execSensorTrip (sensor : Fin 5) (level : Fin 4) (value : W32) (s : State) : Host.Outcome State Fault Refusal :=
  .next <|
    match s.tripLevel sensor.val level.val with
    | none => s
    | some l => if s.ctl.mainSwitch then s.spend.alarm sensor.val l value.toNat else s

/-! ## Firmware images (R471 to R473, R501) -/

/-- Address of a bank in the flash. -/
def bankBase (b : Nat) : Nat := b * 0x2000000
def imgMagic (m : Memory) (a : Nat) : Bool := Memory.read m a 4 == 0x544E5247 && Memory.read m (a + 4) 2 == 1
def imgSeq (m : Memory) (a : Nat) : Nat := Memory.read m (a + 8) 4
def imgCount (m : Memory) (a : Nat) : Nat := Memory.read m (a + 6) 2
/-- Field of n bytes at offset o of section entry k. -/
def imgSect (m : Memory) (a k o n : Nat) : Nat := Memory.read m (a + 32 + 48 * k + o) n

/-- The header's sections are as R471 and R472 require. -/
def imgLayout (m : Memory) (a : Nat) : Bool :=
  let n := imgCount m a
  let ks := upTo n
  decide (5 ≤ n) && decide (n ≤ 16) && decide (Memory.read m (a + 16) 8 ≤ 0x2000000) &&
    (ks.all fun k => imgSect m a k 4 4 % 4096 == 0 && decide (8192 ≤ imgSect m a k 4 4) &&
      decide (imgSect m a k 4 4 + imgSect m a k 8 4 ≤ 0x2000000)) &&
    [1, 2, 3, 4, 5].all fun t => (ks.filter fun k => imgSect m a k 0 2 == t).length == 1

/-- The XMSS signature over bytes 0 to 1,023 (R471, R496: 2,820 bytes). -/
def imgSigned (m : Memory) (a : Nat) : Bool := Config.xmssVerify (Memory.bytes m a 1024) (Memory.bytes m (a + 1024) 2820)

/-- Every section in the bank has the digest that the header names (R473, R502). -/
def imgDigests (m : Memory) (a : Nat) (flash : Memory) (bank : Nat) : Bool :=
  (upTo (imgCount m a)).all fun k =>
    (Config.shake256 (Memory.bytes flash (bankBase bank + imgSect m a k 4 4) (imgSect m a k 8 4))).toNat == imgSect m a k 16 32

/-- A bank passes R473: magic, format, signature, rollback rule, digests. -/
def State.bankOk (s : State) (b : Nat) : Bool :=
  let a := bankBase b
  imgMagic s.flash a && imgLayout s.flash a && imgSigned s.flash a && decide (s.sec.minSeq.toNat ≤ imgSeq s.flash a) &&
    imgDigests s.flash a s.flash b

/-- The bank that R473 uses: the higher SEQ first, a tie puts A first. -/
def State.chooseBank (s : State) : Option Nat :=
  let order := if imgSeq s.flash 0 < imgSeq s.flash (bankBase 1) then [1, 0] else [0, 1]
  order.find? s.bankOk

/-- Flash offset of the section of a type in a bank. -/
def State.sectionAt (s : State) (b ty : Nat) : Nat :=
  let a := bankBase b
  match (upTo (imgCount s.flash a)).find? fun k => imgSect s.flash a k 0 2 == ty with
  | some k => a + imgSect s.flash a k 4 4
  | none => a

/-! ## Frames and answers (R503 to R508) -/

/-- The tag of a response: zeros without a command key (R506). -/
def State.respTag (s : State) (code ctr status : Nat) : Nat :=
  match s.sec.cmdKey with
  | none => 0
  | some k => Config.kmac256 k (toBytes 2 1 ++ toBytes 2 code ++ toBytes 8 ctr ++ toBytes 1 status ++ toBytes 3 0) 128 "HYG RSP" % 2 ^ 128

/-- A response; a refusal sets MANOR.MGMT.STAT.REJECT (R505, R506). -/
def State.answer (s : State) (code ctr status : Nat) : State :=
  let s1 := if status ≤ 1 then s else s.setBit Reg.mgmtStat 26
  { s1 with rsp := .command code ctr status (s1.respTag code ctr status) }

/-- The tag that a frame must carry (R504). -/
def cmdTag (k : BitVec 256) (f : CmdFrame) (code : Nat) : Nat :=
  Config.kmac256 k (toBytes 2 1 ++ toBytes 2 code ++ toBytes 4 f.body.length ++ toBytes 8 f.counter.toNat ++ toBytes 8 f.target.toNat ++ f.body)
    128 "HYG CMD" % 2 ^ 128

/-- The TARGET of this module (R504). -/
def moduleTarget : Nat := (Config.shake256 (Config.xmssPublic Config.identitySeed)).toNat % 2 ^ 64

/-- A frame beyond one a second while the tag-failure rule holds (R506). -/
def State.overRate (s : State) : Bool :=
  s.sec.rateLimited && match s.sec.lastFrame with | none => false | some t => decide (s.clock < t + 1000000000)

/-- Why the module's state does not permit a command, in the order of R508 and R481; a job start without a suit in service
is refused (R480). -/
def State.forbids (s : State) (code : Nat) : Option Nat :=
  let fw := decide (1 ≤ code) && decide (code ≤ 3)
  let erase := code == 0x10
  if s.ctl.step ≠ 9 ∧ !fw ∧ !erase then some 0x20
  else if s.ctl.flashRecovery ∧ !fw then some 0x20
  else if s.sec.hold ∧ !erase then some 0x21
  else if (s.job.run ∨ s.job.scrub) ∧ (code = 0x50 ∨ code = 0x30 ∨ code = 0x31) then some 0x20
  else if !s.job.run ∧ code = 0x51 then some 0x20
  else if code = 0x50 ∧ ((s.ctl.stopNLow ∧ s.flag Reg.bellCtl 0) ∨ s.suitsUp.isEmpty) then some 0x20
  else if (code = 2 ∨ code = 3) ∧ s.sec.fw.isNone then some 0x30
  else none

/-- A frame whose tag does not match (R506, R516). -/
def State.badTag (s : State) (code ctr : Nat) : State :=
  let n := s.sec.tagFail + 1
  let s1 := { s with sec := { s.sec with tagFail := n } }
  let s2 := if n = 64 then ({ s1 with sec := { s1.sec with rateLimited := true } }).alarm 4 1 0 else s1
  s2.answer code ctr 0x10

/-- A critical command (R503 to R508): the first failed check decides the status; a command that passes the tag and counter
checks consumes its counter before it acts. `lenOk` says whether a body of that many bytes is the command's (a wrong one is
BADFORM: DEDUCED, assumption 37). While the management link is down no frame arrives (R486). -/
def State.critical (s : State) (f : CmdFrame) (code : Nat) (lenOk : Nat → Bool) (act : State → State × Nat) : State :=
  if !s.flag Reg.mgmtStat 31 then s
  else if s.overRate then { s with rsp := .dropped }
  else
    let c := f.counter.toNat
    let s := { s with sec := { s.sec with lastFrame := some s.clock } }
    if !f.formOk ∨ 8196 < f.body.length ∨ !lenOk f.body.length then s.answer code c 0x12
    else if f.target.toNat ≠ moduleTarget then s.answer code c 0x13
    else
      match s.sec.cmdKey with
      | none => s.answer code c 0x22
      | some k =>
        if f.tag.toNat ≠ cmdTag k f code then s.badTag code c
        else
          let s := { s with sec := { s.sec with tagFail := 0, rateLimited := false } }
          if f.counter ≤ s.sec.lastCtr then s.answer code c 0x11
          else
            let s := { s with sec := { s.sec with lastCtr := f.counter } }
            match s.forbids code with
            | some st => s.answer code c st
            | none => let r := act s; r.1.answer code c r.2

/-- n bytes of a body from offset o as a number. -/
def bodyNat (b : List Byte) (o n : Nat) : Nat := ofBytes ((b.drop o).take n)

/-! ## Firmware update (R502) -/

/-- FW_BEGIN: SEQ against MIN_SEQ, then the unused bank's first 8 KiB erased; erased flash reads 0xFF (PRESUMED, assumption
38). In flash recovery the unused bank is the one not marked as last in use (DESIGN CHOICE, assumption 95). -/
def State.fwBegin (s : State) (b : List Byte) : State × Nat :=
  let seq := bodyNat b 4 4
  if seq < s.sec.minSeq.toNat then (s, 0x30)
  else
    let bank := 1 - s.ctl.bank
    ({ s with flash := Memory.writeBytes s.flash (bankBase bank) (List.replicate 8192 0xFF)
              sec := { s.sec with fw := some (bank, bodyNat b 0 4, seq), fwHeld := [] } }, 0)

def execFwBegin (f : CmdFrame) (s : State) : Host.Outcome State Fault Refusal :=
  .next (s.critical f 0x0001 (· == 8) fun s => s.fwBegin f.body)

/-- FW_CHUNK: data below offset 8,192 is held, the rest written. An offset that is not 4 KiB-aligned, or data beyond the
bank, cannot be written: FAILED (DEDUCED, assumption 37). -/
def State.fwChunk (s : State) (b : List Byte) : State × Nat :=
  match s.sec.fw with
  | none => (s, 0x30)
  | some x =>
    let off := bodyNat b 0 4
    let data := b.drop 4
    if off % 4096 ≠ 0 ∨ 0x2000000 < off + data.length then (s, 0x30)
    else
      let low := data.take (8192 - off)
      let high := data.drop (8192 - off)
      let base := bankBase x.1 + max 8192 off
      ({ s with flash := Memory.writeBytes s.flash base high, sec := { s.sec with fwHeld := Memory.writeBytes s.sec.fwHeld off low } }, 0)

def execFwChunk (f : CmdFrame) (s : State) : Host.Outcome State Fault Refusal :=
  .next (s.critical f 0x0002 (fun n => decide (4 ≤ n) && decide (n ≤ 8196)) fun s => s.fwChunk f.body)

/-- FW_COMMIT: sections and signature against the held header, the rollback rule, then the held 8 KiB. In flash recovery the
module restarts, its answer given (R475). -/
def State.fwCommit (s : State) : State × Nat :=
  match s.sec.fw with
  | none => (s, 0x30)
  | some x =>
    let h := s.sec.fwHeld
    if imgMagic h 0 && imgLayout h 0 && imgDigests h 0 s.flash x.1 && imgSigned h 0 && decide (s.sec.minSeq.toNat ≤ imgSeq h 0) then
      let s1 := { s with flash := Memory.writeBytes s.flash (bankBase x.1) (Memory.bytes h 0 8192) }
      (if s.ctl.flashRecovery then s1.restart else s1, 0)
    else (s, 0x30)

def execFwCommit (f : CmdFrame) (s : State) : Host.Outcome State Fault Refusal :=
  .next (s.critical f 0x0003 (· == 0) State.fwCommit)

/-! ## Keys and policy (R511 to R513) -/

def execKeyErase (f : CmdFrame) (s : State) : Host.Outcome State Fault Refusal :=
  .next (s.critical f 0x0010 (· == 0) fun s => (s.eraseKeys, 0))

/-- Field i may take value v (R511). -/
def Sec.mayTake (x : Sec) (i v : Nat) : Bool :=
  v == 255 ||
  (bit (x.policy.getD 6 0) i &&
    match i with
    | 0 => decide (v ≤ 1)
    | 1 => decide (v ≤ 2) && decide (v ≤ x.policy.getD 5 0)
    | 2 => decide (v ≤ 1)
    | 3 => v == 2 || v == 3
    | _ => decide (4 ≤ v) && decide (v ≤ 20))

/-- POLICY_SET (R511): nothing changes where a value is not permitted; bytes 5 to 36 carry a new command key. -/
def State.policySet (s : State) (f : CmdFrame) : State × Nat :=
  let v := fun (i : Nat) => (f.body.getD i 255).toNat
  if !(upTo 5).all fun i => s.sec.mayTake i (v i) then (s, 0x12)
  else
    let owner := (upTo 5).map fun i => if v i = 255 then s.sec.owner.getD i none else some (v i)
    let key :=
      match s.sec.cmdKey with
      | none => none
      | some k =>
        if f.body.length = 37 then
          some (BitVec.ofNat 256 (bodyNat f.body 5 32) ^^^ BitVec.ofNat 256 (Config.kmac256 k (toBytes 8 f.counter.toNat) 256 "HYG KEY"))
        else some k
    ({ s with sec := { s.sec with owner := owner, cmdKey := key } }, 0)

def execPolicySet (f : CmdFrame) (s : State) : Host.Outcome State Fault Refusal :=
  .next (s.critical f 0x0020 (fun n => n == 5 || n == 37) fun s => s.policySet f)

/-! ## FENCE, UNFENCE, POWER_LIMIT (R509, R510) -/

/-- What a FENCE body names (R507): a hand by its unit 31, or a suit by its reeve 0 in station form. -/
def fenceTarget (e : Nat) : Option (Nat ⊕ Nat) :=
  if bit e 15 then (if bits e 8 5 = 4 ∧ bits e 0 8 = 0 then some (.inr (bits e 13 2)) else none)
  else if epUnit e = 31 then (epToHand e).map .inl
  else none

/-- FENCE (R360, R509): for the deals admitted after it. A body that names neither a hand nor a suit fails (DEDUCED, assumption
37). -/
def State.fenceCmd (s : State) (b : List Byte) : State × Nat :=
  match fenceTarget (bodyNat b 0 2) with
  | none => (s, 0x30)
  | some (.inl h) =>
    if s.fenced h then (s, 0)
    else ({ s.setFence h true with sec := { s.sec with fencedHands := s.sec.fencedHands ++ [h] } }, 0)
  | some (.inr i) =>
    if !s.suitUp i then (s, 0)
    else
      let s1 := s.setFold i true
      ({ s1 with sec := { s1.sec with fencedSuits := s1.sec.fencedSuits ++ [i] }
                 recov := { s1.recov with outSuits := s1.recov.outSuits ++ [i] } }, 0)

def execFence (f : CmdFrame) (s : State) : Host.Outcome State Fault Refusal :=
  .next (s.critical f 0x0030 (· == 2) fun s => s.fenceCmd f.body)

/-- UNFENCE (R509): reverses only what a FENCE command set; where none did, it is done with no effect (DEDUCED, assumption
37). -/
def State.unfenceCmd (s : State) (b : List Byte) : State × Nat :=
  match fenceTarget (bodyNat b 0 2) with
  | none => (s, 0x30)
  | some (.inl h) =>
    if s.sec.fencedHands.contains h then
      ({ s.setFence h false with sec := { s.sec with fencedHands := s.sec.fencedHands.filter (· != h) } }, 0)
    else (s, 0)
  | some (.inr i) =>
    if s.sec.fencedSuits.contains i then
      let s1 := s.setFold i false
      ({ s1 with sec := { s1.sec with fencedSuits := s1.sec.fencedSuits.filter (· != i) }
                 recov := { s1.recov with outSuits := s1.recov.outSuits.filter (· != i) } }, 0)
    else (s, 0)

def execUnfence (f : CmdFrame) (s : State) : Host.Outcome State Fault Refusal :=
  .next (s.critical f 0x0031 (· == 2) fun s => s.unfenceCmd f.body)

/-- CONFIG's F_MAX and P_LIMIT as they behave (R474). -/
def limitOf (v lo hi : Nat) : Nat := if v = 0 ∨ hi < v then hi else max lo v
def State.cfgFMax (s : State) : Nat := limitOf (bits s.ctl.config.toNat 32 16) 600 1200
def State.cfgPLimit (s : State) : Nat := limitOf (bits s.ctl.config.toNat 48 16) 300 700

/-- POWER_LIMIT (R510): within the CONFIG limits; staged to the next package epoch while a deal runs.
Values below R474's ranges are taken as CONFIG takes them (DEDUCED, assumption 102). -/
def State.powerLimit (s : State) (b : List Byte) : State × Nat :=
  let f := limitOf (bodyNat b 0 2) 600 s.cfgFMax
  let p := limitOf (bodyNat b 2 2) 300 s.cfgPLimit
  if s.job.run then ({ s with gov := { s.gov with staged := some (f, p) } }, 1) else (s.setLimits f p, 0)

def execPowerLimit (f : CmdFrame) (s : State) : Host.Outcome State Fault Refusal :=
  .next (s.critical f 0x0040 (· == 4) fun s => s.powerLimit f.body)

/-! ## Job start and stop (R39, R63 to R65, R507, R563) -/

/-- A read that answers. -/
def State.rd (s : State) (va n : Nat) : Option Nat := match s.vread va n with | .ok v => some v | _ => none

/-- A page of the trace region translates with RD and W (R563). -/
def State.pageRW (s : State) (va : Nat) : Bool :=
  (s.accFault .read va).isNone && (s.accFault .write va).isNone

/-- The checks of R563 on a trace region: RING_LOG and WRAP where it passes. -/
def State.traceOk (s : State) (va : Nat) : Option (Nat × Nat) :=
  if va = 0 ∨ va % 2 ^ 20 ≠ 0 then none
  else
    match s.rd va 64 with
    | none => none
    | some h =>
      let l := bits h 16 8
      let w := bits h 24 8
      if bits h 0 16 = 1 ∧ 16 ≤ l ∧ l ≤ 30 ∧ w ≤ 1 then
        if (upTo (16 + 648 * 2 ^ (l - 16))).all fun p => s.pageRW (va + p * 65536) then some (l, w) else none
      else none

/-- The entries of a root table, hands then Mills: unit and STREAM_VA, those that are not 0 (R64, R65). -/
def State.rootEntries (s : State) (va : Nat) : List Nat → Option (PMap Nat)
  | [] => some []
  | u :: us =>
    match s.rd (va + 64 + 16 * u) 16, s.rootEntries va us with
    | some e, some r => some (if bits e 0 48 = 0 then r else (u, bits e 0 48) :: r)
    | _, _ => none

/-- The values that the module takes from a root table, if the table can be used (R64, R65). -/
def State.readRoot (s : State) (va : Nat) : Option (Job × Nat) :=
  if va % 64 ≠ 0 then none
  else
    match s.rd va 64 with
    | none => none
    | some r =>
      if bits r 0 16 ≠ 1 then none
      else
        let tr := bits r 256 48
        match s.traceOk tr, s.rootEntries va (upTo 648) with
        | some (l, w), some es =>
          some ({ rootVa := va, tensorVa := bits r 64 48, tensorCount := bits r 128 32, scaleVa := bits r 192 48, traceVa := tr
                  ringLog := l, wrap := w, entries := es }, bits r 32 32)
        | _, _ => none

/-- The reads that a job start makes of the root table and of the trace region's header, with the granary (R299). -/
def State.seenRoot (s : State) (va : Nat) : State :=
  let s1 := ((va, 64) :: pages (va + 64) (16 * 648)).foldl (fun (s : State) x => s.seen 658 0 x.1 x.2) s
  match s.rd va 64 with | none => s1 | some r => s1.seen 658 0 (bits r 256 48) 64

/-- A register that job start sets to 0: the counters of chapter 15, VPIN counts, MILL.STEP, PIVOT.PERT (R240, R279, R280,
R567). -/
def isStartZero (a : Nat) : Bool :=
  match locate a with
  | .manor a => decide (0x000D0000 ≤ a) && decide (a < Reg.manorObsCtl)
  | .suit _ o =>
    (decide (0x90000 ≤ o) && decide (o < 0x90048)) ||
      (decide (0x50000 ≤ o) && decide (o < 0x70000) && decide (4 ≤ o % 0x10000) && decide (o % 0x10000 < 0x14))
  | .hand _ q => q == 0x208 || (decide (0x1008 ≤ q) && decide (q < 0x1028))
  | .core _ w => decide (0x384 ≤ w) && decide (w < 0x3D4)
  | .none => false

/-- Registers of which job start clears bits: DUTY of a cube, which stops its dummy steps (R168, R170), RUN and DONE of a
sequencer and of a Mill (R87, R281). -/
def startBits (a : Nat) (v : W32) : W32 :=
  match locate a with
  | .core _ w => if w = 0x104 then fldB (fld v 24 4 0) 30 false else v
  | .hand _ q => if q = 4 then fld v 30 2 0 else v
  | .suit _ o => if o = 0x50000 ∨ o = 0x60000 then fld v 30 2 0 else v
  | _ => v

/-- Registers at job start. -/
def startRegs (m : PMap W32) : PMap W32 := (m.filter fun e => !isStartZero e.1).map fun e => (e.1, startBits e.1 e.2)

/-- The package as a deal finds it: ports open, credits at home, no record queued, no packet in flight (R58, R60; what the
last deal left in queues is gone, DEDUCED, assumption 39); translation caches invalid (R302); caps 8/8 and clocks F_MAX unless a throttle threshold holds
(R584); start packets on their way (R63). -/
def State.startJob (s : State) (j : Job) (deal : Nat) : State :=
  let s1 := { s with regs := startRegs s.regs, hands := [], cores := [], mills := [], colls := [], net := [], served := []
                     inbox := [], tlb := [], recov := { s.recov with replayed := [], pairs := [] }
                     suits := s.suits.map fun (x : Nat × Suit) => if x.2.throttled then x else (x.1, { x.2 with cap := 8, clock := s.gov.fMax }) }
  let pend := (upTo 648).filter fun u => if u < 640 then s1.handUp u else s1.suitUp ((u - 640) / 2)
  let out := suits4.map fun i => (i, (s1.suit i).outPcs.length)
  let s2 := { s1 with job := { j with run := true, startPending := pend, outAt := out, ckptSlots := s.job.ckptSlots
                                      ckptNext := s.job.ckptNext } }
  let s3 := s2.recov.aware.foldl (fun (s : State) i => s.setGranMode i 0) s2
  ({ s3 with recov := { s3.recov with aware := [] } }.setReg Reg.jobId (BitVec.ofNat 32 deal)).jobDone.syncMode

/-- JOB_START (R63 to R65): a root table that cannot be used is refused (as REFUSED: DEDUCED, assumption 40). -/
def State.jobStart (s : State) (b : List Byte) : State × Nat :=
  match s.readRoot (bodyNat b 0 8) with
  | none => (s, 0x20)
  | some (j, deal) => ((s.seenRoot (bodyNat b 0 8)).startJob j deal, 0)

def execJobStart (f : CmdFrame) (s : State) : Host.Outcome State Fault Refusal :=
  .next (s.critical f 0x0050 (· == 8) fun s => s.jobStart f.body)

/-- JOB_STOP (R444, R507): at once by the package Bell, or after a checkpoint at the next step boundary. -/
def State.jobStop (s : State) (b : List Byte) : State × Nat :=
  match bodyNat b 0 1 with
  | 0 => let s1 := s.ring 0 0 0 2; ({ s1 with job := { s1.job with stopWanted := 1 } }, 0)
  | 1 => ({ s with job := { s.job with stopWanted := 2, ckptArmed := true } }, 1)
  | _ => (s, 0x30)

def execJobStop (f : CmdFrame) (s : State) : Host.Outcome State Fault Refusal :=
  .next (s.critical f 0x0051 (· == 1) fun s => s.jobStop f.body)

/-! ## Attestation (R498 to R500, R514) -/

/-- Exactly n bytes. -/
def fitBytes (n : Nat) (l : List Byte) : List Byte := (upTo n).map fun i => l.getD i 0
/-- An XMSS public key and signatures have the sizes of R496: 68 bytes; 2,692 for the attestation key and 2,820 for the identity key. -/
def xmssPublicKey (seed : BitVec 256) : List Byte := fitBytes 68 (Config.xmssPublic seed)
def xmssSignature (n : Nat) (seed : BitVec 256) (i : Nat) (m : List Byte) : List Byte := fitBytes n (Config.xmssSign seed i m)

/-- The effective policy as 16 bytes. -/
def Sec.policyBytes (x : Sec) : List Byte :=
  (upTo 5).map (fun i => BitVec.ofNat 8 (x.effective i)) ++ [BitVec.ofNat 8 (x.policy.getD 5 0), BitVec.ofNat 8 (x.policy.getD 6 0)] ++
    List.replicate 9 0

/-- The report of R514. -/
def State.report (s : State) (nonce : BitVec 256) : List Byte :=
  let up := sumL (s.suitsUp.map (2 ^ ·))
  toBytes 2 1 ++ toBytes 1 s.sec.debug ++ toBytes 1 0 ++ toBytes 4 s.sec.attGen ++ toBytes 32 nonce.toNat ++
    toBytes 32 (Config.shake256 (Memory.bytes s.flash (bankBase s.ctl.bank) 1024)).toNat ++ toBytes 4 s.ctl.bankSeq ++
    toBytes 4 s.sec.minSeq.toNat ++ toBytes 32 (Config.shake256 s.sec.policyBytes).toNat ++ toBytes 1 (s.part.fused % 16 + up * 16) ++
    toBytes 1 s.sec.level ++ toBytes 2 0 ++ toBytes 4 s.sec.pwrLoss.toNat ++ toBytes 8 s.time ++ toBytes 8 s.sec.lastCtr.toNat ++
    toBytes 64 0

/-- ATTESTATION_REQUEST (R514): at most one answer in 10 ms; the index is reserved before it is used (R498). In flash
recovery only the firmware-update command is accepted (R475). -/
def execAttestationRequest (nonce : BitVec 256) (s : State) : Host.Outcome State Fault Refusal :=
  .next <|
    if !s.flag Reg.mgmtStat 31 then s
    else if s.ctl.flashRecovery then { s with rsp := .dropped }
    else if (match s.sec.lastAtt with | none => false | some t => decide (s.clock < t + 10000000)) then { s with rsp := .dropped }
    else
      let s := { s with sec := { s.sec with lastAtt := some s.clock } }
      match s.sec.attSeed with
      | none => { s with rsp := .command 0x0100 0 0x22 0 }
      | some seed =>
        if s.sec.idOut ∨ 65536 ≤ s.sec.attNext then { s with rsp := .busy }
        else
          let i := s.sec.attNext
          let r := s.report nonce
          { s with sec := { s.sec with attNext := i + 1, rotating := s.sec.rotating || decide (60000 ≤ i + 1) }
                   rsp := .bytes (r ++ xmssSignature 2692 seed i r ++ s.sec.attCert) }

/-- IDENTITY_REQUEST (R514). -/
def execIdentityRequest (s : State) : Host.Outcome State Fault Refusal :=
  .next <|
    if !s.flag Reg.mgmtStat 31 then s
    else if s.ctl.flashRecovery then { s with rsp := .dropped }
    else { s with rsp := .bytes (xmssPublicKey Config.identitySeed ++ Config.dewesaCert) }

/-- KEY_ROTATION (R500): the key generated in the background is certified; ATT_GEN rises and ATT_NEXT restarts in one store
write. An exhausted identity key ends attestation. -/
def execKeyRotation (s : State) : Host.Outcome State Fault Refusal :=
  .next <|
    match s.sec.rotating, s.sec.idSeed with
    | true, some ids =>
      if 2 ^ 20 ≤ s.sec.idNext then { s with sec := { s.sec with rotating := false, idOut := true } }
      else
        let seed := Config.keySeed s.sec.keysMade
        let m := xmssPublicKey seed ++ toBytes 4 (s.sec.attGen + 1)
        { s with sec := { s.sec with rotating := false, idNext := s.sec.idNext + 1, attGen := s.sec.attGen + 1, attNext := 0
                                     attSeed := some seed, keysMade := s.sec.keysMade + 1
                                     attCert := m ++ xmssSignature 2820 ids s.sec.idNext m } }
    | _, _ => s

end Sys2Proof.Machine
end

