-- ==== Sys2Proof/Machine/Recovery.lean ====
section
/-! DEFINITION. Recovery: reeves and heartbeats, core swap, replay, rebuild, folds, variant switches, the scrub, checkpoints
(R40, R423 to R454, R469, R546). -/

namespace Sys2Proof.Machine

/-! ## Reeves (R423, R424, R469) -/

/-- The reeve's suit has rails and the reeve runs. -/
def State.reeveRuns (s : State) (r : Nat) : Bool :=
  (s.suit (r / 4)).powered && !s.recov.haltedReeves.contains r && !s.recov.lostReeves.contains r

/-- Nanoseconds between a reeve's heartbeats (R461). -/
def State.hbPeriod (s : State) (r : Nat) : Nat := max 1 (s.field (Reg.reeveCtl (r / 4)) 24 8) * 1000000

/-- HEARTBEAT (R423): every HB_PERIOD milliseconds. -/
def execHeartbeat (r : ReeveIx) (s : State) : Host.Outcome State Fault Refusal :=
  .next <|
    if s.reeveRuns r.val && decide (PMap.get 0 s.recov.beatT r.val + s.hbPeriod r.val ≤ s.time) then
      { s with recov := { s.recov with beatT := PMap.put s.recov.beatT r.val s.time } }
    else s

/-- WATCHDOG_EXPIRY (R469): the reeve halts. -/
def execWatchdogExpiry (r : ReeveIx) (s : State) : Host.Outcome State Fault Refusal :=
  .next (if s.reeveRuns r.val then { s with recov := { s.recov with haltedReeves := s.recov.haltedReeves ++ [r.val] } } else s)

/-! ## Folding (R428, R429, R439, R440) -/

/-- A packet that loses flits, its source or its destination with a suit's power, and one that a branch of the suit takes none of. -/
def Packet.lost (p : Packet) (i : Nat) : Bool :=
  suitAt p.pos == i || (p.way.any fun e => suitAt (bufAt e.1) == i) || inSuit i p.src.toNat || (!p.mcast && inSuit i p.dest.toNat)

/-- Everything that a suit's rails hold is gone (R440), and with it the packets on their way from it and to it (assumption 87). The
pages that the deal maps are known while the tables still stand (R40). -/
def State.darken (s : State) (i : Nat) : State :=
  let lo := i * 2 ^ 38
  let hi := (i + 1) * 2 ^ 38
  let out := fun (p : Nat) => decide (p < lo) || decide (hi ≤ p)
  let cells := fun (k : Nat) => k / 2 ^ 32 != i
  let pages := if s.job.run then (s.job.pages ++ s.mappedPages).dedup else s.job.pages
  let away := fun (a : Nat) => (locate a).suitOf != some i
  let unitIn := fun (u : Nat) =>
    if u < 640 then u / 160 == i else if u < 648 then (u - 640) / 2 == i else if u < 656 then (u - 648) / 2 == i else false
  { s with
    suits := PMap.put s.suits i {}
    hands := s.hands.filter fun e => e.1 / 160 != i
    cores := s.cores.filter fun e => e.1 / 2720 != i
    mills := s.mills.filter fun e => e.1 / 2 != i
    mem := Memory.clearRange s.mem lo hi
    poisoned := s.poisoned.filter out
    hardSectors := s.hardSectors.filter cells
    latent := s.latent.filter fun e => cells e.1
    tlb := s.tlb.filter fun e => suitOfUnit e.1 != i
    redMem := s.redMem.filter fun e => e.1 / 8192 != i
    job := { s.job with pages := pages }
    lostPc := s.lostPc.filter fun x => x.1 != i
    healed := s.healed.filter out
    pvSlots := s.pvSlots.filter fun e => out e.1
    regs := s.regs.filter fun e => away e.1
    staged := s.staged.filter fun e => away e.1
    heldLow := s.heldLow.filter fun e => away e.1
    rs := s.rs.filter fun e => away e.1
    net := (s.net.filter fun p => !p.lost i).map fun p =>
      if p.mcast then { p with mask := BitVec.ofNat 64 (withSuits p.mask.toNat (mSuits p.mask.toNat &&& (15 - 2 ^ i))) } else p
    inbox := s.inbox.filter fun m => !inSuit i m.src && !inSuit i m.dest
    bell := { s.bell with marked := s.bell.marked.filter fun u => !unitIn u, stopped := s.bell.stopped.filter fun u => !unitIn u } }

/-- The bridge ends of other suits that face a suit (R20, R440). -/
def endsFacing (i : Nat) : List Nat := (suits4.filter (· != i)).filterMap fun a => if (facing a i).isSome then some (bridgeOf a i) else none

/-- A suit fold (R360, R440): the links that face it are fenced, its rails go off, the fold mask is applied, SUIT_FOLDED is posted;
a fold that leaves no suit stops the job. -/
def State.foldSuit (s : State) (i cause : Nat) : State :=
  if s.suitDark i then s
  else
    let lead := s.leadReeve
    let s := ({ s with sec := { s.sec with fencedSuits := s.sec.fencedSuits.filter (· != i) } } : State).setBusy none
    let s1 := (endsFacing i).foldl (fun (s : State) b => s.clearBit (Reg.bridgeEnd b) 31) (s.setLinkDown (2 * i) true true false)
    let s2 := s1.darken i
    let s3 := { s2 with recov := { s2.recov with foldedSuits := s2.recov.foldedSuits ++ [i], lostReeves := s2.recov.lostReeves ++ (upTo 4).map (i * 4 + ·) } }
    let s4 := s3.setFold i true
    let mask := s4.foldMask (s4.suitsUp.headD (3 - i)) ||| 2 ^ i
    let s5 := (s4.post (if lead / 4 = i then s4.leadReeve else lead) 3 0x09 (epReeve (i * 4)) (cause <<< 44 + mask <<< 40)).failFenced
    let s6 := if s.allDone then s5 else s5.jobDone
    if s6.suitsUp.isEmpty then s6.reeveStop else s6

/-- A hand folded in service (R439): a local Bell, the hand fenced, its suit out of service with power and memory kept,
HAND_FOLDED with SUITOUT. The last suit out stops the job (R40). -/
def State.foldHand (s : State) (h cause : Nat) : State :=
  let i := h / 160
  let s := ({ s with sec := { s.sec with fencedSuits := s.sec.fencedSuits.filter (· != i) } } : State).setBusy none
  let s1 := if s.job.run then (s.ring 2 i (h % 160) 7).recover [i] else s
  let s2 := (s1.setFence h true).setFold i true
  let s3 := { s2 with recov := { s2.recov with outSuits := if s2.recov.outSuits.contains i then s2.recov.outSuits else s2.recov.outSuits ++ [i] } }
  let s4 := (s3.postAt s.time (handReeve h) 3 0x08 (epHand h 31) (cause <<< 45 + 1 <<< 44)).failFenced
  let s5 := if s.allDone then s4 else s4.jobDone
  if s5.suitsUp.isEmpty then s5.reeveStop else s5

/-- A drift recurred in the block of a covered register (R451). -/
def State.driftedTwice (s : State) (a : Nat) : Bool := s.recov.redrifted.contains (blockOf a)

/-- HAND_FOLD (R426, R428, R439): causes 0 to 3; cause 3 needs a second drift of the hand's block. -/
def execHandFold (h : HandIx) (cause : Nat) (s : State) : Host.Outcome State Fault Refusal :=
  .next <|
    if 3 < cause ∨ !(s.suit (h.val / 160)).powered ∨ s.fenced h.val ∨ !s.mayFold (h.val / 160) ∨ (cause = 3 ∧ !s.driftedTwice (Reg.seqCtl h.val)) then s
    else s.foldHand h.val cause

/-- Both bridges of the suit and its Manor link are down (R429). -/
def State.isolated (s : State) (i : Nat) : Bool :=
  ([linkKey (2 * i) false true, linkKey (2 * i + 1) false true, linkKey (2 * i) true true].all fun l => (s.link l).down)

/-- SUIT_FOLD (R429, R440); cause 3 needs the suit isolated. R429 has no code for R451's second drift: the sender's
code stands (DESIGN CHOICE, assumption 104). -/
def execSuitFold (i : SuitIx) (cause : Nat) (s : State) : Host.Outcome State Fault Refusal :=
  .next (if 5 < cause ∨ !(s.suit i.val).powered ∨ !s.mayFold i.val ∨ (cause = 3 ∧ !s.isolated i.val) then s else s.foldSuit i.val cause)

/-- REEVE_LOST (R423, R424): three heartbeats in a row are missing; what was on its way to the reeve passes to the reeve that
takes over its duties, and the last of a suit's reeves folds the suit. -/
def execReeveLost (r : ReeveIx) (s : State) : Host.Outcome State Fault Refusal :=
  .next <|
    if s.recov.lostReeves.contains r.val ∨ !(s.suit (r.val / 4)).powered ∨ s.time < PMap.get 0 s.recov.beatT r.val + 3 * s.hbPeriod r.val then s
    else
      let s1 := { s with recov := { s.recov with lostReeves := s.recov.lostReeves ++ [r.val] } }
      let s2 := { s1 with recov := { s1.recov with flight := s1.recov.flight.map fun (x : Nat × BitVec 128) => if x.1 = r.val then (s1.dutyReeve r.val, x.2) else x } }
      let s3 := s2.note (.reeveLost r.val)
      if s3.mayFold (r.val / 4) && (upTo 4).all fun x => s3.recov.lostReeves.contains (r.val / 4 * 4 + x) then s3.foldSuit (r.val / 4) 0 else s3

/-! ## Replay (R433 to R435, R564) -/

/-- Hands of a suit that replay together. -/
def State.suitHands (s : State) (i : Nat) : List Nat :=
  ((upTo 160).map (i * 160 + ·)).filter fun h => (s.hand h).stream && s.handUp h

/-- A set of hands with the peers of each, and with whole suits of those that had more than 8 (R435). -/
def State.withPeers (s : State) (l : List Nat) : List Nat :=
  (l ++ l.flatMap fun h => (s.hand h).peers ++ (if (s.hand h).morePeers then s.suitHands (h / 160) else [])).dedup

def State.closure (s : State) : Nat → List Nat → List Nat
  | 0, l => l
  | n + 1, l => let l1 := s.withPeers l; if l1.length = l.length then l1 else s.closure n l1

/-- What a slot holds: counters 0 to 63, loop registers, fetch address. A unit that has written no checkpoint of its stream starts
from the stream's entry with counters 0, or from the resume table of the variant it was switched to (DESIGN CHOICE, assumption
41). -/
def State.slotOf (s : State) (u : Nat) (epoch has : Bool) (base : Nat) : Option Nat :=
  if has then s.rd (s.traceBlock u + (if epoch then 0x180 else 0)) 384 else some base

/-- Counter registers from a slot, with the increments received since (R434). -/
def State.restoreCtrs (s : State) (addr : Nat → Nat) (slot : Nat) (inc : PMap Nat) (n : Nat) : State :=
  (upTo n).foldl (fun (s : State) c => s.setReg (addr c) (BitVec.ofNat 32 (bits slot (32 * c) 32 + PMap.get 0 inc c))) s

/-- A core as a replay leaves it: empty queues, ports, slots and tally, credits at their depth; the P8 credits that are granted
stay with their producers (R60, R434). -/
def Core.replayed (c : Core) : Core :=
  { p8own := 8 - sumL (c.grants.map (·.2)), grants := c.grants, ramp := c.ramp }

/-- Producers of a core hold all that they were granted. -/
def State.refillGrants (s : State) (k : Nat) : State :=
  (s.core k).grants.foldl (fun (s : State) g =>
    match epToHand g.1 with
    | none => s
    | some h => s.setHand h { s.hand h with p8held := PMap.put (s.hand h).p8held (p8Key (epUnit g.1) k) g.2 }) s

/-- A packet that waits at a hand for one of its units. -/
def Packet.waitsAt (p : Packet) (h : Nat) : Bool :=
  p.arrived && epToHand p.dest.toNat == some h && (match p.msg with | .p8tile _ | .tileAck | .p8ack _ => true | .p8credit _ _ g => !g | _ => false)

/-- One hand replayed from a slot (R434). -/
def State.replayHand (s : State) (h : Nat) (epoch : Bool) : State :=
  let d := s.hand h
  match s.slotOf h epoch (if epoch then d.hasEpoch else d.hasLast) d.base with
  | none => s
  | some slot =>
    let since := if epoch then d.sinceEpoch else d.sinceLast
    let mine := s.colls.filter fun c => c.joins.any fun j => j.hand == h
    let s := mine.foldl (fun (s : State) c => s.restartColl c) s
    let s := { s with net := s.net.filter fun p => !p.waitsAt h }
    let s := (upTo 17).foldl (fun (s : State) c => (s.setCore (h * 17 + c) (s.core (h * 17 + c)).replayed).refillGrants (h * 17 + c)) s
    let d := s.hand h
    let d1 : Hand :=
      { stream := d.stream, mask := d.mask, epochs := d.epochs, lastCommit := s.now h, sinceLast := d.sinceLast, sinceEpoch := d.sinceEpoch
        peers := d.peers, morePeers := d.morePeers, skipSig := since.signals, skipColl := since.colls, writesLast := d.writesLast
        writesEpoch := d.writesEpoch, hasLast := d.hasLast, hasEpoch := d.hasEpoch, base := d.base, p8held := d.p8held, p8grants := d.p8grants, binds := d.binds, ring := d.ring, rseq := d.rseq
        lostNew := d.lostNew, drainT := d.drainT, stored := d.stored, resumeAux := if epoch then 2 else 1 }
    let s := (s.setHand h d1).restoreCtrs (Reg.evc h) slot since.inc 64
    let s := (upTo 4).foldl (fun (s : State) i => s.setReg (Reg.loopReg h i) (BitVec.ofNat 32 (bits slot (2048 + 32 * i) 28))) s
    (s.setReg64 (Reg.seqFetch h) (bits slot 2176 48)).clearBit (Reg.seqStat h) 30

/-- A Mill replayed from its STEP slot (R433, R437). -/
def State.replayMill (s : State) (m : Nat) : State :=
  let d := s.mill m
  match s.slotOf (640 + m) false d.hasStep d.base with
  | none => s
  | some slot =>
    let d1 := { d with fetch := bits slot 2176 48, buf := [], ended := false, halted := false, broken := false, q := [], reported := false
                       pinT := none, resumeAux := 2, lastCommit := s.now (640 + m)
                       loops := (upTo 4).foldl (fun (l : PMap Nat) i => PMap.put l i (bits slot (2048 + 32 * i) 28)) d.loops }
    let s := (s.setMill m d1).restoreCtrs (Reg.millEvc m) slot [] 32
    s.clearBit (Reg.millStat m) 30

/-- The reeve stops hands that are not yet stopped, by local Bells, or by a suit's Bell where a whole suit replays. -/
def State.ringFor (s : State) (l : List Nat) (suitWide : Bool) : State :=
  (l.filter fun h => !s.handStopped h).foldl (fun (s : State) h =>
    if suitWide then s.ring 1 (h / 160) 0 7 else s.ring 2 (h / 160) (h % 160) 7) s

/-- The replayed set from a slot: LAST for a hand and its peers, EPOCH for a suit with its Mills (R435, R437). -/
def State.replaySet (s : State) (l : List Nat) (epoch : Bool) : State :=
  let s1 := l.foldl (fun (s : State) h => s.replayHand h epoch) s
  let s2 := if epoch then ((l.map (· / 160)).dedup.flatMap fun i => [2 * i, 2 * i + 1]).foldl (fun (s : State) m => s.replayMill m) s1 else s1
  let s3 := l.foldl (fun (s : State) h => s.resumeScope 2 (h / 160) (h % 160)) s2
  if epoch || l.any fun h => (s.hand h).morePeers then (l.map (· / 160)).dedup.foldl (fun (s : State) i => s.resumeScope 1 i 0) s3 else s3

/-- The hands that replay with hand h. -/
def State.replayed (s : State) (h : Nat) (epoch : Bool) : List Nat :=
  (s.closure 640 (if epoch then s.suitHands (h / 160) else [h])).filter fun x => (s.hand x).stream && s.handUp x

/-- Every hand of a set has stopped, and no cut is in progress (R448). -/
def State.cutFor (s : State) (l : List Nat) : Bool := l.all s.handStopped && s.bell.cuts.all fun c => c.complete

/-- HAND_REPLAY (R434, R435, R437): first every hand of the set is stopped; once all are, they are replayed and resumed. -/
def execHandReplay (h : HandIx) (epochSlot : Bool) (s : State) : Host.Outcome State Fault Refusal :=
  .next <|
    if !s.job.run ∨ !s.handUp h.val ∨ !(s.hand h.val).stream ∨ !s.mayRecover h.val then s
    else
      let l := s.replayed h.val epochSlot
      let s1 := (s.recover (l.map (· / 160)).dedup).setBusy (some h.val)
      if s.cutFor l then (s1.setBusy none).replaySet l epochSlot
      else s1.ringFor l (epochSlot || l.any fun x => (s.hand x).morePeers)

/-! ## Core swap and rebuild (R426, R427, R546) -/

/-- The spare map after the swap of logical core l, in one write; CORE_SPARED (R427, R546). -/
def State.swapCore (s : State) (k l cause : Nat) : State :=
  let h := k / 17
  let s1 := s.commitOne (Reg.spare h) (BitVec.ofNat 32 (2 ^ 31 + l <<< 24 + 1))
  let s2 := (s1.setCore (h * 17 + 16) { s1.core k with halted := [] }).setCore k {}
  s2.postAt s.time (handReeve h) 1 0x07 (epCore k) ((k % 17) <<< 43 + 16 <<< 38 + l <<< 34 + cause <<< 31)

/-- CORE_SWAP (R426): the reeve tests the kitty (`kittyOk`) and swaps it in, then replays the hand from LAST. A kitty that is
in service, marked failed, or fails its test makes the swap a hand fold with cause KITTY_USED. -/
def execCoreSwap (k : CoreIx) (cause : Nat) (kittyOk : Bool) (s : State) : Host.Outcome State Fault Refusal :=
  .next <|
    let h := k.val / 17
    let l := s.logical h (k.val % 17)
    if 3 < cause ∨ 16 ≤ l ∨ !s.handUp h ∨ !s.mayRecover h ∨ (cause = 3 ∧ !s.driftedTwice (Reg.cubeCtl k.val)) then s
    else if s.flag (Reg.spare h) 31 || s.flag (Reg.spare h) 0 || !kittyOk then s.foldHand h 0
    else if !s.job.run ∨ !(s.hand h).stream then s.swapCore k.val l cause
    else
      let set := s.replayed h false
      let s1 := (s.recover (set.map (· / 160)).dedup).setBusy (some h)
      if s.cutFor set then ((s1.setBusy none).swapCore k.val l cause).replaySet set false
      else s1.ringFor set (set.any fun x => (s.hand x).morePeers)

/-- SECTOR_REBUILD (R38, R412, R426, R465): a poisoned sector is written from its recovery source by the runtime, at a device virtual
address while a deal runs and at a physical one otherwise, with the permission that a write needs and with its partner copy. -/
def execSectorRebuild (addr : Nat) (data : BitVec 256) (s : State) : Host.Outcome State Fault Refusal :=
  .next <|
    let a := addr / 32 * 32
    match s.apTranslate a .write with
    | .ok pa pc =>
      if s.manorUp (pa / 2 ^ 38) && s.poisonIn pa 32 then s.apWrite 657 [(a, 32)] [(pa, 32, pc)] (toBytes 32 data.toNat) else s
    | _ => { s with rsp := .accessFault }

/-- BRIDGE_RETRAIN (R426, R437): one attempt on a link that is down. If it fails, the ring goes through the Manor and the
admitted collectives that used the bridge restart. -/
def execBridgeRetrain (b : BridgeIx) (manor ok : Bool) (s : State) : Host.Outcome State Fault Refusal :=
  .next <|
    let k := if manor then b.val / 2 * 2 else b.val
    let l := s.link (linkKey k manor true)
    if !l.down || l.retrained || !s.mayRecover 660 then s
    else
      let s1 := s.setLinkDown k manor (!ok) true
      if ok || manor then s1
      else
        (s1.colls.filter fun c => c.admitted && (memberSuits c.desc).contains (b.val / 2) && (memberSuits c.desc).contains (peerEnd b.val / 2)).foldl
          (fun (s : State) c => s.restartColl c) s1

/-! ## Variants (R441 to R443) -/

/-- A package cut is complete and held. -/
def State.packageCut (s : State) : Bool := s.bell.cuts.any fun c => c.complete && (c.scope == 0 || decide (3 ≤ c.scope))

/-- The slot contents of a resume table's values: n counters, loop registers, fetch address (R564). -/
def slotBase (v : List Nat) (va n : Nat) : Nat :=
  packElems 4 ((upTo n).map fun i => v.getD i 0 % 2 ^ 32) + packElems 4 ((upTo 4).map fun i => v.getD (n + i) 0 % 2 ^ 28) <<< 2048 +
    (v.getD (n + 4) va % 2 ^ 48) <<< 2176

/-- A unit as the resume table has it: counters, loop registers, fetch address (R441). -/
def State.variantUnit (s : State) (u : Nat) (v : List Nat) : State :=
  let at_ := fun (i : Nat) => v.getD i 0
  let va := PMap.get 0 s.job.entries u
  if u < 640 then
    let d := s.hand u
    let d1 : Hand :=
      { stream := decide (va ≠ 0), lastCommit := s.now u, ring := d.ring, rseq := d.rseq, lostNew := d.lostNew
        drainT := d.drainT, stored := d.stored, resumeAux := 3, writesLast := d.writesLast, writesEpoch := d.writesEpoch
        base := slotBase v va 64 }
    let s := (s.setHand u d1)
    let s := (upTo 64).foldl (fun (s : State) c => s.setReg (Reg.evc u c) (BitVec.ofNat 32 (at_ c))) s
    let s := (upTo 4).foldl (fun (s : State) i => s.setReg (Reg.loopReg u i) (BitVec.ofNat 32 (at_ (64 + i) % 2 ^ 28))) s
    let s := (upTo 17).foldl (fun (s : State) c => s.setCore (u * 17 + c) { ramp := (s.core (u * 17 + c)).ramp }) s
    (s.setReg64 (Reg.seqFetch u) (v.getD 68 va)).clearBit (Reg.seqStat u) 30
  else
    let m := u - 640
    let d := s.mill m
    let d1 := { d with stream := decide (va ≠ 0), fetch := v.getD 36 va, buf := [], ended := false, halted := false, broken := false, q := []
                       reported := false, pinT := none, resumeAux := 3, lastCommit := s.now u, hasStep := false, base := slotBase v va 32
                       loops := (upTo 4).foldl (fun (l : PMap Nat) i => PMap.put l i (at_ (32 + i) % 2 ^ 28)) d.loops }
    let s := s.setMill m d1
    let s := (upTo 32).foldl (fun (s : State) c => s.setReg (Reg.millEvc m c) (BitVec.ofNat 32 (at_ c))) s
    s.clearBit (Reg.millStat m) 30

/-- VARIANT_SWITCH (R441): under a package Bell the variant's root table is read, every unit written from the resume table
(unit; counters, loop registers, fetch address), and the package resumed. Before the cut is complete, the Bell rings. -/
def execVariantSwitch (rootVa : Nat) (resume : List (Nat × List Nat)) (s : State) : Host.Outcome State Fault Refusal :=
  .next <|
    if !s.job.run ∨ !s.mayRecover 650 then s
    else if !s.packageCut then ((s.ring 0 0 0 7).recover s.suitsUp).setBusy (some 650)
    else
      match s.readRoot rootVa with
      | none => s
      | some (j, _) =>
        let s1 := (s.colls.filter fun c => c.slots != 0).foldl (fun (s : State) c => s.giveSlots c.desc c.slots) s
        let j1 := { s.job with rootVa := j.rootVa, tensorVa := j.tensorVa, tensorCount := j.tensorCount, scaleVa := j.scaleVa, traceVa := j.traceVa
                               ringLog := j.ringLog, wrap := j.wrap, entries := j.entries, startPending := [], rollForward := false }
        let s2 := { s1 with job := j1, colls := [], net := [], served := [], inbox := [], tlb := [] }
        let us := (upTo 648).filter fun u => if u < 640 then s2.handUp u else s2.suitUp ((u - 640) / 2)
        let s3 := us.foldl (fun (s : State) u => s.variantUnit u (((resume.find? fun x => x.1 == u).map (·.2)).getD [])) s2
        (s3.setBusy none).resumeScope 0 0 0

/-- STEP_ROLL_FORWARD (R442): under the package cut, when an UPDATE of the step had begun, the Mills of the suits in service
are resumed; once none of them has an UPDATE in its queue, they are stopped again. -/
def execStepRollForward (s : State) : Host.Outcome State Fault Refusal :=
  .next <|
    if !s.packageCut ∨ !s.job.rollForward then s
    else
      let ms := (upTo 8).filter fun m => s.suitUp (m / 2) && (s.mill m).stream
      if ms.any fun m => s.millStopped m then
        { s with bell := { s.bell with marked := s.bell.marked.filter fun u => !((ms.map (640 + ·)).contains u)
                                       stopped := s.bell.stopped.filter fun u => !((ms.map (640 + ·)).contains u) } }
      else if ms.all fun m => (s.mill m).q.all fun c => Record.opcode c.r != 1 then
        { s with bell := { s.bell with marked := s.bell.marked ++ ms.map (640 + ·), stopped := s.bell.stopped ++ ms.map (640 + ·) }
                 job := { s.job with rollForward := false } }
      else s

/-- Every hand in service with a stream is held by a HOLD record (R452). -/
def State.allHeld (s : State) : Bool :=
  (hands640.filter fun h => (s.hand h).stream && s.handUp h).all fun h => (s.hand h).held.isSome

/-- SUIT_REJOIN (R360, R416, R443): a suit that left with a hand fold rejoins at a package epoch boundary that begins a step, at
which every hand is held, or between deals. -/
def execSuitRejoin (i : SuitIx) (s : State) : Host.Outcome State Fault Refusal :=
  .next <|
    if !s.recov.outSuits.contains i.val ∨ s.sec.fencedSuits.contains i.val ∨ s.suitDark i.val ∨ (s.job.run ∧ !s.allHeld) then s
    else
      let s1 := s.setFold i.val false
      { s1 with recov := { s1.recov with outSuits := s1.recov.outSuits.filter (· != i.val) } }

/-! ## The scrub (R40) -/

/-- The registers that the scrub zeroes: counters, loop registers and step counts. -/
def isScrubbed (a : Nat) : Bool :=
  match locate a with
  | .hand _ q => (decide (0x100 ≤ q) && decide (q < 0x200)) || (decide (0x20 ≤ q) && decide (q < 0x30))
  | .suit _ o => decide (0x50000 ≤ o) && decide (o < 0x70000) && (o % 0x10000 == 0x10 || (decide (0x100 ≤ o % 0x10000) && decide (o % 0x10000 < 0x200)))
  | _ => false

/-- The cut that stopped the deal ends with the scrub: nothing is left to resume (DEDUCED, assumption 52). -/
def State.endCuts (s : State) : State :=
  let keep := s.bell.cuts.filter fun c => !c.complete
  let held := fun (u : Nat) => keep.any fun c => s.inScope c u
  State.syncMode { s with bell := { s.bell with cuts := keep, marked := s.bell.marked.filter held, stopped := s.bell.stopped.filter held } }

/-- SCRUB (R40): what the stopped deal left is zeroed, the granary is written back and emptied, slots return to their bridge ends, its queues and packets are gone (DEDUCED, assumption 39), and the next
deal can be admitted. -/
def execScrub (s : State) : Host.Outcome State Fault Refusal :=
  .next <|
    if !s.job.scrub then s
    else
      let inPage := fun (p : Nat) => s.job.pages.any fun f => decide (f ≤ p) && decide (p < f + 65536)
      let s := (s.colls.filter fun c => c.slots != 0).foldl (fun (s : State) c => s.giveSlots c.desc c.slots) s
      let s := suits4.foldl (fun (s : State) i => s.flushGranary i) s
      let s1 := { s with
        mem := s.mem.filter fun c => !inPage c.1
        poisoned := s.poisoned.filter fun p => !inPage p
        latent := s.latent.filter fun e => bit e.2 4 || !inPage (s.cellAt e.1)
        healed := if s.lostPc.isEmpty then s.healed else s.healed ++ s.job.pages.flatMap fun f => (sectorsIn f 65536).filter s.lostSector
        pvSlots := s.pvSlots.filter fun e => !inPage e.1
        regs := s.regs.filter fun e => !isScrubbed e.1
        cores := []
        hands := []
        mills := []
        colls := []
        redMem := []
        net := []
        served := []
        inbox := [] }
      State.endCuts { s1 with job := { s1.job with scrub := false, pages := [] } }

/-! ## Checkpoints (R452 to R454, R484) -/

/-- The release or the job stop that waited for the checkpoint goes on: the package Bell, and the job stops. -/
def State.stopAfter (s : State) (source : Nat) : State :=
  let s1 := s.ring 0 0 0 source
  { s1 with job := { s1.job with stopWanted := 1, ckptArmed := false } }

/-- CHECKPOINT (R452 to R454): at a held boundary the state is written to the next of the two slots, which is complete unless a
link went down (R484); then the hands go on, or the release or job stop that armed the boundary does. -/
def execCheckpoint (linksUp : Bool) (s : State) : Host.Outcome State Fault Refusal :=
  .next <|
    if !s.job.run ∨ !s.allHeld ∨ s.handsLeft.isEmpty ∨ s.recov.busy.isSome then s
    else
      let n := s.job.ckptNext
      let s1 := { s with job := { s.job with ckptSlots := s.job.ckptSlots.set n linksUp, ckptNext := if linksUp then 1 - n else n } }
      if s.job.ckptArmed && linksUp then s1.stopAfter (if s.ctl.releaseReq.isSome then 3 else 2)
      else
        hands640.foldl (fun (s : State) h =>
          match (s.hand h).held with
          | none => s
          | some (_, r) => (s.setHand h { s.hand h with held := none }).seqCommit h r) s1

/-- A release under way while a deal runs, from `t` nanoseconds after the request (R454). -/
def State.releaseDue (s : State) (t : Nat) : Bool :=
  match s.ctl.releaseReq with | none => false | some t0 => s.job.run && s.job.ckptArmed && decide (t0 + t ≤ s.clock)

/-- CHECKPOINT_TIMEOUT (R454): 9 s after the request the checkpoint is abandoned and its slot stays incomplete. -/
def execCheckpointTimeout (s : State) : Host.Outcome State Fault Refusal :=
  .next <|
    if s.releaseDue 9000000000 then
      ({ s with job := { s.job with ckptSlots := s.job.ckptSlots.set s.job.ckptNext false } } : State).stopAfter 3
    else s

/-- RELEASE_BOUNDARY_TIMEOUT (R454): no boundary within 4 s of the request. -/
def execReleaseBoundaryTimeout (s : State) : Host.Outcome State Fault Refusal :=
  .next (if s.releaseDue 4000000000 && !s.allHeld then s.stopAfter 3 else s)

end Sys2Proof.Machine
end

