-- ==== Sys2Proof/Machine/Control.lean ====
section
/-! DEFINITION. Start-up, the reference, JTAG, the sideband and the link registers (R29, R32, R470 to R494). -/

namespace Sys2Proof.Machine

/-! ## Start-up (R476 to R481) -/

/-- The service UART sends the result of the step in progress (R476, R489). -/
def State.sendResult (s : State) (failed : Bool) : State := { s with ctl := { s.ctl with uart := s.ctl.uart ++ [(s.ctl.step, failed)] } }
/-- Its rate in baud: CONFIG's, or the slower one before CONFIG is read (R474, R489). -/
def State.uartRate (s : State) : Nat := if bit s.ctl.config.toNat 120 then 921600 else 115200

/-- A step ends well: its result is sent; STEP of MANOR.BOOT.STAT and the step in progress follow. -/
def State.setStep (s : State) (n : Nat) : State :=
  let s1 := (s.sendResult false).setField Reg.bootStat 28 4 n
  { s1 with ctl := { s1.ctl with step := n, stepT := s.clock } }

/-- Start-up stops in its step: FAIL, the time of the step, and its result (R489, R491). -/
def State.failStart (s : State) : State :=
  let s1 := ((s.sendResult true).setField Reg.bootStat 0 16 (satAt 65535 ((s.clock - s.ctl.stepT) / 10000000))).setBit Reg.bootStat 26
  { s1 with recov := { s1.recov with irq7 := true } }

/-- Start-up stops and the module halts. -/
def State.haltStart (s : State) : State := State.syncMode { s.failStart with ctl := { s.ctl with halted := true } }

/-- Flash recovery (R475): only the Manor is powered, and the management port comes up at 1000BASE-KX. -/
def State.enterRecovery (s : State) : State :=
  let s1 := ((s.failStart.setBit Reg.mgmtStat 31).setField Reg.mgmtStat 29 2 2).setField Reg.mgmtStat 27 2 0
  State.syncMode { s1 with ctl := { s1.ctl with flashRecovery := true } }

/-- The timebase starts at 0 (R29, R477). -/
def State.startTime (s : State) (ext : Bool) : State := { s with time := 0, extRef := ext, ctl := { s.ctl with timeOn := true } }

/-- Step 1: the flash mode; a key erase that a power loss broke off is completed first; a rotation that is due starts again
(R470, R500, R513). -/
def State.endStep1 (s : State) (r : StepResult) : State :=
  let s1 := { s.setField Reg.bootStat 21 2 (if 2 < r.flashMode then 0 else r.flashMode) with ctl := { s.ctl with fallback := decide (2 < r.flashMode) } }
  let s2 := if s1.sec.erasePending then s1.eraseKeys else s1
  ({ s2 with sec := { s2.sec with rotating := s2.sec.attSeed.isSome && decide (60000 ≤ s2.sec.attNext) } }).setStep 2

/-- Before step 2 has read CONFIG every flash mode is allowed; then the controller keeps its mode if CONFIG allows it, else takes
the next that the flash advertises and CONFIG allows, which the step reports, or 1-1-1 (R470). -/
def flashMode (now advertised cfg : Nat) : Nat :=
  let ok := fun (m : Nat) => m == 0 || (m == 1 && bit cfg 129) || (m == 2 && bit cfg 128)
  if ok now then now else if advertised < now ∧ ok advertised then advertised else 0

/-- Bank b was rejected where R473 picks bank `pick`: it has no image, or it stood before the bank picked and failed. -/
def State.rejected (s : State) (b pick : Nat) : Bool :=
  let before := if b = 0 then decide (imgSeq s.flash (bankBase 1) ≤ imgSeq s.flash 0) else decide (imgSeq s.flash 0 < imgSeq s.flash (bankBase 1))
  !imgMagic s.flash (bankBase b) || (b != pick && before && !s.bankOk b)

/-- Step 2: the bank of R473, CONFIG and the policy. Raising DEBUG to 2 erases the keys first (R512). -/
def State.endStep2 (s : State) (r : StepResult) : State :=
  match s.chooseBank with
  | none => ((s.setBit Reg.bootStat 24).setBit Reg.bootStat 23).enterRecovery
  | some b =>
    let s1 := s.setField Reg.bootStat 25 1 b
    let s2 := if s.rejected 0 b then s1.setBit Reg.bootStat 24 else s1
    let s2 := if s.rejected 1 b then s2.setBit Reg.bootStat 23 else s2
    let cfg := Memory.read s.flash (s.sectionAt b 3) 64
    let s3 := s2.setField Reg.bootStat 21 2 (flashMode (s.field Reg.bootStat 21 2) r.flashMode cfg)
    let pol := (Memory.bytes s.flash (s.sectionAt b 4) 7).map (·.toNat)
    let s4 : State := { s3 with ctl := { s3.ctl with bank := b, bankSeq := imgSeq s.flash (bankBase b), config := BitVec.ofNat 512 cfg
                                                     suitOff := 15 - bits cfg 0 4 }
                                sec := { s3.sec with policy := pol } }
    let dbg : Nat := s4.sec.effective 1
    let s5 := if dbg = 2 ∧ s4.sec.debug ≠ 2 then s4.eraseKeys else s4
    let s6 := { s5 with sec := { s5.sec with debug := dbg }, gov := { fMax := s5.cfgFMax, pLimit := s5.cfgPLimit } }
    s6.setStep 3

/-- Fold the suits of a list, cause 4. -/
def State.foldStart (s : State) (l : List Nat) : State :=
  (suits4.filter fun i => l.contains i && s.suitUp i).foldl (fun (s : State) i => s.foldSuit i 4) s

/-- The bridges between suits in service are trained (R361, R395; that they train in step 3 is DEDUCED, assumption 42). -/
def State.trainBridges (s : State) : State :=
  (s.suitsUp.flatMap fun a => (s.suitsUp.filter fun b => (facing a b).isSome).map fun b => bridgeOf a b).foldl
    (fun (s : State) b => s.setBit (Reg.bridgeEnd b) 31) s

/-- Step 3: the rails of the fused and enabled suits, the timebase if the reference was detected, island clocks at F_MAX,
reeves loaded. -/
def State.endStep3 (s : State) (r : StepResult) : State :=
  let s1 := if s.ctl.timeOn then s else s.startTime true
  let on := [0, 1, 3, 2].filter s1.fusedIn
  let s2 := on.foldl (fun (s : State) i => s.setSuit i { s.suit i with powered := true, clock := s.gov.fMax, cap := 8 }) s1
  let s3 := { s2 with recov := { s2.recov with beatT := (upTo 16).foldl (fun (m : PMap Nat) x => PMap.put m x s2.time) s2.recov.beatT } }
  ((s3.foldStart r.badSuits).trainBridges).setStep 4

/-- Step 4: pseudo-channels that fail training start mapped out, as far as the reserve goes; a DDR5 failure halts. -/
def State.endStep4 (s : State) (r : StepResult) : State :=
  let s1 := r.badPcs.foldl (fun (s : State) x =>
    let i := x / 64
    if !s.suitUp i || (s.suit i).outPcs.contains (x % 64) then s
    else if s.reserveLeft i && decide ((s.suit i).outPcs.length < 63) then (s.postPcOut i (x % 64) 2).mapOutNow i (x % 64)
    else s.foldSuit i 4) s
  let s2 := s1.foldStart r.badSuits
  if r.ddrOk then s2.setStep 5 else s2.haltStart

/-- A hand's self-test result (R478). LOGICAL of a failing core 16, which serves none, is a free value (assumption 43). -/
def State.testHand (s : State) (r : StepResult) (h : Nat) : State :=
  let bad := ((upTo 17).filter fun c => r.badCores.contains (h * 17 + c))
  if r.badHands.contains h ∨ 2 ≤ bad.length then (s.setFence h true).postAt s.time (handReeve h) 3 0x08 (epHand h 31) (4 <<< 45)
  else
    match bad with
    | [] => s
    | c :: _ =>
      let l := if c = 16 then s.fresh % 16 else c
      let w := if c = 16 then 1 else 2 ^ 31 + c <<< 24 + 1
      let s1 := s.commitOne (Reg.spare h) (BitVec.ofNat 32 w)
      (s1.postAt s.time (handReeve h) 1 0x07 (epCore (h * 17 + c)) (c <<< 43 + 16 <<< 38 + l <<< 34 + 4 <<< 31)).spend

/-- Step 5: the self-test of every hand; a suit whose hands are all fenced is folded. -/
def State.endStep5 (s : State) (r : StepResult) : State :=
  let s1 := (hands640.filter fun h => s.suitUp (h / 160)).foldl (fun (s : State) h => s.testHand r h) s
  let gone := s1.suitsUp.filter fun i => (upTo 160).all fun x => s1.fenced (i * 160 + x)
  (s1.foldStart gone).setStep 6

/-- Step 6: the granaries; MODE := 0, and the suits in service (R479, R491). -/
def State.endStep6 (s : State) (r : StepResult) : State :=
  let s1 := s.foldStart r.badSuits
  let s2 := s1.suitsUp.foldl (fun (s : State) i => s.setGranMode i 0) s1
  (s2.setField Reg.bootStat 16 4 (sumL (s2.suitsUp.map (2 ^ ·)))).setStep 7

/-- Step 7: the loader is in DDR5 and the operating system runs; the rollback floor rises as step 8 is reached (R472, R501). -/
def State.endStep7 (s : State) : State :=
  let a := s.sectionAt s.ctl.bank 5
  let n := match (upTo (imgCount s.flash (bankBase s.ctl.bank))).find? fun k => imgSect s.flash (bankBase s.ctl.bank) k 0 2 == 5 with
    | some k => imgSect s.flash (bankBase s.ctl.bank) k 8 4 | none => 0
  let min' := if s.sec.effective 2 = 1 ∧ s.sec.minSeq < BitVec.ofNat 32 s.ctl.bankSeq then BitVec.ofNat 32 s.ctl.bankSeq else s.sec.minSeq
  ({ s with ddr := Memory.writeBytes s.ddr 0 (Memory.bytes s.flash a n), ctl := { s.ctl with osUp := true }
            sec := { s.sec with minSeq := min' } }).setStep 8

/-- Step 8: READY. -/
def State.endStep8 (s : State) : State :=
  let s1 := ((s.sendResult false).setField Reg.bootStat 0 16 (satAt 65535 ((s.clock - s.ctl.stepT) / 10000000))).setBit Reg.bootStat 27
  State.syncMode { s1 with ctl := { s1.ctl with step := 9 }, recov := { s1.recov with irq7 := true } }

/-- A step ends with a result, and the next begins; a Release ends start-up there (R481). -/
def State.endStartStep (s : State) (r : StepResult) : State :=
  if s.ctl.endAtBoundary then s.safeOff
  else
    match s.ctl.step with
    | 1 => s.endStep1 r
    | 2 => s.endStep2 r
    | 3 => s.endStep3 r
    | 4 => s.endStep4 r
    | 5 => s.endStep5 r
    | 6 => s.endStep6 r
    | 7 => s.endStep7
    | 8 => s.endStep8
    | _ => s

/-- A start-up step is in progress. -/
def State.starting (s : State) : Bool :=
  decide (1 ≤ s.ctl.step) && decide (s.ctl.step ≤ 8) && !s.ctl.halted && !s.ctl.flashRecovery && s.ctl.mainSwitch

/-- START_UP_STEP_END (R476). -/
def execStartUpStepEnd (r : StepResult) (s : State) : Host.Outcome State Fault Refusal :=
  .next (if s.starting then s.endStartStep r else s)

/-- The limit of a step in milliseconds (R470, R476). -/
def State.stepLimit (s : State) : Nat :=
  match s.ctl.step with
  | 1 => 1000
  | 2 => if s.ctl.fallback then 24000 else 12000
  | 3 => 5000
  | 4 => 20000
  | 5 => 20000
  | 6 => 10000
  | 7 => 120000
  | _ => 60000

/-- START_UP_STEP_LIMIT (R476): the step's failure action. Which suits, pseudo-channels, hands and whether DDR5 had not
finished is a free choice (assumption 44). -/
def execStartUpStepLimit (s : State) : Host.Outcome State Fault Refusal :=
  .next <|
    if !s.starting || decide (s.clock < s.ctl.stepT + s.stepLimit * 1000000) then s
    else if s.ctl.endAtBoundary then s.safeOff
    else
      let n := s.fresh
      let s1 := s.spend
      match s.ctl.step with
      | 1 => s1.haltStart
      | 2 => s1.enterRecovery
      | 7 => s1.haltStart
      | 8 => s1.haltStart
      | _ =>
        let r : StepResult :=
          { flashMode := 0, badSuits := suits4.filter fun i => bit n i, badPcs := (upTo 256).filter fun x => bit n (8 + x), ddrOk := bit n 4
            badCores := [], badHands := hands640.filter fun h => bit n (512 + h) }
        s1.endStartStep r

/-! ## The reference (R29, R32, R477) -/

/-- The level-1 alarm of the clock sensor; the period it measured is a free value. -/
def State.clockAlarm (s : State) : State := (s.alarm 2 1 (s.fresh % 2 ^ 32)).spend

/-- REFERENCE_TIMEOUT (R477). -/
def execReferenceTimeout (s : State) : Host.Outcome State Fault Refusal :=
  .next <|
    if s.ctl.step = 3 ∧ s.starting ∧ !s.ctl.timeOn ∧ s.ctl.stepT + 100000000 ≤ s.clock then
      ((s.startTime false).setBit Reg.bootStat 20).clockAlarm
    else s

/-- REFERENCE_LOSS (R32): the timebase goes on without a step. -/
def execReferenceLoss (s : State) : Host.Outcome State Fault Refusal :=
  .next (if s.ctl.timeOn && s.extRef then ({ s with extRef := false } : State).clockAlarm else s)

/-- REFERENCE_RETURN (R32, R477). -/
def execReferenceReturn (s : State) : Host.Outcome State Fault Refusal :=
  .next (if s.ctl.timeOn && !s.extRef then { s with extRef := true } else s)

/-! ## JTAG (R488) -/

def State.jtag (s : State) (ir : Nat) : State := { s with ctl := { s.ctl with jtagIr := ir } }

/-- The package Bell that EXTEST, CLAMP and HIGHZ ring first while a deal runs; R458 gives the JTAG port no SOURCE, so it is
a free value (assumption 45). -/
def State.jtagBell (s : State) : State := if s.job.run then (s.ring 0 0 0 (s.fresh % 8)).spend else s

def execBypass (s : State) : Host.Outcome State Fault Refusal := .next (s.jtag 0)
def execIdcode (s : State) : Host.Outcome State Fault Refusal := .next { s.jtag 1 with rsp := .word 0x2A47E3C7 }
def execSamplePreload (s : State) : Host.Outcome State Fault Refusal := .next (s.jtag 2)
def execExtest (s : State) : Host.Outcome State Fault Refusal := .next (s.jtagBell.jtag 3)
def execClamp (s : State) : Host.Outcome State Fault Refusal := .next (s.jtagBell.jtag 4)
def execHighz (s : State) : Host.Outcome State Fault Refusal := .next (s.jtagBell.jtag 5)

/-! ## The sideband (R474, R487) -/

/-- The static address: CONFIG's, 0 behaving as 0x5A. -/
def State.staticAddr (s : State) : Nat := let a := bits s.ctl.config.toNat 112 7; if a = 0 then 0x5A else a

/-- I3C_DYNAMIC_ADDRESS (R487): after CONFIG has been read; SETDASA only at the static address. -/
def execI3cDynamicAddress (setdasa : Bool) (static addr : BitVec 7) (s : State) : Host.Outcome State Fault Refusal :=
  .next <|
    if s.ctl.step < 3 ∨ s.ctl.i3cAddr.isSome ∨ (setdasa ∧ static.toNat ≠ s.staticAddr) then s
    else { s with ctl := { s.ctl with i3cAddr := some addr } }

/-- The ordering code in ASCII, zero-padded (R1, R487). -/
def orderingCode (code : Nat) : List Nat :=
  match code with
  | 0 => [0x48, 0x59, 0x47, 0x34, 0x2D, 0x32, 0x38, 0x38, 0x4C]
  | 1 => [0x48, 0x59, 0x47, 0x34, 0x2D, 0x31, 0x39, 0x32, 0x4C]
  | _ => [0x48, 0x59, 0x47, 0x33, 0x2D, 0x32, 0x31, 0x36, 0x4C]

/-- A 10-bit two's complement reading in two bytes. -/
def tempWord (v : Nat) : Nat := if bit v 9 then v + 0xFC00 else v

/-- The byte at a sideband offset; beyond the table it is a free value (assumption 46). -/
def State.i3cByte (s : State) (o : Nat) : Byte :=
  let t := (s.readReg Reg.pwrTemp).toNat
  if o < 0x10 then BitVec.ofNat 8 ((orderingCode s.part.code).getD o 0)
  else if o < 0x20 then Config.serialNumber (o - 0x10)
  else if o = 0x20 then BitVec.ofNat 8 s.ctl.state
  else if o = 0x21 then BitVec.ofNat 8 (s.field Reg.bootStat 28 4)
  else if o < 0x24 then BitVec.ofNat 8 (bits ((s.readReg Reg.pwrIn).toNat % 65536 / 10) (8 * (o - 0x22)) 8)
  else if o < 0x2A then BitVec.ofNat 8 (bits (tempWord (bits t (20 - 10 * ((o - 0x24) / 2)) 10)) (8 * (o % 2)) 8)
  else if o < 0x2C then 0
  else if o < 0x30 then BitVec.ofNat 8 (bits s.ctl.fenceLogged (8 * (o - 0x2C)) 8)
  else if o = 0x30 then BitVec.ofNat 8 s.sec.level
  else BitVec.ofNat 8 (Config.freeNat (s.free + o))

/-- I3C_READ (R487). -/
def execI3cRead (off len : Nat) (s : State) : Host.Outcome State Fault Refusal :=
  .next { s with rsp := .bytes ((upTo len).map fun i => s.i3cByte (off + i)), free := s.free + off + len }

/-! ## Links (R474, R484, R486, R493, R494) -/

/-- The link exists: the high link of a port only where the port is split (R474, R493). -/
def State.linkExists (s : State) (n : Nat) : Bool := n % 2 == 0 || bit s.ctl.config.toNat (8 + n / 2)

/-- A width and a rate that a link can train to (R474, R482): x8 for the low link of an unsplit port only, and no rate above the cap. -/
def State.linkTrains (s : State) (n width rate : Nat) : Bool :=
  let cap := s.ctl.config.toNat
  let c := if 5 ≤ bits cap (16 + n / 2 * 4) 4 then 0 else bits cap (16 + n / 2 * 4) 4
  (width == 1 || width == 2 || width == 4 || (width == 8 && n % 2 == 0 && !bit cap (8 + n / 2))) && decide (c ≤ rate) && decide (rate ≤ 4)

/-- PCIE_LINK_CHANGE (R484, R493): UP, WIDTH and RATE; DPC where it triggered; a link that comes up again has retrained. -/
def execPcieLinkChange (link : Fin 4) (up dpc : Bool) (width rate : BitVec 4) (s : State) : Host.Outcome State Fault Refusal :=
  .next <|
    let a := Reg.pcieLink link.val
    if !s.linkExists link.val ∨ (up ∧ !s.linkTrains link.val width.toNat rate.toNat) then s
    else
      let again := up && (s.flag a 31 || s.field a 20 4 == 15)
      let s1 := s.setField a 31 1 (b2n up)
      let s2 := (s1.setField a 24 4 (if up then width.toNat else 0)).setField a 20 4 (if up then rate.toNat else 15)
      let s3 := if dpc then s2.setBit a 30 else s2
      if again then s3.countSat a 0 16 1 else s3

/-- A PHY type that MGMT_MODES allows, with an FEC of its own; in flash recovery 1000BASE-KX alone (R474, R475, R485). -/
def State.phyOk (s : State) (phy fec : Nat) : Bool :=
  let m := bits s.ctl.config.toNat 24 3
  let modes := if s.ctl.flashRecovery then 4 else if m = 0 then 7 else m
  decide (phy ≤ 2) && bit modes phy && (match phy with | 0 => decide (fec ≤ 2) | 1 => decide (fec ≤ 1) | _ => fec == 0)

/-- MGMT_LINK_CHANGE (R486, R494, R554). -/
def execMgmtLinkChange (up : Bool) (phy fec : BitVec 2) (s : State) : Host.Outcome State Fault Refusal :=
  .next <|
    if s.flag Reg.mgmtStat 31 = up ∨ (up ∧ !s.phyOk phy.toNat fec.toNat) then s
    else
      let a := Reg.mgmtStat
      let s1 := ((s.setField a 31 1 (b2n up)).setField a 29 2 (if up then phy.toNat else 3)).setField a 27 2 (if up then fec.toNat else 0)
      let s2 := if up then s1 else s1.countSat a 0 16 1
      { s2 with recov := { s2.recov with irq8 := true } }

end Sys2Proof.Machine
end

