-- ==== Sys2Proof/Machine/Cube.lean ====
section
/-! DEFINITION. The CUBE rows: MMA, ELEM, and the cube's load (R132 to R142, R164 to R168). -/

namespace Sys2Proof.Machine

/-- MMA (R135): begins, takes its group, receives a tile, or issues one block step. -/
def execMma (k : CoreIx) (s : State) : Host.Outcome State Fault Refusal :=
  .next (s.runStation 2 k.val 1 fun s i c => s.cubeStep k.val i c)

/-- ELEM (R141): as MMA, one 6 x 2 block of elements per issue. -/
def execElem (k : CoreIx) (s : State) : Host.Outcome State Fault Refusal :=
  .next (s.runStation 2 k.val 2 fun s i c => s.cubeStep k.val i c)

/-- GAP_FILL_END (R164, R165): a gap has lasted GAP_FILL cycles, filled at the current duty; ramp-down begins. -/
def execGapFillEnd (k : CoreIx) (s : State) : Host.Outcome State Fault Refusal :=
  .next <|
    if s.filling k.val ∧ (s.core k.val).ramp ≠ 2 then
      let s1 := s.addGapfill k.val (s.gapFill k.val * s.duty k.val / 8)
      s1.setCore k.val { s1.core k.val with ramp := 2 }
    else s

/-- The duty moves by one eighth (R165 to R167). -/
def State.setDuty (s : State) (k d ramp : Nat) : State :=
  let s1 := s.setField (Reg.cubeStat k) 24 4 d
  s1.setCore k { s1.core k with ramp := ramp }

/-- DUTY_STEP (R165, R166, R583): 32 cycles end, and the duty changes by one eighth: up to the cap while there is work, down
while a ramp-down lasts, down to a cap that fell below it. A gap does not raise it. -/
def execDutyStep (k : CoreIx) (s : State) : Host.Outcome State Fault Refusal :=
  .next <|
    let d := s.duty k.val
    let top := s.dutyTop k.val
    let ramp := (s.core k.val).ramp
    if (s.cubeReady k.val).isEmpty then
      if ramp = 2 ∧ 0 < d then (s.addGapfill k.val (4 * d)).setDuty k.val (d - 1) (if d = 1 then 0 else 2)
      else if top < d then s.setDuty k.val (d - 1) ramp
      else s
    else if top < d then s.setDuty k.val (d - 1) ramp
    else if d < top then s.setDuty k.val (d + 1) (if d + 1 = top then 0 else 3)
    else s

end Sys2Proof.Machine
end

