-- ==== Sys2Proof/Machine/Drain.lean ====
section
/-! DEFINITION. DRAIN and DISCARD (R106 to R112, R150 to R163). -/

namespace Sys2Proof.Machine

/-! ## Activations (R157, R158) -/

/-- NaN, with INV: sin and cos of an infinity (R158). -/
def invalid : Val × Fl := (.nan false, Fl.inv)

/-- An activation: value and flags. Codes 0x2 to 0x8 on a finite argument are free values within the bound of R158. -/
def act (code : Nat) (x : Val) : Val × Fl :=
  match x with
  | .nan _ => (.nan false, 0)
  | .inf n =>
    match code with
    | 0 => (.inf n, 0)
    | 1 => (if n then Val.zero else .inf false, 0)
    | 2 => (if n then Val.negZero else .inf false, 0)
    | 3 => (if n then Val.negZero else .inf false, 0)
    | 4 => (.fin n 1 0, 0)
    | 5 => (if n then Val.zero else Val.one, 0)
    | 6 => (if n then Val.zero else .inf false, 0)
    | _ => invalid
  | .fin n m e =>
    match code with
    | 0 => (.fin n m e, 0)
    | 1 => (if n || m == 0 then Val.zero else .fin n m e, 0)
    | c => (actNear c (.fin n m e), 0)

/-- The derivative of an activation: value and flags. -/
def actDeriv (code : Nat) (x : Val) : Val × Fl :=
  match x with
  | .nan _ => (.nan false, 0)
  | .inf n =>
    match code with
    | 0 => (Val.one, 0)
    | 1 => (if n then Val.zero else Val.one, 0)
    | 2 => (if n then Val.zero else Val.one, 0)
    | 3 => (if n then Val.zero else Val.one, 0)
    | 4 => (Val.zero, 0)
    | 5 => (Val.zero, 0)
    | 6 => (if n then Val.zero else Val.one, 0)
    | _ => invalid
  | .fin n m e =>
    match code with
    | 0 => (Val.one, 0)
    | 1 => (if n || m == 0 then Val.zero else Val.one, 0)
    | c => (derivNear c (.fin n m e), 0)

/-- One rounding to FP64, as a value, with its flags. -/
def round64 (p : Val × Fl) : Val × Fl :=
  let r := Fmt.fp64.round p.1
  (v64 r.1, p.2 ||| r.2)

/-- The fields of a DRAIN's ARG (R151). -/
structure DrainArg where
  ofmt : Nat
  ew : Nat
  after : Bool
  act : Nat
  deriv : Bool
  sumsq : Bool
  base : Nat
  deriving DecidableEq, Repr

def DrainArg.of (r : BitVec 512) : DrainArg :=
  { ofmt := Record.argBits r 28 4, ew := Record.argBits r 26 2, after := bit (Record.arg r) 25, act := Record.argBits r 21 4
    deriv := bit (Record.arg r) 20, sumsq := bit (Record.arg r) 19, base := Record.argBits r 10 9 }

/-- The plain path is taken (R155). -/
def DrainArg.plain (a : DrainArg) : Bool := a.ew == 0 && !a.deriv && decide (a.act ≤ 1)
/-- A second stream is used (R156, R159). -/
def DrainArg.second (a : DrainArg) : Bool := a.ew != 0 || a.deriv

/-- f := sA * sB / sC, rounded once (R110). -/
def scaleFactor (sa sb sc : Nat) : Val :=
  let p := ((v32 sa).mul (v32 sb)).1
  v64 (f64 (p.div (v32 sc)).1)

/-- One output element on the plain path: its encoding and flags (R110, R155). -/
def drainPlain (a : DrainArg) (f v : Val) : Nat × Fl :=
  let x := act a.act v
  let p := x.1.mul f
  let r := roundFmt a.ofmt p.1
  (r.1, x.2 ||| p.2 ||| r.2)

/-- One output element on the fused path (R156): sA * sB exact, the destination's scale, the second-stream value times
its scale. -/
def drainFused (a : DrainArg) (sab sc v x2 : Val) (x2f : Fl) : Nat × Fl :=
  let p := round64 (v.mul sab)
  let ewStep := fun (y : Val) => round64 (if a.ew = 1 then y.add x2 else y.mul x2)
  let q : Val × Fl :=
    if a.deriv then
      let d := actDeriv a.act x2
      let r := round64 (p.1.mul d.1)
      (r.1, p.2 ||| d.2 ||| r.2)
    else
      let p1 := if a.ew ≠ 0 ∧ !a.after then ewStep p.1 else (p.1, 0)
      let g := act a.act p1.1
      let g1 := if a.ew ≠ 0 ∧ a.after then ewStep g.1 else (g.1, 0)
      (g1.1, p.2 ||| p1.2 ||| g.2 ||| g1.2)
  let y := q.1.div sc
  let r := roundFmt a.ofmt y.1
  (r.1, x2f ||| q.2 ||| y.2 ||| r.2)

/-! ## Output tiles (R153, R156, R160) -/

/-- Valid rows and columns of output tile (a, b) of a group. -/
def drainValid (g : Group) (ofmt a b : Nat) : Nat × Nat :=
  (min (fmtRows ofmt) (g.rows - a * fmtRows ofmt), min (fmtCols ofmt) (g.cols - b * fmtCols ofmt))

/-- Elements of the payload of an output tile with their flags, in element order; `el` gives a valid element. -/
def drainElems (f r c : Nat) (el : Nat → Nat → Nat × Fl) : List (Nat × Fl) :=
  (upTo (4096 / fmtSize f)).map fun n => if inValid f r c n then el (n / fmtCols f) (n % fmtCols f) else (0, 0)

/-- The scales of a DRAIN: of A, B and the destination. Index 0 is 1 and is not read (R46, R108). -/
def State.readScales (s : State) : List Nat → Rd (List Nat)
  | [] => .ok []
  | 0 :: is =>
    match s.readScales is with
    | .ok l => .ok (0x3F800000 :: l)
    | x => x
  | i :: is =>
    match s.vread (s.job.scaleVa + i * 4) 4 with
    | .ok v =>
      match s.readScales is with
      | .ok l => .ok (v :: l)
      | x => x
    | .poison => .poison
    | .fault a k p => .fault a k p

/-- Tally tiles of a group whose rows have all been read once output tiles 0 to n are written (R162). -/
def readTallyTiles (g : Group) (ofmt n : Nat) : List Nat :=
  let ht := tallyRows g.wide
  let nc := (g.bc + 1) * 32 / fmtCols ofmt
  let outs := upTo (((g.br + 1) * ht / fmtRows ofmt) * nc)
  (upTo ((g.br + 1) * (g.bc + 1))).filterMap fun t =>
    let r := t % (g.br + 1)
    let c := t / (g.br + 1)
    let meets := fun (o : Nat) =>
      let a := o / nc
      let b := o % nc
      decide (a * fmtRows ofmt < (r + 1) * ht) && decide (r * ht < (a + 1) * fmtRows ofmt) &&
        decide (b * fmtCols ofmt < (c + 1) * 32) && decide (c * 32 < (b + 1) * fmtCols ofmt)
    if outs.all fun o => !meets o || decide (o ≤ n) then some ((g.first + t) % 8) else none

/-- Tally tiles newly read: their credits are on the way to CUBE. -/
def Core.giveTally (c : Core) (ts : List Nat) : Core :=
  let new := ts.filter fun t => !c.drained.contains t
  { c with drained := c.drained ++ new, tallyRet := c.tallyRet ++ new }

/-- The oldest handed-over group leaves the tally's ring. -/
def Core.dropGroup (c : Core) : Core := { c with handed := c.handed.drop 1, drained := [] }

/-- The term limit of a mode (R149). -/
def termLimit (wide : Bool) : Nat := if wide then 2 ^ 32 else 2 ^ 20

/-- A row of output tile row a was drained with too many terms (R149). -/
def Core.longRow (c : Core) (g : Group) (ofmt a : Nat) : Bool :=
  (upTo (fmtRows ofmt)).any fun i =>
    (upTo (g.bc + 1)).any fun t =>
      decide (termLimit g.wide < PMap.get 0 c.rows (rowKey (g.place (a * fmtRows ofmt + i) (t * 32))))

/-- The exact sum of squares of a tile's valid elements, rounded once to FP64 (R161). -/
def sumSquares (f r c : Nat) (els : List Nat) : Nat :=
  let vs := (upTo els.length).filterMap fun n => if inValid f r c n then some (decodeFmt f (els.getD n 0)) else none
  if vs.any Val.isNan then Fmt.fp64.qnan
  else f64 (sumVals (vs.map fun v => (v.mul v).1))

/-- An FP64 payload with one element replaced. -/
def setPayElem (pay : BitVec 32768) (k v : Nat) : BitVec 32768 := BitVec.ofNat 32768 (setBits pay.toNat (64 * k) 64 v)

/-- The header DRAIN writes for output tile n (R160). -/
def State.drainHead (s : State) (c : Cmd) (g : Group) (n : Nat) : Head :=
  let d := Record.desc c.r 2
  let p := d.pos n
  { tid := d.tid, row := p.1, col := p.2, fmt := Record.argBits c.r 28 4
    scale := if d.tid = 0 then 0 else Entry.scale (s.entry d.tid), wver := g.wver, last := n + 1 == d.count }

/-- Output tile n written, with the second-stream tile if there is one. -/
def State.drainOut (s : State) (k i : Nat) (c : Cmd) (g : Group) (t2 : Option Tile) : State :=
  let a := DrainArg.of c.r
  let d := Record.desc c.r 2
  let n := c.out
  let q := d.relPos n
  let core := s.core k
  let rc := drainValid g a.ofmt q.1 q.2
  let sa := c.scales.getD 0 0
  let sb := c.scales.getD 1 0
  let sc := c.scales.getD 2 0
  let s2 := c.scales.getD 3 0x3F800000
  let ok := scaleOk sa && scaleOk sb && scaleOk sc && (a.plain || scaleOk s2)
  let f := scaleFactor sa sb sc
  let sab := ((v32 sa).mul (v32 sb)).1
  let el := fun (r cc : Nat) =>
    if !ok then (nanFmt a.ofmt, Fl.inv)
    else
      let gi := q.1 * fmtRows a.ofmt + r
      let gj := q.2 * fmtCols a.ofmt + cc
      let v := (PMap.get {} core.tally (cellKey (g.place gi gj))).value (wordFmt g.wide)
      if a.plain then drainPlain a f v
      else
        let x2 := match t2 with
          | none => (Val.zero, (0 : Fl))
          | some t => round64 ((decodeFmt t.head.fmt (t.elem t.head.fmt r cc)).mul (v32 s2))
        drainFused a sab (v32 sc) v x2.1 x2.2
  let els := drainElems a.ofmt rc.1 rc.2 el
  let fl := els.foldl (fun f e => f ||| e.2) (if ok then 0 else Fl.inv)
  let h := s.drainHead c g n
  let h := if rc.1 = 0 ∨ rc.2 = 0 then h.padded else h.valid rc.1 rc.2
  let pay := BitVec.ofNat 32768 (packElems (fmtSize a.ofmt) (els.map (·.1)))
  let s1 := ((s.put k d n (Tile.seal h pay)).flags (Reg.drainStat k) fl).add32 (Reg.drtiles k) 1
  let s1 := if core.longRow g a.ofmt q.1 then s1.setBit (Reg.drainStat k) 30 else s1
  let s1 := s1.setCore k ((s1.core k).giveTally (readTallyTiles g a.ofmt n))
  let last := n + 1 == d.count
  let s1 :=
    if a.sumsq then
      let slot := (Record.desc c.r 1).row0
      let t := (s1.core k).slot slot
      let pay := setPayElem t.pay (a.base + n) (sumSquares a.ofmt rc.1 rc.2 (els.map (·.1)))
      let t1 : Tile := if last then Tile.seal { fmt := 0, vrows := 16, vcols := 32 } pay else { t with pay := pay }
      s1.setCore k ((s1.core k).setSlot slot t1)
    else s1
  let r := if a.second then s1.useUp k c 0 else (s1, c)
  let c1 := { r.2 with out := n + 1 }
  if last then (r.1.setCore k (r.1.core k).dropGroup).finish 3 k i c1 else r.1.setCmd 3 k i c1

/-- The scales of some indices read: the entries, or the stop that the first read without an answer makes (R111, R303,
R323). -/
def State.withScales (s : State) (k : Nat) (c : Cmd) (ix : List Nat) (f : State → List Nat → State) : State :=
  let s1 := ix.foldl (fun (s : State) i => if i = 0 then s else s.seen (cacheOf 3 k) 0 (s.job.scaleVa + i * 4) 4) s
  match s.readScales ix with
  | .ok l => f s1 l
  | .poison => s1.escalate 3 k 0 3 false (Record.serial c.r)
  | .fault x y z => s1.pageFault 3 k x y z (Record.serial c.r)

/-- One piece of a DRAIN's work: the scales are read once the group is there (R111), then one output tile follows
another, each with its second-stream tile and with a credit of its destination. -/
def State.drainStep (s : State) (k i : Nat) (c : Cmd) : State :=
  match (s.core k).handed with
  | [] => s
  | g :: _ =>
    let a := DrainArg.of c.r
    let d := Record.desc c.r 2
    if c.scales.isEmpty then
      let sc := if d.tid = 0 then 0 else Entry.scale (s.entry d.tid)
      s.withScales k c [g.scaleA, g.scaleB, sc] fun s l => s.setCmd 3 k i { c with scales := l }
    else if !s.canPut k d then s.starved 3 k i c
    else if a.second then
      s.withTile 3 k i c 0 c.out fun s c t =>
        if c.scales.length = 3 then
          s.withScales k c [t.head.scale] fun s l => s.setCmd 3 k i { c with scales := c.scales ++ l }
        else s.drainOut k i c g (some t)
    else s.drainOut k i c g none

/-- DRAIN (R156): begins, reads its scales, or writes one output tile. -/
def execDrain (k : CoreIx) (s : State) : Host.Outcome State Fault Refusal :=
  .next (s.runStation 3 k.val 1 fun s i c => s.drainStep k.val i c)

/-- DISCARD (R150): the oldest handed-over group's tally credits return, and the record is complete. -/
def execDiscard (k : CoreIx) (s : State) : Host.Outcome State Fault Refusal :=
  .next <|
    s.runStation 3 k.val 2 fun s i c =>
      match (s.core k.val).handed with
      | [] => s
      | g :: _ => (s.setCore k.val ((s.core k.val).giveTally g.tiles).dropGroup).finish 3 k.val i c

end Sys2Proof.Machine
end

