-- ==== Sys2Proof/Machine/Vect.lean ====
section
/-! DEFINITION. The VECT station: RUN, RADD, nap and wake (R176 to R182, R190 to R196, R611, R612). -/

namespace Sys2Proof.Machine

/-! ## Nap and wake (R190, R191, R198) -/

def State.napped (s : State) (k : Nat) : Bool := s.flag (Reg.vectStat k) 30

/-- What RUN adds at its begin: the kernel tile is checked as a tile from another station, and the registers, VL and the
vector type are cleared (R179, R180). -/
def State.startRun (s : State) (k : Nat) (c : Cmd) : State :=
  let t := (s.core k).slot (Record.argBits c.r 26 6)
  match checkTile t { tid := 0 } 256 (fun _ => none) false with
  | .bad kind tid _ => s.escalate 4 k tid kind false (Record.serial c.r)
  | _ =>
    s.setCore k { s.core k with
      vreg := 0, x := [], vl := 0, et := 0, lg := 0
      kern := some { step := 0, pc := Record.argBits c.r 16 10, w0 := { hdr := 0, pay := 0 }, w1 := { hdr := 0, pay := 0 },
                     wo := 0, scale := 0, wver := 0, running := false } }

/-- A VECT record begins: it is the first of its queue, since the one before it has committed (R176). -/
def State.vectBegin (s : State) (k : Nat) (c : Cmd) : State :=
  let s1 := s.beginCmd 4 k 0 c
  match s1.active 4 k with
  | some (0, c1) => if c1.begun && Record.opcode c1.r == 1 then s1.startRun k c1 else s1
  | _ => s1

/-- A VECT record whose waits hold begins, or wakes a napping unit first (R191). -/
def State.vectWake (s : State) (k : Nat) (c : Cmd) : State :=
  if s.napped k then
    if s.flag (Reg.vectStat k) 29 || !s.mayBegin 4 k c.r then s
    else (s.setBit (Reg.vectStat k) 29).setCmd 4 k 0 { c with woke := true }
  else s.vectBegin k c

/-- As `runStation`, with VECT's own begin. -/
def State.runVect (s : State) (k op : Nat) (work : State → Cmd → State) : State :=
  match s.active 4 k with
  | some (0, c) =>
    if !s.stRuns 4 k || Record.opcode c.r != op then s
    else if !c.begun then s.vectWake k c
    else work s c
  | _ => s

/-- WAKE_END (R191): the wake completes, and the waiting record begins. A wake that the Bell finds in progress ends after the
resume (DESIGN CHOICE, assumption 70). -/
def execWakeEnd (k : CoreIx) (s : State) : Host.Outcome State Fault Refusal :=
  .next <|
    if s.flag (Reg.vectStat k.val) 29 && !s.handStopped (k.val / 17) then
      let s1 := ((s.clearBit (Reg.vectStat k.val) 29).clearBit (Reg.vectStat k.val) 30).add32 (Reg.wakes k.val) 1
      match s1.active 4 k.val with
      | some (0, c) => if s1.stRuns 4 k.val && !c.begun then s1.vectBegin k.val c else s1
      | _ => s1
    else s

/-- n scalar registers with free values. -/
def freeRegs (base : Nat) : Nat → PMap W32
  | 0 => []
  | n + 1 => freeRegs base n ++ [(n + 1, BitVec.ofNat 32 (Config.freeNat (base + n)))]

/-- NAP (R190 to R192): no VECT command runs, so the unit is powered down; its registers' values are lost, and are free
values from then on; VL and the vector type are 0 (DESIGN CHOICE, assumption 70). The nap is cancelled if the waits of the
next record hold. -/
def execNap (k : CoreIx) (s : State) : Host.Outcome State Fault Refusal :=
  .next <|
    let runs := match s.active 4 k.val with | some (_, c) => c.begun || s.mayBegin 4 k.val c.r | none => false
    if s.flag (Reg.vectCtl k.val) 0 && !s.napped k.val && !runs && !s.handStopped (k.val / 17) then
      let s1 := (s.setBit (Reg.vectStat k.val) 30).setCore k.val
        { s.core k.val with vreg := BitVec.ofNat 16384 s.fresh, x := freeRegs (s.free + 1) 15, vl := 0, et := 0, lg := 0 }
      { s1 with free := s.free + 16 }
    else s

/-! ## RUN (R177 to R181) -/

/-- The step of a RUN starts: its tiles are there, and x1 to x3 are preset (R180). W1 without an operand holds a free
value. -/
def State.startStep (s : State) (k : Nat) (c : Cmd) (n : Kern) (t0 : Tile) (t1 : Option Tile) : State :=
  let last := n.step + 1 == (Record.desc c.r 0).count
  let h := t0.head
  let w1 := t1.getD { hdr := 0, pay := BitVec.ofNat 32768 s.fresh }
  let x := PMap.put (PMap.put (PMap.put (s.core k).x 1 (BitVec.ofNat 32 n.step)) 2 (BitVec.ofNat 32 (h.vrows * h.vcols))) 3
    (BitVec.ofNat 32 (b2n last))
  let n1 := { n with pc := Record.argBits c.r 16 10, w0 := t0, w1 := w1, running := true
                     scale := if n.step = 0 then h.scale else n.scale, wver := if n.step = 0 then h.wver else n.wver }
  (s.setCore k { s.core k with x := x, kern := some n1 }).spend

/-- The command word at a kernel's pc. -/
def kernWord (c : Core) (r : BitVec 512) (pc : Nat) : Nat := payElem (c.slot (Record.argBits r 26 6)).pay 4 pc

/-- An illegal command word stops VECT (R187): ILLEGAL and ILL_WORD are set and the slot and word are reported, as for a
malformed record. A kernel that runs on past word 1,023 stops in the same way, with ILL_WORD 1,023 (DESIGN CHOICE,
assumption 78). -/
def State.illegal (s : State) (k : Nat) (c : Cmd) (pc : Nat) : State :=
  let s1 := ((s.haltStation 4 k).setBit (Reg.vectStat k) 28).setField (Reg.vectStat k) 16 10 (min 1023 pc)
  (s1.note (.illegal k (Record.argBits c.r 26 6) (min 1023 pc))).reeveStop

/-- An OP that R184 does not list. -/
def reservedOp (op : Nat) : Bool :=
  decide (0x33 < op) || (decide (6 ≤ op) && decide (op < 8)) || op == 0x1B || op == 0x1F || (decide (0x25 ≤ op) && decide (op < 0x28)) ||
    (decide (0x2D ≤ op) && decide (op < 0x30)) || op == 0x32

def State.runStep (s : State) (k : Nat) (c : Cmd) : State :=
  match (s.core k).kern with
  | none => s
  | some n =>
    if n.running then
      if 1023 < n.pc || reservedOp (kernWord (s.core k) c.r n.pc >>> 26) then s.illegal k c n.pc else s
    else
      let d1 := Record.desc c.r 1
      s.withTile 4 k 0 c 0 n.step fun s c t0 =>
        if d1.kind = 0 then (s.setCmd 4 k 0 c).startStep k c n t0 none
        else
          s.withTile 4 k 0 c 1 (if bit (Record.arg c.r) 10 then 0 else n.step) fun s c t1 =>
            (s.setCmd 4 k 0 c).startStep k c n t0 (some t1)

/-- RUN (R180): wakes the unit, begins, or starts the next step once its tiles are there; a word at the kernel's pc
whose OP is reserved stops VECT. -/
def execRun (k : CoreIx) (s : State) : Host.Outcome State Fault Refusal :=
  .next (s.runVect k.val 1 fun s c => s.runStep k.val c)

/-- The output tile of a step (R181): validity from the step's OPD0 tile where the shapes agree, else a full tile. -/
def runOutput (r : BitVec 512) (n : Kern) (last : Bool) (ix : Nat) : Tile :=
  let d := Record.desc r 2
  let p := d.pos ix
  let f := Record.argBits r 12 4
  let h0 := n.w0.head
  let h : Head := { tid := d.tid, row := p.1, col := p.2, fmt := f, scale := n.scale, wver := n.wver, last := last }
  let same := fmtRows h0.fmt == fmtRows f && fmtCols h0.fmt == fmtCols f
  let g := if same then h.validAs h0 else h.full
  Tile.seal g (payOf f g.vrows g.vcols (payElem n.wo (fmtSize f)))

/-- A step ends (R181): the output tile is written when it is due, the credits of the step's tiles return, and the
command is complete after its last step. -/
def State.endStep (s : State) (k : Nat) (c : Cmd) (n : Kern) : State :=
  let d := Record.desc c.r 2
  let once := bit (Record.arg c.r) 11
  let bcast := bit (Record.arg c.r) 10
  let last := n.step + 1 == (Record.desc c.r 0).count
  let due := !once || last
  if due && !s.canPut k d then s.starved 4 k 0 c
  else
    let s1 := if due then s.put k d c.out (runOutput c.r n last c.out) else s
    let r0 := s1.useUp k c 0
    let r1 := if (Record.desc c.r 1).kind ≠ 0 ∧ (!bcast ∨ last) then r0.1.useUp k r0.2 1 else r0
    let c1 := { r1.2 with out := if due then c.out + 1 else c.out }
    if last then (r1.1.setCore k { r1.1.core k with kern := none }).finish 4 k 0 c1
    else
      (r1.1.setCore k { r1.1.core k with
        kern := some { n with step := n.step + 1, running := false, wo := if due then 0 else n.wo } }).setCmd 4 k 0 c1

/-! ## RADD (R193 to R195) -/

/-- One FP64 addition that rounds once: encoding and flags. -/
def add64r (a b : Nat) : Nat × Fl :=
  let r := (v64 a).add (v64 b)
  let e := Fmt.fp64.round r.1
  (e.1, r.2 ||| e.2)
/-- One FP64 subtraction that rounds once. -/
def sub64r (a b : Nat) : Nat × Fl := add64r a (b ^^^ 2 ^ 63)

def isSpecial (x : Nat) : Bool := (v64 x).isNan || (v64 x).isInf

/-- An addition of the sequence of R195: the sum, or the infinity of a rounding that overflows. -/
def addO (x y : Nat) : Except Nat Nat := if isSpecial (add64r x y).1 then .error (add64r x y).1 else .ok (add64r x y).1
def subO (x y : Nat) : Except Nat Nat := addO x (y ^^^ 2 ^ 63)

/-- two_sum of R195. -/
def twoSum (x y : Nat) : Except Nat (Nat × Nat) := do
  let s ← addO x y
  let v ← subO s x
  let e ← addO (← subO x (← subO s v)) (← subO y v)
  pure (s, e)
/-- fast_two_sum of R195. -/
def fastTwoSum (x y : Nat) : Except Nat (Nat × Nat) := do
  let s ← addO x y
  let e ← subO y (← subO s x)
  pure (s, e)

/-- The sequence of R195 on finite operands. -/
def ddSeq (ah al bh bl : Nat) : Except Nat (Nat × Nat) := do
  let (s, e) ← twoSum ah bh
  let (t, f) ← twoSum al bl
  let e ← addO e t
  let (s, e) ← fastTwoSum s e
  let e ← addO e f
  fastTwoSum s e

/-- dd_add of R195 on encodings: hi, lo and flags. -/
def ddAdd (ah al bh bl : Nat) : Nat × Nat × Fl :=
  if isSpecial ah || isSpecial al || isSpecial bh || isSpecial bl then
    let r1 := (v64 ah).add (v64 al)
    let r2 := r1.1.add (v64 bh)
    let r3 := r2.1.add (v64 bl)
    (f64 r3.1, 0, r1.2 ||| r2.2 ||| r3.2)
  else
    match ddSeq ah al bh bl with
    | .error i => (i, 0, Fl.ovf)
    | .ok p => (p.1, p.2, 0)

/-- Wide tiles per payload tile of a RADD (R193, R194); DD counts for FP64 payloads only (DEDUCED, assumption 21). -/
def raddW (r : BitVec 512) : Nat :=
  if Record.argBits r 26 4 = 0 then (if bit (Record.arg r) 31 then 2 else 1) else wideCount (Record.argBits r 26 4)
def raddDd (r : BitVec 512) : Bool := bit (Record.arg r) 31 && Record.argBits r 26 4 == 0
/-- Payload tiles of a RADD. -/
def raddT (r : BitVec 512) : Nat := if bit (Record.arg r) 30 then (Record.desc r 2).count else (Record.desc r 2).count / raddW r

/-- Element e of the local partial, as hi and lo FP64 encodings: from its payload tile, widened exactly, or from its
wide tiles. -/
def localElem (r : BitVec 512) (tiles : List Tile) (e : Nat) : Nat × Nat :=
  let f := Record.argBits r 26 4
  let z : Tile := { hdr := 0, pay := 0 }
  if raddWide r 1 then
    if raddDd r then (payElem (tiles.getD 0 z).pay 8 e, payElem (tiles.getD 1 z).pay 8 e)
    else (payElem (tiles.getD (e / 512) z).pay 8 (e % 512), 0)
  else (f64 (decodeFmt f (payElem (tiles.getD 0 z).pay (fmtSize f) e)), 0)

/-- Element e of the arriving partial. -/
def arrivingElem (r : BitVec 512) (tiles : List Tile) (e : Nat) : Nat × Nat :=
  let z : Tile := { hdr := 0, pay := 0 }
  if raddDd r then (payElem (tiles.getD 0 z).pay 8 e, payElem (tiles.getD 1 z).pay 8 e)
  else (payElem (tiles.getD (e / 512) z).pay 8 (e % 512), 0)

/-- The sum of an element without FINAL: hi, lo, flags. -/
def raddElem (dd : Bool) (arr : Option (Nat × Nat)) (loc : Nat × Nat) : Nat × Nat × Fl :=
  match arr with
  | none => (loc.1, loc.2, 0)
  | some a =>
    if dd then ddAdd a.1 a.2 loc.1 loc.2
    else let x := add64r a.1 loc.1; (x.1, 0, x.2)

/-- The sum of an element with FINAL: the exact sum rounded once into the payload format. -/
def raddFinal (f : Nat) (dd : Bool) (arr : Option (Nat × Nat)) (loc : Nat × Nat) : Nat × Fl :=
  let l := (v64 loc.1, if dd then v64 loc.2 else Val.negZero)
  let x1 := if dd then l.1.add l.2 else (l.1, 0)
  let x3 : Val × Fl :=
    match arr with
    | none => x1
    | some a =>
      let y := x1.1.add (v64 a.1)
      if dd then let z := y.1.add (v64 a.2); (z.1, x1.2 ||| y.2 ||| z.2) else (y.1, x1.2 ||| y.2)
  let e := roundFmt f x3.1
  (e.1, x3.2 ||| e.2)

/-- The header of wide output tile n (R611). -/
def wideHead (r : BitVec 512) (loc : Head) (n : Nat) : Head :=
  let d := Record.desc r 2
  let p := d.pos n
  { tid := d.tid, row := p.1, col := p.2, fmt := 0, scale := loc.scale, wver := loc.wver, last := n + 1 == d.count,
    vrows := 16, vcols := 32 }

/-- The output tiles of payload position t, and the flags (R195, R611, R612). -/
def raddOut (r : BitVec 512) (t : Nat) (first : Head) (arr : Option (List Tile)) (loc : List Tile) : List Tile × Fl :=
  let f := Record.argBits r 26 4
  let w := raddW r
  let dd := raddDd r
  let m := 4096 / fmtSize f
  let arrE := fun (e : Nat) => arr.map fun ts => arrivingElem r ts e
  let sig : Fl :=
    if raddWide r 1 then 0
    else (payElems (fmtSize f) (loc.getD 0 { hdr := 0, pay := 0 }).pay).foldl (fun a x => a ||| (decodeFmt f x).sigFlag) 0
  if bit (Record.arg r) 30 then
    let d := Record.desc r 2
    let p := d.pos t
    let lh := (loc.getD 0 { hdr := 0, pay := 0 }).head
    let els := (upTo m).map fun e => raddFinal f dd (arrE e) (localElem r loc e)
    let h : Head :=
      { tid := d.tid, row := p.1, col := p.2, fmt := f, scale := first.scale, wver := first.wver, last := t + 1 == d.count }
    let g := if raddWide r 1 then h.full else h.validAs lh
    ([Tile.seal g (payOf f g.vrows g.vcols fun n => (els.getD n (0, 0)).1)], els.foldl (fun a e => a ||| e.2) sig)
  else
    let els := (upTo m).map fun e => raddElem dd (arrE e) (localElem r loc e)
    let fl := els.foldl (fun a e => a ||| e.2.2) sig
    let tile := fun (j : Nat) (l : List Nat) =>
      Tile.seal (wideHead r first (w * t + j)) (BitVec.ofNat 32768 (packElems 8 l))
    if dd then ([tile 0 (els.map (·.1)), tile 1 (els.map (·.2.1))], fl)
    else ((upTo w).map fun j => tile j (((els.drop (512 * j)).take 512).map (·.1)), fl)

/-- Output tiles written one after another. -/
def State.putAll (s : State) (u : Nat) (d : Desc) (n : Nat) : List Tile → State
  | [] => s
  | t :: ts => (s.put u d n t).putAll u d (n + 1) ts

/-- The destination has room for n tiles. -/
def State.canPutN (s : State) (u : Nat) (d : Desc) (n : Nat) : Bool :=
  if d.kind = 2 then decide (n ≤ ((s.core u).port d.port).credits) else true

/-- One piece of a RADD's work: a tile of a partial arrives, or a payload position is added. c.steps counts positions. -/
def State.raddStep (s : State) (k : Nat) (c : Cmd) : State :=
  let r := c.r
  let w := raddW r
  let t := c.steps.length
  let has0 := (Record.desc r 0).kind ≠ 0
  let n0 := w * (t + 1)
  let n1 := if raddWide r 1 then w * (t + 1) else t + 1
  let take := fun (o : Nat) =>
    match s.arriveTile 4 k 0 c o false with
    | .wait => s
    | .asked s1 => s1
    | .stop s1 => s1
    | .ok s1 c1 => s1.setCmd 4 k 0 c1
  if has0 ∧ c.a.got < n0 then take 0
  else if c.b.got < n1 then take 1
  else
    let d := Record.desc r 2
    let nout := if bit (Record.arg r) 30 then 1 else w
    if !s.canPutN k d nout then s.starved 4 k 0 c
    else
      let arr := if has0 then some ((upTo w).map fun j => s.heldTile k c 0 (w * t + j)) else none
      let n1w := if raddWide r 1 then w else 1
      let loc := (upTo n1w).map fun j => s.heldTile k c 1 (n1w * t + j)
      let first := match c.b.first with | none => ({} : Head) | some h => Head.ofBits h
      let o := raddOut r t first arr loc
      let s1 := (s.putAll k d c.out o.1).flags (Reg.vectStat k) o.2
      let ra := if has0 then s1.useUpN k c 0 w else (s1, c)
      let rb := ra.1.useUpN k ra.2 1 n1w
      let c1 := { rb.2 with out := c.out + nout, steps := t :: c.steps }
      if t + 1 = raddT r then rb.1.finish 4 k 0 c1 else rb.1.setCmd 4 k 0 c1

/-- RADD (R195): wakes the unit, begins, takes one tile of a partial, or adds one payload position. -/
def execRadd (k : CoreIx) (s : State) : Host.Outcome State Fault Refusal :=
  .next (s.runVect k.val 2 fun s c => s.raddStep k.val c)

end Sys2Proof.Machine
end

