-- ==== Sys2Proof/Machine/Kernel.lean ====
section
/-! DEFINITION. The words of a kernel, one row per OP (R172 to R175, R183 to R189). -/

namespace Sys2Proof.Machine

/-- The fields of a kernel word, of both layouts (R183). -/
structure KWord where
  op : Nat
  vd : Nat
  va : Nat
  vb : Nat
  m : Bool
  rm : Bool
  p : Bool
  et2 : Nat
  w : Nat
  imm : Int
  deriving DecidableEq, Repr

def KWord.of (x : Nat) : KWord :=
  { op := bits x 26 6, vd := bits x 21 5, va := bits x 16 5, vb := bits x 11 5, m := bit x 10, rm := bit x 9, p := bit x 8
    et2 := bits x 5 3, w := bits x 3 2
    imm := if bits x 0 16 < 32768 then (bits x 0 16 : Int) else (bits x 0 16 : Int) - 65536 }

/-- Element width in bits of an element type (R173). -/
def sew (et : Nat) : Nat :=
  match et with
  | 0 => 64
  | 1 => 32
  | 2 => 16
  | 3 => 16
  | 4 => 8
  | 5 => 16
  | _ => 32

/-- Floating-point element type. -/
def etFp (et : Nat) : Bool := decide (et ≤ 3)
/-- The value of an element; the floating-point types have the format codes 0 to 3. -/
def etVal (et w : Nat) : Val := if etFp et then decodeFmt et w else decodeInt (sew et) w
/-- Rounding into an element type (R102, R104, R185). -/
def etRound (et : Nat) (v : Val) : Nat × Fl := if etFp et then roundFmt et v else roundInt (sew et) v
/-- Integer value of an element. -/
def etInt (et w : Nat) : Int :=
  let n := sew et
  let x := w % 2 ^ n
  if x < 2 ^ (n - 1) then (x : Int) else (x : Int) - 2 ^ n
/-- Encoding of an integer modulo 2^SEW. -/
def wrapInt (n : Nat) (i : Int) : Nat := (i % (2 ^ n : Int)).toNat
/-- Saturation to a type's range, with SAT (R188). -/
def satInt (n : Nat) (i : Int) : Nat × Fl :=
  if i < -(2 ^ (n - 1) : Int) then (2 ^ (n - 1), Fl.sat)
  else if (2 ^ (n - 1) : Int) ≤ i then (2 ^ (n - 1) - 1, Fl.sat)
  else (wrapInt n i, 0)

/-- Group size (R173). -/
def Core.g (c : Core) : Nat := 2 ^ c.lg
/-- A register group stands at a multiple of its size and ends at or below v31 (R173). -/
def grpOk (r g : Nat) : Bool := r % g == 0 && decide (r + g ≤ 32)
/-- Element i of a group. -/
def vget (v : Nat) (n r i : Nat) : Nat := bits v (512 * r + i * n) n
def vput (v : Nat) (n r i x : Nat) : Nat := setBits v (512 * r + i * n) n x
/-- Element i is active: unmasked, or its bit of v0 is 1 (R172, R175). -/
def active1 (v : Nat) (m : Bool) (i : Nat) : Bool := !m || v.testBit i
/-- Scalar register n; x0 reads 0 (R172). -/
def Core.xr (c : Core) (n : Nat) : Nat := if n = 0 then 0 else (PMap.get 0 c.x n).toNat
def Core.setX (c : Core) (n v : Nat) : Core := if n = 0 then c else { c with x := PMap.put c.x n (BitVec.ofNat 32 v) }

/-- A row's OP stands at the pc of a running kernel: `body` gives the core after it, flags and element operations, or
none where the word is illegal (R185, R187). The pc moves on as `body` left it. -/
def State.kernRow (s : State) (k op : Nat) (body : Core → Kern → KWord → Option (Core × Fl × Nat)) : State :=
  s.runVect k 1 fun s c =>
    match (s.core k).kern with
    | none => s
    | some n =>
      let w := KWord.of (kernWord (s.core k) c.r n.pc)
      if n.running && decide (n.pc ≤ 1023) && w.op == op then
        match body (s.core k) n w with
        | none => s.illegal k c n.pc
        | some r => ((s.setCore k r.1).flags (Reg.vectStat k) r.2.1).add64 (Reg.vops k) r.2.2
      else s

/-- The kernel goes on at the next word. -/
def Core.next (c : Core) (n : Kern) : Core := { c with kern := some { n with pc := n.pc + 1 } }

/-- VEND (R181): the step ends. -/
def execVend (k : CoreIx) (s : State) : Host.Outcome State Fault Refusal :=
  .next <|
    s.runVect k.val 1 fun s c =>
      match (s.core k.val).kern with
      | none => s
      | some n =>
        if n.running && decide (n.pc ≤ 1023) && (KWord.of (kernWord (s.core k.val) c.r n.pc)).op == 0 then s.endStep k.val c n
        else s

/-! ## Scalar words (R174, R184) -/

/-- SETL (R174): the vector type, and the granted length to VL and xd. -/
def execSetl (k : CoreIx) (s : State) : Host.Outcome State Fault Refusal :=
  .next <|
    s.kernRow k.val 1 fun c n w =>
      let et := (w.imm % 8).toNat
      let lg := ((w.imm / 16) % 4).toNat
      if 15 < w.vd ∨ 15 < w.va ∨ et = 7 then none
      else
        let vl := min (c.xr w.va) (512 * 2 ^ lg / sew et)
        some ((({ c with vl := vl, et := et, lg := lg }).setX w.vd vl).next n, 0, 0)

/-- SADDI (R184): xd := xa + IMM. -/
def execSaddi (k : CoreIx) (s : State) : Host.Outcome State Fault Refusal :=
  .next <|
    s.kernRow k.val 2 fun c n w =>
      if 15 < w.vd ∨ 15 < w.va then none
      else some ((c.setX w.vd (wrapInt 32 ((c.xr w.va : Int) + w.imm))).next n, 0, 0)

/-- SADD (R184): xd := xa + x[IMM[4:0]]. -/
def execSadd (k : CoreIx) (s : State) : Host.Outcome State Fault Refusal :=
  .next <|
    s.kernRow k.val 3 fun c n w =>
      let b := (w.imm % 32).toNat
      if 15 < w.vd ∨ 15 < w.va ∨ 15 < b then none
      else some ((c.setX w.vd (c.xr w.va + c.xr b)).next n, 0, 0)

/-- SSUB (R184): xd := xa - x[IMM[4:0]]. -/
def execSsub (k : CoreIx) (s : State) : Host.Outcome State Fault Refusal :=
  .next <|
    s.kernRow k.val 4 fun c n w =>
      let b := (w.imm % 32).toNat
      if 15 < w.vd ∨ 15 < w.va ∨ 15 < b then none
      else some ((c.setX w.vd (wrapInt 32 ((c.xr w.va : Int) - (c.xr b : Int)))).next n, 0, 0)

/-- SBNZ (R184): if xa is not 0, the kernel goes on at this word + IMM. -/
def execSbnz (k : CoreIx) (s : State) : Host.Outcome State Fault Refusal :=
  .next <|
    s.kernRow k.val 5 fun c n w =>
      let t := (n.pc : Int) + w.imm
      if 15 < w.va ∨ t < 0 ∨ 1023 < t then none
      else if c.xr w.va ≠ 0 then some ({ c with kern := some { n with pc := t.toNat } }, 0, 0)
      else some (c.next n, 0, 0)

/-! ## Loads and stores (R186) -/

/-- The payload of a window (R186). -/
def Kern.window (n : Kern) (kt : Tile) (w : Nat) : BitVec 32768 :=
  match w with
  | 0 => n.w0.pay
  | 1 => n.w1.pay
  | 2 => n.wo
  | _ => kt.pay

/-- An element at a byte offset of a window; offsets wrap modulo 4,096. -/
def winElem (p : Nat) (bytes off : Nat) : Nat := bits p (8 * (off % 4096)) (8 * bytes)

/-- The cases of R187 for an access of f fields at the scalar offset register. -/
def accessOk (c : Core) (w : KWord) (f : Nat) (store : Bool) : Bool :=
  decide (w.va ≤ 15) && grpOk w.vd c.g && decide (w.vd + f * c.g ≤ 32) && (!store || w.w == 2) &&
    (store || !(w.m && w.vd == 0)) && c.xr w.va % (sew c.et / 8) == 0

/-- The offset register after an access that moved `bytes` (R175, R183). -/
def Core.bump (c : Core) (w : KWord) (bytes : Nat) : Core := if w.p then c.setX w.va (c.xr w.va + bytes) else c

/-- VLD of f fields: field j of structure i goes to element i of group VD + j * g. -/
def loadFields (kt : Tile) (f : Nat) (c : Core) (n : Kern) (w : KWord) : Option (Core × Fl × Nat) :=
  if accessOk c w f false then
    let e := sew c.et
    let b := e / 8
    let win := (n.window kt w.w).toNat
    let off := c.xr w.va
    let v0 := c.vreg.toNat
    let v := (upTo (f * c.vl)).foldl (fun v x =>
      let i := x / f
      let j := x % f
      if active1 v0 w.m i then vput v e (w.vd + j * c.g) i (winElem win b (off + x * b)) else v) v0
    some ((({ c with vreg := BitVec.ofNat 16384 v }).bump w (f * c.vl * b)).next n, 0, 0)
  else none

/-- VST of f fields into the output window; a masked-off element's bytes stay unwritten (R175). -/
def storeFields (f : Nat) (c : Core) (n : Kern) (w : KWord) : Option (Core × Fl × Nat) :=
  if accessOk c w f true then
    let e := sew c.et
    let b := e / 8
    let off := c.xr w.va
    let v0 := c.vreg.toNat
    let wo := (upTo (f * c.vl)).foldl (fun p x =>
      let i := x / f
      let j := x % f
      if active1 v0 w.m i then setBits p (8 * ((off + x * b) % 4096)) e (vget v0 e (w.vd + j * c.g) i) else p) n.wo.toNat
    some ((c.bump w (f * c.vl * b)).next { n with wo := BitVec.ofNat 32768 wo }, 0, 0)
  else none

/-- The tile of the kernel that the active record names. -/
def State.kernTile (s : State) (k : Nat) : Tile :=
  match s.active 4 k with
  | some (_, c) => (s.core k).slot (Record.argBits c.r 26 6)
  | none => { hdr := 0, pay := 0 }

/-- VLD (R186). -/
def execVld (k : CoreIx) (s : State) : Host.Outcome State Fault Refusal :=
  .next (s.kernRow k.val 8 (loadFields (s.kernTile k.val) 1))
/-- VLD2 (R186). -/
def execVld2 (k : CoreIx) (s : State) : Host.Outcome State Fault Refusal :=
  .next (s.kernRow k.val 9 (loadFields (s.kernTile k.val) 2))
/-- VLD3 (R186). -/
def execVld3 (k : CoreIx) (s : State) : Host.Outcome State Fault Refusal :=
  .next (s.kernRow k.val 10 (loadFields (s.kernTile k.val) 3))
/-- VLD4 (R186). -/
def execVld4 (k : CoreIx) (s : State) : Host.Outcome State Fault Refusal :=
  .next (s.kernRow k.val 11 (loadFields (s.kernTile k.val) 4))
/-- VST (R186). -/
def execVst (k : CoreIx) (s : State) : Host.Outcome State Fault Refusal := .next (s.kernRow k.val 12 (storeFields 1))
/-- VST2 (R186). -/
def execVst2 (k : CoreIx) (s : State) : Host.Outcome State Fault Refusal := .next (s.kernRow k.val 13 (storeFields 2))
/-- VST3 (R186). -/
def execVst3 (k : CoreIx) (s : State) : Host.Outcome State Fault Refusal := .next (s.kernRow k.val 14 (storeFields 3))
/-- VST4 (R186). -/
def execVst4 (k : CoreIx) (s : State) : Host.Outcome State Fault Refusal := .next (s.kernRow k.val 15 (storeFields 4))

/-- VLDB (R184): one element to all VL elements; it moves the bytes of one element. -/
def execVldb (k : CoreIx) (s : State) : Host.Outcome State Fault Refusal :=
  .next <|
    s.kernRow k.val 0x33 fun c n w =>
      if accessOk c w 1 false then
        if c.vl = 0 then some (c.next n, 0, 0)
        else
          let e := sew c.et
          let v0 := c.vreg.toNat
          let x := winElem (n.window (s.kernTile k.val) w.w).toNat (e / 8) (c.xr w.va)
          let v := (upTo c.vl).foldl (fun v i => if active1 v0 w.m i then vput v e w.vd i x else v) v0
          some ((({ c with vreg := BitVec.ofNat 16384 v }).bump w (e / 8)).next n, 0, 0)
      else none

/-! ## Arithmetic (R184, R185, R188, R189) -/

/-- What an elementwise word computes from the elements of va, vb and vd, given ET, RM. -/
abbrev ElemOp := Nat → Bool → Nat → Nat → Nat → Nat × Fl

/-- The element types an OP takes. -/
inductive EtRule where
  | any | fp | int | q
  deriving DecidableEq, Repr

def EtRule.ok (r : EtRule) (et : Nat) : Bool :=
  match r with
  | .any => true
  | .fp => etFp et
  | .int => !etFp et
  | .q => et == 5 || et == 6

/-- An elementwise word: `unary` words do not use vb; `cost` is the operations that an element counts (R562). -/
def vecElem (rule : EtRule) (unary : Bool) (cost : Nat) (el : ElemOp) (c : Core) (n : Kern) (w : KWord) : Option (Core × Fl × Nat) :=
  let e := sew c.et
  if rule.ok c.et && grpOk w.vd c.g && grpOk w.va c.g && (unary || grpOk w.vb c.g) && !(w.m && w.vd == 0) then
    let v0 := c.vreg.toNat
    let act := (upTo c.vl).filter (active1 v0 w.m)
    let r := act.foldl (fun (a : Nat × Fl) i =>
      let x := el c.et w.rm (vget v0 e w.va i) (vget v0 e w.vb i) (vget v0 e w.vd i)
      (vput a.1 e w.vd i x.1, a.2 ||| x.2)) (v0, 0)
    some (({ c with vreg := BitVec.ofNat 16384 r.1 }).next n, r.2, cost * act.length)
  else none

/-- A floating-point operation rounded once, or an integer operation that wraps. -/
def arith (fp : Val → Val → Val → Val × Fl) (int : Int → Int → Int → Int) : ElemOp := fun et _ x y z =>
  if etFp et then
    let r := fp (etVal et x) (etVal et y) (etVal et z)
    let o := etRound et r.1
    (o.1, r.2 ||| o.2)
  else (wrapInt (sew et) (int (etInt et x) (etInt et y) (etInt et z)), 0)

/-- A bitwise operation. -/
def bitwise (f : Nat → Nat → Nat) : ElemOp := fun et _ x y _ => (f x y % 2 ^ sew et, 0)

/-- A division by 2^F rounded under RM: half up, or to nearest with ties to even (R189). -/
def qRound (rm : Bool) (f : Nat) (p : Int) : Int :=
  if f = 0 then p
  else if !rm then (p + 2 ^ (f - 1)) / (2 ^ f : Int)
  else
    let q := p / (2 ^ f : Int)
    let r := p - q * 2 ^ f
    if 2 * r < 2 ^ f then q else if (2 ^ f : Int) < 2 * r then q + 1 else if q % 2 = 0 then q else q + 1

/-- VADD (R184). -/
def execVadd (k : CoreIx) (s : State) : Host.Outcome State Fault Refusal :=
  .next (s.kernRow k.val 0x10 (vecElem .any false 1 (arith (fun a b _ => a.add b) fun a b _ => a + b)))
/-- VSUB (R184). -/
def execVsub (k : CoreIx) (s : State) : Host.Outcome State Fault Refusal :=
  .next (s.kernRow k.val 0x11 (vecElem .any false 1 (arith (fun a b _ => a.sub b) fun a b _ => a - b)))
/-- VMUL (R184). -/
def execVmul (k : CoreIx) (s : State) : Host.Outcome State Fault Refusal :=
  .next (s.kernRow k.val 0x12 (vecElem .any false 1 (arith (fun a b _ => a.mul b) fun a b _ => a * b)))
/-- VFMA (R184). -/
def execVfma (k : CoreIx) (s : State) : Host.Outcome State Fault Refusal :=
  .next (s.kernRow k.val 0x13 (vecElem .any false 2 (arith (fun a b c => a.fma b c) fun a b c => a * b + c)))
/-- VFMS (R184). -/
def execVfms (k : CoreIx) (s : State) : Host.Outcome State Fault Refusal :=
  .next (s.kernRow k.val 0x14 (vecElem .any false 2 (arith (fun a b c => a.neg.fma b c) fun a b c => c - a * b)))
/-- VMIN (R184). -/
def execVmin (k : CoreIx) (s : State) : Host.Outcome State Fault Refusal :=
  .next (s.kernRow k.val 0x15 (vecElem .any false 1 (arith (fun a b _ => minMax false a b) fun a b _ => min a b)))
/-- VMAX (R184). -/
def execVmax (k : CoreIx) (s : State) : Host.Outcome State Fault Refusal :=
  .next (s.kernRow k.val 0x16 (vecElem .any false 1 (arith (fun a b _ => minMax true a b) fun a b _ => max a b)))
/-- VDIV (R184, R185). -/
def execVdiv (k : CoreIx) (s : State) : Host.Outcome State Fault Refusal :=
  .next (s.kernRow k.val 0x17 (vecElem .fp false 1 (arith (fun a b _ => a.div b) fun a _ _ => a)))
/-- VSQRT (R184, R185). -/
def execVsqrt (k : CoreIx) (s : State) : Host.Outcome State Fault Refusal :=
  .next (s.kernRow k.val 0x18 (vecElem .fp true 1 (arith (fun a _ _ => a.sqrt) fun a _ _ => a)))
/-- VABS (R184). -/
def execVabs (k : CoreIx) (s : State) : Host.Outcome State Fault Refusal :=
  .next (s.kernRow k.val 0x19 (vecElem .any true 1 (arith (fun a _ _ => (a.abs, a.sigFlag)) fun a _ _ => (a.natAbs : Int))))
/-- VNEG (R184). -/
def execVneg (k : CoreIx) (s : State) : Host.Outcome State Fault Refusal :=
  .next (s.kernRow k.val 0x1A (vecElem .any true 1 (arith (fun a _ _ => (a.neg, a.sigFlag)) fun a _ _ => -a)))
/-- VAND (R184). -/
def execVand (k : CoreIx) (s : State) : Host.Outcome State Fault Refusal :=
  .next (s.kernRow k.val 0x20 (vecElem .int false 1 (bitwise (· &&& ·))))
/-- VOR (R184). -/
def execVor (k : CoreIx) (s : State) : Host.Outcome State Fault Refusal :=
  .next (s.kernRow k.val 0x21 (vecElem .int false 1 (bitwise (· ||| ·))))
/-- VXOR (R184). -/
def execVxor (k : CoreIx) (s : State) : Host.Outcome State Fault Refusal :=
  .next (s.kernRow k.val 0x22 (vecElem .int false 1 (bitwise (· ^^^ ·))))
/-- VSHL (R184): by vb mod SEW. -/
def execVshl (k : CoreIx) (s : State) : Host.Outcome State Fault Refusal :=
  .next (s.kernRow k.val 0x23 (vecElem .int false 1 fun et _ x y _ => ((x <<< (y % sew et)) % 2 ^ sew et, 0)))
/-- VSHR (R184): arithmetic, by vb mod SEW. -/
def execVshr (k : CoreIx) (s : State) : Host.Outcome State Fault Refusal :=
  .next (s.kernRow k.val 0x24 (vecElem .int false 1 fun et _ x y _ =>
    (wrapInt (sew et) (etInt et x / (2 ^ (y % sew et) : Int)), 0)))
/-- VQADD (R188). -/
def execVqadd (k : CoreIx) (s : State) : Host.Outcome State Fault Refusal :=
  .next (s.kernRow k.val 0x28 (vecElem .int false 1 fun et _ x y _ => satInt (sew et) (etInt et x + etInt et y)))
/-- VQSUB (R188). -/
def execVqsub (k : CoreIx) (s : State) : Host.Outcome State Fault Refusal :=
  .next (s.kernRow k.val 0x29 (vecElem .int false 1 fun et _ x y _ => satInt (sew et) (etInt et x - etInt et y)))
/-- VQMUL (R189). -/
def execVqmul (k : CoreIx) (s : State) : Host.Outcome State Fault Refusal :=
  .next (s.kernRow k.val 0x2A (vecElem .q false 1 fun et rm x y _ =>
    satInt (sew et) (qRound rm (sew et - 1) (etInt et x * etInt et y))))
/-- VQMAC (R189): the product is rounded first, then added, then the sum saturates. -/
def execVqmac (k : CoreIx) (s : State) : Host.Outcome State Fault Refusal :=
  .next (s.kernRow k.val 0x2B (vecElem .q false 2 fun et rm x y z =>
    satInt (sew et) (etInt et z + qRound rm (sew et - 1) (etInt et x * etInt et y))))

/-! ## Conversions, compares, sums -/

/-- A word whose destination has the type ET2: the destination group's size follows the widths (R184). -/
def vecConv (rule : EtRule) (intOnly : Bool) (el : KWord → Nat → Nat → Nat × Fl) (c : Core) (n : Kern) (w : KWord) :
    Option (Core × Fl × Nat) :=
  let e := sew c.et
  let e2 := sew w.et2
  let dg := max 1 (c.g * e2 / e)
  if w.et2 != 7 && rule.ok c.et && !(intOnly && etFp w.et2) && decide (dg ≤ 8) && grpOk w.vd dg && grpOk w.va c.g &&
      !(w.m && w.vd == 0) then
    let v0 := c.vreg.toNat
    let act := (upTo c.vl).filter (active1 v0 w.m)
    let r := act.foldl (fun (a : Nat × Fl) i =>
      let x := el w c.et (vget v0 e w.va i)
      (vput a.1 e2 w.vd i x.1, a.2 ||| x.2)) (v0, 0)
    some (({ c with vreg := BitVec.ofNat 16384 r.1 }).next n, r.2, act.length)
  else none

/-- VCVT (R185). -/
def execVcvt (k : CoreIx) (s : State) : Host.Outcome State Fault Refusal :=
  .next (s.kernRow k.val 0x30 (vecConv .any false fun w et x => etRound w.et2 (etVal et x)))
/-- VQCVT (R188): a right shift by VB, rounded under RM, saturated to ET2. -/
def execVqcvt (k : CoreIx) (s : State) : Host.Outcome State Fault Refusal :=
  .next (s.kernRow k.val 0x2C (vecConv .int true fun w et x => satInt (sew w.et2) (qRound w.rm w.vb (etInt et x))))

/-- A compare into v0 (R175, R184). -/
def vecCmp (rel : Val → Val → Bool) (c : Core) (n : Kern) (w : KWord) : Option (Core × Fl × Nat) :=
  let e := sew c.et
  if grpOk w.va c.g && grpOk w.vb c.g then
    if c.vl = 0 then some (c.next n, 0, 0)
    else
      let v0 := c.vreg.toNat
      let act := (upTo c.vl).filter (active1 v0 w.m)
      let r := act.foldl (fun (a : Nat × Fl) i =>
        let x := etVal c.et (vget v0 e w.va i)
        let y := etVal c.et (vget v0 e w.vb i)
        (if rel x y then a.1 + 2 ^ i else a.1, a.2 ||| x.sigFlag ||| y.sigFlag)) (0, 0)
      some (({ c with vreg := BitVec.ofNat 16384 (setBits v0 0 512 r.1) }).next n, r.2, act.length)
  else none

/-- VCMPEQ (R184). -/
def execVcmpeq (k : CoreIx) (s : State) : Host.Outcome State Fault Refusal := .next (s.kernRow k.val 0x1C (vecCmp Val.eq))
/-- VCMPLT (R184). -/
def execVcmplt (k : CoreIx) (s : State) : Host.Outcome State Fault Refusal := .next (s.kernRow k.val 0x1D (vecCmp Val.lt))
/-- VCMPLE (R184). -/
def execVcmple (k : CoreIx) (s : State) : Host.Outcome State Fault Refusal := .next (s.kernRow k.val 0x1E (vecCmp Val.le))

/-- The running sum of VRSUM: each addition rounds; the first element starts it. -/
def rsumFp (et : Nat) : List Nat → Option Val → Fl → Nat × Fl
  | [], none, f => (0, f)
  | [], some a, f => let r := etRound et a; (r.1, f ||| r.2)
  | x :: xs, none, f => rsumFp et xs (some (etVal et x)) f
  | x :: xs, some a, f =>
    let r := a.add (etVal et x)
    let o := etRound et r.1
    rsumFp et xs (some (etVal et o.1)) (f ||| r.2 ||| o.2)

/-- VRSUM (R184): element 0 of vd := the sum of the active elements in ascending order. -/
def execVrsum (k : CoreIx) (s : State) : Host.Outcome State Fault Refusal :=
  .next <|
    s.kernRow k.val 0x31 fun c n w =>
      let e := sew c.et
      if grpOk w.vd c.g && grpOk w.va c.g && !(w.m && w.vd == 0) then
        if c.vl = 0 then some (c.next n, 0, 0)
        else
          let v0 := c.vreg.toNat
          let act := (upTo c.vl).filter (active1 v0 w.m)
          let xs := act.map (vget v0 e w.va)
          let r := if etFp c.et then rsumFp c.et xs none 0 else (sumL xs % 2 ^ e, 0)
          some (({ c with vreg := BitVec.ofNat 16384 (vput v0 e w.vd 0 r.1) }).next n, r.2, act.length)
      else none

end Sys2Proof.Machine
end

