-- ==== Sys2Proof/Machine/Power.lean ====
section
/-! DEFINITION. Power and the bay: input, governor, temperatures, release, panel (R455, R456, R577 to R595, R601, R606,
R607). -/

namespace Sys2Proof.Machine

/-! ## Input and power loss (R455, R578, R588, R593) -/

/-- POWER_ON (R588): EN is high and the input has been stable; the bulk is precharged, the main switch closes, step 1 begins.
After "safe to remove" the module stays off (R593). -/
def execPowerOn (s : State) : Host.Outcome State Fault Refusal :=
  .next (if s.ctl.en && !s.ctl.mainSwitch && !s.ctl.safe then s.restart else s)

/-- The sequence of R455: the Bell rings and nothing further is written, the constable counts the loss, every rail goes off. -/
def State.powerLoss (s : State) : State :=
  let s1 := s.ring 0 0 0 6
  State.syncMode { s1 with sec := { s1.sec with pwrLoss := if s1.sec.pwrLoss = 0xFFFFFFFF then s1.sec.pwrLoss else s1.sec.pwrLoss + 1 } }.unpowered

/-- POWER_FAIL (R455, R578). -/
def execPowerFail (s : State) : Host.Outcome State Fault Refusal := .next (if s.ctl.mainSwitch then s.powerLoss else s)

/-- OVER_VOLTAGE (R578, R601): the hot-swap switch opens by fault. -/
def execOverVoltage (s : State) : Host.Outcome State Fault Refusal :=
  .next <|
    if s.ctl.mainSwitch then
      let s1 := s.powerLoss
      { s1 with ctl := { s1.ctl with faultN := true } }
    else s

/-- VIN_LOW (R578, R606). -/
def execVinLow (s : State) : Host.Outcome State Fault Refusal := .next (if s.ctl.mainSwitch then s.setBit Reg.pwrEvent 27 else s)

/-- EN_LOW (R456, R593): EN going low removes power, as a power loss; going high again lets the module start from step 1. -/
def execEnLow (high : Bool) (s : State) : Host.Outcome State Fault Refusal :=
  .next <|
    if high then { s with ctl := { s.ctl with en := true } }
    else
      let s1 := if s.ctl.mainSwitch then s.powerLoss else s
      State.syncMode { s1 with ctl := { s1.ctl with en := false, safe := false } }

/-! ## The governor (R582 to R584) -/

/-- The governor runs: a lead reeve exists. -/
def State.governs (s : State) : Bool := !s.ctl.halted && !s.suitsUp.isEmpty
/-- Suits with rails. -/
def State.suitsOn (s : State) : List Nat := suits4.filter fun i => (s.suit i).powered

/-- GOVERNOR_FAST (R582): p is the input power in W over the last 10 us. -/
def execGovernorFast (p : Nat) (s : State) : Host.Outcome State Fault Refusal :=
  .next <|
    if !s.governs ∨ p ≤ s.gov.pLimit + 50 then s
    else
      let low := s.suitsOn.filter fun i => decide (4 < (s.suit i).cap)
      let s1 := low.foldl (fun (s : State) i => s.setSuit i { s.suit i with cap := (s.suit i).cap - 1 }) s
      if low.isEmpty then s1 else s1.setBit Reg.pwrEvent 26

/-- One suit's setting at a tick (R582). The floor is a hand clock of 600 MHz (DEDUCED, assumption 47). -/
def Suit.govern (x : Suit) (a pLimit fMax : Nat) (hot near : Bool) : Suit :=
  let y :=
    if pLimit < a ∨ hot then { x with clock := max (x.clock - 25) 600 }
    else if x.cap < 8 then { x with cap := x.cap + 1 }
    else if a + 20 < pLimit ∧ !near then { x with clock := min (x.clock + 25) fMax }
    else x
  { y with floorTicks := if y.clock ≤ 600 then x.floorTicks + 1 else 0 }

/-- GOVERNOR_TICK (R582): a is the input power in W over the last 1 ms; `hot` the suits at a throttle threshold, `near` those
within 2 degrees of one. -/
def execGovernorTick (a : Nat) (hot near : List Nat) (s : State) : Host.Outcome State Fault Refusal :=
  .next <|
    if !s.governs then s
    else
      s.suitsOn.foldl (fun (s : State) i =>
        let x := s.suit i
        let isHot := x.throttled || hot.contains i
        s.setSuit i { x.govern a s.gov.pLimit s.gov.fMax isHot (near.contains i || isHot) with throttled := hot.contains i }) s

/-- FLOOR (R584, R606): 10 ms, or 100 ticks, at the floor. -/
def execFloor (i : SuitIx) (s : State) : Host.Outcome State Fault Refusal :=
  .next (if 100 ≤ (s.suit i.val).floorTicks then s.setBit Reg.pwrEvent 28 else s)

/-! ## Temperatures (R585, R586) -/

/-- VCORE of a suit in units of 10 uV (R579): 0.65 V at 600 MHz, 0.80 V at 1,200 MHz, linear between them. -/
def Suit.vcore (x : Suit) : Nat := 65000 + (min 1200 x.clock - 600) * 25

/-- THROTTLE (R585): kind 0 logic, 1 HBM3, 2 handle, 3 the Manor's logic. The governor's next tick lowers the suit's clock, every
suit's for a handle or the Manor. -/
def execThrottle (kind : Fin 4) (i : SuitIx) (s : State) : Host.Outcome State Fault Refusal :=
  .next <|
    if !s.ctl.mainSwitch then s
    else
      let l := if 2 ≤ kind.val then s.suitsOn else s.suitsOn.filter (· == i.val)
      (l.foldl (fun (s : State) j => s.setSuit j { s.suit j with throttled := true }) s).setBit Reg.pwrEvent (if kind.val = 2 then 29 else 30)

/-- TRIP (R586): the sequence of R455 for every rail but VAUX, VMANOR and VMIO; the module halts with the Manor powered, so
DDR5, which VMIO feeds, keeps its contents (R579). -/
def execTrip (kind : Fin 2) (i : SuitIx) (s : State) : Host.Outcome State Fault Refusal :=
  .next <|
    if !s.ctl.mainSwitch ∨ s.ctl.halted ∨ (kind = 1 ∧ !(s.suit i.val).powered) then s
    else
      let s1 := s.ring 0 0 0 6
      let s2 := { s1 with sec := { s1.sec with pwrLoss := if s1.sec.pwrLoss = 0xFFFFFFFF then s1.sec.pwrLoss else s1.sec.pwrLoss + 1 } }
      let s3 := suits4.foldl (fun (s : State) j => s.darken j) s2
      let s4 := [0, 1, 2, 3].foldl (fun (s : State) n =>
        if s.flag (Reg.pcieLink n) 31 then ((s.clearBit (Reg.pcieLink n) 31).setField (Reg.pcieLink n) 24 4 0).setField (Reg.pcieLink n) 20 4 15 else s) s3
      let s5 := if s4.job.run then s4.setBit Reg.jobStat 28 else s4
      let s6 := { s5 with job := { ckptSlots := s5.job.ckptSlots, ckptNext := s5.job.ckptNext }, colls := [], net := [], served := [], inbox := []
                          recov := { s5.recov with busy := none, aware := [] }
                          ctl := { s5.ctl with halted := true } }
      (s6.setBit Reg.pwrEvent 31).syncMode

/-! ## Release (R454, R481, R591 to R593) -/

/-- RELEASE_REQUEST (R591, R592): a deal's release goes by R454, start-up ends at its next step boundary, and every other
state turns the rails off at once. Later presses and latch movements are ignored until "safe to remove". -/
def execReleaseRequest (byLatch : Bool) (s : State) : Host.Outcome State Fault Refusal :=
  .next <|
    let s0 := { s with ctl := { s.ctl with latchOpen := s.ctl.latchOpen || byLatch } }
    if !s.ctl.mainSwitch ∨ s.ctl.releaseReq.isSome then s0
    else
      let s1 := (s0.setBit Reg.pwrPanel 31).setField Reg.pwrPanel 30 1 (b2n byLatch)
      let s2 := { s1 with ctl := { s1.ctl with releaseReq := some s.clock } }
      if s.job.run then State.syncMode { s2 with job := { s2.job with ckptArmed := true } }
      else if s.starting then State.syncMode { s2 with ctl := { s2.ctl with endAtBoundary := true } }
      else s2.safeOff

/-- RELEASE_HOLD_RESTART (R593): Release held for 3 s with the latch closed, after "safe to remove". -/
def execReleaseHoldRestart (s : State) : Host.Outcome State Fault Refusal :=
  .next <|
    if s.ctl.safe ∧ s.ctl.en then
      let s1 := { s with ctl := { s.ctl with latchOpen := false } }
      s1.restart
    else s

/-! ## The panel and the power contacts (R594, R595, R601) -/

/-- Colours of the status LED and the suit LEDs. -/
inductive Led where
  | off | blue | amber4 | amber1 | amber | green | green1
  deriving DecidableEq, Repr

/-- The status LED (R594): the first matching row. -/
def State.statusLed (s : State) : Led :=
  if !s.ctl.mainSwitch && !s.ctl.safe then .off
  else if s.ctl.safe then .blue
  else if s.ctl.halted || s.ctl.flashRecovery || s.sec.hold then .amber4
  else if s.ctl.state = 4 ∨ s.ctl.state = 3 then .amber1
  else if s.ctl.state = 0 then .amber
  else if s.job.run then .green
  else .green1

/-- A suit LED (R595). -/
def State.suitLed (s : State) (i : Nat) : Led :=
  if !bit s.part.fused i then .off
  else if s.recov.foldedSuits.contains i || s.recov.outSuits.contains i then .amber
  else if s.recov.aware.contains i || s.bell.cuts.any fun c => c.source == 7 && (c.scope == 0 || c.suit == i) then .amber1
  else .green

/-- PG is released: the main switch is closed (R601). -/
def State.powerGood (s : State) : Bool := s.ctl.mainSwitch

end Sys2Proof.Machine
end

