-- ==== Sys2Proof/Machine/Xchg.lean ====
section
/-! DEFINITION. What a collective moves: reductions, gathers, copies and the Shuffle (R367, R380 to R387, R615). Each
row does one piece of an admitted collective's work. -/

namespace Sys2Proof.Machine

/-- The collective (g, tag) of operation `op`, while its data moves on the bridge path. -/
def State.collAt (s : State) (g : BitVec 8) (tag : BitVec 28) (op : Nat) : Option Coll :=
  match s.findColl g.toNat tag.toNat with
  | none => none
  | some c => if c.admitted && !c.aborted && !c.malformed && !c.vector && CDesc.op c.desc == op then some c else none

/-- A piece of work that belongs to the collective and is not done. -/
def State.collTodo (s : State) (c : Coll) (u : Nat × Nat) : Bool := (s.units c).contains u && !c.doneWork.contains u

/-- The piece is done. -/
def State.collDid (s : State) (c : Coll) (u : Nat × Nat) : State := s.setColl { c with doneWork := u :: c.doneWork }

/-- The COLL record of a member whose XCHG station runs. -/
def State.collRun (s : State) (h : Nat) : Option Cmd := if s.stRuns 7 h then s.collCmd h else none

/-- Source tile n of a member's OPD0, read and checked (R50 to R53). `error` carries the state that waits or has stopped.
A payload tile of a reduction must be of PFMT, a wide one of FP64 (DEDUCED, assumption 24). -/
def State.collRead (s : State) (h n : Nat) (fmt : Option Nat) : Except State (State × Tile) :=
  match s.collRun h with
  | none => .error s
  | some c =>
    let d := Record.desc c.r 0
    let ver := c.ver.getD 0 256
    let va := s.tileVa d ver n
    let x : Expect := { tid := c.vtid.getD 0 d.tid, pos := some (d.pos n), fmt := some (Entry.fmt (s.entry d.tid)) }
    let more := fun (t : Head) => match fmt with | some f => if t.fmt = f then none else some true | none => none
    match s.arriveMem 7 h c x ver va.1 va.2 more false with
    | .wait | .ask _ => .error s
    | .stop s1 => .error s1
    | .ok s1 t => .ok (s1, t)

/-- Several source tiles of a member. -/
def State.collReads (s : State) (h : Nat) (fmt : Option Nat) : List Nat → Except State (State × List Tile)
  | [] => .ok (s, [])
  | n :: ns =>
    match s.collRead h n fmt with
    | .error e => .error e
    | .ok (s1, t) =>
      match s1.collReads h fmt ns with
      | .error e => .error e
      | .ok (s2, ts) => .ok (s2, t :: ts)

/-- Destination tile n of a member's OPD2 written to memory. -/
def State.collWrite (s : State) (h n : Nat) (t : Tile) : Except State State :=
  match s.collRun h with
  | none => .error s
  | some c =>
    let d := Record.desc c.r 2
    let va := s.tileVa d 256 n
    if !(s.wayTo h va.1 && s.wayTo h va.2) then .error s
    else
      match s.storeTileAt h d n t with
      | .error f => .error (s.refuse 7 h f 0 (Record.serial c.r))
      | .ok s1 => .ok s1

/-- Payload bytes that a member sent (R574). -/
def State.countSent (s : State) (h n : Nat) : State := s.add64 (Reg.xbytes h) n

/-! ## Reductions (R380 to R383, R615) -/

/-- Double-double pairs travel exactly for a sum of FP64 payloads (R381). -/
def collDd (d : BitVec 2048) : Bool := CDesc.pfmt d == 0 && CDesc.rop d == 0

/-- Element e of a member's partial at one payload position: hi and lo encodings (R104, R193). -/
def collElem (d : BitVec 2048) (ts : List Tile) (e : Nat) : Nat × Nat :=
  let z : Tile := { hdr := 0, pay := 0 }
  if CDesc.wide d then
    if collDd d then (payElem (ts.getD 0 z).pay 8 e, payElem (ts.getD 1 z).pay 8 e)
    else (payElem (ts.getD (e / 512) z).pay 8 (e % 512), 0)
  else (f64 (decodeFmt (CDesc.pfmt d) (payElem (ts.getD 0 z).pay (fmtSize (CDesc.pfmt d)) e)), 0)

/-- One addition, maximum or minimum of an adder. -/
def collCombine (d : BitVec 2048) (a b : Nat × Nat) : Nat × Nat :=
  if CDesc.rop d = 0 then
    if collDd d then let x := ddAdd a.1 a.2 b.1 b.2; (x.1, x.2.1) else ((add64r a.1 b.1).1, 0)
  else (f64 (minMax (CDesc.rop d == 1) (v64 a.1) (v64 b.1)).1, 0)

/-- The owner's last addition, rounded once into PFMT (R382). XCHG and the bridge ends have no flag fields: the flags of these
roundings go nowhere (R105; DEDUCED, assumption 84). -/
def collFinal (d : BitVec 2048) (acc : Option (Nat × Nat)) (own : Nat × Nat) : Nat :=
  if CDesc.rop d = 0 then (raddFinal (CDesc.pfmt d) (collDd d) acc own).1
  else
    match acc with
    | none => (roundFmt (CDesc.pfmt d) (v64 own.1)).1
    | some a => (roundFmt (CDesc.pfmt d) (minMax (CDesc.rop d == 1) (v64 a.1) (v64 own.1)).1).1

/-- The result of one element, from the partials in the order of R382, the owner's last. -/
def collSum (d : BitVec 2048) : List (Nat × Nat) → Nat × Nat → Nat
  | [], own => collFinal d none own
  | p :: ps, own => collFinal d (some (ps.foldl (collCombine d) p)) own

/-- The wide tiles, payloads only, in which a partial of one payload tile travels (R193, R381). -/
def partialTiles (d : BitVec 2048) (es : List (Nat × Nat)) : List Tile :=
  let mk := fun (l : List Nat) => { hdr := 0, pay := BitVec.ofNat 32768 (packElems 8 l) : Tile }
  if collDd d then [mk (es.map (·.1)), mk (es.map (·.2))]
  else (upTo (collW d)).map fun j => mk (((es.drop (512 * j)).take 512).map (·.1))

/-- The partials of a strand, summed member by member; each that arrives at the next suit stands in reduction memory there, at
some place of the collective's slots (R364, R380, R382; which place is not to be seen, assumption 83). -/
def State.holdPartials (s : State) (c : Coll) : List (Nat × List (Nat × Nat)) → List (Nat × Nat) → State
  | [], _ => s
  | (b, own) :: r, acc =>
    let ks := PMap.get [] c.places b
    let w := collW c.desc
    let at_ := s.fresh % max 1 (ks.length * 16 / w) * w
    let s1 := (List.zip (upTo w) (partialTiles c.desc acc)).foldl (fun (s : State) x =>
      { s with redMem := PMap.put s.redMem ((b * 256 + ks.getD ((at_ + x.1) / 16) 0) * 16 + (at_ + x.1) % 16) x.2 }) s.spend
    s1.holdPartials c r (List.zipWith (collCombine c.desc) acc own)

/-- The order of a strand for chunk c: p_(c+1), p_(c+2), …, p_c (R382). -/
def strandOrder (ps : List Nat) (c : Nat) : List Nat := (ps.drop (c + 1)) ++ ps.take (c + 1)

/-- The partials of strand members, member by member. -/
def State.strandReads (s : State) (d : BitVec 2048) (t : Nat) : List Nat → Except State (State × List (List Tile))
  | [] => .ok (s, [])
  | h :: hs =>
    let w := srcW d
    let fmt := if CDesc.wide d then 0 else CDesc.pfmt d
    match s.collReads h (some fmt) ((upTo w).map fun j => w * t + j) with
    | .error e => .error e
    | .ok (s1, ts) =>
      match s1.strandReads d t hs with
      | .error e => .error e
      | .ok (s2, r) => .ok (s2, ts :: r)

/-- A strand's partials read, and its sums on their way held in reduction memory. -/
def State.strandGather (s : State) (c : Coll) (t : Nat) (order : List Nat) : Except State (State × List (List Tile)) :=
  let d := c.desc
  match s.strandReads d t order with
  | .error e => .error e
  | .ok (s1, parts) =>
    let elems := parts.map fun ts => (upTo (fmtRows (CDesc.pfmt d) * fmtCols (CDesc.pfmt d))).map (collElem d ts)
    .ok (s1.holdPartials c (List.zip ((order.drop 1).map fun h => reduceEnd (h / 160)) (elems.drop 1)) (elems.headD []), parts)

/-- The rounded payload and its header fields, without place and LAST (R615). An owner's
PAD tile gives a full tile's BYTES (assumption 77). -/
def strandResult (d : BitVec 2048) (parts : List (List Tile)) : Head × BitVec 32768 :=
  let f := CDesc.pfmt d
  let own := parts.getLastD []
  let oh := (own.getD 0 { hdr := 0, pay := 0 }).head
  let vr := if CDesc.wide d then fmtRows f else oh.vrows
  let vc := if CDesc.wide d then fmtCols f else oh.vcols
  let h : Head := { fmt := f, scale := oh.scale, wver := oh.wver }
  (if CDesc.wide d then h.full else h.validAs oh, payOf f vr vc fun e => collSum d ((parts.dropLast).map fun ts => collElem d ts e) (collElem d own e))

/-- Some members write a result tile, each at its own place n of its own destination (R615). -/
def State.writeResult (s : State) (r : Head × BitVec 32768) : List (Nat × Nat) → Except State State
  | [] => .ok s
  | (h, n) :: hs =>
    match s.collRun h with
    | none => .error s
    | some c =>
      let o := Record.desc c.r 2
      let p := o.pos n
      match s.collWrite h n (Tile.seal { r.1 with tid := o.tid, row := p.1, col := p.2, last := n + 1 == o.count } r.2) with
      | .error e => .error e
      | .ok s1 => s1.writeResult r hs

/-- One payload tile of one strand reduced: tile t of snake position `pos` of T tiles. -/
def State.reduceTile (s : State) (c : Coll) (pos t tt : Nat) (all : Bool) : State :=
  let d := c.desc
  let ps := (Machine.ringOf d).map fun a => a * 160 + snakeHand pos
  let cc := chunkC tt ps.length
  let k := t / max 1 cc
  let order := strandOrder ps k
  let owner := order.getLastD 640
  match s.strandGather c t order with
  | .error e => e
  | .ok (s1, parts) =>
    let r := strandResult d parts
    let dest := if all then ps.map fun h => (h, t) else [(owner, t - k * cc)]
    match s1.writeResult r dest with
    | .error e => e
    | .ok s2 =>
      let s3 := (order.dropLast).foldl (fun (s : State) h => s.countSent h (collW d * 4096)) s2
      let s4 := if all && decide (1 < ps.length) then s3.countSent owner r.1.bytes else s3
      s4.collDid c (pos, t)

/-- Payload tiles of each member of a reduction. -/
def State.collT (s : State) (c : Coll) : Nat :=
  let n := match c.joins.head? with | some j => (match s.collCmd j.hand with | some x => commonSize c.desc x.r | none => 0) | none => 0
  if CDesc.op c.desc = 2 then n / srcW c.desc else n

/-- ALLREDUCE (R380 to R383): one payload tile of one strand is summed in ring order, rounded once by its owner, and
written by every member. -/
def execAllreduce (g : BitVec 8) (tag : BitVec 28) (pos : Fin 160) (tile : Nat) (s : State) : Host.Outcome State Fault Refusal :=
  .next <|
    match s.collAt g tag 1 with
    | none => s
    | some c => if s.collTodo c (pos.val, tile) then s.reduceTile c pos.val tile (s.collT c) true else s

/-- REDUCE_SCATTER (R380 to R383): as ALLREDUCE, but only the owner of the chunk writes. -/
def execReduceScatter (g : BitVec 8) (tag : BitVec 28) (pos : Fin 160) (tile : Nat) (s : State) : Host.Outcome State Fault Refusal :=
  .next <|
    match s.collAt g tag 2 with
    | none => s
    | some c => if s.collTodo c (pos.val, tile) then s.reduceTile c pos.val tile (s.collT c) false else s

/-! ## Copies (R367, R388): a tile passed on keeps its header (R45) -/

/-- A tile written by some members, each at its own place. -/
def State.copyTo (s : State) (t : Tile) : List (Nat × Nat) → Except State State
  | [] => .ok s
  | (h, n) :: hs =>
    match s.collWrite h n t with
    | .error e => .error e
    | .ok s1 => s1.copyTo t hs

/-- ALL_GATHER (R367): one tile of one member reaches every member, in rank order. -/
def execAllGather (g : BitVec 8) (tag : BitVec 28) (src tile : Nat) (s : State) : Host.Outcome State Fault Refusal :=
  .next <|
    match s.collAt g tag 3 with
    | none => s
    | some c =>
      if !s.collTodo c (src, tile) then s
      else
        let n := match s.collCmd (c.member src) with | some x => (Record.desc x.r 0).count | none => 0
        match s.collRead (c.member src) tile none with
        | .error e => e
        | .ok (s1, t) =>
          match s1.copyTo t ((members c.desc).map fun h => (h, src * n + tile)) with
          | .error e => e
          | .ok s2 => (s2.countSent (c.member src) t.head.bytes).collDid c (src, tile)

/-- A fenced member of a BROADCAST is pruned by its router: its branch is dropped and the root hears of it (R359, R388). -/
def State.pruneMember (s : State) (c : Coll) (h root : Nat) : State :=
  (s.setBit (Reg.routerStat h) 30).send (epHand h 26) (epHand root 26) 3 h (.prune c.g c.tag [h])

/-- The branch of a BROADCAST into a folded suit is pruned by the link end of the root's suit that would carry it: the bridge end that
faces the folded suit, else the Manor link end (R359). -/
def State.pruneSuit (s : State) (c : Coll) (b root : Nat) : State :=
  let a := root / 160
  let pos := match facing a b with
    | some 0 => place a 15 (py root)
    | some 1 => place a (px root) 9
    | some 2 => place a 0 (py root)
    | some _ => place a (px root) 0
    | none => mPort a (px root + py root)
  s.send (if (facing a b).isSome then epBridge (bridgeOf a b) else epStation a 20 0) (epHand root 26) 3 pos
    (.prune c.g c.tag ((upTo 160).map (b * 160 + ·)))

/-- BROADCAST (R367, R388, R417): one tile of the root reaches one member, in memory or at a P8 of its hand; a fenced member is
pruned, and, beyond the last rank, every folded suit. -/
def execBroadcast (g : BitVec 8) (tag : BitVec 28) (dst tile : Nat) (s : State) : Host.Outcome State Fault Refusal :=
  .next <|
    match s.collAt g tag 4 with
    | none => s
    | some c =>
      let h := c.member dst
      let root := c.member (CDesc.root c.desc)
      let ranks := (ranked c.ring c.desc).length
      if !s.collTodo c (dst, tile) then s
      else if ranks ≤ dst then (s.pruneSuit c (c.foldedSuits.getD (dst - ranks) 0) root).collDid c (dst, tile)
      else if !s.handUp h then
        if c.doneWork.any fun u => u.1 == dst then s else (s.pruneMember c h root).collDid c (dst, tile)
      else
        match s.collRead root tile none with
        | .error e => e
        | .ok (s1, t) =>
          match s1.collRun h with
          | none => s1
          | some x =>
            let o := Record.desc x.r 2
            let sent := fun (s : State) =>
              (if (s.findColl c.g c.tag).any fun y => y.doneWork.any fun u => u.2 == tile then s else s.countSent root t.head.bytes).collDid
                c (dst, tile)
            if o.kind = 3 then
              match s1.sendP8 h 26 (epHand h 26) o.dest t with
              | none => s1.addCycles (Reg.p8starve h)
              | some s2 => sent (s2.setCmd 7 h 0 { x with acks := x.acks + 1 })
            else
              match s1.collWrite h tile t with
              | .error e => e
              | .ok s2 => sent s2

/-! ## Blocks (R384) -/

/-- The tiles of a block up to its first PAD tile, in order. -/
def State.blockReads (s : State) (h : Nat) : List Nat → Except State (State × List Tile)
  | [] => .ok (s, [])
  | n :: ns =>
    match s.collRead h n none with
    | .error e => .error e
    | .ok (s1, t) =>
      if t.head.pad then .ok (s1, [])
      else
        match s1.blockReads h ns with
        | .error e => .error e
        | .ok (s2, ts) => .ok (s2, t :: ts)

/-- The PAD tile of R384 at place n of a destination. -/
def State.padTile (s : State) (o : Desc) (n : Nat) : Tile :=
  let e := s.entry o.tid
  let p := o.pos n
  let hd : Head := { tid := o.tid, row := p.1, col := p.2, fmt := Entry.fmt e, scale := Entry.scale e }
  Tile.seal hd.padded 0

/-- Tiles 0 to n - 1 of a block written from place `to0` of a member's destination on. -/
def State.blockWrites (s : State) (h to0 n : Nat) (tile : Nat → Tile) : Except State State :=
  (upTo n).foldl (fun (r : Except State State) j =>
    match r with
    | .error e => .error e
    | .ok s => s.collWrite h (to0 + j) (tile j)) (.ok s)

/-- One block of SCAP tiles from a sender to a receiver of CAPACITY tiles; what is beyond is dropped and counted. -/
def State.moveBlock (s : State) (c : Coll) (h from0 dstH to0 : Nat) (unit : Nat × Nat) : State :=
  let cap := CDesc.capacity c.desc
  match s.blockReads h ((upTo (CDesc.scap c.desc)).map (from0 + ·)) with
  | .error e => e
  | .ok (s1, ts) =>
    match s1.collRun dstH with
    | none => s1
    | some x =>
      let o := Record.desc x.r 2
      let kept := ts.take cap
      match s1.blockWrites dstH to0 cap fun j => kept.getD j (s1.padTile o (to0 + j)) with
      | .error e => e
      | .ok s2 =>
        let n := ts.length - kept.length
        let s3 := if h = dstH then s2 else s2.countSent h (sumL (kept.map fun t => t.head.bytes))
        let c1 := if n = 0 then c else { c with dropped := PMap.put c.dropped h (PMap.get 0 c.dropped h + n) }
        s3.collDid c1 unit

/-- ALL_TO_ALL (R384): the block of member src for member dst. -/
def execAllToAll (g : BitVec 8) (tag : BitVec 28) (src dst : Nat) (s : State) : Host.Outcome State Fault Refusal :=
  .next <|
    match s.collAt g tag 5 with
    | none => s
    | some c =>
      if s.collTodo c (src, dst) then
        s.moveBlock c (c.member src) (dst * CDesc.scap c.desc) (c.member dst) (src * CDesc.capacity c.desc) (src, dst)
      else s

/-- COLL_GATHER (R384): the block of member src reaches the root. -/
def execCollGather (g : BitVec 8) (tag : BitVec 28) (src : Nat) (s : State) : Host.Outcome State Fault Refusal :=
  .next <|
    match s.collAt g tag 6 with
    | none => s
    | some c =>
      if s.collTodo c (src, 0) then
        s.moveBlock c (c.member src) 0 (c.member (CDesc.root c.desc)) (src * CDesc.capacity c.desc) (src, 0)
      else s

/-- BARRIER (R367): every member has joined; there is nothing to move. -/
def execBarrier (g : BitVec 8) (tag : BitVec 28) (s : State) : Host.Outcome State Fault Refusal :=
  .next <|
    match s.collAt g tag 7 with
    | none => s
    | some c => if s.collTodo c (0, 0) then s.collDid c (0, 0) else s

/-! ## The Shuffle (R385 to R387) -/

/-- Entry i of the map, as it stands. -/
def State.mapEntry (s : State) (d : BitVec 2048) (i : Nat) : Option Nat :=
  let t := s.tableTile (CDesc.map d) 8 i
  match s.readTile t.2.1 t.2.2.1 with
  | .ok x => some (bits x.pay.toNat t.2.2.2 64)
  | _ => none

/-- No entry of an earlier section is outstanding (R387). -/
def State.sectionOpen (s : State) (c : Coll) (i : Nat) : Bool :=
  let ends := (upTo i).filter fun j => match s.mapEntry c.desc j with | some e => bit e 31 | none => false
  match ends.getLast? with
  | none => true
  | some e => (upTo (e + 1)).all fun j => c.doneWork.contains (j, 0)

/-- The place in reduction memory of stash index k in a suit: tile k mod 15 of slot k div 15, bridge end 0's reserved slots first
(R386). -/
def Coll.stashKey (c : Coll) (suit k : Nat) : Nat :=
  let ks := (PMap.get [] c.places (2 * suit)).map (2 * suit * 256 + ·) ++ (PMap.get [] c.places (2 * suit + 1)).map ((2 * suit + 1) * 256 + ·)
  ks.getD (k / 15) 0 * 16 + k % 15

/-- The header moved to a place, HCHK recomputed and CRC unchanged (R386). -/
def Tile.movedTo (t : Tile) (p : Nat × Nat) : Tile :=
  let n := setBits (setBits (t.hdr.toNat % 2 ^ 240) 24 20 p.1) 44 20 p.2
  { t with hdr := BitVec.ofNat 256 (n + hchkOf n <<< 240) }

/-- The tile that an entry moves, checked. -/
def State.shuffleSource (s : State) (c : Coll) (h : Nat) (x : Cmd) (e : Nat) : Except State (State × Tile) :=
  let k := bits e 0 30
  if bit e 62 then
    let t := PMap.get { hdr := 0, pay := 0 } s.redMem (c.stashKey (h / 160) k)
    match s.arriveLocal 7 h x { tid := (Record.desc x.r 0).tid } t (fun _ => none) false with
    | .wait | .ask _ => .error s
    | .stop s1 => .error s1
    | .ok s1 t => .ok (s1, t)
  else s.collRead h k none

/-- One entry of the map executed by its member. -/
def State.shuffleEntry (s : State) (c : Coll) (i h : Nat) (x : Cmd) (e : Nat) : State :=
  let d := c.desc
  let n := (Record.desc x.r 0).count
  let src := bits e 0 30
  let dst := bits e 32 30
  let lim := fun (stash : Bool) => if stash then 30 * CDesc.slots d else n
  if decide (lim (bit e 62) ≤ src) || decide (lim (bit e 63) ≤ dst) then s.collMalformed c
  else
    match s.shuffleSource c h x e with
    | .error e1 => e1
    | .ok (s1, t) =>
      if bit e 63 then
        ({ s1 with redMem := PMap.put s1.redMem (c.stashKey (h / 160) dst) t }.countSent h t.head.bytes).collDid c (i, 0)
      else
        match s1.collWrite h dst (t.movedTo ((Record.desc x.r 2).pos dst)) with
        | .error e1 => e1
        | .ok s2 => (s2.countSent h t.head.bytes).collDid c (i, 0)

/-- SHUFFLE (R385 to R387): one entry of the map, once the previous section has completed. -/
def execShuffle (g : BitVec 8) (tag : BitVec 28) (entry : Nat) (s : State) : Host.Outcome State Fault Refusal :=
  .next <|
    match s.collAt g tag 8 with
    | none => s
    | some c =>
      let h := c.member (entry % max 1 (ranked c.ring c.desc).length)
      if !s.collTodo c (entry, 0) || !s.sectionOpen c entry then s
      else
        match s.collRun h with
        | none => s
        | some x =>
          match s.tableEntry h x (CDesc.map c.desc) 8 entry with
          | .error s1 => s1
          | .ok (s1, e) => s1.shuffleEntry c entry h x e

end Sys2Proof.Machine
end

