-- ==== Sys2Proof/Machine/Dispatch.lean ====
section
/-! DEFINITION. One arm per command: its meaning. -/

namespace Sys2Proof.Machine

def exec (i : Instr) (s : State) : Host.Outcome State Fault Refusal :=
  match i with
  | .seqNop h => Sys2Proof.Machine.execSeqNop h s
  | .seqJump h => Sys2Proof.Machine.execSeqJump h s
  | .seqLoop h => Sys2Proof.Machine.execSeqLoop h s
  | .epoch h katStep katTimes => Sys2Proof.Machine.execEpoch h katStep katTimes s
  | .mark h => Sys2Proof.Machine.execMark h s
  | .seqSignal h => Sys2Proof.Machine.execSeqSignal h s
  | .ports h => Sys2Proof.Machine.execPorts h s
  | .seqEnd h => Sys2Proof.Machine.execSeqEnd h s
  | .hold h => Sys2Proof.Machine.execHold h s
  | .grant h => Sys2Proof.Machine.execGrant h s
  | .loadTiles k => Sys2Proof.Machine.execLoadTiles k s
  | .gather k => Sys2Proof.Machine.execGather k s
  | .mma k => Sys2Proof.Machine.execMma k s
  | .elem k => Sys2Proof.Machine.execElem k s
  | .drain k => Sys2Proof.Machine.execDrain k s
  | .discard k => Sys2Proof.Machine.execDiscard k s
  | .run k => Sys2Proof.Machine.execRun k s
  | .radd k => Sys2Proof.Machine.execRadd k s
  | .storeTiles k => Sys2Proof.Machine.execStoreTiles k s
  | .scatter k => Sys2Proof.Machine.execScatter k s
  | .reseal k => Sys2Proof.Machine.execReseal k s
  | .solve h => Sys2Proof.Machine.execSolve h s
  | .grad h => Sys2Proof.Machine.execGrad h s
  | .coll h => Sys2Proof.Machine.execColl h s
  | .millNop m => Sys2Proof.Machine.execMillNop m s
  | .update m => Sys2Proof.Machine.execUpdate m s
  | .publish m => Sys2Proof.Machine.execPublish m s
  | .mirror m => Sys2Proof.Machine.execMirror m s
  | .millSignal m => Sys2Proof.Machine.execMillSignal m s
  | .tables m => Sys2Proof.Machine.execTables m s
  | .step m katTimes => Sys2Proof.Machine.execStep m katTimes s
  | .millJump m => Sys2Proof.Machine.execMillJump m s
  | .millLoop m => Sys2Proof.Machine.execMillLoop m s
  | .millEnd m => Sys2Proof.Machine.execMillEnd m s
  | .vend k => Sys2Proof.Machine.execVend k s
  | .setl k => Sys2Proof.Machine.execSetl k s
  | .saddi k => Sys2Proof.Machine.execSaddi k s
  | .sadd k => Sys2Proof.Machine.execSadd k s
  | .ssub k => Sys2Proof.Machine.execSsub k s
  | .sbnz k => Sys2Proof.Machine.execSbnz k s
  | .vld k => Sys2Proof.Machine.execVld k s
  | .vld2 k => Sys2Proof.Machine.execVld2 k s
  | .vld3 k => Sys2Proof.Machine.execVld3 k s
  | .vld4 k => Sys2Proof.Machine.execVld4 k s
  | .vst k => Sys2Proof.Machine.execVst k s
  | .vst2 k => Sys2Proof.Machine.execVst2 k s
  | .vst3 k => Sys2Proof.Machine.execVst3 k s
  | .vst4 k => Sys2Proof.Machine.execVst4 k s
  | .vadd k => Sys2Proof.Machine.execVadd k s
  | .vsub k => Sys2Proof.Machine.execVsub k s
  | .vmul k => Sys2Proof.Machine.execVmul k s
  | .vfma k => Sys2Proof.Machine.execVfma k s
  | .vfms k => Sys2Proof.Machine.execVfms k s
  | .vmin k => Sys2Proof.Machine.execVmin k s
  | .vmax k => Sys2Proof.Machine.execVmax k s
  | .vdiv k => Sys2Proof.Machine.execVdiv k s
  | .vsqrt k => Sys2Proof.Machine.execVsqrt k s
  | .vabs k => Sys2Proof.Machine.execVabs k s
  | .vneg k => Sys2Proof.Machine.execVneg k s
  | .vcmpeq k => Sys2Proof.Machine.execVcmpeq k s
  | .vcmplt k => Sys2Proof.Machine.execVcmplt k s
  | .vcmple k => Sys2Proof.Machine.execVcmple k s
  | .vand k => Sys2Proof.Machine.execVand k s
  | .vor k => Sys2Proof.Machine.execVor k s
  | .vxor k => Sys2Proof.Machine.execVxor k s
  | .vshl k => Sys2Proof.Machine.execVshl k s
  | .vshr k => Sys2Proof.Machine.execVshr k s
  | .vqadd k => Sys2Proof.Machine.execVqadd k s
  | .vqsub k => Sys2Proof.Machine.execVqsub k s
  | .vqmul k => Sys2Proof.Machine.execVqmul k s
  | .vqmac k => Sys2Proof.Machine.execVqmac k s
  | .vqcvt k => Sys2Proof.Machine.execVqcvt k s
  | .vcvt k => Sys2Proof.Machine.execVcvt k s
  | .vrsum k => Sys2Proof.Machine.execVrsum k s
  | .vldb k => Sys2Proof.Machine.execVldb k s
  | .schedFact h => Sys2Proof.Machine.execSchedFact h s
  | .schedUpd h => Sys2Proof.Machine.execSchedUpd h s
  | .schedSend h => Sys2Proof.Machine.execSchedSend h s
  | .schedRecv h => Sys2Proof.Machine.execSchedRecv h s
  | .schedSync h => Sys2Proof.Machine.execSchedSync h s
  | .schedEnd h => Sys2Proof.Machine.execSchedEnd h s
  | .pivotDeadline h ix => Sys2Proof.Machine.execPivotDeadline h ix s
  | .allreduce g tag pos tile => Sys2Proof.Machine.execAllreduce g tag pos tile s
  | .reduceScatter g tag pos tile => Sys2Proof.Machine.execReduceScatter g tag pos tile s
  | .allGather g tag src tile => Sys2Proof.Machine.execAllGather g tag src tile s
  | .broadcast g tag dst tile => Sys2Proof.Machine.execBroadcast g tag dst tile s
  | .allToAll g tag src dst => Sys2Proof.Machine.execAllToAll g tag src dst s
  | .collGather g tag src => Sys2Proof.Machine.execCollGather g tag src s
  | .barrier g tag => Sys2Proof.Machine.execBarrier g tag s
  | .shuffle g tag entry => Sys2Proof.Machine.execShuffle g tag entry s
  | .fwBegin f => Sys2Proof.Machine.execFwBegin f s
  | .fwChunk f => Sys2Proof.Machine.execFwChunk f s
  | .fwCommit f => Sys2Proof.Machine.execFwCommit f s
  | .keyErase f => Sys2Proof.Machine.execKeyErase f s
  | .policySet f => Sys2Proof.Machine.execPolicySet f s
  | .fence f => Sys2Proof.Machine.execFence f s
  | .unfence f => Sys2Proof.Machine.execUnfence f s
  | .powerLimit f => Sys2Proof.Machine.execPowerLimit f s
  | .jobStart f => Sys2Proof.Machine.execJobStart f s
  | .jobStop f => Sys2Proof.Machine.execJobStop f s
  | .attestationRequest nonce => Sys2Proof.Machine.execAttestationRequest nonce s
  | .identityRequest => Sys2Proof.Machine.execIdentityRequest s
  | .bypass => Sys2Proof.Machine.execBypass s
  | .idcode => Sys2Proof.Machine.execIdcode s
  | .samplePreload => Sys2Proof.Machine.execSamplePreload s
  | .extest => Sys2Proof.Machine.execExtest s
  | .clamp => Sys2Proof.Machine.execClamp s
  | .highz => Sys2Proof.Machine.execHighz s
  | .i3cDynamicAddress setdasa static addr => Sys2Proof.Machine.execI3cDynamicAddress setdasa static addr s
  | .i3cRead off len => Sys2Proof.Machine.execI3cRead off len s
  | .bellRing v => Sys2Proof.Machine.execBellRing v s
  | .bellResume reeve v => Sys2Proof.Machine.execBellResume reeve v s
  | .apply su reeve => Sys2Proof.Machine.execApply su reeve s
  | .tableCopy su => Sys2Proof.Machine.execTableCopy su s
  | .cfgRefWrite addr v => Sys2Proof.Machine.execCfgRefWrite addr v s
  | .dbgDataRead addr => Sys2Proof.Machine.execDbgDataRead addr s
  | .xlqWrite su v => Sys2Proof.Machine.execXlqWrite su v s
  | .faultTailWrite v => Sys2Proof.Machine.execFaultTailWrite v s
  | .clear addr => Sys2Proof.Machine.execClear addr s
  | .registerWrite reeve addr width v => Sys2Proof.Machine.execRegisterWrite reeve addr width v s
  | .startPacket u => Sys2Proof.Machine.execStartPacket u s
  | .streamFetch u => Sys2Proof.Machine.execStreamFetch u s
  | .recordDispatch h => Sys2Proof.Machine.execRecordDispatch h s
  | .resumePacket h => Sys2Proof.Machine.execResumePacket h s
  | .detour h => Sys2Proof.Machine.execDetour h s
  | .commandCommit ep station diverged => Sys2Proof.Machine.execCommandCommit ep station diverged s
  | .tileCheck k station opd corrupt => Sys2Proof.Machine.execTileCheck k station opd corrupt s
  | .creditReturn k port => Sys2Proof.Machine.execCreditReturn k port s
  | .p8Credit ix => Sys2Proof.Machine.execP8Credit ix s
  | .p8Recall ix => Sys2Proof.Machine.execP8Recall ix s
  | .p8TileReceive ix => Sys2Proof.Machine.execP8TileReceive ix s
  | .signalReceive manor dest ctr amt => Sys2Proof.Machine.execSignalReceive manor dest ctr amt s
  | .mirrorSend h b => Sys2Proof.Machine.execMirrorSend h b s
  | .mirrorUpdate m mirror => Sys2Proof.Machine.execMirrorUpdate m mirror s
  | .bufferClaim m => Sys2Proof.Machine.execBufferClaim m s
  | .handDone h => Sys2Proof.Machine.execHandDone h s
  | .millDone m => Sys2Proof.Machine.execMillDone m s
  | .stall h fail => Sys2Proof.Machine.execStall h fail s
  | .gapFillEnd k => Sys2Proof.Machine.execGapFillEnd k s
  | .dutyStep k => Sys2Proof.Machine.execDutyStep k s
  | .nap k => Sys2Proof.Machine.execNap k s
  | .wakeEnd k => Sys2Proof.Machine.execWakeEnd k s
  | .memoryRead ep va len tid ecc sev hard => Sys2Proof.Machine.execMemoryRead ep va len tid ecc sev hard s
  | .memoryWrite ep va data => Sys2Proof.Machine.execMemoryWrite ep va data s
  | .atomic ep va op ty v cmp => Sys2Proof.Machine.execAtomic ep va op ty v cmp s
  | .prefetchIssue su det arrived => Sys2Proof.Machine.execPrefetchIssue su det arrived s
  | .patrolRead su pc sector ecc sev hard => Sys2Proof.Machine.execPatrolRead su pc sector ecc sev hard s
  | .mapOut su pc reason => Sys2Proof.Machine.execMapOut su pc reason s
  | .ddrReadUe ch addr dma => Sys2Proof.Machine.execDdrReadUe ch addr dma s
  | .ddrPatrol ch addr ecc => Sys2Proof.Machine.execDdrPatrol ch addr ecc s
  | .apertureAccess op addr len v cmp => Sys2Proof.Machine.execApertureAccess op addr len v cmp s
  | .dmaTransfer src dst n => Sys2Proof.Machine.execDmaTransfer src dst n s
  | .pcieInbound port write addr len v => Sys2Proof.Machine.execPcieInbound port write addr len v s
  | .packetForward ix => Sys2Proof.Machine.execPacketForward ix s
  | .packetReceive ix => Sys2Proof.Machine.execPacketReceive ix s
  | .pruneNotice ix => Sys2Proof.Machine.execPruneNotice ix s
  | .linkReplay b manor sent => Sys2Proof.Machine.execLinkReplay b manor sent s
  | .linkRetryExhausted b manor sent oneLane lgroup lane => Sys2Proof.Machine.execLinkRetryExhausted b manor sent oneLane lgroup lane s
  | .residueMismatch b lane slot g tag retryOk => Sys2Proof.Machine.execResidueMismatch b lane slot g tag retryOk s
  | .collJoin ix => Sys2Proof.Machine.execCollJoin ix s
  | .collAdmit g tag => Sys2Proof.Machine.execCollAdmit g tag s
  | .admitTimeout g tag => Sys2Proof.Machine.execAdmitTimeout g tag s
  | .collTimeout g tag h => Sys2Proof.Machine.execCollTimeout g tag h s
  | .collComplete g tag => Sys2Proof.Machine.execCollComplete g tag s
  | .stopMarker u => Sys2Proof.Machine.execStopMarker u s
  | .unitStop u => Sys2Proof.Machine.execUnitStop u s
  | .cutComplete => Sys2Proof.Machine.execCutComplete s
  | .cutLate => Sys2Proof.Machine.execCutLate s
  | .unitStopTimeout u => Sys2Proof.Machine.execUnitStopTimeout u s
  | .faultRecord r => Sys2Proof.Machine.execFaultRecord r s
  | .heartbeat r => Sys2Proof.Machine.execHeartbeat r s
  | .reeveLost r => Sys2Proof.Machine.execReeveLost r s
  | .watchdogExpiry r => Sys2Proof.Machine.execWatchdogExpiry r s
  | .coreSwap k cause kittyOk => Sys2Proof.Machine.execCoreSwap k cause kittyOk s
  | .handReplay h epochSlot => Sys2Proof.Machine.execHandReplay h epochSlot s
  | .sectorRebuild pa data => Sys2Proof.Machine.execSectorRebuild pa data s
  | .handFold h cause => Sys2Proof.Machine.execHandFold h cause s
  | .suitFold su cause => Sys2Proof.Machine.execSuitFold su cause s
  | .variantSwitch rootVa resume => Sys2Proof.Machine.execVariantSwitch rootVa resume s
  | .stepRollForward => Sys2Proof.Machine.execStepRollForward s
  | .suitRejoin su => Sys2Proof.Machine.execSuitRejoin su s
  | .bridgeRetrain b manor ok => Sys2Proof.Machine.execBridgeRetrain b manor ok s
  | .scrub => Sys2Proof.Machine.execScrub s
  | .checkpoint linksUp => Sys2Proof.Machine.execCheckpoint linksUp s
  | .checkpointTimeout => Sys2Proof.Machine.execCheckpointTimeout s
  | .releaseBoundaryTimeout => Sys2Proof.Machine.execReleaseBoundaryTimeout s
  | .releaseRequest byLatch => Sys2Proof.Machine.execReleaseRequest byLatch s
  | .releaseHoldRestart => Sys2Proof.Machine.execReleaseHoldRestart s
  | .cfgScan => Sys2Proof.Machine.execCfgScan s
  | .cfgScanEnd block => Sys2Proof.Machine.execCfgScanEnd block s
  | .graceEnd block => Sys2Proof.Machine.execGraceEnd block s
  | .traceDrain u => Sys2Proof.Machine.execTraceDrain u s
  | .powerOn => Sys2Proof.Machine.execPowerOn s
  | .startUpStepEnd r => Sys2Proof.Machine.execStartUpStepEnd r s
  | .startUpStepLimit => Sys2Proof.Machine.execStartUpStepLimit s
  | .referenceTimeout => Sys2Proof.Machine.execReferenceTimeout s
  | .referenceLoss => Sys2Proof.Machine.execReferenceLoss s
  | .referenceReturn => Sys2Proof.Machine.execReferenceReturn s
  | .stopN low => Sys2Proof.Machine.execStopN low s
  | .powerFail => Sys2Proof.Machine.execPowerFail s
  | .overVoltage => Sys2Proof.Machine.execOverVoltage s
  | .vinLow => Sys2Proof.Machine.execVinLow s
  | .enLow high => Sys2Proof.Machine.execEnLow high s
  | .governorFast p => Sys2Proof.Machine.execGovernorFast p s
  | .governorTick a hot near => Sys2Proof.Machine.execGovernorTick a hot near s
  | .floor su => Sys2Proof.Machine.execFloor su s
  | .throttle kind su => Sys2Proof.Machine.execThrottle kind su s
  | .trip kind su => Sys2Proof.Machine.execTrip kind su s
  | .sensorTrip sensor level value => Sys2Proof.Machine.execSensorTrip sensor level value s
  | .keyRotation => Sys2Proof.Machine.execKeyRotation s
  | .pcieLinkChange link up dpc width rate => Sys2Proof.Machine.execPcieLinkChange link up dpc width rate s
  | .mgmtLinkChange up phy fec => Sys2Proof.Machine.execMgmtLinkChange up phy fec s
  | .housekeepingEdge r => Sys2Proof.Machine.execHousekeepingEdge r s
  | .faultLog => Sys2Proof.Machine.execFaultLog s
  | .statusRead addr => Sys2Proof.Machine.execStatusRead addr s

end Sys2Proof.Machine
end

