-- ==== Sys2Proof/Machine/Step.lean ====
section
/-! DEFINITION. One step of the block: the command at the front of the queue, or, on an empty queue, one nanosecond
of the 100 MHz reference. -/

namespace Sys2Proof.Machine

/-- What a nanosecond brings to the memory, whose fills arrive and whose cells fail in their own time: nothing, the fills in flight of
one suit, or an error in one HBM cell of a suit with power, by free choice (DESIGN CHOICE, assumption 88). -/
def State.memoryTime (s : State) : State :=
  let n := s.fresh
  let s1 := s.spend
  match n % 4 with
  | 1 => s1.landFills (n / 4 % 4) fun _ => true
  | 2 =>
    let k := n / 4 % 2 ^ 34
    if (s.suit (k / 2 ^ 32)).powered then s1.putError k (n / 2 ^ 36 % 3) (n / 2 ^ 38 % 4) (bit n 40) else s1
  | _ => s1

/-- One nanosecond of the 100 MHz reference, or of the oscillator that replaces it (R32): the timebase, once it has started, counts
it, interpolated between edges (R29). -/
def State.tick (s : State) : State :=
  { s.memoryTime with time := if s.ctl.timeOn then s.time + 1 else s.time, clock := s.clock + 1 }

/-- The command at the front of the queue acts on the state with the queue's rest. On an empty queue the block takes
no command and one nanosecond passes (DESIGN CHOICE, assumption 1). -/
def step (s : State) : Host.Outcome State Fault Refusal :=
  match s.pending with
  | [] => .next s.tick
  | c :: rest => exec c { s with pending := rest }

/-- The state with the command that a table word spells put at the front of its queue; a word that spells none, which
is every word of this table, leaves the state as it is. -/
def State.withFetchWord (s : State) (nbits w : Nat) : State :=
  match decodeTableWord nbits w with
  | none => s
  | some c => { s with pending := c :: s.pending }

end Sys2Proof.Machine
end

