-- ==== Sys2Proof/Safety.lean ====
section
/-! DEFINITION. What counts as a safe state, and the words that the statements are made of: completion, frames, the
increments of a record. -/

namespace Sys2Proof

open Machine

/-- The keys of a sparse map strictly rise. -/
def Rising (m : PMap W32) : Prop := m.Pairwise fun a b => a.1 < b.1

/-- HBM, DDR5, the configuration flash, and the maps of written and of pending registers are in canonical form. -/
def Safe (s : State) : Prop :=
  Memory.wf s.mem = true ∧ Memory.wf s.ddr = true ∧ Memory.wf s.flash = true ∧ Rising s.regs ∧ Rising s.staged

/-- The value that a register has once its pending one, if there is one, is active (R360, R449). -/
def Machine.State.bound (s : State) (a : Nat) : W32 := PMap.get (s.reg a) s.staged a

/-- The command completes: exec answers a next state, of which `P` holds. -/
def Does (i : Instr) (s : State) (P : State → Prop) : Prop := ∃ t, exec i s = .next t ∧ P t

/-- The frame of a command: what stays as it was. Registers outside `regs`, hands outside `hands`, physical cores outside
`cores` and Mills outside `mills` are unchanged; so is every byte of HBM, DDR5 and flash, and every other part of the
state but packets on their way, fault records and notices on their way, the last answer and the count of free choices. -/
structure Frame (regs hands cores mills : Nat → Prop) (s t : State) : Prop where
  mem : t.mem = s.mem
  ddr : t.ddr = s.ddr
  flash : t.flash = s.flash
  reg : ∀ a, ¬ regs a → t.reg a = s.reg a
  hand : ∀ h, ¬ hands h → t.hand h = s.hand h
  core : ∀ k, ¬ cores k → t.core k = s.core k
  mill : ∀ m, ¬ mills m → t.mill m = s.mill m
  rest : t.pending = s.pending ∧ t.part = s.part ∧ t.time = s.time ∧ t.clock = s.clock ∧ t.extRef = s.extRef ∧
    t.staged = s.staged ∧ t.heldLow = s.heldLow ∧ t.rs = s.rs ∧ t.suits = s.suits ∧ t.links = s.links ∧
    t.poisoned = s.poisoned ∧ t.hardSectors = s.hardSectors ∧ t.lostPc = s.lostPc ∧ t.healed = s.healed ∧
    t.latent = s.latent ∧ t.tlb = s.tlb ∧ t.pvSlots = s.pvSlots ∧ t.ddrPoisoned = s.ddrPoisoned ∧ t.reserved = s.reserved ∧
    t.aia = s.aia ∧ t.redMem = s.redMem ∧ t.served = s.served ∧ t.job = s.job ∧ t.colls = s.colls ∧ t.inbox = s.inbox ∧
    t.bell = s.bell ∧ t.sec = s.sec ∧ t.ctl = s.ctl ∧ t.gov = s.gov ∧ t.cfg = s.cfg ∧ t.scanNo = s.scanNo

/-- Registers that an access to HBM may change: a suit's prefetch counts and its pseudo-channels' error counts (R319, R341). -/
def GranReg (a : Nat) : Prop :=
  ∃ i, a ∈ [Reg.pfUsed i, Reg.pfUsed i + 4, Reg.pfOnTime i, Reg.pfOnTime i + 4, Reg.pfLate i, Reg.pfLate i + 4] ∨
    ∃ n < 64, a = Reg.hbmPc i n

/-- No index: the part of a frame that does not change at all. -/
def Nothing (_ : Nat) : Prop := False

/-- The command neither sends a packet, nor posts a record or a notice, nor answers. -/
def Quiet (s t : State) : Prop := t.net = s.net ∧ t.recov = s.recov ∧ t.rsp = s.rsp

/-- The frame of a command that accesses HBM: as `Frame`, but for the bytes of HBM, of which a statement speaks on its own, and
for what any access through the granary may change: its lines, the stream detectors, the translation caches, and the errors in
HBM with their counts (R284, R290, R302, R317, R321, R322). -/
structure MemFrame (regs hands cores mills : Nat → Prop) (s t : State) : Prop where
  ddr : t.ddr = s.ddr
  flash : t.flash = s.flash
  reg : ∀ a, ¬ regs a → ¬ GranReg a → t.reg a = s.reg a
  hand : ∀ h, ¬ hands h → t.hand h = s.hand h
  core : ∀ k, ¬ cores k → t.core k = s.core k
  mill : ∀ m, ¬ mills m → t.mill m = s.mill m
  suit : ∀ i, ∃ g d n, t.suit i = { s.suit i with gran := g, dets := d, ueCounts := n }
  rest : t.pending = s.pending ∧ t.part = s.part ∧ t.time = s.time ∧ t.clock = s.clock ∧ t.extRef = s.extRef ∧
    t.staged = s.staged ∧ t.heldLow = s.heldLow ∧ t.rs = s.rs ∧ t.links = s.links ∧ t.lostPc = s.lostPc ∧
    t.pvSlots = s.pvSlots ∧ t.ddrPoisoned = s.ddrPoisoned ∧ t.reserved = s.reserved ∧ t.aia = s.aia ∧ t.redMem = s.redMem ∧
    t.served = s.served ∧ t.job = s.job ∧ t.colls = s.colls ∧ t.inbox = s.inbox ∧ t.bell = s.bell ∧ t.sec = s.sec ∧
    t.ctl = s.ctl ∧ t.gov = s.gov ∧ t.cfg = s.cfg ∧ t.scanNo = s.scanNo

/-- The command neither sends a packet nor answers, and posts no record but those of errors that its accesses find in HBM. -/
def Calm (s t : State) : Prop :=
  t.net = s.net ∧ t.rsp = s.rsp ∧ ∃ l, t.recov = { s.recov with flight := s.recov.flight ++ l }

/-- What the increments of a record add to counter c (R77). -/
def incsOf (r : BitVec 512) (c : Nat) : W32 :=
  (if Record.incEn r 0 = true ∧ Record.incCtr r 0 = c then BitVec.ofNat 32 (Record.incAmt r 0) else 0) +
  (if Record.incEn r 1 = true ∧ Record.incCtr r 1 = c then BitVec.ofNat 32 (Record.incAmt r 1) else 0)

/-- A packet of the control virtual channel, in order, that stands at router `pos` on its way from `src` to `dest` (R349). -/
def ctlPacket (src dest pos : Nat) (m : Msg) : Packet :=
  { dest := BitVec.ofNat 16 dest, src := BitVec.ofNat 16 src, vc := 3, ord := true, paylen := m.size, msg := m, pos := pos }

/-- Registers that a sequencer's record may write: its hand's event counters, loop registers, fetch address and the count
of lost trace records. -/
def SeqRegs (h a : Nat) : Prop :=
  (∃ c < 64, a = Reg.evc h c) ∨ (∃ n < 4, a = Reg.loopReg h n) ∨ a = Reg.seqFetch h ∨ a = Reg.seqFetch h + 4 ∨ a = Reg.handLost h

/-- Record `c`, of the row's opcode, is the one that station `st` of unit `u` works on, at place `i` of its queue. -/
def AtWork (s : State) (st u op i : Nat) (c : Cmd) : Prop :=
  s.active st u = some (i, c) ∧ s.stRuns st u = true ∧ Record.opcode c.r = op

/-- The station does the next piece of that record's work: it has begun, and no record behind it begins first (R56). -/
def Works (s : State) (st u op i : Nat) (c : Cmd) : Prop :=
  AtWork s st u op i c ∧ c.begun = true ∧ s.beginNext st u op i c = none

/-- Nothing stops the record at its begin: its table entries and version records answer, and no access of its extents is
forbidden; `ver` are the versions it selects (R252, R303). -/
def BeginsFreely (s : State) (st u : Nat) (c : Cmd) (ver : List Nat) : Prop :=
  s.mayBegin st u c.r = true ∧ (s.noContext st u = false ∨ s.versionReads st c.r = []) ∧ s.entryFault (recordTids c.r) = none ∧
    (∃ sel tid, s.selectAll st c.r [0, 1, 2] = (.ok sel, tid) ∧ sel.map (·.1) = ver) ∧ s.recordFault st c.r ver = none

/-- Tile n of operand o of the record at work, at place i of its queue, is there: it had arrived before, or it arrives now and
passes every check; `s1` and `c1` are the state and the record with the tile, `x` the tile (R50, R59). -/
def TileComes (s : State) (st u i : Nat) (c : Cmd) (o n : Nat) (s1 : State) (c1 : Cmd) (x : Tile) : Prop :=
  ((n < (c.flow o).got ∧ s1 = s ∧ c1 = c) ∨
    ((c.flow o).got ≤ n ∧ s.arriveTile st u i c o false = .ok s1 c1 ∧ n < (c1.flow o).got)) ∧ x = s1.heldTile u c1 o n

/-- Where output tile n of a local destination stands: the newest tile of the port, or its resident slot (R57, R59). -/
def outputTile (before after : Core) (d : Desc) (n : Nat) : Tile :=
  if d.kind = 2 then after.slot (portSlotOf d.port (before.port d.port) (before.port d.port).count) else after.slot (d.row0 + n)

/-- The record at place i of a queue has done one more output tile; after the last one it is complete (R77). -/
def Advanced (t : State) (st u i : Nat) (c : Cmd) (total : Nat) : Prop :=
  ∃ c', (t.queue st u)[i]? = some c' ∧ c'.r = c.r ∧ c'.out = c.out + 1 ∧ c'.complete = decide (c.out + 1 = total)

/-- A kernel runs on core k, and the word at its pc, `w`, has the OP of a row (R179, R183). -/
def KernelAt (s : State) (k op : Nat) (c : Cmd) (n : Kern) (w : KWord) : Prop :=
  AtWork s 4 k 1 0 c ∧ c.begun = true ∧ (s.core k).kern = some n ∧ n.running = true ∧ n.pc ≤ 1023 ∧
    w = KWord.of (kernWord (s.core k) c.r n.pc) ∧ w.op = op

/-- Registers that a kernel word may write: flags and operation count of its vector unit. -/
def KernRegs (k a : Nat) : Prop := a = Reg.vectStat k ∨ a = Reg.vops k ∨ a = Reg.vops k + 4

/-- Bit j of the vector registers lies in no active element that a word writes: elements of e bits of the group at register
vd, masked by v0 where m is set (R172, R175). -/
def Untouched (v0 : Nat) (m : Bool) (vl e vd j : Nat) : Prop :=
  ∀ i < vl, active1 v0 m i = true → j < 512 * vd + i * e ∨ 512 * vd + (i + 1) * e ≤ j

/-- VL is one that SETL grants: the elements fit a register group (R174). -/
def VlFits (c : Core) : Prop := c.vl * sew c.et ≤ 512 * 2 ^ c.lg

/-- A critical command's frame that passes every check of R504 to R508, of its row's code and with a body of a length that
the row allows. -/
def Accepted (s : State) (f : CmdFrame) (code : Nat) (lenOk : Nat → Bool) : Prop :=
  s.flag Reg.mgmtStat 31 = true ∧ s.overRate = false ∧ f.formOk = true ∧ f.body.length ≤ 8196 ∧ lenOk f.body.length = true ∧
    f.target.toNat = moduleTarget ∧ (∃ k, s.sec.cmdKey = some k ∧ f.tag.toNat = cmdTag k f code) ∧ s.sec.lastCtr < f.counter ∧
    s.forbids code = none

/-- A critical command has used its counter and is answered with a status (R505, R506). -/
def Answers (t : State) (f : CmdFrame) (code status : Nat) : Prop :=
  t.sec.lastCtr = f.counter ∧ ∃ tag, t.rsp = .command code f.counter.toNat status tag

end Sys2Proof
end

