-- ==== Sys2Proof/Certificates/Slice0/Obligations.lean ====
section
/-! DEFINITION. The statements: what the commands of the Greant do, family by family. -/

open Sys2Proof Sys2Proof.Machine

/-! ## The sequencer (chapter 2) -/

/-- R77, R81, R82: NOP, JUMP, LOOP and END apply their increments and leave the front of the fetch buffer; JUMP, and a
LOOP whose count does not reach zero, discard what was fetched beyond and fetch on at TARGET; END stops fetching. The Mill's LOOP
acts alike on the Mill's own loop registers. -/
def Obligations.SeqControlCommits : Prop :=
  (∀ (m : MillIx) (s : State) (va : Nat) (r : BitVec 512), s.millHead m.val 8 = .ready va r → Does (.millLoop m) s fun t =>
    let n := Record.argBits r 30 2
    let old := PMap.get 0 (s.mill m.val).loops n
    let left := (if old = 0 then max (Record.argBits r 0 28) 1 else old) - 1
    PMap.get 0 (t.mill m.val).loops n = left ∧ (left ≠ 0 → (t.mill m.val).buf = [] ∧ (t.mill m.val).fetch = Record.target r) ∧
    (left = 0 → (t.mill m.val).buf = (s.mill m.val).buf.drop 1 ∧ (t.mill m.val).fetch = (s.mill m.val).fetch)) ∧
  ∀ (h : HandIx) (s : State) (va : Nat) (r : BitVec 512),
    (s.seqReady h.val 0 = some (va, r) → Does (.seqNop h) s fun t =>
      (∀ c < 64, t.evc h.val c = s.evc h.val c + incsOf r c) ∧
      ((s.hand h.val).detour = none → (t.hand h.val).buf = (s.hand h.val).buf.drop 1) ∧
      t.reg64 (Reg.seqFetch h.val) = s.reg64 (Reg.seqFetch h.val) ∧
      Frame (SeqRegs h.val) (· = h.val) Nothing Nothing s t ∧ Quiet s t) ∧
    (s.seqReady h.val 1 = some (va, r) → Does (.seqJump h) s fun t =>
      (∀ c < 64, t.evc h.val c = s.evc h.val c + incsOf r c) ∧
      (t.hand h.val).buf = [] ∧ t.reg64 (Reg.seqFetch h.val) = Record.target r ∧
      Frame (SeqRegs h.val) (· = h.val) Nothing Nothing s t ∧ Quiet s t) ∧
    (s.seqReady h.val 2 = some (va, r) → Does (.seqLoop h) s fun t =>
      let a := Reg.loopReg h.val (Record.argBits r 30 2)
      let left := (if s.field a 0 28 = 0 then max (Record.argBits r 0 28) 1 else s.field a 0 28) - 1
      (∀ c < 64, t.evc h.val c = s.evc h.val c + incsOf r c) ∧ t.reg a = BitVec.ofNat 32 left ∧
      (left = 0 → t.reg64 (Reg.seqFetch h.val) = s.reg64 (Reg.seqFetch h.val) ∧
        ((s.hand h.val).detour = none → (t.hand h.val).buf = (s.hand h.val).buf.drop 1)) ∧
      (left ≠ 0 → t.reg64 (Reg.seqFetch h.val) = Record.target r ∧ (t.hand h.val).buf = []) ∧
      Frame (SeqRegs h.val) (· = h.val) Nothing Nothing s t ∧ Quiet s t) ∧
    (s.seqReady h.val 7 = some (va, r) → Does (.seqEnd h) s fun t =>
      (∀ c < 64, t.evc h.val c = s.evc h.val c + incsOf r c) ∧ (t.hand h.val).ended = true ∧ (t.hand h.val).buf = [] ∧
      ((s.hand h.val).detour = none → t.canFetch h.val = false))

/-- R60, R83: SIGNAL sends an increment packet to the endpoint and counter of its ARG and commits; GRANT moves n of its
core's own P8 credits to the producer with a packet, and commits once the producer's answer has come. -/
def Obligations.SeqSendsPackets : Prop :=
  ∀ (h : HandIx) (s : State) (va : Nat) (r : BitVec 512),
    (s.seqReady h.val 5 = some (va, r) → (s.hand h.val).skipSig = 0 → Does (.seqSignal h) s fun t =>
      t.net = s.net ++ [ctlPacket (epHand h.val 25) (Record.argBits r 0 16) h.val
        (.signal (Record.argBits r 16 6) (Record.argBits r 22 8))] ∧
      (∀ c < 64, t.evc h.val c = s.evc h.val c + incsOf r c) ∧ t.recov = s.recov ∧
      Frame (SeqRegs h.val) (· = h.val) Nothing Nothing s t) ∧
    (s.seqReady h.val 9 = some (va, r) → (s.hand h.val).seqBegun = false → Does (.grant h) s fun t =>
      let k := s.physCore h.val (Record.argBits r 20 4)
      t.net = s.net ++ [ctlPacket (epHand h.val 25) (Record.argBits r 0 16) h.val
        (.p8credit k (Record.argBits r 16 4) true)] ∧
      (t.core k).p8own = (s.core k).p8own - Record.argBits r 16 4 ∧ (t.hand h.val).waitAck = [Record.argBits r 0 16] ∧
      (∀ c < 64, t.evc h.val c = s.evc h.val c) ∧ t.recov = s.recov ∧
      Frame (SeqRegs h.val) (· = h.val) (· = k) Nothing s t) ∧
    (s.seqReady h.val 9 = some (va, r) → (s.hand h.val).seqBegun = true → (s.hand h.val).waitAck = [] →
      Does (.grant h) s fun t =>
        (∀ c < 64, t.evc h.val c = s.evc h.val c + incsOf r c) ∧ Quiet s t ∧
        Frame (SeqRegs h.val) (· = h.val) Nothing Nothing s t)

/-- R58, R60: PORTS waits until its logical core is idle and the ports it closes are empty, and then sets the open-port
mask; where it closes a P8 whose credits are granted, it first recalls them from every producer that holds a grant.
R81: a HOLD stops dispatch and does not commit; the Manor's resume packet ends it, and only then its increments apply. -/
def Obligations.PortsAndHold : Prop :=
  (
  ∀ (h : HandIx) (s : State) (va : Nat) (r : BitVec 512), s.seqReady h.val 6 = some (va, r) →
    let k := s.physCore h.val (Record.core r)
    let new := Record.argBits r 0 9
    let closing := closingPorts (s.portMask h.val (Record.core r)) new
    ((s.core k).quiet closing = true → (8 ∉ closing ∨ (s.core k).grants = []) → Does (.ports h) s fun t =>
      t.portMask h.val (Record.core r) = new ∧ (∀ c < 64, t.evc h.val c = s.evc h.val c + incsOf r c) ∧ Quiet s t ∧
      Frame (SeqRegs h.val) (· = h.val) Nothing Nothing s t) ∧
    ((s.core k).quiet closing = true → 8 ∈ closing → (s.core k).grants ≠ [] → (s.core k).recalls = [] →
      Does (.ports h) s fun t =>
        (t.core k).recalls = (s.core k).grants.map (·.1) ∧
        t.net = s.net ++ (s.core k).grants.map (fun g => ctlPacket (epHand h.val 25) g.1 h.val (.p8recall k)) ∧
        t.portMask h.val (Record.core r) = s.portMask h.val (Record.core r) ∧
        Frame (SeqRegs h.val) (· = h.val) (· = k) Nothing s t) ∧
    ((s.core k).quiet closing = true → 8 ∈ closing → (s.core k).grants ≠ [] → (s.core k).recalls ≠ [] → (s.core k).p8own = 8 →
      Does (.ports h) s fun t =>
        t.portMask h.val (Record.core r) = new ∧ (t.core k).grants = [] ∧ (∀ c < 64, t.evc h.val c = s.evc h.val c + incsOf r c) ∧
        Quiet s t ∧ Frame (SeqRegs h.val) (· = h.val) (· = k) Nothing s t) ∧
    ((s.core k).quiet closing = false → Does (.ports h) s fun t =>
        t.portMask h.val (Record.core r) = s.portMask h.val (Record.core r) ∧
        (∀ c < 64, t.evc h.val c = s.evc h.val c) ∧ Frame (SeqRegs h.val) (· = h.val) Nothing Nothing s t)) ∧ (
  ∀ (h : HandIx) (s : State) (va : Nat) (r : BitVec 512),
    (s.seqReady h.val 8 = some (va, r) → Does (.hold h) s fun t =>
      (t.hand h.val).held = some (va, r) ∧ t.seqRuns h.val = false ∧ (∀ c < 64, t.evc h.val c = s.evc h.val c) ∧
      Frame (SeqRegs h.val) (· = h.val) Nothing Nothing s t ∧ Quiet s t) ∧
    ((s.hand h.val).held = some (va, r) → Does (.resumePacket h) s fun t =>
      (t.hand h.val).held = none ∧ (∀ c < 64, t.evc h.val c = s.evc h.val c + incsOf r c) ∧
      Frame (SeqRegs h.val) (· = h.val) Nothing Nothing s t ∧ Quiet s t))

/-- R85, R564: once everything dispatched has committed, MARK writes the values of the 64 event counters to the LAST slot
of the hand's checkpoint block, little-endian, and applies its increments. That the image holds the counters before the record's own increments is
the model's reading (assumption 8).
R84, R449: an EPOCH, once everything dispatched has committed, makes its number the hand's epoch, gives every staged
register of the hand its pending value, and applies its increments. -/
def Obligations.MarkAndEpoch : Prop :=
  (
  ∀ (h : HandIx) (s : State) (va : Nat) (r : BitVec 512) (pa : Nat) (pcopy : Bool), Safe s →
    s.seqReady h.val 4 = some (va, r) → s.handIdle h.val = true → s.translate (s.traceBlock h.val) .write = .ok pa pcopy →
    Does (.mark h) s fun t =>
      (∀ c < 64, Memory.read t.mem (pa + 4 * c) 4 = (s.evc h.val c).toNat) ∧
      Memory.read t.mem (pa + 272) 8 = (va + 64) % 2 ^ 48 ∧ Memory.read t.mem (pa + 280) 4 = Record.serial r ∧
      (∀ a, (a < pa ∨ pa + 384 ≤ a) → (pcopy = false ∨ a < partnerPa pa ∨ partnerPa pa + 384 ≤ a) →
        Memory.byte t.mem a = Memory.byte s.mem a) ∧
      (∀ c < 64, t.evc h.val c = s.evc h.val c + incsOf r c) ∧
      MemFrame (SeqRegs h.val) (· = h.val) Nothing Nothing s t ∧ Calm s t) ∧ (
  ∀ (h : HandIx) (step times : Nat) (s : State) (va : Nat) (r : BitVec 512) (pa : Nat) (pcopy : Bool),
    s.seqReady h.val 3 = some (va, r) → s.handIdle h.val = true → s.translate (s.traceBlock h.val) .write = .ok pa pcopy →
    Does (.epoch h step times) s fun t =>
      t.field (Reg.seqStat h.val) 16 8 = Record.arg r % 256 ∧
      (∀ a v, (s.staged.filter fun e => e.1 == a).getLast? = some (a, v) → isHandStaged h.val a = true → t.reg a = v) ∧
      (∀ e ∈ t.staged, isHandStaged h.val e.1 = false) ∧
      (∀ c < 64, t.evc h.val c = s.evc h.val c + incsOf r c))

/-- R65, R67, R260: START_PACKET: a sequencer or Mill takes its entry of the root table: an address makes it fetch from
there, 0 leaves it without a stream.
R67, R69, R377: STREAM_FETCH: a fetch that meets no fault brings at most 16 records, each the 64 bytes that memory holds at its
address, to the end of the fetch buffer, or of the buffer of the detour under way, and moves the fetch address past them; it brings all 16
where each of them answers and no page is entered that may not be. -/
def Obligations.StreamsStartAndFetch : Prop :=
  (
  ∀ (u : Fin 648) (s : State), u.val ∈ s.job.startPending → PMap.get 0 s.job.entries u.val < 2 ^ 48 →
    let va := PMap.get 0 s.job.entries u.val
    Does (.startPacket u) s fun t =>
      u.val ∉ t.job.startPending ∧
      (u.val < 640 → (t.hand u.val).stream = decide (va ≠ 0) ∧ (t.hand u.val).buf = [] ∧ (t.hand u.val).ended = false ∧
        (t.hand u.val).reported = false ∧ t.flag (Reg.seqStat u.val) 30 = false ∧
        (va ≠ 0 → t.reg64 (Reg.seqFetch u.val) = va) ∧
        ∀ a, a ≠ Reg.seqFetch u.val → a ≠ Reg.seqFetch u.val + 4 → a ≠ Reg.seqStat u.val → t.reg a = s.reg a) ∧
      (640 ≤ u.val → (t.mill (u.val - 640)).stream = decide (va ≠ 0) ∧ (t.mill (u.val - 640)).buf = [] ∧
        (t.mill (u.val - 640)).fetch = va ∧ (t.mill (u.val - 640)).ended = false ∧ t.flag (Reg.millStat (u.val - 640)) 30 = false ∧
        ∀ a, a ≠ Reg.millStat (u.val - 640) → t.reg a = s.reg a) ∧
      t.mem = s.mem ∧ Quiet s t) ∧ (
  ∀ (u : Fin 648) (s : State),
    let goesOn := fun (va : Nat) (first : Bool) => ∀ i < 16, (∃ v, s.vread (va + 64 * i) 64 = .ok v) ∧
      ((va + 64 * i) % 65536 = 0 → (i = 0 ∧ first = true) ∨ s.contPage (va + 64 * i) = true)
    let read := fun (va : Nat) (recs : List (Nat × BitVec 512)) => recs.length ≤ 16 ∧
      ∀ i (q : i < recs.length), recs[i].1 = va + 64 * i ∧ s.vread recs[i].1 64 = .ok recs[i].2.toNat
    (∀ h : Nat, u.val = h → h < 640 → s.canFetch h = true → (s.hand h).detour = none → s.reg64 (Reg.seqFetch h) < 2 ^ 48 →
      let va := s.reg64 (Reg.seqFetch h)
      let first := (s.hand h).buf.isEmpty
      (goesOn va first ∨ (s.fetchFrom 16 va first).2 = .ok) →
      Does (.streamFetch u) s fun t => ∃ recs : List (Nat × BitVec 512), read va recs ∧ (goesOn va first → recs.length = 16) ∧
        (t.hand h).buf = (s.hand h).buf ++ recs ∧ t.reg64 (Reg.seqFetch h) = va + 64 * recs.length ∧ t.mem = s.mem ∧
        MemFrame (SeqRegs h) (· = h) Nothing Nothing s t ∧ Calm s t) ∧
    (∀ (h : Nat) (d : Detour), u.val = h → h < 640 → s.canFetch h = true → (s.hand h).detour = some d →
      (s.fetchFrom (min 16 d.toFetch) d.va d.buf.isEmpty).2 = .ok →
      Does (.streamFetch u) s fun t => ∃ (recs : List (Nat × BitVec 512)) (e : Detour), read d.va recs ∧ recs.length ≤ d.toFetch ∧
        (t.hand h).detour = some e ∧ e.buf = d.buf ++ recs ∧ e.va = d.va + 64 * recs.length ∧
        e.toFetch = d.toFetch - recs.length ∧ e.left = d.left ∧ (t.hand h).buf = (s.hand h).buf ∧ t.mem = s.mem ∧
        MemFrame Nothing (· = h) Nothing Nothing s t ∧ Calm s t) ∧
    (∀ m : Nat, u.val = 640 + m → s.millCanFetch m = true →
      let va := (s.mill m).fetch
      let first := (s.mill m).buf.isEmpty
      (goesOn va first ∨ (s.fetchFrom 16 va first).2 = .ok) →
      Does (.streamFetch u) s fun t => ∃ recs : List (Nat × BitVec 512), read va recs ∧ (goesOn va first → recs.length = 16) ∧
        (t.mill m).buf = (s.mill m).buf ++ recs ∧ (t.mill m).fetch = va + 64 * recs.length ∧ t.mem = s.mem ∧
        MemFrame Nothing Nothing Nothing (· = m) s t ∧ Calm s t))

/-- R56, R70: a well-formed record of a station enters the back of the queue of its station, which holds 32 records; a
malformed record stops the dispatch of its hand, sets BADREC, is reported with its address, and rings the package Bell; so does one
whose tensor-table entry may not be read, as a page fault (R303). -/
def Obligations.DispatchQueuesOrStops : Prop :=
  ∀ (h : HandIx) (s : State) (va : Nat) (r : BitVec 512), s.nextRecord h.val = some (va, r) → s.seqRuns h.val = true →
    (Record.station r ≠ 9 → s.recordOk h.val r = true →
      (s.queue (Record.station r) (s.queueUnit h.val r)).length < 32 → Does (.recordDispatch h) s fun t =>
        (∃ c : Cmd, c.r = r ∧ c.va = va ∧ c.begun = false ∧ c.complete = false ∧
          t.queue (Record.station r) (s.queueUnit h.val r) = s.queue (Record.station r) (s.queueUnit h.val r) ++ [c]) ∧
        ((s.hand h.val).detour = none → (t.hand h.val).buf = (s.hand h.val).buf.drop 1) ∧
        MemFrame Nothing (· = h.val) (fun k => Record.station r ≤ 5 ∧ k = s.queueUnit h.val r) Nothing s t ∧ t.mem = s.mem ∧
        Calm s t) ∧
    (s.recordOk h.val r = false → (s.hand h.val).seqBegun = false →
      (s.entryFault (recordTids r) = none → Does (.recordDispatch h) s fun t =>
        t.seqRuns h.val = false ∧ t.flag (Reg.seqStat h.val) 28 = true ∧ Notice.badRec h.val va ∈ t.recov.notices ∧
        t.bell.cuts ≠ [] ∧ t.mem = s.mem) ∧
      (∀ a k p, s.entryFault (recordTids r) = some (.fault a k p) → Does (.recordDispatch h) s fun t =>
        t.seqRuns h.val = false ∧ t.flag (Reg.fstat h.val) 31 = true ∧ Notice.pageFault h.val a ∈ t.recov.notices ∧
        t.bell.cuts ≠ [] ∧ t.mem = s.mem))

/-- R377, R71: a detour that has reached its sequencer, with no answer awaited and no HOLD in force, makes the sequencer turn to the detour's
records; and once the hang watch has seen no commit for HANG_LIMIT ms, STALL is set and reported to the reeve, and a test that passes is reported to the runtime. -/
def Obligations.DetourAndStall : Prop :=
  (∀ (h : HandIx) (s : State) (p : Packet) (va n g tag : Nat),
    (s.net.find? fun p => p.arrived && p.dest.toNat == epHand h.val 25 && (match p.msg with | .detour .. => true | _ => false)) = some p →
    p.msg = .detour va n g tag → (s.hand h.val).detour = none → (s.hand h.val).waitAck = [] → (s.hand h.val).held = none → Does (.detour h) s fun t =>
      (∃ d, (t.hand h.val).detour = some d ∧ d.va = va ∧ d.toFetch = n ∧ d.left = n ∧ d.buf = []) ∧
      (t.hand h.val).buf = (s.hand h.val).buf ∧ t.net = s.net.erase p ∧ t.recov = s.recov ∧
      Frame Nothing (· = h.val) Nothing Nothing s t) ∧
  (∀ (h : HandIx) (fail : Nat) (s : State), s.job.run = true → s.flag (Reg.seqCtl h.val) 0 = true →
    s.flag (Reg.seqStat h.val) 27 = false → s.handBusy h.val = true → s.handStopped h.val = false →
    (s.hand h.val).lastCommit + max 1 (s.field (Reg.seqCtl h.val) 8 16) * 1000000 ≤ s.now h.val → Does (.stall h fail) s fun t =>
      t.flag (Reg.seqStat h.val) 27 = true ∧ Notice.stall h.val ∈ t.recov.notices ∧
      (fail = 0 → Notice.stallPassed h.val ∈ t.recov.notices) ∧ Frame (· = Reg.seqStat h.val) Nothing Nothing Nothing s t)

/-! ## The stations of a core (chapters 2, 4, 5 and 9) -/

/-- R56, R76: a record of LOAD, CUBE, DRAIN, STORE, PIVOT or XCHG begins when its waits hold, and not before; an access that R301 forbids
stops it first, which is no form of its begin. The next record of a core's station begins as soon as its waits hold and the one before it
has issued all its input reads. -/
def Obligations.StationRecordBegins : Prop :=
  (∀ (k : CoreIx) (s : State) (i : Nat) (c : Cmd),
    ∀ x ∈ ([(.loadTiles k, 1, 1), (.gather k, 1, 2), (.mma k, 2, 1), (.elem k, 2, 2), (.drain k, 3, 1), (.discard k, 3, 2),
        (.storeTiles k, 5, 1), (.scatter k, 5, 2), (.reseal k, 5, 3)] : List (Instr × Nat × Nat)),
      AtWork s x.2.1 k.val x.2.2 i c →
      (∀ ver, c.begun = false → BeginsFreely s x.2.1 k.val c ver → Does x.1 s fun t =>
          (∃ c', t.active x.2.1 k.val = some (i, c') ∧ c'.begun = true ∧ c'.r = c.r ∧ c'.out = c.out ∧ c'.ver = ver) ∧
          MemFrame (· = Reg.handLost (k.val / 17)) (· = k.val / 17) (· = k.val) Nothing s t ∧ t.mem = s.mem ∧ Calm s t) ∧
      (∀ n ver, s.nextUp x.2.1 k.val x.2.2 i c = some n → BeginsFreely s x.2.1 k.val n ver → Does x.1 s fun t =>
          (∃ n', (t.queue x.2.1 k.val)[i + 1]? = some n' ∧ n'.begun = true ∧ n'.r = n.r ∧ n'.ver = ver) ∧
          t.active x.2.1 k.val = some (i, c) ∧
          MemFrame (· = Reg.handLost (k.val / 17)) (· = k.val / 17) (· = k.val) Nothing s t ∧ t.mem = s.mem ∧ Calm s t) ∧
      (c.begun = false → s.mayBegin x.2.1 k.val c.r = false → Does x.1 s fun t => t = s)) ∧
  (∀ (h : HandIx) (s : State) (c : Cmd), ∀ x ∈ ([(.solve h, 6, 1), (.grad h, 6, 2), (.coll h, 7, 1)] : List (Instr × Nat × Nat)),
    AtWork s x.2.1 h.val x.2.2 0 c → c.begun = false → ∀ ver, BeginsFreely s x.2.1 h.val c ver → Does x.1 s fun t =>
        (∃ c', t.active x.2.1 h.val = some (0, c') ∧ c'.begun = true ∧ c'.r = c.r ∧ c'.tBegin = s.now h.val) ∧
        MemFrame (· = Reg.handLost h.val) (· = h.val) Nothing Nothing s t ∧ t.mem = s.mem ∧ Calm s t)

/-- R307: LOAD TILES moves each tile of its extent, checked and unchanged, into the destination port or slot, and counts the
bytes it read.
R308: once its index tiles have arrived, a GATHER writes output tiles whose elements are the source elements at its
indices, in order; an index beyond the source gives 0 and sets OUT_RANGE, the skip index gives 0. -/
def Obligations.LoadAndGather : Prop :=
  (
  ∀ (k : CoreIx) (s s1 : State) (i : Nat) (c c1 : Cmd) (x : Tile), Works s 1 k.val 1 i c →
    (Record.desc c.r 0).kind = 1 → s.canPut k.val (Record.desc c.r 2) = true →
    TileComes s 1 k.val i c 0 c.out s1 c1 x → Does (.loadTiles k) s fun t =>
      outputTile (s1.core k.val) (t.core k.val) (Record.desc c.r 2) c.out = x ∧
      ((Record.desc c.r 2).kind = 2 → ((t.core k.val).port (Record.desc c.r 2).port).count =
        ((s1.core k.val).port (Record.desc c.r 2).port).count + 1) ∧
      t.reg64 (Reg.ldbytes k.val) = (s1.reg64 (Reg.ldbytes k.val) + 32 + (min 4096 x.head.bytes + 127) / 128 * 128) % 2 ^ 64 ∧
      Advanced t 1 k.val i c (Record.desc c.r 2).count ∧ t.mem = s.mem ∧ Calm s t ∧
      MemFrame (fun a => a = Reg.ldbytes k.val ∨ a = Reg.ldbytes k.val + 4 ∨ a = Reg.refetch (k.val / 17) ∨
        a = Reg.handLost (k.val / 17)) (· = k.val / 17) (· = k.val) Nothing s t) ∧ (
  ∀ (k : CoreIx) (s : State) (i : Nat) (c : Cmd), Works s 1 k.val 2 i c →
    let d := Record.desc c.r 2
    let e := s.entry (Record.desc c.r 1).tid
    let size := fmtSize (Entry.fmt e)
    let ixs := c.a.buf.flatMap tileIndices
    let mine := (ixs.drop (c.out * (4096 / size))).take (4096 / size)
    (Record.desc c.r 0).count ≤ c.a.got → d.count = (ixs.length + 4096 / size - 1) / (4096 / size) →
    (c.out = 0 → s.indexFault .read e ixs = none) → s.canPut k.val d = true → s.noContext 1 k.val = false →
    (∀ x ∈ ixs, s.elemWay (k.val / 17) e x = true) → Does (.gather k) s fun t =>
      (∀ j (q : j < mine.length), payElem (outputTile (s.core k.val) (t.core k.val) d c.out).pay size j =
        (if mine[j] = 0xFFFFFFFF then 0
         else match elemVa e mine[j] with
          | none => 0
          | some va => match s.vread va size with
            | .ok v => v
            | .poison => nanFmt (Entry.fmt e)
            | .fault .. => 0)) ∧
      (t.flag (Reg.loadStat k.val) 29 = true ↔ s.flag (Reg.loadStat k.val) 29 = true ∨
        ∃ x ∈ mine, x ≠ 0xFFFFFFFF ∧ elemVa e x = none) ∧
      Advanced t 1 k.val i c d.count ∧ t.mem = s.mem ∧ Calm s t ∧
      MemFrame (fun a => a = Reg.ldbytes k.val ∨ a = Reg.ldbytes k.val + 4 ∨ a = Reg.loadStat k.val ∨
        ∃ j, a = Reg.narrow j ∨ a = Reg.narrow j + 4) Nothing (· = k.val) Nothing s t)

/-- R135, R137, R141: an MMA or ELEM that opens a group takes the group's tally tiles, cleared, all at once; with its tiles
there it issues one block at a time, each block that holds a valid element once, and is complete after the last. -/
def Obligations.CubeIssuesBlocks : Prop :=
  ∀ (k : CoreIx) (s : State) (i : Nat) (c : Cmd), ∀ y ∈ ([(.mma k, 1), (.elem k, 2)] : List (Instr × Nat)),
    Works s 2 k.val y.2 i c →
    (∀ k1, bit (Record.arg c.r) 30 = true → c.out = 0 → (s.core k.val).openGroup (groupDecl c.r) = some k1 →
      Does y.1 s fun t => ∃ g, (t.core k.val).grp = some g ∧ g.wide = bit (Record.arg c.r) 31 ∧
        g.br = Record.argBits c.r 25 3 ∧ g.bc = Record.argBits c.r 22 3 ∧ g.first = (s.core k.val).ringNext ∧
        (∀ e ∈ (t.core k.val).tally, e.1 / 1024 ∉ g.tiles) ∧ (∀ a ∈ g.tiles, a ∉ (s.core k.val).busyTiles) ∧
        Frame Nothing Nothing (· = k.val) Nothing s t ∧ Quiet s t) ∧
    (∀ x g, (bit (Record.arg c.r) 30 = false ∨ c.out ≠ 0) → s.arriveTile 2 k.val i c 0 false = .wait →
      s.arriveTile 2 k.val i c 1 false = .wait → c.shape = some x → (s.core k.val).grp = some g → 0 < s.duty k.val →
      x.ready c ≠ [] → Does y.1 s fun t => ∃ n c', n < x.total ∧ n ∉ c.steps ∧ x.off n = false ∧ (∀ a ∈ x.tilesA n, a < c.a.got) ∧
        (∀ b ∈ x.tilesB n, b < c.b.got) ∧ (t.queue 2 k.val)[i]? = some c' ∧ c'.r = c.r ∧ c'.steps = n :: c.steps ∧
        c'.complete = x.over c' ∧
        (t.core k.val).tally =
          (x.issue (s.heldTile k.val c 0) (s.heldTile k.val c 1) n g ((s.spend.cubeWork k.val).core k.val)).1.tally ∧
        t.reg64 (Reg.ops k.val x.cls) = (s.reg64 (Reg.ops k.val x.cls) + (if x.mma then 2 else 1) *
          (x.issue (s.heldTile k.val c 0) (s.heldTile k.val c 1) n g ((s.spend.cubeWork k.val).core k.val)).2.2) % 2 ^ 64 ∧
        t.recov = s.recov ∧ Frame (fun a => a = Reg.ops k.val x.cls ∨ a = Reg.ops k.val x.cls + 4 ∨ a = Reg.cubeStat k.val ∨
          a = Reg.gapfill k.val) Nothing (· = k.val) Nothing s t)

/-- R110, R150, R153, R155, R156, R162: with its scales read and its destination free, DRAIN writes one output tile of the oldest
handed-over group; on the plain path each valid element is the tally's value times sA * sB / sC under the
activation, rounded once into the output format; with a second stream, whose tile has come, it is that of the fused path. DISCARD returns the group's tally credits and writes nothing. -/
def Obligations.DrainWritesTile : Prop :=
  ∀ (k : CoreIx) (s : State) (i : Nat) (c : Cmd) (g : Group) (gs : List Group), (s.core k.val).handed = g :: gs →
    (Works s 3 k.val 1 i c → c.scales ≠ [] →
      let a := DrainArg.of c.r
      let d := Record.desc c.r 2
      s.canPut k.val d = true → a.second = false → Does (.drain k) s fun t =>
        Advanced t 3 k.val i c d.count ∧ t.reg (Reg.drtiles k.val) = s.reg (Reg.drtiles k.val) + 1 ∧
        (t.core k.val).handed = (if c.out + 1 = d.count then gs else g :: gs) ∧ Quiet s t ∧
        Frame (fun a => a = Reg.drainStat k.val ∨ a = Reg.drtiles k.val) Nothing (· = k.val) Nothing s t ∧
        (a.plain = true → a.sumsq = false → (∀ j < 3, scaleOk (c.scales.getD j 0) = true) →
          ∀ r cc, r < (drainValid g a.ofmt (d.relPos c.out).1 (d.relPos c.out).2).1 →
            cc < (drainValid g a.ofmt (d.relPos c.out).1 (d.relPos c.out).2).2 →
            (outputTile (s.core k.val) (t.core k.val) d c.out).elem a.ofmt r cc =
              (drainPlain a (scaleFactor (c.scales.getD 0 0) (c.scales.getD 1 0) (c.scales.getD 2 0))
                ((PMap.get {} (s.core k.val).tally (cellKey (g.place ((d.relPos c.out).1 * fmtRows a.ofmt + r)
                  ((d.relPos c.out).2 * fmtCols a.ofmt + cc)))).value (wordFmt g.wide))).1 % 2 ^ (8 * fmtSize a.ofmt))) ∧
    (∀ s1 c1 x, Works s 3 k.val 1 i c → 3 < c.scales.length →
      let a := DrainArg.of c.r
      let d := Record.desc c.r 2
      let q := d.relPos c.out
      s.canPut k.val d = true → a.second = true → TileComes s 3 k.val i c 0 c.out s1 c1 x → Does (.drain k) s fun t =>
        Advanced t 3 k.val i c d.count ∧ t.reg (Reg.drtiles k.val) = s.reg (Reg.drtiles k.val) + 1 ∧
        (t.core k.val).handed = (if c.out + 1 = d.count then gs else g :: gs) ∧ t.mem = s.mem ∧
        (a.sumsq = false → (∀ j < 4, scaleOk (c.scales.getD j 0) = true) →
          ∀ r cc, r < (drainValid g a.ofmt q.1 q.2).1 → cc < (drainValid g a.ofmt q.1 q.2).2 →
            let x2 := round64 ((decodeFmt x.head.fmt (x.elem x.head.fmt r cc)).mul (v32 (c.scales.getD 3 0)))
            (outputTile (s1.core k.val) (t.core k.val) d c.out).elem a.ofmt r cc =
              (drainFused a ((v32 (c.scales.getD 0 0)).mul (v32 (c.scales.getD 1 0))).1 (v32 (c.scales.getD 2 0))
                ((PMap.get {} (s.core k.val).tally (cellKey (g.place (q.1 * fmtRows a.ofmt + r)
                  (q.2 * fmtCols a.ofmt + cc)))).value (wordFmt g.wide)) x2.1 x2.2).1 % 2 ^ (8 * fmtSize a.ofmt))) ∧
    (Works s 3 k.val 2 i c → Does (.discard k) s fun t =>
      (t.core k.val).handed = gs ∧ (∀ x ∈ g.tiles, x ∈ (s.core k.val).drained ∨ x ∈ (t.core k.val).tallyRet) ∧
      (∃ c', (t.queue 3 k.val)[i]? = some c' ∧ c'.r = c.r ∧ c'.complete = true) ∧ (t.core k.val).slots = (s.core k.val).slots ∧
      (t.core k.val).ports = (s.core k.val).ports ∧ Frame Nothing Nothing (· = k.val) Nothing s t ∧ Quiet s t)

/-- R311: STORE TILES writes a tile's header, and the payload bytes that its BYTES counts, to the tile's place in the
destination tensor, with the partner copies of both, and no other byte.
R59, R60, R311: a STORE whose destination is a remote P8 spends one of its unit's credits for that core on each tile and
sends the tile; without a credit it waits. -/
def Obligations.StoreWritesAndSends : Prop :=
  (
  ∀ (k : CoreIx) (s s1 : State) (i : Nat) (c c1 : Cmd) (x : Tile) (hpa ppa : Nat) (hp pp : Bool), Safe s →
    Works s 5 k.val 1 i c → (Record.desc c.r 2).kind ≠ 3 → TileComes s 5 k.val i c 0 c.out s1 c1 x →
    let va := s1.tileVa (Record.desc c.r 2) 256 c.out
    let n := min 4096 x.head.bytes
    s1.noContext 5 k.val = false → s1.wayTo (k.val / 17) va.1 = true → s1.wayTo (k.val / 17) va.2 = true →
    s1.accFault .write va.2 = none → s1.translate va.1 .write = .ok hpa hp →
    (s1.storeVa (k.val / 17) (Record.desc c.r 2).tid va.1 hpa hp 32 x.hdr.toNat).translate va.2 .write = .ok ppa pp →
    Does (.storeTiles k) s fun t =>
      Memory.read t.mem ppa n = x.pay.toNat % 256 ^ n ∧
      ((hpa + 32 ≤ ppa ∨ ppa + n ≤ hpa) → (pp = false ∨ hpa + 32 ≤ partnerPa ppa ∨ partnerPa ppa + n ≤ hpa) →
        Memory.read t.mem hpa 32 = x.hdr.toNat) ∧
      (∀ a, (a < hpa ∨ hpa + 32 ≤ a) → (hp = false ∨ a < partnerPa hpa ∨ partnerPa hpa + 32 ≤ a) →
        (a < ppa ∨ ppa + n ≤ a) → (pp = false ∨ a < partnerPa ppa ∨ partnerPa ppa + n ≤ a) →
        Memory.byte t.mem a = Memory.byte s.mem a) ∧
      t.reg64 (Reg.stbytes k.val) = (s1.reg64 (Reg.stbytes k.val) + 32 + n) % 2 ^ 64 ∧
      Advanced t 5 k.val i c (Record.desc c.r 0).count ∧
      MemFrame (fun a => a = Reg.stbytes k.val ∨ a = Reg.stbytes k.val + 4 ∨ a = Reg.refetch (k.val / 17) ∨
        a = Reg.handLost (k.val / 17)) (· = k.val / 17) (· = k.val) Nothing s t) ∧ (
  ∀ (k : CoreIx) (s s1 : State) (i kd : Nat) (c c1 : Cmd) (x : Tile),
    Works s 5 k.val 1 i c → (Record.desc c.r 2).kind = 3 → epToCore (Record.desc c.r 2).dest = some kd →
    TileComes s 5 k.val i c 0 c.out s1 c1 x →
    let held := PMap.get 0 (s.hand (k.val / 17)).p8held (p8Key (k.val % 17) kd)
    (0 < held → Does (.storeTiles k) s fun t =>
      (∃ p ∈ t.net, p.msg = .p8tile x ∧ p.dest.toNat = (Record.desc c.r 2).dest ∧ p.src.toNat = epCore k.val ∧ p.pos = k.val / 17) ∧
      PMap.get 0 (t.hand (k.val / 17)).p8held (p8Key (k.val % 17) kd) = held - 1 ∧
      (∃ c', (t.queue 5 k.val)[i]? = some c' ∧ c'.acks = c.acks + 1) ∧
      Advanced t 5 k.val i c (Record.desc c.r 0).count ∧ t.mem = s.mem) ∧
    (held = 0 → Does (.storeTiles k) s fun t =>
      (∃ c', (t.queue 5 k.val)[i]? = some c' ∧ c'.out = c.out ∧ c'.acks = c.acks ∧ c'.complete = false) ∧
      (t.hand (k.val / 17)).p8held = (s.hand (k.val / 17)).p8held ∧ t.mem = s.mem))

/-- R312: a SCATTER applies each data element to the element at its index by one atomic of its operation; an element whose index
is the skip index touches nothing.
R313: RESEAL rewrites the header of a tile with the CRC of its payload and the HCHK of the new header, every other
field kept, and leaves the payload as it is. -/
def Obligations.ScatterAndReseal : Prop :=
  (
  ∀ (k : CoreIx) (s s1 : State) (i : Nat) (c c1 : Cmd) (x : Tile), Safe s → Works s 5 k.val 2 i c →
    let e := s.entry (Record.desc c.r 2).tid
    let size := fmtSize (Entry.fmt e)
    (Record.desc c.r 1).count ≤ c.b.got →
    (c.out = 0 → s.indexFault .atomic e ((s.scatterIxs k.val c).take ((Record.desc c.r 0).count * (4096 / size))) = none) →
    s.noContext 5 k.val = false → (∀ y ∈ s.scatterIxs k.val c, s.elemWay (k.val / 17) e y = true) →
    TileComes s 5 k.val i c 0 c.out s1 c1 x →
    let pairs := List.zip (((s.scatterIxs k.val c).drop (c.out * (4096 / size))).take (4096 / size)) (payElems size x.pay)
    ((∀ p ∈ pairs, p.1 = 0xFFFFFFFF) → Does (.scatter k) s fun t =>
      t.mem = s.mem ∧ Advanced t 5 k.val i c (Record.desc c.r 0).count) ∧
    (∀ l l' ix v va pa, pairs = l ++ (ix, v) :: l' → (∀ p ∈ l ++ l', p.1 = 0xFFFFFFFF) → ix ≠ 0xFFFFFFFF →
      elemVa e ix = some va → s1.translate va .atomic = .ok pa false → s1.poisonIn pa size = false → Does (.scatter k) s fun t =>
        Memory.read t.mem pa size =
          (atomicFp (Record.argBits c.r 0 2) (Entry.fmt e) (Memory.read s.mem pa size) v).1 % 256 ^ size ∧
        (∀ a, a < pa ∨ pa + size ≤ a → Memory.byte t.mem a = Memory.byte s.mem a) ∧
        Advanced t 5 k.val i c (Record.desc c.r 0).count)) ∧ (
  ∀ (k : CoreIx) (s : State) (i : Nat) (c : Cmd) (x : Tile) (pa : Nat), Safe s → Works s 5 k.val 3 i c →
    let d := Record.desc c.r 2
    let va := s.tileVa d 256 c.out
    s.noContext 5 k.val = false → s.wayTo (k.val / 17) va.1 = true → s.wayTo (k.val / 17) va.2 = true →
    s.readTile va.1 va.2 = .ok x → x.headSound = true →
    (s.seenTile (k.val / 17) d.tid va.1 va.2).translate va.1 .write = .ok pa false → Does (.reseal k) s fun t =>
      let h := Memory.read t.mem pa 32
      bits h 0 128 = bits x.hdr.toNat 0 128 ∧ bits h 128 32 = crc32c (toBytes 4096 x.pay.toNat) ∧
      bits h 160 80 = bits x.hdr.toNat 160 80 ∧ bits h 240 16 = hchkOf (bits h 0 240) ∧
      (∀ a, a < pa ∨ pa + 32 ≤ a → Memory.byte t.mem a = Memory.byte s.mem a) ∧
      Advanced t 5 k.val i c d.count ∧ Calm s t ∧
      MemFrame (fun a => a = Reg.stbytes k.val ∨ a = Reg.stbytes k.val + 4) Nothing (· = k.val) Nothing s t)

/-- R52 to R54: a tile that fails its checks is fetched again once if it comes from memory, counted where that succeeds; a tile
of a port or a resident slot escalates at once: the station stops, CRCFAIL is set and a TILE_CRC record of severity fence
goes to the hand's reeve. A tile that passes is taken. A tile of memory is asked for first, as many of its lines as contexts of the core
are free (R333). -/
def Obligations.TileCheckTakesOrEscalates : Prop :=
  ∀ (k : CoreIx) (s : State) (st o i : Nat) (c : Cmd), 1 ≤ st → st ≤ 5 → o ≤ 1 → s.active st k.val = some (i, c) →
    s.stRuns st k.val = true → c.begun = true → inputOperand st (Record.opcode c.r) o = true →
    (∀ b ls, s.arrive st k.val c o (wideFmt st c.r o) (s.extra st c o) b = .ask ls → s.noContext st k.val = false →
      Does (.tileCheck k st o b) s fun t => (∃ c', t.active st k.val = some (i, c') ∧ c'.r = c.r ∧ (c'.flow o).got = (c.flow o).got ∧
        (c'.flow o).req = ls.take (48 - (s.core k.val).requests.length)) ∧ Frame Nothing Nothing (· = k.val) Nothing s t ∧ Quiet s t) ∧
    (∀ b s1 c1, s.arriveTile st k.val i c o b = .ok s1 c1 → Does (.tileCheck k st o b) s fun t =>
      t.active st k.val = some (i, c1) ∧ (c1.flow o).got = (c.flow o).got + 1 ∧ (c1.flow o).req = [] ∧ t.mem = s.mem ∧ Calm s t ∧
      MemFrame (fun a => a = Reg.refetch (k.val / 17) ∨ a = Reg.handLost (k.val / 17)) (· = k.val / 17) (· = k.val) Nothing s t) ∧
    (∀ x, (Record.desc c.r o).kind = 4 → (c.flow o).got < (Record.desc c.r o).count →
      x = (s.core k.val).slot ((Record.desc c.r o).row0 + (c.flow o).got) → x.headSound = true → s.extra st c o x.head = none →
      (s.expect c o (c.flow o).got (wideFmt st c.r o)).meets x.head = true → Does (.tileCheck k st o true) s fun t =>
        t.stHalted st k.val = true ∧ t.flag (Reg.seqStat (k.val / 17)) 26 = true ∧
        (∃ r detail, t.recov.flight = s.recov.flight ++ [(r, faultWord (s.now (k.val / 17)) 2 0x01 (epCore k.val) detail)] ∧
          bits detail 24 24 = x.head.tid ∧ bits detail 20 4 = st ∧ bits detail 18 2 = 0 ∧ bits detail 17 1 = 0 ∧
          bits detail 0 17 = Record.serial c.r % 2 ^ 17) ∧ t.mem = s.mem)

/-- R77, R275: a command whose outputs are complete, with every remote tile acknowledged, commits once: its increments are added to its
hand's or Mill's counters, it leaves the queue, and the hang watch starts anew. An UPDATE adds its sums to its telemetry entry at
its commit. -/
def Obligations.CommandCommits : Prop :=
  (∀ (ep : BitVec 16) (st : BitVec 4) (b : Bool) (s : State) (u : Nat) (c : Cmd) (q : List Cmd), 1 ≤ st.toNat → st.toNat ≤ 7 →
    stationUnit ep.toNat st.toNat = some u → s.queue st.toNat u = c :: q → c.complete = true → c.acks = 0 →
    s.handStopped (handOf st.toNat u) = false →
    Does (.commandCommit ep st b) s fun t =>
      (∀ n < 64, t.evc (handOf st.toNat u) n = s.evc (handOf st.toNat u) n + incsOf c.r n) ∧
      t.queue st.toNat u = q ∧ (t.hand (handOf st.toNat u)).lastCommit = s.now (handOf st.toNat u) ∧
      (st.toNat = 2 → bit (Record.arg c.r) 29 = false → (t.core u).handed = (s.core u).handed ++ (s.core u).closing.take 1) ∧
      Frame (fun a => (∃ n < 64, a = Reg.evc (handOf st.toNat u) n) ∨ a = Reg.handLost (handOf st.toNat u))
        (· = handOf st.toNat u) (fun k => st.toNat ≤ 5 ∧ k = u) Nothing s t) ∧
  (∀ (ep : BitVec 16) (b : Bool) (s : State) (m : Nat) (c : Cmd) (q : List Cmd), epToMill ep.toNat = some m → (s.mill m).q = c :: q →
    c.complete = true → c.acks = 0 → (s.mill m).broken = false → s.millStopped m = false →
    let commits := fun (s1 t : State) => (t.mill m).q = q ∧ (t.mill m).lastCommit = s.now (640 + m) ∧
      (∀ n < 64, t.millEvc m n = s.millEvc m n + incsOf c.r n) ∧ t.mem = s1.mem
    (Record.opcode c.r ≠ 1 → Does (.commandCommit ep 8 b) s fun t => commits s t ∧ Quiet s t ∧
      Frame (fun a => ∃ n < 64, a = Reg.millEvc m n) Nothing Nothing (· = m) s t) ∧
    (∀ s1, Record.opcode c.r = 1 → s.telemetry m c = .ok s1 → boundHit c = false → Does (.commandCommit ep 8 b) s fun t =>
      commits s1 t ∧ Calm s t ∧ MemFrame (fun a => (∃ n < 64, a = Reg.millEvc m n) ∨ a = Reg.millStat m ∨
        ∃ j, a = Reg.atomics j ∨ a = Reg.atomics j + 4) Nothing Nothing (· = m) s t) ∧
    (∀ s1, Record.opcode c.r = 1 → s.telemetry m c = .ok s1 → boundHit c = true → Does (.commandCommit ep 8 b) s fun t =>
      commits s1 t ∧ (t.mill m).halted = true ∧ t.flag (Reg.millStat m) 26 = true ∧
      Notice.bound m (Record.layer c.r) c.va ∈ t.recov.notices ∧ (b = true → t.bell.cuts ≠ [])))

/-- R59, R162, R164 to R166, R583: a credit on its way reaches its producer; a gap that has lasted GAP_FILL cycles starts the ramp-down; each
step changes the duty by one eighth: up while there is work, down in a ramp-down or towards a lower cap, and not at all in a gap before its
ramp-down. -/
def Obligations.CreditsAndDuty : Prop :=
  ∀ (k : CoreIx) (s : State),
    (∀ p < 8, 0 < ((s.core k.val).port p).returning → Does (.creditReturn k p) s fun t =>
      ((t.core k.val).port p).credits = ((s.core k.val).port p).credits + 1 ∧
      ((t.core k.val).port p).returning = ((s.core k.val).port p).returning - 1 ∧
      ((t.core k.val).port p).count = ((s.core k.val).port p).count ∧ Frame Nothing Nothing (· = k.val) Nothing s t ∧ Quiet s t) ∧
    (∀ x l, (s.core k.val).tallyRet = x :: l → Does (.creditReturn k 9) s fun t =>
      (t.core k.val).tallyRet = l ∧ Frame Nothing Nothing (· = k.val) Nothing s t ∧ Quiet s t) ∧
    (s.filling k.val = true → (s.core k.val).ramp ≠ 2 → Does (.gapFillEnd k) s fun t =>
      (t.core k.val).ramp = 2 ∧ t.duty k.val = s.duty k.val ∧
      t.reg (Reg.gapfill k.val) = s.reg (Reg.gapfill k.val) + BitVec.ofNat 32 (s.gapFill k.val * s.duty k.val / 8) ∧
      Frame (· = Reg.gapfill k.val) Nothing (· = k.val) Nothing s t ∧ Quiet s t) ∧
    (s.cubeReady k.val = [] → 0 < s.duty k.val → (s.core k.val).ramp = 2 → Does (.dutyStep k) s fun t =>
      t.duty k.val = s.duty k.val - 1 ∧ (s.duty k.val = 1 → (t.core k.val).ramp = 0) ∧
      Frame (fun a => a = Reg.gapfill k.val ∨ a = Reg.cubeStat k.val) Nothing (· = k.val) Nothing s t ∧ Quiet s t) ∧
    (s.cubeReady k.val ≠ [] → s.duty k.val < s.dutyTop k.val → Does (.dutyStep k) s fun t =>
      t.duty k.val = s.duty k.val + 1 ∧ Frame (· = Reg.cubeStat k.val) Nothing (· = k.val) Nothing s t ∧ Quiet s t) ∧
    (s.dutyTop k.val < s.duty k.val → (s.cubeReady k.val ≠ [] ∨ (s.core k.val).ramp ≠ 2) → Does (.dutyStep k) s fun t =>
      t.duty k.val = s.duty k.val - 1 ∧ Frame (· = Reg.cubeStat k.val) Nothing (· = k.val) Nothing s t ∧ Quiet s t) ∧
    (s.cubeReady k.val = [] → (s.core k.val).ramp ≠ 2 → s.duty k.val ≤ s.dutyTop k.val → Does (.dutyStep k) s fun t => t = s)

/-! ## The vector unit and its kernels (chapter 5) -/

/-- R180, R190, R191: RUN: a waiting RUN record wakes a napping unit; on a unit that is awake it begins with its registers, VL and type
cleared and the kernel's pc at ENTRY; and each step starts, once its tiles are there, with them in W0 and W1, with x1 to x3 preset and
the kernel's pc at ENTRY. NAP powers down a unit that runs nothing and whose next record may not begin; at WAKE_END the unit is awake
and counted, and the record that waited begins.
R181: VEND ends a step: when an output is due, the output tile is written with the output window's elements in its valid
extent, and the command is complete after its last step; where none is due the next step keeps the output window. -/
def Obligations.KernelStepsBeginAndEnd : Prop :=
  (
  ∀ (k : CoreIx) (s : State),
    let seen := fun (t : State) => MemFrame (fun a => a = Reg.refetch (k.val / 17) ∨ a = Reg.handLost (k.val / 17))
      (· = k.val / 17) (· = k.val) Nothing s t ∧ t.mem = s.mem ∧ Calm s t
    let starts := fun (c : Cmd) (n : Kern) (o : Core) (x : Tile) (t : State) =>
      (t.core k.val).xr 1 = n.step % 2 ^ 32 ∧ (t.core k.val).xr 2 = x.head.vrows * x.head.vcols ∧
      (t.core k.val).xr 3 = (if n.step + 1 = (Record.desc c.r 0).count then 1 else 0) ∧ (t.core k.val).vreg = o.vreg ∧
      ∃ n', (t.core k.val).kern = some n' ∧ n'.running = true ∧ n'.w0 = x ∧ n'.pc = Record.argBits c.r 16 10 ∧
        n'.step = n.step ∧ n'.wo = n.wo
    (∀ c ver, AtWork s 4 k.val 1 0 c → c.begun = false → s.napped k.val = false → BeginsFreely s 4 k.val c ver →
      (∃ x, checkTile ((s.core k.val).slot (Record.argBits c.r 26 6)) { tid := 0 } 256 (fun _ => none) false = .good x) →
      Does (.run k) s fun t =>
        (t.core k.val).vreg = 0 ∧ (t.core k.val).vl = 0 ∧ (t.core k.val).et = 0 ∧ (t.core k.val).lg = 0 ∧
        (∀ n, (t.core k.val).xr n = 0) ∧
        (∃ n, (t.core k.val).kern = some n ∧ n.step = 0 ∧ n.pc = Record.argBits c.r 16 10 ∧ n.running = false) ∧ seen t) ∧
    (∀ c, AtWork s 4 k.val 1 0 c → c.begun = false → s.napped k.val = true → s.flag (Reg.vectStat k.val) 29 = false →
      s.mayBegin 4 k.val c.r = true → Does (.run k) s fun t =>
        t.flag (Reg.vectStat k.val) 29 = true ∧ t.napped k.val = true ∧
        Frame (· = Reg.vectStat k.val) Nothing (· = k.val) Nothing s t ∧ Quiet s t) ∧
    (∀ c n s1 c1 x, AtWork s 4 k.val 1 0 c → c.begun = true → (s.core k.val).kern = some n → n.running = false →
      (Record.desc c.r 1).kind = 0 → TileComes s 4 k.val 0 c 0 n.step s1 c1 x → Does (.run k) s fun t =>
        starts c n (s.core k.val) x t ∧ seen t) ∧
    (∀ c n s1 c1 x s2 c2 y, AtWork s 4 k.val 1 0 c → c.begun = true → (s.core k.val).kern = some n → n.running = false →
      (Record.desc c.r 1).kind ≠ 0 → TileComes s 4 k.val 0 c 0 n.step s1 c1 x →
      TileComes s1 4 k.val 0 c1 1 (if bit (Record.arg c.r) 10 then 0 else n.step) s2 c2 y → Does (.run k) s fun t =>
        starts c n (s.core k.val) x t ∧ ((t.core k.val).kern.map fun n' => n'.w1) = some y ∧ seen t) ∧
    (s.flag (Reg.vectCtl k.val) 0 = true → s.napped k.val = false → s.handStopped (k.val / 17) = false →
      (∀ i c, s.active 4 k.val = some (i, c) → c.begun = false ∧ s.mayBegin 4 k.val c.r = false) → Does (.nap k) s fun t =>
        t.napped k.val = true ∧ (t.core k.val).slots = (s.core k.val).slots ∧ (t.core k.val).ports = (s.core k.val).ports ∧
        Frame (· = Reg.vectStat k.val) Nothing (· = k.val) Nothing s t ∧ Quiet s t) ∧
    (∀ i c, s.active 4 k.val = some (i, c) → (c.begun = true ∨ s.mayBegin 4 k.val c.r = true) → Does (.nap k) s fun t => t = s) ∧
    (s.flag (Reg.vectStat k.val) 29 = true → s.handStopped (k.val / 17) = false → s.active 4 k.val = none →
      Does (.wakeEnd k) s fun t =>
        t.napped k.val = false ∧ t.flag (Reg.vectStat k.val) 29 = false ∧
        t.reg (Reg.wakes k.val) = s.reg (Reg.wakes k.val) + 1 ∧
        Frame (fun a => a = Reg.vectStat k.val ∨ a = Reg.wakes k.val) Nothing Nothing Nothing s t ∧ Quiet s t) ∧
    (∀ c ver, s.flag (Reg.vectStat k.val) 29 = true → s.active 4 k.val = some (0, c) → s.stRuns 4 k.val = true →
      c.begun = false → Record.opcode c.r = 2 → BeginsFreely s 4 k.val c ver → Does (.wakeEnd k) s fun t =>
        t.napped k.val = false ∧ t.flag (Reg.vectStat k.val) 29 = false ∧
        t.reg (Reg.wakes k.val) = s.reg (Reg.wakes k.val) + 1 ∧
        (∃ c', t.active 4 k.val = some (0, c') ∧ c'.begun = true ∧ c'.r = c.r) ∧ t.mem = s.mem ∧ Calm s t ∧
        MemFrame (fun a => a = Reg.vectStat k.val ∨ a = Reg.wakes k.val ∨ a = Reg.handLost (k.val / 17)) (· = k.val / 17)
          (· = k.val) Nothing s t)) ∧ (
  ∀ (k : CoreIx) (s : State) (c : Cmd) (n : Kern) (w : KWord), KernelAt s k.val 0 c n w →
    let d := Record.desc c.r 2
    let last := n.step + 1 = (Record.desc c.r 0).count
    ((bit (Record.arg c.r) 11 = false ∨ last) → s.canPut k.val d = true → Does (.vend k) s fun t =>
      outputTile (s.core k.val) (t.core k.val) d c.out = runOutput c.r n (decide last) c.out ∧
      (∀ r cc, r < (runOutput c.r n (decide last) c.out).head.vrows → cc < (runOutput c.r n (decide last) c.out).head.vcols →
        r < fmtRows (Record.argBits c.r 12 4) → cc < fmtCols (Record.argBits c.r 12 4) →
        (outputTile (s.core k.val) (t.core k.val) d c.out).elem (Record.argBits c.r 12 4) r cc =
          payElem n.wo (fmtSize (Record.argBits c.r 12 4)) (r * fmtCols (Record.argBits c.r 12 4) + cc)) ∧
      (last → (t.core k.val).kern = none ∧ ∃ c', (t.queue 4 k.val)[0]? = some c' ∧ c'.complete = true ∧ c'.out = c.out + 1) ∧
      (¬ last → (∃ n', (t.core k.val).kern = some n' ∧ n'.step = n.step + 1 ∧ n'.running = false ∧ n'.wo = 0) ∧
        ∃ c', t.active 4 k.val = some (0, c') ∧ c'.r = c.r ∧ c'.out = c.out + 1) ∧
      Frame Nothing Nothing (· = k.val) Nothing s t ∧ Quiet s t) ∧
    (bit (Record.arg c.r) 11 = true → ¬ last → Does (.vend k) s fun t =>
      (∃ n', (t.core k.val).kern = some n' ∧ n'.step = n.step + 1 ∧ n'.running = false ∧ n'.wo = n.wo) ∧
      (∃ c', t.active 4 k.val = some (0, c') ∧ c'.r = c.r ∧ c'.out = c.out) ∧
      (t.core k.val).slots = (s.core k.val).slots ∧ Frame Nothing Nothing (· = k.val) Nothing s t ∧ Quiet s t))

/-- R184, R185, R172, R173, R175: an arithmetic word computes each active element of vd from the elements of va, vb and the old
vd: a floating-point type rounds the exact result once into its format, an integer type wraps; inactive elements and every
other register keep their values, the sticky flags only grow, and the pc moves to the next word. -/
def Obligations.VectArithmeticWords : Prop :=
  ∀ (k : CoreIx) (s : State) (c : Cmd) (n : Kern) (w : KWord),
    ∀ x ∈ ([(.vadd k, 0x10, 1, .any, fun a b _ => a.add b, fun a b _ => a + b),
        (.vsub k, 0x11, 1, .any, fun a b _ => a.sub b, fun a b _ => a - b),
        (.vmul k, 0x12, 1, .any, fun a b _ => a.mul b, fun a b _ => a * b),
        (.vfma k, 0x13, 2, .any, fun a b d => a.fma b d, fun a b d => a * b + d),
        (.vfms k, 0x14, 2, .any, fun a b d => a.neg.fma b d, fun a b d => d - a * b),
        (.vmin k, 0x15, 1, .any, fun a b _ => minMax false a b, fun a b _ => min a b),
        (.vmax k, 0x16, 1, .any, fun a b _ => minMax true a b, fun a b _ => max a b),
        (.vdiv k, 0x17, 1, .fp, fun a b _ => a.div b, fun a _ _ => a),
        (.vsqrt k, 0x18, 1, .fp, fun a _ _ => a.sqrt, fun a _ _ => a),
        (.vabs k, 0x19, 1, .any, fun a _ _ => (a.abs, a.sigFlag), fun a _ _ => (a.natAbs : Int)),
        (.vneg k, 0x1A, 1, .any, fun a _ _ => (a.neg, a.sigFlag), fun a _ _ => -a)] :
        List (Instr × Nat × Nat × EtRule × (Val → Val → Val → Val × Fl) × (Int → Int → Int → Int))),
      KernelAt s k.val x.2.1 c n w →
      let o := s.core k.val
      let v := o.vreg.toNat
      let e := sew o.et
      x.2.2.2.1.ok o.et = true → grpOk w.vd o.g = true → grpOk w.va o.g = true →
      (x.2.1 ∉ [0x18, 0x19, 0x1A] → grpOk w.vb o.g = true) → (w.m = true → w.vd ≠ 0) → Does x.1 s fun t =>
        (∀ i < o.vl, active1 v w.m i = true → 512 * w.vd + (i + 1) * e ≤ 16384 →
          vget (t.core k.val).vreg.toNat e w.vd i =
            if etFp o.et then
              (etRound o.et (x.2.2.2.2.1 (etVal o.et (vget v e w.va i)) (etVal o.et (vget v e w.vb i))
                (etVal o.et (vget v e w.vd i))).1).1 % 2 ^ e
            else
              (x.2.2.2.2.2 (etInt o.et (vget v e w.va i)) (etInt o.et (vget v e w.vb i))
                (etInt o.et (vget v e w.vd i)) % (2 ^ e : Int)).toNat) ∧
        (∀ j < 16384, Untouched v w.m o.vl e w.vd j → (t.core k.val).vreg.getLsbD j = o.vreg.getLsbD j) ∧
        t.core k.val = { o with vreg := (t.core k.val).vreg, kern := some { n with pc := n.pc + 1 } } ∧
        s.reg (Reg.vectStat k.val) &&& t.reg (Reg.vectStat k.val) = s.reg (Reg.vectStat k.val) ∧
        t.reg64 (Reg.vops k.val) =
          (s.reg64 (Reg.vops k.val) + x.2.2.1 * ((upTo o.vl).filter (active1 v w.m)).length) % 2 ^ 64 ∧
        Frame (KernRegs k.val) Nothing (· = k.val) Nothing s t ∧ Quiet s t

/-- R184, R188, R189: the integer words: AND, OR, XOR, shifts by vb mod SEW (the right shift arithmetic), saturating addition and
subtraction, and the Q products, rounded under RM and saturated. -/
def Obligations.VectIntegerWords : Prop :=
  ∀ (k : CoreIx) (s : State) (c : Cmd) (n : Kern) (w : KWord),
    ∀ x ∈ ([(.vand k, 0x20, .int, fun _ a b _ => a &&& b), (.vor k, 0x21, .int, fun _ a b _ => a ||| b),
        (.vxor k, 0x22, .int, fun _ a b _ => a ^^^ b), (.vshl k, 0x23, .int, fun et a b _ => a <<< (b % sew et)),
        (.vshr k, 0x24, .int, fun et a b _ => wrapInt (sew et) (etInt et a / (2 ^ (b % sew et) : Int))),
        (.vqadd k, 0x28, .int, fun et a b _ => (satInt (sew et) (etInt et a + etInt et b)).1),
        (.vqsub k, 0x29, .int, fun et a b _ => (satInt (sew et) (etInt et a - etInt et b)).1),
        (.vqmul k, 0x2A, .q, fun et a b _ => (satInt (sew et) (qRound w.rm (sew et - 1) (etInt et a * etInt et b))).1),
        (.vqmac k, 0x2B, .q, fun et a b d =>
          (satInt (sew et) (etInt et d + qRound w.rm (sew et - 1) (etInt et a * etInt et b))).1)] :
        List (Instr × Nat × EtRule × (Nat → Nat → Nat → Nat → Nat))),
      KernelAt s k.val x.2.1 c n w →
      let o := s.core k.val
      let v := o.vreg.toNat
      let e := sew o.et
      x.2.2.1.ok o.et = true → grpOk w.vd o.g = true → grpOk w.va o.g = true → grpOk w.vb o.g = true →
      (w.m = true → w.vd ≠ 0) → Does x.1 s fun t =>
        (∀ i < o.vl, active1 v w.m i = true → 512 * w.vd + (i + 1) * e ≤ 16384 →
          vget (t.core k.val).vreg.toNat e w.vd i =
            x.2.2.2 o.et (vget v e w.va i) (vget v e w.vb i) (vget v e w.vd i) % 2 ^ e) ∧
        (∀ j < 16384, Untouched v w.m o.vl e w.vd j → (t.core k.val).vreg.getLsbD j = o.vreg.getLsbD j) ∧
        t.core k.val = { o with vreg := (t.core k.val).vreg, kern := some { n with pc := n.pc + 1 } } ∧
        Frame (KernRegs k.val) Nothing (· = k.val) Nothing s t ∧ Quiet s t

/-- R184, R185, R188: VCVT rounds each active element into the type ET2; VQCVT shifts it right by VB, rounds under RM and
saturates; the destination group has the size that the widths give it.
R175, R184: a compare writes the bit of each active element into v0 and 0 into every other bit of it, and no other
register; VRSUM writes the sum of the active elements of an integer type, modulo 2^SEW, into element 0 of vd; neither changes
anything where VL is 0. -/
def Obligations.VectConvertsComparesAndSums : Prop :=
  (
  ∀ (k : CoreIx) (s : State) (c : Cmd) (n : Kern) (w : KWord),
    ∀ x ∈ ([(.vcvt k, 0x30, fun et a => (etRound w.et2 (etVal et a)).1),
        (.vqcvt k, 0x2C, fun et a => (satInt (sew w.et2) (qRound w.rm w.vb (etInt et a))).1)] :
        List (Instr × Nat × (Nat → Nat → Nat))),
      KernelAt s k.val x.2.1 c n w →
      let o := s.core k.val
      let v := o.vreg.toNat
      let e := sew o.et
      let e2 := sew w.et2
      let dg := max 1 (o.g * e2 / e)
      w.et2 ≠ 7 → (x.2.1 = 0x2C → etFp o.et = false ∧ etFp w.et2 = false) → dg ≤ 8 → grpOk w.vd dg = true →
      grpOk w.va o.g = true → (w.m = true → w.vd ≠ 0) → Does x.1 s fun t =>
        (∀ i < o.vl, active1 v w.m i = true → 512 * w.vd + (i + 1) * e2 ≤ 16384 →
          vget (t.core k.val).vreg.toNat e2 w.vd i = x.2.2 o.et (vget v e w.va i) % 2 ^ e2) ∧
        (∀ j < 16384, Untouched v w.m o.vl e2 w.vd j → (t.core k.val).vreg.getLsbD j = o.vreg.getLsbD j) ∧
        t.core k.val = { o with vreg := (t.core k.val).vreg, kern := some { n with pc := n.pc + 1 } } ∧
        Frame (KernRegs k.val) Nothing (· = k.val) Nothing s t ∧ Quiet s t) ∧ (
  ∀ (k : CoreIx) (s : State) (c : Cmd) (n : Kern) (w : KWord),
    let o := s.core k.val
    let v := o.vreg.toNat
    let e := sew o.et
    (∀ x ∈ ([(.vcmpeq k, 0x1C, Val.eq), (.vcmplt k, 0x1D, Val.lt), (.vcmple k, 0x1E, Val.le)] :
        List (Instr × Nat × (Val → Val → Bool))),
      KernelAt s k.val x.2.1 c n w → grpOk w.va o.g = true → grpOk w.vb o.g = true → Does x.1 s fun t =>
        (0 < o.vl → ∀ j < 512, (t.core k.val).vreg.getLsbD j =
          (decide (j < o.vl) && active1 v w.m j && x.2.2 (etVal o.et (vget v e w.va j)) (etVal o.et (vget v e w.vb j)))) ∧
        (o.vl = 0 → (t.core k.val).vreg = o.vreg) ∧
        (∀ j, 512 ≤ j → (t.core k.val).vreg.getLsbD j = o.vreg.getLsbD j) ∧
        t.core k.val = { o with vreg := (t.core k.val).vreg, kern := some { n with pc := n.pc + 1 } } ∧
        Frame (KernRegs k.val) Nothing (· = k.val) Nothing s t ∧ Quiet s t) ∧
    (KernelAt s k.val 0x31 c n w → grpOk w.vd o.g = true → grpOk w.va o.g = true → (w.m = true → w.vd ≠ 0) →
      Does (.vrsum k) s fun t =>
        (0 < o.vl → etFp o.et = false → vget (t.core k.val).vreg.toNat e w.vd 0 =
          (((upTo o.vl).filter (active1 v w.m)).map (vget v e w.va)).sum % 2 ^ e) ∧
        (o.vl = 0 → (t.core k.val).vreg = o.vreg) ∧
        (∀ j < 16384, (j < 512 * w.vd ∨ 512 * w.vd + e ≤ j) → (t.core k.val).vreg.getLsbD j = o.vreg.getLsbD j) ∧
        t.core k.val = { o with vreg := (t.core k.val).vreg, kern := some { n with pc := n.pc + 1 } } ∧
        Frame (KernRegs k.val) Nothing (· = k.val) Nothing s t ∧ Quiet s t))

/-- R184, R186: a load of f fields brings field j of structure i to element i of group VD + j * g, from the window at the
scalar offset, offsets wrapping modulo 4,096; VLDB brings one element to all of them; P = 1 moves the offset register on.
R175, R186: a store of f fields writes field j of each active structure i into the output window at the scalar offset; the
bytes of no active element stay as they were, and no memory changes. -/
def Obligations.VectLoadsAndStores : Prop :=
  (
  ∀ (k : CoreIx) (s : State) (c : Cmd) (n : Kern) (w : KWord),
    let o := s.core k.val
    let v := o.vreg.toNat
    let e := sew o.et
    let b := e / 8
    let win := (n.window (s.kernTile k.val) w.w).toNat
    (∀ x ∈ ([(.vld k, 8, 1), (.vld2 k, 9, 2), (.vld3 k, 10, 3), (.vld4 k, 11, 4)] : List (Instr × Nat × Nat)),
      KernelAt s k.val x.2.1 c n w → VlFits o → accessOk o w x.2.2 false = true → Does x.1 s fun t =>
        (∀ i < o.vl, ∀ j < x.2.2, active1 v w.m i = true →
          vget (t.core k.val).vreg.toNat e (w.vd + j * o.g) i = winElem win b (o.xr w.va + (i * x.2.2 + j) * b)) ∧
        (w.p = true → w.va ≠ 0 → (t.core k.val).xr w.va = (o.xr w.va + x.2.2 * o.vl * b) % 2 ^ 32) ∧
        (w.p = false ∨ w.va = 0 → (t.core k.val).x = o.x) ∧ (∀ i ≠ w.va, (t.core k.val).xr i = o.xr i) ∧
        t.core k.val =
          { o with vreg := (t.core k.val).vreg, x := (t.core k.val).x, kern := some { n with pc := n.pc + 1 } } ∧
        Frame (KernRegs k.val) Nothing (· = k.val) Nothing s t ∧ Quiet s t) ∧
    (KernelAt s k.val 0x33 c n w → VlFits o → accessOk o w 1 false = true → Does (.vldb k) s fun t =>
        (∀ i < o.vl, active1 v w.m i = true →
          vget (t.core k.val).vreg.toNat e w.vd i = winElem win b (o.xr w.va)) ∧
        (∀ j < 16384, Untouched v w.m o.vl e w.vd j → (t.core k.val).vreg.getLsbD j = o.vreg.getLsbD j) ∧
        (0 < o.vl → w.p = true → w.va ≠ 0 → (t.core k.val).xr w.va = (o.xr w.va + b) % 2 ^ 32) ∧
        t.core k.val =
          { o with vreg := (t.core k.val).vreg, x := (t.core k.val).x, kern := some { n with pc := n.pc + 1 } } ∧
        Frame (KernRegs k.val) Nothing (· = k.val) Nothing s t ∧ Quiet s t)) ∧ (
  ∀ (k : CoreIx) (s : State) (c : Cmd) (n : Kern) (w : KWord),
    let o := s.core k.val
    let v := o.vreg.toNat
    let e := sew o.et
    let b := e / 8
    ∀ x ∈ ([(.vst k, 12, 1), (.vst2 k, 13, 2), (.vst3 k, 14, 3), (.vst4 k, 15, 4)] : List (Instr × Nat × Nat)),
      KernelAt s k.val x.2.1 c n w → VlFits o → accessOk o w x.2.2 true = true → Does x.1 s fun t =>
        (∃ n', (t.core k.val).kern = some n' ∧ n'.pc = n.pc + 1 ∧ n'.w0 = n.w0 ∧ n'.w1 = n.w1 ∧
          (∀ i < o.vl, ∀ j < x.2.2, active1 v w.m i = true →
            winElem n'.wo.toNat b (o.xr w.va + (i * x.2.2 + j) * b) = vget v e (w.vd + j * o.g) i) ∧
          (∀ y < 4096, (∀ i < o.vl, ∀ j < x.2.2, active1 v w.m i = true → ∀ z < b,
              y ≠ (o.xr w.va + (i * x.2.2 + j) * b + z) % 4096) → bits n'.wo.toNat (8 * y) 8 = bits n.wo.toNat (8 * y) 8)) ∧
        (t.core k.val).vreg = o.vreg ∧ Frame (KernRegs k.val) Nothing (· = k.val) Nothing s t ∧ Quiet s t)

/-- R172, R174, R184: SETL sets the type and grants VL = min(xa, VLMAX), to xd as well; SADDI, SADD and SSUB are arithmetic
modulo 2^32; x0 discards what is written; SBNZ branches relative to its own word when xa is not 0. -/
def Obligations.ScalarWords : Prop :=
  ∀ (k : CoreIx) (s : State) (c : Cmd) (n : Kern) (w : KWord),
    let o := s.core k.val
    w.va ≤ 15 →
    (KernelAt s k.val 1 c n w → w.vd ≤ 15 → w.imm % 8 ≠ 7 → Does (.setl k) s fun t =>
      let p := t.core k.val
      p.et = (w.imm % 8).toNat ∧ p.lg = (w.imm / 16 % 4).toNat ∧ p.vl = min (o.xr w.va) (512 * 2 ^ p.lg / sew p.et) ∧
      VlFits p ∧ (w.vd ≠ 0 → p.xr w.vd = p.vl) ∧
      p = { o with et := p.et, lg := p.lg, vl := p.vl, x := p.x, kern := some { n with pc := n.pc + 1 } } ∧
      Frame (KernRegs k.val) Nothing (· = k.val) Nothing s t ∧ Quiet s t) ∧
    (∀ x ∈ ([(.saddi k, 2, w.imm), (.sadd k, 3, (o.xr (w.imm % 32).toNat : Int)), (.ssub k, 4, -(o.xr (w.imm % 32).toNat : Int))] :
        List (Instr × Nat × Int)),
      KernelAt s k.val x.2.1 c n w → w.vd ≤ 15 → (x.2.1 ≠ 2 → w.imm % 32 ≤ 15) → Does x.1 s fun t =>
        (w.vd ≠ 0 → ((t.core k.val).xr w.vd : Int) = ((o.xr w.va : Int) + x.2.2) % 2 ^ 32) ∧
        (∀ i, i ≠ w.vd ∨ i = 0 → (t.core k.val).xr i = o.xr i) ∧
        t.core k.val = { o with x := (t.core k.val).x, kern := some { n with pc := n.pc + 1 } } ∧
        Frame (KernRegs k.val) Nothing (· = k.val) Nothing s t ∧ Quiet s t) ∧
    (KernelAt s k.val 5 c n w → 0 ≤ (n.pc : Int) + w.imm → (n.pc : Int) + w.imm ≤ 1023 → Does (.sbnz k) s fun t =>
      (∃ n', (t.core k.val).kern = some n' ∧ (o.xr w.va ≠ 0 → (n'.pc : Int) = n.pc + w.imm) ∧ (o.xr w.va = 0 → n'.pc = n.pc + 1)) ∧
      t.core k.val = { o with kern := (t.core k.val).kern } ∧
      Frame (KernRegs k.val) Nothing (· = k.val) Nothing s t ∧ Quiet s t)

/-! ## The pivot engine (chapter 6) -/

/-- R205, R208, R209, R211, R213, R222, R223, R231, R232, R239: SOLVE works on the problem whose turn it is, up to the next stop point of
its phase. At the top of the loop a residual within TOL_CONV returns the point as CONVERGED, one within TOL_ACC at the last iteration or
past the deadline as ACCEPTED; else MAX_IT or the deadline ends the solve with the fallback, or the matrix is formed. A finite factor goes
on, one that overflows ends the solve with status 5; so do the steps and the iterate; a deadline that passes in a factorisation phase
ends it with status 3. The outputs are written, where no page forbids it, and the record's status is the problem's. An iteration
that ends gives the turn to the next problem. When every problem is settled the command is complete.
R232: PIVOT_DEADLINE: a deadline that arrives in a factorisation phase, or before the first one, ends its solve at once with the fallback.
R213, R234, R236: GRAD solves for w, piece by piece, then forms the gradients and writes them, or zeros where w overflows; ranks other
than 0 have nothing to do; when every problem is settled the command is complete. -/
def Obligations.PivotSolvesAndStops : Prop :=
  ∀ (h : HandIx) (s : State) (c : Cmd) (k : Nat) (p : Prob),
    let mode := Record.argBits c.r 30 2
    let me := Record.argBits c.r 19 4
    let now := s.now h.val
    let pvRegs := fun (a : Nat) => a = Reg.pivotStat h.val ∨ a = Reg.pivotPert h.val ∨ a = Reg.pvops h.val ∨ a = Reg.pvops h.val + 4
    let goesOn := fun (q : Prob) (t : State) => (t.hand h.val).probs = (s.hand h.val).probs.set k q ∧
      Frame pvRegs (· = h.val) Nothing Nothing s t ∧ Quiet s t
    let settled := fun (s2 : State) (q : Prob) (t : State) =>
      (t.hand h.val).probs = (s.hand h.val).probs.set k (q.enter 4) ∧ t.mem = s2.mem ∧
      (q.status = 3 → t.flag (Reg.pivotStat h.val) 8 = true) ∧ (q.status = 5 → t.flag (Reg.pivotStat h.val) 7 = true) ∧
      (∀ j, j ≠ h.val → t.hand j = s.hand j) ∧ ∀ j, t.core j = s.core j
    let falls := fun (i : Instr) (s1 : State) (q : Prob) (status : Nat) => ∀ s2,
      s1.pvWrites h.val c (q.fallen status) q.fbx q.fby Fmt.fp64.qnan Fmt.fp64.qnan = .ok s2 →
      Does i s fun t => settled s2 (q.fallen status) t ∧ ∀ pa, q.slot = some pa → (t.slotAt pa).x = q.fbx ∧ (t.slotAt pa).hasFactor = false
    let returns := fun (s1 : State) (q : Prob) (status : Nat) => ∀ s2,
      s1.pvWrites h.val c (q.returned status) q.iter.x (vecOf q.vecs 0) (vecAt q.vecs 10 0) q.mu = .ok s2 →
      Does (.solve h) s fun t => settled s2 (q.returned status) t ∧ ∀ pa, q.slot = some pa → (t.slotAt pa).x = q.iter.x
    let done := fun (t : State) => ∃ c', (t.hand h.val).pq.head? = some c' ∧ c'.complete = true ∧ c'.r = c.r
    (Works s 6 h.val 1 0 c → (s.hand h.val).probs ≠ [] → (s.hand h.val).current = none →
      Does (.solve h) s fun t => done t ∧ Frame Nothing (· = h.val) Nothing Nothing s t ∧ Quiet s t) ∧
    (Works s 6 h.val 1 0 c → (s.hand h.val).current = some k → (s.hand h.val).probs[k]? = some p →
      (mode = 0 ∧ k ∈ (s.hand h.val).frames) ∨ (mode = 1 ∧ me = 0 ∧ (s.hand h.val).aborted p = false) →
      (p.phase = 1 → p.lateFirst now = true → falls (.solve h) s p 3) ∧
      (p.phase = 1 → p.lateFirst now = false →
        let r := s.pvRun h.val p (measurePhases p.qp p.iter)
        let q := { r.2.1 with eps := vecAt r.2.1.vecs 11 0, mu := vecAt r.2.1.vecs 8 0 }
        let conv := leW q.eps (PDesc.tolConv p.desc)
        let acc := leW q.eps (PDesc.tolAcc p.desc)
        (r.2.2 = false → Does (.solve h) s (goesOn r.2.1)) ∧
        (r.2.2 = true → conv = true → returns r.1 q 1) ∧
        (r.2.2 = true → conv = false → acc = true → (p.it = PDesc.maxIt p.desc ∨ p.late now = true) → returns r.1 q 2) ∧
        (r.2.2 = true → conv = false → acc = false → p.it = PDesc.maxIt p.desc → falls (.solve h) r.1 q 4) ∧
        (r.2.2 = true → conv = false → acc = false → p.it ≠ PDesc.maxIt p.desc → p.late now = true → falls (.solve h) r.1 q 3) ∧
        (r.2.2 = true → conv = false → p.it ≠ PDesc.maxIt p.desc → p.late now = false → Does (.solve h) s (goesOn (q.enter 5)))) ∧
      (p.phase = 5 → p.late now = true → falls (.solve h) s p 3) ∧
      (p.phase = 5 → p.late now = false →
        let r := s.pvRun h.val p (formPhases p.qp p.iter)
        (r.2.2 = false → Does (.solve h) s (goesOn r.2.1)) ∧
        (r.2.2 = true → mode = 0 → Does (.solve h) s (goesOn { r.2.1.enter 2 with fact := formed p.qp r.2.1.vecs })) ∧
        (r.2.2 = true → mode = 1 → Does (.solve h) s fun t => t.groupFact p = formed p.qp r.2.1.vecs ∨ p.slot = none)) ∧
      (p.phase = 2 → mode = 0 → p.late now = true → falls (.solve h) s { p with perturb := p.perturb + p.fact.pert } 3) ∧
      (p.phase = 2 → mode = 0 → p.late now = false →
        let r := s.eng h.val (nextColE (s.tauOf h.val p.desc) p.fact p.fact.done.length)
        let s1 := r.2.addPert h.val (r.1.pert - p.fact.pert)
        let q := { p with fact := r.1, perturb := p.perturb + r.1.pert }
        (r.1.done.length < p.qp.n + p.qp.m → Does (.solve h) s (goesOn { p with fact := r.1 })) ∧
        (p.qp.n + p.qp.m ≤ r.1.done.length → r.1.finite = true → Does (.solve h) s (goesOn { q.enter 3 with hasFact := true })) ∧
        (p.qp.n + p.qp.m ≤ r.1.done.length → r.1.finite = false → falls (.solve h) s1 (q.enter 3) 5)) ∧
      (p.phase = 3 →
        let r := s.pvRun h.val p (affinePhases p.qp p.iter p.fact)
        (r.2.2 = false → Does (.solve h) s (goesOn r.2.1)) ∧
        (r.2.2 = true → (Step.of p.qp r.2.1.vecs 20).finite = true → Does (.solve h) s (goesOn (r.2.1.enter 6))) ∧
        (r.2.2 = true → (Step.of p.qp r.2.1.vecs 20).finite = false → falls (.solve h) r.1 r.2.1 5)) ∧
      (p.phase = 6 →
        let r := s.pvRun h.val p (combinedPhases p.qp p.iter p.fact p.mu)
        (r.2.2 = false → Does (.solve h) s (goesOn r.2.1)) ∧
        (r.2.2 = true → (Step.of p.qp r.2.1.vecs 40).finite = true → Does (.solve h) s (goesOn (r.2.1.enter 7))) ∧
        (r.2.2 = true → (Step.of p.qp r.2.1.vecs 40).finite = false → falls (.solve h) r.1 r.2.1 5)) ∧
      (p.phase = 7 →
        let r := s.pvRun h.val p (movePhases p.qp p.iter)
        let q := { r.2.1.enter 1 with iter := Iter.of r.2.1.vecs, it := p.it + 1, vecs := [] }
        let s0 := r.1.setProb h.val k q
        let s1 := s0.setHand h.val { s0.hand h.val with turn := k + 1 }
        (r.2.2 = false → Does (.solve h) s (goesOn r.2.1)) ∧
        (r.2.2 = true → (Iter.of r.2.1.vecs).finite = true → (p.slot = none ∨ (s.hand h.val).othersOpen k = false) →
          Does (.solve h) s fun t => goesOn q t ∧ (t.hand h.val).turn = k + 1) ∧
        (∀ pa s2, r.2.2 = true → (Iter.of r.2.1.vecs).finite = true → p.slot = some pa → (s.hand h.val).othersOpen k = true →
          s1.pvSave h.val q pa = .ok s2 → Does (.solve h) s fun t => (t.hand h.val).probs = (s.hand h.val).probs.set k q ∧
            (t.hand h.val).turn = k + 1 ∧ (t.slotAt pa).work = q.iter ∧ t.mem = s2.mem) ∧
        (r.2.2 = true → (Iter.of r.2.1.vecs).finite = false → falls (.solve h) r.1 r.2.1 5))) ∧
    (∀ i : Fin 8, i.val = k → AtWork s 6 h.val 1 0 c → c.begun = true → (s.hand h.val).probs[k]? = some p → me = 0 →
      p.endsNow now = true → falls (.pivotDeadline h i) s { p with perturb := p.perturb + s.pertNow c p } 3) ∧
    (Works s 6 h.val 2 0 c → (s.hand h.val).probs ≠ [] → (s.hand h.val).current = none →
      Does (.grad h) s fun t => done t ∧ Frame Nothing (· = h.val) Nothing Nothing s t ∧ Quiet s t) ∧
    (Works s 6 h.val 2 0 c → (s.hand h.val).current = some k → (s.hand h.val).probs[k]? = some p →
      let kept := match p.slot with | none => ({} : Slot) | some pa => s.slotAt pa
      let ends := fun (s1 : State) (q : Prob) (g : Option Grads) (status : Nat) => ∀ s2,
        s1.gradWrites h.val c q p.qp.p.length p.qp.a.length g = .ok s2 →
        Does (.grad h) s fun t => settled s2 { q with status := status } t
      (mode = 1 → me ≠ 0 → Does (.grad h) s (goesOn (p.enter 4))) ∧
      ((mode ≠ 1 ∨ me = 0) → p.phase = 3 →
        let r := s.pvRun h.val p (gradSolve p.qp kept)
        (r.2.2 = false → Does (.grad h) s (goesOn r.2.1)) ∧
        (r.2.2 = true → (vecOf r.2.1.vecs 29).all isFin = true → Does (.grad h) s (goesOn (r.2.1.enter 6))) ∧
        (r.2.2 = true → (vecOf r.2.1.vecs 29).all isFin = false → ends r.1 r.2.1 none 5)) ∧
      ((mode ≠ 1 ∨ me = 0) → p.phase = 6 →
        let r := s.pvRun h.val p (gradOuts p.qp kept)
        (r.2.2 = false → Does (.grad h) s (goesOn r.2.1)) ∧
        (r.2.2 = true → ends r.1 r.2.1 (some (Grads.of p.qp r.2.1.vecs)) 0)))

/-- R212, R219: the steps of a rank's list. FACT and UPD work on the factor in the slot's STATE tiles; SEND tells its peer the
columns; RECV goes on once tokens of its peer cover its columns; SYNC tells every other rank, and goes on once all of
them have told; END ends the list, and a rank other than 0 tells rank 0. -/
def Obligations.ScheduleSteps : Prop :=
  ∀ (h : HandIx) (s : State) (c : Cmd) (p : Prob) (x : BitVec 128) (pa : Nat), p.slot = some pa →
    SchedStep.ok x (p.qp.n + p.qp.m) p.ranks = true →
    let me := Record.argBits c.r 19 4
    let at0 := (s.hand h.val).schedAt
    let peerEp := fun (r : Nat) => epHand (h.val / 160 * 160 + PDesc.group p.desc r % 160) 24
    (s.schedStep h.val 1 = some (c, p, x) → Does (.schedFact h) s fun t =>
      t.groupFact p = (s.eng h.val (factE (s.tauOf h.val p.desc) (SchedStep.c0 x) (SchedStep.len x) (s.groupFact p))).1 ∧
      (t.hand h.val).schedAt = at0 + 1 ∧ t.mem = s.mem ∧ Quiet s t) ∧
    (s.schedStep h.val 2 = some (c, p, x) → Does (.schedUpd h) s fun t =>
      t.groupFact p = (s.eng h.val (updE (SchedStep.c0 x) (SchedStep.len x) (blockFrom p x) (s.groupFact p))).1 ∧
      (t.hand h.val).schedAt = at0 + 1 ∧ t.mem = s.mem ∧ Quiet s t) ∧
    (s.schedStep h.val 3 = some (c, p, x) → Does (.schedSend h) s fun t =>
      t.net = s.net ++ [ctlPacket (epHand h.val 24) (peerEp (SchedStep.peer x)) h.val
        (.token 0 me (SchedStep.c0 x + SchedStep.len x * 2 ^ 32) p.tag)] ∧
      (t.hand h.val).schedAt = at0 + 1 ∧ t.recov = s.recov ∧ t.rsp = s.rsp ∧ Frame Nothing (· = h.val) Nothing Nothing s t) ∧
    (s.schedStep h.val 4 = some (c, p, x) → (∀ j < SchedStep.len x, ∃ y ∈ (s.hand h.val).tokens, y.1 = SchedStep.peer x ∧
        y.2.2 = p.tag ∧ y.2.1 % 2 ^ 32 ≤ SchedStep.c0 x + j ∧ SchedStep.c0 x + j < y.2.1 % 2 ^ 32 + y.2.1 / 2 ^ 32) →
      Does (.schedRecv h) s fun t => (t.hand h.val).schedAt = at0 + 1 ∧ (t.hand h.val).tokens = (s.hand h.val).tokens ∧
        Frame Nothing (· = h.val) Nothing Nothing s t ∧ Quiet s t) ∧
    (s.schedStep h.val 5 = some (c, p, x) → (s.hand h.val).syncSent = false → Does (.schedSync h) s fun t =>
      (t.hand h.val).syncSent = true ∧ (t.hand h.val).schedAt = at0 ∧
      t.net = s.net ++ (otherRanks p me).map (fun r => ctlPacket (epHand h.val 24) (peerEp r) h.val (.token 3 me 0 p.tag)) ∧
      t.recov = s.recov ∧ t.rsp = s.rsp ∧ Frame Nothing (· = h.val) Nothing Nothing s t) ∧
    (s.schedStep h.val 5 = some (c, p, x) → (s.hand h.val).syncSent = true →
      (∀ r ∈ otherRanks p me, (s.hand h.val).hasToken p 3 r = true) → Does (.schedSync h) s fun t =>
        (t.hand h.val).schedAt = at0 + 1 ∧ (t.hand h.val).syncSent = false ∧
        Frame Nothing (· = h.val) Nothing Nothing s t ∧ Quiet s t) ∧
    (s.schedStep h.val 0 = some (c, p, x) → Does (.schedEnd h) s fun t =>
      (t.hand h.val).schedDone = true ∧ (me = 0 → Quiet s t ∧ (t.hand h.val).probs = (s.hand h.val).probs) ∧
      (me ≠ 0 → t.net = s.net ++ [ctlPacket (epHand h.val 24) (peerEp 0) h.val (.token 4 me 0 p.tag)] ∧
        (t.hand h.val).probs = (s.hand h.val).probs.set 0 (p.enter 1)) ∧
      Frame Nothing (· = h.val) Nothing Nothing s t)

/-! ## Collectives (chapter 9) -/

/-- R365, R369, R371: a COLL reads its descriptor tile and then sends its join to the dealer. The dealer enters a join that agrees with the
descriptor and those before it; with the last member's join the collective is fully joined, if the extents agree. -/
def Obligations.CollectiveJoins : Prop :=
  (∀ (h : HandIx) (s s1 : State) (c : Cmd) (x : Tile), Works s 7 h.val 1 0 c → c.skip = false → c.out = 0 → c.b.got = 0 →
    s.arrive 7 h.val c 1 (some 6) (fun _ => none) false = .ok s1 x → Does (.coll h) s fun t =>
      (∃ c', (t.hand h.val).xq.head? = some c' ∧ c'.r = c.r ∧ c'.out = 0 ∧ c'.b.got = 1 ∧
        ((Record.desc c.r 1).kind = 1 → c.b.buf = [] → c'.b.buf = [x])) ∧ t.mem = s.mem ∧ Calm s t ∧
      MemFrame (fun a => a = Reg.refetch h.val ∨ a = Reg.handLost h.val) (· = h.val) Nothing Nothing s t) ∧
  (∀ (h : HandIx) (s : State) (c : Cmd), Works s 7 h.val 1 0 c → c.skip = false → c.out = 0 → c.b.got ≠ 0 →
    Does (.coll h) s fun t => t.recov = s.recov ∧ t.rsp = s.rsp ∧
      t.net = s.net ++ [ctlPacket (epHand h.val 26) epDealer h.val
        (.join (CDesc.group c.collDesc) c.collTag (crc32c (toBytes 256 c.collDesc.toNat)) h.val)] ∧
      (∃ c', (t.hand h.val).xq.head? = some c' ∧ c'.r = c.r ∧ c'.out = 1) ∧ Frame Nothing (· = h.val) Nothing Nothing s t) ∧
  (∀ (i : Nat) (s : State) (p : Packet) (g tag crc h : Nat) (cmd : Cmd), s.net[i]? = some p → p.msg = .join g tag crc h →
    p.arrived = true → s.collCmd h = some cmd → ((s.findColl g tag).isSome = true ∨ s.colls.length < 256) →
    let c0 := (s.findColl g tag).getD
      { g := g, tag := tag, desc := cmd.collDesc, flags := if s.recov.replayed.contains (g, tag) then 32 else 0
        ring := ring4.filter fun a => s.suitUp a && !s.folded a }
    let joins := c0.joins.filter (fun j => j.hand != h) ++ [{ hand := h, time := s.time, crc := crc }]
    c0.admitted = false → c0.aborted = false → c0.malformed = false →
    ((∀ j ∈ c0.joins, j.crc = crc) → s.joinOk c0.ring cmd.collDesc h cmd.r = true → s.collDoomed c0 = false →
      (∀ y ∈ s.colls, (y.g = g ∧ y.tag = tag) ∨ y.admitted = true ∨ y.aborted = true ∨ y.malformed = true ∨
        orderFault { c0 with joins := joins } y = false) →
      (s.fullyJoined { c0 with joins := joins } = true → s.sizesAgree { c0 with joins := joins } = true) →
      Does (.collJoin i) s fun t => t.net = s.net.eraseIdx i ∧ ∃ c', t.findColl g tag = some c' ∧ c'.joins = joins ∧
        c'.desc = c0.desc ∧ (s.fullyJoined { c0 with joins := joins } = true → c'.tFull.isSome = true) ∧
        (s.fullyJoined { c0 with joins := joins } = false → c'.tFull = c0.tFull) ∧
        t.recov = s.recov ∧ ∀ a, t.reg a = s.reg a) ∧
    ((∃ j ∈ c0.joins, j.crc ≠ crc) → Does (.collJoin i) s fun t =>
      (∃ c', t.findColl g tag = some c' ∧ c'.malformed = true) ∧ ∀ j ∈ joins, t.flag (Reg.seqStat j.hand) 28 = true))

/-- R373 to R376: a fully joined collective is admitted once its slots are free at every bridge end it uses, and takes them
all at once; one that needs none is admitted; nothing is admitted under a cut. One that has waited longer than ADMIT_TIMEOUT
is downgraded to the vector-engine path and counted.
R363, R388, R391: a member absent for COLL_TIMEOUT is reported once to reeve 0 of its suit and counted; a residue mismatch is
counted, and one that recurs fences its adder and moves the collective to the vector-engine path; a prune notice is
recorded for its collective. -/
def Obligations.CollectivesAdmittedAndReported : Prop :=
  (
  ∀ (g : BitVec 8) (tag : BitVec 28) (s : State) (c : Coll), s.findColl g.toNat tag.toNat = some c → c.tFull.isSome = true →
    c.admitted = false → c.aborted = false → c.malformed = false →
    (s.marked 656 = true → Does (.collAdmit g tag) s fun t => t = s) ∧
    (s.marked 656 = false → s.bell.stopped.contains 656 = false → s.collDoomed c = false → s.vectorFromStart c = true →
      s.fallbackWay c = true → Does (.collAdmit g tag) s fun t =>
        (∃ c', t.findColl g.toNat tag.toNat = some c' ∧ c'.admitted = true ∧ c'.vector = true ∧ c'.flags &&& 4 = 4) ∧ t.mem = s.mem) ∧
    (s.marked 656 = false → s.bell.stopped.contains 656 = false → s.collDoomed c = false → s.vectorFromStart c = false →
      (∀ j ∈ c.joins, j.hand < 640) → (slotEnds c.desc = [] ∨ s.canReserve c = true) → Does (.collAdmit g tag) s fun t =>
        (∃ c', t.findColl g.toNat tag.toNat = some c' ∧ c'.admitted = true ∧ c'.vector = c.vector ∧ c'.tAdmit = s.time ∧
          (slotEnds c.desc ≠ [] → c'.slots = CDesc.slots c.desc)) ∧
        (∀ b ∈ slotEnds c.desc, t.slotsFreeAt b = s.slotsFreeAt b - CDesc.slots c.desc) ∧ t.mem = s.mem ∧ Quiet s t) ∧
    (∀ t0, c.tFull = some t0 → s.waiting c = true → (∀ j ∈ c.joins, j.hand < 640) →
      t0 + max 1 (s.field Reg.dealerCtl 4 12) * 1000 + (c.paused - c.pausedFull) < s.time →
      s.names (refTid (CDesc.fallback c.desc)) = true → s.fallbackWay c = true → s.marked 656 = false →
      s.bell.stopped.contains 656 = false → Does (.admitTimeout g tag) s fun t =>
        (∃ c', t.findColl g.toNat tag.toNat = some c' ∧ c'.admitted = true ∧ c'.vector = true ∧ c'.flags &&& 6 = 6) ∧
        (c.flags &&& 2 = 0 → t.reg Reg.downgraded = s.reg Reg.downgraded + 1) ∧ t.mem = s.mem)) ∧ (
  (∀ (g : BitVec 8) (tag : BitVec 28) (h : HandIx) (s : State) (c : Coll), s.findColl g.toNat tag.toNat = some c →
    c.aborted = false → c.malformed = false → h.val ∈ s.wanted c → (∀ j ∈ c.joins, j.hand ≠ h.val) → h.val ∉ c.timedOut →
    c.tFirst + max 1 (s.field Reg.dealerCtl 16 16) * 1000000 + c.paused ≤ s.time → s.bell.stopped.contains 656 = false →
    Does (.collTimeout g tag h) s fun t =>
      t.reg Reg.timeouts = s.reg Reg.timeouts + 1 ∧
      t.recov.flight = s.recov.flight ++ [(s.dutyReeve (h.val / 160 * 4),
        faultWord s.time 0 0x0B (epHand h.val 26) (c.g <<< 40 + c.tag <<< 12))] ∧
      (∃ c', t.findColl g.toNat tag.toNat = some c' ∧ h.val ∈ c'.timedOut ∧ c'.joins = c.joins) ∧
      (∀ a, a ≠ Reg.timeouts → t.reg a = s.reg a) ∧ t.mem = s.mem ∧ t.net = s.net) ∧
  (∀ (b : BridgeIx) (lane slot : Nat) (g : BitVec 8) (tag : BitVec 28) (ok : Bool) (s : State) (c : Coll),
    s.findColl g.toNat tag.toNat = some c → c.admitted = true → c.vector = false → c.aborted = false →
    c.malformed = false →
    CDesc.reduces c.desc = true → b.val ∈ slotEnds c.desc → Does (.residueMismatch b lane slot g tag ok) s fun t =>
      t.field (Reg.bridgeEnd b.val) 8 8 = min 255 (s.field (Reg.bridgeEnd b.val) 8 8 + 1) ∧
      (ok = true → ∃ c', t.findColl g.toNat tag.toNat = some c' ∧ c'.flags &&& 8 = 8 ∧ c'.vector = false) ∧
      (ok = false → t.flag (Reg.bridgeEnd b.val) 29 = true ∧
        ∃ c', t.findColl g.toNat tag.toNat = some c' ∧ c'.vector = true ∧ c'.doneWork = [] ∧ c'.slots = 0) ∧
      (∃ r d tm, (r, faultWord tm (if ok then 1 else 2) 0x02 (epBridge b.val) d) ∈ t.recov.flight) ∧ t.mem = s.mem) ∧
  (∀ (i : Nat) (s : State) (p : Packet) (g tag : Nat) (hs : List Nat) (c : Coll), s.net[i]? = some p → p.msg = .prune g tag hs →
    p.arrived = true → s.findColl g tag = some c → Does (.pruneNotice i) s fun t =>
      (∃ c', t.findColl g tag = some c' ∧ (∀ h ∈ hs, h ∈ members c.desc → h ∈ c'.pruned) ∧ (∀ h ∈ c.pruned, h ∈ c'.pruned)) ∧
      t.net = s.net.eraseIdx i ∧ t.mem = s.mem ∧ t.recov = s.recov ∧ ∀ a, t.reg a = s.reg a))

/-- R382: one payload tile of a strand is summed in the order p_(c+1), p_(c+2), …, p_c of its chunk c, rounded once by its owner p_c, and
written by every member of an ALLREDUCE or by the owner of a REDUCE_SCATTER; every member before the owner sends its partial's tiles. -/
def Obligations.ReductionSumsStrand : Prop :=
  ∀ (g : BitVec 8) (tag : BitVec 28) (pos : Fin 160) (tile : Nat) (s s1 s2 : State) (c : Coll) (parts : List (List Tile)),
    ∀ x ∈ ([(.allreduce g tag pos tile, 1, true), (.reduceScatter g tag pos tile, 2, false)] : List (Instr × Nat × Bool)),
      s.collAt g tag x.2.1 = some c → s.collTodo c (pos.val, tile) = true →
      let ps := (Machine.ringOf c.desc).map fun a => a * 160 + snakeHand pos.val
      let cc := chunkC (s.collT c) ps.length
      let ch := tile / max 1 cc
      let order := ps.drop (ch + 1) ++ ps.take (ch + 1)
      let owner := order.getLastD 640
      s.strandGather c tile order = .ok (s1, parts) →
      s1.writeResult (strandResult c.desc parts)
        (if x.2.2 then ps.map fun h => (h, tile) else [(owner, tile - ch * cc)]) = .ok s2 → Does x.1 s fun t =>
        t.mem = s2.mem ∧ (∃ c', t.findColl g.toNat tag.toNat = some c' ∧ (pos.val, tile) ∈ c'.doneWork) ∧
        (∀ e ∈ order.dropLast, t.reg64 (Reg.xbytes e) = (s2.reg64 (Reg.xbytes e) + collW c.desc * 4096) % 2 ^ 64)

/-- R359, R367, R384, R386: the copying collectives: an ALL_GATHER tile goes to every member at its sender's rank, a BROADCAST
tile to one member, in memory or at a P8 of its hand; a fenced member of a BROADCAST is pruned with a notice to the root, and so is each
folded suit; a block of an ALL_TO_ALL or GATHER up to its first PAD tile fills CAPACITY tiles of
its receiver and the tiles beyond are counted as dropped, and a BARRIER moves nothing. -/
def Obligations.CopyingCollectives : Prop :=
  ∀ (g : BitVec 8) (tag : BitVec 28) (s : State) (c : Coll),
    (∀ src tile s1 s2 x t0, s.collAt g tag 3 = some c → s.collTodo c (src, tile) = true → s.collCmd (c.member src) = some x →
      s.collRead (c.member src) tile none = .ok (s1, t0) →
      s1.copyTo t0 ((members c.desc).map fun h => (h, src * (Record.desc x.r 0).count + tile)) = .ok s2 →
      Does (.allGather g tag src tile) s fun t => t.mem = s2.mem ∧
        ∃ c', t.findColl g.toNat tag.toNat = some c' ∧ (src, tile) ∈ c'.doneWork) ∧
    (∀ dst tile s1 x t0, s.collAt g tag 4 = some c → s.collTodo c (dst, tile) = true →
      dst < (ranked c.ring c.desc).length → s.handUp (c.member dst) = true →
      s.collRead (c.member (CDesc.root c.desc)) tile none = .ok (s1, t0) → s1.collRun (c.member dst) = some x →
      (∀ s2, (Record.desc x.r 2).kind ≠ 3 → s1.collWrite (c.member dst) tile t0 = .ok s2 → Does (.broadcast g tag dst tile) s fun t =>
        t.mem = s2.mem ∧ ∃ c', t.findColl g.toNat tag.toNat = some c' ∧ (dst, tile) ∈ c'.doneWork) ∧
      (∀ s2, (Record.desc x.r 2).kind = 3 →
        s1.sendP8 (c.member dst) 26 (epHand (c.member dst) 26) (Record.desc x.r 2).dest t0 = some s2 →
        Does (.broadcast g tag dst tile) s fun t => t.net = s2.net ∧ t.mem = s2.mem ∧
          ∃ c', t.findColl g.toNat tag.toNat = some c' ∧ (dst, tile) ∈ c'.doneWork)) ∧
    (∀ dst tile, s.collAt g tag 4 = some c → s.collTodo c (dst, tile) = true → dst < (ranked c.ring c.desc).length →
      s.handUp (c.member dst) = false → (∀ u ∈ c.doneWork, u.1 ≠ dst) → Does (.broadcast g tag dst tile) s fun t =>
        (∃ p, t.net = s.net ++ [p] ∧ p.msg = .prune c.g c.tag [c.member dst] ∧
          p.dest = BitVec.ofNat 16 (epHand (c.member (CDesc.root c.desc)) 26)) ∧
        t.flag (Reg.routerStat (c.member dst)) 30 = true ∧ t.mem = s.mem) ∧
    (∀ dst, s.collAt g tag 4 = some c → s.collTodo c (dst, 0) = true → (ranked c.ring c.desc).length ≤ dst →
      Does (.broadcast g tag dst 0) s fun t =>
        (∃ p, t.net = s.net ++ [p] ∧ p.dest = BitVec.ofNat 16 (epHand (c.member (CDesc.root c.desc)) 26) ∧ p.msg = .prune c.g c.tag
          ((upTo 160).map (c.foldedSuits.getD (dst - (ranked c.ring c.desc).length) 0 * 160 + ·))) ∧ t.mem = s.mem) ∧
    (∀ src dst s1 s2 ts x, ∀ y ∈ ([(.allToAll g tag src dst, 5, dst, src * CDesc.capacity c.desc, c.member dst, (src, dst)),
          (.collGather g tag src, 6, 0, src * CDesc.capacity c.desc, c.member (CDesc.root c.desc), (src, 0))] :
          List (Instr × Nat × Nat × Nat × Nat × (Nat × Nat))),
      s.collAt g tag y.2.1 = some c → s.collTodo c y.2.2.2.2.2 = true →
      s.blockReads (c.member src) ((upTo (CDesc.scap c.desc)).map (y.2.2.1 * CDesc.scap c.desc + ·)) = .ok (s1, ts) →
      s1.collRun y.2.2.2.2.1 = some x →
      s1.blockWrites y.2.2.2.2.1 y.2.2.2.1 (CDesc.capacity c.desc) (fun j => (ts.take (CDesc.capacity c.desc)).getD j
        (s1.padTile (Record.desc x.r 2) (y.2.2.2.1 + j))) = .ok s2 → Does y.1 s fun t =>
        t.mem = s2.mem ∧ ∃ c', t.findColl g.toNat tag.toNat = some c' ∧ y.2.2.2.2.2 ∈ c'.doneWork ∧
          PMap.get 0 c'.dropped (c.member src) =
            PMap.get 0 c.dropped (c.member src) + (ts.length - CDesc.capacity c.desc)) ∧
    (s.collAt g tag 7 = some c → s.collTodo c (0, 0) = true → Does (.barrier g tag) s fun t =>
      (∃ c', t.findColl g.toNat tag.toNat = some c' ∧ (0, 0) ∈ c'.doneWork) ∧ t.mem = s.mem ∧ Quiet s t ∧
      ∀ a, t.reg a = s.reg a)

/-- R386, R387, R389, R570: a SHUFFLE entry moves its tile to its place of the member's destination or of the stash, once the section
before it has completed; a completed collective leaves the dealer's table, frees its slots, counts in COLL_DONE and makes each member's COLL ready to commit. -/
def Obligations.ShuffleAndCompletion : Prop :=
  ∀ (g : BitVec 8) (tag : BitVec 28) (s : State) (c : Coll),
    (∀ entry s0 s1 x e t0, s.collAt g tag 8 = some c → s.collTodo c (entry, 0) = true → s.sectionOpen c entry = true →
      let h := c.member (entry % max 1 (ranked c.ring c.desc).length)
      let n := (Record.desc x.r 0).count
      s.collRun h = some x → s.tableEntry h x (CDesc.map c.desc) 8 entry = .ok (s0, e) →
      bits e 0 30 < (if bit e 62 then 30 * CDesc.slots c.desc else n) →
      bits e 32 30 < (if bit e 63 then 30 * CDesc.slots c.desc else n) → s0.shuffleSource c h x e = .ok (s1, t0) →
      (bit e 63 = true → Does (.shuffle g tag entry) s fun t => t.mem = s.mem ∧
        PMap.get { hdr := 0, pay := 0 } t.redMem (c.stashKey (h / 160) (bits e 32 30)) = t0 ∧
        ∃ c', t.findColl g.toNat tag.toNat = some c' ∧ (entry, 0) ∈ c'.doneWork) ∧
      (∀ s2, bit e 63 = false → s1.collWrite h (bits e 32 30) (t0.movedTo ((Record.desc x.r 2).pos (bits e 32 30))) = .ok s2 →
        Does (.shuffle g tag entry) s fun t => t.mem = s2.mem ∧
          ∃ c', t.findColl g.toNat tag.toNat = some c' ∧ (entry, 0) ∈ c'.doneWork)) ∧
    (s.findColl g.toNat tag.toNat = some c → c.admitted = true → c.aborted = false → c.malformed = false → s.collDone c = true →
      Does (.collComplete g tag) s fun t =>
        t.findColl g.toNat tag.toNat = none ∧ t.reg64 Reg.collDone = (s.reg64 Reg.collDone + 1) % 2 ^ 64 ∧
        t.reg64 Reg.collLate = (s.reg64 Reg.collLate + c.lateCyc) % 2 ^ 64 ∧
        (∀ h ∈ s.wanted c, t.stHalted 7 h = false → ∀ x, (s.hand h).xq.head? = some x →
          ∃ x', (t.hand h).xq.head? = some x' ∧ x'.r = x.r ∧ x'.complete = true) ∧
        (CDesc.compl c.desc % 2 ^ 24 = 0 → t.mem = s.mem ∧ ∀ h, t.stHalted 7 h = s.stHalted 7 h))

/-! ## The Mills (chapter 7) -/

/-- R77, R82, R83, R260, R263, R553: NOP, SIGNAL, JUMP, LOOP and END apply their increments and leave the front of the fetch
buffer; SIGNAL sends its increment packet, JUMP and a LOOP that goes round fetch on at TARGET, END stops fetching. A Mill or hand
that has ended with nothing left to commit reports done, and the last one of the deal sets DONE. -/
def Obligations.MillControlCommits : Prop :=
  (∀ (m : MillIx) (s : State) (va : Nat) (r : BitVec 512),
    let evs := fun a => ∃ c < 64, a = Reg.millEvc m.val c
    let d := s.mill m.val
    (s.millHead m.val 0 = .ready va r → Does (.millNop m) s fun t =>
      (∀ c < 64, t.millEvc m.val c = s.millEvc m.val c + incsOf r c) ∧ (t.mill m.val).buf = d.buf.drop 1 ∧
      (t.mill m.val).fetch = d.fetch ∧ Frame evs Nothing Nothing (· = m.val) s t ∧ Quiet s t) ∧
    (s.millHead m.val 4 = .ready va r → Does (.millSignal m) s fun t =>
      t.net = s.net ++ [ctlPacket (epMill m.val) (Record.argBits r 0 16) (640 + m.val / 2)
        (.signal (Record.argBits r 16 6) (Record.argBits r 22 8))] ∧
      (∀ c < 64, t.millEvc m.val c = s.millEvc m.val c + incsOf r c) ∧ (t.mill m.val).buf = d.buf.drop 1 ∧ t.recov = s.recov ∧
      Frame evs Nothing Nothing (· = m.val) s t) ∧
    (s.millHead m.val 7 = .ready va r → Does (.millJump m) s fun t =>
      (∀ c < 64, t.millEvc m.val c = s.millEvc m.val c + incsOf r c) ∧ (t.mill m.val).buf = [] ∧
      (t.mill m.val).fetch = Record.target r ∧ Frame evs Nothing Nothing (· = m.val) s t ∧ Quiet s t) ∧
    (s.millHead m.val 8 = .ready va r → Does (.millLoop m) s fun t =>
      let n := Record.argBits r 30 2
      let left := (if PMap.get 0 d.loops n = 0 then max (Record.argBits r 0 28) 1 else PMap.get 0 d.loops n) - 1
      (∀ c < 64, t.millEvc m.val c = s.millEvc m.val c + incsOf r c) ∧ PMap.get 0 (t.mill m.val).loops n = left ∧
      (left = 0 → (t.mill m.val).buf = d.buf.drop 1 ∧ (t.mill m.val).fetch = d.fetch) ∧
      (left ≠ 0 → (t.mill m.val).buf = [] ∧ (t.mill m.val).fetch = Record.target r) ∧
      Frame evs Nothing Nothing (· = m.val) s t ∧ Quiet s t) ∧
    (s.millHead m.val 9 = .ready va r → Does (.millEnd m) s fun t =>
      (∀ c < 64, t.millEvc m.val c = s.millEvc m.val c + incsOf r c) ∧ (t.mill m.val).ended = true ∧ (t.mill m.val).buf = [] ∧
      t.millCanFetch m.val = false ∧ ∀ a, ¬ evs a → ¬ GranReg a → t.reg a = s.reg a) ∧
    (d.stream = true → d.ended = true → d.reported = false → d.q = [] → s.millStopped m.val = false → Does (.millDone m) s fun t =>
      (t.mill m.val).reported = true ∧ t.flag (Reg.millStat m.val) 30 = true ∧
      (s.job.run = true → s.willStart (640 + m.val) = false → s.handsLeft = [] → s.millsLeft = [m.val] → t.flag Reg.jobStat 29 = true))) ∧
  (∀ (h : HandIx) (s : State), (s.hand h.val).stream = true → (s.hand h.val).ended = true → (s.hand h.val).reported = false →
    s.handIdle h.val = true → (s.hand h.val).detour = none → Does (.handDone h) s fun t =>
      (t.hand h.val).reported = true ∧ t.flag (Reg.seqStat h.val) 30 = true ∧
      (s.job.run = true → s.willStart h.val = false → s.handsLeft = [h.val] → s.millsLeft = [] → t.flag Reg.jobStat 29 = true))

/-- R258, R263, R265: TABLES sets the table bases and zeroes telemetry row 0; STEP counts a step, zeroes its telemetry row and
writes the Mill's checkpoint slot, before its own increments (the model's reading, assumption 8); PUBLISH writes the version record once: the new
version's buffer live and published, the old buffer with its release condition, every other entry as it was, reserved bits 0 (R11). -/
def Obligations.MillTablesAndVersions : Prop :=
  ∀ (m : MillIx) (s : State) (va : Nat) (r : BitVec 512),
    let d := s.mill m.val
    let begun := s.traceBegin 8 m.val r 0
    let evs := fun a => ∃ c < 64, a = Reg.millEvc m.val c
    (∀ s1, s.millHead m.val 5 = .ready va r →
      let nl := Record.argBits r 16 16
      let d1 := { begun.mill m.val with
        utab := bits (Record.opd r 0) 0 48, rtab := bits (Record.opd r 1) 0 48, tele := bits (Record.opd r 2) 0 48
        nlayers := if nl = 0 then 65536 else nl, tlog := Record.argBits r 0 4, tabled := true }
      (begun.setMill m.val d1).zeroRow m.val 0 = some s1 → Does (.tables m) s fun t =>
        let e := t.mill m.val
        e.utab = d1.utab ∧ e.rtab = d1.rtab ∧ e.tele = d1.tele ∧ e.nlayers = d1.nlayers ∧ e.tlog = d1.tlog ∧ e.tabled = true ∧
        e.buf = d.buf.drop 1 ∧ t.mem = s1.mem ∧ (∀ c < 64, t.millEvc m.val c = s.millEvc m.val c + incsOf r c) ∧
        MemFrame evs Nothing Nothing (· = m.val) s t ∧ Calm s t) ∧
    (∀ kat s1 s2, s.millHead m.val 6 = .ready va r → d.tabled = true →
      let n := s.reg (Reg.millStep m.val) + 1
      ((begun.millKat m.val kat).setReg (Reg.millStep m.val) n).zeroRow m.val (n.toNat % 2 ^ d.tlog) = some s1 →
      s1.vwrite (640 + m.val) 0 (s1.traceBlock (640 + m.val)) 384 (s1.millSlot m.val (va + 64) (d.writes + 1)) = some s2 →
      Does (.step m kat) s fun t =>
        t.reg (Reg.millStep m.val) = n ∧ t.mem = s2.mem ∧ (t.mill m.val).writes = d.writes + 1 ∧
        (t.mill m.val).buf = d.buf.drop 1 ∧ (∀ c < 64, t.millEvc m.val c = s.millEvc m.val c + incsOf r c) ∧
        (∀ a, a ≠ Reg.millStep m.val → a ≠ Reg.granCtl (m.val / 2) → ¬ evs a → ¬ GranReg a → t.reg a = s.reg a) ∧ Calm s t ∧
        (s.field (Reg.reeveCtl (m.val / 2)) 8 16 = 0 → t.reg (Reg.granCtl (m.val / 2)) = s.reg (Reg.granCtl (m.val / 2))) ∧
        (kat ≠ 0 → s.field (Reg.reeveCtl (m.val / 2)) 8 16 ≠ 0 →
          ∃ x k tm, (x, faultWord tm 2 0x11 (epMill m.val) k) ∈ t.recov.flight)) ∧
    (∀ rec pa, Safe s → s.millHead m.val 2 = .ready va r →
      let tid := (Record.desc r 0).tid
      let rva := Entry.verAddr (s.entry tid)
      let n := Entry.nver (s.entry tid) + 1
      let v := (bits rec 0 8 + 1) % 256
      let new := v % n
      let old := bits rec 0 8 % n
      let q := (begun.seenEntries (640 + m.val) [tid]).seen (640 + m.val) 0 rva 64
      s.names tid = true → s.versioned tid = true → q.vread rva 64 = .ok rec → bufState (bufEntry rec new) = 2 →
      bufVer (bufEntry rec new) = v → new ≠ old → q.translate rva .write = .ok pa false → Does (.publish m) s fun t =>
        let w := Memory.read t.mem pa 64
        bits w 0 8 = v ∧ bits w 8 184 = bits (rec &&& verRecMask) 8 184 ∧ bufState (bufEntry w new) = 1 ∧ bufVer (bufEntry w new) = v ∧
        bufRset (bufEntry w old) = true ∧ bits (bufEntry w old) 16 6 = bits (Record.opd r 1) 0 6 ∧
        bits (bufEntry w old) 32 32 = Record.arg r ∧ (∀ b < 4, b ≠ new → b ≠ old → bufEntry w b = bufEntry rec b &&& bufMask) ∧
        (∀ b < 4, bufEntry w b &&& bufMask = bufEntry w b) ∧ bits w 448 64 = 0 ∧
        (∀ a, a < pa ∨ pa + 64 ≤ a → Memory.byte t.mem a = Memory.byte s.mem a) ∧
        (∀ c < 64, t.millEvc m.val c = s.millEvc m.val c + incsOf r c) ∧ (t.mill m.val).buf = d.buf.drop 1 ∧
        MemFrame evs Nothing Nothing (· = m.val) s t ∧ Calm s t)

/-- R257, R260, R264 to R274, R279: an UPDATE whose entry, recipe and tensors are as the rules require begins; it claims the
next version's buffer where that is free or its release condition holds, and else is pinned until it holds. Each block's
tiles are read and checked, the recipe is applied to every valid element, and the tiles are written and counted; after the
last block the record is complete. -/
def Obligations.UpdateClaimsAndWrites : Prop :=
  ∀ (m : MillIx) (s : State),
    (∀ va r x rcp, s.active 8 m.val = none → s.millHead m.val 1 = .ready va r → (s.mill m.val).tabled = true →
      s.vread ((s.mill m.val).utab + Record.argBits r 0 24 * 32) 32 = .ok x →
      s.vread ((s.mill m.val).rtab + Upd.rslot x * 256) 256 = .ok rcp → s.entryFault ((updTensors x).map (·.2)) = none →
      s.tensorRefused (Record.desc r 0).tid = false → s.tensorRefused (Upd.shadow x) = false → s.updEntryOk x (Record.desc r 0) = true →
      (Recipe.program rcp).isSome = true → s.ownedBy m.val (Record.desc r 0).tid = true →
      (Upd.shadow x = 0 ∨ s.ownedBy m.val (Upd.shadow x) = true) → Does (.update m) s fun t =>
        (∃ c, (t.mill m.val).q = (s.mill m.val).q ++ [c] ∧ c.r = r ∧ c.begun = true ∧ c.complete = false ∧ c.out = 0 ∧
          c.scales = [x, rcp, biasOf rcp 1 (s.reg (Reg.millStep m.val)).toNat, biasOf rcp 2 (s.reg (Reg.millStep m.val)).toNat]) ∧
        (t.mill m.val).buf = (s.mill m.val).buf.drop 1 ∧ t.job.rollForward = true ∧ t.mem = s.mem ∧
        (∀ a, ¬ GranReg a → t.reg a = s.reg a) ∧ Calm s t) ∧
    (∀ i c k rec pa, Safe s → s.active 8 m.val = some (i, c) → s.stRuns 8 m.val = true → c.unclaimed = some k →
      let tid := c.vtid.getD k 0
      let e := s.entry tid
      let va := Entry.verAddr e
      let v := (bits rec 0 8 + 1) % 256
      let b := v % (Entry.nver e + 1)
      let y := bufEntry rec b
      s.vread va 64 = .ok rec →
      let free := bufState y = 0 ∨ (bufState y = 1 ∧ bufRset y = true ∧ waitMet (s.millEvc m.val (bits y 16 6)) (bits y 32 32) = true)
      let claimed := fun (t : State) =>
        bufState (Memory.read t.mem pa 8) = 2 ∧ bufVer (Memory.read t.mem pa 8) = v ∧
        (∀ a, a < pa ∨ pa + 8 ≤ a → Memory.byte t.mem a = Memory.byte s.mem a) ∧
        (∃ c', (t.mill m.val).q[i]? = some c' ∧ c'.r = c.r ∧ c'.ver = c.ver.set k (if k = 0 ∧ s.readerOk tid = false then 512 + bits rec 0 8 else bits rec 0 8)) ∧ Calm s t
      (free → s.translate (va + 24 + 8 * b) .atomic = .ok pa false → (s.mill m.val).pinT = none → Record.opcode c.r = 1 →
        Does (.update m) s claimed) ∧
      (free → s.translate (va + 24 + 8 * b) .atomic = .ok pa false → (s.mill m.val).pinT.isSome = true →
        Does (.bufferClaim m) s fun t => claimed t ∧ (t.mill m.val).pinT = none ∧ t.flag (Reg.millStat m.val) 25 = false) ∧
      (bufState y = 1 → bufRset y = true → waitMet (s.millEvc m.val (bits y 16 6)) (bits y 32 32) = false →
        (Record.opcode c.r = 1 → (s.mill m.val).pinT = none → Does (.update m) s fun t => (t.mill m.val).pinT = some (s.now (640 + m.val)) ∧
          t.flag (Reg.millStat m.val) 25 = true ∧
          (t.reg (Reg.vpinEvt m.val)).toNat = min (2 ^ 32 - 1) ((s.reg (Reg.vpinEvt m.val)).toNat + 1) ∧ t.mem = s.mem) ∧
        ((s.mill m.val).pinT.isSome = true → Does (.bufferClaim m) s fun t => t = s))) ∧
    (∀ i c, s.active 8 m.val = some (i, c) → s.stRuns 8 m.val = true → Record.opcode c.r = 1 → c.unclaimed = none → c.out = 0 →
      s.updFault c = none → Does (.update m) s fun t => t.active 8 m.val = some (i, { c with out := 1 }) ∧
        Frame Nothing Nothing Nothing (· = m.val) s t ∧ Quiet s t) ∧
    (∀ i c s1 b s2, s.active 8 m.val = some (i, c) → s.stRuns 8 m.val = true → Record.opcode c.r = 1 → c.unclaimed = none →
      c.out ≠ 0 →
      let q := s.updAt c
      let f := s.updFmts (c.scales.getD 0 0)
      let g := updRegion (s.entry (Upd.param (c.scales.getD 0 0))) (Record.desc c.r 0)
      let cells := blockCells q.1 q.2.1 q.2.2.1 q.2.2.2
      let res := updResults f b c cells
      s.updRead m.val c q.1 q.2.1 q.2.2.1 q.2.2.2 = .ok (s1, b) → badValidity f b cells = none →
      s1.updStore m.val c f b q (g.1 + g.2.2.1) (g.2.1 + g.2.2.2) res = .ok s2 → Does (.update m) s fun t =>
        t.mem = s2.mem ∧ (∀ x ∈ res, validOf f.p b.p x.1.1 x.1.2 = true → x.2 = some (updCell f b c x.1)) ∧
        (∃ c', (t.mill m.val).q[i]? = some c' ∧ c'.r = c.r ∧ c'.out = c.out + 1 ∧ c'.complete = decide (c.out = s.updBlocks c)) ∧
        t.reg64 (Reg.obsMill m.val) = (s.reg64 (Reg.obsMill m.val) + (res.filterMap (·.2)).length) % 2 ^ 64)

/-- R80, R83, R262: MIRROR binds a counter of a hand, at most 8 of them, and any other hand loses the mirror; the hand sends a bound
counter's value when it differs from the last one sent; a value that arrives from the hand that serves the mirror becomes the mirror's
and completes the MIRROR record, any other is dropped. A SIGNAL that arrives, or one
of the Manor, adds its amount to its counter. -/
def Obligations.MirrorsAndSignals : Prop :=
  (∀ (m : MillIx) (s : State) (va : Nat) (r : BitVec 512) (h : Nat), s.millHead m.val 3 = .ready va r →
    epToHand (Record.argBits r 16 16) = some h →
    let keep := (s.hand h).keepBinds m.val (Record.argBits r 0 5)
    (keep.length < 8 → Does (.mirror m) s fun t =>
      (t.hand h).binds = keep ++ [{ mill := m.val, mir := Record.argBits r 0 5, ctr := Record.argBits r 8 6 }] ∧
      (t.mill m.val).buf = (s.mill m.val).buf.drop 1 ∧
      (∃ c, (t.mill m.val).q = (s.mill m.val).q ++ [c] ∧ c.r = r ∧ c.va = va ∧ c.complete = false) ∧
      (∀ j, j ≠ h → t.hand j = { s.hand j with binds := (s.hand j).keepBinds m.val (Record.argBits r 0 5) }) ∧
      Frame Nothing (fun _ => True) Nothing (· = m.val) s t ∧ Quiet s t) ∧
    (8 ≤ keep.length → Does (.mirror m) s fun t =>
      (t.mill m.val).halted = true ∧ t.flag (Reg.millStat m.val) 28 = true ∧ Notice.millStop m.val va ∈ t.recov.notices ∧
      (t.hand h).binds = (s.hand h).binds ∧ t.mem = s.mem)) ∧
  (∀ (h : HandIx) (b : Fin 8) (s : State) (x : Bind), (s.hand h.val).binds[b.val]? = some x → s.handStopped h.val = false →
    let v := s.evc h.val x.ctr
    (x.sent ≠ some v → Does (.mirrorSend h b) s fun t =>
      t.net = s.net ++ [ctlPacket (epHand h.val 25) (epMill x.mill) h.val (.mirror x.mir v)] ∧
      (t.hand h.val).binds = (s.hand h.val).binds.set b.val { x with sent := some v } ∧ t.recov = s.recov ∧
      Frame Nothing (· = h.val) Nothing Nothing s t) ∧
    (x.sent = some v → Does (.mirrorSend h b) s fun t => t = s)) ∧
  (∀ (m : MillIx) (mirror : BitVec 5) (s : State) (p : Packet) (v : W32) (a b : List Packet), s.net = a ++ p :: b →
    p.arrived = true → p.dest.toNat = epMill m.val → p.msg = .mirror mirror.toNat v →
    (∀ q ∈ a, q.arrived = true → q.dest = p.dest → ∀ w, q.msg ≠ .mirror mirror.toNat w) →
    let served := fun (h : Nat) => (s.hand h).serves m.val mirror.toNat
    ((∀ h, epToHand p.src.toNat = some h → served h = false) → Does (.mirrorUpdate m mirror) s fun t => t.net = a ++ b ∧
      t.recov = s.recov ∧ Frame Nothing Nothing Nothing Nothing s t) ∧
    (∀ h, epToHand p.src.toNat = some h → served h = true → Does (.mirrorUpdate m mirror) s fun t =>
      t.millEvc m.val (32 + mirror.toNat) = v ∧ t.net = a ++ b ∧
      (∀ (i : Nat) (c : Cmd), (s.mill m.val).q[i]? = some c → ∃ c', (t.mill m.val).q[i]? = some c' ∧ c'.r = c.r ∧
        c'.complete = (c.complete || (Record.opcode c.r == 3 && Record.argBits c.r 0 5 == mirror.toNat))) ∧
      t.recov = s.recov ∧ Frame (· = Reg.millEvc m.val (32 + mirror.toNat)) Nothing Nothing (· = m.val) s t)) ∧
  (∀ (dest : BitVec 16) (ctr : BitVec 6) (amt : BitVec 8) (s : State),
    let adds := fun (manor : Bool) (net' : List Packet) =>
      (∀ h, epToHand dest.toNat = some h → epUnit dest.toNat = 25 → Does (.signalReceive manor dest ctr amt) s fun t =>
        t.evc h ctr.toNat = s.evc h ctr.toNat + BitVec.ofNat 32 amt.toNat ∧ t.net = net' ∧ t.recov = s.recov ∧
        Frame (· = Reg.evc h ctr.toNat) (· = h) Nothing Nothing s t) ∧
      (∀ m, epToHand dest.toNat = none → epToMill dest.toNat = some m → ctr.toNat < 32 →
        Does (.signalReceive manor dest ctr amt) s fun t =>
          t.millEvc m ctr.toNat = s.millEvc m ctr.toNat + BitVec.ofNat 32 amt.toNat ∧ t.net = net' ∧ t.recov = s.recov ∧
          Frame (· = Reg.millEvc m ctr.toNat) Nothing Nothing Nothing s t)
    adds true s.net ∧
    (∀ (p : Packet) (a b : List Packet), s.net = a ++ p :: b → p.arrived = true → p.dest = dest →
      p.msg = .signal ctr.toNat amt.toNat →
      (∀ q ∈ a, q.arrived = true → q.dest = dest → q.msg ≠ .signal ctr.toNat amt.toNat) → adds false (a ++ b)))

/-! ## Partial sums and P8 (chapters 2 and 5) -/

/-- R193 to R195, R611, R612: with its tiles there and room for its output, a RADD adds one payload position: in the plain form each
element is the FP64 sum of the arriving and the local one, in the double-double form the pair that dd_add gives, and with FINAL the exact
sum rounded once into the payload format; without an arriving operand the local one is passed on. -/
def Obligations.RaddAddsPartials : Prop :=
  ∀ (k : CoreIx) (s : State) (c : Cmd), AtWork s 4 k.val 2 0 c → c.begun = true → Record.argBits c.r 26 4 ≤ 3 →
    let f := Record.argBits c.r 26 4
    let w := raddW c.r
    let n := c.steps.length
    let d := Record.desc c.r 2
    let final := bit (Record.arg c.r) 30
    let nout := if final then 1 else w
    let w1 := if raddWide c.r 1 then w else 1
    let arr := if (Record.desc c.r 0).kind ≠ 0 then some ((upTo w).map fun j => s.heldTile k.val c 0 (w * n + j)) else none
    let loc := (upTo w1).map fun j => s.heldTile k.val c 1 (w1 * n + j)
    let sum := fun (e : Nat) => raddElem (raddDd c.r) (arr.map fun l => arrivingElem c.r l e) (localElem c.r loc e)
    ((Record.desc c.r 0).kind ≠ 0 → w * (n + 1) ≤ c.a.got) → w1 * (n + 1) ≤ c.b.got → s.canPutN k.val d nout = true →
    (d.kind = 2 → ((s.core k.val).port d.port).count + nout ≤ portDepth d.port) → Does (.radd k) s fun t =>
      let tile := fun (j : Nat) => (t.core k.val).slot (if d.kind = 2 then
        portSlotOf d.port ((s.core k.val).port d.port) (((s.core k.val).port d.port).count + j) else d.row0 + c.out + j)
      (final = false → raddDd c.r = false → ∀ j < w, ∀ e < 512, payElem (tile j).pay 8 e = (sum (512 * j + e)).1 % 2 ^ 64) ∧
      (final = false → raddDd c.r = true → ∀ e < 512, payElem (tile 0).pay 8 e = (sum e).1 % 2 ^ 64 ∧
        payElem (tile 1).pay 8 e = (sum e).2.1 % 2 ^ 64) ∧
      (final = true → ∀ i < fmtRows f, ∀ j < fmtCols f,
        i < (if raddWide c.r 1 then fmtRows f else (loc.getD 0 { hdr := 0, pay := 0 }).head.vrows) →
        j < (if raddWide c.r 1 then fmtCols f else (loc.getD 0 { hdr := 0, pay := 0 }).head.vcols) →
        (tile 0).elem f i j = (raddFinal f (raddDd c.r) (arr.map fun l => arrivingElem c.r l (i * fmtCols f + j))
          (localElem c.r loc (i * fmtCols f + j))).1 % 2 ^ (8 * fmtSize f)) ∧
      (∃ c', (t.queue 4 k.val)[0]? = some c' ∧ c'.r = c.r ∧ c'.steps = n :: c.steps ∧ c'.out = c.out + nout ∧
        c'.complete = decide (n + 1 = raddT c.r)) ∧
      t.mem = s.mem ∧ t.recov = s.recov ∧ (∀ a, a ≠ Reg.vectStat k.val → t.reg a = s.reg a)

/-- R59, R60, R77: a grant gives its producer credits, which it acknowledges; a spent credit that returns stays with a producer that
holds a grant and else goes back to its core, which keeps it; a recalled producer gives back all it holds. A tile for an open P8 with room takes
the next slot and is acknowledged; any other is discarded, flagged and reported. -/
def Obligations.P8CreditsAndTiles : Prop :=
  ∀ (i : Nat) (s : State) (p : Packet), s.net[i]? = some p → p.arrived = true →
    let net := s.net.eraseIdx i
    (∀ core n h, p.msg = .p8credit core n true → epToHand p.dest.toNat = some h →
      let key := p8Key (epUnit p.dest.toNat) core
      (((s.hand h).p8Dests.contains core = true ∨ (s.hand h).p8Dests.length < 32) → Does (.p8Credit i) s fun t =>
        PMap.get 0 (t.hand h).p8held key = PMap.get 0 (s.hand h).p8held key + n ∧ key ∈ (t.hand h).p8grants ∧
        t.net = net ++ [ctlPacket p.dest.toNat p.src.toNat h (.p8ack core)] ∧ t.recov = s.recov ∧
        Frame Nothing (· = h) Nothing Nothing s t) ∧
      ((s.hand h).p8Dests.contains core = false → 32 ≤ (s.hand h).p8Dests.length → Does (.p8Credit i) s fun t =>
        t.flag (Reg.seqStat h) 28 = true ∧ Notice.grantRefused h p.src.toNat ∈ t.recov.notices ∧
        (t.hand h).p8held = (s.hand h).p8held ∧ t.bell.cuts ≠ [] ∧ t.mem = s.mem)) ∧
    (∀ core n h, p.msg = .p8credit core n false → epToHand p.dest.toNat = some h →
      let key := p8Key (epUnit p.dest.toNat) core
      let home := p.dest.toNat = epCore core ∧ (p.src.toNat ≠ p.dest.toNat ∨ (s.hand h).p8grants.contains key = false)
      (home → Does (.p8Credit i) s fun t =>
        (t.core core).p8own = (s.core core).p8own + n ∧ t.net = net ∧ t.recov = s.recov ∧
        Frame Nothing Nothing (· = core) Nothing s t) ∧
      (¬ home → (s.hand h).p8grants.contains key = true → Does (.p8Credit i) s fun t =>
        PMap.get 0 (t.hand h).p8held key = PMap.get 0 (s.hand h).p8held key + n ∧ t.net = net ∧ t.recov = s.recov ∧
        Frame Nothing (· = h) Nothing Nothing s t) ∧
      (¬ home → (s.hand h).p8grants.contains key = false → Does (.p8Credit i) s fun t =>
        t.net = net ++ [ctlPacket p.dest.toNat (epCore core) h (.p8credit core n false)] ∧ t.recov = s.recov ∧
        Frame Nothing Nothing Nothing Nothing s t)) ∧
    (∀ core h, p.msg = .p8recall core → epToHand p.dest.toNat = some h → Does (.p8Recall i) s fun t =>
      let key := p8Key (epUnit p.dest.toNat) core
      let n := PMap.get 0 (s.hand h).p8held key
      key ∉ (t.hand h).p8grants ∧ (t.hand h).p8held = PMap.del (s.hand h).p8held key ∧
      t.net = net ++ (if n = 0 then [] else [ctlPacket p.dest.toNat (epCore core) h (.p8credit core n false)]) ∧
      t.recov = s.recov ∧ Frame Nothing (· = h) Nothing Nothing s t) ∧
    (∀ x k, p.msg = .p8tile x → epToCore p.dest.toNat = some k →
      let q := (s.core k).port 8
      let l := s.logical (k / 17) (k % 17)
      (l < 16 → s.portOpen (k / 17) l 8 = true → q.count < 8 → Does (.p8TileReceive i) s fun t =>
        (t.core k).slot (portSlotOf 8 q q.count) = x ∧ ((t.core k).port 8).count = q.count + 1 ∧
        ((t.core k).port 8).srcs = q.srcs ++ [p.src.toNat] ∧
        t.net = net ++ [{ ctlPacket p.dest.toNat p.src.toNat (k / 17) .tileAck with vc := 1, ord := false }] ∧ t.recov = s.recov ∧
        Frame Nothing (· = k / 17) (· = k) Nothing s t) ∧
      ((16 ≤ l ∨ s.portOpen (k / 17) l 8 = false ∨ 8 ≤ q.count) → Does (.p8TileReceive i) s fun t =>
        t.flag (Reg.routerStat (k / 17)) 29 = true ∧ t.field (Reg.routerStat (k / 17)) 0 16 = p.src.toNat ∧
        Notice.p8Drop (k / 17) p.src.toNat ∈ t.recov.notices ∧ t.net = net ∧
        Frame (· = Reg.routerStat (k / 17)) Nothing Nothing Nothing s t))

/-! ## The constable (chapters 12 and 13) -/

/-- R486, R503 to R506, R508: no frame arrives while the management link is down; while the tag-failure rule limits the rate, a frame too
soon is dropped. Every other frame is checked for form, target, key, tag and counter, in this order; the first failure
answers its status, sets REJECT, and does nothing else. A frame that passes the tag and counter checks uses its counter, whatever
its outcome, and every refusal sets REJECT. The third part of each row is the body's length by R507. -/
def Obligations.CriticalCommandsAreChecked : Prop :=
  ∀ (f : CmdFrame) (s : State), ∀ x ∈ ([(.fwBegin f, 0x0001, fun n => n == 8),
      (.fwChunk f, 0x0002, fun n => decide (4 ≤ n) && decide (n ≤ 8196)), (.fwCommit f, 0x0003, fun n => n == 0),
      (.keyErase f, 0x0010, fun n => n == 0), (.policySet f, 0x0020, fun n => n == 5 || n == 37), (.fence f, 0x0030, fun n => n == 2),
      (.unfence f, 0x0031, fun n => n == 2), (.powerLimit f, 0x0040, fun n => n == 4), (.jobStart f, 0x0050, fun n => n == 8),
      (.jobStop f, 0x0051, fun n => n == 1)] : List (Instr × Nat × (Nat → Bool))),
    let form := f.formOk = true ∧ f.body.length ≤ 8196
    let rejects := fun (status : Nat) (t : State) => (∃ tag, t.rsp = .command x.2.1 f.counter.toNat status tag) ∧
      t.flag Reg.mgmtStat 26 = true ∧ t.sec.lastCtr = s.sec.lastCtr ∧ t.sec.cmdKey = s.sec.cmdKey ∧ t.mem = s.mem ∧
      t.ddr = s.ddr ∧ t.flash = s.flash ∧ t.job = s.job ∧ t.gov = s.gov ∧ t.staged = s.staged ∧ ∀ a, a ≠ Reg.mgmtStat → t.reg a = s.reg a
    (s.flag Reg.mgmtStat 31 = false → Does x.1 s fun t => t = s) ∧
    (s.flag Reg.mgmtStat 31 = true →
      (s.overRate = true → Does x.1 s fun t => t = { s with rsp := .dropped }) ∧
      (s.overRate = false →
        (¬ form → Does x.1 s (rejects 0x12)) ∧
        (form → x.2.2 f.body.length = true → f.target.toNat ≠ moduleTarget → Does x.1 s (rejects 0x13)) ∧
        (form → x.2.2 f.body.length = true → f.target.toNat = moduleTarget →
          (s.sec.cmdKey = none → Does x.1 s (rejects 0x22)) ∧
          (∀ k, s.sec.cmdKey = some k →
            (f.tag.toNat ≠ cmdTag k f x.2.1 → Does x.1 s fun t => rejects 0x10 t ∧ t.sec.tagFail = s.sec.tagFail + 1) ∧
            (f.tag.toNat = cmdTag k f x.2.1 →
              (f.counter ≤ s.sec.lastCtr → Does x.1 s fun t => rejects 0x11 t ∧ t.sec.tagFail = 0) ∧
              (∀ st, s.sec.lastCtr < f.counter → s.forbids x.2.1 = some st → Does x.1 s fun t =>
                Answers t f x.2.1 st ∧ t.flag Reg.mgmtStat 26 = true ∧ t.mem = s.mem ∧ t.flash = s.flash ∧ t.job = s.job ∧
                t.sec.cmdKey = s.sec.cmdKey) ∧
              (s.sec.lastCtr < f.counter → s.forbids x.2.1 = none → Does x.1 s fun t => t.sec.lastCtr = f.counter ∧
                ∃ status tag, t.rsp = .command x.2.1 f.counter.toNat status tag ∧ (2 ≤ status → t.flag Reg.mgmtStat 26 = true)))))))

/-- R475, R501, R502, R511, R513: FW_BEGIN refuses a SEQ below MIN_SEQ and else erases the unused bank's first 8 KiB (to 0xFF, which the
model presumes, assumption 38); FW_CHUNK holds what lies below offset 8,192 and writes the rest; FW_COMMIT writes the held 8 KiB only when
the image verifies. KEY_ERASE destroys the key area and posts its alarm record; POLICY_SET changes permitted values, and the command key with a body
of 37 bytes. -/
def Obligations.FirmwareAndKeyCommands : Prop :=
  ∀ (f : CmdFrame) (s : State), Safe s →
    let b := f.body
    let bank := bankBase (1 - s.ctl.bank)
    (Accepted s f 0x0001 (fun n => n == 8) →
      (s.sec.minSeq.toNat ≤ bodyNat b 4 4 → Does (.fwBegin f) s fun t => Answers t f 0x0001 0 ∧
        t.sec.fw = some (1 - s.ctl.bank, bodyNat b 0 4, bodyNat b 4 4) ∧ t.sec.fwHeld = [] ∧
        (∀ i < 8192, Memory.byte t.flash (bank + i) = 0xFF) ∧
        (∀ a, a < bank ∨ bank + 8192 ≤ a → Memory.byte t.flash a = Memory.byte s.flash a) ∧ t.mem = s.mem ∧ ∀ a, t.reg a = s.reg a) ∧
      (bodyNat b 4 4 < s.sec.minSeq.toNat → Does (.fwBegin f) s fun t => Answers t f 0x0001 0x30 ∧ t.flash = s.flash ∧
        t.sec.fw = s.sec.fw)) ∧
    (∀ x, Accepted s f 0x0002 (fun n => decide (4 ≤ n) && decide (n ≤ 8196)) → s.sec.fw = some x → Memory.wf s.sec.fwHeld = true →
      let off := bodyNat b 0 4
      let data := b.drop 4
      (off % 4096 = 0 → off + data.length ≤ 0x2000000 → Does (.fwChunk f) s fun t => Answers t f 0x0002 0 ∧
        (∀ i (q : i < data.length), (8192 ≤ off + i → Memory.byte t.flash (bankBase x.1 + off + i) = data[i]) ∧
          (off + i < 8192 → Memory.byte t.sec.fwHeld (off + i) = data[i])) ∧
        (∀ a, a < bankBase x.1 + max 8192 off ∨ bankBase x.1 + off + data.length ≤ a →
          Memory.byte t.flash a = Memory.byte s.flash a) ∧ t.sec.fw = s.sec.fw ∧ ∀ a, t.reg a = s.reg a) ∧
      ((off % 4096 ≠ 0 ∨ 0x2000000 < off + data.length) → Does (.fwChunk f) s fun t => Answers t f 0x0002 0x30 ∧ t.flash = s.flash ∧
        t.sec.fwHeld = s.sec.fwHeld)) ∧
    (∀ x, Accepted s f 0x0003 (fun n => n == 0) → s.sec.fw = some x →
      let h := s.sec.fwHeld
      let good := imgMagic h 0 && imgLayout h 0 && imgDigests h 0 s.flash x.1 && imgSigned h 0 && decide (s.sec.minSeq.toNat ≤ imgSeq h 0)
      Does (.fwCommit f) s fun t =>
        (good = true → Answers t f 0x0003 0 ∧
          (∀ i < 8192, Memory.byte t.flash (bankBase x.1 + i) = Memory.byte h i) ∧
          (∀ a, a < bankBase x.1 ∨ bankBase x.1 + 8192 ≤ a → Memory.byte t.flash a = Memory.byte s.flash a) ∧
          (s.ctl.flashRecovery = false → t.mem = s.mem ∧ t.ctl = s.ctl) ∧ (s.ctl.flashRecovery = true → t.ctl.step = 1 ∧ t.mem = [])) ∧
        (good = false → Answers t f 0x0003 0x30 ∧ t.flash = s.flash)) ∧
    (Accepted s f 0x0010 (fun n => n == 0) → Does (.keyErase f) s fun t => Answers t f 0x0010 0 ∧
      t.sec.cmdKey = none ∧ t.sec.idSeed = none ∧ t.sec.attSeed = none ∧ t.sec.erasePending = true ∧ t.sec.erased = true ∧
      (∃ r w, t.recov.flight = s.recov.flight ++ [(r, w)] ∧ bits w.toNat 0 8 = 0x0F ∧ bits w.toNat 124 4 = 5) ∧
      t.rsp = .command 0x0010 f.counter.toNat 0 0 ∧ t.mem = s.mem ∧ t.flash = s.flash ∧ ∀ a, t.reg a = s.reg a) ∧
    (Accepted s f 0x0020 (fun n => n == 5 || n == 37) →
      let v := fun (i : Nat) => (b.getD i 255).toNat
      ((∀ i < 5, s.sec.mayTake i (v i) = true) → Does (.policySet f) s fun t => Answers t f 0x0020 0 ∧
        (∀ i < 5, t.sec.owner.getD i none = if v i = 255 then s.sec.owner.getD i none else some (v i)) ∧
        (b.length = 5 → t.sec.cmdKey = s.sec.cmdKey) ∧
        (∀ k, s.sec.cmdKey = some k → b.length = 37 → t.sec.cmdKey = some (BitVec.ofNat 256 (bodyNat b 5 32) ^^^
          BitVec.ofNat 256 (Config.kmac256 k (toBytes 8 f.counter.toNat) 256 "HYG KEY"))) ∧
        t.sec.policy = s.sec.policy ∧ t.mem = s.mem ∧ ∀ a, t.reg a = s.reg a) ∧
      ((∃ i < 5, s.sec.mayTake i (v i) = false) → Does (.policySet f) s fun t => Answers t f 0x0020 0x12 ∧
        t.sec.owner = s.sec.owner ∧ t.sec.cmdKey = s.sec.cmdKey))

/-- R63 to R65, R360, R444, R507, R509, R510, R567: FENCE sets a hand's fence bit, or takes a suit in service out of it with its fold bits,
and UNFENCE reverses only what a FENCE set; the bits are active at once in a suit that is drained, else they are pending; POWER_LIMIT takes effect at once or is staged while a deal runs; JOB_START takes a usable root table and starts the deal
with every counter 0, units and packets empty; JOB_STOP stops it by the Bell or at the next step boundary. A body that names nothing is FAILED, and a root
table that cannot be used is REFUSED: the model's readings (assumptions 37 and 40). -/
def Obligations.FenceLimitAndJobCommands : Prop :=
  ∀ (f : CmdFrame) (s : State), Safe s →
    let b := f.body
    let calm := fun (t : State) => s.colls = [] → t.mem = s.mem ∧ t.recov.flight = s.recov.flight
    let fenceBit := fun (t : State) (h : Nat) => (t.bound (Reg.fence (h / 160) (h % 160 / 32))).getLsbD (h % 32)
    (Accepted s f 0x0030 (fun n => n == 2) →
      (fenceTarget (bodyNat b 0 2) = none → Does (.fence f) s fun t => Answers t f 0x0030 0x30 ∧ t.staged = s.staged ∧
        t.sec.fencedHands = s.sec.fencedHands ∧ t.recov = s.recov) ∧
      (∀ h, fenceTarget (bodyNat b 0 2) = some (.inl h) → s.fenced h = false → Does (.fence f) s fun t => Answers t f 0x0030 0 ∧
        fenceBit t h = true ∧ (s.drained (h / 160) = true → t.fenced h = true) ∧
        (∀ h' < 640, h' ≠ h → fenceBit t h' = fenceBit s h') ∧ t.sec.fencedHands = s.sec.fencedHands ++ [h] ∧ calm t) ∧
      (∀ h, fenceTarget (bodyNat b 0 2) = some (.inl h) → s.fenced h = true → Does (.fence f) s fun t => Answers t f 0x0030 0 ∧
        t.staged = s.staged ∧ t.sec.fencedHands = s.sec.fencedHands ∧ t.mem = s.mem ∧ t.recov = s.recov ∧ ∀ a, t.reg a = s.reg a) ∧
      (∀ i, fenceTarget (bodyNat b 0 2) = some (.inr i) → s.suitUp i = true → Does (.fence f) s fun t => Answers t f 0x0030 0 ∧
        t.suitUp i = false ∧ (∀ j < 4, s.suitDark j = false → (t.bound (Reg.fabCtl j)).getLsbD i = true ∧
          (s.drained j = true → t.flag (Reg.fabCtl j) i = true)) ∧
        t.sec.fencedSuits = s.sec.fencedSuits ++ [i] ∧ t.recov.outSuits = s.recov.outSuits ++ [i] ∧ calm t)) ∧
    (Accepted s f 0x0031 (fun n => n == 2) →
      (∀ h, fenceTarget (bodyNat b 0 2) = some (.inl h) → Does (.unfence f) s fun t => Answers t f 0x0031 0 ∧ calm t ∧
        (s.sec.fencedHands.contains h = true → fenceBit t h = false ∧ (s.drained (h / 160) = true → t.fenced h = false) ∧
          h ∉ t.sec.fencedHands) ∧
        (s.sec.fencedHands.contains h = false → t.staged = s.staged ∧ ∀ a, t.reg a = s.reg a)) ∧
      (∀ i, fenceTarget (bodyNat b 0 2) = some (.inr i) → Does (.unfence f) s fun t => Answers t f 0x0031 0 ∧ calm t ∧
        (s.sec.fencedSuits.contains i = true → i ∉ t.recov.outSuits ∧ ∀ j < 4, s.suitDark j = false →
          (t.bound (Reg.fabCtl j)).getLsbD i = false ∧ (s.drained j = true → t.flag (Reg.fabCtl j) i = false)) ∧
        (s.sec.fencedSuits.contains i = false → t.recov.outSuits = s.recov.outSuits ∧ t.staged = s.staged))) ∧
    (Accepted s f 0x0040 (fun n => n == 4) →
      let fm := limitOf (bodyNat b 0 2) 600 s.cfgFMax
      let pl := limitOf (bodyNat b 2 2) 300 s.cfgPLimit
      (s.job.run = false → Does (.powerLimit f) s fun t => Answers t f 0x0040 0 ∧ t.gov = { fMax := fm, pLimit := pl, staged := none } ∧
        (∀ x ∈ t.suits, x.2.clock ≤ fm) ∧ t.mem = s.mem ∧ ∀ a, t.reg a = s.reg a) ∧
      (s.job.run = true → Does (.powerLimit f) s fun t => Answers t f 0x0040 1 ∧ t.gov = { s.gov with staged := some (fm, pl) } ∧
        t.suits = s.suits ∧ t.mem = s.mem ∧ ∀ a, t.reg a = s.reg a)) ∧
    (Accepted s f 0x0050 (fun n => n == 8) →
      (∀ j deal, s.readRoot (bodyNat b 0 8) = some (j, deal) → Does (.jobStart f) s fun t => Answers t f 0x0050 0 ∧
        t.job.run = true ∧ t.job.tensorVa = j.tensorVa ∧ t.job.tensorCount = j.tensorCount ∧ t.job.scaleVa = j.scaleVa ∧
        t.job.traceVa = j.traceVa ∧ t.job.ringLog = j.ringLog ∧ t.job.entries = j.entries ∧ (∀ u ∈ t.job.startPending, u < 648) ∧
        t.reg Reg.jobId = BitVec.ofNat 32 deal ∧ (∀ a, isStartZero a = true → t.reg a = 0) ∧ (∀ h, t.hand h = {}) ∧
        (∀ k, t.core k = {}) ∧ t.net = [] ∧ t.colls = [] ∧ t.mem = s.mem) ∧
      (s.readRoot (bodyNat b 0 8) = none → Does (.jobStart f) s fun t => Answers t f 0x0050 0x20 ∧ t.job = s.job ∧ t.mem = s.mem)) ∧
    (Accepted s f 0x0051 (fun n => n == 1) →
      (bodyNat b 0 1 = 0 → Does (.jobStop f) s fun t => Answers t f 0x0051 0 ∧ t.job.stopWanted = 1 ∧ t.bell.cuts ≠ [] ∧
        t.field Reg.bellStat 25 4 = 2 ∧ t.mem = s.mem) ∧
      (bodyNat b 0 1 = 1 → Does (.jobStop f) s fun t => Answers t f 0x0051 1 ∧ t.job.stopWanted = 2 ∧ t.job.ckptArmed = true ∧
        t.bell = s.bell ∧ t.mem = s.mem) ∧
      (2 ≤ bodyNat b 0 1 → Does (.jobStop f) s fun t => Answers t f 0x0051 0x30 ∧ t.job = s.job ∧ t.bell = s.bell))

/-- R498 to R500, R514 to R517: an attestation request, at most one in 10 ms, is answered with the report, signed under an index that is used up
first; a rotation certifies the new key, restarts its index and raises ATT_GEN. A sensor's trip takes the actions of its level: from level 2
a package Bell and the hold, at level 3 the erase of the keys where the policy says so. That a level holds until power-on is the
model's reading (assumption 36). -/
def Obligations.AttestationAndAlarms : Prop :=
  ∀ (s : State),
    (∀ nonce, s.flag Reg.mgmtStat 31 = true → s.ctl.flashRecovery = false →
      let soon := ∃ t, s.sec.lastAtt = some t ∧ s.clock < t + 10000000
      (soon → Does (.attestationRequest nonce) s fun t => t = { s with rsp := .dropped }) ∧
      (¬ soon → s.sec.attSeed = none → Does (.attestationRequest nonce) s fun t => t.rsp = .command 0x0100 0 0x22 0) ∧
      (∀ seed, ¬ soon → s.sec.attSeed = some seed → (s.sec.idOut = true ∨ 65536 ≤ s.sec.attNext) →
        Does (.attestationRequest nonce) s fun t => t.rsp = .busy ∧ t.sec.attNext = s.sec.attNext) ∧
      (∀ seed, ¬ soon → s.sec.attSeed = some seed → s.sec.idOut = false → s.sec.attNext < 65536 →
        Does (.attestationRequest nonce) s fun t =>
          t.rsp = .bytes (s.report nonce ++ xmssSignature 2692 seed s.sec.attNext (s.report nonce) ++ s.sec.attCert) ∧
          t.sec.attNext = s.sec.attNext + 1 ∧ (60000 ≤ t.sec.attNext → t.sec.rotating = true) ∧
          t = { s with sec := { s.sec with attNext := t.sec.attNext, rotating := t.sec.rotating, lastAtt := some s.clock }, rsp := t.rsp })) ∧
    (s.flag Reg.mgmtStat 31 = true → s.ctl.flashRecovery = false → Does .identityRequest s fun t =>
      t = { s with rsp := .bytes (xmssPublicKey Config.identitySeed ++ Config.dewesaCert) }) ∧
    (s.flag Reg.mgmtStat 31 = true → s.ctl.flashRecovery = true → ∀ nonce, Does (.attestationRequest nonce) s (fun t =>
      t = { s with rsp := .dropped }) ∧ Does .identityRequest s fun t => t = { s with rsp := .dropped }) ∧
    (∀ seed, s.sec.rotating = true → s.sec.idSeed = some seed →
      (s.sec.idNext < 2 ^ 20 → Does .keyRotation s fun t => t.sec.attGen = s.sec.attGen + 1 ∧ t.sec.attNext = 0 ∧
        t.sec.idNext = s.sec.idNext + 1 ∧ t.sec.attSeed = some (Config.keySeed s.sec.keysMade) ∧ t.sec.rotating = false ∧
        t.sec.cmdKey = s.sec.cmdKey ∧ t = { s with sec := t.sec }) ∧
      (2 ^ 20 ≤ s.sec.idNext → Does .keyRotation s fun t => t.sec.idOut = true ∧ t.sec.attSeed = s.sec.attSeed ∧
        t.sec.idNext = s.sec.idNext ∧ t = { s with sec := t.sec })) ∧
    (∀ (sensor : Fin 5) (level : Fin 4) (value : W32) (l : Nat), s.tripLevel sensor.val level.val = some l → s.ctl.mainSwitch = true →
      let erase := l = 3 ∧ s.sec.effective 0 = 1
      (s.sec.holds sensor.val l = true → Does (.sensorTrip sensor level value) s fun t => t = s.spend) ∧
      (s.sec.holds sensor.val l = false → Does (.sensorTrip sensor level value) s fun t =>
        t.sec.level = max s.sec.level l ∧ t.sec.holds sensor.val l = true ∧
        (erase → t.sec.cmdKey = none ∧ t.sec.attSeed = none ∧ t.sec.erasePending = true ∧
          t.recov.flight.length = s.recov.flight.length + 2) ∧
        (¬ erase → t.sec.cmdKey = s.sec.cmdKey ∧ t.sec.attSeed = s.sec.attSeed ∧ t.recov.flight.length = s.recov.flight.length + 1) ∧
        (l < 2 → t.sec.hold = s.sec.hold ∧ t.bell = s.bell ∧ t.job = s.job) ∧
        (2 ≤ l → t.sec.hold = true ∧ t.bell.cuts ≠ [] ∧ t.sec.alarms.toNat = min 0xFFFFFFFF (s.sec.alarms.toNat + 1) ∧
          s.ctl.ibis < t.ctl.ibis ∧ (s.job.run = true → t.job.stopWanted = 1)) ∧
        t.sec.lastCtr = s.sec.lastCtr ∧ t.mem = s.mem ∧ t.flash = s.flash))

/-! ## Sideband, JTAG and link registers (chapter 12) -/

/-- R458, R484, R486 to R488, R490, R493, R494: the JTAG instructions, of which EXTEST, CLAMP and HIGHZ first ring the package Bell while a
deal runs; the sideband's address assignment and its read-only registers; STOP_N rings the package Bell with SOURCE 1 when it is enabled and no cut
is in progress; a change of a PCIe link, or of the management link, to a state that the link can train to shows in its register. -/
def Obligations.SidebandAndLinks : Prop :=
  ∀ (s : State),
    (∀ x ∈ ([(.bypass, 0, s.rsp), (.idcode, 1, .word 0x2A47E3C7), (.samplePreload, 2, s.rsp)] : List (Instr × Nat × Rsp)),
      Does x.1 s fun t => t = { s with ctl := { s.ctl with jtagIr := x.2.1 }, rsp := x.2.2 }) ∧
    (∀ x ∈ ([(.extest, 3), (.clamp, 4), (.highz, 5)] : List (Instr × Nat)), Does x.1 s fun t => t.ctl.jtagIr = x.2 ∧
      (s.job.run = false → t = { s with ctl := { s.ctl with jtagIr := x.2 } }) ∧
      (s.job.run = true → t.bell.cuts ≠ [] ∧ t.mem = s.mem ∧ t.net = s.net ∧ ∀ a, a ≠ Reg.bellStat → t.reg a = s.reg a)) ∧
    (∀ (setdasa : Bool) (static addr : BitVec 7),
      (3 ≤ s.ctl.step → s.ctl.i3cAddr = none → (setdasa = true → static.toNat = s.staticAddr) →
        Does (.i3cDynamicAddress setdasa static addr) s fun t => t = { s with ctl := { s.ctl with i3cAddr := some addr } }) ∧
      ((s.ctl.step < 3 ∨ s.ctl.i3cAddr.isSome = true ∨ (setdasa = true ∧ static.toNat ≠ s.staticAddr)) →
        Does (.i3cDynamicAddress setdasa static addr) s fun t => t = s)) ∧
    (∀ off len : Nat, Does (.i3cRead off len) s fun t => ∃ l : List Byte, t.rsp = .bytes l ∧ l.length = len ∧
      (∀ i (q : i < l.length), (off + i = 0x20 → l[i] = BitVec.ofNat 8 s.ctl.state) ∧
        (off + i = 0x21 → l[i] = BitVec.ofNat 8 (s.field Reg.bootStat 28 4)) ∧ (off + i = 0x30 → l[i] = BitVec.ofNat 8 s.sec.level)) ∧
      t = { s with rsp := t.rsp, free := t.free }) ∧
    (∀ low : Bool, Does (.stopN low) s fun t => t.ctl.stopNLow = low ∧ t.mem = s.mem ∧
      (low = true → s.ctl.stopNLow = false → s.flag Reg.bellCtl 0 = true → (∀ c ∈ s.bell.cuts, c.complete = true) →
        t.bell.cuts ≠ [] ∧ t.field Reg.bellStat 25 4 = 1) ∧
      ((low = false ∨ s.ctl.stopNLow = true ∨ s.flag Reg.bellCtl 0 = false ∨ ∃ c ∈ s.bell.cuts, c.complete = false) →
        t.bell = s.bell ∧ ∀ a, t.reg a = s.reg a)) ∧
    (∀ (link : Fin 4) (up dpc : Bool) (width rate : BitVec 4),
      let a := Reg.pcieLink link.val
      let can := s.linkExists link.val = true ∧ (up = true → s.linkTrains link.val width.toNat rate.toNat = true)
      (¬ can → Does (.pcieLinkChange link up dpc width rate) s fun t => t = s) ∧
      (can → Does (.pcieLinkChange link up dpc width rate) s fun t => t.flag a 31 = up ∧
        t.field a 24 4 = (if up then width.toNat else 0) ∧ t.field a 20 4 = (if up then rate.toNat else 15) ∧
        t.flag a 30 = (dpc || s.flag a 30) ∧ t.field a 0 16 =
          (if up && (s.flag a 31 || s.field a 20 4 == 15) then min 65535 (s.field a 0 16 + 1) else s.field a 0 16) ∧
        Frame (· = a) Nothing Nothing Nothing s t ∧ Quiet s t)) ∧
    (∀ (up : Bool) (phy fec : BitVec 2),
      let a := Reg.mgmtStat
      let can := s.flag a 31 ≠ up ∧ (up = true → s.phyOk phy.toNat fec.toNat = true)
      (¬ can → Does (.mgmtLinkChange up phy fec) s fun t => t = s) ∧
      (can → Does (.mgmtLinkChange up phy fec) s fun t => t.flag a 31 = up ∧
        t.field a 29 2 = (if up then phy.toNat else 3) ∧ t.field a 27 2 = (if up then fec.toNat else 0) ∧
        t.field a 0 16 = (if up then s.field a 0 16 else min 65535 (s.field a 0 16 + 1)) ∧ t.flag a 26 = s.flag a 26 ∧
        t.recov = { s.recov with irq8 := true } ∧ Frame (· = a) Nothing Nothing Nothing s t))

/-! ## The Bell (chapter 11) -/

/-- R372, R444 to R448, R457, R458: a write with RING starts a cut of its scope, unless a wider one is in progress, with SOURCE 0; the marker reaches a unit of
a cut's scope; a marked unit stops at its stop point, keeping its state; when every unit of the scope has stopped and every
packet is delivered the cut is complete, its time recorded, and a stop that waited for it, or that came under it, ends the job; where the members of an order fault have all stopped, the two
records move to the head of their queues and they go on. A cut longer than 20 us is
marked late, and a hand that does not stop within 10 ms is handled as stalled. A resume ends the complete cuts inside its scope and
restarts every unit that no other cut holds. -/
def Obligations.BellCutsAndResumes : Prop :=
  ∀ (s : State),
    (∀ v : W32, bit v.toNat 31 = true →
      let x := bellScope v.toNat
      let c : Cut := { scope := x.1, suit := x.2.1, hand := x.2.2, source := 0, t0 := s.time }
      Does (.bellRing v) s fun t => t.reg Reg.bellCtl = BitVec.ofNat 32 (v.toNat &&& bellCtlMask) ∧ t.field Reg.bellStat 25 4 = 0 ∧
        t.bell.marked = s.bell.marked ∧ t.bell.stopped = s.bell.stopped ∧ t.mem = s.mem ∧
        ((∃ d ∈ s.bell.cuts, d.covers c = true) → t.bell.cuts = s.bell.cuts) ∧
        ((∀ d ∈ s.bell.cuts, d.covers c = false) → c ∈ t.bell.cuts ∧ ∀ d ∈ t.bell.cuts, d = c ∨ d ∈ s.bell.cuts)) ∧
    (∀ v : W32, bit v.toNat 31 = false → Does (.bellRing v) s fun t => t.bell = s.bell ∧
      t.reg Reg.bellCtl = BitVec.ofNat 32 (v.toNat &&& bellCtlMask) ∧ ∀ a, a ≠ Reg.bellCtl → t.reg a = s.reg a) ∧
    (∀ u : UnitIx,
      (s.cutting u.val = true → s.marked u.val = false → s.bell.stopped.contains u.val = false → Does (.stopMarker u) s fun t =>
        t.bell.marked = s.bell.marked ++ [u.val] ∧ t.bell.stopped = s.bell.stopped ∧ t = { s with bell := t.bell } ∧
        (∀ h : Nat, u.val = h → h < 640 → t.seqRuns h = false)) ∧
      (s.cutting u.val = false → Does (.stopMarker u) s fun t => t = s) ∧
      (s.marked u.val = true → s.bell.stopped.contains u.val = false → s.atStopPoint u.val = true → Does (.unitStop u) s fun t =>
        t.bell.stopped = s.bell.stopped ++ [u.val] ∧ t.bell.cuts = s.bell.cuts ∧ t.mem = s.mem ∧ t.net = s.net ∧
        (∀ k, t.core k = { s.core k with ramp := (t.core k).ramp } ∧ (k / 17 ≠ u.val → t.core k = s.core k)) ∧
        (∀ h, t.hand h = { s.hand h with ring := (t.hand h).ring, rseq := (t.hand h).rseq, lostNew := (t.hand h).lostNew }) ∧
        ∀ a, a ≠ Reg.handLost u.val → t.reg a = s.reg a) ∧
      ((s.marked u.val = false ∨ s.atStopPoint u.val = false) → Does (.unitStop u) s fun t => t = s)) ∧
    (∀ c, (s.bell.cuts.find? fun c => !c.complete && s.allStopped c && s.quiet c) = some c → c.resume = false →
      let stops := c.scope = 0 ∧ s.job.run = true ∧ s.job.stopWanted = 1
      (¬ stops → c.scope < 3 → s.recov.pairs = [] → Does .cutComplete s fun t =>
        t.bell.cuts = s.bell.cuts.map (fun x => if x = c then { x with complete := true } else x) ∧
        t.bell.stopped = s.bell.stopped ∧ t.field Reg.bellStat 0 20 = min (2 ^ 20 - 1) (s.time - c.t0) ∧
        (20000 < s.time - c.t0 → t.flag Reg.bellStat 29 = true) ∧ t.job = s.job ∧ t.mem = s.mem ∧
        ∀ a, a ≠ Reg.bellStat → t.reg a = s.reg a) ∧
      (stops → s.ctl.releaseReq = none → Does .cutComplete s fun t => t.job.run = false ∧ t.job.scrub = true ∧ t.job.stopWanted = 0)) ∧
    (let still := ∀ c ∈ s.bell.cuts, c.complete = true ∨ s.allStopped c = false ∨ s.quiet c = false
     let held := s.job.run = true ∧ s.job.stopWanted = 1 ∧ ∃ c ∈ s.bell.cuts, c.complete = true ∧ (c.scope = 0 ∨ 3 ≤ c.scope)
     (still → ¬ held → s.recov.pairs = [] → Does .cutComplete s fun t => t = s) ∧
     (∀ hs a b, still → ¬ held → s.recov.pairs = [(hs, a, b)] → hs.Nodup → s.job.run = true → (∀ h ∈ hs, h < 640 ∧ s.handStopped h = true) →
       Does .cutComplete s fun t => t.recov.pairs = [] ∧ (∀ h ∈ hs, (t.hand h).xq = reorder (s.hand h).xq a b) ∧
         (∀ h, h ∉ hs → (t.hand h).xq = (s.hand h).xq) ∧ t.mem = s.mem ∧ t.net = s.net) ∧
     (still → held → s.ctl.releaseReq = none → Does .cutComplete s fun t => t.job.run = false ∧ t.job.scrub = true ∧ t.job.stopWanted = 0)) ∧
    ((∃ c ∈ s.bell.cuts, c.complete = false ∧ c.t0 + 20000 < s.time) → Does .cutLate s fun t => t.flag Reg.bellStat 29 = true ∧
      Frame (· = Reg.bellStat) Nothing Nothing Nothing s t ∧ Quiet s t) ∧
    ((∀ c ∈ s.bell.cuts, c.complete = true ∨ s.time ≤ c.t0 + 20000) → Does .cutLate s fun t => t = s) ∧
    (∀ u : UnitIx, u.val < 640 → s.marked u.val = true → s.bell.stopped.contains u.val = false → s.flag (Reg.seqStat u.val) 27 = false →
      PMap.get (s.now u.val) s.bell.markT u.val + 10000000 ≤ s.now u.val → Does (.unitStopTimeout u) s fun t =>
        t.flag (Reg.seqStat u.val) 27 = true ∧ Notice.stall u.val ∈ t.recov.notices ∧ t.net = s.net ∧
        Frame (· = Reg.seqStat u.val) Nothing Nothing Nothing s t) ∧
    (∀ (reeve : Bool) (v : W32), (reeve = true ∨ bit v.toNat 30 = true) →
      let x := bellScope v.toNat
      let r : Cut := { scope := x.1, suit := x.2.1, hand := x.2.2, source := 0, t0 := 0 }
      Does (.bellResume reeve v) s fun t =>
        (∀ c ∈ s.bell.cuts, r.covers c = true → c.complete = true → c ∉ t.bell.cuts) ∧
        (∀ c ∈ s.bell.cuts, r.covers c = true → c.complete = false → { c with resume := true } ∈ t.bell.cuts) ∧
        (∀ c ∈ s.bell.cuts, r.covers c = false → c ∈ t.bell.cuts) ∧ t.mem = s.mem ∧
        ((∀ c ∈ s.bell.cuts, c.complete = true) → x.1 = 0 → t.bell.cuts = [] ∧ t.bell.marked = [] ∧
          ∀ u ∈ s.bell.marked, u ∉ t.bell.stopped)) ∧
    (∀ v : W32, bit v.toNat 30 = false → Does (.bellResume false v) s fun t => t.bell = s.bell)

/-! ## Registers (chapters 13 and 14) -/

/-- R12, R84, R449, R520, R521, R523, R528: an access of another width or alignment faults; a write where nothing is listed, in a dark suit, or
behind a closed gate does nothing; a plain register takes its RW bits and loses the W1C bits written 1; a staged one keeps its active value while a
deal runs and takes the new one as pending, or at once when no deal runs; the low word of a 64-bit register is held until the
high word is written; MODE of SUIT.GRAN.CTL takes effect at once. A register with a row of its own acts as that row. A register of the AIA
windows keeps its word, which is the model's choice (assumption 85). -/
def Obligations.RegisterWrites : Prop :=
  ∀ (reeve : Bool) (addr : Nat) (v : W32) (s : State),
    let a := canon addr
    (∀ width, regAccessOk addr width = false → Does (.registerWrite reeve addr width v) s fun t => t = { s with rsp := .accessFault }) ∧
    (regAccessOk addr 4 = true → isAia addr = true → Does (.registerWrite reeve addr 4 v) s fun t => t = { s with aia := PMap.put s.aia addr v }) ∧
    (regAccessOk addr 4 = true → isAia addr = false →
      ((regRow a = none ∨ s.darkAt a = true ∨ s.gateOpen reeve a = false) → Does (.registerWrite reeve addr 4 v) s fun t => t = s) ∧
      (∀ r, regRow a = some r → s.darkAt a = false → s.gateOpen reeve a = true →
        let mixed := fun (old w : W32) => ∀ i < 32, w.getLsbD i =
          (if r.rw.testBit i then v.getLsbD i else old.getLsbD i && !(r.w1c.testBit i && v.getLsbD i))
        let old := (PMap.find s.staged a).getD (s.reg a)
        (r.how = 0 → Does (.registerWrite reeve addr 4 v) s fun t => mixed (s.reg a) (t.reg a) ∧ (∀ b, b ≠ a → t.reg b = s.reg b) ∧
          t.staged = s.staged ∧ t.mem = s.mem ∧ Quiet s t) ∧
        ((r.how = 1 ∨ r.how = 2) → (∀ i, a ≠ Reg.granCtl i) → s.job.run = false → Does (.registerWrite reeve addr 4 v) s fun t =>
          mixed old (t.reg a) ∧ (∀ b, b ≠ a → t.reg b = s.reg b) ∧ t.staged = PMap.del s.staged a ∧ t.mem = s.mem ∧ Quiet s t) ∧
        (r.how = 2 → (∀ i, a ≠ Reg.granCtl i) → s.job.run = true → Does (.registerWrite reeve addr 4 v) s fun t =>
          (∀ b, t.reg b = s.reg b) ∧ (∃ w, t.staged = PMap.put s.staged a w ∧ mixed old w) ∧ t.mem = s.mem ∧ Quiet s t) ∧
        (r.how = 1 → s.job.run = true → (match locate a with | .hand h _ => s.noEpochs h | .core k _ => s.noEpochs (k / 17) | _ => false) = false →
          Does (.registerWrite reeve addr 4 v) s fun t =>
          (∀ b, t.reg b = s.reg b) ∧ (∃ w, t.staged = PMap.put s.staged a w ∧ mixed old w) ∧ t.mem = s.mem ∧ Quiet s t) ∧
        (∀ i, a = Reg.granCtl i → r.how = 2 → s.job.run = true → Does (.registerWrite reeve addr 4 v) s fun t =>
          t.field a 16 2 = bits v.toNat 16 2 ∧ (∀ j < 32, j ≠ 16 → j ≠ 17 → (t.reg a).getLsbD j = (s.reg a).getLsbD j) ∧
          (∀ b, b ≠ a → t.reg b = s.reg b) ∧ t.mem = s.mem ∧ Quiet s t) ∧
        (r.how = 3 → Does (.registerWrite reeve addr 4 v) s fun t => t = { s with staged := PMap.put s.staged a v }) ∧
        (r.how = 4 → Does (.registerWrite reeve addr 4 v) s fun t => t = { s with heldLow := PMap.put s.heldLow a v }) ∧
        (∀ x, r.how = 5 → a ≠ Reg.faultBase + 4 → PMap.find s.heldLow (a - 4) = some x → Does (.registerWrite reeve addr 4 v) s fun t =>
          mixed (s.reg a) (t.reg a) ∧ (∀ b, b ≠ a → b ≠ a - 4 → t.reg b = s.reg b) ∧
          (∀ i < 32, ((regRow (a - 4)).getD {}).rw.testBit i = true → (t.reg (a - 4)).getLsbD i = x.getLsbD i) ∧ t.mem = s.mem ∧ Quiet s t)) ∧
      (addr = Reg.bellCtl → bit v.toNat 30 = false → exec (.registerWrite reeve addr 4 v) s = exec (.bellRing v) s) ∧
      (addr = Reg.faultTail → exec (.registerWrite reeve addr 4 v) s = exec (.faultTailWrite v) s))

/-- R32, R360, R526, R537 to R544, R549, R550, R554, R568, R613, R614: the rows of registers with effects of their own: a status read marks its
change as read; CFG.REF takes its value, sets VALID and clears DRIFT; DBG.DATA answers the four bytes at OFFSET while its hand is stopped or no
deal runs, and OFFSET moves on; XLQ is answered in XLA; CLEAR zeroes a block's counters; APPLY asks for the copy of a suit's tables, which
happens once the suit is drained; a housekeeping edge refreshes the slow copies. A scan that ends writes CFG.CRC and counts, and raises CFG_DRIFT on a
mismatch outside a grace period. -/
def Obligations.RegisterRowsAndScans : Prop :=
  ∀ (s : State),
    (∀ x ∈ ([(Reg.bootStat, { s.recov with irq7 := false }), (Reg.mgmtStat, { s.recov with irq8 := false }),
        (Reg.secStat, { s.recov with irq11 := false })] : List (Nat × Rec)), Does (.statusRead x.1) s fun t =>
      t = { s with rsp := .word ((s.readReg x.1).setWidth 64), recov := x.2 }) ∧
    (∀ addr, addr ≠ Reg.bootStat → addr ≠ Reg.mgmtStat → addr ≠ Reg.secStat → Does (.statusRead addr) s fun t => t = s) ∧
    (∀ addr v, regAccessOk addr 4 = true → isCfgRef (canon addr) = true → s.darkAt (canon addr) = false →
      Does (.cfgRefWrite addr v) s fun t => t.reg (canon addr) = v ∧ t.flag (canon addr - 8) 31 = true ∧ t.flag (canon addr - 8) 28 = false ∧
        Frame (fun a => a = canon addr ∨ a = canon addr - 8) Nothing Nothing Nothing s t ∧ Quiet s t) ∧
    (∀ (h : HandIx), s.suitDark (h.val / 160) = false →
      let o := s.field (Reg.handDbg h.val) 0 18
      let sp := s.field (Reg.handDbg h.val) 28 4
      let open_ := o < dbgSize false sp ∧ (s.job.run = false ∨ s.handStopped h.val = true)
      Does (.dbgDataRead (Reg.handDbg h.val + 4)) s fun t =>
        (open_ → t.field (Reg.handDbg h.val) 0 18 = (o + 4) % 2 ^ 18 ∧
          (∀ v, (s.hand h.val).dbgWord sp o = some v → t.rsp = .word (BitVec.ofNat 64 v)) ∧
          ((s.hand h.val).dbgWord sp o = none → (s.hand h.val).stored = false → t.rsp = .word 0)) ∧
        (¬ open_ → t.rsp = .word 0 ∧ t.flag (Reg.handDbg h.val) 27 = true) ∧ Frame (· = Reg.handDbg h.val) Nothing Nothing Nothing s t) ∧
    (∀ (k : CoreIx), s.suitDark (k.val / 2720) = false →
      let o := s.field (Reg.coreDbg k.val) 0 18
      let sp := s.field (Reg.coreDbg k.val) 28 4
      let open_ := o < dbgSize true sp ∧ (s.job.run = false ∨ s.handStopped (k.val / 17) = true)
      Does (.dbgDataRead (Reg.coreDbg k.val + 4)) s fun t =>
        (open_ → t.field (Reg.coreDbg k.val) 0 18 = (o + 4) % 2 ^ 18 ∧ t.rsp = .word (BitVec.ofNat 64 ((s.core k.val).dbgWord sp o))) ∧
        (¬ open_ → t.rsp = .word 0 ∧ t.flag (Reg.coreDbg k.val) 27 = true) ∧ Frame (· = Reg.coreDbg k.val) Nothing Nothing Nothing s t) ∧
    (∀ (i : SuitIx) (v : W32), s.suitDark i.val = false →
      let pc := bits v.toNat 26 6
      let sec := bits v.toNat 0 26
      let off := offsetOf s.part i.val (s.outMask i.val) pc sec
      let good := pc ∉ (s.suit i.val).outPcs ∧ sec < s.pcSectors ∧ off < s.capBytes i.val
      Does (.xlqWrite i v) s fun t => t.reg (Reg.xlq i.val) = v ∧ (good → t.reg64 (Reg.xla i.val) = (2 ^ 63 + off) % 2 ^ 64) ∧
        (¬ good → t.reg64 (Reg.xla i.val) = 0) ∧
        Frame (fun a => a = Reg.xlq i.val ∨ a = Reg.xla i.val ∨ a = Reg.xla i.val + 4) Nothing Nothing Nothing s t ∧ Quiet s t) ∧
    (∀ addr, Safe s → regAccessOk addr 4 = true → s.darkAt (canon addr) = false → Does (.clear addr) s fun t =>
      let qs := if obsCounters (canon addr) = [] then [] else countedQueues (canon addr)
      (∀ a ∈ obsCounters (canon addr), t.reg a = 0) ∧
      (∀ q ∈ qs, t.queue q.1 q.2 = (s.queue q.1 q.2).map fun c => if c.begun = true then { c with cleared := true } else c) ∧
      Frame (· ∈ obsCounters (canon addr)) (fun h => (6, h) ∈ qs) (fun k => (1, k) ∈ qs) (fun m => (8, m) ∈ qs) s t ∧ Quiet s t) ∧
    (∀ (i : SuitIx) (reeve : Bool),
      (s.suitDark i.val = false → (reeve = true ∨ s.job.run = false) → Does (.apply i reeve) s fun t =>
        t.flag (Reg.fabCtl i.val) 31 = true ∧ Frame (· = Reg.fabCtl i.val) Nothing Nothing Nothing s t ∧ Quiet s t) ∧
      ((s.suitDark i.val = true ∨ (reeve = false ∧ s.job.run = true)) → Does (.apply i reeve) s fun t => t = s)) ∧
    (∀ (i : SuitIx),
      let mine := fun (a : Nat) => a = Reg.fabCtl i.val ∨ ∃ n < 5, a = Reg.fence i.val n
      (s.flag (Reg.fabCtl i.val) 31 = true → s.drained i.val = true → s.colls = [] → Does (.tableCopy i) s fun t =>
        (∀ n < 5, ∀ v, (s.staged.filter fun e => e.1 == Reg.fence i.val n).getLast? = some (Reg.fence i.val n, v) →
          t.reg (Reg.fence i.val n) = v) ∧
        (∀ v, (s.staged.filter fun e => e.1 == Reg.fabCtl i.val).getLast? = some (Reg.fabCtl i.val, v) →
          t.field (Reg.fabCtl i.val) 0 4 = bits v.toNat 0 4) ∧
        t.flag (Reg.fabCtl i.val) 31 = false ∧ (∀ e ∈ t.staged, ¬ mine e.1) ∧ (∀ e ∈ s.staged, e.1 < Reg.fabCtl i.val ∨ Reg.fence i.val 4 < e.1 → e ∈ t.staged) ∧
        t.mem = s.mem ∧ Quiet s t) ∧
      ((s.flag (Reg.fabCtl i.val) 31 = false ∨ s.drained i.val = false) → Does (.tableCopy i) s fun t => t = s)) ∧
    (∀ r : Sensors, Does (.housekeepingEdge r) s fun t => t = { s with rs := t.rs } ∧
      PMap.get 0 t.rs Reg.pwrLimit = BitVec.ofNat 32 ((s.gov.fMax % 65536) <<< 16 + s.gov.pLimit % 65536) ∧
      (PMap.get 0 t.rs Reg.pwrIn).toNat = r.vin.toNat * 65536 + r.pin.toNat ∧
      bits (PMap.get 0 t.rs Reg.pwrTemp).toNat 20 10 = r.logic.toNat ∧ bits (PMap.get 0 t.rs Reg.pwrTemp).toNat 10 10 = r.hbm.toNat ∧
      bits (PMap.get 0 t.rs Reg.pwrTemp).toNat 0 10 = r.handle.toNat ∧
      ∀ i < 4, bits (PMap.get 0 t.rs (Reg.suitPwrStat i)).toNat 21 11 = (s.suit i).clock % 2048 ∧
        bits (PMap.get 0 t.rs (Reg.suitPwrStat i)).toNat 17 4 = (s.suit i).cap % 16 ∧
        bits (PMap.get 0 t.rs (Reg.suitPwrTemp i)).toNat 20 10 = (r.slogic.getD i 0).toNat) ∧
    (s.scanNo < s.time / 1024000 → Does .cfgScan s fun t => t = { s with scanNo := s.time / 1024000 }) ∧
    (s.time / 1024000 ≤ s.scanNo → Does .cfgScan s fun t => t = s) ∧
    (∀ n b, blkOf n = some b → s.blkDark b = false → (PMap.get ({} : CfgBlk) s.cfg n).scanned < s.scanNo →
      let crc := wordsCrc (s.covered b)
      let st := (s.listedValue b.stat).toNat
      let drift := bits st 28 4 = 8 ∧ crc ≠ (s.reg (b.stat + 8)).toNat
      Does (.cfgScanEnd n) s fun t => t.reg (b.stat + 4) = BitVec.ofNat 32 crc ∧
        t.field b.stat 0 16 = (s.field b.stat 0 16 + 1) % 65536 ∧ (PMap.get ({} : CfgBlk) t.cfg n).scanned = s.scanNo ∧
        (drift → t.flag b.stat 28 = true ∧ t.recov.flight.length = s.recov.flight.length + 1 ∧ (s.job.run = true → t.bell.cuts ≠ [])) ∧
        (¬ drift → t.recov = s.recov ∧ t.bell = s.bell ∧ t.flag b.stat 28 = s.flag b.stat 28) ∧ t.mem = s.mem) ∧
    (∀ n t0, (PMap.get ({} : CfgBlk) s.cfg n).grace = some t0 →
      (t0 ≤ s.time → Does (.graceEnd n) s fun t => (PMap.get ({} : CfgBlk) t.cfg n).grace = none ∧ t = { s with cfg := t.cfg }) ∧
      (s.time < t0 → Does (.graceEnd n) s fun t => t = s))

/-! ## The mesh and its links (chapters 8 and 9) -/

/-- R346, R347, R350, R353 to R359: the flits of a packet move on by one buffer each; the head of an ordered packet goes X before Y within a
suit and sinks at its destination, and a packet has arrived when all its flits have sunk; an ordered packet does not overtake an earlier one of
its source, destination and channel; a flit with no credit ahead of it waits. A packet whose destination is not valid is removed, flagged
and reported. A multicast packet is replicated at once into every branch, when each may take it, but not to a fenced hand. A delivered packet
reaches its unit: the bytes of a message are gathered until they number MSGLEN; acknowledgements and tokens are noted. -/
def Obligations.PacketsMoveAndArrive : Prop :=
  ∀ (i : Nat) (s : State) (p : Packet), s.net[i]? = some p →
    (p.arrived = false → p.mcast = false →
      (s.badDest p.pos p.dest.toNat = true → Does (.packetForward i) s fun t => t.net = s.net.eraseIdx i ∧
        t.flag (Reg.routerStat (routerAt p.pos)) 31 = true ∧ t.field (Reg.routerStat (routerAt p.pos)) 0 16 = p.dest.toNat ∧
        t.recov.notices = s.recov.notices ++ [.badDest (routerAt p.pos) p.dest.toNat] ∧
        Frame (· = Reg.routerStat (routerAt p.pos)) Nothing Nothing Nothing s t) ∧
      (s.badDest p.pos p.dest.toNat = false → s.overtakes i p = true → Does (.packetForward i) s fun t => t = s) ∧
      (s.badDest p.pos p.dest.toNat = false → s.overtakes i p = false →
        (Does (.packetForward i) s fun t => ∃ q : Packet, t.net = s.net.set i q ∧
          q = { p with pos := q.pos, way := q.way, sent := q.sent, sunk := q.sunk, arrived := q.arrived } ∧
          (q.pos = p.pos ∨ s.nextHop p = some q.pos) ∧ (q.arrived = true → s.nextHop p = none ∧ q.sunk = p.size) ∧
          t.recov = s.recov ∧ t.mem = s.mem ∧ t.hands = s.hands ∧ t.cores = s.cores ∧ t.inbox = s.inbox ∧ ∀ a, t.reg a = s.reg a) ∧
        (∀ l, p.size = 1 → p.sent = 1 → p.sunk = 0 → p.way = [(l, 1)] → bufAt l = p.pos →
          (s.nextHop p = none → Does (.packetForward i) s fun t =>
            t.net = s.net.set i { p with way := [], sunk := 1, arrived := true }) ∧
          (∀ q, s.nextHop p = some q →
            (s.mayEnter i p (buffer p.pos q) = true → Does (.packetForward i) s fun t =>
              t.net = s.net.set i { p with pos := q, way := [(buffer p.pos q, 1)] }) ∧
            (s.mayEnter i p (buffer p.pos q) = false → Does (.packetForward i) s fun t => t = s))) ∧
        (∀ h, p.pos < 640 → epToHand p.dest.toNat = some h → h / 160 = p.pos / 160 →
          (h = p.pos → s.nextHop p = none) ∧
          (p.ord = true → h ≠ p.pos → s.nextHop p = some (
            if px p.pos = px h then place (h / 160) (px h) (if py p.pos < py h then py p.pos + 1 else py p.pos - 1)
            else place (h / 160) (if px p.pos < px h then px p.pos + 1 else px p.pos - 1) (py p.pos)))))) ∧
    (∀ l, p.arrived = false → p.mcast = true → s.overtakes i p = false → p.size = 1 → p.sent = 1 → p.sunk = 0 → p.split = 0 →
      p.way = [(l, 1)] → bufAt l = p.pos →
      ((∀ b ∈ s.branches p, s.mayEnter i p (buffer p.pos b.1) = true) → Does (.packetForward i) s fun t =>
        ∃ (n : Nat) (extra : List Packet), t.net = s.net.take i ++ s.mcastCopies p n ++ s.net.drop (i + 1) ++ extra ∧
        (∀ q ∈ s.mcastCopies p n, q.mcast = false → p.hits = true ∧ s.fenced p.pos = false) ∧
        (∀ b ∈ s.branches p, ∃ q ∈ s.mcastCopies p n, q.pos = b.1 ∧ q.mask = BitVec.ofNat 64 b.2 ∧ q.msg = p.msg) ∧
        (∀ q ∈ extra, q.vc = 3 ∧ q.mcast = false ∧ ∃ g tag hs, q.msg = .prune g tag hs) ∧ t.mem = s.mem ∧ t.inbox = s.inbox) ∧
      ((∃ b ∈ s.branches p, s.mayEnter i p (buffer p.pos b.1) = false) → Does (.packetForward i) s fun t => t = s)) ∧
    (p.arrived = true →
      (Does (.packetForward i) s fun t => t = s) ∧
      (∀ id len off bytes, p.msg = .data id len off bytes → Does (.packetReceive i) s fun t =>
        let old := s.inbox.find? fun m => m.dest == p.dest.toNat && m.src == p.src.toNat && m.id == id && !m.done
        t.net = s.net.eraseIdx i ∧ (∃ y ∈ t.inbox, y.dest = p.dest.toNat ∧ y.src = p.src.toNat ∧ y.id = id ∧
          y.got = (match old with | none => 0 | some x => x.got) + p.paylen ∧
          y.len = (match old with | none => len | some x => x.len) ∧ y.done = (y.got == y.len)) ∧ t.mem = s.mem ∧ t.recov = s.recov ∧
          ∀ a, t.reg a = s.reg a) ∧
      (∀ k, p.msg = .tileAck → epToCore p.dest.toNat = some k → Does (.packetReceive i) s fun t => t.net = s.net.eraseIdx i ∧
        t.queue 5 k = ackFirst (s.queue 5 k) ∧ t.recov = s.recov ∧ Frame Nothing Nothing (· = k) Nothing s t) ∧
      (∀ core h, p.msg = .p8ack core → epToHand p.dest.toNat = some h → Does (.packetReceive i) s fun t => t.net = s.net.eraseIdx i ∧
        (t.hand h).waitAck = (s.hand h).waitAck.erase p.src.toNat ∧ t.recov = s.recov ∧ Frame Nothing (· = h) Nothing Nothing s t) ∧
      (∀ kind rank col tag h, p.msg = .token kind rank col tag → epToHand p.dest.toNat = some h → Does (.packetReceive i) s fun t =>
        t.net = s.net.eraseIdx i ∧ (t.hand h).tokens = (s.hand h).tokens ++ [(kind * 16 + rank, col, tag)] ∧ t.recov = s.recov ∧
        Frame Nothing (· = h) Nothing Nothing s t))

/-- R361, R392, R395, R426: a flit whose link CRC fails is replayed, at most 8 times; then errors on one lane of a group with a spare take the spare,
and any others take the link down at both its ends, with a record of severity corrected or fence; a link that is down is retrained once. That
SPARED counts at the end that receives is the model's reading (assumption 82). -/
def Obligations.LinkErrorsAreHandled : Prop :=
  ∀ (b : BridgeIx) (manor sent : Bool) (s : State),
    let end_ := if manor then b.val / 2 * 2 else b.val
    let k := linkKey end_ manor sent
    let l := s.link k
    (l.down = false → l.tries < 8 → Does (.linkReplay b manor sent) s fun t =>
      t.link k = { l with tries := l.tries + 1 } ∧ (∀ j, j ≠ k → t.link j = s.link j) ∧ t = { s with links := t.links }) ∧
    ((l.down = true ∨ 8 ≤ l.tries) → Does (.linkReplay b manor sent) s fun t => t = s) ∧
    (∀ (one : Bool) (g lane : Nat), 8 ≤ l.tries → l.down = false → lane < 34 → (if manor then g < 6 else g < 12) →
      (one = true → PMap.get 0 l.spared g < 2 → Does (.linkRetryExhausted b manor sent one g lane) s fun t =>
        t.link k = { l with tries := 0, spared := PMap.put l.spared g (PMap.get 0 l.spared g + 1) } ∧
        (∀ j, j ≠ k → t.link j = s.link j) ∧
        (manor = false → let a := Reg.bridgeEnd (if sent then peerEnd b.val else b.val); t.field a 0 5 = min 31 (s.field a 0 5 + 1)) ∧
        (∃ r w, t.recov.flight = s.recov.flight ++ [(r, w)] ∧ bits w.toNat 0 8 = 0x05 ∧ recSev w = 1) ∧ t.mem = s.mem) ∧
      ((one = false ∨ 2 ≤ PMap.get 0 l.spared g) → Does (.linkRetryExhausted b manor sent one g lane) s fun t =>
        (t.link (linkKey end_ manor true)).down = true ∧ (t.link (linkKey end_ manor false)).down = true ∧
        (manor = false → ∀ a ∈ [Reg.bridgeEnd b.val, Reg.bridgeEnd (peerEnd b.val)], t.flag a 30 = true ∧ t.flag a 31 = false) ∧
        (∃ r w, t.recov.flight = s.recov.flight ++ [(r, w)] ∧ bits w.toNat 0 8 = 0x06 ∧ recSev w = 2) ∧ t.mem = s.mem)) ∧
    (∀ ok : Bool, (s.link (linkKey end_ manor true)).down = true → (s.link (linkKey end_ manor true)).retrained = false → s.mayRecover 660 = true →
      Does (.bridgeRetrain b manor ok) s fun t =>
        (t.link (linkKey end_ manor true)).down = !ok ∧ (t.link (linkKey end_ manor false)).down = !ok ∧
        (t.link (linkKey end_ manor true)).retrained = true ∧
        (ok = true → manor = false → ∀ a ∈ [Reg.bridgeEnd b.val, Reg.bridgeEnd (peerEnd b.val)], t.flag a 31 = true ∧ t.flag a 30 = false) ∧
        (ok = true → t.colls = s.colls ∧ t.mem = s.mem)) ∧
    (∀ ok : Bool, ((s.link (linkKey end_ manor true)).down = false ∨ (s.link (linkKey end_ manor true)).retrained = true ∨ s.mayRecover 660 = false) →
      Does (.bridgeRetrain b manor ok) s fun t => t = s)

/-! ## Memory (chapter 7) -/

/-- R289, R291, R295 to R297, R299 to R305, R321 to R323: a read answers the bytes of its pieces, or poison where one of them holds poison; a write stores
its bytes and the copies of the pages with PCOPY; an atomic replaces its word with the new value and gives the old one to the Mill or
application core that asked. A piece that may not be accessed stops the station that asked, and is refused to an application core; nothing is
stored. The error that a read finds in HBM is counted if it is corrected; else its sector is poisoned and a record posted. What an
access to a forbidden page answers to a sender that is no station is the model's reading (assumption 22). -/
def Obligations.MemoryRequests : Prop :=
  ∀ (ep : BitVec 16) (s : State), Safe s →
    let apart := fun (a n b m : Nat) => a + n ≤ b ∨ b + m ≤ a
    let e := ep.toNat
    let unit := unitOfEp e
    let refused := fun (write : Bool) (f : Refuse) (t : State) => t = s.refuseAt e write f ∧ t.mem = s.mem ∧ t.poisoned = s.poisoned ∧
      (stationOfEp e write = none → epToMill e = none → t = { s with rsp := .accessFault }) ∧
      (∀ st u, stationOfEp e write = some (st, u) → t.stHalted st u = true)
    (∀ (va len : Nat) (tid : BitVec 24) (ecc sev : Nat) (hard : Bool), epValid e = true → va < 2 ^ 48 → 0 < len → sev < 4 →
      (s.waysTo unit (pages va len) = false → Does (.memoryRead ep va len tid ecc sev hard) s fun t => t = s) ∧
      (s.waysTo unit (pages va len) = true →
        (∀ f, s.trAll .read (pages va len) = .error f → Does (.memoryRead ep va len tid ecc sev hard) s fun t => refused false f t) ∧
        (∀ l, s.trAll .read (pages va len) = .ok l →
          (Does (.memoryRead ep va len tid ecc sev hard) s fun t =>
            t.rsp = (if t.anyPoison l = true then .poison else .bytes (s.bytesOf l)) ∧ t.mem = s.mem ∧ t.net = s.net ∧
            MemFrame Nothing Nothing Nothing Nothing s t) ∧
          (ecc = 0 → sev = 0 → (∀ i, s.poisonFree i = true) → Does (.memoryRead ep va len tid ecc sev hard) s fun t =>
            t.rsp = .bytes (s.bytesOf l))) ∧
        (∀ pa pc, s.translate va .read = .ok pa pc → va % 32 + len ≤ 32 → (unit, va / 65536) ∈ s.tlb → s.latent = [] →
          (∀ a ∈ s.walkAt va, s.cellOf (a / 32 * 32) ≠ s.cellOf (pa / 32 * 32)) →
          s.lineAt (pa / 2 ^ 38) (pa / 128) = none → pa / 32 * 32 ∉ s.poisoned → (∀ g ∈ (s.suit (pa / 2 ^ 38)).gran, g.filling = false) →
          Does (.memoryRead ep va len tid ecc sev hard) s fun t =>
            let a := Reg.hbmPc (pa / 2 ^ 38) (s.pcOf pa)
            (ecc = 1 → t.field a 0 16 = min 65535 (s.field a 0 16 + 1) ∧ t.field a 16 8 = s.field a 16 8 ∧ t.recov = s.recov) ∧
            (2 ≤ ecc → t.rsp = .poison ∧ pa / 32 * 32 ∈ t.poisoned ∧ t.field a 16 8 = min 255 (s.field a 16 8 + 1) ∧
              ∃ r w, t.recov.flight = s.recov.flight ++ [(r, w)] ∧ bits w.toNat 0 8 = 0x03 ∧ recSev w = 2)))) ∧
    (∀ (va : Nat) (d : List Byte), epValid e = true → va < 2 ^ 48 → d ≠ [] → s.waysTo unit (pages va d.length) = true →
      (∀ f, s.trAll .write (pages va d.length) = .error f → Does (.memoryWrite ep va d) s fun t => refused true f t) ∧
      (∀ l, s.trAll .write (pages va d.length) = .ok l → Does (.memoryWrite ep va d) s fun t =>
        (∀ k x, l[k]? = some x → (∀ y ∈ l.drop (k + 1), apart y.1 y.2.1 x.1 x.2.1 ∧ (y.2.2 = true → apart (partnerPa y.1) y.2.1 x.1 x.2.1)) →
          ∀ j < x.2.1, Memory.byte t.mem (x.1 + j) = d.getD (sumL ((l.take k).map (·.2.1)) + j) 0) ∧
        (∀ x, l = [x] → x.2.2 = true → ∀ j < x.2.1, Memory.byte t.mem (partnerPa x.1 + j) = d.getD j 0) ∧
        (∀ a, (∀ x ∈ l, apart a 1 x.1 x.2.1 ∧ (x.2.2 = true → apart a 1 (partnerPa x.1) x.2.1)) → Memory.byte t.mem a = Memory.byte s.mem a) ∧
        t.rsp = .none ∧ t.net = s.net ∧ MemFrame Nothing Nothing Nothing Nothing s t)) ∧
    (∀ (va op ty : Nat) (v cmp : BitVec 64), mayIssue e op ty = true → op ≤ 3 → ty ≤ 3 → va < 2 ^ 48 → s.wayTo unit va = true →
      let n := atomicSize op ty
      (va % n ≠ 0 → Does (.atomic ep va op ty v cmp) s fun t => t = { s with rsp := if e = epApps then .accessFault else s.rsp }) ∧
      (∀ k pc, va % n = 0 → s.translate va .atomic = .fault k pc → Does (.atomic ep va op ty v cmp) s fun t => refused true (.fault va k pc) t) ∧
      (∀ pa pc, va % n = 0 → s.translate va .atomic = .ok pa pc → (s.atHome unit 0 va pa n).poisonIn pa n = true →
        Does (.atomic ep va op ty v cmp) s fun t => t.mem = s.mem ∧ (e = epApps → t.rsp = .accessFault) ∧
          ∀ k, epToCore e = some k → t.flag (Reg.storeStat k) 28 = true) ∧
      (∀ pa pc, va % n = 0 → s.translate va .atomic = .ok pa pc → (s.atHome unit 0 va pa n).poisonIn pa n = false →
        Does (.atomic ep va op ty v cmp) s fun t =>
        let old := Memory.read s.mem pa n
        let r := atomicNew op ty old v.toNat cmp.toNat
        let c := Reg.atomics (pa / 2 ^ 38)
        Memory.read t.mem pa n = r.1 % 256 ^ n ∧ (pc = true → Memory.read t.mem (partnerPa pa) n = r.1 % 256 ^ n) ∧
        (∀ a, apart a 1 pa n → (pc = true → apart a 1 (partnerPa pa) n) → Memory.byte t.mem a = Memory.byte s.mem a) ∧
        (op = 3 → r.1 = if old = cmp.toNat then v.toNat else old) ∧ t.reg64 c = (s.reg64 c + 1) % 2 ^ 64 ∧
        ((epToCore e = none) → t.rsp = .word (BitVec.ofNat 64 old)) ∧
        (∀ k, epToCore e = some k → t.rsp = s.rsp ∧ t.reg (Reg.storeStat k) = s.reg (Reg.storeStat k) ||| (r.2 &&& 0b10110#5).setWidth 32) ∧
        t.net = s.net ∧
        MemFrame (fun a => a = c ∨ a = c + 4 ∨ (∃ k, epToCore e = some k ∧ a = Reg.storeStat k) ∨ (∃ m, epToMill e = some m ∧ a = Reg.millStat m))
          Nothing Nothing Nothing s t))

/-- R286, R315 to R319, R325 to R329, R341, R426: a trained stream prefetches its next line, in the page of its latest demand or in the next page
where a request has attached that page's frame, unless the line is there, or too few contexts are free; a page that it may not read drops the
prefetch; a patrol corrects, or poisons and reports, what it finds; a map-out within the reserve is reported, quiesces its suit, and then takes
the pseudo-channel out, with the capacity above the new range gone; a poisoned sector is rebuilt, at home and in its partner copy, from the
data of its source. -/
def Obligations.HbmIsKeptUp : Prop :=
  ∀ (i : SuitIx) (s : State), Safe s →
    (∀ (det : Nat) (arrived : Bool) (d : Det), (s.suit i.val).dets[det]? = some d →
      let v := (d.last : Int) + d.stride * (d.ahead + 1)
      let l := v.toNat
      let active := 3 ≤ d.hits ∧ s.flag (Reg.granCtl i.val) 0 = true ∧ d.ahead < s.pfDepth i.val ∧ 0 ≤ v
      let dets := (s.suit i.val).dets.set det { d with ahead := d.ahead + 1 }
      let goes := fun (pa : Nat) =>
        let home := pa / 2 ^ 38
        (896 < s.sliceContexts home (s.sliceOf pa) → Does (.prefetchIssue i det arrived) s fun t => t = s) ∧
        (s.sliceContexts home (s.sliceOf pa) ≤ 896 → Does (.prefetchIssue i det arrived) s fun t =>
          (t.suit i.val).dets = dets ∧ t.mem = s.mem ∧ Calm s t ∧
          ((s.lineAt home (pa / 128)).isSome = true → ∀ a, t.reg a = s.reg a) ∧
          (s.lineAt home (pa / 128) = none → t.lineAt home (pa / 128) = none → ∀ a, t.reg a = s.reg a) ∧
          (s.lineAt home (pa / 128) = none → ∀ g, t.lineAt home (pa / 128) = some g → g.pf = true ∧ g.age = 2 ∧ g.filling = !arrived ∧ g.dirty = 0 ∧
            t.reg64 (Reg.pfIssued home) = (s.reg64 (Reg.pfIssued home) + 1) % 2 ^ 64) ∧
          MemFrame (fun a => a = Reg.pfIssued home ∨ a = Reg.pfIssued home + 4) Nothing Nothing Nothing s t)
      (¬ active → Does (.prefetchIssue i det arrived) s fun t => t = s) ∧
      (active → l / 512 = d.last / 512 → goes (d.frame + l % 512 * 128)) ∧
      (∀ f, active → l / 512 ≠ d.last / 512 → d.next = some (l / 512, some f) → goes (f + l % 512 * 128)) ∧
      (active → l / 512 ≠ d.last / 512 → d.next = some (l / 512, none) → Does (.prefetchIssue i det arrived) s fun t =>
        t.reg64 (Reg.pfDrop i.val) = (s.reg64 (Reg.pfDrop i.val) + 1) % 2 ^ 64 ∧ (∀ j, (t.suit j).gran = (s.suit j).gran) ∧ (t.suit i.val).dets = dets) ∧
      (active → l / 512 ≠ d.last / 512 → (∀ x, d.next = some x → x.1 ≠ l / 512) → Does (.prefetchIssue i det arrived) s fun t => t = s)) ∧
    (∀ (pc : Fin 64) (sector ecc sev : Nat) (hard : Bool), sev < 4 →
      let reads := s.suitDark i.val = false ∧ s.flag (Reg.hbmCtl i.val) 8 = true ∧ pc.val ∉ (s.suit i.val).outPcs ∧ sector < s.pcSectors
      let a := Reg.hbmPc i.val pc.val
      let p := i.val * 2 ^ 38 + offsetOf s.part i.val (s.outMask i.val) pc.val sector
      (¬ reads → Does (.patrolRead i pc sector ecc sev hard) s fun t => t = s) ∧
      (reads → PMap.find s.latent (hbmKey i.val pc.val sector) = none →
        (ecc < 2 → Does (.patrolRead i pc sector ecc sev hard) s fun t => t.field a 28 2 = max sev (s.field a 28 2) ∧
          t.field a 0 16 = min 65535 (s.field a 0 16 + ecc) ∧ t.field a 16 8 = s.field a 16 8 ∧ t.mem = s.mem ∧ t.recov = s.recov ∧ t.net = s.net ∧
          ∀ b, b ≠ a → t.reg b = s.reg b) ∧
        (2 ≤ ecc → p ∉ s.poisoned → Does (.patrolRead i pc sector ecc sev hard) s fun t => t.field a 28 2 = max sev (s.field a 28 2) ∧
          t.field a 16 8 = min 255 (s.field a 16 8 + 1) ∧ t.field a 0 16 = s.field a 0 16 ∧ p / 32 * 32 ∈ t.poisoned ∧ (hard = true → t.flag a 30 = true) ∧
          (∃ r w, t.recov.flight = s.recov.flight ++ [(r, w)] ∧ bits w.toNat 0 8 = 0x03 ∧ recSev w = 2) ∧
          t.mem = s.mem ∧ t.net = s.net ∧ ∀ b, b ≠ a → t.reg b = s.reg b))) ∧
    (∀ (pc : Fin 64) (reason : Nat), s.suitDark i.val = false → pc.val ∉ (s.suit i.val).outPcs →
      let x := s.suit i.val
      let may := s.outReason i.val pc.val reason = true ∧ s.reserveLeft i.val = true ∧ s.mayRecover (640 + i.val) = true
      (x.mapping = some pc.val → (s.suitQuiet i.val = true ∨ s.job.run = false) → Does (.mapOut i pc reason) s fun t =>
        (t.suit i.val).outPcs = x.outPcs ++ [pc.val] ∧ (t.suit i.val).gran = [] ∧ (t.suit i.val).mapping = none ∧ t.flag (Reg.hbmPc i.val pc.val) 31 = true ∧
        t.capBytes i.val = s.capBytes i.val - s.part.pcMB * 1000000 ∧
        (∀ a, i.val * 2 ^ 38 + t.capBytes i.val ≤ a → a < i.val * 2 ^ 38 + s.capBytes i.val → Memory.byte t.mem a = 0) ∧
        (∀ a, (a < i.val * 2 ^ 38 + t.capBytes i.val ∨ i.val * 2 ^ 38 + s.capBytes i.val ≤ a) → Memory.byte t.mem a = Memory.byte s.mem a) ∧
        (∀ b, (∀ n, n < 64 → b ≠ Reg.hbmPc i.val n) → t.reg b = s.reg b) ∧ t.bell = s.bell ∧ t.net = s.net ∧ t.rsp = s.rsp ∧
        (s.latent = [] → t.recov = { s.recov with busy := none } ∧ ∀ b, b ≠ Reg.hbmPc i.val pc.val → t.reg b = s.reg b)) ∧
      (x.mapping = some pc.val → s.suitQuiet i.val = false → s.job.run = true → Does (.mapOut i pc reason) s fun t => t = s) ∧
      (x.mapping = none → may → Does (.mapOut i pc reason) s fun t =>
        (t.suit i.val).mapping = some pc.val ∧ (t.suit i.val).outPcs = x.outPcs ∧ t.mem = s.mem ∧
        (∃ r w, t.recov.flight = s.recov.flight ++ [(r, w)] ∧ bits w.toNat 0 8 = 0x04 ∧ recSev w = 2) ∧
        (s.job.run = true → t.bell.cuts ≠ []) ∧ (s.job.run = false → t.bell = s.bell ∧ ∀ b, t.reg b = s.reg b)) ∧
      (x.mapping = none → ¬ may → Does (.mapOut i pc reason) s fun t => t = s)) ∧
    (∀ (addr : Nat) (data : BitVec 256),
      let a := addr / 32 * 32
      (∀ pa pc, s.apTranslate a .write = .ok pa pc →
        (s.manorUp (pa / 2 ^ 38) = true → s.poisonIn pa 32 = true → Does (.sectorRebuild addr data) s fun t => Memory.read t.mem pa 32 = data.toNat ∧
          (pc = true → Memory.read t.mem (partnerPa pa) 32 = data.toNat) ∧
          (∀ g, t.lineAt (pa / 2 ^ 38) (pa / 128) = some g → g.bad.getLsbD (pa % 128 / 32) = false) ∧
          (∀ b, (b < pa ∨ pa + 32 ≤ b) → (pc = false ∨ b < partnerPa pa ∨ partnerPa pa + 32 ≤ b) → Memory.byte t.mem b = Memory.byte s.mem b) ∧
          MemFrame Nothing Nothing Nothing Nothing s t ∧ Calm s t) ∧
        ((s.manorUp (pa / 2 ^ 38) = false ∨ s.poisonIn pa 32 = false) → Does (.sectorRebuild addr data) s fun t => t = s)) ∧
      ((∀ pa pc, s.apTranslate a .write ≠ .ok pa pc) → Does (.sectorRebuild addr data) s fun t => t = { s with rsp := .accessFault }))

/-! ## The Manor's memory (chapters 11 and 12) -/

/-- R288, R295, R296, R464 to R467, R483: a bad burst of DDR5 is recorded, counted and poisoned; through the application cores' map a read answers the
bytes of DDR5 or of the aperture, or poison, or an access fault, a write stores them, and an atomic of R295 replaces its word and answers the old
one; an access to HBM whose Manor link is out of service waits; the Manor DMA copies bytes between HBM, DDR5 and NVMe; an inbound PCIe request is
translated, and served through the map or completed with Unsupported Request. Where NVMe stands and what it holds are the model's choice
(assumption 29); what the atomics of DDR5 alone compute is RISC-V's (PRESUMED, assumption 85). -/
def Obligations.ManorMemoryAnswers : Prop :=
  ∀ (s : State), Safe s →
    let apart := fun (a n b m : Nat) => a + n ≤ b ∨ b + m ≤ a
    let ddrHolds := fun (o : Nat) (d : List Byte) (t : State) => (∀ j (q : j < d.length), Memory.byte t.ddr (o + j) = d[j]) ∧
      (∀ a, apart a 1 o d.length → Memory.byte t.ddr a = Memory.byte s.ddr a) ∧ t.mem = s.mem ∧ t.flash = s.flash ∧
      ∀ a, ¬ GranReg a → t.reg a = s.reg a
    let hbmHolds := fun (l : List (Nat × Nat × Bool)) (d : List Byte) (t : State) =>
      (∀ x, l = [x] → ∀ j (q : j < d.length), Memory.byte t.mem (x.1 + j) = d[j] ∧ (x.2.2 = true → Memory.byte t.mem (partnerPa x.1 + j) = d[j])) ∧
      (∀ a, (∀ x ∈ l, apart a 1 x.1 x.2.1 ∧ (x.2.2 = true → apart a 1 (partnerPa x.1) x.2.1)) → Memory.byte t.mem a = Memory.byte s.mem a) ∧
      MemFrame Nothing Nothing Nothing Nothing s t
    let fault := { s with rsp := .accessFault }
    (∀ (ch : Fin 2) (addr : Nat) (dma : Bool),
      let bad := fun (t : State) => t.flag Reg.ddrStat 31 = true ∧ t.field Reg.ddrStat 30 1 = ch.val ∧
        t.field Reg.ddrStat 16 8 = min 255 (s.field Reg.ddrStat 16 8 + 1) ∧ t.field Reg.ddrStat 0 16 = s.field Reg.ddrStat 0 16 ∧
        addr / 64 * 64 ∈ t.ddrPoisoned ∧ t.mem = s.mem ∧ t.ddr = s.ddr ∧ ∀ a, a ≠ Reg.ddrStat → t.reg a = s.reg a
      (Does (.ddrReadUe ch addr dma) s fun t => bad t ∧ t.rsp = if dma then .poison else .accessFault) ∧
      (Does (.ddrPatrol ch addr 0) s fun t => t = s) ∧ (Does (.ddrPatrol ch addr 2) s fun t => bad t ∧ t.rsp = s.rsp) ∧
      (Does (.ddrPatrol ch addr 1) s fun t => t.field Reg.ddrStat 0 16 = min 65535 (s.field Reg.ddrStat 0 16 + 1) ∧
        t.field Reg.ddrStat 16 16 = s.field Reg.ddrStat 16 16 ∧ Frame (· = Reg.ddrStat) Nothing Nothing Nothing s t ∧ Quiet s t)) ∧
    (∀ (addr len : Nat) (v cmp : BitVec 64),
      (∀ o, placeOf addr = .ddr o →
        (o + len ≤ 2 ^ 35 →
          (s.ddrBad o len = false → Does (.apertureAccess 0 addr len v cmp) s fun t => t = { s with rsp := .bytes (Memory.bytes s.ddr o len) }) ∧
          (s.ddrBad o len = true → Does (.apertureAccess 0 addr len v cmp) s fun t => t = fault) ∧
          (Does (.apertureAccess 1 addr len v cmp) s fun t => ddrHolds o (toBytes len v.toNat) t ∧ t.rsp = .none)) ∧
        (2 ^ 35 < o + len → (Does (.apertureAccess 0 addr len v cmp) s fun t => t = fault) ∧ Does (.apertureAccess 1 addr len v cmp) s fun t => t = fault)) ∧
      (∀ o, placeOf addr = .hbm o →
        (∀ l, o + len ≤ 2 ^ 48 → s.apAll .read (pages o len) = some l →
          (s.apWay l = true → Does (.apertureAccess 0 addr len v cmp) s fun t =>
            t.rsp = (if s.anyPoison l = true then .poison else .bytes (s.bytesOf l)) ∧ t.mem = s.mem ∧ t.net = s.net ∧
            MemFrame Nothing Nothing Nothing Nothing s t) ∧
          (s.apWay l = false → Does (.apertureAccess 0 addr len v cmp) s fun t => t = s)) ∧
        ((2 ^ 48 < o + len ∨ s.apAll .read (pages o len) = none) → Does (.apertureAccess 0 addr len v cmp) s fun t => t = fault) ∧
        (∀ l, o + len ≤ 2 ^ 48 → s.apAll .write (pages o len) = some l →
          (s.apWay l = true → Does (.apertureAccess 1 addr len v cmp) s fun t => hbmHolds l (toBytes len v.toNat) t ∧ t.rsp = .none) ∧
          (s.apWay l = false → Does (.apertureAccess 1 addr len v cmp) s fun t => t = s)) ∧
        ((2 ^ 48 < o + len ∨ s.apAll .write (pages o len) = none) → Does (.apertureAccess 1 addr len v cmp) s fun t => t = fault)) ∧
      ((placeOf addr = .none ∨ placeOf addr = .nvme) → ∀ op, Does (.apertureAccess op addr len v cmp) s fun t => t = fault) ∧
      (∀ r, placeOf addr = .regs r →
        (regAccessOk r len = true → isAia r = false → r ∉ [Reg.bootStat, Reg.mgmtStat, Reg.secStat, Reg.pwrPanel] → s.dbgDataAt (canon r) = none →
          Does (.apertureAccess 0 addr len v cmp) s fun t => t = { s with rsp := .bytes (toBytes 4 (s.readReg r).toNat) }) ∧
        (regAccessOk r len = true → Does (.apertureAccess 0 addr len v cmp) s fun t =>
          t = { (s.readWord r).1 with rsp := .bytes (toBytes 4 (s.readWord r).2.toNat) }) ∧
        (regAccessOk r len = true → Does (.apertureAccess 1 addr len v cmp) s fun t =>
          t = { s.writeWord false r (BitVec.ofNat 32 v.toNat) with rsp := .none }) ∧
        (regAccessOk r len = false → (Does (.apertureAccess 0 addr len v cmp) s fun t => t = fault) ∧
          Does (.apertureAccess 1 addr len v cmp) s fun t => t = fault)) ∧
      (∀ op, 2 ≤ op → op ≤ 13 → (len = 4 ∨ len = 8) → addr % len = 0 → (op = 5 → len = 8) →
        (∀ o, placeOf addr = .ddr o →
          (s.ddrBad o len = true → Does (.apertureAccess op addr len v cmp) s fun t => t = fault) ∧
          (s.ddrBad o len = false → op < 12 → Does (.apertureAccess op addr len v cmp) s fun t =>
            let old := Memory.read s.ddr o len
            t.rsp = .word (BitVec.ofNat 64 old) ∧
            (op ≤ 5 → Memory.read t.ddr o len = (atomicNew (op - 2) (if len = 4 then 2 else 3) old v.toNat cmp.toNat).1 % 256 ^ len) ∧
            (6 ≤ op → Memory.read t.ddr o len = ddrAmo op old (v.toNat % 256 ^ len)) ∧
            (∀ a, apart a 1 o len → Memory.byte t.ddr a = Memory.byte s.ddr a) ∧
            t = { s with ddr := t.ddr, rsp := t.rsp, reserved := t.reserved, ddrPoisoned := t.ddrPoisoned }) ∧
          (s.ddrBad o len = false → op = 12 → Does (.apertureAccess op addr len v cmp) s fun t =>
            t = { s with reserved := some (o, len), rsp := .word (BitVec.ofNat 64 (Memory.read s.ddr o len)) }) ∧
          (s.ddrBad o len = false → op = 13 → Does (.apertureAccess op addr len v cmp) s fun t => t.reserved = none ∧
            (s.reserved = some (o, len) → t.rsp = .word 0 ∧ Memory.read t.ddr o len = v.toNat % 256 ^ len) ∧
            (s.reserved ≠ some (o, len) → t = { s with reserved := none, rsp := .word 1 }))) ∧
        (∀ o, placeOf addr = .hbm o → 5 < op → Does (.apertureAccess op addr len v cmp) s fun t => t = fault) ∧
        (∀ o pa pc, placeOf addr = .hbm o → op ≤ 5 → s.apTranslate o .atomic = .ok pa pc → s.manorUp (pa / 2 ^ 38) = true →
          (s.atHome (unitOfEp epApps) 0 o pa len).poisonIn pa len = false → Does (.apertureAccess op addr len v cmp) s fun t =>
          let old := Memory.read s.mem pa len
          t.rsp = .word (BitVec.ofNat 64 old) ∧
          Memory.read t.mem pa len = (atomicNew (op - 2) (if len = 4 then 2 else 3) old v.toNat cmp.toNat).1 % 256 ^ len ∧
          (∀ a, apart a 1 pa len → (pc = true → apart a 1 (partnerPa pa) len) → Memory.byte t.mem a = Memory.byte s.mem a) ∧
          t.reg64 (Reg.atomics (pa / 2 ^ 38)) = (s.reg64 (Reg.atomics (pa / 2 ^ 38)) + 1) % 2 ^ 64 ∧ t.ddr = s.ddr)) ∧
      (∀ op, 2 ≤ op → ((len ≠ 4 ∧ len ≠ 8) ∨ addr % len ≠ 0 ∨ (op = 5 ∧ len ≠ 8) ∨ 13 < op) → Does (.apertureAccess op addr len v cmp) s fun t => t = fault)) ∧
    (∀ (src dst n : Nat),
      let isMem := fun (a : Nat) => (∃ o, placeOf a = .ddr o) ∨ (∃ o, placeOf a = .hbm o) ∨ placeOf a = .nvme
      (s.dmaRuns = false → Does (.dmaTransfer src dst n) s fun t => t = s) ∧
      (s.dmaRuns = true → (¬ isMem src ∨ ¬ isMem dst) → Does (.dmaTransfer src dst n) s fun t => t = fault) ∧
      (s.dmaRuns = true → isMem src → isMem dst → ∀ u, 
        (s.dmaRead src n = (u, .poison) → Does (.dmaTransfer src dst n) s fun t => t = { u with rsp := .poison }) ∧
        (s.dmaRead src n = (u, .wait) → Does (.dmaTransfer src dst n) s fun t => t = s) ∧
        (∀ d, s.dmaRead src n = (u, .ok d) →
          (placeOf dst = .nvme → Does (.dmaTransfer src dst n) s fun t => t = { u with rsp := .none } ∧ u.mem = s.mem ∧ u.ddr = s.ddr) ∧
          (∀ o, placeOf dst = .ddr o → o + n ≤ 2 ^ 35 → Does (.dmaTransfer src dst n) s fun t => d.length = n ∧ ddrHolds o d t ∧ t.rsp = .none) ∧
          (∀ o l, placeOf dst = .hbm o → o + n ≤ 2 ^ 48 → u.apAll .write (pages o n) = some l → u.apWay l = true →
            Does (.dmaTransfer src dst n) s fun t => d.length = n ∧ hbmHolds l d t ∧ t.rsp = .none)))) ∧
    (∀ (port : Fin 2) (write : Bool) (addr len : Nat) (v : BitVec 64),
      let refuses := fun (t : State) => t.rsp = .unsupported ∧ port.val ∈ t.recov.aer ∧ t = { s with rsp := .unsupported, recov := { s.recov with aer := t.recov.aer } }
      (s.portUp port.val = false → Does (.pcieInbound port write addr len v) s fun t => t = s) ∧
      (s.portUp port.val = true → Does (.pcieInbound port write addr len v) s fun t =>
        (Config.iommu port.val addr = none → refuses t) ∧
        (∀ a, Config.iommu port.val addr = some a →
          (write = true → (s.mapWrite 658 a (toBytes len v.toNat) = .fault → refuses t) ∧ (s.mapWrite 658 a (toBytes len v.toNat) = .wait → t = s) ∧
            (∀ u, s.mapWrite 658 a (toBytes len v.toNat) = .ok u → t = { u with rsp := .none })) ∧
          (write = false → ∀ u, (s.mapRead 658 a len = (u, .fault) → refuses t) ∧ (s.mapRead 658 a len = (u, .wait) → t = s) ∧
            (s.mapRead 658 a len = (u, .poison) → t = { u with rsp := .poison }) ∧
            (∀ d, s.mapRead 658 a len = (u, .ok d) → t = { u with rsp := .bytes d })))))

/-! ## Faults and reeves (chapter 10) -/

/-- R420 to R422, R459, R460, R480: a reeve takes the oldest record on its way to it, unless another reeve's has an earlier TIME: into the start-up buffer before the log is open, else to HEAD of the
ring; a full ring loses an info or corrected record, counted in LOST, and holds a fence or fold record in the lead reeve. A write of TAIL drops what it
passes, zeroes LOST, and lets what was held follow. FAULT_LOG is signalled at most once a millisecond. -/
def Obligations.FaultLogKeepsRecords : Prop :=
  ∀ (s : State), Safe s →
    let base := s.reg64 Reg.faultBase % 2 ^ 35
    let head := s.field Reg.faultHead 0 16
    (∀ (r : ReeveIx),
      let out := s.recov.haltedReeves.contains r.val = true ∨ s.recov.lostReeves.contains r.val = true
      let early := fun (w : BitVec 128) => ∃ y ∈ s.recov.flight, y.1 ≠ r.val ∧ s.takes y.1 = true ∧ recTime y.2 < recTime w
      ((out ∨ ∀ x ∈ s.recov.flight, x.1 ≠ r.val) → Does (.faultRecord r) s fun t => t = s) ∧
      (∀ w, early w → (s.recov.flight.find? fun x => x.1 == r.val) = some (r.val, w) → Does (.faultRecord r) s fun t => t = s) ∧
      (∀ w, ¬ out → ¬ early w → (s.recov.flight.find? fun x => x.1 == r.val) = some (r.val, w) →
        let f := s.recov.flight.erase (r.val, w)
        (s.recov.baseWritten = false → s.recov.startBuf.length < 256 → Does (.faultRecord r) s fun t =>
          t = { s with recov := { s.recov with flight := f, startBuf := s.recov.startBuf ++ [w] } }) ∧
        (s.recov.baseWritten = true → s.logFull = false → s.recov.heldRecs = [] → Does (.faultRecord r) s fun t =>
          t.recov.flight = f ∧ t.recov.log = s.recov.log ++ [w] ∧ t.field Reg.faultHead 0 16 = (head + 1) % 65536 ∧
          Memory.read t.ddr (base + head * 16) 16 = w.toNat ∧
          (∀ a, (a < base + head * 16 ∨ base + head * 16 + 16 ≤ a) → Memory.byte t.ddr a = Memory.byte s.ddr a) ∧
          (recSev w < 2 → (∀ t0, s.recov.logT = some t0 → t0 + 1000000 ≤ s.time) → t.recov.logIrq = true ∧ t.recov.logT = some s.time) ∧
          (∀ t0, recSev w < 2 → s.recov.logT = some t0 → s.time < t0 + 1000000 → t.recov.logPending = true ∧ t.recov.logIrq = s.recov.logIrq) ∧
          t.mem = s.mem ∧ t.net = s.net ∧ ∀ a, a ≠ Reg.faultHead → t.reg a = s.reg a) ∧
        (s.recov.baseWritten = true → s.logFull = true → recSev w < 2 → Does (.faultRecord r) s fun t =>
          t.recov = { s.recov with flight := f } ∧ t.field Reg.faultStat 0 16 = min 65535 (s.field Reg.faultStat 0 16 + 1) ∧
          t.flag Reg.faultStat 30 = s.flag Reg.faultStat 30 ∧ t.ddr = s.ddr ∧ ∀ a, a ≠ Reg.faultStat → t.reg a = s.reg a) ∧
        (s.recov.baseWritten = true → s.logFull = true → 2 ≤ recSev w →
          (s.recov.heldRecs.length < 64 → Does (.faultRecord r) s fun t =>
            t = { s with recov := { s.recov with flight := f, heldRecs := s.recov.heldRecs ++ [w] } }) ∧
          (64 ≤ s.recov.heldRecs.length → s.recov.reeveQ = [] → Does (.faultRecord r) s fun t =>
            t.recov.reeveQ = [(r.val, w)] ∧ t.recov.overCut = true ∧ t.recov.log = s.recov.log ∧ (s.recov.overCut = false → t.bell.cuts ≠ []))))) ∧
    (∀ v : W32, Does (.faultTailWrite v) s fun t =>
      let tail := v.toNat % 65536
      let passed := (tail + 65536 - s.field Reg.faultTail 0 16) % 65536
      t.reg Reg.faultTail = BitVec.ofNat 32 tail ∧ t.field Reg.faultStat 0 16 = 0 ∧ t.mem = s.mem ∧
      (s.recov.heldRecs = [] → s.recov.reeveQ = [] → s.recov.overCut = false →
        t.recov = { s.recov with log := s.recov.log.drop passed, logIrq := false, logPending := t.recov.logPending } ∧ t.ddr = s.ddr ∧ t.bell = s.bell ∧
        ∀ a, a ≠ Reg.faultTail → a ≠ Reg.faultStat → t.reg a = s.reg a) ∧
      (∀ w ws, s.recov.heldRecs = w :: ws → s.recov.reeveQ = [] → (head + 1) % 65536 ≠ tail → w ∈ t.recov.log) ∧
      (∀ w ws, s.recov.heldRecs = w :: ws → (head + 1) % 65536 = tail → t.recov.log = s.recov.log.drop passed)) ∧
    (∀ t0, s.recov.logT = some t0 → s.recov.logPending = true → t0 + 1000000 ≤ s.time → Does .faultLog s fun t =>
      t = { s with recov := { s.recov with logIrq := true, logPending := false, logT := some s.time } }) ∧
    ((s.recov.logPending = false ∨ ∀ t0, s.recov.logT = some t0 → s.time < t0 + 1000000) → Does .faultLog s fun t => t = s)

/-- R423, R424, R461, R469: a running reeve sends its heartbeat every HB_PERIOD; its watchdog halts it; after three periods without one it is
lost, the next reeve of its suit takes what was on its way to it, and the last of a suit's reeves folds the suit. -/
def Obligations.ReevesBeatAndPassOn : Prop :=
  ∀ (r : ReeveIx) (s : State),
    let period := max 1 (s.field (Reg.reeveCtl (r.val / 4)) 24 8) * 1000000
    let last := PMap.get 0 s.recov.beatT r.val
    let runs := (s.suit (r.val / 4)).powered = true ∧ r.val ∉ s.recov.haltedReeves ∧ r.val ∉ s.recov.lostReeves
    (runs → last + period ≤ s.time → Does (.heartbeat r) s fun t =>
      PMap.get 0 t.recov.beatT r.val = s.time ∧ t = { s with recov := { s.recov with beatT := t.recov.beatT } }) ∧
    ((¬ runs ∨ s.time < last + period) → Does (.heartbeat r) s fun t => t = s) ∧
    (runs → Does (.watchdogExpiry r) s fun t => t = { s with recov := { s.recov with haltedReeves := s.recov.haltedReeves ++ [r.val] } }) ∧
    (¬ runs → Does (.watchdogExpiry r) s fun t => t = s) ∧
    (let due := r.val ∉ s.recov.lostReeves ∧ (s.suit (r.val / 4)).powered = true ∧ last + 3 * period ≤ s.time
     let others := ∃ x, x / 4 = r.val / 4 ∧ x ≠ r.val ∧ x ∉ s.recov.lostReeves
     (¬ due → Does (.reeveLost r) s fun t => t = s) ∧
     (due → others → Does (.reeveLost r) s fun t => t.recov.lostReeves = s.recov.lostReeves ++ [r.val] ∧
       t.recov.notices = s.recov.notices ++ [.reeveLost r.val] ∧ (∀ x ∈ t.recov.flight, x.1 ≠ r.val) ∧
       t.recov.flight.map (·.2) = s.recov.flight.map (·.2) ∧ (∀ x ∈ s.recov.flight, x.1 ≠ r.val → x ∈ t.recov.flight) ∧ t = { s with recov := t.recov }) ∧
     (due → ¬ others → s.suitDark (r.val / 4) = false → s.mayFold (r.val / 4) = true → Does (.reeveLost r) s fun t =>
       r.val / 4 ∈ t.recov.foldedSuits ∧ (t.suit (r.val / 4)).powered = false))

/-! ## Recovery (chapter 10) -/

/-- R360, R426, R428, R429, R438 to R440, R443, R451: a hand fold fences the hand, takes its suit out of service with its power and memory kept, and posts HAND_FOLDED; a suit
fold turns the suit's rails off, loses what they held, fences the bridges that face it, applies the fold mask and posts SUIT_FOLDED; a fold that leaves no
suit stops the job; a suit that left with a hand fold rejoins at a held boundary, its fold bit cleared. A fence or fold bit is pending until its suit is
drained. -/
def Obligations.FoldsAndRejoins : Prop :=
  ∀ (s : State), Safe s →
    (∀ (h : HandIx) (cause : Nat),
      let i := h.val / 160
      let folds := cause ≤ 3 ∧ (s.suit i).powered = true ∧ s.fenced h.val = false ∧ s.mayFold i = true ∧ (cause = 3 → s.driftedTwice (Reg.seqCtl h.val) = true)
      (¬ folds → Does (.handFold h cause) s fun t => t = s) ∧
      (folds → Does (.handFold h cause) s fun t => bit (t.bound (Reg.fence i (h.val % 160 / 32))).toNat (h.val % 32) = true ∧
        (s.net = [] → s.inbox = [] → t.fenced h.val = true) ∧ (∀ j < 4, s.suitDark j = false → bit (t.bound (Reg.fabCtl j)).toNat i = true) ∧
        t.suitUp i = false ∧ i ∈ t.recov.outSuits ∧ (t.suit i).powered = true ∧
        (∃ r w, (r, w) ∈ t.recov.flight ∧ bits w.toNat 0 8 = 0x08 ∧ recSev w = 3 ∧ bits w.toNat 16 16 = epHand h.val 31 ∧ bit w.toNat 124 = true ∧
          bits w.toNat 125 3 = cause) ∧
        (s.job.run = true → t.bell.cuts ≠ []) ∧ (s.job.run = true → (∀ j < 4, t.suitUp j = false) → t.job.stopWanted = 1) ∧
        (s.job.run = false → s.colls = [] → t.mem = s.mem ∧ t.cores = s.cores ∧ t.hands = s.hands ∧
          ∀ a, (∀ j < 4, a < Reg.fabCtl j ∨ Reg.fence j 4 < a) → a ≠ Reg.bellStat → t.reg a = s.reg a))) ∧
    (∀ (i : SuitIx) (cause : Nat),
      let folds := cause ≤ 5 ∧ (s.suit i.val).powered = true ∧ s.suitDark i.val = false ∧ s.mayFold i.val = true ∧ (cause = 3 → s.isolated i.val = true)
      (¬ folds → Does (.suitFold i cause) s fun t => t = s) ∧
      (folds → Does (.suitFold i cause) s fun t => (t.suit i.val).powered = false ∧ i.val ∈ t.recov.foldedSuits ∧ t.suitUp i.val = false ∧
        (∀ b ∈ endsFacing i.val, t.flag (Reg.bridgeEnd b) 31 = false) ∧ (t.link (linkKey (2 * i.val) true true)).down = true ∧
        (∀ j < 4, j ≠ i.val → s.suitDark j = false → bit (t.bound (Reg.fabCtl j)).toNat i.val = true) ∧
        (∀ j < 4, s.net = [] → s.inbox = [] → s.colls = [] → j ≠ i.val → s.suitDark j = false → bit (t.foldMask j) i.val = true) ∧
        (∃ r w, (r, w) ∈ t.recov.flight ∧ bits w.toNat 0 8 = 0x09 ∧ recSev w = 3 ∧ bits w.toNat 124 4 = cause) ∧
        (s.job.run = true → (∀ j < 4, t.suitUp j = false) → t.job.stopWanted = 1) ∧
        (s.job.run = false → s.colls = [] →
          (∀ a, i.val * 2 ^ 38 ≤ a → a < (i.val + 1) * 2 ^ 38 → Memory.byte t.mem a = 0) ∧
          (∀ a, (a < i.val * 2 ^ 38 ∨ (i.val + 1) * 2 ^ 38 ≤ a) → Memory.byte t.mem a = Memory.byte s.mem a) ∧
          (∀ h, h / 160 = i.val → t.hand h = {}) ∧ (∀ k, k / 2720 = i.val → t.core k = {}) ∧
          (∀ a, (locate a).suitOf = some i.val → t.reg a = Reg.reset a) ∧
          ∀ a, (locate a).suitOf ≠ some i.val → (∀ j < 4, a < Reg.fabCtl j ∨ Reg.fence j 4 < a) → (∀ b ∈ endsFacing i.val, a ≠ Reg.bridgeEnd b) → a ≠ Reg.bellStat →
            t.reg a = s.reg a))) ∧
    (∀ (i : SuitIx),
      let joins := i.val ∈ s.recov.outSuits ∧ i.val ∉ s.sec.fencedSuits ∧ s.suitDark i.val = false ∧
        (s.job.run = true → s.allHeld = true)
      (¬ joins → Does (.suitRejoin i) s fun t => t = s) ∧
      (joins → Does (.suitRejoin i) s fun t => i.val ∉ t.recov.outSuits ∧
        (∀ j < 4, s.suitDark j = false → bit (t.bound (Reg.fabCtl j)).toNat i.val = false) ∧
        (s.colls = [] → (∀ a, (∀ j < 4, a < Reg.fabCtl j ∨ Reg.fence j 4 < a) → t.reg a = s.reg a) ∧
        t = { s with regs := t.regs, staged := t.staged, cfg := t.cfg, recov := { s.recov with outSuits := s.recov.outSuits.filter (· != i.val) } })))

/-- R294, R425 to R427, R433 to R438, R546, R548: a replay first stops every hand of its set, and then gives each its slot's counters with the increments received
since, its loop registers and its fetch address, its queues and cores empty; a core swap writes the spare map with core 16 for the failed core and posts CORE_SPARED,
before the replay of the hand, or is a hand fold where the kitty cannot serve. That a hand without a checkpoint of its stream goes back to its stream's start is the model's
choice (assumption 41). -/
def Obligations.ReplayAndCoreSwap : Prop :=
  ∀ (s : State),
    let back := fun (h : Nat) (epoch : Bool) (slot : Nat) (t : State) =>
      let since := if epoch then (s.hand h).sinceEpoch else (s.hand h).sinceLast
      (∀ c < 64, t.evc h c = BitVec.ofNat 32 (bits slot (32 * c) 32 + PMap.get 0 since.inc c)) ∧
      (∀ n < 4, t.reg (Reg.loopReg h n) = BitVec.ofNat 32 (bits slot (2048 + 32 * n) 28)) ∧
      t.reg64 (Reg.seqFetch h) = bits slot 2176 48 ∧ t.flag (Reg.seqStat h) 30 = false ∧
      (t.hand h).buf = [] ∧ (t.hand h).xq = [] ∧ (t.hand h).pq = [] ∧ (t.hand h).skipSig = since.signals ∧ (t.hand h).skipColl = since.colls
    let slotOf := fun (h : Nat) (epoch : Bool) => s.slotOf h epoch (if epoch then (s.hand h).hasEpoch else (s.hand h).hasLast) (s.hand h).base
    (∀ (h : HandIx) (epoch : Bool),
      let goes := s.job.run = true ∧ s.handUp h.val = true ∧ (s.hand h.val).stream = true ∧ s.mayRecover h.val = true
      (¬ goes → Does (.handReplay h epoch) s fun t => t = s) ∧
      (goes → s.cutFor (s.replayed h.val epoch) = false → Does (.handReplay h epoch) s fun t =>
        t.bell.cuts ≠ [] ∧ t.recov.busy = some h.val ∧ t.mem = s.mem ∧ t.hands = s.hands ∧ t.cores = s.cores ∧
        ∀ a, a ≠ Reg.bellStat → (∀ j, a ≠ Reg.granCtl j) → t.reg a = s.reg a) ∧
      (goes → s.cutFor (s.replayed h.val epoch) = true → Does (.handReplay h epoch) s fun t =>
        t.mem = s.mem ∧ ∀ x ∈ s.replayed h.val epoch, ∀ slot, slotOf x epoch = some slot → back x epoch slot t)) ∧
    (∀ (k : CoreIx) (cause : Nat) (kittyOk : Bool),
      let h := k.val / 17
      let l := s.logical h (k.val % 17)
      let may := cause ≤ 3 ∧ l < 16 ∧ s.handUp h = true ∧ s.mayRecover h = true ∧ (cause = 3 → s.driftedTwice (Reg.cubeCtl k.val) = true)
      let fit := s.flag (Reg.spare h) 31 = false ∧ s.flag (Reg.spare h) 0 = false ∧ kittyOk = true
      let busy := s.job.run = true ∧ (s.hand h).stream = true
      let swapped := fun (t : State) => t.reg (Reg.spare h) = BitVec.ofNat 32 (2 ^ 31 + l * 2 ^ 24 + 1) ∧ t.physCore h l = h * 17 + 16 ∧
        ∃ r w, (r, w) ∈ t.recov.flight ∧ bits w.toNat 0 8 = 0x07 ∧ recSev w = 1 ∧ bits w.toNat 111 3 = cause
      (¬ may → Does (.coreSwap k cause kittyOk) s fun t => t = s) ∧
      (may → ¬ fit → Does (.coreSwap k cause kittyOk) s fun t =>
        bit (t.bound (Reg.fence (h / 160) (h % 160 / 32))).toNat (h % 32) = true ∧ h / 160 ∈ t.recov.outSuits ∧ t.suitUp (h / 160) = false) ∧
      (may → fit → ¬ busy → Does (.coreSwap k cause kittyOk) s fun t => swapped t ∧ t.core k.val = {} ∧
        t.core (h * 17 + 16) = { s.core k.val with halted := [] } ∧ Frame (· = Reg.spare h) Nothing (fun c => c = k.val ∨ c = h * 17 + 16) Nothing
          s { t with cfg := s.cfg }) ∧
      (may → fit → busy → s.cutFor (s.replayed h false) = false → Does (.coreSwap k cause kittyOk) s fun t =>
        t.bell.cuts ≠ [] ∧ t.recov.busy = some h ∧ t.mem = s.mem ∧ t.cores = s.cores ∧
        ∀ a, a ≠ Reg.bellStat → (∀ j, a ≠ Reg.granCtl j) → t.reg a = s.reg a) ∧
      (may → fit → busy → s.cutFor (s.replayed h false) = true → Does (.coreSwap k cause kittyOk) s fun t =>
        swapped t ∧ t.mem = s.mem ∧ ∀ x ∈ s.replayed h false, ∀ slot, slotOf x false = some slot → back x false slot t))

/-- R40, R433, R441, R442, R452 to R454, R484, R561: the scrub zeroes every page the deal mapped and every counter, and empties the units; a checkpoint at a held boundary
fills its slot and lets the hands go on, or the stop that waited for it; a release's checkpoint is abandoned at 9 s, and no boundary within 4 s rings
the Bell; a variant's units start from the resume table; the Mills roll a step forward and stop again; a drain write moves 32 records from the on-chip ring to HBM. -/
def Obligations.DealsStopAndResume : Prop :=
  ∀ (s : State), Safe s →
    let stops := fun (source : Nat) (t : State) => t.job.stopWanted = 1 ∧ t.job.ckptArmed = false ∧ t.bell.cuts ≠ [] ∧
      t.field Reg.bellStat 25 4 = source ∧ t.mem = s.mem ∧ t.hands = s.hands ∧ ∀ a, a ≠ Reg.bellStat → t.reg a = s.reg a
    (s.job.scrub = false → Does .scrub s fun t => t = s) ∧
    (s.job.scrub = true → Does .scrub s fun t =>
      (∀ a, (∃ f ∈ s.job.pages, f ≤ a ∧ a < f + 65536) → Memory.byte t.mem a = 0) ∧
      (∀ a, (∀ f ∈ s.job.pages, a < f ∨ f + 65536 ≤ a) → Memory.byte t.mem a = Memory.byte s.mem a) ∧
      (∀ a, isScrubbed a = true → t.reg a = Reg.reset a) ∧ (s.colls = [] → ∀ a, isScrubbed a = false → t.reg a = s.reg a) ∧ (∀ h < 640, ∀ c < 64, t.evc h c = 0) ∧
      t.hands = [] ∧ t.cores = [] ∧ t.mills = [] ∧ t.colls = [] ∧ t.redMem = [] ∧ (∀ i < 4, (t.suit i).gran = []) ∧ t.net = [] ∧ t.job.scrub = false ∧ (∀ c ∈ t.bell.cuts, c.complete = false) ∧
      t.ddr = s.ddr ∧ t.sec = s.sec ∧ t.recov = s.recov) ∧
    (∀ linksUp : Bool,
      let at_ := s.job.run = true ∧ s.allHeld = true ∧ s.handsLeft ≠ [] ∧ s.recov.busy = none
      (¬ at_ → Does (.checkpoint linksUp) s fun t => t = s) ∧
      (at_ → Does (.checkpoint linksUp) s fun t => t.job.ckptSlots = s.job.ckptSlots.set s.job.ckptNext linksUp ∧
        t.job.ckptNext = (if linksUp then 1 - s.job.ckptNext else s.job.ckptNext) ∧
        (s.job.ckptArmed = true → linksUp = true → stops (if s.ctl.releaseReq.isSome then 3 else 2) t) ∧
        ((s.job.ckptArmed = false ∨ linksUp = false) → t.bell = s.bell ∧ t.job.stopWanted = s.job.stopWanted ∧ t.mem = s.mem ∧
          ∀ h < 640, ∀ va r, (s.hand h).held = some (va, r) → (t.hand h).held = none ∧ ∀ c < 64, t.evc h c = s.evc h c + incsOf r c))) ∧
    ((s.releaseDue 9000000000 = true → Does .checkpointTimeout s fun t => stops 3 t ∧ t.job.ckptSlots = s.job.ckptSlots.set s.job.ckptNext false) ∧
      (s.releaseDue 9000000000 = false → Does .checkpointTimeout s fun t => t = s) ∧
      (s.releaseDue 4000000000 = true → s.allHeld = false → Does .releaseBoundaryTimeout s fun t => stops 3 t ∧ t.job.ckptSlots = s.job.ckptSlots) ∧
      ((s.releaseDue 4000000000 = false ∨ s.allHeld = true) → Does .releaseBoundaryTimeout s fun t => t = s)) ∧
    (∀ (rootVa : Nat) (resume : List (Nat × List Nat)),
      let may := s.job.run = true ∧ s.mayRecover 650 = true
      (¬ may → Does (.variantSwitch rootVa resume) s fun t => t = s) ∧
      (may → s.packageCut = false → Does (.variantSwitch rootVa resume) s fun t => t.bell.cuts ≠ [] ∧ t.job = s.job ∧ t.mem = s.mem ∧
        t.hands = s.hands ∧ ∀ a, a ≠ Reg.bellStat → (∀ j, a ≠ Reg.granCtl j) → t.reg a = s.reg a) ∧
      (may → s.packageCut = true → s.readRoot rootVa = none → Does (.variantSwitch rootVa resume) s fun t => t = s) ∧
      (∀ j deal, may → s.packageCut = true → s.readRoot rootVa = some (j, deal) → Does (.variantSwitch rootVa resume) s fun t =>
        t.job.run = true ∧ t.job.tensorVa = j.tensorVa ∧ t.job.scaleVa = j.scaleVa ∧ t.job.traceVa = j.traceVa ∧ t.job.entries = j.entries ∧
        t.job.rollForward = false ∧ t.colls = [] ∧ t.net = [] ∧ t.mem = s.mem ∧ ((∀ c ∈ s.bell.cuts, c.complete = true) → t.bell.cuts = []) ∧
        (∀ h < 640, s.handUp h = true → ∀ v, (resume.find? fun x => x.1 == h) = some (h, v) →
          (∀ c < 64, t.evc h c = BitVec.ofNat 32 (v.getD c 0)) ∧ (∀ n < 4, t.reg (Reg.loopReg h n) = BitVec.ofNat 32 (v.getD (64 + n) 0 % 2 ^ 28)) ∧
          t.reg64 (Reg.seqFetch h) = v.getD 68 (PMap.get 0 j.entries h) % 2 ^ 64 ∧ (t.hand h).stream = decide (PMap.get 0 j.entries h ≠ 0) ∧
          (t.hand h).buf = [] ∧ (t.hand h).ended = false) ∧
        ∀ m < 8, s.suitUp (m / 2) = true → ∀ v, (resume.find? fun x => x.1 == 640 + m) = some (640 + m, v) →
          (∀ c < 32, t.millEvc m c = BitVec.ofNat 32 (v.getD c 0)) ∧ (t.mill m).fetch = v.getD 36 (PMap.get 0 j.entries (640 + m)) ∧ (t.mill m).q = [])) ∧
    (let mine := fun (u : Nat) => ∃ m < 8, u = 640 + m ∧ s.suitUp (m / 2) = true ∧ (s.mill m).stream = true
     let open_ := s.packageCut = true ∧ s.job.rollForward = true
     (¬ open_ → Does .stepRollForward s fun t => t = s) ∧
     (open_ → (∃ u ∈ s.bell.stopped, mine u) → Does .stepRollForward s fun t => t = { s with bell := t.bell } ∧ t.bell.cuts = s.bell.cuts ∧
       ∀ u, (u ∈ t.bell.stopped ↔ u ∈ s.bell.stopped ∧ ¬ mine u) ∧ (u ∈ t.bell.marked ↔ u ∈ s.bell.marked ∧ ¬ mine u)) ∧
     (open_ → (∀ u ∈ s.bell.stopped, ¬ mine u) → (∀ m, mine (640 + m) → ∀ c ∈ (s.mill m).q, Record.opcode c.r ≠ 1) → Does .stepRollForward s fun t =>
       t = { s with bell := t.bell, job := { s.job with rollForward := false } } ∧ t.bell.cuts = s.bell.cuts ∧
       ∀ u, (u ∈ t.bell.stopped ↔ u ∈ s.bell.stopped ∨ mine u) ∧ (u ∈ t.bell.marked ↔ u ∈ s.bell.marked ∨ mine u)) ∧
     (open_ → (∀ u ∈ s.bell.stopped, ¬ mine u) → (∃ m, mine (640 + m) ∧ ∃ c ∈ (s.mill m).q, Record.opcode c.r = 1) → Does .stepRollForward s fun t => t = s)) ∧
    (∀ u : Fin 648,
      let last := if u.val < 640 then (s.hand u.val).drainT else (s.mill (u.val - 640)).drainT
      let due := s.job.run = true ∧ 32 ≤ (s.ringOf u.val).length ∧ last + s.drainGap u.val ≤ s.now u.val ∧ u.val ∉ s.bell.stopped
      let blk := s.traceBlock u.val + 0x300
      let written := match s.vread blk 8 with | .ok v => v | _ => 0
      let lost := if u.val < 640 then (s.reg (Reg.handLost u.val)).toNat else (s.mill (u.val - 640)).lostAll
      (¬ due → Does (.traceDrain u) s fun t => t = s) ∧
      (due → (Does (.traceDrain u) s fun t => (t.ringOf u.val = (s.ringOf u.val).drop 32 ∨ ∃ x, t.ringOf u.val = x :: (s.ringOf u.val).drop 32) ∧
          t.cores = s.cores ∧ t.bell = s.bell ∧ ∀ a, a ≠ Reg.handLost u.val → a ≠ Reg.handObsStat u.val → ¬ GranReg a → t.reg a = s.reg a) ∧
        (s.job.wrap = 1 → 2 ^ s.job.ringLog ≤ written → Does (.traceDrain u) s fun t => t.mem = s.mem ∧
          (u.val < 640 → t.flag (Reg.handObsStat u.val) 30 = true ∧ t.reg (Reg.handLost u.val) = s.reg (Reg.handLost u.val) + 32)) ∧
        (∀ s2 s3, (s.job.wrap ≠ 1 ∨ written < 2 ^ s.job.ringLog) →
          (s.setRing u.val ((s.ringOf u.val).drop 32)).vwrite u.val 0 (s.traceRing u.val + written % 2 ^ s.job.ringLog) 1024
            (packTrace ((s.ringOf u.val).take 32)) = some s2 →
          s2.vwrite u.val 0 blk 16 ((written + 1024) % 2 ^ 64 + lost * 2 ^ 64) = some s3 →
          Does (.traceDrain u) s fun t => t.mem = s3.mem ∧ t.poisoned = s3.poisoned ∧ t.ringOf u.val = (s.ringOf u.val).drop 32 ∧
            ∀ a, t.reg a = s3.reg a)))

/-! ## Power (chapters 12 and 15) -/

/-- R5, R6, R29, R32, R470, R472, R473, R475 to R481, R491, R492, R501, R513, R588: the module powers on with EN high and starts at step 1; a step that ends begins the next, with
its own effect: the flash mode, the bank of the image, the rails of the fused suits and the timebase, pseudo-channels mapped out, hands fenced by their test, the
suits in service, the loader, READY; a step past its limit takes its failure action; the reference's loss leaves the timebase running. Which units a limit finds unfinished is a free choice
(assumption 44), and that bridges train in step 3 the model's reading (assumption 42). -/
def Obligations.StartUpAndReference : Prop :=
  ∀ (s : State),
    let ended := fun (t : State) => t.ctl.safe = true ∧ t.ctl.mainSwitch = false ∧ t.mem = [] ∧ t.ddr = [] ∧ t.job.run = false ∧ t.flash = s.flash
    let goes := s.starting = true ∧ s.ctl.endAtBoundary = false
    (s.ctl.en = true → s.ctl.mainSwitch = false → s.ctl.safe = false → Does .powerOn s fun t => t.ctl.mainSwitch = true ∧ t.ctl.step = 1 ∧
      t.mem = [] ∧ t.ddr = [] ∧ t.flash = s.flash ∧ (∀ a, t.reg a = Reg.reset a) ∧ t.sec.cmdKey = s.sec.cmdKey ∧ t.sec.lastCtr = s.sec.lastCtr ∧
      t.sec.minSeq = s.sec.minSeq ∧ t.sec.owner = s.sec.owner) ∧
    ((s.ctl.en = false ∨ s.ctl.mainSwitch = true ∨ s.ctl.safe = true) → Does .powerOn s fun t => t = s) ∧
    (∀ r : StepResult,
      (s.starting = false → Does (.startUpStepEnd r) s fun t => t = s) ∧
      (s.starting = true → s.ctl.endAtBoundary = true → Does (.startUpStepEnd r) s ended) ∧
      (goes → s.ctl.step = 1 → Does (.startUpStepEnd r) s fun t => t.ctl.step = 2 ∧ t.field Reg.bootStat 28 4 = 2 ∧
        t.field Reg.bootStat 21 2 = (if r.flashMode < 3 then r.flashMode else 0) ∧ t.ctl.fallback = decide (3 ≤ r.flashMode) ∧ t.mem = s.mem ∧ (s.sec.erasePending = true → t.sec.cmdKey = none ∧ t.sec.attSeed = none) ∧
        (s.sec.erasePending = false → t.sec.cmdKey = s.sec.cmdKey)) ∧
      (goes → s.ctl.step = 2 → Does (.startUpStepEnd r) s fun t => t.mem = s.mem ∧ t.flash = s.flash ∧
        (s.chooseBank = none → t.ctl.flashRecovery = true ∧ t.flag Reg.bootStat 26 = true ∧ t.flag Reg.bootStat 24 = true ∧
          t.flag Reg.bootStat 23 = true ∧ t.flag Reg.mgmtStat 31 = true) ∧
        (∀ b, s.chooseBank = some b → t.ctl.step = 3 ∧ t.ctl.bank = b ∧ t.ctl.bankSeq = imgSeq s.flash (bankBase b) ∧
          t.ctl.config = BitVec.ofNat 512 (Memory.read s.flash (s.sectionAt b 3) 64) ∧ t.gov.fMax = t.cfgFMax ∧ t.gov.pLimit = t.cfgPLimit)) ∧
      (goes → s.ctl.step = 3 → Does (.startUpStepEnd r) s fun t => t.ctl.step = 4 ∧ t.ctl.timeOn = true ∧
        (s.ctl.timeOn = false → t.time = 0 ∧ t.extRef = true) ∧
        (∀ i < 4, s.fusedIn i = true → i ∉ r.badSuits → (t.suit i).powered = true ∧ (t.suit i).clock = s.gov.fMax ∧ (t.suit i).cap = 8) ∧
        (∀ i < 4, s.fusedIn i = true → i ∈ r.badSuits → i ∉ s.recov.outSuits → i ∉ s.recov.foldedSuits → i ∈ t.recov.foldedSuits)) ∧
      (goes → s.ctl.step = 4 → Does (.startUpStepEnd r) s fun t =>
        (r.ddrOk = true → t.ctl.step = 5) ∧ (r.ddrOk = false → t.ctl.halted = true ∧ t.flag Reg.bootStat 26 = true) ∧
        (∀ i < 4, ∀ pc < 64, s.suitUp i = true → r.badPcs = [i * 64 + pc] → i ∉ r.badSuits → pc ∉ (s.suit i).outPcs →
          (s.reserveLeft i = true → (s.suit i).outPcs.length < 63 → (t.suit i).outPcs = (s.suit i).outPcs ++ [pc]) ∧
          (s.reserveLeft i = false → i ∈ t.recov.foldedSuits))) ∧
      (goes → s.ctl.step = 5 → Does (.startUpStepEnd r) s fun t => t.ctl.step = 6 ∧
        (s.net = [] → s.inbox = [] → s.colls = [] → s.staged = [] →
          (∀ h ∈ r.badHands, h < 640 → s.suitUp (h / 160) = true → (∃ x < 160, h / 160 * 160 + x ∉ r.badHands ∧ s.fenced (h / 160 * 160 + x) = false ∧
            ∀ k ∈ r.badCores, k / 17 ≠ h / 160 * 160 + x) → t.fenced h = true) ∧
          (∀ h < 640, ∀ c < 16, s.suitUp (h / 160) = true → h ∉ r.badHands → s.fenced h = false → h * 17 + c ∈ r.badCores →
            (∀ d ≤ 16, d ≠ c → h * 17 + d ∉ r.badCores) → t.reg (Reg.spare h) = BitVec.ofNat 32 (2 ^ 31 + c * 2 ^ 24 + 1)) ∧
          (∀ i < 4, s.suitUp i = true → (∀ x < 160, i * 160 + x ∈ r.badHands) → i ∈ t.recov.foldedSuits))) ∧
      (goes → s.ctl.step = 6 → Does (.startUpStepEnd r) s fun t => t.ctl.step = 7 ∧
        ∀ i < 4, (t.suitUp i = true → t.field (Reg.granCtl i) 16 2 = 0) ∧ bit (t.field Reg.bootStat 16 4) i = t.suitUp i) ∧
      (goes → s.ctl.step = 7 → Does (.startUpStepEnd r) s fun t => t.ctl.step = 8 ∧ t.ctl.osUp = true ∧ t.mem = s.mem ∧ t.flash = s.flash ∧
        s.sec.minSeq ≤ t.sec.minSeq ∧ (s.sec.effective 2 ≠ 1 → t.sec.minSeq = s.sec.minSeq)) ∧
      (goes → s.ctl.step = 8 → Does (.startUpStepEnd r) s fun t => t.ctl.step = 9 ∧ t.flag Reg.bootStat 27 = true ∧ t.recov.irq7 = true ∧
        t.field Reg.bootStat 0 16 = min 65535 ((s.clock - s.ctl.stepT) / 10000000) ∧ t.mem = s.mem)) ∧
    (let late1 := s.starting = true ∧ s.ctl.stepT + s.stepLimit * 1000000 ≤ s.clock
     (¬ late1 → Does .startUpStepLimit s fun t => t = s) ∧
     (late1 → s.ctl.endAtBoundary = true → Does .startUpStepLimit s ended) ∧
     (late1 → s.ctl.endAtBoundary = false → (s.ctl.step = 1 ∨ s.ctl.step = 7 ∨ s.ctl.step = 8) → Does .startUpStepLimit s fun t => t.ctl.halted = true ∧
       t.flag Reg.bootStat 26 = true ∧ t.mem = s.mem) ∧
     (late1 → s.ctl.endAtBoundary = false → s.ctl.step = 2 → Does .startUpStepLimit s fun t => t.ctl.flashRecovery = true ∧ t.flag Reg.bootStat 26 = true) ∧
     (late1 → s.ctl.endAtBoundary = false → (s.ctl.step = 3 ∨ s.ctl.step = 5 ∨ s.ctl.step = 6) → Does .startUpStepLimit s fun t =>
       t.ctl.step = s.ctl.step + 1) ∧
     (late1 → s.ctl.endAtBoundary = false → s.ctl.step = 4 → Does .startUpStepLimit s fun t => t.ctl.step = 5 ∨ t.ctl.halted = true)) ∧
    (let alarmed := fun (t : State) => (s.sec.holds 2 1 = false → t.recov.flight.length = s.recov.flight.length + 1 ∧ t.sec.level = max s.sec.level 1) ∧
       t.bell = s.bell ∧ t.mem = s.mem ∧ t.sec.hold = s.sec.hold
     let late := s.ctl.step = 3 ∧ s.starting = true ∧ s.ctl.timeOn = false ∧ s.ctl.stepT + 100000000 ≤ s.clock
     (late → Does .referenceTimeout s fun t => t.ctl.timeOn = true ∧ t.time = 0 ∧ t.extRef = false ∧ t.flag Reg.bootStat 20 = true ∧ alarmed t) ∧
     (¬ late → Does .referenceTimeout s fun t => t = s) ∧
     (s.ctl.timeOn = true → s.extRef = true → Does .referenceLoss s fun t => t.extRef = false ∧ t.time = s.time ∧ alarmed t ∧ ∀ a, t.reg a = s.reg a) ∧
     ((s.ctl.timeOn = false ∨ s.extRef = false) → Does .referenceLoss s fun t => t = s) ∧
     (s.ctl.timeOn = true → Does .referenceReturn s fun t => t = { s with extRef := true }) ∧
     (s.ctl.timeOn = false → Does .referenceReturn s fun t => t = s))

/-- R454 to R456, R481, R497, R510, R578, R582 to R586, R591 to R593, R601, R604, R606: a power failure, an over-voltage or EN going low turns every rail off, counted by the constable,
whose store remains; the governor lowers clocks and duty caps above the limit and raises them below it; throttles and a trip act on their suits; a release
goes by what the module is doing; a held Release restarts it. The floor of 600 MHz is the model's reading (assumption 47). -/
def Obligations.PowerAndRelease : Prop :=
  ∀ (s : State),
    let lost := fun (t : State) => t.ctl.mainSwitch = false ∧ t.mem = [] ∧ t.ddr = [] ∧ t.flash = s.flash ∧ t.hands = [] ∧ t.cores = [] ∧
      (∀ a, t.reg a = Reg.reset a) ∧ t.job.run = false ∧ t.sec.cmdKey = s.sec.cmdKey ∧ t.sec.lastCtr = s.sec.lastCtr ∧
      t.sec.pwrLoss.toNat = min 0xFFFFFFFF (s.sec.pwrLoss.toNat + 1)
    let governs := s.ctl.halted = false ∧ s.suitsUp ≠ []
    (s.ctl.mainSwitch = true →
      (Does .powerFail s lost) ∧ (Does .overVoltage s fun t => lost t ∧ t.ctl.faultN = true) ∧
      (Does (.enLow false) s fun t => lost t ∧ t.ctl.en = false) ∧
      (Does .vinLow s fun t => t.flag Reg.pwrEvent 27 = true ∧ Frame (· = Reg.pwrEvent) Nothing Nothing Nothing s t ∧ Quiet s t)) ∧
    (s.ctl.mainSwitch = false → (Does .powerFail s fun t => t = s) ∧ (Does .overVoltage s fun t => t = s) ∧ (Does .vinLow s fun t => t = s) ∧
      Does (.enLow false) s fun t => t.ctl.en = false ∧ t.ctl.safe = false ∧ t = { s with ctl := t.ctl }) ∧
    (Does (.enLow true) s fun t => t = { s with ctl := { s.ctl with en := true } }) ∧
    (∀ p : Nat,
      ((¬ governs ∨ p ≤ s.gov.pLimit + 50) → Does (.governorFast p) s fun t => t = s) ∧
      (governs → s.gov.pLimit + 50 < p → Does (.governorFast p) s fun t =>
        (∀ i < 4, t.suit i = if (s.suit i).powered = true ∧ 4 < (s.suit i).cap then { s.suit i with cap := (s.suit i).cap - 1 } else s.suit i) ∧
        ((∃ i < 4, (s.suit i).powered = true ∧ 4 < (s.suit i).cap) → t.flag Reg.pwrEvent 26 = true) ∧
        (∀ a, a ≠ Reg.pwrEvent → t.reg a = s.reg a) ∧ t = { s with regs := t.regs, suits := t.suits })) ∧
    (∀ (a : Nat) (hot near : List Nat),
      (¬ governs → Does (.governorTick a hot near) s fun t => t = s) ∧
      (governs → Does (.governorTick a hot near) s fun t => t = { s with suits := t.suits } ∧ ∀ i < 4,
        let x := s.suit i
        let y := t.suit i
        let isHot := x.throttled = true ∨ i ∈ hot
        (x.powered = false → y = x) ∧
        (x.powered = true →
          (s.gov.pLimit < a ∨ isHot → y.clock = max (x.clock - 25) 600 ∧ y.cap = x.cap) ∧
          (a ≤ s.gov.pLimit → ¬ isHot → x.cap < 8 → y.cap = x.cap + 1 ∧ y.clock = x.clock) ∧
          (a ≤ s.gov.pLimit → ¬ isHot → 8 ≤ x.cap → a + 20 < s.gov.pLimit → i ∉ near → y.clock = min (x.clock + 25) s.gov.fMax ∧ y.cap = x.cap) ∧
          (a ≤ s.gov.pLimit → ¬ isHot → 8 ≤ x.cap → (s.gov.pLimit ≤ a + 20 ∨ i ∈ near) → y.clock = x.clock ∧ y.cap = x.cap) ∧
          y.floorTicks = (if y.clock ≤ 600 then x.floorTicks + 1 else 0) ∧ y.throttled = decide (i ∈ hot)))) ∧
    (∀ i : SuitIx,
      (100 ≤ (s.suit i.val).floorTicks → Does (.floor i) s fun t => t.flag Reg.pwrEvent 28 = true ∧
        Frame (· = Reg.pwrEvent) Nothing Nothing Nothing s t ∧ Quiet s t) ∧
      ((s.suit i.val).floorTicks < 100 → Does (.floor i) s fun t => t = s) ∧
      (∀ kind : Fin 4,
        (s.ctl.mainSwitch = false → Does (.throttle kind i) s fun t => t = s) ∧
        (s.ctl.mainSwitch = true → Does (.throttle kind i) s fun t => t.flag Reg.pwrEvent (if kind.val = 2 then 29 else 30) = true ∧
          (∀ j < 4, t.suit j = { s.suit j with throttled := (s.suit j).throttled || ((s.suit j).powered && (decide (2 ≤ kind.val) || j == i.val)) }) ∧
          (∀ a, a ≠ Reg.pwrEvent → t.reg a = s.reg a) ∧ t = { s with regs := t.regs, suits := t.suits })) ∧
      (∀ kind : Fin 2,
        let trips := s.ctl.mainSwitch = true ∧ s.ctl.halted = false ∧ (kind = 1 → (s.suit i.val).powered = true)
        (¬ trips → Does (.trip kind i) s fun t => t = s) ∧
        (trips → Does (.trip kind i) s fun t => t.ctl.halted = true ∧ t.ctl.mainSwitch = true ∧
          t.flag Reg.pwrEvent 31 = true ∧ (∀ j < 4, (t.suit j).powered = false) ∧ (∀ b, b < 2 ^ 40 → Memory.byte t.mem b = 0) ∧ t.ddr = s.ddr ∧
          t.flash = s.flash ∧ t.job.run = false ∧ (s.job.run = true → t.flag Reg.jobStat 28 = true) ∧
          (∀ n < 4, t.flag (Reg.pcieLink n) 31 = false) ∧ t.sec.cmdKey = s.sec.cmdKey ∧
          t.sec.pwrLoss.toNat = min 0xFFFFFFFF (s.sec.pwrLoss.toNat + 1)))) ∧
    (∀ byLatch : Bool,
      ((s.ctl.mainSwitch = false ∨ s.ctl.releaseReq.isSome = true) → Does (.releaseRequest byLatch) s fun t =>
        t = { s with ctl := { s.ctl with latchOpen := s.ctl.latchOpen || byLatch } }) ∧
      (s.ctl.mainSwitch = true → s.ctl.releaseReq = none →
        (s.job.run = true → Does (.releaseRequest byLatch) s fun t => t.ctl.releaseReq = some s.clock ∧ t.job.ckptArmed = true ∧ t.job.run = true ∧
          t.flag Reg.pwrPanel 31 = true ∧ t.flag Reg.pwrPanel 30 = byLatch ∧ t.mem = s.mem ∧ t.bell = s.bell ∧ ∀ a, a ≠ Reg.pwrPanel → t.reg a = s.reg a) ∧
        (s.job.run = false → s.starting = true → Does (.releaseRequest byLatch) s fun t => t.ctl.endAtBoundary = true ∧ t.ctl.releaseReq = some s.clock ∧
          t.ctl.mainSwitch = true ∧ t.mem = s.mem) ∧
        (s.job.run = false → s.starting = false → Does (.releaseRequest byLatch) s fun t => t.ctl.safe = true ∧ t.ctl.mainSwitch = false ∧ t.mem = [] ∧
          t.ddr = [] ∧ t.flash = s.flash ∧ t.sec.cmdKey = s.sec.cmdKey ∧ t.sec.pwrLoss = s.sec.pwrLoss))) ∧
    (s.ctl.safe = true → s.ctl.en = true → Does .releaseHoldRestart s fun t => t.ctl.safe = false ∧ t.ctl.step = 1 ∧ t.ctl.mainSwitch = true ∧
      t.ctl.latchOpen = false ∧ t.mem = [] ∧ t.flash = s.flash) ∧
    ((s.ctl.safe = false ∨ s.ctl.en = false) → Does .releaseHoldRestart s fun t => t = s)

/-! ## The whole block -/

/-- A step takes the command at the front of the queue and is exec of it on the state with the queue's rest; on an empty queue a nanosecond
passes (the model's choice, assumption 1): the timebase, once started, and the clock since power-on advance (R29, R32), and of the rest of the
state only what HBM and its granary do in their own time may change (assumption 88). -/
def Obligations.StepTakesTheFrontCommand : Prop :=
  (∀ (c : Instr) (rest : List Instr) (s : State), s.pending = c :: rest → step s = exec c { s with pending := rest }) ∧
  (∀ s : State, s.pending = [] → ∃ t, step s = .next t ∧ t.clock = s.clock + 1 ∧ t.time = (if s.ctl.timeOn then s.time + 1 else s.time) ∧
    t.mem = s.mem ∧ MemFrame Nothing Nothing Nothing Nothing s { t with clock := s.clock, time := s.time } ∧ Calm s t)

/-- R11, R12: every command, in every state, is answered with a next state that leaves the queue's rest alone: no command stops the block. -/
def Obligations.EveryCommandAnswers : Prop :=
  ∀ (c : Instr) (s : State), ∃ t, exec c s = .next t ∧ t.pending = s.pending

/-- R86, R169, R170, R197, R198, R340, R397, R457, R461, R494, R543, R572, R603: what the registers read after reset, with no command waiting, no deal running and every
memory in canonical form. That memory which nothing has written reads 0 is the model's choice (assumption 2). -/
def Obligations.ResetLeavesTheModule : Prop :=
  let z := State.reset
  z.pending = [] ∧ Safe z ∧ (∀ e ∈ z.cores, VlFits e.2) ∧ z.job.run = false ∧ z.bell.cuts = [] ∧ z.net = [] ∧ (∀ a, Memory.byte z.mem a = 0) ∧
  z.reg Reg.cfgCtl = 0x000A0000 ∧ z.reg Reg.dealerCtl = 0x00320C80 ∧ z.reg Reg.bellCtl = 1 ∧ z.reg Reg.mgmtStat = 0x60000000 ∧
  z.reg Reg.bootStat = 0x10000000 ∧ z.reg Reg.pwrLimit = 0x04B002BC ∧
  (∀ i < 4, z.reg (Reg.granCtl i) = 0x00010101 ∧ z.reg (Reg.hbmCtl i) = 0x00080101 ∧ z.reg (Reg.reeveCtl i) = 0x0A004000 ∧
    z.reg (Reg.reeveStat i) = 0x0F000000 ∧ z.reg (Reg.bridgeEnd (2 * i)) = 0x01000000 ∧ z.reg (Reg.bridgeEnd (2 * i + 1)) = 0x01000000) ∧
  (∀ h < 640, z.reg (Reg.seqCtl h) = 0x00006401 ∧ z.reg (Reg.pivotCtl h) = 0x28 ∧ z.reg (Reg.handObsCtl h) = 0x040003FE ∧
    ∀ c < 64, z.evc h c = 0) ∧
  (∀ k < 10880, z.reg (Reg.cubeCtl k) = 0x40 ∧ z.reg (Reg.cubeStat k) = 0x00800000 ∧ z.reg (Reg.vectCtl k) = 0x8001 ∧
    z.reg (Reg.vectStat k) = 0x40000000)

/-- Every step, from any state, keeps HBM, DDR5, flash and the maps of written and of pending registers in canonical form, and VL of every core within its register
group (R174). -/
def Obligations.StepsKeepCanonicalForm : Prop :=
  ∀ (s t : State), Safe s → (∀ e ∈ s.cores, VlFits e.2) → step s = .next t → Safe t ∧ ∀ e ∈ t.cores, VlFits e.2

/-- R497, R505: no step, power losses and restarts included, lets a monotonic cell of the constable's store fall, ATT_NEXT alone excepted where
ATT_GEN rises: a critical command once accepted is never accepted again. -/
def Obligations.SecureCountersNeverFall : Prop :=
  ∀ (s t : State), step s = .next t →
    s.sec.lastCtr ≤ t.sec.lastCtr ∧ s.sec.pwrLoss ≤ t.sec.pwrLoss ∧ s.sec.alarms ≤ t.sec.alarms ∧ s.sec.minSeq ≤ t.sec.minSeq ∧
    s.sec.idNext ≤ t.sec.idNext ∧ s.sec.attGen ≤ t.sec.attGen ∧ (s.sec.attNext ≤ t.sec.attNext ∨ s.sec.attGen < t.sec.attGen) ∧
    (s.sec.erasePending = true → t.sec.erasePending = true)
end

