-- ==== Sys2Proof/Laws/Map.lean ====
section
/-! SUPPORT. What sparse maps, byte memories and bit fields read after an update, and that every memory operation keeps
the canonical form. -/

namespace Sys2Proof.Machine

set_option Elab.async false

/-! ## Sparse maps -/

/-- A map reads the value put at its key and every other key as before, whatever its form. -/
theorem PMap.get_put {α : Type} (d : α) (m : PMap α) (x y : Nat) (v : α) :
    PMap.get d (PMap.put m x v) y = if y = x then v else PMap.get d m y := by
  induction m with
  | nil => simp only [PMap.put, PMap.get]; split_ifs <;> first | rfl | omega
  | cons e m ih =>
    obtain ⟨k, w⟩ := e
    simp only [PMap.put]
    split_ifs <;> simp only [PMap.get, ih] <;> split_ifs <;> first | rfl | omega

@[simp] theorem PMap.get_put_same {α : Type} (d : α) (m : PMap α) (x : Nat) (v : α) :
    PMap.get d (PMap.put m x v) x = v := by simp [PMap.get_put]

theorem PMap.get_put_other {α : Type} (d : α) (m : PMap α) {x y : Nat} (v : α) (h : y ≠ x) :
    PMap.get d (PMap.put m x v) y = PMap.get d m y := by simp [PMap.get_put, h]

@[simp] theorem PMap.get_nil {α : Type} (d : α) (x : Nat) : PMap.get d ([] : PMap α) x = d := rfl

/-! ## The canonical form of a byte memory -/

theorem Memory.wfFrom_mono {m : Memory} {lo hi : Nat} (h : lo ≤ hi) (w : Memory.wfFrom m hi = true) :
    Memory.wfFrom m lo = true := by
  cases m with
  | nil => rfl
  | cons e m =>
    obtain ⟨k, v⟩ := e
    simp only [Memory.wfFrom, Bool.and_eq_true, decide_eq_true_eq] at w ⊢
    exact ⟨⟨le_trans h w.1.1, w.1.2⟩, w.2⟩

theorem Memory.wfFrom_clear (m : Memory) (lo x : Nat) (w : Memory.wfFrom m lo = true) :
    Memory.wfFrom (Memory.clear m x) lo = true := by
  induction m generalizing lo with
  | nil => rfl
  | cons e m ih =>
    obtain ⟨k, v⟩ := e
    have w' := w
    simp only [Memory.wfFrom, Bool.and_eq_true, decide_eq_true_eq] at w
    simp only [Memory.clear]
    split_ifs with h1 h2
    · exact Memory.wfFrom_mono (by omega) w.2
    · exact w'
    · simp only [Memory.wfFrom, Bool.and_eq_true, decide_eq_true_eq]
      exact ⟨w.1, ih _ w.2⟩

theorem Memory.wfFrom_insert (m : Memory) (lo x : Nat) (v : BitVec 8) (hv : ¬v = 0#8) (hx : lo ≤ x)
    (w : Memory.wfFrom m lo = true) : Memory.wfFrom (Memory.insert m x v) lo = true := by
  induction m generalizing lo with
  | nil => simp [Memory.insert, Memory.wfFrom, hv, hx]
  | cons e m ih =>
    obtain ⟨k, u⟩ := e
    simp only [Memory.wfFrom, Bool.and_eq_true, decide_eq_true_eq, Bool.not_eq_true', beq_eq_false_iff_ne] at w
    simp only [Memory.insert]
    split_ifs with h1 h2
    · subst h1; simp [Memory.wfFrom, hv, hx, w.2]
    · simp only [Memory.wfFrom, Bool.and_eq_true, decide_eq_true_eq, Bool.not_eq_true', beq_eq_false_iff_ne]
      exact ⟨⟨hx, hv⟩, ⟨by omega, w.1.2⟩, w.2⟩
    · simp only [Memory.wfFrom, Bool.and_eq_true, decide_eq_true_eq, Bool.not_eq_true', beq_eq_false_iff_ne]
      exact ⟨w.1, ih _ (by omega) w.2⟩

theorem Memory.wf_nil : Memory.wf [] = true := rfl

/-- A byte written keeps the canonical form. -/
theorem Memory.wf_set {m : Memory} (x : Nat) (v : BitVec 8) (w : Memory.wf m = true) :
    Memory.wf (Memory.set m x v) = true := by
  unfold Memory.set
  split_ifs with h
  · exact Memory.wfFrom_clear m 0 x w
  · exact Memory.wfFrom_insert m 0 x v h (Nat.zero_le x) w

/-- A number written keeps the canonical form. -/
theorem Memory.wf_write {m : Memory} (a n v : Nat) (w : Memory.wf m = true) : Memory.wf (Memory.write m a n v) = true := by
  induction n generalizing m a v with
  | zero => exact w
  | succ n ih => exact ih _ _ (Memory.wf_set _ _ w)

/-- Bytes written keep the canonical form. -/
theorem Memory.wf_writeBytes {m : Memory} (a : Nat) (bs : List (BitVec 8)) (w : Memory.wf m = true) :
    Memory.wf (Memory.writeBytes m a bs) = true := by
  induction bs generalizing m a with
  | nil => exact w
  | cons b bs ih => exact ih _ (Memory.wf_set _ _ w)

theorem Memory.wfFrom_filter (m : Memory) (lo : Nat) (p : Nat × BitVec 8 → Bool) (w : Memory.wfFrom m lo = true) :
    Memory.wfFrom (m.filter p) lo = true := by
  induction m generalizing lo with
  | nil => rfl
  | cons e m ih =>
    obtain ⟨k, v⟩ := e
    simp only [Memory.wfFrom, Bool.and_eq_true, decide_eq_true_eq] at w
    rw [List.filter_cons]
    split_ifs
    · simp only [Memory.wfFrom, Bool.and_eq_true, decide_eq_true_eq]
      exact ⟨w.1, ih _ w.2⟩
    · exact Memory.wfFrom_mono (by omega) (ih _ w.2)

/-- Dropping entries keeps the canonical form. -/
theorem Memory.wf_filter {m : Memory} (p : Nat × BitVec 8 → Bool) (w : Memory.wf m = true) :
    Memory.wf (m.filter p) = true := Memory.wfFrom_filter m 0 p w

/-- A cleared range keeps the canonical form. -/
theorem Memory.wf_clearRange {m : Memory} (lo hi : Nat) (w : Memory.wf m = true) :
    Memory.wf (Memory.clearRange m lo hi) = true := Memory.wf_filter _ w

/-! ## What a byte memory reads -/

theorem Memory.byte_of_lt (m : Memory) (lo x : Nat) (h : x < lo) (w : Memory.wfFrom m lo = true) : Memory.byte m x = 0 := by
  cases m with
  | nil => rfl
  | cons e m =>
    obtain ⟨k, v⟩ := e
    simp only [Memory.wfFrom, Bool.and_eq_true, decide_eq_true_eq] at w
    simp only [Memory.byte]
    rw [if_neg (by omega), if_pos (by omega)]

theorem Memory.byte_insert (m : Memory) (x y : Nat) (v : BitVec 8) :
    Memory.byte (Memory.insert m x v) y = if y = x then v else Memory.byte m y := by
  induction m with
  | nil => simp only [Memory.insert, Memory.byte]; split_ifs <;> first | rfl | omega
  | cons e m ih =>
    obtain ⟨k, w⟩ := e
    simp only [Memory.insert]
    split_ifs <;> simp only [Memory.byte, ih] <;> split_ifs <;> first | rfl | omega

theorem Memory.byte_clear (m : Memory) (lo x y : Nat) (w : Memory.wfFrom m lo = true) :
    Memory.byte (Memory.clear m x) y = if y = x then 0 else Memory.byte m y := by
  induction m generalizing lo with
  | nil => simp [Memory.clear, Memory.byte]
  | cons e m ih =>
    obtain ⟨k, v⟩ := e
    simp only [Memory.wfFrom, Bool.and_eq_true, decide_eq_true_eq] at w
    simp only [Memory.clear]
    split_ifs with h1 h2 h3 h3 h3
    · exact Memory.byte_of_lt m (k + 1) y (by omega) w.2
    · simp only [Memory.byte]
      split_ifs with h4 h5
      · omega
      · exact Memory.byte_of_lt m (k + 1) y (by omega) w.2
      · rfl
    · simp only [Memory.byte]; rw [if_neg (by omega), if_pos (by omega)]
    · rfl
    · simp only [Memory.byte]; rw [if_neg (by omega), if_neg (by omega), ih _ w.2, if_pos h3]
    · simp only [Memory.byte, ih _ w.2, if_neg h3]

/-- A canonical memory reads the byte written, and every other byte as before. -/
theorem Memory.byte_set {m : Memory} (x y : Nat) (v : BitVec 8) (w : Memory.wf m = true) :
    Memory.byte (Memory.set m x v) y = if y = x then v else Memory.byte m y := by
  unfold Memory.set
  split_ifs with h h1 h1
  · rw [Memory.byte_clear m 0 x y w, if_pos h1, h]
  · rw [Memory.byte_clear m 0 x y w, if_neg h1]
  · rw [Memory.byte_insert, if_pos h1]
  · rw [Memory.byte_insert, if_neg h1]

/-- Outside its n bytes a write leaves every byte as it was. -/
theorem Memory.byte_write_other {m : Memory} (a n v y : Nat) (w : Memory.wf m = true) (h : y < a ∨ a + n ≤ y) :
    Memory.byte (Memory.write m a n v) y = Memory.byte m y := by
  induction n generalizing m a v with
  | zero => rfl
  | succ n ih =>
    simp only [Memory.write]
    rw [ih _ _ (Memory.wf_set _ _ w) (by omega), Memory.byte_set _ _ _ w, if_neg (by omega)]

/-- Outside its bytes a list of bytes written leaves every byte as it was. -/
theorem Memory.byte_writeBytes_other {m : Memory} (a : Nat) (bs : List (BitVec 8)) (y : Nat) (w : Memory.wf m = true)
    (h : y < a ∨ a + bs.length ≤ y) : Memory.byte (Memory.writeBytes m a bs) y = Memory.byte m y := by
  induction bs generalizing m a with
  | nil => rfl
  | cons b bs ih =>
    simp only [List.length_cons] at h
    simp only [Memory.writeBytes]
    rw [ih _ (Memory.wf_set _ _ w) (by omega), Memory.byte_set _ _ _ w, if_neg (by omega)]

/-- A number read where it was written is the number, modulo its bytes. -/
theorem Memory.read_write {m : Memory} (a n v : Nat) (w : Memory.wf m = true) :
    Memory.read (Memory.write m a n v) a n = v % 256 ^ n := by
  induction n generalizing m a v with
  | zero => simp [Memory.read, Nat.mod_one]
  | succ n ih =>
    simp only [Memory.read, Memory.write]
    rw [Memory.byte_write_other _ _ _ _ (Memory.wf_set _ _ w) (by omega), Memory.byte_set _ _ _ w, if_pos rfl,
      ih _ _ (Memory.wf_set _ _ w)]
    rw [BitVec.toNat_ofNat, Nat.mod_mod, pow_succ, Nat.mul_comm (256 ^ n) 256, Nat.mod_mul]

/-- A number read from bytes that did not change is unchanged. -/
theorem Memory.read_congr {m m' : Memory} (a n : Nat) (h : ∀ y, a ≤ y → y < a + n → Memory.byte m' y = Memory.byte m y) :
    Memory.read m' a n = Memory.read m a n := by
  induction n generalizing a with
  | zero => rfl
  | succ n ih =>
    simp only [Memory.read]
    rw [h a (by omega) (by omega), ih (a + 1) fun y h1 h2 => h y (by omega) (by omega)]

/-! ## Bit fields -/

theorem bits_lt (x lo w : Nat) : bits x lo w < 2 ^ w := Nat.mod_lt _ (by positivity)

theorem setBits_parts (x lo w v : Nat) : setBits x lo w v = (x / 2 ^ (lo + w) * 2 ^ w + v % 2 ^ w) * 2 ^ lo + x % 2 ^ lo := by
  unfold setBits bits
  rw [Nat.shiftLeft_eq, Nat.shiftLeft_eq, Nat.shiftRight_eq_div_pow]
  have h1 := Nat.div_add_mod x (2 ^ lo)
  have h2 := Nat.div_add_mod (x / 2 ^ lo) (2 ^ w)
  rw [Nat.div_div_eq_div_mul, ← pow_add] at h2
  have h3 : x = (x / 2 ^ (lo + w) * 2 ^ w) * 2 ^ lo + (x / 2 ^ lo % 2 ^ w) * 2 ^ lo + x % 2 ^ lo := by
    calc x = 2 ^ lo * (x / 2 ^ lo) + x % 2 ^ lo := h1.symm
      _ = 2 ^ lo * (2 ^ w * (x / 2 ^ (lo + w)) + x / 2 ^ lo % 2 ^ w) + x % 2 ^ lo := by rw [h2]
      _ = _ := by ring
  have h4 : x - x / 2 ^ lo % 2 ^ w * 2 ^ lo = x / 2 ^ (lo + w) * 2 ^ w * 2 ^ lo + x % 2 ^ lo := by omega
  rw [h4]; ring

/-- A field written reads back, cut to its width. -/
theorem bits_setBits (x lo w v : Nat) : bits (setBits x lo w v) lo w = v % 2 ^ w := by
  rw [setBits_parts]
  unfold bits
  rw [Nat.shiftRight_eq_div_pow, Nat.add_comm, Nat.add_mul_div_right _ _ (by positivity),
    Nat.div_eq_of_lt (Nat.mod_lt _ (by positivity)), Nat.zero_add, Nat.mul_add_mod', Nat.mod_mod]

theorem bits_low (x lo w n : Nat) (h : lo + w ≤ n) : bits (x % 2 ^ n) lo w = bits x lo w := by
  obtain ⟨d, rfl⟩ := Nat.exists_eq_add_of_le h
  unfold bits
  rw [Nat.shiftRight_eq_div_pow, Nat.shiftRight_eq_div_pow, Nat.add_assoc, pow_add, Nat.mod_mul_right_div_self,
    Nat.pow_add, Nat.mod_mul_right_mod]

theorem setBits_low (x lo w v : Nat) : setBits x lo w v % 2 ^ lo = x % 2 ^ lo := by
  rw [setBits_parts, Nat.mul_add_mod', Nat.mod_mod]

theorem setBits_high (x lo w v : Nat) : setBits x lo w v / 2 ^ (lo + w) = x / 2 ^ (lo + w) := by
  rw [setBits_parts, pow_add, ← Nat.div_div_eq_div_mul, Nat.add_comm, Nat.add_mul_div_right _ _ (by positivity),
    Nat.div_eq_of_lt (Nat.mod_lt _ (by positivity)), Nat.zero_add, Nat.add_comm, Nat.add_mul_div_right _ _ (by positivity),
    Nat.div_eq_of_lt (Nat.mod_lt _ (by positivity)), Nat.zero_add]

theorem bits_high (x lo w n : Nat) (h : n ≤ lo) : bits x lo w = bits (x / 2 ^ n) (lo - n) w := by
  obtain ⟨d, rfl⟩ := Nat.exists_eq_add_of_le h
  unfold bits
  rw [Nat.shiftRight_eq_div_pow, Nat.shiftRight_eq_div_pow, Nat.add_sub_cancel_left, pow_add, Nat.div_div_eq_div_mul]

/-- A field that does not meet the one written keeps its value. -/
theorem bits_setBits_other (x lo w v lo' w' : Nat) (h : lo' + w' ≤ lo ∨ lo + w ≤ lo') :
    bits (setBits x lo w v) lo' w' = bits x lo' w' := by
  rcases h with h | h
  · rw [← bits_low _ lo' w' lo h, setBits_low, bits_low _ _ _ _ h]
  · rw [bits_high _ _ _ _ h, setBits_high, ← bits_high _ _ _ _ h]

/-- A field written into a word that fits n bits fits n bits. -/
theorem setBits_lt (x lo w v n : Nat) (hx : x < 2 ^ n) (h : lo + w ≤ n) : setBits x lo w v < 2 ^ n := by
  obtain ⟨d, rfl⟩ := Nat.exists_eq_add_of_le h
  have h1 : setBits x lo w v / 2 ^ (lo + w) < 2 ^ d := by
    rw [setBits_high]; exact Nat.div_lt_of_lt_mul (by rwa [← pow_add])
  have h2 := Nat.lt_mul_of_div_lt h1 (by positivity)
  rwa [Nat.mul_comm, ← pow_add] at h2

end Sys2Proof.Machine
end

