-- ==== Sys2Proof/Laws/State.lean ====
section
/-! SUPPORT. The state's updates: one lemma per field and update, and what registers and units read after an update. -/

namespace Sys2Proof.Machine

set_option Elab.async false

variable (s : State)

/-! ## State.setReg -/

@[simp] theorem State.setReg_pending (a : Nat) (v : W32) : (s.setReg a v).pending = s.pending := rfl
@[simp] theorem State.setReg_part (a : Nat) (v : W32) : (s.setReg a v).part = s.part := rfl
@[simp] theorem State.setReg_time (a : Nat) (v : W32) : (s.setReg a v).time = s.time := rfl
@[simp] theorem State.setReg_clock (a : Nat) (v : W32) : (s.setReg a v).clock = s.clock := rfl
@[simp] theorem State.setReg_extRef (a : Nat) (v : W32) : (s.setReg a v).extRef = s.extRef := rfl
@[simp] theorem State.setReg_staged (a : Nat) (v : W32) : (s.setReg a v).staged = s.staged := rfl
@[simp] theorem State.setReg_heldLow (a : Nat) (v : W32) : (s.setReg a v).heldLow = s.heldLow := rfl
@[simp] theorem State.setReg_rs (a : Nat) (v : W32) : (s.setReg a v).rs = s.rs := rfl
@[simp] theorem State.setReg_rsp (a : Nat) (v : W32) : (s.setReg a v).rsp = s.rsp := rfl
@[simp] theorem State.setReg_free (a : Nat) (v : W32) : (s.setReg a v).free = s.free := rfl
@[simp] theorem State.setReg_hands (a : Nat) (v : W32) : (s.setReg a v).hands = s.hands := rfl
@[simp] theorem State.setReg_cores (a : Nat) (v : W32) : (s.setReg a v).cores = s.cores := rfl
@[simp] theorem State.setReg_mills (a : Nat) (v : W32) : (s.setReg a v).mills = s.mills := rfl
@[simp] theorem State.setReg_suits (a : Nat) (v : W32) : (s.setReg a v).suits = s.suits := rfl
@[simp] theorem State.setReg_links (a : Nat) (v : W32) : (s.setReg a v).links = s.links := rfl
@[simp] theorem State.setReg_mem (a : Nat) (v : W32) : (s.setReg a v).mem = s.mem := rfl
@[simp] theorem State.setReg_poisoned (a : Nat) (v : W32) : (s.setReg a v).poisoned = s.poisoned := rfl
@[simp] theorem State.setReg_hardSectors (a : Nat) (v : W32) : (s.setReg a v).hardSectors = s.hardSectors := rfl
@[simp] theorem State.setReg_latent (a : Nat) (v : W32) : (s.setReg a v).latent = s.latent := rfl
@[simp] theorem State.setReg_tlb (a : Nat) (v : W32) : (s.setReg a v).tlb = s.tlb := rfl
@[simp] theorem State.setReg_lostPc (a : Nat) (v : W32) : (s.setReg a v).lostPc = s.lostPc := rfl
@[simp] theorem State.setReg_healed (a : Nat) (v : W32) : (s.setReg a v).healed = s.healed := rfl
@[simp] theorem State.setReg_pvSlots (a : Nat) (v : W32) : (s.setReg a v).pvSlots = s.pvSlots := rfl
@[simp] theorem State.setReg_ddr (a : Nat) (v : W32) : (s.setReg a v).ddr = s.ddr := rfl
@[simp] theorem State.setReg_ddrPoisoned (a : Nat) (v : W32) : (s.setReg a v).ddrPoisoned = s.ddrPoisoned := rfl
@[simp] theorem State.setReg_reserved (a : Nat) (v : W32) : (s.setReg a v).reserved = s.reserved := rfl
@[simp] theorem State.setReg_aia (a : Nat) (v : W32) : (s.setReg a v).aia = s.aia := rfl
@[simp] theorem State.setReg_flash (a : Nat) (v : W32) : (s.setReg a v).flash = s.flash := rfl
@[simp] theorem State.setReg_job (a : Nat) (v : W32) : (s.setReg a v).job = s.job := rfl
@[simp] theorem State.setReg_colls (a : Nat) (v : W32) : (s.setReg a v).colls = s.colls := rfl
@[simp] theorem State.setReg_redMem (a : Nat) (v : W32) : (s.setReg a v).redMem = s.redMem := rfl
@[simp] theorem State.setReg_net (a : Nat) (v : W32) : (s.setReg a v).net = s.net := rfl
@[simp] theorem State.setReg_served (a : Nat) (v : W32) : (s.setReg a v).served = s.served := rfl
@[simp] theorem State.setReg_inbox (a : Nat) (v : W32) : (s.setReg a v).inbox = s.inbox := rfl
@[simp] theorem State.setReg_bell (a : Nat) (v : W32) : (s.setReg a v).bell = s.bell := rfl
@[simp] theorem State.setReg_sec (a : Nat) (v : W32) : (s.setReg a v).sec = s.sec := rfl
@[simp] theorem State.setReg_ctl (a : Nat) (v : W32) : (s.setReg a v).ctl = s.ctl := rfl
@[simp] theorem State.setReg_gov (a : Nat) (v : W32) : (s.setReg a v).gov = s.gov := rfl
@[simp] theorem State.setReg_recov (a : Nat) (v : W32) : (s.setReg a v).recov = s.recov := rfl
@[simp] theorem State.setReg_cfg (a : Nat) (v : W32) : (s.setReg a v).cfg = s.cfg := rfl
@[simp] theorem State.setReg_scanNo (a : Nat) (v : W32) : (s.setReg a v).scanNo = s.scanNo := rfl

/-! ## State.setHand -/

@[simp] theorem State.setHand_pending (h : Nat) (v : Hand) : (s.setHand h v).pending = s.pending := rfl
@[simp] theorem State.setHand_part (h : Nat) (v : Hand) : (s.setHand h v).part = s.part := rfl
@[simp] theorem State.setHand_time (h : Nat) (v : Hand) : (s.setHand h v).time = s.time := rfl
@[simp] theorem State.setHand_clock (h : Nat) (v : Hand) : (s.setHand h v).clock = s.clock := rfl
@[simp] theorem State.setHand_extRef (h : Nat) (v : Hand) : (s.setHand h v).extRef = s.extRef := rfl
@[simp] theorem State.setHand_regs (h : Nat) (v : Hand) : (s.setHand h v).regs = s.regs := rfl
@[simp] theorem State.setHand_staged (h : Nat) (v : Hand) : (s.setHand h v).staged = s.staged := rfl
@[simp] theorem State.setHand_heldLow (h : Nat) (v : Hand) : (s.setHand h v).heldLow = s.heldLow := rfl
@[simp] theorem State.setHand_rs (h : Nat) (v : Hand) : (s.setHand h v).rs = s.rs := rfl
@[simp] theorem State.setHand_rsp (h : Nat) (v : Hand) : (s.setHand h v).rsp = s.rsp := rfl
@[simp] theorem State.setHand_free (h : Nat) (v : Hand) : (s.setHand h v).free = s.free := rfl
@[simp] theorem State.setHand_cores (h : Nat) (v : Hand) : (s.setHand h v).cores = s.cores := rfl
@[simp] theorem State.setHand_mills (h : Nat) (v : Hand) : (s.setHand h v).mills = s.mills := rfl
@[simp] theorem State.setHand_suits (h : Nat) (v : Hand) : (s.setHand h v).suits = s.suits := rfl
@[simp] theorem State.setHand_links (h : Nat) (v : Hand) : (s.setHand h v).links = s.links := rfl
@[simp] theorem State.setHand_mem (h : Nat) (v : Hand) : (s.setHand h v).mem = s.mem := rfl
@[simp] theorem State.setHand_poisoned (h : Nat) (v : Hand) : (s.setHand h v).poisoned = s.poisoned := rfl
@[simp] theorem State.setHand_hardSectors (h : Nat) (v : Hand) : (s.setHand h v).hardSectors = s.hardSectors := rfl
@[simp] theorem State.setHand_latent (h : Nat) (v : Hand) : (s.setHand h v).latent = s.latent := rfl
@[simp] theorem State.setHand_tlb (h : Nat) (v : Hand) : (s.setHand h v).tlb = s.tlb := rfl
@[simp] theorem State.setHand_lostPc (h : Nat) (v : Hand) : (s.setHand h v).lostPc = s.lostPc := rfl
@[simp] theorem State.setHand_healed (h : Nat) (v : Hand) : (s.setHand h v).healed = s.healed := rfl
@[simp] theorem State.setHand_pvSlots (h : Nat) (v : Hand) : (s.setHand h v).pvSlots = s.pvSlots := rfl
@[simp] theorem State.setHand_ddr (h : Nat) (v : Hand) : (s.setHand h v).ddr = s.ddr := rfl
@[simp] theorem State.setHand_ddrPoisoned (h : Nat) (v : Hand) : (s.setHand h v).ddrPoisoned = s.ddrPoisoned := rfl
@[simp] theorem State.setHand_reserved (h : Nat) (v : Hand) : (s.setHand h v).reserved = s.reserved := rfl
@[simp] theorem State.setHand_aia (h : Nat) (v : Hand) : (s.setHand h v).aia = s.aia := rfl
@[simp] theorem State.setHand_flash (h : Nat) (v : Hand) : (s.setHand h v).flash = s.flash := rfl
@[simp] theorem State.setHand_job (h : Nat) (v : Hand) : (s.setHand h v).job = s.job := rfl
@[simp] theorem State.setHand_colls (h : Nat) (v : Hand) : (s.setHand h v).colls = s.colls := rfl
@[simp] theorem State.setHand_redMem (h : Nat) (v : Hand) : (s.setHand h v).redMem = s.redMem := rfl
@[simp] theorem State.setHand_net (h : Nat) (v : Hand) : (s.setHand h v).net = s.net := rfl
@[simp] theorem State.setHand_served (h : Nat) (v : Hand) : (s.setHand h v).served = s.served := rfl
@[simp] theorem State.setHand_inbox (h : Nat) (v : Hand) : (s.setHand h v).inbox = s.inbox := rfl
@[simp] theorem State.setHand_bell (h : Nat) (v : Hand) : (s.setHand h v).bell = s.bell := rfl
@[simp] theorem State.setHand_sec (h : Nat) (v : Hand) : (s.setHand h v).sec = s.sec := rfl
@[simp] theorem State.setHand_ctl (h : Nat) (v : Hand) : (s.setHand h v).ctl = s.ctl := rfl
@[simp] theorem State.setHand_gov (h : Nat) (v : Hand) : (s.setHand h v).gov = s.gov := rfl
@[simp] theorem State.setHand_recov (h : Nat) (v : Hand) : (s.setHand h v).recov = s.recov := rfl
@[simp] theorem State.setHand_cfg (h : Nat) (v : Hand) : (s.setHand h v).cfg = s.cfg := rfl
@[simp] theorem State.setHand_scanNo (h : Nat) (v : Hand) : (s.setHand h v).scanNo = s.scanNo := rfl

/-! ## State.setCore -/

@[simp] theorem State.setCore_pending (k : Nat) (v : Core) : (s.setCore k v).pending = s.pending := rfl
@[simp] theorem State.setCore_part (k : Nat) (v : Core) : (s.setCore k v).part = s.part := rfl
@[simp] theorem State.setCore_time (k : Nat) (v : Core) : (s.setCore k v).time = s.time := rfl
@[simp] theorem State.setCore_clock (k : Nat) (v : Core) : (s.setCore k v).clock = s.clock := rfl
@[simp] theorem State.setCore_extRef (k : Nat) (v : Core) : (s.setCore k v).extRef = s.extRef := rfl
@[simp] theorem State.setCore_regs (k : Nat) (v : Core) : (s.setCore k v).regs = s.regs := rfl
@[simp] theorem State.setCore_staged (k : Nat) (v : Core) : (s.setCore k v).staged = s.staged := rfl
@[simp] theorem State.setCore_heldLow (k : Nat) (v : Core) : (s.setCore k v).heldLow = s.heldLow := rfl
@[simp] theorem State.setCore_rs (k : Nat) (v : Core) : (s.setCore k v).rs = s.rs := rfl
@[simp] theorem State.setCore_rsp (k : Nat) (v : Core) : (s.setCore k v).rsp = s.rsp := rfl
@[simp] theorem State.setCore_free (k : Nat) (v : Core) : (s.setCore k v).free = s.free := rfl
@[simp] theorem State.setCore_hands (k : Nat) (v : Core) : (s.setCore k v).hands = s.hands := rfl
@[simp] theorem State.setCore_mills (k : Nat) (v : Core) : (s.setCore k v).mills = s.mills := rfl
@[simp] theorem State.setCore_suits (k : Nat) (v : Core) : (s.setCore k v).suits = s.suits := rfl
@[simp] theorem State.setCore_links (k : Nat) (v : Core) : (s.setCore k v).links = s.links := rfl
@[simp] theorem State.setCore_mem (k : Nat) (v : Core) : (s.setCore k v).mem = s.mem := rfl
@[simp] theorem State.setCore_poisoned (k : Nat) (v : Core) : (s.setCore k v).poisoned = s.poisoned := rfl
@[simp] theorem State.setCore_hardSectors (k : Nat) (v : Core) : (s.setCore k v).hardSectors = s.hardSectors := rfl
@[simp] theorem State.setCore_latent (k : Nat) (v : Core) : (s.setCore k v).latent = s.latent := rfl
@[simp] theorem State.setCore_tlb (k : Nat) (v : Core) : (s.setCore k v).tlb = s.tlb := rfl
@[simp] theorem State.setCore_lostPc (k : Nat) (v : Core) : (s.setCore k v).lostPc = s.lostPc := rfl
@[simp] theorem State.setCore_healed (k : Nat) (v : Core) : (s.setCore k v).healed = s.healed := rfl
@[simp] theorem State.setCore_pvSlots (k : Nat) (v : Core) : (s.setCore k v).pvSlots = s.pvSlots := rfl
@[simp] theorem State.setCore_ddr (k : Nat) (v : Core) : (s.setCore k v).ddr = s.ddr := rfl
@[simp] theorem State.setCore_ddrPoisoned (k : Nat) (v : Core) : (s.setCore k v).ddrPoisoned = s.ddrPoisoned := rfl
@[simp] theorem State.setCore_reserved (k : Nat) (v : Core) : (s.setCore k v).reserved = s.reserved := rfl
@[simp] theorem State.setCore_aia (k : Nat) (v : Core) : (s.setCore k v).aia = s.aia := rfl
@[simp] theorem State.setCore_flash (k : Nat) (v : Core) : (s.setCore k v).flash = s.flash := rfl
@[simp] theorem State.setCore_job (k : Nat) (v : Core) : (s.setCore k v).job = s.job := rfl
@[simp] theorem State.setCore_colls (k : Nat) (v : Core) : (s.setCore k v).colls = s.colls := rfl
@[simp] theorem State.setCore_redMem (k : Nat) (v : Core) : (s.setCore k v).redMem = s.redMem := rfl
@[simp] theorem State.setCore_net (k : Nat) (v : Core) : (s.setCore k v).net = s.net := rfl
@[simp] theorem State.setCore_served (k : Nat) (v : Core) : (s.setCore k v).served = s.served := rfl
@[simp] theorem State.setCore_inbox (k : Nat) (v : Core) : (s.setCore k v).inbox = s.inbox := rfl
@[simp] theorem State.setCore_bell (k : Nat) (v : Core) : (s.setCore k v).bell = s.bell := rfl
@[simp] theorem State.setCore_sec (k : Nat) (v : Core) : (s.setCore k v).sec = s.sec := rfl
@[simp] theorem State.setCore_ctl (k : Nat) (v : Core) : (s.setCore k v).ctl = s.ctl := rfl
@[simp] theorem State.setCore_gov (k : Nat) (v : Core) : (s.setCore k v).gov = s.gov := rfl
@[simp] theorem State.setCore_recov (k : Nat) (v : Core) : (s.setCore k v).recov = s.recov := rfl
@[simp] theorem State.setCore_cfg (k : Nat) (v : Core) : (s.setCore k v).cfg = s.cfg := rfl
@[simp] theorem State.setCore_scanNo (k : Nat) (v : Core) : (s.setCore k v).scanNo = s.scanNo := rfl

/-! ## State.setMill -/

@[simp] theorem State.setMill_pending (m : Nat) (v : Mill) : (s.setMill m v).pending = s.pending := rfl
@[simp] theorem State.setMill_part (m : Nat) (v : Mill) : (s.setMill m v).part = s.part := rfl
@[simp] theorem State.setMill_time (m : Nat) (v : Mill) : (s.setMill m v).time = s.time := rfl
@[simp] theorem State.setMill_clock (m : Nat) (v : Mill) : (s.setMill m v).clock = s.clock := rfl
@[simp] theorem State.setMill_extRef (m : Nat) (v : Mill) : (s.setMill m v).extRef = s.extRef := rfl
@[simp] theorem State.setMill_regs (m : Nat) (v : Mill) : (s.setMill m v).regs = s.regs := rfl
@[simp] theorem State.setMill_staged (m : Nat) (v : Mill) : (s.setMill m v).staged = s.staged := rfl
@[simp] theorem State.setMill_heldLow (m : Nat) (v : Mill) : (s.setMill m v).heldLow = s.heldLow := rfl
@[simp] theorem State.setMill_rs (m : Nat) (v : Mill) : (s.setMill m v).rs = s.rs := rfl
@[simp] theorem State.setMill_rsp (m : Nat) (v : Mill) : (s.setMill m v).rsp = s.rsp := rfl
@[simp] theorem State.setMill_free (m : Nat) (v : Mill) : (s.setMill m v).free = s.free := rfl
@[simp] theorem State.setMill_hands (m : Nat) (v : Mill) : (s.setMill m v).hands = s.hands := rfl
@[simp] theorem State.setMill_cores (m : Nat) (v : Mill) : (s.setMill m v).cores = s.cores := rfl
@[simp] theorem State.setMill_suits (m : Nat) (v : Mill) : (s.setMill m v).suits = s.suits := rfl
@[simp] theorem State.setMill_links (m : Nat) (v : Mill) : (s.setMill m v).links = s.links := rfl
@[simp] theorem State.setMill_mem (m : Nat) (v : Mill) : (s.setMill m v).mem = s.mem := rfl
@[simp] theorem State.setMill_poisoned (m : Nat) (v : Mill) : (s.setMill m v).poisoned = s.poisoned := rfl
@[simp] theorem State.setMill_hardSectors (m : Nat) (v : Mill) : (s.setMill m v).hardSectors = s.hardSectors := rfl
@[simp] theorem State.setMill_latent (m : Nat) (v : Mill) : (s.setMill m v).latent = s.latent := rfl
@[simp] theorem State.setMill_tlb (m : Nat) (v : Mill) : (s.setMill m v).tlb = s.tlb := rfl
@[simp] theorem State.setMill_lostPc (m : Nat) (v : Mill) : (s.setMill m v).lostPc = s.lostPc := rfl
@[simp] theorem State.setMill_healed (m : Nat) (v : Mill) : (s.setMill m v).healed = s.healed := rfl
@[simp] theorem State.setMill_pvSlots (m : Nat) (v : Mill) : (s.setMill m v).pvSlots = s.pvSlots := rfl
@[simp] theorem State.setMill_ddr (m : Nat) (v : Mill) : (s.setMill m v).ddr = s.ddr := rfl
@[simp] theorem State.setMill_ddrPoisoned (m : Nat) (v : Mill) : (s.setMill m v).ddrPoisoned = s.ddrPoisoned := rfl
@[simp] theorem State.setMill_reserved (m : Nat) (v : Mill) : (s.setMill m v).reserved = s.reserved := rfl
@[simp] theorem State.setMill_aia (m : Nat) (v : Mill) : (s.setMill m v).aia = s.aia := rfl
@[simp] theorem State.setMill_flash (m : Nat) (v : Mill) : (s.setMill m v).flash = s.flash := rfl
@[simp] theorem State.setMill_job (m : Nat) (v : Mill) : (s.setMill m v).job = s.job := rfl
@[simp] theorem State.setMill_colls (m : Nat) (v : Mill) : (s.setMill m v).colls = s.colls := rfl
@[simp] theorem State.setMill_redMem (m : Nat) (v : Mill) : (s.setMill m v).redMem = s.redMem := rfl
@[simp] theorem State.setMill_net (m : Nat) (v : Mill) : (s.setMill m v).net = s.net := rfl
@[simp] theorem State.setMill_served (m : Nat) (v : Mill) : (s.setMill m v).served = s.served := rfl
@[simp] theorem State.setMill_inbox (m : Nat) (v : Mill) : (s.setMill m v).inbox = s.inbox := rfl
@[simp] theorem State.setMill_bell (m : Nat) (v : Mill) : (s.setMill m v).bell = s.bell := rfl
@[simp] theorem State.setMill_sec (m : Nat) (v : Mill) : (s.setMill m v).sec = s.sec := rfl
@[simp] theorem State.setMill_ctl (m : Nat) (v : Mill) : (s.setMill m v).ctl = s.ctl := rfl
@[simp] theorem State.setMill_gov (m : Nat) (v : Mill) : (s.setMill m v).gov = s.gov := rfl
@[simp] theorem State.setMill_recov (m : Nat) (v : Mill) : (s.setMill m v).recov = s.recov := rfl
@[simp] theorem State.setMill_cfg (m : Nat) (v : Mill) : (s.setMill m v).cfg = s.cfg := rfl
@[simp] theorem State.setMill_scanNo (m : Nat) (v : Mill) : (s.setMill m v).scanNo = s.scanNo := rfl

/-! ## State.setSuit -/

@[simp] theorem State.setSuit_pending (i : Nat) (v : Suit) : (s.setSuit i v).pending = s.pending := rfl
@[simp] theorem State.setSuit_part (i : Nat) (v : Suit) : (s.setSuit i v).part = s.part := rfl
@[simp] theorem State.setSuit_time (i : Nat) (v : Suit) : (s.setSuit i v).time = s.time := rfl
@[simp] theorem State.setSuit_clock (i : Nat) (v : Suit) : (s.setSuit i v).clock = s.clock := rfl
@[simp] theorem State.setSuit_extRef (i : Nat) (v : Suit) : (s.setSuit i v).extRef = s.extRef := rfl
@[simp] theorem State.setSuit_regs (i : Nat) (v : Suit) : (s.setSuit i v).regs = s.regs := rfl
@[simp] theorem State.setSuit_staged (i : Nat) (v : Suit) : (s.setSuit i v).staged = s.staged := rfl
@[simp] theorem State.setSuit_heldLow (i : Nat) (v : Suit) : (s.setSuit i v).heldLow = s.heldLow := rfl
@[simp] theorem State.setSuit_rs (i : Nat) (v : Suit) : (s.setSuit i v).rs = s.rs := rfl
@[simp] theorem State.setSuit_rsp (i : Nat) (v : Suit) : (s.setSuit i v).rsp = s.rsp := rfl
@[simp] theorem State.setSuit_free (i : Nat) (v : Suit) : (s.setSuit i v).free = s.free := rfl
@[simp] theorem State.setSuit_hands (i : Nat) (v : Suit) : (s.setSuit i v).hands = s.hands := rfl
@[simp] theorem State.setSuit_cores (i : Nat) (v : Suit) : (s.setSuit i v).cores = s.cores := rfl
@[simp] theorem State.setSuit_mills (i : Nat) (v : Suit) : (s.setSuit i v).mills = s.mills := rfl
@[simp] theorem State.setSuit_links (i : Nat) (v : Suit) : (s.setSuit i v).links = s.links := rfl
@[simp] theorem State.setSuit_mem (i : Nat) (v : Suit) : (s.setSuit i v).mem = s.mem := rfl
@[simp] theorem State.setSuit_poisoned (i : Nat) (v : Suit) : (s.setSuit i v).poisoned = s.poisoned := rfl
@[simp] theorem State.setSuit_hardSectors (i : Nat) (v : Suit) : (s.setSuit i v).hardSectors = s.hardSectors := rfl
@[simp] theorem State.setSuit_latent (i : Nat) (v : Suit) : (s.setSuit i v).latent = s.latent := rfl
@[simp] theorem State.setSuit_tlb (i : Nat) (v : Suit) : (s.setSuit i v).tlb = s.tlb := rfl
@[simp] theorem State.setSuit_lostPc (i : Nat) (v : Suit) : (s.setSuit i v).lostPc = s.lostPc := rfl
@[simp] theorem State.setSuit_healed (i : Nat) (v : Suit) : (s.setSuit i v).healed = s.healed := rfl
@[simp] theorem State.setSuit_pvSlots (i : Nat) (v : Suit) : (s.setSuit i v).pvSlots = s.pvSlots := rfl
@[simp] theorem State.setSuit_ddr (i : Nat) (v : Suit) : (s.setSuit i v).ddr = s.ddr := rfl
@[simp] theorem State.setSuit_ddrPoisoned (i : Nat) (v : Suit) : (s.setSuit i v).ddrPoisoned = s.ddrPoisoned := rfl
@[simp] theorem State.setSuit_reserved (i : Nat) (v : Suit) : (s.setSuit i v).reserved = s.reserved := rfl
@[simp] theorem State.setSuit_aia (i : Nat) (v : Suit) : (s.setSuit i v).aia = s.aia := rfl
@[simp] theorem State.setSuit_flash (i : Nat) (v : Suit) : (s.setSuit i v).flash = s.flash := rfl
@[simp] theorem State.setSuit_job (i : Nat) (v : Suit) : (s.setSuit i v).job = s.job := rfl
@[simp] theorem State.setSuit_colls (i : Nat) (v : Suit) : (s.setSuit i v).colls = s.colls := rfl
@[simp] theorem State.setSuit_redMem (i : Nat) (v : Suit) : (s.setSuit i v).redMem = s.redMem := rfl
@[simp] theorem State.setSuit_net (i : Nat) (v : Suit) : (s.setSuit i v).net = s.net := rfl
@[simp] theorem State.setSuit_served (i : Nat) (v : Suit) : (s.setSuit i v).served = s.served := rfl
@[simp] theorem State.setSuit_inbox (i : Nat) (v : Suit) : (s.setSuit i v).inbox = s.inbox := rfl
@[simp] theorem State.setSuit_bell (i : Nat) (v : Suit) : (s.setSuit i v).bell = s.bell := rfl
@[simp] theorem State.setSuit_sec (i : Nat) (v : Suit) : (s.setSuit i v).sec = s.sec := rfl
@[simp] theorem State.setSuit_ctl (i : Nat) (v : Suit) : (s.setSuit i v).ctl = s.ctl := rfl
@[simp] theorem State.setSuit_gov (i : Nat) (v : Suit) : (s.setSuit i v).gov = s.gov := rfl
@[simp] theorem State.setSuit_recov (i : Nat) (v : Suit) : (s.setSuit i v).recov = s.recov := rfl
@[simp] theorem State.setSuit_cfg (i : Nat) (v : Suit) : (s.setSuit i v).cfg = s.cfg := rfl
@[simp] theorem State.setSuit_scanNo (i : Nat) (v : Suit) : (s.setSuit i v).scanNo = s.scanNo := rfl

/-! ## State.spend -/

@[simp] theorem State.spend_pending : (s.spend).pending = s.pending := rfl
@[simp] theorem State.spend_part : (s.spend).part = s.part := rfl
@[simp] theorem State.spend_time : (s.spend).time = s.time := rfl
@[simp] theorem State.spend_clock : (s.spend).clock = s.clock := rfl
@[simp] theorem State.spend_extRef : (s.spend).extRef = s.extRef := rfl
@[simp] theorem State.spend_regs : (s.spend).regs = s.regs := rfl
@[simp] theorem State.spend_staged : (s.spend).staged = s.staged := rfl
@[simp] theorem State.spend_heldLow : (s.spend).heldLow = s.heldLow := rfl
@[simp] theorem State.spend_rs : (s.spend).rs = s.rs := rfl
@[simp] theorem State.spend_rsp : (s.spend).rsp = s.rsp := rfl
@[simp] theorem State.spend_hands : (s.spend).hands = s.hands := rfl
@[simp] theorem State.spend_cores : (s.spend).cores = s.cores := rfl
@[simp] theorem State.spend_mills : (s.spend).mills = s.mills := rfl
@[simp] theorem State.spend_suits : (s.spend).suits = s.suits := rfl
@[simp] theorem State.spend_links : (s.spend).links = s.links := rfl
@[simp] theorem State.spend_mem : (s.spend).mem = s.mem := rfl
@[simp] theorem State.spend_poisoned : (s.spend).poisoned = s.poisoned := rfl
@[simp] theorem State.spend_hardSectors : (s.spend).hardSectors = s.hardSectors := rfl
@[simp] theorem State.spend_latent : (s.spend).latent = s.latent := rfl
@[simp] theorem State.spend_tlb : (s.spend).tlb = s.tlb := rfl
@[simp] theorem State.spend_lostPc : (s.spend).lostPc = s.lostPc := rfl
@[simp] theorem State.spend_healed : (s.spend).healed = s.healed := rfl
@[simp] theorem State.spend_pvSlots : (s.spend).pvSlots = s.pvSlots := rfl
@[simp] theorem State.spend_ddr : (s.spend).ddr = s.ddr := rfl
@[simp] theorem State.spend_ddrPoisoned : (s.spend).ddrPoisoned = s.ddrPoisoned := rfl
@[simp] theorem State.spend_reserved : (s.spend).reserved = s.reserved := rfl
@[simp] theorem State.spend_aia : (s.spend).aia = s.aia := rfl
@[simp] theorem State.spend_flash : (s.spend).flash = s.flash := rfl
@[simp] theorem State.spend_job : (s.spend).job = s.job := rfl
@[simp] theorem State.spend_colls : (s.spend).colls = s.colls := rfl
@[simp] theorem State.spend_redMem : (s.spend).redMem = s.redMem := rfl
@[simp] theorem State.spend_net : (s.spend).net = s.net := rfl
@[simp] theorem State.spend_served : (s.spend).served = s.served := rfl
@[simp] theorem State.spend_inbox : (s.spend).inbox = s.inbox := rfl
@[simp] theorem State.spend_bell : (s.spend).bell = s.bell := rfl
@[simp] theorem State.spend_sec : (s.spend).sec = s.sec := rfl
@[simp] theorem State.spend_ctl : (s.spend).ctl = s.ctl := rfl
@[simp] theorem State.spend_gov : (s.spend).gov = s.gov := rfl
@[simp] theorem State.spend_recov : (s.spend).recov = s.recov := rfl
@[simp] theorem State.spend_cfg : (s.spend).cfg = s.cfg := rfl
@[simp] theorem State.spend_scanNo : (s.spend).scanNo = s.scanNo := rfl

/-! ## State.note -/

@[simp] theorem State.note_pending (n : Notice) : (s.note n).pending = s.pending := rfl
@[simp] theorem State.note_part (n : Notice) : (s.note n).part = s.part := rfl
@[simp] theorem State.note_time (n : Notice) : (s.note n).time = s.time := rfl
@[simp] theorem State.note_clock (n : Notice) : (s.note n).clock = s.clock := rfl
@[simp] theorem State.note_extRef (n : Notice) : (s.note n).extRef = s.extRef := rfl
@[simp] theorem State.note_regs (n : Notice) : (s.note n).regs = s.regs := rfl
@[simp] theorem State.note_staged (n : Notice) : (s.note n).staged = s.staged := rfl
@[simp] theorem State.note_heldLow (n : Notice) : (s.note n).heldLow = s.heldLow := rfl
@[simp] theorem State.note_rs (n : Notice) : (s.note n).rs = s.rs := rfl
@[simp] theorem State.note_rsp (n : Notice) : (s.note n).rsp = s.rsp := rfl
@[simp] theorem State.note_free (n : Notice) : (s.note n).free = s.free := rfl
@[simp] theorem State.note_hands (n : Notice) : (s.note n).hands = s.hands := rfl
@[simp] theorem State.note_cores (n : Notice) : (s.note n).cores = s.cores := rfl
@[simp] theorem State.note_mills (n : Notice) : (s.note n).mills = s.mills := rfl
@[simp] theorem State.note_suits (n : Notice) : (s.note n).suits = s.suits := rfl
@[simp] theorem State.note_links (n : Notice) : (s.note n).links = s.links := rfl
@[simp] theorem State.note_mem (n : Notice) : (s.note n).mem = s.mem := rfl
@[simp] theorem State.note_poisoned (n : Notice) : (s.note n).poisoned = s.poisoned := rfl
@[simp] theorem State.note_hardSectors (n : Notice) : (s.note n).hardSectors = s.hardSectors := rfl
@[simp] theorem State.note_latent (n : Notice) : (s.note n).latent = s.latent := rfl
@[simp] theorem State.note_tlb (n : Notice) : (s.note n).tlb = s.tlb := rfl
@[simp] theorem State.note_lostPc (n : Notice) : (s.note n).lostPc = s.lostPc := rfl
@[simp] theorem State.note_healed (n : Notice) : (s.note n).healed = s.healed := rfl
@[simp] theorem State.note_pvSlots (n : Notice) : (s.note n).pvSlots = s.pvSlots := rfl
@[simp] theorem State.note_ddr (n : Notice) : (s.note n).ddr = s.ddr := rfl
@[simp] theorem State.note_ddrPoisoned (n : Notice) : (s.note n).ddrPoisoned = s.ddrPoisoned := rfl
@[simp] theorem State.note_reserved (n : Notice) : (s.note n).reserved = s.reserved := rfl
@[simp] theorem State.note_aia (n : Notice) : (s.note n).aia = s.aia := rfl
@[simp] theorem State.note_flash (n : Notice) : (s.note n).flash = s.flash := rfl
@[simp] theorem State.note_job (n : Notice) : (s.note n).job = s.job := rfl
@[simp] theorem State.note_colls (n : Notice) : (s.note n).colls = s.colls := rfl
@[simp] theorem State.note_redMem (n : Notice) : (s.note n).redMem = s.redMem := rfl
@[simp] theorem State.note_net (n : Notice) : (s.note n).net = s.net := rfl
@[simp] theorem State.note_served (n : Notice) : (s.note n).served = s.served := rfl
@[simp] theorem State.note_inbox (n : Notice) : (s.note n).inbox = s.inbox := rfl
@[simp] theorem State.note_bell (n : Notice) : (s.note n).bell = s.bell := rfl
@[simp] theorem State.note_sec (n : Notice) : (s.note n).sec = s.sec := rfl
@[simp] theorem State.note_ctl (n : Notice) : (s.note n).ctl = s.ctl := rfl
@[simp] theorem State.note_gov (n : Notice) : (s.note n).gov = s.gov := rfl
@[simp] theorem State.note_cfg (n : Notice) : (s.note n).cfg = s.cfg := rfl
@[simp] theorem State.note_scanNo (n : Notice) : (s.note n).scanNo = s.scanNo := rfl

/-! ## State.post -/

@[simp] theorem State.post_pending (r sev code ep d : Nat) : (s.post r sev code ep d).pending = s.pending := rfl
@[simp] theorem State.post_part (r sev code ep d : Nat) : (s.post r sev code ep d).part = s.part := rfl
@[simp] theorem State.post_time (r sev code ep d : Nat) : (s.post r sev code ep d).time = s.time := rfl
@[simp] theorem State.post_clock (r sev code ep d : Nat) : (s.post r sev code ep d).clock = s.clock := rfl
@[simp] theorem State.post_extRef (r sev code ep d : Nat) : (s.post r sev code ep d).extRef = s.extRef := rfl
@[simp] theorem State.post_regs (r sev code ep d : Nat) : (s.post r sev code ep d).regs = s.regs := rfl
@[simp] theorem State.post_staged (r sev code ep d : Nat) : (s.post r sev code ep d).staged = s.staged := rfl
@[simp] theorem State.post_heldLow (r sev code ep d : Nat) : (s.post r sev code ep d).heldLow = s.heldLow := rfl
@[simp] theorem State.post_rs (r sev code ep d : Nat) : (s.post r sev code ep d).rs = s.rs := rfl
@[simp] theorem State.post_rsp (r sev code ep d : Nat) : (s.post r sev code ep d).rsp = s.rsp := rfl
@[simp] theorem State.post_free (r sev code ep d : Nat) : (s.post r sev code ep d).free = s.free := rfl
@[simp] theorem State.post_hands (r sev code ep d : Nat) : (s.post r sev code ep d).hands = s.hands := rfl
@[simp] theorem State.post_cores (r sev code ep d : Nat) : (s.post r sev code ep d).cores = s.cores := rfl
@[simp] theorem State.post_mills (r sev code ep d : Nat) : (s.post r sev code ep d).mills = s.mills := rfl
@[simp] theorem State.post_suits (r sev code ep d : Nat) : (s.post r sev code ep d).suits = s.suits := rfl
@[simp] theorem State.post_links (r sev code ep d : Nat) : (s.post r sev code ep d).links = s.links := rfl
@[simp] theorem State.post_mem (r sev code ep d : Nat) : (s.post r sev code ep d).mem = s.mem := rfl
@[simp] theorem State.post_poisoned (r sev code ep d : Nat) : (s.post r sev code ep d).poisoned = s.poisoned := rfl
@[simp] theorem State.post_hardSectors (r sev code ep d : Nat) : (s.post r sev code ep d).hardSectors = s.hardSectors := rfl
@[simp] theorem State.post_latent (r sev code ep d : Nat) : (s.post r sev code ep d).latent = s.latent := rfl
@[simp] theorem State.post_tlb (r sev code ep d : Nat) : (s.post r sev code ep d).tlb = s.tlb := rfl
@[simp] theorem State.post_lostPc (r sev code ep d : Nat) : (s.post r sev code ep d).lostPc = s.lostPc := rfl
@[simp] theorem State.post_healed (r sev code ep d : Nat) : (s.post r sev code ep d).healed = s.healed := rfl
@[simp] theorem State.post_pvSlots (r sev code ep d : Nat) : (s.post r sev code ep d).pvSlots = s.pvSlots := rfl
@[simp] theorem State.post_ddr (r sev code ep d : Nat) : (s.post r sev code ep d).ddr = s.ddr := rfl
@[simp] theorem State.post_ddrPoisoned (r sev code ep d : Nat) : (s.post r sev code ep d).ddrPoisoned = s.ddrPoisoned := rfl
@[simp] theorem State.post_reserved (r sev code ep d : Nat) : (s.post r sev code ep d).reserved = s.reserved := rfl
@[simp] theorem State.post_aia (r sev code ep d : Nat) : (s.post r sev code ep d).aia = s.aia := rfl
@[simp] theorem State.post_flash (r sev code ep d : Nat) : (s.post r sev code ep d).flash = s.flash := rfl
@[simp] theorem State.post_job (r sev code ep d : Nat) : (s.post r sev code ep d).job = s.job := rfl
@[simp] theorem State.post_colls (r sev code ep d : Nat) : (s.post r sev code ep d).colls = s.colls := rfl
@[simp] theorem State.post_redMem (r sev code ep d : Nat) : (s.post r sev code ep d).redMem = s.redMem := rfl
@[simp] theorem State.post_net (r sev code ep d : Nat) : (s.post r sev code ep d).net = s.net := rfl
@[simp] theorem State.post_served (r sev code ep d : Nat) : (s.post r sev code ep d).served = s.served := rfl
@[simp] theorem State.post_inbox (r sev code ep d : Nat) : (s.post r sev code ep d).inbox = s.inbox := rfl
@[simp] theorem State.post_bell (r sev code ep d : Nat) : (s.post r sev code ep d).bell = s.bell := rfl
@[simp] theorem State.post_sec (r sev code ep d : Nat) : (s.post r sev code ep d).sec = s.sec := rfl
@[simp] theorem State.post_ctl (r sev code ep d : Nat) : (s.post r sev code ep d).ctl = s.ctl := rfl
@[simp] theorem State.post_gov (r sev code ep d : Nat) : (s.post r sev code ep d).gov = s.gov := rfl
@[simp] theorem State.post_cfg (r sev code ep d : Nat) : (s.post r sev code ep d).cfg = s.cfg := rfl
@[simp] theorem State.post_scanNo (r sev code ep d : Nat) : (s.post r sev code ep d).scanNo = s.scanNo := rfl

/-! ## State.send -/

@[simp] theorem State.send_pending (src dst vc pos : Nat) (m : Msg) : (s.send src dst vc pos m).pending = s.pending := rfl
@[simp] theorem State.send_part (src dst vc pos : Nat) (m : Msg) : (s.send src dst vc pos m).part = s.part := rfl
@[simp] theorem State.send_time (src dst vc pos : Nat) (m : Msg) : (s.send src dst vc pos m).time = s.time := rfl
@[simp] theorem State.send_clock (src dst vc pos : Nat) (m : Msg) : (s.send src dst vc pos m).clock = s.clock := rfl
@[simp] theorem State.send_extRef (src dst vc pos : Nat) (m : Msg) : (s.send src dst vc pos m).extRef = s.extRef := rfl
@[simp] theorem State.send_regs (src dst vc pos : Nat) (m : Msg) : (s.send src dst vc pos m).regs = s.regs := rfl
@[simp] theorem State.send_staged (src dst vc pos : Nat) (m : Msg) : (s.send src dst vc pos m).staged = s.staged := rfl
@[simp] theorem State.send_heldLow (src dst vc pos : Nat) (m : Msg) : (s.send src dst vc pos m).heldLow = s.heldLow := rfl
@[simp] theorem State.send_rs (src dst vc pos : Nat) (m : Msg) : (s.send src dst vc pos m).rs = s.rs := rfl
@[simp] theorem State.send_rsp (src dst vc pos : Nat) (m : Msg) : (s.send src dst vc pos m).rsp = s.rsp := rfl
@[simp] theorem State.send_free (src dst vc pos : Nat) (m : Msg) : (s.send src dst vc pos m).free = s.free := rfl
@[simp] theorem State.send_hands (src dst vc pos : Nat) (m : Msg) : (s.send src dst vc pos m).hands = s.hands := rfl
@[simp] theorem State.send_cores (src dst vc pos : Nat) (m : Msg) : (s.send src dst vc pos m).cores = s.cores := rfl
@[simp] theorem State.send_mills (src dst vc pos : Nat) (m : Msg) : (s.send src dst vc pos m).mills = s.mills := rfl
@[simp] theorem State.send_suits (src dst vc pos : Nat) (m : Msg) : (s.send src dst vc pos m).suits = s.suits := rfl
@[simp] theorem State.send_links (src dst vc pos : Nat) (m : Msg) : (s.send src dst vc pos m).links = s.links := rfl
@[simp] theorem State.send_mem (src dst vc pos : Nat) (m : Msg) : (s.send src dst vc pos m).mem = s.mem := rfl
@[simp] theorem State.send_poisoned (src dst vc pos : Nat) (m : Msg) : (s.send src dst vc pos m).poisoned = s.poisoned := rfl
@[simp] theorem State.send_hardSectors (src dst vc pos : Nat) (m : Msg) : (s.send src dst vc pos m).hardSectors = s.hardSectors := rfl
@[simp] theorem State.send_latent (src dst vc pos : Nat) (m : Msg) : (s.send src dst vc pos m).latent = s.latent := rfl
@[simp] theorem State.send_tlb (src dst vc pos : Nat) (m : Msg) : (s.send src dst vc pos m).tlb = s.tlb := rfl
@[simp] theorem State.send_lostPc (src dst vc pos : Nat) (m : Msg) : (s.send src dst vc pos m).lostPc = s.lostPc := rfl
@[simp] theorem State.send_healed (src dst vc pos : Nat) (m : Msg) : (s.send src dst vc pos m).healed = s.healed := rfl
@[simp] theorem State.send_pvSlots (src dst vc pos : Nat) (m : Msg) : (s.send src dst vc pos m).pvSlots = s.pvSlots := rfl
@[simp] theorem State.send_ddr (src dst vc pos : Nat) (m : Msg) : (s.send src dst vc pos m).ddr = s.ddr := rfl
@[simp] theorem State.send_ddrPoisoned (src dst vc pos : Nat) (m : Msg) : (s.send src dst vc pos m).ddrPoisoned = s.ddrPoisoned := rfl
@[simp] theorem State.send_reserved (src dst vc pos : Nat) (m : Msg) : (s.send src dst vc pos m).reserved = s.reserved := rfl
@[simp] theorem State.send_aia (src dst vc pos : Nat) (m : Msg) : (s.send src dst vc pos m).aia = s.aia := rfl
@[simp] theorem State.send_flash (src dst vc pos : Nat) (m : Msg) : (s.send src dst vc pos m).flash = s.flash := rfl
@[simp] theorem State.send_job (src dst vc pos : Nat) (m : Msg) : (s.send src dst vc pos m).job = s.job := rfl
@[simp] theorem State.send_colls (src dst vc pos : Nat) (m : Msg) : (s.send src dst vc pos m).colls = s.colls := rfl
@[simp] theorem State.send_redMem (src dst vc pos : Nat) (m : Msg) : (s.send src dst vc pos m).redMem = s.redMem := rfl
@[simp] theorem State.send_served (src dst vc pos : Nat) (m : Msg) : (s.send src dst vc pos m).served = s.served := rfl
@[simp] theorem State.send_inbox (src dst vc pos : Nat) (m : Msg) : (s.send src dst vc pos m).inbox = s.inbox := rfl
@[simp] theorem State.send_bell (src dst vc pos : Nat) (m : Msg) : (s.send src dst vc pos m).bell = s.bell := rfl
@[simp] theorem State.send_sec (src dst vc pos : Nat) (m : Msg) : (s.send src dst vc pos m).sec = s.sec := rfl
@[simp] theorem State.send_ctl (src dst vc pos : Nat) (m : Msg) : (s.send src dst vc pos m).ctl = s.ctl := rfl
@[simp] theorem State.send_gov (src dst vc pos : Nat) (m : Msg) : (s.send src dst vc pos m).gov = s.gov := rfl
@[simp] theorem State.send_recov (src dst vc pos : Nat) (m : Msg) : (s.send src dst vc pos m).recov = s.recov := rfl
@[simp] theorem State.send_cfg (src dst vc pos : Nat) (m : Msg) : (s.send src dst vc pos m).cfg = s.cfg := rfl
@[simp] theorem State.send_scanNo (src dst vc pos : Nat) (m : Msg) : (s.send src dst vc pos m).scanNo = s.scanNo := rfl

/-! ## Registers -/

/-- A register written reads back; every other one is as before. -/
@[simp] theorem State.reg_setReg (a b : Nat) (v : W32) : (s.setReg a v).reg b = if b = a then v else s.reg b := by
  simp only [State.reg, State.setReg, PMap.get_put]

@[simp] theorem State.reg_setHand (h : Nat) (v : Hand) (a : Nat) : (s.setHand h v).reg a = s.reg a := rfl
@[simp] theorem State.reg_setCore (k : Nat) (v : Core) (a : Nat) : (s.setCore k v).reg a = s.reg a := rfl
@[simp] theorem State.reg_setMill (m : Nat) (v : Mill) (a : Nat) : (s.setMill m v).reg a = s.reg a := rfl
@[simp] theorem State.reg_setSuit (i : Nat) (v : Suit) (a : Nat) : (s.setSuit i v).reg a = s.reg a := rfl
@[simp] theorem State.reg_spend (a : Nat) : s.spend.reg a = s.reg a := rfl
@[simp] theorem State.reg_note (n : Notice) (a : Nat) : (s.note n).reg a = s.reg a := rfl
@[simp] theorem State.reg_post (r sev code ep d a : Nat) : (s.post r sev code ep d).reg a = s.reg a := rfl
@[simp] theorem State.reg_send (src dst vc pos : Nat) (m : Msg) (a : Nat) : (s.send src dst vc pos m).reg a = s.reg a := rfl

theorem State.reg_congr {s t : State} (h : t.regs = s.regs) (a : Nat) : t.reg a = s.reg a := by simp only [State.reg, h]

/-- A field written into a register reads back, cut to its width. -/
theorem State.field_setField (a lo w v : Nat) (h : lo + w ≤ 32) : (s.setField a lo w v).field a lo w = v % 2 ^ w := by
  have hx := setBits_lt (s.reg a).toNat lo w v 32 (s.reg a).isLt h
  simp only [State.field, State.setField, State.reg_setReg, if_pos, BitVec.toNat_ofNat, Nat.mod_eq_of_lt hx, bits_setBits]

/-- The other fields of the register keep their values. -/
theorem State.field_setField_other (a lo w v lo' w' : Nat) (h : lo + w ≤ 32) (d : lo' + w' ≤ lo ∨ lo + w ≤ lo') :
    (s.setField a lo w v).field a lo' w' = s.field a lo' w' := by
  have hx := setBits_lt (s.reg a).toNat lo w v 32 (s.reg a).isLt h
  simp only [State.field, State.setField, State.reg_setReg, if_pos, BitVec.toNat_ofNat, Nat.mod_eq_of_lt hx,
    bits_setBits_other _ _ _ _ _ _ d]

/-- Every other register keeps its value. -/
theorem State.reg_setField_other (a b lo w v : Nat) (h : b ≠ a) : (s.setField a lo w v).reg b = s.reg b := by
  simp [State.setField, h]

theorem State.setBit_eq (a i : Nat) : s.setBit a i = s.setReg a (BitVec.ofNat 32 (setBits (s.reg a).toNat i 1 1)) := rfl
theorem State.clearBit_eq (a i : Nat) : s.clearBit a i = s.setReg a (BitVec.ofNat 32 (setBits (s.reg a).toNat i 1 0)) := rfl

/-- A bit set reads 1. -/
theorem State.flag_setBit (a i : Nat) (h : i < 32) : (s.setBit a i).flag a i = true := by
  simp only [State.flag, State.setBit, State.field_setField _ _ _ _ _ (by omega : i + 1 ≤ 32)]; decide

/-- A bit cleared reads 0. -/
theorem State.flag_clearBit (a i : Nat) (h : i < 32) : (s.clearBit a i).flag a i = false := by
  simp only [State.flag, State.clearBit, State.field_setField _ _ _ _ _ (by omega : i + 1 ≤ 32)]; decide

/-- A 64-bit register written as two words reads back, modulo 2^64. -/
theorem State.reg64_setReg64 (a v : Nat) : (s.setReg64 a v).reg64 a = v % 2 ^ 64 := by
  have e : ¬ a = a + 4 := by omega
  simp only [State.reg64, State.setReg64, State.reg_setReg, e, if_false, if_true, BitVec.toNat_ofNat]
  omega

theorem State.reg64_congr {s t : State} (a : Nat) (h : t.reg a = s.reg a) (h' : t.reg (a + 4) = s.reg (a + 4)) :
    t.reg64 a = s.reg64 a := by simp only [State.reg64, h, h']

/-! ## Units -/

@[simp] theorem State.hand_setHand (h i : Nat) (v : Hand) : (s.setHand h v).hand i = if i = h then v else s.hand i := by
  simp only [State.hand, State.setHand, PMap.get_put]
@[simp] theorem State.core_setCore (k i : Nat) (v : Core) : (s.setCore k v).core i = if i = k then v else s.core i := by
  simp only [State.core, State.setCore, PMap.get_put]
@[simp] theorem State.mill_setMill (m i : Nat) (v : Mill) : (s.setMill m v).mill i = if i = m then v else s.mill i := by
  simp only [State.mill, State.setMill, PMap.get_put]
@[simp] theorem State.suit_setSuit (j i : Nat) (v : Suit) : (s.setSuit j v).suit i = if i = j then v else s.suit i := by
  simp only [State.suit, State.setSuit, PMap.get_put]

@[simp] theorem State.hand_setReg (a : Nat) (v : W32) (j : Nat) : (s.setReg a v).hand j = s.hand j := rfl
@[simp] theorem State.hand_setCore (k : Nat) (v : Core) (j : Nat) : (s.setCore k v).hand j = s.hand j := rfl
@[simp] theorem State.hand_setMill (m : Nat) (v : Mill) (j : Nat) : (s.setMill m v).hand j = s.hand j := rfl
@[simp] theorem State.hand_setSuit (i : Nat) (v : Suit) (j : Nat) : (s.setSuit i v).hand j = s.hand j := rfl
@[simp] theorem State.hand_spend (j : Nat) : (s.spend).hand j = s.hand j := rfl
@[simp] theorem State.hand_note (n : Notice) (j : Nat) : (s.note n).hand j = s.hand j := rfl
@[simp] theorem State.hand_post (r sev code ep d : Nat) (j : Nat) : (s.post r sev code ep d).hand j = s.hand j := rfl
@[simp] theorem State.hand_send (src dst vc pos : Nat) (m : Msg) (j : Nat) : (s.send src dst vc pos m).hand j = s.hand j := rfl
@[simp] theorem State.core_setReg (a : Nat) (v : W32) (j : Nat) : (s.setReg a v).core j = s.core j := rfl
@[simp] theorem State.core_setHand (h : Nat) (v : Hand) (j : Nat) : (s.setHand h v).core j = s.core j := rfl
@[simp] theorem State.core_setMill (m : Nat) (v : Mill) (j : Nat) : (s.setMill m v).core j = s.core j := rfl
@[simp] theorem State.core_setSuit (i : Nat) (v : Suit) (j : Nat) : (s.setSuit i v).core j = s.core j := rfl
@[simp] theorem State.core_spend (j : Nat) : (s.spend).core j = s.core j := rfl
@[simp] theorem State.core_note (n : Notice) (j : Nat) : (s.note n).core j = s.core j := rfl
@[simp] theorem State.core_post (r sev code ep d : Nat) (j : Nat) : (s.post r sev code ep d).core j = s.core j := rfl
@[simp] theorem State.core_send (src dst vc pos : Nat) (m : Msg) (j : Nat) : (s.send src dst vc pos m).core j = s.core j := rfl
@[simp] theorem State.mill_setReg (a : Nat) (v : W32) (j : Nat) : (s.setReg a v).mill j = s.mill j := rfl
@[simp] theorem State.mill_setHand (h : Nat) (v : Hand) (j : Nat) : (s.setHand h v).mill j = s.mill j := rfl
@[simp] theorem State.mill_setCore (k : Nat) (v : Core) (j : Nat) : (s.setCore k v).mill j = s.mill j := rfl
@[simp] theorem State.mill_setSuit (i : Nat) (v : Suit) (j : Nat) : (s.setSuit i v).mill j = s.mill j := rfl
@[simp] theorem State.mill_spend (j : Nat) : (s.spend).mill j = s.mill j := rfl
@[simp] theorem State.mill_note (n : Notice) (j : Nat) : (s.note n).mill j = s.mill j := rfl
@[simp] theorem State.mill_post (r sev code ep d : Nat) (j : Nat) : (s.post r sev code ep d).mill j = s.mill j := rfl
@[simp] theorem State.mill_send (src dst vc pos : Nat) (m : Msg) (j : Nat) : (s.send src dst vc pos m).mill j = s.mill j := rfl
@[simp] theorem State.suit_setReg (a : Nat) (v : W32) (j : Nat) : (s.setReg a v).suit j = s.suit j := rfl
@[simp] theorem State.suit_setHand (h : Nat) (v : Hand) (j : Nat) : (s.setHand h v).suit j = s.suit j := rfl
@[simp] theorem State.suit_setCore (k : Nat) (v : Core) (j : Nat) : (s.setCore k v).suit j = s.suit j := rfl
@[simp] theorem State.suit_setMill (m : Nat) (v : Mill) (j : Nat) : (s.setMill m v).suit j = s.suit j := rfl
@[simp] theorem State.suit_spend (j : Nat) : (s.spend).suit j = s.suit j := rfl
@[simp] theorem State.suit_note (n : Notice) (j : Nat) : (s.note n).suit j = s.suit j := rfl
@[simp] theorem State.suit_post (r sev code ep d : Nat) (j : Nat) : (s.post r sev code ep d).suit j = s.suit j := rfl
@[simp] theorem State.suit_send (src dst vc pos : Nat) (m : Msg) (j : Nat) : (s.send src dst vc pos m).suit j = s.suit j := rfl

end Sys2Proof.Machine
end

