-- ==== Sys2Proof/Laws/Ops.lean ====
section
/-! SUPPORT. What each shared operation leaves unchanged, as frames that chain. -/

namespace Sys2Proof

set_option Elab.async false

open Machine

variable {R H C M R' H' C' M' : Nat → Prop} {s t u : State}

theorem Frame.refl (s : State) : Frame R H C M s s :=
  ⟨rfl, rfl, rfl, fun _ _ => rfl, fun _ _ => rfl, fun _ _ => rfl, fun _ _ => rfl, by simp⟩

theorem Frame.trans (a : Frame R H C M s t) (b : Frame R H C M t u) : Frame R H C M s u where
  mem := b.mem.trans a.mem
  ddr := b.ddr.trans a.ddr
  flash := b.flash.trans a.flash
  reg x h := (b.reg x h).trans (a.reg x h)
  hand x h := (b.hand x h).trans (a.hand x h)
  core x h := (b.core x h).trans (a.core x h)
  mill x h := (b.mill x h).trans (a.mill x h)
  rest := by
    have := a.rest; have := b.rest
    simp_all only [and_self]

/-- A frame widened. -/
theorem Frame.mono (a : Frame R H C M s t) (r : ∀ x, R x → R' x) (h : ∀ x, H x → H' x) (c : ∀ x, C x → C' x)
    (m : ∀ x, M x → M' x) : Frame R' H' C' M' s t :=
  { mem := a.mem, ddr := a.ddr, flash := a.flash, reg := fun x n => a.reg x (fun y => n (r x y)),
    hand := fun x n => a.hand x (fun y => n (h x y)), core := fun x n => a.core x (fun y => n (c x y)),
    mill := fun x n => a.mill x (fun y => n (m x y)), rest := a.rest }

theorem frame_setReg (s : State) (a : Nat) (v : W32) (h : R a) : Frame R H C M s (s.setReg a v) :=
  ⟨rfl, rfl, rfl, fun x n => by rw [State.reg_setReg]; exact if_neg fun e => n (by subst e; exact h), fun _ _ => rfl, fun _ _ => rfl,
    fun _ _ => rfl, by simp⟩

theorem frame_setField (s : State) (a lo w v : Nat) (h : R a) : Frame R H C M s (s.setField a lo w v) :=
  frame_setReg s a _ h
theorem frame_setBit (s : State) (a i : Nat) (h : R a) : Frame R H C M s (s.setBit a i) := frame_setReg s a _ h
theorem frame_clearBit (s : State) (a i : Nat) (h : R a) : Frame R H C M s (s.clearBit a i) := frame_setReg s a _ h
theorem frame_add32 (s : State) (a n : Nat) (h : R a) : Frame R H C M s (s.add32 a n) := frame_setReg s a _ h
theorem frame_orReg (s : State) (a : Nat) (m : W32) (h : R a) : Frame R H C M s (s.orReg a m) := frame_setReg s a _ h
theorem frame_flags (s : State) (a : Nat) (f : Fl) (h : R a) : Frame R H C M s (s.flags a f) := frame_setReg s a _ h
theorem frame_countSat (s : State) (a lo w n : Nat) (h : R a) : Frame R H C M s (s.countSat a lo w n) := frame_setReg s a _ h
theorem frame_setReg64 (s : State) (a v : Nat) (h : R a) (h' : R (a + 4)) : Frame R H C M s (s.setReg64 a v) :=
  (frame_setReg s a _ h).trans (frame_setReg _ _ _ h')
theorem frame_add64 (s : State) (a n : Nat) (h : R a) (h' : R (a + 4)) : Frame R H C M s (s.add64 a n) :=
  frame_setReg64 s a _ h h'

theorem frame_setHand (s : State) (h : Nat) (v : Hand) (p : H h) : Frame R H C M s (s.setHand h v) :=
  ⟨rfl, rfl, rfl, fun _ _ => rfl, fun x n => by rw [State.hand_setHand]; exact if_neg fun e => n (by subst e; exact p), fun _ _ => rfl,
    fun _ _ => rfl, by simp⟩

theorem frame_setCore (s : State) (k : Nat) (v : Core) (p : C k) : Frame R H C M s (s.setCore k v) :=
  ⟨rfl, rfl, rfl, fun _ _ => rfl, fun _ _ => rfl, fun x n => by rw [State.core_setCore]; exact if_neg fun e => n (by subst e; exact p),
    fun _ _ => rfl, by simp⟩

theorem frame_setMill (s : State) (m : Nat) (v : Mill) (p : M m) : Frame R H C M s (s.setMill m v) :=
  ⟨rfl, rfl, rfl, fun _ _ => rfl, fun _ _ => rfl, fun _ _ => rfl,
    fun x n => by rw [State.mill_setMill]; exact if_neg fun e => n (by subst e; exact p), by simp⟩

theorem frame_spend (s : State) : Frame R H C M s s.spend :=
  ⟨rfl, rfl, rfl, fun _ _ => rfl, fun _ _ => rfl, fun _ _ => rfl, fun _ _ => rfl, by simp⟩
theorem frame_note (s : State) (n : Notice) : Frame R H C M s (s.note n) :=
  ⟨rfl, rfl, rfl, fun _ _ => rfl, fun _ _ => rfl, fun _ _ => rfl, fun _ _ => rfl, by simp⟩
theorem frame_post (s : State) (r sev code ep d : Nat) : Frame R H C M s (s.post r sev code ep d) :=
  ⟨rfl, rfl, rfl, fun _ _ => rfl, fun _ _ => rfl, fun _ _ => rfl, fun _ _ => rfl, by simp⟩
theorem frame_send (s : State) (a b c d : Nat) (m : Msg) : Frame R H C M s (s.send a b c d m) :=
  ⟨rfl, rfl, rfl, fun _ _ => rfl, fun _ _ => rfl, fun _ _ => rfl, fun _ _ => rfl, by simp⟩

/-- A trace record changes its hand's ring and its count of lost records. -/
theorem frame_traceHand (s : State) (h : Nat) (x : Trace) (p : H h) (r : R (Reg.handLost h)) :
    Frame R H C M s (s.traceHand h x) := by
  unfold State.traceHand
  dsimp only
  split_ifs
  · exact frame_setHand s h _ p
  · exact (frame_setHand s h _ p).trans (frame_add32 _ _ _ r)

theorem frame_traceMill (s : State) (m : Nat) (x : Trace) (p : M m) : Frame R H C M s (s.traceMill m x) :=
  frame_setMill s m _ p

/-- A station's trace record changes only the ring of its hand or Mill. -/
theorem frame_traceSt (s : State) (st v : Nat) (x : Trace) (p : st ≠ 8 → H (handOf st v))
    (r : st ≠ 8 → R (Reg.handLost (handOf st v))) (m : st = 8 → M v) : Frame R H C M s (s.traceSt st v x) := by
  unfold State.traceSt
  split_ifs with h
  · exact frame_traceMill s v x (m h)
  · exact frame_traceHand s _ x (p h) (r h)

theorem frame_traceBegin (s : State) (st v : Nat) (x : BitVec 512) (w : Nat) (p : st ≠ 8 → H (handOf st v))
    (r : st ≠ 8 → R (Reg.handLost (handOf st v))) (m : st = 8 → M v) : Frame R H C M s (s.traceBegin st v x w) := by
  unfold State.traceBegin
  split_ifs
  · exact (frame_traceSt s st v _ p r m).trans (frame_spend _)
  · exact Frame.refl s

theorem frame_traceEnd (s : State) (st v : Nat) (x : BitVec 512) (a c n : Nat) (p : st ≠ 8 → H (handOf st v))
    (r : st ≠ 8 → R (Reg.handLost (handOf st v))) (m : st = 8 → M v) : Frame R H C M s (s.traceEnd st v x a c n) := by
  unfold State.traceEnd
  split_ifs
  · exact frame_traceSt s st v _ p r m
  · exact Frame.refl s

theorem frame_inc1 (s : State) (addr : Nat → Nat) (x : BitVec 512) (i : Nat) (h : R (addr (Record.incCtr x i))) :
    Frame R H C M s (s.inc1 addr x i) := by
  unfold State.inc1
  split_ifs
  · exact frame_setReg s _ _ h
  · exact Frame.refl s

/-- The increments of a record change only its event counters. -/
theorem frame_applyIncs (s : State) (h : Nat) (x : BitVec 512) (r : ∀ c < 64, R (Reg.evc h c)) :
    Frame R H C M s (s.applyIncs h x) :=
  (frame_inc1 s _ x 0 (r _ (bits_lt _ _ _))).trans (frame_inc1 _ _ x 1 (r _ (bits_lt _ _ _)))

theorem frame_millIncs (s : State) (m : Nat) (x : BitVec 512) (r : ∀ c < 64, R (Reg.millEvc m c)) :
    Frame R H C M s (s.millIncs m x) :=
  (frame_inc1 s _ x 0 (r _ (bits_lt _ _ _))).trans (frame_inc1 _ _ x 1 (r _ (bits_lt _ _ _)))

/-- A fault record posted by a unit of a hand changes only the hand's trace ring. -/
theorem frame_postHand (s : State) (h st ep sev code d serial : Nat) (x : BitVec 512) (p : H h) (r : R (Reg.handLost h)) :
    Frame R H C M s (s.postHand h st ep sev code d serial x) :=
  (frame_traceHand s h _ p r).trans (frame_post _ _ _ _ _ _)

/-! ## What increments and traces do -/

@[simp] theorem Machine.State.reg_traceHand (s : State) (h : Nat) (x : Trace) (a : Nat) (n : a ≠ Reg.handLost h) :
    (s.traceHand h x).reg a = s.reg a :=
  (frame_traceHand (R := (· = Reg.handLost h)) (H := fun _ => True) (C := Nothing) (M := Nothing) s h x trivial rfl).reg a n

/-- A counter after the increments of a record (R77). -/
theorem Machine.State.evc_applyIncs (s : State) (h : Nat) (x : BitVec 512) (c : Nat) :
    (s.applyIncs h x).evc h c = s.evc h c + incsOf x c := by
  have e : ∀ c', Reg.evc h c = Reg.evc h c' ↔ c' = c := fun c' => by unfold Reg.evc; omega
  simp only [State.applyIncs, State.inc1, State.evc, incsOf]
  split_ifs <;> simp_all [BitVec.add_assoc]

theorem Machine.State.millEvc_millIncs (s : State) (m : Nat) (x : BitVec 512) (c : Nat) :
    (s.millIncs m x).millEvc m c = s.millEvc m c + incsOf x c := by
  have e : ∀ c', Reg.millEvc m c = Reg.millEvc m c' ↔ c' = c := fun c' => by unfold Reg.millEvc; omega
  simp only [State.millIncs, State.inc1, State.millEvc, incsOf]
  split_ifs <;> simp_all [BitVec.add_assoc]

end Sys2Proof
end

