-- ==== Sys2Proof/Laws/Granary.lean ====
section
/-! SUPPORT. What accesses to HBM through the granary do: a read changes no byte and, beside lines, detectors, translation
caches and the errors it finds, nothing (R284, R290 to R293, R317 to R323); a write changes the bytes it stores as well. -/

namespace Sys2Proof

set_option Elab.async false

open Machine

variable {s t u : State}

/-- What reads of HBM through the granary may do to a state: lines, stream detectors, translation caches, and the errors that
they find, with their counts and records (R284, R290, R302, R317, R321, R322). What an access meets at an address stays as it
was, and so does everything else. -/
def Demand (s t : State) : Prop :=
  (∀ a, ¬ GranReg a → t.reg a = s.reg a) ∧
  (∀ i, ∃ g d n, t.suit i = { s.suit i with gran := g, dets := d, ueCounts := n }) ∧
  (∃ l, t.recov.flight = s.recov.flight ++ l) ∧
  t = { s with regs := t.regs, suits := t.suits, poisoned := t.poisoned, hardSectors := t.hardSectors, latent := t.latent
               healed := t.healed, tlb := t.tlb, recov := { s.recov with flight := t.recov.flight } }

theorem Demand.refl (s : State) : Demand s s := ⟨fun _ _ => rfl, fun _ => ⟨_, _, _, rfl⟩, ⟨[], by simp⟩, rfl⟩

theorem Demand.trans (a : Demand s t) (b : Demand t u) : Demand s u := by
  obtain ⟨r, x, ⟨l, f⟩, e⟩ := a
  obtain ⟨r', x', ⟨l', f'⟩, e'⟩ := b
  refine ⟨fun y n => (r' y n).trans (r y n), fun i => ?_, ⟨l ++ l', by rw [f', f, List.append_assoc]⟩, ?_⟩
  · obtain ⟨g, d, n, h⟩ := x i
    obtain ⟨g', d', n', h'⟩ := x' i
    exact ⟨g', d', n', by rw [h', h]⟩
  · rw [e', e]

/-- What an access meets at an address is not changed by reads. -/
theorem Demand.mem (a : Demand s t) : t.mem = s.mem := by rw [a.2.2.2]
theorem Demand.hand (a : Demand s t) : t.hands = s.hands := by rw [a.2.2.2]
theorem Demand.core (a : Demand s t) : t.cores = s.cores := by rw [a.2.2.2]

/-- Steps that chain over a list. -/
theorem Demand.foldl {α : Type} (f : State → α → State) (h : ∀ s x, Demand s (f s x)) (l : List α) (s : State) :
    Demand s (l.foldl f s) := by
  induction l generalizing s with
  | nil => exact Demand.refl s
  | cons x l ih => exact (h s x).trans (ih _)

/-- A change of a suit's lines, detectors and error counts alone. -/
theorem demand_setSuit (s : State) (i : Nat) (v : Suit) (h : ∃ g d n, v = { s.suit i with gran := g, dets := d, ueCounts := n }) :
    Demand s (s.setSuit i v) := by
  refine ⟨fun _ _ => rfl, fun j => ?_, ⟨[], by simp⟩, rfl⟩
  by_cases e : j = i
  · subst e
    simpa using h
  · exact ⟨(s.suit j).gran, (s.suit j).dets, (s.suit j).ueCounts, by simp [e]⟩

theorem demand_setReg (s : State) (a : Nat) (v : W32) (h : GranReg a) : Demand s (s.setReg a v) :=
  ⟨fun x n => by rw [State.reg_setReg]; exact if_neg fun e => n (by subst e; exact h), fun _ => ⟨_, _, _, rfl⟩, ⟨[], by simp⟩, rfl⟩

theorem demand_add64 (s : State) (a n : Nat) (h : GranReg a) (h' : GranReg (a + 4)) : Demand s (s.add64 a n) :=
  (demand_setReg s a _ h).trans (demand_setReg _ _ _ h')

theorem demand_post (s : State) (r sev code ep d : Nat) : Demand s (s.post r sev code ep d) :=
  ⟨fun _ _ => rfl, fun _ => ⟨_, _, _, rfl⟩, ⟨_, rfl⟩, rfl⟩

theorem granReg_hbmPc (i n : Nat) (h : n < 64) : GranReg (Reg.hbmPc i n) := ⟨i, .inr ⟨n, h, rfl⟩⟩

theorem mem_upTo (n x : Nat) : x ∈ upTo n ↔ x < n := by
  induction n with
  | zero => simp [upTo]
  | succ n ih => simp only [upTo, List.mem_append, List.mem_singleton, ih]; omega

/-- Every pseudo-channel is one of the suit's 64 (R286). -/
theorem livePcs_lt (m n : Nat) : (livePcs m).getD n 0 < 64 := by
  by_cases e : n < (livePcs m).length
  · rw [List.getD_eq_getElem _ _ e]
    have h := List.getElem_mem e
    simp only [livePcs, List.mem_filter, mem_upTo] at h
    exact h.1
  · rw [List.getD_eq_default _ _ (by omega)]
    decide

theorem pcOf_lt (s : State) (p : Nat) : s.pcOf p < 64 := livePcs_lt _ _

theorem demand_noteSev (s : State) (i n v : Nat) (h : n < 64) : Demand s (s.noteSev i n v) := by
  unfold State.noteSev
  split_ifs
  · exact demand_setReg s _ _ (granReg_hbmPc i n h)
  · exact Demand.refl s

theorem demand_hbmUe (s : State) (i n k p v : Nat) (a b : Bool) (h : n < 64) : Demand s (s.hbmUe i n k p v a b) := by
  have e : ∀ (s : State), Demand s (if a = true then s.setBit (Reg.hbmPc i n) 30 else s) := fun s => by
    split_ifs
    exacts [demand_setReg _ _ _ (granReg_hbmPc i n h), Demand.refl s]
  have c : ∀ (x y : List Nat) (z : PMap Nat), Demand s { s with poisoned := x, hardSectors := y, latent := z } := fun x y z =>
    ⟨fun _ _ => rfl, fun _ => ⟨_, _, _, rfl⟩, ⟨[], by simp⟩, rfl⟩
  exact ((((c _ _ _).trans (demand_setSuit _ i _ ⟨_, _, _, rfl⟩)).trans (demand_setReg _ _ _ (granReg_hbmPc i n h))).trans (e _)).trans
    (demand_post _ _ _ _ _ _)

/-- A controller's read of a sector. -/
theorem demand_hbmRead (s : State) (p : Nat) (b : Bool) : Demand s (s.hbmRead p b) := by
  unfold State.hbmRead
  split_ifs
  · exact Demand.refl s
  · split
    · exact Demand.refl s
    · have h := pcOf_lt s p
      dsimp only
      split
      · exact demand_noteSev s _ _ _ h
      · exact (demand_noteSev s _ _ _ h).trans (demand_setReg _ _ _ (granReg_hbmPc _ _ h))
      · exact (demand_noteSev s _ _ _ h).trans (demand_hbmUe _ _ _ _ _ _ _ _ h)

theorem demand_hbmReads (s : State) (l : Nat) (m : BitVec 4) (b : Bool) : Demand s (s.hbmReads l m b) :=
  Demand.foldl _ (fun s k => by split_ifs; exacts [demand_hbmRead s _ b, Demand.refl s]) _ s

theorem demand_hbmWrite (s : State) (p : Nat) (b : Bool) : Demand s (s.hbmWrite p b) :=
  ⟨fun _ _ => rfl, fun _ => ⟨_, _, _, rfl⟩, ⟨[], by simp [State.hbmWrite]⟩, rfl⟩

theorem demand_writeBack (s : State) (g : GLine) : Demand s (s.writeBack g) :=
  Demand.foldl _ (fun s k => by split_ifs; exacts [demand_hbmWrite s _ _, Demand.refl s]) _ s

theorem demand_landFill (s : State) (i : Nat) (g : GLine) : Demand s (s.landFill i g) :=
  (demand_hbmReads s _ _ _).trans (demand_setSuit _ i _ ⟨_, _, _, rfl⟩)

theorem demand_fillLine (s : State) (i l t a : Nat) (p f : Bool) (v d b : BitVec 4) (x : BitVec 1024) :
    Demand s (s.fillLine i l t a p f v d b x) := by
  unfold State.fillLine
  dsimp only
  have h : ∀ (c : Bool) (q : GLine → Bool), Demand s (if c = true then s.landFills i q else s) := fun c q => by
    split_ifs
    exacts [Demand.foldl _ (fun s g => demand_landFill s i g) _ s, Demand.refl s]
  split
  · exact h _ _
  · exact ((h _ _).trans (Demand.foldl _ (fun s g => demand_writeBack s g) _ _)).trans (demand_setSuit _ i _ ⟨_, _, _, rfl⟩)

theorem demand_meetLine (s : State) (i : Nat) (g g' : GLine) : Demand s (s.meetLine i g g') := by
  have h : Demand s (s.setSuit i { s.suit i with gran := (s.suit i).gran.map fun x => if x = g then { g' with age := 0, pf := false } else x }) :=
    demand_setSuit s i _ ⟨_, _, _, rfl⟩
  have r : ∀ a ∈ [Reg.pfUsed i, Reg.pfUsed i + 4, Reg.pfOnTime i, Reg.pfOnTime i + 4, Reg.pfLate i, Reg.pfLate i + 4], GranReg a :=
    fun a ha => ⟨i, .inl ha⟩
  unfold State.meetLine
  dsimp only
  split_ifs
  · exact (h.trans (demand_add64 _ _ _ (r _ (by simp)) (r _ (by simp)))).trans (demand_add64 _ _ _ (r _ (by simp)) (r _ (by simp)))
  · exact (h.trans (demand_add64 _ _ _ (r _ (by simp)) (r _ (by simp)))).trans (demand_add64 _ _ _ (r _ (by simp)) (r _ (by simp)))
  · exact h

/-- A demand read of a line. -/
theorem demand_readLine (s : State) (i l t : Nat) (m : BitVec 4) : Demand s (s.readLine i l t m) := by
  unfold State.readLine
  split
  · exact (demand_hbmReads s _ _ _).trans (demand_meetLine _ _ _ _)
  · exact (demand_hbmReads s _ _ _).trans (demand_fillLine _ _ _ _ _ _ _ _ _ _ _)

/-- What a write does to its line before the bytes change. -/
theorem demand_writeLine (s : State) (i l a n t : Nat) : Demand s (s.writeLine i l a n t) := by
  unfold State.writeLine
  dsimp only
  split
  · exact (demand_hbmReads s _ _ _).trans (demand_meetLine _ _ _ _)
  · exact (demand_hbmReads s _ _ _).trans (demand_fillLine _ _ _ _ _ _ _ _ _ _ _)

theorem demand_trainOn (s : State) (i t v f : Nat) : Demand s (s.trainOn i t v f) := by
  unfold State.trainOn
  split_ifs
  · exact Demand.refl s
  · exact demand_setSuit s i _ ⟨_, _, _, rfl⟩

/-- What the translation caches hold may change. -/
theorem demand_tlb (s : State) (l : List (Nat × Nat)) : Demand s { s with tlb := l } :=
  ⟨fun _ _ => rfl, fun _ => ⟨_, _, _, rfl⟩, ⟨[], by simp⟩, rfl⟩

theorem demand_walkLines (s : State) (v a : Nat) : Demand s (s.walkLines v a) := by
  have h : ∀ l : List Nat, Demand s (l.foldl (fun (s : State) a => s.readLine (a / 2 ^ 38) (a / 128) 0 (sectorMask (a / 128) a 8)) s) :=
    fun l => Demand.foldl _ (fun s a => demand_readLine s _ _ _ _) l s
  unfold State.walkLines
  split_ifs
  · exact Demand.refl s
  · exact (h _).trans (demand_tlb _ _)
  · exact h _

theorem demand_readLines (s : State) (va pa n t : Nat) : Demand s (s.readLines va pa n t) :=
  Demand.foldl _ (fun s _ => (demand_readLine s _ _ _ _).trans (demand_trainOn _ _ _ _ _)) _ s

/-- A demand read of bytes. -/
theorem demand_seen (s : State) (v t va n : Nat) : Demand s (s.seen v t va n) := by
  unfold State.seen
  dsimp only
  split
  · exact (demand_walkLines s _ _).trans (demand_readLines _ _ _ _ _)
  · exact demand_walkLines s _ _

theorem demand_seenTile (s : State) (v t a b : Nat) : Demand s (s.seenTile v t a b) :=
  (demand_seen s _ _ _ _).trans (demand_seen _ _ _ _ _)

theorem demand_seenEntries (s : State) (v : Nat) (l : List Nat) : Demand s (s.seenEntries v l) :=
  Demand.foldl _ (fun s t => by split_ifs; exacts [Demand.refl s, demand_seen s _ _ _ _]) l s

/-- A write at a physical address: the bytes, after what a demand access does. -/
theorem storePa_eq (s : State) (t pa n v : Nat) : ∃ u, Demand s u ∧ s.storePa t pa n v = { u with mem := Memory.write s.mem pa n v } := by
  have h := Demand.foldl (fun (s : State) l => s.writeLine (pa / 2 ^ 38) l pa n t) (fun s l => demand_writeLine s _ l pa n t) (linesIn pa n) s
  exact ⟨_, h, by unfold State.storePa; dsimp only; rw [h.mem]⟩

@[simp] theorem Machine.State.storePa_mem (s : State) (t pa n v : Nat) : (s.storePa t pa n v).mem = Memory.write s.mem pa n v := by
  obtain ⟨u, _, e⟩ := storePa_eq s t pa n v
  rw [e]

/-! ## Frames of commands that access HBM -/

variable {R H C M R' H' C' M' : Nat → Prop}

theorem Frame.mem_frame (a : Frame R H C M s t) : MemFrame R H C M s t where
  ddr := a.ddr
  flash := a.flash
  reg x h _ := a.reg x h
  hand := a.hand
  core := a.core
  mill := a.mill
  suit i := ⟨(s.suit i).gran, (s.suit i).dets, (s.suit i).ueCounts, by
    have := a.rest
    simp only [State.suit]
    simp_all only⟩
  rest := by
    have := a.rest
    simp_all only [and_self]

theorem Demand.mem_frame (a : Demand s t) : MemFrame R H C M s t := by
  obtain ⟨r, x, _, e⟩ := a
  refine ⟨by rw [e], by rw [e], fun y _ n => r y n, fun _ _ => ?_, fun _ _ => ?_, fun _ _ => ?_, x, ?_⟩
  · rw [e]; rfl
  · rw [e]; rfl
  · rw [e]; rfl
  · rw [e]; simp

/-- The bytes of HBM replaced. -/
theorem memFrame_mem (s : State) (m : List Host.Cell) : MemFrame R H C M s { s with mem := m } :=
  ⟨rfl, rfl, fun _ _ _ => rfl, fun _ _ => rfl, fun _ _ => rfl, fun _ _ => rfl, fun _ => ⟨_, _, _, rfl⟩, by simp⟩

theorem MemFrame.trans (a : MemFrame R H C M s t) (b : MemFrame R H C M t u) : MemFrame R H C M s u where
  ddr := b.ddr.trans a.ddr
  flash := b.flash.trans a.flash
  reg x h h' := (b.reg x h h').trans (a.reg x h h')
  hand x h := (b.hand x h).trans (a.hand x h)
  core x h := (b.core x h).trans (a.core x h)
  mill x h := (b.mill x h).trans (a.mill x h)
  suit i := by
    obtain ⟨g, d, n, h⟩ := a.suit i
    obtain ⟨g', d', n', h'⟩ := b.suit i
    exact ⟨g', d', n', by rw [h', h]⟩
  rest := by
    have := a.rest; have := b.rest
    simp_all only [and_self]

theorem Calm.trans (a : Calm s t) (b : Calm t u) : Calm s u := by
  obtain ⟨n, r, l, f⟩ := a
  obtain ⟨n', r', l', f'⟩ := b
  exact ⟨n'.trans n, r'.trans r, l ++ l', by rw [f', f]; simp⟩

theorem Demand.calm (a : Demand s t) : Calm s t := by
  obtain ⟨_, _, ⟨l, f⟩, e⟩ := a
  exact ⟨by rw [e], by rw [e], l, by rw [e, f]⟩

theorem Quiet.calm (a : Quiet s t) : Calm s t := ⟨a.1, a.2.2, [], by rw [a.2.1]; simp⟩

/-- A write at a physical address changes bytes of HBM and what any access may change. -/
theorem memFrame_storePa (s : State) (t pa n v : Nat) : MemFrame R H C M s (s.storePa t pa n v) ∧ Calm s (s.storePa t pa n v) := by
  obtain ⟨u, d, e⟩ := storePa_eq s t pa n v
  rw [e]
  exact ⟨d.mem_frame.trans (memFrame_mem u _), d.calm.1, d.calm.2.1, d.calm.2.2⟩

end Sys2Proof
end

