-- ==== Sys2Proof/Laws/PerInstr.lean ====
section
/-! SUPPORT. Well-formedness, row by row: a command is well formed exactly where its operands lie in the ranges that its rule
gives. -/

namespace Sys2Proof.Laws

set_option Elab.async false

/-- The ranges of a command's operands beyond those of their types, each from the rule its row cites. -/
def Operands.Ranges : Instr → Prop
  | .epoch _ st n => st ≤ 6 ∧ n ≤ 2
  | .step _ n => n ≤ 2
  | .allToAll _ _ a b => a < 640 ∧ b < 640
  | .allGather _ _ a _ => a < 640
  | .broadcast _ _ d _ => d < 640
  | .collGather _ _ a => a < 640
  | .fwBegin f => f.body.length ≤ 8196
  | .fwChunk f => f.body.length ≤ 8196
  | .fwCommit f => f.body.length ≤ 8196
  | .keyErase f => f.body.length ≤ 8196
  | .policySet f => f.body.length ≤ 8196
  | .fence f => f.body.length ≤ 8196
  | .unfence f => f.body.length ≤ 8196
  | .powerLimit f => f.body.length ≤ 8196
  | .jobStart f => f.body.length ≤ 8196
  | .jobStop f => f.body.length ≤ 8196
  | .memoryRead _ va len _ ecc sev _ => va < 2 ^ 48 ∧ 0 < len ∧ len ≤ 4096 ∧ ecc ≤ 2 ∧ sev ≤ 3
  | .memoryWrite _ va d => va < 2 ^ 48 ∧ 0 < d.length ∧ d.length ≤ 4096
  | .atomic _ va op ty _ _ => va < 2 ^ 48 ∧ op ≤ 3 ∧ ty ≤ 3
  | .patrolRead _ _ sec ecc sev _ => sec < 2 ^ 26 ∧ ecc ≤ 2 ∧ sev ≤ 3
  | .mapOut _ _ r => r ≤ 2
  | .ddrReadUe _ a _ => a < 2 ^ 35
  | .ddrPatrol _ a e => a < 2 ^ 35 ∧ e ≤ 2
  | .linkRetryExhausted _ _ _ _ g l => g < 12 ∧ l < 34
  | .residueMismatch _ lane slot _ _ _ => lane < 160 ∧ slot < 256
  | .sectorRebuild a _ => a < 2 ^ 48 ∧ a % 32 = 0
  | .handFold _ c => c ≤ 3
  | .suitFold _ c => c ≤ 5
  | .coreSwap _ c _ => c ≤ 3
  | .stall _ f => f ≤ 2
  | .startUpStepEnd r => r.flashMode ≤ 3
  | .housekeepingEdge r => r.psuit.length = 4 ∧ r.slogic.length = 4 ∧ r.shbm.length = 4
  | .governorTick _ hot near => (∀ i ∈ hot, i < 4) ∧ ∀ i ∈ near, i < 4
  | _ => True

/-- A command is well formed exactly where its operands lie in their ranges. -/
def Operands.Statement (i : Instr) : Prop := i.wf = true ↔ Operands.Ranges i

theorem Operands.seqNop (h : HandIx) : Operands.Statement (.seqNop h) := iff_of_true rfl trivial
theorem Operands.seqJump (h : HandIx) : Operands.Statement (.seqJump h) := iff_of_true rfl trivial
theorem Operands.seqLoop (h : HandIx) : Operands.Statement (.seqLoop h) := iff_of_true rfl trivial
theorem Operands.epoch (h : HandIx) (katStep katTimes : Nat) : Operands.Statement (.epoch h katStep katTimes) := by simp [Operands.Statement, Operands.Ranges, Instr.wf, CmdFrame.wf, Sensors.wf, and_assoc]
theorem Operands.mark (h : HandIx) : Operands.Statement (.mark h) := iff_of_true rfl trivial
theorem Operands.seqSignal (h : HandIx) : Operands.Statement (.seqSignal h) := iff_of_true rfl trivial
theorem Operands.ports (h : HandIx) : Operands.Statement (.ports h) := iff_of_true rfl trivial
theorem Operands.seqEnd (h : HandIx) : Operands.Statement (.seqEnd h) := iff_of_true rfl trivial
theorem Operands.hold (h : HandIx) : Operands.Statement (.hold h) := iff_of_true rfl trivial
theorem Operands.grant (h : HandIx) : Operands.Statement (.grant h) := iff_of_true rfl trivial
theorem Operands.loadTiles (k : CoreIx) : Operands.Statement (.loadTiles k) := iff_of_true rfl trivial
theorem Operands.gather (k : CoreIx) : Operands.Statement (.gather k) := iff_of_true rfl trivial
theorem Operands.mma (k : CoreIx) : Operands.Statement (.mma k) := iff_of_true rfl trivial
theorem Operands.elem (k : CoreIx) : Operands.Statement (.elem k) := iff_of_true rfl trivial
theorem Operands.drain (k : CoreIx) : Operands.Statement (.drain k) := iff_of_true rfl trivial
theorem Operands.discard (k : CoreIx) : Operands.Statement (.discard k) := iff_of_true rfl trivial
theorem Operands.run (k : CoreIx) : Operands.Statement (.run k) := iff_of_true rfl trivial
theorem Operands.radd (k : CoreIx) : Operands.Statement (.radd k) := iff_of_true rfl trivial
theorem Operands.storeTiles (k : CoreIx) : Operands.Statement (.storeTiles k) := iff_of_true rfl trivial
theorem Operands.scatter (k : CoreIx) : Operands.Statement (.scatter k) := iff_of_true rfl trivial
theorem Operands.reseal (k : CoreIx) : Operands.Statement (.reseal k) := iff_of_true rfl trivial
theorem Operands.solve (h : HandIx) : Operands.Statement (.solve h) := iff_of_true rfl trivial
theorem Operands.grad (h : HandIx) : Operands.Statement (.grad h) := iff_of_true rfl trivial
theorem Operands.coll (h : HandIx) : Operands.Statement (.coll h) := iff_of_true rfl trivial
theorem Operands.millNop (m : MillIx) : Operands.Statement (.millNop m) := iff_of_true rfl trivial
theorem Operands.update (m : MillIx) : Operands.Statement (.update m) := iff_of_true rfl trivial
theorem Operands.publish (m : MillIx) : Operands.Statement (.publish m) := iff_of_true rfl trivial
theorem Operands.mirror (m : MillIx) : Operands.Statement (.mirror m) := iff_of_true rfl trivial
theorem Operands.millSignal (m : MillIx) : Operands.Statement (.millSignal m) := iff_of_true rfl trivial
theorem Operands.tables (m : MillIx) : Operands.Statement (.tables m) := iff_of_true rfl trivial
theorem Operands.step (m : MillIx) (katTimes : Nat) : Operands.Statement (.step m katTimes) := by simp [Operands.Statement, Operands.Ranges, Instr.wf, CmdFrame.wf, Sensors.wf, and_assoc]
theorem Operands.millJump (m : MillIx) : Operands.Statement (.millJump m) := iff_of_true rfl trivial
theorem Operands.millLoop (m : MillIx) : Operands.Statement (.millLoop m) := iff_of_true rfl trivial
theorem Operands.millEnd (m : MillIx) : Operands.Statement (.millEnd m) := iff_of_true rfl trivial
theorem Operands.vend (k : CoreIx) : Operands.Statement (.vend k) := iff_of_true rfl trivial
theorem Operands.setl (k : CoreIx) : Operands.Statement (.setl k) := iff_of_true rfl trivial
theorem Operands.saddi (k : CoreIx) : Operands.Statement (.saddi k) := iff_of_true rfl trivial
theorem Operands.sadd (k : CoreIx) : Operands.Statement (.sadd k) := iff_of_true rfl trivial
theorem Operands.ssub (k : CoreIx) : Operands.Statement (.ssub k) := iff_of_true rfl trivial
theorem Operands.sbnz (k : CoreIx) : Operands.Statement (.sbnz k) := iff_of_true rfl trivial
theorem Operands.vld (k : CoreIx) : Operands.Statement (.vld k) := iff_of_true rfl trivial
theorem Operands.vld2 (k : CoreIx) : Operands.Statement (.vld2 k) := iff_of_true rfl trivial
theorem Operands.vld3 (k : CoreIx) : Operands.Statement (.vld3 k) := iff_of_true rfl trivial
theorem Operands.vld4 (k : CoreIx) : Operands.Statement (.vld4 k) := iff_of_true rfl trivial
theorem Operands.vst (k : CoreIx) : Operands.Statement (.vst k) := iff_of_true rfl trivial
theorem Operands.vst2 (k : CoreIx) : Operands.Statement (.vst2 k) := iff_of_true rfl trivial
theorem Operands.vst3 (k : CoreIx) : Operands.Statement (.vst3 k) := iff_of_true rfl trivial
theorem Operands.vst4 (k : CoreIx) : Operands.Statement (.vst4 k) := iff_of_true rfl trivial
theorem Operands.vadd (k : CoreIx) : Operands.Statement (.vadd k) := iff_of_true rfl trivial
theorem Operands.vsub (k : CoreIx) : Operands.Statement (.vsub k) := iff_of_true rfl trivial
theorem Operands.vmul (k : CoreIx) : Operands.Statement (.vmul k) := iff_of_true rfl trivial
theorem Operands.vfma (k : CoreIx) : Operands.Statement (.vfma k) := iff_of_true rfl trivial
theorem Operands.vfms (k : CoreIx) : Operands.Statement (.vfms k) := iff_of_true rfl trivial
theorem Operands.vmin (k : CoreIx) : Operands.Statement (.vmin k) := iff_of_true rfl trivial
theorem Operands.vmax (k : CoreIx) : Operands.Statement (.vmax k) := iff_of_true rfl trivial
theorem Operands.vdiv (k : CoreIx) : Operands.Statement (.vdiv k) := iff_of_true rfl trivial
theorem Operands.vsqrt (k : CoreIx) : Operands.Statement (.vsqrt k) := iff_of_true rfl trivial
theorem Operands.vabs (k : CoreIx) : Operands.Statement (.vabs k) := iff_of_true rfl trivial
theorem Operands.vneg (k : CoreIx) : Operands.Statement (.vneg k) := iff_of_true rfl trivial
theorem Operands.vcmpeq (k : CoreIx) : Operands.Statement (.vcmpeq k) := iff_of_true rfl trivial
theorem Operands.vcmplt (k : CoreIx) : Operands.Statement (.vcmplt k) := iff_of_true rfl trivial
theorem Operands.vcmple (k : CoreIx) : Operands.Statement (.vcmple k) := iff_of_true rfl trivial
theorem Operands.vand (k : CoreIx) : Operands.Statement (.vand k) := iff_of_true rfl trivial
theorem Operands.vor (k : CoreIx) : Operands.Statement (.vor k) := iff_of_true rfl trivial
theorem Operands.vxor (k : CoreIx) : Operands.Statement (.vxor k) := iff_of_true rfl trivial
theorem Operands.vshl (k : CoreIx) : Operands.Statement (.vshl k) := iff_of_true rfl trivial
theorem Operands.vshr (k : CoreIx) : Operands.Statement (.vshr k) := iff_of_true rfl trivial
theorem Operands.vqadd (k : CoreIx) : Operands.Statement (.vqadd k) := iff_of_true rfl trivial
theorem Operands.vqsub (k : CoreIx) : Operands.Statement (.vqsub k) := iff_of_true rfl trivial
theorem Operands.vqmul (k : CoreIx) : Operands.Statement (.vqmul k) := iff_of_true rfl trivial
theorem Operands.vqmac (k : CoreIx) : Operands.Statement (.vqmac k) := iff_of_true rfl trivial
theorem Operands.vqcvt (k : CoreIx) : Operands.Statement (.vqcvt k) := iff_of_true rfl trivial
theorem Operands.vcvt (k : CoreIx) : Operands.Statement (.vcvt k) := iff_of_true rfl trivial
theorem Operands.vrsum (k : CoreIx) : Operands.Statement (.vrsum k) := iff_of_true rfl trivial
theorem Operands.vldb (k : CoreIx) : Operands.Statement (.vldb k) := iff_of_true rfl trivial
theorem Operands.schedFact (h : HandIx) : Operands.Statement (.schedFact h) := iff_of_true rfl trivial
theorem Operands.schedUpd (h : HandIx) : Operands.Statement (.schedUpd h) := iff_of_true rfl trivial
theorem Operands.schedSend (h : HandIx) : Operands.Statement (.schedSend h) := iff_of_true rfl trivial
theorem Operands.schedRecv (h : HandIx) : Operands.Statement (.schedRecv h) := iff_of_true rfl trivial
theorem Operands.schedSync (h : HandIx) : Operands.Statement (.schedSync h) := iff_of_true rfl trivial
theorem Operands.schedEnd (h : HandIx) : Operands.Statement (.schedEnd h) := iff_of_true rfl trivial
theorem Operands.pivotDeadline (h : HandIx) (i : Fin 8) : Operands.Statement (.pivotDeadline h i) := iff_of_true rfl trivial
theorem Operands.allreduce (g : BitVec 8) (tag : BitVec 28) (pos : Fin 160) (tile : Nat) : Operands.Statement (.allreduce g tag pos tile) := iff_of_true rfl trivial
theorem Operands.reduceScatter (g : BitVec 8) (tag : BitVec 28) (pos : Fin 160) (tile : Nat) : Operands.Statement (.reduceScatter g tag pos tile) := iff_of_true rfl trivial
theorem Operands.allGather (g : BitVec 8) (tag : BitVec 28) (src tile : Nat) : Operands.Statement (.allGather g tag src tile) := by simp [Operands.Statement, Operands.Ranges, Instr.wf, CmdFrame.wf, Sensors.wf, and_assoc]
theorem Operands.broadcast (g : BitVec 8) (tag : BitVec 28) (dst tile : Nat) : Operands.Statement (.broadcast g tag dst tile) := by simp [Operands.Statement, Operands.Ranges, Instr.wf, CmdFrame.wf, Sensors.wf, and_assoc]
theorem Operands.allToAll (g : BitVec 8) (tag : BitVec 28) (src dst : Nat) : Operands.Statement (.allToAll g tag src dst) := by simp [Operands.Statement, Operands.Ranges, Instr.wf, CmdFrame.wf, Sensors.wf, and_assoc]
theorem Operands.collGather (g : BitVec 8) (tag : BitVec 28) (src : Nat) : Operands.Statement (.collGather g tag src) := by simp [Operands.Statement, Operands.Ranges, Instr.wf, CmdFrame.wf, Sensors.wf, and_assoc]
theorem Operands.barrier (g : BitVec 8) (tag : BitVec 28) : Operands.Statement (.barrier g tag) := iff_of_true rfl trivial
theorem Operands.shuffle (g : BitVec 8) (tag : BitVec 28) (entry : Nat) : Operands.Statement (.shuffle g tag entry) := iff_of_true rfl trivial
theorem Operands.fwBegin (f : CmdFrame) : Operands.Statement (.fwBegin f) := by simp [Operands.Statement, Operands.Ranges, Instr.wf, CmdFrame.wf, Sensors.wf, and_assoc]
theorem Operands.fwChunk (f : CmdFrame) : Operands.Statement (.fwChunk f) := by simp [Operands.Statement, Operands.Ranges, Instr.wf, CmdFrame.wf, Sensors.wf, and_assoc]
theorem Operands.fwCommit (f : CmdFrame) : Operands.Statement (.fwCommit f) := by simp [Operands.Statement, Operands.Ranges, Instr.wf, CmdFrame.wf, Sensors.wf, and_assoc]
theorem Operands.keyErase (f : CmdFrame) : Operands.Statement (.keyErase f) := by simp [Operands.Statement, Operands.Ranges, Instr.wf, CmdFrame.wf, Sensors.wf, and_assoc]
theorem Operands.policySet (f : CmdFrame) : Operands.Statement (.policySet f) := by simp [Operands.Statement, Operands.Ranges, Instr.wf, CmdFrame.wf, Sensors.wf, and_assoc]
theorem Operands.fence (f : CmdFrame) : Operands.Statement (.fence f) := by simp [Operands.Statement, Operands.Ranges, Instr.wf, CmdFrame.wf, Sensors.wf, and_assoc]
theorem Operands.unfence (f : CmdFrame) : Operands.Statement (.unfence f) := by simp [Operands.Statement, Operands.Ranges, Instr.wf, CmdFrame.wf, Sensors.wf, and_assoc]
theorem Operands.powerLimit (f : CmdFrame) : Operands.Statement (.powerLimit f) := by simp [Operands.Statement, Operands.Ranges, Instr.wf, CmdFrame.wf, Sensors.wf, and_assoc]
theorem Operands.jobStart (f : CmdFrame) : Operands.Statement (.jobStart f) := by simp [Operands.Statement, Operands.Ranges, Instr.wf, CmdFrame.wf, Sensors.wf, and_assoc]
theorem Operands.jobStop (f : CmdFrame) : Operands.Statement (.jobStop f) := by simp [Operands.Statement, Operands.Ranges, Instr.wf, CmdFrame.wf, Sensors.wf, and_assoc]
theorem Operands.attestationRequest (nonce : BitVec 256) : Operands.Statement (.attestationRequest nonce) := iff_of_true rfl trivial
theorem Operands.identityRequest : Operands.Statement (.identityRequest) := iff_of_true rfl trivial
theorem Operands.bypass : Operands.Statement (.bypass) := iff_of_true rfl trivial
theorem Operands.idcode : Operands.Statement (.idcode) := iff_of_true rfl trivial
theorem Operands.samplePreload : Operands.Statement (.samplePreload) := iff_of_true rfl trivial
theorem Operands.extest : Operands.Statement (.extest) := iff_of_true rfl trivial
theorem Operands.clamp : Operands.Statement (.clamp) := iff_of_true rfl trivial
theorem Operands.highz : Operands.Statement (.highz) := iff_of_true rfl trivial
theorem Operands.i3cDynamicAddress (setdasa : Bool) (static addr : BitVec 7) : Operands.Statement (.i3cDynamicAddress setdasa static addr) := iff_of_true rfl trivial
theorem Operands.i3cRead (off len : Nat) : Operands.Statement (.i3cRead off len) := iff_of_true rfl trivial
theorem Operands.bellRing (v : W32) : Operands.Statement (.bellRing v) := iff_of_true rfl trivial
theorem Operands.bellResume (reeve : Bool) (v : W32) : Operands.Statement (.bellResume reeve v) := iff_of_true rfl trivial
theorem Operands.apply (s : SuitIx) (reeve : Bool) : Operands.Statement (.apply s reeve) := iff_of_true rfl trivial
theorem Operands.tableCopy (s : SuitIx) : Operands.Statement (.tableCopy s) := iff_of_true rfl trivial
theorem Operands.cfgRefWrite (addr : Nat) (v : W32) : Operands.Statement (.cfgRefWrite addr v) := iff_of_true rfl trivial
theorem Operands.dbgDataRead (addr : Nat) : Operands.Statement (.dbgDataRead addr) := iff_of_true rfl trivial
theorem Operands.xlqWrite (s : SuitIx) (v : W32) : Operands.Statement (.xlqWrite s v) := iff_of_true rfl trivial
theorem Operands.faultTailWrite (v : W32) : Operands.Statement (.faultTailWrite v) := iff_of_true rfl trivial
theorem Operands.clear (addr : Nat) : Operands.Statement (.clear addr) := iff_of_true rfl trivial
theorem Operands.registerWrite (reeve : Bool) (addr width : Nat) (v : W32) : Operands.Statement (.registerWrite reeve addr width v) := iff_of_true rfl trivial
theorem Operands.startPacket (u : Fin 648) : Operands.Statement (.startPacket u) := iff_of_true rfl trivial
theorem Operands.streamFetch (u : Fin 648) : Operands.Statement (.streamFetch u) := iff_of_true rfl trivial
theorem Operands.recordDispatch (h : HandIx) : Operands.Statement (.recordDispatch h) := iff_of_true rfl trivial
theorem Operands.resumePacket (h : HandIx) : Operands.Statement (.resumePacket h) := iff_of_true rfl trivial
theorem Operands.detour (h : HandIx) : Operands.Statement (.detour h) := iff_of_true rfl trivial
theorem Operands.commandCommit (ep : BitVec 16) (station : BitVec 4) (diverged : Bool) : Operands.Statement (.commandCommit ep station diverged) := iff_of_true rfl trivial
theorem Operands.tileCheck (k : CoreIx) (station opd : Nat) (corrupt : Bool) : Operands.Statement (.tileCheck k station opd corrupt) := iff_of_true rfl trivial
theorem Operands.creditReturn (k : CoreIx) (port : Nat) : Operands.Statement (.creditReturn k port) := iff_of_true rfl trivial
theorem Operands.p8Credit (i : Nat) : Operands.Statement (.p8Credit i) := iff_of_true rfl trivial
theorem Operands.p8Recall (i : Nat) : Operands.Statement (.p8Recall i) := iff_of_true rfl trivial
theorem Operands.p8TileReceive (i : Nat) : Operands.Statement (.p8TileReceive i) := iff_of_true rfl trivial
theorem Operands.signalReceive (manor : Bool) (dest : BitVec 16) (ctr : BitVec 6) (amt : BitVec 8) : Operands.Statement (.signalReceive manor dest ctr amt) := iff_of_true rfl trivial
theorem Operands.mirrorSend (h : HandIx) (b : Fin 8) : Operands.Statement (.mirrorSend h b) := iff_of_true rfl trivial
theorem Operands.mirrorUpdate (m : MillIx) (mirror : BitVec 5) : Operands.Statement (.mirrorUpdate m mirror) := iff_of_true rfl trivial
theorem Operands.bufferClaim (m : MillIx) : Operands.Statement (.bufferClaim m) := iff_of_true rfl trivial
theorem Operands.handDone (h : HandIx) : Operands.Statement (.handDone h) := iff_of_true rfl trivial
theorem Operands.millDone (m : MillIx) : Operands.Statement (.millDone m) := iff_of_true rfl trivial
theorem Operands.stall (h : HandIx) (fail : Nat) : Operands.Statement (.stall h fail) := by simp [Operands.Statement, Operands.Ranges, Instr.wf, CmdFrame.wf, Sensors.wf, and_assoc]
theorem Operands.gapFillEnd (k : CoreIx) : Operands.Statement (.gapFillEnd k) := iff_of_true rfl trivial
theorem Operands.dutyStep (k : CoreIx) : Operands.Statement (.dutyStep k) := iff_of_true rfl trivial
theorem Operands.nap (k : CoreIx) : Operands.Statement (.nap k) := iff_of_true rfl trivial
theorem Operands.wakeEnd (k : CoreIx) : Operands.Statement (.wakeEnd k) := iff_of_true rfl trivial
theorem Operands.memoryRead (ep : BitVec 16) (va len : Nat) (tid : BitVec 24) (ecc sev : Nat) (hard : Bool) : Operands.Statement (.memoryRead ep va len tid ecc sev hard) := by simp [Operands.Statement, Operands.Ranges, Instr.wf, CmdFrame.wf, Sensors.wf, and_assoc]
theorem Operands.memoryWrite (ep : BitVec 16) (va : Nat) (data : List Byte) : Operands.Statement (.memoryWrite ep va data) := by simp [Operands.Statement, Operands.Ranges, Instr.wf, CmdFrame.wf, Sensors.wf, and_assoc]
theorem Operands.atomic (ep : BitVec 16) (va op ty : Nat) (v cmp : BitVec 64) : Operands.Statement (.atomic ep va op ty v cmp) := by simp [Operands.Statement, Operands.Ranges, Instr.wf, CmdFrame.wf, Sensors.wf, and_assoc]
theorem Operands.prefetchIssue (s : SuitIx) (det : Nat) (arrived : Bool) : Operands.Statement (.prefetchIssue s det arrived) := iff_of_true rfl trivial
theorem Operands.patrolRead (s : SuitIx) (pc : Fin 64) (sector ecc sev : Nat) (hard : Bool) : Operands.Statement (.patrolRead s pc sector ecc sev hard) := by simp [Operands.Statement, Operands.Ranges, Instr.wf, CmdFrame.wf, Sensors.wf, and_assoc]
theorem Operands.mapOut (s : SuitIx) (pc : Fin 64) (reason : Nat) : Operands.Statement (.mapOut s pc reason) := by simp [Operands.Statement, Operands.Ranges, Instr.wf, CmdFrame.wf, Sensors.wf, and_assoc]
theorem Operands.ddrReadUe (ch : Fin 2) (addr : Nat) (dma : Bool) : Operands.Statement (.ddrReadUe ch addr dma) := by simp [Operands.Statement, Operands.Ranges, Instr.wf, CmdFrame.wf, Sensors.wf, and_assoc]
theorem Operands.ddrPatrol (ch : Fin 2) (addr ecc : Nat) : Operands.Statement (.ddrPatrol ch addr ecc) := by simp [Operands.Statement, Operands.Ranges, Instr.wf, CmdFrame.wf, Sensors.wf, and_assoc]
theorem Operands.apertureAccess (op addr len : Nat) (v cmp : BitVec 64) : Operands.Statement (.apertureAccess op addr len v cmp) := iff_of_true rfl trivial
theorem Operands.dmaTransfer (src dst n : Nat) : Operands.Statement (.dmaTransfer src dst n) := iff_of_true rfl trivial
theorem Operands.pcieInbound (port : Fin 2) (write : Bool) (addr len : Nat) (v : BitVec 64) : Operands.Statement (.pcieInbound port write addr len v) := iff_of_true rfl trivial
theorem Operands.packetForward (i : Nat) : Operands.Statement (.packetForward i) := iff_of_true rfl trivial
theorem Operands.packetReceive (i : Nat) : Operands.Statement (.packetReceive i) := iff_of_true rfl trivial
theorem Operands.pruneNotice (i : Nat) : Operands.Statement (.pruneNotice i) := iff_of_true rfl trivial
theorem Operands.linkReplay (b : BridgeIx) (manor sent : Bool) : Operands.Statement (.linkReplay b manor sent) := iff_of_true rfl trivial
theorem Operands.linkRetryExhausted (b : BridgeIx) (manor sent oneLane : Bool) (lgroup lane : Nat) : Operands.Statement (.linkRetryExhausted b manor sent oneLane lgroup lane) := by simp [Operands.Statement, Operands.Ranges, Instr.wf, CmdFrame.wf, Sensors.wf, and_assoc]
theorem Operands.residueMismatch (b : BridgeIx) (lane slot : Nat) (g : BitVec 8) (tag : BitVec 28) (retryOk : Bool) : Operands.Statement (.residueMismatch b lane slot g tag retryOk) := by simp [Operands.Statement, Operands.Ranges, Instr.wf, CmdFrame.wf, Sensors.wf, and_assoc]
theorem Operands.collJoin (i : Nat) : Operands.Statement (.collJoin i) := iff_of_true rfl trivial
theorem Operands.collAdmit (g : BitVec 8) (tag : BitVec 28) : Operands.Statement (.collAdmit g tag) := iff_of_true rfl trivial
theorem Operands.admitTimeout (g : BitVec 8) (tag : BitVec 28) : Operands.Statement (.admitTimeout g tag) := iff_of_true rfl trivial
theorem Operands.collTimeout (g : BitVec 8) (tag : BitVec 28) (h : HandIx) : Operands.Statement (.collTimeout g tag h) := iff_of_true rfl trivial
theorem Operands.collComplete (g : BitVec 8) (tag : BitVec 28) : Operands.Statement (.collComplete g tag) := iff_of_true rfl trivial
theorem Operands.stopMarker (u : UnitIx) : Operands.Statement (.stopMarker u) := iff_of_true rfl trivial
theorem Operands.unitStop (u : UnitIx) : Operands.Statement (.unitStop u) := iff_of_true rfl trivial
theorem Operands.cutComplete : Operands.Statement (.cutComplete) := iff_of_true rfl trivial
theorem Operands.cutLate : Operands.Statement (.cutLate) := iff_of_true rfl trivial
theorem Operands.unitStopTimeout (u : UnitIx) : Operands.Statement (.unitStopTimeout u) := iff_of_true rfl trivial
theorem Operands.faultRecord (r : ReeveIx) : Operands.Statement (.faultRecord r) := iff_of_true rfl trivial
theorem Operands.heartbeat (r : ReeveIx) : Operands.Statement (.heartbeat r) := iff_of_true rfl trivial
theorem Operands.reeveLost (r : ReeveIx) : Operands.Statement (.reeveLost r) := iff_of_true rfl trivial
theorem Operands.watchdogExpiry (r : ReeveIx) : Operands.Statement (.watchdogExpiry r) := iff_of_true rfl trivial
theorem Operands.coreSwap (k : CoreIx) (cause : Nat) (kittyOk : Bool) : Operands.Statement (.coreSwap k cause kittyOk) := by simp [Operands.Statement, Operands.Ranges, Instr.wf, CmdFrame.wf, Sensors.wf, and_assoc]
theorem Operands.handReplay (h : HandIx) (epochSlot : Bool) : Operands.Statement (.handReplay h epochSlot) := iff_of_true rfl trivial
theorem Operands.sectorRebuild (addr : Nat) (data : BitVec 256) : Operands.Statement (.sectorRebuild addr data) := by simp [Operands.Statement, Operands.Ranges, Instr.wf, CmdFrame.wf, Sensors.wf, and_assoc]
theorem Operands.handFold (h : HandIx) (cause : Nat) : Operands.Statement (.handFold h cause) := by simp [Operands.Statement, Operands.Ranges, Instr.wf, CmdFrame.wf, Sensors.wf, and_assoc]
theorem Operands.suitFold (s : SuitIx) (cause : Nat) : Operands.Statement (.suitFold s cause) := by simp [Operands.Statement, Operands.Ranges, Instr.wf, CmdFrame.wf, Sensors.wf, and_assoc]
theorem Operands.variantSwitch (rootVa : Nat) (resume : List (Nat × List Nat)) : Operands.Statement (.variantSwitch rootVa resume) := iff_of_true rfl trivial
theorem Operands.stepRollForward : Operands.Statement (.stepRollForward) := iff_of_true rfl trivial
theorem Operands.suitRejoin (s : SuitIx) : Operands.Statement (.suitRejoin s) := iff_of_true rfl trivial
theorem Operands.bridgeRetrain (b : BridgeIx) (manor ok : Bool) : Operands.Statement (.bridgeRetrain b manor ok) := iff_of_true rfl trivial
theorem Operands.scrub : Operands.Statement (.scrub) := iff_of_true rfl trivial
theorem Operands.checkpoint (linksUp : Bool) : Operands.Statement (.checkpoint linksUp) := iff_of_true rfl trivial
theorem Operands.checkpointTimeout : Operands.Statement (.checkpointTimeout) := iff_of_true rfl trivial
theorem Operands.releaseBoundaryTimeout : Operands.Statement (.releaseBoundaryTimeout) := iff_of_true rfl trivial
theorem Operands.releaseRequest (byLatch : Bool) : Operands.Statement (.releaseRequest byLatch) := iff_of_true rfl trivial
theorem Operands.releaseHoldRestart : Operands.Statement (.releaseHoldRestart) := iff_of_true rfl trivial
theorem Operands.cfgScan : Operands.Statement (.cfgScan) := iff_of_true rfl trivial
theorem Operands.cfgScanEnd (block : Nat) : Operands.Statement (.cfgScanEnd block) := iff_of_true rfl trivial
theorem Operands.graceEnd (block : Nat) : Operands.Statement (.graceEnd block) := iff_of_true rfl trivial
theorem Operands.traceDrain (u : Fin 648) : Operands.Statement (.traceDrain u) := iff_of_true rfl trivial
theorem Operands.powerOn : Operands.Statement (.powerOn) := iff_of_true rfl trivial
theorem Operands.startUpStepEnd (r : StepResult) : Operands.Statement (.startUpStepEnd r) := by simp [Operands.Statement, Operands.Ranges, Instr.wf, CmdFrame.wf, Sensors.wf, and_assoc]
theorem Operands.startUpStepLimit : Operands.Statement (.startUpStepLimit) := iff_of_true rfl trivial
theorem Operands.referenceTimeout : Operands.Statement (.referenceTimeout) := iff_of_true rfl trivial
theorem Operands.referenceLoss : Operands.Statement (.referenceLoss) := iff_of_true rfl trivial
theorem Operands.referenceReturn : Operands.Statement (.referenceReturn) := iff_of_true rfl trivial
theorem Operands.stopN (low : Bool) : Operands.Statement (.stopN low) := iff_of_true rfl trivial
theorem Operands.powerFail : Operands.Statement (.powerFail) := iff_of_true rfl trivial
theorem Operands.overVoltage : Operands.Statement (.overVoltage) := iff_of_true rfl trivial
theorem Operands.vinLow : Operands.Statement (.vinLow) := iff_of_true rfl trivial
theorem Operands.enLow (high : Bool) : Operands.Statement (.enLow high) := iff_of_true rfl trivial
theorem Operands.governorFast (p : Nat) : Operands.Statement (.governorFast p) := iff_of_true rfl trivial
theorem Operands.governorTick (a : Nat) (hot near : List Nat) : Operands.Statement (.governorTick a hot near) := by simp [Operands.Statement, Operands.Ranges, Instr.wf, CmdFrame.wf, Sensors.wf, and_assoc]
theorem Operands.floor (s : SuitIx) : Operands.Statement (.floor s) := iff_of_true rfl trivial
theorem Operands.throttle (kind : Fin 4) (s : SuitIx) : Operands.Statement (.throttle kind s) := iff_of_true rfl trivial
theorem Operands.trip (kind : Fin 2) (s : SuitIx) : Operands.Statement (.trip kind s) := iff_of_true rfl trivial
theorem Operands.sensorTrip (sensor : Fin 5) (level : Fin 4) (value : W32) : Operands.Statement (.sensorTrip sensor level value) := iff_of_true rfl trivial
theorem Operands.keyRotation : Operands.Statement (.keyRotation) := iff_of_true rfl trivial
theorem Operands.pcieLinkChange (link : Fin 4) (up dpc : Bool) (width rate : BitVec 4) : Operands.Statement (.pcieLinkChange link up dpc width rate) := iff_of_true rfl trivial
theorem Operands.mgmtLinkChange (up : Bool) (phy fec : BitVec 2) : Operands.Statement (.mgmtLinkChange up phy fec) := iff_of_true rfl trivial
theorem Operands.housekeepingEdge (r : Sensors) : Operands.Statement (.housekeepingEdge r) := by simp [Operands.Statement, Operands.Ranges, Instr.wf, CmdFrame.wf, Sensors.wf, and_assoc]
theorem Operands.faultLog : Operands.Statement (.faultLog) := iff_of_true rfl trivial
theorem Operands.statusRead (addr : Nat) : Operands.Statement (.statusRead addr) := iff_of_true rfl trivial

end Sys2Proof.Laws
end

