-- ==== Sys2Proof/Laws/Tile.lean ====
section
/-! SUPPORT. A tile that a station seals carries the CRC of its payload and the HCHK of its header, keeps the fields it
was given, and passes every check (R43 to R52). -/

namespace Sys2Proof.Machine

set_option Elab.async false

theorem crc16Bits_lt (n : Nat) : ∀ c < 65536, crc16Bits n c < 65536 := by
  induction n with
  | zero => exact fun c h => h
  | succ n ih =>
    intro c _
    simp only [crc16Bits]
    split_ifs <;> exact ih _ (Nat.mod_lt _ (by decide))

theorem crc16_lt (b : List (BitVec 8)) : crc16 b < 65536 := by
  suffices h : ∀ (b : List (BitVec 8)) c, c < 65536 → b.foldl (fun c x => crc16Bits 8 (c ^^^ (x.toNat <<< 8))) c < 65536 from
    h b _ (by decide)
  intro b
  induction b with
  | nil => exact fun c h => h
  | cons x b ih =>
    intro c h
    refine ih _ (crc16Bits_lt 8 _ ?_)
    have hx : x.toNat <<< 8 < 2 ^ 16 := by have := x.isLt; rw [Nat.shiftLeft_eq]; omega
    exact Nat.xor_lt_two_pow (n := 16) h hx

theorem crc32cBits_lt (n : Nat) : ∀ c < 2 ^ 32, crc32cBits n c < 2 ^ 32 := by
  induction n with
  | zero => exact fun c h => h
  | succ n ih =>
    intro c h
    simp only [crc32cBits]
    have h2 : c >>> 1 < 2 ^ 32 := by rw [Nat.shiftRight_eq_div_pow]; omega
    split_ifs
    · exact ih _ (Nat.xor_lt_two_pow h2 (by decide))
    · exact ih _ h2

theorem crc32c_lt (b : List (BitVec 8)) : crc32c b < 2 ^ 32 := by
  suffices h : ∀ (b : List (BitVec 8)) c, c < 2 ^ 32 → b.foldl (fun c x => crc32cBits 8 (c ^^^ x.toNat)) c < 2 ^ 32 from
    Nat.xor_lt_two_pow (h b _ (by decide)) (by decide)
  intro b
  induction b with
  | nil => exact fun c h => h
  | cons x b ih =>
    intro c h
    exact ih _ (crc32cBits_lt 8 _ (Nat.xor_lt_two_pow h (lt_trans x.isLt (by decide))))

/-- A sealed header as a number: 128 low bits, the CRC, and HCHK above them. -/
theorem sealHdr_toNat (low crc : Nat) :
    (sealHdr low crc).toNat = low % 2 ^ 128 + crc % 2 ^ 32 * 2 ^ 128 +
      hchkOf (low % 2 ^ 128 + (crc % 2 ^ 32) <<< 128) * 2 ^ 240 := by
  have h := crc16_lt (toBytes 30 (low % 2 ^ 128 + (crc % 2 ^ 32) <<< 128))
  unfold sealHdr hchkOf
  simp only [BitVec.toNat_ofNat]
  rw [Nat.shiftLeft_eq, Nat.shiftLeft_eq] at *
  omega

theorem seal_low (low crc lo w : Nat) (h : lo + w ≤ 128) : bits (sealHdr low crc).toNat lo w = bits low lo w := by
  rw [← bits_low _ _ _ 128 h, ← bits_low low _ _ 128 h, sealHdr_toNat]
  congr 1
  omega

theorem seal_crc (low crc : Nat) : bits (sealHdr low crc).toNat 128 32 = crc % 2 ^ 32 := by
  rw [sealHdr_toNat, bits, Nat.shiftRight_eq_div_pow]
  omega

theorem seal_below (low crc : Nat) :
    (sealHdr low crc).toNat % 2 ^ 240 = low % 2 ^ 128 + (crc % 2 ^ 32) <<< 128 := by
  rw [sealHdr_toNat, Nat.shiftLeft_eq]
  omega

theorem seal_hchk (low crc : Nat) :
    bits (sealHdr low crc).toNat 240 16 = hchkOf ((sealHdr low crc).toNat % 2 ^ 240) := by
  have h := crc16_lt (toBytes 30 (low % 2 ^ 128 + (crc % 2 ^ 32) <<< 128))
  rw [seal_below]
  rw [sealHdr_toNat, bits, Nat.shiftRight_eq_div_pow]
  unfold hchkOf
  rw [Nat.shiftLeft_eq] at *
  omega

/-- A sealed header has the fields of the 128 bits it was sealed with. -/
theorem seal_head (low crc : Nat) : Head.ofBits (sealHdr low crc) = Head.ofBits (BitVec.ofNat 256 (low % 2 ^ 128)) := by
  have e : ∀ lo w, lo + w ≤ 128 → bits (BitVec.ofNat 256 (low % 2 ^ 128)).toNat lo w = bits low lo w := by
    intro lo w h
    rw [BitVec.toNat_ofNat, Nat.mod_eq_of_lt (by omega), bits_low _ _ _ _ h]
  simp only [Head.ofBits, bit, seal_low, e, Nat.reduceAdd, Nat.reduceLeDiff]

/-- A tile that a station seals, with header fields that obey R47 to R49, passes the checks of every command that expects
its tensor, place and format. -/
theorem seal_checks (h : Head) (pay : BitVec 32768) (x : Expect) (ok : (Tile.seal h pay).head.ok = true)
    (m : x.meets (Tile.seal h pay).head = true) :
    checkTile (Tile.seal h pay) x 256 (fun _ => none) false = .good (Tile.seal h pay) := by
  have hs : (Tile.seal h pay).headSound = true := by
    simp only [Tile.headSound, ok, Bool.and_true, beq_iff_eq]
    exact seal_hchk _ _
  have hc : (Tile.seal h pay).crc = crc32c (toBytes 4096 (Tile.seal h pay).pay.toNat) :=
    (seal_crc _ _).trans (Nat.mod_eq_of_lt (crc32c_lt _))
  simp [checkTile, hs, m, hc]

/-- The header fields of a sealed tile. -/
theorem seal_tile_head (h : Head) (pay : BitVec 32768) :
    (Tile.seal h pay).head = Head.ofBits (BitVec.ofNat 256 (h.word % 2 ^ 128)) := seal_head _ _

end Sys2Proof.Machine
end

