-- ==== Sys2Proof/Laws/Translate.lean ====
section
/-! SUPPORT. What accesses to HBM do to translation: it depends on the page tables, on where errors lie and on which suits are
there; a store outside the tables leaves every walk as it was (R299 to R303). -/

namespace Sys2Proof

set_option Elab.async false

open Machine

/-- Physical address of the root page table (R299). -/
def Machine.State.rootPa (s : State) : Nat := s.field Reg.mmuRoot 12 20 * 4096 + s.field (Reg.mmuRoot + 4) 0 8 * 2 ^ 32

/-- The three table words that a walk reads lie below a bound. -/
def Machine.State.walkBelow (s : State) (va lim : Nat) : Prop :=
  let e1 := Memory.read s.mem (s.rootPa + bits va 42 6 * 8) 8
  let e2 := Memory.read s.mem (bits e1 16 24 * 65536 + bits va 29 13 * 8) 8
  s.rootPa + bits va 42 6 * 8 + 8 ≤ lim ∧ bits e1 16 24 * 65536 + bits va 29 13 * 8 + 8 ≤ lim ∧
    bits e2 16 24 * 65536 + bits va 16 13 * 8 + 8 ≤ lim

/-- Two states with the same root and the same memory below a bound read the same table words. -/
theorem walkAt_congr (s t : State) (va lim : Nat) (r : t.reg Reg.mmuRoot = s.reg Reg.mmuRoot)
    (r' : t.reg (Reg.mmuRoot + 4) = s.reg (Reg.mmuRoot + 4)) (b : s.walkBelow va lim)
    (m : ∀ a < lim, Memory.byte t.mem a = Memory.byte s.mem a) : t.walkAt va = s.walkAt va := by
  obtain ⟨b1, b2, _⟩ := b
  have q : ∀ a, a + 8 ≤ lim → Memory.read t.mem a 8 = Memory.read s.mem a 8 := fun a h =>
    Memory.read_congr a 8 fun y _ hy => m y (by omega)
  unfold State.rootPa State.field at b1 b2
  unfold State.walkAt State.field
  dsimp only
  rw [r, r', q _ b1, q _ b2]

/-- Two states with the same root and the same memory below a bound walk an address alike. -/
theorem walk_congr (s t : State) (va lim : Nat) (r : t.reg Reg.mmuRoot = s.reg Reg.mmuRoot)
    (r' : t.reg (Reg.mmuRoot + 4) = s.reg (Reg.mmuRoot + 4)) (b : s.walkBelow va lim)
    (m : ∀ a < lim, Memory.byte t.mem a = Memory.byte s.mem a) : t.walk va = s.walk va := by
  have e := walkAt_congr s t va lim r r' b m
  obtain ⟨b1, b2, b3⟩ := b
  have q : ∀ a, a + 8 ≤ lim → Memory.read t.mem a 8 = Memory.read s.mem a 8 := fun a h =>
    Memory.read_congr a 8 fun y _ hy => m y (by omega)
  unfold State.rootPa State.field at b3
  have e3 : ∀ a b c, s.walkAt va = [a, b, c] → Memory.read t.mem c 8 = Memory.read s.mem c 8 := by
    intro a b c h
    unfold State.walkAt State.field at h
    dsimp only at h
    split_ifs at h
    · simp at h
    · simp at h
    · simp only [List.cons.injEq, and_true] at h
      rw [← h.2.2]
      exact q _ b3
  unfold State.walk
  rw [e]
  split
  · rename_i h
    rw [e3 _ _ _ h]
  · rfl

/-- The page-table root is no register that an access to HBM changes. -/
theorem granReg_root (a : Nat) (h : a < 0x10000000) : ¬ GranReg a := by
  rintro ⟨i, h' | ⟨n, _, h'⟩⟩
  · simp only [Reg.pfUsed, Reg.pfOnTime, Reg.pfLate, suitBase, List.mem_cons, List.not_mem_nil, or_false] at h'
    omega
  · simp only [Reg.hbmPc, suitBase] at h'
    omega

/-- Reads leave every walk as it was. -/
theorem Demand.walk {s t : State} (d : Demand s t) (va : Nat) : t.walk va = s.walk va := by
  have r := d.1 Reg.mmuRoot (granReg_root _ (by decide))
  have r' := d.1 (Reg.mmuRoot + 4) (granReg_root _ (by decide))
  unfold State.walk State.walkAt State.field
  dsimp only
  rw [r, r', d.mem]

/-- A store at or above a bound leaves walks below it alone. -/
theorem walk_storePa (s : State) (tid pa n v va lim : Nat) (w : Memory.wf s.mem = true) (b : s.walkBelow va lim) (h : lim ≤ pa) :
    (s.storePa tid pa n v).walk va = s.walk va := by
  obtain ⟨u, d, e⟩ := storePa_eq s tid pa n v
  have r := d.1 Reg.mmuRoot (granReg_root _ (by decide))
  have r' := d.1 (Reg.mmuRoot + 4) (granReg_root _ (by decide))
  rw [e]
  exact walk_congr s _ va lim r r' b fun a ha => Memory.byte_write_other pa n v a w (.inl (by omega))

/-- Demand accesses after a write of bytes are demand accesses before it. -/
theorem Demand.of_write {b t : State} {m : List Host.Cell} (f : Demand { b with mem := m } t) :
    ∃ u, Demand b u ∧ t = { u with mem := m } := by
  have e : t.mem = m := f.mem
  refine ⟨{ t with mem := b.mem }, ⟨f.1, f.2.1, f.2.2.1, congrArg (fun x : State => { x with mem := b.mem }) f.2.2.2⟩, ?_⟩
  subst e
  rfl

/-- A unit's write without a partner copy: the bytes, after what a demand access does. -/
theorem storeVa_eq (s : State) (unit tid va pa n v : Nat) :
    ∃ u, Demand s u ∧ s.storeVa unit tid va pa false n v = { u with mem := Memory.write s.mem pa n v } := by
  have w := demand_walkLines s unit va
  obtain ⟨b, d, e⟩ := storePa_eq (s.walkLines unit va) tid pa n v
  have f := Demand.foldl (fun (s : State) l => s.trainOn (pa / 2 ^ 38) tid l (pa / 65536 * 65536))
    (fun s l => demand_trainOn s _ tid l _) (linesIn va n) { b with mem := Memory.write (s.walkLines unit va).mem pa n v }
  have x : s.storeVa unit tid va pa false n v = (linesIn va n).foldl (fun (s : State) l => s.trainOn (pa / 2 ^ 38) tid l
      (pa / 65536 * 65536)) { b with mem := Memory.write (s.walkLines unit va).mem pa n v } := by
    unfold State.storeVa State.storeHome
    simp only [e, Bool.false_eq_true, if_false]
  obtain ⟨u, g, y⟩ := f.of_write
  exact ⟨u, (w.trans d).trans g, w.mem ▸ x.trans y⟩

/-- The lines of a unit's write as it meets them: page tables and lines of the bytes. -/
def Machine.State.metBy (s : State) (unit tid va pa n : Nat) : State :=
  (linesIn pa n).foldl (fun (s : State) l => s.writeLine (pa / 2 ^ 38) l pa n tid) (s.walkLines unit va)

/-- Training a detector finds and clears no poison. -/
@[simp] theorem Machine.State.poisonFree_trainOn (s : State) (j tid v f i : Nat) :
    (s.trainOn j tid v f).poisonFree i = s.poisonFree i := by
  unfold State.trainOn
  split_ifs
  · rfl
  · unfold State.poisonFree
    rw [State.suit_setSuit]
    split_ifs with h
    · subst h; rfl
    · rfl

/-- Whether a suit holds poison after a write is settled by the lines that it meets. -/
theorem poisonFree_storeVa (s : State) (unit tid va pa n v i : Nat) :
    (s.storeVa unit tid va pa false n v).poisonFree i = (s.metBy unit tid va pa n).poisonFree i := by
  have f : ∀ (l : List Nat) (x : State), (l.foldl (fun (s : State) l => s.trainOn (pa / 2 ^ 38) tid l (pa / 65536 * 65536)) x).poisonFree i =
      x.poisonFree i := by
    intro l
    induction l with
    | nil => intro x; rfl
    | cons y l ih => intro x; rw [List.foldl_cons, ih, State.poisonFree_trainOn]
  exact f _ _

/-- A write at or above a bound, which meets no poison where the page tables lie, leaves translation by tables below it as it
was. -/
theorem translate_storeVa (s : State) (unit tid va pa n v va' lim : Nat) (a : Acc) (w : Memory.wf s.mem = true)
    (b : s.walkBelow va' lim) (h : lim ≤ pa) (clear : s.walkBad va' = false)
    (free : (s.walkAt va').all (fun x => (s.metBy unit tid va pa n).poisonFree (x / 2 ^ 38)) = true) :
    (s.storeVa unit tid va pa false n v).translate va' a = s.translate va' a := by
  have free' : (s.walkAt va').any (fun x => (s.storeVa unit tid va pa false n v).poisonIn x 8) = false := by
    rw [List.any_eq_false]
    intro x hx
    rw [List.all_eq_true] at free
    rw [State.poisonIn, poisonFree_storeVa, free x hx]
    simp
  obtain ⟨u, d, e⟩ := storeVa_eq s unit tid va pa n v
  rw [e] at free' ⊢
  have r := d.1 Reg.mmuRoot (granReg_root _ (by decide))
  have r' := d.1 (Reg.mmuRoot + 4) (granReg_root _ (by decide))
  have m : ∀ a < lim, Memory.byte (Memory.write s.mem pa n v) a = Memory.byte s.mem a := fun a ha =>
    Memory.byte_write_other pa n v a w (.inl (by omega))
  have k : ∀ i, ({ u with mem := Memory.write s.mem pa n v } : State).capBytes i = s.capBytes i := by
    intro i
    obtain ⟨_, _, _, x⟩ := d.2.1 i
    have y : ({ u with mem := Memory.write s.mem pa n v } : State).part = s.part := by
      show u.part = s.part
      rw [d.2.2.2]
    have z : ({ u with mem := Memory.write s.mem pa n v } : State).suit i = u.suit i := rfl
    have q : ({ u with mem := Memory.write s.mem pa n v } : State).suitDark i = s.suitDark i := by
      unfold State.suitDark State.fusedIn
      rw [d.2.2.2]
    unfold State.capBytes State.capMB
    rw [q, z, x, y]
  have p : ∀ i, ({ u with mem := Memory.write s.mem pa n v } : State).partnerOk i = s.partnerOk i := by
    intro i
    unfold State.partnerOk State.fusedIn
    rw [d.2.2.2]
  have wb : ({ u with mem := Memory.write s.mem pa n v } : State).walkBad va' = s.walkBad va' := by
    rw [clear]
    unfold State.walkBad
    rw [walkAt_congr s { u with mem := Memory.write s.mem pa n v } va' lim r r' b m, free']
  unfold State.translate
  rw [wb, walk_congr s { u with mem := Memory.write s.mem pa n v } va' lim r r' b m]
  simp only [k, p]

/-- A tile is written where both its places may be written, and the header's write leaves the payload's place as it was. -/
theorem writeTile_ok (s : State) (unit tid hva pva hpa ppa : Nat) (p : Bool) (t : Tile)
    (th : s.translate hva .write = .ok hpa false) (tp : s.translate pva .write = .ok ppa p)
    (tq : (s.storeVa unit tid hva hpa false 32 t.hdr.toNat).translate pva .write = .ok ppa p) :
    s.writeTile unit tid hva pva t = .ok ((s.storeVa unit tid hva hpa false 32 t.hdr.toNat).storeVa unit tid pva ppa p
      (min 4096 t.head.bytes) t.pay.toNat) := by
  simp only [State.writeTile, State.accFault, th, tp, orFault, State.vwrite, tq]

end Sys2Proof
end

