-- ==== Sys2Proof/Tests/Slice0.lean ====
section
/-! SUPPORT. Tests: the operand ranges, small commands with results taken from the manual, and, for every statement with
premises, states and operands that meet them together. -/

namespace Sys2Proof.Tests

open Machine

set_option Elab.async false

/-! ## Operand ranges and the decoder -/

/-- A frame whose body is one byte too long (R504). -/
def longFrame : CmdFrame := ⟨true, 1, 2, 0, List.replicate 8197 0⟩
def goodSensors : Sensors := ⟨0, 0, 0, 0, 0, [0, 0, 0, 0], [0, 0, 0, 0], [0, 0, 0, 0]⟩
def shortSensors : Sensors := ⟨0, 0, 0, 0, 0, [0, 0, 0], [0, 0, 0, 0], [0, 0, 0, 0]⟩

theorem test_wf_frame_refused : (longFrame.wf = false) ∧ (Instr.fence longFrame).wf = false := by decide +kernel
theorem test_wf_frames_refused :
    [Instr.fwBegin longFrame, .fwChunk longFrame, .fwCommit longFrame, .keyErase longFrame, .policySet longFrame,
      .unfence longFrame, .powerLimit longFrame, .jobStart longFrame, .jobStop longFrame].all (fun i => !i.wf) = true := by
  decide +kernel
/-- One ill-formed command for each check of WellFormed, all refused. -/
theorem test_wf_ranges_refused :
    [Instr.epoch 0 7 0, .epoch 0 0 3, .step 0 3, .allToAll 0 0 640 0, .allToAll 0 0 0 640, .allGather 0 0 640 0,
      .broadcast 0 0 640 0, .collGather 0 0 640, .handFold 0 4, .suitFold 0 6, .coreSwap 0 4 0, .stall 0 3,
      .housekeepingEdge shortSensors, .governorTick 0 [4] [], .governorTick 0 [] [4],
      .startUpStepEnd ⟨4, [], [], true, [], []⟩, .sectorRebuild 281474976710656 0,
      .sectorRebuild 8 0].all (fun i => !i.wf) = true := by decide
/-- The same commands at the last values of their ranges are well formed. -/
theorem test_wf_ranges_accepted :
    [Instr.epoch 0 6 2, .step 0 2, .allToAll 0 0 639 639, .allGather 0 0 639 0, .broadcast 0 0 639 0, .collGather 0 0 639,
      .handFold 0 3, .suitFold 0 5, .coreSwap 0 3 0, .stall 0 2, .housekeepingEdge goodSensors, .governorTick 0 [3] [3],
      .startUpStepEnd ⟨3, [], [], true, [], []⟩, .sectorRebuild 281474976710624 0].all (fun i => i.wf) = true := by decide
theorem test_no_word_decodes : decodeTableWord 32 0 = none ∧ State.reset.withFetchWord 32 0 = State.reset := ⟨rfl, rfl⟩

/-! ## Helpers: records, descriptors, small states -/

/-- A record of opcode, station, core and ARG with three descriptors; it waits for nothing, and adds 3 and then 4 to counter 5
(the layout of R72). -/
def mkRec (op st core arg d0 d1 d2 : Nat) : BitVec 512 :=
  BitVec.ofNat 512 (op + st <<< 8 + core <<< 12 + 0x1234 <<< 32 + 0x45 <<< 112 + 0x45 <<< 120 + 3 <<< 192 + 4 <<< 200 +
    arg <<< 208 + d0 <<< 240 + d1 <<< 328 + d2 <<< 416)
/-- A descriptor (R74). -/
def mkDesc (kind port tid row0 col0 nrows ncols : Nat) : Nat :=
  kind + port <<< 4 + tid <<< 8 + row0 <<< 32 + col0 <<< 52 + nrows <<< 72 + ncols <<< 80
def mkCmd (r : BitVec 512) : Cmd := { r := r, begun := true }

/-- Page tables at 0 that map virtual pages 0 and 10 to frames 3 and 4 with every permission (R299). -/
def pages : List Host.Cell := [(0, 1), (2, 1), (0x10000, 1), (0x10002, 2), (0x20000, 0x3F), (0x20002, 3), (0x20050, 0x3F), (0x20052, 4)]
/-- A module with the plainest hashes, its clocks together, all suits powered, a deal running, and pages 0 and 10 mapped. -/
def base : State :=
  { State.reset with
    part := Part.hyg4_288
    mem := pages
    suits := (upTo 4).map fun i => (i, { powered := true })
    job := { State.reset.job with run := true } }
/-- Hand 0 with one record in its fetch buffer. -/
def seqState (r : BitVec 512) : State := { base with hands := [(0, { buf := [(64, r)], stream := true })] }

/-- What a command answers, looked at through `f`. -/
def after {α : Type} (i : Instr) (s : State) (f : State → α) : Option α :=
  match exec i s with
  | .next t => some (f t)
  | _ => none
/-- A module whose station st of core or hand u holds one record. -/
def stState (st u : Nat) (c : Cmd) : State := base.setQueue st u [c]
/-- A header of a whole FP64 tile (fmt 0: 16 x 32) with a right HCHK and no CRC. -/
def fullHdr : BitVec 256 := sealHdr (Head.full { tid := 1 }).word 0
def plainTile : Tile := { hdr := fullHdr, pay := 0x3FF0000000000000#32768 }
def oneTile : Flow := { got := 1, buf := [plainTile], first := some fullHdr }

/-- A record with no operand in memory. -/
def freshCmd (op st core : Nat) : Cmd := { r := mkRec op st core 0 0 0 0 }
def sealedTile : Tile := Tile.seal (Head.full { fmt := 0 }) (BitVec.ofNat 32768 7)
/-- Entry of tensor 1 at address 0x8000: FP64, one tile of 16 x 32 at 0xA000, headers at 0x9000. -/
def entry1 : Nat := 0xA000 + 0x9000 <<< 64 + 1 <<< 128 + 1 <<< 148
def tensors (s : State) : State :=
  { s with mem := Memory.write s.mem 0x38040 64 entry1, job := { s.job with tensorVa := 0x8000, tensorCount := 2 } }
theorem sealedTile_good (x : Expect) (h : x.tid = 0) : checkTile sealedTile x 256 (fun _ => none) false = .good sealedTile :=
  seal_checks _ _ x (by rw [seal_tile_head]; decide +kernel) (by simp [Expect.meets, h])

/-! ## The CRC of an all-zero payload -/

theorem crc32cBits_add (a b c : Nat) : crc32cBits (a + b) c = crc32cBits b (crc32cBits a c) := by
  induction a generalizing c with
  | zero => simp [crc32cBits]
  | succ n ih => rw [Nat.add_right_comm]; simp only [crc32cBits]; exact ih _
theorem toBytes_zero (n : Nat) : toBytes n 0 = List.replicate n 0#8 := by
  induction n with
  | zero => rfl
  | succ n ih => simp [toBytes, ih, List.replicate_succ]
theorem crc_zeros (n c : Nat) :
    (List.replicate n 0#8).foldl (fun c x => crc32cBits 8 (c ^^^ x.toNat)) c = crc32cBits (8 * n) c := by
  induction n generalizing c with
  | zero => rfl
  | succ n ih => rw [List.replicate_succ, List.foldl_cons, ih, Nat.mul_succ, Nat.add_comm, crc32cBits_add]; simp
/-- The CRC register after each 128 zero bytes. -/
def crcMarks : List Nat :=
  [0xffffffff, 0xf7d89b24, 0x478d4e6f, 0x4509d0c9, 0xcf03123f, 0x1fd80331, 0xc5c4c2f9, 0xd77c4c0, 0x11512183, 0xa8448891,
   0x72802fed, 0x6b47581e, 0xa6fd2d2, 0xfbd7265a, 0x5bcb999c, 0x50e61ffc, 0x5b767cb0, 0x22b79a12, 0x13ca39cb, 0xe41fc7cf,
   0x4df00a81, 0x278b2fa4, 0x24571252, 0xd84843ae, 0xdf52be5c, 0xf18f24b4, 0xa82160e, 0x17ab347e, 0xf76f41ea, 0x81bd34d5,
   0x142ac051, 0x54af813b, 0x6706be76]
/-- A CRC register that takes 128 zero bytes at a time. -/
theorem crc_marks (m : List Nat) (n : Nat) (steps : ∀ i < n, crc32cBits 1024 (m.getD i 0) = m.getD (i + 1) 0) :
    ∀ k ≤ n, crc32cBits (1024 * k) (m.getD 0 0) = m.getD k 0 := by
  intro k
  induction k with
  | zero => intro _; rfl
  | succ k ih => intro h; rw [Nat.mul_succ, crc32cBits_add, ih (by omega), steps k (by omega)]
theorem crc_zeros_are (n k c v : Nat) (e : 8 * n = k) (h : crc32cBits k c = v) :
    (List.replicate n 0#8).foldl (fun c x => crc32cBits 8 (c ^^^ x.toNat)) c = v := by rw [crc_zeros, e, h]
/-- CRC-32C of 4,096 zero bytes is 0x98F94189. -/
theorem crc_zero_payload : crc32c (toBytes 4096 0) = 0x98F94189 := by
  rw [toBytes_zero, crc32c, crc_zeros_are 4096 (1024 * 32) 0xFFFFFFFF _ (by norm_num)
    (crc_marks crcMarks 32 (by decide +kernel) 32 (le_refl 32))]
  decide +kernel
/-- The register after the bytes of 2^63, and after each 128 zero bytes that follow. -/
def topMarks : List Nat :=
  [0xf121760d, 0x50c05dd2, 0x3eaae302, 0xd41730a8, 0x23a07fc4, 0xed18fd6, 0x943a87b2, 0xba3d6836, 0x530e11e7, 0x7f435ea5,
   0x10c6f3e4, 0xc32fed00, 0xaf7a477b, 0x9ae6c102, 0x809ef8b2, 0x204d13f7, 0xe107d29c, 0x80610338, 0x69d6fecd, 0x77fae51d,
   0xc2db0b23, 0xff124d1f, 0x36f05fb6, 0x202e4913, 0xd32a3453, 0x1ccdc308, 0xb18cf4a8, 0x7b714942, 0x5fccb5fa, 0x6234403f,
   0x9770401d, 0xffb88208]
/-- CRC-32C of a payload whose element 0 of 8 bytes is 2^63 and the rest zero. -/
theorem crc_top_payload : crc32c (toBytes 4096 (2 ^ 63)) = 0x5b7334ca := by
  have b : toBytes 4096 (2 ^ 63) = [0, 0, 0, 0, 0, 0, 0, 0x80] ++ List.replicate 4088 0#8 := by
    have q : ∀ n, toBytes (n + 8) (2 ^ 63) = [0, 0, 0, 0, 0, 0, 0, 0x80] ++ toBytes n 0 := fun n => by simp [toBytes]
    rw [← toBytes_zero]
    exact q 4088
  have f : ([0, 0, 0, 0, 0, 0, 0, 0x80] : List (BitVec 8)).foldl (fun c x => crc32cBits 8 (c ^^^ x.toNat)) 0xFFFFFFFF = 0xf121760d := by
    decide +kernel
  have g : crc32cBits (1024 * 31) 0xf121760d = topMarks.getD 31 0 := crc_marks topMarks 31 (by decide +kernel) 31 (le_refl 31)
  rw [b, crc32c, List.foldl_append, f, crc_zeros_are 4088 (1024 * 31 + 960) 0xf121760d 0xa48ccb35 (by norm_num)
    (by rw [crc32cBits_add, g]; decide +kernel)]
  decide +kernel
/-- What a sound tile of a known CRC shows to a command. -/
def soundFor (t : Tile) (k : Nat) (x : Expect) (ver : Nat) : Bool :=
  t.headSound && x.meets t.head && (ver == 256 || decide (ver < 256) && t.head.wver == ver) && t.crc == k
/-- Such a tile passes its checks. -/
theorem known_checks (t : Tile) (k : Nat) (hk : crc32c (toBytes 4096 t.pay.toNat) = k) (x : Expect) (ver : Nat)
    (more : Head → Option Bool) (hm : more t.head = none) (a : soundFor t k x ver = true) : checkTile t x ver more false = .good t := by
  simp only [soundFor, Bool.and_eq_true, beq_iff_eq, Bool.or_eq_true, decide_eq_true_eq] at a
  obtain ⟨⟨⟨s, m⟩, v⟩, c⟩ := a
  have hc : (t.crc != crc32c (toBytes 4096 t.pay.toNat)) = false := by rw [hk, c]; simp
  have hv : (decide (ver ≠ 256) && (decide (512 ≤ ver) || t.head.wver != ver % 256)) = false := by
    rcases v with v | ⟨v1, v2⟩
    · simp [v]
    · simp [Nat.mod_eq_of_lt v1, v2, Nat.not_le_of_lt (lt_trans v1 (by decide : 256 < 512))]
  simp only [checkTile, s, hv, m, hc, hm]
  simp
/-- A read of such a tile from memory gives it. -/
theorem known_reads (s : State) (t : Tile) (k : Nat) (hk : crc32c (toBytes 4096 t.pay.toNat) = k) (x : Expect) (ver hva pva : Nat)
    (more : Head → Option Bool) (hm : more t.head = none) (rh : s.vread hva 32 = .ok t.hdr.toNat) (rt : s.readTile hva pva = .ok t)
    (a : soundFor t k x ver = true) : s.tryTile x ver hva pva more false = .good t := by
  simp only [State.tryTile, rh, rt]
  exact known_checks t k hk x ver more hm a
/-- A tile (row, col) of a tensor with one valid row: format, scale 0, WVER, CRC, payload. -/
def rowTile (tid row col fmt wver crc pay : Nat) : Tile :=
  { hdr := sealHdr (Head.valid { tid := tid, row := row, col := col, fmt := fmt, wver := wver } 1 (fmtCols fmt)).word crc
    pay := BitVec.ofNat 32768 pay }
def zeroHdr (tid row col fmt wver : Nat) : BitVec 256 := (rowTile tid row col fmt wver 0x98F94189 0).hdr
theorem crc_zero_row (tid row col fmt wver : Nat) :
    crc32c (toBytes 4096 (rowTile tid row col fmt wver 0x98F94189 0).pay.toNat) = 0x98F94189 := by
  rw [show (rowTile tid row col fmt wver 0x98F94189 0).pay = 0#32768 from rfl, BitVec.toNat_zero]
  exact crc_zero_payload

/-! ## The sequencer -/

def nopRec : BitVec 512 := mkRec 0 9 16 0 0 0 0
def jumpRec : BitVec 512 := mkRec 1 9 16 0 0x8000 0 0
/-- LOOP register 3, N = 2, TARGET 0x8000 (R81). -/
def loopRec : BitVec 512 := mkRec 2 9 16 0xC0000002 0x8000 0 0
def endRec : BitVec 512 := mkRec 7 9 16 0 0 0 0
/-- SIGNAL of 200 to counter 63 of hand 1's sequencer. -/
def signalRec : BitVec 512 := mkRec 5 9 16 (epHand 1 25 + 63 <<< 16 + 200 <<< 22) 0 0 0
/-- GRANT of 8 credits of core 2 to the pivot engine of hand 1. -/
def grantRec : BitVec 512 := mkRec 9 9 16 (epHand 1 24 + 8 <<< 16 + 2 <<< 20) 0 0 0
/-- PORTS of core 2 that closes port 8 and no other. -/
def portsRec : BitVec 512 := mkRec 6 9 2 0xFF 0 0 0
def holdRec : BitVec 512 := mkRec 8 9 16 0 0 0 0
def markRec : BitVec 512 := mkRec 4 9 16 0 0 0 0
def epochRec : BitVec 512 := mkRec 3 9 16 0x1FF 0 0 0
/-- Mill LOOP register 2, N = 0. -/
def millLoopRec : BitVec 512 := mkRec 8 8 16 0x80000000 0x8000 0 0
def millState (r : BitVec 512) : State := { base with mills := [(1, { buf := [(64, r)], stream := true })] }

theorem test_loop_first_arrival :
    after (.seqLoop 0) (seqState loopRec) (fun t => ((t.reg (Reg.loopReg 0 3)).toNat, t.reg64 (Reg.seqFetch 0), (t.hand 0).buf)) =
      some (1, 0x8000, []) := by decide +kernel
theorem test_nop_increments : after (.seqNop 0) (seqState nopRec) (fun t => (t.evc 0 5).toNat) = some 7 := by decide +kernel
theorem test_end_stops_fetching :
    after (.seqEnd 0) (seqState endRec) (fun t => ((t.hand 0).ended, t.canFetch 0)) = some (true, false) := by decide +kernel

theorem witness_SeqControlCommits :
    (millState millLoopRec).millHead 1 8 = .ready 64 millLoopRec ∧
    (seqState nopRec).seqReady 0 0 = some (64, nopRec) ∧ (seqState jumpRec).seqReady 0 1 = some (64, jumpRec) ∧
    (seqState loopRec).seqReady 0 2 = some (64, loopRec) ∧ (seqState endRec).seqReady 0 7 = some (64, endRec) := by
  decide +kernel

def grantWaiting : State := { base with hands := [(0, { buf := [(64, grantRec)], stream := true, seqBegun := true })] }
theorem witness_SeqSendsPackets :
    ((seqState signalRec).seqReady 0 5 = some (64, signalRec) ∧ ((seqState signalRec).hand 0).skipSig = 0) ∧
    ((seqState grantRec).seqReady 0 9 = some (64, grantRec) ∧ ((seqState grantRec).hand 0).seqBegun = false) ∧
    (grantWaiting.seqReady 0 9 = some (64, grantRec) ∧ (grantWaiting.hand 0).seqBegun = true ∧
      (grantWaiting.hand 0).waitAck = []) := by decide +kernel

def portsGranted : State := { seqState portsRec with cores := [(2, { p8own := 5, grants := [(epHand 1 24, 3)] })] }
def portsBusy : State := { seqState portsRec with cores := [(2, { ld := [mkCmd nopRec] })] }
def heldState : State := { base with hands := [(0, { buf := [(64, holdRec)], held := some (64, holdRec), seqBegun := true })] }
/-- The credits that the recall brought back are all there. -/
def portsBack : State :=
  { seqState portsRec with cores := [(2, { p8own := 8, grants := [(epHand 1 24, 0)], recalls := [epHand 1 24] })] }
theorem witness_PortsAndHold :
    ((seqState portsRec).seqReady 0 6 = some (64, portsRec) ∧ (seqState portsRec).physCore 0 2 = 2 ∧
      closingPorts ((seqState portsRec).portMask 0 2) (Record.argBits portsRec 0 9) = [8] ∧
      (((seqState portsRec).core 2).quiet [8] = true ∧ ((seqState portsRec).core 2).grants = [])) ∧
    (portsGranted.seqReady 0 6 = some (64, portsRec) ∧ (portsGranted.core 2).quiet [8] = true ∧
      (portsGranted.core 2).grants ≠ [] ∧ (portsGranted.core 2).recalls = []) ∧
    (portsBack.seqReady 0 6 = some (64, portsRec) ∧ (portsBack.core 2).quiet [8] = true ∧ (portsBack.core 2).grants ≠ [] ∧
      (portsBack.core 2).recalls ≠ [] ∧ (portsBack.core 2).p8own = 8) ∧
    (portsBusy.seqReady 0 6 = some (64, portsRec) ∧ (portsBusy.core 2).quiet [8] = false) ∧
    (seqState holdRec).seqReady 0 8 = some (64, holdRec) ∧ (heldState.hand 0).held = some (64, holdRec) := by
  decide +kernel

theorem base_safe : Safe base := by
  exact ⟨by decide, by decide, by decide, .nil, .nil⟩

theorem witness_MarkAndEpoch :
    Safe (seqState markRec) ∧
    ((seqState markRec).seqReady 0 4 = some (64, markRec) ∧ (seqState markRec).handIdle 0 = true ∧
      (seqState markRec).translate ((seqState markRec).traceBlock 0) .write = .ok 0x31000 false) ∧
    ((seqState epochRec).seqReady 0 3 = some (64, epochRec) ∧ (seqState epochRec).handIdle 0 = true ∧
      (seqState epochRec).translate ((seqState epochRec).traceBlock 0) .write = .ok 0x31000 false) :=
  ⟨base_safe, by decide +kernel, by decide +kernel⟩
/-- R80: the checkpoint holds the record's serial and the fetch address after it. -/
theorem test_mark_serial :
    after (.mark 0) (seqState markRec) (fun t => (Memory.read t.mem (0x31000 + 280) 4, Memory.read t.mem (0x31000 + 272) 8)) =
      some (0x1234, 128) := by decide +kernel

def startState : State :=
  { base with job := { base.job with startPending := [0, 1, 639, 640, 647], entries := [(0, 0x100), (639, 0x200), (647, 0xFFFF00)] } }
def fetchState : State := (({ base with hands := [(0, { stream := true })] }).setReg64 (Reg.seqFetch 0) 0x100)
def detFetch : State :=
  { base with hands := [(0, { stream := true, detour := some { va := 0x140, toFetch := 3, left := 3, grp := 0, tag := 0 } })] }
/-- The 16 records of a fetch answer, and a page is entered only where CONT allows it. -/
theorem fetch_goes_on (s : State) (va : Nat) (first : Bool)
    (h : ∀ i < 16, ((match s.vread (va + 64 * i) 64 with | .ok _ => true | _ => false) &&
      ((va + 64 * i) % 65536 != 0 || (i == 0 && first) || s.contPage (va + 64 * i))) = true) :
    ∀ i < 16, (∃ v, s.vread (va + 64 * i) 64 = .ok v) ∧
      ((va + 64 * i) % 65536 = 0 → (i = 0 ∧ first = true) ∨ s.contPage (va + 64 * i) = true) := by
  intro i q
  have a := h i q
  simp only [Bool.and_eq_true, Bool.or_eq_true, bne_iff_ne, ne_eq, beq_iff_eq] at a
  obtain ⟨a, b⟩ := a
  constructor
  · split at a
    · next v e => exact ⟨v, e⟩
    · cases a
  · rcases b with (b | b) | b
    · exact fun e => absurd e b
    · exact fun _ => .inl b
    · exact fun _ => .inr b
def millFetch : State := { base with mills := [(7, { fetch := 0x100, stream := true })] }
theorem witness_StreamsStartAndFetch :
    (∀ u ∈ ([0, 1, 639, 640, 647] : List (Fin 648)),
      u.val ∈ startState.job.startPending ∧ PMap.get 0 startState.job.entries u.val < 2 ^ 48) ∧
    (fetchState.canFetch 0 = true ∧ (fetchState.hand 0).detour = none ∧ fetchState.reg64 (Reg.seqFetch 0) = 0x100 ∧
      (fetchState.fetchFrom 16 0x100 (fetchState.hand 0).buf.isEmpty).2 = .ok) ∧
    (detFetch.canFetch 0 = true ∧ (detFetch.fetchFrom 3 0x140 true).2 = .ok) ∧
    (millFetch.millCanFetch 7 = true ∧ (millFetch.fetchFrom 16 (millFetch.mill 7).fetch (millFetch.mill 7).buf.isEmpty).2 = .ok) := by
  decide +kernel
/-- At the start of a page, with an empty buffer, all 16 records come. -/
theorem witness_StreamsStartAndFetch_all :
    ∀ i < 16, (∃ v, fetchState.vread (0x100 + 64 * i) 64 = .ok v) ∧
      ((0x100 + 64 * i) % 65536 = 0 → (i = 0 ∧ true = true) ∨ fetchState.contPage (0x100 + 64 * i) = true) :=
  fetch_goes_on _ _ _ (by decide +kernel)

/-- RUN on core 15: slot 1 to slot 2 with the kernel of slot 0. -/
def runRec : BitVec 512 := mkRec 1 4 15 0 (mkDesc 4 0 0 1 0 1 1) 0 (mkDesc 4 0 0 2 0 1 1)
def badRec : BitVec 512 := mkRec 0 8 16 0 0 0 0
/-- A LOAD of a tensor whose table entry lies on a page that is not mapped. -/
def lostEntry : State :=
  { seqState (mkRec 1 1 0 0 (mkDesc 1 0 1 0 0 1 1) 0 (mkDesc 2 0 0 0 0 1 1)) with
    job := { base.job with tensorVa := 0x50000, tensorCount := 4 } }
theorem witness_DispatchQueuesOrStops :
    ((seqState runRec).nextRecord 0 = some (64, runRec) ∧ (seqState runRec).seqRuns 0 = true ∧ Record.station runRec ≠ 9 ∧
      (seqState runRec).recordOk 0 runRec = true ∧
      ((seqState runRec).queue 4 ((seqState runRec).queueUnit 0 runRec)).length = 0) ∧
    ((seqState badRec).nextRecord 0 = some (64, badRec) ∧ (seqState badRec).seqRuns 0 = true ∧
      (seqState badRec).recordOk 0 badRec = false ∧ ((seqState badRec).hand 0).seqBegun = false ∧
      (seqState badRec).entryFault (recordTids badRec) = none) ∧
    ((lostEntry.nextRecord 0).map (·.1) = some 64 ∧ lostEntry.seqRuns 0 = true ∧
      (lostEntry.nextRecord 0).map (fun x => (lostEntry.recordOk 0 x.2, lostEntry.entryFault (recordTids x.2))) =
        some (false, some (.fault 0x50040 0 false)) ∧ (lostEntry.hand 0).seqBegun = false) := by decide +kernel
theorem test_bad_record_stops :
    after (.recordDispatch 0) (seqState badRec) (fun t => (t.flag (Reg.seqStat 0) 28, t.seqRuns 0)) = some (true, false) := by
  decide +kernel

def detourPacket : Packet := { ctlPacket epDealer (epHand 0 25) 0 (.detour 0x4000 2 3 9) with arrived := true }
def detourState : State := { seqState nopRec with net := [detourPacket] }
/-- A queued record, and HANG_LIMIT at its least: 1 ms. -/
def stallState : State :=
  { (({ base with hands := [(0, { pq := [mkCmd nopRec] })] }).setBit (Reg.seqCtl 0) 0).setField (Reg.seqCtl 0) 8 16 0 with
    time := 1000000 }
theorem witness_DetourAndStall :
    ((detourState.net.find? fun p => p.arrived && p.dest.toNat == epHand 0 25 && (match p.msg with | .detour .. => true | _ => false)) =
        some detourPacket ∧ detourPacket.msg = .detour 0x4000 2 3 9 ∧ (detourState.hand 0).detour = none ∧
      (detourState.hand 0).waitAck = [] ∧ (detourState.hand 0).held = none) ∧
    (stallState.job.run = true ∧ stallState.flag (Reg.seqCtl 0) 0 = true ∧ stallState.flag (Reg.seqStat 0) 27 = false ∧
      stallState.handBusy 0 = true ∧ stallState.handStopped 0 = false ∧
      (stallState.hand 0).lastCommit + max 1 (stallState.field (Reg.seqCtl 0) 8 16) * 1000000 ≤ stallState.now 0) := by
  decide +kernel

/-! ## The stations of a core -/

/-- Nothing stops the record at its begin. -/
theorem begins_freely (s : State) (st u : Nat) (c : Cmd) (ver : List Nat)
    (h : (s.mayBegin st u c.r && !s.noContext st u && decide (s.entryFault (recordTids c.r) = none) &&
      (match s.selectAll st c.r [0, 1, 2] with | (.ok l, _) => decide (l.map (·.1) = ver) | _ => false) &&
      decide (s.recordFault st c.r ver = none)) = true) : BeginsFreely s st u c ver := by
  simp only [Bool.and_eq_true, decide_eq_true_eq, Bool.not_eq_true'] at h
  obtain ⟨⟨⟨⟨h1, h2⟩, h3⟩, h4⟩, h5⟩ := h
  refine ⟨h1, .inl h2, h3, ?_, h5⟩
  revert h4
  match s.selectAll st c.r [0, 1, 2] with
  | (.ok l, n) => exact fun h4 => ⟨l, n, rfl, of_decide_eq_true h4⟩
  | (.poison, _) => exact fun h4 => nomatch h4
  | (.fault .., _) => exact fun h4 => nomatch h4
/-- A record that has issued all its reads, and one of its kind behind it. -/
def pairState (st op : Nat) : State := base.setQueue st 0 [{ freshCmd op st 0 with begun := true }, freshCmd op st 0]
theorem witness_StationRecordBegins (x : Nat × Nat)
    (h : x ∈ ([(1, 1), (1, 2), (2, 1), (2, 2), (3, 1), (3, 2), (5, 1), (5, 2), (5, 3), (6, 1), (6, 2), (7, 1)] : List (Nat × Nat))) :
    AtWork (stState x.1 0 (freshCmd x.2 x.1 0)) x.1 0 x.2 0 (freshCmd x.2 x.1 0) ∧
    BeginsFreely (stState x.1 0 (freshCmd x.2 x.1 0)) x.1 0 (freshCmd x.2 x.1 0) [256, 256, 256] := by
  revert x
  have a : ∀ x ∈ ([(1, 1), (1, 2), (2, 1), (2, 2), (3, 1), (3, 2), (5, 1), (5, 2), (5, 3), (6, 1), (6, 2), (7, 1)] :
      List (Nat × Nat)), AtWork (stState x.1 0 (freshCmd x.2 x.1 0)) x.1 0 x.2 0 (freshCmd x.2 x.1 0) := by
    unfold AtWork; decide +kernel
  exact fun x h => ⟨a x h, begins_freely _ _ _ _ _ (by revert x; decide +kernel)⟩
theorem witness_StationRecordBegins_next (x : Nat × Nat) (h : x ∈ ([(1, 1), (2, 1), (2, 2), (3, 2), (5, 1)] : List (Nat × Nat))) :
    (pairState x.1 x.2).nextUp x.1 0 x.2 0 { freshCmd x.2 x.1 0 with begun := true } = some (freshCmd x.2 x.1 0) ∧
    BeginsFreely (pairState x.1 x.2) x.1 0 (freshCmd x.2 x.1 0) [256, 256, 256] :=
  ⟨by revert x; decide +kernel, begins_freely _ _ _ _ _ (by revert x; decide +kernel)⟩
theorem witness_StationRecordBegins_waits :
    let c : Cmd := { r := mkRec 1 1 0 0 0 0 0 ||| BitVec.ofNat 512 (0x45 <<< 96 + 1 <<< 128) }
    (stState 1 10879 c).mayBegin 1 10879 c.r = false := by decide +kernel

def loadCmd : Cmd := { mkCmd (mkRec 1 1 0 0 (mkDesc 1 0 1 0 0 1 1) 0 (mkDesc 2 1 0 0 0 1 1)) with a := oneTile }
theorem loadCmd_comes : TileComes (stState 1 0 loadCmd) 1 0 0 loadCmd 0 0 (stState 1 0 loadCmd) loadCmd plainTile :=
  ⟨.inl ⟨by decide, rfl, rfl⟩, by decide +kernel⟩
/-- An index tile (fmt 6) of one valid row: indices 0, 1, the skip index, one beyond the source, and zeros. -/
def indexTile : Tile :=
  { hdr := sealHdr (({ tid := 2, fmt := 6, last := true } : Head).valid 1 64).word 0
    pay := BitVec.ofNat 32768 (0 + 1 <<< 32 + 0xFFFFFFFF <<< 64 + 0xFFFFFF <<< 96) }
def gatherCmd : Cmd :=
  { mkCmd (mkRec 2 1 0 0 (mkDesc 1 0 2 0 0 1 1) (mkDesc 1 0 1 0 0 0 0) (mkDesc 4 0 0 2 0 1 1)) with
    a := { got := 1, buf := [indexTile] } }
def gatherState : State := tensors (stState 1 0 gatherCmd)
theorem witness_LoadAndGather :
    (Works (stState 1 0 loadCmd) 1 0 1 0 loadCmd ∧ (Record.desc loadCmd.r 0).kind = 1 ∧
      (stState 1 0 loadCmd).canPut 0 (Record.desc loadCmd.r 2) = true ∧
      TileComes (stState 1 0 loadCmd) 1 0 0 loadCmd 0 loadCmd.out (stState 1 0 loadCmd) loadCmd plainTile) ∧
    (Works gatherState 1 0 2 0 gatherCmd ∧ gatherState.noContext 1 0 = false ∧
      (∀ x ∈ gatherCmd.a.buf.flatMap tileIndices, gatherState.elemWay 0 (gatherState.entry 1) x = true) ∧ (Record.desc gatherCmd.r 0).count ≤ gatherCmd.a.got ∧
      (Record.desc gatherCmd.r 2).count =
        ((gatherCmd.a.buf.flatMap tileIndices).length + 4096 / 8 - 1) / (4096 / 8) ∧
      fmtSize (Entry.fmt (gatherState.entry 1)) = 8 ∧
      gatherState.indexFault .read (gatherState.entry 1) (gatherCmd.a.buf.flatMap tileIndices) = none ∧
      gatherState.canPut 0 (Record.desc gatherCmd.r 2) = true) :=
  ⟨⟨by simp only [Works, AtWork]; decide +kernel, by decide +kernel, by decide +kernel, loadCmd_comes⟩,
    by simp only [Works, AtWork]; decide +kernel⟩
theorem test_gather_out_of_range :
    after (.gather 0) gatherState (fun t => (t.flag (Reg.loadStat 0) 29, t.reg64 (Reg.ldbytes 0))) = some (true, 32) := by
  decide +kernel

/-- An MMA that opens a group of one tally tile in FP32 mode, both operands resident. -/
def mmaRec : BitVec 512 := mkRec 1 2 0 0x40000000 (mkDesc 4 0 0 1 0 1 1) (mkDesc 4 0 0 2 0 1 1) 0
def mmaHdr : BitVec 256 := sealHdr (Head.full { fmt := 1 }).word 0
def mmaReady : Cmd :=
  { mkCmd mmaRec with out := 1, a := { got := 1, first := some mmaHdr, ext := 32, dep := 32 }, b := { got := 1, first := some mmaHdr, ext := 32, dep := 32 } }
def mmaState : State :=
  { stState 2 0 mmaReady with cores := [(0, { cu := [mmaReady], grp := some { wide := false, br := 0, bc := 0, first := 0 } })] }.setField
    (Reg.cubeStat 0) 24 4 8
theorem witness_CubeIssuesBlocks :
    (Works (stState 2 0 (mkCmd mmaRec)) 2 0 1 0 (mkCmd mmaRec) ∧ bit (Record.arg mmaRec) 30 = true ∧
      (((stState 2 0 (mkCmd mmaRec)).core 0).openGroup (groupDecl mmaRec)).isSome = true) ∧
    (Works mmaState 2 0 1 0 mmaReady ∧ mmaReady.out ≠ 0 ∧ mmaState.arriveTile 2 0 0 mmaReady 0 false = .wait ∧
      mmaState.arriveTile 2 0 0 mmaReady 1 false = .wait ∧ 0 < mmaState.duty 0 ∧ (mmaState.core 0).grp.isSome = true ∧
      (∃ x, mmaReady.shape = some x ∧ x.ready mmaReady ≠ [])) :=
  ⟨by simp only [Works, AtWork]; decide +kernel, by simp only [Works, AtWork]; decide +kernel, by decide, by decide +kernel, by decide +kernel,
    by decide +kernel, by decide +kernel, _, rfl, by decide +kernel⟩

/-- A handed-over group of one wide tally tile whose element (0, 0) is 2.0 (FP64: 16 x 32), drained with scales 1. -/
def wideGroup : Group := { wide := true, br := 0, bc := 0, first := 0, rows := 16, cols := 32 }
def drainCmd : Cmd := { mkCmd (mkRec 1 3 0 0 0 0 (mkDesc 4 0 0 3 0 1 1)) with scales := [0x3F800000, 0x3F800000, 0x3F800000] }
def drainState (op : Nat) : State :=
  { base with cores := [(0, { handed := [wideGroup], tally := [(0, { s := 0x4000000000000000, z := .other, n := 1 })],
                              dr := [if op = 1 then drainCmd else mkCmd (mkRec 2 3 0 0 0 0 0)] })] }
theorem witness_DrainWritesTile :
    ((drainState 1).core 0).handed = [wideGroup] ∧ ((drainState 2).core 0).handed = [wideGroup] ∧
    (Works (drainState 1) 3 0 1 0 drainCmd ∧ drainCmd.scales ≠ [] ∧ (drainState 1).canPut 0 (Record.desc drainCmd.r 2) = true ∧
      (DrainArg.of drainCmd.r).second = false ∧ (DrainArg.of drainCmd.r).plain = true ∧ (DrainArg.of drainCmd.r).sumsq = false ∧
      (∀ j < 3, scaleOk (drainCmd.scales.getD j 0) = true) ∧ 15 < (drainValid wideGroup 0 0 0).1 ∧ 31 < (drainValid wideGroup 0 0 0).2) ∧
    Works (drainState 2) 3 0 2 0 (mkCmd (mkRec 2 3 0 0 0 0 0)) := by
  refine ⟨by decide +kernel, by decide +kernel, ⟨?_, by decide +kernel⟩, ?_⟩ <;> (simp only [Works, AtWork]; decide +kernel)
/-- A drain with a second stream: EW = 1, the second tile resident in slot 4, all scales 1. -/
def drainTwo : Cmd :=
  { mkCmd (mkRec 1 3 0 (1 <<< 26) (mkDesc 4 0 0 4 0 1 1) 0 (mkDesc 4 0 0 3 0 1 1)) with
    scales := [0x3F800000, 0x3F800000, 0x3F800000, 0x3F800000], a := { got := 1 } }
def drainTwoState : State :=
  { base with cores := [(0, { handed := [wideGroup], tally := [(0, { s := 0x4000000000000000, z := .other, n := 1 })],
                              slots := [(4, plainTile)], dr := [drainTwo] })] }
theorem witness_DrainWritesTile_two :
    (Works drainTwoState 3 0 1 0 drainTwo ∧ (drainTwoState.core 0).handed = [wideGroup] ∧ 3 < drainTwo.scales.length ∧
      drainTwoState.canPut 0 (Record.desc drainTwo.r 2) = true ∧ (DrainArg.of drainTwo.r).second = true ∧
      (DrainArg.of drainTwo.r).sumsq = false ∧ (∀ j < 4, scaleOk (drainTwo.scales.getD j 0) = true)) ∧
    TileComes drainTwoState 3 0 0 drainTwo 0 0 drainTwoState drainTwo plainTile :=
  ⟨by simp only [Works, AtWork]; decide +kernel, .inl ⟨by decide, rfl, rfl⟩, by decide +kernel⟩
theorem test_drain_value :
    after (.drain 0) (drainState 1) (fun t => ((t.core 0).slot 3).elem 0 0 0) = some 0x4000000000000000 := by decide +kernel

def storeCmd : Cmd := { mkCmd (mkRec 1 5 0 0 (mkDesc 4 0 0 1 0 1 1) 0 (mkDesc 1 0 1 0 0 1 1)) with a := { got := 1 } }
def storeState : State := tensors { stState 5 0 storeCmd with cores := [(0, { st := [storeCmd], slots := [(1, plainTile)] })] }
def sendCmd : Cmd := { mkCmd (mkRec 1 5 0 0 (mkDesc 4 0 0 1 0 1 1) 0 (mkDesc 3 8 (epCore 17) 0 0 1 1)) with a := { got := 1 } }
def sendState (n : Nat) : State :=
  { base with cores := [(0, { st := [sendCmd], slots := [(1, plainTile)] })], hands := [(0, { p8held := [(p8Key 0 17, n)] })] }
theorem storeState_safe : Safe storeState := ⟨by decide +kernel, by decide, by decide, .nil, .nil⟩
theorem witness_StoreWritesAndSends :
    (Safe storeState ∧ Works storeState 5 0 1 0 storeCmd ∧ (Record.desc storeCmd.r 2).kind ≠ 3 ∧
      TileComes storeState 5 0 0 storeCmd 0 storeCmd.out storeState storeCmd plainTile ∧
      storeState.tileVa (Record.desc storeCmd.r 2) 256 0 = (0x9000, 0xA000) ∧ storeState.noContext 5 0 = false ∧
      storeState.wayTo 0 0x9000 = true ∧ storeState.wayTo 0 0xA000 = true ∧ storeState.accFault .write 0xA000 = none ∧
      storeState.translate 0x9000 .write = .ok 0x39000 false ∧
      (storeState.storeVa 0 1 0x9000 0x39000 false 32 plainTile.hdr.toNat).translate 0xA000 .write = .ok 0x3A000 false) ∧
    (∀ n ∈ [0, 1, 8], Works (sendState n) 5 0 1 0 sendCmd ∧ (Record.desc sendCmd.r 2).kind = 3 ∧
      epToCore (Record.desc sendCmd.r 2).dest = some 17 ∧
      TileComes (sendState n) 5 0 0 sendCmd 0 sendCmd.out (sendState n) sendCmd plainTile ∧
      PMap.get 0 ((sendState n).hand 0).p8held (p8Key 0 17) = n) := by
  refine ⟨⟨storeState_safe, by simp only [Works, AtWork]; decide +kernel, by decide +kernel, ⟨.inl ⟨by decide, rfl, rfl⟩, by decide +kernel⟩,
    by decide +kernel⟩, ?_⟩
  intro n hn
  simp only [List.mem_cons, List.not_mem_nil, or_false] at hn
  obtain rfl | rfl | rfl := hn <;>
    exact ⟨by simp only [Works, AtWork]; decide +kernel, by decide +kernel, by decide +kernel, ⟨.inl ⟨by decide, rfl, rfl⟩, by decide +kernel⟩,
      by decide +kernel⟩

/-- Indices: skip everywhere but at place 1, which names element 0. -/
def scatterIndexTile : Tile :=
  { hdr := sealHdr (({ fmt := 6 } : Head).valid 32 64).word 0
    pay := BitVec.ofNat 32768 (2 ^ 32768 - 1 - (2 ^ 64 - 2 ^ 32)) }
def skipTile : Tile := { scatterIndexTile with pay := BitVec.ofNat 32768 (2 ^ 32768 - 1) }
def scatterCmd : Cmd :=
  { mkCmd (mkRec 2 5 0 0 (mkDesc 4 0 0 1 0 1 1) (mkDesc 4 0 0 2 0 1 1) (mkDesc 1 0 1 0 0 0 0)) with a := { got := 1 }, b := { got := 1 } }
def scatterState (ix : Tile) : State :=
  tensors { base with cores := [(0, { st := [scatterCmd], slots := [(1, plainTile), (2, ix)] })] }
def resealCmd : Cmd := mkCmd (mkRec 3 5 0 0 0 0 (mkDesc 1 0 1 0 0 1 1))
/-- A header of one valid row, with a right HCHK and no CRC. -/
def rowHdr : BitVec 256 := sealHdr (Head.valid { tid := 1 } 1 32).word 0
def resealState : State :=
  { tensors (stState 5 0 resealCmd) with mem := Memory.write (tensors (stState 5 0 resealCmd)).mem 0x39000 32 rowHdr.toNat }
theorem scatterState_safe (ix : Tile) : Safe (scatterState ix) :=
  ⟨by simp only [scatterState, tensors, base]; exact Memory.wf_write _ _ _ (by decide), rfl, rfl, .nil, .nil⟩
theorem witness_ScatterAndReseal :
    (∀ ix ∈ [scatterIndexTile, skipTile], Safe (scatterState ix) ∧ Works (scatterState ix) 5 0 2 0 scatterCmd ∧
      (Record.desc scatterCmd.r 1).count ≤ scatterCmd.b.got ∧ Entry.fmt ((scatterState ix).entry 1) = 0 ∧
      (scatterState ix).indexFault .atomic ((scatterState ix).entry 1)
        (((scatterState ix).scatterIxs 0 scatterCmd).take ((Record.desc scatterCmd.r 0).count * (4096 / 8))) = none ∧
      TileComes (scatterState ix) 5 0 0 scatterCmd 0 scatterCmd.out (scatterState ix) scatterCmd plainTile) ∧
    ((((scatterState skipTile).scatterIxs 0 scatterCmd).take 512).all (· == 0xFFFFFFFF)) = true ∧
    (((scatterState scatterIndexTile).scatterIxs 0 scatterCmd).take 3 = [0xFFFFFFFF, 0, 0xFFFFFFFF] ∧
      (((scatterState scatterIndexTile).scatterIxs 0 scatterCmd).drop 2).all (· == 0xFFFFFFFF) = true ∧
      elemVa ((scatterState scatterIndexTile).entry 1) 0 = some 0xA000 ∧
      (scatterState scatterIndexTile).translate 0xA000 .atomic = .ok 0x3A000 false ∧
      (scatterState scatterIndexTile).poisonIn 0x3A000 8 = false) ∧
    (Safe resealState ∧ Works resealState 5 0 3 0 resealCmd ∧ resealState.tileVa (Record.desc resealCmd.r 2) 256 0 = (0x9000, 0xA000) ∧
      resealState.readTile 0x9000 0xA000 = .ok { hdr := rowHdr, pay := 0 } ∧
      resealState.vread 0x9000 32 = .ok rowHdr.toNat ∧ ({ hdr := rowHdr, pay := 0 } : Tile).headSound = true ∧
      resealState.translate 0x9000 .write = .ok 0x39000 false) := by
  refine ⟨?_, by decide +kernel, by decide +kernel, ⟨by decide +kernel, by decide, by decide, .nil, .nil⟩,
    by simp only [Works, AtWork]; decide +kernel, by decide +kernel⟩
  intro ix hn
  simp only [List.mem_cons, List.not_mem_nil, or_false] at hn
  obtain rfl | rfl := hn <;>
    exact ⟨scatterState_safe _, by simp only [Works, AtWork]; decide +kernel, by decide +kernel, by decide +kernel, by decide +kernel,
      ⟨.inl ⟨by decide, rfl, rfl⟩, by decide +kernel⟩⟩

theorem witness_ScatterAndReseal_ways :
    (∀ ix ∈ [scatterIndexTile, skipTile], (scatterState ix).noContext 5 0 = false ∧
      ∀ y ∈ (scatterState ix).scatterIxs 0 scatterCmd, (scatterState ix).elemWay 0 ((scatterState ix).entry 1) y = true) ∧
    resealState.noContext 5 0 = false ∧ resealState.wayTo 0 0x9000 = true ∧ resealState.wayTo 0 0xA000 = true ∧
    (resealState.seenTile 0 1 0x9000 0xA000).translate 0x9000 .write = .ok 0x39000 false := by decide +kernel

/-- A resident tile that a RUN record of station 4 awaits. -/
def checkCmd : Cmd := mkCmd (mkRec 1 4 0 0 (mkDesc 4 0 0 1 0 1 1) 0 (mkDesc 4 0 0 2 0 1 1))
def checkState (x : Tile) : State := { base with cores := [(0, { ve := [checkCmd], slots := [(1, x)] })] }
theorem checkState_arrives (y : Tile) (good : ∀ x : Expect, x.tid = 0 → checkTile y x 256 (fun _ => none) false = .good y) :
    ∃ c1, (checkState y).arriveTile 4 0 0 checkCmd 0 false = .ok (checkState y) c1 := by
  have k : (Record.desc checkCmd.r 0).kind = 4 := by decide +kernel
  have n : ¬ (Record.desc checkCmd.r 0).count ≤ (checkCmd.flow 0).got := by decide +kernel
  have x : ((checkState y).expect checkCmd 0 (checkCmd.flow 0).got (wideFmt 4 checkCmd.r 0)).tid = 0 := by
    simp only [State.expect, k]; decide +kernel
  have t : ((checkState y).core 0).slot ((Record.desc checkCmd.r 0).row0 + (checkCmd.flow 0).got) = y := by
    have r : (Record.desc checkCmd.r 0).row0 + (checkCmd.flow 0).got = 1 := by decide +kernel
    rw [r]; rfl
  have e : Record.opcode checkCmd.r = 1 := by decide +kernel
  have m : (checkState y).extra 4 checkCmd 0 = fun _ => none := by funext h; simp [State.extra, e]
  simp only [State.arriveTile, State.arrive, if_neg n, k, State.arriveLocal, t, m, good _ x]
  exact ⟨_, by simp [State.markChecked, k]; rfl⟩
/-- A LOAD whose first tile is in memory: its lines are asked for. -/
def askCmd : Cmd := { mkCmd (mkRec 1 1 0 0 (mkDesc 1 0 1 0 0 1 1) 0 (mkDesc 2 1 0 0 0 1 1)) with ver := [256, 256, 256], vtid := [1, 0, 0] }
def askState : State := tensors (stState 1 0 askCmd)
theorem witness_TileCheckTakesOrEscalates_asks :
    askState.active 1 0 = some (0, askCmd) ∧ askState.stRuns 1 0 = true ∧ inputOperand 1 (Record.opcode askCmd.r) 0 = true ∧
    askState.noContext 1 0 = false ∧ (∀ b, askState.arrive 1 0 askCmd 0 (wideFmt 1 askCmd.r 0) (askState.extra 1 askCmd 0) b =
      .ask [0x720]) := by
  refine ⟨by decide +kernel, by decide +kernel, by decide +kernel, by decide +kernel, ?_⟩
  decide +kernel
theorem witness_TileCheckTakesOrEscalates :
    ((checkState sealedTile).active 4 0 = some (0, checkCmd) ∧ (checkState plainTile).active 4 0 = some (0, checkCmd) ∧
      (checkState sealedTile).stRuns 4 0 = true ∧ (checkState plainTile).stRuns 4 0 = true ∧
      inputOperand 4 (Record.opcode checkCmd.r) 0 = true) ∧
    (∃ c1, (checkState sealedTile).arriveTile 4 0 0 checkCmd 0 false = .ok (checkState sealedTile) c1) ∧
    ((Record.desc checkCmd.r 0).kind = 4 ∧ (checkCmd.flow 0).got < (Record.desc checkCmd.r 0).count ∧
      ((checkState plainTile).core 0).slot 1 = plainTile ∧ plainTile.headSound = true ∧
      (checkState plainTile).extra 4 checkCmd 0 plainTile.head = none ∧
      ((checkState plainTile).expect checkCmd 0 0 (wideFmt 4 checkCmd.r 0)).meets plainTile.head = true) :=
  ⟨⟨rfl, rfl, by decide +kernel, by decide +kernel, by decide +kernel⟩, checkState_arrives _ sealedTile_good,
    by decide +kernel⟩

def doneCmd : Cmd := { mkCmd (mkRec 1 2 0 0 0 0 0) with complete := true }
theorem witness_CommandCommits :
    (∀ x ∈ ([(1, epCore 0, 0), (5, epCore 10879, 10879), (6, epHand 639 24, 639), (7, epHand 0 26, 0)] : List (Nat × Nat × Nat)),
      stationUnit (BitVec.ofNat 16 x.2.1).toNat x.1 = some x.2.2 ∧ (stState x.1 x.2.2 doneCmd).queue x.1 x.2.2 = [doneCmd] ∧
      (stState x.1 x.2.2 doneCmd).handStopped (handOf x.1 x.2.2) = false) ∧
    doneCmd.complete = true ∧ doneCmd.acks = 0 ∧
    (stationUnit (epCore 0) 2 = some 0 ∧ bit (Record.arg doneCmd.r) 29 = false) := by decide +kernel
/-- Commands of a Mill that are complete: a MIRROR, an UPDATE of plain sums, and one whose sum is not a number. -/
def millDone (op nan : Nat) : State :=
  { base with mills := [(7, { q := [{ mkCmd (mkRec op 8 16 0 0 0 0) with
      complete := true, sums := if nan = 1 then [0x7FF8000000000000] else [] }] })] }
theorem witness_CommandCommits_mill :
    (∀ op ∈ [1, 3], epToMill (BitVec.ofNat 16 (epMill 7)).toNat = some 7 ∧ ((millDone op 0).mill 7).broken = false ∧
      (millDone op 0).millStopped 7 = false ∧ ((millDone op 0).mill 7).q.map (fun c => (Record.opcode c.r, c.complete, c.acks)) = [(op, true, 0)]) ∧
    (∀ n < 2, ((millDone 1 n).mill 7).q.map (fun c => (boundHit c, (match (millDone 1 n).telemetry 7 c with | .ok _ => true | _ => false))) =
      [(n == 1, true)]) := by decide +kernel
theorem test_commit_increments :
    after (.commandCommit (BitVec.ofNat 16 (epCore 16)) 5 false) (stState 5 16 doneCmd)
      (fun t => ((t.evc 0 5).toNat, t.queue 5 16)) = some (7, []) := by decide +kernel

def dutyState (d ramp : Nat) : State :=
  { base with cores := [(0, { ports := [(0, { credits := 7, returning := 1 }), (7, { credits := 3, returning := 1 })]
                              tallyRet := [3, 4], ramp := ramp })] }.setField (Reg.cubeStat 0) 24 4 d
/-- A cube with a block ready to issue, at a duty. -/
def dutyBusy (d : Nat) : State := mmaState.setField (Reg.cubeStat 0) 24 4 d
theorem witness_CreditsAndDuty :
    (∀ p ∈ [0, 7], 0 < (((dutyState 8 0).core 0).port p).returning) ∧ ((dutyState 8 0).core 0).tallyRet = [3, 4] ∧
    ((dutyState 8 0).filling 0 = true ∧ ((dutyState 8 0).core 0).ramp ≠ 2) ∧
    (∀ d ∈ [1, 8], (dutyState d 2).cubeReady 0 = [] ∧ 0 < (dutyState d 2).duty 0 ∧ ((dutyState d 2).core 0).ramp = 2) ∧
    (∀ d ∈ [0, 7], (dutyBusy d).cubeReady 0 ≠ [] ∧ (dutyBusy d).duty 0 < (dutyBusy d).dutyTop 0) ∧
    (∀ d ∈ [9, 15], (dutyState d 3).dutyTop 0 < (dutyState d 3).duty 0 ∧ ((dutyState d 3).core 0).ramp ≠ 2) ∧
    (∀ d ∈ [0, 8], (dutyState d 0).cubeReady 0 = [] ∧ ((dutyState d 0).core 0).ramp ≠ 2 ∧
      (dutyState d 0).duty 0 ≤ (dutyState d 0).dutyTop 0) := by
  decide +kernel

/-! ## The vector unit -/

/-- RUN with an unconditional output; the kernel stands in slot 0. -/
def vectRec : BitVec 512 := mkRec 1 4 0 0 (mkDesc 4 0 0 1 0 1 1) 0 (mkDesc 4 0 0 2 0 1 1)
/-- As vectRec, with two steps and one output at the last (ARG bit 11). -/
def onceRec : BitVec 512 := mkRec 1 4 0 0x800 (mkDesc 4 0 0 1 0 2 1) 0 (mkDesc 4 0 0 3 0 1 1)
def kern0 : Kern := { step := 0, pc := 0, w0 := plainTile, w1 := plainTile, wo := 1, scale := 0, wver := 0, running := true }
/-- The word OP, VD, VA, VB and the bits below (R183). -/
def kword (op vd va vb low : Nat) : Nat := op <<< 26 + vd <<< 21 + va <<< 16 + vb <<< 11 + low
/-- Core 0 with a running kernel whose first word is given: type, group size, VL. -/
def kernState (r : BitVec 512) (n : Kern) (word et lg vl : Nat) : State :=
  { base with cores := [(0, { ve := [{ mkCmd r with a := { got := 1 } }], slots := [(0, { hdr := 0, pay := BitVec.ofNat 32768 word }), (1, plainTile)]
                              kern := some n, vreg := BitVec.ofNat 16384 (5 + 7 <<< 512), et := et, lg := lg, vl := vl
                              x := [(1, 0xFFFFFFFF), (2, 16)] })] }
/-- The conditions of KernelAt on core 0 with kernel `n` at word 0, as a check. -/
def kernAt (s : State) (r : BitVec 512) (n : Kern) (op : Nat) : Bool :=
  decide (s.active 4 0 = some (0, { mkCmd r with a := { got := 1 } })) && s.stRuns 4 0 && Record.opcode r == 1 &&
    decide ((s.core 0).kern = some n) && n.running && decide (n.pc ≤ 1023) && (KWord.of (kernWord (s.core 0) r n.pc)).op == op
theorem kernAt_meets {s : State} {r : BitVec 512} {n : Kern} {op : Nat} (h : kernAt s r n op = true) :
    KernelAt s 0 op { mkCmd r with a := { got := 1 } } n (KWord.of (kernWord (s.core 0) r n.pc)) := by
  simp only [kernAt, Bool.and_eq_true, decide_eq_true_eq, beq_iff_eq, and_assoc] at h
  exact ⟨⟨h.1, h.2.1, h.2.2.1⟩, rfl, h.2.2.2.1, h.2.2.2.2.1, h.2.2.2.2.2.1, rfl, h.2.2.2.2.2.2⟩
/-- The word at the pc of kernel 0. -/
def wordAt (s : State) : KWord := KWord.of (kernWord (s.core 0) vectRec 0)

/-- A waiting RUN record on an awake, or a napping, unit. -/
def runWaits (nap : Bool) : State :=
  ({ base with cores := [(0, { ve := [freshCmd 1 4 0], slots := [(0, sealedTile)] })] }).setField (Reg.vectStat 0) 30 1 (b2n nap)
def stepCmd : Cmd := { mkCmd vectRec with a := { got := 1 } }
def stepState : State := kernState vectRec { kern0 with running := false } 0 0 0 0
def awake : State := (base.clearBit (Reg.vectStat 0) 30).setBit (Reg.vectCtl 0) 0
/-- A step with two input tiles. -/
def twoCmd : Cmd := { mkCmd (mkRec 1 4 0 0 (mkDesc 4 0 0 1 0 1 1) (mkDesc 4 0 0 1 0 1 1) (mkDesc 4 0 0 2 0 1 1)) with
  a := { got := 1 }, b := { got := 1 } }
def twoState : State := { base with cores := [(0, { ve := [twoCmd], slots := [(1, plainTile)], kern := some { kern0 with running := false } })] }
/-- A RUN record that waits for a counter. -/
def idleCmd : Cmd := { r := mkRec 1 4 0 0 0 0 0 ||| BitVec.ofNat 512 (0x45 <<< 96 + 1 <<< 128) }
def idleState : State :=
  (({ base with cores := [(0, { ve := [idleCmd] })] }).clearBit (Reg.vectStat 0) 30).setBit (Reg.vectCtl 0) 0
/-- A RADD record that waits for its unit to wake. -/
def raddWaits : State := ({ base with cores := [(0, { ve := [freshCmd 2 4 0] })] }).setBit (Reg.vectStat 0) 29
theorem witness_RunBegins :
    AtWork (runWaits false) 4 0 1 0 (freshCmd 1 4 0) ∧ (runWaits false).napped 0 = false ∧
    BeginsFreely (runWaits false) 4 0 (freshCmd 1 4 0) [256, 256, 256] ∧
    checkTile (((runWaits false).core 0).slot (Record.argBits (freshCmd 1 4 0).r 26 6)) { tid := 0 } 256 (fun _ => none) false =
      .good sealedTile := by
  refine ⟨by unfold AtWork; decide +kernel, by decide +kernel, begins_freely _ _ _ _ _ (by decide +kernel), ?_⟩
  rw [(by decide +kernel : Record.argBits (freshCmd 1 4 0).r 26 6 = 0)]
  exact sealedTile_good _ rfl
theorem witness_RunWakes :
    AtWork (runWaits true) 4 0 1 0 (freshCmd 1 4 0) ∧ (runWaits true).napped 0 = true ∧
    (runWaits true).flag (Reg.vectStat 0) 29 = false ∧ (runWaits true).mayBegin 4 0 (freshCmd 1 4 0).r = true := by
  unfold AtWork; decide +kernel
theorem witness_RunStepStarts :
    (AtWork stepState 4 0 1 0 stepCmd ∧ (stepState.core 0).kern = some { kern0 with running := false } ∧
      (Record.desc stepCmd.r 1).kind = 0 ∧ TileComes stepState 4 0 0 stepCmd 0 0 stepState stepCmd plainTile) ∧
    (AtWork twoState 4 0 1 0 twoCmd ∧ (twoState.core 0).kern = some { kern0 with running := false } ∧
      (Record.desc twoCmd.r 1).kind ≠ 0 ∧ bit (Record.arg twoCmd.r) 10 = false ∧
      TileComes twoState 4 0 0 twoCmd 0 0 twoState twoCmd plainTile ∧ TileComes twoState 4 0 0 twoCmd 1 0 twoState twoCmd plainTile) := by
  have h : ∀ (s : State) (c : Cmd) (o : Nat), 0 < (c.flow o).got → s.heldTile 0 c o 0 = plainTile →
      TileComes s 4 0 0 c o 0 s c plainTile := fun s c o p q => ⟨.inl ⟨p, rfl, rfl⟩, q.symm⟩
  refine ⟨⟨by unfold AtWork; decide +kernel, rfl, by decide +kernel, h _ _ _ (by decide) (by decide +kernel)⟩,
    by unfold AtWork; decide +kernel, rfl, by decide +kernel, by decide +kernel, h _ _ _ (by decide) (by decide +kernel),
    h _ _ _ (by decide) (by decide +kernel)⟩
theorem witness_NapAndWake :
    (awake.flag (Reg.vectCtl 0) 0 = true ∧ awake.napped 0 = false ∧ awake.handStopped 0 = false ∧ awake.active 4 0 = none) ∧
    (idleState.flag (Reg.vectCtl 0) 0 = true ∧ idleState.napped 0 = false ∧ idleState.handStopped 0 = false ∧
      idleState.active 4 0 = some (0, idleCmd) ∧ idleCmd.begun = false ∧ idleState.mayBegin 4 0 idleCmd.r = false) ∧
    ((runWaits false).active 4 0 = some (0, freshCmd 1 4 0) ∧ (runWaits false).mayBegin 4 0 (freshCmd 1 4 0).r = true) ∧
    ((base.setBit (Reg.vectStat 0) 29).flag (Reg.vectStat 0) 29 = true ∧
      (base.setBit (Reg.vectStat 0) 29).handStopped 0 = false ∧ (base.setBit (Reg.vectStat 0) 29).active 4 0 = none) ∧
    (raddWaits.flag (Reg.vectStat 0) 29 = true ∧ raddWaits.active 4 0 = some (0, freshCmd 2 4 0) ∧ raddWaits.stRuns 4 0 = true ∧
      (freshCmd 2 4 0).begun = false ∧ Record.opcode (freshCmd 2 4 0).r = 2) := by decide +kernel
theorem witness_WakeBegins : BeginsFreely raddWaits 4 0 (freshCmd 2 4 0) [256, 256, 256] :=
  begins_freely _ _ _ _ _ (by decide +kernel)
/-- VEND: with an output after the last step, and without one before it. -/
theorem witness_StepEnds :
    (kernAt (kernState vectRec kern0 0 0 0 0) vectRec kern0 0 = true ∧ bit (Record.arg vectRec) 11 = false ∧
      kern0.step + 1 = (Record.desc vectRec 0).count ∧ (kernState vectRec kern0 0 0 0 0).canPut 0 (Record.desc vectRec 2) = true) ∧
    (kernAt (kernState onceRec kern0 0 0 0 0) onceRec kern0 0 = true ∧ bit (Record.arg onceRec) 11 = true ∧
      ¬ kern0.step + 1 = (Record.desc onceRec 0).count) := by decide +kernel

theorem witness_VectArithmeticWords :
    (∀ op ∈ [0x10, 0x11, 0x12, 0x13, 0x14, 0x15, 0x16, 0x17, 0x18, 0x19, 0x1A], ∀ z ∈ [(0, 3, 64), (3, 0, 32), (0, 0, 0)],
      let s := kernState vectRec kern0 (kword op 8 16 24 0x400) z.1 z.2.1 z.2.2
      let o := s.core 0
      kernAt s vectRec kern0 op = true ∧ EtRule.fp.ok o.et = true ∧ grpOk 8 o.g = true ∧ grpOk 16 o.g = true ∧ grpOk 24 o.g = true ∧
        (wordAt s).m = true ∧ (wordAt s).vd = 8 ∧ (wordAt s).va = 16 ∧ (wordAt s).vb = 24) := by decide +kernel
/-- 2^15 - 1 plus 1 wraps in INT16 (R184). -/
theorem test_vadd_wraps :
    after (.vadd 0) (kernState vectRec kern0 (kword 0x10 2 1 0 0) 5 0 1)
      (fun t => vget (t.core 0).vreg.toNat 16 2 0) = some 12 := by decide +kernel

theorem witness_VectIntegerWords :
    ∀ op ∈ [0x20, 0x21, 0x22, 0x23, 0x24, 0x28, 0x29, 0x2A, 0x2B], ∀ z ∈ [(5, 3, 256), (6, 0, 1)],
      let s := kernState vectRec kern0 (kword op 8 16 24 0x200) z.1 z.2.1 z.2.2
      kernAt s vectRec kern0 op = true ∧ EtRule.q.ok (s.core 0).et = true ∧ EtRule.int.ok (s.core 0).et = true ∧
        grpOk 8 (s.core 0).g = true ∧ grpOk 24 (s.core 0).g = true ∧ (wordAt s).m = false ∧ (wordAt s).vb = 24 := by
  decide +kernel

theorem witness_VectConvertsComparesAndSums :
    (let s := kernState vectRec kern0 (kword 0x30 8 16 0 (0 <<< 5)) 2 0 32
     kernAt s vectRec kern0 0x30 = true ∧ (wordAt s).et2 = 0 ∧ max 1 ((s.core 0).g * sew 0 / sew 2) = 4 ∧ grpOk 8 4 = true ∧
       grpOk 16 (s.core 0).g = true ∧ (wordAt s).m = false) ∧
    (let s := kernState vectRec kern0 (kword 0x2C 8 16 15 (4 <<< 5 + 0x600)) 6 3 128
     kernAt s vectRec kern0 0x2C = true ∧ (wordAt s).et2 = 4 ∧ etFp 6 = false ∧ etFp 4 = false ∧
       max 1 ((s.core 0).g * sew 4 / sew 6) = 2 ∧ grpOk 8 2 = true ∧ grpOk 16 (s.core 0).g = true ∧ (wordAt s).m = true) ∧
    (∀ op ∈ [0x1C, 0x1D, 0x1E], ∀ vl ∈ [0, 512],
      let s := kernState vectRec kern0 (kword op 0 8 16 0x400) 4 3 vl
      kernAt s vectRec kern0 op = true ∧ grpOk 8 (s.core 0).g = true ∧ grpOk 16 (s.core 0).g = true ∧ (s.core 0).vl = vl) ∧
    (∀ vl ∈ [0, 512],
      let s := kernState vectRec kern0 (kword 0x31 8 16 0 0) 4 3 vl
      kernAt s vectRec kern0 0x31 = true ∧ grpOk 8 (s.core 0).g = true ∧ etFp (s.core 0).et = false) := by decide +kernel

theorem witness_VectLoadsAndStores :
    (∀ x ∈ ([(8, 1), (9, 2), (10, 3), (11, 4)] : List (Nat × Nat)), ∀ low ∈ [0x100, 0x400],
      let s := kernState vectRec kern0 (kword x.1 4 2 0 low) 0 0 8
      kernAt s vectRec kern0 x.1 = true ∧ (s.core 0).vl * sew (s.core 0).et ≤ 512 * 2 ^ (s.core 0).lg ∧
        accessOk (s.core 0) (wordAt s) x.2 false = true) ∧
    (∀ low ∈ [0x100, 0x400],
      let s := kernState vectRec kern0 (kword 0x33 8 2 0 low) 4 3 512
      kernAt s vectRec kern0 0x33 = true ∧ (s.core 0).vl * sew (s.core 0).et ≤ 512 * 2 ^ (s.core 0).lg ∧
        accessOk (s.core 0) (wordAt s) 1 false = true) ∧
    (∀ x ∈ ([(12, 1), (13, 2), (14, 3), (15, 4)] : List (Nat × Nat)), ∀ low ∈ [0x110, 0x410],
      let s := kernState vectRec kern0 (kword x.1 4 2 0 low) 0 0 8
      kernAt s vectRec kern0 x.1 = true ∧ (s.core 0).vl * sew (s.core 0).et ≤ 512 * 2 ^ (s.core 0).lg ∧
        accessOk (s.core 0) (wordAt s) x.2 true = true) := by decide +kernel

theorem witness_ScalarWords :
    (∀ x ∈ ([(0, 0), (15, 0x36), (1, 4)] : List (Nat × Nat)),
      let s := kernState vectRec kern0 (kword 1 x.1 1 0 x.2) 0 0 8
      kernAt s vectRec kern0 1 = true ∧ (wordAt s).va ≤ 15 ∧ (wordAt s).vd ≤ 15 ∧ (wordAt s).imm % 8 ≠ 7) ∧
    (∀ op ∈ [2, 3, 4], ∀ x ∈ ([(0, 15), (15, 0), (2, 0x8001)] : List (Nat × Nat)),
      let s := kernState vectRec kern0 (kword op x.1 1 0 x.2) 0 0 8
      kernAt s vectRec kern0 op = true ∧ (wordAt s).va ≤ 15 ∧ (wordAt s).vd ≤ 15 ∧ (wordAt s).imm % 32 ≤ 15) ∧
    (∀ x ∈ ([(0, 1023), (1, 0), (1, 1023)] : List (Nat × Nat)),
      let s := kernState vectRec kern0 (kword 5 0 x.1 0 x.2) 0 0 8
      kernAt s vectRec kern0 5 = true ∧ (wordAt s).va ≤ 15 ∧ 0 ≤ (kern0.pc : Int) + (wordAt s).imm ∧
        (kern0.pc : Int) + (wordAt s).imm ≤ 1023) := by decide +kernel
/-- SETL grants min(xa, VLMAX): 4 x 512 / 8 elements of INT8 in groups of 4 (R174). -/
theorem test_setl_grants :
    after (.setl 0) (kernState vectRec kern0 (kword 1 3 1 0 0x24) 0 0 8) (fun t => ((t.core 0).vl, (t.core 0).xr 3)) =
      some (256, 256) := by decide +kernel

/-! ## The pivot engine -/

def solveCmd : Cmd := mkCmd (mkRec 1 6 16 0 0 0 0)
def gradCmd : Cmd := mkCmd (mkRec 2 6 16 0 0 0 0)
/-- MAXIT 10 and TOL_CONV 2^-20 (R215). -/
def pvDesc (state : Nat) : BitVec 2048 := BitVec.ofNat 2048 (10 <<< 32 + ((1023 - 20) * 2 ^ 52) <<< 192 + state <<< 448)
/-- One variable, no constraint: minimise q * x. -/
def oneVar (q : Nat) : Qp := { n := 1, q := [q], perm := [0] }
def oneFact (w : Nat) : Fact := { w := [[w]], l := [[]], d := [0], dmax := 0 }
def infW : Nat := 0x7FF0000000000000
/-- A problem that stands in vector phase `vp` of a phase, with the vectors given. -/
def pvProb (phase vp : Nat) (vecs : PMap (List Nat)) : Prob :=
  { ix := 0, desc := pvDesc 0, qp := oneVar oneW, phase := phase, it := 1, iter := { x := [0] }, fact := oneFact oneW, vp := vp, vecs := vecs }
def pvAt (p : Prob) (c : Cmd) : State := { base with hands := [(0, { pq := [c], probs := [p], frames := [0] })], time := 5 }
/-- The problem with its deadline past. -/
def lateProb (p : Prob) : Prob := { p with deadline := 5 }
/-- The last vector phases of the measures, with a residual of one row. -/
def measured (r : Nat) : Prob := pvProb 1 11 [(2, [r])]
/-- The problem at its last iteration. -/
def lastIt (p : Prob) : Prob := { p with it := 10 }
/-- Problems at work in each phase of a SOLVE. -/
def pvProbs : List Prob :=
  [pvProb 1 0 [], measured 0, measured oneW, pvProb 5 0 [], pvProb 5 1 [], pvProb 2 0 [], pvProb 3 0 [], pvProb 3 18 [(33, [oneW])],
    pvProb 6 0 [], pvProb 6 21 [(53, [oneW])], pvProb 7 0 [], pvProb 7 7 [(64, [oneW])], lateProb (pvProb 5 0 []), lateProb (pvProb 2 0 [])]
theorem witness_PivotWorks :
    (∀ p ∈ pvProbs, Works (pvAt p solveCmd) 6 0 1 0 solveCmd ∧ ((pvAt p solveCmd).hand 0).current = some 0 ∧
      ((pvAt p solveCmd).hand 0).probs[0]? = some p ∧ 0 ∈ ((pvAt p solveCmd).hand 0).frames ∧ Record.argBits solveCmd.r 30 2 = 0) ∧
    (Works (pvAt (pvProb 4 0 []) solveCmd) 6 0 1 0 solveCmd ∧ ((pvAt (pvProb 4 0 []) solveCmd).hand 0).current = none ∧
      ((pvAt (pvProb 4 0 []) solveCmd).hand 0).probs ≠ []) := by
  simp only [Works, AtWork]; decide +kernel
/-- A fallback and a returned point may be written: every output of the problem is absent. -/
theorem witness_PivotSettles :
    ∀ p ∈ pvProbs, ((pvAt p solveCmd).pvWrites 0 solveCmd (p.fallen 3) p.fbx p.fby Fmt.fp64.qnan Fmt.fp64.qnan).isOk = true ∧
      ((pvAt p solveCmd).pvWrites 0 solveCmd (p.returned 1) p.iter.x [] 0 p.mu).isOk = true := by decide +kernel
/-- What a run to the next stop point answers: whether the list of phases is done, and how a value found at its end stands. -/
def ranTo {α : Type} (p : Prob) (fs : List VPhase) (f : Prob → α) : Bool × α :=
  let r := (pvAt p solveCmd).pvRun 0 p fs
  (r.2.2, f r.2.1)
theorem witness_PivotMeasures :
    (pvProb 1 0 []).lateFirst 5 = false ∧ (lateProb { pvProb 1 0 [] with it := 0 }).lateFirst 5 = true ∧
    ranTo (pvProb 1 0 []) (measurePhases (oneVar oneW) { x := [0] }) (fun _ => ()) = (false, ()) ∧
    (∀ x ∈ ([(0, true, true), (0x3ED0000000000000, false, true), (oneW, false, false)] : List (Nat × Bool × Bool)),
      ranTo (measured x.1) (measurePhases (oneVar oneW) { x := [0] }) (fun q =>
        (leW (vecAt q.vecs 11 0) (PDesc.tolConv q.desc), leW (vecAt q.vecs 11 0) (PDesc.tolAcc q.desc))) = (true, x.2)) ∧
    ((measured 0).it ≠ PDesc.maxIt (measured 0).desc ∧ (measured 0).late 5 = false ∧
      (lastIt (measured 0)).it = PDesc.maxIt (measured 0).desc ∧ (lateProb (measured 0)).late 5 = true) := by decide +kernel
theorem witness_PivotFactors :
    (pvProb 5 0 []).late 5 = false ∧ (lateProb (pvProb 5 0 [])).late 5 = true ∧
    (∀ vp < 2, ranTo (pvProb 5 vp []) (formPhases (oneVar oneW) { x := [0] }) (fun _ => ()) = (vp == 1, ())) ∧
    (let s := pvAt (pvProb 2 0 []) solveCmd
     let f := fun (w : Nat) => (s.eng 0 (nextColE (s.tauOf 0 (pvDesc 0)) (oneFact w) 0)).1
     (f oneW).done = [0] ∧ (f oneW).finite = true ∧ (f infW).finite = false) ∧
    ([0].length < ({ oneVar oneW with m := 1 } : Qp).n + 1) := by decide +kernel
theorem witness_PivotAffine :
    ∀ x ∈ ([(0, oneW), (18, oneW), (18, infW)] : List (Nat × Nat)),
      ranTo (pvProb 3 x.1 [(33, [x.2])]) (affinePhases (oneVar oneW) { x := [0] } (oneFact oneW)) (fun q =>
        x.1 == 0 || (Step.of q.qp q.vecs 20).finite) = (x.1 == 18, x.2 == oneW) := by decide +kernel
theorem witness_PivotCombined :
    ∀ x ∈ ([(0, oneW), (21, oneW), (21, infW)] : List (Nat × Nat)),
      ranTo (pvProb 6 x.1 [(53, [x.2])]) (combinedPhases (oneVar oneW) { x := [0] } (oneFact oneW) 0) (fun q =>
        x.1 == 0 || (Step.of q.qp q.vecs 40).finite) = (x.1 == 21, x.2 == oneW) := by decide +kernel
theorem witness_PivotMoves :
    ∀ x ∈ ([(0, oneW), (7, oneW), (7, infW)] : List (Nat × Nat)),
      ranTo (pvProb 7 x.1 [(64, [x.2])]) (movePhases (oneVar oneW) { x := [0] }) (fun q =>
        x.1 == 0 || (Iter.of q.vecs).finite) = (x.1 == 7, x.2 == oneW) := by decide +kernel
/-- Two open problems, of which the first has its slot at tile 0 of tensor 1: its iterate is saved when the turn passes. -/
def savedProb : Prob := { pvProb 7 7 [(64, [oneW])] with desc := pvDesc 1, slot := some 0x3A000 }
def saveState : State :=
  tensors { base with hands := [(0, { pq := [solveCmd], probs := [savedProb, pvProb 1 0 []], frames := [0, 1] })], time := 5 }
theorem saveState_safe : Safe saveState :=
  ⟨by simp only [saveState, tensors, base]; exact Memory.wf_write _ _ _ (by decide), rfl, rfl, .nil, .nil⟩
/-- Tiles of tensor 1 may be written at 0x9000 and 0xA000: the pages lie above the tables that map them. -/
theorem saveState_writes (t : Tile) : ∃ s1, saveState.writeTile 0 1 0x9000 0xA000 t = .ok s1 :=
  ⟨_, writeTile_ok saveState 0 1 0x9000 0xA000 0x39000 0x3A000 false t (by decide +kernel) (by decide +kernel)
    ((translate_storeVa saveState 0 1 0x9000 0x39000 32 t.hdr.toNat 0xA000 0x30000 .write saveState_safe.1
      ⟨by decide +kernel, by decide +kernel, by decide +kernel⟩ (by decide) (by decide +kernel)
      (by decide +kernel)).trans (by decide +kernel))⟩
theorem saveState_puts (pay : BitVec 32768) : ∃ s1, saveState.pvPut 0 (PDesc.ref savedProb.desc 1) 0 6 true pay = .ok s1 := by
  have r : refTid (PDesc.ref savedProb.desc 1) = 1 ∧ saveState.refPos (PDesc.ref savedProb.desc 1) 0 = (0, 0) ∧
      Entry.hdrAddr (saveState.entry 1) 0 0 0 = 0x9000 ∧ Entry.payAddr (saveState.entry 1) 0 0 0 = 0xA000 := by decide +kernel
  obtain ⟨s1, e⟩ := saveState_writes (Tile.seal (Head.full { tid := 1, row := 0, col := 0, fmt := 6, scale := Entry.scale (saveState.entry 1), last := true }) pay)
  exact ⟨s1, by simp only [State.pvPut, r.1, r.2.1, r.2.2.1, r.2.2.2]; exact e⟩
theorem pvSave_ok (s : State) (h : Nat) (p : Prob) (pa : Nat) (k : p.tiles = 1)
    (w : ∀ pay, ∃ s1, s.pvPut h (PDesc.ref p.desc 1) 0 6 true pay = .ok s1) : ∃ s2, s.pvSave h p pa = .ok s2 := by
  unfold State.pvSave State.putSlot
  dsimp only
  rw [k, decide_eq_true (Nat.le_refl 1)]
  generalize BitVec.ofNat 32768 _ = pay
  obtain ⟨s1, e⟩ := w pay
  rw [e]
  exact ⟨_, rfl⟩
theorem saveState_saves : ∃ s2, saveState.pvSave 0 savedProb 0x3A000 = .ok s2 := pvSave_ok _ _ _ _ rfl saveState_puts
theorem witness_PivotSaves :
    (saveState.hand 0).othersOpen 0 = true ∧ (saveState.hand 0).current = some 0 ∧ savedProb.slot = some 0x3A000 ∧
    ((pvAt savedProb solveCmd).hand 0).othersOpen 0 = false := by
  decide +kernel
/-- Rank 0 of a schedule-mode group that forms its matrix. -/
def groupCmd : Cmd := mkCmd (mkRec 1 6 16 0x40000000 0 0 0)
theorem witness_PivotGroupAndDeadline :
    (Works (pvAt (pvProb 5 1 []) groupCmd) 6 0 1 0 groupCmd ∧ Record.argBits groupCmd.r 30 2 = 1 ∧ Record.argBits groupCmd.r 19 4 = 0 ∧
      ((pvAt (pvProb 5 1 []) groupCmd).hand 0).aborted (pvProb 5 1 []) = false) ∧
    (∀ p ∈ [lateProb (pvProb 5 0 []), lateProb (pvProb 2 0 []), lateProb { pvProb 1 0 [] with it := 0 }],
      AtWork (pvAt p solveCmd) 6 0 1 0 solveCmd ∧ ((pvAt p solveCmd).hand 0).probs[0]? = some p ∧ p.endsNow 5 = true) := by
  simp only [Works, AtWork]; decide +kernel
def gradProb (phase vp : Nat) (w : Nat) : Prob := { pvProb phase vp [(29, [w])] with vp := vp }
theorem witness_PivotGrads :
    (∀ p ∈ [gradProb 3 0 oneW, gradProb 3 12 oneW, gradProb 3 12 infW, gradProb 6 0 oneW, gradProb 6 3 oneW],
      Works (pvAt p gradCmd) 6 0 2 0 gradCmd ∧ ((pvAt p gradCmd).hand 0).current = some 0 ∧
      ((pvAt p gradCmd).hand 0).probs[0]? = some p ∧
      ((pvAt p gradCmd).gradWrites 0 gradCmd p 0 0 none).isOk = true ∧
      ((pvAt p gradCmd).gradWrites 0 gradCmd p 0 0 (some (Grads.of p.qp p.vecs))).isOk = true) ∧
    ((pvAt (pvProb 4 0 []) gradCmd).hand 0).current = none ∧
    (∀ x ∈ ([(0, oneW), (12, oneW), (12, infW)] : List (Nat × Nat)),
      ranTo (gradProb 3 x.1 x.2) (gradSolve (oneVar oneW) {}) (fun q => x.1 == 0 || (vecOf q.vecs 29).all isFin) =
        (x.1 == 12, x.2 == oneW)) ∧
    (∀ vp ∈ [0, 3], ranTo (gradProb 6 vp oneW) (gradOuts (oneVar oneW) {}) (fun _ => ()) = (vp == 3, ())) ∧
    (Record.argBits (mkCmd (mkRec 2 6 16 (0x40000000 + 1 <<< 19) 0 0 0)).r 30 2 = 1 ∧
      Record.argBits (mkCmd (mkRec 2 6 16 (0x40000000 + 1 <<< 19) 0 0 0)).r 19 4 ≠ 0) := by
  simp only [Works, AtWork]; decide +kernel

/-- A schedule-mode SOLVE of rank 0 in a group of two, at one step of its list. -/
def schedCmd (rank : Nat) : Cmd := mkCmd (mkRec 1 6 16 (0x40000000 + rank <<< 19) 0 0 0)
def schedProb (x : Nat) : Prob :=
  { pvProb 2 0 [] with ranks := 2, sched := [BitVec.ofNat 128 x], slot := some 0x3A000, qp := { oneVar 0 with m := 0 } }
def schedState (rank x : Nat) (sent : Bool) (tokens : List (Nat × Nat × Nat)) : State :=
  { base with
    hands := [(0, { pq := [schedCmd rank], probs := [schedProb x], syncSent := sent, tokens := tokens })]
    pvSlots := [(0x3A000, { fact := oneFact oneW })] }
/-- A step of KIND, PEER, LEN 1 and C0 0 (R219). -/
def stepBits (kind peer : Nat) : Nat := kind <<< 120 + peer <<< 116 + 1 <<< 64
/-- The tokens of the problem's run carry this tag. -/
def tagOne : Nat := 1
theorem witness_ScheduleSteps :
    (∀ kind ∈ [0, 1, 2, 3, 4, 5],
      (schedState 0 (stepBits kind 1) false []).schedStep 0 kind =
          some (schedCmd 0, schedProb (stepBits kind 1), BitVec.ofNat 128 (stepBits kind 1)) ∧
        (schedProb (stepBits kind 1)).slot = some 0x3A000 ∧ SchedStep.ok (BitVec.ofNat 128 (stepBits kind 1)) 1 2 = true) ∧
    -- RECV: one token of the peer covers the column
    ((schedState 0 (stepBits 4 1) false [(1, 2 ^ 32, tagOne)]).schedStep 0 4 =
        some (schedCmd 0, schedProb (stepBits 4 1), BitVec.ofNat 128 (stepBits 4 1)) ∧ (schedProb (stepBits 4 1)).tag = tagOne ∧
      ∀ j < SchedStep.len (BitVec.ofNat 128 (stepBits 4 1)),
        ∃ y ∈ ((schedState 0 (stepBits 4 1) false [(1, 2 ^ 32, tagOne)]).hand 0).tokens,
          y.1 = 1 ∧ y.2.2 = tagOne ∧ y.2.1 % 2 ^ 32 ≤ 0 + j ∧ 0 + j < y.2.1 % 2 ^ 32 + y.2.1 / 2 ^ 32) ∧
    -- SYNC: every other rank has told
    ((schedState 0 (stepBits 5 1) true [(3 * 16 + 1, 0, tagOne)]).schedStep 0 5 =
        some (schedCmd 0, schedProb (stepBits 5 1), BitVec.ofNat 128 (stepBits 5 1)) ∧
      ((schedState 0 (stepBits 5 1) true [(3 * 16 + 1, 0, tagOne)]).hand 0).syncSent = true ∧
      ∀ r ∈ otherRanks (schedProb (stepBits 5 1)) 0,
        ((schedState 0 (stepBits 5 1) true [(3 * 16 + 1, 0, tagOne)]).hand 0).hasToken (schedProb (stepBits 5 1)) 3 r = true) ∧
    -- END of a rank other than 0
    ((schedState 1 (stepBits 0 0) false []).schedStep 0 0 =
      some (schedCmd 1, schedProb (stepBits 0 0), BitVec.ofNat 128 (stepBits 0 0)) ∧ Record.argBits (schedCmd 1).r 19 4 = 1) := by
  decide +kernel

/-! ## Collectives -/

/-- A descriptor of one row and some columns of suit 0: OP, columns, SLOTS, fallback tensor 1 (R366). -/
def cdesc (op cols slots : Nat) : BitVec 2048 :=
  BitVec.ofNat 2048 (1 + op <<< 16 + 7 <<< 32 + slots <<< 48 + 1 <<< 64 + 1 <<< 80 + 1 <<< 128 + 1 <<< 132 + cols <<< 142 +
    1 <<< 192 + 1 <<< 320 + 1 <<< 384)
def descTile (d : BitVec 2048) : Tile := { hdr := 0, pay := BitVec.ofNat 32768 d.toNat }
/-- A COLL with extents a and c, TAG 9, descriptor tile 0 of tensor 1. -/
def collRec (a c : Nat) : BitVec 512 := mkRec 1 7 16 (9 <<< 4) a (mkDesc 1 0 1 0 0 1 1) c
/-- Such a COLL that has read the descriptor d. -/
def collCmd (d : BitVec 2048) (a c out : Nat) : Cmd :=
  { mkCmd (collRec a c) with b := { got := 1, buf := [descTile d] }, out := out }
def collHand (c : Cmd) (s : State) : State := s.setHand 0 { s.hand 0 with xq := [c] }
/-- Tensor 1: four tiles from 0xA000, headers from 0x9000, of which the first is t. -/
def holding (t : Tile) (s : State) : State :=
  { s with
    mem := Memory.write (Memory.write (Memory.write s.mem 0x38040 64 (entry1 + 3 <<< 148)) 0x39000 32 t.hdr.toNat) 0x3A000 8 t.pay.toNat
    job := { s.job with tensorVa := 0x8000, tensorCount := 2 } }
/-- A tile of zeros, and one whose first 8 bytes are 2^63. -/
def zeroTile (fmt : Nat) : Tile := rowTile 1 0 0 fmt 0 0x98F94189 0
def topTile : Tile := rowTile 1 0 0 0 0 0x5b7334ca (2 ^ 63)
/-- What a read of tile 0 of tensor 1 by hand 0's XCHG needs, with what the tile is compared with. -/
def readable (s : State) (t : Tile) (k : Nat) (x : Expect) : Bool :=
  s.wayTo (cacheOf 7 0) 0x9000 && s.wayTo (cacheOf 7 0) 0xA000 && decide (s.vread 0x9000 32 = .ok t.hdr.toNat) &&
    decide (s.readTile 0x9000 0xA000 = .ok t) && soundFor t k x 256
theorem known_arrives (s : State) (t : Tile) (k : Nat) (hk : crc32c (toBytes 4096 t.pay.toNat) = k) (c : Cmd) (x : Expect)
    (more : Head → Option Bool) (h : readable s t k x = true) (hm : more t.head = none) :
    s.arriveMem 7 0 c x 256 0x9000 0xA000 more false = .ok (s.seenTile (cacheOf 7 0) x.tid 0x9000 0xA000) t := by
  simp only [readable, Bool.and_eq_true, decide_eq_true_eq] at h
  obtain ⟨⟨⟨⟨w1, w2⟩, rh⟩, rt⟩, a⟩ := h
  have g := known_reads s t k hk x 256 0x9000 0xA000 more hm rh rt a
  simp only [State.arriveMem, w1, w2, g]
  rfl
def joinReads : State := collHand (mkCmd (collRec 0 0)) (holding (zeroTile 6) base)
/-- A read of XCHG from memory without a version is one of the tile's place. -/
theorem arrive_xchg (s : State) (c : Cmd) (o : Nat) (fmt : Option Nat) (more : Head → Option Bool) (a b : Nat)
    (kind : (Record.desc c.r o).kind = 1) (got : (c.flow o).got = 0) (n : ¬ (Record.desc c.r o).count ≤ 0)
    (ver : c.ver.getD o 256 = 256) (va : s.tileVa (Record.desc c.r o) 256 0 = (a, b)) :
    s.arrive 7 0 c o fmt more false = s.arriveMem 7 0 c (s.expect c o 0 fmt) 256 a b more false := by
  have w : ¬ (7 ≤ 5 ∧ (256 : Nat) ≠ 257 ∧ (c.flow o).req.isEmpty = true ∧ (!((s.tileLines a b).map (·.2)).isEmpty) = true) := by simp
  simp only [State.arrive, got, if_neg n, kind, ver, va, if_neg w]
theorem joinReads_arrives :
    ∃ s1, joinReads.arrive 7 0 (mkCmd (collRec 0 0)) 1 (some 6) (fun _ => none) false = .ok s1 (zeroTile 6) := by
  have k : (Record.desc (collRec 0 0) 1).kind = 1 ∧ (Record.desc (collRec 0 0) 1).count = 1 ∧
      joinReads.tileVa (Record.desc (collRec 0 0) 1) 256 0 = (0x9000, 0xA000) ∧
      readable joinReads (zeroTile 6) 0x98F94189 (joinReads.expect (mkCmd (collRec 0 0)) 1 0 (some 6)) = true := by decide +kernel
  refine ⟨_, Eq.trans ?_ (known_arrives joinReads (zeroTile 6) _ (crc_zero_row ..) (mkCmd (collRec 0 0)) _ (fun _ => none) k.2.2.2 rfl)⟩
  exact arrive_xchg joinReads (mkCmd (collRec 0 0)) 1 (some 6) (fun _ => none) 0x9000 0xA000 k.1 rfl
    (by rw [show (mkCmd (collRec 0 0)).r = collRec 0 0 from rfl, k.2.1]; decide) rfl k.2.2.1
def joinPacket (crc h : Nat) : Packet := { ctlPacket (epHand h 26) epDealer h (.join 7 9 crc h) with arrived := true }
def joinState : State := { collHand (collCmd (cdesc 7 3 0) 0 0 1) base with net := [joinPacket 5 0] }
/-- The other member has joined with another CRC. -/
def joinClash : State :=
  { joinState with colls := [{ g := 7, tag := 9, desc := cdesc 7 3 0, joins := [{ hand := 1, time := 0, crc := 6 }] }] }
theorem witness_CollectiveJoins :
    (Works joinReads 7 0 1 0 (mkCmd (collRec 0 0)) ∧
      ∃ s1, joinReads.arrive 7 0 (mkCmd (collRec 0 0)) 1 (some 6) (fun _ => none) false = .ok s1 (zeroTile 6)) ∧
    (Works (collHand (collCmd (cdesc 7 3 0) 0 0 0) base) 7 0 1 0 (collCmd (cdesc 7 3 0) 0 0 0) ∧
      (collCmd (cdesc 7 3 0) 0 0 0).b.got ≠ 0) ∧
    (joinState.net[0]? = some (joinPacket 5 0) ∧ joinState.collCmd 0 = some (collCmd (cdesc 7 3 0) 0 0 1) ∧ joinState.colls.length < 256 ∧
      joinState.findColl 7 9 = none ∧ (ring4.filter fun a => joinState.suitUp a && !joinState.folded a) = ring4 ∧
      joinState.joinOk ring4 (collCmd (cdesc 7 3 0) 0 0 1).collDesc 0 (collCmd (cdesc 7 3 0) 0 0 1).r = true ∧
      (let c : Coll := { g := 7, tag := 9, desc := cdesc 7 3 0 }
       joinState.collDoomed c = false ∧ joinState.fullyJoined { c with joins := [{ hand := 0, time := 0, crc := 5 }] } = false)) ∧
    -- the last member: the only one
    (let s := { collHand (collCmd (cdesc 7 1 0) 0 0 1) base with net := [joinPacket 5 0] }
     let c : Coll := { g := 7, tag := 9, desc := cdesc 7 1 0, joins := [{ hand := 0, time := 0, crc := 5 }] }
     s.joinOk ring4 (collCmd (cdesc 7 1 0) 0 0 1).collDesc 0 (collCmd (cdesc 7 1 0) 0 0 1).r = true ∧ s.fullyJoined c = true ∧
       s.sizesAgree c = true ∧ s.collDoomed { c with joins := [] } = false) ∧
    ((joinClash.findColl 7 9).isSome = true ∧ ∀ c, joinClash.findColl 7 9 = some c → ∃ j ∈ c.joins, j.crc ≠ 5) :=
  ⟨⟨by unfold Works AtWork; decide +kernel, joinReads_arrives⟩, by unfold Works AtWork; decide +kernel,
    by decide +kernel, by decide +kernel, by decide +kernel, by
    intro c h
    have e : joinClash.findColl 7 9 =
        some { g := 7, tag := 9, desc := cdesc 7 3 0, joins := [{ hand := 1, time := 0, crc := 6 }] } := by decide +kernel
    rw [e] at h
    cases h
    exact ⟨_, List.mem_singleton.2 rfl, by decide⟩⟩

def joined (op slots : Nat) : Coll :=
  { g := 7, tag := 9, desc := cdesc op 1 slots, joins := [{ hand := 0, time := 0, crc := 5 }], tFull := some 0 }
/-- The dealer holds c, whose members' table of detours is tensor 1. -/
def dealerState (c : Coll) (time : Nat) : State := { holding (zeroTile 0) base with colls := [c], time := time }
def prunePacket : Packet := { ctlPacket (epHand 1 26) (epHand 0 26) 0 (.prune 7 9 [0]) with arrived := true }
theorem witness_CollectivesAdmittedAndReported :
    (∀ x ∈ [joined 7 0, joined 1 1, joined 1 256, joined 8 1],
      (dealerState x 0).findColl 7 9 = some x ∧ (dealerState x 0).marked 656 = false ∧
        (dealerState x 0).bell.stopped.contains 656 = false ∧ (dealerState x 0).collDoomed x = false ∧
        (dealerState x 0).vectorFromStart x = false ∧ (slotEnds x.desc = [] ∨ (dealerState x 0).canReserve x = true)) ∧
    ((dealerState (joined 1 0) 0).collDoomed (joined 1 0) = false ∧ (dealerState (joined 1 0) 0).vectorFromStart (joined 1 0) = true ∧
      (dealerState (joined 1 0) 0).fallbackWay (joined 1 0) = true) ∧
    ({ dealerState (joined 7 0) 0 with bell := { marked := [656] } }.marked 656 = true) ∧
    (let s := dealerState (joined 1 1) 10000000
     (joined 1 1).tFull = some 0 ∧ s.waiting (joined 1 1) = true ∧ 0 + max 1 (s.field Reg.dealerCtl 4 12) * 1000 + (0 - 0) < s.time ∧
       s.names (refTid (CDesc.fallback (joined 1 1).desc)) = true ∧ s.fallbackWay (joined 1 1) = true) ∧
    (let c : Coll := { g := 7, tag := 9, desc := cdesc 7 3 0, joins := [{ hand := 0, time := 0, crc := 5 }] }
     let s := dealerState c (max 1 (base.field Reg.dealerCtl 16 16) * 1000000)
     s.findColl 7 9 = some c ∧ 1 ∈ s.wanted c ∧ (∀ j ∈ c.joins, j.hand ≠ 1) ∧ 1 ∉ c.timedOut ∧
       c.tFirst + max 1 (s.field Reg.dealerCtl 16 16) * 1000000 + c.paused ≤ s.time ∧ s.bell.stopped.contains 656 = false) ∧
    (let c : Coll := { joined 1 1 with admitted := true, slots := 1 }
     (dealerState c 0).findColl 7 9 = some c ∧ CDesc.reduces c.desc = true ∧ 1 ∈ slotEnds c.desc) ∧
    ({ dealerState (joined 4 0) 0 with net := [prunePacket] }.net[0]? = some prunePacket ∧ prunePacket.msg = .prune 7 9 [0] ∧
      (dealerState (joined 4 0) 0).findColl 7 9 = some (joined 4 0)) := by decide +kernel

/-- Member 0's COLL of an operation: its first tile goes where OPD2 says (tensor 1, tiles of zeros). -/
def moveCmd (op o : Nat) : Cmd := collCmd (cdesc op 1 1) (mkDesc 1 0 1 0 0 1 1) o 1
/-- Its OPD2: the second tile, the first tile, or P8 of core 0. -/
def toSecond : Nat := mkDesc 1 0 1 0 1 1 1
def toFirst : Nat := mkDesc 1 0 1 0 0 1 1
def toPort : Nat := mkDesc 3 0 (epCore 0) 0 0 1 1
def moving (op : Nat) : Coll := { joined op 1 with admitted := true, places := [(1, [0]), (0, [0])] }
/-- The collective at work. -/
def moveState (op o : Nat) (t : Tile) : State :=
  { holding t base with hands := [(0, { xq := [moveCmd op o], p8held := [(p8Key 26 0, 1)] })], colls := [moving op] }
def okE {α β : Type} : Except α β → Bool
  | .ok _ => true
  | .error _ => false
/-- After a read of the tile by XCHG, its translations are cached. -/
def State.tileSeen (s : State) : State := s.seenTile (cacheOf 7 0) 1 0x9000 0xA000
/-- What a read of tile 0 by member 0 needs. -/
def reads (s : State) (c : Cmd) (t : Tile) (k : Nat) : Bool :=
  let d := Record.desc c.r 0
  let x : Expect := { tid := c.vtid.getD 0 d.tid, pos := some (d.pos 0), fmt := some (Entry.fmt (s.entry d.tid)) }
  decide (s.collRun 0 = some c) && decide (x.tid = 1) && decide (c.ver.getD 0 256 = 256) &&
    decide (s.tileVa d 256 0 = (0x9000, 0xA000)) && readable s t k x
/-- Member 0 reads tile 0, of any format or of the tile's own. -/
theorem member_reads {s : State} {c : Cmd} {t : Tile} {k : Nat} {fmt : Option Nat} (hk : crc32c (toBytes 4096 t.pay.toNat) = k)
    (h : reads s c t k = true) (hf : fmt = none ∨ fmt = some t.head.fmt) : s.collRead 0 0 fmt = .ok (State.tileSeen s, t) := by
  simp only [reads, Bool.and_eq_true, decide_eq_true_eq] at h
  obtain ⟨⟨⟨⟨run, tid⟩, ver⟩, va⟩, r⟩ := h
  rcases hf with rfl | rfl
  · have g := known_arrives s t k hk c _ (fun _ => none) r rfl
    simp only [tid] at g
    simp only [State.collRead, run, tid, ver, va, g, State.tileSeen]
  · have g := known_arrives s t k hk c _ (fun u => if u.fmt = t.head.fmt then none else some true) r (if_pos rfl)
    simp only [tid] at g
    simp only [State.collRead, run, tid, ver, va, g, State.tileSeen]
/-- Tiles of zeros move to the second tile, and to a port. -/
def movingZero (op : Nat) : State := moveState op toSecond (zeroTile 0)
def portZero : State := moveState 4 toPort (zeroTile 0)
theorem zero_readable : ∀ op ∈ [1, 2, 3, 4, 5, 6], reads (movingZero op) (moveCmd op toSecond) (zeroTile 0) 0x98F94189 = true := by
  decide +kernel
theorem port_readable : reads portZero (moveCmd 4 toPort) (zeroTile 0) 0x98F94189 = true := by decide +kernel
theorem zero_fmt : (zeroTile 0).head.fmt = 0 := by decide +kernel
theorem zero_read {op : Nat} (h : op ∈ [1, 2, 3, 4, 5, 6]) {fmt : Option Nat} (hf : fmt = none ∨ fmt = some 0) :
    (movingZero op).collRead 0 0 fmt = .ok (State.tileSeen (movingZero op), zeroTile 0) :=
  member_reads (crc_zero_row ..) (zero_readable op h) (zero_fmt.symm ▸ hf)
theorem seal_zero (h : Head) : Tile.seal h 0#32768 = { hdr := sealHdr h.word 0x98F94189, pay := 0#32768 } := by
  rw [Tile.seal, BitVec.toNat_zero, crc_zero_payload]

/-- The sum of one zero tile: one valid row of zeros. -/
def zeroSum : Head × BitVec 32768 := (Head.validAs {} (zeroTile 0).head, 0#32768)
theorem sums_at_work : ∀ op ∈ [1, 2], (movingZero op).collAt 7 9 op = some (moving op) ∧
    (movingZero op).collTodo (moving op) (0, 0) = true ∧
    (Machine.ringOf (moving op).desc).map (fun a => a * 160 + snakeHand 0) = [0] ∧
    srcW (moving op).desc = 1 ∧ (if CDesc.wide (moving op).desc then 0 else CDesc.pfmt (moving op).desc) = 0 := by decide +kernel
theorem sums_one_tile : ∀ op ∈ [1, 2], strandResult (moving op).desc [[zeroTile 0]] = zeroSum := by
  have h : ∀ op ∈ [1, 2], (strandResult (moving op).desc [[zeroTile 0]]).1 = zeroSum.1 := by decide +kernel
  have p : ∀ op ∈ [1, 2], (strandResult (moving op).desc [[zeroTile 0]]).2 = zeroSum.2 := by decide +kernel
  exact fun op ho => Prod.ext (h op ho) (p op ho)
/-- A strand of one member sums nothing. -/
theorem gather_single (s s1 : State) (c : Coll) (tile h : Nat) (t : Tile) (one : srcW c.desc = 1)
    (fmt : (if CDesc.wide c.desc then 0 else CDesc.pfmt c.desc) = 0) (r : s.collRead h tile (some 0) = .ok (s1, t)) :
    s.strandGather c tile [h] = .ok (s1, [[t]]) := by
  have l : (upTo 1).map (fun j => 1 * tile + j) = [tile] := by simp [upTo]
  simp only [State.strandGather, State.strandReads, State.collReads, one, l, fmt, r, List.drop_succ_cons, List.drop_nil, List.map_nil,
    List.zip_nil_left, State.holdPartials]
theorem sums_read : ∀ op ∈ [1, 2], (movingZero op).collRead 0 0 (some 0) = .ok (State.tileSeen (movingZero op), zeroTile 0) :=
  fun op ho => zero_read (by simp only [List.mem_cons, List.not_mem_nil, or_false] at ho ⊢; omega) (.inr rfl)
theorem sums_gather :
    ∀ op ∈ [1, 2], (movingZero op).strandGather (moving op) 0 [0] = .ok (State.tileSeen (movingZero op), [[zeroTile 0]]) := fun op ho =>
  gather_single (movingZero op) (State.tileSeen (movingZero op)) (moving op) 0 0 (zeroTile 0) (sums_at_work op ho).2.2.2.1
    (sums_at_work op ho).2.2.2.2 (sums_read op ho)
/-- A result tile of zeros written by one member. -/
theorem zero_result (s : State) (r : Head) (h n : Nat) : okE (s.writeResult (r, 0#32768) [(h, n)]) =
    (match s.collRun h with
      | none => false
      | some c =>
        let o := Record.desc c.r 2
        let hd : Head := { r with tid := o.tid, row := (o.pos n).1, col := (o.pos n).2, last := n + 1 == o.count }
        okE (s.collWrite h n { hdr := sealHdr hd.word 0x98F94189, pay := 0#32768 })) := by
  simp only [State.writeResult, seal_zero]
  cases s.collRun h with
  | none => rfl
  | some c => dsimp only; split <;> simp_all [okE]
theorem sums_written : ∀ op ∈ [1, 2], okE ((State.tileSeen (movingZero op)).writeResult zeroSum [(0, 0)]) = true := by
  intro op ho
  rw [zeroSum, zero_result]
  revert op
  decide +kernel
theorem witness_ReductionSumsStrand :
    (∀ op ∈ [1, 2], (movingZero op).collAt 7 9 op = some (moving op) ∧ (movingZero op).collTodo (moving op) (0, 0) = true ∧
      (Machine.ringOf (moving op).desc).map (fun a => a * 160 + snakeHand 0) = [0] ∧
      strandResult (moving op).desc [[zeroTile 0]] = zeroSum) ∧
    (∀ op ∈ [1, 2], (movingZero op).strandGather (moving op) 0 [0] = .ok (State.tileSeen (movingZero op), [[zeroTile 0]])) ∧
    (∀ op ∈ [1, 2], okE ((State.tileSeen (movingZero op)).writeResult zeroSum [(0, 0)]) = true) :=
  ⟨fun op h => ⟨(sums_at_work op h).1, (sums_at_work op h).2.1, (sums_at_work op h).2.2.1, sums_one_tile op h⟩, sums_gather, sums_written⟩

/-- Hand 0 is fenced. -/
def pruneState : State := (movingZero 4).setReg (Reg.fence 0 0) 1
/-- The collective names suits 0 and 1, and suit 1 has no ring position. -/
def foldedSuit : Coll := { moving 4 with desc := BitVec.ofNat 2048 ((cdesc 4 1 1).toNat + 2 <<< 128), ring := [0, 3, 2] }
theorem copies_at_work :
    (∀ op ∈ [3, 4, 5, 6], (movingZero op).collAt 7 9 op = some (moving op) ∧
      (movingZero op).collTodo (moving op) (0, 0) = true ∧ (moving op).member 0 = 0 ∧
      (movingZero op).collCmd 0 = some (moveCmd op toSecond) ∧ (State.tileSeen (movingZero op)).collRun 0 = some (moveCmd op toSecond)) ∧
    (portZero.collAt 7 9 4 = some (moving 4) ∧ portZero.collTodo (moving 4) (0, 0) = true ∧
      0 < (ranked (moving 4).ring (moving 4).desc).length ∧ portZero.handUp 0 = true ∧
      (State.tileSeen portZero).collRun 0 = some (moveCmd 4 toPort) ∧ (Record.desc (moveCmd 4 toPort).r 2).kind = 3 ∧
      (Record.desc (moveCmd 4 toSecond).r 2).kind ≠ 3 ∧ (movingZero 4).handUp 0 = true) := by decide +kernel
theorem copies_read : (∀ op ∈ [3, 4, 5, 6], (movingZero op).collRead 0 0 none = .ok (State.tileSeen (movingZero op), zeroTile 0)) ∧
    portZero.collRead 0 0 none = .ok (State.tileSeen portZero, zeroTile 0) :=
  ⟨fun op ho => zero_read (by simp only [List.mem_cons, List.not_mem_nil, or_false] at ho ⊢; omega) (.inl rfl),
    member_reads (crc_zero_row ..) port_readable (.inl rfl)⟩
theorem copies_written : okE ((State.tileSeen (movingZero 3)).copyTo (zeroTile 0) [(0, 0)]) = true ∧
    okE ((State.tileSeen (movingZero 4)).collWrite 0 0 (zeroTile 0)) = true ∧
    ((State.tileSeen portZero).sendP8 0 26 (epHand 0 26) (Record.desc (moveCmd 4 toPort).r 2).dest (zeroTile 0)).isSome = true ∧
    ∀ op ∈ [5, 6], okE ((State.tileSeen (movingZero op)).blockWrites 0 0 (CDesc.capacity (moving op).desc) fun _ => zeroTile 0) = true := by
  decide +kernel
theorem witness_CopyingCollectives :
    (pruneState.collAt 7 9 4 = some (moving 4) ∧ pruneState.collTodo (moving 4) (0, 0) = true ∧
      0 < (ranked (moving 4).ring (moving 4).desc).length ∧ pruneState.handUp 0 = false ∧ ∀ u ∈ (moving 4).doneWork, u.1 ≠ 0) ∧
    (let s := { movingZero 4 with colls := [foldedSuit] }
     s.collAt 7 9 4 = some foldedSuit ∧ s.collTodo foldedSuit (1, 0) = true ∧ (ranked foldedSuit.ring foldedSuit.desc).length ≤ 1) ∧
    (∀ op ∈ [5, 6], (upTo (CDesc.scap (moving op).desc)).map (0 * CDesc.scap (moving op).desc + ·) = [0] ∧
      (zeroTile 0).head.pad = false ∧ CDesc.capacity (moving op).desc = 1) ∧
    (let s := { base with colls := [moving 7] }
     s.collAt 7 9 7 = some (moving 7) ∧ s.collTodo (moving 7) (0, 0) = true) := by decide +kernel

/-- The map is the tile that it moves: its first entry moves tile 0 to place 0, or to stash index 0. -/
def shuffling (t : Tile) : State := moveState 8 toFirst t
theorem shuffle_at_work : ∀ t ∈ [zeroTile 0, topTile],
    (shuffling t).collAt 7 9 8 = some (moving 8) ∧ (shuffling t).collTodo (moving 8) (0, 0) = true ∧
    (shuffling t).sectionOpen (moving 8) 0 = true ∧ (moving 8).member 0 = 0 ∧ (shuffling t).collRun 0 = some (moveCmd 8 toFirst) ∧
    0 < (Record.desc (moveCmd 8 toFirst).r 0).count ∧ 0 < 30 * CDesc.slots (moving 8).desc := by decide +kernel
theorem shuffle_readable : ∀ x ∈ [(zeroTile 0, 0x98F94189), (topTile, 0x5b7334ca)],
    readable (shuffling x.1) x.1 x.2 ((shuffling x.1).tableTile (CDesc.map (moving 8).desc) 8 0).1 = true ∧
    ((shuffling x.1).tableTile (CDesc.map (moving 8).desc) 8 0).2 = (0x9000, 0xA000, 0) ∧
    ((shuffling x.1).tableTile (CDesc.map (moving 8).desc) 8 0).1.tid = 1 ∧
    reads (State.tileSeen (shuffling x.1)) (moveCmd 8 toFirst) x.1 x.2 = true := by decide +kernel
/-- The member reads the map's entry and then the tile. -/
theorem shuffle_reads (t : Tile) (k : Nat) (hk : crc32c (toBytes 4096 t.pay.toNat) = k) (m : (t, k) ∈ [(zeroTile 0, 0x98F94189), (topTile, 0x5b7334ca)]) :
    (shuffling t).tableEntry 0 (moveCmd 8 toFirst) (CDesc.map (moving 8).desc) 8 0 =
      .ok (State.tileSeen (shuffling t), bits t.pay.toNat 0 64) ∧
    (State.tileSeen (shuffling t)).collRead 0 0 none = .ok (State.tileSeen (State.tileSeen (shuffling t)), t) := by
  obtain ⟨r, va, tid, rd⟩ := shuffle_readable (t, k) m
  constructor
  · have g := known_arrives (shuffling t) t k hk (moveCmd 8 toFirst) _ (fun _ => none) r rfl
    simp only [tid] at g
    simp only [State.tableEntry, va, g, State.tileSeen]
  · exact member_reads hk rd (.inl rfl)
theorem witness_ShuffleAndCompletion :
    ((shuffling (zeroTile 0)).tableEntry 0 (moveCmd 8 toFirst) (CDesc.map (moving 8).desc) 8 0 =
        .ok (State.tileSeen (shuffling (zeroTile 0)), 0) ∧
      (State.tileSeen (shuffling (zeroTile 0))).shuffleSource (moving 8) 0 (moveCmd 8 toFirst) 0 =
        .ok (State.tileSeen (State.tileSeen (shuffling (zeroTile 0))), zeroTile 0) ∧
      okE ((State.tileSeen (State.tileSeen (shuffling (zeroTile 0)))).collWrite 0 0
        ((zeroTile 0).movedTo ((Record.desc (moveCmd 8 toFirst).r 2).pos 0))) = true) ∧
    ((shuffling topTile).tableEntry 0 (moveCmd 8 toFirst) (CDesc.map (moving 8).desc) 8 0 =
        .ok (State.tileSeen (shuffling topTile), 2 ^ 63) ∧
      (State.tileSeen (shuffling topTile)).shuffleSource (moving 8) 0 (moveCmd 8 toFirst) (2 ^ 63) =
        .ok (State.tileSeen (State.tileSeen (shuffling topTile)), topTile) ∧ bit (2 ^ 63) 63 = true) ∧
    (let c := { moving 7 with doneWork := [(0, 0)] }
     let s := { collHand (moveCmd 7 0) base with colls := [c] }
     s.findColl 7 9 = some c ∧ s.collDone c = true ∧ s.wanted c = [0] ∧ s.stHalted 7 0 = false ∧
       (s.hand 0).xq.head? = some (moveCmd 7 0)) := by
  have z := shuffle_reads (zeroTile 0) _ (crc_zero_row ..) (List.mem_cons_self ..)
  have p : topTile.pay.toNat = 2 ^ 63 := by decide +kernel
  have o := shuffle_reads topTile _ (by rw [p]; exact crc_top_payload) (List.mem_cons_of_mem _ (List.mem_cons_self ..))
  have f : ∀ e ∈ [0, 2 ^ 63], bit e 62 = false ∧ bits e 0 30 = 0 ∧ bits e 0 64 = e := by decide +kernel
  have f0 := f 0 (by simp)
  have f1 := f (2 ^ 63) (by simp)
  have q : (zeroTile 0).pay.toNat = 0 := by rw [show (zeroTile 0).pay = 0#32768 from rfl, BitVec.toNat_zero]
  rw [p, f1.2.2] at o
  rw [q, f0.2.2] at z
  refine ⟨⟨z.1, ?_, by decide +kernel⟩, ⟨o.1, ?_, by decide⟩, by decide +kernel⟩
  · simp only [State.shuffleSource, f0.1, f0.2.1, z.2]
    rfl
  · simp only [State.shuffleSource, f1.1, f1.2.1, o.2]
    rfl

/-! ## The Mills -/

def millRec (op arg d0 d1 d2 : Nat) : BitVec 512 := mkRec op 8 16 arg d0 d1 d2
/-- Mill 1 with one record at the front of its stream. -/
def millAt (r : BitVec 512) : State := { base with mills := [(1, { buf := [(64, r)], stream := true })] }
def millSig : BitVec 512 := millRec 4 (epHand 159 25 + 31 <<< 16 + 255 <<< 22) 0 0 0
theorem witness_MillControlCommits :
    (∀ x ∈ ([(0, 0, 0), (7, 0, 0x8000), (8, 0xC0000001, 0x8000), (8, 0x00000002, 0x8000), (9, 0, 0)] : List (Nat × Nat × Nat)),
      (millAt (millRec x.1 x.2.1 x.2.2 0 0)).millHead 1 x.1 = .ready 64 (millRec x.1 x.2.1 x.2.2 0 0)) ∧
    (millAt millSig).millHead 1 4 = .ready 64 millSig ∧
    (let s := { base with mills := [(7, { stream := true, ended := true })] }
     (s.mill 7).stream = true ∧ (s.mill 7).ended = true ∧ (s.mill 7).reported = false ∧ (s.mill 7).q = [] ∧ s.millStopped 7 = false ∧
       s.job.run = true ∧ s.willStart 647 = false ∧ s.handsLeft = [] ∧ s.millsLeft = [7]) ∧
    (let s := { base with hands := [(639, { stream := true, ended := true })] }
     (s.hand 639).stream = true ∧ (s.hand 639).reported = false ∧ s.handIdle 639 = true ∧ (s.hand 639).detour = none ∧
       s.job.run = true ∧ s.willStart 639 = false ∧ s.handsLeft = [639] ∧ s.millsLeft = []) := by decide +kernel
theorem test_mill_loop_zero_count :
    after (.millLoop 1) (millAt (millRec 8 0 0x8000 0 0)) (fun t => (PMap.get 0 (t.mill 1).loops 0, (t.mill 1).fetch)) =
      some (0, 0) := by decide +kernel

/-- TABLES at 0x2000, 0x2100, telemetry at 0x3000, one layer, TLOG 12. -/
def tablesRec : BitVec 512 := millRec 5 (12 + 1 <<< 16) 0x2000 0x2100 0x3000
def millTabled (r : BitVec 512) : State :=
  { base with mills := [(1, { buf := [(64, r)], stream := true, tabled := true, tele := 0x3000, nlayers := 1, tlog := 12
                              utab := 0x2000, rtab := 0x2100 })] }
/-- Entry of a versioned tensor 1: two buffers of stride 0x1000, version record at 0xC000. -/
def entryV : Nat := entry1 + 1 <<< 192 + 0x1000 <<< 256
/-- Its record: version 4 in buffer 0, version 5 being written in buffer 1, owner Mill 1. -/
def recV (state : Nat) : Nat := 4 + epMill 1 <<< 16 + 0x80000001 <<< 32 + 0x104 <<< 192 + state <<< 256
def withEntry (s : State) (e rec : Nat) : State :=
  { s with mem := Memory.write (Memory.write s.mem 0x38040 64 e) 0x3C000 64 rec
           job := { s.job with tensorVa := 0x8000, tensorCount := 3 } }
def pubRec : BitVec 512 := millRec 2 77 (1 + 1 <<< 8) 5 0
def pubState : State := withEntry (millAt pubRec) entryV (recV 0x205)
def stepRec : BitVec 512 := millRec 6 0 0 0 0
/-- TABLES and STEP as they begin, with their telemetry rows zeroed. -/
def tablesZeroed : Option State :=
  let s := (millAt tablesRec).traceBegin 8 1 tablesRec 0
  (s.setMill 1 { s.mill 1 with utab := 0x2000, rtab := 0x2100, tele := 0x3000, nlayers := 1, tlog := 12, tabled := true }).zeroRow 1 0
def stepZeroed : Option State :=
  (((millTabled stepRec).traceBegin 8 1 stepRec 0).setReg (Reg.millStep 1) 1).zeroRow 1 1
theorem witness_MillTablesAndVersions :
    ((millAt tablesRec).millHead 1 5 = .ready 64 tablesRec ∧ tablesZeroed.isSome = true) ∧
    ((millTabled stepRec).millHead 1 6 = .ready 64 stepRec ∧ ((millTabled stepRec).mill 1).tabled = true ∧
      (match stepZeroed with
        | some s1 => (s1.vwrite 641 0 (s1.traceBlock 641) 384 ((millTabled stepRec).millSlot 1 128 1)).isSome
        | none => false) = true) ∧
    (Safe pubState ∧ pubState.millHead 1 2 = .ready 64 pubRec ∧ pubState.names 1 = true ∧ pubState.versioned 1 = true ∧
      Entry.verAddr (pubState.entry 1) = 0xC000 ∧
      (let q := ((pubState.traceBegin 8 1 pubRec 0).seenEntries 641 [1]).seen 641 0 0xC000 64
       q.vread 0xC000 64 = .ok (recV 0x205) ∧ q.translate 0xC000 .write = .ok 0x3C000 false) ∧
      bufState (bufEntry (recV 0x205) 1) = 2 ∧ bufVer (bufEntry (recV 0x205) 1) = 5 ∧ bits (recV 0x205) 0 8 = 4) := by
  refine ⟨by decide +kernel, by decide +kernel, ⟨by decide +kernel, by decide, by decide, .nil, .nil⟩, by decide +kernel⟩

/-- Tensors 1 (parameter) and 2 (gradient), FP64, one tile each with one valid row of zeros; update-table entry 0 at 0x2000
and recipe 0 (SGD) at 0x2100. -/
def updMem : Memory :=
  let m := Memory.write (Memory.write pages 0x38040 64 entry1) 0x38080 64 (0xC000 + 0x9800 <<< 64 + 1 <<< 128 + 1 <<< 148)
  let m := Memory.write (Memory.write m 0x39000 32 (zeroHdr 1 0 0 0 0).toNat) 0x39800 32 (zeroHdr 2 0 0 0 0).toNat
  Memory.write (Memory.write m 0x32000 32 (1 + 2 <<< 32)) 0x32100 8 1
def updRec : BitVec 512 := millRec 1 0 (mkDesc 1 0 1 0 0 1 1) 0 0
def updCmd : Cmd := { mkCmd updRec with out := 1, scales := [1 + 2 <<< 32, 1, oneW, oneW], ver := [256, 256], vtid := [1, 0] }
def updState (d : Mill) : State :=
  { base with mem := updMem, job := { base.job with tensorVa := 0x8000, tensorCount := 3 }
              mills := [(1, { d with stream := true, tabled := true, utab := 0x2000, rtab := 0x2100 })] }
def updIdle : State := updState { buf := [(64, updRec)] }
def updBusy : State := updState { q := [updCmd] }
/-- The UPDATE before the look at every page. -/
def updFirst : State := updState { q := [{ updCmd with out := 0 }] }
/-- A claim on the versioned tensor 1 of `entryV`: its buffer 1 is in a state, released at counter 5. -/
def claimCmd : Cmd := { mkCmd updRec with ver := [300, 256], vtid := [1, 0] }
def claimState (word : Nat) (pin : Option Nat) : State :=
  withEntry { base with mills := [(1, { q := [claimCmd], pinT := pin })] } entryV (4 + 1 <<< 32 + word <<< 256)
/-- BUF entries: free; live with RSET and counter 5 to reach 0, or 1. -/
def released (val : Nat) : Nat := 0x504 + 5 <<< 16 + val <<< 32
/-- The 512 cells of the block, and what each yields. -/
def updZero : UBlock :=
  { p := [{ r := 0, c := 0, t := rowTile 1 0 0 0 0 0x98F94189 0 }], g := [{ r := 0, c := 0, t := rowTile 2 0 0 0 0 0x98F94189 0 }],
    m1 := [], m2 := [] }
/-- After the reads of the parameter's tile and of the gradient's. -/
def paramSeen : State := updBusy.seenTile 641 1 0x9000 0xA000
def updSeen : State := paramSeen.seenTile 641 2 0x9800 0xC000
/-- A read of one parameter tile and one gradient tile, no moments. -/
theorem updRead_two (s s1 s2 : State) (m h w v : Nat) (c : Cmd) (x : Nat) (p g : Tile) 
    (sl : c.scales.getD 0 0 = x ∧ Upd.param x = 1 ∧ Upd.grad x = 2 ∧ Upd.m1 x = 0 ∧ Upd.m2 x = 0)
    (vs : c.vtid.getD 0 0 = 1 ∧ c.ver.getD 0 256 = v)
    (bs : blockTiles (Entry.fmt (s.entry 1)) 0 0 h w = [(0, 0)] ∧ blockTiles (Entry.fmt (s1.entry 2)) 0 0 h w = [(0, 0)]) (rp : s.millTile m c 1 1 v 0 0 = .ok (s1, p))
    (rg : s1.millTile m c 2 2 256 0 0 = .ok (s2, g)) :
    s.updRead m c 0 0 h w = .ok (s2, { p := [{ r := 0, c := 0, t := p }], g := [{ r := 0, c := 0, t := g }], m1 := [], m2 := [] }) := by
  have e1 : (1 : Nat) ≠ 0 := by decide
  have e2 : (2 : Nat) ≠ 0 := by decide
  obtain ⟨⟨s0, tp, tg, t1, t2⟩, ⟨v0, v1⟩, bp, bg⟩ := And.intro sl (And.intro vs bs)
  simp only [State.updRead, s0, v0, v1, tp, tg, t1, t2, bp, bg, State.millTiles, rp, rg, if_neg e1, if_neg e2, if_true]
theorem millTile_good (s : State) (m : Nat) (c : Cmd) (tid f h p : Nat) (t : Tile) 
    (e : Entry.fmt (s.entry tid) = f ∧ Entry.hdrAddr (s.entry tid) 0 0 0 = h ∧ Entry.payAddr (s.entry tid) 0 0 0 = p)
    (g : s.tryTile { tid := tid, pos := some (0, 0), fmt := some f } 256 h p (fun _ => none) false = .good t) :
    s.millTile m c tid tid 256 0 0 = .ok (s.seenTile (640 + m) tid h p, t) := by
  simp only [State.millTile, e.1, if_true, e.2.1, e.2.2, g]
theorem updBusy_reads : updBusy.updRead 1 updCmd 0 0 16 32 = .ok (updSeen, updZero) :=
  updRead_two updBusy paramSeen updSeen 1 16 32 256 updCmd (1 + 2 <<< 32) _ _ (by decide) (by decide) (by decide +kernel)
    (millTile_good updBusy 1 updCmd 1 0 0x9000 0xA000 _ (by decide +kernel)
      (known_reads updBusy _ _ (crc_zero_row 1 0 0 0 0) { tid := 1, pos := some (0, 0), fmt := some 0 } 256 0x9000 0xA000 _ rfl
        (by decide +kernel) (by decide +kernel) (by decide +kernel)))
    (millTile_good paramSeen 1 updCmd 2 0 0x9800 0xC000 _ (by decide +kernel)
      (known_reads paramSeen _ _ (crc_zero_row 2 0 0 0 0) { tid := 2, pos := some (0, 0), fmt := some 0 } 256 0x9800 0xC000 _ rfl
        (by decide +kernel) (by decide +kernel) (by decide +kernel)))
/-- A block of one tile and no moment, stored. -/
theorem updStore_one (s : State) (m : Nat) (c : Cmd) (b : UBlock) (lr lc h w x : Nat) (res : List ((Nat × Nat) × Option UpdElem))
    (hva pva : Nat) (rd : c.scales.getD 0 0 = x ∧ c.ver.getD 0 256 = 256)
    (bt : Upd.param x = 1 ∧ blockTiles 0 0 0 h w = [(0, 0)])
    (at_ : Entry.hdrAddr (s.entry 1) 0 0 0 = hva ∧ Entry.payAddr (s.entry 1) 0 0 0 = pva)
    (wr : ∀ t, ∃ s2, s.writeTile (640 + m) 1 hva pva t = .ok s2) :
    ∃ s2, s.updStore m c { p := 0, g := 0, m1 := none, m2 := none, sh := none } b (0, 0, h, w) lr lc res = .ok s2 := by
  have n : nextVer 256 = 256 := rfl
  simp only [State.updStore, rd.1, rd.2, n, bt.1, updOuts, bt.2, List.map_cons, List.map_nil, State.updWrite, if_true, at_.1, at_.2]
  generalize updTile _ _ _ res (fun x => x.p) _ _ = t
  obtain ⟨s2, h2⟩ := wr t
  exact ⟨s2, by rw [h2]⟩
theorem updSeen_writes (res : List ((Nat × Nat) × Option UpdElem)) :
    ∃ s2, updSeen.updStore 1 updCmd { p := 0, g := 0, m1 := none, m2 := none, sh := none } updZero (0, 0, 16, 32) 16 32 res = .ok s2 :=
  updStore_one updSeen 1 updCmd updZero 16 32 16 32 (1 + 2 <<< 32) res 0x9000 0xA000 (by decide) (by decide +kernel) (by decide +kernel) fun t => by
    have p : updSeen.translate 0xA000 .write = .ok 0x3A000 false := by decide +kernel
    exact ⟨_, writeTile_ok updSeen 641 1 0x9000 0xA000 0x39000 0x3A000 false t (by decide +kernel) p
      ((translate_storeVa updSeen 641 1 0x9000 0x39000 32 t.hdr.toNat 0xA000 0x30000 .write (by decide +kernel)
        ⟨by decide +kernel, by decide +kernel, by decide +kernel⟩ (by decide) (by decide +kernel) (by decide +kernel)).trans p)⟩
theorem witness_UpdateClaimsAndWrites :
    -- begins
    (updIdle.active 8 1 = none ∧ updIdle.millHead 1 1 = .ready 64 updRec ∧ (updIdle.mill 1).tabled = true ∧
      updIdle.vread (0x2000 + Record.argBits updRec 0 24 * 32) 32 = .ok (1 + 2 <<< 32) ∧ updIdle.vread (0x2100 + 0 * 256) 256 = .ok 1 ∧
      Upd.rslot (1 + 2 <<< 32) = 0 ∧ updIdle.updEntryOk (1 + 2 <<< 32) (Record.desc updRec 0) = true ∧
      (Recipe.program 1).isSome = true ∧ updIdle.ownedBy 1 1 = true ∧ Upd.shadow (1 + 2 <<< 32) = 0 ∧
      updIdle.entryFault ((updTensors (1 + 2 <<< 32)).map (·.2)) = none ∧ updIdle.tensorRefused (Record.desc updRec 0).tid = false ∧
      updIdle.tensorRefused 0 = false) ∧
    -- claims: a free buffer, a released one, one that is not released yet
    (∀ pin ∈ [none, some 3], Safe (claimState 0 pin) ∧ (claimState 0 pin).active 8 1 = some (0, claimCmd) ∧
      (claimState 0 pin).stRuns 8 1 = true ∧ claimCmd.unclaimed = some 0 ∧ Record.opcode claimCmd.r = 1 ∧
      Entry.verAddr ((claimState 0 pin).entry 1) = 0xC000 ∧ (claimState 0 pin).vread 0xC000 64 = .ok (4 + 1 <<< 32) ∧
      bufState (bufEntry (4 + 1 <<< 32) 1) = 0 ∧ (claimState 0 pin).translate (0xC000 + 24 + 8 * 1) .atomic = .ok 0x3C020 false) ∧
    (let w := 4 + 1 <<< 32 + (released 0 ||| 0x100) <<< 256
     (claimState (released 0 ||| 0x100) none).vread 0xC000 64 = .ok w ∧ bufState (bufEntry w 1) = 1 ∧ bufRset (bufEntry w 1) = true ∧
       waitMet ((claimState (released 0) none).millEvc 1 (bits (bufEntry w 1) 16 6)) (bits (bufEntry w 1) 32 32) = true) ∧
    (∀ pin ∈ [none, some 3],
      let w := 4 + 1 <<< 32 + released 1 <<< 256
      (claimState (released 1) pin).vread 0xC000 64 = .ok w ∧ bufState (bufEntry w 1) = 1 ∧ bufRset (bufEntry w 1) = true ∧
        waitMet ((claimState (released 1) pin).millEvc 1 (bits (bufEntry w 1) 16 6)) (bits (bufEntry w 1) 32 32) = false) ∧
    -- looks at every page
    (updFirst.active 8 1 = some (0, { updCmd with out := 0 }) ∧ updFirst.stRuns 8 1 = true ∧
      updFirst.updFault { updCmd with out := 0 } = none) ∧
    -- writes
    (updBusy.active 8 1 = some (0, updCmd) ∧ updBusy.stRuns 8 1 = true ∧ Record.opcode updCmd.r = 1 ∧ updCmd.unclaimed = none ∧
      updCmd.out ≠ 0 ∧ updBusy.updAt updCmd = (0, 0, 16, 32) ∧
      updRegion (updBusy.entry (Upd.param (updCmd.scales.getD 0 0))) (Record.desc updCmd.r 0) = (0, 0, 16, 32) ∧
      updBusy.updFmts (updCmd.scales.getD 0 0) = { p := 0, g := 0, m1 := none, m2 := none, sh := none } ∧
      badValidity { p := 0, g := 0, m1 := none, m2 := none, sh := none } updZero (blockCells 0 0 16 32) = none) ∧
    updBusy.updRead 1 updCmd 0 0 16 32 = .ok (updSeen, updZero) ∧
    ∃ s2, updSeen.updStore 1 updCmd { p := 0, g := 0, m1 := none, m2 := none, sh := none } updZero (0, 0, 16, 32) 16 32
      (updResults { p := 0, g := 0, m1 := none, m2 := none, sh := none } updZero updCmd (blockCells 0 0 16 32)) = .ok s2 := by
  have claims : ∀ pin ∈ [none, some 3], Safe (claimState 0 pin) := by
    intro pin hp
    refine ⟨?_, ?_, ?_, .nil, .nil⟩
    all_goals
      simp only [List.mem_cons, List.not_mem_nil, or_false] at hp
      obtain rfl | rfl := hp <;> decide +kernel
  refine ⟨?begins, fun pin hp => ⟨claims pin hp, ?claims⟩, ?free, ?late, ?pages, ?writes, updBusy_reads, updSeen_writes _⟩
  case claims => revert pin; decide +kernel
  all_goals decide +kernel

/-- MIRROR of counter 63 of hand 639 as mirror 31. -/
def mirrorRec : BitVec 512 := millRec 3 (epHand 639 25 <<< 16 + 63 <<< 8 + 31) 0 0 0
def mirrorState (n : Nat) : State :=
  { millAt mirrorRec with hands := [(639, { binds := (upTo n).map fun i => { mill := 2, mir := i, ctr := 0, sent := some 0 } })] }
def mirrorPacket : Packet := { ctlPacket (epHand 0 25) (epMill 7) 640 (.mirror 31 9) with arrived := true }
def signalPacket (dest : Nat) : Packet := { ctlPacket (epMill 0) dest 0 (.signal 31 255) with arrived := true }
theorem witness_MirrorsAndSignals :
    (∀ n ∈ [0, 7, 8], (mirrorState n).millHead 1 3 = .ready 64 mirrorRec ∧ epToHand (Record.argBits mirrorRec 16 16) = some 639 ∧
      (((mirrorState n).hand 639).keepBinds 1 (Record.argBits mirrorRec 0 5)).length = n) ∧
    (let s := (mirrorState 8).setReg (Reg.evc 639 0) 1
     ((mirrorState 8).hand 639).binds[7]? = some { mill := 2, mir := 7, ctr := 0, sent := some 0 } ∧
       (mirrorState 8).handStopped 639 = false ∧ (mirrorState 8).evc 639 0 = 0 ∧ s.evc 639 0 = 1) ∧
    (let s := { base with net := [mirrorPacket] }
     s.net = [] ++ mirrorPacket :: [] ∧ mirrorPacket.arrived = true ∧ mirrorPacket.dest.toNat = epMill 7 ∧
       mirrorPacket.msg = .mirror (31 : BitVec 5).toNat 9 ∧ epToHand mirrorPacket.src.toNat = some 0 ∧
       (s.hand 0).serves 7 31 = false ∧ ({ binds := [{ mill := 7, mir := 31, ctr := 0 }] } : Hand).serves 7 31 = true) ∧
    (epToHand (BitVec.ofNat 16 (epHand 639 25)).toNat = some 639 ∧ epUnit (BitVec.ofNat 16 (epHand 639 25)).toNat = 25 ∧
      epToHand (BitVec.ofNat 16 (epMill 7)).toNat = none ∧ epToMill (BitVec.ofNat 16 (epMill 7)).toNat = some 7) ∧
    (∀ d ∈ [epHand 639 25, epMill 7],
      let s := { base with net := [signalPacket d] }
      s.net = [] ++ signalPacket d :: [] ∧ (signalPacket d).dest = BitVec.ofNat 16 d ∧
        (signalPacket d).msg = .signal (31 : BitVec 6).toNat (255 : BitVec 8).toNat) := by decide +kernel
theorem test_signal_adds :
    after (.signalReceive true (BitVec.ofNat 16 (epHand 639 25)) 63 255) base (fun t => (t.evc 639 63).toNat) = some 255 := by
  decide +kernel

/-! ## Partial sums and P8 -/

/-- A RADD of format 0 to 3 with resident operands: plain, double-double (ARG bit 31), FINAL (ARG bit 30). -/
def raddCmd (arg n0 n1 n2 : Nat) : Cmd :=
  { mkCmd (mkRec 2 4 0 arg (if n0 = 0 then 0 else mkDesc 4 0 0 1 0 n0 1) (mkDesc 4 0 0 5 0 n1 1) (mkDesc 4 0 0 9 0 n2 1)) with
    a := { got := n0 }, b := { got := n1 } }
def raddState (c : Cmd) : State := { base with cores := [(0, { ve := [c] })] }
theorem witness_RaddAddsPartials :
    ∀ c ∈ [raddCmd 0 1 1 1, raddCmd 0 0 1 1, raddCmd 0x80000000 2 2 2, raddCmd 0xC0000000 2 2 1, raddCmd (3 <<< 26) 4 1 4,
        raddCmd (3 <<< 26 + 0x40000000) 4 1 1],
      ((raddState c).active 4 0 = some (0, c) ∧ (raddState c).stRuns 4 0 = true ∧ Record.opcode c.r = 2) ∧ Record.argBits c.r 26 4 ≤ 3 ∧
        (let w := raddW c.r
         let w1 := if raddWide c.r 1 then w else 1
         ((Record.desc c.r 0).kind ≠ 0 → w * (c.steps.length + 1) ≤ c.a.got) ∧ w1 * (c.steps.length + 1) ≤ c.b.got ∧
           (raddState c).canPutN 0 (Record.desc c.r 2) (if bit (Record.arg c.r) 30 then 1 else w) = true ∧
           (Record.desc c.r 2).kind ≠ 2) := by decide +kernel

def p8Packet (dest src : Nat) (m : Msg) : Packet := { ctlPacket src dest 0 m with arrived := true }
def p8State (p : Packet) (hd : Hand) (c : Core) : State := { base with net := [p], hands := [(0, hd)], cores := [(0, c)] }
theorem witness_P8CreditsAndTiles :
    (let p := p8Packet (epHand 0 24) (epCore 17) (.p8credit 17 8 true)
     let s := p8State p {} {}
     let full := p8State p { p8held := (upTo 32).map fun i => (p8Key 0 (100 + i), 1) } {}
     s.net[0]? = some p ∧ epToHand p.dest.toNat = some 0 ∧ (s.hand 0).p8Dests.length < 32 ∧
       (full.hand 0).p8Dests.contains 17 = false ∧ 32 ≤ (full.hand 0).p8Dests.length) ∧
    (let own := p8Packet (epCore 0) (epCore 0) (.p8credit 0 1 false)
     let p := p8Packet (epCore 1) (epCore 0) (.p8credit 0 1 false)
     own.dest.toNat = epCore 0 ∧ p.dest.toNat ≠ epCore 0 ∧ epToHand p.dest.toNat = some 0 ∧
       ((p8State p { p8grants := [p8Key 1 0] } {}).hand 0).p8grants.contains (p8Key (epUnit p.dest.toNat) 0) = true ∧
       ((p8State p {} {}).hand 0).p8grants.contains (p8Key (epUnit p.dest.toNat) 0) = false) ∧
    (let p := p8Packet (epHand 0 26) (epHand 5 25) (.p8recall 0)
     (p8State p {} {}).net[0]? = some p ∧ epToHand p.dest.toNat = some 0) ∧
    (∀ n ∈ [0, 7, 8],
      let p := p8Packet (epCore 0) (epCore 17) (.p8tile plainTile)
      let s := p8State p {} { ports := [(8, { count := n, credits := 8 - n })] }
      epToCore p.dest.toNat = some 0 ∧ s.logical 0 0 = 0 ∧ s.portOpen 0 0 8 = true ∧ ((s.core 0).port 8).count = n) ∧
    ((p8State (p8Packet (epCore 0) 0 .tileAck) { mask := [(0, 0)] } {}).portOpen 0 0 8 = false ∧
      (p8State (p8Packet (epCore 16) 0 .tileAck) {} {}).logical 0 16 = 31) := by decide +kernel

/-! ## The constable -/

/-- A frame for this module with a right tag and counter 5. -/
def frameOf (k : BitVec 256) (code : Nat) (body : List Byte) : CmdFrame :=
  ⟨true, 5, BitVec.ofNat 64 moduleTarget,
    BitVec.ofNat 128 (cmdTag k ⟨true, 5, BitVec.ofNat 64 moduleTarget, 0, body⟩ code), body⟩
theorem frameOf_tag (k : BitVec 256) (code : Nat) (body : List Byte) :
    (frameOf k code body).tag.toNat = cmdTag k (frameOf k code body) code := by
  simp [frameOf, cmdTag]
theorem frameOf_target (k : BitVec 256) (code : Nat) (body : List Byte) : (frameOf k code body).target.toNat = moduleTarget := by
  simp [frameOf, moduleTarget]
/-- A module ready for commands: command key 7, last counter 4. -/
def conState : State :=
  { State.reset with
    mem := pages, suits := (upTo 4).map fun i => (i, { powered := true }), regs := [(Reg.mgmtStat, 0x80000000)]
    ctl := { step := 9, mainSwitch := true, state := 3 }, sec := { cmdKey := some 7, lastCtr := 4 } }
theorem accepted_frame (s : State) (code : Nat) (body : List Byte) (lenOk : Nat → Bool)
    (h : s.flag Reg.mgmtStat 31 = true ∧ s.overRate = false ∧ body.length ≤ 8196 ∧ lenOk body.length = true ∧ s.sec.cmdKey = some 7 ∧
      s.sec.lastCtr < 5 ∧ s.forbids code = none) : Accepted s (frameOf 7 code body) code lenOk :=
  ⟨h.1, h.2.1, rfl, h.2.2.1, h.2.2.2.1, frameOf_target 7 code body, ⟨7, h.2.2.2.2.1, frameOf_tag 7 code body⟩, h.2.2.2.2.2.1, h.2.2.2.2.2.2⟩
/-- Every place where a frame can fail: the link down, the rate, the form, the target, the key, the tag, the counter, the
state of the module; and a frame that passes. Shown for FENCE; the checks take the row's code and length alone. -/
theorem witness_CriticalCommandsAreChecked :
    let f := frameOf 7 0x30 [0, 31]
    let wrong : CmdFrame := { f with tag := f.tag + 1 }
    (Instr.fence f, 0x30, fun n => n == 2) ∈ ([(.fence f, 0x30, fun n => n == 2)] : List (Instr × Nat × (Nat → Bool))) ∧
    State.reset.flag Reg.mgmtStat 31 = false ∧
    (let s := { conState with sec := { conState.sec with rateLimited := true, lastFrame := some 0 }, clock := 999999999 }
     s.flag Reg.mgmtStat 31 = true ∧ s.overRate = true ∧ ({ s with clock := 1000000000 } : State).overRate = false) ∧
    (conState.flag Reg.mgmtStat 31 = true ∧ conState.overRate = false) ∧
    ¬ (({ f with formOk := false } : CmdFrame).formOk = true ∧ f.body.length ≤ 8196) ∧
    (f.formOk = true ∧ f.body.length ≤ 8196 ∧ (f.body.length == 2) = true) ∧
    ({ f with target := f.target + 1 } : CmdFrame).target.toNat ≠ moduleTarget ∧
    (f.target.toNat = moduleTarget ∧ f.tag.toNat = cmdTag 7 f 0x30 ∧ conState.sec.cmdKey = some 7 ∧ wrong.tag.toNat ≠ cmdTag 7 wrong 0x30) ∧
    ({ conState with sec := { conState.sec with cmdKey := none } } : State).sec.cmdKey = none ∧
    (f.counter ≤ (5 : BitVec 64) ∧ conState.sec.lastCtr < f.counter ∧ conState.forbids 0x30 = none ∧
      ({ conState with sec := { conState.sec with hold := true } } : State).forbids 0x30 = some 0x21) := by
  refine ⟨List.mem_singleton.2 rfl, by decide +kernel, by decide +kernel, by decide +kernel, by decide, by decide, ?_, ⟨?_, ?_, rfl, ?_⟩, rfl, by decide +kernel⟩
  · intro h
    have e : (frameOf 7 0x30 [0, 31]).target + 1#64 = (frameOf 7 0x30 [0, 31]).target :=
      BitVec.eq_of_toNat_eq (h.trans (frameOf_target 7 0x30 [0, 31]).symm)
    simp at e
  · exact frameOf_target ..
  · exact frameOf_tag ..
  · intro h
    have e : (frameOf 7 0x30 [0, 31]).tag + 1#128 = (frameOf 7 0x30 [0, 31]).tag :=
      BitVec.eq_of_toNat_eq (h.trans (frameOf_tag 7 0x30 [0, 31]).symm)
    simp at e

/-- A held header of an image whose five sections, of types 1 to 5, are empty. -/
def heldHeader : Memory :=
  let m := Memory.write [] 0 8 (0x544E5247 + 1 <<< 32 + 5 <<< 48)
  (upTo 5).foldl (fun m k => Memory.write m (32 + 48 * k) 16 (k + 1 + 8192 <<< 32)) (Memory.write m 8 4 3)
def fwState (held : Memory) : State :=
  { conState with sec := { conState.sec with minSeq := 3, fw := some (1, 0x2000000, 3), fwHeld := held } }
def polState : State := { conState with sec := { conState.sec with policy := [0, 0, 0, 2, 4, 0, 31] } }
/-- FW_BEGIN at and below MIN_SEQ; chunks at both ends of the bank and where they cannot be written; a commit of a sound header (whose
signature and digests the constable's functions accept) and of none; the policy at the ends of its ranges. -/
theorem witness_FirmwareAndKeyCommands :
    (Safe (fwState []) ∧ (fwState []).sec.minSeq.toNat ≤ bodyNat (toBytes 4 0 ++ toBytes 4 3) 4 4 ∧
      bodyNat (toBytes 4 0 ++ toBytes 4 2) 4 4 < (fwState []).sec.minSeq.toNat) ∧
    (∀ b ∈ [toBytes 4 0 ++ toBytes 4 3, toBytes 4 0 ++ toBytes 4 2],
      Accepted (fwState []) (frameOf 7 1 b) 1 (fun n => n == 8)) ∧
    (∀ o ∈ [0, 4096, 0x1FFF000, 1], Accepted (fwState []) (frameOf 7 2 (toBytes 4 o ++ [1, 2])) 2 (fun n => decide (4 ≤ n) && decide (n ≤ 8196)) ∧
      (fwState []).sec.fw = some (1, 0x2000000, 3) ∧ Memory.wf (fwState []).sec.fwHeld = true ∧ bodyNat (toBytes 4 o ++ [1, 2]) 0 4 = o) ∧
    (0x1FFF000 % 4096 = 0 ∧ 0x1FFF000 + ((toBytes 4 0x1FFF000 ++ [1, 2]).drop 4).length ≤ 0x2000000 ∧ 1 % 4096 ≠ 0) ∧
    (Accepted (fwState heldHeader) (frameOf 7 3 []) 3 (fun n => n == 0) ∧
      (imgSigned heldHeader 0 = true → imgDigests heldHeader 0 [] 1 = true →
        (imgMagic heldHeader 0 && imgLayout heldHeader 0 && imgDigests heldHeader 0 (fwState heldHeader).flash 1 && imgSigned heldHeader 0 &&
          decide ((fwState heldHeader).sec.minSeq.toNat ≤ imgSeq heldHeader 0)) = true)) ∧
    (Accepted (fwState []) (frameOf 7 3 []) 3 (fun n => n == 0) ∧
      (imgMagic [] 0 && imgLayout [] 0 && imgDigests [] 0 (fwState []).flash 1 && imgSigned [] 0 &&
        decide ((fwState []).sec.minSeq.toNat ≤ imgSeq [] 0)) = false) ∧
    Accepted conState (frameOf 7 0x10 []) 0x10 (fun n => n == 0) ∧
    (∀ b ∈ [[1, 0, 255, 3, 20], [255, 255, 255, 255, 255] ++ List.replicate 32 9, [1, 0, 255, 3, 21]],
      Accepted polState (frameOf 7 0x20 b) 0x20 (fun n => n == 5 || n == 37)) ∧
    ((∀ i < 5, polState.sec.mayTake i ((([1, 0, 255, 3, 20] : List Byte).getD i 255).toNat) = true) ∧
      ∃ i < 5, polState.sec.mayTake i ((([1, 0, 255, 3, 21] : List Byte).getD i 255).toNat) = false) := by
  refine ⟨⟨⟨by decide +kernel, by decide, by decide, List.pairwise_singleton _ _, .nil⟩, by decide +kernel⟩, ?_, ?_, by decide +kernel,
    ⟨accepted_frame _ _ _ _ (by decide +kernel), ?_⟩, ⟨accepted_frame _ _ _ _ (by decide +kernel), ?_⟩, accepted_frame _ _ _ _ (by decide +kernel), ?_,
    by decide +kernel⟩
  · intro b h
    simp only [List.mem_cons, List.not_mem_nil, or_false] at h
    obtain rfl | rfl := h <;> exact accepted_frame _ _ _ _ (by decide +kernel)
  · intro o h
    simp only [List.mem_cons, List.not_mem_nil, or_false] at h
    obtain rfl | rfl | rfl | rfl := h <;> exact ⟨accepted_frame _ _ _ _ (by decide +kernel), by decide +kernel⟩
  · intro a b
    have m : imgMagic heldHeader 0 = true ∧ imgLayout heldHeader 0 = true ∧
        decide ((fwState heldHeader).sec.minSeq.toNat ≤ imgSeq heldHeader 0) = true := by decide +kernel
    rw [m.1, m.2.1, m.2.2, a]
    exact (congrArg (fun x => (true && true && x && true && true)) b)
  · have m : imgMagic [] 0 = false := by decide +kernel
    rw [m]; simp
  · intro b h
    simp only [List.mem_cons, List.not_mem_nil, or_false] at h
    obtain rfl | rfl | rfl := h <;> exact accepted_frame _ _ _ _ (by decide +kernel)

/-! ### A root table -/

/-- A level-3 table of n pages, all on frame 0 with every permission. -/
def pteTable : Nat → Nat → Memory
  | _, 0 => []
  | a, n + 1 => (a, 0x3F) :: pteTable (a + 8) n
theorem pteTable_byte (n p j : Nat) (hj : j < 8) : ∀ a, Memory.byte (pteTable a n) (a + 8 * p + j) = if p < n ∧ j = 0 then 0x3F else 0 := by
  induction n generalizing p with
  | zero => intro a; simp [pteTable, Memory.byte]
  | succ n ih =>
    intro a
    simp only [pteTable, Memory.byte]
    rcases p with _ | p
    · rcases j with _ | j
      · simp
      · have e : Memory.byte (pteTable (a + 8) n) (a + 8 * 0 + (j + 1)) = 0 := by
          cases n with
          | zero => simp [pteTable, Memory.byte]
          | succ n => simp only [pteTable, Memory.byte]; rw [if_neg (by omega), if_pos (by omega)]
        rw [if_neg (by omega), if_neg (by omega), e]; simp
    · rw [if_neg (by omega), if_neg (by omega), show a + 8 * (p + 1) + j = a + 8 + 8 * p + j by omega, ih p (a + 8)]
      simp
/-- Level 1 at 0, a root table at 0x8000 (FORMAT 1, DEAL 77, TRACE_VA 0x100000) and 680 pages, all on frame 0: so the trace
region's first block reads the level-1 entry, FORMAT 1 with RING_LOG 16. -/
def rootMem : Memory :=
  [(0, 1), (2, 0x10), (0x8000, 1), (0x8004, 77), (0x8022, 0x10), (0x100000, 1), (0x100002, 0x11)] ++ pteTable 0x110000 680
def rootState : State := { conState with mem := rootMem }
theorem rootMem_pte (p : Nat) (h : p < 680) : Memory.read rootMem (0x110000 + 8 * p) 8 = 0x3F := by
  have b : ∀ j < 8, Memory.byte rootMem (0x110000 + 8 * p + j) = if j = 0 then 0x3F else 0 := by
    intro j hj
    have e := pteTable_byte 680 p j hj 0x110000
    simp only [h, true_and] at e
    rw [← e, rootMem]
    simp only [List.cons_append, List.nil_append, Memory.byte]
    repeat rw [if_neg (by omega), if_neg (by omega)]
  have b0 : Memory.byte rootMem (0x110000 + 8 * p) = 0x3F := b 0 (by omega)
  have c : ∀ j < 8, Memory.byte rootMem (0x110000 + (8 * p + j)) = if j = 0 then 0x3F else 0 := fun j hj => by
    rw [← Nat.add_assoc]; exact b j hj
  simp (disch := decide) only [Memory.read, b0, Nat.add_assoc, Nat.reduceAdd, c]
  decide
/-- Pages 0 to 679 lie on frame 0, and may be read and written. -/
theorem rootState_maps (va p : Nat) (h : p < 680) (v : bits va 42 6 = 0 ∧ bits va 29 13 = 0 ∧ bits va 16 13 = p) :
    rootState.translate va .read = .ok (va % 65536) false ∧ rootState.translate va .write = .ok (va % 65536) false := by
  have f : rootState.field Reg.mmuRoot 12 20 * 4096 + rootState.field (Reg.mmuRoot + 4) 0 8 * 2 ^ 32 = 0 ∧
      Memory.read rootMem 0 8 = 0x100001 ∧ Memory.read rootMem 0x100000 8 = 0x110001 ∧ rootState.poisonFree 0 = true := by decide +kernel
  have q : bits 0x100001 16 24 * 65536 = 0x100000 ∧ bits 0x110001 16 24 * 65536 = 0x110000 ∧ bit 0x100001 0 = true ∧
      bit 0x110001 0 = true := by decide
  have w : rootState.walkAt va = [0, 0x100000, 0x110000 + p * 8] := by
    simp only [State.walkAt, v.1, v.2.1, v.2.2, f.1, Nat.zero_mul, Nat.add_zero, show rootState.mem = rootMem from rfl, f.2.1, f.2.2.1,
      q.1, q.2.1, q.2.2.1, q.2.2.2, Bool.not_true, Bool.false_eq_true, if_false]
  have b : rootState.walkBad va = false := by
    have d : 0 / 2 ^ 38 = 0 ∧ 0x100000 / 2 ^ 38 = 0 ∧ (0x110000 + p * 8) / 2 ^ 38 = 0 :=
      ⟨rfl, rfl, Nat.div_eq_of_lt (by omega)⟩
    simp only [State.walkBad, w, List.any_cons, List.any_nil, State.poisonIn, d.1, d.2.1, d.2.2, f.2.2.2, Bool.not_true, Bool.false_and,
      Bool.or_self]
  have e : rootState.walk va = some 0x3F := by
    simp only [State.walk, w, show rootState.mem = rootMem from rfl, Nat.mul_comm p 8, rootMem_pte p h]
  have c : (!bit 0x3F 0 || decide (rootState.capBytes 0 ≤ 0 % 2 ^ 38)) = false := by decide +kernel
  have z : bits 0x3F 16 24 * 65536 = 0 := by decide
  have g : bit 0x3F 1 = true ∧ bit 0x3F 2 = true ∧ bit 0x3F 6 = false := by decide
  constructor <;>
    simp only [State.translate, b, e, z, Nat.zero_div, c, g, Bool.false_eq_true, if_false, if_true, Bool.not_true, Bool.false_and, Nat.zero_add]
theorem rootState_page (p : Nat) (h : p < 680) : rootState.pageRW (p * 65536) = true := by
  have v : bits (p * 65536) 42 6 = 0 ∧ bits (p * 65536) 29 13 = 0 ∧ bits (p * 65536) 16 13 = p := by
    refine ⟨?_, ?_, ?_⟩
    · rw [bits, Nat.shiftRight_eq_div_pow, Nat.div_eq_of_lt (lt_of_le_of_lt (Nat.mul_le_mul_right _ (Nat.le_of_lt h)) (by norm_num))]; rfl
    · rw [bits, Nat.shiftRight_eq_div_pow, Nat.div_eq_of_lt (lt_of_le_of_lt (Nat.mul_le_mul_right _ (Nat.le_of_lt h)) (by norm_num))]; rfl
    · rw [bits, Nat.shiftRight_eq_div_pow, show (65536 : Nat) = 2 ^ 16 from rfl, Nat.mul_div_cancel _ (by decide), Nat.mod_eq_of_lt (by norm_num; omega)]
  obtain ⟨r, w⟩ := rootState_maps _ p h v
  simp only [State.pageRW, State.accFault, r, w, Option.isNone_none, Bool.and_self]
theorem mem_upTo (n x : Nat) (h : x ∈ upTo n) : x < n := by
  induction n with
  | zero => simp [upTo] at h
  | succ n ih =>
    rw [upTo, List.mem_append, List.mem_singleton] at h
    rcases h with h | h
    · have := ih h
      omega
    · omega
theorem rootState_trace : rootState.traceOk 0x100000 = some (16, 0) := by
  have r : rootState.rd 0x100000 64 = some (0x100001 + 0) := by decide +kernel
  have a : ∀ n ≤ 664, ∀ p ∈ upTo n, rootState.pageRW (0x100000 + p * 65536) = true := by
    intro n hn p hp
    have h := mem_upTo _ _ hp
    rw [show 0x100000 + p * 65536 = (16 + p) * 65536 by omega]
    exact rootState_page _ (by omega)
  have b : bits (0x100001 + 0) 16 8 = 16 ∧ bits (0x100001 + 0) 24 8 = 0 ∧ bits (0x100001 + 0) 0 16 = 1 := by decide
  unfold State.traceOk
  rw [if_neg (by decide), r]
  simp only []
  rw [b.1, b.2.1, b.2.2, if_pos (by decide), if_pos (List.all_eq_true.2 (a _ (by decide)))]
theorem rootMem_zero (y : Nat) (h : 0x8040 ≤ y) (h2 : y < 0x100000) : Memory.byte rootMem y = Memory.byte [] y := by
  simp only [rootMem, List.cons_append, List.nil_append, Memory.byte]
  repeat rw [if_neg (by omega), if_neg (by omega)]
  rw [if_neg (by omega), if_pos (by omega)]
theorem read_nil (n : Nat) : ∀ a, Memory.read [] a n = 0 := by
  induction n with
  | zero => intro a; rfl
  | succ n ih => intro a; simp [Memory.read, Memory.byte, ih]
theorem rootState_rd (u : Nat) (h : u < 648) : rootState.rd (0x8000 + 64 + 16 * u) 16 = some 0 := by
  have v : ∀ lo w, 16 ≤ lo → bits (0x8000 + 64 + 16 * u) lo w = bits 0 lo w := by
    intro lo w hl
    rw [bits, Nat.shiftRight_eq_div_pow, Nat.div_eq_of_lt, bits]
    · simp
    · exact lt_of_lt_of_le (by omega : _ < 2 ^ 16) (Nat.pow_le_pow_right (by decide) hl)
  have r := (rootState_maps (0x8000 + 64 + 16 * u) 0 (by decide) ⟨v 42 6 (by decide), v 29 13 (by decide), v 16 13 (by decide)⟩).1
  have m : (0x8000 + 64 + 16 * u) % 65536 = 0x8000 + 64 + 16 * u := Nat.mod_eq_of_lt (by omega)
  have p : rootState.poisonIn (0x8000 + 64 + 16 * u) 16 = false := by
    have f : rootState.poisonFree 0 = true := by decide +kernel
    rw [State.poisonIn, Nat.div_eq_of_lt (by omega), f]
    rfl
  simp only [State.rd, State.vread, r, m, p]
  rw [show rootState.mem = rootMem from rfl, Memory.read_congr _ 16 fun y a b => rootMem_zero y (by omega) (by omega), read_nil]
  rfl
theorem rootState_entries : ∀ l : List Nat, (∀ u ∈ l, u < 648) → rootState.rootEntries 0x8000 l = some []
  | [], _ => rfl
  | u :: us, h => by
    have e := rootState_rd u (h u (List.mem_cons_self ..))
    have r := rootState_entries us fun v hv => h v (List.mem_cons_of_mem _ hv)
    simp only [State.rootEntries, e, r]
    rfl
theorem rootState_root : ∃ j, rootState.readRoot 0x8000 = some (j, 77) := by
  have r : rootState.rd 0x8000 64 = some (1 + 77 <<< 32 + 0x100000 <<< 256) := by decide +kernel
  have b : ∀ x, x = 1 + 77 <<< 32 + 0x100000 <<< 256 → bits x 0 16 = 1 ∧ bits x 32 32 = 77 ∧ bits x 256 48 = 0x100000 := by
    intro x h; subst h; decide
  generalize 1 + 77 <<< 32 + 0x100000 <<< 256 = x at r b
  obtain ⟨b1, b2, b3⟩ := b x rfl
  unfold State.readRoot
  rw [if_neg (by decide), r]
  simp only [b1, b2, b3, rootState_trace, rootState_entries _ fun u hu => mem_upTo _ _ hu]
  exact ⟨_, rfl⟩

def bodyOf (e : Nat) : List Byte := toBytes 2 e
def runState : State := { conState with job := { conState.job with run := true } }
def suitEntity (i : Nat) : Nat := 0x8000 + i <<< 13 + 4 <<< 8
/-- Hand 0 is fenced by its bit. -/
def fencedState : State := conState.setReg (Reg.fence 0 0) 1
theorem witness_FenceLimitAndJobCommands :
    (Safe conState ∧ Safe runState ∧ Safe rootState ∧ Safe fencedState) ∧
    (Accepted fencedState (frameOf 7 0x30 (bodyOf (epHand 0 31))) 0x30 (fun n => n == 2) ∧ fencedState.fenced 0 = true ∧
      conState.fenced 0 = false ∧ conState.fenced 639 = false ∧ conState.colls = [] ∧ (∀ i < 4, conState.drained i = true)) ∧
    (∀ e ∈ [0, epHand 0 31, epHand 639 31, suitEntity 0, suitEntity 3],
      Accepted conState (frameOf 7 0x30 (bodyOf e)) 0x30 (fun n => n == 2) ∧ Accepted conState (frameOf 7 0x31 (bodyOf e)) 0x31 (fun n => n == 2)) ∧
    (fenceTarget (bodyNat (bodyOf 0) 0 2) = none ∧ fenceTarget (bodyNat (bodyOf (epHand 0 31)) 0 2) = some (.inl 0) ∧
      fenceTarget (bodyNat (bodyOf (epHand 639 31)) 0 2) = some (.inl 639) ∧ fenceTarget (bodyNat (bodyOf (suitEntity 0)) 0 2) = some (.inr 0) ∧
      fenceTarget (bodyNat (bodyOf (suitEntity 3)) 0 2) = some (.inr 3) ∧ conState.suitUp 0 = true ∧ conState.suitUp 3 = true) ∧
    (∀ h ∈ [0, 639], ({ conState.sec with fencedHands := [h] } : Sec).fencedHands.contains h = true ∧ conState.sec.fencedHands.contains h = false) ∧
    (∀ s ∈ [conState, runState], Accepted s (frameOf 7 0x40 [0, 0, 0, 0]) 0x40 (fun n => n == 4)) ∧
    conState.job.run = false ∧ runState.job.run = true ∧
    Accepted rootState (frameOf 7 0x50 (toBytes 8 0x8000)) 0x50 (fun n => n == 8) ∧
    (∃ j, rootState.readRoot (bodyNat (toBytes 8 0x8000) 0 8) = some (j, 77)) ∧
    Accepted rootState (frameOf 7 0x50 (toBytes 8 1)) 0x50 (fun n => n == 8) ∧ rootState.readRoot (bodyNat (toBytes 8 1) 0 8) = none ∧
    ∀ v ∈ [0, 1, 2, 255], Accepted runState (frameOf 7 0x51 (toBytes 1 v)) 0x51 (fun n => n == 1) ∧ bodyNat (toBytes 1 v) 0 1 = v := by
  refine ⟨⟨?_, ?_, ?_, ?_⟩, ⟨accepted_frame _ _ _ _ (by decide +kernel), by decide +kernel, by decide +kernel, by decide +kernel, rfl,
      by decide +kernel⟩, ?_, by decide +kernel, by decide, ?_, rfl, rfl, accepted_frame _ _ _ _ (by decide +kernel), ?_, accepted_frame _ _ _ _ (by decide +kernel),
    by decide +kernel, ?_⟩
  iterate 4 exact ⟨by decide +kernel, by decide, by decide, by unfold Rising; decide +kernel, .nil⟩
  · intro e h
    simp only [List.mem_cons, List.not_mem_nil, or_false] at h
    obtain rfl | rfl | rfl | rfl | rfl := h <;>
      exact ⟨accepted_frame _ _ _ _ (by decide +kernel), accepted_frame _ _ _ _ (by decide +kernel)⟩
  · intro s h
    simp only [List.mem_cons, List.not_mem_nil, or_false] at h
    obtain rfl | rfl := h <;> exact accepted_frame _ _ _ _ (by decide +kernel)
  · rw [show bodyNat (toBytes 8 0x8000) 0 8 = 0x8000 by decide]; exact rootState_root
  · intro e h
    simp only [List.mem_cons, List.not_mem_nil, or_false] at h
    obtain rfl | rfl | rfl | rfl := h <;> exact ⟨accepted_frame _ _ _ _ (by decide +kernel), by decide +kernel⟩

def attState (x : Sec) : State := { conState with sec := x }
theorem witness_AttestationAndAlarms :
    (conState.flag Reg.mgmtStat 31 = true ∧ conState.ctl.flashRecovery = false) ∧
    (({ conState.sec with lastAtt := some 5 } : Sec).lastAtt = some 5 ∧ (10000004 : Nat) < 5 + 10000000 ∧ ¬ (10000005 : Nat) < 5 + 10000000) ∧
    conState.sec.lastAtt = none ∧
    conState.sec.attSeed = none ∧
    (∀ n ∈ [0, 59999, 65535, 65536],
      (attState { conState.sec with attSeed := some 9, attNext := n }).sec.attSeed = some 9 ∧
        (attState { conState.sec with attSeed := some 9, attNext := n }).sec.idOut = false ∧
        ((attState { conState.sec with attSeed := some 9, attNext := n }).sec.attNext < 65536 ↔ n ≠ 65536)) ∧
    (∀ n ∈ [0, 2 ^ 20 - 1, 2 ^ 20], (attState { conState.sec with idSeed := some 9, rotating := true, idNext := n }).sec.rotating = true ∧
      (attState { conState.sec with idSeed := some 9, rotating := true, idNext := n }).sec.idSeed = some 9 ∧
      ((attState { conState.sec with idSeed := some 9, rotating := true, idNext := n }).sec.idNext < 2 ^ 20 ↔ n ≠ 2 ^ 20)) ∧
    (∀ x ∈ ([(0, 2, 2), (1, 1, 1), (1, 2, 2), (2, 1, 1), (2, 2, 2), (3, 2, 2)] : List (Fin 5 × Fin 4 × Nat)),
      conState.tripLevel x.1.val x.2.1.val = some x.2.2 ∧ conState.ctl.mainSwitch = true ∧ conState.sec.holds x.1.val x.2.2 = false ∧
        ({ conState.sec with holding := [(x.1.val, 3)] } : Sec).holds x.1.val x.2.2 = true) ∧
    (let s := attState { conState.sec with policy := [1, 0, 0, 3, 4, 0, 0] }
     s.tripLevel 0 3 = some 3 ∧ s.sec.effective 0 = 1) := by decide +kernel
theorem test_erase_at_level_3 :
    after (.sensorTrip 0 3 0) (attState { conState.sec with policy := [1, 0, 0, 3, 4, 0, 0] })
      (fun t => (t.sec.cmdKey, t.sec.erasePending, t.sec.alarms)) = some (none, true, 1) := by decide +kernel

/-! ## Sideband and links -/

def stopBell (cuts : List Cut) : State := { conState.setReg Reg.bellCtl 1 with bell := { conState.bell with cuts := cuts } }
theorem witness_SidebandAndLinks :
    (conState.job.run = false ∧ runState.job.run = true) ∧
    (3 ≤ conState.ctl.step ∧ conState.ctl.i3cAddr = none ∧ (BitVec.ofNat 7 conState.staticAddr).toNat = conState.staticAddr) ∧
    (({ conState with ctl := { conState.ctl with step := 2 } } : State).ctl.step < 3) ∧
    (conState.ctl.stopNLow = false ∧ (stopBell []).flag Reg.bellCtl 0 = true ∧ ∀ c ∈ (stopBell []).bell.cuts, c.complete = true) ∧
    ((conState.setReg Reg.bellCtl 0).flag Reg.bellCtl 0 = false) ∧
    (conState.linkExists 0 = true ∧ conState.linkExists 2 = true ∧ conState.linkExists 3 = false ∧
      conState.linkTrains 0 8 4 = true ∧ conState.linkTrains 0 3 4 = false) ∧
    (conState.flag Reg.mgmtStat 31 = true ∧ State.reset.flag Reg.mgmtStat 31 ≠ true ∧ State.reset.phyOk 0 0 = true) := by decide +kernel

/-! ## The Bell -/

/-- A cut of the package, and one of hand 0, begun at time 0. -/
def packageCut : Cut := { scope := 0, suit := 0, hand := 0, source := 0, t0 := 0 }
def handCut : Cut := { scope := 2, suit := 0, hand := 0, source := 0, t0 := 0 }
def bellState (cuts : List Cut) (marked stopped : List Nat) (t : Nat) : State :=
  { base with bell := { base.bell with cuts := cuts, marked := marked, stopped := stopped, markT := [(0, 0)] }, time := t, mem := [] }
theorem bell_found (c : Cut) (m stopped : List Nat) (t : Nat) (h : stopped = upTo 658) (hc : c.complete = false) (j : Job) :
    let s : State := { bellState [c] m stopped t with job := j }
    (s.bell.cuts.find? fun c => !c.complete && s.allStopped c && s.quiet c) = some c := by
  have a : ∀ s : State, s.bell.stopped = stopped → s.allStopped c = true := by
    intro s e
    simp only [State.allStopped, e, h, List.all_eq_true, Bool.or_eq_true, List.contains_iff_mem]
    exact fun u hu => .inr hu
  refine List.find?_cons_of_pos ?_
  rw [a _ rfl, hc]
  rfl
theorem witness_BellCutsAndResumes :
    (bit (0x80000000 : W32).toNat 31 = true ∧ (∃ d ∈ (bellState [packageCut] [] [] 0).bell.cuts, d.covers handCut = true) ∧
      ∀ d ∈ (bellState [handCut] [] [] 0).bell.cuts, d.covers packageCut = false) ∧
    (bit (0x7FFFFFFF : W32).toNat 31 = false) ∧
    (∀ u ∈ [0, 639, 640, 657], (bellState [packageCut] [] [] 0).cutting u = true ∧ (bellState [packageCut] [] [] 0).marked u = false ∧
      (bellState [packageCut] [] [] 0).bell.stopped.contains u = false ∧ (bellState [] [] [] 0).cutting u = false ∧
      (bellState [packageCut] [u] [] 0).marked u = true) ∧
    (∀ u ∈ [0, 640, 657], (bellState [packageCut] [u] [] 0).atStopPoint u = true) ∧
    (let s := (bellState [packageCut] [0] [] 0).setCore 16 { kern := some { step := 0, pc := 0, running := true, w0 := plainTile, w1 := plainTile, wo := 0, scale := 0, wver := 0 } }
     s.atStopPoint 0 = false) ∧
    ({ packageCut with complete := true } ∈ (bellState [{ packageCut with complete := true }] [] [] 0).bell.cuts) ∧
    (handCut.resume = false ∧ handCut.scope < 3 ∧ ¬ (handCut.scope = 0)) ∧
    ((bellState [handCut] [0] [] 20001).bell.cuts.any (fun c => !c.complete && decide (c.t0 + 20000 < 20001)) = true) ∧
    (∀ c ∈ (bellState [handCut] [0] [] 20000).bell.cuts, (bellState [handCut] [0] [] 20000).time ≤ c.t0 + 20000) ∧
    (let s := bellState [handCut] [0] [] 10000000
     s.marked 0 = true ∧ s.bell.stopped.contains 0 = false ∧ s.flag (Reg.seqStat 0) 27 = false ∧
       PMap.get s.time s.bell.markT 0 + 10000000 ≤ s.time) ∧
    (bit (0x40000000 : W32).toNat 30 = true ∧ packageCut.covers handCut = true ∧ handCut.covers packageCut = false) := by decide +kernel
/-- A cut of one hand is complete; so is that of the package, for which a job stop waits. -/
theorem witness_BellCutsAndResumes_complete :
    (let s := { bellState [handCut] [] (upTo 658) 9 with job := base.job }
     (s.bell.cuts.find? fun c => !c.complete && s.allStopped c && s.quiet c) = some handCut ∧ ¬ (handCut.scope = 0)) ∧
    (let s := { bellState [packageCut] [] (upTo 658) 9 with job := { base.job with stopWanted := 1 } }
     (s.bell.cuts.find? fun c => !c.complete && s.allStopped c && s.quiet c) = some packageCut ∧
      (packageCut.scope = 0 ∧ s.job.run = true ∧ s.job.stopWanted = 1) ∧ s.ctl.releaseReq = none) :=
  ⟨⟨bell_found handCut _ _ 9 rfl rfl _, by decide⟩, bell_found packageCut _ _ 9 rfl rfl _, ⟨rfl, rfl, rfl⟩, rfl⟩
/-- The two hands of an order fault have stopped. -/
def orderState : State := { bellState [] [] [0, 1] 9 with recov := { base.recov with pairs := [([0, 1], 8, 9)] } }
theorem witness_BellCutsAndResumes_pair :
    (∀ c ∈ orderState.bell.cuts, c.complete = true) ∧ orderState.recov.pairs = [([0, 1], 8, 9)] ∧ ([0, 1] : List Nat).Nodup ∧
      orderState.job.run = true ∧ (∀ h ∈ [0, 1], h < 640 ∧ orderState.handStopped h = true) ∧ orderState.job.stopWanted ≠ 1 := by decide +kernel
/-- No cut is ready, with a job stop wanted: with a complete package cut held, and with none. -/
theorem witness_BellCutsAndResumes_held :
    (let s := { bellState [{ packageCut with complete := true }] [] [] 9 with job := { base.job with stopWanted := 1 } }
     (∀ c ∈ s.bell.cuts, c.complete = true ∨ s.allStopped c = false ∨ s.quiet c = false) ∧
       (s.job.run = true ∧ s.job.stopWanted = 1 ∧ ∃ c ∈ s.bell.cuts, c.complete = true ∧ (c.scope = 0 ∨ 3 ≤ c.scope)) ∧ s.ctl.releaseReq = none) ∧
    (let s := bellState [] [] [] 9
     (∀ c ∈ s.bell.cuts, c.complete = true ∨ s.allStopped c = false ∨ s.quiet c = false) ∧
       ¬ (s.job.run = true ∧ s.job.stopWanted = 1 ∧ ∃ c ∈ s.bell.cuts, c.complete = true ∧ (c.scope = 0 ∨ 3 ≤ c.scope))) := by decide +kernel

/-! ## Registers -/

/-- A module with no deal, and the same with one. -/
def quietBase : State := { base with job := { base.job with run := false } }
theorem witness_RegisterWrites :
    (regAccessOk 3 4 = false ∧ regAccessOk 0 2 = false ∧ regAccessOk 0x30000000 4 = false ∧ regAccessOk 0x2FFFFFFC 4 = true) ∧
    (∀ a ∈ [4, Reg.prio 3 31, Reg.mmuRoot, Reg.cubeCtl 0, Reg.dealerCtl, Reg.fence 0 0, Reg.mmuRoot + 4, Reg.bellCtl, Reg.faultTail],
      regAccessOk a 4 = true ∧ isAia a = false ∧ canon a = a) ∧
    (regRow 4 = none ∧ State.reset.darkAt (Reg.prio 3 31) = false ∧
      ({ base with recov := { base.recov with foldedSuits := [3] } } : State).darkAt (Reg.prio 3 31) = true ∧ base.gateOpen true Reg.mmuRoot = false) ∧
    (∀ s ∈ [quietBase, base], ∀ a ∈ [Reg.prio 3 31, Reg.cubeCtl 0, Reg.dealerCtl, Reg.seqCtl 639], s.darkAt a = false ∧ s.gateOpen false a = true) ∧
    ((regRow (Reg.prio 3 31)).map (·.how) = some 0 ∧ (regRow (Reg.cubeCtl 0)).map (·.how) = some 1 ∧
      (regRow (Reg.dealerCtl)).map (·.how) = some 2 ∧ (regRow (Reg.fence 0 0)).map (·.how) = some 3 ∧
      (regRow Reg.mmuRoot).map (·.how) = some 4 ∧ (regRow (Reg.mmuRoot + 4)).map (·.how) = some 5) ∧
    (∀ a ∈ [Reg.cubeCtl 0, Reg.dealerCtl], ∀ i < 4, a ≠ Reg.granCtl i) ∧
    (let s : State := { base with hands := [(0, { stream := true })] }
     s.job.run = true ∧ (match locate (Reg.cubeCtl 0) with | .hand h _ => s.noEpochs h | .core k _ => s.noEpochs (k / 17) | _ => false) = false) ∧
    (base.darkAt (Reg.fence 0 0) = false ∧ base.gateOpen true (Reg.fence 0 0) = true ∧ quietBase.gateOpen false Reg.mmuRoot = true ∧
      quietBase.gateOpen false (Reg.mmuRoot + 4) = true) ∧
    (let s : State := { quietBase with heldLow := [(Reg.mmuRoot, 0x5000)] }
     Reg.mmuRoot + 4 ≠ Reg.faultBase + 4 ∧ PMap.find s.heldLow (Reg.mmuRoot + 4 - 4) = some 0x5000) ∧
    bit (0x80000000 : W32).toNat 30 = false := by decide +kernel
/-- A 64-bit register takes its low word with the high one (R528); only RW bits are kept (R312). -/
theorem test_register_pair :
    (after (.registerWrite false (Reg.mmuRoot) 4 0x12345FFF) quietBase (fun t => (t.reg Reg.mmuRoot, t.heldLow)) =
      some (0, [(Reg.mmuRoot, 0x12345FFF)])) ∧
    after (.registerWrite false (Reg.mmuRoot + 4) 4 0x101) { quietBase with heldLow := [(Reg.mmuRoot, 0x12345FFF)] }
      (fun t => (t.reg Reg.mmuRoot, t.reg (Reg.mmuRoot + 4), t.heldLow)) = some (0x12345000, 1, []) := by decide +kernel

/-- A fold mask waits for suit 0's copy, requested. -/
def applyState : State := { (quietBase.setBit (Reg.fabCtl 0) 31) with staged := [(Reg.fabCtl 0, 5), (Reg.fence 0 4, 9), (0x20000000, 7)] }
/-- Hand 0's block after its third scan began; CFG.REF is valid and does not match. -/
def scanState : State :=
  { base.setReg (Reg.cfgStatHand 0) 0x80000000 with scanNo := 3, time := 4096000, cfg := [(0, { grace := some 4096000 })] }
theorem quietBase_safe : Safe quietBase := ⟨by decide +kernel, by decide, by decide, .nil, .nil⟩
theorem witness_RegisterRowsAndScans :
    (∀ a ∈ [Reg.cfgStatHand 0 + 8, Reg.cfgStatManor + 8, Reg.cfgStatSuit 3 + 8, Reg.cfgStatCore 10879 + 8],
      regAccessOk a 4 = true ∧ isCfgRef (canon a) = true ∧ base.darkAt (canon a) = false) ∧
    (∀ i < 4, base.suitDark i = false) ∧ (4 ≠ Reg.bootStat ∧ 4 ≠ Reg.mgmtStat ∧ 4 ≠ Reg.secStat) ∧
    (let o := fun v => (quietBase.setReg (Reg.handDbg 0) v).field (Reg.handDbg 0) 0 18
     let sp := fun v => (quietBase.setReg (Reg.handDbg 0) v).field (Reg.handDbg 0) 28 4
     o 0xFFC < dbgSize false (sp 0xFFC) ∧ quietBase.job.run = false ∧ ¬ (o 0x1000 < dbgSize false (sp 0x1000)) ∧
       o 0x1FFFC + 0 < dbgSize false (sp 0x3001FFFC)) ∧
    (let s := fun v => quietBase.setReg (Reg.coreDbg 10879) v
     (s 0x3FFFC).field (Reg.coreDbg 10879) 0 18 < dbgSize true ((s 0x3FFFC).field (Reg.coreDbg 10879) 28 4) ∧
       ¬ ((s 0x10010000).field (Reg.coreDbg 10879) 0 18 < dbgSize true ((s 0x10010000).field (Reg.coreDbg 10879) 28 4))) ∧
    (bits 0xFC000000 26 6 = 63 ∧ 63 ∉ (base.suit 0).outPcs ∧ 35156249 < base.pcSectors ∧ ¬ (35156250 < base.pcSectors)) ∧
    (∀ a ∈ [Reg.manorObsCtl, Reg.handObsCtl 0, Reg.coreObsCtl 0], regAccessOk a 4 = true ∧ quietBase.darkAt (canon a) = false ∧
      obsCounters (canon a) ≠ []) ∧
    (quietBase.suitDark 0 = false ∧ quietBase.job.run = false ∧ base.job.run = true ∧
      ({ base with recov := { base.recov with foldedSuits := [3] } } : State).suitDark 3 = true) ∧
    (applyState.flag (Reg.fabCtl 0) 31 = true ∧ applyState.drained 0 = true ∧ quietBase.flag (Reg.fabCtl 0) 31 = false ∧
      (applyState.staged.filter fun e => e.1 == Reg.fence 0 4).getLast? = some (Reg.fence 0 4, 9) ∧
      (applyState.staged.filter fun e => e.1 == Reg.fabCtl 0).getLast? = some (Reg.fabCtl 0, 5) ∧
      ((0x20000000, 7) : Nat × W32) ∈ applyState.staged ∧ Reg.fence 0 4 < 0x20000000) ∧
    (scanState.scanNo < scanState.time / 1024000 ∧ quietBase.time / 1024000 ≤ quietBase.scanNo) ∧
    (blkOf 0 = some (.hand 0) ∧ scanState.blkDark (.hand 0) = false ∧ (PMap.get ({} : CfgBlk) scanState.cfg 0).scanned < scanState.scanNo) ∧
    (let s := { scanState with cfg := [] }
     bits (s.listedValue (Reg.cfgStatHand 0)).toNat 28 4 = 8 ∧ wordsCrc (s.covered (.hand 0)) ≠ (s.reg (Reg.cfgStatHand 0 + 8)).toNat) ∧
    ((PMap.get ({} : CfgBlk) scanState.cfg 0).grace = some 4096000 ∧ 4096000 ≤ scanState.time ∧
      ({ scanState with time := 4095999 } : State).time < 4096000) := by decide +kernel
/-- XLQ asks for places in suit 0, and for one beyond its capacity. -/
theorem witness_RegisterRowsAndScans_place :
    (∀ x ∈ [(63, 0), (0, 35156249)], x.1 ∉ (base.suit 0).outPcs ∧ x.2 < base.pcSectors ∧
      offsetOf base.part 0 (base.outMask 0) x.1 x.2 < base.capBytes 0) ∧
    base.capBytes 0 ≤ offsetOf base.part 0 (base.outMask 0) 63 35156249 ∧ ¬ (35156250 < base.pcSectors) := by decide +kernel

/-! ## The mesh -/

def netState (ps : List Packet) : State := { base with net := ps }
def msgPacket (src dest pos : Nat) (m : Msg) : Packet := ctlPacket src dest pos m
/-- An ordered packet of one flit from hand 0's sequencer to that of hand 3, in the local input of router 0; and one of its channel
whose flits fill the next input. -/
def seqPacket : Packet := { msgPacket (epHand 0 25) (epHand 3 25) 0 .other with way := [(localBuffer 0, 1)], sent := 1, ord := true }
def fullPacket : Packet := { msgPacket (epHand 9 25) (epHand 3 25) 1 .other with way := [(buffer 0 1, 12)], sent := 12 }
/-- A multicast of hand 0 to its own row and the columns of hands 0 and 1. -/
def mcastPacket : Packet :=
  { seqPacket with dest := 0, mcast := true, mask := BitVec.ofNat 64 (1 + 1 <<< 4 + 3 <<< 14 + 1 <<< 30) }
theorem witness_PacketsMoveAndArrive :
    ((netState [seqPacket]).net[0]? = some seqPacket ∧ seqPacket.arrived = false ∧ seqPacket.mcast = false ∧
      (netState [seqPacket]).badDest seqPacket.pos seqPacket.dest.toNat = false ∧ (netState [seqPacket]).overtakes 0 seqPacket = false ∧
      seqPacket.size = 1 ∧ seqPacket.sunk = 0 ∧ seqPacket.way = [(localBuffer 0, 1)] ∧ bufAt (localBuffer 0) = seqPacket.pos ∧
      (netState [seqPacket]).nextHop seqPacket = some 1 ∧ (netState [seqPacket]).mayEnter 0 seqPacket (buffer 0 1) = true ∧
      (netState [seqPacket, fullPacket]).overtakes 0 seqPacket = false ∧
      (netState [seqPacket, fullPacket]).mayEnter 0 seqPacket (buffer 0 1) = false) ∧
    (let p := { seqPacket with pos := 3, way := [(buffer 2 3, 1)] }
     (netState [p]).nextHop p = none ∧ bufAt (buffer 2 3) = p.pos ∧ (netState [p]).overtakes 0 p = false) ∧
    (let p := msgPacket (epHand 0 25) 0x1400 0 .other
     (netState [p]).badDest p.pos p.dest.toNat = true) ∧
    ((netState [seqPacket, seqPacket]).overtakes 1 seqPacket = true ∧ epToHand seqPacket.dest.toNat = some 3 ∧ 3 / 160 = seqPacket.pos / 160 ∧
      px 0 ≠ px 3 ∧ px 3 = px 19 ∧ py 19 ≠ py 3) ∧
    ((netState [mcastPacket]).net[0]? = some mcastPacket ∧ mcastPacket.mcast = true ∧ (netState [mcastPacket]).overtakes 0 mcastPacket = false ∧
      mcastPacket.size = 1 ∧ mcastPacket.split = 0 ∧ mcastPacket.way = [(localBuffer 0, 1)] ∧ bufAt (localBuffer 0) = mcastPacket.pos ∧
      (netState [mcastPacket]).branches mcastPacket ≠ [] ∧
      (∀ b ∈ (netState [mcastPacket]).branches mcastPacket, (netState [mcastPacket]).mayEnter 0 mcastPacket (buffer 0 b.1) = true) ∧
      (netState [mcastPacket, fullPacket]).overtakes 0 mcastPacket = false ∧
      ∃ b ∈ (netState [mcastPacket, fullPacket]).branches mcastPacket,
        (netState [mcastPacket, fullPacket]).mayEnter 0 mcastPacket (buffer 0 b.1) = false) ∧
    (let p := { msgPacket (epHand 0 25) (epHand 639 25) 639 (.data 7 9 4 [1, 2]) with arrived := true, paylen := 2 }
     (netState [p]).net[0]? = some p ∧ p.arrived = true) ∧
    (epToCore (BitVec.ofNat 16 (epCore 10879)).toNat = some 10879 ∧ epToHand (BitVec.ofNat 16 (epHand 639 25)).toNat = some 639) := by decide +kernel

/-- Every direction of the links of suit 0 in one state. -/
def linkState (l : Link) : State := { base with links := (upTo 9).map fun k => (k, l) }
theorem witness_LinkErrorsAreHandled :
    (∀ k < 9, (linkState { tries := 7 }).link k = { tries := 7 } ∧ (linkState { tries := 8 }).link k = { tries := 8 } ∧
      (linkState { down := true }).link k = { down := true } ∧
      (linkState { tries := 8, spared := [(5, 1)] }).link k = { tries := 8, spared := [(5, 1)] } ∧
      (linkState { down := true, retrained := true }).link k = { down := true, retrained := true }) ∧
    (∀ m s, linkKey 0 m s ∈ [0, 8, 2, 3]) ∧ base.mayRecover 660 = true ∧
    ({ base with recov := { base.recov with busy := some 5 } } : State).mayRecover 660 = false ∧
    PMap.get 0 ([(5, 1)] : PMap Nat) 5 < 2 ∧ 2 ≤ PMap.get 0 ([(5, 2)] : PMap Nat) 5 ∧ (33 < 34 ∧ 5 < 6 ∧ 11 < 12) := by decide +kernel

/-! ## Memory -/

/-- Pages 0 and 10 as in `base`, and page 20 on frame 5 with RD, WR and PCOPY alone, so that no atomic and no next page may
use it. -/
def memBase : State := { base with mem := pages ++ [(0x200A0, 0x47), (0x200A2, 5)] }
def poisoned (l : List Nat) : State := { memBase with poisoned := l }
theorem memBase_safe : Safe memBase := ⟨by decide +kernel, by decide, by decide, .nil, .nil⟩
/-- The translation of an access, or the virtual address, KIND and PCOPY of its fault. -/
def pieces (x : Except Refuse (List (Nat × Nat × Bool))) : List (Nat × Nat × Bool) :=
  match x with
  | .ok l => l
  | .error (.fault a k p) => [(a, k, p)]
  | .error .poison => []
def granted (x : Except Refuse (List (Nat × Nat × Bool))) : Bool := match x with | .ok _ => true | .error _ => false
theorem witness_MemoryRequests :
    (∀ e ∈ [epCore 0, epMill 7, epApps], epValid (BitVec.ofNat 16 e).toNat = true ∧
      memBase.waysTo (unitOfEp e) (Machine.pages 0xFFF0 32) = true) ∧
    -- partners meet over the Manor alone
    ({ memBase with links := [(linkKey 0 true true, { down := true })] } : State).waysTo (unitOfEp (epCore 10879)) (Machine.pages 0xFFF0 16) = false ∧
    (∀ a ∈ ([.read, .write] : List Acc), granted (memBase.trAll a (Machine.pages 0x10000 1)) = false ∧
      pieces (memBase.trAll a (Machine.pages 0x10000 1)) = [(0x10000, 0, false)]) ∧
    (granted (memBase.trAll .read (Machine.pages 0xFFF0 16)) = true ∧
      pieces (memBase.trAll .read (Machine.pages 0xFFF0 16)) = [(0x3FFF0, 16, false)]) ∧
    (∀ x ∈ [(0xA0000, (0x40000, 64, false)), (0x140000, (0x50000, 64, true))],
      granted (memBase.trAll .write (Machine.pages x.1 64)) = true ∧ pieces (memBase.trAll .write (Machine.pages x.1 64)) = [x.2]) ∧
    ((poisoned [0x3FFE0]).anyPoison [(0x3FFF0, 16, false)] = true ∧ memBase.anyPoison [(0x3FFF0, 16, false)] = false ∧
      ∀ i < 4, memBase.poisonFree i = true) ∧
    (let s := { memBase with tlb := [(unitOfEp (epCore 0), 0)] }
     s.translate 0xFFF0 .read = .ok 0x3FFF0 false ∧ 0xFFF0 % 32 + 16 ≤ 32 ∧ (unitOfEp (epCore 0), 0xFFF0 / 65536) ∈ s.tlb ∧ s.latent = [] ∧
       (∀ a ∈ s.walkAt 0xFFF0, s.cellOf (a / 32 * 32) ≠ s.cellOf (0x3FFF0 / 32 * 32)) ∧
       s.lineAt (0x3FFF0 / 2 ^ 38) (0x3FFF0 / 128) = none ∧ 0x3FFF0 / 32 * 32 ∉ s.poisoned ∧
       ∀ g ∈ (s.suit (0x3FFF0 / 2 ^ 38)).gran, g.filling = false) ∧
    (∀ x ∈ [(epCore 0, 2, 1), (epCore 10879, 0, 0), (epMill 7, 0, 3), (epMill 0, 3, 3), (epApps, 3, 3), (epApps, 1, 2)],
      mayIssue (BitVec.ofNat 16 x.1).toNat x.2.1 x.2.2 = true ∧ memBase.wayTo (unitOfEp x.1) 0xFFF8 = true) ∧
    (0xFFFC % atomicSize 0 1 ≠ 0 ∧ 0xFFF8 % atomicSize 0 1 = 0 ∧ 0xFFFC % atomicSize 1 2 = 0) ∧
    (memBase.translate 0x140000 .atomic = .fault 3 false ∧ memBase.translate 0xFFF8 .atomic = .ok 0x3FFF8 false ∧
      (memBase.atHome 0 0 0xFFF8 0x3FFF8 8).poisonIn 0x3FFF8 8 = false ∧
      ((poisoned [0x3FFE0]).atHome 0 0 0xFFF8 0x3FFF8 8).poisonIn 0x3FFF8 8 = true) ∧
    (epToCore (BitVec.ofNat 16 epApps).toNat = none ∧ epToCore (BitVec.ofNat 16 (epCore 10879)).toNat = some 10879) := by decide +kernel
theorem test_atomic_add :
    after (.atomic (BitVec.ofNat 16 epApps) 0x20 0 2 5 0) { memBase with mem := Memory.write memBase.mem 0x30020 4 0xFFFFFFFE }
      (fun t => (Memory.read t.mem 0x30020 4, t.rsp)) = some (3, .word 0xFFFFFFFE) := by decide +kernel

/-- Suit 0 with one detector; `fills` fills in flight stand in slice 0. -/
def detState (d : Det) (fills : Nat) : State :=
  { memBase with suits :=
      [(0, { powered := true, dets := [d], gran := (upTo fills).map fun i =>
        { line := 2 ^ 30 + i, set := i, way := 0, valid := 0, dirty := 0, age := 2, cls := 0, filling := true } }),
       (1, { powered := true }), (2, { powered := true }), (3, { powered := true })] }
/-- A stream in page 0 (frame 3): three requests at stride 1 up to virtual line 4. -/
def trained : Det := { slot := 0, tid := 1, last := 4, stride := 1, hits := 3, frame := 0x30000 }
/-- The same at the last line of page 0, with what a demand request has attached of page 1. -/
def atEdge (next : Option (Nat × Option Nat)) : Det := { trained with last := 511, next := next }
/-- Pseudo-channel 5 of suit 0 with a hard-failed sector. -/
def failedPc (m : Option Nat) (run : Bool) : State :=
  { memBase with suits := [(0, { powered := true, mapping := m })], regs := [(Reg.hbmPc 0 5, 0x40000000)], job := { base.job with run := run }
                 bell := { base.bell with cuts := [{ scope := 1, suit := 0, hand := 0, source := 7, t0 := 0, complete := true }] } }
theorem witness_HbmIsKeptUp :
    (∀ f ∈ [0, 897], ((detState trained f).suit 0).dets[0]? = some trained ∧
      3 ≤ trained.hits ∧ (detState trained f).flag (Reg.granCtl 0) 0 = true ∧ trained.ahead < (detState trained f).pfDepth 0 ∧
      (0 : Int) ≤ trained.last + trained.stride * (trained.ahead + 1) ∧ 5 / 512 = trained.last / 512) ∧
    ((detState trained 0).sliceContexts 0 ((detState trained 0).sliceOf 0x30280) ≤ 896 ∧
      (detState trained 0).lineAt 0 (0x30280 / 128) = none) ∧
    ((detState { trained with last := 127 } 897).sliceOf 0x34000 = 0 ∧
      896 < (detState { trained with last := 127 } 897).sliceContexts 0 0) ∧
    (∀ x ∈ [some (1, some 0x40000), some (1, none), none], ((detState (atEdge x) 0).suit 0).dets[0]? = some (atEdge x) ∧
      512 / 512 ≠ (atEdge x).last / 512) ∧
    ¬ (3 ≤ ({ trained with hits := 2 } : Det).hits) ∧
    (memBase.suitDark 3 = false ∧ memBase.flag (Reg.hbmCtl 3) 8 = true ∧ 63 ∉ (memBase.suit 3).outPcs ∧ 35156249 < memBase.pcSectors ∧
      ¬ (35156250 < memBase.pcSectors) ∧ PMap.find memBase.latent (hbmKey 3 63 35156249) = none ∧
      3 * 2 ^ 38 + offsetOf memBase.part 3 (memBase.outMask 3) 63 35156249 ∉ memBase.poisoned) ∧
    (∀ x ∈ [(some 5, true), (some 5, false), (none, true), (none, false)], (failedPc x.1 x.2).suitDark 0 = false ∧ 5 ∉ ((failedPc x.1 x.2).suit 0).outPcs ∧
      ((failedPc x.1 x.2).suit 0).mapping = x.1 ∧ (failedPc x.1 x.2).suitQuiet 0 = true ∧ (failedPc x.1 x.2).job.run = x.2 ∧
      (failedPc x.1 x.2).outReason 0 5 0 = true ∧ (failedPc x.1 x.2).reserveLeft 0 = true ∧ (failedPc x.1 x.2).mayRecover 640 = true) ∧
    (({ failedPc (some 5) true with bell := {} } : State).suitQuiet 0 = false ∧ (failedPc none true).outReason 0 6 0 = false) ∧
    (memBase.apTranslate 0xFFE0 .write = .ok 0x3FFE0 false ∧ memBase.manorUp 0 = true ∧ (poisoned [0x3FFE0]).poisonIn 0x3FFE0 32 = true ∧
      memBase.poisonIn 0x3FFE0 32 = false ∧ memBase.apTranslate 0x10000 .write = .fault 0 false) := by decide +kernel

/-! ## The Manor's memory -/

def idle : State := { memBase with job := { base.job with run := false }, regs := [(Reg.pcieLink 0, 0x80000000)] }
theorem witness_ManorMemoryAnswers :
    (placeOf 0x800000000 = .ddr 0 ∧ placeOf 0xFFFFFFFFF = .ddr (2 ^ 35 - 1) ∧ placeOf (2 ^ 48) = .hbm 0 ∧ placeOf (2 ^ 49 - 1) = .hbm (2 ^ 48 - 1) ∧
      placeOf (2 ^ 60) = .nvme ∧ placeOf 0x30000000 = .none ∧ placeOf 0x2FFFFFFC = .regs 0x2FFFFFFC) ∧
    (0 + 8 ≤ 2 ^ 35 ∧ 2 ^ 35 < 2 ^ 35 - 1 + 2 ∧ idle.ddrBad 0 8 = false ∧ ({ idle with ddrPoisoned := [0] } : State).ddrBad 0 8 = true) ∧
    (idle.apAll .read (Machine.pages 0 8) = some [(0, 8, false)] ∧ idle.apAll .write (Machine.pages 0 8) = some [(0, 8, false)] ∧
      idle.apAll .read (Machine.pages (2 ^ 40) 8) = none ∧ idle.apAll .write (Machine.pages (2 ^ 40) 8) = none ∧
      memBase.apAll .read (Machine.pages 0 8) = some [(0x30000, 8, false)]) ∧
    (idle.apWay [(0, 8, false)] = true ∧
      ({ idle with links := [(linkKey 0 true true, { down := true })] } : State).apWay [(0, 8, false)] = false) ∧
    (isAia 0x2FFFFFFC = false ∧ regAccessOk 0x2FFFFFFC 4 = true ∧ regAccessOk 0x2FFFFFFC 8 = false) ∧
    (0x800000008 % 8 = 0 ∧ idle.ddrBad 8 8 = false ∧ idle.apTranslate 8 .atomic = .ok 8 false ∧ idle.manorUp 0 = true ∧
      (idle.atHome (unitOfEp epApps) 0 8 8 8).poisonIn 8 8 = false ∧ (2 ^ 48 + 8) % 8 = 0) ∧
    (idle.dmaRuns = true ∧ ({ idle with ctl := { idle.ctl with halted := true } } : State).dmaRuns = false) ∧
    ((idle.dmaRead (2 ^ 48) 4).2 = .ok [1, 0, 1, 0] ∧ (({ idle with poisoned := [0] } : State).dmaRead (2 ^ 48) 4).2 = .poison ∧
      (({ idle with links := [(linkKey 0 true true, { down := true })] } : State).dmaRead (2 ^ 48) 4).2 = .wait) ∧
    (idle.portUp 0 = true ∧ idle.portUp 1 = false ∧ (match idle.mapWrite 658 (2 ^ 48) [1] with | .ok _ => true | _ => false) = true ∧
      (match idle.mapWrite 658 0x30000000 [1] with | .fault => true | _ => false) = true ∧ (idle.mapRead 658 (2 ^ 48) 1).2 = .ok [1] ∧
      (idle.mapRead 658 0x30000000 1).2 = .fault) := by
  refine ⟨?_, ?_, ?_, ?_, ?_, ?_, ?_, ?_, ?_⟩ <;> decide +kernel

/-! ## The fault log -/

/-- A record of a severity on its way to reeve 3. -/
def recOf (sev : Nat) : BitVec 128 := faultWord 9 sev 3 0 0
def logState (sev n held : Nat) (full : Bool) : State :=
  { base with recov := { base.recov with flight := [(3, recOf sev)], baseWritten := true, startBuf := List.replicate n 0, heldRecs := List.replicate held (recOf 2) }
              regs := [(Reg.faultTail, if full then 1 else 0)] }
/-- Reeve 0 has a record of an earlier TIME. -/
def earlyState : State := { base with recov := { base.recov with flight := [(3, recOf 1), (0, faultWord 5 1 3 0 0)] } }
theorem witness_FaultLogKeepsRecords :
    ((earlyState.recov.flight.find? fun x => x.1 == 3) = some (3, recOf 1) ∧
      ∃ y ∈ earlyState.recov.flight, y.1 ≠ 3 ∧ earlyState.takes y.1 = true ∧ recTime y.2 < recTime (recOf 1)) ∧
    (∀ sev < 4, (logState sev 0 0 false).recov.haltedReeves.contains 3 = false ∧ (logState sev 0 0 false).recov.lostReeves.contains 3 = false ∧
      ((logState sev 0 0 false).recov.flight.find? fun x => x.1 == 3) = some (3, recOf sev) ∧ recSev (recOf sev) = sev) ∧
    (({ logState 1 255 0 false with recov := { base.recov with baseWritten := false, startBuf := List.replicate 255 0 } } : State).recov.startBuf.length < 256) ∧
    ((logState 1 0 0 false).recov.baseWritten = true ∧ (logState 1 0 0 false).logFull = false ∧ (logState 1 0 0 false).recov.heldRecs = []) ∧
    ((logState 1 0 0 true).logFull = true ∧ (logState 2 0 63 true).recov.heldRecs.length < 64 ∧ 64 ≤ (logState 2 0 64 true).recov.heldRecs.length ∧
      (logState 2 0 64 true).recov.reeveQ = []) ∧
    (∃ ws, (logState 2 0 2 true).recov.heldRecs = recOf 2 :: ws) ∧
    (let s : State := { base with recov := { base.recov with logT := some 5, logPending := true }, time := 1000005 }
     s.recov.logT = some 5 ∧ s.recov.logPending = true ∧ 5 + 1000000 ≤ s.time) ∧
    base.recov.logPending = false := by
  and_intros
  all_goals first
    | decide +kernel
    | exact ⟨_, rfl⟩

/-! ## Recovery -/

def reeveState (lost halted : List Nat) (t : Nat) : State := { base with time := t, recov := { base.recov with lostReeves := lost, haltedReeves := halted } }
theorem witness_ReevesBeatAndPassOn :
    (let s := reeveState [] [] 10000000
     (s.suit (15 / 4)).powered = true ∧ 15 ∉ s.recov.haltedReeves ∧ 15 ∉ s.recov.lostReeves ∧
       PMap.get 0 s.recov.beatT 15 + max 1 (s.field (Reg.reeveCtl (15 / 4)) 24 8) * 1000000 ≤ s.time) ∧
    (reeveState [] [] 9999999).time < PMap.get 0 base.recov.beatT 15 + max 1 (base.field (Reg.reeveCtl 3) 24 8) * 1000000 ∧
    15 ∈ (reeveState [] [15] 0).recov.haltedReeves ∧
    (let s := reeveState [12, 13, 14] [] 30000000
     15 ∉ s.recov.lostReeves ∧ PMap.get 0 s.recov.beatT 15 + 3 * (max 1 (s.field (Reg.reeveCtl (15 / 4)) 24 8) * 1000000) ≤ s.time ∧
       s.suitDark (15 / 4) = false ∧ ∀ x < 16, x / 4 = 15 / 4 → x ≠ 15 → x ∈ s.recov.lostReeves) ∧
    (12 / 4 = 15 / 4 ∧ 12 ≠ 15 ∧ 12 ∉ (reeveState [] [] 30000000).recov.lostReeves) := by decide +kernel

def redrifted : State := { base with recov := { base.recov with redrifted := [blockOf (Reg.seqCtl 639), blockOf (Reg.cubeCtl 10879)] } }
def outState (run : Bool) (cuts : List Cut) : State :=
  { base with recov := { base.recov with outSuits := [3] }, job := { base.job with run := run }, bell := { base.bell with cuts := cuts } }
/-- Both bridges of suit 3 and its Manor link are down. -/
def isolatedState : State :=
  { base with links := PMap.put (PMap.put (PMap.put [] (linkKey 6 false true) { down := true }) (linkKey 7 false true) { down := true }) (linkKey 6 true true) { down := true } }
theorem witness_FoldsAndRejoins :
    (∀ s ∈ [base, quietBase], (s.suit 3).powered = true ∧ s.fenced 639 = false ∧ s.suitDark 3 = false ∧ s.colls = []) ∧
    (base.job.run = true ∧ quietBase.job.run = false ∧ redrifted.driftedTwice (Reg.seqCtl 639) = true ∧ base.driftedTwice (Reg.seqCtl 639) = false) ∧
    (∀ s ∈ [outState false [], outState true [{ packageCut with complete := true }]], 3 ∈ s.recov.outSuits ∧ 3 ∉ s.sec.fencedSuits ∧ s.suitDark 3 = false ∧
      (s.job.run = true → s.allHeld = true)) ∧ 3 ∉ base.recov.outSuits ∧
    (∀ s ∈ [base, quietBase, redrifted, isolatedState], s.mayFold 3 = true) ∧ isolatedState.isolated 3 = true ∧ base.isolated 3 = false := by decide +kernel
theorem folds_safe : Safe base ∧ Safe quietBase ∧ Safe (outState false []) :=
  ⟨⟨by decide +kernel, by decide, by decide, .nil, .nil⟩, ⟨by decide +kernel, by decide, by decide, .nil, .nil⟩,
    ⟨by decide +kernel, by decide, by decide, .nil, .nil⟩⟩

/-- Hand 0 runs a stream without a checkpoint; stopped or not. -/
def replayState (stopped : List Nat) : State :=
  { base with hands := [(0, { stream := true })], bell := { base.bell with cuts := [{ handCut with complete := true }], marked := stopped, stopped := stopped } }
theorem replay_set (stopped : List Nat) (h : stopped ∈ [[], [0]]) : (replayState stopped).replayed 0 false = [0] := by
  have e : (replayState stopped).closure 640 [0] = [0] := by
    unfold State.closure
    rfl
  have f : ∀ l ∈ [[], [0]], (((replayState l).hand 0).stream && (replayState l).handUp 0) = true := by decide +kernel
  simp only [State.replayed, Bool.false_eq_true, if_false, e, List.filter_cons, f stopped h, if_true, List.filter_nil]
theorem witness_ReplayAndCoreSwap :
    (∀ l ∈ [[], [0]], (replayState l).job.run = true ∧ (replayState l).handUp 0 = true ∧ ((replayState l).hand 0).stream = true ∧
      (replayState l).slotOf 0 false ((replayState l).hand 0).hasLast ((replayState l).hand 0).base = some 0 ∧
      (replayState l).mayRecover 0 = true ∧ (replayState l).bell.cuts.all (fun c => c.complete) = true) ∧
    ((replayState []).cutFor ((replayState []).replayed 0 false) = false ∧ (replayState [0]).cutFor ((replayState [0]).replayed 0 false) = true) ∧
    (∀ k ∈ [0, 15], (replayState [0]).logical 0 (k % 17) < 16 ∧ (replayState [0]).flag (Reg.spare 0) 31 = false ∧ (replayState [0]).flag (Reg.spare 0) 0 = false) ∧
    ¬ (base.logical 0 (16 % 17) < 16) ∧ base.mayRecover 639 = true ∧ redrifted.driftedTwice (Reg.cubeCtl 10879) = true ∧
    ((base.hand 639).stream = false ∧ base.handUp 639 = true ∧ base.logical 639 (10878 % 17) < 16) := by
  rw [replay_set [] (by simp), replay_set [0] (by simp)]
  decide +kernel

/-- Hand 0 holds at a step boundary. -/
def heldBase (armed : Bool) (rel : Option Nat) : State :=
  { base with hands := [(0, { stream := true, held := some (64, holdRec) })], job := { base.job with ckptArmed := armed }
              ctl := { base.ctl with releaseReq := rel }, clock := 9000000000 }
theorem mem_upTo_of (n x : Nat) (h : x < n) : x ∈ upTo n := by
  induction n with
  | zero => omega
  | succ n ih =>
    rw [upTo, List.mem_append, List.mem_singleton]
    rcases Nat.lt_succ_iff_lt_or_eq.1 h with g | g
    · exact .inl (ih g)
    · exact .inr g
theorem held_left (s : State) (h : ((((s.hand 0).stream && !(s.hand 0).reported) || s.willStart 0) && s.handUp 0) = true) : s.handsLeft ≠ [] := by
  intro e
  have m : ∀ n ≤ 640, 0 < n → 0 ∈ (upTo n).filter fun h => (((s.hand h).stream && !(s.hand h).reported) || s.willStart h) && s.handUp h :=
    fun n _ h0 => List.mem_filter.2 ⟨mem_upTo_of n 0 h0, h⟩
  have := m 640 (by decide) (by decide)
  rw [show (upTo 640).filter _ = s.handsLeft from rfl, e] at this
  exact List.not_mem_nil this
/-- A scrub that is due for the page of frame 3. -/
def scrubState : State := { quietBase with job := { quietBase.job with scrub := true, pages := [0x30000] }, mem := pages ++ [(0x30000, 7)] }
/-- A package cut is held, and a variant's root table stands in memory. -/
def cutRoot (l : List Nat) : State :=
  { rootState with job := { rootState.job with run := true, rollForward := true }, mills := [(7, { stream := true })]
                   bell := { rootState.bell with cuts := [{ packageCut with complete := true }], marked := l, stopped := l } }
/-- A root table is read from memory alone. -/
theorem readRoot_frame (s t : State) (va : Nat) (c : ∀ i, t.capBytes i = s.capBytes i)
    (p : ∀ i, t.partnerOk i = s.partnerOk i) (r : t.reg Reg.mmuRoot = s.reg Reg.mmuRoot) (r' : t.reg (Reg.mmuRoot + 4) = s.reg (Reg.mmuRoot + 4)) (o : ∀ a n, t.poisonIn a n = s.poisonIn a n) (m : t.mem = s.mem) : t.readRoot va = s.readRoot va := by
  have e : ∀ a, t.walkAt a = s.walkAt a := by
    intro a
    unfold State.walkAt State.field
    dsimp only
    rw [r, r', m]
  have w : ∀ a, t.walk a = s.walk a := by
    intro a; simp only [State.walk, e, m]
  have b : ∀ a, t.walkBad a = s.walkBad a := by
    intro a; simp only [State.walkBad, e, o]
  have tr : ∀ a x, t.translate a x = s.translate a x := by
    intro a x; simp only [State.translate, w, c, p, b]
  have r : ∀ a n, t.rd a n = s.rd a n := by
    intro a n; simp only [State.rd, State.vread, tr, o, m]
  have k : ∀ a, t.traceOk a = s.traceOk a := by
    intro a
    have q : ∀ x, t.pageRW x = s.pageRW x := fun x => by simp only [State.pageRW, State.accFault, tr]
    simp only [State.traceOk, r, q]
  have e : ∀ a l, t.rootEntries a l = s.rootEntries a l := by
    intro a l
    induction l with
    | nil => rfl
    | cons u us ih => simp only [State.rootEntries, ih, r]
  simp only [State.readRoot, r, k, e]
/-- The deal, the Mills and the Bell take no part in reading a root table. -/
theorem readRoot_cut (s : State) (j : Job) (m : PMap Mill) (b : Bell) (va : Nat) : ({ s with job := j, mills := m, bell := b } : State).readRoot va = s.readRoot va :=
  readRoot_frame s _ va (fun _ => rfl) (fun _ => rfl) rfl rfl (fun _ _ => rfl) rfl
theorem cutRoot_root (l : List Nat) : ∃ j, (cutRoot l).readRoot 0x8000 = some (j, 77) := by
  rw [cutRoot, readRoot_cut]
  exact rootState_root
/-- Unit u has 32 trace records and has written `written` bytes; the pages of the rings of units 0 and 647 are mapped. -/
def ringState (u wrap written : Nat) : State :=
  { base with job := { base.job with wrap := wrap, traceVa := 0, ringLog := 16 }, hands := [(0, { ring := List.replicate 32 1 })]
              mills := [(7, { ring := List.replicate 32 1 })], time := 100000
              mem := Memory.write (Memory.write (Memory.write pages 0x20080 8 0x5003F) 0x214B8 8 0x6003F) (if u < 640 then 0x31300 else 0x42F00) 8 written }
/-- Mill 7 under the package cut of `cutRoot`, with one begun command of the given opcode. -/
def rollState (op : Nat) : State := { cutRoot [] with mills := [(7, { stream := true, q := [mkCmd (mkRec op 8 16 0 0 0 0)] })] }
/-- The chain of the two writes of a drain. -/
def drained2 (s : State) (u lost : Nat) : Bool :=
  match (s.setRing u ((s.ringOf u).drop 32)).vwrite u 0 (s.traceRing u) 1024 (packTrace ((s.ringOf u).take 32)) with
  | some s2 => (s2.vwrite u 0 (s.traceBlock u + 0x300) 16 (1024 + lost * 2 ^ 64)).isSome
  | none => false
theorem rings_drain : drained2 (ringState 0 0 0) 0 0 = true ∧ drained2 (ringState 647 1 0) 647 0 = true := by decide +kernel
theorem witness_DealsStopAndResume :
    (scrubState.job.scrub = true ∧ quietBase.job.scrub = false ∧ (0x30000 ∈ scrubState.job.pages) ∧ Memory.wf scrubState.mem = true) ∧
    (∀ x ∈ [(heldBase false none), (heldBase true none), (heldBase true (some 0))], x.job.run = true ∧ x.handsLeft ≠ [] ∧ x.allHeld = true ∧ x.recov.busy = none) ∧
    ((heldBase true (some 0)).releaseDue 9000000000 = true ∧ (heldBase true (some 1)).releaseDue 9000000000 = false ∧
      ({ heldBase true (some 0) with hands := [(0, { stream := true })] } : State).releaseDue 4000000000 = true ∧
      ({ heldBase true (some 0) with hands := [(0, { stream := true })] } : State).allHeld = false) ∧
    (quietBase.job.run = false ∧ base.packageCut = false ∧ base.mayRecover 650 = true ∧ (cutRoot []).mayRecover 650 = true ∧ (cutRoot []).job.run = true ∧ (cutRoot []).packageCut = true ∧
      (cutRoot []).readRoot 1 = none ∧ (∃ j, (cutRoot []).readRoot 0x8000 = some (j, 77)) ∧ (∀ c ∈ (cutRoot []).bell.cuts, c.complete = true) ∧
      (cutRoot []).handUp 639 = true ∧ (cutRoot []).suitUp 3 = true) ∧
    ((cutRoot []).job.rollForward = true ∧ (640 + 7) ∈ (cutRoot [647]).bell.stopped ∧ ((cutRoot []).mill 7).stream = true ∧ (cutRoot []).bell.stopped = [] ∧
      (∀ op ∈ [0, 1], ∃ c ∈ ((rollState op).mill 7).q, Record.opcode c.r = op)) ∧
    (∀ u ∈ [0, 647], (ringState u 0 0).job.run = true ∧ 32 ≤ ((ringState u 0 0).ringOf u).length ∧ (ringState u 0 0).drainGap u ≤ 100000 ∧
      u ∉ (ringState u 0 0).bell.stopped ∧
      (match (ringState u 1 65536).vread ((ringState u 1 65536).traceBlock u + 0x300) 8 with | .ok v => v | _ => 0) = 65536) := by
  refine ⟨by decide +kernel, ?_, by decide +kernel, ?_, by decide +kernel, by decide +kernel⟩
  · intro x hx
    simp only [List.mem_cons, List.not_mem_nil, or_false] at hx
    have h : ∀ a b, (heldBase a b).allHeld = true := fun a b => by
      rw [show (heldBase a b).allHeld = (heldBase false none).allHeld from rfl]; decide +kernel
    obtain rfl | rfl | rfl := hx <;> exact ⟨rfl, held_left _ (by decide +kernel), h _ _, rfl⟩
  · have e : quietBase.job.run = false ∧ base.packageCut = false ∧ base.mayRecover 650 = true ∧ (cutRoot []).mayRecover 650 = true ∧ (cutRoot []).job.run = true ∧
        (cutRoot []).packageCut = true ∧ (cutRoot []).readRoot 1 = none := by decide +kernel
    obtain ⟨e1, e2, e3, e4, e5, e6, e7⟩ := e
    have g : (∀ c ∈ (cutRoot []).bell.cuts, c.complete = true) ∧ (cutRoot []).handUp 639 = true ∧ (cutRoot []).suitUp 3 = true := by decide +kernel
    exact ⟨e1, e2, e3, e4, e5, e6, e7, cutRoot_root [], g.1, g.2.1, g.2.2⟩

/-! ## Start-up, power, the whole block -/

/-- Start-up at the beginning of a step, the reference not yet found. -/
def bootState (n : Nat) (atEnd : Bool) : State :=
  { State.reset with
    ctl := { en := true, mainSwitch := true, step := n, endAtBoundary := atEnd, timeOn := decide (3 < n) }
    suits := if 3 < n then (upTo 4).map fun i => (i, { powered := true }) else [], extRef := decide (3 < n) }
def stepOk : StepResult := ⟨2, [], [], true, [], []⟩
theorem witness_StartUpAndReference :
    (let s : State := { State.reset with ctl := { en := true } }
     s.ctl.en = true ∧ s.ctl.mainSwitch = false ∧ s.ctl.safe = false ∧ State.reset.ctl.en = false) ∧
    (stepOk.flashMode < 3 ∧ State.reset.starting = false) ∧
    (∀ n < 9, 0 < n → (bootState n false).starting = true ∧ (bootState n false).ctl.endAtBoundary = false ∧ (bootState n false).ctl.step = n ∧
      (bootState n true).starting = true ∧ (bootState n true).ctl.endAtBoundary = true ∧
      (bootState n false).sec.erasePending = false) ∧
    ((bootState 2 false).chooseBank = none) ∧
    (∀ i < 4, (bootState 3 false).fusedIn i = true ∧ i ∉ (bootState 3 false).recov.outSuits ∧ i ∉ (bootState 3 false).recov.foldedSuits) ∧
    (∀ i < 4, (bootState 4 false).suitUp i = true ∧ 63 ∉ ((bootState 4 false).suit i).outPcs ∧ (bootState 4 false).reserveLeft i = true ∧
      ((bootState 4 false).suit i).outPcs.length < 63 ∧ ((bootState 4 false).setReg (Reg.hbmCtl i) 0).reserveLeft i = false) ∧
    ((bootState 5 false).suitUp (639 / 160) = true ∧ 639 / 160 * 160 + 0 ∉ [639] ∧ (bootState 5 false).fenced (639 / 160 * 160 + 0) = false ∧
      (bootState 5 false).net = [] ∧ (bootState 5 false).inbox = [] ∧ (bootState 5 false).colls = [] ∧ (bootState 5 false).staged = [] ∧
      (let r : StepResult := ⟨2, [], [], true, [15], [639]⟩
       (∀ k ∈ r.badCores, k / 17 ≠ 639 / 160 * 160 + 0) ∧ 0 ∉ r.badHands ∧ (bootState 5 false).fenced 0 = false ∧ 0 * 17 + 15 ∈ r.badCores ∧
         ∀ d ≤ 16, d ≠ 15 → 0 * 17 + d ∉ r.badCores)) ∧
    (∀ n < 9, 0 < n → ({ bootState n false with clock := 120000000000 } : State).ctl.stepT + (bootState n false).stepLimit * 1000000 ≤ 120000000000) ∧
    (let s : State := { bootState 3 false with clock := 100000000 }
     s.ctl.step = 3 ∧ s.ctl.timeOn = false ∧ s.ctl.stepT + 100000000 ≤ s.clock) ∧
    ((bootState 4 false).ctl.timeOn = true ∧ (bootState 4 false).extRef = true ∧ (bootState 4 false).sec.holds 2 1 = false ∧
      (bootState 3 false).ctl.timeOn = false ∧ (bootState 3 false).starting = true) := by
  have b : ∀ k, (bootState 2 false).bankOk k = false := by
    intro k
    have m : imgMagic (bootState 2 false).flash (bankBase k) = false := by
      rw [show (bootState 2 false).flash = [] from rfl, imgMagic, read_nil]; rfl
    simp only [State.bankOk, m, Bool.false_and]
  have o : ∀ l : List Nat, l.find? (bootState 2 false).bankOk = none := fun l => List.find?_eq_none.2 fun x _ => by rw [b x]; exact Bool.false_ne_true
  and_intros
  all_goals first
    | exact o _
    | decide +kernel
/-- A bank whose image passes is chosen (whether its signature and digests pass, the constable's functions say). -/
theorem witness_StartUpAndReference_bank (s : State) (h : s.bankOk 0 = true) (q : imgSeq s.flash (bankBase 1) ≤ imgSeq s.flash 0) :
    s.chooseBank = some 0 := by
  simp only [State.chooseBank, if_neg (Nat.not_lt.2 q)]
  exact List.find?_cons_of_pos h

def govState (clock cap : Nat) (thr : Bool) : State :=
  { base with suits := (upTo 4).map fun i => (i, { powered := decide (i ≠ 3), clock := clock, cap := cap, throttled := thr, floorTicks := 100 })
              ctl := { base.ctl with en := true, mainSwitch := true, step := 9 } }
theorem witness_PowerAndRelease :
    ((govState 600 8 false).ctl.mainSwitch = true ∧ base.ctl.mainSwitch = false) ∧
    ((govState 600 8 false).ctl.halted = false ∧ (govState 600 8 false).suitsUp ≠ [] ∧ State.reset.suitsUp = [] ∧ (govState 600 8 false).gov.pLimit = 700) ∧
    (751 > 700 + 50 ∧ ((govState 600 5 false).suit 0).powered = true ∧ 4 < ((govState 600 5 false).suit 0).cap ∧ ¬ 4 < ((govState 600 4 false).suit 0).cap) ∧
    (((govState 600 8 true).suit 0).throttled = true ∧ ((govState 600 8 false).suit 0).throttled = false ∧ ((govState 600 7 false).suit 0).cap < 8 ∧
      8 ≤ ((govState 600 8 false).suit 0).cap ∧ ((govState 600 8 false).suit 3).powered = false ∧ 679 + 20 < 700 ∧ 700 ≤ 680 + 20) ∧
    (100 ≤ ((govState 600 8 false).suit 0).floorTicks ∧ (base.suit 0).floorTicks < 100) ∧
    (let s := { govState 600 8 false with job := State.reset.job }
     s.ctl.releaseReq = none ∧ s.job.run = false ∧ s.starting = false ∧ (govState 600 8 false).job.run = true ∧ (bootState 4 false).starting = true ∧
       (bootState 4 false).job.run = false ∧ (bootState 4 false).ctl.releaseReq = none) ∧
    (let s : State := { State.reset with ctl := { en := true, safe := true } }
     s.ctl.safe = true ∧ s.ctl.en = true ∧ State.reset.ctl.safe = false) := by decide +kernel
theorem test_over_limit_lowers_caps :
    after (.governorFast 751) (govState 600 8 false) (fun t => ((t.suit 0).cap, (t.suit 3).cap, t.flag Reg.pwrEvent 26)) = some (7, 8, true) := by
  decide +kernel

theorem witness_StepTakesTheFrontCommand : ({ base with pending := [.idcode, .bypass] } : State).pending = .idcode :: [.bypass] ∧ base.pending = [] :=
  ⟨rfl, rfl⟩
theorem reset_safe : Safe State.reset ∧ ∀ e ∈ State.reset.cores, VlFits e.2 :=
  ⟨⟨by decide, by decide, by decide, .nil, .nil⟩, fun _ h => absurd h List.not_mem_nil⟩
theorem witness_StepsKeepCanonicalForm : ∃ t, Safe base ∧ (∀ e ∈ base.cores, VlFits e.2) ∧ step base = .next t :=
  ⟨_, base_safe, fun _ h => absurd h List.not_mem_nil, rfl⟩
theorem witness_SecureCountersNeverFall : ∃ t, step { base with pending := [.powerFail] } = .next t := ⟨_, rfl⟩
end Sys2Proof.Tests
end

section
/-! PROOFS. Streams: what the records that a sequencer or a Mill executes by itself do to its counters and to its stream
(R77, R81, R82), on top of what a trace record and a drain of the trace ring change (R555 to R566). -/

namespace Sys2Proof

open Machine

variable {R : Nat → Prop} {s t b : State}

/-! ## Quiet operations -/

theorem Quiet.refl (s : State) : Quiet s s := ⟨rfl, rfl, rfl⟩

theorem Quiet.trans (a : Quiet s b) (c : Quiet b t) : Quiet s t := by
  obtain ⟨net, recov, rsp⟩ := a
  obtain ⟨net', recov', rsp'⟩ := c
  exact ⟨net'.trans net, recov'.trans recov, rsp'.trans rsp⟩

theorem quiet_inc1 (s : State) (addr : Nat → Nat) (x : BitVec 512) (i : Nat) : Quiet s (s.inc1 addr x i) := by
  unfold State.inc1
  split_ifs
  · exact ⟨rfl, rfl, rfl⟩
  · exact Quiet.refl s

theorem quiet_applyIncs (s : State) (h : Nat) (x : BitVec 512) : Quiet s (s.applyIncs h x) :=
  (quiet_inc1 s _ x 0).trans (quiet_inc1 _ _ x 1)

/-! ## Trace rings -/

/-- Two states of a hand that differ in its trace ring alone (R561). -/
def Machine.Hand.RingOnly (d e : Hand) : Prop := e = { d with ring := e.ring, rseq := e.rseq, lostNew := e.lostNew }

/-- Two states of a Mill that differ in its trace ring alone (R565). -/
def Machine.Mill.RingOnly (d e : Mill) : Prop :=
  e = { d with ring := e.ring, rseq := e.rseq, lostNew := e.lostNew, lostAll := e.lostAll }

theorem Machine.Hand.RingOnly.refl (d : Hand) : d.RingOnly d := rfl
theorem Machine.Mill.RingOnly.refl (d : Mill) : d.RingOnly d := rfl

theorem Machine.Hand.RingOnly.trans {d e f : Hand} (a : d.RingOnly e) (c : e.RingOnly f) : d.RingOnly f := by
  unfold Hand.RingOnly at a c ⊢
  rw [c, a]

section
variable {d e : Hand} (a : d.RingOnly e)
include a
theorem Machine.Hand.RingOnly.buf : e.buf = d.buf := by rw [show e = _ from a]
theorem Machine.Hand.RingOnly.detour : e.detour = d.detour := by rw [show e = _ from a]
theorem Machine.Hand.RingOnly.ended : e.ended = d.ended := by rw [show e = _ from a]
end

section
variable {d e : Mill} (a : d.RingOnly e)
include a
theorem Machine.Mill.RingOnly.buf : e.buf = d.buf := by rw [show e = _ from a]
theorem Machine.Mill.RingOnly.fetch : e.fetch = d.fetch := by rw [show e = _ from a]
theorem Machine.Mill.RingOnly.loops : e.loops = d.loops := by rw [show e = _ from a]
theorem Machine.Mill.RingOnly.halted : e.halted = d.halted := by rw [show e = _ from a]
end

/-- What a trace record may do: it enters a ring of a hand or a Mill, and nothing is sent or posted (R555). -/
structure Traced (s t : State) : Prop where
  hand : ∀ i, (s.hand i).RingOnly (t.hand i)
  mill : ∀ i, (s.mill i).RingOnly (t.mill i)
  quiet : Quiet s t

theorem Traced.refl (s : State) : Traced s s := ⟨fun _ => .refl _, fun _ => .refl _, .refl s⟩

theorem traced_traceHand (s : State) (h : Nat) (x : Trace) : Traced s (s.traceHand h x) := by
  unfold State.traceHand
  dsimp only
  split_ifs
  all_goals
    refine ⟨fun i => ?_, fun _ => .refl _, rfl, rfl, rfl⟩
    simp only [State.add32, State.hand_setReg, State.hand_setHand]
    split_ifs with e
    · subst e; rfl
    · exact .refl _

theorem traced_traceMill (s : State) (m : Nat) (x : Trace) : Traced s (s.traceMill m x) := by
  refine ⟨fun _ => .refl _, fun i => ?_, rfl, rfl, rfl⟩
  unfold State.traceMill
  rw [State.mill_setMill]
  split_ifs with e
  · subst e; rfl
  · exact .refl _

theorem traced_traceSt (s : State) (st v : Nat) (x : Trace) : Traced s (s.traceSt st v x) := by
  unfold State.traceSt
  split_ifs
  · exact traced_traceMill s v x
  · exact traced_traceHand s _ x

theorem traced_traceBegin (s : State) (st v : Nat) (x : BitVec 512) (w : Nat) : Traced s (s.traceBegin st v x w) := by
  unfold State.traceBegin
  split_ifs
  · obtain ⟨hand, mill, quiet⟩ := traced_traceSt s st v
      (.ofRecord 1 st v x 0 ((max w (s.fresh % 2 ^ 32)) <<< 32 + w))
    exact ⟨hand, mill, quiet⟩
  · exact .refl s

theorem traced_traceEnd (s : State) (st v : Nat) (x : BitVec 512) (a c n : Nat) : Traced s (s.traceEnd st v x a c n) := by
  unfold State.traceEnd
  split_ifs
  · exact traced_traceSt s st v _
  · exact .refl s

@[simp] theorem Machine.State.hand_inc1 (s : State) (addr : Nat → Nat) (x : BitVec 512) (i j : Nat) :
    (s.inc1 addr x i).hand j = s.hand j := by
  unfold State.inc1
  split_ifs
  · exact State.hand_setReg s _ _ j
  · rfl

@[simp] theorem Machine.State.mill_inc1 (s : State) (addr : Nat → Nat) (x : BitVec 512) (i j : Nat) :
    (s.inc1 addr x i).mill j = s.mill j := by
  unfold State.inc1
  split_ifs
  · exact State.mill_setReg s _ _ j
  · rfl

/-! ## Draining a hand's ring (R561) -/

/-- Registers of a hand that a drain of its trace ring may write: the count of lost records and the ring's status. -/
def DrainRegs (h a : Nat) : Prop := a = Reg.handLost h ∨ a = Reg.handObsStat h

/-- A drain of hand h's trace ring: beside what its accesses to HBM change, the ring and its registers. -/
structure Drained (h : Nat) (s t : State) : Prop where
  frame : MemFrame (DrainRegs h) (· = h) Nothing Nothing s t
  ring : (s.hand h).RingOnly (t.hand h)

theorem MemFrame.refl {H C M : Nat → Prop} (s : State) : MemFrame R H C M s s := (Frame.refl s).mem_frame

theorem Drained.refl (h : Nat) (s : State) : Drained h s s := ⟨.refl s, .refl _⟩

theorem Drained.trans {h : Nat} (a : Drained h s b) (c : Drained h b t) : Drained h s t :=
  ⟨a.frame.trans c.frame, a.ring.trans c.ring⟩

/-- A store of a unit, its partner copy included, changes beside bytes of HBM only what any access may change (R305). -/
theorem memFrame_storeVa {H C M : Nat → Prop} (s : State) (unit tid va pa : Nat) (pcopy : Bool) (n v : Nat) :
    MemFrame R H C M s (s.storeVa unit tid va pa pcopy n v) := by
  have home : MemFrame R H C M (s.walkLines unit va) ((s.walkLines unit va).storeHome tid pa pcopy n v) := by
    unfold State.storeHome
    dsimp only
    split_ifs
    · exact (memFrame_storePa _ tid pa n v).1.trans (memFrame_storePa _ tid _ n v).1
    · exact (memFrame_storePa _ tid pa n v).1
  have trained := Demand.foldl (fun (s : State) l => s.trainOn (pa / 2 ^ 38) tid l (pa / 65536 * 65536))
    (fun s l => demand_trainOn s _ tid l _) (linesIn va n) ((s.walkLines unit va).storeHome tid pa pcopy n v)
  exact ((demand_walkLines s unit va).mem_frame.trans home).trans trained.mem_frame

theorem drained_vwrite {h unit tid va n v : Nat} (e : s.vwrite unit tid va n v = some t) : Drained h s t := by
  unfold State.vwrite at e
  split at e
  · obtain rfl := Option.some.inj e
    refine ⟨memFrame_storeVa s unit tid va _ _ n v, ?_⟩
    rw [(memFrame_storeVa (R := Nothing) (H := Nothing) (C := Nothing) (M := Nothing) s unit tid va _ _ n v).hand h id]
    exact .refl _
  · cases e

theorem drained_setReg (s : State) {h a : Nat} (v : W32) (p : DrainRegs h a) : Drained h s (s.setReg a v) :=
  ⟨(frame_setReg s a v p).mem_frame, .refl _⟩

theorem drained_setHand (s : State) (h : Nat) (d : Hand) (p : (s.hand h).RingOnly d) : Drained h s (s.setHand h d) :=
  ⟨(frame_setHand (H := (· = h)) s h d rfl).mem_frame, by simpa using p⟩

theorem drained_setRing (s : State) {h : Nat} (lt : h < 640) (l : List (BitVec 256)) : Drained h s (s.setRing h l) := by
  unfold State.setRing
  rw [if_pos lt]
  exact drained_setHand s h { s.hand h with ring := l } rfl

theorem drained_loseTrace (s : State) {h : Nat} (lt : h < 640) (n : Nat) : Drained h s (s.loseTrace h n) := by
  unfold State.loseTrace
  rw [if_pos lt]
  exact (drained_setHand s h { s.hand h with lostNew := (s.hand h).lostNew + n } rfl).trans (drained_setReg _ _ (.inl rfl))

theorem drained_loseDrain (s : State) {h : Nat} (lt : h < 640) (out : List (BitVec 256)) :
    Drained h s (s.loseDrain h out) := by
  unfold State.loseDrain
  split
  · exact drained_loseTrace s lt _
  · dsimp only
    rw [if_pos lt]
    exact (drained_setRing s lt _).trans (drained_setReg _ _ (.inl rfl))

theorem drained_drainWrite (s : State) {h : Nat} (lt : h < 640) : Drained h s (s.drainWrite h) := by
  have taken := drained_setRing s lt ((s.ringOf h).drop 32)
  unfold State.drainWrite
  dsimp only
  rw [if_pos lt]
  split_ifs
  · exact (taken.trans (drained_setReg _ _ (.inr rfl))).trans (drained_loseTrace _ lt _)
  · split
    · exact taken.trans (drained_loseDrain _ lt _)
    · next w1 =>
      have written := taken.trans (drained_vwrite w1)
      split
      · exact written
      · next w2 => exact written.trans (drained_vwrite w2)

theorem drained_drainAll (n : Nat) (s : State) {h : Nat} (lt : h < 640) : Drained h s (State.drainAll n s h) := by
  induction n generalizing s with
  | zero => exact .refl h s
  | succ n ih =>
    unfold State.drainAll
    split_ifs
    · exact .refl h s
    · exact (drained_drainWrite s lt).trans (ih _)

theorem drained_flushRing (s : State) {h : Nat} (lt : h < 640) : Drained h s (s.flushRing h) := drained_drainAll 80 s lt

/-- No event counter is among the registers that an access to HBM changes. -/
theorem granReg_evc (h c : Nat) (hc : c < 64) : ¬ GranReg (Reg.evc h c) := by
  rintro ⟨i, e | ⟨n, hn, e⟩⟩
  · simp only [Reg.evc, Reg.pfUsed, Reg.pfOnTime, Reg.pfLate, handBase, suitBase, List.mem_cons, List.not_mem_nil, or_false] at e
    omega
  · simp only [Reg.evc, Reg.hbmPc, handBase, suitBase] at e
    omega

theorem Drained.evc {h c : Nat} (a : Drained h s t) (hc : c < 64) : t.evc h c = s.evc h c := by
  refine a.frame.reg _ ?_ (granReg_evc h c hc)
  unfold DrainRegs Reg.evc Reg.handLost Reg.handObsStat
  omega

/-! ## A sequencer's record begins and commits (R77, R81) -/

/-- Registers that the begin and the commit of a sequencer's record may write. -/
def CommitRegs (h a : Nat) : Prop := (∃ c < 64, a = Reg.evc h c) ∨ a = Reg.handLost h

theorem CommitRegs.seqRegs {h a : Nat} : CommitRegs h a → SeqRegs h a
  | .inl e => .inl e
  | .inr e => .inr (.inr (.inr (.inr e)))

/-- The fetch address is not among them, and no loop register. -/
theorem not_commitRegs {h a : Nat} (e : a = Reg.seqFetch h ∨ a = Reg.seqFetch h + 4 ∨ ∃ n < 4, a = Reg.loopReg h n) :
    ¬ CommitRegs h a := by
  unfold CommitRegs Reg.evc Reg.handLost
  unfold Reg.seqFetch Reg.loopReg at e
  rintro (⟨c, hc, x⟩ | x) <;> rcases e with e | e | ⟨n, hn, e⟩ <;> omega

/-- What a record's begin leaves of its hand: counters and stream. -/
structure SeqKeeps (R : Nat → Prop) (h : Nat) (s t : State) : Prop where
  evc : ∀ c < 64, t.evc h c = s.evc h c
  buf : (t.hand h).buf = (s.hand h).buf
  detour : (t.hand h).detour = (s.hand h).detour
  frame : Frame R (· = h) Nothing Nothing s t
  quiet : Quiet s t

/-- A record has committed: its increments are applied, and it has left the front of the stream, where the hand is in no
detour. -/
structure SeqCommits (R : Nat → Prop) (h : Nat) (r : BitVec 512) (s t : State) : Prop where
  evc : ∀ c < 64, t.evc h c = s.evc h c + incsOf r c
  buf : (s.hand h).detour = none → (t.hand h).buf = (s.hand h).buf.drop 1
  detour : (s.hand h).detour = none → (t.hand h).detour = none
  frame : Frame R (· = h) Nothing Nothing s t
  quiet : Quiet s t

theorem evc_ne_handLost {h c : Nat} (hc : c < 64) : Reg.evc h c ≠ Reg.handLost h := by
  unfold Reg.evc Reg.handLost
  omega

theorem seqKeeps_seqBegin (s : State) (h : Nat) (r : BitVec 512) : SeqKeeps (CommitRegs h) h s (s.seqBegin h r) := by
  unfold State.seqBegin
  split_ifs
  · exact ⟨fun _ _ => rfl, rfl, rfl, .refl s, .refl s⟩
  · have ring := (traced_traceBegin (s.setHand h { s.hand h with seqBegun := true }) 9 h r 0).hand h
    rw [State.hand_setHand, if_pos rfl] at ring
    have traced : ∀ {R : Nat → Prop}, R (Reg.handLost h) → Frame R (· = h) Nothing Nothing s
        ((s.setHand h { s.hand h with seqBegun := true }).traceBegin 9 h r 0) := fun p =>
      (frame_setHand (H := (· = h)) s h _ rfl).trans
        (frame_traceBegin _ 9 h r 0 (fun _ => rfl) (fun _ => p) (fun e => absurd e (by decide)))
    exact ⟨fun c hc => (traced (R := (· = Reg.handLost h)) rfl).reg _ (evc_ne_handLost hc), ring.buf, ring.detour,
      traced (.inr rfl), (traced_traceBegin (s.setHand h { s.hand h with seqBegun := true }) 9 h r 0).quiet⟩

/-- The front record is popped from the stream of a hand that is in no detour. -/
theorem hand_popRecord_stream (s : State) (h : Nat) (e : (s.hand h).detour = none) :
    (s.popRecord h).hand h = { s.hand h with buf := (s.hand h).buf.drop 1, seqBegun := false } := by
  simp [State.popRecord, e]

theorem popRecord_eq (s : State) (h : Nat) : ∃ d, s.popRecord h = s.setHand h d := by
  unfold State.popRecord
  dsimp only
  split
  · exact ⟨_, rfl⟩
  · exact ⟨_, rfl⟩

theorem frame_popRecord (s : State) (h : Nat) : Frame R (· = h) Nothing Nothing s (s.popRecord h) := by
  obtain ⟨d, e⟩ := popRecord_eq s h
  rw [e]
  exact frame_setHand s h d rfl

theorem quiet_popRecord (s : State) (h : Nat) : Quiet s (s.popRecord h) := by
  obtain ⟨d, e⟩ := popRecord_eq s h
  rw [e]
  exact ⟨rfl, rfl, rfl⟩

/-- The END record, the pop and the time of the commit: what a commit does after the increments. -/
theorem frame_seqCommit_applyIncs (s : State) {h : Nat} (r : BitVec 512) (p : R (Reg.handLost h)) :
    Frame R (· = h) Nothing Nothing (s.applyIncs h r) (s.seqCommit h r) :=
  have ended := frame_traceEnd (R := R) (H := (· = h)) (C := Nothing) (M := Nothing) (s.applyIncs h r) 9 h r 0 0 0
    (fun _ => rfl) (fun _ => p) (fun e => absurd e (by decide))
  (ended.trans (frame_popRecord _ h)).trans (frame_setHand _ h _ rfl)

theorem hand_seqCommit_stream (s : State) (h : Nat) (r : BitVec 512) (e : (s.hand h).detour = none) :
    ((s.seqCommit h r).hand h).buf = (s.hand h).buf.drop 1 ∧ ((s.seqCommit h r).hand h).detour = none := by
  have ring := (traced_traceEnd (s.applyIncs h r) 9 h r 0 0 0).hand h
  simp only [State.applyIncs, State.hand_inc1] at ring
  simp only [State.seqCommit, State.applyIncs, State.hand_setHand, if_true]
  rw [hand_popRecord_stream _ h (ring.detour.trans e), ring.buf, ring.detour]
  exact ⟨rfl, e⟩

theorem seqCommits_seqCommit (s : State) (h : Nat) (r : BitVec 512) : SeqCommits (CommitRegs h) h r s (s.seqCommit h r) where
  evc c hc :=
    ((frame_seqCommit_applyIncs (R := (· = Reg.handLost h)) s r rfl).reg _ (evc_ne_handLost hc)).trans
      (s.evc_applyIncs h r c)
  buf e := (hand_seqCommit_stream s h r e).1
  detour e := (hand_seqCommit_stream s h r e).2
  frame := (frame_applyIncs s h r fun c hc => .inl ⟨c, hc, rfl⟩).trans (frame_seqCommit_applyIncs s r (.inr rfl))
  quiet := ((quiet_applyIncs s h r).trans (traced_traceEnd _ 9 h r 0 0 0).quiet).trans (quiet_popRecord _ h)

/-- The record that has begun commits. -/
theorem SeqKeeps.commits {h : Nat} {r : BitVec 512} (a : SeqKeeps R h s b) (c : SeqCommits R h r b t) : SeqCommits R h r s t where
  evc n hn := by rw [c.evc n hn, a.evc n hn]
  buf e := by rw [c.buf (a.detour.trans e), a.buf]
  detour e := c.detour (a.detour.trans e)
  frame := a.frame.trans c.frame
  quiet := a.quiet.trans c.quiet

theorem SeqCommits.mono {R' : Nat → Prop} {h : Nat} {r : BitVec 512} (a : SeqCommits R h r s t) (m : ∀ x, R x → R' x) :
    SeqCommits R' h r s t :=
  { a with frame := a.frame.mono m (fun _ => id) (fun _ => id) (fun _ => id) }

/-- A commit leaves the fetch address as it was. -/
theorem SeqCommits.fetch {h : Nat} {r : BitVec 512} (a : SeqCommits R h r s t) (n : ¬ R (Reg.seqFetch h))
    (n' : ¬ R (Reg.seqFetch h + 4)) : t.reg64 (Reg.seqFetch h) = s.reg64 (Reg.seqFetch h) :=
  State.reg64_congr _ (a.frame.reg _ n) (a.frame.reg _ n')

/-- NOP, and what JUMP and END do first: the record begins and commits. -/
theorem seqCommits_record (s : State) (h : Nat) (r : BitVec 512) :
    SeqCommits (CommitRegs h) h r s ((s.seqBegin h r).seqCommit h r) :=
  (seqKeeps_seqBegin s h r).commits (seqCommits_seqCommit _ h r)

/-! ## Fetching goes on at TARGET (R81) -/

@[simp] theorem hand_redirect (s : State) (h target : Nat) :
    (s.redirect h target).hand h = { s.hand h with buf := [] } := by
  simp [State.redirect, State.setReg64]

theorem reg64_redirect (s : State) (h target : Nat) (lt : target < 2 ^ 64) :
    (s.redirect h target).reg64 (Reg.seqFetch h) = target := by
  rw [State.redirect, State.reg64_setReg64, Nat.mod_eq_of_lt lt]

theorem frame_redirect (s : State) (h target : Nat) (p : R (Reg.seqFetch h)) (p' : R (Reg.seqFetch h + 4)) :
    Frame R (· = h) Nothing Nothing s (s.redirect h target) :=
  (frame_setHand (H := (· = h)) s h _ rfl).trans (frame_setReg64 _ _ _ p p')

theorem reg_redirect_other (s : State) {h target a : Nat} (n : a ≠ Reg.seqFetch h) (n' : a ≠ Reg.seqFetch h + 4) :
    (s.redirect h target).reg a = s.reg a :=
  (frame_redirect (R := fun x => x = Reg.seqFetch h ∨ x = Reg.seqFetch h + 4) s h target (.inl rfl) (.inr rfl)).reg a
    (not_or.2 ⟨n, n'⟩)

/-- TARGET has 48 bits (R81). -/
theorem target_lt (r : BitVec 512) : Record.target r < 2 ^ 64 := (bits_lt _ _ _).trans (by decide)

/-- A record that has committed redirects its stream. -/
theorem SeqCommits.redirect {h : Nat} {r : BitVec 512} (a : SeqCommits R h r s t) (m : ∀ x, R x → SeqRegs h x) :
    let u := t.redirect h (Record.target r)
    (∀ c < 64, u.evc h c = s.evc h c + incsOf r c) ∧ (u.hand h).buf = [] ∧ u.reg64 (Reg.seqFetch h) = Record.target r ∧
      Frame (SeqRegs h) (· = h) Nothing Nothing s u ∧ Quiet s u := by
  have evc : ∀ c, (t.redirect h (Record.target r)).evc h c = t.evc h c := fun c =>
    reg_redirect_other t (by unfold Reg.evc Reg.seqFetch; omega) (by unfold Reg.evc Reg.seqFetch; omega)
  refine ⟨fun c hc => (evc c).trans (a.evc c hc), by rw [hand_redirect], reg64_redirect t h _ (target_lt r), ?_,
    a.quiet.trans ⟨rfl, rfl, rfl⟩⟩
  exact (a.mono m).frame.trans (frame_redirect t h _ (.inr (.inr (.inl rfl))) (.inr (.inr (.inr (.inl rfl)))))

/-! ## The count of a LOOP (R82) -/

/-- The registers that a LOOP with loop register n may write before it redirects the stream. -/
def LoopRegs (h n a : Nat) : Prop := CommitRegs h a ∨ a = Reg.loopReg h n

theorem LoopRegs.seqRegs {h n a : Nat} (hn : n < 4) : LoopRegs h n a → SeqRegs h a
  | .inl e => e.seqRegs
  | .inr e => .inr (.inl ⟨n, hn, e⟩)

theorem not_loopRegs {h n a : Nat} (hn : n < 4) (e : a = Reg.seqFetch h ∨ a = Reg.seqFetch h + 4) : ¬ LoopRegs h n a := by
  rintro (x | x)
  · exact not_commitRegs (e.imp_right .inl) x
  · unfold Reg.seqFetch Reg.loopReg at *
    omega

/-- A loop register written before the commit. -/
theorem SeqKeeps.setLoop {h n : Nat} (a : SeqKeeps (CommitRegs h) h s t) (hn : n < 4) (v : W32) :
    SeqKeeps (LoopRegs h n) h s (t.setReg (Reg.loopReg h n) v) where
  evc c hc := by
    have e : Reg.evc h c ≠ Reg.loopReg h n := by unfold Reg.evc Reg.loopReg; omega
    rw [← a.evc c hc]
    exact (State.reg_setReg t _ _ v).trans (if_neg e)
  buf := a.buf
  detour := a.detour
  frame := (a.frame.mono (fun _ => .inl) (fun _ => id) (fun _ => id) (fun _ => id)).trans (frame_setReg t _ v (.inr rfl))
  quiet := a.quiet.trans ⟨rfl, rfl, rfl⟩

/-- The LOOP's record once it has committed: `v` stands in loop register n, and the stream has not been redirected yet. -/
def Machine.State.loopCommit (s : State) (h n : Nat) (r : BitVec 512) (v : W32) : State :=
  ((s.seqBegin h r).setReg (Reg.loopReg h n) v).seqCommit h r

theorem seqCommits_loopCommit (s : State) {h n : Nat} (hn : n < 4) (r : BitVec 512) (v : W32) :
    SeqCommits (LoopRegs h n) h r s (s.loopCommit h n r v) :=
  ((seqKeeps_seqBegin s h r).setLoop hn v).commits ((seqCommits_seqCommit _ h r).mono fun _ => .inl)

theorem reg_loopCommit (s : State) {h n : Nat} (hn : n < 4) (r : BitVec 512) (v : W32) :
    (s.loopCommit h n r v).reg (Reg.loopReg h n) = v := by
  unfold State.loopCommit
  rw [(seqCommits_seqCommit _ h r).frame.reg _ (not_commitRegs (.inr (.inr ⟨n, hn, rfl⟩))), State.reg_setReg, if_pos rfl]

section

/-! ## What the four rows of a sequencer answer (R81) -/

variable {h : HandIx} {va : Nat} {r : BitVec 512}

theorem exec_seqNop (e : s.seqReady h.val 0 = some (va, r)) :
    exec (.seqNop h) s = .next ((s.seqBegin h.val r).seqCommit h.val r) := by
  show execSeqNop h s = _
  simp only [execSeqNop, e]

theorem exec_seqJump (e : s.seqReady h.val 1 = some (va, r)) :
    exec (.seqJump h) s = .next (((s.seqBegin h.val r).seqCommit h.val r).redirect h.val (Record.target r)) := by
  show execSeqJump h s = _
  simp only [execSeqJump, e]

theorem exec_seqLoop (e : s.seqReady h.val 2 = some (va, r)) :
    exec (.seqLoop h) s = .next (
      let n := Record.argBits r 30 2
      let c := loopStep (s.field (Reg.loopReg h.val n) 0 28) (Record.argBits r 0 28)
      let t := s.loopCommit h.val n r (BitVec.ofNat 32 c)
      if c = 0 then t else t.redirect h.val (Record.target r)) := by
  show execSeqLoop h s = _
  simp only [execSeqLoop, e, State.loopCommit]

theorem exec_seqEnd (e : s.seqReady h.val 7 = some (va, r)) :
    exec (.seqEnd h) s = .next (
      let t := (s.seqBegin h.val r).seqCommit h.val r
      (t.setHand h.val { t.hand h.val with ended := true, buf := [] }).flushRing h.val) := by
  show execSeqEnd h s = _
  simp only [execSeqEnd, e]

theorem seqNop_commits (e : s.seqReady h.val 0 = some (va, r)) : Does (.seqNop h) s fun t =>
    (∀ c < 64, t.evc h.val c = s.evc h.val c + incsOf r c) ∧
    ((s.hand h.val).detour = none → (t.hand h.val).buf = (s.hand h.val).buf.drop 1) ∧
    t.reg64 (Reg.seqFetch h.val) = s.reg64 (Reg.seqFetch h.val) ∧
    Frame (SeqRegs h.val) (· = h.val) Nothing Nothing s t ∧ Quiet s t :=
  have c := seqCommits_record s h.val r
  ⟨_, exec_seqNop e, c.evc, c.buf, c.fetch (not_commitRegs (.inl rfl)) (not_commitRegs (.inr (.inl rfl))),
    (c.mono fun _ => CommitRegs.seqRegs).frame, c.quiet⟩

theorem seqJump_commits (e : s.seqReady h.val 1 = some (va, r)) : Does (.seqJump h) s fun t =>
    (∀ c < 64, t.evc h.val c = s.evc h.val c + incsOf r c) ∧
    (t.hand h.val).buf = [] ∧ t.reg64 (Reg.seqFetch h.val) = Record.target r ∧
    Frame (SeqRegs h.val) (· = h.val) Nothing Nothing s t ∧ Quiet s t :=
  ⟨_, exec_seqJump e, (seqCommits_record s h.val r).redirect fun _ => CommitRegs.seqRegs⟩

theorem seqLoop_commits (e : s.seqReady h.val 2 = some (va, r)) : Does (.seqLoop h) s fun t =>
    let a := Reg.loopReg h.val (Record.argBits r 30 2)
    let left := loopStep (s.field a 0 28) (Record.argBits r 0 28)
    (∀ c < 64, t.evc h.val c = s.evc h.val c + incsOf r c) ∧ t.reg a = BitVec.ofNat 32 left ∧
    (left = 0 → t.reg64 (Reg.seqFetch h.val) = s.reg64 (Reg.seqFetch h.val) ∧
      ((s.hand h.val).detour = none → (t.hand h.val).buf = (s.hand h.val).buf.drop 1)) ∧
    (left ≠ 0 → t.reg64 (Reg.seqFetch h.val) = Record.target r ∧ (t.hand h.val).buf = []) ∧
    Frame (SeqRegs h.val) (· = h.val) Nothing Nothing s t ∧ Quiet s t := by
  refine ⟨_, exec_seqLoop e, ?_⟩
  have hn : Record.argBits r 30 2 < 4 := bits_lt _ _ _
  dsimp only
  generalize Record.argBits r 30 2 = n at hn
  generalize loopStep _ _ = left
  have c := seqCommits_loopCommit s (h := h.val) hn r (BitVec.ofNat 32 left)
  have count := reg_loopCommit s (h := h.val) hn r (BitVec.ofNat 32 left)
  split_ifs with last
  · exact ⟨c.evc, count, fun _ => ⟨c.fetch (not_loopRegs hn (.inl rfl)) (not_loopRegs hn (.inr rfl)), c.buf⟩,
      fun more => absurd last more, (c.mono fun _ => LoopRegs.seqRegs hn).frame, c.quiet⟩
  · obtain ⟨evc, buf, fetch, frame, quiet⟩ := c.redirect fun _ => LoopRegs.seqRegs hn
    refine ⟨evc, ?_, fun done => absurd done last, fun _ => ⟨fetch, buf⟩, frame, quiet⟩
    rw [reg_redirect_other _ (by unfold Reg.loopReg Reg.seqFetch; omega) (by unfold Reg.loopReg Reg.seqFetch; omega), count]

/-- A hand that has ended its stream, in no detour, fetches no more. -/
theorem canFetch_of_ended (s : State) (h : Nat) (d : (s.hand h).detour = none) (e : (s.hand h).ended = true) :
    s.canFetch h = false := by
  simp [State.canFetch, d, e]

theorem seqEnd_commits (e : s.seqReady h.val 7 = some (va, r)) : Does (.seqEnd h) s fun t =>
    (∀ c < 64, t.evc h.val c = s.evc h.val c + incsOf r c) ∧ (t.hand h.val).ended = true ∧ (t.hand h.val).buf = [] ∧
    ((s.hand h.val).detour = none → t.canFetch h.val = false) := by
  refine ⟨_, exec_seqEnd e, ?_⟩
  have c := seqCommits_record s h.val r
  have flushed := drained_flushRing (((s.seqBegin h.val r).seqCommit h.val r).setHand h.val
    { ((s.seqBegin h.val r).seqCommit h.val r).hand h.val with ended := true, buf := [] }) h.isLt
  have ring := flushed.ring
  rw [State.hand_setHand, if_pos rfl] at ring
  exact ⟨fun n hn => (flushed.evc hn).trans (c.evc n hn), ring.ended, ring.buf,
    fun d => canFetch_of_ended _ _ (ring.detour.trans (c.detour d)) ring.ended⟩

/-! ## The LOOP of a Mill (R82, R263) -/

/-- A Mill that a record is at the front of, ready to go on, is not stopped. -/
theorem halted_of_millHead {m op : Nat} (e : s.millHead m op = .ready va r) : (s.mill m).halted = false := by
  unfold State.millHead at e
  dsimp only at e
  split at e
  · cases e
  · split_ifs at e with runs
    simp only [State.millRuns, Bool.not_eq_true', Bool.not_eq_false, Bool.and_eq_true] at runs
    exact runs.1.1

/-- A row whose record completes at once: what it does to the state in which the record has begun, and the commit. -/
theorem millRow_of_ready {m op : Nat} {f : State → Nat → BitVec 512 → Option State} (e : s.millHead m op = .ready va r)
    (d : f (s.traceBegin 8 m r 0) va r = some t) (n : (t.mill m).halted = false) :
    s.millRow m op f = t.millCommit m r := by
  simp [State.millRow, e, d, n]

/-- A Mill's record commits: it leaves the front of the fetch buffer, and the rest of the stream is as it was. -/
theorem mill_millCommit (s : State) (m : Nat) (r : BitVec 512) :
    ((s.millCommit m r).mill m).buf = (s.mill m).buf.drop 1 ∧ ((s.millCommit m r).mill m).fetch = (s.mill m).fetch ∧
      ((s.millCommit m r).mill m).loops = (s.mill m).loops := by
  have ring := (traced_traceEnd (s.millIncs m r) 8 m r 0 0 0).mill m
  simp only [State.millIncs, State.mill_inc1] at ring
  simp only [State.millCommit, State.millPop, State.millIncs, State.mill_setMill, if_true]
  exact ⟨by rw [ring.buf], ring.fetch, ring.loops⟩

/-- A Mill's LOOP between its begin and its commit: its count, and the redirect while the count has not reached zero. -/
def Machine.State.millLoopStep (s : State) (m : Nat) (r : BitVec 512) : State :=
  let n := Record.argBits r 30 2
  let c := loopStep (PMap.get 0 (s.mill m).loops n) (Record.argBits r 0 28)
  let s1 := s.setMill m { s.mill m with loops := PMap.put (s.mill m).loops n c }
  if c = 0 then s1 else s1.millRedirect m (Record.target r)

theorem exec_millLoop (m : MillIx) (s : State) :
    exec (.millLoop m) s = .next (s.millRow m.val 8 fun s _ r => some (s.millLoopStep m.val r)) := rfl

theorem mill_millLoopStep (s : State) (m : Nat) (r : BitVec 512) :
    (s.millLoopStep m r).mill m =
      (let n := Record.argBits r 30 2
       let c := loopStep (PMap.get 0 (s.mill m).loops n) (Record.argBits r 0 28)
       let d := { s.mill m with loops := PMap.put (s.mill m).loops n c }
       if c = 0 then d else { d with buf := d.buf.take 1, fetch := Record.target r }) := by
  unfold State.millLoopStep State.millRedirect
  dsimp only
  split_ifs
  · exact (s.mill_setMill m m _).trans (if_pos rfl)
  · simp only [State.mill_setMill, if_true]

theorem millLoop_commits {m : MillIx} (e : s.millHead m.val 8 = .ready va r) : Does (.millLoop m) s fun t =>
    let n := Record.argBits r 30 2
    let left := loopStep (PMap.get 0 (s.mill m.val).loops n) (Record.argBits r 0 28)
    PMap.get 0 (t.mill m.val).loops n = left ∧ (left ≠ 0 → (t.mill m.val).buf = [] ∧ (t.mill m.val).fetch = Record.target r) ∧
    (left = 0 → (t.mill m.val).buf = (s.mill m.val).buf.drop 1 ∧ (t.mill m.val).fetch = (s.mill m.val).fetch) := by
  have begun := (traced_traceBegin s 8 m.val r 0).mill m.val
  have stepped := mill_millLoopStep (s.traceBegin 8 m.val r 0) m.val r
  dsimp only at stepped
  rw [begun.loops] at stepped
  have runs : (((s.traceBegin 8 m.val r 0).millLoopStep m.val r).mill m.val).halted = false := by
    rw [stepped, apply_ite Mill.halted, ite_self, begun.halted, halted_of_millHead e]
  refine ⟨_, (exec_millLoop m s).trans (congrArg _ (millRow_of_ready e rfl runs)), ?_⟩
  obtain ⟨buf, fetch, loops⟩ := mill_millCommit ((s.traceBegin 8 m.val r 0).millLoopStep m.val r) m.val r
  rw [buf, fetch, loops, stepped]
  dsimp only
  generalize loopStep _ _ = left
  split_ifs with last
  · exact ⟨PMap.get_put_same _ _ _ _, fun more => absurd last more, fun _ => ⟨by rw [begun.buf], begun.fetch⟩⟩
  · exact ⟨PMap.get_put_same _ _ _ _, fun _ => ⟨by simp, rfl⟩, fun done => absurd done last⟩

end

/-- Settles O1: each row's record commits with its increments, and what it does to the stream follows. -/
theorem seqControlCommits : Obligations.SeqControlCommits :=
  ⟨fun _ _ _ _ e => millLoop_commits e,
    fun _ _ _ _ => ⟨seqNop_commits, seqJump_commits, seqLoop_commits, seqEnd_commits⟩⟩

end Sys2Proof
end

section
/-! PROOFS. Registers whose rows have effects of their own, and the configuration scans (R33, R360, R526, R537 to R545, R549,
R550, R554, R562, R568, R613, R614), on top of where those registers lie, of keys removed from a map of registers and of
queues replaced. -/

namespace Sys2Proof

open Machine

variable {R H C M : Nat → Prop} {s t u : State}

/-! ## Fields and flags -/

theorem Machine.State.field_congr {a : Nat} (e : t.reg a = s.reg a) (lo w : Nat) : t.field a lo w = s.field a lo w := by
  simp only [State.field, e]

theorem Machine.State.flag_congr {a : Nat} (e : t.reg a = s.reg a) (i : Nat) : t.flag a i = s.flag a i := by
  simp only [State.flag, State.field_congr e]

theorem Machine.State.reg_setReg_other (s : State) {a b : Nat} (v : W32) (n : b ≠ a) : (s.setReg a v).reg b = s.reg b := by
  rw [State.reg_setReg, if_neg n]

/-- A flag of a register keeps its value where another field of the register is written. -/
theorem Machine.State.flag_setField_other (s : State) (a lo w v : Nat) {i : Nat} (h : lo + w ≤ 32) (d : i < lo ∨ lo + w ≤ i) :
    (s.setField a lo w v).flag a i = s.flag a i := by
  unfold State.flag
  rw [State.field_setField_other s a lo w v i 1 h (by omega)]

/-- CFG.STAT of a valid block with no pending word, no grace period and no drift: 8 in its four top bits (R544). -/
theorem valid_alone_iff (x : Nat) : (bit x 31 && !bit x 30 && !bit x 29 && !bit x 28) = true ↔ bits x 28 4 = 8 := by
  simp only [bit, bits, Nat.shiftRight_eq_div_pow, Bool.and_eq_true, Bool.not_eq_true', beq_iff_eq, beq_eq_false_iff_ne]
  omega

/-- A 32-bit word that a register read answers. -/
theorem setWidth_ofNat_word {v : Nat} (h : v < 2 ^ 32) : (BitVec.ofNat 32 v).setWidth 64 = BitVec.ofNat 64 v :=
  BitVec.setWidth_ofNat_of_le_of_lt (by decide) h

/-! ## Commands that are quiet, and frames over lists -/

theorem quiet_setReg (s : State) (a : Nat) (v : W32) : Quiet s (s.setReg a v) := ⟨rfl, rfl, rfl⟩

/-- An answer changes nothing else. -/
theorem frame_rsp (s : State) (r : Rsp) : Frame R H C M s { s with rsp := r } :=
  ⟨rfl, rfl, rfl, fun _ _ => rfl, fun _ _ => rfl, fun _ _ => rfl, fun _ _ => rfl, by simp⟩

/-- A frame that each of a list's steps keeps, the whole list keeps. -/
theorem frame_foldl {α : Type} (f : State → α → State) (l : List α) (h : ∀ x ∈ l, ∀ s, Frame R H C M s (f s x)) (s : State) :
    Frame R H C M s (l.foldl f s) := by
  induction l generalizing s with
  | nil => exact Frame.refl s
  | cons x l ih => exact (h x (by simp) s).trans (ih (fun y m => h y (by simp [m])) _)

/-! ## Reads of status registers (R554) -/

theorem exec_statusRead (addr : Nat) (s : State) : exec (.statusRead addr) s = .next (
    let s1 := { s with rsp := .word ((s.readReg addr).setWidth 64) }
    if addr = Reg.bootStat then { s1 with recov := { s1.recov with irq7 := false } }
    else if addr = Reg.mgmtStat then { s1 with recov := { s1.recov with irq8 := false } }
    else if addr = Reg.secStat then { s1 with recov := { s1.recov with irq11 := false } }
    else s) := rfl

theorem statusRead_answers (s : State) :
    ∀ x ∈ ([(Reg.bootStat, { s.recov with irq7 := false }), (Reg.mgmtStat, { s.recov with irq8 := false }),
      (Reg.secStat, { s.recov with irq11 := false })] : List (Nat × Rec)), Does (.statusRead x.1) s fun t =>
        t = { s with rsp := .word ((s.readReg x.1).setWidth 64), recov := x.2 } := by
  have mgmt : Reg.mgmtStat ≠ Reg.bootStat := by decide
  have sec : Reg.secStat ≠ Reg.bootStat ∧ Reg.secStat ≠ Reg.mgmtStat := by decide
  simp only [List.forall_mem_cons, List.not_mem_nil, false_imp_iff, implies_true, and_true, Does, exec_statusRead,
    Host.Outcome.next.injEq, exists_eq_left', if_true, mgmt, sec, if_false]

theorem statusRead_other (s : State) {addr : Nat} (boot : addr ≠ Reg.bootStat) (mgmt : addr ≠ Reg.mgmtStat)
    (sec : addr ≠ Reg.secStat) : Does (.statusRead addr) s fun t => t = s :=
  ⟨s, by rw [exec_statusRead, if_neg boot, if_neg mgmt, if_neg sec], rfl⟩

/-! ## A write of CFG.REF (R542) -/

theorem exec_cfgRefWrite {addr : Nat} (v : W32) (ok : regAccessOk addr 4 = true) (ref : isCfgRef (canon addr) = true)
    (lit : s.darkAt (canon addr) = false) : exec (.cfgRefWrite addr v) s = .next (s.writeCfgRef (canon addr) v) := by
  show execCfgRefWrite addr v s = _
  simp [execCfgRefWrite, ok, ref, lit]

/-- CFG.STAT stands 8 bytes below CFG.REF. -/
theorem le_of_isCfgRef {a : Nat} (ref : isCfgRef a = true) : 8 ≤ a := by
  unfold isCfgRef at ref
  rw [Bool.and_eq_true, decide_eq_true_eq] at ref
  exact ref.1

theorem writeCfgRef_reads (s : State) {a : Nat} (v : W32) (below : 8 ≤ a) :
    (s.writeCfgRef a v).reg a = v ∧ (s.writeCfgRef a v).flag (a - 8) 31 = true ∧ (s.writeCfgRef a v).flag (a - 8) 28 = false := by
  have apart : a ≠ a - 8 := by omega
  unfold State.writeCfgRef
  refine ⟨?_, ?_, State.flag_clearBit _ _ 28 (by decide)⟩
  · rw [State.clearBit, State.reg_setField_other _ _ _ _ _ _ apart, State.setBit, State.reg_setField_other _ _ _ _ _ _ apart,
      State.reg_setReg, if_pos rfl]
  · rw [State.clearBit, State.flag_setField_other _ _ _ _ _ (by decide) (by decide)]
    exact State.flag_setBit _ _ 31 (by decide)

theorem frame_writeCfgRef (s : State) (a : Nat) (v : W32) :
    Frame (fun b => b = a ∨ b = a - 8) H C M s (s.writeCfgRef a v) :=
  ((frame_setReg s a v (.inl rfl)).trans (frame_setBit _ _ 31 (.inr rfl))).trans (frame_clearBit _ _ 28 (.inr rfl))

theorem cfgRefWrite_commits {addr : Nat} (v : W32) (ok : regAccessOk addr 4 = true) (ref : isCfgRef (canon addr) = true)
    (lit : s.darkAt (canon addr) = false) : Does (.cfgRefWrite addr v) s fun t =>
      t.reg (canon addr) = v ∧ t.flag (canon addr - 8) 31 = true ∧ t.flag (canon addr - 8) 28 = false ∧
        Frame (fun a => a = canon addr ∨ a = canon addr - 8) Nothing Nothing Nothing s t ∧ Quiet s t := by
  obtain ⟨val, valid, drift⟩ := writeCfgRef_reads s v (le_of_isCfgRef ref)
  exact ⟨_, exec_cfgRefWrite v ok ref lit, val, valid, drift, frame_writeCfgRef s _ v, rfl, rfl, rfl⟩

/-! ## Where registers of hands and cores lie (R532, R535, R536) -/

/-- An address of a hand's part of the register space: suit, hand and offset as `canon` and `locate` take it apart. -/
theorem handBase_parts (h : HandIx) {q : Nat} (lt : q < 0x40000) :
    ¬ handBase h.val + q < 0x10000000 ∧ ¬ 0x30000000 ≤ handBase h.val + q ∧
      (handBase h.val + q - 0x10000000) / 0x08000000 = h.val / 160 ∧
      ∃ x, (handBase h.val + q - 0x10000000) % 0x08000000 = x ∧ ¬ x < 0x01000000 ∧ ¬ 0x03800000 ≤ x ∧
        h.val / 160 * 160 + (x - 0x01000000) / 0x40000 = h.val ∧ (x - 0x01000000) % 0x40000 = q := by
  have base : handBase h.val = 0x10000000 + h.val / 160 * 0x08000000 + 0x01000000 + h.val % 160 * 0x40000 := rfl
  have bound := h.isLt
  refine ⟨by omega, by omega, by omega, _, rfl, by omega, by omega, by omega, by omega⟩

theorem locate_handBase_add (h : HandIx) {q : Nat} (lt : q < 0x40000) : locate (handBase h.val + q) =
    if q < 0x10000 then .hand h.val q
    else if q < 0x32000 then .core (h.val * 17 + (q - 0x10000) / 0x2000) ((q - 0x10000) % 0x2000)
    else .none := by
  obtain ⟨above, below, suit, x, off, above', below', hand, word⟩ := handBase_parts h lt
  unfold locate
  dsimp only
  rw [if_neg above, if_neg below, suit, off, if_neg above', if_neg below', hand, word]

theorem locate_handBase (h : HandIx) {q : Nat} (lt : q < 0x10000) : locate (handBase h.val + q) = .hand h.val q := by
  rw [locate_handBase_add h (by omega), if_pos lt]

theorem canon_handBase (h : HandIx) {q : Nat} (lt : q < 0x10000) : canon (handBase h.val + q) = handBase h.val + q := by
  obtain ⟨above, -, -, x, off, -, -, -, word⟩ := handBase_parts h (q := q) (by omega)
  unfold canon
  dsimp only
  rw [if_neg above, off, word, if_pos (.inr (.inr (.inl lt)))]

/-- The hand of a core. -/
def handOfCore (k : CoreIx) : HandIx := ⟨k.val / 17, by omega⟩

theorem coreBase_add (k : CoreIx) (w : Nat) :
    coreBase k.val + w = handBase (handOfCore k).val + (0x10000 + k.val % 17 * 0x2000 + w) :=
  (congrArg (· + w) (Nat.add_assoc (handBase (k.val / 17)) 0x10000 _)).trans (Nat.add_assoc _ _ w)

theorem locate_coreBase (k : CoreIx) {w : Nat} (lt : w < 0x2000) : locate (coreBase k.val + w) = .core k.val w := by
  have core : k.val / 17 * 17 + (0x10000 + k.val % 17 * 0x2000 + w - 0x10000) / 0x2000 = k.val := by omega
  have word : (0x10000 + k.val % 17 * 0x2000 + w - 0x10000) % 0x2000 = w := by omega
  rw [coreBase_add, locate_handBase_add _ (by omega), if_neg (by omega), if_pos (by omega), handOfCore, core, word]

/-- An address of a core's window whose offset is no repeat (R536). -/
theorem canon_coreBase (k : CoreIx) {w : Nat} (lt : w < 0x380) (listed : w % 0x80 < 0x20) :
    canon (coreBase k.val + w) = coreBase k.val + w := by
  have word : (0x10000 + k.val % 17 * 0x2000 + w - 0x10000) % 0x2000 = w := by omega
  have first : w % 0x400 / 0x80 * 0x80 + w % 0x400 % 0x20 = w := by omega
  obtain ⟨above, -, -, x, off, above', below', -, q⟩ :=
    handBase_parts (handOfCore k) (q := 0x10000 + k.val % 17 * 0x2000 + w) (by omega)
  rw [← coreBase_add] at above off
  unfold canon
  dsimp only
  rw [if_neg above, off, q, if_neg (by omega), word, if_neg (by omega), first, Nat.add_sub_cancel]

/-! ## Reads of DBG.DATA (R549, R550) -/

theorem Machine.Memory.read_lt (m : Memory) (a n : Nat) : Memory.read m a n < 256 ^ n := by
  induction n generalizing a with
  | zero => exact Nat.one_pos
  | succ n ih =>
    have low := (Memory.byte m a).isLt
    have high := ih (a + 1)
    simp only [Memory.read]
    rw [pow_succ]
    omega

theorem Machine.Core.dbgWord_lt (c : Core) (sp o : Nat) : c.dbgWord sp o < 2 ^ 32 := by
  unfold Core.dbgWord
  split
  case h_1 =>
    split_ifs
    · exact bits_lt _ _ _
    · exact Memory.read_lt c.scratchTop o 4
  all_goals exact bits_lt _ _ _

theorem Machine.Hand.dbgWord_lt {d : Hand} {sp o v : Nat} (e : d.dbgWord sp o = some v) : v < 2 ^ 32 := by
  unfold Hand.dbgWord at e
  split at e
  case h_4 => cases e
  all_goals exact Option.some.inj e ▸ bits_lt _ _ _

/-- The word that a read of DBG.DATA meets in a core or in its hand, if the manual gives its layout. -/
def Machine.State.dbgWordAt (s : State) (h : Nat) (core : Option Nat) (sp o : Nat) : Option Nat :=
  match core with
  | some k => some ((s.core k).dbgWord sp o)
  | none => (s.hand h).dbgWord sp o

/-- The window is open: OFFSET lies in its space, and the hand is stopped or no deal runs (R550). -/
def Machine.State.dbgOpen (s : State) (ad h : Nat) (core : Option Nat) : Prop :=
  s.field ad 0 18 < dbgSize core.isSome (s.field ad 28 4) ∧ (s.job.run = false ∨ s.handStopped h = true)

section
variable (s : State) (ad h : Nat) (core : Option Nat)

theorem dbgRead_eq : s.dbgRead ad h core =
    (let s1 := s.setField ad 0 18 (s.field ad 0 18 + 4)
     if dbgSize core.isSome (s.field ad 28 4) ≤ s.field ad 0 18 ∨ (s.job.run ∧ !s.handStopped h) then (s1.setBit ad 27, 0)
     else match s.dbgWordAt h core (s.field ad 28 4) (s.field ad 0 18) with
       | some v => (s1, BitVec.ofNat 32 v)
       | none => if (s.hand h).stored then (s1.spend, BitVec.ofNat 32 s.fresh) else (s1, 0)) := by
  cases core <;> rfl

theorem dbgClosed_iff : (dbgSize core.isSome (s.field ad 28 4) ≤ s.field ad 0 18 ∨ (s.job.run ∧ !s.handStopped h)) ↔
    ¬ s.dbgOpen ad h core := by
  unfold State.dbgOpen
  rw [not_and_or, not_lt, not_or, Bool.not_eq_false, Bool.not_eq_true, Bool.not_eq_true']

variable {s ad h core}

theorem dbgRead_closed (e : ¬ s.dbgOpen ad h core) :
    s.dbgRead ad h core = ((s.setField ad 0 18 (s.field ad 0 18 + 4)).setBit ad 27, 0) := by
  rw [dbgRead_eq]
  exact if_pos ((dbgClosed_iff s ad h core).2 e)

theorem dbgRead_word {v : Nat} (e : s.dbgOpen ad h core) (w : s.dbgWordAt h core (s.field ad 28 4) (s.field ad 0 18) = some v) :
    s.dbgRead ad h core = (s.setField ad 0 18 (s.field ad 0 18 + 4), BitVec.ofNat 32 v) := by
  rw [dbgRead_eq]
  dsimp only
  rw [if_neg fun c => (dbgClosed_iff s ad h core).1 c e, w]

theorem dbgRead_unstored (e : s.dbgOpen ad h core) (w : s.dbgWordAt h core (s.field ad 28 4) (s.field ad 0 18) = none) :
    s.dbgRead ad h core = if (s.hand h).stored then
      ((s.setField ad 0 18 (s.field ad 0 18 + 4)).spend, BitVec.ofNat 32 s.fresh)
      else (s.setField ad 0 18 (s.field ad 0 18 + 4), 0) := by
  rw [dbgRead_eq]
  dsimp only
  rw [if_neg fun c => (dbgClosed_iff s ad h core).1 c e, w]

variable (s ad h core)

/-- A read of DBG.DATA moves OFFSET on by 4, sets bit 27 when the window is closed, and may make a free choice. -/
theorem dbgRead_state : (s.dbgRead ad h core).1 = s.setField ad 0 18 (s.field ad 0 18 + 4) ∨
    (s.dbgRead ad h core).1 = (s.setField ad 0 18 (s.field ad 0 18 + 4)).spend ∨
    (s.dbgRead ad h core).1 = (s.setField ad 0 18 (s.field ad 0 18 + 4)).setBit ad 27 := by
  by_cases e : s.dbgOpen ad h core
  · cases w : s.dbgWordAt h core (s.field ad 28 4) (s.field ad 0 18) with
    | some v => exact .inl (by rw [dbgRead_word e w])
    | none =>
      rw [dbgRead_unstored e w]
      split_ifs
      · exact .inr (.inl rfl)
      · exact .inl rfl
  · exact .inr (.inr (by rw [dbgRead_closed e]))

theorem frame_dbgRead : Frame (· = ad) H C M s (s.dbgRead ad h core).1 := by
  have moved : Frame (· = ad) H C M s (s.setField ad 0 18 (s.field ad 0 18 + 4)) := frame_setField s ad _ _ _ rfl
  rcases dbgRead_state s ad h core with e | e | e <;> rw [e]
  · exact moved
  · exact moved.trans (frame_spend _)
  · exact moved.trans (frame_setBit _ _ _ rfl)

theorem offset_dbgRead : (s.dbgRead ad h core).1.field ad 0 18 = (s.field ad 0 18 + 4) % 2 ^ 18 := by
  have moved := s.field_setField ad 0 18 (s.field ad 0 18 + 4) (by decide)
  rcases dbgRead_state s ad h core with e | e | e <;> rw [e]
  · exact moved
  · exact moved
  · rw [State.setBit, State.field_setField_other _ _ _ _ _ _ _ (by decide) (by decide), moved]

end

theorem exec_dbgDataRead {addr : Nat} {x : State × W32} (ok : regAccessOk addr 4 = true) (e : s.dbgDataAt (canon addr) = some x) :
    exec (.dbgDataRead addr) s = .next { x.1 with rsp := .word (x.2.setWidth 64) } := by
  show execDbgDataRead addr s = _
  simp only [execDbgDataRead, ok, e, Bool.not_true, Bool.false_eq_true, if_false]

/-- What a read of DBG.DATA through the register at address `addr` does, where it reads through ADDR at `ad`. -/
theorem dbgDataRead_answers {addr ad h : Nat} {core : Option Nat} (ok : regAccessOk addr 4 = true)
    (e : s.dbgDataAt (canon addr) = some (s.dbgRead ad h core)) : Does (.dbgDataRead addr) s fun t =>
      t.field ad 0 18 = (s.field ad 0 18 + 4) % 2 ^ 18 ∧ t.rsp = .word ((s.dbgRead ad h core).2.setWidth 64) ∧
      (¬ s.dbgOpen ad h core → t.rsp = .word 0 ∧ t.flag ad 27 = true) ∧ Frame (· = ad) Nothing Nothing Nothing s t := by
  have offset := offset_dbgRead s ad h core
  have frame := frame_dbgRead (H := Nothing) (C := Nothing) (M := Nothing) s ad h core
  have closed : ¬ s.dbgOpen ad h core → (s.dbgRead ad h core).2 = 0 ∧ (s.dbgRead ad h core).1.flag ad 27 = true := fun c => by
    rw [dbgRead_closed c]
    exact ⟨rfl, State.flag_setBit _ ad 27 (by decide)⟩
  generalize s.dbgRead ad h core = x at *
  refine ⟨_, exec_dbgDataRead ok e, offset, rfl, fun c => ?_, frame.trans (frame_rsp _ _)⟩
  obtain ⟨zero, err⟩ := closed c
  exact ⟨by rw [zero]; rfl, err⟩

theorem handDbg_data (h : Nat) : Reg.handDbg h + 4 = handBase h + 0x604 := Nat.add_assoc _ 0x600 4

theorem coreDbg_data (k : Nat) : Reg.coreDbg k + 4 = coreBase k + 0x304 := Nat.add_assoc _ 0x300 4

theorem dbgDataAt_of_hand {a h : Nat} (place : locate a = .hand h 0x604) (lit : s.suitDark (h / 160) = false) :
    s.dbgDataAt a = some (s.dbgRead (Reg.handDbg h) h none) := by
  unfold State.dbgDataAt
  rw [place]
  simp [Loc.suitOf, lit]

theorem dbgDataAt_of_core {a k : Nat} (place : locate a = .core k 0x304) (lit : s.suitDark (k / 2720) = false) :
    s.dbgDataAt a = some (s.dbgRead (Reg.coreDbg k) (k / 17) (some k)) := by
  unfold State.dbgDataAt
  rw [place]
  simp [Loc.suitOf, lit]

theorem locate_handDbg_data (h : HandIx) : locate (canon (Reg.handDbg h.val + 4)) = .hand h.val 0x604 := by
  rw [handDbg_data, canon_handBase h (by decide), locate_handBase h (by decide)]

theorem locate_coreDbg_data (k : CoreIx) : locate (canon (Reg.coreDbg k.val + 4)) = .core k.val 0x304 := by
  rw [coreDbg_data, canon_coreBase k (by decide) (by decide), locate_coreBase k (by decide)]

theorem regAccessOk_handBase (h : HandIx) {q : Nat} (lt : q < 0x40000) (word : q % 4 = 0) :
    regAccessOk (handBase h.val + q) 4 = true := by
  obtain ⟨above, below, -, x, off, above', -, -, rest⟩ := handBase_parts h lt
  have aligned : (handBase h.val + q) % 4 = 0 := by omega
  simp only [regAccessOk, aligned, not_le.1 below, beq_self_eq_true, decide_true, Bool.and_self]

theorem regAccessOk_coreBase (k : CoreIx) {w : Nat} (lt : w < 0x2000) (word : w % 4 = 0) :
    regAccessOk (coreBase k.val + w) 4 = true := by
  rw [coreBase_add]
  exact regAccessOk_handBase _ (by omega) (by omega)

theorem regAccessOk_handDbg_data (h : HandIx) : regAccessOk (Reg.handDbg h.val + 4) 4 = true := by
  rw [handDbg_data]
  exact regAccessOk_handBase h (by decide) (by decide)

theorem regAccessOk_coreDbg_data (k : CoreIx) : regAccessOk (Reg.coreDbg k.val + 4) 4 = true := by
  rw [coreDbg_data]
  exact regAccessOk_coreBase k (by decide) (by decide)

theorem dbgDataRead_hand (h : HandIx) (lit : s.suitDark (h.val / 160) = false) :
    let o := s.field (Reg.handDbg h.val) 0 18
    let sp := s.field (Reg.handDbg h.val) 28 4
    let open_ := o < dbgSize false sp ∧ (s.job.run = false ∨ s.handStopped h.val = true)
    Does (.dbgDataRead (Reg.handDbg h.val + 4)) s fun t =>
      (open_ → t.field (Reg.handDbg h.val) 0 18 = (o + 4) % 2 ^ 18 ∧
        (∀ v, (s.hand h.val).dbgWord sp o = some v → t.rsp = .word (BitVec.ofNat 64 v)) ∧
        ((s.hand h.val).dbgWord sp o = none → (s.hand h.val).stored = false → t.rsp = .word 0)) ∧
      (¬ open_ → t.rsp = .word 0 ∧ t.flag (Reg.handDbg h.val) 27 = true) ∧ Frame (· = Reg.handDbg h.val) Nothing Nothing Nothing s t := by
  intro o sp open_
  obtain ⟨t, runs, offset, word, closed, frame⟩ := dbgDataRead_answers
    (regAccessOk_handDbg_data h) (dbgDataAt_of_hand (locate_handDbg_data h) lit)
  refine ⟨t, runs, fun (e : s.dbgOpen (Reg.handDbg h.val) h.val none) => ⟨offset, fun v w => ?_, fun w fresh => ?_⟩, closed, frame⟩
  · rw [word, dbgRead_word e w, setWidth_ofNat_word (Hand.dbgWord_lt w)]
  · rw [word, dbgRead_unstored e w, fresh]
    rfl

theorem dbgDataRead_core (k : CoreIx) (lit : s.suitDark (k.val / 2720) = false) :
    let o := s.field (Reg.coreDbg k.val) 0 18
    let sp := s.field (Reg.coreDbg k.val) 28 4
    let open_ := o < dbgSize true sp ∧ (s.job.run = false ∨ s.handStopped (k.val / 17) = true)
    Does (.dbgDataRead (Reg.coreDbg k.val + 4)) s fun t =>
      (open_ → t.field (Reg.coreDbg k.val) 0 18 = (o + 4) % 2 ^ 18 ∧ t.rsp = .word (BitVec.ofNat 64 ((s.core k.val).dbgWord sp o))) ∧
      (¬ open_ → t.rsp = .word 0 ∧ t.flag (Reg.coreDbg k.val) 27 = true) ∧ Frame (· = Reg.coreDbg k.val) Nothing Nothing Nothing s t := by
  intro o sp open_
  obtain ⟨t, runs, offset, word, closed, frame⟩ := dbgDataRead_answers
    (regAccessOk_coreDbg_data k) (dbgDataAt_of_core (locate_coreDbg_data k) lit)
  refine ⟨t, runs, fun (e : s.dbgOpen (Reg.coreDbg k.val) (k.val / 17) (some k.val)) => ⟨offset, ?_⟩, closed, frame⟩
  rw [word, dbgRead_word e rfl, setWidth_ofNat_word (Core.dbgWord_lt _ _ _)]

/-! ## The sector translation (R613, R614) -/

theorem exec_xlqWrite {i : SuitIx} (v : W32) (lit : s.suitDark i.val = false) :
    exec (.xlqWrite i v) s = .next (s.writeXlq i.val v) := by
  show execXlqWrite i v s = _
  simp [execXlqWrite, lit]

/-- XLA after a write of XLQ, as a number before it is cut to 64 bits: VALID and the offset, or 0 for no such sector (R614). -/
def Machine.State.xlaOf (s : State) (i : Nat) (v : W32) : Nat :=
  let off := offsetOf s.part i (s.outMask i) (bits v.toNat 26 6) (bits v.toNat 0 26)
  if bits v.toNat 26 6 ∉ (s.suit i).outPcs ∧ bits v.toNat 0 26 < s.pcSectors ∧ off < s.capBytes i then 2 ^ 63 + off else 0

theorem writeXlq_eq (s : State) (i : Nat) (v : W32) :
    s.writeXlq i v = (s.setReg (Reg.xlq i) v).setReg64 (Reg.xla i) (s.xlaOf i v) := by
  unfold State.writeXlq State.setReg64 State.xlaOf
  simp only [Bool.and_eq_true, Bool.not_eq_true', decide_eq_true_eq, and_assoc, List.contains_eq_mem, decide_eq_false_iff_not]

theorem frame_writeXlq (s : State) (i : Nat) (v : W32) :
    Frame (fun a => a = Reg.xlq i ∨ a = Reg.xla i ∨ a = Reg.xla i + 4) H C M s (s.writeXlq i v) := by
  rw [writeXlq_eq]
  exact (frame_setReg s _ v (.inl rfl)).trans (frame_setReg64 _ _ _ (.inr (.inl rfl)) (.inr (.inr rfl)))

theorem reg_writeXlq (s : State) (i : Nat) (v : W32) : (s.writeXlq i v).reg (Reg.xlq i) = v := by
  have low : Reg.xlq i ≠ Reg.xla i := by unfold Reg.xlq Reg.xla; omega
  have high : Reg.xlq i ≠ Reg.xla i + 4 := by unfold Reg.xlq Reg.xla; omega
  rw [writeXlq_eq, State.setReg64, State.reg_setReg_other _ _ high, State.reg_setReg_other _ _ low, State.reg_setReg, if_pos rfl]

theorem reg64_writeXlq (s : State) (i : Nat) (v : W32) : (s.writeXlq i v).reg64 (Reg.xla i) = s.xlaOf i v % 2 ^ 64 := by
  rw [writeXlq_eq, State.reg64_setReg64]

theorem xlqWrite_answers (i : SuitIx) (v : W32) (lit : s.suitDark i.val = false) :
    let pc := bits v.toNat 26 6
    let sec := bits v.toNat 0 26
    let off := offsetOf s.part i.val (s.outMask i.val) pc sec
    let good := pc ∉ (s.suit i.val).outPcs ∧ sec < s.pcSectors ∧ off < s.capBytes i.val
    Does (.xlqWrite i v) s fun t => t.reg (Reg.xlq i.val) = v ∧ (good → t.reg64 (Reg.xla i.val) = (2 ^ 63 + off) % 2 ^ 64) ∧
      (¬ good → t.reg64 (Reg.xla i.val) = 0) ∧
      Frame (fun a => a = Reg.xlq i.val ∨ a = Reg.xla i.val ∨ a = Reg.xla i.val + 4) Nothing Nothing Nothing s t ∧ Quiet s t := by
  intro pc sec off good
  refine ⟨_, exec_xlqWrite v lit, reg_writeXlq s _ v, fun g => ?_, fun b => ?_, frame_writeXlq s _ v, rfl, rfl, rfl⟩
  · rw [reg64_writeXlq, State.xlaOf]
    exact congrArg (· % 2 ^ 64) (if_pos g)
  · rw [reg64_writeXlq, State.xlaOf]
    exact congrArg (· % 2 ^ 64) (if_neg b)

/-! ## Keys removed from a map of registers -/

theorem rising_tail {x : Nat × W32} {m : PMap W32} (r : Rising (x :: m)) : (∀ e ∈ m, x.1 < e.1) ∧ Rising m :=
  List.pairwise_cons.1 r

/-- A key below all that a map lists reads as its default. -/
theorem Machine.PMap.get_of_below {d : W32} {m : PMap W32} {x : Nat} (h : ∀ e ∈ m, x < e.1) : PMap.get d m x = d := by
  cases m with
  | nil => rfl
  | cons e m =>
    have lt := h e (by simp)
    rw [PMap.get, if_neg (by omega), if_pos lt]

theorem Machine.PMap.mem_del {m : PMap W32} {x : Nat} {e : Nat × W32} (h : e ∈ PMap.del m x) : e ∈ m := by
  induction m with
  | nil => exact h
  | cons y m ih =>
    rw [PMap.del] at h
    split_ifs at h
    · exact List.mem_cons_of_mem _ h
    · exact h
    · rcases List.mem_cons.1 h with rfl | h
      · exact List.mem_cons_self
      · exact List.mem_cons_of_mem _ (ih h)

theorem Rising.del {m : PMap W32} (r : Rising m) (x : Nat) : Rising (PMap.del m x) := by
  induction m with
  | nil => exact r
  | cons y m ih =>
    obtain ⟨low, tail⟩ := rising_tail r
    rw [PMap.del]
    split_ifs
    · exact tail
    · exact r
    · exact List.pairwise_cons.2 ⟨fun e h => low e (PMap.mem_del h), ih tail⟩

/-- A key removed reads as its default; every other key reads as before. -/
theorem Machine.PMap.get_del (d : W32) {m : PMap W32} (r : Rising m) (x y : Nat) :
    PMap.get d (PMap.del m x) y = if y = x then d else PMap.get d m y := by
  induction m with
  | nil => simp [PMap.del, PMap.get]
  | cons e m ih =>
    obtain ⟨k, v⟩ := e
    obtain ⟨low, tail⟩ := rising_tail r
    have ih := ih tail
    rw [PMap.del]
    by_cases same : y = x
    · subst same
      rw [if_pos rfl] at ih ⊢
      split_ifs with here below
      · exact PMap.get_of_below (here ▸ low)
      · rw [PMap.get, if_neg here, if_pos below]
      · rw [PMap.get, if_neg here, if_neg below, ih]
    · rw [if_neg same] at ih ⊢
      split_ifs with here below
      · rw [PMap.get, if_neg (here ▸ Ne.symm same)]
        split_ifs with lt
        · exact PMap.get_of_below fun e h => lt.trans (low e h)
        · rfl
      · rfl
      · rw [PMap.get, PMap.get, ih]

theorem Rising.foldl_del {m : PMap W32} (r : Rising m) (l : List Nat) : Rising (l.foldl PMap.del m) := by
  induction l generalizing m with
  | nil => exact r
  | cons x l ih => exact ih (r.del x)

theorem Machine.PMap.get_foldl_del (d : W32) {m : PMap W32} (r : Rising m) (l : List Nat) (y : Nat) :
    PMap.get d (l.foldl PMap.del m) y = if y ∈ l then d else PMap.get d m y := by
  induction l generalizing m with
  | nil => simp
  | cons x l ih =>
    rw [List.foldl_cons, ih (r.del x), PMap.get_del d r]
    by_cases here : y = x
    · simp only [here, if_true, List.mem_cons, true_or, ite_self]
    · simp only [here, if_false, List.mem_cons, false_or]

/-! ## A CLEAR of an observation block (R562, R568) -/

theorem exec_clear {addr : Nat} (ok : regAccessOk addr 4 = true) (lit : s.darkAt (canon addr) = false) :
    exec (.clear addr) s = .next (s.clearBlock (canon addr)) := by
  show execClear addr s = _
  simp [execClear, ok, lit]

/-- The queues that a CLEAR at a canonical address marks: those of a block that has counters. -/
def clearedQueues (a : Nat) : List (Nat × Nat) := if obsCounters a = [] then [] else countedQueues a

/-- The counters of the block at 0, its queues not marked yet. -/
def Machine.State.clearCounters (s : State) (a : Nat) : State := { s with regs := (obsCounters a).foldl PMap.del s.regs }

theorem clearBlock_eq (s : State) (a : Nat) :
    s.clearBlock a = (clearedQueues a).foldl State.markCleared (s.clearCounters a) := by
  simp only [State.clearBlock, clearedQueues, State.clearCounters, List.isEmpty_iff]

/-- A counter of a block, which has n words of them from address a where it has any. -/
theorem mem_wordsFrom {p : Prop} [Decidable p] {a n x : Nat} (h : x ∈ if p then wordsFrom a n else []) :
    ∃ j < n, x = a + 4 * j := by
  split_ifs at h
  · obtain ⟨j, lt, e⟩ := List.mem_map.1 h
    exact ⟨j, (mem_upTo n j).1 lt, e.symm⟩
  · cases h

theorem hand_of_locate {a h q : Nat} (e : locate a = .hand h q) : h < 640 := by
  unfold locate at e
  dsimp only at e
  split_ifs at e
  have hand := (Loc.hand.inj e).1
  omega

theorem core_of_locate {a k w : Nat} (e : locate a = .core k w) : k < 10880 := by
  unfold locate at e
  dsimp only at e
  split_ifs at e
  have core := (Loc.core.inj e).1
  omega

theorem reset_suitBase {i o : Nat} (lt : o < 0x01000000) : Reg.reset (suitBase i + o) = Reg.resetSuit o := by
  have above : ¬ suitBase i + o < 0x10000000 := by unfold suitBase; omega
  have off : (suitBase i + o - 0x10000000) % 0x08000000 = o := by unfold suitBase; omega
  unfold Reg.reset
  dsimp only
  rw [if_neg above, off, if_pos lt]

theorem reset_handBase_add (h : HandIx) {q : Nat} (lt : q < 0x40000) : Reg.reset (handBase h.val + q) =
    if q < 0x10000 then Reg.resetHand q else Reg.resetCore ((q - 0x10000) % 0x2000) := by
  obtain ⟨above, -, -, x, off, above', -, -, word⟩ := handBase_parts h lt
  unfold Reg.reset
  dsimp only
  rw [if_neg above, off, if_neg above', word]

theorem reset_handBase (h : HandIx) {q : Nat} (lt : q < 0x10000) : Reg.reset (handBase h.val + q) = Reg.resetHand q := by
  rw [reset_handBase_add h (by omega), if_pos lt]

theorem reset_coreBase (k : CoreIx) {w : Nat} (lt : w < 0x2000) : Reg.reset (coreBase k.val + w) = Reg.resetCore w := by
  have word : (0x10000 + k.val % 17 * 0x2000 + w - 0x10000) % 0x2000 = w := by omega
  rw [coreBase_add, reset_handBase_add _ (by omega), if_neg (by omega), word]

/-- The words of the counters after reset (R567), by their offset in their unit's registers. -/
theorem reset_observed (j : Nat) : (j < 10 → Reg.resetManor (0x000D0000 + 4 * j) = 0) ∧
    (j < 18 → Reg.resetSuit (0x90000 + 4 * j) = 0) ∧ (j < 8 → Reg.resetHand (0x1008 + 4 * j) = 0) ∧
    (j < 20 → Reg.resetCore (0x384 + 4 * j) = 0) := by
  refine ⟨fun lt => ?_, fun lt => ?_, fun lt => ?_, fun lt => ?_⟩
  · unfold Reg.resetManor Reg.bootStat Reg.cfgCtl Reg.dealerCtl Reg.bellCtl Reg.mgmtStat Reg.pwrLimit
    repeat rw [if_neg (by omega)]
  · unfold Reg.resetSuit
    repeat rw [if_neg (by omega)]
  · unfold Reg.resetHand
    repeat rw [if_neg (by omega)]
  · unfold Reg.resetCore
    repeat rw [if_neg (by omega)]

/-- A counter of an observation block is 0 after reset (R567). -/
theorem reset_obsCounters {a x : Nat} (h : x ∈ obsCounters a) : Reg.reset x = 0 := by
  unfold obsCounters at h
  cases place : locate a with
  | manor b =>
    simp only [place] at h
    obtain ⟨j, lt, rfl⟩ := mem_wordsFrom h
    rw [Reg.reset, if_pos (by omega)]
    exact (reset_observed j).1 lt
  | suit i o =>
    simp only [place] at h
    obtain ⟨j, lt, rfl⟩ := mem_wordsFrom h
    rw [Nat.add_assoc, reset_suitBase (by omega)]
    exact (reset_observed j).2.1 lt
  | hand n q =>
    simp only [place] at h
    obtain ⟨j, lt, rfl⟩ := mem_wordsFrom h
    rw [Nat.add_assoc]
    exact (reset_handBase ⟨n, hand_of_locate place⟩ (by omega)).trans ((reset_observed j).2.2.1 lt)
  | core k w =>
    simp only [place] at h
    obtain ⟨j, lt, rfl⟩ := mem_wordsFrom h
    rw [Nat.add_assoc]
    exact (reset_coreBase ⟨k, core_of_locate place⟩ (by omega)).trans ((reset_observed j).2.2.2 lt)
  | none =>
    simp only [place] at h
    cases h

theorem reg_clearCounters (r : Rising s.regs) (a x : Nat) :
    (s.clearCounters a).reg x = if x ∈ obsCounters a then 0 else s.reg x := by
  rw [State.reg, State.clearCounters, PMap.get_foldl_del _ r]
  split_ifs with h
  · exact reset_obsCounters h
  · rfl

theorem frame_clearCounters (r : Rising s.regs) (a : Nat) : Frame (· ∈ obsCounters a) H C M s (s.clearCounters a) :=
  ⟨rfl, rfl, rfl, fun x n => (reg_clearCounters r a x).trans (if_neg n), fun _ _ => rfl, fun _ _ => rfl, fun _ _ => rfl,
    by simp [State.clearCounters]⟩

/-! ## Queues that are marked -/

/-- A command after a CLEAR: marked, if it has begun. -/
def Machine.Cmd.afterClear (c : Cmd) : Cmd := if c.begun = true then { c with cleared := true } else c

theorem afterClear_afterClear (c : Cmd) : c.afterClear.afterClear = c.afterClear := by
  unfold Cmd.afterClear
  split_ifs
  · rfl
  · rfl

theorem map_afterClear_of_not_begun {q : List Cmd} (h : q.any Cmd.begun = false) : q.map Cmd.afterClear = q := by
  rw [List.any_eq_false] at h
  exact (List.map_congr_left fun c m => if_neg (h c m)).trans (List.map_id' q)

/-- A queue of a station of R56: 1 to 5 of a core, 6 and 7 of a hand, 8 of a Mill. -/
def IsQueue (x : Nat × Nat) : Prop := 1 ≤ x.1 ∧ x.1 ≤ 8

theorem queue_setQueue_same (s : State) {st : Nat} (lo : 1 ≤ st) (hi : st ≤ 8) (u : Nat) (q : List Cmd) :
    (s.setQueue st u q).queue st u = q := by
  have stations : st = 1 ∨ st = 2 ∨ st = 3 ∨ st = 4 ∨ st = 5 ∨ st = 6 ∨ st = 7 ∨ st = 8 := by omega
  rcases stations with rfl | rfl | rfl | rfl | rfl | rfl | rfl | rfl <;> simp [State.setQueue, State.queue]

theorem queue_setQueue_other (s : State) {st u st' u' : Nat} (n : ¬ (st' = st ∧ u' = u)) (q : List Cmd) :
    (s.setQueue st u q).queue st' u' = s.queue st' u' := by
  unfold State.queue
  split
  case h_9 => rfl
  all_goals
    unfold State.setQueue
    by_cases e : u' = u
    · subst e
      split <;> simp at n ⊢
    · split <;> simp [e]

theorem frame_setQueue (s : State) (st u : Nat) (q : List Cmd) (h : st = 6 ∨ st = 7 → H u) (c : 1 ≤ st → st ≤ 5 → C u)
    (m : st = 8 → M u) : Frame R H C M s (s.setQueue st u q) := by
  unfold State.setQueue
  split
  case h_6 => exact frame_setHand s u _ (h (.inl rfl))
  case h_7 => exact frame_setHand s u _ (h (.inr rfl))
  case h_8 => exact frame_setMill s u _ (m rfl)
  case h_9 => exact Frame.refl s
  all_goals exact frame_setCore s u _ (c (by decide) (by decide))

theorem quiet_setQueue (s : State) (st u : Nat) (q : List Cmd) : Quiet s (s.setQueue st u q) := by
  unfold State.setQueue
  split
  all_goals exact ⟨rfl, rfl, rfl⟩

theorem markCleared_eq (s : State) (x : Nat × Nat) :
    s.markCleared x = s.setQueue x.1 x.2 ((s.queue x.1 x.2).map Cmd.afterClear) ∨
      s.markCleared x = s ∧ (s.queue x.1 x.2).map Cmd.afterClear = s.queue x.1 x.2 := by
  unfold State.markCleared
  split_ifs with h
  · exact .inl rfl
  · exact .inr ⟨rfl, map_afterClear_of_not_begun (Bool.not_eq_true _ ▸ h)⟩

theorem queue_markCleared (s : State) {x : Nat × Nat} (h : IsQueue x) (y : Nat × Nat) :
    (s.markCleared x).queue y.1 y.2 = if y = x then (s.queue y.1 y.2).map Cmd.afterClear else s.queue y.1 y.2 := by
  rcases markCleared_eq s x with e | ⟨e, same⟩ <;> rw [e] <;> split_ifs with here
  · rw [here, queue_setQueue_same s h.1 h.2]
  · exact queue_setQueue_other s (fun c => here (Prod.ext c.1 c.2)) _
  · rw [here, same]
  · rfl

theorem frame_markCleared (s : State) (x : Nat × Nat) (h : x.1 = 6 ∨ x.1 = 7 → H x.2) (c : 1 ≤ x.1 → x.1 ≤ 5 → C x.2)
    (m : x.1 = 8 → M x.2) : Frame R H C M s (s.markCleared x) := by
  rcases markCleared_eq s x with e | ⟨e, -⟩ <;> rw [e]
  · exact frame_setQueue s x.1 x.2 _ h c m
  · exact Frame.refl s

theorem quiet_markCleared (s : State) (x : Nat × Nat) : Quiet s (s.markCleared x) := by
  rcases markCleared_eq s x with e | ⟨e, -⟩ <;> rw [e]
  · exact quiet_setQueue s x.1 x.2 _
  · exact Quiet.refl s

theorem quiet_markAll (l : List (Nat × Nat)) (s : State) : Quiet s (l.foldl State.markCleared s) := by
  induction l generalizing s with
  | nil => exact Quiet.refl s
  | cons x l ih => exact (quiet_markCleared s x).trans (ih _)

/-- Queues marked one after the other: each command of theirs that has begun is marked, however often its queue is listed. -/
theorem queue_markAll (l : List (Nat × Nat)) (h : ∀ x ∈ l, IsQueue x) (s : State) (y : Nat × Nat) :
    (l.foldl State.markCleared s).queue y.1 y.2 =
      if y ∈ l then (s.queue y.1 y.2).map Cmd.afterClear else s.queue y.1 y.2 := by
  induction l generalizing s with
  | nil => simp
  | cons x l ih =>
    obtain ⟨hx, hl⟩ := List.forall_mem_cons.1 h
    have twice : ∀ q : List Cmd, (q.map Cmd.afterClear).map Cmd.afterClear = q.map Cmd.afterClear := fun q => by
      rw [List.map_map]
      exact List.map_congr_left fun c _ => afterClear_afterClear c
    rw [List.foldl_cons, ih hl, queue_markCleared s hx]
    by_cases first : y = x
    · simp only [first, if_true, List.mem_cons, true_or, twice, ite_self]
    · simp only [first, if_false, List.mem_cons, false_or]

theorem isQueue_countedQueues {a : Nat} {x : Nat × Nat} (h : x ∈ countedQueues a) : IsQueue x := by
  obtain ⟨st, u⟩ := x
  unfold IsQueue
  cases place : locate a <;> simp only [countedQueues, place, List.mem_cons, List.not_mem_nil, or_false, Prod.mk.injEq] at h
  case suit | hand | core => omega

/-- The two queues of a hand, and the five of a core, are counted together. -/
theorem countedQueues_unit {a : Nat} {x : Nat × Nat} (h : x ∈ countedQueues a) :
    (x.1 = 6 ∨ x.1 = 7 → (6, x.2) ∈ countedQueues a) ∧ (1 ≤ x.1 → x.1 ≤ 5 → (1, x.2) ∈ countedQueues a) := by
  obtain ⟨st, u⟩ := x
  cases place : locate a <;> simp only [countedQueues, place, List.mem_cons, List.not_mem_nil, or_false, Prod.mk.injEq, true_and] at h ⊢
  case suit | hand | core => exact ⟨fun hand => by omega, fun lo hi => by omega⟩

theorem clearedQueues_eq (a : Nat) : clearedQueues a = [] ∨ clearedQueues a = countedQueues a := by
  unfold clearedQueues
  split_ifs
  · exact .inl rfl
  · exact .inr rfl

theorem isQueue_clearedQueues {a : Nat} {x : Nat × Nat} (h : x ∈ clearedQueues a) : IsQueue x := by
  rcases clearedQueues_eq a with e | e <;> rw [e] at h
  · cases h
  · exact isQueue_countedQueues h

theorem clearedQueues_unit {a : Nat} {x : Nat × Nat} (h : x ∈ clearedQueues a) :
    (x.1 = 6 ∨ x.1 = 7 → (6, x.2) ∈ clearedQueues a) ∧ (1 ≤ x.1 → x.1 ≤ 5 → (1, x.2) ∈ clearedQueues a) := by
  rcases clearedQueues_eq a with e | e <;> rw [e] at h ⊢
  · cases h
  · exact countedQueues_unit h

theorem frame_clearBlock (r : Rising s.regs) (a : Nat) :
    Frame (· ∈ obsCounters a) (fun h => (6, h) ∈ clearedQueues a) (fun k => (1, k) ∈ clearedQueues a)
      (fun m => (8, m) ∈ clearedQueues a) s (s.clearBlock a) := by
  rw [clearBlock_eq]
  refine (frame_clearCounters r a).trans (frame_foldl _ _ (fun x h s => ?_) _)
  obtain ⟨hand, core⟩ := clearedQueues_unit h
  exact frame_markCleared s x hand core fun e => e ▸ h

theorem reg_clearBlock (r : Rising s.regs) {a x : Nat} (h : x ∈ obsCounters a) : (s.clearBlock a).reg x = 0 := by
  have marked : Frame Nothing (fun _ => True) (fun _ => True) (fun _ => True) (s.clearCounters a)
      ((clearedQueues a).foldl State.markCleared (s.clearCounters a)) :=
    frame_foldl _ _ (fun x _ s => frame_markCleared s x (fun _ => trivial) (fun _ _ => trivial) (fun _ => trivial)) _
  rw [clearBlock_eq, marked.reg x id, reg_clearCounters r, if_pos h]

theorem queue_clearBlock (s : State) {a : Nat} {x : Nat × Nat} (h : x ∈ clearedQueues a) :
    (s.clearBlock a).queue x.1 x.2 = (s.queue x.1 x.2).map Cmd.afterClear := by
  rw [clearBlock_eq, queue_markAll _ (fun _ => isQueue_clearedQueues), if_pos h]
  rfl

theorem clear_zeroes {addr : Nat} (safe : Safe s) (ok : regAccessOk addr 4 = true) (lit : s.darkAt (canon addr) = false) :
    Does (.clear addr) s fun t =>
      let qs := if obsCounters (canon addr) = [] then [] else countedQueues (canon addr)
      (∀ a ∈ obsCounters (canon addr), t.reg a = 0) ∧
      (∀ q ∈ qs, t.queue q.1 q.2 = (s.queue q.1 q.2).map fun c => if c.begun = true then { c with cleared := true } else c) ∧
      Frame (· ∈ obsCounters (canon addr)) (fun h => (6, h) ∈ qs) (fun k => (1, k) ∈ qs) (fun m => (8, m) ∈ qs) s t ∧ Quiet s t := by
  obtain ⟨-, -, -, rising, -⟩ := safe
  have quiet : Quiet s (s.clearBlock (canon addr)) := by
    rw [clearBlock_eq]
    exact quiet_markAll _ (s.clearCounters (canon addr))
  exact ⟨_, exec_clear ok lit, fun _ => reg_clearBlock rising, fun _ => queue_clearBlock s, frame_clearBlock rising _, quiet⟩

/-! ## APPLY and the copy of a suit's tables (R360) -/

theorem exec_apply (i : SuitIx) (reeve : Bool) (s : State) : exec (.apply i reeve) s =
    .next (if s.suitDark i.val ∨ (!reeve && s.job.run) then s else s.setBit (Reg.fabCtl i.val) 31) := rfl

theorem apply_asks (i : SuitIx) {reeve : Bool} (lit : s.suitDark i.val = false) (may : reeve = true ∨ s.job.run = false) :
    Does (.apply i reeve) s fun t =>
      t.flag (Reg.fabCtl i.val) 31 = true ∧ Frame (· = Reg.fabCtl i.val) Nothing Nothing Nothing s t ∧ Quiet s t := by
  have asks : ¬ (s.suitDark i.val = true ∨ (!reeve && s.job.run) = true) := by
    rcases may with e | e <;> simp [lit, e]
  exact ⟨_, (exec_apply i reeve s).trans (congrArg _ (if_neg asks)), State.flag_setBit s _ 31 (by decide),
    frame_setBit s _ 31 rfl, quiet_setReg s _ _⟩

theorem apply_ignored (i : SuitIx) {reeve : Bool} (h : s.suitDark i.val = true ∨ (reeve = false ∧ s.job.run = true)) :
    Does (.apply i reeve) s fun t => t = s := by
  have ignored : s.suitDark i.val = true ∨ (!reeve && s.job.run) = true := by simpa using h
  exact ⟨s, (exec_apply i reeve s).trans (congrArg _ (if_pos ignored)), rfl⟩

/-- Pending values that take effect, one after the other. -/
def Machine.State.commitAll (s : State) (l : PMap W32) : State := l.foldl (fun s e => s.commitOne e.1 e.2) s

theorem reg_commitOne (s : State) (a : Nat) (v : W32) (b : Nat) : (s.commitOne a v).reg b = if b = a then v else s.reg b :=
  State.reg_setReg s a b v

/-- Pending values that take effect change registers and grace periods alone. -/
theorem commitAll_eq (l : PMap W32) (s : State) : ∃ r g, s.commitAll l = { s with regs := r, cfg := g } := by
  induction l generalizing s with
  | nil => exact ⟨_, _, rfl⟩
  | cons e l ih =>
    obtain ⟨r, g, x⟩ := ih (s.commitOne e.1 e.2)
    exact ⟨r, g, x⟩

/-- The last pending value of an address is the one that stands. -/
theorem reg_commitAll {a : Nat} {v : W32} (l : PMap W32) (s : State) (h : (l.filter fun e => e.1 == a).getLast? = some (a, v)) :
    (s.commitAll l).reg a = v := by
  induction l using List.reverseRecOn with
  | nil => cases h
  | append_singleton l e ih =>
    have last : s.commitAll (l ++ [e]) = (s.commitAll l).commitOne e.1 e.2 := List.foldl_append
    rw [last, reg_commitOne]
    rw [List.filter_append] at h
    split_ifs with here
    · have one : [e].filter (fun e => e.1 == a) = [e] := by simp [here]
      rw [one, List.getLast?_concat] at h
      exact congrArg Prod.snd (Option.some.inj h)
    · have gone : [e].filter (fun e => e.1 == a) = [] := by simpa using Ne.symm here
      rw [gone, List.append_nil] at h
      exact ih h

/-- The addresses of suit i that its table copy takes from the pending ones. -/
def copiedBy (i a : Nat) : Bool := a == Reg.fabCtl i || (decide (Reg.fence i 0 ≤ a) && decide (a ≤ Reg.fence i 4))

theorem copiedBy_fabCtl (i : Nat) : copiedBy i (Reg.fabCtl i) = true := by simp [copiedBy]

theorem copiedBy_fence {i n : Nat} (lt : n < 5) : copiedBy i (Reg.fence i n) = true := by
  have low : Reg.fence i 0 ≤ Reg.fence i n := by unfold Reg.fence; omega
  have high : Reg.fence i n ≤ Reg.fence i 4 := by unfold Reg.fence; omega
  simp [copiedBy, low, high]

theorem copiedBy_outside {i a : Nat} (h : a < Reg.fabCtl i ∨ Reg.fence i 4 < a) : copiedBy i a = false := by
  have order : Reg.fabCtl i < Reg.fence i 0 ∧ Reg.fence i 0 < Reg.fence i 4 := by unfold Reg.fabCtl Reg.fence; omega
  simp only [copiedBy, Bool.or_eq_false_iff, beq_eq_false_iff_ne, Bool.and_eq_false_iff, decide_eq_false_iff_not]
  omega

/-- The pending tables of suit i have become active. -/
def Machine.State.applied (s : State) (i : Nat) : State :=
  { s.commitAll (s.staged.filter fun e => copiedBy i e.1) with
    staged := (s.commitAll (s.staged.filter fun e => copiedBy i e.1)).staged.filter fun e => !copiedBy i e.1 }

theorem applied_eq (s : State) (i : Nat) :
    ∃ r g, s.applied i = { s with regs := r, cfg := g, staged := s.staged.filter fun e => !copiedBy i e.1 } := by
  obtain ⟨r, g, e⟩ := commitAll_eq (s.staged.filter fun e => copiedBy i e.1) s
  exact ⟨r, g, by rw [State.applied, e]⟩

theorem reg_applied {i a : Nat} {v : W32} (mine : copiedBy i a = true)
    (h : (s.staged.filter fun e => e.1 == a).getLast? = some (a, v)) : (s.applied i).reg a = v := by
  refine reg_commitAll _ s ?_
  rw [List.filter_filter, ← h]
  congr 1
  refine List.filter_congr fun e _ => ?_
  by_cases here : e.1 = a
  · simp [here, mine]
  · simp [here]

theorem failFenced_of_no_colls (h : s.colls = []) : s.failFenced = s := by
  simp [State.failFenced, h]

theorem copyTables_eq {i : Nat} (asked : s.flag (Reg.fabCtl i) 31 = true) (drained : s.drained i = true) :
    s.copyTables i = ((s.applied i).clearBit (Reg.fabCtl i) 31).failFenced := by
  unfold State.copyTables
  rw [asked, drained]
  rfl

theorem exec_tableCopy (i : SuitIx) (s : State) : exec (.tableCopy i) s = .next (s.copyTables i.val) := rfl

theorem tableCopy_applies (i : SuitIx) (asked : s.flag (Reg.fabCtl i.val) 31 = true) (drained : s.drained i.val = true)
    (noColls : s.colls = []) : Does (.tableCopy i) s fun t =>
      let mine := fun (a : Nat) => a = Reg.fabCtl i.val ∨ ∃ n < 5, a = Reg.fence i.val n
      (∀ n < 5, ∀ v, (s.staged.filter fun e => e.1 == Reg.fence i.val n).getLast? = some (Reg.fence i.val n, v) →
        t.reg (Reg.fence i.val n) = v) ∧
      (∀ v, (s.staged.filter fun e => e.1 == Reg.fabCtl i.val).getLast? = some (Reg.fabCtl i.val, v) →
        t.field (Reg.fabCtl i.val) 0 4 = bits v.toNat 0 4) ∧
      t.flag (Reg.fabCtl i.val) 31 = false ∧ (∀ e ∈ t.staged, ¬ mine e.1) ∧
      (∀ e ∈ s.staged, e.1 < Reg.fabCtl i.val ∨ Reg.fence i.val 4 < e.1 → e ∈ t.staged) ∧ t.mem = s.mem ∧ Quiet s t := by
  obtain ⟨r, g, e⟩ := applied_eq s i.val
  have fields : ((s.applied i.val).clearBit (Reg.fabCtl i.val) 31).colls = [] ∧
      (s.applied i.val).staged = s.staged.filter (fun e => !copiedBy i.val e.1) ∧ (s.applied i.val).mem = s.mem ∧
      Quiet s (s.applied i.val) := by
    rw [e]
    exact ⟨noColls, rfl, rfl, rfl, rfl, rfl⟩
  obtain ⟨colls, staged, mem, quiet⟩ := fields
  have runs := exec_tableCopy i s
  rw [copyTables_eq asked drained, failFenced_of_no_colls colls] at runs
  refine ⟨_, runs, fun n lt v h => ?_, fun v h => ?_, State.flag_clearBit _ _ 31 (by decide), ?_, ?_, mem,
    quiet.trans (quiet_setReg _ _ _)⟩
  · have apart : Reg.fence i.val n ≠ Reg.fabCtl i.val := by unfold Reg.fence Reg.fabCtl; omega
    rw [State.clearBit, State.reg_setField_other _ _ _ _ _ _ apart, reg_applied (copiedBy_fence lt) h]
  · rw [State.clearBit, State.field_setField_other _ _ _ _ _ _ _ (by decide) (by decide), State.field,
      reg_applied (copiedBy_fabCtl _) h]
  · show ∀ e ∈ (s.applied i.val).staged, _
    rw [staged]
    rintro e h (here | ⟨n, lt, here⟩)
    · have out := (List.mem_filter.1 h).2
      rw [here, copiedBy_fabCtl] at out
      cases out
    · have out := (List.mem_filter.1 h).2
      rw [here, copiedBy_fence lt] at out
      cases out
  · show ∀ e ∈ s.staged, _ → e ∈ (s.applied i.val).staged
    rw [staged]
    exact fun e h out => List.mem_filter.2 ⟨h, by rw [copiedBy_outside out]; rfl⟩

theorem tableCopy_waits (i : SuitIx) (h : s.flag (Reg.fabCtl i.val) 31 = false ∨ s.drained i.val = false) :
    Does (.tableCopy i) s fun t => t = s := by
  refine ⟨_, exec_tableCopy i s, ?_⟩
  unfold State.copyTables
  rcases h with e | e <;> simp [e]

/-! ## The housekeeping copies (R33, R526, R603 to R605, R608, R609) -/

/-- Suit i's copies of its power status and of its temperatures. -/
def pwrStatOf (s : State) (r : Sensors) (i : Nat) : Nat :=
  ((s.suit i).clock % 2048) <<< 21 + ((s.suit i).cap % 16) <<< 17 + (r.psuit.getD i 0).toNat
def pwrTempOf (s : State) (r : Sensors) (i : Nat) : Nat :=
  b2n (s.suit i).throttled <<< 30 + (r.slogic.getD i 0).toNat <<< 20 + (r.shbm.getD i 0).toNat <<< 10

/-- The module's copies, before those of the suits. -/
def manorCopies (s : State) (r : Sensors) : PMap W32 :=
  PMap.put (PMap.put (PMap.put s.rs Reg.pwrLimit (BitVec.ofNat 32 ((s.gov.fMax % 65536) <<< 16 + s.gov.pLimit % 65536)))
    Reg.pwrIn (BitVec.ofNat 32 (r.vin.toNat <<< 16 + r.pin.toNat)))
    Reg.pwrTemp (BitVec.ofNat 32 (r.logic.toNat <<< 20 + r.hbm.toNat <<< 10 + r.handle.toNat))

/-- Suit i's copies, put into the copies made before. -/
def suitCopies (s : State) (r : Sensors) (m : PMap W32) (i : Nat) : PMap W32 :=
  PMap.put (PMap.put m (Reg.suitPwrStat i) (BitVec.ofNat 32 (pwrStatOf s r i))) (Reg.suitPwrTemp i) (BitVec.ofNat 32 (pwrTempOf s r i))

theorem copySuit_eq (s : State) (r : Sensors) (m : PMap W32) (i : Nat) :
    { s with rs := m }.copySuit r i = { s with rs := suitCopies s r m i } := rfl

theorem foldl_copySuit (s : State) (r : Sensors) (l : List Nat) (m : PMap W32) :
    l.foldl (fun (s : State) i => s.copySuit r i) { s with rs := m } = { s with rs := l.foldl (suitCopies s r) m } := by
  induction l generalizing m with
  | nil => rfl
  | cons i l ih => rw [List.foldl_cons, copySuit_eq, ih, List.foldl_cons]

theorem exec_housekeepingEdge (r : Sensors) (s : State) :
    exec (.housekeepingEdge r) s = .next { s with rs := suits4.foldl (suitCopies s r) (manorCopies s r) } := by
  rw [← foldl_copySuit]
  show execHousekeepingEdge r s = _
  unfold execHousekeepingEdge manorCopies
  rfl

theorem get_suitCopies (r : Sensors) (m : PMap W32) (i j : Nat) :
    PMap.get 0 (suitCopies s r m j) (Reg.suitPwrStat i) =
        (if i = j then BitVec.ofNat 32 (pwrStatOf s r i) else PMap.get 0 m (Reg.suitPwrStat i)) ∧
      PMap.get 0 (suitCopies s r m j) (Reg.suitPwrTemp i) =
        (if i = j then BitVec.ofNat 32 (pwrTempOf s r i) else PMap.get 0 m (Reg.suitPwrTemp i)) := by
  have apart : Reg.suitPwrStat i ≠ Reg.suitPwrTemp j ∧ Reg.suitPwrTemp i ≠ Reg.suitPwrStat j := by
    unfold Reg.suitPwrStat Reg.suitPwrTemp suitBase
    omega
  have stat : Reg.suitPwrStat i = Reg.suitPwrStat j ↔ i = j := by unfold Reg.suitPwrStat suitBase; omega
  have temp : Reg.suitPwrTemp i = Reg.suitPwrTemp j ↔ i = j := by unfold Reg.suitPwrTemp suitBase; omega
  simp only [suitCopies, PMap.get_put, apart, stat, temp, if_false]
  split_ifs with e
  · rw [e]
    exact ⟨rfl, rfl⟩
  · exact ⟨rfl, rfl⟩

/-- The copies of the suits leave the Manor's as they were. -/
theorem get_suitCopies_manor (r : Sensors) {a : Nat} (lt : a < 0x10000000) (l : List Nat) (m : PMap W32) :
    PMap.get 0 (l.foldl (suitCopies s r) m) a = PMap.get 0 m a := by
  induction l generalizing m with
  | nil => rfl
  | cons i l ih =>
    have stat : a ≠ Reg.suitPwrStat i := by unfold Reg.suitPwrStat suitBase; omega
    have temp : a ≠ Reg.suitPwrTemp i := by unfold Reg.suitPwrTemp suitBase; omega
    rw [List.foldl_cons, ih, suitCopies, PMap.get_put_other _ _ _ temp, PMap.get_put_other _ _ _ stat]

theorem get_copies (r : Sensors) {i : Nat} (l : List Nat) (m : PMap W32) (h : i ∈ l) :
    PMap.get 0 (l.foldl (suitCopies s r) m) (Reg.suitPwrStat i) = BitVec.ofNat 32 (pwrStatOf s r i) ∧
      PMap.get 0 (l.foldl (suitCopies s r) m) (Reg.suitPwrTemp i) = BitVec.ofNat 32 (pwrTempOf s r i) := by
  induction l using List.reverseRecOn with
  | nil => cases h
  | append_singleton l j ih =>
    obtain ⟨stat, temp⟩ := get_suitCopies (s := s) r (l.foldl (suitCopies s r) m) i j
    rw [List.foldl_append, List.foldl_cons, List.foldl_nil, stat, temp]
    split_ifs with e
    · exact ⟨rfl, rfl⟩
    · exact ih ((List.mem_append.1 h).resolve_right (by simpa using e))

theorem mem_suits4 {i : Nat} (lt : i < 4) : i ∈ suits4 := by
  unfold suits4
  simp only [List.mem_cons, List.not_mem_nil, or_false]
  omega

theorem bits_pwrStatOf (s : State) (r : Sensors) (i : Nat) :
    bits (BitVec.ofNat 32 (pwrStatOf s r i)).toNat 21 11 = (s.suit i).clock % 2048 ∧
      bits (BitVec.ofNat 32 (pwrStatOf s r i)).toNat 17 4 = (s.suit i).cap % 16 := by
  have power := (r.psuit.getD i 0).isLt
  simp only [pwrStatOf, bits, BitVec.toNat_ofNat, Nat.shiftLeft_eq, Nat.shiftRight_eq_div_pow]
  omega

theorem bits_pwrTempOf (s : State) (r : Sensors) (i : Nat) :
    bits (BitVec.ofNat 32 (pwrTempOf s r i)).toNat 20 10 = (r.slogic.getD i 0).toNat := by
  have logic := (r.slogic.getD i 0).isLt
  have hbm := (r.shbm.getD i 0).isLt
  simp only [pwrTempOf, b2n, bits, BitVec.toNat_ofNat, Nat.shiftLeft_eq, Nat.shiftRight_eq_div_pow]
  split_ifs <;> omega

theorem get_manorCopies (s : State) (r : Sensors) :
    PMap.get 0 (manorCopies s r) Reg.pwrLimit = BitVec.ofNat 32 ((s.gov.fMax % 65536) <<< 16 + s.gov.pLimit % 65536) ∧
    PMap.get 0 (manorCopies s r) Reg.pwrIn = BitVec.ofNat 32 (r.vin.toNat <<< 16 + r.pin.toNat) ∧
    PMap.get 0 (manorCopies s r) Reg.pwrTemp = BitVec.ofNat 32 (r.logic.toNat <<< 20 + r.hbm.toNat <<< 10 + r.handle.toNat) := by
  unfold manorCopies
  refine ⟨?_, ?_, PMap.get_put_same _ _ _ _⟩
  · rw [PMap.get_put_other _ _ _ (by decide), PMap.get_put_other _ _ _ (by decide), PMap.get_put_same]
  · rw [PMap.get_put_other _ _ _ (by decide), PMap.get_put_same]

theorem toNat_pwrIn (r : Sensors) :
    (BitVec.ofNat 32 (r.vin.toNat <<< 16 + r.pin.toNat)).toNat = r.vin.toNat * 65536 + r.pin.toNat := by
  have vin := r.vin.isLt
  have pin := r.pin.isLt
  rw [BitVec.toNat_ofNat, Nat.shiftLeft_eq]
  omega

theorem bits_pwrTemp (r : Sensors) :
    let w := (BitVec.ofNat 32 (r.logic.toNat <<< 20 + r.hbm.toNat <<< 10 + r.handle.toNat)).toNat
    bits w 20 10 = r.logic.toNat ∧ bits w 10 10 = r.hbm.toNat ∧ bits w 0 10 = r.handle.toNat := by
  have logic := r.logic.isLt
  have hbm := r.hbm.isLt
  have handle := r.handle.isLt
  simp only [bits, BitVec.toNat_ofNat, Nat.shiftLeft_eq, Nat.shiftRight_eq_div_pow]
  omega

theorem housekeepingEdge_copies (r : Sensors) (s : State) : Does (.housekeepingEdge r) s fun t => t = { s with rs := t.rs } ∧
    PMap.get 0 t.rs Reg.pwrLimit = BitVec.ofNat 32 ((s.gov.fMax % 65536) <<< 16 + s.gov.pLimit % 65536) ∧
    (PMap.get 0 t.rs Reg.pwrIn).toNat = r.vin.toNat * 65536 + r.pin.toNat ∧
    bits (PMap.get 0 t.rs Reg.pwrTemp).toNat 20 10 = r.logic.toNat ∧ bits (PMap.get 0 t.rs Reg.pwrTemp).toNat 10 10 = r.hbm.toNat ∧
    bits (PMap.get 0 t.rs Reg.pwrTemp).toNat 0 10 = r.handle.toNat ∧
    ∀ i < 4, bits (PMap.get 0 t.rs (Reg.suitPwrStat i)).toNat 21 11 = (s.suit i).clock % 2048 ∧
      bits (PMap.get 0 t.rs (Reg.suitPwrStat i)).toNat 17 4 = (s.suit i).cap % 16 ∧
      bits (PMap.get 0 t.rs (Reg.suitPwrTemp i)).toNat 20 10 = (r.slogic.getD i 0).toNat := by
  refine ⟨_, exec_housekeepingEdge r s, rfl, ?_⟩
  obtain ⟨limit, input, temp⟩ := get_manorCopies s r
  obtain ⟨logic, hbm, handle⟩ := bits_pwrTemp r
  dsimp only
  rw [get_suitCopies_manor r (by decide), get_suitCopies_manor r (by decide), get_suitCopies_manor r (by decide), limit, input, temp]
  refine ⟨rfl, toNat_pwrIn r, logic, hbm, handle, fun i lt => ?_⟩
  obtain ⟨stat, temp⟩ := get_copies (s := s) r suits4 (manorCopies s r) (mem_suits4 lt)
  obtain ⟨clock, cap⟩ := bits_pwrStatOf s r i
  rw [stat, temp]
  exact ⟨clock, cap, bits_pwrTempOf s r i⟩

/-! ## Scans begin, and grace periods end (R539, R541) -/

theorem exec_cfgScan (s : State) :
    exec .cfgScan s = .next (if s.scanNo < s.time / 1024000 then { s with scanNo := s.time / 1024000 } else s) := rfl

theorem cfgScan_begins (due : s.scanNo < s.time / 1024000) : Does .cfgScan s fun t => t = { s with scanNo := s.time / 1024000 } :=
  ⟨_, exec_cfgScan s, if_pos due⟩

theorem cfgScan_waits (early : s.time / 1024000 ≤ s.scanNo) : Does .cfgScan s fun t => t = s :=
  ⟨_, exec_cfgScan s, if_neg (not_lt.2 early)⟩

theorem exec_graceEnd {n t0 : Nat} (g : (PMap.get ({} : CfgBlk) s.cfg n).grace = some t0) :
    exec (.graceEnd n) s = .next (
      if t0 ≤ s.time then { s with cfg := PMap.put s.cfg n { PMap.get ({} : CfgBlk) s.cfg n with grace := none } } else s) := by
  show execGraceEnd n s = _
  simp only [execGraceEnd, g]

theorem graceEnd_ends {n t0 : Nat} (g : (PMap.get ({} : CfgBlk) s.cfg n).grace = some t0) (past : t0 ≤ s.time) :
    Does (.graceEnd n) s fun t => (PMap.get ({} : CfgBlk) t.cfg n).grace = none ∧ t = { s with cfg := t.cfg } := by
  refine ⟨_, (exec_graceEnd g).trans (congrArg _ (if_pos past)), ?_, rfl⟩
  dsimp only
  rw [PMap.get_put_same]

theorem graceEnd_waits {n t0 : Nat} (g : (PMap.get ({} : CfgBlk) s.cfg n).grace = some t0) (early : s.time < t0) :
    Does (.graceEnd n) s fun t => t = s :=
  ⟨_, exec_graceEnd g, if_neg (not_le.2 early)⟩

/-! ## Drift (R430, R451, R540) -/

/-- No word of a configuration block's check is a hand's count of lost trace records, or the Bell's status. -/
theorem cfgStat_apart (b : Blk) : (∀ h, b.stat ≠ Reg.handLost h ∧ b.stat + 4 ≠ Reg.handLost h) ∧
    b.stat ≠ Reg.bellStat ∧ b.stat + 4 ≠ Reg.bellStat := by
  cases b
  all_goals
    simp only [Blk.stat, Reg.cfgStatManor, Reg.cfgStatSuit, Reg.cfgStatHand, Reg.cfgStatCore, Reg.handLost, Reg.bellStat,
      coreBase, handBase, suitBase]
    exact ⟨fun h => ⟨by omega, by omega⟩, by omega, by omega⟩

theorem syncMode_eq (s : State) : ∃ c, s.syncMode = { s with ctl := c } := by
  unfold State.syncMode
  split_ifs
  · exact ⟨_, rfl⟩
  · exact ⟨_, rfl⟩

/-- What the Bell changes when it rings: its status register, its cuts, one of which holds the unit, and the module state. -/
structure Rung (s t : State) : Prop where
  reg : ∀ a, a ≠ Reg.bellStat → t.reg a = s.reg a
  cuts : t.bell.cuts ≠ []
  rest : ∃ r b c, t = { s with regs := r, bell := b, ctl := c }

theorem Rung.syncMode (a : Rung s t) : Rung s t.syncMode := by
  obtain ⟨reg, cuts, r, b, c, rest⟩ := a
  obtain ⟨c', e⟩ := syncMode_eq t
  rw [e]
  exact ⟨reg, cuts, r, b, c', by rw [rest]⟩

theorem rung_setBell {b : Bell} (t : State) (rest : ∃ r, t = { s with regs := r }) (reg : ∀ a, a ≠ Reg.bellStat → t.reg a = s.reg a)
    (cuts : b.cuts ≠ []) : Rung s { t with bell := b } := by
  obtain ⟨r, rest⟩ := rest
  exact ⟨fun a n => (State.reg_congr rfl a).trans (reg a n), cuts, r, b, s.ctl, by rw [rest]⟩

theorem rung_ring (s : State) (scope suit hand source : Nat) : Rung s (s.ring scope suit hand source) := by
  unfold State.ring
  dsimp only
  split_ifs with covered
  · refine ⟨fun a n => State.reg_setField_other s _ _ _ _ _ n, fun e => ?_, _, _, _, rfl⟩
    have noCuts : s.bell.cuts = [] := e
    rw [noCuts] at covered
    cases covered
  · refine Rung.syncMode (rung_setBell (s := s) ((s.setField Reg.bellStat 25 4 source).setBit Reg.bellStat 30) ⟨_, rfl⟩
      (fun a n => ?_) (by simp))
    rw [State.setBit, State.reg_setField_other _ _ _ _ _ _ n, State.reg_setField_other _ _ _ _ _ _ n]

/-- The record of a drift, posted by the unit of its block. -/
def Machine.State.postDrift (s : State) (b : Blk) (u : Nat × Nat) (d : Nat) : State :=
  match b with
  | .hand h => s.postHand h 9 u.2 2 0x0E d 0 0
  | .core k => s.postHand (k / 17) 9 u.2 2 0x0E d 0 0
  | _ => s.post u.1 2 0x0E u.2 d

/-- The drift of a block, flagged and noted, before its record is posted. -/
def Machine.State.noteDrift (s : State) (n : Nat) (b : Blk) : State :=
  let again := match PMap.find s.recov.drifts n with | none => false | some t => decide (s.time < t + 86400000000000)
  let s1 := s.setBit b.stat 28
  { s1 with recov := { s1.recov with drifts := PMap.put s1.recov.drifts n s.time
                                     redrifted := if again then s1.recov.redrifted ++ [n] else s1.recov.redrifted } }

theorem raiseDrift_eq (s : State) (n : Nat) (b : Blk) (crc : Nat) : s.raiseDrift n b crc =
    (let s2 := (s.noteDrift n b).postDrift b (s.blkUnit b) (n <<< 32 + crc)
     if s.job.run then s2.ring b.scope.1 b.scope.2.1 b.scope.2.2 7 else s2) := by
  cases b <;> rfl

theorem Frame.cfg (a : Frame R H C M s t) : t.cfg = s.cfg := by simp only [a.rest]

theorem frame_recov (s : State) (r : Rec) : Frame R H C M s { s with recov := r } :=
  ⟨rfl, rfl, rfl, fun _ _ => rfl, fun _ _ => rfl, fun _ _ => rfl, fun _ _ => rfl, by simp⟩

theorem frame_noteDrift (s : State) (n : Nat) (b : Blk) : Frame (· = b.stat) H C M s (s.noteDrift n b) :=
  Frame.trans (frame_setBit s b.stat 28 rfl) (frame_recov _ _)

theorem frame_postDrift (s : State) (b : Blk) (u : Nat × Nat) (d : Nat) :
    Frame (fun a => ∃ h, a = Reg.handLost h) (fun _ => True) Nothing Nothing s (s.postDrift b u d) := by
  cases b with
  | manor => exact frame_post s _ _ _ _ _
  | suit i => exact frame_post s _ _ _ _ _
  | hand h => exact frame_postHand s h 9 _ 2 _ d 0 0 trivial ⟨h, rfl⟩
  | core k => exact frame_postHand s (k / 17) 9 _ 2 _ d 0 0 trivial ⟨k / 17, rfl⟩

theorem flight_post (s : State) (r sev code ep d : Nat) :
    (s.post r sev code ep d).recov.flight.length = s.recov.flight.length + 1 := List.length_append

theorem flight_postHand (s : State) (h st ep sev code d serial : Nat) (x : BitVec 512) :
    (s.postHand h st ep sev code d serial x).recov.flight.length = s.recov.flight.length + 1 := by
  obtain ⟨-, recov, -⟩ := (traced_traceHand s h (faultTrace st (if st = 9 then epHand h 25 else ep) sev code d serial x)).quiet
  unfold State.postHand
  dsimp only
  rw [flight_post, recov]

theorem flight_postDrift (s : State) (b : Blk) (u : Nat × Nat) (d : Nat) :
    (s.postDrift b u d).recov.flight.length = s.recov.flight.length + 1 := by
  cases b with
  | manor => exact flight_post s _ _ _ _ _
  | suit i => exact flight_post s _ _ _ _ _
  | hand h => exact flight_postHand s h 9 _ 2 _ d 0 0
  | core k => exact flight_postHand s (k / 17) 9 _ 2 _ d 0 0

/-- What a drift does beside the Bell: DRIFT is set and a record is on its way; the block's other words, HBM and the places of
the scans are as they were. -/
structure Drifts (b : Blk) (s t : State) : Prop where
  drift : t.flag b.stat 28 = true
  crc : t.reg (b.stat + 4) = s.reg (b.stat + 4)
  count : t.field b.stat 0 16 = s.field b.stat 0 16
  flight : t.recov.flight.length = s.recov.flight.length + 1
  mem : t.mem = s.mem
  cfg : t.cfg = s.cfg

theorem Drifts.rung {b : Blk} (a : Drifts b s t) (r : Rung t u) : Drifts b s u := by
  obtain ⟨-, stat, crc⟩ := cfgStat_apart b
  obtain ⟨reg, -, x, y, z, rest⟩ := r
  have recov : u.recov = t.recov := by rw [rest]
  have mem : u.mem = t.mem := by rw [rest]
  have cfg : u.cfg = t.cfg := by rw [rest]
  exact ⟨(State.flag_congr (reg _ stat) 28).trans a.drift, (reg _ crc).trans a.crc,
    (State.field_congr (reg _ stat) 0 16).trans a.count, by rw [recov, a.flight], mem.trans a.mem, cfg.trans a.cfg⟩

theorem noteDrift_reads (s : State) (n : Nat) (b : Blk) : (s.noteDrift n b).flag b.stat 28 = true ∧
    (s.noteDrift n b).field b.stat 0 16 = s.field b.stat 0 16 := by
  have e : (s.noteDrift n b).reg b.stat = (s.setBit b.stat 28).reg b.stat := State.reg_congr rfl _
  refine ⟨(State.flag_congr e 28).trans (State.flag_setBit s _ 28 (by decide)), (State.field_congr e 0 16).trans ?_⟩
  exact State.field_setField_other _ _ _ _ _ _ _ (by decide) (by decide)

theorem drifts_postDrift (s : State) (n : Nat) (b : Blk) (x : Nat × Nat) (d : Nat) :
    Drifts b s ((s.noteDrift n b).postDrift b x d) := by
  obtain ⟨lost, -, -⟩ := cfgStat_apart b
  obtain ⟨drift, count⟩ := noteDrift_reads s n b
  have noted := frame_noteDrift (H := Nothing) (C := Nothing) (M := Nothing) s n b
  have posted := frame_postDrift (s.noteDrift n b) b x d
  have stat := posted.reg b.stat fun ⟨h, e⟩ => (lost h).1 e
  have crc := posted.reg (b.stat + 4) fun ⟨h, e⟩ => (lost h).2 e
  exact ⟨(State.flag_congr stat 28).trans drift, crc.trans (noted.reg _ (by omega)), (State.field_congr stat 0 16).trans count,
    flight_postDrift _ b x d, posted.mem.trans noted.mem, posted.cfg.trans noted.cfg⟩

theorem raiseDrift_drifts (s : State) (n : Nat) (b : Blk) (crc : Nat) :
    Drifts b s (s.raiseDrift n b crc) ∧ (s.job.run = true → (s.raiseDrift n b crc).bell.cuts ≠ []) := by
  have posted := drifts_postDrift s n b (s.blkUnit b) (n <<< 32 + crc)
  rw [raiseDrift_eq]
  dsimp only
  split_ifs with runs
  · have rung := rung_ring ((s.noteDrift n b).postDrift b (s.blkUnit b) (n <<< 32 + crc)) b.scope.1 b.scope.2.1 b.scope.2.2 7
    exact ⟨posted.rung rung, fun _ => rung.cuts⟩
  · exact ⟨posted, fun e => absurd e runs⟩

/-! ## A scan of a block ends (R539, R540) -/

/-- The scan's words: CFG.CRC takes the CRC, CFG.STAT counts the scan, and the block has been scanned. -/
def Machine.State.scanned (s : State) (n : Nat) (b : Blk) : State :=
  let s1 := (s.setReg (b.stat + 4) (BitVec.ofNat 32 (wordsCrc (s.covered b)))).setField b.stat 0 16 (s.field b.stat 0 16 + 1)
  { s1 with cfg := PMap.put s1.cfg n { PMap.get ({} : CfgBlk) s.cfg n with scanned := s.scanNo } }

theorem exec_cfgScanEnd {n : Nat} {b : Blk} (blk : blkOf n = some b) (lit : s.blkDark b = false)
    (due : (PMap.get ({} : CfgBlk) s.cfg n).scanned < s.scanNo) : exec (.cfgScanEnd n) s = .next (
      if bits (s.listedValue b.stat).toNat 28 4 = 8 ∧ wordsCrc (s.covered b) ≠ (s.reg (b.stat + 8)).toNat then
        (s.scanned n b).raiseDrift n b (wordsCrc (s.covered b))
      else s.scanned n b) := by
  have go : ¬ (s.scanNo ≤ (PMap.get ({} : CfgBlk) s.cfg n).scanned ∨ s.blkDark b = true) := by
    rw [lit]
    simpa using due
  show execCfgScanEnd n s = _
  unfold execCfgScanEnd
  simp only [blk]
  rw [if_neg go]
  simp only [Bool.and_eq_true _ (_ != _), valid_alone_iff, bne_iff_ne]
  rfl

theorem reg_scanned (s : State) (n : Nat) (b : Blk) (a : Nat) : (s.scanned n b).reg a =
    ((s.setReg (b.stat + 4) (BitVec.ofNat 32 (wordsCrc (s.covered b)))).setField b.stat 0 16 (s.field b.stat 0 16 + 1)).reg a :=
  State.reg_congr rfl a

/-- CFG.STAT once the scan is counted. -/
theorem stat_scanned (s : State) (n : Nat) (b : Blk) :
    (s.scanned n b).field b.stat 0 16 = (s.field b.stat 0 16 + 1) % 65536 ∧ (s.scanned n b).flag b.stat 28 = s.flag b.stat 28 := by
  have e := reg_scanned s n b b.stat
  refine ⟨(State.field_congr e 0 16).trans (State.field_setField _ _ _ _ _ (by decide)), (State.flag_congr e 28).trans ?_⟩
  rw [State.flag_setField_other _ _ _ _ _ (by decide) (by decide)]
  exact State.flag_congr (State.reg_setReg_other _ _ (by omega)) 28

theorem crc_scanned (s : State) (n : Nat) (b : Blk) : (s.scanned n b).reg (b.stat + 4) = BitVec.ofNat 32 (wordsCrc (s.covered b)) := by
  rw [reg_scanned, State.reg_setField_other _ _ _ _ _ _ (by omega), State.reg_setReg, if_pos rfl]

theorem cfg_scanned (s : State) (n : Nat) (b : Blk) : (PMap.get ({} : CfgBlk) (s.scanned n b).cfg n).scanned = s.scanNo :=
  congrArg CfgBlk.scanned (PMap.get_put_same _ _ _ _)

theorem cfgScanEnd_checks {n : Nat} {b : Blk} (blk : blkOf n = some b) (lit : s.blkDark b = false)
    (due : (PMap.get ({} : CfgBlk) s.cfg n).scanned < s.scanNo) :
    let crc := wordsCrc (s.covered b)
    let st := (s.listedValue b.stat).toNat
    let drift := bits st 28 4 = 8 ∧ crc ≠ (s.reg (b.stat + 8)).toNat
    Does (.cfgScanEnd n) s fun t => t.reg (b.stat + 4) = BitVec.ofNat 32 crc ∧
      t.field b.stat 0 16 = (s.field b.stat 0 16 + 1) % 65536 ∧ (PMap.get ({} : CfgBlk) t.cfg n).scanned = s.scanNo ∧
      (drift → t.flag b.stat 28 = true ∧ t.recov.flight.length = s.recov.flight.length + 1 ∧ (s.job.run = true → t.bell.cuts ≠ [])) ∧
      (¬ drift → t.recov = s.recov ∧ t.bell = s.bell ∧ t.flag b.stat 28 = s.flag b.stat 28) ∧ t.mem = s.mem := by
  intro crc st drift
  refine ⟨_, exec_cfgScanEnd blk lit due, ?_⟩
  obtain ⟨count, flag⟩ := stat_scanned s n b
  split_ifs with drifts
  · obtain ⟨raised, cuts⟩ := raiseDrift_drifts (s.scanned n b) n b crc
    exact ⟨raised.crc.trans (crc_scanned s n b), raised.count.trans count, by rw [raised.cfg, cfg_scanned],
      fun _ => ⟨raised.drift, raised.flight, cuts⟩, fun none => absurd drifts none, raised.mem⟩
  · exact ⟨crc_scanned s n b, count, cfg_scanned s n b, fun e => absurd e drifts, fun _ => ⟨rfl, rfl, flag⟩, rfl⟩

/-- Settles O43: each row with an effect of its own, then the scans, by what their commands do. -/
theorem registerRowsAndScans : Obligations.RegisterRowsAndScans := fun s =>
  ⟨statusRead_answers s, fun _ => statusRead_other s, fun _ => cfgRefWrite_commits, dbgDataRead_hand, dbgDataRead_core,
    xlqWrite_answers, fun _ => clear_zeroes, fun i _ => ⟨apply_asks i, apply_ignored i⟩,
    fun i => ⟨tableCopy_applies i, tableCopy_waits i⟩, fun r => housekeepingEdge_copies r s, cfgScan_begins, cfgScan_waits,
    fun _ _ => cfgScanEnd_checks, fun _ _ g => ⟨graceEnd_ends g, graceEnd_waits g⟩⟩

end Sys2Proof
end

section
/-! PROOFS. The fabric: how the flits of a packet move on, where its head goes, how a multicast packet is replicated, and what
a delivered packet does at its unit (R346, R347, R350, R353 to R359). -/

namespace Sys2Proof

open Machine

variable {R H C M : Nat → Prop} {s t u : State} {i : Nat} {p : Packet}

/-! ## Packets removed and replaced -/

theorem net_dropPacket (s : State) (i : Nat) : (s.dropPacket i).net = s.net.eraseIdx i :=
  (List.eraseIdx_eq_take_drop_succ _ _).symm

theorem frame_dropPacket (s : State) (i : Nat) : Frame R H C M s (s.dropPacket i) :=
  ⟨rfl, rfl, rfl, fun _ _ => rfl, fun _ _ => rfl, fun _ _ => rfl, fun _ _ => rfl, by simp [State.dropPacket]⟩

theorem setPacket_self (net : s.net[i]? = some p) : s.setPacket i p = s := by
  obtain ⟨lt, rfl⟩ := List.getElem?_eq_some_iff.1 net
  unfold State.setPacket
  rw [List.set_getElem_self]

/-! ## Where a hop leads (R344, R353) -/

theorem epToHand_eq_some {e h : Nat} (hand : epToHand e = some h) : bit e 15 = false ∧ epSuit e = h / 160 := by
  have column : bits e 5 4 < 16 := bits_lt e 5 4
  unfold epToHand at hand
  split_ifs at hand with station row
  cases hand
  exact ⟨Bool.eq_false_of_not_eq_true station, by unfold epSuit; omega⟩

/-- Within the suit of its destination hand a packet goes toward that hand. -/
theorem nextHop_in_suit {h : Nat} (router : p.pos < 640) (hand : epToHand p.dest.toNat = some h) (suit : h / 160 = p.pos / 160) :
    s.nextHop p = s.toward p h := by
  obtain ⟨unit, ds⟩ := epToHand_eq_some hand
  simp [State.nextHop, epManor, epLink, unit, ds, suit, not_le.2 router, hand]

theorem toward_here (s : State) (p : Packet) : s.toward p p.pos = none := by
  simp [State.toward, stepX, stepY, State.freest]

/-- The places of a suit's hands are told apart by column and row. -/
theorem eq_of_px_py {a b : Nat} (suit : a / 160 = b / 160) (x : px a = px b) (y : py a = py b) : a = b := by
  unfold px at x
  unfold py at y
  omega

theorem toward_ordered {h : Nat} (ord : p.ord = true) (suit : h / 160 = p.pos / 160) (away : h ≠ p.pos) :
    s.toward p h = some (
      if px p.pos = px h then place (h / 160) (px h) (if py p.pos < py h then py p.pos + 1 else py p.pos - 1)
      else place (h / 160) (if px p.pos < px h then px p.pos + 1 else px p.pos - 1) (py p.pos)) := by
  unfold State.toward stepX stepY
  by_cases x : px p.pos = px h
  · have y : py p.pos ≠ py h := fun y => away (eq_of_px_py suit x.symm y.symm)
    simp [ord, x, y, suit]
  · simp [ord, x, suit]

/-- To its destination hand in its suit: nowhere from the hand's own router, and an ordered packet X before Y (R353). -/
theorem nextHop_xy (s : State) (p : Packet) (h : Nat) (router : p.pos < 640) (hand : epToHand p.dest.toNat = some h)
    (suit : h / 160 = p.pos / 160) :
    (h = p.pos → s.nextHop p = none) ∧
      (p.ord = true → h ≠ p.pos → s.nextHop p = some (
        if px p.pos = px h then place (h / 160) (px h) (if py p.pos < py h then py p.pos + 1 else py p.pos - 1)
        else place (h / 160) (if px p.pos < px h then px p.pos + 1 else px p.pos - 1) (py p.pos))) := by
  rw [nextHop_in_suit router hand suit]
  exact ⟨fun here => here ▸ toward_here s p, fun ord => toward_ordered ord suit⟩

/-! ## Flits that follow (R350, R351) -/

/-- Two states that differ in links, in what the output ports have served and in the count of free choices alone. -/
def PortsOnly (s t : State) : Prop := ∃ l v f, t = { s with links := l, served := v, free := f }

theorem PortsOnly.refl (s : State) : PortsOnly s s := ⟨_, _, _, rfl⟩

theorem PortsOnly.trans (a : PortsOnly s t) (b : PortsOnly t u) : PortsOnly s u := by
  obtain ⟨_, _, _, rfl⟩ := a
  obtain ⟨_, _, _, rfl⟩ := b
  exact ⟨_, _, _, rfl⟩

theorem PortsOnly.net (a : PortsOnly s t) : t.net = s.net := by
  obtain ⟨_, _, _, rfl⟩ := a
  rfl

theorem portsOnly_foldl {α : Type} {f : State → α → State} (step : ∀ s x, PortsOnly s (f s x)) (l : List α) (s : State) :
    PortsOnly s (l.foldl f s) := by
  induction l generalizing s with
  | nil => exact .refl s
  | cons x l ih => exact (step s x).trans (ih _)

theorem portsOnly_took (s : State) (p q : Packet) : PortsOnly s (s.took p q) := by
  unfold State.took
  extract_lets ls s1
  have replayed : PortsOnly s s1 := by
    refine portsOnly_foldl (fun s l => ?_) ls s
    cases linkOf (bufFrom l) (bufAt l)
    · exact .refl s
    · exact ⟨_, _, _, rfl⟩
  split_ifs
  · exact replayed.trans ⟨_, _, _, rfl⟩
  · exact replayed.trans ⟨_, _, _, rfl⟩
  · exact replayed

theorem entered_eq (s : State) (p : Packet) : ∃ w n, s.entered p = { p with way := w, sent := n } := by
  unfold State.entered
  split_ifs <;> exact ⟨_, _, rfl⟩

theorem advance_eq (s : State) (i : Nat) (p : Packet) (out : Bool) :
    ∃ w n, s.advance i p out = { p with way := w, sent := n } := by
  unfold State.advance
  split <;> exact ⟨_, _, rfl⟩

/-- A packet of one flit, which stands in buffer l at the packet's place. -/
structure Machine.Packet.AloneIn (p : Packet) (l : Nat) : Prop where
  size : p.size = 1
  sent : p.sent = 1
  way : p.way = [(l, 1)]
  here : bufAt l = p.pos

section
variable {l : Nat} (a : p.AloneIn l)
include a

theorem entered_alone (s : State) : s.entered p = p := by simp [State.entered, a.sent]

theorem headHere_alone : p.headHere = true := by simp [Packet.headHere, a.way, a.here]

theorem advance_alone_out (s : State) (i : Nat) : s.advance i p true = { p with way := [] } := by
  obtain ⟨size, sent, way, -⟩ := a
  simp [State.advance, way, followers, trimWay, size, sent]

theorem advance_alone_stays (s : State) (i : Nat) : s.advance i p false = p := by
  obtain ⟨size, sent, way, -⟩ := a
  have e : s.advance i p false = { p with way := [(l, 1)] } := by simp [State.advance, way, followers, trimWay, size, sent]
  rw [e, ← way]

theorem Machine.Packet.AloneIn.sink (n k : Nat) : ({ p with sunk := n, split := k } : Packet).AloneIn l :=
  ⟨a.size, a.sent, a.way, a.here⟩

end

/-! ## A unicast packet (R346, R353, R354) -/

theorem exec_packetForward (net : s.net[i]? = some p) : exec (.packetForward i) s = .next (
    if p.arrived then s
    else if !p.mcast && s.badDest p.pos p.dest.toNat then
      (((s.dropPacket i).setBit (Reg.routerStat (routerAt p.pos)) 31).setField (Reg.routerStat (routerAt p.pos)) 0 16
        p.dest.toNat).note (.badDest (routerAt p.pos) p.dest.toNat)
    else if s.overtakes i p then s
    else if p.mcast then s.forwardMulti i (s.entered p)
    else s.forwardOne i (s.entered p)) := by
  show execPacketForward i s = _
  unfold execPacketForward
  rw [net]

theorem packetForward_arrived (net : s.net[i]? = some p) (done : p.arrived = true) : Does (.packetForward i) s fun t => t = s :=
  ⟨s, by rw [exec_packetForward net, if_pos done], rfl⟩

/-- What a packet may become by moving on: its head stays or takes the next hop, and it has arrived only where there is none
and all its flits have sunk. -/
structure Hopped (s : State) (p q : Packet) : Prop where
  same : q = { p with pos := q.pos, way := q.way, sent := q.sent, sunk := q.sunk, arrived := q.arrived }
  pos : q.pos = p.pos ∨ s.nextHop p = some q.pos
  whole : q.arrived = true → s.nextHop p = none ∧ q.sunk = p.size

theorem Hopped.of_entered {q : Packet} (a : Hopped s (s.entered p) q) : Hopped s p q := by
  obtain ⟨w, n, e⟩ := entered_eq s p
  rw [e] at a
  exact ⟨a.same, a.pos, a.whole⟩

/-- The packet with its head flit sunk, the flits behind it one buffer further. -/
def Machine.State.sink (s : State) (i : Nat) (p : Packet) : Packet := s.advance i { p with sunk := p.sunk + 1 } true

theorem forwardOne_sinks (hop : s.nextHop p = none) (head : p.headHere = true) : s.forwardOne i p =
    (s.took p (s.sink i p)).setPacket i
      (if (s.sink i p).sunk = (s.sink i p).size then { s.sink i p with arrived := true, way := [] } else s.sink i p) := by
  unfold State.forwardOne
  rw [hop, head]
  rfl

/-- The packet with its head in the input of place q, the flits behind it one buffer further. -/
def Machine.State.hop (s : State) (i : Nat) (p : Packet) (q : Nat) : Packet :=
  { s.advance i p true with pos := q, way := (buffer p.pos q, 1) :: (s.advance i p true).way }

theorem forwardOne_goes {q : Nat} (hop : s.nextHop p = some q) (head : p.headHere = true)
    (free : s.mayEnter i p (buffer p.pos q) = true) :
    s.forwardOne i p = (s.spend.took p (s.hop i p q)).setPacket i (s.hop i p q) := by
  unfold State.forwardOne
  rw [hop, head]
  dsimp only
  rw [free]
  rfl

theorem forwardOne_waits (stays : p.headHere = false ∨ ∃ q, s.nextHop p = some q ∧ s.mayEnter i p (buffer p.pos q) = false) :
    s.forwardOne i p = s.setPacket i (s.advance i p false) := by
  unfold State.forwardOne
  rcases stays with head | ⟨q, hop, full⟩
  · rw [head]
    cases s.nextHop p <;> rfl
  · rw [hop]
    dsimp only
    rw [full, Bool.and_false]
    rfl

/-- The packet alone moves on, and with it change links, output ports and the count of free choices. -/
theorem forwardOne_hops (s : State) (i : Nat) (p : Packet) (way : p.arrived = false) :
    ∃ q t, s.forwardOne i p = t.setPacket i q ∧ PortsOnly s t ∧ Hopped s p q := by
  have under_way {P : Prop} (done : p.arrived = true) : P := absurd (way.symm.trans done) (by decide)
  have waits : Hopped s p (s.advance i p false) := by
    obtain ⟨w, n, e⟩ := advance_eq s i p false
    rw [e]
    exact ⟨rfl, .inl rfl, under_way⟩
  cases head : p.headHere with
  | false => exact ⟨_, s, forwardOne_waits (.inl head), .refl s, waits⟩
  | true =>
    cases hop : s.nextHop p with
    | none =>
      refine ⟨_, _, forwardOne_sinks hop head, portsOnly_took s _ _, ?_⟩
      obtain ⟨w, n, e⟩ := advance_eq s i { p with sunk := p.sunk + 1 } true
      rw [State.sink, e]
      split_ifs with whole
      · exact ⟨rfl, .inl rfl, fun _ => ⟨hop, whole⟩⟩
      · exact ⟨rfl, .inl rfl, under_way⟩
    | some q =>
      cases free : s.mayEnter i p (buffer p.pos q) with
      | false => exact ⟨_, s, forwardOne_waits (.inr ⟨q, hop, free⟩), .refl s, waits⟩
      | true =>
        obtain ⟨w, n, e⟩ := advance_eq s i p true
        refine ⟨_, _, forwardOne_goes hop head free, .trans ⟨_, _, _, rfl⟩ (portsOnly_took s.spend _ _), ?_⟩
        unfold State.hop
        rw [e]
        exact ⟨rfl, .inr hop, under_way⟩

section
variable (net : s.net[i]? = some p) (way : p.arrived = false) (one : p.mcast = false)
include net way one

theorem packetForward_drops (bad : s.badDest p.pos p.dest.toNat = true) : Does (.packetForward i) s fun t =>
    t.net = s.net.eraseIdx i ∧ t.flag (Reg.routerStat (routerAt p.pos)) 31 = true ∧
      t.field (Reg.routerStat (routerAt p.pos)) 0 16 = p.dest.toNat ∧
      t.recov.notices = s.recov.notices ++ [.badDest (routerAt p.pos) p.dest.toNat] ∧
      Frame (· = Reg.routerStat (routerAt p.pos)) Nothing Nothing Nothing s t := by
  have run := exec_packetForward net
  rw [way, one, bad, if_neg (by decide), if_pos (by decide)] at run
  refine ⟨_, run, net_dropPacket s i, ?_, ?_, rfl, ?_⟩
  · rw [State.flag_congr (State.reg_note _ _ _), State.flag_setField_other _ _ 0 16 _ (by decide) (by decide)]
    exact State.flag_setBit _ _ 31 (by decide)
  · rw [State.field_congr (State.reg_note _ _ _), State.field_setField _ _ 0 16 _ (by decide)]
    exact Nat.mod_eq_of_lt p.dest.isLt
  · have dropped : Frame (· = Reg.routerStat (routerAt p.pos)) Nothing Nothing Nothing s (s.dropPacket i) := frame_dropPacket s i
    exact ((dropped.trans (frame_setBit _ _ 31 rfl)).trans (frame_setField _ _ 0 16 _ rfl)).trans (frame_note _ _)

variable (good : s.badDest p.pos p.dest.toNat = false)
include good

theorem packetForward_behind (behind : s.overtakes i p = true) : Does (.packetForward i) s fun t => t = s :=
  ⟨s, by rw [exec_packetForward net, way, one, good, behind]; rfl, rfl⟩

variable (first : s.overtakes i p = false)
include first

theorem exec_packetForward_one : exec (.packetForward i) s = .next (s.forwardOne i (s.entered p)) := by
  rw [exec_packetForward net, way, one, good, first]
  rfl

theorem packetForward_moves : Does (.packetForward i) s fun t => ∃ q : Packet, t.net = s.net.set i q ∧
    q = { p with pos := q.pos, way := q.way, sent := q.sent, sunk := q.sunk, arrived := q.arrived } ∧
    (q.pos = p.pos ∨ s.nextHop p = some q.pos) ∧ (q.arrived = true → s.nextHop p = none ∧ q.sunk = p.size) ∧
    t.recov = s.recov ∧ t.mem = s.mem ∧ t.hands = s.hands ∧ t.cores = s.cores ∧ t.inbox = s.inbox ∧ ∀ a, t.reg a = s.reg a := by
  have entered : (s.entered p).arrived = false := by
    obtain ⟨w, n, e⟩ := entered_eq s p
    rw [e, ← way]
  obtain ⟨q, t, run, ⟨l, v, f, rfl⟩, hopped⟩ := forwardOne_hops s i (s.entered p) entered
  obtain ⟨same, pos, whole⟩ := hopped.of_entered
  refine ⟨_, exec_packetForward_one net way one good first, q, ?_⟩
  rw [run]
  exact ⟨rfl, same, pos, whole, rfl, rfl, rfl, rfl, rfl, State.reg_congr rfl⟩

/-- The moves of a packet of one flit: it sinks at its destination, takes the next hop where it has a credit, or waits. -/
theorem packetForward_alone {l : Nat} (a : p.AloneIn l) (none_sunk : p.sunk = 0) :
    (s.nextHop p = none → Does (.packetForward i) s fun t => t.net = s.net.set i { p with way := [], sunk := 1, arrived := true }) ∧
    (∀ q, s.nextHop p = some q →
      (s.mayEnter i p (buffer p.pos q) = true → Does (.packetForward i) s fun t =>
        t.net = s.net.set i { p with pos := q, way := [(buffer p.pos q, 1)] }) ∧
      (s.mayEnter i p (buffer p.pos q) = false → Does (.packetForward i) s fun t => t = s)) := by
  have run := exec_packetForward_one net way one good first
  have head := headHere_alone a
  rw [entered_alone a] at run
  refine ⟨fun hop => ?_, fun q hop => ⟨fun free => ?_, fun full => ?_⟩⟩
  · have out : s.sink i p = { p with way := [], sunk := 1 } := by
      rw [State.sink, none_sunk, advance_alone_out (a.sink 1 p.split)]
    have whole : (s.sink i p).sunk = (s.sink i p).size := by
      rw [out]
      exact a.size.symm
    rw [forwardOne_sinks hop head, if_pos whole, out] at run
    exact ⟨_, run, congrArg (List.set · i _) (portsOnly_took s _ _).net⟩
  · have out : s.hop i p q = { p with pos := q, way := [(buffer p.pos q, 1)] } := by rw [State.hop, advance_alone_out a]
    rw [forwardOne_goes hop head free, out] at run
    exact ⟨_, run, congrArg (List.set · i _) (portsOnly_took s.spend _ _).net⟩
  · rw [forwardOne_waits (.inr ⟨q, hop, full⟩), advance_alone_stays a, setPacket_self net] at run
    exact ⟨s, run, rfl⟩

end

/-! ## A multicast packet (R357 to R359) -/

/-- What pruning does to the fabric: notices of pruned hands are sent on the control channel. HBM and the messages gathered are
as they were. -/
structure Pruned (s t : State) : Prop where
  net : ∃ extra : List Packet, t.net = s.net ++ extra ∧
    ∀ q ∈ extra, q.vc = 3 ∧ q.mcast = false ∧ ∃ g tag hs, q.msg = .prune g tag hs
  mem : t.mem = s.mem
  inbox : t.inbox = s.inbox

theorem Pruned.refl (s : State) : Pruned s s := ⟨⟨[], by simp⟩, rfl, rfl⟩

theorem Pruned.trans (a : Pruned s t) (b : Pruned t u) : Pruned s u := by
  obtain ⟨⟨x, netx, x3⟩, memx, inboxx⟩ := a
  obtain ⟨⟨y, nety, y3⟩, memy, inboxy⟩ := b
  refine ⟨⟨x ++ y, by rw [nety, netx, List.append_assoc], fun q m => ?_⟩, memy.trans memx, inboxy.trans inboxx⟩
  exact (List.mem_append.1 m).elim (x3 q) (y3 q)

theorem pruned_foldl {α : Type} {f : State → α → State} (step : ∀ s x, Pruned s (f s x)) (l : List α) (s : State) :
    Pruned s (l.foldl f s) := by
  induction l generalizing s with
  | nil => exact .refl s
  | cons x l ih => exact (step s x).trans (ih _)

theorem pruned_pruneNotice (s : State) (p : Packet) (src router : Nat) (hands : List Nat) :
    Pruned s (s.pruneNotice p src router hands) := by
  unfold State.pruneNotice
  split_ifs
  · exact ⟨⟨_, rfl, fun q m => by rw [List.mem_singleton.1 m]; exact ⟨rfl, rfl, _, _, _, rfl⟩⟩, rfl, rfl⟩
  · exact .refl s

theorem pruned_pruneAll (s : State) (p : Packet) : Pruned s (s.pruneAll p) := by
  unfold State.pruneAll
  dsimp only
  refine Pruned.trans ?_ (pruned_foldl (fun s b => pruned_pruneNotice s p _ _ _) _ _)
  split_ifs
  · have flagged : Pruned s (s.setBit (Reg.routerStat p.pos) 30) := ⟨⟨[], by simp [State.setBit_eq]⟩, rfl, rfl⟩
    exact flagged.trans (pruned_pruneNotice _ p _ _ _)
  · exact .refl s

theorem mcastCopies_of_branch {n : Nat} {b : Nat × Nat} (m : b ∈ s.branches p) :
    ∃ q ∈ s.mcastCopies p n, q.pos = b.1 ∧ q.mask = BitVec.ofNat 64 b.2 ∧ q.msg = p.msg :=
  ⟨_, List.mem_append_left _ (List.mem_map_of_mem m), rfl, rfl, rfl⟩

/-- Only a hand that the mask names, and that is not fenced, is given copies for its units. -/
theorem mcastCopies_of_unit {n : Nat} {q : Packet} (mcast : p.mcast = true) (m : q ∈ s.mcastCopies p n) (unit : q.mcast = false) :
    p.hits = true ∧ s.fenced p.pos = false := by
  rcases List.mem_append.1 m with branch | here
  · obtain ⟨b, -, rfl⟩ := List.mem_map.1 branch
    exact absurd (mcast.symm.trans unit) (by decide)
  · split_ifs at here with named
    · simpa using named
    · exact absurd here List.not_mem_nil

/-- Every branch may take the packet's flit, and the copies are made (R358). -/
theorem forwardMulti_replicates {l : Nat} (a : p.AloneIn l) (whole : p.split = 0) (none_sunk : p.sunk = 0)
    (free : ∀ b ∈ s.branches p, s.mayEnter i p (buffer p.pos b.1) = true) : ∃ n t, PortsOnly s t ∧ s.forwardMulti i p =
      State.pruneAll { t with net := s.net.take i ++ s.mcastCopies p n ++ s.net.drop (i + 1) } p := by
  have takes : ((s.branches p).map fun b => buffer p.pos b.1).all (s.mayEnter i p) = true := by simpa using free
  unfold State.forwardMulti
  extract_lets n ls p1 me kids s1
  have asked : ls = (s.branches p).map fun b => buffer p.pos b.1 := if_pos whole
  have gone : me = [] := by
    have out : p1 = _ := advance_alone_out (a.sink _ _) s i
    have done : p1.sunk = p1.size := by
      rw [out]
      exact (congrArg (· + 1) none_sunk).trans a.size.symm
    exact if_pos done
  have ports : PortsOnly s s1 := (portsOnly_took s p p1).trans (portsOnly_foldl (fun s k => portsOnly_took s _ k) kids _)
  refine ⟨n, s1, ports, ?_⟩
  rw [asked, takes, headHere_alone a, gone, if_neg (by decide), if_pos whole, List.append_nil]

theorem forwardMulti_waits (whole : p.split = 0) (full : ∃ b ∈ s.branches p, s.mayEnter i p (buffer p.pos b.1) = false) :
    s.forwardMulti i p = s.setPacket i (s.advance i p false) := by
  have blocked : ((s.branches p).map fun b => buffer p.pos b.1).all (s.mayEnter i p) = false := by simpa using full
  unfold State.forwardMulti
  extract_lets n ls p1 me kids s1
  have asked : ls = (s.branches p).map fun b => buffer p.pos b.1 := if_pos whole
  rw [asked, blocked, if_pos (by simp)]

section
variable (net : s.net[i]? = some p) (way : p.arrived = false) (mcast : p.mcast = true) (first : s.overtakes i p = false)
variable {l : Nat} (a : p.AloneIn l)
include net way mcast first a

theorem exec_packetForward_multi : exec (.packetForward i) s = .next (s.forwardMulti i p) := by
  rw [exec_packetForward net, way, mcast, first, entered_alone a]
  rfl

theorem packetForward_replicates (whole : p.split = 0) (none_sunk : p.sunk = 0)
    (free : ∀ b ∈ s.branches p, s.mayEnter i p (buffer p.pos b.1) = true) : Does (.packetForward i) s fun t =>
      ∃ (n : Nat) (extra : List Packet), t.net = s.net.take i ++ s.mcastCopies p n ++ s.net.drop (i + 1) ++ extra ∧
        (∀ q ∈ s.mcastCopies p n, q.mcast = false → p.hits = true ∧ s.fenced p.pos = false) ∧
        (∀ b ∈ s.branches p, ∃ q ∈ s.mcastCopies p n, q.pos = b.1 ∧ q.mask = BitVec.ofNat 64 b.2 ∧ q.msg = p.msg) ∧
        (∀ q ∈ extra, q.vc = 3 ∧ q.mcast = false ∧ ∃ g tag hs, q.msg = .prune g tag hs) ∧ t.mem = s.mem ∧ t.inbox = s.inbox := by
  obtain ⟨n, t, ⟨l, v, f, rfl⟩, e⟩ := forwardMulti_replicates a whole none_sunk free
  refine ⟨_, exec_packetForward_multi net way mcast first a, n, ?_⟩
  rw [e]
  obtain ⟨⟨extra, sent, control⟩, mem, inbox⟩ := pruned_pruneAll _ p
  exact ⟨extra, sent, fun q => mcastCopies_of_unit mcast, fun b => mcastCopies_of_branch, control, mem, inbox⟩

theorem packetForward_waits (whole : p.split = 0) (full : ∃ b ∈ s.branches p, s.mayEnter i p (buffer p.pos b.1) = false) :
    Does (.packetForward i) s fun t => t = s :=
  ⟨s, by rw [exec_packetForward_multi net way mcast first a, forwardMulti_waits whole full, advance_alone_stays a,
    setPacket_self net], rfl⟩

end

/-! ## Delivery (R60, R77, R232, R356) -/

/-- A message's packet adds its bytes to those of the message not yet whole of its source and MSGID, or begins it. -/
theorem receiveData_gathers (s : State) (dest src id len off n : Nat) (bytes : List Byte) :
    let old := s.inbox.find? fun m => m.dest == dest && m.src == src && m.id == id && !m.done
    ∃ y ∈ (s.receiveData dest src id len off n bytes).inbox, y.dest = dest ∧ y.src = src ∧ y.id = id ∧
      y.got = (match old with | none => 0 | some x => x.got) + n ∧ y.len = (match old with | none => len | some x => x.len) ∧
      y.done = (y.got == y.len) := by
  intro old
  unfold State.receiveData
  dsimp only
  refine ⟨_, List.mem_append_right _ (List.mem_singleton_self _), ?_⟩
  generalize e : old = o
  rw [show s.inbox.find? _ = o from e]
  cases o with
  | none => exact ⟨rfl, rfl, rfl, rfl, rfl, rfl⟩
  | some x =>
    obtain ⟨⟨⟨dest, src⟩, id⟩, -⟩ : ((x.dest = _ ∧ x.src = _) ∧ x.id = _) ∧ _ := by simpa using List.find?_some e
    exact ⟨dest, src, id, rfl, rfl, rfl⟩

theorem ackProducer_core {k e : Nat} (core : epToCore e = some k) (s : State) :
    s.ackProducer e = s.setQueue 5 k (ackFirst (s.queue 5 k)) := by
  unfold epToCore at core
  unfold State.ackProducer
  cases hand : epToHand e with
  | none => simp [hand] at core
  | some h =>
    rw [hand] at core
    dsimp only at core ⊢
    split_ifs at core with unit
    cases core
    exact if_pos unit

section
variable (net : s.net[i]? = some p) (done : p.arrived = true)
include net done

theorem packetReceive_data {id len off : Nat} {bytes : List Byte} (msg : p.msg = .data id len off bytes) :
    Does (.packetReceive i) s fun t =>
      let old := s.inbox.find? fun m => m.dest == p.dest.toNat && m.src == p.src.toNat && m.id == id && !m.done
      t.net = s.net.eraseIdx i ∧ (∃ y ∈ t.inbox, y.dest = p.dest.toNat ∧ y.src = p.src.toNat ∧ y.id = id ∧
        y.got = (match old with | none => 0 | some x => x.got) + p.paylen ∧
        y.len = (match old with | none => len | some x => x.len) ∧ y.done = (y.got == y.len)) ∧ t.mem = s.mem ∧ t.recov = s.recov ∧
        ∀ a, t.reg a = s.reg a := by
  have run : exec (.packetReceive i) s =
      .next ((s.dropPacket i).receiveData p.dest.toNat p.src.toNat id len off p.paylen bytes) := by
    show execPacketReceive i s = _
    simp only [execPacketReceive, net, done, msg, Bool.not_true, Bool.false_eq_true, if_false]
  exact ⟨_, run, net_dropPacket s i, receiveData_gathers (s.dropPacket i) _ _ id len off p.paylen bytes, rfl, rfl,
    State.reg_congr rfl⟩

theorem packetReceive_tileAck {k : Nat} (msg : p.msg = .tileAck) (core : epToCore p.dest.toNat = some k) :
    Does (.packetReceive i) s fun t => t.net = s.net.eraseIdx i ∧ t.queue 5 k = ackFirst (s.queue 5 k) ∧ t.recov = s.recov ∧
      Frame Nothing Nothing (· = k) Nothing s t := by
  have run : exec (.packetReceive i) s = .next ((s.dropPacket i).setQueue 5 k (ackFirst (s.queue 5 k))) := by
    show execPacketReceive i s = _
    simp only [execPacketReceive, net, done, msg, Bool.not_true, Bool.false_eq_true, if_false, ackProducer_core core]
    rfl
  obtain ⟨fabric, recov, -⟩ := quiet_setQueue (s.dropPacket i) 5 k (ackFirst (s.queue 5 k))
  exact ⟨_, run, fabric.trans (net_dropPacket s i), queue_setQueue_same _ (by decide) (by decide) k _, recov,
    (frame_dropPacket s i).trans (frame_setQueue _ 5 k _ (by omega) (fun _ _ => rfl) (by omega))⟩

theorem packetReceive_p8ack {core h : Nat} (msg : p.msg = .p8ack core) (hand : epToHand p.dest.toNat = some h) :
    Does (.packetReceive i) s fun t => t.net = s.net.eraseIdx i ∧
      (t.hand h).waitAck = (s.hand h).waitAck.erase p.src.toNat ∧ t.recov = s.recov ∧ Frame Nothing (· = h) Nothing Nothing s t := by
  have run : exec (.packetReceive i) s =
      .next ((s.dropPacket i).setHand h { s.hand h with waitAck := (s.hand h).waitAck.erase p.src.toNat }) := by
    show execPacketReceive i s = _
    simp only [execPacketReceive, net, done, msg, Bool.not_true, Bool.false_eq_true, if_false, hand]
    rfl
  exact ⟨_, run, net_dropPacket s i, by rw [State.hand_setHand, if_pos rfl], rfl,
    (frame_dropPacket s i).trans (frame_setHand _ h _ rfl)⟩

theorem packetReceive_token {kind rank col tag h : Nat} (msg : p.msg = .token kind rank col tag)
    (hand : epToHand p.dest.toNat = some h) : Does (.packetReceive i) s fun t => t.net = s.net.eraseIdx i ∧
      (t.hand h).tokens = (s.hand h).tokens ++ [(kind * 16 + rank, col, tag)] ∧ t.recov = s.recov ∧
      Frame Nothing (· = h) Nothing Nothing s t := by
  have run : exec (.packetReceive i) s =
      .next ((s.dropPacket i).setHand h { s.hand h with tokens := (s.hand h).tokens ++ [(kind * 16 + rank, col, tag)] }) := by
    show execPacketReceive i s = _
    simp only [execPacketReceive, net, done, msg, Bool.not_true, Bool.false_eq_true, if_false, hand]
    rfl
  exact ⟨_, run, net_dropPacket s i, by rw [State.hand_setHand, if_pos rfl], rfl,
    (frame_dropPacket s i).trans (frame_setHand _ h _ rfl)⟩

end

/-- Settles O44: a unicast packet is dropped, waits its turn, or moves on; a multicast one is replicated or waits; an arrived one
is received by the message it carries. -/
theorem packetsMoveAndArrive : Obligations.PacketsMoveAndArrive := by
  intro i s p net
  refine ⟨fun way one => ⟨packetForward_drops net way one, packetForward_behind net way one, fun good first =>
    ⟨packetForward_moves net way one good first, ?_, nextHop_xy s p⟩⟩, ?_, fun done => ⟨packetForward_arrived net done,
      fun _ _ _ _ => packetReceive_data net done, fun _ => packetReceive_tileAck net done,
      fun _ _ => packetReceive_p8ack net done, fun _ _ _ _ _ => packetReceive_token net done⟩⟩
  · intro l size sent sunk held here
    exact packetForward_alone net way one good first ⟨size, sent, held, here⟩ sunk
  · intro l way mcast first size sent sunk split held here
    have alone : p.AloneIn l := ⟨size, sent, held, here⟩
    exact ⟨packetForward_replicates net way mcast first alone split sunk, packetForward_waits net way mcast first alone split⟩

end Sys2Proof
end

section
/-! PROOFS. What leaves the constable's store alone: stops and the Bell, writes to HBM and to trace rings, failing collectives, the
fences and folds of R360, and the start of a job (R63 to R65, R388, R444, R561). -/

namespace Sys2Proof

open Machine

variable {R H C M : Nat → Prop} {s t u : State}

/-! ## Stops and the Bell (R54, R70, R303, R432, R444) -/

theorem Frame.sec (a : Frame R H C M s t) : t.sec = s.sec := by simp [a.rest]

theorem MemFrame.sec (a : MemFrame R H C M s t) : t.sec = s.sec := by simp [a.rest]

/-- Steps of a list that each leave the constable's store alone. -/
theorem sec_foldl {α : Type} (f : State → α → State) (h : ∀ s x, (f s x).sec = s.sec) (l : List α) (s : State) :
    (l.foldl f s).sec = s.sec := by
  induction l generalizing s with
  | nil => rfl
  | cons x l ih => exact (ih _).trans (h s x)

@[simp] theorem sec_syncMode (s : State) : s.syncMode.sec = s.sec := by
  unfold State.syncMode
  split_ifs <;> rfl

@[simp] theorem sec_ring (s : State) (scope suit hand source : Nat) : (s.ring scope suit hand source).sec = s.sec := by
  unfold State.ring
  dsimp only
  split_ifs
  · rfl
  · exact sec_syncMode _

@[simp] theorem sec_reeveStop (s : State) : s.reeveStop.sec = s.sec := sec_ring s 0 0 0 7

@[simp] theorem sec_haltStation (s : State) (st v : Nat) : (s.haltStation st v).sec = s.sec := by
  unfold State.haltStation
  split_ifs <;> rfl

@[simp] theorem sec_traceHand (s : State) (h : Nat) (x : Trace) : (s.traceHand h x).sec = s.sec := by
  unfold State.traceHand
  dsimp only
  split_ifs <;> rfl

theorem sec_escalate (s : State) (st v tid kind : Nat) (again : Bool) (serial : Nat) :
    (s.escalate st v tid kind again serial).sec = s.sec :=
  (sec_traceHand _ _ _).trans (sec_haltStation s st v)

theorem sec_pageFault (s : State) (st v va kind : Nat) (pcopy : Bool) (serial : Nat) :
    (s.pageFault st v va kind pcopy serial).sec = s.sec := by
  unfold State.pageFault
  dsimp only
  split_ifs <;> simp [State.setBit, State.setField, State.setReg64]

theorem sec_refuse (s : State) (st v : Nat) (f : Refuse) (tid serial : Nat) : (s.refuse st v f tid serial).sec = s.sec := by
  cases f with
  | fault a k p => exact sec_pageFault s st v a k p serial
  | poison => exact sec_escalate s st v tid 3 false serial

theorem sec_badRecord (s : State) (h va : Nat) : (s.badRecord h va).sec = s.sec :=
  (sec_reeveStop _).trans (sec_haltStation s 9 h)

/-! ## Writes to HBM and trace rings -/

theorem sec_vwrite {unit tid va n v : Nat} (e : s.vwrite unit tid va n v = some t) : t.sec = s.sec := by
  unfold State.vwrite at e
  split at e
  · obtain rfl := Option.some.inj e
    exact (memFrame_storeVa (R := Nothing) (H := Nothing) (C := Nothing) (M := Nothing) s unit tid va _ _ n v).sec
  · cases e

theorem sec_writeTile {unit tid hva pva : Nat} {x : Tile} (e : s.writeTile unit tid hva pva x = .ok t) : t.sec = s.sec := by
  unfold State.writeTile at e
  split at e
  · cases e
  · split at e
    · cases e
    · next header =>
      split at e
      · cases e
      · next payload =>
        obtain rfl := Except.ok.inj e
        exact (sec_vwrite payload).trans (sec_vwrite header)

@[simp] theorem sec_setRing (s : State) (v : Nat) (l : List (BitVec 256)) : (s.setRing v l).sec = s.sec := by
  unfold State.setRing
  split_ifs <;> rfl

@[simp] theorem sec_loseTrace (s : State) (v n : Nat) : (s.loseTrace v n).sec = s.sec := by
  unfold State.loseTrace
  split_ifs <;> rfl

@[simp] theorem sec_loseDrain (s : State) (v : Nat) (out : List (BitVec 256)) : (s.loseDrain v out).sec = s.sec := by
  unfold State.loseDrain
  split
  · exact sec_loseTrace s v _
  · dsimp only
    split_ifs <;> exact sec_setRing s v _

theorem sec_drainWrite (s : State) (v : Nat) : (s.drainWrite v).sec = s.sec := by
  have taken := sec_setRing s v ((s.ringOf v).drop 32)
  unfold State.drainWrite
  dsimp only
  split_ifs
  · exact (sec_loseTrace _ v _).trans taken
  · exact (sec_loseTrace _ v _).trans taken
  all_goals
    split
    · exact (sec_loseDrain _ v _).trans taken
    · next w1 =>
      have written := (sec_vwrite w1).trans taken
      split
      · exact written
      · next w2 => exact (sec_vwrite w2).trans written

theorem sec_drainAll (n : Nat) (s : State) (v : Nat) : (State.drainAll n s v).sec = s.sec := by
  induction n generalizing s with
  | zero => rfl
  | succ n ih =>
    unfold State.drainAll
    split_ifs
    · rfl
    · exact (ih _).trans (sec_drainWrite s v)

theorem sec_flushRing (s : State) (v : Nat) : (s.flushRing v).sec = s.sec := sec_drainAll 80 s v

theorem sec_jobDone (s : State) : s.jobDone.sec = s.sec := by
  unfold State.jobDone
  split_ifs
  · rw [State.setBit_eq, State.setReg_sec, sec_foldl _ sec_flushRing]
  · rfl

/-! ## Collectives that a fence or a fold ends (R388) -/

theorem sec_giveSlots (s : State) (d : BitVec 2048) (n : Nat) : (s.giveSlots d n).sec = s.sec := by
  unfold State.giveSlots
  exact sec_foldl _ (fun s b => State.setReg_sec s ..) _ s

theorem sec_postDealer (s : State) (l : List Nat) (code ep detail : Nat) : (s.postDealer l code ep detail).sec = s.sec := by
  refine sec_foldl _ (fun s a => ?_) l s
  rfl

theorem sec_writeCompl (s : State) (c : Coll) (status h : Nat) : (s.writeCompl c status h).sec = s.sec := by
  unfold State.writeCompl
  dsimp only
  split_ifs
  · rfl
  · split
    · next written => exact sec_writeTile written
    · exact sec_refuse ..

theorem sec_collMalformed (s : State) (c : Coll) : (s.collMalformed c).sec = s.sec :=
  sec_foldl _ (fun s _ => sec_badRecord s _ _) _ _

theorem sec_collFail (s : State) (c : Coll) : (s.collFail c).sec = s.sec := by
  unfold State.collFail
  dsimp only
  rw [sec_foldl _ (fun s h => sec_writeCompl s c 2 h), sec_foldl _ (fun s h => sec_postDealer s ..)]
  split_ifs
  · rfl
  · exact sec_giveSlots ..

theorem sec_collFilled (s : State) (c : Coll) : (s.collFilled c).sec = s.sec := by
  unfold State.collFilled
  split_ifs
  · rfl
  · rfl
  · exact sec_collMalformed _ c

theorem sec_failFenced (s : State) : s.failFenced.sec = s.sec := by
  refine sec_foldl _ (fun s c => ?_) _ s
  split_ifs
  · exact sec_collFail s c
  · exact sec_collFilled s c

/-! ## Fences and folds (R360) -/

theorem sec_copyTables (s : State) (i : Nat) : (s.copyTables i).sec = s.sec := by
  by_cases ready : s.flag (Reg.fabCtl i) 31 = true ∧ s.drained i = true
  · obtain ⟨r, g, e⟩ := applied_eq s i
    rw [copyTables_eq ready.1 ready.2, sec_failFenced, State.clearBit_eq, State.setReg_sec, e]
  · unfold State.copyTables
    rw [if_neg (by simpa using ready)]

theorem sec_applyBit (s : State) (a i n : Nat) (on : Bool) : (s.applyBit a i n on).sec = s.sec := sec_copyTables _ i

@[simp] theorem sec_setFold (s : State) (i : Nat) (on : Bool) : (s.setFold i on).sec = s.sec :=
  sec_foldl _ (fun s _ => sec_applyBit s ..) _ s

/-! ## The start of a job (R63 to R65) -/

theorem Demand.sec (a : Demand s t) : t.sec = s.sec := by rw [a.2.2.2]

theorem sec_seenRoot (s : State) (va : Nat) : (s.seenRoot va).sec = s.sec := by
  have table : ∀ l : List (Nat × Nat), (l.foldl (fun (s : State) x => s.seen 658 0 x.1 x.2) s).sec = s.sec := by
    refine fun l => sec_foldl _ (fun s x => ?_) l s
    exact (demand_seen s 658 0 x.1 x.2).sec
  unfold State.seenRoot
  dsimp only
  split
  · exact table _
  · exact (demand_seen _ _ _ _ _).sec.trans (table _)

theorem sec_setGranMode (s : State) (i m : Nat) : (s.setGranMode i m).sec = s.sec := by
  unfold State.setGranMode
  dsimp only
  split_ifs <;> split <;> rfl

theorem sec_startJob (s : State) (j : Job) (deal : Nat) : (s.startJob j deal).sec = s.sec := by
  unfold State.startJob
  dsimp only
  rw [sec_syncMode, sec_jobDone, State.setReg_sec]
  exact sec_foldl _ (fun s i => sec_setGranMode s i 0) _ _

end Sys2Proof
end

section
/-! PROOFS. The constable: the checks of a critical command in their order, and that nothing that a command does touches the counter
it has used (R486, R503 to R509). -/

namespace Sys2Proof

open Machine

variable {s t u : State}

/-! ## No command touches the counter (R505) -/

/-- A command's action leaves LASTCTR as it was. -/
def KeepsCounter (act : State → State × Nat) : Prop := ∀ s, (act s).1.sec.lastCtr = s.sec.lastCtr

/-- The projections go into the branches before the branches are compared: else the kernel evaluates the 8,192 bytes erased. -/
theorem fwBegin_keepsCounter (b : List Byte) : KeepsCounter fun s => s.fwBegin b := by
  intro s
  simp only [State.fwBegin, apply_ite Prod.fst, apply_ite State.sec, apply_ite Sec.lastCtr, ite_self]

theorem fwChunk_keepsCounter (b : List Byte) : KeepsCounter fun s => s.fwChunk b := by
  intro s
  dsimp only [State.fwChunk]
  split
  · rfl
  · split_ifs <;> rfl

/-- LASTCTR is a cell that survives a restart (R497). -/
theorem lastCtr_restart (s : State) : s.restart.sec.lastCtr = s.sec.lastCtr := by
  unfold State.restart
  rw [sec_syncMode]
  rfl

theorem fwCommit_keepsCounter : KeepsCounter State.fwCommit := by
  intro s
  dsimp only [State.fwCommit]
  split
  · rfl
  · split_ifs
    · exact lastCtr_restart _
    · rfl
    · rfl

theorem eraseKeys_keepsCounter : KeepsCounter fun s => (s.eraseKeys, 0) := fun _ => rfl

theorem policySet_keepsCounter (f : CmdFrame) : KeepsCounter fun s => s.policySet f := by
  intro s
  dsimp only [State.policySet]
  split_ifs <;> rfl

theorem fenceCmd_keepsCounter (b : List Byte) : KeepsCounter fun s => s.fenceCmd b := by
  intro s
  dsimp only [State.fenceCmd]
  split
  · rfl
  · split_ifs <;> rfl
  · split_ifs
    · rfl
    · simp

theorem unfenceCmd_keepsCounter (b : List Byte) : KeepsCounter fun s => s.unfenceCmd b := by
  intro s
  dsimp only [State.unfenceCmd]
  split
  · rfl
  · split_ifs <;> rfl
  · split_ifs
    · simp
    · rfl

theorem powerLimit_keepsCounter (b : List Byte) : KeepsCounter fun s => s.powerLimit b := by
  intro s
  dsimp only [State.powerLimit]
  split_ifs <;> rfl

theorem jobStart_keepsCounter (b : List Byte) : KeepsCounter fun s => s.jobStart b := by
  intro s
  dsimp only [State.jobStart]
  split
  · rfl
  · simp only [sec_startJob, sec_seenRoot]

theorem jobStop_keepsCounter (b : List Byte) : KeepsCounter fun s => s.jobStop b := by
  intro s
  dsimp only [State.jobStop]
  split
  · exact congrArg Sec.lastCtr (sec_ring s 0 0 0 2)
  · rfl
  · rfl

/-! ## Answers (R505, R506) -/

/-- An answer changes MANOR.MGMT.STAT and the response alone. -/
theorem frame_answer (s : State) (code ctr status : Nat) :
    Frame (· = Reg.mgmtStat) Nothing Nothing Nothing s (s.answer code ctr status) := by
  unfold State.answer
  dsimp only
  split_ifs
  · exact frame_rsp s _
  · exact (frame_setBit (R := (· = Reg.mgmtStat)) s _ 26 rfl).trans (frame_rsp _ _)

theorem answer_rsp (s : State) (code ctr status : Nat) : ∃ tag, (s.answer code ctr status).rsp = .command code ctr status tag :=
  ⟨_, rfl⟩

/-- A refusal sets REJECT (R505). -/
theorem answer_rejects (s : State) (code ctr : Nat) {status : Nat} (refusal : 2 ≤ status) :
    (s.answer code ctr status).flag Reg.mgmtStat 26 = true := by
  unfold State.answer
  dsimp only
  rw [if_neg (by omega)]
  exact State.flag_setBit s Reg.mgmtStat 26 (by decide)

/-- State `u` differs from `s` in the constable's store and in recovery's part alone, where fault records are under way, and the
store holds the same LASTCTR and command key. -/
structure Noted (s u : State) : Prop where
  lastCtr : u.sec.lastCtr = s.sec.lastCtr
  cmdKey : u.sec.cmdKey = s.sec.cmdKey
  same : u = { s with sec := u.sec, recov := u.recov }

/-- A frame is refused with a status: REJECT is set, and beside it the command key, the counter, the memories, the job and every register
stay as they were (R505). -/
def Rejected (s : State) (code ctr status : Nat) (t : State) : Prop :=
  (∃ tag, t.rsp = .command code ctr status tag) ∧ t.flag Reg.mgmtStat 26 = true ∧ t.sec.lastCtr = s.sec.lastCtr ∧
    t.sec.cmdKey = s.sec.cmdKey ∧ t.mem = s.mem ∧ t.ddr = s.ddr ∧ t.flash = s.flash ∧ t.job = s.job ∧ t.gov = s.gov ∧
    t.staged = s.staged ∧ ∀ a, a ≠ Reg.mgmtStat → t.reg a = s.reg a

theorem Noted.trans (a : Noted s u) (b : Noted u t) : Noted s t :=
  ⟨b.lastCtr.trans a.lastCtr, b.cmdKey.trans a.cmdKey, by rw [b.same, a.same]⟩

theorem Noted.rejected (n : Noted s u) (code ctr : Nat) {status : Nat} (refusal : 2 ≤ status) :
    Rejected s code ctr status (u.answer code ctr status) := by
  have f := frame_answer u code ctr status
  have parts : u.mem = s.mem ∧ u.ddr = s.ddr ∧ u.flash = s.flash ∧ u.job = s.job ∧ u.gov = s.gov ∧ u.staged = s.staged ∧
      u.regs = s.regs := by
    rw [n.same]
    exact ⟨rfl, rfl, rfl, rfl, rfl, rfl, rfl⟩
  obtain ⟨mem, ddr, flash, job, gov, staged, regs⟩ := parts
  refine ⟨answer_rsp .., answer_rejects u code ctr refusal, ?_, ?_, f.mem.trans mem, f.ddr.trans ddr, f.flash.trans flash, ?_, ?_, ?_,
    fun a other => (f.reg a other).trans (State.reg_congr regs a)⟩
  · rw [f.sec, n.lastCtr]
  · rw [f.sec, n.cmdKey]
  · simp [f.rest, job]
  · simp [f.rest, gov]
  · simp [f.rest, staged]

/-! ## The alarm of the tag-failure rule (R506, R516) -/

/-- An alarm of level 1 is noted and reported, and nothing acts on it. -/
theorem noted_alarm_info (s : State) (sensor value : Nat) :
    Noted s (s.alarm sensor 1 value) ∧ (s.alarm sensor 1 value).sec.tagFail = s.sec.tagFail := by
  by_cases held : s.sec.holds sensor 1 = true
  · rw [show s.alarm sensor 1 value = s from if_pos held]
    exact ⟨⟨rfl, rfl, rfl⟩, rfl⟩
  · rw [show s.alarm sensor 1 value = _ from if_neg held]
    exact ⟨⟨rfl, rfl, rfl⟩, rfl⟩

/-- A frame with a wrong tag is refused and counted (R506). -/
theorem badTag_rejected (n : Noted s u) (code ctr : Nat) :
    Rejected s code ctr 0x10 (u.badTag code ctr) ∧ (u.badTag code ctr).sec.tagFail = u.sec.tagFail + 1 := by
  have counted : ∀ limited, Noted s { u with sec := { u.sec with tagFail := u.sec.tagFail + 1, rateLimited := limited } } :=
    fun _ => ⟨n.lastCtr, n.cmdKey, by rw [n.same]⟩
  unfold State.badTag
  dsimp only
  rw [(frame_answer _ _ _ _).sec]
  split_ifs
  · obtain ⟨noted, tagFail⟩ := noted_alarm_info { u with sec := { u.sec with tagFail := u.sec.tagFail + 1, rateLimited := true } } 4 0
    exact ⟨((counted true).trans noted).rejected code ctr (by decide), tagFail⟩
  · exact ⟨(counted u.sec.rateLimited).rejected code ctr (by decide), rfl⟩

/-! ## The checks in their order (R486, R505, R506) -/

/-- A state that forbids a command answers with a refusal (R508). -/
theorem forbids_is_refusal {code st : Nat} (e : s.forbids code = some st) : 2 ≤ st := by
  dsimp only [State.forbids] at e
  split_ifs at e <;> cases e <;> decide

/-- The frame has been examined, at this time (R506). -/
def Machine.State.heard (s : State) : State := { s with sec := { s.sec with lastFrame := some s.clock } }

/-- The frame has passed its tag, which ends the count of failures. -/
def Machine.State.tagged (s : State) : State :=
  { s.heard with sec := { s.heard.sec with tagFail := 0, rateLimited := false } }

/-- The frame has passed its counter, which is used. -/
def Machine.State.used (s : State) (f : CmdFrame) : State :=
  { s.tagged with sec := { s.tagged.sec with lastCtr := f.counter } }

theorem noted_heard (s : State) : Noted s s.heard := ⟨rfl, rfl, rfl⟩
theorem noted_tagged (s : State) : Noted s s.tagged := ⟨rfl, rfl, rfl⟩

section
variable {f : CmdFrame} {code : Nat} {lenOk : Nat → Bool} {act : State → State × Nat}

theorem critical_link_down (down : s.flag Reg.mgmtStat 31 = false) : s.critical f code lenOk act = s := by
  unfold State.critical
  rw [down]
  rfl

variable (up : s.flag Reg.mgmtStat 31 = true)
include up

theorem critical_over_rate (soon : s.overRate = true) : s.critical f code lenOk act = { s with rsp := .dropped } := by
  unfold State.critical
  rw [up, soon]
  rfl

variable (inRate : s.overRate = false)
include inRate

theorem critical_bad_form (bad : ¬ (f.formOk = true ∧ f.body.length ≤ 8196)) :
    s.critical f code lenOk act = s.heard.answer code f.counter.toNat 0x12 := by
  have fails : (!f.formOk) = true ∨ 8196 < f.body.length ∨ (!lenOk f.body.length) = true := by
    by_cases ok : f.formOk = true
    · exact .inr (.inl (by simpa [ok] using bad))
    · exact .inl (by simpa using ok)
  unfold State.critical
  rw [up, inRate]
  exact if_pos fails

variable (form : f.formOk = true ∧ f.body.length ≤ 8196) (len : lenOk f.body.length = true)
include form len

/-- What remains to check of a frame of good form. -/
theorem critical_form_ok : s.critical f code lenOk act =
    if f.target.toNat ≠ moduleTarget then s.heard.answer code f.counter.toNat 0x13
    else
      match s.sec.cmdKey with
      | none => s.heard.answer code f.counter.toNat 0x22
      | some k =>
        if f.tag.toNat ≠ cmdTag k f code then s.heard.badTag code f.counter.toNat
        else if f.counter ≤ s.sec.lastCtr then s.tagged.answer code f.counter.toNat 0x11
        else
          match s.forbids code with
          | some st => (s.used f).answer code f.counter.toNat st
          | none => (act (s.used f)).1.answer code f.counter.toNat (act (s.used f)).2 := by
  have passes : ¬ ((!f.formOk) = true ∨ 8196 < f.body.length ∨ (!lenOk f.body.length) = true) := by
    simpa [form.1, len] using form.2
  unfold State.critical
  rw [up, inRate]
  exact if_neg passes

theorem critical_wrong_target (other : f.target.toNat ≠ moduleTarget) :
    s.critical f code lenOk act = s.heard.answer code f.counter.toNat 0x13 := by
  rw [critical_form_ok up inRate form len, if_pos other]

variable (target : f.target.toNat = moduleTarget)
include target

theorem critical_no_key (key : s.sec.cmdKey = none) :
    s.critical f code lenOk act = s.heard.answer code f.counter.toNat 0x22 := by
  rw [critical_form_ok up inRate form len, if_neg (not_not.2 target), key]

variable {k : BitVec 256} (key : s.sec.cmdKey = some k)
include key

theorem critical_bad_tag (bad : f.tag.toNat ≠ cmdTag k f code) :
    s.critical f code lenOk act = s.heard.badTag code f.counter.toNat := by
  rw [critical_form_ok up inRate form len, if_neg (not_not.2 target), key]
  exact if_pos bad

variable (tag : f.tag.toNat = cmdTag k f code)
include tag

theorem critical_replay (old : f.counter ≤ s.sec.lastCtr) :
    s.critical f code lenOk act = s.tagged.answer code f.counter.toNat 0x11 := by
  rw [critical_form_ok up inRate form len, if_neg (not_not.2 target), key]
  exact (if_neg (not_not.2 tag)).trans (if_pos old)

variable (new : s.sec.lastCtr < f.counter)
include new

theorem critical_forbidden {st : Nat} (forbidden : s.forbids code = some st) :
    s.critical f code lenOk act = (s.used f).answer code f.counter.toNat st := by
  rw [critical_form_ok up inRate form len, if_neg (not_not.2 target), key, forbidden]
  exact (if_neg (not_not.2 tag)).trans (if_neg (BitVec.not_le.2 new))

theorem critical_acts (permitted : s.forbids code = none) :
    s.critical f code lenOk act = (act (s.used f)).1.answer code f.counter.toNat (act (s.used f)).2 := by
  rw [critical_form_ok up inRate form len, if_neg (not_not.2 target), key, permitted]
  exact (if_neg (not_not.2 tag)).trans (if_neg (BitVec.not_le.2 new))

end

/-! ## The ten commands (R507) -/

/-- The command is the critical command of a code, with bodies of the lengths that `lenOk` admits, and its action leaves the counter
alone. -/
def IsCritical (i : Instr) (f : CmdFrame) (code : Nat) (lenOk : Nat → Bool) : Prop :=
  ∃ act, KeepsCounter act ∧ ∀ s, exec i s = .next (s.critical f code lenOk act)

/-- Settles O36: each of the ten commands is `State.critical` with an action that leaves the counter alone, and every check of
`State.critical` decides its own answer. -/
theorem criticalCommandsAreChecked : Obligations.CriticalCommandsAreChecked := by
  intro f s x row
  have critical : IsCritical x.1 f x.2.1 x.2.2 := by
    simp only [List.mem_cons, List.not_mem_nil, or_false] at row
    rcases row with rfl | rfl | rfl | rfl | rfl | rfl | rfl | rfl | rfl | rfl
    exacts [⟨_, fwBegin_keepsCounter f.body, fun _ => rfl⟩, ⟨_, fwChunk_keepsCounter f.body, fun _ => rfl⟩,
      ⟨_, fwCommit_keepsCounter, fun _ => rfl⟩, ⟨_, eraseKeys_keepsCounter, fun _ => rfl⟩,
      ⟨_, policySet_keepsCounter f, fun _ => rfl⟩, ⟨_, fenceCmd_keepsCounter f.body, fun _ => rfl⟩,
      ⟨_, unfenceCmd_keepsCounter f.body, fun _ => rfl⟩, ⟨_, powerLimit_keepsCounter f.body, fun _ => rfl⟩,
      ⟨_, jobStart_keepsCounter f.body, fun _ => rfl⟩, ⟨_, jobStop_keepsCounter f.body, fun _ => rfl⟩]
  obtain ⟨act, keeps, runs⟩ := critical
  have does : ∀ {t : State} {P : State → Prop}, s.critical f x.2.1 x.2.2 act = t → P t → Does x.1 s P :=
    fun e p => ⟨_, (runs s).trans (congrArg _ e), p⟩
  have heard : ∀ {status : Nat}, 2 ≤ status → Rejected s x.2.1 f.counter.toNat status (s.heard.answer x.2.1 f.counter.toNat status) :=
    (noted_heard s).rejected x.2.1 f.counter.toNat
  refine ⟨fun down => ?_, fun up => ⟨fun soon => ?_, fun inRate => ⟨fun bad => ?_, fun form len other => ?_,
    fun form len target => ⟨fun key => ?_, fun k key => ⟨fun bad => ?_, fun tag => ⟨fun old => ?_, fun st new forbidden => ?_,
      fun new permitted => ?_⟩⟩⟩⟩⟩⟩
  · exact does (critical_link_down down) rfl
  · exact does (critical_over_rate up soon) rfl
  · exact does (critical_bad_form up inRate bad) (heard (by decide))
  · exact does (critical_wrong_target up inRate form len other) (heard (by decide))
  · exact does (critical_no_key up inRate form len target key) (heard (by decide))
  · exact does (critical_bad_tag up inRate form len target key bad) (badTag_rejected (noted_heard s) _ _)
  · refine does (critical_replay up inRate form len target key tag old) ⟨(noted_tagged s).rejected _ _ (by decide), ?_⟩
    rw [(frame_answer _ _ _ _).sec]
    rfl
  · have frame := frame_answer (s.used f) x.2.1 f.counter.toNat st
    refine does (critical_forbidden up inRate form len target key tag new forbidden) ⟨⟨?_, answer_rsp ..⟩,
      answer_rejects _ _ _ (forbids_is_refusal forbidden), frame.mem, frame.flash, ?_, ?_⟩
    · rw [frame.sec]
      rfl
    · simp only [frame.rest]
      rfl
    · rw [frame.sec]
      rfl
  · refine does (critical_acts up inRate form len target key tag new permitted) ⟨?_, _, _, rfl, answer_rejects _ _ _⟩
    rw [(frame_answer _ _ _ _).sec]
    exact keeps (s.used f)

end Sys2Proof
end

section
/-! PROOFS. What every command keeps: the queue's rest, the canonical forms, VL within its group, and the constable's monotonic cells (R11,
R174, R497). `Keeps s t` is the relation, and one lemma per operation of the model says that it goes on. -/

namespace Sys2Proof

open Machine

/-- The constable's monotonic cells do not fall from one store to the other; ATT_NEXT may where ATT_GEN rises (R497, R505). -/
structure Machine.Sec.Grows (x y : Sec) : Prop where
  lastCtr : x.lastCtr ≤ y.lastCtr
  pwrLoss : x.pwrLoss ≤ y.pwrLoss
  alarms : x.alarms ≤ y.alarms
  minSeq : x.minSeq ≤ y.minSeq
  idNext : x.idNext ≤ y.idNext
  attGen : x.attGen ≤ y.attGen
  attNext : x.attNext ≤ y.attNext ∨ x.attGen < y.attGen
  erasePending : x.erasePending = true → y.erasePending = true

/-- VL of every core fits its register group (R174). -/
def Machine.State.vlFits (s : State) : Prop := ∀ e ∈ s.cores, VlFits e.2

/-- What every command keeps: the queue's rest, the canonical form of memories and register maps, VL within its group, and the
constable's monotonic cells. -/
structure Keeps (s t : State) : Prop where
  pending : t.pending = s.pending
  mem : Memory.wf s.mem = true → Memory.wf t.mem = true
  ddr : Memory.wf s.ddr = true → Memory.wf t.ddr = true
  flash : Memory.wf s.flash = true → Memory.wf t.flash = true
  regs : Rising s.regs → Rising t.regs
  staged : Rising s.staged → Rising t.staged
  cores : s.vlFits → t.vlFits
  sec : s.sec.Grows t.sec

variable {s t u : State}

theorem Machine.Sec.Grows.refl (x : Sec) : x.Grows x :=
  ⟨BitVec.le_refl _, BitVec.le_refl _, BitVec.le_refl _, BitVec.le_refl _, Nat.le_refl _, Nat.le_refl _, .inl (Nat.le_refl _), id⟩

theorem Machine.Sec.Grows.trans {x y z : Sec} (a : x.Grows y) (b : y.Grows z) : x.Grows z where
  lastCtr := BitVec.le_trans a.lastCtr b.lastCtr
  pwrLoss := BitVec.le_trans a.pwrLoss b.pwrLoss
  alarms := BitVec.le_trans a.alarms b.alarms
  minSeq := BitVec.le_trans a.minSeq b.minSeq
  idNext := a.idNext.trans b.idNext
  attGen := a.attGen.trans b.attGen
  attNext := by have := a.attNext; have := b.attNext; have := a.attGen; have := b.attGen; omega
  erasePending := b.erasePending ∘ a.erasePending

@[simp] theorem Keeps.refl (s : State) : Keeps s s := ⟨rfl, id, id, id, id, id, id, .refl _⟩

theorem Keeps.trans (a : Keeps s t) (b : Keeps t u) : Keeps s u where
  pending := b.pending.trans a.pending
  mem := b.mem ∘ a.mem
  ddr := b.ddr ∘ a.ddr
  flash := b.flash ∘ a.flash
  regs := b.regs ∘ a.regs
  staged := b.staged ∘ a.staged
  cores := b.cores ∘ a.cores
  sec := a.sec.trans b.sec

/-- Parts that `Keeps` does not speak of may change. -/
theorem keeps_update {part time clock extRef heldLow rs rsp free hands mills suits links poisoned hardSectors latent tlb lostPc healed
    pvSlots ddrPoisoned reserved aia job colls redMem net served inbox bell ctl gov recov cfg scanNo} (h : Keeps s t) :
    Keeps s { t with
      part := part, time := time, clock := clock, extRef := extRef, heldLow := heldLow, rs := rs, rsp := rsp, free := free
      hands := hands, mills := mills, suits := suits, links := links, poisoned := poisoned, hardSectors := hardSectors
      latent := latent, tlb := tlb, lostPc := lostPc, healed := healed, pvSlots := pvSlots, ddrPoisoned := ddrPoisoned
      reserved := reserved, aia := aia, job := job, colls := colls, redMem := redMem, net := net, served := served
      inbox := inbox, bell := bell, ctl := ctl, gov := gov, recov := recov, cfg := cfg, scanNo := scanNo } :=
  h.trans ⟨rfl, id, id, id, id, id, id, .refl _⟩

theorem keeps_mem (h : Keeps s t) {m : Memory} (w : Memory.wf t.mem = true → Memory.wf m = true) : Keeps s { t with mem := m } :=
  { h with mem := w ∘ h.mem }
theorem keeps_ddr (h : Keeps s t) {m : Memory} (w : Memory.wf t.ddr = true → Memory.wf m = true) : Keeps s { t with ddr := m } :=
  { h with ddr := w ∘ h.ddr }
theorem keeps_flash (h : Keeps s t) {m : Memory} (w : Memory.wf t.flash = true → Memory.wf m = true) :
    Keeps s { t with flash := m } :=
  { h with flash := w ∘ h.flash }
theorem keeps_staged (h : Keeps s t) {m : PMap W32} (w : Rising t.staged → Rising m) : Keeps s { t with staged := m } :=
  { h with staged := w ∘ h.staged }
theorem keeps_sec (h : Keeps s t) {x : Sec} (g : t.sec.Grows x) : Keeps s { t with sec := x } := { h with sec := h.sec.trans g }

/-- Parts of the constable's store beside its monotonic cells may change. -/
theorem keeps_store {cmdKey idSeed attSeed attCert keysMade idOut policy owner debug level hold erased rotating tripped holding tagFail
    rateLimited lastFrame lastAtt fw fwHeld fencedHands fencedSuits} (h : Keeps s t) :
    Keeps s { t with sec := { t.sec with
      cmdKey := cmdKey, idSeed := idSeed, attSeed := attSeed, attCert := attCert, keysMade := keysMade, idOut := idOut
      policy := policy, owner := owner, debug := debug, level := level, hold := hold, erased := erased, rotating := rotating
      tripped := tripped, holding := holding, tagFail := tagFail, rateLimited := rateLimited, lastFrame := lastFrame
      lastAtt := lastAtt, fw := fw, fwHeld := fwHeld, fencedHands := fencedHands, fencedSuits := fencedSuits } } :=
  h.trans ⟨rfl, id, id, id, id, id, id,
    ⟨BitVec.le_refl _, BitVec.le_refl _, BitVec.le_refl _, BitVec.le_refl _, Nat.le_refl _, Nat.le_refl _, .inl (Nat.le_refl _), id⟩⟩

theorem keeps_ite {c : Prop} [Decidable c] (h : Keeps s t) (h' : Keeps s u) : Keeps s (if c then t else u) := by
  split_ifs
  · exact h
  · exact h'

theorem keeps_foldl {α : Type} {f : State → α → State} {l : List α} (h : Keeps s t) (step : ∀ u x, Keeps s u → Keeps s (f u x)) :
    Keeps s (l.foldl f t) := by
  induction l generalizing t with
  | nil => exact h
  | cons x l ih => exact ih (step t x h)

/-! ## Registers -/

theorem rising_put {m : PMap W32} (a : Nat) (v : W32) (h : Rising m) : Rising (PMap.put m a v) := by
  have above : ∀ (m : PMap W32) b, (∀ e ∈ m, b < e.1) → b < a → ∀ e ∈ PMap.put m a v, b < e.1 := by
    intro m b
    induction m with
    | nil => simp [PMap.put]
    | cons e m ih =>
      intro hm hb x hx
      simp only [PMap.put] at hx
      split_ifs at hx <;> grind
  unfold Rising at *
  induction m with
  | nil => simp [PMap.put]
  | cons e m ih =>
    rw [List.pairwise_cons] at h
    simp only [PMap.put]
    split_ifs with h1 h2
    · exact List.pairwise_cons.2 ⟨h1 ▸ h.1, h.2⟩
    · refine List.pairwise_cons.2 ⟨fun x hx => ?_, List.pairwise_cons.2 h⟩
      rcases List.mem_cons.1 hx with rfl | hx
      · exact h2
      · exact h2.trans (h.1 x hx)
    · exact List.pairwise_cons.2 ⟨above m e.1 h.1 (by omega), ih h.2⟩

theorem Rising.filter {m : PMap W32} (p : Nat × W32 → Bool) (h : Rising m) : Rising (m.filter p) := List.Pairwise.filter p h

theorem del_sublist (m : PMap W32) (a : Nat) : (PMap.del m a).Sublist m := by
  induction m with
  | nil => exact .refl _
  | cons e m ih =>
    simp only [PMap.del]
    split_ifs
    · exact List.sublist_cons_self ..
    · exact .refl _
    · exact ih.cons_cons _

theorem rising_del {m : PMap W32} (a : Nat) (h : Rising m) : Rising (PMap.del m a) := List.Pairwise.sublist (del_sublist m a) h

theorem keeps_regs (h : Keeps s t) {m : PMap W32} (w : Rising t.regs → Rising m) : Keeps s { t with regs := m } :=
  { h with regs := w ∘ h.regs }

theorem keeps_setReg (h : Keeps s t) (a : Nat) (v : W32) : Keeps s (t.setReg a v) :=
  h.trans { Keeps.refl t with regs := rising_put a v }

/-! ## Units -/

/-- VL of core `c` fits its group where that of every core of `s` does. -/
structure Fits (s : State) (c : Core) : Prop where
  fits : s.vlFits → VlFits c

theorem get_mem {α : Type} (d : α) (m : PMap α) (k : Nat) : PMap.get d m k = d ∨ ∃ e ∈ m, e.2 = PMap.get d m k := by
  induction m with
  | nil => exact .inl rfl
  | cons e m ih =>
    simp only [PMap.get]
    split_ifs
    · exact .inr ⟨e, List.mem_cons_self, rfl⟩
    · exact .inl rfl
    · exact ih.imp id fun ⟨x, mem, eq⟩ => ⟨x, List.mem_cons_of_mem _ mem, eq⟩

theorem mem_put {α : Type} {m : PMap α} {k : Nat} {v : α} {e : Nat × α} (h : e ∈ PMap.put m k v) : e = (k, v) ∨ e ∈ m := by
  induction m with
  | nil => exact .inl (List.mem_singleton.1 h)
  | cons x m ih =>
    simp only [PMap.put] at h
    split_ifs at h
    · exact (List.mem_cons.1 h).imp id (List.mem_cons_of_mem _)
    · exact List.mem_cons.1 h
    · rcases List.mem_cons.1 h with rfl | h
      · exact .inr List.mem_cons_self
      · exact (ih h).imp id (List.mem_cons_of_mem _)

theorem fits_core (h : Keeps s t) (k : Nat) : Fits s (t.core k) := by
  refine ⟨fun fits => ?_⟩
  rcases get_mem {} t.cores k with e | ⟨e, mem, eq⟩
  · simp only [State.core, e, VlFits, Nat.zero_mul, Nat.zero_le]
  · rw [State.core, ← eq]
    exact h.cores fits e mem

/-- Parts of a core beside VL and the vector type may change. -/
theorem fits_update {c : Core} {ld cu dr ve st slots scratchTop ports p8own grants recalls tally rows grp closing handed ringNext drained
    tallyRet ramp vreg x kern halted} (h : Fits s c) :
    Fits s { c with
      ld := ld, cu := cu, dr := dr, ve := ve, st := st, slots := slots, scratchTop := scratchTop, ports := ports, p8own := p8own
      grants := grants, recalls := recalls, tally := tally, rows := rows, grp := grp, closing := closing, handed := handed
      ringNext := ringNext, drained := drained, tallyRet := tallyRet, ramp := ramp, vreg := vreg, x := x, kern := kern
      halted := halted } := ⟨h.fits⟩

theorem fits_setSlot {c : Core} (h : Fits s c) (n : Nat) (x : Tile) : Fits s (c.setSlot n x) := ⟨h.fits⟩
theorem fits_setPort {c : Core} (h : Fits s c) (p : Nat) (v : Port) : Fits s (c.setPort p v) := ⟨h.fits⟩
theorem fits_push {c : Core} (h : Fits s c) (p : Nat) (x : Tile) : Fits s (c.push p x) := ⟨h.fits⟩
theorem fits_release {c : Core} (h : Fits s c) (p : Nat) : Fits s (c.release p) := ⟨h.fits⟩

theorem keeps_setCore (h : Keeps s t) {c : Core} (f : Fits s c) (k : Nat) : Keeps s (t.setCore k c) :=
  { h with cores := fun fits e mem => by rcases mem_put mem with rfl | mem; exacts [f.fits fits, h.cores fits e mem] }
theorem keeps_setHand (h : Keeps s t) (i : Nat) (v : Hand) : Keeps s (t.setHand i v) := keeps_update h
theorem keeps_setMill (h : Keeps s t) (m : Nat) (v : Mill) : Keeps s (t.setMill m v) := keeps_update h
theorem keeps_setSuit (h : Keeps s t) (i : Nat) (v : Suit) : Keeps s (t.setSuit i v) := keeps_update h
theorem keeps_spend (h : Keeps s t) : Keeps s t.spend := keeps_update h

theorem fits_ite {c : Prop} [Decidable c] {d e : Core} (h : Fits s d) (h' : Fits s e) : Fits s (if c then d else e) := by
  split_ifs
  · exact h
  · exact h'

/-! ## Answers that carry a state -/

/-- What an answer carries keeps: the failure as `bad` says, the success as `good` says. -/
structure KeepsRes {ε α : Type} (bad : ε → Prop) (good : α → Prop) (r : Except ε α) : Prop where
  keeps : match r with
    | .error x => bad x
    | .ok a => good a

structure KeepsSome {α : Type} (good : α → Prop) (r : Option α) : Prop where
  keeps : match r with
    | some a => good a
    | none => True

structure KeepsArr (s : State) (r : Arr) : Prop where
  keeps : match r with
    | .stop t | .ok t _ => Keeps s t
    | _ => True

structure KeepsArrival (s : State) (r : Arrival) : Prop where
  keeps : match r with
    | .asked t | .stop t | .ok t _ => Keeps s t
    | .wait => True

structure KeepsHead (s : State) (r : MillHead) : Prop where
  keeps : match r with
    | .stop t => Keeps s t
    | _ => True

structure KeepsClaim (s : State) (r : Claim) : Prop where
  keeps : match r with
    | .got t _ _ | .stop t => Keeps s t
    | .pinned => True

structure KeepsEnd (s : State) (r : PvEnd) : Prop where
  keeps : match r with
    | .stop t | .bad t => Keeps s t

structure KeepsWr (s : State) (r : MapWr) : Prop where
  keeps : match r with
    | .ok t => Keeps s t
    | _ => True

/-- A command answers a next state, which keeps. -/
structure KeepsOn (s : State) (r : Host.Outcome State Fault Refusal) : Prop where
  keeps : match r with
    | .next t => Keeps s t
    | _ => False

theorem KeepsRes.of_ok {ε α : Type} {bad : ε → Prop} {good : α → Prop} {a : α} (k : good a) : KeepsRes bad good (.ok a) := ⟨k⟩
theorem KeepsRes.of_error {ε α : Type} {bad : ε → Prop} {good : α → Prop} {x : ε} (k : bad x) : KeepsRes bad good (.error x) := ⟨k⟩
theorem KeepsRes.of_pair {ε α : Type} {bad : ε → Prop} {a : α} (k : Keeps s t) :
    KeepsRes bad (fun x => Keeps s x.1) (.ok (t, a)) := ⟨k⟩
theorem KeepsSome.of_some {α : Type} {good : α → Prop} {a : α} (k : good a) : KeepsSome good (some a) := ⟨k⟩
theorem KeepsSome.of_pair {α : Type} {a : α} (k : Keeps s t) : KeepsSome (fun x => Keeps s x.1) (some (t, a)) := ⟨k⟩
theorem keeps_fst {α : Type} {a : α} (k : Keeps s t) : Keeps s (t, a).1 := k

theorem KeepsOn.of_next (k : Keeps s t) : KeepsOn s (.next t) := ⟨k⟩

theorem KeepsRes.bind {ε α β : Type} {bad : ε → Prop} {good : α → Prop} {good' : β → Prop} {r : Except ε α} {f : α → Except ε β}
    (k : KeepsRes bad good r) (next : ∀ a, good a → KeepsRes bad good' (f a)) : KeepsRes bad good' (r >>= f) := by
  cases r with
  | error x => exact ⟨k.keeps⟩
  | ok a => exact next a k.keeps

theorem keeps_foldlM {ε α : Type} {bad : ε → Prop} {f : State → α → Except ε State} {l : List α} (h : Keeps s t)
    (step : ∀ u x, Keeps s u → KeepsRes bad (Keeps s) (f u x)) : KeepsRes bad (Keeps s) (l.foldlM f t) := by
  induction l generalizing t with
  | nil => exact .of_ok h
  | cons x l ih =>
    rw [List.foldlM_cons]
    exact .bind (step t x h) fun _ => ih

theorem KeepsRes.ok {ε α : Type} {bad : ε → Prop} {good : α → Prop} {r : Except ε α} {a : α} (k : KeepsRes bad good r)
    (e : r = .ok a) : good a := by subst e; exact k.keeps
theorem KeepsRes.error {ε α : Type} {bad : ε → Prop} {good : α → Prop} {r : Except ε α} {x : ε} (k : KeepsRes bad good r)
    (e : r = .error x) : bad x := by subst e; exact k.keeps
theorem KeepsSome.some {α : Type} {good : α → Prop} {r : Option α} {a : α} (k : KeepsSome good r) (e : r = some a) : good a := by
  subst e; exact k.keeps
theorem KeepsSome.getD {r : Option State} (k : KeepsSome (Keeps s) r) (h : Keeps s t) : Keeps s (r.getD t) := by
  cases r with
  | none => exact h
  | some a => exact k.keeps
theorem KeepsArr.ok {r : Arr} {x : Tile} (k : KeepsArr s r) (e : r = .ok t x) : Keeps s t := by subst e; exact k.keeps
theorem KeepsArr.stop {r : Arr} (k : KeepsArr s r) (e : r = .stop t) : Keeps s t := by subst e; exact k.keeps
theorem KeepsArrival.asked {r : Arrival} (k : KeepsArrival s r) (e : r = .asked t) : Keeps s t := by subst e; exact k.keeps
theorem KeepsArrival.stop {r : Arrival} (k : KeepsArrival s r) (e : r = .stop t) : Keeps s t := by subst e; exact k.keeps
theorem KeepsArrival.ok {r : Arrival} {c : Cmd} (k : KeepsArrival s r) (e : r = .ok t c) : Keeps s t := by subst e; exact k.keeps
theorem KeepsHead.stop {r : MillHead} (k : KeepsHead s r) (e : r = .stop t) : Keeps s t := by subst e; exact k.keeps
theorem KeepsClaim.got {r : Claim} {a b : Nat} (k : KeepsClaim s r) (e : r = .got t a b) : Keeps s t := by subst e; exact k.keeps
theorem KeepsClaim.stop {r : Claim} (k : KeepsClaim s r) (e : r = .stop t) : Keeps s t := by subst e; exact k.keeps
theorem KeepsEnd.stop {r : PvEnd} (k : KeepsEnd s r) (e : r = .stop t) : Keeps s t := by subst e; exact k.keeps
theorem KeepsEnd.bad {r : PvEnd} (k : KeepsEnd s r) (e : r = .bad t) : Keeps s t := by subst e; exact k.keeps
theorem KeepsWr.ok {r : MapWr} (k : KeepsWr s r) (e : r = .ok t) : Keeps s t := by subst e; exact k.keeps
theorem keeps_pair {α : Type} {p : State × α} {a : α} (k : Keeps s p.1) (e : p = (t, a)) : Keeps s t := by rwa [e] at k

end Sys2Proof
end

section
/-! PROOFS. What every command keeps: registers, units, queues and translation. -/

namespace Sys2Proof

open Machine

variable {z s : State}

theorem keeps_setField (keep : Keeps z s) (a lo w v : Nat) : Keeps z (s.setField a lo w v) := keeps_setReg keep ..

theorem keeps_orReg (keep : Keeps z s) (a : Nat) (m : W32) : Keeps z (s.orReg a m) := keeps_setReg keep ..

theorem keeps_setBit (keep : Keeps z s) (a i : Nat) : Keeps z (s.setBit a i) := keeps_setField keep ..

theorem keeps_clearBit (keep : Keeps z s) (a i : Nat) : Keeps z (s.clearBit a i) := keeps_setField keep ..

theorem keeps_flags (keep : Keeps z s) (a : Nat) (f : Fl) : Keeps z (s.flags a f) := keeps_orReg keep ..

theorem keeps_countSat (keep : Keeps z s) (a lo w n : Nat) : Keeps z (s.countSat a lo w n) := keeps_setField keep ..

theorem keeps_setReg64 (keep : Keeps z s) (a v : Nat) : Keeps z (s.setReg64 a v) := by
  unfold State.setReg64
  exact keeps_setReg (keeps_setReg keep ..) ..

theorem keeps_add64 (keep : Keeps z s) (a n : Nat) : Keeps z (s.add64 a n) := keeps_setReg64 keep ..

theorem keeps_add32 (keep : Keeps z s) (a n : Nat) : Keeps z (s.add32 a n) := keeps_setReg keep ..

theorem keeps_setQueue (keep : Keeps z s) (st u : Nat) (q : List Cmd) : Keeps z (s.setQueue st u q) := by
  unfold State.setQueue
  split
  · exact keeps_setCore keep (fits_update (fits_core keep _)) _
  · exact keeps_setCore keep (fits_update (fits_core keep _)) _
  · exact keeps_setCore keep (fits_update (fits_core keep _)) _
  · exact keeps_setCore keep (fits_update (fits_core keep _)) _
  · exact keeps_setCore keep (fits_update (fits_core keep _)) _
  · exact keeps_setHand keep ..
  · exact keeps_setHand keep ..
  · exact keeps_setMill keep ..
  · exact keep

theorem keeps_setCmd (keep : Keeps z s) (st u i : Nat) (c : Cmd) : Keeps z (s.setCmd st u i c) := keeps_setQueue keep ..

theorem keeps_haltStation (keep : Keeps z s) (st u : Nat) : Keeps z (s.haltStation st u) := by
  unfold State.haltStation
  exact keeps_ite (keeps_setCore keep (fits_update (fits_core keep _)) _) (keeps_ite (keeps_setMill keep ..) (keeps_setHand
    keep ..))

theorem keeps_addEvc (keep : Keeps z s) (h c n : Nat) : Keeps z (s.addEvc h c n) := keeps_setReg keep ..

theorem keeps_inc1 (keep : Keeps z s) (addr : Nat → Nat) (r : BitVec 512) (i : Nat) : Keeps z (s.inc1 addr r i) := by
  unfold State.inc1
  exact keeps_ite (keeps_setReg keep ..) keep

theorem keeps_applyIncs (keep : Keeps z s) (h : Nat) (r : BitVec 512) : Keeps z (s.applyIncs h r) := by
  unfold State.applyIncs
  exact keeps_inc1 (keeps_inc1 keep ..) ..

theorem keeps_millIncs (keep : Keeps z s) (m : Nat) (r : BitVec 512) : Keeps z (s.millIncs m r) := by
  unfold State.millIncs
  exact keeps_inc1 (keeps_inc1 keep ..) ..

theorem keeps_traceHand (keep : Keeps z s) (h : Nat) (t : Trace) : Keeps z (s.traceHand h t) := by
  unfold State.traceHand
  dsimp only
  exact keeps_ite (keeps_setHand keep ..) (keeps_add32 (keeps_setHand keep ..) ..)

theorem keeps_traceMill (keep : Keeps z s) (m : Nat) (t : Trace) : Keeps z (s.traceMill m t) := keeps_setMill keep ..

theorem keeps_traceSt (keep : Keeps z s) (st u : Nat) (t : Trace) : Keeps z (s.traceSt st u t) := by
  unfold State.traceSt
  exact keeps_ite (keeps_traceMill keep ..) (keeps_traceHand keep ..)

theorem keeps_traceBegin (keep : Keeps z s) (st u : Nat) (r : BitVec 512) (wake : Nat) :
    Keeps z (s.traceBegin st u r wake) := by
  unfold State.traceBegin
  exact keeps_ite (keeps_spend (keeps_traceSt keep ..) ..) keep

theorem keeps_traceEnd (keep : Keeps z s) (st u : Nat) (r : BitVec 512) (aux count starve : Nat) :
    Keeps z (s.traceEnd st u r aux count starve) := by
  unfold State.traceEnd
  exact keeps_ite (keeps_traceSt keep ..) keep

theorem keeps_addCycles (keep : Keeps z s) (a : Nat) : Keeps z (s.addCycles a) := by
  unfold State.addCycles
  exact keeps_spend (keeps_add32 keep ..) ..

theorem keeps_starved (keep : Keeps z s) (st u i : Nat) (c : Cmd) : Keeps z (s.starved st u i c) := by
  unfold State.starved
  exact keeps_spend (keeps_spend (keeps_add32 (keeps_setCmd keep ..) ..) ..) ..

theorem keeps_postAt (keep : Keeps z s) (time reeve sev code ep detail : Nat) :
    Keeps z (s.postAt time reeve sev code ep detail) :=
  keeps_update keep

theorem keeps_post (keep : Keeps z s) (reeve sev code ep detail : Nat) : Keeps z (s.post reeve sev code ep detail) :=
  keeps_postAt keep ..

theorem keeps_postHand (keep : Keeps z s) (h st ep sev code detail serial : Nat) (r : BitVec 512) :
    Keeps z (s.postHand h st ep sev code detail serial r) := by
  unfold State.postHand
  dsimp only
  exact keeps_post (keeps_traceHand keep ..) ..

theorem keeps_note (keep : Keeps z s) (n : Notice) : Keeps z (s.note n) := keeps_update keep

theorem keeps_syncMode (keep : Keeps z s) : Keeps z (s.syncMode) := by
  unfold State.syncMode
  exact keeps_ite keep (keeps_update keep)

theorem keeps_setLimits (keep : Keeps z s) (f p : Nat) : Keeps z (s.setLimits f p) := keeps_update keep

/-- Without power the memories and registers are gone, and the constable's cells stay (R497). -/
theorem keeps_unpowered (keep : Keeps z s) : Keeps z s.unpowered :=
  keep.trans ⟨rfl, fun _ => rfl, fun _ => rfl, id, fun _ => .nil, fun _ => .nil, fun _ _ h => absurd h List.not_mem_nil,
    ⟨BitVec.le_refl _, BitVec.le_refl _, BitVec.le_refl _, BitVec.le_refl _, Nat.le_refl _, Nat.le_refl _, .inl (Nat.le_refl _),
      id⟩⟩

theorem keeps_restart (keep : Keeps z s) : Keeps z (s.restart) := by
  unfold State.restart
  dsimp only
  exact keeps_syncMode (keeps_update (keeps_unpowered keep ..)) ..

theorem keeps_safeOff (keep : Keeps z s) : Keeps z (s.safeOff) := by
  unfold State.safeOff
  dsimp only
  exact keeps_syncMode (keeps_update (keeps_unpowered keep ..)) ..

theorem keeps_ring (keep : Keeps z s) (scope suit hand source : Nat) : Keeps z (s.ring scope suit hand source) := by
  unfold State.ring
  dsimp only
  exact keeps_ite (keeps_setField keep ..) (keeps_syncMode (keeps_update (keeps_setBit (keeps_setField keep ..) ..)) ..)

theorem keeps_reeveStop (keep : Keeps z s) : Keeps z (s.reeveStop) := by
  unfold State.reeveStop
  dsimp only
  exact keeps_update (keeps_ring keep ..)

theorem keeps_escalate (keep : Keeps z s) (st u tid kind : Nat) (refetched : Bool) (serial : Nat) :
    Keeps z (s.escalate st u tid kind refetched serial) := by
  unfold State.escalate
  dsimp only
  exact keeps_postHand (keeps_setBit (keeps_haltStation keep ..) ..) ..

theorem keeps_pageFault (keep : Keeps z s) (st u va kind : Nat) (pcopy : Bool) (serial : Nat) :
    Keeps z (s.pageFault st u va kind pcopy serial) := by
  unfold State.pageFault
  dsimp only
  exact keeps_reeveStop (keeps_note (keeps_ite (keeps_ite (keeps_setBit (keeps_haltStation keep ..) ..) (keeps_ite (keeps_setBit
    (keeps_haltStation keep ..) ..) (keeps_haltStation keep ..))) (keeps_setReg (keeps_setReg64 (keeps_ite (keeps_setBit
    (keeps_haltStation keep ..) ..) (keeps_ite (keeps_setBit (keeps_haltStation keep ..) ..) (keeps_haltStation
    keep ..))) ..) ..)) ..) ..

theorem keeps_send (keep : Keeps z s) (src dest vc pos : Nat) (m : Msg) : Keeps z (s.send src dest vc pos m) := keeps_update keep

theorem keeps_releaseTile (keep : Keeps z s) (k p : Nat) : Keeps z (s.releaseTile k p) := by
  unfold State.releaseTile
  dsimp only
  exact keeps_ite (keeps_send (keeps_setCore keep (fits_setPort (fits_core keep _) ..) _) ..) (keeps_setCore keep (fits_release
    (fits_core keep _) ..) _)

theorem keeps_startGrace (keep : Keeps z s) (a : Nat) : Keeps z (s.startGrace a) := keeps_update keep

theorem keeps_commitOne (keep : Keeps z s) (a : Nat) (v : W32) : Keeps z (s.commitOne a v) := by
  unfold State.commitOne
  exact keeps_startGrace (keeps_setReg keep ..) ..

theorem keeps_commitStaged (keep : Keeps z s) (p : Nat → Bool) : Keeps z (s.commitStaged p) :=
  keeps_staged (keeps_foldl keep fun _ _ step => keeps_commitOne step ..) (Rising.filter _)

theorem keeps_setGranMode (keep : Keeps z s) (i m : Nat) : Keeps z (s.setGranMode i m) := by
  unfold State.setGranMode
  dsimp only
  split
  · exact keeps_staged (keeps_ite keep (keeps_startGrace (keeps_setField keep ..) ..)) (rising_put _ _)
  · exact keeps_ite keep (keeps_startGrace (keeps_setField keep ..) ..)

theorem keeps_recover (keep : Keeps z s) (l : List Nat) : Keeps z (s.recover l) := by
  unfold State.recover
  dsimp only
  exact keeps_ite keep (keeps_update (keeps_foldl keep (fun _ _ step => keeps_setGranMode step ..)))

theorem keeps_setBusy (keep : Keeps z s) (b : Option Nat) : Keeps z (s.setBusy b) := keeps_update keep

theorem keeps_streams (keep : Keeps z s) : Keeps z (s.streams) := by
  unfold State.streams
  dsimp only
  exact keeps_update (keeps_foldl keep (fun _ _ step => keeps_setGranMode step ..))

theorem keeps_setLink (keep : Keeps z s) (k : Nat) (l : Link) : Keeps z (s.setLink k l) := keeps_update keep

theorem keeps_setLinkDown (keep : Keeps z s) (b : Nat) (manor down retrained : Bool) :
    Keeps z (s.setLinkDown b manor down retrained) := by
  unfold State.setLinkDown
  dsimp only
  exact keeps_ite (keeps_setLink (keeps_setLink keep ..) ..) (keeps_foldl (keeps_setLink (keeps_setLink keep ..) ..) (fun _ _ step
    => keeps_ite (keeps_clearBit (keeps_setBit step ..) ..) (keeps_setBit (keeps_clearBit step ..) ..)))

theorem keeps_noteSev (keep : Keeps z s) (i pc sev : Nat) : Keeps z (s.noteSev i pc sev) := by
  unfold State.noteSev
  exact keeps_ite (keeps_setField keep ..) keep

theorem keeps_hbmCe (keep : Keeps z s) (i pc : Nat) : Keeps z (s.hbmCe i pc) := keeps_countSat keep ..

theorem keeps_hbmUe (keep : Keeps z s) (i pc sector pa sev : Nat) (hard demand : Bool) :
    Keeps z (s.hbmUe i pc sector pa sev hard demand) := by
  unfold State.hbmUe
  dsimp only
  exact keeps_post (keeps_ite (keeps_setBit (keeps_countSat (keeps_setSuit (keeps_update keep) ..) ..) ..) (keeps_countSat
    (keeps_setSuit (keeps_update keep) ..) ..)) ..

theorem keeps_hbmRead (keep : Keeps z s) (p : Nat) (demand : Bool) : Keeps z (s.hbmRead p demand) := by
  unfold State.hbmRead
  dsimp only
  split
  · exact keep
  · split
    · exact keep
    · split
      · exact keeps_noteSev keep ..
      · exact keeps_hbmCe (keeps_noteSev keep ..) ..
      · exact keeps_hbmUe (keeps_noteSev keep ..) ..

theorem keeps_hbmReads (keep : Keeps z s) (line : Nat) (m : BitVec 4) (demand : Bool) : Keeps z (s.hbmReads line m demand) := by
  unfold State.hbmReads
  exact keeps_foldl keep (fun _ _ step => keeps_ite (keeps_hbmRead step ..) step)

theorem keeps_hbmWrite (keep : Keeps z s) (p : Nat) (bad : Bool) : Keeps z (s.hbmWrite p bad) := keeps_update keep

theorem keeps_writeBack (keep : Keeps z s) (g : GLine) : Keeps z (s.writeBack g) := by
  unfold State.writeBack
  exact keeps_foldl keep (fun _ _ step => keeps_ite (keeps_hbmWrite step ..) step)

theorem keeps_putError (keep : Keeps z s) (k ecc sev : Nat) (hard : Bool) : Keeps z (s.putError k ecc sev hard) := by
  unfold State.putError
  exact keeps_ite keep (keeps_update keep)

theorem keeps_landFill (keep : Keeps z s) (i : Nat) (g : GLine) : Keeps z (s.landFill i g) := by
  unfold State.landFill
  dsimp only
  exact keeps_setSuit (keeps_hbmReads keep ..) ..

theorem keeps_landFills (keep : Keeps z s) (i : Nat) (p : GLine → Bool) : Keeps z (s.landFills i p) := by
  unfold State.landFills
  exact keeps_foldl keep (fun _ _ step => keeps_landFill step ..)

theorem keeps_fillLine (keep : Keeps z s) (i line tid age : Nat) (pf filling : Bool) (valid dirty bad : BitVec 4) (under : BitVec
    1024) :
    Keeps z (s.fillLine i line tid age pf filling valid dirty bad under) := by
  unfold State.fillLine
  dsimp only
  split
  · exact keeps_ite (keeps_landFills keep ..) keep
  · exact keeps_setSuit (keeps_foldl (keeps_ite (keeps_landFills keep ..) keep) (fun _ _ step => keeps_writeBack step ..)) ..

theorem keeps_meetLine (keep : Keeps z s) (i : Nat) (g g1 : GLine) : Keeps z (s.meetLine i g g1) := by
  unfold State.meetLine
  dsimp only
  exact keeps_ite (keeps_add64 (keeps_add64 (keeps_setSuit keep ..) ..) ..) (keeps_setSuit keep ..)

theorem keeps_readLine (keep : Keeps z s) (i line tid : Nat) (m : BitVec 4) : Keeps z (s.readLine i line tid m) := by
  unfold State.readLine
  dsimp only
  split
  · exact keeps_meetLine (keeps_hbmReads keep ..) ..
  · exact keeps_fillLine (keeps_hbmReads keep ..) ..

theorem keeps_writeLine (keep : Keeps z s) (i line a n tid : Nat) : Keeps z (s.writeLine i line a n tid) := by
  unfold State.writeLine
  dsimp only
  split
  · exact keeps_meetLine (keeps_hbmReads keep ..) ..
  · exact keeps_fillLine (keeps_hbmReads keep ..) ..

theorem keeps_flushGranary (keep : Keeps z s) (i : Nat) : Keeps z (s.flushGranary i) := by
  unfold State.flushGranary
  dsimp only
  exact keeps_setSuit (keeps_foldl keep (fun _ _ step => keeps_writeBack step ..)) ..

theorem keeps_trainOn (keep : Keeps z s) (i tid v frame : Nat) : Keeps z (s.trainOn i tid v frame) := by
  unfold State.trainOn
  exact keeps_ite keep (keeps_setSuit keep ..)

theorem keeps_walkLines (keep : Keeps z s) (unit va : Nat) : Keeps z (s.walkLines unit va) := by
  unfold State.walkLines
  dsimp only
  exact keeps_ite keep (keeps_ite (keeps_update (keeps_foldl keep (fun _ _ step => keeps_readLine step ..))) (keeps_foldl keep
    (fun _ _ step => keeps_readLine step ..)))

theorem keeps_readLines (keep : Keeps z s) (va pa n tid : Nat) : Keeps z (s.readLines va pa n tid) := by
  unfold State.readLines
  exact keeps_foldl keep (fun _ _ step => keeps_trainOn (keeps_readLine step ..) ..)

theorem keeps_seen (keep : Keeps z s) (unit tid va n : Nat) : Keeps z (s.seen unit tid va n) := by
  unfold State.seen
  dsimp only
  split
  · exact keeps_readLines (keeps_walkLines keep ..) ..
  · exact keeps_walkLines keep ..

theorem keeps_storePa (keep : Keeps z s) (tid pa n v : Nat) : Keeps z (s.storePa tid pa n v) :=
  keeps_mem (keeps_foldl keep fun _ _ step => keeps_writeLine step ..) (Memory.wf_write _ _ _)

theorem keeps_storeHome (keep : Keeps z s) (tid pa : Nat) (pcopy : Bool) (n v : Nat) :
    Keeps z (s.storeHome tid pa pcopy n v) := by
  unfold State.storeHome
  dsimp only
  exact keeps_ite (keeps_storePa (keeps_storePa keep ..) ..) (keeps_storePa keep ..)

theorem keeps_storeVa (keep : Keeps z s) (unit tid va pa : Nat) (pcopy : Bool) (n v : Nat) :
    Keeps z (s.storeVa unit tid va pa pcopy n v) := by
  unfold State.storeVa
  dsimp only
  exact keeps_foldl (keeps_storeHome (keeps_walkLines keep ..) ..) (fun _ _ step => keeps_trainOn step ..)

theorem keeps_atHome (keep : Keeps z s) (unit tid va pa n : Nat) : Keeps z (s.atHome unit tid va pa n) := by
  unfold State.atHome
  exact keeps_readLine (keeps_walkLines keep ..) ..

theorem keeps_vwrite (keep : Keeps z s) (unit tid va n v : Nat) : KeepsSome (Keeps z) (s.vwrite unit tid va n v) := by
  unfold State.vwrite
  split
  · exact .of_some (keeps_storeVa keep ..)
  · exact ⟨trivial⟩

theorem keeps_seenTile (keep : Keeps z s) (unit tid hva pva : Nat) : Keeps z (s.seenTile unit tid hva pva) := by
  unfold State.seenTile
  exact keeps_seen (keeps_seen keep ..) ..

theorem keeps_writeTile (keep : Keeps z s) (unit tid hva pva : Nat) (t : Tile) :
    KeepsRes (fun _ => True) (Keeps z) (s.writeTile unit tid hva pva t) := by
  unfold State.writeTile
  split
  · exact ⟨trivial⟩
  · split
    · exact ⟨trivial⟩
    · rename_i e1
      split
      · exact ⟨trivial⟩
      · next e2 => exact .of_ok ((keeps_vwrite ((keeps_vwrite keep ..).some e1) ..).some e2)

theorem keeps_seenEntries (keep : Keeps z s) (unit : Nat) (tids : List Nat) : Keeps z (s.seenEntries unit tids) := by
  unfold State.seenEntries
  exact keeps_foldl keep (fun _ _ step => keeps_ite step (keeps_seen step ..))

theorem keeps_refuse (keep : Keeps z s) (st u : Nat) (f : Refuse) (tid serial : Nat) :
    Keeps z (s.refuse st u f tid serial) := by
  unfold State.refuse
  split
  · exact keeps_pageFault keep ..
  · exact keeps_escalate keep ..

end Sys2Proof
end

section
/-! PROOFS. What every command keeps: streams, tiles, stores and the stations of a core. -/

namespace Sys2Proof

open Machine

variable {z s : State}

theorem keeps_beginCmd (keep : Keeps z s) (st u i : Nat) (c : Cmd) : Keeps z (s.beginCmd st u i c) := by
  unfold State.beginCmd
  dsimp only
  split
  · split
    · exact keeps_starved keep ..
    · split
      · exact keeps_refuse (keeps_seenEntries keep ..) ..
      · split
        · exact keeps_escalate (keeps_foldl (keeps_seenEntries keep ..) (fun _ _ step => keeps_seen step ..)) ..
        · exact keeps_pageFault (keeps_foldl (keeps_seenEntries keep ..) (fun _ _ step => keeps_seen step ..)) ..
        · split
          · exact keeps_refuse (keeps_foldl (keeps_seenEntries keep ..) (fun _ _ step => keeps_seen step ..)) ..
          · exact keeps_traceBegin (keeps_setCmd (keeps_foldl (keeps_seenEntries keep ..) (fun _ _ step => keeps_seen
              step ..)) ..) ..
  · exact keep

theorem keeps_beginNext (keep : Keeps z s) (st u op i : Nat) (c : Cmd) : KeepsSome (Keeps z) (s.beginNext st u op i c) := by
  unfold State.beginNext
  dsimp only
  split
  · exact ⟨trivial⟩
  · split
    · exact .of_some (keeps_beginCmd keep ..)
    · exact ⟨trivial⟩

theorem keeps_runStation (keep : Keeps z s) {work : State → Nat → Cmd → State}
    (step : ∀ u i c, Keeps z u → Keeps z (work u i c)) (st u op : Nat) : Keeps z (s.runStation st u op work) := by
  unfold State.runStation
  split
  · exact keep
  · split
    · exact keep
    · split
      · next e => exact (keeps_beginNext keep ..).some e
      · exact keeps_ite keep (keeps_ite (keeps_beginCmd keep ..) (step _ _ _ keep))

theorem keeps_finish (keep : Keeps z s) (st u i : Nat) (c : Cmd) : Keeps z (s.finish st u i c) := by
  unfold State.finish
  dsimp only
  split
  · exact keeps_ite (keeps_setCmd (keeps_setCmd keep ..) ..) (keeps_setCmd keep ..)
  · exact keeps_setCmd keep ..

theorem keeps_dropLines (keep : Keeps z s) (hva pva : Nat) : Keeps z (s.dropLines hva pva) := by
  unfold State.dropLines
  dsimp only
  exact keeps_ite (keeps_foldl keep (fun _ _ step => keeps_setSuit step ..)) keep

theorem keeps_arriveMem (keep : Keeps z s) (st u : Nat) (c : Cmd) (x : Expect) (ver hva pva : Nat) (more : Head → Option Bool)
    (corrupt : Bool) :
    KeepsArr z (s.arriveMem st u c x ver hva pva more corrupt) := by
  unfold State.arriveMem
  dsimp only
  split
  · exact ⟨keeps_spend (keeps_escalate keep ..) ..⟩
  · split
    · exact ⟨trivial⟩
    · split
      · exact ⟨keeps_seenTile keep ..⟩
      · exact ⟨keeps_pageFault (keeps_seenTile keep ..) ..⟩
      · exact ⟨keeps_escalate (keeps_seenTile keep ..) ..⟩
      · split
        · exact ⟨keeps_traceSt (keeps_add32 (keeps_seenTile (keeps_dropLines (keeps_seenTile keep ..) ..) ..) ..) ..⟩
        · exact ⟨keeps_pageFault (keeps_seenTile (keeps_dropLines (keeps_seenTile keep ..) ..) ..) ..⟩
        · exact ⟨keeps_escalate (keeps_seenTile (keeps_dropLines (keeps_seenTile keep ..) ..) ..) ..⟩

theorem keeps_arriveLocal (keep : Keeps z s) (st u : Nat) (c : Cmd) (x : Expect) (t : Tile) (more : Head → Option Bool) (corrupt :
    Bool) :
    KeepsArr z (s.arriveLocal st u c x t more corrupt) := by
  unfold State.arriveLocal
  split
  · exact ⟨keep⟩
  · exact ⟨keeps_escalate keep ..⟩
  · exact ⟨keep⟩

theorem keeps_arrive (keep : Keeps z s) (st u : Nat) (c : Cmd) (o : Nat) (fmt : Option Nat) (more : Head → Option Bool) (corrupt :
    Bool) :
    KeepsArr z (s.arrive st u c o fmt more corrupt) := by
  unfold State.arrive
  dsimp only
  split
  · exact ⟨trivial⟩
  · split
    · split
      · exact ⟨trivial⟩
      · exact keeps_arriveMem keep ..
    · split
      · exact ⟨trivial⟩
      · exact keeps_arriveLocal keep ..
    · exact keeps_arriveLocal keep ..
    · exact ⟨trivial⟩

theorem keeps_markChecked (keep : Keeps z s) (u : Nat) (d : Desc) (n : Nat) : Keeps z (s.markChecked u d n) := by
  unfold State.markChecked
  dsimp only
  exact keeps_ite (keeps_setCore keep (fits_setPort (fits_core keep _) ..) _) keep

theorem keeps_useUp (keep : Keeps z s) (u : Nat) (c : Cmd) (o : Nat) : Keeps z (s.useUp u c o).1 := by
  unfold State.useUp
  dsimp only
  split
  · exact keeps_fst (keeps_releaseTile keep ..)
  · exact keeps_fst keep

theorem keeps_useUpN (keep : Keeps z s) (u : Nat) (c : Cmd) (o n : Nat) : Keeps z (s.useUpN u c o n).1 := by
  induction n generalizing s c with
  | zero => exact keep
  | succ n ih => exact ih (keeps_useUp keep ..) _

theorem keeps_put (keep : Keeps z s) (u : Nat) (d : Desc) (n : Nat) (t : Tile) : Keeps z (s.put u d n t) := by
  unfold State.put
  exact keeps_ite (keeps_setCore keep (fits_push (fits_core keep _) ..) _) (keeps_setCore keep (fits_setSlot (fits_core
    keep _) ..) _)

theorem keeps_arriveTile (keep : Keeps z s) (st u i : Nat) (c : Cmd) (o : Nat) (corrupt : Bool) :
    KeepsArrival z (s.arriveTile st u i c o corrupt) := by
  unfold State.arriveTile
  dsimp only
  split
  · exact ⟨trivial⟩
  · split
    · exact ⟨keeps_starved keep ..⟩
    · exact ⟨keeps_setCmd keep ..⟩
  · next e => exact ⟨(keeps_arrive keep ..).stop e⟩
  · next e => exact ⟨keeps_markChecked ((keeps_arrive keep ..).ok e) ..⟩

theorem keeps_withTile (keep : Keeps z s) {k : State → Cmd → Tile → State}
    (step : ∀ u c x, Keeps z u → Keeps z (k u c x)) (st u i : Nat) (c : Cmd) (o n : Nat) :
    Keeps z (s.withTile st u i c o n k) := by
  unfold State.withTile
  split
  · exact step _ _ _ keep
  · split
    · exact keep
    · next e => exact (keeps_arriveTile keep ..).asked e
    · next e => exact (keeps_arriveTile keep ..).stop e
    · next e =>
      have there := (keeps_arriveTile keep ..).ok e
      exact keeps_ite (step _ _ _ there) (keeps_setCmd there ..)

theorem keeps_loadStep (keep : Keeps z s) (k i : Nat) (c : Cmd) : Keeps z (s.loadStep k i c) := by
  unfold State.loadStep
  dsimp only
  exact keeps_ite (keeps_withTile keep (fun _ _ _ step => keeps_ite (keeps_finish (keeps_useUp (keeps_add64 (keeps_put
    step ..) ..) ..) ..) (keeps_setCmd (keeps_useUp (keeps_add64 (keeps_put step ..) ..) ..) ..)) ..) (keeps_starved keep ..)

theorem keeps_execLoadTiles (keep : Keeps z s) (k : CoreIx) : KeepsOn z (execLoadTiles k s) := by
  unfold execLoadTiles
  exact ⟨keeps_runStation keep (fun _ _ _ step => keeps_loadStep step ..) ..⟩

theorem keeps_narrowRead (keep : Keeps z s) (unit x : Nat) : Keeps z (s.narrowRead unit x) := by
  unfold State.narrowRead
  dsimp only
  split
  · exact keeps_add64 (keeps_ite (keeps_readLine (keeps_walkLines keep ..) ..) (keeps_hbmRead (keeps_walkLines keep ..) ..)) ..
  · exact keeps_walkLines keep ..

theorem keeps_countNarrow (keep : Keeps z s) (unit : Nat) (secs : List Nat) : Keeps z (s.countNarrow unit secs) := by
  unfold State.countNarrow
  exact keeps_foldl keep (fun _ _ step => keeps_narrowRead step ..)

theorem keeps_gatherOut (keep : Keeps z s) (k i : Nat) (c : Cmd) : Keeps z (s.gatherOut k i c) := by
  unfold State.gatherOut
  dsimp only
  split
  · exact keeps_escalate keep ..
  · split
    · exact keeps_refuse keep ..
    · exact keeps_ite (keeps_starved keep ..) (keeps_ite keep (keeps_ite (keeps_finish (keeps_ite (keeps_setBit (keeps_ite
        (keeps_setBit (keeps_countNarrow (keeps_add64 (keeps_put keep ..) ..) ..) ..) (keeps_countNarrow (keeps_add64 (keeps_put
        keep ..) ..) ..)) ..) (keeps_ite (keeps_setBit (keeps_countNarrow (keeps_add64 (keeps_put keep ..) ..) ..) ..)
        (keeps_countNarrow (keeps_add64 (keeps_put keep ..) ..) ..))) ..) (keeps_setCmd (keeps_ite (keeps_setBit (keeps_ite
        (keeps_setBit (keeps_countNarrow (keeps_add64 (keeps_put keep ..) ..) ..) ..) (keeps_countNarrow (keeps_add64 (keeps_put
        keep ..) ..) ..)) ..) (keeps_ite (keeps_setBit (keeps_countNarrow (keeps_add64 (keeps_put keep ..) ..) ..) ..)
        (keeps_countNarrow (keeps_add64 (keeps_put keep ..) ..) ..))) ..)))

theorem keeps_execGather (keep : Keeps z s) (k : CoreIx) : KeepsOn z (execGather k s) := by
  unfold execGather
  refine ⟨keeps_runStation keep (fun s i c step => ?_) ..⟩
  split
  · split
    · exact step
    · next e => exact (keeps_arriveTile step ..).asked e
    · next e => exact (keeps_arriveTile step ..).stop e
    · next e => exact keeps_setCmd (keeps_add64 ((keeps_arriveTile step ..).ok e) ..) ..
  · exact keeps_gatherOut step ..

theorem keeps_sendP8 (keep : Keeps z s) (h unit src dest : Nat) (t : Tile) :
    KeepsSome (Keeps z) (s.sendP8 h unit src dest t) := by
  unfold State.sendP8
  dsimp only
  split
  · exact ⟨trivial⟩
  · split
    · exact ⟨trivial⟩
    · exact .of_some (keeps_send (keeps_setHand keep ..) ..)

theorem keeps_storeTileAt (keep : Keeps z s) (unit : Nat) (d : Desc) (n : Nat) (t : Tile) :
    KeepsRes (fun _ => True) (Keeps z) (s.storeTileAt unit d n t) := by
  unfold State.storeTileAt
  dsimp only
  exact keeps_writeTile keep ..

theorem keeps_storeStep (keep : Keeps z s) (k i : Nat) (c : Cmd) : Keeps z (s.storeStep k i c) := by
  unfold State.storeStep
  dsimp only
  refine keeps_withTile keep (fun s c t step => ?_) ..
  split
  · split
    · exact keeps_addCycles (keeps_starved (keeps_setCmd step ..) ..) ..
    · next e1 =>
        exact keeps_ite (keeps_finish (keeps_useUp (keeps_add64 ((keeps_sendP8 step ..).some e1) ..) ..) ..) (keeps_setCmd
          (keeps_useUp (keeps_add64 ((keeps_sendP8 step ..).some e1) ..) ..) ..)
  · split
    · exact keeps_starved (keeps_setCmd step ..) ..
    · split
      · exact keeps_setCmd step ..
      · split
        · exact keeps_refuse step ..
        · next e =>
            exact keeps_ite (keeps_finish (keeps_useUp (keeps_add64 ((keeps_storeTileAt step ..).ok e) ..) ..) ..) (keeps_setCmd
              (keeps_useUp (keeps_add64 ((keeps_storeTileAt step ..).ok e) ..) ..) ..)

theorem keeps_execStoreTiles (keep : Keeps z s) (k : CoreIx) : KeepsOn z (execStoreTiles k s) := by
  unfold execStoreTiles
  exact ⟨keeps_runStation keep (fun _ _ _ step => keeps_storeStep step ..) ..⟩

theorem keeps_scatterOne (keep : Keeps z s) (k tid op f va v : Nat) : Keeps z (s.scatterOne k tid op f va v) := by
  unfold State.scatterOne
  dsimp only
  split
  · exact keeps_ite (keeps_setBit (keeps_atHome keep ..) ..) (keeps_add64 (keeps_add64 (keeps_flags (keeps_storeHome (keeps_atHome
      keep ..) ..) ..) ..) ..)
  · exact keep

theorem keeps_scatterTile (keep : Keeps z s) (k tid op e : Nat) (ixs : List Nat) (t : Tile) :
    Keeps z (s.scatterTile k tid op e ixs t) := by
  unfold State.scatterTile
  dsimp only
  refine keeps_foldl keep (fun s x step => ?_)
  split
  · exact step
  · split
    · exact keeps_setBit step ..
    · exact keeps_scatterOne step ..

theorem keeps_scatterStep (keep : Keeps z s) (k i : Nat) (c : Cmd) : Keeps z (s.scatterStep k i c) := by
  unfold State.scatterStep
  dsimp only
  split
  · split
    · exact keep
    · next e => exact (keeps_arriveTile keep ..).asked e
    · next e => exact (keeps_arriveTile keep ..).stop e
    · next e => exact keeps_setCmd ((keeps_arriveTile keep ..).ok e) ..
  · split
    · exact keeps_refuse keep ..
    · exact keeps_ite (keeps_starved keep ..) (keeps_ite keep (keeps_withTile keep (fun _ _ _ step => keeps_ite (keeps_finish
        (keeps_useUp (keeps_scatterTile step ..) ..) ..) (keeps_setCmd (keeps_useUp (keeps_scatterTile step ..) ..) ..)) ..))

theorem keeps_execScatter (keep : Keeps z s) (k : CoreIx) : KeepsOn z (execScatter k s) := by
  unfold execScatter
  exact ⟨keeps_runStation keep (fun _ _ _ step => keeps_scatterStep step ..) ..⟩

theorem keeps_resealStep (keep : Keeps z s) (k i : Nat) (c : Cmd) : Keeps z (s.resealStep k i c) := by
  unfold State.resealStep
  dsimp only
  split
  · exact keeps_starved keep ..
  · split
    · exact keep
    · split
      · exact keeps_pageFault (keeps_seenTile keep ..) ..
      · exact keeps_escalate (keeps_seenTile keep ..) ..
      · split
        · exact keeps_pageFault (keeps_seenTile keep ..) ..
        · exact keeps_escalate (keeps_seenTile keep ..) ..
        · split
          · exact keeps_escalate (keeps_seenTile keep ..) ..
          · split
            · split
              · exact keeps_refuse (keeps_seenTile keep ..) ..
              · exact keeps_seenTile keep ..
            · next e2 =>
                exact keeps_ite (keeps_finish (keeps_add64 ((keeps_vwrite (keeps_seenTile keep ..) ..).some e2) ..) ..)
                  (keeps_setCmd (keeps_add64 ((keeps_vwrite (keeps_seenTile keep ..) ..).some e2) ..) ..)

theorem keeps_execReseal (keep : Keeps z s) (k : CoreIx) : KeepsOn z (execReseal k s) := by
  unfold execReseal
  exact ⟨keeps_runStation keep (fun _ _ _ step => keeps_resealStep step ..) ..⟩

theorem keeps_setRing (keep : Keeps z s) (u : Nat) (r : List (BitVec 256)) : Keeps z (s.setRing u r) := by
  unfold State.setRing
  exact keeps_ite (keeps_setHand keep ..) (keeps_setMill keep ..)

theorem keeps_loseTrace (keep : Keeps z s) (u n : Nat) : Keeps z (s.loseTrace u n) := by
  unfold State.loseTrace
  dsimp only
  exact keeps_ite (keeps_add32 (keeps_setHand keep ..) ..) (keeps_setMill keep ..)

theorem keeps_loseDrain (keep : Keeps z s) (u : Nat) (out : List (BitVec 256)) : Keeps z (s.loseDrain u out) := by
  unfold State.loseDrain
  dsimp only
  split
  · exact keeps_loseTrace keep ..
  · exact keeps_ite (keeps_add32 (keeps_setRing keep ..) ..) (keeps_setMill (keeps_setRing keep ..) ..)

theorem keeps_drainWrite (keep : Keeps z s) (u : Nat) : Keeps z (s.drainWrite u) := by
  unfold State.drainWrite
  dsimp only
  split
  · split
    · exact keeps_loseTrace (keeps_ite (keeps_setBit (keeps_setRing keep ..) ..) (keeps_setRing keep ..)) ..
    · split
      · exact keeps_loseDrain (keeps_setRing keep ..) ..
      · rename_i e1
        split
        · exact (keeps_vwrite (keeps_setRing keep ..) ..).some e1
        · next e2 => exact (keeps_vwrite ((keeps_vwrite (keeps_setRing keep ..) ..).some e1) ..).some e2
  · split
    · exact keeps_loseTrace (keeps_ite (keeps_setBit (keeps_setRing keep ..) ..) (keeps_setRing keep ..)) ..
    · split
      · exact keeps_loseDrain (keeps_setRing keep ..) ..
      · rename_i e
        split
        · exact (keeps_vwrite (keeps_setRing keep ..) ..).some e
        · next e1 => exact (keeps_vwrite ((keeps_vwrite (keeps_setRing keep ..) ..).some e) ..).some e1

theorem keeps_drainAll (keep : Keeps z s) (n u : Nat) : Keeps z (State.drainAll n s u) := by
  induction n generalizing s with
  | zero => exact keep
  | succ n ih =>
    unfold State.drainAll
    split_ifs
    · exact keep
    · exact ih (keeps_drainWrite keep ..)

theorem keeps_flushRing (keep : Keeps z s) (u : Nat) : Keeps z (s.flushRing u) := keeps_drainAll keep ..

theorem keeps_endJob (keep : Keeps z s) : Keeps z (s.endJob) := by
  unfold State.endJob
  dsimp only
  split
  · exact keeps_ite (keeps_safeOff (keeps_syncMode (keeps_setBusy (keeps_update (keeps_ite (keeps_foldl (keeps_commitStaged
      keep ..) (fun _ _ step => keeps_flushRing step ..)) (keeps_setBit (keeps_foldl (keeps_commitStaged keep ..) (fun _ _ step =>
      keeps_flushRing step ..)) ..))) ..) ..) ..) (keeps_syncMode (keeps_setBusy (keeps_update (keeps_ite (keeps_foldl
      (keeps_commitStaged keep ..) (fun _ _ step => keeps_flushRing step ..)) (keeps_setBit (keeps_foldl (keeps_commitStaged
      keep ..) (fun _ _ step => keeps_flushRing step ..)) ..))) ..) ..)
  · exact keeps_ite (keeps_safeOff (keeps_syncMode (keeps_setBusy (keeps_update (keeps_setLimits (keeps_ite (keeps_foldl
      (keeps_commitStaged keep ..) (fun _ _ step => keeps_flushRing step ..)) (keeps_setBit (keeps_foldl (keeps_commitStaged
      keep ..) (fun _ _ step => keeps_flushRing step ..)) ..)) ..)) ..) ..) ..) (keeps_syncMode (keeps_setBusy (keeps_update
      (keeps_setLimits (keeps_ite (keeps_foldl (keeps_commitStaged keep ..) (fun _ _ step => keeps_flushRing step ..))
      (keeps_setBit (keeps_foldl (keeps_commitStaged keep ..) (fun _ _ step => keeps_flushRing step ..)) ..)) ..)) ..) ..)

theorem keeps_jobDone (keep : Keeps z s) : Keeps z (s.jobDone) := by
  unfold State.jobDone
  exact keeps_ite (keeps_setBit (keeps_foldl keep (fun _ _ step => keeps_flushRing step ..)) ..) keep

theorem keeps_seenRecords (keep : Keeps z s) (unit : Nat) (l : List (Nat × BitVec 512)) : Keeps z (s.seenRecords unit l) := by
  unfold State.seenRecords
  exact keeps_foldl keep (fun _ _ step => keeps_seen step ..)

theorem keeps_popRecord (keep : Keeps z s) (h : Nat) : Keeps z (s.popRecord h) := by
  unfold State.popRecord
  dsimp only
  split
  · exact keeps_setHand keep ..
  · exact keeps_setHand keep ..

theorem keeps_streamFetchHand (keep : Keeps z s) (h : Nat) : Keeps z (s.streamFetchHand h) := by
  unfold State.streamFetchHand
  generalize s.fetchFrom = fetch
  dsimp only
  cases (s.hand h).detour with
  | none =>
    generalize fetch 16 _ _ = r
    have fetched : ∀ v w, Keeps z (((s.seenRecords h r.1).setHand h v).setReg64 (Reg.seqFetch h) w) :=
      fun _ _ => keeps_setReg64 (keeps_setHand (keeps_seenRecords keep ..) ..) ..
    obtain ⟨l, e⟩ := r
    cases e with
    | ok => exact fetched _ _
    | poison => exact keeps_escalate (fetched _ _) ..
    | fault a k p => exact keeps_pageFault (fetched _ _) ..
  | some x =>
    dsimp only
    generalize fetch _ _ _ = r
    have fetched : ∀ v, Keeps z ((s.seenRecords h r.1).setHand h v) :=
      fun _ => keeps_setHand (keeps_seenRecords keep ..) ..
    obtain ⟨l, e⟩ := r
    cases e with
    | ok => exact fetched _
    | poison => exact keeps_escalate (fetched _) ..
    | fault a k p => exact keeps_pageFault (fetched _) ..

theorem keeps_millStop (keep : Keeps z s) (m va : Nat) : Keeps z (s.millStop m va) := by
  unfold State.millStop
  dsimp only
  exact keeps_reeveStop (keeps_note (keeps_setBit (keeps_setMill keep ..) ..) ..) ..

theorem keeps_millEscalate (keep : Keeps z s) (m tid kind : Nat) (refetched : Bool) (serial : Nat) :
    Keeps z (s.millEscalate m tid kind refetched serial) := by
  unfold State.millEscalate
  dsimp only
  exact keeps_post (keeps_traceMill (keeps_setBit (keeps_setMill keep ..) ..) ..) ..

theorem keeps_streamFetchMill (keep : Keeps z s) (m : Nat) : Keeps z (s.streamFetchMill m) := by
  unfold State.streamFetchMill
  dsimp only
  split
  · exact keeps_setMill (keeps_seenRecords keep ..) ..
  · exact keeps_millEscalate (keeps_setMill (keeps_seenRecords keep ..) ..) ..
  · exact keeps_millStop (keeps_setMill (keeps_seenRecords keep ..) ..) ..

theorem keeps_execStreamFetch (keep : Keeps z s) (u : Fin 648) : KeepsOn z (execStreamFetch u s) := by
  unfold execStreamFetch
  exact ⟨keeps_ite (keeps_ite (keeps_streamFetchHand keep ..) keep) (keeps_ite (keeps_streamFetchMill keep ..) keep)⟩

theorem keeps_startUnit (keep : Keeps z s) (u : Nat) : Keeps z (s.startUnit u) := by
  unfold State.startUnit
  dsimp only
  exact keeps_ite (keeps_ite (keeps_clearBit (keeps_setHand (keeps_update keep) ..) ..) (keeps_setReg64 (keeps_clearBit
    (keeps_setHand (keeps_update keep) ..) ..) ..)) (keeps_clearBit (keeps_setMill (keeps_update keep) ..) ..)

theorem keeps_execStartPacket (keep : Keeps z s) (u : Fin 648) : KeepsOn z (execStartPacket u s) := by
  unfold execStartPacket
  exact ⟨keeps_ite (keeps_startUnit keep ..) keep⟩

theorem keeps_badRecord (keep : Keeps z s) (h va : Nat) : Keeps z (s.badRecord h va) := by
  unfold State.badRecord
  dsimp only
  exact keeps_reeveStop (keeps_note (keeps_setBit (keeps_haltStation keep ..) ..) ..) ..

theorem keeps_dispatch (keep : Keeps z s) (h va : Nat) (r : BitVec 512) : Keeps z (s.dispatch h va r) := by
  unfold State.dispatch
  dsimp only
  exact keeps_popRecord (keeps_setHand (keeps_setQueue keep ..) ..) ..

theorem keeps_execRecordDispatch (keep : Keeps z s) (h : HandIx) : KeepsOn z (execRecordDispatch h s) := by
  unfold execRecordDispatch
  split
  · exact ⟨keep⟩
  · split
    · split
      · exact ⟨keeps_ite (keeps_dispatch (keeps_seenEntries keep ..) ..) keep⟩
      · split
        · exact ⟨keeps_refuse (keeps_seenEntries keep ..) ..⟩
        · exact ⟨keeps_badRecord (keeps_seenEntries keep ..) ..⟩
    · exact ⟨keep⟩

theorem keeps_seqBegin (keep : Keeps z s) (h : Nat) (r : BitVec 512) : Keeps z (s.seqBegin h r) := by
  unfold State.seqBegin
  exact keeps_ite keep (keeps_traceBegin (keeps_setHand keep ..) ..)

theorem keeps_seqCommit (keep : Keeps z s) (h : Nat) (r : BitVec 512) : Keeps z (s.seqCommit h r) := by
  unfold State.seqCommit
  dsimp only
  exact keeps_setHand (keeps_popRecord (keeps_traceEnd (keeps_applyIncs keep ..) ..) ..) ..

theorem keeps_redirect (keep : Keeps z s) (h target : Nat) : Keeps z (s.redirect h target) := by
  unfold State.redirect
  exact keeps_setReg64 (keeps_setHand keep ..) ..

theorem keeps_execSeqNop (keep : Keeps z s) (h : HandIx) : KeepsOn z (execSeqNop h s) := by
  unfold execSeqNop
  split
  · exact ⟨keep⟩
  · exact ⟨keeps_seqCommit (keeps_seqBegin keep ..) ..⟩

theorem keeps_execSeqJump (keep : Keeps z s) (h : HandIx) : KeepsOn z (execSeqJump h s) := by
  unfold execSeqJump
  split
  · exact ⟨keep⟩
  · exact ⟨keeps_redirect (keeps_seqCommit (keeps_seqBegin keep ..) ..) ..⟩

theorem keeps_execSeqLoop (keep : Keeps z s) (h : HandIx) : KeepsOn z (execSeqLoop h s) := by
  unfold execSeqLoop
  dsimp only
  split
  · exact ⟨keep⟩
  · exact ⟨keeps_ite (keeps_seqCommit (keeps_setReg (keeps_seqBegin keep ..) ..) ..) (keeps_redirect (keeps_seqCommit (keeps_setReg
      (keeps_seqBegin keep ..) ..) ..) ..)⟩

theorem keeps_checkpoint (keep : Keeps z s) (h va : Nat) (r : BitVec 512) (epoch : Bool) :
    Keeps z (s.checkpoint h va r epoch) := by
  unfold State.checkpoint
  dsimp only
  exact keeps_traceHand (keeps_setHand (keeps_ite ((keeps_vwrite ((keeps_vwrite keep ..).getD keep) ..).getD ((keeps_vwrite
    keep ..).getD keep)) ((keeps_vwrite keep ..).getD keep)) ..) ..

theorem keeps_execMark (keep : Keeps z s) (h : HandIx) : KeepsOn z (execMark h s) := by
  unfold execMark
  dsimp only
  split
  · exact ⟨keep⟩
  · split
    · split
      · exact ⟨keeps_refuse (keeps_seqBegin keep ..) ..⟩
      · exact ⟨keeps_seqCommit (keeps_checkpoint (keeps_seqBegin keep ..) ..) ..⟩
    · exact ⟨keeps_seqBegin keep ..⟩

theorem keeps_kat (keep : Keeps z s) (h n step times : Nat) : Keeps z (s.kat h n step times) := by
  unfold State.kat
  dsimp only
  exact keeps_ite keep (keeps_ite (keeps_setGranMode keep ..) (keeps_postHand (keeps_setGranMode keep ..) ..))

theorem keeps_packageEpoch (keep : Keeps z s) (n : Nat) : Keeps z (s.packageEpoch n) := by
  unfold State.packageEpoch
  dsimp only
  split
  · split
    · exact keeps_update (keeps_foldl (keeps_commitStaged keep ..) (fun _ _ step => keeps_setHand step ..))
    · exact keeps_update (keeps_foldl (keeps_setLimits (keeps_commitStaged keep ..) ..) (fun _ _ step => keeps_setHand step ..))
  · exact keep

theorem keeps_execEpoch (keep : Keeps z s) (h : HandIx) (katStep katTimes : Nat) :
    KeepsOn z (execEpoch h katStep katTimes s) := by
  unfold execEpoch
  dsimp only
  split
  · exact ⟨keep⟩
  · split
    · split
      · exact ⟨keeps_refuse (keeps_seqBegin keep ..) ..⟩
      · exact ⟨keeps_packageEpoch (keeps_seqCommit (keeps_flushRing (keeps_checkpoint (keeps_commitStaged (keeps_setField
          (keeps_setHand (keeps_kat (keeps_seqBegin keep ..) ..) ..) ..) ..) ..) ..) ..) ..⟩
    · exact ⟨keeps_seqBegin keep ..⟩

theorem keeps_execSeqSignal (keep : Keeps z s) (h : HandIx) : KeepsOn z (execSeqSignal h s) := by
  unfold execSeqSignal
  dsimp only
  split
  · exact ⟨keep⟩
  · exact ⟨keeps_seqCommit (keeps_ite (keeps_setHand (keeps_seqBegin keep ..) ..) (keeps_send (keeps_setHand (keeps_seqBegin
      keep ..) ..) ..)) ..⟩

theorem keeps_execPorts (keep : Keeps z s) (h : HandIx) : KeepsOn z (execPorts h s) := by
  unfold execPorts
  dsimp only
  split
  · exact ⟨keep⟩
  · exact ⟨keeps_ite (keeps_ite (keeps_setCore (keeps_foldl (keeps_seqBegin keep ..) (fun _ _ step => keeps_send step ..))
      (fits_update (fits_core (keeps_seqBegin keep ..) _)) _) (keeps_ite (keeps_ite (keeps_seqCommit (keeps_setHand (keeps_setCore
      (keeps_seqBegin keep ..) (fits_update (fits_core (keeps_seqBegin keep ..) _)) _) ..) ..) (keeps_seqBegin keep ..))
      (keeps_seqCommit (keeps_setHand (keeps_seqBegin keep ..) ..) ..))) (keeps_seqBegin keep ..)⟩

theorem keeps_execSeqEnd (keep : Keeps z s) (h : HandIx) : KeepsOn z (execSeqEnd h s) := by
  unfold execSeqEnd
  dsimp only
  split
  · exact ⟨keep⟩
  · exact ⟨keeps_flushRing (keeps_setHand (keeps_seqCommit (keeps_seqBegin keep ..) ..) ..) ..⟩

theorem keeps_execHold (keep : Keeps z s) (h : HandIx) : KeepsOn z (execHold h s) := by
  unfold execHold
  dsimp only
  split
  · exact ⟨keep⟩
  · exact ⟨keeps_setHand (keeps_seqBegin keep ..) ..⟩

theorem keeps_execResumePacket (keep : Keeps z s) (h : HandIx) : KeepsOn z (execResumePacket h s) := by
  unfold execResumePacket
  split
  · exact ⟨keep⟩
  · exact ⟨keeps_seqCommit (keeps_setHand keep ..) ..⟩

theorem keeps_execGrant (keep : Keeps z s) (h : HandIx) : KeepsOn z (execGrant h s) := by
  unfold execGrant
  dsimp only
  split
  · exact ⟨keep⟩
  · exact ⟨keeps_ite (keeps_send (keeps_setHand (keeps_setCore (keeps_seqBegin keep ..) (fits_update (fits_core (keeps_seqBegin
      keep ..) _)) _) ..) ..) (keeps_ite (keeps_seqCommit keep ..) keep)⟩

theorem keeps_execDetour (keep : Keeps z s) (h : HandIx) : KeepsOn z (execDetour h s) := by
  unfold execDetour
  dsimp only
  split
  · exact ⟨keep⟩
  · split
    · exact ⟨keeps_ite (keeps_setHand (keeps_update keep) ..) keep⟩
    · exact ⟨keep⟩

theorem keeps_execHandDone (keep : Keeps z s) (h : HandIx) : KeepsOn z (execHandDone h s) := by
  unfold execHandDone
  dsimp only
  exact ⟨keeps_ite (keeps_jobDone (keeps_flushRing (keeps_setBit (keeps_setHand keep ..) ..) ..) ..) keep⟩

theorem keeps_execStall (keep : Keeps z s) (h : HandIx) (fail : Nat) : KeepsOn z (execStall h fail s) := by
  unfold execStall
  dsimp only
  exact ⟨keeps_ite (keeps_ite (keeps_note (keeps_note (keeps_setBit keep ..) ..) ..) (keeps_note (keeps_setBit keep ..) ..)) keep⟩

end Sys2Proof
end

section
/-! PROOFS. What every command keeps: the cube, the Mills and the recipes. -/

namespace Sys2Proof

open Machine

variable {z s : State}

theorem keeps_dropPacket (keep : Keeps z s) (i : Nat) : Keeps z (s.dropPacket i) := keeps_update keep

theorem keeps_setPacket (keep : Keeps z s) (i : Nat) (p : Packet) : Keeps z (s.setPacket i p) := keeps_update keep

theorem keeps_took (keep : Keeps z s) (p q : Packet) : Keeps z (s.took p q) := by
  unfold State.took
  dsimp only
  refine keeps_ite (keeps_update (keeps_foldl keep (fun s l step => ?_))) (keeps_ite (keeps_update (keeps_foldl keep (fun s l step
    => ?_))) (keeps_foldl keep (fun s l step => ?_)))
  · split
    · exact step
    · exact keeps_setLink step ..
  · split
    · exact step
    · exact keeps_setLink step ..
  · split
    · exact step
    · exact keeps_setLink step ..

theorem keeps_forwardOne (keep : Keeps z s) (i : Nat) (p : Packet) : Keeps z (s.forwardOne i p) := by
  unfold State.forwardOne
  dsimp only
  split
  · exact keeps_ite (keeps_setPacket keep ..) (keeps_setPacket (keeps_took keep ..) ..)
  · exact keeps_ite (keeps_setPacket (keeps_took (keeps_spend keep ..) ..) ..) (keeps_setPacket keep ..)

theorem keeps_pruneNotice (keep : Keeps z s) (p : Packet) (src router : Nat) (hands : List Nat) :
    Keeps z (s.pruneNotice p src router hands) := by
  unfold State.pruneNotice
  dsimp only
  exact keeps_ite (keeps_send keep ..) keep

theorem keeps_pruneAll (keep : Keeps z s) (p : Packet) : Keeps z (s.pruneAll p) := by
  unfold State.pruneAll
  dsimp only
  exact keeps_foldl (keeps_ite (keeps_pruneNotice (keeps_setBit keep ..) ..) keep) (fun _ _ step => keeps_pruneNotice step ..)

theorem keeps_forwardMulti (keep : Keeps z s) (i : Nat) (p : Packet) : Keeps z (s.forwardMulti i p) := by
  unfold State.forwardMulti
  dsimp only
  exact keeps_ite (keeps_setPacket keep ..) (keeps_ite (keeps_pruneAll (keeps_update (keeps_foldl (keeps_took keep ..) (fun _ _
    step => keeps_took step ..))) ..) (keeps_update (keeps_took keep ..)))

theorem keeps_execPacketForward (keep : Keeps z s) (i : Nat) : KeepsOn z (execPacketForward i s) := by
  unfold execPacketForward
  dsimp only
  split
  · exact ⟨keep⟩
  · exact ⟨keeps_ite keep (keeps_ite (keeps_note (keeps_setField (keeps_setBit (keeps_dropPacket keep ..) ..) ..) ..) (keeps_ite
      keep (keeps_ite (keeps_forwardMulti keep ..) (keeps_forwardOne keep ..))))⟩

theorem keeps_receiveData (keep : Keeps z s) (dest src id len off n : Nat) (bytes : List Byte) :
    Keeps z (s.receiveData dest src id len off n bytes) :=
  keeps_update keep

theorem keeps_ackProducer (keep : Keeps z s) (e : Nat) : Keeps z (s.ackProducer e) := by
  unfold State.ackProducer
  dsimp only
  split
  · exact keep
  · exact keeps_ite (keeps_setQueue keep ..) (keeps_ite (keeps_setQueue keep ..) (keeps_setQueue keep ..))

theorem keeps_execPacketReceive (keep : Keeps z s) (i : Nat) : KeepsOn z (execPacketReceive i s) := by
  unfold execPacketReceive
  dsimp only
  split
  · exact ⟨keep⟩
  · split
    · exact ⟨keep⟩
    · split
      · exact ⟨keeps_receiveData (keeps_dropPacket keep ..) ..⟩
      · exact ⟨keeps_ackProducer (keeps_dropPacket keep ..) ..⟩
      · split
        · exact ⟨keeps_dropPacket keep ..⟩
        · exact ⟨keeps_setHand (keeps_dropPacket keep ..) ..⟩
      · split
        · exact ⟨keeps_dropPacket keep ..⟩
        · exact ⟨keeps_setHand (keeps_dropPacket keep ..) ..⟩
      · exact ⟨keeps_dropPacket keep ..⟩
      · exact ⟨keep⟩

theorem keeps_execP8Credit (keep : Keeps z s) (i : Nat) : KeepsOn z (execP8Credit i s) := by
  unfold execP8Credit
  dsimp only
  split
  · exact ⟨keep⟩
  · split
    · exact ⟨keeps_ite keep (keeps_ite (keeps_setCore (keeps_dropPacket keep ..) (fits_update (fits_core (keeps_dropPacket
        keep ..) _)) _) (keeps_ite (keeps_ite (keeps_reeveStop (keeps_note (keeps_setBit (keeps_dropPacket keep ..) ..) ..) ..)
        (keeps_send (keeps_setHand (keeps_dropPacket keep ..) ..) ..)) (keeps_ite (keeps_setHand (keeps_dropPacket keep ..) ..)
        (keeps_send (keeps_dropPacket keep ..) ..))))⟩
    · exact ⟨keep⟩

theorem keeps_execP8Recall (keep : Keeps z s) (i : Nat) : KeepsOn z (execP8Recall i s) := by
  unfold execP8Recall
  dsimp only
  split
  · exact ⟨keep⟩
  · split
    · exact ⟨keeps_ite keep (keeps_ite (keeps_setHand (keeps_dropPacket keep ..) ..) (keeps_send (keeps_setHand (keeps_dropPacket
        keep ..) ..) ..))⟩
    · exact ⟨keep⟩

theorem keeps_execP8TileReceive (keep : Keeps z s) (i : Nat) : KeepsOn z (execP8TileReceive i s) := by
  unfold execP8TileReceive
  dsimp only
  split
  · exact ⟨keep⟩
  · split
    · split
      · exact ⟨keep⟩
      · split
        · split
          · exact ⟨keeps_send (keeps_setCore (keeps_dropPacket keep ..) (fits_setPort (fits_setSlot (fits_core (keeps_dropPacket
              keep ..) _) ..) ..) _) ..⟩
          · exact ⟨keeps_send (keeps_setHand (keeps_setCore (keeps_dropPacket keep ..) (fits_setPort (fits_setSlot (fits_core
              (keeps_dropPacket keep ..) _) ..) ..) _) ..) ..⟩
        · exact ⟨keeps_note (keeps_setField (keeps_setBit (keeps_dropPacket keep ..) ..) ..) ..⟩
    · exact ⟨keep⟩

theorem keeps_execSignalReceive (keep : Keeps z s) (manor : Bool) (dest : BitVec 16) (ctr : BitVec 6) (amt : BitVec 8) :
    KeepsOn z (execSignalReceive manor dest ctr amt s) := by
  unfold execSignalReceive
  dsimp only
  split
  · split
    · exact ⟨keeps_ite (keeps_setHand (keeps_addEvc keep ..) ..) keep⟩
    · exact ⟨keeps_ite (keeps_setReg keep ..) keep⟩
    · exact ⟨keep⟩
  · split
    · exact ⟨keep⟩
    · split
      · exact ⟨keeps_ite (keeps_setHand (keeps_addEvc (keeps_update keep) ..) ..) (keeps_update keep)⟩
      · exact ⟨keeps_ite (keeps_setReg (keeps_update keep) ..) (keeps_update keep)⟩
      · exact ⟨keeps_update keep⟩

theorem keeps_execLinkReplay (keep : Keeps z s) (b : BridgeIx) (manor sent : Bool) :
    KeepsOn z (execLinkReplay b manor sent s) := by
  unfold execLinkReplay
  dsimp only
  exact ⟨keeps_ite keep (keeps_setLink keep ..)⟩

theorem keeps_execLinkRetryExhausted (keep : Keeps z s) (b : BridgeIx) (manor sent oneLane : Bool) (lgroup lane : Nat) :
    KeepsOn z (execLinkRetryExhausted b manor sent oneLane lgroup lane s) := by
  unfold execLinkRetryExhausted
  dsimp only
  exact ⟨keeps_ite keep (keeps_ite (keeps_post (keeps_ite (keeps_setLink keep ..) (keeps_countSat (keeps_setLink keep ..) ..)) ..)
    (keeps_post (keeps_setLinkDown keep ..) ..))⟩

theorem keeps_releaseSpent (keep : Keeps z s) (u : Nat) (x : CubeShape) (c : Cmd) (o n : Nat) :
    Keeps z (s.releaseSpent u x c o n).1 := by
  induction n generalizing s c with
  | zero => exact keep
  | succ n ih =>
    unfold State.releaseSpent
    split
    · exact ih (keeps_useUp keep ..) _
    · exact keep

/-! ### The tally -/

theorem fits_deliver {c : Core} (fit : Fits z c) (g : Group) (i j : Nat) (q : List Val) : Fits z (c.deliver g i j q).1 := by
  unfold Core.deliver
  split
  · exact fit
  · exact fits_update fit

theorem fits_deliverAll {c : Core} (fit : Fits z c) (g : Group) (i j : Nat) (l : List (List Val)) :
    Fits z (c.deliverAll g i j l).1 := by
  induction l generalizing c with
  | nil => exact fit
  | cons q qs ih => exact ih (fits_deliver fit ..)

theorem fits_issue {c : Core} (fit : Fits z c) (x : CubeShape) (ta tb : Nat → Tile) (n : Nat) (g : Group) :
    Fits z (x.issue ta tb n g c).1 := by
  unfold CubeShape.issue
  dsimp only
  generalize ((x.rowsOf (x.block n)).flatMap fun i => (x.colsOf (x.block n)).map fun j => (i, j)) = l
  generalize (0 : Fl) = f, (0 : Nat) = k
  induction l generalizing c f k with
  | nil => exact fit
  | cons p l ih => exact ih (fits_deliverAll fit ..) _ _

theorem fits_openGroup {c : Core} (fit : Fits z c) (d : GroupDecl) : KeepsSome (Fits z) (c.openGroup d) := by
  unfold Core.openGroup
  dsimp only
  split
  · exact ⟨trivial⟩
  · exact ⟨fits_update fit⟩

theorem fits_endCommand {c : Core} (fit : Fits z c) (g : Group) (keep : Bool) : Fits z (c.endCommand g keep) :=
  fits_ite (fits_update fit) (fits_update fit)

theorem keeps_releaseBoth (keep : Keeps z s) (u : Nat) (x : CubeShape) (c : Cmd) : Keeps z (s.releaseBoth u x c).1 := by
  unfold State.releaseBoth
  dsimp only
  exact keeps_releaseSpent (keeps_releaseSpent keep ..) ..

theorem keeps_addGapfill (keep : Keeps z s) (k n : Nat) : Keeps z (s.addGapfill k n) := keeps_add32 keep ..

theorem keeps_openGap (keep : Keeps z s) (k : Nat) : Keeps z (s.openGap k) := by
  unfold State.openGap
  exact keeps_ite (keeps_setCore keep (fits_update (fits_core keep _)) _) keep

theorem keeps_cubeWork (keep : Keeps z s) (k : Nat) : Keeps z (s.cubeWork k) := by
  unfold State.cubeWork
  dsimp only
  exact keeps_setCore (keeps_ite keep (keeps_spend (keeps_addGapfill keep ..) ..)) (fits_update (fits_core (keeps_ite keep
    (keeps_spend (keeps_addGapfill keep ..) ..)) _)) _

theorem keeps_cubeSettle (keep : Keeps z s) (k i : Nat) (c : Cmd) (x : CubeShape) (g : Group) :
    Keeps z (s.cubeSettle k i c x g) := by
  unfold State.cubeSettle
  dsimp only
  exact keeps_ite (keeps_finish (keeps_setCore (keeps_releaseBoth keep ..) (fits_endCommand (fits_core (keeps_releaseBoth
    keep ..) _) ..) _) ..) (keeps_setCmd (keeps_releaseBoth keep ..) ..)

theorem keeps_cubeIssue (keep : Keeps z s) (k i : Nat) (c : Cmd) (x : CubeShape) (g : Group) :
    Keeps z (s.cubeIssue k i c x g) := by
  unfold State.cubeIssue
  dsimp only
  split
  · exact keeps_cubeSettle keep ..
  · exact keeps_ite (keeps_cubeWork (keeps_spend keep ..) ..) (keeps_openGap (keeps_cubeSettle (keeps_add64 (keeps_flags
      (keeps_setCore (keeps_cubeWork (keeps_spend keep ..) ..) (fits_issue (fits_core (keeps_cubeWork (keeps_spend
      keep ..) ..) _) ..) _) ..) ..) ..) ..)

theorem keeps_cubeStep (keep : Keeps z s) (k i : Nat) (c : Cmd) : Keeps z (s.cubeStep k i c) := by
  unfold State.cubeStep
  split
  · split
    · exact keeps_starved keep ..
    · next e1 => exact keeps_setCmd (keeps_setCore keep ((fits_openGroup (fits_core keep _) ..).some e1) _) ..
  · split
    · next e => exact (keeps_arriveTile keep ..).stop e
    · next e => exact (keeps_arriveTile keep ..).asked e
    · next e => exact keeps_setCmd ((keeps_arriveTile keep ..).ok e) ..
    · split
      · next e1 => exact (keeps_arriveTile keep ..).stop e1
      · next e1 => exact (keeps_arriveTile keep ..).asked e1
      · next e1 => exact keeps_setCmd ((keeps_arriveTile keep ..).ok e1) ..
      · split
        · exact keeps_cubeIssue keep ..
        · exact keep

theorem keeps_storeBellCtl (keep : Keeps z s) (v : W32) : Keeps z (s.storeBellCtl v) := by
  unfold State.storeBellCtl
  exact keeps_startGrace (keeps_setReg keep ..) ..

theorem keeps_bellRing (keep : Keeps z s) (v : W32) : Keeps z (s.bellRing v) := by
  unfold State.bellRing
  dsimp only
  exact keeps_ite (keeps_ring (keeps_storeBellCtl keep ..) ..) (keeps_storeBellCtl keep ..)

theorem keeps_execBellRing (keep : Keeps z s) (v : W32) : KeepsOn z (execBellRing v s) := by
  unfold execBellRing
  exact ⟨keeps_bellRing keep ..⟩

theorem keeps_execStopN (keep : Keeps z s) (low : Bool) : KeepsOn z (execStopN low s) := by
  unfold execStopN
  dsimp only
  exact ⟨keeps_ite (keeps_ring (keeps_update keep) ..) (keeps_update keep)⟩

theorem keeps_execStopMarker (keep : Keeps z s) (u : UnitIx) : KeepsOn z (execStopMarker u s) := by
  unfold execStopMarker
  exact ⟨keeps_ite (keeps_update keep) keep⟩

theorem keeps_traceUnit (keep : Keeps z s) (u event aux : Nat) : Keeps z (s.traceUnit u event aux) := by
  unfold State.traceUnit
  exact keeps_ite (keeps_traceHand keep ..) (keeps_ite (keeps_traceMill keep ..) keep)

theorem keeps_openGaps (keep : Keeps z s) (h : Nat) : Keeps z (s.openGaps h) := by
  unfold State.openGaps
  exact keeps_foldl keep (fun _ _ step => keeps_openGap step ..)

theorem keeps_execUnitStop (keep : Keeps z s) (u : UnitIx) : KeepsOn z (execUnitStop u s) := by
  unfold execUnitStop
  dsimp only
  exact ⟨keeps_ite (keeps_ite (keeps_openGaps (keeps_update (keeps_traceUnit keep ..)) ..) (keeps_update (keeps_traceUnit
    keep ..))) keep⟩

theorem keeps_rampUp (keep : Keeps z s) (k : Nat) : Keeps z (s.rampUp k) := by
  unfold State.rampUp
  exact keeps_ite keep (keeps_cubeWork keep ..)

theorem keeps_resumeHand (keep : Keeps z s) (h pause : Nat) : Keeps z (s.resumeHand h pause) := by
  unfold State.resumeHand
  dsimp only
  exact keeps_foldl (keeps_setHand (keeps_traceUnit keep ..) ..) (fun _ _ step => keeps_rampUp step ..)

theorem keeps_resumeUnit (keep : Keeps z s) (u : Nat) : Keeps z (s.resumeUnit u) := by
  unfold State.resumeUnit
  dsimp only
  exact keeps_ite (keeps_resumeHand (keeps_update keep) ..) (keeps_ite (keeps_setMill (keeps_traceUnit (keeps_update keep) ..) ..)
    (keeps_ite (keeps_update keep) (keeps_update keep)))

theorem keeps_resumeScope (keep : Keeps z s) (scope suit hand : Nat) : Keeps z (s.resumeScope scope suit hand) := by
  unfold State.resumeScope
  dsimp only
  exact keeps_streams (keeps_syncMode (keeps_foldl (keeps_update keep) (fun _ _ step => keeps_resumeUnit step ..)) ..) ..

theorem keeps_execBellResume (keep : Keeps z s) (reeve : Bool) (v : W32) : KeepsOn z (execBellResume reeve v s) := by
  unfold execBellResume
  dsimp only
  exact ⟨keeps_ite (keeps_resumeScope keep ..) (keeps_ite (keeps_resumeScope (keeps_storeBellCtl keep ..) ..) (keeps_storeBellCtl
    keep ..))⟩

theorem keeps_finishCut (keep : Keeps z s) (c : Cut) : Keeps z (s.finishCut c) := by
  unfold State.finishCut
  dsimp only
  exact keeps_ite (keeps_endJob (keeps_ite (keeps_resumeScope (keeps_update (keeps_ite (keeps_setBit (keeps_setField keep ..) ..)
    (keeps_setField keep ..))) ..) (keeps_update (keeps_ite (keeps_setBit (keeps_setField keep ..) ..) (keeps_setField
    keep ..)))) ..) (keeps_ite (keeps_resumeScope (keeps_update (keeps_ite (keeps_setBit (keeps_setField keep ..) ..)
    (keeps_setField keep ..))) ..) (keeps_update (keeps_ite (keeps_setBit (keeps_setField keep ..) ..) (keeps_setField keep ..))))

theorem keeps_cutComplete (keep : Keeps z s) : Keeps z (s.cutComplete) := by
  unfold State.cutComplete
  dsimp only
  split
  · exact keeps_ite (keeps_endJob keep ..) keep
  · exact keeps_finishCut keep ..

theorem keeps_execCutLate (keep : Keeps z s) : KeepsOn z (execCutLate s) := by
  unfold execCutLate
  exact ⟨keeps_ite (keeps_setBit keep ..) keep⟩

theorem keeps_execUnitStopTimeout (keep : Keeps z s) (u : UnitIx) : KeepsOn z (execUnitStopTimeout u s) := by
  unfold execUnitStopTimeout
  exact ⟨keeps_ite (keeps_note (keeps_setBit keep ..) ..) keep⟩

theorem keeps_millFail (keep : Keeps z s) (m : Nat) : Keeps z (s.millFail m) := keeps_setMill keep ..

theorem keeps_millRefuse (keep : Keeps z s) (m : Nat) (f : Refuse) (serial : Nat) : Keeps z (s.millRefuse m f serial) := by
  unfold State.millRefuse
  split
  · exact keeps_millStop keep ..
  · exact keeps_millEscalate keep ..

theorem keeps_millHead (keep : Keeps z s) (m op : Nat) : KeepsHead z (s.millHead m op) := by
  unfold State.millHead
  dsimp only
  split
  · exact ⟨trivial⟩
  · split
    · exact ⟨trivial⟩
    · split
      · exact ⟨trivial⟩
      · split
        · exact ⟨keeps_millStop keep ..⟩
        · split
          · exact ⟨trivial⟩
          · exact ⟨trivial⟩

theorem keeps_millPop (keep : Keeps z s) (m : Nat) : Keeps z (s.millPop m) := keeps_setMill keep ..

theorem keeps_millCommit (keep : Keeps z s) (m : Nat) (r : BitVec 512) : Keeps z (s.millCommit m r) := by
  unfold State.millCommit
  dsimp only
  exact keeps_setMill (keeps_millPop (keeps_traceEnd (keeps_millIncs keep ..) ..) ..) ..

theorem keeps_millRow (keep : Keeps z s) {f : State → Nat → BitVec 512 → Option State}
    (step : ∀ u va r, Keeps z u → KeepsSome (Keeps z) (f u va r)) (m op : Nat) : Keeps z (s.millRow m op f) := by
  unfold State.millRow
  split
  · exact keep
  · next e => exact (keeps_millHead keep ..).stop e
  · split
    · exact keeps_millStop keep ..
    · next e =>
      have done := (step _ _ _ (keeps_traceBegin keep ..)).some e
      exact keeps_ite done (keeps_millCommit done ..)

theorem keeps_execMillNop (keep : Keeps z s) (m : MillIx) : KeepsOn z (execMillNop m s) := by
  unfold execMillNop
  exact ⟨keeps_millRow keep (fun _ _ _ step => .of_some step) ..⟩

theorem keeps_execMillSignal (keep : Keeps z s) (m : MillIx) : KeepsOn z (execMillSignal m s) := by
  unfold execMillSignal
  exact ⟨keeps_millRow keep (fun _ _ _ step => .of_some (keeps_send step ..)) ..⟩

theorem keeps_millRedirect (keep : Keeps z s) (m target : Nat) : Keeps z (s.millRedirect m target) := keeps_setMill keep ..

theorem keeps_execMillJump (keep : Keeps z s) (m : MillIx) : KeepsOn z (execMillJump m s) := by
  unfold execMillJump
  exact ⟨keeps_millRow keep (fun _ _ _ step => .of_some (keeps_millRedirect step ..)) ..⟩

theorem keeps_execMillLoop (keep : Keeps z s) (m : MillIx) : KeepsOn z (execMillLoop m s) := by
  unfold execMillLoop
  dsimp only
  exact ⟨keeps_millRow keep (fun _ _ _ step => .of_some (keeps_ite (keeps_setMill step ..) (keeps_millRedirect (keeps_setMill
    step ..) ..))) ..⟩

theorem keeps_execMillEnd (keep : Keeps z s) (m : MillIx) : KeepsOn z (execMillEnd m s) := by
  unfold execMillEnd
  dsimp only
  split
  · exact ⟨keep⟩
  · next e => exact ⟨(keeps_millHead keep ..).stop e⟩
  · exact ⟨keeps_flushRing (keeps_setMill (keeps_millCommit (keeps_traceBegin keep ..) ..) ..) ..⟩

theorem keeps_execMillDone (keep : Keeps z s) (m : MillIx) : KeepsOn z (execMillDone m s) := by
  unfold execMillDone
  dsimp only
  exact ⟨keeps_ite (keeps_jobDone (keeps_flushRing (keeps_setBit (keeps_setMill keep ..) ..) ..) ..) keep⟩

theorem keeps_execMirror (keep : Keeps z s) (m : MillIx) : KeepsOn z (execMirror m s) := by
  unfold execMirror
  dsimp only
  split
  · exact ⟨keep⟩
  · next e => exact ⟨(keeps_millHead keep ..).stop e⟩
  · split
    · exact ⟨keep⟩
    · exact ⟨keeps_ite (keeps_millStop keep ..) (keeps_setMill (keeps_millPop (keeps_setHand (keeps_traceBegin (keeps_update
        keep) ..) ..) ..) ..)⟩

theorem keeps_execMirrorSend (keep : Keeps z s) (h : HandIx) (b : Fin 8) : KeepsOn z (execMirrorSend h b s) := by
  unfold execMirrorSend
  dsimp only
  split
  · exact ⟨keep⟩
  · exact ⟨keeps_ite keep (keeps_send (keeps_setHand keep ..) ..)⟩

theorem keeps_execMirrorUpdate (keep : Keeps z s) (m : MillIx) (mirror : BitVec 5) :
    KeepsOn z (execMirrorUpdate m mirror s) := by
  unfold execMirrorUpdate
  dsimp only
  split
  · exact ⟨keep⟩
  · split
    · exact ⟨keeps_ite (keeps_update keep) (keeps_setMill (keeps_setReg (keeps_update keep) ..) ..)⟩
    · exact ⟨keep⟩

theorem keeps_vzero (keep : Keeps z s) (m fuel va n : Nat) : KeepsSome (Keeps z) (s.vzero m fuel va n) := by
  induction fuel generalizing s va n with
  | zero =>
    unfold State.vzero
    split
    · exact ⟨keep⟩
    · exact ⟨trivial⟩
  | succ fuel ih =>
    unfold State.vzero
    dsimp only
    split
    · exact ⟨keep⟩
    · split
      · exact ⟨trivial⟩
      · next e => exact ih ((keeps_vwrite keep ..).some e) _ _

theorem keeps_zeroRow (keep : Keeps z s) (m i : Nat) : KeepsSome (Keeps z) (s.zeroRow m i) := by
  unfold State.zeroRow
  dsimp only
  exact keeps_vzero keep ..

theorem keeps_execTables (keep : Keeps z s) (m : MillIx) : KeepsOn z (execTables m s) := by
  unfold execTables
  dsimp only
  exact ⟨keeps_millRow keep (fun _ _ _ step => keeps_zeroRow (keeps_setMill step ..) ..) ..⟩

theorem keeps_millKat (keep : Keeps z s) (m times : Nat) : Keeps z (s.millKat m times) := by
  unfold State.millKat
  dsimp only
  exact keeps_ite keep (keeps_ite (keeps_setGranMode keep ..) (keeps_post (keeps_traceMill (keeps_setGranMode keep ..) ..) ..))

theorem keeps_execStep (keep : Keeps z s) (m : MillIx) (katTimes : Nat) : KeepsOn z (execStep m katTimes s) := by
  unfold execStep
  dsimp only
  refine ⟨keeps_millRow keep (fun s va r step => ?_) ..⟩
  split
  · exact ⟨trivial⟩
  · split
    · exact ⟨trivial⟩
    · rename_i e
      split
      · exact ⟨trivial⟩
      · next e1 =>
          exact .of_some (keeps_traceMill (keeps_setMill ((keeps_vwrite ((keeps_zeroRow (keeps_setReg (keeps_millKat
            step ..) ..) ..).some e) ..).some e1) ..) ..)

theorem keeps_execPublish (keep : Keeps z s) (m : MillIx) : KeepsOn z (execPublish m s) := by
  unfold execPublish
  dsimp only
  refine ⟨keeps_millRow keep (fun s x r step => ?_) ..⟩
  split
  · exact ⟨trivial⟩
  · split
    · exact .of_some (keeps_millEscalate (keeps_seen (keeps_seenEntries step ..) ..) ..)
    · exact ⟨trivial⟩
    · split
      · exact ⟨trivial⟩
      · exact keeps_vwrite (keeps_seen (keeps_seenEntries step ..) ..) ..

theorem keeps_claim (keep : Keeps z s) (m : Nat) (c : Cmd) (tid : Nat) : KeepsClaim z (s.claim m c tid) := by
  unfold State.claim
  dsimp only
  split
  · exact ⟨keeps_millFail (keeps_millEscalate (keeps_seen keep ..) ..) ..⟩
  · exact ⟨keeps_millFail (keeps_millStop (keeps_seen keep ..) ..) ..⟩
  · split
    · exact ⟨keeps_millFail (keeps_millStop (keeps_seen keep ..) ..) ..⟩
    · split
      · split
        · exact ⟨keeps_add64 (keeps_storeHome (keeps_atHome (keeps_seen keep ..) ..) ..) ..⟩
        · exact ⟨keeps_millFail (keeps_millStop (keeps_seen keep ..) ..) ..⟩
        · exact ⟨keeps_millFail (keeps_millEscalate (keeps_seen keep ..) ..) ..⟩
      · split
        · split
          · split
            · exact ⟨keeps_add64 (keeps_storeHome (keeps_atHome (keeps_seen keep ..) ..) ..) ..⟩
            · exact ⟨keeps_millFail (keeps_millStop (keeps_seen keep ..) ..) ..⟩
            · exact ⟨keeps_millFail (keeps_millEscalate (keeps_seen keep ..) ..) ..⟩
          · exact ⟨trivial⟩
        · exact ⟨keeps_seen keep ..⟩

theorem keeps_updBegin (keep : Keeps z s) (m va : Nat) (r : BitVec 512) : Keeps z (s.updBegin m va r) := by
  unfold State.updBegin
  dsimp only
  split
  · exact keeps_millStop keep ..
  · split
    · exact keeps_millEscalate (keeps_seen keep ..) ..
    · exact keeps_millStop keep ..
    · split
      · exact keeps_millEscalate (keeps_seenEntries (keeps_seen (keeps_seen keep ..) ..) ..) ..
      · exact keeps_millStop keep ..
      · split
        · exact keeps_millRefuse (keeps_seenEntries (keeps_seen (keeps_seen keep ..) ..) ..) ..
        · exact keeps_ite (keeps_millStop (keeps_seenEntries (keeps_seen (keeps_seen keep ..) ..) ..) ..) (keeps_setMill
            (keeps_update (keeps_millPop (keeps_traceBegin (keeps_seenEntries (keeps_seen (keeps_seen keep ..) ..) ..) ..) ..)) ..)

theorem keeps_setUpd (keep : Keeps z s) (m i : Nat) (c : Cmd) : Keeps z (s.setUpd m i c) := keeps_setCmd keep ..

theorem keeps_updClaim (keep : Keeps z s) (m i : Nat) (c : Cmd) (k : Nat) : Keeps z (s.updClaim m i c k) := by
  unfold State.updClaim
  dsimp only
  split
  · next e => exact keeps_setUpd ((keeps_claim keep ..).got e) ..
  · next e => exact (keeps_claim keep ..).stop e
  · exact keeps_setMill (keeps_setBit (keeps_setReg keep ..) ..) ..

theorem keeps_execBufferClaim (keep : Keeps z s) (m : MillIx) : KeepsOn z (execBufferClaim m s) := by
  unfold execBufferClaim
  dsimp only
  split
  · exact ⟨keep⟩
  · split
    · exact ⟨keep⟩
    · split
      · exact ⟨keep⟩
      · split
        · exact ⟨keep⟩
        · exact ⟨keeps_updClaim (keeps_setMill (keeps_spend (keeps_clearBit (keeps_setReg64 keep ..) ..) ..) ..) ..⟩

theorem keeps_millTile (keep : Keeps z s) (m : Nat) (cmd : Cmd) (tid rtid ver r c : Nat) :
    KeepsRes (Keeps z) (fun x => Keeps z x.1) (s.millTile m cmd tid rtid ver r c) := by
  unfold State.millTile
  dsimp only
  split
  · exact .of_pair (keeps_seenTile keep ..)
  · exact .of_error (keeps_millFail (keeps_millStop (keeps_seenTile keep ..) ..) ..)
  · exact .of_error (keeps_millFail (keeps_millEscalate (keeps_seenTile keep ..) ..) ..)
  · split
    · exact .of_pair (keeps_traceMill (keeps_seenTile (keeps_dropLines (keeps_seenTile keep ..) ..) ..) ..)
    · exact .of_error (keeps_millFail (keeps_millStop (keeps_seenTile (keeps_dropLines (keeps_seenTile keep ..) ..) ..) ..) ..)
    · exact .of_error (keeps_millFail (keeps_millEscalate (keeps_seenTile (keeps_dropLines (keeps_seenTile keep ..) ..) ..) ..) ..)

theorem keeps_millTiles (keep : Keeps z s) (m : Nat) (cmd : Cmd) (tid rtid ver : Nat) (ps : List (Nat × Nat)) :
    KeepsRes (Keeps z) (fun x => Keeps z x.1) (s.millTiles m cmd tid rtid ver ps) := by
  induction ps generalizing s with
  | nil => exact .of_pair keep
  | cons p ps ih =>
    unfold State.millTiles
    split
    · next e => exact .of_error ((keeps_millTile keep ..).error e)
    · next t _ e =>
      have read : Keeps z t := (keeps_millTile keep ..).ok e
      split
      · next e => exact .of_error ((ih read).error e)
      · next e => exact .of_pair ((ih read).ok e)

theorem keeps_updRead (keep : Keeps z s) (m : Nat) (c : Cmd) (r0 c0 h w : Nat) :
    KeepsRes (Keeps z) (fun x => Keeps z x.1) (s.updRead m c r0 c0 h w) := by
  have go : ∀ {t} (tid rtid ver : Nat), Keeps z t → KeepsRes (Keeps z) (fun x => Keeps z x.1)
      (if tid = 0 then .ok (t, []) else t.millTiles m c tid rtid ver (blockTiles (Entry.fmt (t.entry tid)) r0 c0 h w)) := by
    intro t tid rtid ver keep
    split_ifs
    · exact .of_pair keep
    · exact keeps_millTiles keep ..
  unfold State.updRead
  dsimp only
  split
  · next e => exact .of_error ((go _ _ _ keep).error e)
  · next t1 _ e1 =>
    have k1 : Keeps z t1 := (go _ _ _ keep).ok e1
    split
    · next e => exact .of_error ((go _ _ _ k1).error e)
    · next t2 _ e2 =>
      have k2 : Keeps z t2 := (go _ _ _ k1).ok e2
      split
      · next e => exact .of_error ((go _ _ _ k2).error e)
      · next t3 _ e3 =>
        have k3 : Keeps z t3 := (go _ _ _ k2).ok e3
        split
        · next e => exact .of_error ((go _ _ _ k3).error e)
        · next e4 => exact .of_pair ((go _ _ _ k3).ok e4)

theorem keeps_updWrite (keep : Keeps z s) (m tid ver : Nat) (l : List (Nat × Nat × Tile)) :
    KeepsRes (fun _ => True) (Keeps z) (s.updWrite m tid ver l) := by
  induction l generalizing s with
  | nil => exact ⟨keep⟩
  | cons x l ih =>
    unfold State.updWrite
    dsimp only
    split
    · exact ⟨trivial⟩
    · next e => exact ih ((keeps_writeTile keep ..).ok e)

theorem keeps_updStore (keep : Keeps z s) (m : Nat) (c : Cmd) (f : UpdFmts) (b : UBlock) (at_ : Nat × Nat × Nat × Nat)
    (lastR lastC : Nat) (res : List ((Nat × Nat) × Option UpdElem)) :
    KeepsRes (fun _ => True) (Keeps z) (s.updStore m c f b at_ lastR lastC res) := by
  have step : ∀ {r : Except Refuse State} (k : Option Nat) (tid ver : Nat) (l : Nat → List (Nat × Nat × Tile)),
      KeepsRes (fun _ => True) (Keeps z) r → KeepsRes (fun _ => True) (Keeps z)
        (match r, k with | .ok s, some kf => s.updWrite m tid ver (l kf) | r, _ => r) := by
    intro r k tid ver l keep
    split
    · exact keeps_updWrite keep.keeps ..
    · exact keep
  unfold State.updStore
  exact step _ _ _ _ (step _ _ _ _ (step _ _ _ _ (keeps_updWrite keep ..)))

theorem keeps_updStep (keep : Keeps z s) (m i : Nat) (c : Cmd) : Keeps z (s.updStep m i c) := by
  unfold State.updStep
  dsimp only
  split
  · next e => exact (keeps_updRead keep ..).error e
  · rename_i e
    split
    · exact keeps_millFail (keeps_millEscalate ((keeps_updRead keep ..).ok e) ..) ..
    · split
      · exact keeps_millFail (keeps_millRefuse ((keeps_updRead keep ..).ok e) ..) ..
      · next e2 =>
          exact keeps_ite (keeps_setUpd (keeps_update (keeps_add64 (keeps_flags ((keeps_updStore ((keeps_updRead keep ..).ok
            e) ..).ok e2) ..) ..)) ..) (keeps_setUpd (keeps_update (keeps_add64 (keeps_flags ((keeps_updStore ((keeps_updRead
            keep ..).ok e) ..).ok e2) ..) ..)) ..)

theorem keeps_updWork (keep : Keeps z s) (m i : Nat) (c : Cmd) : Keeps z (s.updWork m i c) := by
  unfold State.updWork
  split
  · exact keeps_ite keep (keeps_updClaim keep ..)
  · split
    · split
      · exact keeps_millFail (keeps_millRefuse keep ..) ..
      · exact keeps_setUpd keep ..
    · exact keeps_updStep keep ..

theorem keeps_execUpdate (keep : Keeps z s) (m : MillIx) : KeepsOn z (execUpdate m s) := by
  unfold execUpdate
  split
  · exact ⟨keeps_ite (keeps_updWork keep ..) keep⟩
  · split
    · exact ⟨keep⟩
    · next e1 => exact ⟨(keeps_millHead keep ..).stop e1⟩
    · exact ⟨keeps_updBegin keep ..⟩

theorem keeps_teleAdd (keep : Keeps z s) (m va v : Nat) : KeepsRes (Keeps z) (Keeps z) (s.teleAdd m va v) := by
  unfold State.teleAdd
  dsimp only
  split
  · exact .of_error (keeps_millFail (keeps_millStop keep ..) ..)
  · exact .of_error (keeps_millFail (keeps_millEscalate keep ..) ..)
  · split
    · exact .of_error (keeps_millFail (keeps_millEscalate (keeps_atHome keep ..) ..) ..)
    · exact .of_ok (keeps_add64 (keeps_flags (keeps_storeHome (keeps_atHome keep ..) ..) ..) ..)

theorem keeps_telemetry (keep : Keeps z s) (m : Nat) (c : Cmd) : KeepsRes (Keeps z) (Keeps z) (s.telemetry m c) := by
  unfold State.telemetry
  dsimp only
  split
  · exact .of_ok (keeps_setBit keep ..)
  · split
    · next e1 => exact .of_error ((keeps_teleAdd keep ..).error e1)
    · rename_i e
      split
      · next e2 => exact .of_error ((keeps_teleAdd ((keeps_teleAdd keep ..).ok e) ..).error e2)
      · next e1 => exact keeps_teleAdd ((keeps_teleAdd ((keeps_teleAdd keep ..).ok e) ..).ok e1) ..

theorem keeps_millHeadCommit (keep : Keeps z s) (m : Nat) (diverged : Bool) (c : Cmd) :
    Keeps z (s.millHeadCommit m diverged c) := by
  unfold State.millHeadCommit
  dsimp only
  split
  · split
    · next e2 => exact (keeps_telemetry keep ..).error e2
    · next e1 =>
        exact keeps_ite (keeps_ite (keeps_reeveStop (keeps_note (keeps_setBit (keeps_setMill (keeps_setMill (keeps_ite (keeps_spend
          (keeps_traceEnd (keeps_millIncs ((keeps_telemetry keep ..).ok e1) ..) ..) ..) (keeps_traceEnd (keeps_millIncs
          ((keeps_telemetry keep ..).ok e1) ..) ..)) ..) ..) ..) ..) ..) (keeps_note (keeps_setBit (keeps_setMill (keeps_setMill
          (keeps_ite (keeps_spend (keeps_traceEnd (keeps_millIncs ((keeps_telemetry keep ..).ok e1) ..) ..) ..) (keeps_traceEnd
          (keeps_millIncs ((keeps_telemetry keep ..).ok e1) ..) ..)) ..) ..) ..) ..)) (keeps_setMill (keeps_ite (keeps_spend
          (keeps_traceEnd (keeps_millIncs ((keeps_telemetry keep ..).ok e1) ..) ..) ..) (keeps_traceEnd (keeps_millIncs
          ((keeps_telemetry keep ..).ok e1) ..) ..)) ..)
  · exact keeps_setMill (keeps_ite (keeps_spend (keeps_traceEnd (keeps_millIncs keep ..) ..) ..) (keeps_traceEnd (keeps_millIncs
      keep ..) ..)) ..

end Sys2Proof
end

section
/-! PROOFS. What every command keeps: PIVOT, the commit and the dealer. -/

namespace Sys2Proof

open Machine

variable {z s : State}

theorem keeps_refTile (keep : Keeps z s) (st u : Nat) (c : Cmd) (r i fmt : Nat) :
    KeepsRes (KeepsEnd z) (fun x => Keeps z x.1) (s.refTile st u c r i fmt) := by
  unfold State.refTile
  dsimp only
  split
  · exact .of_error ⟨keeps_refuse (keeps_seenEntries keep ..) ..⟩
  · split
    · exact .of_error ⟨keeps_escalate (keeps_ite (keeps_seen (keeps_seenEntries keep ..) ..) (keeps_seenEntries keep ..)) ..⟩
    · exact .of_error ⟨keeps_pageFault (keeps_ite (keeps_seen (keeps_seenEntries keep ..) ..) (keeps_seenEntries keep ..)) ..⟩
    · split
      · next e2 =>
          exact .of_pair ((keeps_arriveMem (keeps_ite (keeps_seen (keeps_seenEntries keep ..) ..) (keeps_seenEntries
            keep ..)) ..).ok e2)
      · next e2 =>
          exact .of_error ⟨(keeps_arriveMem (keeps_ite (keeps_seen (keeps_seenEntries keep ..) ..) (keeps_seenEntries
            keep ..)) ..).stop e2⟩
      · exact .of_error ⟨keeps_ite (keeps_seen (keeps_seenEntries keep ..) ..) (keeps_seenEntries keep ..)⟩
      · exact .of_error ⟨keeps_ite (keeps_seen (keeps_seenEntries keep ..) ..) (keeps_seenEntries keep ..)⟩

theorem keeps_pvTile (keep : Keeps z s) (h : Nat) (c : Cmd) (r i fmt : Nat) :
    KeepsRes (KeepsEnd z) (fun x => Keeps z x.1) (s.pvTile h c r i fmt) := by
  unfold State.pvTile
  exact keeps_refTile keep ..

theorem keeps_pvTiles (keep : Keeps z s) (h : Nat) (c : Cmd) (r fmt n i : Nat) :
    KeepsRes (KeepsEnd z) (fun x => Keeps z x.1) (s.pvTiles h c r fmt n i) := by
  induction n generalizing s i with
  | zero => exact .of_pair keep
  | succ n ih =>
    unfold State.pvTiles
    split
    · next e => exact .of_error ((keeps_pvTile keep ..).error e)
    · next t _ e =>
      have read : Keeps z t := (keeps_pvTile keep ..).ok e
      split
      · next e => exact .of_error ((ih read _).error e)
      · next e => exact .of_pair ((ih read _).ok e)

theorem keeps_pvArray (keep : Keeps z s) (h : Nat) (c : Cmd) (r n : Nat) :
    KeepsRes (KeepsEnd z) (fun x => Keeps z x.1) (s.pvArray h c r n) := by
  unfold State.pvArray
  split
  · exact .of_pair keep
  · split
    · next e1 => exact .of_error ((keeps_pvTiles keep ..).error e1)
    · next e => exact .of_pair ((keeps_pvTiles keep ..).ok e)

theorem keeps_pvBytes (keep : Keeps z s) (h : Nat) (c : Cmd) (r nb : Nat) :
    KeepsRes (KeepsEnd z) (fun x => Keeps z x.1) (s.pvBytes h c r nb) := by
  unfold State.pvBytes
  exact keeps_pvTiles keep ..

theorem keeps_readSlot (keep : Keeps z s) (h : Nat) (c : Cmd) (d : BitVec 2048) (n m : Nat) :
    KeepsRes (KeepsEnd z) (fun x => Keeps z x.1) (s.readSlot h c d n m) := by
  unfold State.readSlot
  dsimp only
  split
  · exact .of_pair keep
  · split
    · next e1 => exact .of_error ((keeps_pvTile keep ..).error e1)
    · rename_i e
      split
      · exact .of_pair ((keeps_pvTile keep ..).ok e)
      · exact .of_pair ((keeps_pvTile keep ..).ok e)
      · split
        · exact .of_pair ((keeps_pvTile keep ..).ok e)
        · split
          · exact .of_pair ((keeps_pvTile keep ..).ok e)
          · exact .of_pair (keeps_update ((keeps_pvTile keep ..).ok e))

theorem keeps_readPat (keep : Keeps z s) (h : Nat) (c : Cmd) (d : BitVec 2048) :
    KeepsRes (KeepsEnd z) (fun x => Keeps z x.1) (s.readPat h c d) := by
  unfold State.readPat
  dsimp only
  split
  · exact .of_pair keep
  · split
    · next e1 => exact .of_error ((keeps_pvBytes keep ..).error e1)
    · next e => exact .of_pair ((keeps_pvBytes keep ..).ok e)

theorem keeps_readStages (keep : Keeps z s) (h : Nat) (c : Cmd) (d : BitVec 2048) :
    KeepsRes (KeepsEnd z) (fun x => Keeps z x.1) (s.readStages h c d) := by
  unfold State.readStages
  dsimp only
  split
  · exact .of_pair keep
  · split
    · next e1 => exact .of_error ((keeps_pvBytes keep ..).error e1)
    · rename_i e
      split
      · exact .of_pair ((keeps_pvBytes keep ..).ok e)
      · split
        · next e2 => exact .of_error ((keeps_pvBytes ((keeps_pvBytes keep ..).ok e) ..).error e2)
        · next e1 => exact .of_pair ((keeps_pvBytes ((keeps_pvBytes keep ..).ok e) ..).ok e1)

theorem keeps_readQp (keep : Keeps z s) (h : Nat) (c : Cmd) (d : BitVec 2048) (pat : Option PatHead)
    (stages : Option (List (Nat × Nat))) :
    KeepsRes (KeepsEnd z) (fun x => Keeps z x.1) (s.readQp h c d pat stages) := by
  unfold State.readQp
  dsimp only
  split
  · exact .of_error ⟨keep⟩
  · split
    · exact .of_error ⟨keep⟩
    · refine .bind (keeps_pvBytes keep ..) fun _ keep => ?_
      split
      case' isTrue => refine .bind (keeps_pvBytes keep ..) fun _ keep => ?_
      case' isFalse => refine .bind (.of_pair keep) fun _ keep => ?_
      all_goals
        exact .bind (keeps_pvArray keep ..) fun _ keep => .bind (keeps_pvArray keep ..) fun _ keep =>
          .bind (keeps_pvArray keep ..) fun _ keep => .bind (keeps_pvArray keep ..) fun _ keep =>
          .bind (keeps_pvArray keep ..) fun _ keep => .of_pair keep

theorem keeps_eng {α : Type} (keep : Keeps z s) (h : Nat) (x : EngM α) : Keeps z (s.eng h x).2 :=
  keeps_add64 (keeps_flags (keeps_update keep) ..) ..

theorem keeps_pvRun (keep : Keeps z s) (h : Nat) (p : Prob) (fs : List VPhase) : Keeps z (s.pvRun h p fs).1 := by
  unfold State.pvRun
  dsimp only
  exact keeps_eng keep ..

theorem keeps_setProb (keep : Keeps z s) (h i : Nat) (p : Prob) : Keeps z (s.setProb h i p) := keeps_setHand keep ..

theorem keeps_pvPut (keep : Keeps z s) (h r i fmt : Nat) (lastOne : Bool) (pay : BitVec 32768) :
    KeepsRes (fun _ => True) (Keeps z) (s.pvPut h r i fmt lastOne pay) := by
  unfold State.pvPut
  dsimp only
  exact keeps_writeTile keep ..

theorem keeps_pvPutAll (keep : Keeps z s) (h r n : Nat) (v : List Nat) (k i : Nat) :
    KeepsRes (fun _ => True) (Keeps z) (s.pvPutAll h r n v k i) := by
  induction k generalizing s i with
  | zero => exact .of_ok keep
  | succ k ih =>
    unfold State.pvPutAll
    dsimp only
    split
    · exact ⟨trivial⟩
    · next e => exact ih ((keeps_pvPut keep ..).ok e) _

theorem keeps_pvOut (keep : Keeps z s) (h r n : Nat) (v : List Nat) : KeepsRes (fun _ => True) (Keeps z) (s.pvOut h r n v) := by
  unfold State.pvOut
  split
  · exact .of_ok keep
  · exact keeps_pvPutAll keep ..

theorem keeps_putState (keep : Keeps z s) (h r k i : Nat) :
    KeepsRes (fun _ => True) (Keeps z) (s.putState h r k i) := by
  induction k generalizing s i with
  | zero => exact .of_ok keep
  | succ k ih =>
    unfold State.putState
    split
    · exact ⟨trivial⟩
    · next e => exact ih (keeps_spend ((keeps_pvPut keep ..).ok e)) _

theorem keeps_putSlot (keep : Keeps z s) (h r tiles rec0 : Nat) :
    KeepsRes (fun _ => True) (Keeps z) (s.putSlot h r tiles rec0) := by
  unfold State.putSlot
  split
  · exact ⟨trivial⟩
  · next e => exact keeps_putState (keeps_spend ((keeps_pvPut keep ..).ok e) ..) ..

theorem keeps_toRank (keep : Keeps z s) (h : Nat) (p : Prob) (kind me col r : Nat) : Keeps z (s.toRank h p kind me col r) :=
  keeps_send keep ..

theorem keeps_toRanks (keep : Keeps z s) (h : Nat) (p : Prob) (kind me col : Nat) : Keeps z (s.toRanks h p kind me col) := by
  unfold State.toRanks
  exact keeps_foldl keep (fun _ _ step => keeps_toRank step ..)

theorem keeps_pvWrites (keep : Keeps z s) (h : Nat) (c : Cmd) (p : Prob) (x y : List Nat) (obj mu : Nat) :
    KeepsRes (fun _ => True) (Keeps z) (s.pvWrites h c p x y obj mu) := by
  unfold State.pvWrites
  split
  · exact ⟨trivial⟩
  · refine .bind (keeps_pvOut keep ..) fun s keep => ?_
    refine .bind (keeps_pvOut keep ..) fun s keep => ?_
    split_ifs
    · exact .of_ok keep
    · exact keeps_putSlot keep ..

theorem keeps_pvStatus (keep : Keeps z s) (h status : Nat) : Keeps z (s.pvStatus h status) := by
  unfold State.pvStatus
  split
  · exact keeps_setBit keep ..
  · exact keeps_setBit keep ..
  · exact keeps_setBit keep ..
  · exact keep

theorem keeps_keepSlot (keep : Keeps z s) (p : Prob) (slot : Slot) : Keeps z (s.keepSlot p slot) := by
  unfold State.keepSlot
  split
  · exact keep
  · exact keeps_update keep

theorem keeps_pvFix (keep : Keeps z s) (h i : Nat) (c : Cmd) (p : Prob) (x y : List Nat) (obj mu : Nat) (slot : Slot) :
    Keeps z (s.pvFix h i c p x y obj mu slot) := by
  unfold State.pvFix
  split
  · exact keeps_refuse keep ..
  · next e => exact keeps_setProb (keeps_pvStatus (keeps_keepSlot ((keeps_pvWrites keep ..).ok e) ..) ..) ..

theorem keeps_pvFallback (keep : Keeps z s) (h i : Nat) (c : Cmd) (p : Prob) (status : Nat) :
    Keeps z (s.pvFallback h i c p status) := by
  unfold State.pvFallback
  dsimp only
  exact keeps_toRanks (keeps_pvFix keep ..) ..

theorem keeps_pvReturn (keep : Keeps z s) (h i : Nat) (c : Cmd) (p : Prob) (status : Nat) :
    Keeps z (s.pvReturn h i c p status) := by
  unfold State.pvReturn
  exact keeps_toRanks (keeps_pvFix keep ..) ..

theorem keeps_pvBad (keep : Keeps z s) (h i : Nat) (c : Cmd) (p : Prob) : Keeps z (s.pvBad h i c p) := by
  unfold State.pvBad
  dsimp only
  exact keeps_ite (keeps_pvFallback keep ..) (keeps_setProb (keeps_toRank keep ..) ..)

theorem keeps_pvLoad (keep : Keeps z s) (h i : Nat) (c : Cmd) (p : Prob) : Keeps z (s.pvLoad h i c p) := by
  unfold State.pvLoad
  extract_lets d w
  have key : KeepsRes (KeepsEnd z) (Keeps z) w := by
    refine .bind (keeps_readSlot keep ..) fun (s0, slot, _, sol) keep => ?_
    refine .bind (keeps_readPat keep ..) fun (s1, pat) keep => ?_
    refine .bind (keeps_readStages keep ..) fun (s2, stages) keep => ?_
    dsimp only
    split
    · exact .of_ok (keeps_pvBad keep ..)
    · split
      · next e => exact .of_ok (keeps_pvBad ((keeps_readQp keep ..).error e).keeps ..)
      · next e => exact .of_error ⟨((keeps_readQp keep ..).error e).keeps⟩
      · next e =>
        have keep := (keeps_readQp keep ..).ok e
        split
        · exact .of_ok (keeps_pvBad keep ..)
        · split
          · exact .of_ok (keeps_refuse keep ..)
          · split
            · exact .of_ok (keeps_setProb (keeps_eng (keeps_setHand keep ..) ..) ..)
            · exact .of_ok (keeps_setProb (keeps_setHand keep ..) ..)
  clear_value w
  obtain ((_ | _) | _) := w
  · exact key.keeps.keeps
  · exact key.keeps.keeps
  · exact key.keeps

theorem keeps_addPert (keep : Keeps z s) (h n : Nat) : Keeps z (s.addPert h n) := by
  unfold State.addPert
  exact keeps_ite keep (keeps_setBit (keeps_countSat keep ..) ..)

theorem keeps_setGroupFact (keep : Keeps z s) (p : Prob) (f : Fact) : Keeps z (s.setGroupFact p f) := by
  unfold State.setGroupFact
  split
  · exact keep
  · exact keeps_update keep

theorem keeps_pvAbandon (keep : Keeps z s) (h i : Nat) (c : Cmd) (p : Prob) (status : Nat) :
    Keeps z (s.pvAbandon h i c p status) :=
  keeps_pvFallback keep ..

theorem keeps_pvDecide (keep : Keeps z s) (h i : Nat) (c : Cmd) (p : Prob) : Keeps z (s.pvDecide h i c p) := by
  unfold State.pvDecide
  dsimp only
  exact keeps_ite (keeps_pvReturn keep ..) (keeps_ite (keeps_pvReturn keep ..) (keeps_ite (keeps_pvFallback keep ..) (keeps_ite
    (keeps_pvFallback keep ..) (keeps_setProb keep ..))))

theorem keeps_pvTop (keep : Keeps z s) (h i : Nat) (c : Cmd) (p : Prob) : Keeps z (s.pvTop h i c p) := by
  unfold State.pvTop
  dsimp only
  exact keeps_ite (keeps_pvFallback keep ..) (keeps_ite (keeps_pvDecide (keeps_pvRun keep ..) ..) (keeps_setProb (keeps_pvRun
    keep ..) ..))

theorem keeps_pvForm (keep : Keeps z s) (h i : Nat) (c : Cmd) (p : Prob) : Keeps z (s.pvForm h i c p) := by
  unfold State.pvForm
  dsimp only
  exact keeps_ite (keeps_pvFallback keep ..) (keeps_ite (keeps_setProb (keeps_pvRun keep ..) ..) (keeps_ite (keeps_toRanks
    (keeps_setHand (keeps_setProb (keeps_setGroupFact (keeps_pvRun keep ..) ..) ..) ..) ..) (keeps_setProb (keeps_pvRun
    keep ..) ..)))

theorem keeps_pvFactored (keep : Keeps z s) (h i : Nat) (c : Cmd) (p : Prob) (f : Fact) : Keeps z (s.pvFactored h i c p f) := by
  unfold State.pvFactored
  dsimp only
  exact keeps_ite (keeps_setProb keep ..) (keeps_pvFallback keep ..)

theorem keeps_pvFactor (keep : Keeps z s) (h i : Nat) (c : Cmd) (p : Prob) : Keeps z (s.pvFactor h i c p) := by
  unfold State.pvFactor
  dsimp only
  exact keeps_ite (keeps_pvAbandon keep ..) (keeps_ite (keeps_pvFactored (keeps_addPert (keeps_eng keep ..) ..) ..) (keeps_setProb
    (keeps_addPert (keeps_eng keep ..) ..) ..))

theorem keeps_pvAffine (keep : Keeps z s) (h i : Nat) (c : Cmd) (p : Prob) : Keeps z (s.pvAffine h i c p) := by
  unfold State.pvAffine
  dsimp only
  exact keeps_ite (keeps_setProb (keeps_pvRun keep ..) ..) (keeps_ite (keeps_setProb (keeps_pvRun keep ..) ..) (keeps_pvFallback
    (keeps_pvRun keep ..) ..))

theorem keeps_pvCombined (keep : Keeps z s) (h i : Nat) (c : Cmd) (p : Prob) : Keeps z (s.pvCombined h i c p) := by
  unfold State.pvCombined
  dsimp only
  exact keeps_ite (keeps_setProb (keeps_pvRun keep ..) ..) (keeps_ite (keeps_setProb (keeps_pvRun keep ..) ..) (keeps_pvFallback
    (keeps_pvRun keep ..) ..))

theorem keeps_pvSave (keep : Keeps z s) (h : Nat) (p : Prob) (pa : Nat) :
    KeepsRes (fun _ => True) (Keeps z) (s.pvSave h p pa) := by
  unfold State.pvSave
  dsimp only
  split
  · exact ⟨trivial⟩
  · next e => exact .of_ok (keeps_update ((keeps_putSlot keep ..).ok e))

theorem keeps_pvRotate (keep : Keeps z s) (h i : Nat) (c : Cmd) (p : Prob) : Keeps z (s.pvRotate h i c p) := by
  unfold State.pvRotate
  dsimp only
  split
  · exact keeps_setHand (keeps_setProb keep ..) ..
  · split
    · exact keeps_setHand (keeps_setProb keep ..) ..
    · split
      · exact keeps_refuse (keeps_setHand (keeps_setProb keep ..) ..) ..
      · next e1 => exact (keeps_pvSave (keeps_setHand (keeps_setProb keep ..) ..) ..).ok e1

theorem keeps_pvMove (keep : Keeps z s) (h i : Nat) (c : Cmd) (p : Prob) : Keeps z (s.pvMove h i c p) := by
  unfold State.pvMove
  dsimp only
  exact keeps_ite (keeps_setProb (keeps_pvRun keep ..) ..) (keeps_ite (keeps_pvRotate (keeps_pvRun keep ..) ..) (keeps_pvFallback
    (keeps_pvRun keep ..) ..))

theorem keeps_pvFrame (keep : Keeps z s) (h i : Nat) (c : Cmd) (p : Prob) : Keeps z (s.pvFrame h i c p) := by
  unfold State.pvFrame
  dsimp only
  split
  · next e => exact ((keeps_pvTiles keep ..).error e).keeps
  · next e => exact ((keeps_pvTiles keep ..).error e).keeps
  · next e => exact keeps_setProb (keeps_setHand ((keeps_pvTiles keep ..).ok e) ..) ..

theorem keeps_pvSchedZero (keep : Keeps z s) (h i : Nat) (c : Cmd) (p : Prob) : Keeps z (s.pvSchedZero h i c p) := by
  unfold State.pvSchedZero
  dsimp only
  split
  · exact keeps_pvAbandon keep ..
  · split
    · exact keeps_pvAbandon keep ..
    · split
      · split
        · exact keeps_pvFactored (keeps_setHand keep ..) ..
        · exact keep
      · exact keep

theorem keeps_pvSchedRank (keep : Keeps z s) (h i : Nat) (p : Prob) : Keeps z (s.pvSchedRank h i p) := by
  unfold State.pvSchedRank
  dsimp only
  split
  · exact keep
  · exact keeps_setProb (keeps_setHand keep ..) ..

theorem keeps_pvBadStep (keep : Keeps z s) (h i : Nat) (c : Cmd) (p : Prob) : Keeps z (s.pvBadStep h i c p) := by
  unfold State.pvBadStep
  dsimp only
  exact keeps_ite (keeps_pvAbandon keep ..) (keeps_setProb (keeps_toRank keep ..) ..)

theorem keeps_pvListEnd (keep : Keeps z s) (h i : Nat) (c : Cmd) (p : Prob) : Keeps z (s.pvListEnd h i c p) := by
  unfold State.pvListEnd
  dsimp only
  exact keeps_ite (keeps_setHand keep ..) (keeps_setProb (keeps_toRank (keeps_setHand keep ..) ..) ..)

theorem keeps_pvDescs (keep : Keeps z s) (h i : Nat) (c : Cmd) : Keeps z (s.pvDescs h i c) := by
  unfold State.pvDescs
  dsimp only
  split
  · split
    · exact keep
    · exact keep
    · next e => exact (keeps_arrive keep ..).stop e
    · next e => exact keeps_setCmd ((keeps_arrive keep ..).ok e) ..
  · exact keeps_setHand keep ..

theorem keeps_probWork (keep : Keeps z s) (h k : Nat) (c : Cmd) (p : Prob) : Keeps z (s.probWork h k c p) := by
  unfold State.probWork
  dsimp only
  split
  · exact keeps_pvFrame keep ..
  · split
    · exact keeps_pvLoad keep ..
    · exact keeps_ite (keeps_pvSchedRank keep ..) (keeps_ite (keeps_pvBad keep ..) (keeps_pvTop keep ..))
    · exact keeps_pvForm keep ..
    · exact keeps_ite (keeps_pvFactor keep ..) (keeps_ite (keeps_pvSchedZero keep ..) (keeps_ite (keeps_pvSchedRank keep ..) keep))
    · exact keeps_pvAffine keep ..
    · exact keeps_pvCombined keep ..
    · exact keeps_pvMove keep ..

theorem keeps_pvWork (keep : Keeps z s) {one : State → Nat → Prob → State} (step : ∀ u k p, Keeps z u → Keeps z (one u k p))
    (h i : Nat) (c : Cmd) : Keeps z (s.pvWork h i c one) := by
  unfold State.pvWork
  dsimp only
  split
  · exact keeps_pvDescs keep ..
  · split
    · exact keeps_finish keep ..
    · split
      · exact keep
      · exact step _ _ _ keep

theorem keeps_pivotRow (keep : Keeps z s) {work : State → Nat → Cmd → State} (step : ∀ u i c, Keeps z u → Keeps z (work u i c))
    (h op : Nat) : Keeps z (s.pivotRow h op work) := by
  unfold State.pivotRow
  split
  · exact keeps_runStation keep step ..
  · exact keep

theorem keeps_execSolve (keep : Keeps z s) (h : HandIx) : KeepsOn z (execSolve h s) := by
  unfold execSolve
  exact ⟨keeps_pivotRow keep (fun _ _ _ step => keeps_pvWork step (fun _ _ _ step' => keeps_probWork step' ..) ..) ..⟩

theorem keeps_nextStep (keep : Keeps z s) (h : Nat) : Keeps z (s.nextStep h) := keeps_setHand keep ..

theorem keeps_schedRow (keep : Keeps z s) {f : State → Cmd → Prob → BitVec 128 → State}
    (step : ∀ u c p x, Keeps z u → Keeps z (f u c p x)) (h kind : Nat) : Keeps z (s.schedRow h kind f) := by
  unfold State.schedRow
  split
  · exact keep
  · exact keeps_ite (step _ _ _ _ keep) (keeps_pvBadStep keep ..)

theorem keeps_execSchedFact (keep : Keeps z s) (h : HandIx) : KeepsOn z (execSchedFact h s) := by
  unfold execSchedFact
  dsimp only
  exact ⟨keeps_schedRow keep (fun _ _ _ _ step => keeps_nextStep (keeps_setGroupFact (keeps_addPert (keeps_eng
    step ..) ..) ..) ..) ..⟩

theorem keeps_execSchedUpd (keep : Keeps z s) (h : HandIx) : KeepsOn z (execSchedUpd h s) := by
  unfold execSchedUpd
  dsimp only
  exact ⟨keeps_schedRow keep (fun _ _ _ _ step => keeps_nextStep (keeps_setGroupFact (keeps_eng step ..) ..) ..) ..⟩

theorem keeps_execSchedSend (keep : Keeps z s) (h : HandIx) : KeepsOn z (execSchedSend h s) := by
  unfold execSchedSend
  exact ⟨keeps_schedRow keep (fun _ _ _ _ step => keeps_nextStep (keeps_toRank step ..) ..) ..⟩

theorem keeps_execSchedRecv (keep : Keeps z s) (h : HandIx) : KeepsOn z (execSchedRecv h s) := by
  unfold execSchedRecv
  exact ⟨keeps_schedRow keep (fun _ _ _ _ step => keeps_ite (keeps_nextStep step ..) step) ..⟩

theorem keeps_execSchedSync (keep : Keeps z s) (h : HandIx) : KeepsOn z (execSchedSync h s) := by
  unfold execSchedSync
  dsimp only
  refine .of_next (keeps_schedRow keep (fun s c p x step => ?_) ..)
  split
  · exact keeps_toRanks (keeps_setHand step ..) ..
  · split
    · exact step
    · exact keeps_nextStep (keeps_setHand step ..) ..

theorem keeps_execSchedEnd (keep : Keeps z s) (h : HandIx) : KeepsOn z (execSchedEnd h s) := by
  unfold execSchedEnd
  exact ⟨keeps_schedRow keep (fun _ _ _ _ step => keeps_pvListEnd step ..) ..⟩

theorem keeps_execPivotDeadline (keep : Keeps z s) (h : HandIx) (i : Fin 8) : KeepsOn z (execPivotDeadline h i s) := by
  unfold execPivotDeadline
  split
  · exact ⟨keeps_ite (keeps_pvAbandon keep ..) keep⟩
  · exact ⟨keep⟩

theorem keeps_gradWrites (keep : Keeps z s) (h : Nat) (c : Cmd) (p : Prob) (nP nA : Nat) (g : Option Grads) :
    KeepsRes (KeepsEnd z) (Keeps z) (s.gradWrites h c p nP nA g) := by
  unfold State.gradWrites
  dsimp only
  split
  · exact .of_error ⟨keeps_refuse keep ..⟩
  · refine .bind (keeps_foldlM keep fun u x step => ?_) fun s keep => ?_
    · split
      · next e => exact .of_ok ((keeps_pvOut step ..).ok e)
      · exact .of_error ⟨keeps_refuse step ..⟩
    split
    · exact .of_ok keep
    · refine .bind (keeps_pvTile keep ..) fun (s, t) keep => ?_
      dsimp only
      split
      · next e => exact .of_ok ((keeps_pvPut keep ..).ok e)
      · exact .of_error ⟨keeps_refuse keep ..⟩

theorem keeps_gradFix (keep : Keeps z s) (h i : Nat) (c : Cmd) (p : Prob) (nP nA : Nat) (g : Option Grads) (overflow bad : Bool) :
    Keeps z (s.gradFix h i c p nP nA g overflow bad) := by
  unfold State.gradFix
  split
  · next e => exact ((keeps_gradWrites keep ..).error e).keeps
  · next e => exact ((keeps_gradWrites keep ..).error e).keeps
  · next s1 e =>
    have written : Keeps z s1 := (keeps_gradWrites keep ..).ok e
    extract_lets s2 s3
    have k2 : Keeps z s2 := keeps_ite (keeps_setBit written ..) written
    have k3 : Keeps z s3 := keeps_ite (keeps_setBit k2 ..) k2
    exact keeps_setProb k3 ..

theorem keeps_gradLoad (keep : Keeps z s) (h i : Nat) (c : Cmd) (p : Prob) : Keeps z (s.gradLoad h i c p) := by
  unfold State.gradLoad
  extract_lets d w
  have key : KeepsRes (KeepsEnd z) (Keeps z) w := by
    refine .bind (keeps_readSlot keep ..) fun (s0, slot, rec0, sol) keep => ?_
    refine .bind (keeps_readPat keep ..) fun (s1, pat) keep => ?_
    refine .bind (keeps_readStages keep ..) fun (s2, stages) keep => ?_
    dsimp only
    split
    · exact .of_ok (keeps_gradFix keep ..)
    · split
      · next e => exact .of_error ⟨((keeps_readQp keep ..).error e).keeps⟩
      · next e => exact .of_ok (keeps_gradFix ((keeps_readQp keep ..).error e).keeps ..)
      · next e =>
        have k3 := (keeps_readQp keep ..).ok e
        split
        · exact .of_ok (keeps_gradFix k3 ..)
        · split
          · exact .of_ok (keeps_gradFix k3 ..)
          · exact .bind (keeps_pvArray k3 ..) fun _ keep => .bind (keeps_pvArray keep ..) fun _ keep => .of_ok (keeps_setProb
              keep ..)
  clear_value w
  obtain ((_ | _) | _) := w
  · exact key.keeps.keeps
  · exact key.keeps.keeps
  · exact key.keeps

theorem keeps_gradOne (keep : Keeps z s) (h i : Nat) (c : Cmd) (p : Prob) : Keeps z (s.gradOne h i c p) := by
  unfold State.gradOne
  dsimp only
  exact keeps_ite (keeps_setProb keep ..) (keeps_ite (keeps_gradLoad keep ..) (keeps_ite (keeps_ite (keeps_setProb (keeps_pvRun
    keep ..) ..) (keeps_ite (keeps_setProb (keeps_pvRun keep ..) ..) (keeps_gradFix (keeps_pvRun keep ..) ..))) (keeps_ite
    (keeps_setProb (keeps_pvRun keep ..) ..) (keeps_gradFix (keeps_pvRun keep ..) ..))))

theorem keeps_execGrad (keep : Keeps z s) (h : HandIx) : KeepsOn z (execGrad h s) := by
  unfold execGrad
  exact ⟨keeps_pivotRow keep (fun _ _ _ step => keeps_pvWork step (fun _ _ _ step' => keeps_gradOne step' ..) ..) ..⟩

theorem keeps_pivotReport (keep : Keeps z s) (h code status : Nat) (c : Cmd) : Keeps z (s.pivotReport h code status c) := by
  unfold State.pivotReport
  split
  · exact keep
  · exact keeps_postHand keep ..

theorem keeps_pivotCommit (keep : Keeps z s) (h : Nat) (c : Cmd) : Keeps z (s.pivotCommit h c) := by
  unfold State.pivotCommit
  dsimp only
  exact keeps_setHand (keeps_pivotReport (keeps_pivotReport keep ..) ..) ..

theorem keeps_execTileCheck (keep : Keeps z s) (k : CoreIx) (station opd : Nat) (corrupt : Bool) :
    KeepsOn z (execTileCheck k station opd corrupt s) := by
  unfold execTileCheck
  split
  · exact ⟨keep⟩
  · split
    · exact ⟨keep⟩
    · split
      · exact ⟨keep⟩
      · split
        · exact ⟨keep⟩
        · next e1 => exact ⟨(keeps_arriveTile keep ..).asked e1⟩
        · next e1 => exact ⟨(keeps_arriveTile keep ..).stop e1⟩
        · next e1 => exact ⟨keeps_setCmd ((keeps_arriveTile keep ..).ok e1) ..⟩

theorem keeps_execCreditReturn (keep : Keeps z s) (k : CoreIx) (port : Nat) : KeepsOn z (execCreditReturn k port s) := by
  unfold execCreditReturn
  dsimp only
  exact ⟨keeps_ite (keeps_ite (keeps_setCore keep (fits_setPort (fits_core keep _) ..) _) keep) (keeps_ite (keeps_setCore keep
    (fits_update (fits_core keep _)) _) keep)⟩

theorem fits_handOver {c : Core} (fit : Fits z c) (r : BitVec 512) : Fits z (c.handOver r) := by
  unfold Core.handOver
  split_ifs
  · exact fit
  · split
    · exact fit
    · exact fits_update fit

theorem keeps_commitHead (keep : Keeps z s) (st u : Nat) (c : Cmd) : Keeps z (s.commitHead st u c) := by
  unfold State.commitHead
  extract_lets h s1 s2 s3 s4 s5 s6
  have k1 : Keeps z s1 := keeps_setQueue keep ..
  have k2 : Keeps z s2 := keeps_ite (keeps_setCore k1 (fits_handOver (fits_core k1 _) _) _) k1
  have k3 : Keeps z s3 := keeps_ite (keeps_pivotCommit k2 ..) k2
  have k4 : Keeps z s4 := keeps_ite (keeps_setHand k3 ..) k3
  have k5 : Keeps z s5 := keeps_traceEnd (keeps_applyIncs k4 ..) ..
  have k6 : Keeps z s6 := keeps_ite (keeps_spend k5) k5
  exact keeps_setHand k6 ..

theorem keeps_execCommandCommit (keep : Keeps z s) (ep : BitVec 16) (station : BitVec 4) (diverged : Bool) :
    KeepsOn z (execCommandCommit ep station diverged s) := by
  unfold execCommandCommit
  split
  · exact ⟨keep⟩
  · split
    · exact ⟨keep⟩
    · exact ⟨keeps_ite keep (keeps_ite (keeps_ite keep (keeps_millHeadCommit keep ..)) (keeps_ite keep (keeps_commitHead keep ..)))⟩

theorem keeps_execColl (keep : Keeps z s) (h : HandIx) : KeepsOn z (execColl h s) := by
  unfold execColl
  dsimp only
  split
  · refine .of_next (keeps_runStation keep (fun s i c step => ?_) ..)
    split
    · exact keeps_finish step ..
    · split
      · exact step
      · split
        · split
          · exact step
          · exact step
          · next e2 => exact (keeps_arrive step ..).stop e2
          · next e2 => exact keeps_setCmd ((keeps_arrive step ..).ok e2) ..
        · exact keeps_send (keeps_setCmd step ..) ..
  · exact ⟨keep⟩

theorem keeps_setColl (keep : Keeps z s) (c : Coll) : Keeps z (s.setColl c) := keeps_update keep

theorem keeps_delColl (keep : Keeps z s) (g tag : Nat) : Keeps z (s.delColl g tag) := keeps_update keep

theorem keeps_postDealer (keep : Keeps z s) (sl : List Nat) (code ep detail : Nat) :
    Keeps z (s.postDealer sl code ep detail) := by
  unfold State.postDealer
  exact keeps_foldl keep (fun _ _ step => keeps_postAt step ..)

theorem keeps_takeSlots (keep : Keeps z s) (d : BitVec 2048) (n : Nat) : Keeps z (s.takeSlots d n) := by
  unfold State.takeSlots
  exact keeps_foldl keep (fun _ _ step => keeps_setField step ..)

theorem keeps_giveSlots (keep : Keeps z s) (d : BitVec 2048) (n : Nat) : Keeps z (s.giveSlots d n) := by
  unfold State.giveSlots
  exact keeps_foldl keep (fun _ _ step => keeps_setField step ..)

theorem keeps_writeCompl (keep : Keeps z s) (c : Coll) (status h : Nat) : Keeps z (s.writeCompl c status h) := by
  unfold State.writeCompl
  dsimp only
  split
  · exact keep
  · split
    · next e => exact (keeps_writeTile keep ..).ok e
    · exact keeps_refuse keep ..

theorem keeps_collMalformed (keep : Keeps z s) (c : Coll) : Keeps z (s.collMalformed c) := by
  unfold State.collMalformed
  dsimp only
  exact keeps_foldl (keeps_setColl keep ..) (fun _ _ step => keeps_badRecord step ..)

theorem keeps_collFail (keep : Keeps z s) (c : Coll) : Keeps z (s.collFail c) := by
  unfold State.collFail
  dsimp only
  exact keeps_foldl (keeps_foldl (keeps_ite (keeps_setColl keep ..) (keeps_giveSlots (keeps_setColl keep ..) ..)) (fun _ _ step =>
    keeps_postDealer step ..)) (fun _ _ step => keeps_writeCompl step ..)

theorem keeps_collFilled (keep : Keeps z s) (c : Coll) : Keeps z (s.collFilled c) := by
  unfold State.collFilled
  exact keeps_ite (keeps_setColl keep ..) (keeps_ite (keeps_setColl keep ..) (keeps_collMalformed (keeps_setColl keep ..) ..))

theorem keeps_failFenced (keep : Keeps z s) : Keeps z (s.failFenced) := by
  unfold State.failFenced
  exact keeps_foldl keep (fun _ _ step => keeps_ite (keeps_collFail step ..) (keeps_collFilled step ..))

theorem keeps_restartColl (keep : Keeps z s) (c : Coll) : Keeps z (s.restartColl c) := by
  unfold State.restartColl
  dsimp only
  exact keeps_foldl (keeps_delColl (keeps_ite keep (keeps_giveSlots keep ..)) ..) (fun _ _ step => keeps_setHand step ..)

theorem keeps_collOrder (keep : Keeps z s) (x y : Coll) : Keeps z (s.collOrder x y) := by
  unfold State.collOrder
  dsimp only
  exact keeps_ite (keeps_update (keeps_ring (keeps_setBit (keeps_delColl (keeps_delColl (keeps_add32 (keeps_postDealer
    (keeps_postDealer keep ..) ..) ..) ..) ..) ..) ..)) (keeps_update (keeps_recover (keeps_foldl (keeps_delColl (keeps_delColl
    (keeps_add32 (keeps_postDealer (keeps_postDealer keep ..) ..) ..) ..) ..) (fun _ _ step => keeps_ring step ..)) ..))

theorem keeps_replayPairs (keep : Keeps z s) : Keeps z (s.replayPairs) := by
  unfold State.replayPairs
  dsimp only
  exact keeps_foldl (keeps_update (keeps_foldl keep (fun _ _ step => keeps_foldl step (fun _ _ step' => keeps_setHand step' ..))))
    (fun _ _ step => keeps_foldl step (fun _ _ step' => keeps_resumeScope step' ..))

theorem keeps_execCutComplete (keep : Keeps z s) : KeepsOn z (execCutComplete s) := by
  unfold execCutComplete
  exact ⟨keeps_replayPairs (keeps_cutComplete keep ..) ..⟩

theorem keeps_execCollJoin (keep : Keeps z s) (i : Nat) : KeepsOn z (execCollJoin i s) := by
  unfold execCollJoin
  refine .of_next ?_
  split
  · exact keep
  · split
    · split
      · exact keeps_ite (keeps_dropPacket keep ..) keep
      · extract_lets s1 old c0 s2 same c1
        have k1 : Keeps z s1 := keeps_dropPacket keep ..
        have k2 : Keeps z s2 := keeps_ite (keeps_update k1) k1
        refine keeps_ite keep (keeps_ite keep (keeps_ite k1 (keeps_ite (keeps_collMalformed (keeps_setColl k2 ..) ..)
          (keeps_ite (keeps_setColl k2 ..) (keeps_ite (keeps_collFail k2 ..) ?_)))))
        split
        · exact keeps_collOrder k2 ..
        · exact keeps_collFilled k2 ..
    · exact keep

theorem keeps_tableEntry (keep : Keeps z s) (h : Nat) (c : Cmd) (ref n k : Nat) :
    KeepsRes (Keeps z) (fun x => Keeps z x.1) (s.tableEntry h c ref n k) := by
  unfold State.tableEntry
  dsimp only
  split
  · exact .of_error keep
  · exact .of_error keep
  · next e => exact .of_error ((keeps_arriveMem keep ..).stop e)
  · next e => exact .of_pair ((keeps_arriveMem keep ..).ok e)

theorem keeps_sendDetours (keep : Keeps z s) (c : Coll) : Keeps z (s.sendDetours c) := by
  unfold State.sendDetours
  dsimp only
  refine keeps_foldl keep (fun s x step => ?_)
  split
  · exact step
  · split
    · next e1 => exact (keeps_tableEntry step ..).error e1
    · next e2 => exact keeps_send ((keeps_tableEntry step ..).ok e2) ..

theorem keeps_toVector (keep : Keeps z s) (c : Coll) (why : Nat) : Keeps z (s.toVector c why) := by
  unfold State.toVector
  dsimp only
  exact keeps_sendDetours (keeps_setColl (keeps_ite (keeps_add32 (keeps_ite keep (keeps_giveSlots keep ..)) ..) (keeps_ite keep
    (keeps_giveSlots keep ..))) ..) ..

theorem keeps_countWait (keep : Keeps z s) (c : Coll) : Keeps z (s.countWait c) := by
  unfold State.countWait
  exact keeps_foldl keep (fun _ _ step => keeps_addCycles step ..)

theorem keeps_execCollAdmit (keep : Keeps z s) (g : BitVec 8) (tag : BitVec 28) : KeepsOn z (execCollAdmit g tag s) := by
  unfold execCollAdmit
  dsimp only
  split
  · exact ⟨keep⟩
  · exact ⟨keeps_ite keep (keeps_ite (keeps_collFail keep ..) (keeps_ite (keeps_ite keep (keeps_toVector (keeps_countWait
      keep ..) ..)) (keeps_ite (keeps_setColl (keeps_countWait keep ..) ..) (keeps_ite (keeps_setColl (keeps_takeSlots
      (keeps_countWait keep ..) ..) ..) keep))))⟩

theorem keeps_execAdmitTimeout (keep : Keeps z s) (g : BitVec 8) (tag : BitVec 28) : KeepsOn z (execAdmitTimeout g tag s) := by
  unfold execAdmitTimeout
  dsimp only
  split
  · exact ⟨keep⟩
  · split
    · exact ⟨keep⟩
    · exact ⟨keeps_ite (keeps_ite (keeps_collMalformed keep ..) (keeps_ite keep (keeps_toVector (keeps_countWait keep ..) ..)))
        keep⟩

theorem keeps_execCollTimeout (keep : Keeps z s) (g : BitVec 8) (tag : BitVec 28) (h : HandIx) :
    KeepsOn z (execCollTimeout g tag h s) := by
  unfold execCollTimeout
  dsimp only
  split
  · exact ⟨keep⟩
  · exact ⟨keeps_ite (keeps_postDealer (keeps_add32 (keeps_setColl keep ..) ..) ..) keep⟩

theorem keeps_execPruneNotice (keep : Keeps z s) (i : Nat) : KeepsOn z (execPruneNotice i s) := by
  unfold execPruneNotice
  dsimp only
  split
  · exact ⟨keep⟩
  · split
    · split
      · exact ⟨keep⟩
      · split
        · exact ⟨keeps_dropPacket keep ..⟩
        · exact ⟨keeps_setColl (keeps_dropPacket keep ..) ..⟩
    · exact ⟨keep⟩

theorem keeps_execCollComplete (keep : Keeps z s) (g : BitVec 8) (tag : BitVec 28) : KeepsOn z (execCollComplete g tag s) := by
  unfold execCollComplete
  dsimp only
  split
  · exact ⟨keep⟩
  · refine .of_next (keeps_ite keep (keeps_delColl (keeps_ite (keeps_ite (keeps_setReg (keeps_setReg (keeps_add64 (keeps_add64
      (keeps_ite (keeps_foldl keep (fun s h step => ?_)) (keeps_giveSlots (keeps_foldl keep (fun s h step =>
      ?_)) ..)) ..) ..) ..) ..) (keeps_add64 (keeps_add64 (keeps_ite (keeps_foldl keep (fun s h step => ?_)) (keeps_giveSlots
      (keeps_foldl keep (fun s h step => ?_)) ..)) ..) ..)) (keeps_add32 (keeps_ite (keeps_setReg (keeps_setReg (keeps_add64
      (keeps_add64 (keeps_ite (keeps_foldl keep (fun s h step => ?_)) (keeps_giveSlots (keeps_foldl keep (fun s h step =>
      ?_)) ..)) ..) ..) ..) ..) (keeps_add64 (keeps_add64 (keeps_ite (keeps_foldl keep (fun s h step => ?_)) (keeps_giveSlots
      (keeps_foldl keep (fun s h step => ?_)) ..)) ..) ..)) ..)) ..))
    · split
      · exact keeps_ite (keeps_writeCompl step ..) (keeps_finish (keeps_writeCompl step ..) ..)
      · exact keeps_writeCompl step ..
    · split
      · exact keeps_ite (keeps_writeCompl step ..) (keeps_finish (keeps_writeCompl step ..) ..)
      · exact keeps_writeCompl step ..
    · split
      · exact keeps_ite (keeps_writeCompl step ..) (keeps_finish (keeps_writeCompl step ..) ..)
      · exact keeps_writeCompl step ..
    · split
      · exact keeps_ite (keeps_writeCompl step ..) (keeps_finish (keeps_writeCompl step ..) ..)
      · exact keeps_writeCompl step ..
    · split
      · exact keeps_ite (keeps_writeCompl step ..) (keeps_finish (keeps_writeCompl step ..) ..)
      · exact keeps_writeCompl step ..
    · split
      · exact keeps_ite (keeps_writeCompl step ..) (keeps_finish (keeps_writeCompl step ..) ..)
      · exact keeps_writeCompl step ..
    · split
      · exact keeps_ite (keeps_writeCompl step ..) (keeps_finish (keeps_writeCompl step ..) ..)
      · exact keeps_writeCompl step ..
    · split
      · exact keeps_ite (keeps_writeCompl step ..) (keeps_finish (keeps_writeCompl step ..) ..)
      · exact keeps_writeCompl step ..

theorem keeps_execResidueMismatch (keep : Keeps z s) (b : BridgeIx) (lane slot : Nat) (g : BitVec 8) (tag : BitVec 28) (retryOk :
    Bool) :
    KeepsOn z (execResidueMismatch b lane slot g tag retryOk s) := by
  unfold execResidueMismatch
  dsimp only
  split
  · exact ⟨keep⟩
  · exact ⟨keeps_ite keep (keeps_ite (keeps_post (keeps_setColl (keeps_countSat keep ..) ..) ..) (keeps_foldl (keeps_setBit
      (keeps_post (keeps_countSat keep ..) ..) ..) (fun _ _ step => keeps_toVector step ..)))⟩

theorem keeps_execApply (keep : Keeps z s) (i : SuitIx) (reeve : Bool) : KeepsOn z (execApply i reeve s) := by
  unfold execApply
  exact ⟨keeps_ite keep (keeps_setBit keep ..)⟩

theorem keeps_copyTables (keep : Keeps z s) (i : Nat) : Keeps z (s.copyTables i) := by
  unfold State.copyTables
  dsimp only
  exact keeps_ite (keeps_failFenced (keeps_clearBit (keeps_commitStaged keep ..) ..) ..) keep

theorem keeps_execTableCopy (keep : Keeps z s) (i : SuitIx) : KeepsOn z (execTableCopy i s) := by
  unfold execTableCopy
  exact ⟨keeps_copyTables keep ..⟩

theorem keeps_applyBit (keep : Keeps z s) (a i n : Nat) (on : Bool) : Keeps z (s.applyBit a i n on) :=
  keeps_copyTables (keeps_setBit (keeps_staged keep (rising_put _ _)) ..) ..

theorem keeps_setFence (keep : Keeps z s) (h : Nat) (on : Bool) : Keeps z (s.setFence h on) := keeps_applyBit keep ..

theorem keeps_setFold (keep : Keeps z s) (i : Nat) (on : Bool) : Keeps z (s.setFold i on) := by
  unfold State.setFold
  exact keeps_foldl keep (fun _ _ step => keeps_applyBit step ..)

end Sys2Proof
end

section
/-! PROOFS. What every command keeps: the fault log, the registers and the granary. -/

namespace Sys2Proof

open Machine

variable {z s : State}

theorem keeps_loseRecord (keep : Keeps z s) (r : BitVec 128) : Keeps z (s.loseRecord r) := by
  unfold State.loseRecord
  dsimp only
  exact keeps_ite (keeps_setBit (keeps_countSat keep ..) ..) (keeps_countSat keep ..)

theorem keeps_signalLog (keep : Keeps z s) : Keeps z (s.signalLog) := by
  unfold State.signalLog
  dsimp only
  exact keeps_ite (keeps_update keep) (keeps_update keep)

theorem keeps_logPut (keep : Keeps z s) (r : BitVec 128) : Keeps z (s.logPut r) := by
  unfold State.logPut
  extract_lets h base ctl recov s1 s2
  have k1 : Keeps z s1 := keeps_update (keeps_ddr keep (Memory.wf_write (base + h * 16) 16 r.toNat))
  have k2 : Keeps z s2 := keeps_setField k1 ..
  exact keeps_ite (keeps_signalLog k2) k2

theorem keeps_queueRecord (keep : Keeps z s) (reeve : Nat) (r : BitVec 128) : Keeps z (s.queueRecord reeve r) := by
  unfold State.queueRecord
  exact keeps_ite (keeps_update keep) (keeps_loseRecord keep ..)

theorem keeps_holdRecord (keep : Keeps z s) (reeve : Nat) (r : BitVec 128) : Keeps z (s.holdRecord reeve r) := by
  unfold State.holdRecord
  dsimp only
  exact keeps_ite (keeps_update keep) (keeps_ite (keeps_queueRecord keep ..) (keeps_queueRecord (keeps_update (keeps_ring
    keep ..)) ..))

theorem keeps_logRecord (keep : Keeps z s) (reeve : Nat) (r : BitVec 128) : Keeps z (s.logRecord reeve r) := by
  unfold State.logRecord
  exact keeps_ite (keeps_ite (keeps_update keep) (keeps_loseRecord keep ..)) (keeps_ite (keeps_logPut keep ..) (keeps_ite
    (keeps_ite (keeps_loseRecord keep ..) (keeps_logPut keep ..)) (keeps_holdRecord keep ..)))

theorem keeps_execFaultRecord (keep : Keeps z s) (r : ReeveIx) : KeepsOn z (execFaultRecord r s) := by
  unfold execFaultRecord
  split
  · exact ⟨keep⟩
  · exact ⟨keeps_ite keep (keeps_logRecord (keeps_update keep) ..)⟩

theorem keeps_releaseHeld (keep : Keeps z s) (n : Nat) : Keeps z (State.releaseHeld n s) := by
  induction n generalizing s with
  | zero => exact keep
  | succ n ih =>
    unfold State.releaseHeld
    split
    · exact keep
    · exact keeps_ite keep (ih (keeps_logPut (keeps_update keep) ..))

theorem keeps_releaseQueues (keep : Keeps z s) (n : Nat) : Keeps z (State.releaseQueues n s) := by
  induction n generalizing s with
  | zero => exact keep
  | succ n ih =>
    unfold State.releaseQueues
    dsimp only
    split
    · exact keep
    · exact keeps_ite (keeps_ite (ih (keeps_update keep)) keep)
        (keeps_ite (ih (keeps_update keep)) (ih (keeps_logPut (keeps_update keep) ..)))

theorem keeps_endOverCut (keep : Keeps z s) : Keeps z (s.endOverCut) := by
  unfold State.endOverCut
  exact keeps_ite (keeps_resumeScope (keeps_update keep) ..) keep

theorem keeps_writeTail (keep : Keeps z s) (v : W32) : Keeps z (s.writeTail v) := by
  unfold State.writeTail
  dsimp only
  exact keeps_endOverCut (keeps_releaseQueues (keeps_releaseHeld (keeps_update (keeps_setField (keeps_setReg keep ..) ..)) _) _)

theorem keeps_execFaultTailWrite (keep : Keeps z s) (v : W32) : KeepsOn z (execFaultTailWrite v s) := by
  unfold execFaultTailWrite
  exact ⟨keeps_writeTail keep ..⟩

theorem keeps_openLog (keep : Keeps z s) : Keeps z (s.openLog) := by
  unfold State.openLog
  dsimp only
  exact keeps_ite keep (keeps_foldl (keeps_update keep) (fun _ _ step => keeps_logRecord step ..))

theorem keeps_execFaultLog (keep : Keeps z s) : KeepsOn z (execFaultLog s) := by
  unfold execFaultLog
  split
  · exact ⟨keep⟩
  · exact ⟨keeps_ite (keeps_update keep) keep⟩

theorem keeps_dbgRead (keep : Keeps z s) (ad h : Nat) (core : Option Nat) : Keeps z (s.dbgRead ad h core).1 := by
  unfold State.dbgRead
  extract_lets sp o s1
  have k1 : Keeps z s1 := keeps_setField keep ..
  split
  · exact keeps_fst (keeps_setBit k1 ..)
  · split
    · exact keeps_fst k1
    · split
      · exact keeps_fst (keeps_spend k1)
      · exact keeps_fst k1

theorem keeps_dbgDataAt (keep : Keeps z s) (a : Nat) : KeepsSome (fun x => Keeps z x.1) (s.dbgDataAt a) := by
  unfold State.dbgDataAt
  dsimp only
  split
  · split
    · exact ⟨trivial⟩
    · split
      · split
        · exact .of_pair keep
        · exact ⟨keeps_dbgRead keep ..⟩
      · split
        · exact .of_pair keep
        · exact ⟨keeps_dbgRead keep ..⟩
  · split
    · exact ⟨trivial⟩
    · split
      · split
        · exact .of_pair keep
        · exact ⟨keeps_dbgRead keep ..⟩
      · split
        · exact .of_pair keep
        · exact ⟨keeps_dbgRead keep ..⟩
  · exact ⟨trivial⟩

theorem keeps_execDbgDataRead (keep : Keeps z s) (addr : Nat) : KeepsOn z (execDbgDataRead addr s) := by
  unfold execDbgDataRead
  refine .of_next (keeps_ite (keeps_update keep) ?_)
  split
  · next e => exact keeps_update ((keeps_dbgDataAt keep ..).some e)
  · exact keep

theorem keeps_readPanel (keep : Keeps z s) : Keeps z (s.readPanel).1 := by
  unfold State.readPanel
  dsimp only
  exact keeps_spend keep ..

theorem keeps_readWord (keep : Keeps z s) (a : Nat) : Keeps z (s.readWord a).1 := by
  unfold State.readWord
  split
  · exact keeps_fst (keeps_spend keep)
  · split
    · exact keeps_readPanel keep
    · split
      · next e => exact (keeps_dbgDataAt keep ..).some e
      · exact keeps_fst (keeps_update keep)

theorem keeps_execStatusRead (keep : Keeps z s) (addr : Nat) : KeepsOn z (execStatusRead addr s) := by
  unfold execStatusRead
  dsimp only
  exact ⟨keeps_ite (keeps_update keep) (keeps_ite (keeps_update keep) (keeps_ite (keeps_update keep) keep))⟩

theorem keeps_copySuit (keep : Keeps z s) (r : Sensors) (i : Nat) : Keeps z (s.copySuit r i) := keeps_update keep

theorem keeps_execHousekeepingEdge (keep : Keeps z s) (r : Sensors) : KeepsOn z (execHousekeepingEdge r s) := by
  unfold execHousekeepingEdge
  dsimp only
  exact ⟨keeps_foldl (keeps_update keep) (fun _ _ step => keeps_copySuit step ..)⟩

theorem keeps_markCleared (keep : Keeps z s) (x : Nat × Nat) : Keeps z (s.markCleared x) := by
  unfold State.markCleared
  exact keeps_ite (keeps_setQueue keep ..) keep

theorem keeps_clearBlock (keep : Keeps z s) (a : Nat) : Keeps z (s.clearBlock a) := by
  refine keeps_foldl (keeps_regs keep fun rising => ?_) fun _ _ step => keeps_markCleared step ..
  generalize obsCounters a = l
  revert rising
  generalize s.regs = m
  induction l generalizing m with
  | nil => exact id
  | cons x l ih => exact fun rising => ih _ (rising_del _ rising)

theorem keeps_execClear (keep : Keeps z s) (addr : Nat) : KeepsOn z (execClear addr s) := by
  unfold execClear
  exact ⟨keeps_ite (keeps_update keep) (keeps_ite keep (keeps_clearBlock keep ..))⟩

theorem keeps_writeXlq (keep : Keeps z s) (i : Nat) (v : W32) : Keeps z (s.writeXlq i v) := by
  unfold State.writeXlq
  dsimp only
  exact keeps_setReg (keeps_setReg (keeps_setReg keep ..) ..) ..

theorem keeps_execXlqWrite (keep : Keeps z s) (i : SuitIx) (v : W32) : KeepsOn z (execXlqWrite i v s) := by
  unfold execXlqWrite
  exact ⟨keeps_ite keep (keeps_writeXlq keep ..)⟩

theorem keeps_execCfgScan (keep : Keeps z s) : KeepsOn z (execCfgScan s) := by
  unfold execCfgScan
  exact ⟨keeps_ite (keeps_update keep) keep⟩

theorem keeps_raiseDrift (keep : Keeps z s) (n : Nat) (b : Blk) (crc : Nat) : Keeps z (s.raiseDrift n b crc) := by
  unfold State.raiseDrift
  dsimp only
  split
  · split
    · exact keeps_ring (keeps_postHand (keeps_update (keeps_setBit keep ..)) ..) ..
    · exact keeps_ring (keeps_postHand (keeps_update (keeps_setBit keep ..)) ..) ..
    · exact keeps_ring (keeps_post (keeps_update (keeps_setBit keep ..)) ..) ..
  · split
    · exact keeps_postHand (keeps_update (keeps_setBit keep ..)) ..
    · exact keeps_postHand (keeps_update (keeps_setBit keep ..)) ..
    · exact keeps_post (keeps_update (keeps_setBit keep ..)) ..

theorem keeps_execCfgScanEnd (keep : Keeps z s) (block : Nat) : KeepsOn z (execCfgScanEnd block s) := by
  unfold execCfgScanEnd
  dsimp only
  split
  · exact ⟨keep⟩
  · exact ⟨keeps_ite keep (keeps_ite (keeps_raiseDrift (keeps_update (keeps_setField (keeps_setReg keep ..) ..)) ..) (keeps_update
      (keeps_setField (keeps_setReg keep ..) ..)))⟩

theorem keeps_execGraceEnd (keep : Keeps z s) (block : Nat) : KeepsOn z (execGraceEnd block s) := by
  unfold execGraceEnd
  dsimp only
  split
  · exact ⟨keep⟩
  · exact ⟨keeps_ite (keeps_update keep) keep⟩

theorem keeps_writeCfgRef (keep : Keeps z s) (a : Nat) (v : W32) : Keeps z (s.writeCfgRef a v) := by
  unfold State.writeCfgRef
  exact keeps_clearBit (keeps_setBit (keeps_setReg keep ..) ..) ..

theorem keeps_execCfgRefWrite (keep : Keeps z s) (addr : Nat) (v : W32) : KeepsOn z (execCfgRefWrite addr v s) := by
  unfold execCfgRefWrite
  exact ⟨keeps_ite (keeps_update keep) (keeps_ite (keeps_writeCfgRef keep ..) keep)⟩

theorem keeps_writeNow (keep : Keeps z s) (a : Nat) (r : RegRow) (v : W32) : Keeps z (s.writeNow a r v) := by
  unfold State.writeNow
  dsimp only
  exact keeps_ite (keeps_startGrace (keeps_setReg keep ..) ..) (keeps_setReg keep ..)

theorem keeps_writeStaged (keep : Keeps z s) (a : Nat) (r : RegRow) (v : W32) : Keeps z (s.writeStaged a r v) :=
  keeps_ite { keeps_commitOne keep .. with staged := fun rising => rising_del _ (keep.staged rising) } (keeps_staged keep
    (rising_put _ _))

theorem keeps_writeGran (keep : Keeps z s) (i : Nat) (v : W32) : Keeps z (s.writeGran i v) := by
  unfold State.writeGran
  exact keeps_writeStaged (keeps_setGranMode keep ..) ..

theorem keeps_writeFab (keep : Keeps z s) (i : Nat) (v : W32) : Keeps z (s.writeFab i v) := by
  unfold State.writeFab
  dsimp only
  exact keeps_ite (keeps_setBit (keeps_update (keeps_staged keep (rising_put _ _))) ..) (keeps_update (keeps_staged keep
    (rising_put _ _)))

theorem keeps_holdLow (keep : Keeps z s) (a : Nat) (v : W32) : Keeps z (s.holdLow a v) := keeps_update keep

theorem keeps_writePair (keep : Keeps z s) (a : Nat) (r : RegRow) (v : W32) : Keeps z (s.writePair a r v) := by
  unfold State.writePair
  dsimp only
  split
  · split
    · exact keeps_setHand (keeps_writeNow (keeps_update (keeps_writeNow keep ..)) ..) ..
    · exact keeps_setHand (keeps_writeNow (keeps_update keep) ..) ..
  · split
    · split
      · exact keeps_openLog (keeps_writeNow (keeps_update (keeps_writeNow keep ..)) ..) ..
      · exact keeps_openLog (keeps_writeNow (keeps_update keep) ..) ..
    · split
      · exact keeps_writeNow (keeps_update (keeps_writeNow keep ..)) ..
      · exact keeps_writeNow (keeps_update keep) ..
  · split
    · exact keeps_writeNow (keeps_update (keeps_writeNow keep ..)) ..
    · exact keeps_writeNow (keeps_update keep) ..

theorem keeps_writeOwn (keep : Keeps z s) (a : Nat) (r : RegRow) (v : W32) : Keeps z (s.writeOwn a r v) := by
  unfold State.writeOwn
  dsimp only
  split
  · exact keeps_ite (keeps_resumeScope (keeps_bellRing keep ..) ..) (keeps_bellRing keep ..)
  · split
    · exact keeps_writeTail keep ..
    · split
      · exact keeps_writeCfgRef keep ..
      · split
        · exact keeps_ite (keeps_writeFab keep ..) (keeps_ite (keeps_writeXlq keep ..) (keeps_ite (keeps_clearBlock keep ..) keep))
        · exact keeps_ite (keeps_clearBlock (keeps_writeNow keep ..) ..) (keeps_writeNow keep ..)
        · exact keeps_ite (keeps_clearBlock keep ..) keep

theorem keeps_writeReg (keep : Keeps z s) (reeve : Bool) (a : Nat) (v : W32) : Keeps z (s.writeReg reeve a v) := by
  unfold State.writeReg
  split
  · exact keep
  · split
    · exact keep
    · split
      · exact keeps_writeOwn keep ..
      · split
        · exact keeps_holdLow keep ..
        · split
          · exact keeps_writePair keep ..
          · split
            · exact keeps_update (keeps_staged keep (rising_put _ _))
            · split
              · exact keeps_writeNow keep ..
              · split
                · exact keeps_ite (keeps_writeGran keep ..) (keeps_writeStaged keep ..)
                · exact keeps_writeStaged keep ..

theorem keeps_writeWord (keep : Keeps z s) (reeve : Bool) (a : Nat) (v : W32) : Keeps z (s.writeWord reeve a v) := by
  unfold State.writeWord
  exact keeps_ite (keeps_update keep) (keeps_writeReg keep ..)

theorem keeps_execRegisterWrite (keep : Keeps z s) (reeve : Bool) (addr width : Nat) (v : W32) :
    KeepsOn z (execRegisterWrite reeve addr width v s) := by
  unfold execRegisterWrite
  exact ⟨keeps_ite (keeps_writeWord keep ..) (keeps_update keep)⟩

theorem keeps_execTraceDrain (keep : Keeps z s) (u : Fin 648) : KeepsOn z (execTraceDrain u s) := by
  unfold execTraceDrain
  dsimp only
  exact ⟨keeps_ite (keeps_ite (keeps_setHand (keeps_drainWrite keep ..) ..) (keeps_setMill (keeps_drainWrite keep ..) ..)) keep⟩

theorem keeps_execPrefetchIssue (keep : Keeps z s) (i : SuitIx) (det : Nat) (arrived : Bool) :
    KeepsOn z (execPrefetchIssue i det arrived s) := by
  unfold execPrefetchIssue
  dsimp only
  split
  · exact ⟨keep⟩
  · split
    · exact ⟨keep⟩
    · split
      · exact ⟨keep⟩
      · exact ⟨keeps_add64 (keeps_setSuit keep ..) ..⟩
      · split
        · exact ⟨keep⟩
        · split
          · exact ⟨keeps_setSuit keep ..⟩
          · split
            · exact ⟨keeps_fillLine (keeps_setSuit keep ..) ..⟩
            · exact ⟨keeps_add64 (keeps_ite (keeps_landFill (keeps_fillLine (keeps_setSuit keep ..) ..) ..) (keeps_fillLine
                (keeps_setSuit keep ..) ..)) ..⟩

theorem keeps_execPatrolRead (keep : Keeps z s) (i : SuitIx) (pc : Fin 64) (sector ecc sev : Nat) (hard : Bool) :
    KeepsOn z (execPatrolRead i pc sector ecc sev hard s) := by
  unfold execPatrolRead
  dsimp only
  split
  · exact ⟨keep⟩
  · split
    · exact ⟨keeps_update (keeps_noteSev (keeps_putError keep ..) ..)⟩
    · exact ⟨keeps_update (keeps_hbmCe (keeps_noteSev (keeps_putError keep ..) ..) ..)⟩
    · exact ⟨keeps_ite (keeps_noteSev (keeps_putError keep ..) ..) (keeps_hbmUe (keeps_noteSev (keeps_putError keep ..) ..) ..)⟩

theorem keeps_postPcOut (keep : Keeps z s) (i pc reason : Nat) : Keeps z (s.postPcOut i pc reason) := keeps_post keep ..

theorem keeps_migrate (keep : Keeps z s) (i pc : Nat) : Keeps z (s.migrate i pc) := by
  unfold State.migrate
  dsimp only
  exact keeps_update (keeps_foldl keep (fun _ _ step => keeps_hbmRead step ..))

theorem keeps_mapOutNow (keep : Keeps z s) (i pc : Nat) : Keeps z (s.mapOutNow i pc) := by
  unfold State.mapOutNow
  dsimp only
  exact keeps_setBusy (keeps_setBit (keeps_update (keeps_mem (keeps_setSuit (keeps_migrate (keeps_flushGranary keep ..) ..) ..)
    (Memory.wf_clearRange _ _))) ..) ..

theorem keeps_execMapOut (keep : Keeps z s) (i : SuitIx) (pc : Fin 64) (reason : Nat) :
    KeepsOn z (execMapOut i pc reason s) := by
  unfold execMapOut
  dsimp only
  exact ⟨keeps_ite keep (keeps_ite (keeps_ite (keeps_mapOutNow keep ..) keep) (keeps_ite keep (keeps_ite (keeps_setBusy
    (keeps_recover (keeps_ring (keeps_setSuit (keeps_postPcOut keep ..) ..) ..) ..) ..) (keeps_setSuit (keeps_postPcOut
    keep ..) ..))))⟩

theorem keeps_refuseAt (keep : Keeps z s) (e : Nat) (write : Bool) (f : Refuse) : Keeps z (s.refuseAt e write f) := by
  unfold State.refuseAt
  split
  · exact keeps_refuse keep ..
  · split
    · exact keeps_millStop keep ..
    · exact keeps_millEscalate keep ..
  · exact keeps_update keep

end Sys2Proof
end

section
/-! PROOFS. What every command keeps: memory accesses and the constable. -/

namespace Sys2Proof

open Machine

variable {z s : State}

theorem keeps_execMemoryRead (keep : Keeps z s) (ep : BitVec 16) (va len : Nat) (tid : BitVec 24) (ecc sev : Nat) (hard : Bool) :
    KeepsOn z (execMemoryRead ep va len tid ecc sev hard s) := by
  unfold execMemoryRead
  dsimp only
  split
  · exact ⟨keep⟩
  · split
    · exact ⟨keeps_refuseAt keep ..⟩
    · split
      · exact ⟨keep⟩
      · exact ⟨keeps_update (keeps_foldl (keeps_ite (keeps_putError keep ..) keep) (fun _ _ step => keeps_seen step ..))⟩

theorem keeps_writePieces (keep : Keeps z s) (unit : Nat) (vs : List (Nat × Nat)) (ps : List (Nat × Nat × Bool)) (d : List Byte) :
    Keeps z (s.writePieces unit vs ps d) := by
  induction vs generalizing s ps d with
  | nil => simpa only [State.writePieces] using keep
  | cons v vs ih =>
    cases ps with
    | nil => simpa only [State.writePieces] using keep
    | cons p ps => exact ih (keeps_storeVa keep ..) _ _

theorem keeps_execMemoryWrite (keep : Keeps z s) (ep : BitVec 16) (va : Nat) (data : List Byte) :
    KeepsOn z (execMemoryWrite ep va data s) := by
  unfold execMemoryWrite
  dsimp only
  split
  · exact ⟨keep⟩
  · split
    · exact ⟨keeps_refuseAt keep ..⟩
    · exact ⟨keeps_update (keeps_writePieces keep ..)⟩

theorem keeps_atomicPoison (keep : Keeps z s) (e : Nat) : Keeps z (s.atomicPoison e) := by
  unfold State.atomicPoison
  split
  · exact keeps_setBit keep ..
  · exact keeps_update (keeps_millEscalate keep ..)
  · exact keeps_update keep

theorem keeps_atomicAnswer (keep : Keeps z s) (e old : Nat) (f : Fl) : Keeps z (s.atomicAnswer e old f) := by
  unfold State.atomicAnswer
  split
  · exact keeps_flags keep ..
  · exact keeps_update (keeps_flags keep ..)
  · exact keeps_update keep

theorem keeps_applyAtomic (keep : Keeps z s) (e va pa : Nat) (pc : Bool) (op ty v cmp : Nat) :
    Keeps z (s.applyAtomic e va pa pc op ty v cmp) := by
  unfold State.applyAtomic
  dsimp only
  exact keeps_ite (keeps_atomicPoison (keeps_atHome keep ..) ..) (keeps_atomicAnswer (keeps_add64 (keeps_storeHome (keeps_atHome
    keep ..) ..) ..) ..)

theorem keeps_execAtomic (keep : Keeps z s) (ep : BitVec 16) (va op ty : Nat) (v cmp : BitVec 64) :
    KeepsOn z (execAtomic ep va op ty v cmp s) := by
  unfold execAtomic
  dsimp only
  split
  · exact ⟨keep⟩
  · split
    · exact ⟨keeps_ite (keeps_update keep) keep⟩
    · split
      · exact ⟨keeps_refuseAt keep ..⟩
      · exact ⟨keeps_refuseAt keep ..⟩
      · exact ⟨keeps_applyAtomic keep ..⟩

theorem keeps_ddrUe (keep : Keeps z s) (ch addr : Nat) : Keeps z (s.ddrUe ch addr) := by
  unfold State.ddrUe
  dsimp only
  exact keeps_countSat (keeps_setField (keeps_setBit (keeps_update keep) ..) ..) ..

theorem keeps_execDdrReadUe (keep : Keeps z s) (ch : Fin 2) (addr : Nat) (dma : Bool) :
    KeepsOn z (execDdrReadUe ch addr dma s) := by
  unfold execDdrReadUe
  exact ⟨keeps_update (keeps_ddrUe keep ..)⟩

theorem keeps_execDdrPatrol (keep : Keeps z s) (ch : Fin 2) (addr ecc : Nat) : KeepsOn z (execDdrPatrol ch addr ecc s) := by
  unfold execDdrPatrol
  split
  · exact ⟨keep⟩
  · exact ⟨keeps_countSat keep ..⟩
  · exact ⟨keeps_ddrUe keep ..⟩

theorem keeps_ddrWrite (keep : Keeps z s) (a : Nat) (d : List Byte) : Keeps z (s.ddrWrite a d) :=
  keep.trans { Keeps.refl s with ddr := Memory.wf_writeBytes _ _ }

theorem keeps_apSeen (keep : Keeps z s) (unit : Nat) (vs : List (Nat × Nat)) (l : List (Nat × Nat × Bool)) :
    Keeps z (s.apSeen unit vs l) := by
  unfold State.apSeen
  exact keeps_foldl keep (fun _ _ step => keeps_ite (keeps_seen step ..) (keeps_readLines step ..))

theorem keeps_apWrite (keep : Keeps z s) (unit : Nat) (vs : List (Nat × Nat)) (l : List (Nat × Nat × Bool)) (d : List Byte) :
    Keeps z (s.apWrite unit vs l d) := by
  refine keeps_ite (keeps_writePieces keep ..) ?_
  induction l generalizing s d with
  | nil => exact keep
  | cons y l ih => exact ih (keeps_storeHome keep ..) _

theorem keeps_mapRead (keep : Keeps z s) (unit a n : Nat) : Keeps z (s.mapRead unit a n).1 := by
  unfold State.mapRead
  dsimp only
  split
  · split
    · exact keeps_fst (keeps_readWord keep ..)
    · exact keeps_fst keep
  · exact keeps_fst keep
  · split
    · exact keeps_fst keep
    · split
      · exact keeps_fst keep
      · split
        · exact keeps_fst keep
        · exact keeps_fst (keeps_apSeen keep ..)
  · exact keeps_fst keep

theorem keeps_mapWrite (keep : Keeps z s) (unit a : Nat) (d : List Byte) : KeepsWr z (s.mapWrite unit a d) := by
  unfold State.mapWrite
  split
  · split
    · exact ⟨keeps_writeWord keep ..⟩
    · exact ⟨trivial⟩
  · split
    · exact ⟨trivial⟩
    · exact ⟨keeps_ddrWrite keep ..⟩
  · split
    · exact ⟨trivial⟩
    · split
      · exact ⟨trivial⟩
      · split
        · exact ⟨trivial⟩
        · exact ⟨keeps_apWrite keep ..⟩
  · exact ⟨trivial⟩

theorem keeps_ddrAtomic (keep : Keeps z s) (op o n v cmp : Nat) : Keeps z (s.ddrAtomic op o n v cmp) := by
  unfold State.ddrAtomic
  dsimp only
  exact keeps_ite (keeps_update keep) (keeps_ite (keeps_update keep) (keeps_ite (keeps_update (keeps_ite (keeps_ddrWrite keep ..)
    keep)) (keeps_ite (keeps_update (keeps_ddrWrite keep ..)) (keeps_update (keeps_ddrWrite keep ..)))))

theorem keeps_mapAtomic (keep : Keeps z s) (op a n v cmp : Nat) : Keeps z (s.mapAtomic op a n v cmp) := by
  unfold State.mapAtomic
  split
  · exact keeps_update keep
  · split
    · split
      · exact keeps_update keep
      · split
        · exact keeps_ite keep (keeps_applyAtomic keep ..)
        · exact keeps_update keep
    · exact keeps_ite (keeps_update keep) (keeps_ddrAtomic keep ..)
    · exact keeps_update keep

theorem keeps_execApertureAccess (keep : Keeps z s) (op addr len : Nat) (v cmp : BitVec 64) :
    KeepsOn z (execApertureAccess op addr len v cmp s) := by
  unfold execApertureAccess
  split
  · split
    · next e1 => exact ⟨keeps_update (keeps_pair (keeps_mapRead keep ..) e1)⟩
    · next e1 => exact ⟨keeps_update (keeps_pair (keeps_mapRead keep ..) e1)⟩
    · next e1 => exact ⟨keeps_update (keeps_pair (keeps_mapRead keep ..) e1)⟩
    · exact ⟨keep⟩
  · split
    · split
      · next e1 => exact ⟨keeps_update ((keeps_mapWrite keep ..).ok e1)⟩
      · exact ⟨keeps_update keep⟩
      · exact ⟨keep⟩
    · exact ⟨keeps_mapAtomic keep ..⟩

theorem keeps_dmaRead (keep : Keeps z s) (a n : Nat) : Keeps z (s.dmaRead a n).1 := by
  unfold State.dmaRead
  split
  · exact keeps_fst (keeps_update keep)
  · exact keeps_mapRead keep ..

theorem keeps_dmaWrite (keep : Keeps z s) (a : Nat) (d : List Byte) : KeepsWr z (s.dmaWrite a d) := by
  unfold State.dmaWrite
  split
  · exact ⟨keep⟩
  · exact keeps_mapWrite keep ..

theorem keeps_execDmaTransfer (keep : Keeps z s) (src dst n : Nat) : KeepsOn z (execDmaTransfer src dst n s) := by
  unfold execDmaTransfer
  dsimp only
  split
  · exact ⟨keep⟩
  · split
    · exact ⟨keeps_update keep⟩
    · split
      · rename_i e
        split
        · next e1 => exact ⟨keeps_update ((keeps_dmaWrite (keeps_pair (keeps_dmaRead keep ..) e) ..).ok e1)⟩
        · exact ⟨keeps_update (keeps_pair (keeps_dmaRead keep ..) e)⟩
        · exact ⟨keep⟩
      · next e => exact ⟨keeps_update (keeps_pair (keeps_dmaRead keep ..) e)⟩
      · next e => exact ⟨keeps_update (keeps_pair (keeps_dmaRead keep ..) e)⟩
      · exact ⟨keep⟩

theorem keeps_unsupported (keep : Keeps z s) (p : Nat) : Keeps z (s.unsupported p) := keeps_update keep

theorem keeps_execPcieInbound (keep : Keeps z s) (port : Fin 2) (write : Bool) (addr len : Nat) (v : BitVec 64) :
    KeepsOn z (execPcieInbound port write addr len v s) := by
  unfold execPcieInbound
  split
  · exact ⟨keep⟩
  · split
    · exact ⟨keeps_unsupported keep ..⟩
    · split
      · split
        · next e2 => exact ⟨keeps_update ((keeps_mapWrite keep ..).ok e2)⟩
        · exact ⟨keeps_unsupported keep ..⟩
        · exact ⟨keep⟩
      · split
        · next e1 => exact ⟨keeps_update (keeps_pair (keeps_mapRead keep ..) e1)⟩
        · next e1 => exact ⟨keeps_update (keeps_pair (keeps_mapRead keep ..) e1)⟩
        · exact ⟨keeps_unsupported keep ..⟩
        · exact ⟨keep⟩

theorem keeps_secAlarm (keep : Keeps z s) (sensor level value : Nat) (erased : Bool) :
    Keeps z (s.secAlarm sensor level value erased) :=
  keeps_post keep ..

theorem keeps_zeroKeys (keep : Keeps z s) : Keeps z s.zeroKeys :=
  keeps_sec keep { Sec.Grows.refl s.sec with erasePending := fun _ => rfl }

theorem keeps_eraseKeys (keep : Keeps z s) : Keeps z (s.eraseKeys) := by
  unfold State.eraseKeys
  exact keeps_spend (keeps_secAlarm (keeps_zeroKeys keep ..) ..) ..

/-- CNT_ALARM saturates. -/
theorem le_succ_unless_full (n : BitVec 32) : n ≤ if n = 0xFFFFFFFF then n else n + 1 := by
  split_ifs with full
  · exact BitVec.le_refl _
  · bv_omega

theorem keeps_alarm (keep : Keeps z s) (sensor level value : Nat) : Keeps z (s.alarm sensor level value) := by
  unfold State.alarm
  extract_lets erase sec1 recov1 s1 s2 s3 sec4 ctl4 s4 s5 job5
  have k1 : Keeps z s1 := keep.trans { Keeps.refl s with sec := { Sec.Grows.refl s.sec with } }
  have k2 : Keeps z s2 := keeps_ite (keeps_secAlarm (keeps_zeroKeys k1) ..) k1
  have k3 : Keeps z s3 := keeps_secAlarm k2 ..
  have k4 : Keeps z s4 := k3.trans { Keeps.refl s3 with sec := { Sec.Grows.refl s3.sec with alarms := le_succ_unless_full _ } }
  exact keeps_ite keep (keeps_ite k3 (keeps_update (keeps_ring k4 ..)))

theorem keeps_execSensorTrip (keep : Keeps z s) (sensor : Fin 5) (level : Fin 4) (value : W32) :
    KeepsOn z (execSensorTrip sensor level value s) := by
  unfold execSensorTrip
  split
  · exact ⟨keep⟩
  · exact ⟨keeps_ite (keeps_alarm (keeps_spend keep ..) ..) keep⟩

theorem keeps_answer (keep : Keeps z s) (code ctr status : Nat) : Keeps z (s.answer code ctr status) := by
  unfold State.answer
  dsimp only
  exact keeps_update (keeps_ite keep (keeps_setBit keep ..))

theorem keeps_badTag (keep : Keeps z s) (code ctr : Nat) : Keeps z (s.badTag code ctr) := by
  unfold State.badTag
  extract_lets n sec1 s1 sec2 s2
  have k1 : Keeps z s1 := keeps_store keep
  have k2 : Keeps z s2 := keeps_ite (keeps_alarm (keeps_store k1) ..) k1
  exact keeps_answer k2 ..

/-- A critical command that is accepted raises LAST_CTR before it acts (R505). -/
theorem keeps_critical (keep : Keeps z s) {act : State → State × Nat} (step : ∀ u, Keeps z u → Keeps z (act u).1) (f : CmdFrame)
    (code : Nat) (lenOk : Nat → Bool) : Keeps z (s.critical f code lenOk act) := by
  unfold State.critical
  extract_lets c sec1 s1 sec2 s2 sec3 s3
  have k1 : Keeps z s1 := keeps_store keep
  have k2 : Keeps z s2 := keeps_store k1
  refine keeps_ite keep (keeps_ite (keeps_update keep) (keeps_ite (keeps_answer k1 ..) (keeps_ite (keeps_answer k1 ..) ?_)))
  split
  · exact keeps_answer k1 ..
  · refine keeps_ite (keeps_badTag k1 ..) ?_
    split
    · exact keeps_answer k2 ..
    · next fresh =>
      have k3 : Keeps z s3 := keeps_sec k2 { Sec.Grows.refl s2.sec with lastCtr := BitVec.le_of_lt (BitVec.not_le.1 fresh) }
      split
      · exact keeps_answer k3 ..
      · exact keeps_answer (step _ k3) ..

theorem keeps_flashWritten (keep : Keeps z s) (a : Nat) (l : List Byte) {fw fwHeld} :
    Keeps z { s with flash := Memory.writeBytes s.flash a l, sec := { s.sec with fw := fw, fwHeld := fwHeld } } :=
  keep.trans { Keeps.refl s with flash := Memory.wf_writeBytes _ _, sec := { Sec.Grows.refl s.sec with } }

theorem keeps_fwBegin (keep : Keeps z s) (b : List Byte) : Keeps z (s.fwBegin b).1 := by
  unfold State.fwBegin
  dsimp only
  split
  · exact keeps_fst keep
  · exact keeps_fst (keeps_flashWritten keep ..)

theorem keeps_execFwBegin (keep : Keeps z s) (f : CmdFrame) : KeepsOn z (execFwBegin f s) := by
  unfold execFwBegin
  exact ⟨keeps_critical keep (fun _ step => keeps_fwBegin step ..) ..⟩

theorem keeps_fwChunk (keep : Keeps z s) (b : List Byte) : Keeps z (s.fwChunk b).1 := by
  unfold State.fwChunk
  dsimp only
  split
  · exact keeps_fst keep
  · split
    · exact keeps_fst keep
    · exact keeps_fst (keeps_flashWritten keep ..)

theorem keeps_execFwChunk (keep : Keeps z s) (f : CmdFrame) : KeepsOn z (execFwChunk f s) := by
  unfold execFwChunk
  exact ⟨keeps_critical keep (fun _ step => keeps_fwChunk step ..) ..⟩

theorem keeps_fwCommit (keep : Keeps z s) : Keeps z s.fwCommit.1 := by
  unfold State.fwCommit
  split
  · exact keeps_fst keep
  · next x _ =>
    have written := keeps_flash keep (Memory.wf_writeBytes (bankBase x.1) (Memory.bytes s.sec.fwHeld 0 8192))
    dsimp only
    split
    · exact keeps_fst (keeps_ite (keeps_restart written) written)
    · exact keeps_fst keep

theorem keeps_execFwCommit (keep : Keeps z s) (f : CmdFrame) : KeepsOn z (execFwCommit f s) := by
  unfold execFwCommit
  exact ⟨keeps_critical keep (fun _ step => keeps_fwCommit step ..) ..⟩

theorem keeps_execKeyErase (keep : Keeps z s) (f : CmdFrame) : KeepsOn z (execKeyErase f s) := by
  unfold execKeyErase
  exact ⟨keeps_critical keep (fun _ step => keeps_fst (keeps_eraseKeys step ..)) ..⟩

theorem keeps_policySet (keep : Keeps z s) (f : CmdFrame) : Keeps z (s.policySet f).1 := by
  unfold State.policySet
  dsimp only
  split
  · exact keeps_fst keep
  · exact keeps_fst (keeps_store keep)

theorem keeps_execPolicySet (keep : Keeps z s) (f : CmdFrame) : KeepsOn z (execPolicySet f s) := by
  unfold execPolicySet
  exact ⟨keeps_critical keep (fun _ step => keeps_policySet step ..) ..⟩

/-- A fence changes no cell of the constable's store, so the cells of the state before it may stand beside it. -/
theorem keeps_withStore (keep : Keeps z s) {t : State} (after : Keeps z t) {fencedHands fencedSuits recov} :
    Keeps z { t with sec := { s.sec with fencedHands := fencedHands, fencedSuits := fencedSuits }, recov := recov } :=
  { after with sec := keep.sec.trans { Sec.Grows.refl s.sec with } }

theorem keeps_fenceCmd (keep : Keeps z s) (b : List Byte) : Keeps z (s.fenceCmd b).1 := by
  unfold State.fenceCmd
  dsimp only
  split
  · exact keeps_fst keep
  · split
    · exact keeps_fst keep
    · exact keeps_fst (keeps_withStore keep (keeps_setFence keep ..))
  · split
    · exact keeps_fst keep
    · exact keeps_fst (keeps_withStore (keeps_setFold keep ..) (keeps_setFold keep ..))

theorem keeps_execFence (keep : Keeps z s) (f : CmdFrame) : KeepsOn z (execFence f s) := by
  unfold execFence
  exact ⟨keeps_critical keep (fun _ step => keeps_fenceCmd step ..) ..⟩

theorem keeps_unfenceCmd (keep : Keeps z s) (b : List Byte) : Keeps z (s.unfenceCmd b).1 := by
  unfold State.unfenceCmd
  dsimp only
  split
  · exact keeps_fst keep
  · split
    · exact keeps_fst (keeps_withStore keep (keeps_setFence keep ..))
    · exact keeps_fst keep
  · split
    · exact keeps_fst (keeps_withStore (keeps_setFold keep ..) (keeps_setFold keep ..))
    · exact keeps_fst keep

theorem keeps_execUnfence (keep : Keeps z s) (f : CmdFrame) : KeepsOn z (execUnfence f s) := by
  unfold execUnfence
  exact ⟨keeps_critical keep (fun _ step => keeps_unfenceCmd step ..) ..⟩

theorem keeps_powerLimit (keep : Keeps z s) (b : List Byte) : Keeps z (s.powerLimit b).1 := by
  unfold State.powerLimit
  dsimp only
  split
  · exact keeps_fst (keeps_update keep)
  · exact keeps_fst (keeps_setLimits keep ..)

theorem keeps_execPowerLimit (keep : Keeps z s) (f : CmdFrame) : KeepsOn z (execPowerLimit f s) := by
  unfold execPowerLimit
  exact ⟨keeps_critical keep (fun _ step => keeps_powerLimit step ..) ..⟩

theorem keeps_seenRoot (keep : Keeps z s) (va : Nat) : Keeps z (s.seenRoot va) := by
  unfold State.seenRoot
  dsimp only
  split
  · exact keeps_foldl keep (fun _ _ step => keeps_seen step ..)
  · exact keeps_seen (keeps_foldl keep (fun _ _ step => keeps_seen step ..)) ..

theorem rising_startRegs {m : PMap W32} (h : Rising m) : Rising (startRegs m) := List.pairwise_map.2 (h.filter _)

theorem keeps_startJob (keep : Keeps z s) (j : Job) (deal : Nat) : Keeps z (s.startJob j deal) := by
  unfold State.startJob
  extract_lets recov1 s1 pend out s2 s3
  have k1 : Keeps z s1 := keep.trans { Keeps.refl s with regs := rising_startRegs, cores := fun _ _ h => absurd h List.not_mem_nil }
  have k2 : Keeps z s2 := keeps_update k1
  have k3 : Keeps z s3 := keeps_foldl k2 fun _ _ step => keeps_setGranMode step ..
  exact keeps_syncMode (keeps_jobDone (keeps_setReg (keeps_update k3) ..))

theorem keeps_jobStart (keep : Keeps z s) (b : List Byte) : Keeps z (s.jobStart b).1 := by
  unfold State.jobStart
  split
  · exact keeps_fst keep
  · exact keeps_fst (keeps_startJob (keeps_seenRoot keep ..) ..)

theorem keeps_execJobStart (keep : Keeps z s) (f : CmdFrame) : KeepsOn z (execJobStart f s) := by
  unfold execJobStart
  exact ⟨keeps_critical keep (fun _ step => keeps_jobStart step ..) ..⟩

theorem keeps_jobStop (keep : Keeps z s) (b : List Byte) : Keeps z (s.jobStop b).1 := by
  unfold State.jobStop
  dsimp only
  split
  · exact keeps_fst (keeps_update (keeps_ring keep ..))
  · exact keeps_fst (keeps_update keep)
  · exact keeps_fst keep

theorem keeps_execJobStop (keep : Keeps z s) (f : CmdFrame) : KeepsOn z (execJobStop f s) := by
  unfold execJobStop
  exact ⟨keeps_critical keep (fun _ step => keeps_jobStop step ..) ..⟩

theorem keeps_execAttestationRequest (keep : Keeps z s) (nonce : BitVec 256) : KeepsOn z (execAttestationRequest nonce s) := by
  unfold execAttestationRequest
  refine .of_next ?_
  extract_lets sec1 s1
  have k1 : Keeps z s1 := keeps_store keep
  refine keeps_ite keep (keeps_ite (keeps_update keep) ?_)
  split
  all_goals
    refine keeps_ite (keeps_update keep) ?_
    split
    · exact keeps_update k1
    · refine keeps_ite (keeps_update k1) (k1.trans { Keeps.refl s1 with sec := { Sec.Grows.refl s1.sec with attNext := .inl ?_ } })
      exact Nat.le_succ _

theorem keeps_execIdentityRequest (keep : Keeps z s) : KeepsOn z (execIdentityRequest s) := by
  unfold execIdentityRequest
  exact ⟨keeps_ite keep (keeps_ite (keeps_update keep) (keeps_update keep))⟩

theorem keeps_execKeyRotation (keep : Keeps z s) : KeepsOn z (execKeyRotation s) := by
  unfold execKeyRotation
  refine .of_next ?_
  split
  · refine keeps_ite (keeps_store keep) (keeps_sec keep { Sec.Grows.refl s.sec with idNext := ?_, attGen := ?_, attNext := .inr ?_
      })
    · exact Nat.le_succ _
    · exact Nat.le_succ _
    · exact Nat.lt_succ_self _
  · exact keep

end Sys2Proof
end

section
/-! PROOFS. What every command keeps: recovery, checkpoints and start-up. -/

namespace Sys2Proof

open Machine

variable {z s : State}

theorem keeps_execHeartbeat (keep : Keeps z s) (r : ReeveIx) : KeepsOn z (execHeartbeat r s) := by
  unfold execHeartbeat
  exact ⟨keeps_ite (keeps_update keep) keep⟩

theorem keeps_execWatchdogExpiry (keep : Keeps z s) (r : ReeveIx) : KeepsOn z (execWatchdogExpiry r s) := by
  unfold execWatchdogExpiry
  exact ⟨keeps_ite (keeps_update keep) keep⟩

theorem vlFits_filter {p : Nat × Core → Bool} (fits : s.vlFits) : ∀ e ∈ s.cores.filter p, VlFits e.2 :=
  fun e mem => fits e (List.mem_filter.1 mem).1

theorem keeps_darken (keep : Keeps z s) (i : Nat) : Keeps z (s.darken i) :=
  keep.trans { Keeps.refl s with
    regs := Rising.filter _, staged := Rising.filter _, cores := vlFits_filter, mem := Memory.wf_clearRange _ _ }

theorem keeps_foldSuit (keep : Keeps z s) (i cause : Nat) : Keeps z (s.foldSuit i cause) := by
  unfold State.foldSuit
  extract_lets lead sec0 s0 s1 s2 recov3 s3 s4 mask s5 s6
  have k0 : Keeps z s0 := keeps_setBusy (keeps_store keep) ..
  have k1 : Keeps z s1 := keeps_foldl (keeps_setLinkDown k0 ..) fun _ _ step => keeps_clearBit step ..
  have k3 : Keeps z s3 := keeps_update (keeps_darken k1 ..)
  have k5 : Keeps z s5 := keeps_failFenced (keeps_post (keeps_setFold k3 ..) ..)
  have k6 : Keeps z s6 := keeps_ite k5 (keeps_jobDone k5)
  exact keeps_ite keep (keeps_ite (keeps_reeveStop k6) k6)

theorem keeps_foldHand (keep : Keeps z s) (h cause : Nat) : Keeps z (s.foldHand h cause) := by
  unfold State.foldHand
  extract_lets i sec0 s0 s1 s2 recov3 s3 s4 s5
  have k0 : Keeps z s0 := keeps_setBusy (keeps_store keep) ..
  have k1 : Keeps z s1 := keeps_ite (keeps_recover (keeps_ring k0 ..) ..) k0
  have k3 : Keeps z s3 := keeps_update (keeps_setFold (keeps_setFence k1 ..) ..)
  have k4 : Keeps z s4 := keeps_failFenced (keeps_postAt k3 ..)
  have k5 : Keeps z s5 := keeps_ite k4 (keeps_jobDone k4)
  exact keeps_ite (keeps_reeveStop k5) k5

theorem keeps_execHandFold (keep : Keeps z s) (h : HandIx) (cause : Nat) : KeepsOn z (execHandFold h cause s) := by
  unfold execHandFold
  exact ⟨keeps_ite keep (keeps_foldHand keep ..)⟩

theorem keeps_execSuitFold (keep : Keeps z s) (i : SuitIx) (cause : Nat) : KeepsOn z (execSuitFold i cause s) := by
  unfold execSuitFold
  exact ⟨keeps_ite keep (keeps_foldSuit keep ..)⟩

theorem keeps_execReeveLost (keep : Keeps z s) (r : ReeveIx) : KeepsOn z (execReeveLost r s) := by
  unfold execReeveLost
  dsimp only
  exact ⟨keeps_ite keep (keeps_ite (keeps_foldSuit (keeps_note (keeps_update keep) ..) ..) (keeps_note (keeps_update keep) ..))⟩

theorem keeps_restoreCtrs (keep : Keeps z s) (addr : Nat → Nat) (slot : Nat) (inc : PMap Nat) (n : Nat) :
    Keeps z (s.restoreCtrs addr slot inc n) := by
  unfold State.restoreCtrs
  exact keeps_foldl keep (fun _ _ step => keeps_setReg step ..)

theorem keeps_refillGrants (keep : Keeps z s) (k : Nat) : Keeps z (s.refillGrants k) := by
  unfold State.refillGrants
  refine keeps_foldl keep (fun s g step => ?_)
  split
  · exact step
  · exact keeps_setHand step ..

theorem fits_vlZero {c : Core} (vl : c.vl = 0) : Fits z c := ⟨fun _ => by simp only [VlFits, vl, Nat.zero_mul, Nat.zero_le]⟩

theorem keeps_replayHand (keep : Keeps z s) (h : Nat) (epoch : Bool) : Keeps z (s.replayHand h epoch) := by
  unfold State.replayHand
  dsimp only
  split
  · exact keep
  · refine keeps_clearBit (keeps_setReg64 (keeps_foldl (keeps_restoreCtrs (keeps_setHand (keeps_foldl (keeps_update ?_) ?_) ..) ..)
      fun _ _ step => keeps_setReg step ..) ..) ..
    · exact keeps_foldl keep fun _ _ step => keeps_restartColl step ..
    · exact fun _ _ step => keeps_refillGrants (keeps_setCore step (fits_vlZero rfl) _) ..

theorem keeps_replayMill (keep : Keeps z s) (m : Nat) : Keeps z (s.replayMill m) := by
  unfold State.replayMill
  dsimp only
  split
  · exact keep
  · exact keeps_clearBit (keeps_restoreCtrs (keeps_setMill keep ..) ..) ..

theorem keeps_ringFor (keep : Keeps z s) (l : List Nat) (suitWide : Bool) : Keeps z (s.ringFor l suitWide) := by
  unfold State.ringFor
  exact keeps_foldl keep (fun _ _ step => keeps_ite (keeps_ring step ..) (keeps_ring step ..))

theorem keeps_replaySet (keep : Keeps z s) (l : List Nat) (epoch : Bool) : Keeps z (s.replaySet l epoch) := by
  unfold State.replaySet
  dsimp only
  exact keeps_ite (keeps_foldl (keeps_foldl (keeps_ite (keeps_foldl (keeps_foldl keep (fun _ _ step => keeps_replayHand step ..))
    (fun _ _ step => keeps_replayMill step ..)) (keeps_foldl keep (fun _ _ step => keeps_replayHand step ..))) (fun _ _ step =>
    keeps_resumeScope step ..)) (fun _ _ step => keeps_resumeScope step ..)) (keeps_foldl (keeps_ite (keeps_foldl (keeps_foldl keep
    (fun _ _ step => keeps_replayHand step ..)) (fun _ _ step => keeps_replayMill step ..)) (keeps_foldl keep (fun _ _ step =>
    keeps_replayHand step ..))) (fun _ _ step => keeps_resumeScope step ..))

theorem keeps_execHandReplay (keep : Keeps z s) (h : HandIx) (epochSlot : Bool) : KeepsOn z (execHandReplay h epochSlot s) := by
  unfold execHandReplay
  dsimp only
  exact ⟨keeps_ite keep (keeps_ite (keeps_replaySet (keeps_setBusy (keeps_setBusy (keeps_recover keep ..) ..) ..) ..)
    (keeps_ringFor (keeps_setBusy (keeps_recover keep ..) ..) ..))⟩

theorem keeps_swapCore (keep : Keeps z s) (k l cause : Nat) : Keeps z (s.swapCore k l cause) := by
  have k1 := keeps_commitOne keep (Reg.spare (k / 17)) (BitVec.ofNat 32 (2 ^ 31 + l <<< 24 + 1))
  exact keeps_postAt (keeps_setCore (keeps_setCore k1 (fits_update (fits_core k1 k)) _) (fits_vlZero rfl) _) ..

theorem keeps_execCoreSwap (keep : Keeps z s) (k : CoreIx) (cause : Nat) (kittyOk : Bool) :
    KeepsOn z (execCoreSwap k cause kittyOk s) := by
  unfold execCoreSwap
  dsimp only
  exact ⟨keeps_ite keep (keeps_ite (keeps_foldHand keep ..) (keeps_ite (keeps_swapCore keep ..) (keeps_ite (keeps_replaySet
    (keeps_swapCore (keeps_setBusy (keeps_setBusy (keeps_recover keep ..) ..) ..) ..) ..) (keeps_ringFor (keeps_setBusy
    (keeps_recover keep ..) ..) ..))))⟩

theorem keeps_execSectorRebuild (keep : Keeps z s) (addr : Nat) (data : BitVec 256) :
    KeepsOn z (execSectorRebuild addr data s) := by
  unfold execSectorRebuild
  dsimp only
  split
  · exact ⟨keeps_ite (keeps_apWrite keep ..) keep⟩
  · exact ⟨keeps_update keep⟩

theorem keeps_execBridgeRetrain (keep : Keeps z s) (b : BridgeIx) (manor ok : Bool) :
    KeepsOn z (execBridgeRetrain b manor ok s) := by
  unfold execBridgeRetrain
  dsimp only
  exact ⟨keeps_ite keep (keeps_ite (keeps_setLinkDown keep ..) (keeps_foldl (keeps_setLinkDown keep ..) (fun _ _ step =>
    keeps_restartColl step ..)))⟩

theorem keeps_variantUnit (keep : Keeps z s) (u : Nat) (v : List Nat) : Keeps z (s.variantUnit u v) := by
  unfold State.variantUnit
  extract_lets at_ va d d1 s1 s2 s3 s4 m dm dm1 s5 s6
  have k1 : Keeps z s1 := keeps_setHand keep ..
  have k2 : Keeps z s2 := keeps_foldl k1 fun _ _ step => keeps_setReg step ..
  have k3 : Keeps z s3 := keeps_foldl k2 fun _ _ step => keeps_setReg step ..
  have k4 : Keeps z s4 := keeps_foldl k3 fun _ _ step => keeps_setCore step (fits_vlZero rfl) _
  have k5 : Keeps z s5 := keeps_setMill keep ..
  have k6 : Keeps z s6 := keeps_foldl k5 fun _ _ step => keeps_setReg step ..
  exact keeps_ite (keeps_clearBit (keeps_setReg64 k4 ..) ..) (keeps_clearBit k6 ..)

theorem keeps_execVariantSwitch (keep : Keeps z s) (rootVa : Nat) (resume : List (Nat × List Nat)) :
    KeepsOn z (execVariantSwitch rootVa resume s) := by
  unfold execVariantSwitch
  dsimp only
  split
  · exact ⟨keep⟩
  · split
    · exact ⟨keeps_setBusy (keeps_recover (keeps_ring keep ..) ..) ..⟩
    · split
      · exact ⟨keep⟩
      · exact ⟨keeps_resumeScope (keeps_setBusy (keeps_foldl (keeps_update (keeps_foldl keep (fun _ _ step => keeps_giveSlots
          step ..))) (fun _ _ step => keeps_variantUnit step ..)) ..) ..⟩

theorem keeps_execStepRollForward (keep : Keeps z s) : KeepsOn z (execStepRollForward s) := by
  unfold execStepRollForward
  dsimp only
  exact ⟨keeps_ite keep (keeps_ite (keeps_update keep) (keeps_ite (keeps_update keep) keep))⟩

theorem keeps_execSuitRejoin (keep : Keeps z s) (i : SuitIx) : KeepsOn z (execSuitRejoin i s) := by
  unfold execSuitRejoin
  dsimp only
  exact ⟨keeps_ite keep (keeps_update (keeps_setFold keep ..))⟩

theorem keeps_endCuts (keep : Keeps z s) : Keeps z (s.endCuts) := by
  unfold State.endCuts
  dsimp only
  exact keeps_syncMode (keeps_update keep) ..

theorem keeps_execScrub (keep : Keeps z s) : KeepsOn z (execScrub s) := by
  unfold execScrub
  extract_lets inPage s1 s2 s3
  have k1 : Keeps z s1 := keeps_foldl keep fun _ _ step => keeps_giveSlots step ..
  have k2 : Keeps z s2 := keeps_foldl k1 fun _ _ step => keeps_flushGranary step ..
  clear_value s2
  have k3 : Keeps z s3 := k2.trans { Keeps.refl s2 with
    mem := Memory.wf_filter _, regs := Rising.filter _, cores := fun _ _ h => absurd h List.not_mem_nil }
  exact .of_next (keeps_ite keep (keeps_endCuts (keeps_update k3)))

theorem keeps_stopAfter (keep : Keeps z s) (source : Nat) : Keeps z (s.stopAfter source) := by
  unfold State.stopAfter
  dsimp only
  exact keeps_update (keeps_ring keep ..)

theorem keeps_execCheckpoint (keep : Keeps z s) (linksUp : Bool) : KeepsOn z (execCheckpoint linksUp s) := by
  unfold execCheckpoint
  dsimp only
  refine .of_next (keeps_ite keep (keeps_ite (keeps_stopAfter (keeps_update keep) ..) (keeps_foldl (keeps_update keep) (fun s h
    step => ?_))))
  split
  · exact step
  · exact keeps_seqCommit (keeps_setHand step ..) ..

theorem keeps_execCheckpointTimeout (keep : Keeps z s) : KeepsOn z (execCheckpointTimeout s) := by
  unfold execCheckpointTimeout
  exact ⟨keeps_ite (keeps_stopAfter (keeps_update keep) ..) keep⟩

theorem keeps_execReleaseBoundaryTimeout (keep : Keeps z s) : KeepsOn z (execReleaseBoundaryTimeout s) := by
  unfold execReleaseBoundaryTimeout
  exact ⟨keeps_ite (keeps_stopAfter keep ..) keep⟩

theorem keeps_sendResult (keep : Keeps z s) (failed : Bool) : Keeps z (s.sendResult failed) := keeps_update keep

theorem keeps_setStep (keep : Keeps z s) (n : Nat) : Keeps z (s.setStep n) := by
  unfold State.setStep
  dsimp only
  exact keeps_update (keeps_setField (keeps_sendResult keep ..) ..)

theorem keeps_failStart (keep : Keeps z s) : Keeps z (s.failStart) := by
  unfold State.failStart
  dsimp only
  exact keeps_update (keeps_setBit (keeps_setField (keeps_sendResult keep ..) ..) ..)

theorem keeps_haltStart (keep : Keeps z s) : Keeps z (s.haltStart) := by
  unfold State.haltStart
  exact keeps_syncMode (keeps_update (keeps_failStart keep ..)) ..

theorem keeps_enterRecovery (keep : Keeps z s) : Keeps z (s.enterRecovery) := by
  unfold State.enterRecovery
  dsimp only
  exact keeps_syncMode (keeps_update (keeps_setField (keeps_setField (keeps_setBit (keeps_failStart keep ..) ..) ..) ..)) ..

theorem keeps_startTime (keep : Keeps z s) (ext : Bool) : Keeps z (s.startTime ext) := keeps_update keep

theorem keeps_endStep1 (keep : Keeps z s) (r : StepResult) : Keeps z (s.endStep1 r) := by
  unfold State.endStep1
  dsimp only
  exact keeps_setStep (keeps_store (keeps_ite (keeps_eraseKeys (keeps_update (keeps_setField keep ..)) ..) (keeps_update
    (keeps_setField keep ..)))) ..

theorem keeps_endStep2 (keep : Keeps z s) (r : StepResult) : Keeps z (s.endStep2 r) := by
  unfold State.endStep2
  split
  · exact keeps_enterRecovery (keeps_setBit (keeps_setBit keep ..) ..) ..
  · extract_lets s1 s2 s2' cfg s3 pol ctl4 sec4 s4 dbg s5 sec6 s6
    have k1 : Keeps z s1 := keeps_setField keep ..
    have k2 : Keeps z s2 := keeps_ite (keeps_setBit k1 ..) k1
    have k2' : Keeps z s2' := keeps_ite (keeps_setBit k2 ..) k2
    have k3 : Keeps z s3 := keeps_setField k2' ..
    clear_value s3
    have k4 : Keeps z s4 := k3.trans { Keeps.refl s3 with sec := { Sec.Grows.refl s3.sec with } }
    have k5 : Keeps z s5 := keeps_ite (keeps_eraseKeys k4) k4
    clear_value s5
    have k6 : Keeps z s6 := k5.trans { Keeps.refl s5 with sec := { Sec.Grows.refl s5.sec with } }
    exact keeps_setStep k6 ..

theorem keeps_foldStart (keep : Keeps z s) (l : List Nat) : Keeps z (s.foldStart l) := by
  unfold State.foldStart
  exact keeps_foldl keep (fun _ _ step => keeps_foldSuit step ..)

theorem keeps_trainBridges (keep : Keeps z s) : Keeps z (s.trainBridges) := by
  unfold State.trainBridges
  exact keeps_foldl keep (fun _ _ step => keeps_setBit step ..)

theorem keeps_endStep3 (keep : Keeps z s) (r : StepResult) : Keeps z (s.endStep3 r) := by
  unfold State.endStep3
  dsimp only
  exact keeps_setStep (keeps_trainBridges (keeps_foldStart (keeps_update (keeps_foldl (keeps_ite keep (keeps_startTime keep ..))
    (fun _ _ step => keeps_setSuit step ..))) ..) ..) ..

theorem keeps_endStep4 (keep : Keeps z s) (r : StepResult) : Keeps z (s.endStep4 r) := by
  unfold State.endStep4
  dsimp only
  exact keeps_ite (keeps_setStep (keeps_foldStart (keeps_foldl keep (fun _ _ step => keeps_ite step (keeps_ite (keeps_mapOutNow
    (keeps_postPcOut step ..) ..) (keeps_foldSuit step ..)))) ..) ..) (keeps_haltStart (keeps_foldStart (keeps_foldl keep (fun _ _
    step => keeps_ite step (keeps_ite (keeps_mapOutNow (keeps_postPcOut step ..) ..) (keeps_foldSuit step ..)))) ..) ..)

theorem keeps_testHand (keep : Keeps z s) (r : StepResult) (h : Nat) : Keeps z (s.testHand r h) := by
  unfold State.testHand
  dsimp only
  split
  · exact keeps_postAt (keeps_setFence keep ..) ..
  · split
    · exact keep
    · exact keeps_spend (keeps_postAt (keeps_commitOne keep ..) ..) ..

theorem keeps_endStep5 (keep : Keeps z s) (r : StepResult) : Keeps z (s.endStep5 r) := by
  unfold State.endStep5
  dsimp only
  exact keeps_setStep (keeps_foldStart (keeps_foldl keep (fun _ _ step => keeps_testHand step ..)) ..) ..

theorem keeps_endStep6 (keep : Keeps z s) (r : StepResult) : Keeps z (s.endStep6 r) := by
  unfold State.endStep6
  dsimp only
  exact keeps_setStep (keeps_setField (keeps_foldl (keeps_foldStart keep ..) (fun _ _ step => keeps_setGranMode step ..)) ..) ..

theorem keeps_endStep7 (keep : Keeps z s) : Keeps z s.endStep7 := by
  unfold State.endStep7
  extract_lets a n minSeq ctl1 sec1
  have least : s.sec.minSeq ≤ minSeq := by
    simp only [minSeq]
    split_ifs with h
    · exact BitVec.le_of_lt h.2
    · exact BitVec.le_refl _
  refine keeps_setStep (keep.trans ?_) ..
  exact { Keeps.refl s with ddr := Memory.wf_writeBytes _ _, sec := { Sec.Grows.refl s.sec with minSeq := least } }

theorem keeps_endStep8 (keep : Keeps z s) : Keeps z (s.endStep8) := by
  unfold State.endStep8
  dsimp only
  exact keeps_syncMode (keeps_update (keeps_setBit (keeps_setField (keeps_sendResult keep ..) ..) ..)) ..

theorem keeps_endStartStep (keep : Keeps z s) (r : StepResult) : Keeps z (s.endStartStep r) := by
  unfold State.endStartStep
  split
  · exact keeps_safeOff keep ..
  · split
    · exact keeps_endStep1 keep ..
    · exact keeps_endStep2 keep ..
    · exact keeps_endStep3 keep ..
    · exact keeps_endStep4 keep ..
    · exact keeps_endStep5 keep ..
    · exact keeps_endStep6 keep ..
    · exact keeps_endStep7 keep ..
    · exact keeps_endStep8 keep ..
    · exact keep

theorem keeps_execStartUpStepEnd (keep : Keeps z s) (r : StepResult) : KeepsOn z (execStartUpStepEnd r s) := by
  unfold execStartUpStepEnd
  exact ⟨keeps_ite (keeps_endStartStep keep ..) keep⟩

theorem keeps_execStartUpStepLimit (keep : Keeps z s) : KeepsOn z (execStartUpStepLimit s) := by
  unfold execStartUpStepLimit
  dsimp only
  split
  · exact ⟨keep⟩
  · split
    · exact ⟨keeps_safeOff keep ..⟩
    · split
      · exact ⟨keeps_haltStart (keeps_spend keep ..) ..⟩
      · exact ⟨keeps_enterRecovery (keeps_spend keep ..) ..⟩
      · exact ⟨keeps_haltStart (keeps_spend keep ..) ..⟩
      · exact ⟨keeps_haltStart (keeps_spend keep ..) ..⟩
      · exact ⟨keeps_endStartStep (keeps_spend keep ..) ..⟩

theorem keeps_clockAlarm (keep : Keeps z s) : Keeps z (s.clockAlarm) := by
  unfold State.clockAlarm
  exact keeps_spend (keeps_alarm keep ..) ..

theorem keeps_execReferenceTimeout (keep : Keeps z s) : KeepsOn z (execReferenceTimeout s) := by
  unfold execReferenceTimeout
  exact ⟨keeps_ite (keeps_clockAlarm (keeps_setBit (keeps_startTime keep ..) ..) ..) keep⟩

theorem keeps_execReferenceLoss (keep : Keeps z s) : KeepsOn z (execReferenceLoss s) := by
  unfold execReferenceLoss
  exact ⟨keeps_ite (keeps_clockAlarm (keeps_update keep) ..) keep⟩

theorem keeps_execReferenceReturn (keep : Keeps z s) : KeepsOn z (execReferenceReturn s) := by
  unfold execReferenceReturn
  exact ⟨keeps_ite (keeps_update keep) keep⟩

theorem keeps_jtag (keep : Keeps z s) (ir : Nat) : Keeps z (s.jtag ir) := keeps_update keep

theorem keeps_jtagBell (keep : Keeps z s) : Keeps z (s.jtagBell) := by
  unfold State.jtagBell
  exact keeps_ite (keeps_spend (keeps_ring keep ..) ..) keep

theorem keeps_execBypass (keep : Keeps z s) : KeepsOn z (execBypass s) := by
  unfold execBypass
  exact ⟨keeps_jtag keep ..⟩

theorem keeps_execIdcode (keep : Keeps z s) : KeepsOn z (execIdcode s) := by
  unfold execIdcode
  exact ⟨keeps_update (keeps_jtag keep ..)⟩

theorem keeps_execSamplePreload (keep : Keeps z s) : KeepsOn z (execSamplePreload s) := by
  unfold execSamplePreload
  exact ⟨keeps_jtag keep ..⟩

theorem keeps_execExtest (keep : Keeps z s) : KeepsOn z (execExtest s) := by
  unfold execExtest
  exact ⟨keeps_jtag (keeps_jtagBell keep ..) ..⟩

theorem keeps_execClamp (keep : Keeps z s) : KeepsOn z (execClamp s) := by
  unfold execClamp
  exact ⟨keeps_jtag (keeps_jtagBell keep ..) ..⟩

theorem keeps_execHighz (keep : Keeps z s) : KeepsOn z (execHighz s) := by
  unfold execHighz
  exact ⟨keeps_jtag (keeps_jtagBell keep ..) ..⟩

theorem keeps_execI3cDynamicAddress (keep : Keeps z s) (setdasa : Bool) (static addr : BitVec 7) :
    KeepsOn z (execI3cDynamicAddress setdasa static addr s) := by
  unfold execI3cDynamicAddress
  exact ⟨keeps_ite keep (keeps_update keep)⟩

theorem keeps_execI3cRead (keep : Keeps z s) (off len : Nat) : KeepsOn z (execI3cRead off len s) := by
  unfold execI3cRead
  exact ⟨keeps_update keep⟩

theorem keeps_execPcieLinkChange (keep : Keeps z s) (link : Fin 4) (up dpc : Bool) (width rate : BitVec 4) :
    KeepsOn z (execPcieLinkChange link up dpc width rate s) := by
  unfold execPcieLinkChange
  dsimp only
  exact ⟨keeps_ite keep (keeps_ite (keeps_countSat (keeps_ite (keeps_setBit (keeps_setField (keeps_setField (keeps_setField
    keep ..) ..) ..) ..) (keeps_setField (keeps_setField (keeps_setField keep ..) ..) ..)) ..) (keeps_ite (keeps_setBit
    (keeps_setField (keeps_setField (keeps_setField keep ..) ..) ..) ..) (keeps_setField (keeps_setField (keeps_setField
    keep ..) ..) ..)))⟩

theorem keeps_execMgmtLinkChange (keep : Keeps z s) (up : Bool) (phy fec : BitVec 2) :
    KeepsOn z (execMgmtLinkChange up phy fec s) := by
  unfold execMgmtLinkChange
  dsimp only
  exact ⟨keeps_ite keep (keeps_update (keeps_ite (keeps_setField (keeps_setField (keeps_setField keep ..) ..) ..) (keeps_countSat
    (keeps_setField (keeps_setField (keeps_setField keep ..) ..) ..) ..)))⟩

theorem keeps_execMma (keep : Keeps z s) (k : CoreIx) : KeepsOn z (execMma k s) := by
  unfold execMma
  exact ⟨keeps_runStation keep (fun _ _ _ step => keeps_cubeStep step ..) ..⟩

theorem keeps_execElem (keep : Keeps z s) (k : CoreIx) : KeepsOn z (execElem k s) := by
  unfold execElem
  exact ⟨keeps_runStation keep (fun _ _ _ step => keeps_cubeStep step ..) ..⟩

theorem keeps_execGapFillEnd (keep : Keeps z s) (k : CoreIx) : KeepsOn z (execGapFillEnd k s) := by
  unfold execGapFillEnd
  dsimp only
  exact ⟨keeps_ite (keeps_setCore (keeps_addGapfill keep ..) (fits_update (fits_core (keeps_addGapfill keep ..) _)) _) keep⟩

theorem keeps_setDuty (keep : Keeps z s) (k d ramp : Nat) : Keeps z (s.setDuty k d ramp) := by
  unfold State.setDuty
  dsimp only
  exact keeps_setCore (keeps_setField keep ..) (fits_update (fits_core (keeps_setField keep ..) _)) _

theorem keeps_execDutyStep (keep : Keeps z s) (k : CoreIx) : KeepsOn z (execDutyStep k s) := by
  unfold execDutyStep
  dsimp only
  exact ⟨keeps_ite (keeps_ite (keeps_setDuty (keeps_addGapfill keep ..) ..) (keeps_ite (keeps_setDuty keep ..) keep)) (keeps_ite
    (keeps_setDuty keep ..) (keeps_ite (keeps_setDuty keep ..) keep))⟩

end Sys2Proof
end

section
/-! PROOFS. What every command keeps: DRAIN, VECT and the words of a kernel. -/

namespace Sys2Proof

open Machine

variable {z s : State}

theorem fits_giveTally {c : Core} (fit : Fits z c) (ts : List Nat) : Fits z (c.giveTally ts) := fits_update fit

theorem fits_dropGroup {c : Core} (fit : Fits z c) : Fits z c.dropGroup := fits_update fit

theorem keeps_drainOut (keep : Keeps z s) (k i : Nat) (c : Cmd) (g : Group) (t2 : Option Tile) :
    Keeps z (s.drainOut k i c g t2) := by
  unfold State.drainOut
  extract_lets a d n q core rc sa sb sc s2 ok f sab el els fl h h' pay s3 s4 s5 last slot t pay2 t1 s6 r c1
  have k3 : Keeps z s3 := keeps_add32 (keeps_flags (keeps_put keep ..) ..) ..
  have k4 : Keeps z s4 := keeps_ite (keeps_setBit k3 ..) k3
  have k5 : Keeps z s5 := keeps_setCore k4 (fits_giveTally (fits_core k4 _) _) _
  have k6 : Keeps z s6 := keeps_ite (keeps_setCore k5 (fits_setSlot (fits_core k5 _) ..) _) k5
  have kr : Keeps z r.1 := by
    unfold r
    split
    · exact keeps_useUp k6 ..
    · exact keeps_fst k6
  exact keeps_ite (keeps_finish (keeps_setCore kr (fits_dropGroup (fits_core kr _)) _) ..) (keeps_setCmd kr ..)

theorem keeps_withScales (keep : Keeps z s) {f : State → List Nat → State} (step : ∀ u l, Keeps z u → Keeps z (f u l)) (k : Nat)
    (c : Cmd) (ix : List Nat) : Keeps z (s.withScales k c ix f) := by
  unfold State.withScales
  extract_lets s1
  have k1 : Keeps z s1 := keeps_foldl keep fun _ _ step => keeps_ite step (keeps_seen step ..)
  split
  · exact step _ _ k1
  · exact keeps_escalate k1 ..
  · exact keeps_pageFault k1 ..

theorem keeps_drainStep (keep : Keeps z s) (k i : Nat) (c : Cmd) : Keeps z (s.drainStep k i c) := by
  unfold State.drainStep
  dsimp only
  split
  · exact keep
  · exact keeps_ite (keeps_withScales keep (fun _ _ step => keeps_setCmd step ..) ..) (keeps_ite (keeps_starved keep ..) (keeps_ite
      (keeps_withTile keep (fun _ _ _ step => keeps_ite (keeps_withScales step (fun _ _ step' => keeps_setCmd step' ..) ..)
      (keeps_drainOut step ..)) ..) (keeps_drainOut keep ..)))

theorem keeps_execDrain (keep : Keeps z s) (k : CoreIx) : KeepsOn z (execDrain k s) := by
  unfold execDrain
  exact ⟨keeps_runStation keep (fun _ _ _ step => keeps_drainStep step ..) ..⟩

theorem keeps_execDiscard (keep : Keeps z s) (k : CoreIx) : KeepsOn z (execDiscard k s) := by
  unfold execDiscard
  refine .of_next (keeps_runStation keep (fun s i c step => ?_) ..)
  split
  · exact step
  · exact keeps_finish (keeps_setCore step (fits_dropGroup (fits_giveTally (fits_core step _) ..) ..) _) ..

theorem keeps_startRun (keep : Keeps z s) (k : Nat) (c : Cmd) : Keeps z (s.startRun k c) := by
  unfold State.startRun
  dsimp only
  split
  · exact keeps_escalate keep ..
  · exact keeps_setCore keep (fits_vlZero rfl) _

theorem keeps_vectBegin (keep : Keeps z s) (k : Nat) (c : Cmd) : Keeps z (s.vectBegin k c) := by
  unfold State.vectBegin
  dsimp only
  split
  · exact keeps_ite (keeps_startRun (keeps_beginCmd keep ..) ..) (keeps_beginCmd keep ..)
  · exact keeps_beginCmd keep ..

theorem keeps_vectWake (keep : Keeps z s) (k : Nat) (c : Cmd) : Keeps z (s.vectWake k c) := by
  unfold State.vectWake
  exact keeps_ite (keeps_ite keep (keeps_setCmd (keeps_setBit keep ..) ..)) (keeps_vectBegin keep ..)

theorem keeps_runVect (keep : Keeps z s) {work : State → Cmd → State} (step : ∀ u c, Keeps z u → Keeps z (work u c)) (k op : Nat) :
    Keeps z (s.runVect k op work) := by
  unfold State.runVect
  split
  · exact keeps_ite keep (keeps_ite (keeps_vectWake keep ..) (step _ _ keep))
  · exact keep

theorem keeps_execWakeEnd (keep : Keeps z s) (k : CoreIx) : KeepsOn z (execWakeEnd k s) := by
  unfold execWakeEnd
  dsimp only
  split
  · split
    · exact ⟨keeps_ite (keeps_vectBegin (keeps_add32 (keeps_clearBit (keeps_clearBit keep ..) ..) ..) ..) (keeps_add32
        (keeps_clearBit (keeps_clearBit keep ..) ..) ..)⟩
    · exact ⟨keeps_add32 (keeps_clearBit (keeps_clearBit keep ..) ..) ..⟩
  · exact ⟨keep⟩

theorem keeps_execNap (keep : Keeps z s) (k : CoreIx) : KeepsOn z (execNap k s) := by
  unfold execNap
  dsimp only
  exact ⟨keeps_ite (keeps_update (keeps_setCore (keeps_setBit keep ..) (fits_vlZero rfl) _)) keep⟩

theorem keeps_startStep (keep : Keeps z s) (k : Nat) (c : Cmd) (n : Kern) (t0 : Tile) (t1 : Option Tile) :
    Keeps z (s.startStep k c n t0 t1) := by
  unfold State.startStep
  dsimp only
  exact keeps_spend (keeps_setCore keep (fits_update (fits_core keep _)) _) ..

theorem keeps_illegal (keep : Keeps z s) (k : Nat) (c : Cmd) (pc : Nat) : Keeps z (s.illegal k c pc) := by
  unfold State.illegal
  dsimp only
  exact keeps_reeveStop (keeps_note (keeps_setField (keeps_setBit (keeps_haltStation keep ..) ..) ..) ..) ..

theorem keeps_runStep (keep : Keeps z s) (k : Nat) (c : Cmd) : Keeps z (s.runStep k c) := by
  unfold State.runStep
  dsimp only
  split
  · exact keep
  · exact keeps_ite (keeps_ite (keeps_illegal keep ..) keep) (keeps_withTile keep (fun _ _ _ step => keeps_ite (keeps_startStep
      (keeps_setCmd step ..) ..) (keeps_withTile step (fun _ _ _ step' => keeps_startStep (keeps_setCmd step' ..) ..) ..)) ..)

theorem keeps_execRun (keep : Keeps z s) (k : CoreIx) : KeepsOn z (execRun k s) := by
  unfold execRun
  exact ⟨keeps_runVect keep (fun _ _ step => keeps_runStep step ..) ..⟩

theorem keeps_endStep (keep : Keeps z s) (k : Nat) (c : Cmd) (n : Kern) : Keeps z (s.endStep k c n) := by
  unfold State.endStep
  extract_lets d once bcast last due s1 r0 r1 c1
  have k1 : Keeps z s1 := keeps_ite (keeps_put keep ..) keep
  have kr : Keeps z r1.1 := by
    unfold r1
    split
    · exact keeps_useUp (keeps_useUp k1 ..) ..
    · exact keeps_useUp k1 ..
  have ended : ∀ n, Keeps z (r1.1.setCore k { r1.1.core k with kern := n }) :=
    fun _ => keeps_setCore kr (fits_update (fits_core kr _)) _
  exact keeps_ite (keeps_starved keep ..) (keeps_ite (keeps_finish (ended _) ..) (keeps_setCmd (ended _) ..))

theorem keeps_putAll (keep : Keeps z s) (u : Nat) (d : Desc) (n : Nat) (l : List Tile) : Keeps z (s.putAll u d n l) := by
  induction l generalizing s n with
  | nil => exact keep
  | cons t ts ih => exact ih (keeps_put keep ..) _

theorem keeps_raddStep (keep : Keeps z s) (k : Nat) (c : Cmd) : Keeps z (s.raddStep k c) := by
  unfold State.raddStep
  extract_lets r w t has0 n0 n1 take d nout arr n1w loc first o s1 ra rb c1
  have taken : ∀ o, Keeps z (take o) := by
    intro o
    unfold take
    split
    · exact keep
    · next e => exact (keeps_arriveTile keep ..).asked e
    · next e => exact (keeps_arriveTile keep ..).stop e
    · next e => exact keeps_setCmd ((keeps_arriveTile keep ..).ok e) ..
  have k1 : Keeps z s1 := keeps_flags (keeps_putAll keep ..) ..
  have ka : Keeps z ra.1 := by
    unfold ra
    split
    · exact keeps_useUpN k1 ..
    · exact keeps_fst k1
  have kb : Keeps z rb.1 := keeps_useUpN ka ..
  exact keeps_ite (taken 0) (keeps_ite (taken 1) (keeps_ite (keeps_starved keep ..) (keeps_ite (keeps_finish kb ..) (keeps_setCmd
    kb ..))))

theorem keeps_execRadd (keep : Keeps z s) (k : CoreIx) : KeepsOn z (execRadd k s) := by
  unfold execRadd
  exact ⟨keeps_runVect keep (fun _ _ step => keeps_raddStep step ..) ..⟩

/-- A kernel word's meaning leaves a VL that fits. -/
structure FitsWord (body : Core → Kern → KWord → Option (Core × Fl × Nat)) : Prop where
  fits : ∀ {z c} n w, Fits z c → KeepsSome (fun r => Fits z r.1) (body c n w)

theorem keeps_kernRow (keep : Keeps z s) {body : Core → Kern → KWord → Option (Core × Fl × Nat)} (word : FitsWord body) (k op :
    Nat) :
    Keeps z (s.kernRow k op body) := by
  unfold State.kernRow
  refine keeps_runVect keep (fun s c keep => ?_) ..
  split
  · exact keep
  · dsimp only
    split
    · split
      · exact keeps_illegal keep ..
      · next e =>
        exact keeps_add64 (keeps_flags (keeps_setCore keep ((word.fits _ _ (fits_core keep _)).some e) _) ..) ..
    · exact keep

theorem fits_setX {c : Core} (fit : Fits z c) (n v : Nat) : Fits z (c.setX n v) := fits_ite fit (fits_update fit)

theorem fits_next {c : Core} (fit : Fits z c) (n : Kern) : Fits z (c.next n) := fits_update fit

theorem fits_bump {c : Core} (fit : Fits z c) (w : KWord) (b : Nat) : Fits z (c.bump w b) := fits_ite (fits_setX fit ..) fit

theorem fits_loadFields (kt : Tile) (f : Nat) : FitsWord (loadFields kt f) := by
  refine ⟨fun n w fit => ?_⟩
  unfold loadFields
  split
  · exact .of_some (fits_next (fits_bump (fits_update fit) ..) _)
  · exact ⟨trivial⟩

theorem fits_storeFields (f : Nat) : FitsWord (storeFields f) := by
  refine ⟨fun n w fit => ?_⟩
  unfold storeFields
  split
  · exact .of_some (fits_next (fits_bump fit ..) _)
  · exact ⟨trivial⟩

theorem fits_vecElem (rule : EtRule) (unary : Bool) (cost : Nat) (el : ElemOp) : FitsWord (vecElem rule unary cost el) := by
  refine ⟨fun n w fit => ?_⟩
  unfold vecElem
  dsimp only
  split
  · exact .of_some (fits_next (fits_update fit) _)
  · exact ⟨trivial⟩

theorem fits_vecConv (rule : EtRule) (intOnly : Bool) (el : KWord → Nat → Nat → Nat × Fl) : FitsWord (vecConv rule intOnly el) := by
  refine ⟨fun n w fit => ?_⟩
  unfold vecConv
  dsimp only
  split
  · exact .of_some (fits_next (fits_update fit) _)
  · exact ⟨trivial⟩

theorem fits_vecCmp (rel : Val → Val → Bool) : FitsWord (vecCmp rel) := by
  refine ⟨fun n w fit => ?_⟩
  unfold vecCmp
  split
  · split
    · exact .of_some (fits_next fit _)
    · exact .of_some (fits_next (fits_update fit) _)
  · exact ⟨trivial⟩

theorem keeps_execVend (keep : Keeps z s) (k : CoreIx) : KeepsOn z (execVend k s) := by
  refine .of_next (keeps_runVect keep (fun s c keep => ?_) ..)
  split
  · exact keep
  · exact keeps_ite (keeps_endStep keep ..) keep

/-- SETL grants a VL that fits the group (R174). -/
theorem fits_granted {c : Core} (vl : c.vl ≤ 512 * 2 ^ c.lg / sew c.et) : Fits z c :=
  ⟨fun _ => (Nat.mul_le_mul_right _ vl).trans (Nat.div_mul_le_self ..)⟩

theorem keeps_execSetl (keep : Keeps z s) (k : CoreIx) : KeepsOn z (execSetl k s) := by
  refine .of_next (keeps_kernRow keep ⟨fun n w fit => ?_⟩ ..)
  dsimp only
  split
  · exact ⟨trivial⟩
  · exact .of_some (fits_next (fits_setX (fits_granted (Nat.min_le_right ..)) ..) _)

theorem keeps_execSaddi (keep : Keeps z s) (k : CoreIx) : KeepsOn z (execSaddi k s) := by
  refine .of_next (keeps_kernRow keep ⟨fun n w fit => ?_⟩ ..)
  split
  · exact ⟨trivial⟩
  · exact .of_some (fits_next (fits_setX fit ..) _)

theorem keeps_execSadd (keep : Keeps z s) (k : CoreIx) : KeepsOn z (execSadd k s) := by
  refine .of_next (keeps_kernRow keep ⟨fun n w fit => ?_⟩ ..)
  dsimp only
  split
  · exact ⟨trivial⟩
  · exact .of_some (fits_next (fits_setX fit ..) _)

theorem keeps_execSsub (keep : Keeps z s) (k : CoreIx) : KeepsOn z (execSsub k s) := by
  refine .of_next (keeps_kernRow keep ⟨fun n w fit => ?_⟩ ..)
  dsimp only
  split
  · exact ⟨trivial⟩
  · exact .of_some (fits_next (fits_setX fit ..) _)

theorem keeps_execSbnz (keep : Keeps z s) (k : CoreIx) : KeepsOn z (execSbnz k s) := by
  refine .of_next (keeps_kernRow keep ⟨fun n w fit => ?_⟩ ..)
  dsimp only
  split
  · exact ⟨trivial⟩
  · split
    · exact .of_some (fits_update fit)
    · exact .of_some (fits_next fit _)

theorem keeps_execVld (keep : Keeps z s) (k : CoreIx) : KeepsOn z (execVld k s) :=
  .of_next (keeps_kernRow keep (fits_loadFields ..) ..)

theorem keeps_execVld2 (keep : Keeps z s) (k : CoreIx) : KeepsOn z (execVld2 k s) :=
  .of_next (keeps_kernRow keep (fits_loadFields ..) ..)

theorem keeps_execVld3 (keep : Keeps z s) (k : CoreIx) : KeepsOn z (execVld3 k s) :=
  .of_next (keeps_kernRow keep (fits_loadFields ..) ..)

theorem keeps_execVld4 (keep : Keeps z s) (k : CoreIx) : KeepsOn z (execVld4 k s) :=
  .of_next (keeps_kernRow keep (fits_loadFields ..) ..)

theorem keeps_execVst (keep : Keeps z s) (k : CoreIx) : KeepsOn z (execVst k s) :=
  .of_next (keeps_kernRow keep (fits_storeFields ..) ..)

theorem keeps_execVst2 (keep : Keeps z s) (k : CoreIx) : KeepsOn z (execVst2 k s) :=
  .of_next (keeps_kernRow keep (fits_storeFields ..) ..)

theorem keeps_execVst3 (keep : Keeps z s) (k : CoreIx) : KeepsOn z (execVst3 k s) :=
  .of_next (keeps_kernRow keep (fits_storeFields ..) ..)

theorem keeps_execVst4 (keep : Keeps z s) (k : CoreIx) : KeepsOn z (execVst4 k s) :=
  .of_next (keeps_kernRow keep (fits_storeFields ..) ..)

theorem keeps_execVldb (keep : Keeps z s) (k : CoreIx) : KeepsOn z (execVldb k s) := by
  refine .of_next (keeps_kernRow keep ⟨fun n w fit => ?_⟩ ..)
  dsimp only
  split
  · split
    · exact .of_some (fits_next fit _)
    · exact .of_some (fits_next (fits_bump (fits_update fit) ..) _)
  · exact ⟨trivial⟩

theorem keeps_execVadd (keep : Keeps z s) (k : CoreIx) : KeepsOn z (execVadd k s) :=
  .of_next (keeps_kernRow keep (fits_vecElem ..) ..)

theorem keeps_execVsub (keep : Keeps z s) (k : CoreIx) : KeepsOn z (execVsub k s) :=
  .of_next (keeps_kernRow keep (fits_vecElem ..) ..)

theorem keeps_execVmul (keep : Keeps z s) (k : CoreIx) : KeepsOn z (execVmul k s) :=
  .of_next (keeps_kernRow keep (fits_vecElem ..) ..)

theorem keeps_execVfma (keep : Keeps z s) (k : CoreIx) : KeepsOn z (execVfma k s) :=
  .of_next (keeps_kernRow keep (fits_vecElem ..) ..)

theorem keeps_execVfms (keep : Keeps z s) (k : CoreIx) : KeepsOn z (execVfms k s) :=
  .of_next (keeps_kernRow keep (fits_vecElem ..) ..)

theorem keeps_execVmin (keep : Keeps z s) (k : CoreIx) : KeepsOn z (execVmin k s) :=
  .of_next (keeps_kernRow keep (fits_vecElem ..) ..)

theorem keeps_execVmax (keep : Keeps z s) (k : CoreIx) : KeepsOn z (execVmax k s) :=
  .of_next (keeps_kernRow keep (fits_vecElem ..) ..)

theorem keeps_execVdiv (keep : Keeps z s) (k : CoreIx) : KeepsOn z (execVdiv k s) :=
  .of_next (keeps_kernRow keep (fits_vecElem ..) ..)

theorem keeps_execVsqrt (keep : Keeps z s) (k : CoreIx) : KeepsOn z (execVsqrt k s) :=
  .of_next (keeps_kernRow keep (fits_vecElem ..) ..)

theorem keeps_execVabs (keep : Keeps z s) (k : CoreIx) : KeepsOn z (execVabs k s) :=
  .of_next (keeps_kernRow keep (fits_vecElem ..) ..)

theorem keeps_execVneg (keep : Keeps z s) (k : CoreIx) : KeepsOn z (execVneg k s) :=
  .of_next (keeps_kernRow keep (fits_vecElem ..) ..)

theorem keeps_execVand (keep : Keeps z s) (k : CoreIx) : KeepsOn z (execVand k s) :=
  .of_next (keeps_kernRow keep (fits_vecElem ..) ..)

theorem keeps_execVor (keep : Keeps z s) (k : CoreIx) : KeepsOn z (execVor k s) :=
  .of_next (keeps_kernRow keep (fits_vecElem ..) ..)

theorem keeps_execVxor (keep : Keeps z s) (k : CoreIx) : KeepsOn z (execVxor k s) :=
  .of_next (keeps_kernRow keep (fits_vecElem ..) ..)

theorem keeps_execVshl (keep : Keeps z s) (k : CoreIx) : KeepsOn z (execVshl k s) :=
  .of_next (keeps_kernRow keep (fits_vecElem ..) ..)

theorem keeps_execVshr (keep : Keeps z s) (k : CoreIx) : KeepsOn z (execVshr k s) :=
  .of_next (keeps_kernRow keep (fits_vecElem ..) ..)

theorem keeps_execVqadd (keep : Keeps z s) (k : CoreIx) : KeepsOn z (execVqadd k s) :=
  .of_next (keeps_kernRow keep (fits_vecElem ..) ..)

theorem keeps_execVqsub (keep : Keeps z s) (k : CoreIx) : KeepsOn z (execVqsub k s) :=
  .of_next (keeps_kernRow keep (fits_vecElem ..) ..)

theorem keeps_execVqmul (keep : Keeps z s) (k : CoreIx) : KeepsOn z (execVqmul k s) :=
  .of_next (keeps_kernRow keep (fits_vecElem ..) ..)

theorem keeps_execVqmac (keep : Keeps z s) (k : CoreIx) : KeepsOn z (execVqmac k s) :=
  .of_next (keeps_kernRow keep (fits_vecElem ..) ..)

theorem keeps_execVcvt (keep : Keeps z s) (k : CoreIx) : KeepsOn z (execVcvt k s) :=
  .of_next (keeps_kernRow keep (fits_vecConv ..) ..)

theorem keeps_execVqcvt (keep : Keeps z s) (k : CoreIx) : KeepsOn z (execVqcvt k s) :=
  .of_next (keeps_kernRow keep (fits_vecConv ..) ..)

theorem keeps_execVcmpeq (keep : Keeps z s) (k : CoreIx) : KeepsOn z (execVcmpeq k s) :=
  .of_next (keeps_kernRow keep (fits_vecCmp ..) ..)

theorem keeps_execVcmplt (keep : Keeps z s) (k : CoreIx) : KeepsOn z (execVcmplt k s) :=
  .of_next (keeps_kernRow keep (fits_vecCmp ..) ..)

theorem keeps_execVcmple (keep : Keeps z s) (k : CoreIx) : KeepsOn z (execVcmple k s) :=
  .of_next (keeps_kernRow keep (fits_vecCmp ..) ..)

theorem keeps_execVrsum (keep : Keeps z s) (k : CoreIx) : KeepsOn z (execVrsum k s) := by
  refine .of_next (keeps_kernRow keep ⟨fun n w fit => ?_⟩ ..)
  dsimp only
  split
  · split
    · exact .of_some (fits_next fit _)
    · exact .of_some (fits_next (fits_update fit) _)
  · exact ⟨trivial⟩

end Sys2Proof
end

section
/-! PROOFS. What every command keeps: power, release and what a collective moves. -/

namespace Sys2Proof

open Machine

variable {z s : State}

theorem keeps_execPowerOn (keep : Keeps z s) : KeepsOn z (execPowerOn s) := by
  unfold execPowerOn
  exact ⟨keeps_ite (keeps_restart keep ..) keep⟩

/-- The constable counts a power loss, and CNT_PWRLOSS saturates (R455). -/
def Machine.State.lossCounted (s : State) : State :=
  { s with sec := { s.sec with pwrLoss := if s.sec.pwrLoss = 0xFFFFFFFF then s.sec.pwrLoss else s.sec.pwrLoss + 1 } }

theorem keeps_lossCounted (keep : Keeps z s) : Keeps z s.lossCounted :=
  keeps_sec keep { Sec.Grows.refl s.sec with pwrLoss := le_succ_unless_full _ }

theorem keeps_powerLoss (keep : Keeps z s) : Keeps z s.powerLoss :=
  keeps_syncMode (keeps_unpowered (keeps_lossCounted (keeps_ring keep ..)))

theorem keeps_execPowerFail (keep : Keeps z s) : KeepsOn z (execPowerFail s) := by
  unfold execPowerFail
  exact ⟨keeps_ite (keeps_powerLoss keep ..) keep⟩

theorem keeps_execOverVoltage (keep : Keeps z s) : KeepsOn z (execOverVoltage s) := by
  unfold execOverVoltage
  dsimp only
  exact ⟨keeps_ite (keeps_update (keeps_powerLoss keep ..)) keep⟩

theorem keeps_execVinLow (keep : Keeps z s) : KeepsOn z (execVinLow s) := by
  unfold execVinLow
  exact ⟨keeps_ite (keeps_setBit keep ..) keep⟩

theorem keeps_execEnLow (keep : Keeps z s) (high : Bool) : KeepsOn z (execEnLow high s) := by
  unfold execEnLow
  dsimp only
  exact ⟨keeps_ite (keeps_update keep) (keeps_syncMode (keeps_update (keeps_ite (keeps_powerLoss keep ..) keep)) ..)⟩

theorem keeps_execGovernorFast (keep : Keeps z s) (p : Nat) : KeepsOn z (execGovernorFast p s) := by
  unfold execGovernorFast
  dsimp only
  exact ⟨keeps_ite keep (keeps_ite (keeps_foldl keep (fun _ _ step => keeps_setSuit step ..)) (keeps_setBit (keeps_foldl keep
    (fun _ _ step => keeps_setSuit step ..)) ..))⟩

theorem keeps_execGovernorTick (keep : Keeps z s) (a : Nat) (hot near : List Nat) :
    KeepsOn z (execGovernorTick a hot near s) := by
  unfold execGovernorTick
  dsimp only
  exact ⟨keeps_ite keep (keeps_foldl keep (fun _ _ step => keeps_setSuit step ..))⟩

theorem keeps_execFloor (keep : Keeps z s) (i : SuitIx) : KeepsOn z (execFloor i s) := by
  unfold execFloor
  exact ⟨keeps_ite (keeps_setBit keep ..) keep⟩

theorem keeps_execThrottle (keep : Keeps z s) (kind : Fin 4) (i : SuitIx) : KeepsOn z (execThrottle kind i s) := by
  unfold execThrottle
  dsimp only
  exact ⟨keeps_ite keep (keeps_setBit (keeps_foldl keep (fun _ _ step => keeps_setSuit step ..)) ..)⟩

theorem keeps_execTrip (keep : Keeps z s) (kind : Fin 2) (i : SuitIx) : KeepsOn z (execTrip kind i s) := by
  unfold execTrip
  refine .of_next (keeps_ite keep ?_)
  have k2 : Keeps z (s.ring 0 0 0 6).lossCounted := keeps_lossCounted (keeps_ring keep ..)
  have k3 := keeps_foldl (l := suits4) k2 fun _ j step => keeps_darken step j
  extract_lets s1 sec2 s2 s3 s4 s5 recov6 ctl6 s6
  have k4 : Keeps z s4 := keeps_foldl k3 fun _ _ step => keeps_ite (keeps_setField (keeps_setField (keeps_clearBit step ..) ..) ..)
    step
  have k5 : Keeps z s5 := keeps_ite (keeps_setBit k4 ..) k4
  have k6 : Keeps z s6 := keeps_update k5
  exact keeps_syncMode (keeps_setBit k6 ..)

theorem keeps_execReleaseRequest (keep : Keeps z s) (byLatch : Bool) : KeepsOn z (execReleaseRequest byLatch s) := by
  unfold execReleaseRequest
  extract_lets ctl0 s0 s1 ctl2 s2
  have k0 : Keeps z s0 := keeps_update keep
  have k1 : Keeps z s1 := keeps_setField (keeps_setBit k0 ..) ..
  have k2 : Keeps z s2 := keeps_update k1
  exact .of_next (keeps_ite k0 (keeps_ite (keeps_syncMode (keeps_update k2)) (keeps_ite (keeps_syncMode (keeps_update k2))
    (keeps_safeOff k2))))

theorem keeps_execReleaseHoldRestart (keep : Keeps z s) : KeepsOn z (execReleaseHoldRestart s) := by
  unfold execReleaseHoldRestart
  dsimp only
  exact ⟨keeps_ite (keeps_restart (keeps_update keep) ..) keep⟩

theorem keeps_collDid (keep : Keeps z s) (c : Coll) (u : Nat × Nat) : Keeps z (s.collDid c u) := keeps_setColl keep ..

theorem keeps_collRead (keep : Keeps z s) (h n : Nat) (fmt : Option Nat) :
    KeepsRes (Keeps z) (fun x => Keeps z x.1) (s.collRead h n fmt) := by
  unfold State.collRead
  dsimp only
  split
  · exact .of_error keep
  · split
    · exact .of_error keep
    · exact .of_error keep
    · next e1 => exact .of_error ((keeps_arriveMem keep ..).stop e1)
    · next e1 => exact .of_pair ((keeps_arriveMem keep ..).ok e1)

theorem keeps_collReads (keep : Keeps z s) (h : Nat) (fmt : Option Nat) (ns : List Nat) :
    KeepsRes (Keeps z) (fun x => Keeps z x.1) (s.collReads h fmt ns) := by
  induction ns generalizing s with
  | nil => exact .of_pair keep
  | cons n ns ih =>
    unfold State.collReads
    split
    · next e => exact .of_error ((keeps_collRead keep ..).error e)
    · next t _ e =>
      have read : Keeps z t := (keeps_collRead keep ..).ok e
      split
      · next e => exact .of_error ((ih read).error e)
      · next e => exact .of_pair ((ih read).ok e)

theorem keeps_collWrite (keep : Keeps z s) (h n : Nat) (t : Tile) : KeepsRes (Keeps z) (Keeps z) (s.collWrite h n t) := by
  unfold State.collWrite
  dsimp only
  split
  · exact .of_error keep
  · split
    · exact .of_error keep
    · split
      · exact .of_error (keeps_refuse keep ..)
      · next e1 => exact .of_ok ((keeps_storeTileAt keep ..).ok e1)

theorem keeps_countSent (keep : Keeps z s) (h n : Nat) : Keeps z (s.countSent h n) := keeps_add64 keep ..

theorem keeps_holdPartials (keep : Keeps z s) (c : Coll) (r : List (Nat × List (Nat × Nat))) (acc : List (Nat × Nat)) :
    Keeps z (s.holdPartials c r acc) := by
  induction r generalizing s acc with
  | nil => exact keep
  | cons p r ih => exact ih (keeps_foldl (keeps_spend keep) fun _ _ step => keeps_update step) _

theorem keeps_strandReads (keep : Keeps z s) (d : BitVec 2048) (t : Nat) (hs : List Nat) :
    KeepsRes (Keeps z) (fun x => Keeps z x.1) (s.strandReads d t hs) := by
  induction hs generalizing s with
  | nil => exact .of_pair keep
  | cons n ns ih =>
    unfold State.strandReads
    dsimp only
    split
    · next e => exact .of_error ((keeps_collReads keep ..).error e)
    · next t _ e =>
      have read : Keeps z t := (keeps_collReads keep ..).ok e
      split
      · next e => exact .of_error ((ih read).error e)
      · next e => exact .of_pair ((ih read).ok e)

theorem keeps_strandGather (keep : Keeps z s) (c : Coll) (t : Nat) (order : List Nat) :
    KeepsRes (Keeps z) (fun x => Keeps z x.1) (s.strandGather c t order) := by
  unfold State.strandGather
  dsimp only
  split
  · next e => exact .of_error ((keeps_strandReads keep ..).error e)
  · next e => exact .of_pair (keeps_holdPartials ((keeps_strandReads keep ..).ok e) ..)

theorem keeps_writeResult (keep : Keeps z s) (r : Head × BitVec 32768) (hs : List (Nat × Nat)) :
    KeepsRes (Keeps z) (Keeps z) (s.writeResult r hs) := by
  induction hs generalizing s with
  | nil => exact .of_ok keep
  | cons x hs ih =>
    unfold State.writeResult
    dsimp only
    split
    · exact .of_error keep
    · split
      · next e => exact .of_error ((keeps_collWrite keep ..).error e)
      · next e => exact ih ((keeps_collWrite keep ..).ok e)

theorem keeps_reduceTile (keep : Keeps z s) (c : Coll) (pos t tt : Nat) (all : Bool) :
    Keeps z (s.reduceTile c pos t tt all) := by
  unfold State.reduceTile
  dsimp only
  split
  · next e1 => exact (keeps_strandGather keep ..).error e1
  · rename_i e
    split
    · next e2 => exact (keeps_writeResult ((keeps_strandGather keep ..).ok e) ..).error e2
    · next e1 =>
        exact keeps_collDid (keeps_ite (keeps_countSent (keeps_foldl ((keeps_writeResult ((keeps_strandGather keep ..).ok e) ..).ok
          e1) (fun _ _ step => keeps_countSent step ..)) ..) (keeps_foldl ((keeps_writeResult ((keeps_strandGather keep ..).ok
          e) ..).ok e1) (fun _ _ step => keeps_countSent step ..))) ..

theorem keeps_execAllreduce (keep : Keeps z s) (g : BitVec 8) (tag : BitVec 28) (pos : Fin 160) (tile : Nat) :
    KeepsOn z (execAllreduce g tag pos tile s) := by
  unfold execAllreduce
  split
  · exact ⟨keep⟩
  · exact ⟨keeps_ite (keeps_reduceTile keep ..) keep⟩

theorem keeps_execReduceScatter (keep : Keeps z s) (g : BitVec 8) (tag : BitVec 28) (pos : Fin 160) (tile : Nat) :
    KeepsOn z (execReduceScatter g tag pos tile s) := by
  unfold execReduceScatter
  split
  · exact ⟨keep⟩
  · exact ⟨keeps_ite (keeps_reduceTile keep ..) keep⟩

theorem keeps_copyTo (keep : Keeps z s) (t : Tile) (hs : List (Nat × Nat)) : KeepsRes (Keeps z) (Keeps z) (s.copyTo t hs) := by
  induction hs generalizing s with
  | nil => exact .of_ok keep
  | cons x hs ih =>
    unfold State.copyTo
    split
    · next e => exact .of_error ((keeps_collWrite keep ..).error e)
    · next e => exact ih ((keeps_collWrite keep ..).ok e)

theorem keeps_execAllGather (keep : Keeps z s) (g : BitVec 8) (tag : BitVec 28) (src tile : Nat) :
    KeepsOn z (execAllGather g tag src tile s) := by
  unfold execAllGather
  dsimp only
  split
  · exact ⟨keep⟩
  · split
    · exact ⟨keep⟩
    · split
      · next e2 => exact ⟨(keeps_collRead keep ..).error e2⟩
      · rename_i e1
        split
        · next e3 => exact ⟨(keeps_copyTo ((keeps_collRead keep ..).ok e1) ..).error e3⟩
        · next e2 => exact ⟨keeps_collDid (keeps_countSent ((keeps_copyTo ((keeps_collRead keep ..).ok e1) ..).ok e2) ..) ..⟩

theorem keeps_pruneMember (keep : Keeps z s) (c : Coll) (h root : Nat) : Keeps z (s.pruneMember c h root) := by
  unfold State.pruneMember
  exact keeps_send (keeps_setBit keep ..) ..

theorem keeps_pruneSuit (keep : Keeps z s) (c : Coll) (b root : Nat) : Keeps z (s.pruneSuit c b root) := keeps_send keep ..

theorem keeps_execBroadcast (keep : Keeps z s) (g : BitVec 8) (tag : BitVec 28) (dst tile : Nat) :
    KeepsOn z (execBroadcast g tag dst tile s) := by
  unfold execBroadcast
  dsimp only
  split
  · exact ⟨keep⟩
  · split
    · exact ⟨keep⟩
    · split
      · exact ⟨keeps_collDid (keeps_pruneSuit keep ..) ..⟩
      · split
        · exact ⟨keeps_ite keep (keeps_collDid (keeps_pruneMember keep ..) ..)⟩
        · split
          · next e2 => exact ⟨(keeps_collRead keep ..).error e2⟩
          · rename_i e1
            split
            · exact ⟨(keeps_collRead keep ..).ok e1⟩
            · split
              · split
                · exact ⟨keeps_addCycles ((keeps_collRead keep ..).ok e1) ..⟩
                · next e4 =>
                    exact ⟨keeps_collDid (keeps_ite (keeps_setCmd ((keeps_sendP8 ((keeps_collRead keep ..).ok e1) ..).some e4) ..)
                      (keeps_countSent (keeps_setCmd ((keeps_sendP8 ((keeps_collRead keep ..).ok e1) ..).some e4) ..) ..)) ..⟩
              · split
                · next e4 => exact ⟨(keeps_collWrite ((keeps_collRead keep ..).ok e1) ..).error e4⟩
                · next e3 =>
                    exact ⟨keeps_collDid (keeps_ite ((keeps_collWrite ((keeps_collRead keep ..).ok e1) ..).ok e3) (keeps_countSent
                      ((keeps_collWrite ((keeps_collRead keep ..).ok e1) ..).ok e3) ..)) ..⟩

theorem keeps_blockReads (keep : Keeps z s) (h : Nat) (ns : List Nat) :
    KeepsRes (Keeps z) (fun x => Keeps z x.1) (s.blockReads h ns) := by
  induction ns generalizing s with
  | nil => exact .of_pair keep
  | cons n ns ih =>
    unfold State.blockReads
    split
    · next e => exact .of_error ((keeps_collRead keep ..).error e)
    · next t _ e =>
      have read : Keeps z t := (keeps_collRead keep ..).ok e
      split
      · exact .of_pair read
      · split
        · next e => exact .of_error ((ih read).error e)
        · next e => exact .of_pair ((ih read).ok e)

theorem keeps_blockWrites (keep : Keeps z s) (h to0 n : Nat) (tile : Nat → Tile) :
    KeepsRes (Keeps z) (Keeps z) (s.blockWrites h to0 n tile) := by
  unfold State.blockWrites
  have start : KeepsRes (Keeps z) (Keeps z) (Except.ok s : Except State State) := .of_ok keep
  generalize (Except.ok s : Except State State) = r at start ⊢
  induction upTo n generalizing r with
  | nil => exact start
  | cons j l ih =>
    refine ih _ ?_
    cases r with
    | error e => exact .of_error start.keeps
    | ok s => exact keeps_collWrite start.keeps ..

theorem keeps_moveBlock (keep : Keeps z s) (c : Coll) (h from0 dstH to0 : Nat) (unit : Nat × Nat) :
    Keeps z (s.moveBlock c h from0 dstH to0 unit) := by
  unfold State.moveBlock
  dsimp only
  split
  · next e1 => exact (keeps_blockReads keep ..).error e1
  · rename_i e
    split
    · exact (keeps_blockReads keep ..).ok e
    · split
      · next e3 => exact (keeps_blockWrites ((keeps_blockReads keep ..).ok e) ..).error e3
      · next e2 =>
          exact keeps_collDid (keeps_ite ((keeps_blockWrites ((keeps_blockReads keep ..).ok e) ..).ok e2) (keeps_countSent
            ((keeps_blockWrites ((keeps_blockReads keep ..).ok e) ..).ok e2) ..)) ..

theorem keeps_execAllToAll (keep : Keeps z s) (g : BitVec 8) (tag : BitVec 28) (src dst : Nat) :
    KeepsOn z (execAllToAll g tag src dst s) := by
  unfold execAllToAll
  split
  · exact ⟨keep⟩
  · exact ⟨keeps_ite (keeps_moveBlock keep ..) keep⟩

theorem keeps_execCollGather (keep : Keeps z s) (g : BitVec 8) (tag : BitVec 28) (src : Nat) :
    KeepsOn z (execCollGather g tag src s) := by
  unfold execCollGather
  split
  · exact ⟨keep⟩
  · exact ⟨keeps_ite (keeps_moveBlock keep ..) keep⟩

theorem keeps_execBarrier (keep : Keeps z s) (g : BitVec 8) (tag : BitVec 28) : KeepsOn z (execBarrier g tag s) := by
  unfold execBarrier
  split
  · exact ⟨keep⟩
  · exact ⟨keeps_ite (keeps_collDid keep ..) keep⟩

theorem keeps_shuffleSource (keep : Keeps z s) (c : Coll) (h : Nat) (x : Cmd) (e : Nat) :
    KeepsRes (Keeps z) (fun x => Keeps z x.1) (s.shuffleSource c h x e) := by
  unfold State.shuffleSource
  dsimp only
  split
  · split
    · exact .of_error keep
    · exact .of_error keep
    · next e2 => exact .of_error ((keeps_arriveLocal keep ..).stop e2)
    · next e2 => exact .of_pair ((keeps_arriveLocal keep ..).ok e2)
  · exact keeps_collRead keep ..

theorem keeps_shuffleEntry (keep : Keeps z s) (c : Coll) (i h : Nat) (x : Cmd) (e : Nat) :
    Keeps z (s.shuffleEntry c i h x e) := by
  unfold State.shuffleEntry
  dsimp only
  split
  · split
    · split
      · exact keeps_collMalformed keep ..
      · split
        · next e4 => exact (keeps_shuffleSource keep ..).error e4
        · next e3 => exact keeps_collDid (keeps_countSent (keeps_update ((keeps_shuffleSource keep ..).ok e3)) ..) ..
    · split
      · exact keeps_collMalformed keep ..
      · split
        · next e3 => exact (keeps_shuffleSource keep ..).error e3
        · rename_i e2
          split
          · next e4 => exact (keeps_collWrite ((keeps_shuffleSource keep ..).ok e2) ..).error e4
          · next e3 =>
              exact keeps_collDid (keeps_countSent ((keeps_collWrite ((keeps_shuffleSource keep ..).ok e2) ..).ok e3) ..) ..
  · split
    · split
      · exact keeps_collMalformed keep ..
      · split
        · next e3 => exact (keeps_shuffleSource keep ..).error e3
        · next e2 => exact keeps_collDid (keeps_countSent (keeps_update ((keeps_shuffleSource keep ..).ok e2)) ..) ..
    · split
      · exact keeps_collMalformed keep ..
      · split
        · next e2 => exact (keeps_shuffleSource keep ..).error e2
        · rename_i e1
          split
          · next e3 => exact (keeps_collWrite ((keeps_shuffleSource keep ..).ok e1) ..).error e3
          · next e2 =>
              exact keeps_collDid (keeps_countSent ((keeps_collWrite ((keeps_shuffleSource keep ..).ok e1) ..).ok e2) ..) ..

theorem keeps_execShuffle (keep : Keeps z s) (g : BitVec 8) (tag : BitVec 28) (entry : Nat) :
    KeepsOn z (execShuffle g tag entry s) := by
  unfold execShuffle
  dsimp only
  split
  · exact ⟨keep⟩
  · split
    · exact ⟨keep⟩
    · split
      · exact ⟨keep⟩
      · split
        · next e2 => exact ⟨(keeps_tableEntry keep ..).error e2⟩
        · next e3 => exact ⟨keeps_shuffleEntry ((keeps_tableEntry keep ..).ok e3) ..⟩

end Sys2Proof
end

section
/-! PROOFS. What every command keeps: every command, and with it every step. -/

namespace Sys2Proof

open Machine

variable {z s : State}

/-- What a nanosecond brings to the memory leaves everything else (assumption 88). -/
theorem keeps_memoryTime (keep : Keeps z s) : Keeps z s.memoryTime := by
  unfold State.memoryTime
  dsimp only
  split
  · exact keeps_landFills (keeps_spend keep) ..
  · exact keeps_ite (keeps_putError (keeps_spend keep) ..) (keeps_spend keep)
  · exact keeps_spend keep

theorem keeps_tick (keep : Keeps z s) : Keeps z s.tick := keeps_update (keeps_memoryTime keep)

/-- Every command answers a next state, which keeps the queue's rest, the canonical forms and the monotonic cells. -/
theorem exec_keeps (c : Instr) (s : State) : KeepsOn s (exec c s) :=
  match c with
  | .seqNop h => keeps_execSeqNop (.refl s) h
  | .seqJump h => keeps_execSeqJump (.refl s) h
  | .seqLoop h => keeps_execSeqLoop (.refl s) h
  | .epoch h katStep katTimes => keeps_execEpoch (.refl s) h katStep katTimes
  | .mark h => keeps_execMark (.refl s) h
  | .seqSignal h => keeps_execSeqSignal (.refl s) h
  | .ports h => keeps_execPorts (.refl s) h
  | .seqEnd h => keeps_execSeqEnd (.refl s) h
  | .hold h => keeps_execHold (.refl s) h
  | .grant h => keeps_execGrant (.refl s) h
  | .loadTiles k => keeps_execLoadTiles (.refl s) k
  | .gather k => keeps_execGather (.refl s) k
  | .mma k => keeps_execMma (.refl s) k
  | .elem k => keeps_execElem (.refl s) k
  | .drain k => keeps_execDrain (.refl s) k
  | .discard k => keeps_execDiscard (.refl s) k
  | .run k => keeps_execRun (.refl s) k
  | .radd k => keeps_execRadd (.refl s) k
  | .storeTiles k => keeps_execStoreTiles (.refl s) k
  | .scatter k => keeps_execScatter (.refl s) k
  | .reseal k => keeps_execReseal (.refl s) k
  | .solve h => keeps_execSolve (.refl s) h
  | .grad h => keeps_execGrad (.refl s) h
  | .coll h => keeps_execColl (.refl s) h
  | .millNop m => keeps_execMillNop (.refl s) m
  | .update m => keeps_execUpdate (.refl s) m
  | .publish m => keeps_execPublish (.refl s) m
  | .mirror m => keeps_execMirror (.refl s) m
  | .millSignal m => keeps_execMillSignal (.refl s) m
  | .tables m => keeps_execTables (.refl s) m
  | .step m katTimes => keeps_execStep (.refl s) m katTimes
  | .millJump m => keeps_execMillJump (.refl s) m
  | .millLoop m => keeps_execMillLoop (.refl s) m
  | .millEnd m => keeps_execMillEnd (.refl s) m
  | .vend k => keeps_execVend (.refl s) k
  | .setl k => keeps_execSetl (.refl s) k
  | .saddi k => keeps_execSaddi (.refl s) k
  | .sadd k => keeps_execSadd (.refl s) k
  | .ssub k => keeps_execSsub (.refl s) k
  | .sbnz k => keeps_execSbnz (.refl s) k
  | .vld k => keeps_execVld (.refl s) k
  | .vld2 k => keeps_execVld2 (.refl s) k
  | .vld3 k => keeps_execVld3 (.refl s) k
  | .vld4 k => keeps_execVld4 (.refl s) k
  | .vst k => keeps_execVst (.refl s) k
  | .vst2 k => keeps_execVst2 (.refl s) k
  | .vst3 k => keeps_execVst3 (.refl s) k
  | .vst4 k => keeps_execVst4 (.refl s) k
  | .vadd k => keeps_execVadd (.refl s) k
  | .vsub k => keeps_execVsub (.refl s) k
  | .vmul k => keeps_execVmul (.refl s) k
  | .vfma k => keeps_execVfma (.refl s) k
  | .vfms k => keeps_execVfms (.refl s) k
  | .vmin k => keeps_execVmin (.refl s) k
  | .vmax k => keeps_execVmax (.refl s) k
  | .vdiv k => keeps_execVdiv (.refl s) k
  | .vsqrt k => keeps_execVsqrt (.refl s) k
  | .vabs k => keeps_execVabs (.refl s) k
  | .vneg k => keeps_execVneg (.refl s) k
  | .vcmpeq k => keeps_execVcmpeq (.refl s) k
  | .vcmplt k => keeps_execVcmplt (.refl s) k
  | .vcmple k => keeps_execVcmple (.refl s) k
  | .vand k => keeps_execVand (.refl s) k
  | .vor k => keeps_execVor (.refl s) k
  | .vxor k => keeps_execVxor (.refl s) k
  | .vshl k => keeps_execVshl (.refl s) k
  | .vshr k => keeps_execVshr (.refl s) k
  | .vqadd k => keeps_execVqadd (.refl s) k
  | .vqsub k => keeps_execVqsub (.refl s) k
  | .vqmul k => keeps_execVqmul (.refl s) k
  | .vqmac k => keeps_execVqmac (.refl s) k
  | .vqcvt k => keeps_execVqcvt (.refl s) k
  | .vcvt k => keeps_execVcvt (.refl s) k
  | .vrsum k => keeps_execVrsum (.refl s) k
  | .vldb k => keeps_execVldb (.refl s) k
  | .schedFact h => keeps_execSchedFact (.refl s) h
  | .schedUpd h => keeps_execSchedUpd (.refl s) h
  | .schedSend h => keeps_execSchedSend (.refl s) h
  | .schedRecv h => keeps_execSchedRecv (.refl s) h
  | .schedSync h => keeps_execSchedSync (.refl s) h
  | .schedEnd h => keeps_execSchedEnd (.refl s) h
  | .pivotDeadline h ix => keeps_execPivotDeadline (.refl s) h ix
  | .allreduce g tag pos tile => keeps_execAllreduce (.refl s) g tag pos tile
  | .reduceScatter g tag pos tile => keeps_execReduceScatter (.refl s) g tag pos tile
  | .allGather g tag src tile => keeps_execAllGather (.refl s) g tag src tile
  | .broadcast g tag dst tile => keeps_execBroadcast (.refl s) g tag dst tile
  | .allToAll g tag src dst => keeps_execAllToAll (.refl s) g tag src dst
  | .collGather g tag src => keeps_execCollGather (.refl s) g tag src
  | .barrier g tag => keeps_execBarrier (.refl s) g tag
  | .shuffle g tag entry => keeps_execShuffle (.refl s) g tag entry
  | .fwBegin f => keeps_execFwBegin (.refl s) f
  | .fwChunk f => keeps_execFwChunk (.refl s) f
  | .fwCommit f => keeps_execFwCommit (.refl s) f
  | .keyErase f => keeps_execKeyErase (.refl s) f
  | .policySet f => keeps_execPolicySet (.refl s) f
  | .fence f => keeps_execFence (.refl s) f
  | .unfence f => keeps_execUnfence (.refl s) f
  | .powerLimit f => keeps_execPowerLimit (.refl s) f
  | .jobStart f => keeps_execJobStart (.refl s) f
  | .jobStop f => keeps_execJobStop (.refl s) f
  | .attestationRequest nonce => keeps_execAttestationRequest (.refl s) nonce
  | .identityRequest => keeps_execIdentityRequest (.refl s)
  | .bypass => keeps_execBypass (.refl s)
  | .idcode => keeps_execIdcode (.refl s)
  | .samplePreload => keeps_execSamplePreload (.refl s)
  | .extest => keeps_execExtest (.refl s)
  | .clamp => keeps_execClamp (.refl s)
  | .highz => keeps_execHighz (.refl s)
  | .i3cDynamicAddress setdasa static addr => keeps_execI3cDynamicAddress (.refl s) setdasa static addr
  | .i3cRead off len => keeps_execI3cRead (.refl s) off len
  | .bellRing v => keeps_execBellRing (.refl s) v
  | .bellResume reeve v => keeps_execBellResume (.refl s) reeve v
  | .apply su reeve => keeps_execApply (.refl s) su reeve
  | .tableCopy su => keeps_execTableCopy (.refl s) su
  | .cfgRefWrite addr v => keeps_execCfgRefWrite (.refl s) addr v
  | .dbgDataRead addr => keeps_execDbgDataRead (.refl s) addr
  | .xlqWrite su v => keeps_execXlqWrite (.refl s) su v
  | .faultTailWrite v => keeps_execFaultTailWrite (.refl s) v
  | .clear addr => keeps_execClear (.refl s) addr
  | .registerWrite reeve addr width v => keeps_execRegisterWrite (.refl s) reeve addr width v
  | .startPacket u => keeps_execStartPacket (.refl s) u
  | .streamFetch u => keeps_execStreamFetch (.refl s) u
  | .recordDispatch h => keeps_execRecordDispatch (.refl s) h
  | .resumePacket h => keeps_execResumePacket (.refl s) h
  | .detour h => keeps_execDetour (.refl s) h
  | .commandCommit ep station diverged => keeps_execCommandCommit (.refl s) ep station diverged
  | .tileCheck k station opd corrupt => keeps_execTileCheck (.refl s) k station opd corrupt
  | .creditReturn k port => keeps_execCreditReturn (.refl s) k port
  | .p8Credit ix => keeps_execP8Credit (.refl s) ix
  | .p8Recall ix => keeps_execP8Recall (.refl s) ix
  | .p8TileReceive ix => keeps_execP8TileReceive (.refl s) ix
  | .signalReceive manor dest ctr amt => keeps_execSignalReceive (.refl s) manor dest ctr amt
  | .mirrorSend h b => keeps_execMirrorSend (.refl s) h b
  | .mirrorUpdate m mirror => keeps_execMirrorUpdate (.refl s) m mirror
  | .bufferClaim m => keeps_execBufferClaim (.refl s) m
  | .handDone h => keeps_execHandDone (.refl s) h
  | .millDone m => keeps_execMillDone (.refl s) m
  | .stall h fail => keeps_execStall (.refl s) h fail
  | .gapFillEnd k => keeps_execGapFillEnd (.refl s) k
  | .dutyStep k => keeps_execDutyStep (.refl s) k
  | .nap k => keeps_execNap (.refl s) k
  | .wakeEnd k => keeps_execWakeEnd (.refl s) k
  | .memoryRead ep va len tid ecc sev hard => keeps_execMemoryRead (.refl s) ep va len tid ecc sev hard
  | .memoryWrite ep va data => keeps_execMemoryWrite (.refl s) ep va data
  | .atomic ep va op ty v cmp => keeps_execAtomic (.refl s) ep va op ty v cmp
  | .prefetchIssue su det arrived => keeps_execPrefetchIssue (.refl s) su det arrived
  | .patrolRead su pc sector ecc sev hard => keeps_execPatrolRead (.refl s) su pc sector ecc sev hard
  | .mapOut su pc reason => keeps_execMapOut (.refl s) su pc reason
  | .ddrReadUe ch addr dma => keeps_execDdrReadUe (.refl s) ch addr dma
  | .ddrPatrol ch addr ecc => keeps_execDdrPatrol (.refl s) ch addr ecc
  | .apertureAccess op addr len v cmp => keeps_execApertureAccess (.refl s) op addr len v cmp
  | .dmaTransfer src dst n => keeps_execDmaTransfer (.refl s) src dst n
  | .pcieInbound port write addr len v => keeps_execPcieInbound (.refl s) port write addr len v
  | .packetForward ix => keeps_execPacketForward (.refl s) ix
  | .packetReceive ix => keeps_execPacketReceive (.refl s) ix
  | .pruneNotice ix => keeps_execPruneNotice (.refl s) ix
  | .linkReplay b manor sent => keeps_execLinkReplay (.refl s) b manor sent
  | .linkRetryExhausted b manor sent oneLane lgroup lane => keeps_execLinkRetryExhausted (.refl s) b manor sent oneLane lgroup lane
  | .residueMismatch b lane slot g tag retryOk => keeps_execResidueMismatch (.refl s) b lane slot g tag retryOk
  | .collJoin ix => keeps_execCollJoin (.refl s) ix
  | .collAdmit g tag => keeps_execCollAdmit (.refl s) g tag
  | .admitTimeout g tag => keeps_execAdmitTimeout (.refl s) g tag
  | .collTimeout g tag h => keeps_execCollTimeout (.refl s) g tag h
  | .collComplete g tag => keeps_execCollComplete (.refl s) g tag
  | .stopMarker u => keeps_execStopMarker (.refl s) u
  | .unitStop u => keeps_execUnitStop (.refl s) u
  | .cutComplete => keeps_execCutComplete (.refl s)
  | .cutLate => keeps_execCutLate (.refl s)
  | .unitStopTimeout u => keeps_execUnitStopTimeout (.refl s) u
  | .faultRecord r => keeps_execFaultRecord (.refl s) r
  | .heartbeat r => keeps_execHeartbeat (.refl s) r
  | .reeveLost r => keeps_execReeveLost (.refl s) r
  | .watchdogExpiry r => keeps_execWatchdogExpiry (.refl s) r
  | .coreSwap k cause kittyOk => keeps_execCoreSwap (.refl s) k cause kittyOk
  | .handReplay h epochSlot => keeps_execHandReplay (.refl s) h epochSlot
  | .sectorRebuild pa data => keeps_execSectorRebuild (.refl s) pa data
  | .handFold h cause => keeps_execHandFold (.refl s) h cause
  | .suitFold su cause => keeps_execSuitFold (.refl s) su cause
  | .variantSwitch rootVa resume => keeps_execVariantSwitch (.refl s) rootVa resume
  | .stepRollForward => keeps_execStepRollForward (.refl s)
  | .suitRejoin su => keeps_execSuitRejoin (.refl s) su
  | .bridgeRetrain b manor ok => keeps_execBridgeRetrain (.refl s) b manor ok
  | .scrub => keeps_execScrub (.refl s)
  | .checkpoint linksUp => keeps_execCheckpoint (.refl s) linksUp
  | .checkpointTimeout => keeps_execCheckpointTimeout (.refl s)
  | .releaseBoundaryTimeout => keeps_execReleaseBoundaryTimeout (.refl s)
  | .releaseRequest byLatch => keeps_execReleaseRequest (.refl s) byLatch
  | .releaseHoldRestart => keeps_execReleaseHoldRestart (.refl s)
  | .cfgScan => keeps_execCfgScan (.refl s)
  | .cfgScanEnd block => keeps_execCfgScanEnd (.refl s) block
  | .graceEnd block => keeps_execGraceEnd (.refl s) block
  | .traceDrain u => keeps_execTraceDrain (.refl s) u
  | .powerOn => keeps_execPowerOn (.refl s)
  | .startUpStepEnd r => keeps_execStartUpStepEnd (.refl s) r
  | .startUpStepLimit => keeps_execStartUpStepLimit (.refl s)
  | .referenceTimeout => keeps_execReferenceTimeout (.refl s)
  | .referenceLoss => keeps_execReferenceLoss (.refl s)
  | .referenceReturn => keeps_execReferenceReturn (.refl s)
  | .stopN low => keeps_execStopN (.refl s) low
  | .powerFail => keeps_execPowerFail (.refl s)
  | .overVoltage => keeps_execOverVoltage (.refl s)
  | .vinLow => keeps_execVinLow (.refl s)
  | .enLow high => keeps_execEnLow (.refl s) high
  | .governorFast p => keeps_execGovernorFast (.refl s) p
  | .governorTick a hot near => keeps_execGovernorTick (.refl s) a hot near
  | .floor su => keeps_execFloor (.refl s) su
  | .throttle kind su => keeps_execThrottle (.refl s) kind su
  | .trip kind su => keeps_execTrip (.refl s) kind su
  | .sensorTrip sensor level value => keeps_execSensorTrip (.refl s) sensor level value
  | .keyRotation => keeps_execKeyRotation (.refl s)
  | .pcieLinkChange link up dpc width rate => keeps_execPcieLinkChange (.refl s) link up dpc width rate
  | .mgmtLinkChange up phy fec => keeps_execMgmtLinkChange (.refl s) up phy fec
  | .housekeepingEdge r => keeps_execHousekeepingEdge (.refl s) r
  | .faultLog => keeps_execFaultLog (.refl s)
  | .statusRead addr => keeps_execStatusRead (.refl s) addr

theorem KeepsOn.next {r : Host.Outcome State Fault Refusal} (k : KeepsOn s r) : ∃ t, r = .next t ∧ Keeps s t := by
  cases r with
  | next t => exact ⟨t, rfl, k.keeps⟩
  | _ => exact k.keeps.elim

/-- What `Keeps` says beside the queue, of a step, which takes a command off the queue or lets a nanosecond pass. -/
theorem step_keeps {t : State} (h : step s = .next t) :
    (Safe s → s.vlFits → Safe t ∧ t.vlFits) ∧ s.sec.Grows t.sec := by
  have keeps : ∃ u, Keeps u t ∧ u = { s with pending := u.pending } := by
    unfold step at h
    split at h
    · cases h
      exact ⟨s, keeps_tick (.refl s), rfl⟩
    · next c rest _ =>
      obtain ⟨u, e, keep⟩ := (exec_keeps c { s with pending := rest }).next
      rw [e] at h
      cases h
      exact ⟨_, keep, rfl⟩
  obtain ⟨u, keep, e⟩ := keeps
  rw [e] at keep
  refine ⟨fun safe fits => ⟨?_, keep.cores fits⟩, keep.sec⟩
  obtain ⟨mem, ddr, flash, regs, staged⟩ := safe
  exact ⟨keep.mem mem, keep.ddr ddr, keep.flash flash, keep.regs regs, keep.staged staged⟩

/-- Settles O57: what every command answers leaves the queue's rest alone. -/
theorem everyCommandAnswers : Obligations.EveryCommandAnswers := by
  intro c s
  obtain ⟨t, e, keep⟩ := (exec_keeps c s).next
  exact ⟨t, e, keep.pending⟩

/-- Settles O59: the canonical forms and VL are part of what every command keeps. -/
theorem stepsKeepCanonicalForm : Obligations.StepsKeepCanonicalForm :=
  fun _ _ safe fits h => (step_keeps h).1 safe fits

/-- Settles O60: the constable's cells grow with every command. -/
theorem secureCountersNeverFall : Obligations.SecureCountersNeverFall := by
  intro s t h
  obtain ⟨lastCtr, pwrLoss, alarms, minSeq, idNext, attGen, attNext, erasePending⟩ := (step_keeps h).2
  exact ⟨lastCtr, pwrLoss, alarms, minSeq, idNext, attGen, attNext, erasePending⟩

end Sys2Proof
end

section
/-! PROOFS. What the records of a sequencer send, wait for and hold (R58, R60, R81, R83). -/

namespace Sys2Proof

open Machine

variable {s t b : State}

/-- A commit after a step that keeps the hand's counters, whatever else the step changes. -/
theorem evc_commit_of_keeps {h : Nat} (r : BitVec 512) (k : ∀ c < 64, b.evc h c = s.evc h c) :
    ∀ c < 64, (b.seqCommit h r).evc h c = s.evc h c + incsOf r c := fun c hc => by
  rw [(seqCommits_seqCommit b h r).evc c hc, k c hc]

/-- What a commit may change is among what a sequencer's record may. -/
theorem frame_seqCommit (s : State) (h : Nat) (r : BitVec 512) :
    Frame (SeqRegs h) (· = h) Nothing Nothing s (s.seqCommit h r) :=
  ((seqCommits_seqCommit s h r).mono fun _ => CommitRegs.seqRegs).frame

theorem frame_seqBegin (s : State) (h : Nat) (r : BitVec 512) :
    Frame (SeqRegs h) (· = h) Nothing Nothing s (s.seqBegin h r) :=
  (seqKeeps_seqBegin s h r).frame.mono (fun _ => CommitRegs.seqRegs) (fun _ => id) (fun _ => id) (fun _ => id)

/-- A frame that names no core is one that names some. -/
theorem Frame.someCore {R H C M : Nat → Prop} (f : Frame R H Nothing M s t) : Frame R H C M s t :=
  f.mono (fun _ => id) (fun _ => id) (fun _ => False.elim) (fun _ => id)

/-- What a write of one unit may change is that unit. -/
theorem frame_setHand_self {R C M : Nat → Prop} (s : State) (h : Nat) (v : Hand) : Frame R (· = h) C M s (s.setHand h v) :=
  frame_setHand s h v rfl
theorem frame_setCore_self {R H M : Nat → Prop} (s : State) (k : Nat) (v : Core) : Frame R H (· = k) M s (s.setCore k v) :=
  frame_setCore s k v rfl
theorem frame_setMill_self {R H C : Nat → Prop} (s : State) (m : Nat) (v : Mill) : Frame R H C (· = m) s (s.setMill m v) :=
  frame_setMill s m v rfl

/-- A packet that a hand's sequencer sends on the control channel (R349). -/
theorem net_send_ctl (s : State) (src dest pos : Nat) (m : Msg) :
    (s.send src dest 3 pos m).net = s.net ++ [ctlPacket src dest pos m] := rfl

/-- Two states of a hand that differ in what a record's begin and commit touch: its stream and its trace ring. -/
def Machine.Hand.StreamOnly (d e : Hand) : Prop :=
  e = { d with buf := e.buf, detour := e.detour, seqBegun := e.seqBegun, lastCommit := e.lastCommit, ring := e.ring,
               rseq := e.rseq, lostNew := e.lostNew }

theorem Machine.Hand.StreamOnly.trans {d e f : Hand} (a : d.StreamOnly e) (c : e.StreamOnly f) : d.StreamOnly f := by
  unfold Hand.StreamOnly at a c ⊢
  rw [c, a]

theorem Machine.Hand.RingOnly.stream {d e : Hand} (a : d.RingOnly e) : d.StreamOnly e := by
  unfold Hand.RingOnly at a
  unfold Hand.StreamOnly
  rw [a]

section
variable {d e : Hand} (a : d.StreamOnly e)
include a
theorem Machine.Hand.StreamOnly.mask : e.mask = d.mask := by rw [show e = _ from a]
theorem Machine.Hand.StreamOnly.held : e.held = d.held := by rw [show e = _ from a]
theorem Machine.Hand.StreamOnly.skipSig : e.skipSig = d.skipSig := by rw [show e = _ from a]
end

theorem streamOnly_seqBegin (s : State) (h : Nat) (r : BitVec 512) :
    (s.hand h).StreamOnly ((s.seqBegin h r).hand h) := by
  unfold State.seqBegin
  split_ifs
  · rfl
  · have ring := ((traced_traceBegin (s.setHand h { s.hand h with seqBegun := true }) 9 h r 0).hand h).stream
    rw [State.hand_setHand, if_pos rfl] at ring
    exact Hand.StreamOnly.trans (e := { s.hand h with seqBegun := true }) rfl ring

theorem streamOnly_popRecord (s : State) (h : Nat) : (s.hand h).StreamOnly ((s.popRecord h).hand h) := by
  unfold State.popRecord
  dsimp only
  split <;> rw [State.hand_setHand, if_pos rfl] <;> rfl

theorem streamOnly_seqCommit (s : State) (h : Nat) (r : BitVec 512) :
    (s.hand h).StreamOnly ((s.seqCommit h r).hand h) := by
  have ended := ((traced_traceEnd (s.applyIncs h r) 9 h r 0 0 0).hand h).stream
  simp only [State.applyIncs, State.hand_inc1] at ended
  refine (ended.trans (streamOnly_popRecord _ h)).trans ?_
  rw [State.seqCommit, State.hand_setHand, if_pos rfl]
  rfl

section
variable {h : HandIx} {va : Nat} {r : BitVec 512}

theorem exec_seqSignal (e : s.seqReady h.val 5 = some (va, r)) (skip : (s.hand h.val).skipSig = 0) :
    exec (.seqSignal h) s = .next
      ((((s.seqBegin h.val r).setHand h.val ((s.seqBegin h.val r).hand h.val).countSignal).send (epHand h.val 25)
        (Record.argBits r 0 16) 3 h.val (.signal (Record.argBits r 16 6) (Record.argBits r 22 8))).seqCommit h.val r) := by
  show execSeqSignal h s = _
  simp only [execSeqSignal, e, (streamOnly_seqBegin s h.val r).skipSig, skip, lt_irrefl, if_false]

theorem seqSignal_sends (e : s.seqReady h.val 5 = some (va, r)) (skip : (s.hand h.val).skipSig = 0) :
    Does (.seqSignal h) s fun t =>
      t.net = s.net ++ [ctlPacket (epHand h.val 25) (Record.argBits r 0 16) h.val
        (.signal (Record.argBits r 16 6) (Record.argBits r 22 8))] ∧
      (∀ c < 64, t.evc h.val c = s.evc h.val c + incsOf r c) ∧ t.recov = s.recov ∧
      Frame (SeqRegs h.val) (· = h.val) Nothing Nothing s t := by
  refine ⟨_, exec_seqSignal e skip, ?_⟩
  obtain ⟨net, recov, -⟩ := (seqKeeps_seqBegin s h.val r).quiet
  generalize bq : (s.seqBegin h.val r).setHand h.val _ = b
  have quiet := (seqCommits_seqCommit (b.send (epHand h.val 25) (Record.argBits r 0 16) 3 h.val
    (.signal (Record.argBits r 16 6) (Record.argBits r 22 8))) h.val r).quiet
  subst bq
  refine ⟨?_, evc_commit_of_keeps r (seqKeeps_seqBegin s h.val r).evc, quiet.2.1.trans recov, ?_⟩
  · rw [quiet.1, net_send_ctl, State.setHand_net, net]
  · exact (((frame_seqBegin s h.val r).trans (frame_setHand _ _ _ rfl)).trans (frame_send _ _ _ _ _ _)).trans
      (frame_seqCommit _ _ _)

/-- The first phase of a GRANT: credits of the core's own leave with the packet (R60). -/
def Machine.State.grantBegin (s : State) (h : Nat) (r : BitVec 512) : State :=
  let k := s.physCore h (Record.argBits r 20 4)
  let e := Record.argBits r 0 16
  let n := Record.argBits r 16 4
  let b := s.seqBegin h r
  let c := b.setCore k { b.core k with
    p8own := (b.core k).p8own - n, grants := PMap.put (b.core k).grants e (PMap.get 0 (b.core k).grants e + n) }
  (c.setHand h { c.hand h with waitAck := [e] }).send (epHand h 25) e 3 h (.p8credit k n true)

theorem exec_grant_begin (e : s.seqReady h.val 9 = some (va, r)) (begun : (s.hand h.val).seqBegun = false) :
    exec (.grant h) s = .next (s.grantBegin h.val r) := by
  show execGrant h s = _
  simp only [execGrant, e, begun, Bool.not_false, if_true, State.grantBegin]

theorem exec_grant_commit (e : s.seqReady h.val 9 = some (va, r)) (begun : (s.hand h.val).seqBegun = true)
    (ack : (s.hand h.val).waitAck = []) : exec (.grant h) s = .next (s.seqCommit h.val r) := by
  show execGrant h s = _
  simp [execGrant, e, begun, ack]

theorem grant_begins (e : s.seqReady h.val 9 = some (va, r)) (begun : (s.hand h.val).seqBegun = false) :
    Does (.grant h) s fun t =>
      let k := s.physCore h.val (Record.argBits r 20 4)
      t.net = s.net ++ [ctlPacket (epHand h.val 25) (Record.argBits r 0 16) h.val
        (.p8credit k (Record.argBits r 16 4) true)] ∧
      (t.core k).p8own = (s.core k).p8own - Record.argBits r 16 4 ∧ (t.hand h.val).waitAck = [Record.argBits r 0 16] ∧
      (∀ c < 64, t.evc h.val c = s.evc h.val c) ∧ t.recov = s.recov ∧
      Frame (SeqRegs h.val) (· = h.val) (· = k) Nothing s t := by
  have began := seqKeeps_seqBegin s h.val r
  refine ⟨_, exec_grant_begin e begun, ?_, ?_, ?_, began.evc, began.quiet.2.1, ?_⟩
  · rw [State.grantBegin, net_send_ctl, State.setHand_net, State.setCore_net, began.quiet.1]
  · simp [State.grantBegin, began.frame.core _ id]
  · simp [State.grantBegin]
  · exact (((frame_seqBegin s h.val r).someCore.trans (frame_setCore _ _ _ (by rfl))).trans
      (frame_setHand _ _ _ rfl)).trans (frame_send _ _ _ _ _ _)

end

/-- Settles O2: SIGNAL and the first phase of GRANT send their packet after the record's begin, and the commits are those of
`seqCommits_seqCommit`. -/
theorem seqSendsPackets : Obligations.SeqSendsPackets := by
  unfold Obligations.SeqSendsPackets
  intro h s va r
  refine ⟨seqSignal_sends, grant_begins, fun e begun ack => ⟨_, exec_grant_commit e begun ack, ?_⟩⟩
  have c := seqCommits_seqCommit s h.val r
  exact ⟨c.evc, c.quiet, frame_seqCommit s h.val r⟩

/-! ## PORTS (R58, R60) -/

/-- The open-port mask of a logical core is the hand's. -/
theorem portMask_of_mask {h l : Nat} (m : (t.hand h).mask = (s.hand h).mask) : t.portMask h l = s.portMask h l := by
  simp only [State.portMask, m]

/-- PORTS sets the mask of its core and commits. -/
def Machine.State.portsDone (s : State) (h l new : Nat) (r : BitVec 512) : State :=
  (s.setHand h { s.hand h with mask := PMap.put (s.hand h).mask l new }).seqCommit h r

theorem portMask_portsDone (s : State) (h l new : Nat) (r : BitVec 512) : (s.portsDone h l new r).portMask h l = new := by
  rw [State.portMask, State.portsDone, (streamOnly_seqCommit _ h r).mask, State.hand_setHand, if_pos rfl]
  exact PMap.get_put_same _ _ _ _

theorem quiet_portsDone (s : State) (h l new : Nat) (r : BitVec 512) : Quiet s (s.portsDone h l new r) :=
  Quiet.trans ⟨rfl, rfl, rfl⟩ (seqCommits_seqCommit _ h r).quiet

theorem frame_portsDone (s : State) (h l new : Nat) (r : BitVec 512) :
    Frame (SeqRegs h) (· = h) Nothing Nothing s (s.portsDone h l new r) :=
  (frame_setHand (H := (· = h)) _ _ _ rfl).trans (frame_seqCommit _ _ _)

/-- The recall of P8 credits: a packet to each producer that holds a grant (R60). -/
def Machine.State.sendRecalls (s : State) (h k : Nat) (gs : List (Nat × Nat)) : State :=
  gs.foldl (fun (s : State) g => s.send (epHand h 25) g.1 3 h (.p8recall k)) s

theorem net_sendRecalls (gs : List (Nat × Nat)) (s : State) (h k : Nat) :
    (s.sendRecalls h k gs).net = s.net ++ gs.map (fun g => ctlPacket (epHand h 25) g.1 h (.p8recall k)) := by
  induction gs generalizing s with
  | nil => simp [State.sendRecalls]
  | cons g gs ih =>
    rw [State.sendRecalls, List.foldl_cons, ← State.sendRecalls, ih, net_send_ctl, List.map_cons, List.append_assoc,
      List.singleton_append]

theorem hand_sendRecalls (gs : List (Nat × Nat)) (s : State) (h k i : Nat) : (s.sendRecalls h k gs).hand i = s.hand i := by
  induction gs generalizing s with
  | nil => rfl
  | cons g gs ih => exact ih _

theorem frame_sendRecalls {R H C M : Nat → Prop} (gs : List (Nat × Nat)) (s : State) (h k : Nat) :
    Frame R H C M s (s.sendRecalls h k gs) := by
  induction gs generalizing s with
  | nil => exact .refl s
  | cons g gs ih => exact (frame_send s _ _ _ _ _).trans (ih _)

section
variable {h : HandIx} {va : Nat} {r : BitVec 512}

/-- What PORTS does with the ports it closes, once the record has begun. -/
def Machine.State.portsAct (b : State) (h : Nat) (r : BitVec 512) (k : Nat) (closing : List Nat) : State :=
  let c := b.core k
  let l := Record.core r
  let new := Record.argBits r 0 9
  if c.quiet closing = true then
    if 8 ∈ closing ∧ c.grants ≠ [] then
      if c.recalls = [] then (b.sendRecalls h k c.grants).setCore k { c with recalls := c.grants.map (·.1) }
      else if c.p8own = 8 then (b.setCore k { c with grants := [], recalls := [] }).portsDone h l new r
      else b
    else b.portsDone h l new r
  else b

theorem exec_ports (e : s.seqReady h.val 6 = some (va, r)) : exec (.ports h) s = .next
    ((s.seqBegin h.val r).portsAct h.val r (s.physCore h.val (Record.core r))
      (closingPorts (s.portMask h.val (Record.core r)) (Record.argBits r 0 9))) := by
  show execPorts h s = _
  simp only [execPorts, e, State.portsAct, State.portsDone, State.sendRecalls]
  congr 1
  split_ifs <;> simp_all

/-- PORTS on an idle core whose closing ports hold nothing to recall: the mask is set and the record commits. -/
theorem ports_commits (r : BitVec 512) (C : Nat → Prop) (b : State)
    (began : Frame (SeqRegs h.val) (· = h.val) C Nothing s b) (quiet : Quiet s b)
    (evc : ∀ c < 64, b.evc h.val c = s.evc h.val c) :
    let t := b.portsDone h.val (Record.core r) (Record.argBits r 0 9) r
    t.portMask h.val (Record.core r) = Record.argBits r 0 9 ∧ (∀ c < 64, t.evc h.val c = s.evc h.val c + incsOf r c) ∧
      Quiet s t ∧ Frame (SeqRegs h.val) (· = h.val) C Nothing s t :=
  ⟨portMask_portsDone _ _ _ _ _, evc_commit_of_keeps r evc, quiet.trans (quiet_portsDone _ _ _ _ _),
    began.trans (frame_portsDone _ _ _ _ _).someCore⟩

end

/-- PORTS in each of its cases: idle with nothing to recall, the recall, the credits home again, and busy. -/
theorem ports_acts (h : HandIx) (s : State) (va : Nat) (r : BitVec 512) (e : s.seqReady h.val 6 = some (va, r)) :
    let k := s.physCore h.val (Record.core r)
    let new := Record.argBits r 0 9
    let closing := closingPorts (s.portMask h.val (Record.core r)) new
    ((s.core k).quiet closing = true → (8 ∉ closing ∨ (s.core k).grants = []) → Does (.ports h) s fun t =>
      t.portMask h.val (Record.core r) = new ∧ (∀ c < 64, t.evc h.val c = s.evc h.val c + incsOf r c) ∧ Quiet s t ∧
      Frame (SeqRegs h.val) (· = h.val) Nothing Nothing s t) ∧
    ((s.core k).quiet closing = true → 8 ∈ closing → (s.core k).grants ≠ [] → (s.core k).recalls = [] →
      Does (.ports h) s fun t =>
        (t.core k).recalls = (s.core k).grants.map (·.1) ∧
        t.net = s.net ++ (s.core k).grants.map (fun g => ctlPacket (epHand h.val 25) g.1 h.val (.p8recall k)) ∧
        t.portMask h.val (Record.core r) = s.portMask h.val (Record.core r) ∧
        Frame (SeqRegs h.val) (· = h.val) (· = k) Nothing s t) ∧
    ((s.core k).quiet closing = true → 8 ∈ closing → (s.core k).grants ≠ [] → (s.core k).recalls ≠ [] → (s.core k).p8own = 8 →
      Does (.ports h) s fun t =>
        t.portMask h.val (Record.core r) = new ∧ (t.core k).grants = [] ∧ (∀ c < 64, t.evc h.val c = s.evc h.val c + incsOf r c) ∧
        Quiet s t ∧ Frame (SeqRegs h.val) (· = h.val) (· = k) Nothing s t) ∧
    ((s.core k).quiet closing = false → Does (.ports h) s fun t =>
        t.portMask h.val (Record.core r) = s.portMask h.val (Record.core r) ∧
        (∀ c < 64, t.evc h.val c = s.evc h.val c) ∧ Frame (SeqRegs h.val) (· = h.val) Nothing Nothing s t) := by
  intro k new closing
  have began := seqKeeps_seqBegin s h.val r
  have core : (s.seqBegin h.val r).core k = s.core k := began.frame.core k id
  have mask := (streamOnly_seqBegin s h.val r).mask
  have acts : exec (.ports h) s = .next ((s.seqBegin h.val r).portsAct h.val r k closing) := exec_ports e
  unfold State.portsAct at acts
  rw [core] at acts
  refine ⟨fun quiet none => ?_, fun quiet closes granted fresh => ?_, fun quiet closes granted asked home => ?_, fun busy => ?_⟩
  · rw [if_pos quiet, if_neg (by tauto)] at acts
    exact ⟨_, acts, ports_commits r Nothing _ (frame_seqBegin s h.val r) began.quiet began.evc⟩
  · rw [if_pos quiet, if_pos ⟨closes, granted⟩, if_pos fresh] at acts
    refine ⟨_, acts, by simp, ?_, portMask_of_mask ?_, ?_⟩
    · rw [State.setCore_net, net_sendRecalls, began.quiet.1]
    · rw [State.hand_setCore, hand_sendRecalls, mask]
    · exact ((frame_seqBegin s h.val r).someCore.trans (frame_sendRecalls _ _ _ _)).trans (frame_setCore _ _ _ (by rfl))
  · rw [if_pos quiet, if_pos ⟨closes, granted⟩, if_neg asked, if_pos home] at acts
    obtain ⟨open_, evc, still, frame⟩ := ports_commits r (· = k)
      ((s.seqBegin h.val r).setCore k { s.core k with grants := [], recalls := [] })
      ((frame_seqBegin s h.val r).someCore.trans (frame_setCore _ _ _ (by rfl))) began.quiet began.evc
    refine ⟨_, acts, open_, ?_, evc, still, frame⟩
    rw [(frame_portsDone _ _ _ _ _).core k id, State.core_setCore, if_pos rfl]
  · rw [if_neg (by simp [busy])] at acts
    exact ⟨_, acts, portMask_of_mask mask, began.evc, frame_seqBegin s h.val r⟩

/-! ## HOLD (R81) -/

section
variable {h : HandIx} {va : Nat} {r : BitVec 512}

theorem exec_hold (e : s.seqReady h.val 8 = some (va, r)) : exec (.hold h) s = .next
    ((s.seqBegin h.val r).setHand h.val { (s.seqBegin h.val r).hand h.val with held := some (va, r) }) := by
  show execHold h s = _
  simp only [execHold, e]

theorem exec_resumePacket (e : (s.hand h.val).held = some (va, r)) : exec (.resumePacket h) s = .next
    ((s.setHand h.val { s.hand h.val with held := none }).seqCommit h.val r) := by
  show execResumePacket h s = _
  simp only [execResumePacket, e]

theorem hold_stops (e : s.seqReady h.val 8 = some (va, r)) : Does (.hold h) s fun t =>
    (t.hand h.val).held = some (va, r) ∧ t.seqRuns h.val = false ∧ (∀ c < 64, t.evc h.val c = s.evc h.val c) ∧
    Frame (SeqRegs h.val) (· = h.val) Nothing Nothing s t ∧ Quiet s t := by
  have began := seqKeeps_seqBegin s h.val r
  refine ⟨_, exec_hold e, by simp, by simp [State.seqRuns], began.evc, ?_, began.quiet⟩
  exact (frame_seqBegin s h.val r).trans (frame_setHand _ _ _ rfl)

theorem resume_commits (e : (s.hand h.val).held = some (va, r)) : Does (.resumePacket h) s fun t =>
    (t.hand h.val).held = none ∧ (∀ c < 64, t.evc h.val c = s.evc h.val c + incsOf r c) ∧
    Frame (SeqRegs h.val) (· = h.val) Nothing Nothing s t ∧ Quiet s t := by
  refine ⟨_, exec_resumePacket e, ?_, evc_commit_of_keeps r fun _ _ => rfl, ?_, ?_⟩
  · rw [(streamOnly_seqCommit _ h.val r).held, State.hand_setHand, if_pos rfl]
  · exact (frame_setHand (H := (· = h.val)) _ _ _ rfl).trans (frame_seqCommit _ _ _)
  · exact Quiet.trans ⟨rfl, rfl, rfl⟩ (seqCommits_seqCommit _ h.val r).quiet
end

/-- Settles O3, by the branches of `portsAct`; a HOLD's hand does not run, and its commit waits for the packet. -/
theorem portsAndHold : Obligations.PortsAndHold := by
  unfold Obligations.PortsAndHold
  exact ⟨ports_acts, fun _ _ _ _ => ⟨hold_stops, resume_commits⟩⟩

end Sys2Proof
end

section
/-! PROOFS. Dispatch to the stations' queues, and what stops a sequencer: a malformed record, a fault, a detour, the hang watch
(R56, R70, R71, R303, R377, R432). -/

namespace Sys2Proof

open Machine

variable {s t b : State}

/-! ## Registers, demand accesses and the reeves' stop -/

/-- No register of a hand's window is one that an access to HBM changes. -/
theorem not_granReg_handBase {h x : Nat} (lt : x < 0x40000) : ¬ GranReg (handBase h + x) := by
  rintro ⟨i, e | ⟨n, hn, e⟩⟩
  · simp only [Reg.pfUsed, Reg.pfOnTime, Reg.pfLate, handBase, suitBase, List.mem_cons, List.not_mem_nil, or_false] at e
    omega
  · simp only [Reg.hbmPc, handBase, suitBase] at e
    omega

theorem Demand.hand_eq (d : Demand s t) (h : Nat) : t.hand h = s.hand h := by simp only [State.hand, d.hand]
theorem Demand.core_eq (d : Demand s t) (k : Nat) : t.core k = s.core k := by simp only [State.core, d.core]
theorem Demand.mill_eq (d : Demand s t) (m : Nat) : t.mill m = s.mill m := by
  obtain ⟨-, -, -, rest⟩ := d
  rw [rest]
  rfl
theorem Demand.bell (d : Demand s t) : t.bell = s.bell := by rw [d.2.2.2]
theorem Demand.job (d : Demand s t) : t.job = s.job := by rw [d.2.2.2]

theorem Demand.queue (d : Demand s t) (st u : Nat) : t.queue st u = s.queue st u := by
  simp only [State.queue, d.hand_eq, d.core_eq, d.mill_eq]

theorem Demand.physCore (d : Demand s t) (h l : Nat) : t.physCore h l = s.physCore h l := by
  have spare : t.reg (Reg.spare h) = s.reg (Reg.spare h) := d.1 _ (not_granReg_handBase (by norm_num))
  rw [State.physCore, State.physCore, State.flag_congr spare 31, State.field_congr spare 24 4]

/-- What the reeves' stop leaves as it was, and the cut that it leaves (R432). -/
theorem reeveStop_rung (s : State) : ∃ r b c j, s.reeveStop = { s with regs := r, bell := b, ctl := c, job := j } ∧
    b.cuts ≠ [] ∧ ∀ a, a ≠ Reg.bellStat → s.reeveStop.reg a = s.reg a := by
  obtain ⟨reg, cuts, r, b, c, rest⟩ := rung_ring s 0 0 0 7
  refine ⟨r, b, c, _, by unfold State.reeveStop; rw [rest], by rw [rest] at cuts; exact cuts, reg⟩

section
variable (s : State)

@[simp] theorem Machine.State.hand_reeveStop (h : Nat) : s.reeveStop.hand h = s.hand h := by
  obtain ⟨r, b, c, j, e, -⟩ := reeveStop_rung s
  rw [e]
  rfl
@[simp] theorem Machine.State.recov_reeveStop : s.reeveStop.recov = s.recov := by
  obtain ⟨r, b, c, j, e, -⟩ := reeveStop_rung s
  rw [e]
@[simp] theorem Machine.State.mem_reeveStop : s.reeveStop.mem = s.mem := by
  obtain ⟨r, b, c, j, e, -⟩ := reeveStop_rung s
  rw [e]
theorem cuts_reeveStop : s.reeveStop.bell.cuts ≠ [] := by
  obtain ⟨r, b, c, j, e, cuts, -⟩ := reeveStop_rung s
  rw [e]
  exact cuts
theorem reg_reeveStop {a : Nat} (n : a ≠ Reg.bellStat) : s.reeveStop.reg a = s.reg a := by
  obtain ⟨r, b, c, j, -, -, reg⟩ := reeveStop_rung s
  exact reg a n
end

/-- A register of a hand is not the Bell's. -/
theorem handBase_ne_bellStat (h x : Nat) : handBase h + x ≠ Reg.bellStat := by
  simp only [handBase, suitBase, Reg.bellStat]
  omega

/-- A flag of a hand's register is no matter of the reeves' stop. -/
theorem flag_reeveStop (s : State) {a h x : Nat} (e : a = handBase h + x) (i : Nat) : s.reeveStop.flag a i = s.flag a i :=
  State.flag_congr (reg_reeveStop s (by rw [e]; exact handBase_ne_bellStat h x)) i

/-! ## What a malformed record and a fault do -/

/-- A sequencer whose station 9 is halted does not run. -/
theorem seqRuns_of_halted {h : Nat} (e : 9 ∈ (s.hand h).halted) : s.seqRuns h = false := by
  simp [State.seqRuns, State.seqAwake, e]

theorem haltStation_seq (s : State) (h : Nat) :
    s.haltStation 9 h = s.setHand h { s.hand h with halted := 9 :: (s.hand h).halted } := rfl

theorem badRecord_stops (s : State) (h va : Nat) :
    let t := s.badRecord h va
    t.seqRuns h = false ∧ t.flag (Reg.seqStat h) 28 = true ∧ Notice.badRec h va ∈ t.recov.notices ∧ t.bell.cuts ≠ [] ∧
      t.mem = s.mem := by
  unfold State.badRecord
  dsimp only
  rw [haltStation_seq]
  refine ⟨seqRuns_of_halted ?_, ?_, ?_, cuts_reeveStop _, ?_⟩
  · simp [State.setBit, State.setField]
  · refine (flag_reeveStop _ (a := Reg.seqStat h) (h := h) (x := 4) rfl 28).trans ?_
    exact State.flag_setBit _ _ 28 (by norm_num)
  · rw [State.recov_reeveStop]
    simp [State.note]
  · rw [State.mem_reeveStop]
    rfl

/-- The kinds of fault are 0 to 3 (R335). -/
theorem translate_kind_lt {va : Nat} {a : Acc} {k : Nat} {p : Bool} (e : s.translate va a = .fault k p) : k < 4 := by
  unfold State.translate at e
  split_ifs at e
  split at e
  · cases e
    norm_num
  · cases a
    all_goals
      dsimp only at e
      split_ifs at e
      all_goals
        cases e
        norm_num

theorem entryFault_kind_lt {l : List Nat} {a k : Nat} {p : Bool} (e : s.entryFault l = some (.fault a k p)) : k < 4 := by
  obtain ⟨x, -, e⟩ := List.exists_of_findSome?_eq_some e
  split_ifs at e
  split at e
  · cases e
  · cases e
  · next r =>
    cases e
    unfold State.vread at r
    split at r
    · next f =>
      cases r
      exact translate_kind_lt f
    · cases r
    · split_ifs at r

/-- FSTAT as a page fault of a sequencer writes it: VALID is bit 31 (R335). -/
theorem fstat_valid (u st k serial : Nat) (p : Bool) (hu : u < 128) (hst : st < 16) (hk : k < 4) :
    bits (BitVec.ofNat 32 (2 ^ 31 + u <<< 24 + st <<< 20 + b2n p <<< 18 + k <<< 16 + serial % 2 ^ 16)).toNat 31 1 = 1 := by
  have hp : b2n p < 2 := by cases p <;> decide
  simp only [bits, BitVec.toNat_ofNat, Nat.shiftLeft_eq]
  omega

/-- A page fault of a sequencer, its hand's fault registers written where they are free. -/
def Machine.State.seqFaultRegs (s : State) (h va kind serial : Nat) (p : Bool) : State :=
  if s.flag (Reg.fstat h) 31 then s
  else (s.setReg64 (Reg.fva h) (va % 2 ^ 48)).setReg (Reg.fstat h)
    (BitVec.ofNat 32 (2 ^ 31 + 25 <<< 24 + 9 <<< 20 + b2n p <<< 18 + kind <<< 16 + serial % 2 ^ 16))

theorem pageFault_seq_eq (s : State) (h va kind serial : Nat) (p : Bool) : s.pageFault 9 h va kind p serial =
    (((s.haltStation 9 h).seqFaultRegs h va kind serial p).note (.pageFault h va)).reeveStop := rfl

section
variable (s : State) (h va kind serial : Nat) (p : Bool)

theorem flag_seqFaultRegs (hk : kind < 4) : (s.seqFaultRegs h va kind serial p).flag (Reg.fstat h) 31 = true := by
  unfold State.seqFaultRegs
  split_ifs with valid
  · exact valid
  · rw [State.flag, State.field, State.reg_setReg, if_pos rfl, fstat_valid _ _ _ _ _ (by norm_num) (by norm_num) hk]
    rfl

theorem hand_seqFaultRegs (i : Nat) : (s.seqFaultRegs h va kind serial p).hand i = s.hand i := by
  unfold State.seqFaultRegs
  split_ifs <;> rfl

theorem mem_seqFaultRegs : (s.seqFaultRegs h va kind serial p).mem = s.mem := by
  unfold State.seqFaultRegs
  split_ifs <;> rfl
end

theorem pageFault_seq_stops (s : State) (h va kind serial : Nat) (p : Bool) (hk : kind < 4) :
    let t := s.pageFault 9 h va kind p serial
    t.seqRuns h = false ∧ t.flag (Reg.fstat h) 31 = true ∧ Notice.pageFault h va ∈ t.recov.notices ∧ t.bell.cuts ≠ [] ∧
      t.mem = s.mem := by
  rw [pageFault_seq_eq]
  refine ⟨seqRuns_of_halted ?_, ?_, ?_, cuts_reeveStop _, ?_⟩
  · rw [State.hand_reeveStop, State.hand_note, hand_seqFaultRegs, haltStation_seq]
    simp
  · refine (flag_reeveStop _ (a := Reg.fstat h) (h := h) (x := 0x408) rfl 31).trans ?_
    exact flag_seqFaultRegs _ h va kind serial p hk
  · rw [State.recov_reeveStop]
    simp [State.note]
  · rw [State.mem_reeveStop, State.note_mem, mem_seqFaultRegs]
    rfl

/-! ## Dispatch (R56) -/

/-- A record that is well formed is one of a station of a core, or of PIVOT, XCHG or SEQ (R70). -/
theorem station_of_recordOk {h : Nat} {r : BitVec 512} (ok : s.recordOk h r = true) (seq : Record.station r ≠ 9) :
    1 ≤ Record.station r ∧ Record.station r ≤ 7 := by
  unfold State.recordOk at ok
  dsimp only at ok
  split at ok <;> first | omega | cases ok

/-- What a dispatched record leaves of its hand outside its stream: the queues. -/
theorem queue_popRecord (s : State) (h st u : Nat) : (s.popRecord h).queue st u = s.queue st u := by
  unfold State.popRecord
  dsimp only
  split
  all_goals
    unfold State.queue
    simp only [State.core_setHand, State.mill_setHand, State.hand_setHand]
    by_cases e : u = h <;> simp [e]

/-- The hand after a dispatch's count of its detour and of the groups it knows. -/
theorem trackGroups_queues (d : Hand) (l : Nat) (r : BitVec 512) : ∃ o g, d.trackGroups l r = { d with opens := o, handed := g } := by
  unfold Hand.trackGroups
  split_ifs
  all_goals exact ⟨_, _, rfl⟩

theorem queue_setHand_of {h st u : Nat} {d : Hand} (p : d.pq = (s.hand h).pq) (x : d.xq = (s.hand h).xq) :
    (s.setHand h d).queue st u = s.queue st u := by
  unfold State.queue
  simp only [State.core_setHand, State.mill_setHand, State.hand_setHand]
  by_cases e : u = h
  · subst e
    simp [p, x]
  · simp [e]

/-- The record as it enters its queue. -/
def Machine.State.queued (s : State) (h va : Nat) (r : BitVec 512) : Cmd :=
  { r := r, va := va, det := (s.hand h).detour.isSome, skip := Record.station r == 7 && decide (0 < (s.hand h).skipColl) }

/-- The record at the back of its station's queue, before it leaves the stream. -/
def Machine.State.enqueued (s : State) (h va : Nat) (r : BitVec 512) : State :=
  s.setQueue (Record.station r) (s.queueUnit h r) (s.queue (Record.station r) (s.queueUnit h r) ++ [s.queued h va r])

/-- The hand of a dispatch, its groups and the counts of its detour kept. -/
def Machine.Hand.dispatched (d : Hand) (r : BitVec 512) (c : Cmd) : Hand :=
  { d.trackGroups (Record.core r) r with
    detLeft := if c.det then (d.trackGroups (Record.core r) r).detLeft + 1 else (d.trackGroups (Record.core r) r).detLeft
    skipColl := if c.skip then (d.trackGroups (Record.core r) r).skipColl - 1 else (d.trackGroups (Record.core r) r).skipColl }

theorem dispatched_stream (d : Hand) (r : BitVec 512) (c : Cmd) : (d.dispatched r c).pq = d.pq ∧ (d.dispatched r c).xq = d.xq ∧
    (d.dispatched r c).detour = d.detour ∧ (d.dispatched r c).buf = d.buf := by
  obtain ⟨o, g, groups⟩ := trackGroups_queues d (Record.core r) r
  unfold Hand.dispatched
  rw [groups]
  exact ⟨rfl, rfl, rfl, rfl⟩

/-- A dispatch is the record in its queue, the hand's counts of its groups and of its detour, and the record gone from the
stream. -/
theorem dispatch_eq (s : State) (h va : Nat) (r : BitVec 512) : s.dispatch h va r =
    ((s.enqueued h va r).setHand h (((s.enqueued h va r).hand h).dispatched r (s.queued h va r))).popRecord h := rfl

theorem queue_dispatch (s : State) (h va : Nat) (r : BitVec 512) (lo : 1 ≤ Record.station r) (hi : Record.station r ≤ 7) :
    (s.dispatch h va r).queue (Record.station r) (s.queueUnit h r) =
      s.queue (Record.station r) (s.queueUnit h r) ++ [s.queued h va r] := by
  obtain ⟨pq, xq, -⟩ := dispatched_stream ((s.enqueued h va r).hand h) r (s.queued h va r)
  rw [dispatch_eq, queue_popRecord, queue_setHand_of pq xq]
  exact queue_setQueue_same s lo (by omega) _ _

/-- The stream of a hand is not among what a queue's change touches. -/
theorem stream_setQueue (s : State) (st u h : Nat) (q : List Cmd) :
    ((s.setQueue st u q).hand h).buf = (s.hand h).buf ∧ ((s.setQueue st u q).hand h).detour = (s.hand h).detour := by
  by_cases e : h = u
  · subst e
    unfold State.setQueue
    split <;> simp
  · unfold State.setQueue
    split <;> simp [e]

theorem buf_dispatch (s : State) (h va : Nat) (r : BitVec 512) (d : (s.hand h).detour = none) :
    ((s.dispatch h va r).hand h).buf = (s.hand h).buf.drop 1 := by
  obtain ⟨-, -, detour, buf⟩ := dispatched_stream ((s.enqueued h va r).hand h) r (s.queued h va r)
  obtain ⟨buf', detour'⟩ := stream_setQueue s (Record.station r) (s.queueUnit h r) h
    (s.queue (Record.station r) (s.queueUnit h r) ++ [s.queued h va r])
  rw [dispatch_eq, hand_popRecord_stream, State.hand_setHand, if_pos rfl, buf]
  · exact congrArg _ buf'
  · rw [State.hand_setHand, if_pos rfl, detour]
    exact detour'.trans d

theorem frame_dispatch (s : State) (h va : Nat) (r : BitVec 512) (lo : 1 ≤ Record.station r) (hi : Record.station r ≤ 7) :
    Frame Nothing (· = h) (fun k => Record.station r ≤ 5 ∧ k = s.queueUnit h r) Nothing s (s.dispatch h va r) := by
  have queued : Frame Nothing (· = h) (fun k => Record.station r ≤ 5 ∧ k = s.queueUnit h r) Nothing s (s.enqueued h va r) := by
    refine frame_setQueue s _ _ _ (fun e => ?_) (fun _ five => ⟨five, rfl⟩) (fun e => ?_)
    · rw [State.queueUnit, if_neg (by omega)]
    · omega
  rw [dispatch_eq]
  exact (queued.trans (frame_setHand _ _ _ rfl)).trans (frame_popRecord _ _).someCore

theorem quiet_dispatch (s : State) (h va : Nat) (r : BitVec 512) : Quiet s (s.dispatch h va r) := by
  have q : Quiet s (s.enqueued h va r) := quiet_setQueue s _ _ _
  rw [dispatch_eq]
  exact (q.trans ⟨rfl, rfl, rfl⟩).trans (quiet_popRecord _ _)

section
variable {h : HandIx} {va : Nat} {r : BitVec 512}

theorem exec_recordDispatch_queues (e : s.nextRecord h.val = some (va, r)) (runs : s.seqRuns h.val = true)
    (seq : Record.station r ≠ 9) (ok : s.recordOk h.val r = true)
    (room : (s.queue (Record.station r) (s.queueUnit h.val r)).length < 32) :
    exec (.recordDispatch h) s = .next ((s.seenEntries h.val (recordTids r)).dispatch h.val va r) := by
  show execRecordDispatch h s = _
  simp [execRecordDispatch, e, runs, State.dispatches, State.recordFits, seq, ok, room]

theorem exec_recordDispatch_bad (e : s.nextRecord h.val = some (va, r)) (runs : s.seqRuns h.val = true)
    (bad : s.recordOk h.val r = false) (fresh : (s.hand h.val).seqBegun = false) (reads : s.entryFault (recordTids r) = none) :
    exec (.recordDispatch h) s = .next ((s.seenEntries h.val (recordTids r)).badRecord h.val va) := by
  show execRecordDispatch h s = _
  simp [execRecordDispatch, e, runs, State.dispatches, State.recordFits, bad, fresh, reads]

theorem exec_recordDispatch_fault {f : Refuse} (e : s.nextRecord h.val = some (va, r)) (runs : s.seqRuns h.val = true)
    (bad : s.recordOk h.val r = false) (fresh : (s.hand h.val).seqBegun = false)
    (fault : s.entryFault (recordTids r) = some f) : exec (.recordDispatch h) s = .next
      ((s.seenEntries h.val (recordTids r)).refuse 9 h.val f 0 (Record.serial r)) := by
  show execRecordDispatch h s = _
  simp [execRecordDispatch, e, runs, State.dispatches, State.recordFits, bad, fresh, fault]

theorem recordDispatch_queues (e : s.nextRecord h.val = some (va, r)) (runs : s.seqRuns h.val = true)
    (seq : Record.station r ≠ 9) (ok : s.recordOk h.val r = true)
    (room : (s.queue (Record.station r) (s.queueUnit h.val r)).length < 32) : Does (.recordDispatch h) s fun t =>
      (∃ c : Cmd, c.r = r ∧ c.va = va ∧ c.begun = false ∧ c.complete = false ∧
        t.queue (Record.station r) (s.queueUnit h.val r) = s.queue (Record.station r) (s.queueUnit h.val r) ++ [c]) ∧
      ((s.hand h.val).detour = none → (t.hand h.val).buf = (s.hand h.val).buf.drop 1) ∧
      MemFrame Nothing (· = h.val) (fun k => Record.station r ≤ 5 ∧ k = s.queueUnit h.val r) Nothing s t ∧ t.mem = s.mem ∧
      Calm s t := by
  obtain ⟨lo, hi⟩ := station_of_recordOk ok seq
  have d := demand_seenEntries s h.val (recordTids r)
  have unit : (s.seenEntries h.val (recordTids r)).queueUnit h.val r = s.queueUnit h.val r := by
    rw [State.queueUnit, State.queueUnit, d.physCore]
  have frame := frame_dispatch (s.seenEntries h.val (recordTids r)) h.val va r lo hi
  have queue := queue_dispatch (s.seenEntries h.val (recordTids r)) h.val va r lo hi
  rw [unit] at frame queue
  rw [d.queue] at queue
  refine ⟨_, exec_recordDispatch_queues e runs seq ok room, ⟨_, rfl, rfl, rfl, rfl, queue⟩, fun none => ?_,
    d.mem_frame.trans frame.mem_frame, frame.mem.trans d.mem, d.calm.trans (quiet_dispatch _ h.val va r).calm⟩
  rw [buf_dispatch _ _ _ _ (by rw [d.hand_eq, none]), d.hand_eq]
end

/-- Settles O6: the record enters its queue behind what the reads of its table entries do, and a record that stops the sequencer
goes through `badRecord` or a page fault. -/
theorem dispatchQueuesOrStops : Obligations.DispatchQueuesOrStops := by
  unfold Obligations.DispatchQueuesOrStops
  intro h s va r e runs
  refine ⟨recordDispatch_queues e runs, fun bad fresh => ?_⟩
  have d := demand_seenEntries s h.val (recordTids r)
  refine ⟨fun reads => ?_, fun a k p fault => ?_⟩
  · obtain ⟨halted, flag, note, cuts, mem⟩ := badRecord_stops (s.seenEntries h.val (recordTids r)) h.val va
    exact ⟨_, exec_recordDispatch_bad e runs bad fresh reads, halted, flag, note, cuts, mem.trans d.mem⟩
  · obtain ⟨halted, flag, note, cuts, mem⟩ :=
      pageFault_seq_stops (s.seenEntries h.val (recordTids r)) h.val a k (Record.serial r) p (entryFault_kind_lt fault)
    exact ⟨_, exec_recordDispatch_fault e runs bad fresh fault, halted, flag, note, cuts, mem.trans d.mem⟩

/-! ## Detours and the hang watch (R71, R377) -/

section
variable {h : HandIx}

/-- The packet of a detour that has reached a hand's sequencer. -/
theorem exec_detour {p : Packet} {va n g tag : Nat}
    (found : (s.net.find? fun p => p.arrived && p.dest.toNat == epHand h.val 25 &&
      (match p.msg with | .detour .. => true | _ => false)) = some p)
    (msg : p.msg = .detour va n g tag) (straight : (s.hand h.val).detour = none) (ack : (s.hand h.val).waitAck = [])
    (free : (s.hand h.val).held = none) : exec (.detour h) s = .next
      (({ s with net := s.net.erase p } : State).setHand h.val { s.hand h.val with
        detour := some { va := va, toFetch := n, left := n, grp := g, tag := tag, begun := (s.hand h.val).seqBegun }
        seqBegun := false }) := by
  show execDetour h s = _
  unfold execDetour
  split
  · next missing => cases found.symm.trans missing
  · next q found' =>
    obtain rfl : p = q := Option.some.inj (found.symm.trans found')
    rw [msg]
    exact congrArg Host.Outcome.next (if_pos (by simp [straight, ack, free]))

theorem exec_stall {fail : Nat} (run : s.job.run = true) (on : s.flag (Reg.seqCtl h.val) 0 = true)
    (first : s.flag (Reg.seqStat h.val) 27 = false) (busy : s.handBusy h.val = true) (runs : s.handStopped h.val = false)
    (late : (s.hand h.val).lastCommit + max 1 (s.field (Reg.seqCtl h.val) 8 16) * 1000000 ≤ s.now h.val) :
    exec (.stall h fail) s = .next
      (if fail = 0 then ((s.setBit (Reg.seqStat h.val) 27).note (.stall h.val)).note (.stallPassed h.val)
       else (s.setBit (Reg.seqStat h.val) 27).note (.stall h.val)) := by
  show execStall h fail s = _
  simp [execStall, run, on, first, busy, runs, late]

end

/-- Settles O7: the detour takes the hand's sequencer; STALL is flagged and noted. -/
theorem detourAndStall : Obligations.DetourAndStall := by
  unfold Obligations.DetourAndStall
  refine ⟨fun h s p va n g tag found msg straight ack free => ?_, fun h fail s run on first busy runs late => ?_⟩
  · refine ⟨_, exec_detour found msg straight ack free, ⟨_, by rw [State.hand_setHand, if_pos rfl], rfl, rfl, rfl, rfl⟩,
      by rw [State.hand_setHand, if_pos rfl], rfl, rfl, ?_⟩
    have sent : Frame Nothing (· = h.val) Nothing Nothing s { s with net := s.net.erase p } :=
      ⟨rfl, rfl, rfl, fun _ _ => rfl, fun _ _ => rfl, fun _ _ => rfl, fun _ _ => rfl, by simp⟩
    exact sent.trans (frame_setHand _ _ _ rfl)
  · refine ⟨_, exec_stall run on first busy runs late, ?_⟩
    have flagged := frame_setBit (R := (· = Reg.seqStat h.val)) (H := Nothing) (C := Nothing) (M := Nothing) s
      (Reg.seqStat h.val) 27 rfl
    have set := State.flag_setBit (s := s) (Reg.seqStat h.val) 27 (by norm_num)
    split_ifs with pass
    · exact ⟨set, by simp [State.note], fun _ => by simp [State.note], (flagged.trans (frame_note _ _)).trans (frame_note _ _)⟩
    · exact ⟨set, by simp [State.note], fun p => absurd p pass, flagged.trans (frame_note _ _)⟩

end Sys2Proof
end

section
/-! PROOFS. Start packets and the fetches of streams (R65, R67, R69, R260, R377). -/

namespace Sys2Proof

open Machine

variable {s t : State}

/-! ## The start packet -/

/-- The stream of a hand begins at its entry of the root table, or is none where the entry is 0 (R65). -/
def Machine.State.startHand (s : State) (h va : Nat) : State :=
  let b := (s.setHand h { s.hand h with
    buf := [], ended := false, stream := decide (va ≠ 0), reported := false, base := va <<< 2176,
    lastCommit := s.now h }).clearBit (Reg.seqStat h) 30
  if va = 0 then b else b.setReg64 (Reg.seqFetch h) va

/-- The stream of a Mill begins likewise (R260). -/
def Machine.State.startMill (s : State) (m va : Nat) : State :=
  (s.setMill m { s.mill m with
    buf := [], ended := false, stream := decide (va ≠ 0), reported := false, base := va <<< 2176, fetch := va,
    lastCommit := s.now (640 + m) }).clearBit (Reg.millStat m) 30

/-- The unit's start packet is taken. -/
def Machine.State.takeStart (s : State) (u : Nat) : State :=
  { s with job := { s.job with startPending := s.job.startPending.filter (· != u) } }

theorem startUnit_hand (s : State) {u : Nat} (lt : u < 640) :
    s.startUnit u = (s.takeStart u).startHand u (PMap.get 0 s.job.entries u) := if_pos lt

theorem startUnit_mill (s : State) {u : Nat} (ge : 640 ≤ u) :
    s.startUnit u = (s.takeStart u).startMill (u - 640) (PMap.get 0 s.job.entries u) := by
  unfold State.startUnit
  rw [if_neg (by omega)]
  unfold State.startMill State.takeStart
  rw [show 640 + (u - 640) = u by omega]

theorem reg_startHand (s : State) (h va a : Nat) (f : a ≠ Reg.seqFetch h) (f' : a ≠ Reg.seqFetch h + 4)
    (st : a ≠ Reg.seqStat h) : (s.startHand h va).reg a = s.reg a := by
  unfold State.startHand
  dsimp only
  split_ifs
  · exact State.reg_setField_other _ _ _ _ _ _ st
  · rw [State.setReg64, State.reg_setReg_other _ _ f', State.reg_setReg_other _ _ f]
    exact State.reg_setField_other _ _ _ _ _ _ st

theorem startHand_fields (s : State) (h va : Nat) (lt : va < 2 ^ 48) :
    ((s.startHand h va).hand h).stream = decide (va ≠ 0) ∧ ((s.startHand h va).hand h).buf = [] ∧
      ((s.startHand h va).hand h).ended = false ∧ ((s.startHand h va).hand h).reported = false ∧
      (s.startHand h va).flag (Reg.seqStat h) 30 = false ∧
      (va ≠ 0 → (s.startHand h va).reg64 (Reg.seqFetch h) = va) := by
  have clear := State.flag_clearBit (s.setHand h { s.hand h with
    buf := [], ended := false, stream := decide (va ≠ 0), reported := false, base := va <<< 2176,
    lastCommit := s.now h }) (Reg.seqStat h) 30 (by norm_num)
  unfold State.startHand
  dsimp only
  split_ifs with zero
  · exact ⟨by simp [State.clearBit, State.setField], by simp [State.clearBit, State.setField],
      by simp [State.clearBit, State.setField], by simp [State.clearBit, State.setField], clear, fun n => absurd zero n⟩
  · refine ⟨by simp [State.clearBit, State.setField, State.setReg64], by simp [State.clearBit, State.setField, State.setReg64],
      by simp [State.clearBit, State.setField, State.setReg64], by simp [State.clearBit, State.setField, State.setReg64], ?_, fun _ => ?_⟩
    · refine (State.flag_congr ?_ 30).trans clear
      rw [State.setReg64, State.reg_setReg_other _ _ (by unfold Reg.seqStat Reg.seqFetch; omega),
        State.reg_setReg_other _ _ (by unfold Reg.seqStat Reg.seqFetch; omega)]
    · rw [State.reg64_setReg64]
      omega

theorem rest_startHand (s : State) (h va : Nat) : (s.startHand h va).job = s.job ∧ (s.startHand h va).mem = s.mem ∧
    Quiet s (s.startHand h va) := by
  unfold State.startHand
  dsimp only
  split_ifs <;> exact ⟨rfl, rfl, rfl, rfl, rfl⟩

theorem startMill_fields (s : State) (m va : Nat) :
    ((s.startMill m va).mill m).stream = decide (va ≠ 0) ∧ ((s.startMill m va).mill m).buf = [] ∧
      ((s.startMill m va).mill m).fetch = va ∧ ((s.startMill m va).mill m).ended = false ∧
      (s.startMill m va).flag (Reg.millStat m) 30 = false ∧
      ∀ a, a ≠ Reg.millStat m → (s.startMill m va).reg a = s.reg a := by
  unfold State.startMill
  refine ⟨by simp [State.clearBit, State.setField], by simp [State.clearBit, State.setField],
    by simp [State.clearBit, State.setField], by simp [State.clearBit, State.setField],
    State.flag_clearBit _ _ _ (by norm_num), fun a n => State.reg_setField_other _ _ _ _ _ _ n⟩

theorem startPacket_starts (u : Fin 648) (s : State) (waits : u.val ∈ s.job.startPending)
    (lt : PMap.get 0 s.job.entries u.val < 2 ^ 48) :
    let va := PMap.get 0 s.job.entries u.val
    Does (.startPacket u) s fun t =>
      u.val ∉ t.job.startPending ∧
      (u.val < 640 → (t.hand u.val).stream = decide (va ≠ 0) ∧ (t.hand u.val).buf = [] ∧ (t.hand u.val).ended = false ∧
        (t.hand u.val).reported = false ∧ t.flag (Reg.seqStat u.val) 30 = false ∧
        (va ≠ 0 → t.reg64 (Reg.seqFetch u.val) = va) ∧
        ∀ a, a ≠ Reg.seqFetch u.val → a ≠ Reg.seqFetch u.val + 4 → a ≠ Reg.seqStat u.val → t.reg a = s.reg a) ∧
      (640 ≤ u.val → (t.mill (u.val - 640)).stream = decide (va ≠ 0) ∧ (t.mill (u.val - 640)).buf = [] ∧
        (t.mill (u.val - 640)).fetch = va ∧ (t.mill (u.val - 640)).ended = false ∧ t.flag (Reg.millStat (u.val - 640)) 30 = false ∧
        ∀ a, a ≠ Reg.millStat (u.val - 640) → t.reg a = s.reg a) ∧
      t.mem = s.mem ∧ Quiet s t := by
  intro va
  have taken : u.val ∉ (s.takeStart u.val).job.startPending := by simp [State.takeStart]
  have acts : exec (.startPacket u) s = .next (s.startUnit u.val) := by
    show execStartPacket u s = _
    rw [execStartPacket, if_pos (List.contains_iff_mem.2 waits)]
  rcases lt_or_ge u.val 640 with hand | mill
  · obtain ⟨stream, buf, ended, reported, flag, fetch⟩ := startHand_fields (s.takeStart u.val) u.val va lt
    obtain ⟨job, mem, quiet⟩ := rest_startHand (s.takeStart u.val) u.val va
    rw [startUnit_hand s hand] at acts
    exact ⟨_, acts, by rwa [job], fun _ => ⟨stream, buf, ended, reported, flag, fetch, reg_startHand (s.takeStart u.val) _ _⟩,
      fun ge => absurd hand (by omega), mem, quiet⟩
  · rw [startUnit_mill s mill] at acts
    exact ⟨_, acts, taken, fun lt => absurd lt (by omega), fun _ => startMill_fields (s.takeStart u.val) _ va, rfl, rfl, rfl, rfl⟩

/-! ## Fetches (R67, R69) -/

/-- What stands behind a fetch of n records at va, as memory holds it. -/
def Machine.State.holds (s : State) (va : Nat) (recs : List (Nat × BitVec 512)) : Prop :=
  ∀ i (q : i < recs.length), recs[i].1 = va + 64 * i ∧ s.vread recs[i].1 64 = .ok recs[i].2.toNat

/-- Every one of n records answers, and each page that the fetch enters may be entered. -/
def Machine.State.goesOn (s : State) (n va : Nat) (first : Bool) : Prop :=
  ∀ i < n, (∃ v, s.vread (va + 64 * i) 64 = .ok v) ∧
    ((va + 64 * i) % 65536 = 0 → (i = 0 ∧ first = true) ∨ s.contPage (va + 64 * i) = true)

theorem vread_lt {va n v : Nat} (e : s.vread va n = .ok v) : v < 256 ^ n := by
  unfold State.vread at e
  split at e
  · cases e
  · cases e
  · split_ifs at e
    cases e
    exact Memory.read_lt _ _ _

theorem holds_nil (s : State) (va : Nat) : s.holds va [] := fun _ q => absurd q (Nat.not_lt_zero _)

theorem holds_cons {va v : Nat} {recs : List (Nat × BitVec 512)} (e : s.vread va 64 = .ok v) (r : s.holds (va + 64) recs) :
    s.holds va ((va, BitVec.ofNat 512 v) :: recs) := by
  intro i q
  cases i with
  | zero =>
    refine ⟨rfl, e.trans (congrArg Rd.ok ?_)⟩
    rw [List.getElem_cons_zero, BitVec.toNat_ofNat, Nat.mod_eq_of_lt]
    exact (vread_lt e).trans_eq (pow_mul 2 8 64).symm
  | succ i =>
    obtain ⟨va', read⟩ := r i (by simpa using q)
    simp only [List.getElem_cons_succ]
    exact ⟨by rw [va']; ring, read⟩

/-- A fetch brings at most n records, as memory holds them (R69). -/
theorem fetchFrom_holds (s : State) (n va : Nat) (first : Bool) :
    (s.fetchFrom n va first).1.length ≤ n ∧ s.holds va (s.fetchFrom n va first).1 := by
  induction n generalizing va first with
  | zero => exact ⟨le_rfl, holds_nil s va⟩
  | succ n ih =>
    unfold State.fetchFrom
    split
    · exact ⟨by simp, holds_nil s va⟩
    · split
      · next e =>
        obtain ⟨len, rest⟩ := ih (va + 64) false
        exact ⟨by simpa using len, holds_cons e rest⟩
      · exact ⟨by simp, holds_nil s va⟩
      · split <;> exact ⟨by simp, holds_nil s va⟩

/-- A fetch whose records all answer brings all of them. -/
theorem fetchFrom_goesOn (n va : Nat) (first : Bool) (g : s.goesOn n va first) :
    (s.fetchFrom n va first).1.length = n ∧ (s.fetchFrom n va first).2 = .ok := by
  induction n generalizing va first with
  | zero => exact ⟨rfl, rfl⟩
  | succ n ih =>
    obtain ⟨⟨v, read⟩, enter⟩ := g 0 (Nat.succ_pos n)
    simp only [Nat.mul_zero, Nat.add_zero, true_and] at read enter
    have rest : s.goesOn n (va + 64) false := fun i hi => by
      obtain ⟨answers, enters⟩ := g (i + 1) (by omega)
      rw [show va + 64 * (i + 1) = va + 64 + 64 * i by ring] at answers enters
      exact ⟨answers, fun page => .inr ((enters page).resolve_left (by omega))⟩
    obtain ⟨len, ok⟩ := ih (va + 64) false rest
    have open_ : ¬(va % 65536 = 0 ∧ (!first) = true ∧ (!s.contPage va) = true) := fun ⟨page, notFirst, closed⟩ => by
      rcases enter page with f | c
      · simp [f] at notFirst
      · simp [c] at closed
    unfold State.fetchFrom
    rw [if_neg open_, read]
    exact ⟨by simpa using len, ok⟩

theorem demand_seenRecords (s : State) (unit : Nat) (l : List (Nat × BitVec 512)) : Demand s (s.seenRecords unit l) :=
  Demand.foldl _ (fun s _ => demand_seen s _ _ _ _) l s

/-- A fetch that meets no fault, as its records. -/
theorem fetchFrom_ok {n va : Nat} {first : Bool} (g : s.goesOn n va first ∨ (s.fetchFrom n va first).2 = .ok) :
    ∃ recs, s.fetchFrom n va first = (recs, .ok) ∧ recs.length ≤ n ∧ s.holds va recs ∧
      (s.goesOn n va first → recs.length = n) := by
  obtain ⟨len, holds⟩ := fetchFrom_holds s n va first
  have ok : (s.fetchFrom n va first).2 = .ok := g.elim (fun g => (fetchFrom_goesOn n va first g).2) id
  exact ⟨_, Prod.ext rfl ok, len, holds, fun g => (fetchFrom_goesOn n va first g).1⟩

section
variable {h m : Nat} {recs : List (Nat × BitVec 512)}

theorem streamFetchHand_straight (d : (s.hand h).detour = none)
    (e : s.fetchFrom 16 (s.reg64 (Reg.seqFetch h)) (s.hand h).buf.isEmpty = (recs, .ok)) : s.streamFetchHand h =
      ((s.seenRecords h recs).setHand h { s.hand h with buf := (s.hand h).buf ++ recs }).setReg64 (Reg.seqFetch h)
        (s.reg64 (Reg.seqFetch h) + 64 * recs.length) := by
  unfold State.streamFetchHand
  generalize s.fetchFrom = fetch at e ⊢
  dsimp only
  generalize at_ : (s.hand h).detour = detour
  cases detour with
  | some x => cases d.symm.trans at_
  | none =>
    generalize fetch 16 _ _ = r at e ⊢
    subst e
    rfl

theorem streamFetchHand_detour {d : Detour} (at_ : (s.hand h).detour = some d)
    (e : s.fetchFrom (min 16 d.toFetch) d.va d.buf.isEmpty = (recs, .ok)) : s.streamFetchHand h =
      (s.seenRecords h recs).setHand h { s.hand h with detour := some { d with
        va := d.va + 64 * recs.length, toFetch := d.toFetch - recs.length, buf := d.buf ++ recs } } := by
  unfold State.streamFetchHand
  simp only [at_, e]

theorem streamFetchMill_ok (e : s.fetchFrom 16 (s.mill m).fetch (s.mill m).buf.isEmpty = (recs, .ok)) : s.streamFetchMill m =
      (s.seenRecords (640 + m) recs).setMill m { s.mill m with
        buf := (s.mill m).buf ++ recs, fetch := (s.mill m).fetch + 64 * recs.length } := by
  unfold State.streamFetchMill
  simp only [e]

theorem exec_streamFetch_hand {u : Fin 648} (lt : u.val < 640) (can : s.canFetch u.val = true) :
    exec (.streamFetch u) s = .next (s.streamFetchHand u.val) := by
  show execStreamFetch u s = _
  rw [execStreamFetch, if_pos lt, if_pos can]

theorem exec_streamFetch_mill {u : Fin 648} (e : u.val = 640 + m) (can : s.millCanFetch m = true) :
    exec (.streamFetch u) s = .next (s.streamFetchMill m) := by
  show execStreamFetch u s = _
  rw [execStreamFetch, if_neg (by omega), show u.val - 640 = m by omega, if_pos can]

end

/-- The fetch address behind the records that a fetch brought. -/
theorem reg64_fetched (s : State) (a va n : Nat) (lt : va < 2 ^ 48) (le : n ≤ 16) :
    (s.setReg64 a (va + 64 * n)).reg64 a = va + 64 * n := by
  rw [State.reg64_setReg64]
  omega

theorem seqRegs_seqFetch (h : Nat) : SeqRegs h (Reg.seqFetch h) ∧ SeqRegs h (Reg.seqFetch h + 4) :=
  ⟨.inr (.inr (.inl rfl)), .inr (.inr (.inr (.inl rfl)))⟩

/-- Settles O5: the start packet of each kind of unit, and the fetch of a hand, of a detour and of a Mill. -/
theorem streamsStartAndFetch : Obligations.StreamsStartAndFetch := by
  unfold Obligations.StreamsStartAndFetch
  refine ⟨startPacket_starts, fun u s => ?_⟩
  intro goesOn read
  refine ⟨fun h uh lt can d below => ?_, fun h d uh lt can at_ ok => ?_, fun m um can => ?_⟩
  · intro va first fetches
    subst uh
    obtain ⟨recs, e, len, holds, all⟩ := fetchFrom_ok (s := s) (n := 16) fetches
    have seen := demand_seenRecords s u.val recs
    refine ⟨_, (exec_streamFetch_hand lt can).trans (congrArg Host.Outcome.next (streamFetchHand_straight d e)),
      recs, ⟨len, holds⟩, all, ?_, reg64_fetched _ _ _ _ below len, seen.mem, ?_, seen.calm.trans (Quiet.calm ⟨rfl, rfl, rfl⟩)⟩
    · simp [State.setReg64]
    · obtain ⟨low, high⟩ := seqRegs_seqFetch u.val
      exact (seen.mem_frame.trans (frame_setHand_self _ _ _).mem_frame).trans (frame_setReg64 _ _ _ low high).mem_frame
  · subst uh
    obtain ⟨recs, e, len, holds, -⟩ := fetchFrom_ok (s := s) (n := min 16 d.toFetch) (.inr ok)
    have seen := demand_seenRecords s u.val recs
    exact ⟨_, (exec_streamFetch_hand lt can).trans (congrArg Host.Outcome.next (streamFetchHand_detour at_ e)),
      recs, { d with va := d.va + 64 * recs.length, toFetch := d.toFetch - recs.length, buf := d.buf ++ recs },
      ⟨len.trans (min_le_left _ _), holds⟩, (len.trans (min_le_right _ _)), by rw [State.hand_setHand, if_pos rfl], rfl, rfl, rfl, rfl,
      by rw [State.hand_setHand, if_pos rfl], seen.mem,
      seen.mem_frame.trans (frame_setHand_self _ _ _).mem_frame, seen.calm.trans (Quiet.calm ⟨rfl, rfl, rfl⟩)⟩
  · intro va first fetches
    obtain ⟨recs, e, len, holds, all⟩ := fetchFrom_ok (s := s) (n := 16) fetches
    have seen := demand_seenRecords s (640 + m) recs
    exact ⟨_, (exec_streamFetch_mill um can).trans (congrArg Host.Outcome.next (streamFetchMill_ok e)),
      recs, ⟨len, holds⟩, all, by rw [State.mill_setMill, if_pos rfl], by rw [State.mill_setMill, if_pos rfl], seen.mem,
      seen.mem_frame.trans (frame_setMill_self _ _ _).mem_frame, seen.calm.trans (Quiet.calm ⟨rfl, rfl, rfl⟩)⟩

end Sys2Proof
end

section
/-! PROOFS. The words of a kernel: what a row of VECT leaves, and the scalar words (R172, R174, R183, R184). -/

namespace Sys2Proof

open Machine

variable {s t : State}

/-! ## What a legal word leaves (R183, R185) -/

/-- The state that a legal word leaves: its core, the sticky flags and the operation count. -/
def Machine.State.worded (s : State) (k : Nat) (o : Core) (f : Fl) (ops : Nat) : State :=
  ((s.setCore k o).flags (Reg.vectStat k) f).add64 (Reg.vops k) ops

/-- A row whose OP stands at the pc of a running kernel does what its body says. -/
theorem kernRow_legal {k op : Nat} {c : Cmd} {n : Kern} {w : KWord} (at_ : KernelAt s k op c n w)
    {body : Core → Kern → KWord → Option (Core × Fl × Nat)} {r : Core × Fl × Nat} (legal : body (s.core k) n w = some r) :
    s.kernRow k op body = s.worded k r.1 r.2.1 r.2.2 := by
  obtain ⟨⟨active, runs, code⟩, begun, kern, running, pc, rfl, op⟩ := at_
  unfold State.kernRow State.runVect
  simp [active, runs, code, begun, kern, running, pc, op, legal, State.worded]

section
variable (s : State) (k : Nat) (o : Core) (f : Fl) (ops : Nat)

@[simp] theorem core_worded : (s.worded k o f ops).core k = o := by
  simp [State.worded, State.flags, State.orReg, State.add64, State.setReg64]

theorem quiet_worded : Quiet s (s.worded k o f ops) := ⟨rfl, rfl, rfl⟩

theorem frame_worded : Frame (KernRegs k) Nothing (· = k) Nothing s (s.worded k o f ops) :=
  ((frame_setCore_self s k o).trans (frame_flags _ _ f (.inl rfl))).trans (frame_add64 _ _ ops (.inr (.inl rfl)) (.inr (.inr rfl)))

theorem reg_vectStat_worded : (s.worded k o f ops).reg (Reg.vectStat k) = s.reg (Reg.vectStat k) ||| f.setWidth 32 := by
  rw [State.worded, State.add64, State.setReg64, State.reg_setReg_other _ _ (by unfold Reg.vectStat Reg.vops; omega),
    State.reg_setReg_other _ _ (by unfold Reg.vectStat Reg.vops; omega), State.flags, State.orReg, State.reg_setReg, if_pos rfl]
  rfl

/-- The sticky flags only grow. -/
theorem flags_worded : s.reg (Reg.vectStat k) &&& (s.worded k o f ops).reg (Reg.vectStat k) = s.reg (Reg.vectStat k) := by
  rw [reg_vectStat_worded]
  refine BitVec.eq_of_getLsbD_eq fun i _ => ?_
  rw [BitVec.getLsbD_and, BitVec.getLsbD_or]
  cases (s.reg (Reg.vectStat k)).getLsbD i <;> rfl

theorem vops_worded : (s.worded k o f ops).reg64 (Reg.vops k) = (s.reg64 (Reg.vops k) + ops) % 2 ^ 64 := by
  rw [State.worded, State.add64, State.reg64_setReg64, Nat.mod_mod]
  congr 2
  exact State.reg64_congr _ (State.reg_setReg_other _ _ (by unfold Reg.vectStat Reg.vops; omega))
    (State.reg_setReg_other _ _ (by unfold Reg.vectStat Reg.vops; omega))
end

/-- The core behind a word, read as a change of its parts: `kern` aside, what `o` has. -/
theorem next_eq (o : Core) (n : Kern) : o.next n = { o with kern := some { n with pc := n.pc + 1 } } := rfl

/-! ## Scalar registers (R172) -/

theorem xr_setX_same (c : Core) {n v : Nat} (h : n ≠ 0) : (c.setX n v).xr n = v % 2 ^ 32 := by
  simp [Core.setX, Core.xr, h]

theorem xr_setX_other (c : Core) {n v i : Nat} (h : i ≠ n ∨ i = 0) : (c.setX n v).xr i = c.xr i := by
  by_cases zero : i = 0
  · simp [Core.xr, zero]
  · have other := h.resolve_right zero
    unfold Core.setX Core.xr
    split_ifs
    · rfl
    · rw [PMap.get_put_other _ _ _ other]

/-- A scalar register's write touches the scalar registers alone. -/
theorem setX_eq (c : Core) (n v : Nat) : c.setX n v = { c with x := (c.setX n v).x } := by
  unfold Core.setX
  split_ifs <;> rfl

theorem xr_lt (c : Core) (n : Nat) : c.xr n < 2 ^ 32 := by
  unfold Core.xr
  split_ifs
  · norm_num
  · exact BitVec.isLt _

theorem wrapInt_mod (n : Nat) (i : Int) : ((wrapInt n i % 2 ^ n : Nat) : Int) = i % 2 ^ n := by
  have pos : (0 : Int) < 2 ^ n := by positivity
  have nn : 0 ≤ i % 2 ^ n := Int.emod_nonneg _ pos.ne'
  rw [wrapInt, Int.natCast_emod, Int.toNat_of_nonneg nn]
  push_cast
  exact Int.emod_emod_of_dvd _ dvd_rfl

theorem sew_pos (et : Nat) : 0 < sew et := by
  unfold sew
  split <;> norm_num

section
variable {k : CoreIx} {c : Cmd} {n : Kern} {w : KWord}

theorem setl_sets (at_ : KernelAt s k.val 1 c n w) (va : w.va ≤ 15) (vd : w.vd ≤ 15) (et : w.imm % 8 ≠ 7) :
    Does (.setl k) s fun t =>
      let o := s.core k.val
      let p := t.core k.val
      p.et = (w.imm % 8).toNat ∧ p.lg = (w.imm / 16 % 4).toNat ∧ p.vl = min (o.xr w.va) (512 * 2 ^ p.lg / sew p.et) ∧
      VlFits p ∧ (w.vd ≠ 0 → p.xr w.vd = p.vl) ∧
      p = { o with et := p.et, lg := p.lg, vl := p.vl, x := p.x, kern := some { n with pc := n.pc + 1 } } ∧
      Frame (KernRegs k.val) Nothing (· = k.val) Nothing s t ∧ Quiet s t := by
  have et7 : (w.imm % 8).toNat ≠ 7 := by omega
  set et := (w.imm % 8).toNat with het
  set lg := (w.imm / 16 % 4).toNat with hlg
  set vl := min ((s.core k.val).xr w.va) (512 * 2 ^ lg / sew et) with hvl
  have acts : exec (.setl k) s =
      .next (s.worded k.val ((({ s.core k.val with vl := vl, et := et, lg := lg } : Core).setX w.vd vl).next n) 0 0) := by
    refine congrArg Host.Outcome.next (kernRow_legal at_ (r := (_, 0, 0)) ?_)
    exact if_neg (by omega)
  have fits : vl * sew et ≤ 512 * 2 ^ lg := (Nat.mul_le_mul_right _ (min_le_right _ _)).trans (Nat.div_mul_le_self _ _)
  have small : vl < 2 ^ 32 := (min_le_left _ _).trans_lt (xr_lt _ _)
  refine ⟨_, acts, ?_⟩
  dsimp only
  rw [core_worded, next_eq, setX_eq]
  refine ⟨rfl, rfl, rfl, fits, fun h => ?_, rfl, frame_worded _ _ _ _ _, quiet_worded _ _ _ _ _⟩
  exact (xr_setX_same ({ s.core k.val with vl := vl, et := et, lg := lg } : Core) h).trans (Nat.mod_eq_of_lt small)

/-- A scalar word that writes one register and goes on. -/
theorem scalar_writes {i : Instr} {op : Nat} {body : Core → Kern → KWord → Option (Core × Fl × Nat)} {v : Nat} {x : Int}
    (at_ : KernelAt s k.val op c n w) (row : exec i s = .next (s.kernRow k.val op body))
    (legal : body (s.core k.val) n w = some (((s.core k.val).setX w.vd v).next n, 0, 0))
    (value : ((v % 2 ^ 32 : Nat) : Int) = (((s.core k.val).xr w.va : Int) + x) % 2 ^ 32) : Does i s fun t =>
      (w.vd ≠ 0 → ((t.core k.val).xr w.vd : Int) = (((s.core k.val).xr w.va : Int) + x) % 2 ^ 32) ∧
      (∀ i, i ≠ w.vd ∨ i = 0 → (t.core k.val).xr i = (s.core k.val).xr i) ∧
      t.core k.val = { s.core k.val with x := (t.core k.val).x, kern := some { n with pc := n.pc + 1 } } ∧
      Frame (KernRegs k.val) Nothing (· = k.val) Nothing s t ∧ Quiet s t := by
  refine ⟨_, row.trans (congrArg Host.Outcome.next (kernRow_legal at_ legal)), ?_⟩
  dsimp only
  rw [core_worded]
  refine ⟨fun h => ?_, fun i h => xr_setX_other _ h, ?_, frame_worded _ _ _ _ _, quiet_worded _ _ _ _ _⟩
  · rw [← value, ← xr_setX_same (s.core k.val) h]
    rfl
  · rw [next_eq]
    exact congrArg (fun o : Core => ({ o with kern := some { n with pc := n.pc + 1 } } : Core)) (setX_eq _ _ _)

theorem sbnz_branches (at_ : KernelAt s k.val 5 c n w) (va : w.va ≤ 15) (lo : 0 ≤ (n.pc : Int) + w.imm)
    (hi : (n.pc : Int) + w.imm ≤ 1023) : Does (.sbnz k) s fun t =>
      let o := s.core k.val
      (∃ n', (t.core k.val).kern = some n' ∧ (o.xr w.va ≠ 0 → (n'.pc : Int) = n.pc + w.imm) ∧ (o.xr w.va = 0 → n'.pc = n.pc + 1)) ∧
      t.core k.val = { o with kern := (t.core k.val).kern } ∧
      Frame (KernRegs k.val) Nothing (· = k.val) Nothing s t ∧ Quiet s t := by
  have acts : ∀ r, (if (s.core k.val).xr w.va ≠ 0
      then some (({ s.core k.val with kern := some { n with pc := ((n.pc : Int) + w.imm).toNat } } : Core), (0 : Fl), 0)
      else some ((s.core k.val).next n, 0, 0)) = some r → exec (.sbnz k) s = .next (s.worded k.val r.1 r.2.1 r.2.2) := fun r e =>
    congrArg Host.Outcome.next (kernRow_legal at_ ((if_neg (by omega)).trans e))
  by_cases zero : (s.core k.val).xr w.va = 0
  · rw [if_neg (by simpa using zero)] at acts
    refine ⟨_, acts _ rfl, ?_⟩
    dsimp only
    rw [core_worded]
    exact ⟨⟨_, rfl, fun h => absurd zero h, fun _ => rfl⟩, rfl, frame_worded _ _ _ _ _, quiet_worded _ _ _ _ _⟩
  · rw [if_pos zero] at acts
    refine ⟨_, acts _ rfl, ?_⟩
    dsimp only
    rw [core_worded]
    exact ⟨⟨_, rfl, fun _ => Int.toNat_of_nonneg lo, fun h => absurd h zero⟩, rfl, frame_worded _ _ _ _ _, quiet_worded _ _ _ _ _⟩
end

/-- Settles O22: each scalar word is a legal row that writes one register, sets the vector type, or moves the pc. -/
theorem scalarWords : Obligations.ScalarWords := by
  unfold Obligations.ScalarWords
  intro k s c n w o va
  refine ⟨fun at_ vd et => setl_sets at_ va vd et, fun x hx => ?_, fun at_ lo hi => sbnz_branches at_ va lo hi⟩
  simp only [List.mem_cons, List.not_mem_nil, or_false] at hx
  intro at_ vd small
  rcases hx with rfl | rfl | rfl
  · exact scalar_writes at_ rfl (if_neg (by omega)) (wrapInt_mod 32 _)
  · have b := small (by norm_num)
    refine scalar_writes at_ rfl (if_neg (by omega)) ?_
    push_cast
    rfl
  · have b := small (by norm_num)
    exact scalar_writes at_ rfl (if_neg (by omega)) (wrapInt_mod 32 _)

end Sys2Proof
end

section
/-! PROOFS. The elementwise words of a kernel: each active element written once, everything else as it was (R173, R175, R184 to
R189). -/

namespace Sys2Proof

open Machine

variable {s t : State}

/-! ## Elements written one after another -/

/-- Fields of e bits at offsets `o x`, written with `f x` for the members x of a list. -/
def puts (o : Nat → Nat) (e : Nat) (f : Nat → Nat) (l : List Nat) (v : Nat) : Nat :=
  l.foldl (fun v x => setBits v (o x) e (f x)) v

section
variable {o f : Nat → Nat} {e : Nat} {l : List Nat}

/-- Bits that no written field meets are as they were. -/
theorem bits_puts_other (v : Nat) {lo w : Nat} (apart : ∀ x ∈ l, lo + w ≤ o x ∨ o x + e ≤ lo) :
    bits (puts o e f l v) lo w = bits v lo w := by
  induction l generalizing v with
  | nil => rfl
  | cons x l ih =>
    rw [puts, List.foldl_cons, ← puts, ih _ fun y hy => apart y (List.mem_cons_of_mem _ hy)]
    exact bits_setBits_other _ _ _ _ _ _ (apart x List.mem_cons_self)

/-- A written field holds its value, where two fields are one or apart. -/
theorem bits_puts_mem (v : Nat) {x : Nat} (hx : x ∈ l) (apart : ∀ y ∈ l, y = x ∨ o x + e ≤ o y ∨ o y + e ≤ o x) :
    bits (puts o e f l v) (o x) e = f x % 2 ^ e := by
  induction l using List.reverseRecOn with
  | nil => cases hx
  | append_singleton l y ih =>
    rw [puts, List.foldl_append, List.foldl_cons, List.foldl_nil, ← puts]
    rcases apart y (by simp) with rfl | other
    · exact bits_setBits _ _ _ _
    · rw [bits_setBits_other _ _ _ _ _ _ other]
      by_cases member : x ∈ l
      · exact ih member fun z hz => apart z (List.mem_append_left _ hz)
      · have same : x = y := by simpa [member] using hx
        subst same
        have e0 : e = 0 := by omega
        subst e0
        simp [bits, Nat.mod_one]

/-- A bit of a number is its field of one bit. -/
theorem testBit_eq_bits (v j : Nat) : v.testBit j = decide (bits v j 1 = 1) := by
  rw [Nat.testBit_eq_decide_div_mod_eq, bits, Nat.shiftRight_eq_div_pow, pow_one]

theorem testBit_puts_other (v : Nat) {j : Nat} (apart : ∀ x ∈ l, j < o x ∨ o x + e ≤ j) :
    (puts o e f l v).testBit j = v.testBit j := by
  rw [testBit_eq_bits, testBit_eq_bits, bits_puts_other v fun x hx => (apart x hx).imp_left Nat.succ_le_of_lt]
end

/-- The elements written are the first component of a fold that gathers flags beside them. -/
theorem foldl_fst_eq_puts {α : Type} (o f : Nat → Nat) (e : Nat) (g : α → Nat → α) (l : List Nat) (v : Nat) (a : α) :
    (l.foldl (fun (p : Nat × α) x => (setBits p.1 (o x) e (f x), g p.2 x)) (v, a)).1 = puts o e f l v := by
  induction l generalizing v a with
  | nil => rfl
  | cons x l ih => exact ih _ _

/-- A fold that writes the active ones is a fold over the active ones. -/
theorem foldl_if_eq_puts (o f : Nat → Nat) (e : Nat) (p : Nat → Bool) (l : List Nat) (v : Nat) :
    l.foldl (fun v x => if p x then setBits v (o x) e (f x) else v) v = puts o e f (l.filter p) v := by
  rw [puts, List.foldl_filter]

/-! ## Vector registers (R172, R173) -/

/-- Elements of one group, and of one width, are one or apart. -/
theorem elements_apart (e vd : Nat) (x y : Nat) :
    y = x ∨ 512 * vd + x * e + e ≤ 512 * vd + y * e ∨ 512 * vd + y * e + e ≤ 512 * vd + x * e := by
  rcases lt_trichotomy x y with lt | rfl | gt
  · have := Nat.mul_le_mul_right e (Nat.succ_le_of_lt lt)
    rw [Nat.succ_mul] at this
    omega
  · exact .inl rfl
  · have := Nat.mul_le_mul_right e (Nat.succ_le_of_lt gt)
    rw [Nat.succ_mul] at this
    omega

theorem toNat_vreg (v : Nat) : (BitVec.ofNat 16384 v).toNat = v % 2 ^ 16384 := BitVec.toNat_ofNat _ _

/-- An active element that ends within the registers reads what the word wrote. -/
theorem vget_puts {p : Nat → Bool} {vl vd e i v : Nat} {f : Nat → Nat} (lt : i < vl) (active : p i = true)
    (fits : 512 * vd + (i + 1) * e ≤ 16384) :
    vget (BitVec.ofNat 16384 (puts (fun i => 512 * vd + i * e) e f ((upTo vl).filter p) v)).toNat e vd i = f i % 2 ^ e := by
  have inside : 512 * vd + i * e + e ≤ 16384 := by
    rw [Nat.add_one_mul i e] at fits
    omega
  rw [vget, toNat_vreg, bits_low _ _ _ _ inside]
  exact bits_puts_mem (o := fun i => 512 * vd + i * e) v (List.mem_filter.2 ⟨(mem_upTo vl i).2 lt, active⟩)
    fun y _ => elements_apart e vd i y

theorem getLsbD_vreg (v : Nat) {j : Nat} (lt : j < 16384) : (BitVec.ofNat 16384 v).getLsbD j = v.testBit j := by
  rw [BitVec.getLsbD_ofNat]
  simp [lt]

/-- A bit that lies in no active element is as it was. -/
theorem getLsbD_puts {v0 : Nat} {m : Bool} {vl vd e j : Nat} {f : Nat → Nat} (o : BitVec 16384) (lt : j < 16384)
    (free : Untouched v0 m vl e vd j) :
    (BitVec.ofNat 16384 (puts (fun i => 512 * vd + i * e) e f ((upTo vl).filter (active1 v0 m)) o.toNat)).getLsbD j =
      o.getLsbD j := by
  rw [getLsbD_vreg _ lt, testBit_puts_other]
  · rfl
  · intro x hx
    obtain ⟨mem, active⟩ := List.mem_filter.1 hx
    have := free x ((mem_upTo vl x).1 mem) active
    rw [Nat.add_one_mul x e] at this
    omega

/-! ## Elementwise words (R184) -/

/-- What an elementwise word computes of element i. -/
def elemOf (el : ElemOp) (o : Core) (w : KWord) (i : Nat) : Nat × Fl :=
  el o.et w.rm (vget o.vreg.toNat (sew o.et) w.va i) (vget o.vreg.toNat (sew o.et) w.vb i) (vget o.vreg.toNat (sew o.et) w.vd i)

/-- The vector registers behind an elementwise word. -/
def elemVreg (el : ElemOp) (o : Core) (w : KWord) : BitVec 16384 :=
  BitVec.ofNat 16384 (puts (fun i => 512 * w.vd + i * sew o.et) (sew o.et) (fun i => (elemOf el o w i).1)
    ((upTo o.vl).filter (active1 o.vreg.toNat w.m)) o.vreg.toNat)

/-- The flags that an elementwise word raises. -/
def elemFlags (el : ElemOp) (o : Core) (w : KWord) : Fl :=
  (((upTo o.vl).filter (active1 o.vreg.toNat w.m)).foldl (fun (a : Nat × Fl) i =>
    (setBits a.1 (512 * w.vd + i * sew o.et) (sew o.et) (elemOf el o w i).1, a.2 ||| (elemOf el o w i).2)) (o.vreg.toNat, 0)).2

theorem vecElem_legal {rule : EtRule} {unary : Bool} (cost : Nat) (el : ElemOp) {o : Core} (n : Kern) {w : KWord}
    (et : rule.ok o.et = true) (vd : grpOk w.vd o.g = true) (va : grpOk w.va o.g = true)
    (vb : unary = false → grpOk w.vb o.g = true) (mask : w.m = true → w.vd ≠ 0) :
    vecElem rule unary cost el o n w = some (({ o with vreg := elemVreg el o w } : Core).next n, elemFlags el o w,
      cost * ((upTo o.vl).filter (active1 o.vreg.toNat w.m)).length) := by
  have legal : (rule.ok o.et && grpOk w.vd o.g && grpOk w.va o.g && (unary || grpOk w.vb o.g) && !(w.m && w.vd == 0)) = true := by
    cases unary <;> cases hm : w.m <;> simp_all
  rw [elemVreg, ← foldl_fst_eq_puts _ _ _ (fun (a : Fl) i => a ||| (elemOf el o w i).2) _ _ 0]
  exact if_pos legal

/-- What an elementwise word leaves, whatever it computes. -/
theorem vecElem_acts {i : Instr} {k : CoreIx} {op cost : Nat} {rule : EtRule} {unary : Bool} {el : ElemOp} {c : Cmd} {n : Kern}
    {w : KWord} (at_ : KernelAt s k.val op c n w) (row : exec i s = .next (s.kernRow k.val op (vecElem rule unary cost el)))
    (et : rule.ok (s.core k.val).et = true) (vd : grpOk w.vd (s.core k.val).g = true) (va : grpOk w.va (s.core k.val).g = true)
    (vb : unary = false → grpOk w.vb (s.core k.val).g = true) (mask : w.m = true → w.vd ≠ 0) : Does i s fun t =>
      let o := s.core k.val
      let v := o.vreg.toNat
      let e := sew o.et
      (∀ i < o.vl, active1 v w.m i = true → 512 * w.vd + (i + 1) * e ≤ 16384 →
        vget (t.core k.val).vreg.toNat e w.vd i = (elemOf el o w i).1 % 2 ^ e) ∧
      (∀ j < 16384, Untouched v w.m o.vl e w.vd j → (t.core k.val).vreg.getLsbD j = o.vreg.getLsbD j) ∧
      t.core k.val = { o with vreg := (t.core k.val).vreg, kern := some { n with pc := n.pc + 1 } } ∧
      s.reg (Reg.vectStat k.val) &&& t.reg (Reg.vectStat k.val) = s.reg (Reg.vectStat k.val) ∧
      t.reg64 (Reg.vops k.val) = (s.reg64 (Reg.vops k.val) + cost * ((upTo o.vl).filter (active1 v w.m)).length) % 2 ^ 64 ∧
      Frame (KernRegs k.val) Nothing (· = k.val) Nothing s t ∧ Quiet s t := by
  have legal := vecElem_legal cost el n et vd va vb mask
  refine ⟨_, row.trans (congrArg Host.Outcome.next (kernRow_legal at_ legal)), ?_⟩
  dsimp only
  rw [core_worded]
  exact ⟨fun i lt active fits => vget_puts lt active fits, fun j lt free => getLsbD_puts _ lt free, rfl, flags_worded _ _ _ _ _,
    vops_worded _ _ _ _ _, frame_worded _ _ _ _ _, quiet_worded _ _ _ _ _⟩

/-- The integer half of an arithmetic word's element. -/
theorem arith_elem (fp : Val → Val → Val → Val × Fl) (int : Int → Int → Int → Int) (o : Core) (w : KWord) (i : Nat) :
    let v := o.vreg.toNat
    let e := sew o.et
    (elemOf (arith fp int) o w i).1 % 2 ^ e =
      if etFp o.et then
        (etRound o.et (fp (etVal o.et (vget v e w.va i)) (etVal o.et (vget v e w.vb i)) (etVal o.et (vget v e w.vd i))).1).1 % 2 ^ e
      else (int (etInt o.et (vget v e w.va i)) (etInt o.et (vget v e w.vb i)) (etInt o.et (vget v e w.vd i)) %
        (2 ^ e : Int)).toNat := by
  intro v e
  unfold elemOf arith
  split_ifs
  · rfl
  · have small : wrapInt e (int (etInt o.et (vget v e w.va i)) (etInt o.et (vget v e w.vb i)) (etInt o.et (vget v e w.vd i))) <
        2 ^ e := by
      have pos : (0 : Int) < 2 ^ e := by positivity
      have lt := Int.emod_lt_of_pos
        (int (etInt o.et (vget v e w.va i)) (etInt o.et (vget v e w.vb i)) (etInt o.et (vget v e w.vd i))) pos
      have nn := Int.emod_nonneg
        (int (etInt o.et (vget v e w.va i)) (etInt o.et (vget v e w.vb i)) (etInt o.et (vget v e w.vd i))) pos.ne'
      unfold wrapInt
      zify
      rw [Int.toNat_of_nonneg nn]
      exact lt
    exact Nat.mod_eq_of_lt small

/-- What an arithmetic word leaves (R184, R185). -/
theorem arith_acts {i : Instr} {k : CoreIx} {op cost : Nat} {rule : EtRule} {unary : Bool} {fp : Val → Val → Val → Val × Fl}
    {int : Int → Int → Int → Int} {c : Cmd} {n : Kern} {w : KWord} (at_ : KernelAt s k.val op c n w)
    (row : exec i s = .next (s.kernRow k.val op (vecElem rule unary cost (arith fp int))))
    (et : rule.ok (s.core k.val).et = true) (vd : grpOk w.vd (s.core k.val).g = true) (va : grpOk w.va (s.core k.val).g = true)
    (vb : unary = false → grpOk w.vb (s.core k.val).g = true) (mask : w.m = true → w.vd ≠ 0) : Does i s fun t =>
      let o := s.core k.val
      let v := o.vreg.toNat
      let e := sew o.et
      (∀ i < o.vl, active1 v w.m i = true → 512 * w.vd + (i + 1) * e ≤ 16384 →
        vget (t.core k.val).vreg.toNat e w.vd i =
          if etFp o.et then
            (etRound o.et (fp (etVal o.et (vget v e w.va i)) (etVal o.et (vget v e w.vb i)) (etVal o.et (vget v e w.vd i))).1).1 % 2 ^ e
          else (int (etInt o.et (vget v e w.va i)) (etInt o.et (vget v e w.vb i)) (etInt o.et (vget v e w.vd i)) %
            (2 ^ e : Int)).toNat) ∧
      (∀ j < 16384, Untouched v w.m o.vl e w.vd j → (t.core k.val).vreg.getLsbD j = o.vreg.getLsbD j) ∧
      t.core k.val = { o with vreg := (t.core k.val).vreg, kern := some { n with pc := n.pc + 1 } } ∧
      s.reg (Reg.vectStat k.val) &&& t.reg (Reg.vectStat k.val) = s.reg (Reg.vectStat k.val) ∧
      t.reg64 (Reg.vops k.val) = (s.reg64 (Reg.vops k.val) + cost * ((upTo o.vl).filter (active1 v w.m)).length) % 2 ^ 64 ∧
      Frame (KernRegs k.val) Nothing (· = k.val) Nothing s t ∧ Quiet s t := by
  obtain ⟨t, acts, elements, rest⟩ := vecElem_acts at_ row et vd va vb mask
  exact ⟨t, acts, fun i lt active fits => (elements i lt active fits).trans (arith_elem fp int _ w i), rest⟩

/-- Settles O18: every arithmetic word is an elementwise row, `arith_acts`. -/
theorem vectArithmeticWords : Obligations.VectArithmeticWords := by
  unfold Obligations.VectArithmeticWords
  intro k s c n w x hx
  simp only [List.mem_cons, List.not_mem_nil, or_false] at hx
  intro at_ o v e et vd va vb mask
  rcases hx with rfl | rfl | rfl | rfl | rfl | rfl | rfl | rfl | rfl | rfl | rfl
  · exact arith_acts at_ rfl et vd va (fun _ => vb (by norm_num)) mask
  · exact arith_acts at_ rfl et vd va (fun _ => vb (by norm_num)) mask
  · exact arith_acts at_ rfl et vd va (fun _ => vb (by norm_num)) mask
  · exact arith_acts at_ rfl et vd va (fun _ => vb (by norm_num)) mask
  · exact arith_acts at_ rfl et vd va (fun _ => vb (by norm_num)) mask
  · exact arith_acts at_ rfl et vd va (fun _ => vb (by norm_num)) mask
  · exact arith_acts at_ rfl et vd va (fun _ => vb (by norm_num)) mask
  · exact arith_acts at_ rfl et vd va (fun _ => vb (by norm_num)) mask
  · exact arith_acts (unary := true) at_ rfl et vd va (fun u => by cases u) mask
  · exact arith_acts (unary := true) at_ rfl et vd va (fun u => by cases u) mask
  · exact arith_acts (unary := true) at_ rfl et vd va (fun u => by cases u) mask

/-! ## Integer words (R188, R189) -/

/-- What an integer word leaves, where `f` is its element's value. -/
theorem int_acts {i : Instr} {k : CoreIx} {op cost : Nat} {rule : EtRule} {el : ElemOp} {f : Nat → Nat → Nat → Nat → Nat} {c : Cmd}
    {n : Kern} {w : KWord} (at_ : KernelAt s k.val op c n w)
    (row : exec i s = .next (s.kernRow k.val op (vecElem rule false cost el)))
    (value : ∀ et a b d, (el et w.rm a b d).1 % 2 ^ sew et = f et a b d % 2 ^ sew et)
    (et : rule.ok (s.core k.val).et = true) (vd : grpOk w.vd (s.core k.val).g = true) (va : grpOk w.va (s.core k.val).g = true)
    (vb : grpOk w.vb (s.core k.val).g = true) (mask : w.m = true → w.vd ≠ 0) : Does i s fun t =>
      let o := s.core k.val
      let v := o.vreg.toNat
      let e := sew o.et
      (∀ i < o.vl, active1 v w.m i = true → 512 * w.vd + (i + 1) * e ≤ 16384 →
        vget (t.core k.val).vreg.toNat e w.vd i = f o.et (vget v e w.va i) (vget v e w.vb i) (vget v e w.vd i) % 2 ^ e) ∧
      (∀ j < 16384, Untouched v w.m o.vl e w.vd j → (t.core k.val).vreg.getLsbD j = o.vreg.getLsbD j) ∧
      t.core k.val = { o with vreg := (t.core k.val).vreg, kern := some { n with pc := n.pc + 1 } } ∧
      Frame (KernRegs k.val) Nothing (· = k.val) Nothing s t ∧ Quiet s t := by
  obtain ⟨t, acts, elements, untouched, core, -, -, frame, quiet⟩ := vecElem_acts at_ row et vd va (fun _ => vb) mask
  exact ⟨t, acts, fun i lt active fits => (elements i lt active fits).trans (value _ _ _ _), untouched, core, frame, quiet⟩

/-- Settles O19: every integer word is an elementwise row, `int_acts`; the bitwise words and the left shift cut their value to the
element's width first. -/
theorem vectIntegerWords : Obligations.VectIntegerWords := by
  unfold Obligations.VectIntegerWords
  intro k s c n w x hx
  simp only [List.mem_cons, List.not_mem_nil, or_false] at hx
  intro at_ o v e et vd va vb mask
  rcases hx with rfl | rfl | rfl | rfl | rfl | rfl | rfl | rfl | rfl
  · exact int_acts at_ rfl (fun _ _ _ _ => Nat.mod_mod _ _) et vd va vb mask
  · exact int_acts at_ rfl (fun _ _ _ _ => Nat.mod_mod _ _) et vd va vb mask
  · exact int_acts at_ rfl (fun _ _ _ _ => Nat.mod_mod _ _) et vd va vb mask
  · exact int_acts at_ rfl (fun _ _ _ _ => Nat.mod_mod _ _) et vd va vb mask
  · exact int_acts at_ rfl (fun _ _ _ _ => rfl) et vd va vb mask
  · exact int_acts at_ rfl (fun _ _ _ _ => rfl) et vd va vb mask
  · exact int_acts at_ rfl (fun _ _ _ _ => rfl) et vd va vb mask
  · exact int_acts at_ rfl (fun _ _ _ _ => rfl) et vd va vb mask
  · exact int_acts at_ rfl (fun _ _ _ _ => rfl) et vd va vb mask

end Sys2Proof
end

section
/-! PROOFS. Conversions, compares and sums, and the loads and stores of a kernel (R173, R175, R184 to R188). -/

namespace Sys2Proof

open Machine

variable {s t : State}

/-! ## Conversions (R184, R188) -/

/-- The first component of a fold of pairs whose components go on apart. -/
theorem foldl_pair_fst {α β : Type} (f : α → Nat → α) (g : β → Nat → β) (l : List Nat) (a : α) (b : β) :
    (l.foldl (fun (p : α × β) x => (f p.1 x, g p.2 x)) (a, b)).1 = l.foldl f a := by
  induction l generalizing a b with
  | nil => rfl
  | cons x l ih => exact ih _ _

/-- The vector registers behind a conversion. -/
def convVreg (el : KWord → Nat → Nat → Nat × Fl) (o : Core) (w : KWord) : BitVec 16384 :=
  BitVec.ofNat 16384 (puts (fun i => 512 * w.vd + i * sew w.et2) (sew w.et2)
    (fun i => (el w o.et (vget o.vreg.toNat (sew o.et) w.va i)).1) ((upTo o.vl).filter (active1 o.vreg.toNat w.m)) o.vreg.toNat)

/-- The flags that a conversion raises. -/
def convFlags (el : KWord → Nat → Nat → Nat × Fl) (o : Core) (w : KWord) : Fl :=
  (((upTo o.vl).filter (active1 o.vreg.toNat w.m)).foldl (fun (a : Nat × Fl) i =>
    (vput a.1 (sew w.et2) w.vd i (el w o.et (vget o.vreg.toNat (sew o.et) w.va i)).1,
      a.2 ||| (el w o.et (vget o.vreg.toNat (sew o.et) w.va i)).2)) (o.vreg.toNat, 0)).2

theorem vecConv_legal {rule : EtRule} {intOnly : Bool} (el : KWord → Nat → Nat → Nat × Fl) {o : Core} (n : Kern) {w : KWord}
    (et2 : w.et2 ≠ 7) (et : rule.ok o.et = true) (only : intOnly = true → etFp w.et2 = false)
    (size : max 1 (o.g * sew w.et2 / sew o.et) ≤ 8) (vd : grpOk w.vd (max 1 (o.g * sew w.et2 / sew o.et)) = true)
    (va : grpOk w.va o.g = true) (mask : w.m = true → w.vd ≠ 0) :
    vecConv rule intOnly el o n w = some (({ o with vreg := convVreg el o w } : Core).next n, convFlags el o w,
      ((upTo o.vl).filter (active1 o.vreg.toNat w.m)).length) := by
  have legal : (w.et2 != 7 && rule.ok o.et && !(intOnly && etFp w.et2) && decide (max 1 (o.g * sew w.et2 / sew o.et) ≤ 8) &&
      grpOk w.vd (max 1 (o.g * sew w.et2 / sew o.et)) && grpOk w.va o.g && !(w.m && w.vd == 0)) = true := by
    have only' : (intOnly && etFp w.et2) = false := by cases intOnly <;> simp_all
    have mask' : (w.m && w.vd == 0) = false := by cases hm : w.m <;> simp_all
    rw [et, only', vd, va, mask', decide_eq_true size]
    simpa using et2
  rw [convVreg, ← foldl_fst_eq_puts _ _ _ (fun (a : Fl) i => a ||| (el w o.et (vget o.vreg.toNat (sew o.et) w.va i)).2) _ _ 0]
  exact if_pos legal

theorem conv_acts {i : Instr} {k : CoreIx} {op : Nat} {rule : EtRule} {intOnly : Bool} {el : KWord → Nat → Nat → Nat × Fl} {c : Cmd}
    {n : Kern} {w : KWord} (at_ : KernelAt s k.val op c n w)
    (row : exec i s = .next (s.kernRow k.val op (vecConv rule intOnly el)))
    (et2 : w.et2 ≠ 7) (et : rule.ok (s.core k.val).et = true) (only : intOnly = true → etFp w.et2 = false)
    (size : max 1 ((s.core k.val).g * sew w.et2 / sew (s.core k.val).et) ≤ 8)
    (vd : grpOk w.vd (max 1 ((s.core k.val).g * sew w.et2 / sew (s.core k.val).et)) = true)
    (va : grpOk w.va (s.core k.val).g = true) (mask : w.m = true → w.vd ≠ 0) : Does i s fun t =>
      let o := s.core k.val
      let v := o.vreg.toNat
      let e := sew o.et
      let e2 := sew w.et2
      (∀ i < o.vl, active1 v w.m i = true → 512 * w.vd + (i + 1) * e2 ≤ 16384 →
        vget (t.core k.val).vreg.toNat e2 w.vd i = (el w o.et (vget v e w.va i)).1 % 2 ^ e2) ∧
      (∀ j < 16384, Untouched v w.m o.vl e2 w.vd j → (t.core k.val).vreg.getLsbD j = o.vreg.getLsbD j) ∧
      t.core k.val = { o with vreg := (t.core k.val).vreg, kern := some { n with pc := n.pc + 1 } } ∧
      Frame (KernRegs k.val) Nothing (· = k.val) Nothing s t ∧ Quiet s t := by
  have legal := vecConv_legal el n et2 et only size vd va mask
  refine ⟨_, row.trans (congrArg Host.Outcome.next (kernRow_legal at_ legal)), ?_⟩
  dsimp only
  rw [core_worded]
  exact ⟨fun i lt active fits => vget_puts lt active fits, fun j lt free => getLsbD_puts _ lt free, rfl,
    frame_worded _ _ _ _ _, quiet_worded _ _ _ _ _⟩

/-! ## Compares (R175, R184) -/

/-- The bits of the elements of a prefix for which a test holds. -/
def maskBits (p rel : Nat → Bool) (n : Nat) : Nat :=
  ((upTo n).filter p).foldl (fun a i => if rel i then a + 2 ^ i else a) 0

theorem maskBits_succ (p rel : Nat → Bool) (n : Nat) :
    maskBits p rel (n + 1) = if p n && rel n then maskBits p rel n + 2 ^ n else maskBits p rel n := by
  unfold maskBits
  rw [upTo, List.filter_append, List.foldl_append]
  cases hp : p n <;> cases hr : rel n <;> simp [hp, hr]

theorem maskBits_lt (p rel : Nat → Bool) (n : Nat) : maskBits p rel n < 2 ^ n := by
  induction n with
  | zero => exact Nat.one_pos
  | succ n ih =>
    rw [maskBits_succ, pow_succ]
    split_ifs <;> omega

theorem testBit_maskBits (p rel : Nat → Bool) (n j : Nat) : (maskBits p rel n).testBit j = (decide (j < n) && p j && rel j) := by
  induction n with
  | zero => simp [maskBits, upTo]
  | succ n ih =>
    have lt := maskBits_lt p rel n
    rw [maskBits_succ]
    rcases lt_trichotomy j n with less | rfl | more
    · have low : ∀ b : Bool, (if b then maskBits p rel n + 2 ^ n else maskBits p rel n).testBit j = (maskBits p rel n).testBit j := by
        intro b
        cases b
        · rfl
        · rw [if_pos rfl, Nat.add_comm, Nat.testBit_two_pow_add_gt less]
      rw [low, ih]
      simp [less, Nat.lt_succ_of_lt less]
    · have clear : (maskBits p rel j).testBit j = false := Nat.testBit_lt_two_pow lt
      cases hp : p j <;> cases hr : rel j <;> simp [clear, Nat.add_comm, Nat.testBit_two_pow_add_eq]
    · have high : ∀ b : Bool, (if b then maskBits p rel n + 2 ^ n else maskBits p rel n) < 2 ^ j := by
        intro b
        have grow := Nat.pow_le_pow_right (n := 2) (by norm_num) (Nat.succ_le_of_lt more)
        rw [pow_succ] at grow
        cases b <;> simp <;> omega
      rw [Nat.testBit_lt_two_pow (high _)]
      simp [Nat.not_lt.2 more]

/-- Bits below 512 of v0 behind a compare, and those above. -/
theorem getLsbD_compared (v x j : Nat) :
    (j < 512 → (BitVec.ofNat 16384 (setBits v 0 512 x)).getLsbD j = x.testBit j) ∧
    (512 ≤ j → j < 16384 → (BitVec.ofNat 16384 (setBits v 0 512 x)).getLsbD j = v.testBit j) := by
  refine ⟨fun low => ?_, fun high lt => ?_⟩
  · have whole := bits_setBits v 0 512 x
    rw [bits, Nat.shiftRight_zero] at whole
    have cut : ∀ y : Nat, (y % 2 ^ 512).testBit j = y.testBit j := fun y => by
      rw [Nat.testBit_mod_two_pow, decide_eq_true low, Bool.true_and]
    rw [getLsbD_vreg _ (by omega), ← cut, whole, cut]
  · rw [getLsbD_vreg _ lt, testBit_eq_bits, testBit_eq_bits, bits_setBits_other _ _ _ _ _ _ (.inr (by omega))]

/-- What a compare finds of element i. -/
def compared (rel : Val → Val → Bool) (o : Core) (w : KWord) (i : Nat) : Bool :=
  rel (etVal o.et (vget o.vreg.toNat (sew o.et) w.va i)) (etVal o.et (vget o.vreg.toNat (sew o.et) w.vb i))

/-- The flags that a compare raises. -/
def cmpFlags (o : Core) (w : KWord) (f : Fl) (i : Nat) : Fl :=
  f ||| (etVal o.et (vget o.vreg.toNat (sew o.et) w.va i)).sigFlag ||| (etVal o.et (vget o.vreg.toNat (sew o.et) w.vb i)).sigFlag

/-- The vector registers behind a compare. -/
def cmpVreg (rel : Val → Val → Bool) (o : Core) (w : KWord) : BitVec 16384 :=
  BitVec.ofNat 16384 (setBits o.vreg.toNat 0 512 (maskBits (active1 o.vreg.toNat w.m) (compared rel o w) o.vl))

theorem vecCmp_legal (rel : Val → Val → Bool) {o : Core} (n : Kern) {w : KWord} (va : grpOk w.va o.g = true)
    (vb : grpOk w.vb o.g = true) (vl : 0 < o.vl) : ∃ f ops, vecCmp rel o n w =
      some (({ o with vreg := cmpVreg rel o w } : Core).next n, f, ops) := by
  have fold := foldl_pair_fst (fun a i => if compared rel o w i then a + 2 ^ i else a) (cmpFlags o w)
    ((upTo o.vl).filter (active1 o.vreg.toNat w.m)) 0 0
  rw [cmpVreg, maskBits, ← fold]
  exact ⟨_, _, (if_pos (by rw [va, vb]; rfl)).trans (if_neg vl.ne')⟩

theorem vecCmp_empty (rel : Val → Val → Bool) {o : Core} (n : Kern) {w : KWord} (va : grpOk w.va o.g = true)
    (vb : grpOk w.vb o.g = true) (vl : o.vl = 0) : vecCmp rel o n w = some (o.next n, 0, 0) :=
  (if_pos (by rw [va, vb]; rfl)).trans (if_pos vl)

theorem cmp_acts {i : Instr} {k : CoreIx} {op : Nat} {rel : Val → Val → Bool} {c : Cmd} {n : Kern} {w : KWord}
    (at_ : KernelAt s k.val op c n w) (row : exec i s = .next (s.kernRow k.val op (vecCmp rel)))
    (va : grpOk w.va (s.core k.val).g = true) (vb : grpOk w.vb (s.core k.val).g = true) : Does i s fun t =>
      let o := s.core k.val
      let v := o.vreg.toNat
      let e := sew o.et
      (0 < o.vl → ∀ j < 512, (t.core k.val).vreg.getLsbD j =
        (decide (j < o.vl) && active1 v w.m j && rel (etVal o.et (vget v e w.va j)) (etVal o.et (vget v e w.vb j)))) ∧
      (o.vl = 0 → (t.core k.val).vreg = o.vreg) ∧
      (∀ j, 512 ≤ j → (t.core k.val).vreg.getLsbD j = o.vreg.getLsbD j) ∧
      t.core k.val = { o with vreg := (t.core k.val).vreg, kern := some { n with pc := n.pc + 1 } } ∧
      Frame (KernRegs k.val) Nothing (· = k.val) Nothing s t ∧ Quiet s t := by
  rcases Nat.eq_zero_or_pos (s.core k.val).vl with none | some_
  · have legal := vecCmp_empty rel n va vb none
    refine ⟨_, row.trans (congrArg Host.Outcome.next (kernRow_legal at_ legal)), ?_⟩
    dsimp only
    rw [core_worded]
    exact ⟨fun pos => absurd none pos.ne', fun _ => rfl, fun _ _ => rfl, rfl, frame_worded _ _ _ _ _, quiet_worded _ _ _ _ _⟩
  · obtain ⟨f, ops, legal⟩ := vecCmp_legal rel n va vb some_
    refine ⟨_, row.trans (congrArg Host.Outcome.next (kernRow_legal at_ legal)), ?_⟩
    dsimp only
    rw [core_worded]
    refine ⟨fun _ j lt => ?_, fun none => absurd none some_.ne', fun j high => ?_, rfl, frame_worded _ _ _ _ _,
      quiet_worded _ _ _ _ _⟩
    · exact ((getLsbD_compared _ _ j).1 lt).trans (testBit_maskBits _ _ _ _)
    · rcases lt_or_ge j 16384 with lt | ge
      · exact (getLsbD_compared _ _ j).2 high lt
      · exact (BitVec.getLsbD_of_ge _ _ ge).trans (BitVec.getLsbD_of_ge _ _ ge).symm

/-! ## VRSUM (R184) -/

theorem sumL_eq_sum (l : List Nat) : sumL l = l.sum := by
  rw [sumL, List.sum_eq_foldl]

/-- The sum that VRSUM writes, with its flags. -/
def rsumOf (o : Core) (w : KWord) : Nat × Fl :=
  let xs := ((upTo o.vl).filter (active1 o.vreg.toNat w.m)).map (vget o.vreg.toNat (sew o.et) w.va)
  if etFp o.et then rsumFp o.et xs none 0 else (sumL xs % 2 ^ sew o.et, 0)

/-- The vector registers behind VRSUM. -/
def rsumVreg (o : Core) (w : KWord) : BitVec 16384 :=
  BitVec.ofNat 16384 (vput o.vreg.toNat (sew o.et) w.vd 0 (rsumOf o w).1)

theorem sew_le (et : Nat) : sew et ≤ 64 := by
  unfold sew
  split <;> norm_num

/-- An element written alone in the vector registers. -/
theorem vput_alone (v e vd x : Nat) (fits : 512 * vd + e ≤ 16384) :
    vget (BitVec.ofNat 16384 (vput v e vd 0 x)).toNat e vd 0 = x % 2 ^ e ∧
    ∀ j < 16384, (j < 512 * vd ∨ 512 * vd + e ≤ j) → (BitVec.ofNat 16384 (vput v e vd 0 x)).getLsbD j = v.testBit j := by
  refine ⟨?_, fun j lt out => ?_⟩
  · rw [vget, toNat_vreg, bits_low _ _ _ _ (by omega)]
    exact bits_setBits _ _ _ _
  · rw [getLsbD_vreg _ lt, testBit_eq_bits, testBit_eq_bits, vput, bits_setBits_other]
    omega

theorem vrsum_acts {k : CoreIx} {c : Cmd} {n : Kern} {w : KWord} (at_ : KernelAt s k.val 0x31 c n w)
    (vd : grpOk w.vd (s.core k.val).g = true) (va : grpOk w.va (s.core k.val).g = true) (mask : w.m = true → w.vd ≠ 0) :
    Does (.vrsum k) s fun t =>
      let o := s.core k.val
      let v := o.vreg.toNat
      let e := sew o.et
      (0 < o.vl → etFp o.et = false → vget (t.core k.val).vreg.toNat e w.vd 0 =
        (((upTo o.vl).filter (active1 v w.m)).map (vget v e w.va)).sum % 2 ^ e) ∧
      (o.vl = 0 → (t.core k.val).vreg = o.vreg) ∧
      (∀ j < 16384, (j < 512 * w.vd ∨ 512 * w.vd + e ≤ j) → (t.core k.val).vreg.getLsbD j = o.vreg.getLsbD j) ∧
      t.core k.val = { o with vreg := (t.core k.val).vreg, kern := some { n with pc := n.pc + 1 } } ∧
      Frame (KernRegs k.val) Nothing (· = k.val) Nothing s t ∧ Quiet s t := by
  have mask' : (w.m && w.vd == 0) = false := by cases hm : w.m <;> simp_all
  have ok : (grpOk w.vd (s.core k.val).g && grpOk w.va (s.core k.val).g && !(w.m && w.vd == 0)) = true := by
    rw [vd, va, mask']
    rfl
  rcases Nat.eq_zero_or_pos (s.core k.val).vl with none | some_
  · have acts : exec (.vrsum k) s = .next (s.worded k.val ((s.core k.val).next n) 0 0) :=
      congrArg Host.Outcome.next (kernRow_legal at_ (r := (_, 0, 0)) ((if_pos ok).trans (if_pos none)))
    refine ⟨_, acts, ?_⟩
    dsimp only
    rw [core_worded]
    exact ⟨fun pos => absurd none pos.ne', fun _ => rfl, fun _ _ _ => rfl, rfl, frame_worded _ _ _ _ _, quiet_worded _ _ _ _ _⟩
  · have acts : exec (.vrsum k) s = .next (s.worded k.val (({ s.core k.val with vreg := rsumVreg (s.core k.val) w } : Core).next n)
        (rsumOf (s.core k.val) w).2 _) :=
      congrArg Host.Outcome.next (kernRow_legal at_ (r := (_, _, _)) ((if_pos ok).trans (if_neg some_.ne')))
    have inside : 512 * w.vd + sew (s.core k.val).et ≤ 16384 := by
      have low := sew_le (s.core k.val).et
      have pos : 0 < (s.core k.val).g := Nat.two_pow_pos _
      simp only [grpOk, Bool.and_eq_true, decide_eq_true_eq] at vd
      omega
    obtain ⟨element, other⟩ := vput_alone (s.core k.val).vreg.toNat _ w.vd (rsumOf (s.core k.val) w).1 inside
    refine ⟨_, acts, ?_⟩
    dsimp only
    rw [core_worded]
    refine ⟨fun _ int => element.trans ?_, fun none => absurd none some_.ne', other, rfl, frame_worded _ _ _ _ _,
      quiet_worded _ _ _ _ _⟩
    rw [rsumOf, if_neg (by simp [int]), sumL_eq_sum]
    exact Nat.mod_mod _ _

/-- Settles O20: conversions, compares and the sum, each by its row. -/
theorem vectConvertsComparesAndSums : Obligations.VectConvertsComparesAndSums := by
  unfold Obligations.VectConvertsComparesAndSums
  refine ⟨fun k s c n w x hx => ?_, fun k s c n w => ?_⟩
  · simp only [List.mem_cons, List.not_mem_nil, or_false] at hx
    intro at_ o v e e2 dg et2 int size vd va mask
    rcases hx with rfl | rfl
    · exact conv_acts (i := .vcvt k) (op := 0x30) (rule := .any) (intOnly := false)
        (el := fun w et x => etRound w.et2 (etVal et x)) at_ rfl et2 rfl (fun h => by cases h) size vd va mask
    · obtain ⟨from_, to_⟩ := int rfl
      exact conv_acts (i := .vqcvt k) (op := 0x2C) (rule := .int) (intOnly := true)
        (el := fun w et x => satInt (sew w.et2) (qRound w.rm w.vb (etInt et x))) at_ rfl et2 (by rw [EtRule.ok, from_]; rfl) (fun _ => to_) size vd va mask
  · intro o v e
    refine ⟨fun x hx at_ va vb => ?_, vrsum_acts⟩
    simp only [List.mem_cons, List.not_mem_nil, or_false] at hx
    rcases hx with rfl | rfl | rfl
    · exact cmp_acts at_ rfl va vb
    · exact cmp_acts at_ rfl va vb
    · exact cmp_acts at_ rfl va vb

end Sys2Proof
end

section
/-! PROOFS. The loads and stores of a kernel: fields of structures in a window, offsets modulo 4,096 (R173, R175, R186). -/

namespace Sys2Proof

open Machine

variable {s t : State}

/-! ## Where the fields of a structure stand (R173, R186) -/

/-- Where in the vector registers field x of an access of f fields stands: field x mod f of structure x / f. -/
def fieldAt (o : Core) (w : KWord) (f x : Nat) : Nat := 512 * (w.vd + x % f * o.g) + x / f * sew o.et

/-- The fields of the active structures. -/
def fieldsOf (o : Core) (w : KWord) (f : Nat) : List Nat := (upTo (f * o.vl)).filter fun x => active1 o.vreg.toNat w.m (x / f)

theorem mem_fieldsOf {o : Core} {w : KWord} {f x : Nat} :
    x ∈ fieldsOf o w f ↔ x < f * o.vl ∧ active1 o.vreg.toNat w.m (x / f) = true := by
  rw [fieldsOf, List.mem_filter, mem_upTo]

theorem field_parts {f i j : Nat} (hj : j < f) : (i * f + j) / f = i ∧ (i * f + j) % f = j := by
  have pos : 0 < f := by omega
  refine ⟨?_, ?_⟩
  · rw [Nat.mul_comm, Nat.mul_add_div pos, Nat.div_eq_of_lt hj, Nat.add_zero]
  · rw [Nat.mul_comm, Nat.mul_add_mod, Nat.mod_eq_of_lt hj]

theorem mem_fieldsOf_parts {o : Core} {w : KWord} {f i j : Nat} (hi : i < o.vl) (hj : j < f)
    (active : active1 o.vreg.toNat w.m i = true) : i * f + j ∈ fieldsOf o w f := by
  obtain ⟨quot, -⟩ := field_parts (i := i) hj
  rw [mem_fieldsOf, quot]
  refine ⟨?_, active⟩
  calc i * f + j < i * f + f := by omega
    _ = f * (i + 1) := by ring
    _ ≤ f * o.vl := Nat.mul_le_mul_left f hi

theorem structure_lt {f vl x : Nat} (lt : x < f * vl) : x / f < vl := Nat.div_lt_of_lt_mul lt

/-- An element of a structure below VL lies within its register group. -/
theorem element_in_group {o : Core} (fits : VlFits o) {i : Nat} (lt : i < o.vl) : i * sew o.et + sew o.et ≤ 512 * o.g := by
  have le := Nat.mul_le_mul_right (sew o.et) (Nat.succ_le_of_lt lt)
  rw [Nat.succ_mul] at le
  exact le.trans fits

/-- Fields of different structures, or of different groups, stand apart. -/
theorem fields_apart {o : Core} {w : KWord} {f x y : Nat} (fits : VlFits o) (hx : x < f * o.vl) (hy : y < f * o.vl) :
    y = x ∨ fieldAt o w f x + sew o.et ≤ fieldAt o w f y ∨ fieldAt o w f y + sew o.et ≤ fieldAt o w f x := by
  have ex := element_in_group fits (structure_lt hx)
  have ey := element_in_group fits (structure_lt hy)
  unfold fieldAt
  rcases lt_trichotomy (x % f) (y % f) with lt | same | gt
  · have step := Nat.mul_le_mul_right o.g (Nat.succ_le_of_lt lt)
    rw [Nat.succ_mul] at step
    omega
  · rw [same]
    rcases elements_apart (sew o.et) (w.vd + y % f * o.g) (x / f) (y / f) with quot | apart
    · exact .inl (by rw [← Nat.div_add_mod y f, ← Nat.div_add_mod x f, quot, same])
    · exact .inr apart
  · have step := Nat.mul_le_mul_right o.g (Nat.succ_le_of_lt gt)
    rw [Nat.succ_mul] at step
    omega

/-- A field lies within the vector registers. -/
theorem field_fits {o : Core} {w : KWord} {f x : Nat} (fits : VlFits o) (room : w.vd + f * o.g ≤ 32) (hx : x < f * o.vl) :
    fieldAt o w f x + sew o.et ≤ 16384 := by
  have pos : 0 < f := Nat.pos_of_ne_zero fun e => by simp [e] at hx
  have ex := element_in_group fits (structure_lt hx)
  have step := Nat.mul_le_mul_right o.g (Nat.succ_le_of_lt (Nat.mod_lt x pos))
  rw [Nat.succ_mul] at step
  unfold fieldAt
  omega

theorem sew_bytes (et : Nat) : sew et = 8 * (sew et / 8) ∧ (sew et / 8 = 1 ∨ sew et / 8 = 2 ∨ sew et / 8 = 4 ∨ sew et / 8 = 8) := by
  unfold sew
  split <;> decide

/-! ## What a legal access is -/

theorem accessOk_parts {o : Core} {w : KWord} {f : Nat} {store : Bool} (ok : accessOk o w f store = true) :
    w.va ≤ 15 ∧ w.vd + f * o.g ≤ 32 ∧ o.xr w.va % (sew o.et / 8) = 0 := by
  simp only [accessOk, Bool.and_eq_true, decide_eq_true_eq, beq_iff_eq] at ok
  tauto

/-! ## Loads -/

/-- The vector registers behind a load of f fields from a window. -/
def loadVreg (win f : Nat) (o : Core) (w : KWord) : BitVec 16384 :=
  BitVec.ofNat 16384 (puts (fieldAt o w f) (sew o.et) (fun x => winElem win (sew o.et / 8) (o.xr w.va + x * (sew o.et / 8)))
    (fieldsOf o w f) o.vreg.toNat)

theorem loadFields_legal (kt : Tile) (f : Nat) {o : Core} (n : Kern) {w : KWord} (ok : accessOk o w f false = true) :
    loadFields kt f o n w = some (((({ o with vreg := loadVreg (n.window kt w.w).toNat f o w } : Core).bump w
      (f * o.vl * (sew o.et / 8))).next n), 0, 0) := by
  rw [loadVreg, fieldsOf, ← foldl_if_eq_puts]
  exact if_pos ok

/-- The offset register behind an access (R183). -/
theorem bump_eq (o : Core) (w : KWord) (b : Nat) : o.bump w b = { o with x := (o.bump w b).x } := by
  unfold Core.bump
  split_ifs
  · exact setX_eq _ _ _
  · rfl

theorem xr_bump (o : Core) (w : KWord) (b : Nat) :
    (w.p = true → w.va ≠ 0 → (o.bump w b).xr w.va = (o.xr w.va + b) % 2 ^ 32) ∧
    (w.p = false ∨ w.va = 0 → (o.bump w b).x = o.x) ∧ ∀ i ≠ w.va, (o.bump w b).xr i = o.xr i := by
  unfold Core.bump
  refine ⟨fun p va => ?_, fun still => ?_, fun i other => ?_⟩
  · rw [if_pos p, xr_setX_same _ va]
  · split_ifs with p
    · have zero := still.resolve_left (by simp [p])
      rw [Core.setX, if_pos zero]
    · rfl
  · split_ifs
    · exact xr_setX_other _ (.inl other)
    · rfl

theorem winElem_lt (win b off : Nat) : winElem win b off < 2 ^ (8 * b) := bits_lt _ _ _

theorem vget_loaded {win f i j : Nat} {o : Core} {w : KWord} (fits : VlFits o) (room : w.vd + f * o.g ≤ 32) (hi : i < o.vl)
    (hj : j < f) (active : active1 o.vreg.toNat w.m i = true) :
    vget (loadVreg win f o w).toNat (sew o.et) (w.vd + j * o.g) i =
      winElem win (sew o.et / 8) (o.xr w.va + (i * f + j) * (sew o.et / 8)) := by
  have mem := mem_fieldsOf_parts (w := w) hi hj active
  have lt := (mem_fieldsOf.1 mem).1
  obtain ⟨quot, rem⟩ := field_parts (i := i) hj
  have at_ : 512 * (w.vd + j * o.g) + i * sew o.et = fieldAt o w f (i * f + j) := by rw [fieldAt, quot, rem]
  rw [vget, at_, loadVreg, toNat_vreg, bits_low _ _ _ _ (field_fits fits room lt),
    bits_puts_mem _ mem fun y hy => fields_apart fits lt (mem_fieldsOf.1 hy).1]
  refine Nat.mod_eq_of_lt ?_
  rw [(sew_bytes o.et).1, Nat.mul_div_cancel_left _ (by norm_num)]
  exact winElem_lt _ _ _

/-- What a load of f fields leaves. -/
theorem load_acts {i : Instr} {k : CoreIx} {op f : Nat} {c : Cmd} {n : Kern} {w : KWord} (at_ : KernelAt s k.val op c n w)
    (row : exec i s = .next (s.kernRow k.val op (loadFields (s.kernTile k.val) f))) (fits : VlFits (s.core k.val))
    (ok : accessOk (s.core k.val) w f false = true) : Does i s fun t =>
      let o := s.core k.val
      let v := o.vreg.toNat
      let e := sew o.et
      let b := e / 8
      let win := (n.window (s.kernTile k.val) w.w).toNat
      (∀ i < o.vl, ∀ j < f, active1 v w.m i = true →
        vget (t.core k.val).vreg.toNat e (w.vd + j * o.g) i = winElem win b (o.xr w.va + (i * f + j) * b)) ∧
      (w.p = true → w.va ≠ 0 → (t.core k.val).xr w.va = (o.xr w.va + f * o.vl * b) % 2 ^ 32) ∧
      (w.p = false ∨ w.va = 0 → (t.core k.val).x = o.x) ∧ (∀ i ≠ w.va, (t.core k.val).xr i = o.xr i) ∧
      t.core k.val =
        { o with vreg := (t.core k.val).vreg, x := (t.core k.val).x, kern := some { n with pc := n.pc + 1 } } ∧
      Frame (KernRegs k.val) Nothing (· = k.val) Nothing s t ∧ Quiet s t := by
  obtain ⟨-, room, -⟩ := accessOk_parts ok
  refine ⟨_, row.trans (congrArg Host.Outcome.next (kernRow_legal at_ (loadFields_legal _ f n ok))), ?_⟩
  dsimp only
  rw [core_worded, next_eq, bump_eq]
  obtain ⟨moved, still, other⟩ := xr_bump ({ s.core k.val with
    vreg := loadVreg (n.window (s.kernTile k.val) w.w).toNat f (s.core k.val) w } : Core) w (f * (s.core k.val).vl *
      (sew (s.core k.val).et / 8))
  exact ⟨fun i hi j hj active => vget_loaded fits room hi hj active, moved, still, other, rfl, frame_worded _ _ _ _ _,
    quiet_worded _ _ _ _ _⟩

/-- The vector registers behind VLDB. -/
def spreadVreg (x : Nat) (o : Core) (w : KWord) : BitVec 16384 :=
  BitVec.ofNat 16384 (puts (fun i => 512 * w.vd + i * sew o.et) (sew o.et) (fun _ => x)
    ((upTo o.vl).filter (active1 o.vreg.toNat w.m)) o.vreg.toNat)

theorem vldb_acts {k : CoreIx} {c : Cmd} {n : Kern} {w : KWord} (at_ : KernelAt s k.val 0x33 c n w)
    (fits : VlFits (s.core k.val)) (ok : accessOk (s.core k.val) w 1 false = true) : Does (.vldb k) s fun t =>
      let o := s.core k.val
      let v := o.vreg.toNat
      let e := sew o.et
      let b := e / 8
      let win := (n.window (s.kernTile k.val) w.w).toNat
      (∀ i < o.vl, active1 v w.m i = true → vget (t.core k.val).vreg.toNat e w.vd i = winElem win b (o.xr w.va)) ∧
      (∀ j < 16384, Untouched v w.m o.vl e w.vd j → (t.core k.val).vreg.getLsbD j = o.vreg.getLsbD j) ∧
      (0 < o.vl → w.p = true → w.va ≠ 0 → (t.core k.val).xr w.va = (o.xr w.va + b) % 2 ^ 32) ∧
      t.core k.val =
        { o with vreg := (t.core k.val).vreg, x := (t.core k.val).x, kern := some { n with pc := n.pc + 1 } } ∧
      Frame (KernRegs k.val) Nothing (· = k.val) Nothing s t ∧ Quiet s t := by
  obtain ⟨-, room, -⟩ := accessOk_parts ok
  rcases Nat.eq_zero_or_pos (s.core k.val).vl with none | some_
  · have acts : exec (.vldb k) s = .next (s.worded k.val ((s.core k.val).next n) 0 0) :=
      congrArg Host.Outcome.next (kernRow_legal at_ (r := (_, 0, 0)) ((if_pos ok).trans (if_pos none)))
    refine ⟨_, acts, ?_⟩
    dsimp only
    rw [core_worded]
    exact ⟨fun i lt => absurd lt (by omega), fun _ _ _ => rfl, fun pos => absurd none pos.ne', rfl, frame_worded _ _ _ _ _,
      quiet_worded _ _ _ _ _⟩
  · set x := winElem (n.window (s.kernTile k.val) w.w).toNat (sew (s.core k.val).et / 8) ((s.core k.val).xr w.va) with hx
    have acts : exec (.vldb k) s = .next (s.worded k.val ((({ s.core k.val with vreg := spreadVreg x (s.core k.val) w } : Core).bump w
        (sew (s.core k.val).et / 8)).next n) 0 0) := by
      rw [spreadVreg, ← foldl_if_eq_puts]
      exact congrArg Host.Outcome.next (kernRow_legal at_ (r := (_, 0, 0)) ((if_pos ok).trans (if_neg some_.ne')))
    refine ⟨_, acts, ?_⟩
    dsimp only
    rw [core_worded, next_eq, bump_eq]
    obtain ⟨moved, -, -⟩ := xr_bump ({ s.core k.val with vreg := spreadVreg x (s.core k.val) w } : Core) w
      (sew (s.core k.val).et / 8)
    refine ⟨fun i lt active => ?_, fun j lt free => getLsbD_puts _ lt free, fun _ => moved, rfl, frame_worded _ _ _ _ _,
      quiet_worded _ _ _ _ _⟩
    have group := element_in_group fits lt
    refine (vget_puts (f := fun _ => x) lt active ?_).trans (Nat.mod_eq_of_lt ?_)
    · rw [Nat.add_one_mul i]
      omega
    · rw [(sew_bytes (s.core k.val).et).1]
      exact winElem_lt _ _ _

/-! ## Stores -/

/-- Where in the output window field x of an access stands. -/
def storeAt (o : Core) (w : KWord) (x : Nat) : Nat := 8 * ((o.xr w.va + x * (sew o.et / 8)) % 4096)

/-- The output window behind a store of f fields. -/
def storeWin (f : Nat) (o : Core) (n : Kern) (w : KWord) : BitVec 32768 :=
  BitVec.ofNat 32768 (puts (storeAt o w) (sew o.et) (fun x => vget o.vreg.toNat (sew o.et) (w.vd + x % f * o.g) (x / f))
    (fieldsOf o w f) n.wo.toNat)

theorem storeFields_legal (f : Nat) {o : Core} (n : Kern) {w : KWord} (ok : accessOk o w f true = true) :
    storeFields f o n w = some ((o.bump w (f * o.vl * (sew o.et / 8))).next { n with wo := storeWin f o n w }, 0, 0) := by
  rw [storeWin, fieldsOf, ← foldl_if_eq_puts]
  exact if_pos ok

/-- The bytes of an access are at most the window's. -/
theorem store_below {o : Core} {w : KWord} {f x : Nat} (fits : VlFits o) (room : w.vd + f * o.g ≤ 32) (hx : x < f * o.vl) :
    x * (sew o.et / 8) < 4096 := by
  obtain ⟨bytes, -⟩ := sew_bytes o.et
  have pos : 0 < sew o.et := sew_pos _
  have step := Nat.mul_le_mul_right (sew o.et) (Nat.succ_le_of_lt hx)
  have whole : f * o.vl * sew o.et ≤ 512 * (f * o.g) :=
    calc f * o.vl * sew o.et = f * (o.vl * sew o.et) := Nat.mul_assoc _ _ _
      _ ≤ f * (512 * o.g) := Nat.mul_le_mul_left f fits
      _ = 512 * (f * o.g) := by ring
  have eight : x * sew o.et = 8 * (x * (sew o.et / 8)) := by
    conv_lhs => rw [bytes]
    ring
  rw [Nat.succ_mul] at step
  omega

/-- Aligned fields in the window stand apart, and whole. -/
theorem store_apart {o : Core} {w : KWord} {x y : Nat} (aligned : o.xr w.va % (sew o.et / 8) = 0)
    (hx : x * (sew o.et / 8) < 4096) (hy : y * (sew o.et / 8) < 4096) :
    y = x ∨ storeAt o w x + sew o.et ≤ storeAt o w y ∨ storeAt o w y + sew o.et ≤ storeAt o w x := by
  obtain ⟨bytes, cases⟩ := sew_bytes o.et
  unfold storeAt
  generalize sew o.et / 8 = b at *
  rw [bytes]
  rcases cases with rfl | rfl | rfl | rfl <;> omega

theorem store_inside {o : Core} {w : KWord} (x : Nat) (aligned : o.xr w.va % (sew o.et / 8) = 0) :
    storeAt o w x + sew o.et ≤ 32768 := by
  obtain ⟨bytes, cases⟩ := sew_bytes o.et
  unfold storeAt
  generalize sew o.et / 8 = b at *
  rw [bytes]
  rcases cases with rfl | rfl | rfl | rfl <;> omega

theorem winElem_stored {f i j : Nat} {o : Core} {n : Kern} {w : KWord} (fits : VlFits o) (room : w.vd + f * o.g ≤ 32)
    (aligned : o.xr w.va % (sew o.et / 8) = 0) (hi : i < o.vl) (hj : j < f) (active : active1 o.vreg.toNat w.m i = true) :
    winElem (storeWin f o n w).toNat (sew o.et / 8) (o.xr w.va + (i * f + j) * (sew o.et / 8)) =
      vget o.vreg.toNat (sew o.et) (w.vd + j * o.g) i := by
  have mem := mem_fieldsOf_parts (w := w) hi hj active
  obtain ⟨quot, rem⟩ := field_parts (i := i) hj
  have at_ : 8 * ((o.xr w.va + (i * f + j) * (sew o.et / 8)) % 4096) = storeAt o w (i * f + j) := rfl
  rw [winElem, at_, ← (sew_bytes o.et).1, storeWin, BitVec.toNat_ofNat, bits_low _ _ _ _ (store_inside _ aligned),
    bits_puts_mem _ mem fun y hy => store_apart aligned (store_below fits room (mem_fieldsOf.1 mem).1)
      (store_below fits room (mem_fieldsOf.1 hy).1), quot, rem]
  exact Nat.mod_eq_of_lt (bits_lt _ _ _)

/-- A byte of the window that no field of an active structure covers is as it was. -/
theorem byte_stored_other {f y : Nat} {o : Core} {n : Kern} {w : KWord} (aligned : o.xr w.va % (sew o.et / 8) = 0) (hy : y < 4096)
    (free : ∀ i < o.vl, ∀ j < f, active1 o.vreg.toNat w.m i = true → ∀ z < sew o.et / 8,
      y ≠ (o.xr w.va + (i * f + j) * (sew o.et / 8) + z) % 4096) :
    bits (storeWin f o n w).toNat (8 * y) 8 = bits n.wo.toNat (8 * y) 8 := by
  rw [storeWin, BitVec.toNat_ofNat, bits_low _ _ _ _ (by omega), bits_puts_other]
  intro x hx
  obtain ⟨lt, active⟩ := mem_fieldsOf.1 hx
  have pos : 0 < f := Nat.pos_of_ne_zero fun e => by simp [e] at lt
  have parts : x / f * f + x % f = x := by rw [Nat.mul_comm]; exact Nat.div_add_mod x f
  have away := free (x / f) (structure_lt lt) (x % f) (Nat.mod_lt x pos) active
  rw [parts] at away
  obtain ⟨bytes, cases⟩ := sew_bytes o.et
  unfold storeAt
  generalize sew o.et / 8 = b at *
  rw [bytes]
  by_contra meets
  refine away (y - (o.xr w.va + x * b) % 4096) ?_ ?_
  · omega
  · rcases cases with rfl | rfl | rfl | rfl <;> omega

/-- What a store of f fields leaves. -/
theorem store_acts {i : Instr} {k : CoreIx} {op f : Nat} {c : Cmd} {n : Kern} {w : KWord} (at_ : KernelAt s k.val op c n w)
    (row : exec i s = .next (s.kernRow k.val op (storeFields f))) (fits : VlFits (s.core k.val))
    (ok : accessOk (s.core k.val) w f true = true) : Does i s fun t =>
      let o := s.core k.val
      let v := o.vreg.toNat
      let e := sew o.et
      let b := e / 8
      (∃ n', (t.core k.val).kern = some n' ∧ n'.pc = n.pc + 1 ∧ n'.w0 = n.w0 ∧ n'.w1 = n.w1 ∧
        (∀ i < o.vl, ∀ j < f, active1 v w.m i = true →
          winElem n'.wo.toNat b (o.xr w.va + (i * f + j) * b) = vget v e (w.vd + j * o.g) i) ∧
        (∀ y < 4096, (∀ i < o.vl, ∀ j < f, active1 v w.m i = true → ∀ z < b,
            y ≠ (o.xr w.va + (i * f + j) * b + z) % 4096) → bits n'.wo.toNat (8 * y) 8 = bits n.wo.toNat (8 * y) 8)) ∧
      (t.core k.val).vreg = o.vreg ∧ Frame (KernRegs k.val) Nothing (· = k.val) Nothing s t ∧ Quiet s t := by
  obtain ⟨-, room, aligned⟩ := accessOk_parts ok
  refine ⟨_, row.trans (congrArg Host.Outcome.next (kernRow_legal at_ (storeFields_legal f n ok))), ?_⟩
  dsimp only
  rw [core_worded, next_eq, bump_eq]
  exact ⟨⟨_, rfl, rfl, rfl, rfl, fun i hi j hj active => winElem_stored fits room aligned hi hj active,
    fun y hy free => byte_stored_other aligned hy free⟩, rfl, frame_worded _ _ _ _ _, quiet_worded _ _ _ _ _⟩

/-- Settles O21: loads by `load_acts` and `vldb_acts`, stores by `store_acts`. -/
theorem vectLoadsAndStores : Obligations.VectLoadsAndStores := by
  unfold Obligations.VectLoadsAndStores
  refine ⟨fun k s c n w => ?_, fun k s c n w => ?_⟩
  · intro o v e b win
    refine ⟨fun x hx => ?_, vldb_acts⟩
    simp only [List.mem_cons, List.not_mem_nil, or_false] at hx
    rcases hx with rfl | rfl | rfl | rfl
    · exact fun at_ => load_acts at_ rfl
    · exact fun at_ => load_acts at_ rfl
    · exact fun at_ => load_acts at_ rfl
    · exact fun at_ => load_acts at_ rfl
  · intro o v e b x hx
    simp only [List.mem_cons, List.not_mem_nil, or_false] at hx
    rcases hx with rfl | rfl | rfl | rfl
    · exact fun at_ => store_acts at_ rfl
    · exact fun at_ => store_acts at_ rfl
    · exact fun at_ => store_acts at_ rfl
    · exact fun at_ => store_acts at_ rfl

end Sys2Proof
end

section
/-! PROOFS. The whole block: a step, and what reset leaves (R11, R29, R32). -/

namespace Sys2Proof

open Machine

variable {s t : State}

/-! ## A step -/

theorem demand_putError (s : State) (k ecc sev : Nat) (hard : Bool) : Demand s (s.putError k ecc sev hard) := by
  unfold State.putError
  split_ifs
  · exact .refl s
  · exact ⟨fun _ _ => rfl, fun _ => ⟨_, _, _, rfl⟩, ⟨[], by simp⟩, rfl⟩

theorem demand_landFills (s : State) (i : Nat) (p : GLine → Bool) : Demand s (s.landFills i p) :=
  Demand.foldl _ (fun s g => demand_landFill s i g) _ s

/-- What HBM and its granary do in their own time is what an access may do (assumption 88). -/
theorem memoryTime_eq (s : State) : ∃ u, Demand s.spend u ∧ s.memoryTime = u := by
  unfold State.memoryTime
  dsimp only
  split
  · exact ⟨_, demand_landFills _ _ _, rfl⟩
  · split_ifs
    · exact ⟨_, demand_putError _ _ _ _ _, rfl⟩
    · exact ⟨_, .refl _, rfl⟩
  · exact ⟨_, .refl _, rfl⟩

theorem memoryTime_frame (s : State) : MemFrame Nothing Nothing Nothing Nothing s s.memoryTime ∧ Calm s s.memoryTime ∧
    s.memoryTime.mem = s.mem := by
  obtain ⟨u, d, e⟩ := memoryTime_eq s
  rw [e]
  exact ⟨(frame_spend s).mem_frame.trans d.mem_frame, (Quiet.calm ⟨rfl, rfl, rfl⟩ : Calm s s.spend).trans d.calm, d.mem⟩

/-- Settles O56: on an empty queue the clocks advance, and the rest is `memoryTime_frame`. -/
theorem stepTakesTheFrontCommand : Obligations.StepTakesTheFrontCommand := by
  unfold Obligations.StepTakesTheFrontCommand
  refine ⟨fun c rest s front => ?_, fun s empty => ?_⟩
  · rw [step, front]
  · obtain ⟨frame, calm, mem⟩ := memoryTime_frame s
    obtain ⟨-, -, time, clock, -⟩ := frame.rest
    refine ⟨s.tick, by rw [step, empty], rfl, rfl, mem, ?_, calm⟩
    have same : ({ s.tick with clock := s.clock, time := s.time } : State) = s.memoryTime := by
      rw [← time, ← clock]
      rfl
    rw [same]
    exact frame

/-! ## Reset -/

theorem reg_reset (a : Nat) : State.reset.reg a = Reg.reset a := rfl

/-- A register of a suit's window after reset. -/
theorem reg_reset_suit (i : Nat) {o : Nat} (lt : o < 0x01000000) : State.reset.reg (suitBase i + o) = Reg.resetSuit o :=
  reset_suitBase lt

theorem reg_reset_suitRegs (i : Nat) : State.reset.reg (Reg.granCtl i) = 0x00010101 ∧ State.reset.reg (Reg.hbmCtl i) = 0x00080101 ∧
    State.reset.reg (Reg.reeveCtl i) = 0x0A004000 ∧ State.reset.reg (Reg.reeveStat i) = 0x0F000000 ∧
    State.reset.reg (Reg.bridgeEnd (2 * i)) = 0x01000000 ∧ State.reset.reg (Reg.bridgeEnd (2 * i + 1)) = 0x01000000 := by
  have low : Reg.bridgeEnd (2 * i) = suitBase i + 0x10000 := by
    rw [Reg.bridgeEnd, show 2 * i / 2 = i by omega, show 2 * i % 2 = 0 by omega]
  have high : Reg.bridgeEnd (2 * i + 1) = suitBase i + 0x10004 := by
    rw [Reg.bridgeEnd, show (2 * i + 1) / 2 = i by omega, show (2 * i + 1) % 2 = 1 by omega]
  rw [low, high]
  exact ⟨reg_reset_suit i (by norm_num), reg_reset_suit i (by norm_num), reg_reset_suit i (by norm_num),
    reg_reset_suit i (by norm_num), reg_reset_suit i (by norm_num), reg_reset_suit i (by norm_num)⟩

theorem reg_reset_manorRegs : State.reset.reg Reg.cfgCtl = 0x000A0000 ∧ State.reset.reg Reg.dealerCtl = 0x00320C80 ∧
    State.reset.reg Reg.bellCtl = 1 ∧ State.reset.reg Reg.mgmtStat = 0x60000000 ∧ State.reset.reg Reg.bootStat = 0x10000000 ∧
    State.reset.reg Reg.pwrLimit = 0x04B002BC :=
  ⟨rfl, rfl, rfl, rfl, rfl, rfl⟩

/-- The reset state holds nothing and is in canonical form. -/
theorem reset_empty : State.reset.pending = [] ∧ Safe State.reset ∧ (∀ e ∈ State.reset.cores, VlFits e.2) ∧
    State.reset.job.run = false ∧ State.reset.bell.cuts = [] ∧ State.reset.net = [] ∧ ∀ a, Memory.byte State.reset.mem a = 0 :=
  ⟨rfl, ⟨rfl, rfl, rfl, List.Pairwise.nil, List.Pairwise.nil⟩, (fun _ e => by cases e), rfl, rfl, rfl, fun _ => rfl⟩

theorem reg_reset_handRegs (h : HandIx) : State.reset.reg (Reg.seqCtl h.val) = 0x00006401 ∧
    State.reset.reg (Reg.pivotCtl h.val) = 0x28 ∧ State.reset.reg (Reg.handObsCtl h.val) = 0x040003FE ∧
    ∀ c < 64, State.reset.evc h.val c = 0 := by
  refine ⟨reset_handBase (q := 0) h (by norm_num), (reset_handBase (q := 0x200) h (by norm_num)).trans rfl,
    (reset_handBase (q := 0x1000) h (by norm_num)).trans rfl, fun c hc => ?_⟩
  have word : Reg.evc h.val c = handBase h.val + (0x100 + 4 * c) := by rw [Reg.evc, Nat.add_assoc]
  rw [State.evc, word, reg_reset, reset_handBase h (by omega), Reg.resetHand, if_neg (by omega), if_neg (by omega),
    if_neg (by omega), if_neg (by omega)]

theorem reg_reset_coreRegs (k : CoreIx) : State.reset.reg (Reg.cubeCtl k.val) = 0x40 ∧
    State.reset.reg (Reg.cubeStat k.val) = 0x00800000 ∧ State.reset.reg (Reg.vectCtl k.val) = 0x8001 ∧
    State.reset.reg (Reg.vectStat k.val) = 0x40000000 := by
  have word : ∀ w < 0x2000, State.reset.reg (coreBase k.val + w) = Reg.resetCore w := fun w lt =>
    (reg_reset _).trans (reset_coreBase k lt)
  unfold Reg.cubeCtl Reg.cubeStat Reg.vectCtl Reg.vectStat
  rw [word 0x100 (by norm_num), word 0x104 (by norm_num), word 0x200 (by norm_num), word 0x204 (by norm_num)]
  exact ⟨rfl, rfl, rfl, rfl⟩

/-- Settles O58: no register of the reset state is written, so each reads its reset word. -/
theorem resetLeavesTheModule : Obligations.ResetLeavesTheModule := by
  unfold Obligations.ResetLeavesTheModule
  obtain ⟨pending, safe, cores, run, cuts, net, mem⟩ := reset_empty
  obtain ⟨cfg, dealer, bell, mgmt, boot, limit⟩ := reg_reset_manorRegs
  exact ⟨pending, safe, cores, run, cuts, net, mem, cfg, dealer, bell, mgmt, boot, limit, fun i _ => reg_reset_suitRegs i,
    fun h lt => reg_reset_handRegs ⟨h, lt⟩, fun k lt => reg_reset_coreRegs ⟨k, lt⟩⟩

end Sys2Proof
end

section
/-! PROOFS. Credits on their way, and the duty of a cube (R59, R162, R164 to R166, R583). -/

namespace Sys2Proof

open Machine

variable {s t : State}

/-! ## Ports -/

theorem port_setPort_same (c : Core) (p : Nat) (v : Port) : (c.setPort p v).port p = v := PMap.get_put_same _ _ _ _

theorem port_setPort_other (c : Core) {p q : Nat} (v : Port) (n : q ≠ p) : (c.setPort p v).port q = c.port q :=
  PMap.get_put_other _ _ _ n

section
variable {k : CoreIx}

theorem exec_creditReturn_port {p : Nat} (local_ : p < 8) (way : 0 < ((s.core k.val).port p).returning) :
    exec (.creditReturn k p) s = .next (s.setCore k.val ((s.core k.val).setPort p { (s.core k.val).port p with
      returning := ((s.core k.val).port p).returning - 1, credits := ((s.core k.val).port p).credits + 1 })) := by
  show execCreditReturn k p s = _
  exact congrArg Host.Outcome.next ((if_pos local_).trans (if_pos way))

theorem creditReturn_port {p : Nat} (local_ : p < 8) (way : 0 < ((s.core k.val).port p).returning) :
    Does (.creditReturn k p) s fun t =>
      ((t.core k.val).port p).credits = ((s.core k.val).port p).credits + 1 ∧
      ((t.core k.val).port p).returning = ((s.core k.val).port p).returning - 1 ∧
      ((t.core k.val).port p).count = ((s.core k.val).port p).count ∧ Frame Nothing Nothing (· = k.val) Nothing s t ∧ Quiet s t := by
  refine ⟨_, exec_creditReturn_port local_ way, ?_⟩
  dsimp only
  rw [State.core_setCore, if_pos rfl, port_setPort_same]
  exact ⟨rfl, rfl, rfl, frame_setCore_self _ _ _, rfl, rfl, rfl⟩

theorem creditReturn_tally {x : Nat} {l : List Nat} (way : (s.core k.val).tallyRet = x :: l) : Does (.creditReturn k 9) s fun t =>
    (t.core k.val).tallyRet = l ∧ Frame Nothing Nothing (· = k.val) Nothing s t ∧ Quiet s t := by
  have acts : exec (.creditReturn k 9) s =
      .next (s.setCore k.val { s.core k.val with tallyRet := (s.core k.val).tallyRet.drop 1 }) := rfl
  refine ⟨_, acts, ?_, frame_setCore_self _ _ _, rfl, rfl, rfl⟩
  rw [State.core_setCore, if_pos rfl, way]
  rfl

/-! ## The duty of a cube (R164 to R166) -/

/-- The ramp-down begins behind the dummy cycles counted. -/
theorem gapFillEnd_ramps (fills : s.filling k.val = true) (ramp : (s.core k.val).ramp ≠ 2) : Does (.gapFillEnd k) s fun t =>
    (t.core k.val).ramp = 2 ∧ t.duty k.val = s.duty k.val ∧
    t.reg (Reg.gapfill k.val) = s.reg (Reg.gapfill k.val) + BitVec.ofNat 32 (s.gapFill k.val * s.duty k.val / 8) ∧
    Frame (· = Reg.gapfill k.val) Nothing (· = k.val) Nothing s t ∧ Quiet s t := by
  have acts : exec (.gapFillEnd k) s =
      .next ((s.addGapfill k.val (s.gapFill k.val * s.duty k.val / 8)).setCore k.val { s.core k.val with ramp := 2 }) :=
    congrArg Host.Outcome.next (if_pos ⟨fills, ramp⟩)
  have counted := frame_add32 (R := (· = Reg.gapfill k.val)) (H := Nothing) (C := (· = k.val)) (M := Nothing) s
    (Reg.gapfill k.val) (s.gapFill k.val * s.duty k.val / 8) rfl
  refine ⟨_, acts, by simp, ?_, ?_, counted.trans (frame_setCore_self _ _ _), rfl, rfl, rfl⟩
  · exact State.field_congr (counted.reg _ (by unfold Reg.cubeStat Reg.gapfill; omega)) 24 4
  · rw [State.reg_setCore, State.addGapfill, State.add32, State.reg_setReg, if_pos rfl]

/-- What a step of the duty leaves. -/
theorem setDuty_sets (s : State) (k d ramp : Nat) (lt : d < 16) : (s.setDuty k d ramp).duty k = d ∧
    ((s.setDuty k d ramp).core k).ramp = ramp ∧ Quiet s (s.setDuty k d ramp) ∧
    Frame (· = Reg.cubeStat k) Nothing (· = k) Nothing s (s.setDuty k d ramp) := by
  refine ⟨?_, by simp [State.setDuty], ⟨rfl, rfl, rfl⟩, (frame_setField (R := (· = Reg.cubeStat k)) _ _ _ _ _ rfl).trans (frame_setCore_self _ _ _)⟩
  exact (State.field_setField s (Reg.cubeStat k) 24 4 d (by norm_num)).trans (Nat.mod_eq_of_lt lt)

theorem duty_lt (s : State) (k : Nat) : s.duty k < 16 := bits_lt _ _ _

theorem dutyTop_le (s : State) (k : Nat) : s.dutyTop k ≤ 8 := min_le_left _ _

/-- The duty step by its cases: a ramp-down with nothing to issue, a duty above the cap, one below it with work, and rest. -/
theorem exec_dutyStep (k : CoreIx) (s : State) : exec (.dutyStep k) s = .next
    (if s.cubeReady k.val = [] ∧ (s.core k.val).ramp = 2 ∧ 0 < s.duty k.val then
      (s.addGapfill k.val (4 * s.duty k.val)).setDuty k.val (s.duty k.val - 1) (if s.duty k.val = 1 then 0 else 2)
    else if s.dutyTop k.val < s.duty k.val then s.setDuty k.val (s.duty k.val - 1) (s.core k.val).ramp
    else if s.cubeReady k.val ≠ [] ∧ s.duty k.val < s.dutyTop k.val then
      s.setDuty k.val (s.duty k.val + 1) (if s.duty k.val + 1 = s.dutyTop k.val then 0 else 3)
    else s) := by
  show execDutyStep k s = _
  unfold execDutyStep
  dsimp only
  by_cases idle : s.cubeReady k.val = []
  · simp [idle]
  · simp [idle]

theorem dutyStep_ramps_down (idle : s.cubeReady k.val = []) (pos : 0 < s.duty k.val) (ramp : (s.core k.val).ramp = 2) :
    Does (.dutyStep k) s fun t =>
      t.duty k.val = s.duty k.val - 1 ∧ (s.duty k.val = 1 → (t.core k.val).ramp = 0) ∧
      Frame (fun a => a = Reg.gapfill k.val ∨ a = Reg.cubeStat k.val) Nothing (· = k.val) Nothing s t ∧ Quiet s t := by
  have acts := exec_dutyStep k s
  rw [if_pos ⟨idle, ramp, pos⟩] at acts
  have lt := duty_lt s k.val
  obtain ⟨duty, ramp', quiet, frame⟩ := setDuty_sets (s.addGapfill k.val (4 * s.duty k.val)) k.val (s.duty k.val - 1)
    (if s.duty k.val = 1 then 0 else 2) (by omega)
  refine ⟨_, acts, duty, fun one => ramp'.trans (if_pos one), ?_, quiet⟩
  exact (frame_add32 _ _ _ (.inl rfl)).trans (frame.mono (fun _ => .inr) (fun _ => id) (fun _ => id) (fun _ => id))

theorem dutyStep_ramps_up (work : s.cubeReady k.val ≠ []) (below : s.duty k.val < s.dutyTop k.val) : Does (.dutyStep k) s fun t =>
    t.duty k.val = s.duty k.val + 1 ∧ Frame (· = Reg.cubeStat k.val) Nothing (· = k.val) Nothing s t ∧ Quiet s t := by
  have acts := exec_dutyStep k s
  rw [if_neg (fun h => work h.1), if_neg (by omega), if_pos ⟨work, below⟩] at acts
  have top := dutyTop_le s k.val
  obtain ⟨duty, -, quiet, frame⟩ := setDuty_sets s k.val (s.duty k.val + 1)
    (if s.duty k.val + 1 = s.dutyTop k.val then 0 else 3) (by omega)
  exact ⟨_, acts, duty, frame, quiet⟩

theorem dutyStep_lowers (above : s.dutyTop k.val < s.duty k.val) (still : s.cubeReady k.val ≠ [] ∨ (s.core k.val).ramp ≠ 2) :
    Does (.dutyStep k) s fun t =>
      t.duty k.val = s.duty k.val - 1 ∧ Frame (· = Reg.cubeStat k.val) Nothing (· = k.val) Nothing s t ∧ Quiet s t := by
  have acts := exec_dutyStep k s
  rw [if_neg (fun ⟨idle, ramp, _⟩ => still.elim (· idle) (· ramp)), if_pos above] at acts
  have lt := duty_lt s k.val
  obtain ⟨duty, -, quiet, frame⟩ := setDuty_sets s k.val (s.duty k.val - 1) (s.core k.val).ramp (by omega)
  exact ⟨_, acts, duty, frame, quiet⟩

theorem dutyStep_rests (idle : s.cubeReady k.val = []) (ramp : (s.core k.val).ramp ≠ 2) (le : s.duty k.val ≤ s.dutyTop k.val) :
    Does (.dutyStep k) s fun t => t = s := by
  have acts := exec_dutyStep k s
  rw [if_neg (fun ⟨_, two, _⟩ => ramp two), if_neg (by omega), if_neg (fun ⟨work, _⟩ => work idle)] at acts
  exact ⟨_, acts, rfl⟩

end

/-- Settles O16, case by case. -/
theorem creditsAndDuty : Obligations.CreditsAndDuty := by
  unfold Obligations.CreditsAndDuty
  exact fun k s => ⟨fun p => creditReturn_port, fun x l => creditReturn_tally, gapFillEnd_ramps, dutyStep_ramps_down,
    dutyStep_ramps_up, dutyStep_lowers, dutyStep_rests⟩

end Sys2Proof
end

section
/-! PROOFS. Mirror bindings and received signals (R80, R83, R262). -/

namespace Sys2Proof

open Machine

variable {s t : State}

/-! ## Packets found by what they are -/

/-- The first packet of a kind, behind packets that are none. -/
theorem find_append_cons {α : Type} {a b : List α} {p : α} (f : α → Bool) (here : f p = true) (before : ∀ q ∈ a, f q = false) :
    (a ++ p :: b).find? f = some p := by
  rw [List.find?_append, List.find?_eq_none.2 fun q hq => by simp [before q hq], List.find?_cons, here]
  rfl

/-- The packet that is taken is the one found: none before it is the same. -/
theorem erase_append_cons {a b : List Packet} {p : Packet} (before : p ∉ a) : (a ++ p :: b).erase p = a ++ b := by
  rw [List.erase_append_right _ before, List.erase_cons_head]

theorem frame_setNet {R H C M : Nat → Prop} (s : State) (l : List Packet) : Frame R H C M s { s with net := l } :=
  ⟨rfl, rfl, rfl, fun _ _ => rfl, fun _ _ => rfl, fun _ _ => rfl, fun _ _ => rfl, by simp⟩

/-! ## MIRROR -/

/-- Every hand loses its bindings of a mirror. -/
def Machine.State.unbind (s : State) (m mir : Nat) : State :=
  { s with hands := s.hands.map fun (e : Nat × Hand) => (e.1, { e.2 with binds := e.2.keepBinds m mir }) }

theorem get_map_val {α : Type} (f : α → α) (d : α) (fd : f d = d) (l : PMap α) (k : Nat) :
    PMap.get d (l.map fun e => (e.1, f e.2)) k = f (PMap.get d l k) := by
  induction l with
  | nil => exact fd.symm
  | cons e l ih =>
    simp only [PMap.get, List.map_cons]
    split_ifs
    · rfl
    · exact fd.symm
    · exact ih

theorem hand_unbind (s : State) (m mir j : Nat) :
    (s.unbind m mir).hand j = { s.hand j with binds := (s.hand j).keepBinds m mir } :=
  get_map_val (fun d : Hand => { d with binds := d.keepBinds m mir }) {} rfl s.hands j

theorem frame_unbind {R C M : Nat → Prop} (s : State) (m mir : Nat) : Frame R (fun _ => True) C M s (s.unbind m mir) :=
  ⟨rfl, rfl, rfl, fun _ _ => rfl, fun _ n => absurd trivial n, fun _ _ => rfl, fun _ _ => rfl, by simp [State.unbind]⟩

section
variable {m : MillIx} {va h : Nat} {r : BitVec 512}

/-- The mirror bound to hand h, its record in the Mill's queue. -/
def Machine.State.bindMirror (s : State) (m va h : Nat) (r : BitVec 512) : State :=
  let b := (s.unbind m (Record.argBits r 0 5)).traceBegin 8 m r 0
  let d := b.setHand h { (s.unbind m (Record.argBits r 0 5)).hand h with
    binds := (s.hand h).keepBinds m (Record.argBits r 0 5) ++
      [{ mill := m, mir := Record.argBits r 0 5, ctr := Record.argBits r 8 6 }] }
  (d.millPop m).setMill m { (d.millPop m).mill m with
    q := ((d.millPop m).mill m).q ++ [{ r := r, va := va, begun := true, tBegin := s.now (640 + m) }] }

theorem exec_mirror (head : s.millHead m.val 3 = .ready va r) (hand : epToHand (Record.argBits r 16 16) = some h) :
    exec (.mirror m) s = .next (if 8 ≤ ((s.hand h).keepBinds m.val (Record.argBits r 0 5)).length then s.millStop m.val va
      else s.bindMirror m.val va h r) := by
  show execMirror m s = _
  unfold execMirror
  simp only [head, hand]
  rfl

theorem bindMirror_binds (s : State) (m va h : Nat) (r : BitVec 512) :
    let t := s.bindMirror m va h r
    (t.hand h).binds = (s.hand h).keepBinds m (Record.argBits r 0 5) ++
      [{ mill := m, mir := Record.argBits r 0 5, ctr := Record.argBits r 8 6 }] ∧
    (t.mill m).buf = (s.mill m).buf.drop 1 ∧
    (∃ c, (t.mill m).q = (s.mill m).q ++ [c] ∧ c.r = r ∧ c.va = va ∧ c.complete = false) ∧
    (∀ j, j ≠ h → t.hand j = { s.hand j with binds := (s.hand j).keepBinds m (Record.argBits r 0 5) }) ∧
    Frame Nothing (fun _ => True) Nothing (· = m) s t ∧ Quiet s t := by
  intro t
  have began : Frame Nothing Nothing Nothing (· = m) (s.unbind m (Record.argBits r 0 5))
      ((s.unbind m (Record.argBits r 0 5)).traceBegin 8 m r 0) :=
    frame_traceBegin _ 8 m r 0 (fun n => absurd rfl n) (fun n => absurd rfl n) (fun _ => rfl)
  have ring := (traced_traceBegin (s.unbind m (Record.argBits r 0 5)) 8 m r 0)
  have mill : ((s.unbind m (Record.argBits r 0 5)).mill m).RingOnly
      (((s.unbind m (Record.argBits r 0 5)).traceBegin 8 m r 0).mill m) := ring.mill m
  have q : (((s.unbind m (Record.argBits r 0 5)).traceBegin 8 m r 0).mill m).q = (s.mill m).q := by
    rw [show _ = _ from mill]
    rfl
  refine ⟨by simp [t, State.bindMirror, State.millPop], ?_, ⟨{ r := r, va := va, begun := true, tBegin := s.now (640 + m) }, ?_, rfl, rfl, rfl⟩,
    fun j n => ?_, ?_, ?_⟩
  · simp only [t, State.bindMirror, State.millPop, State.mill_setMill, if_true, State.mill_setHand]
    rw [mill.buf]
    rfl
  · simp only [t, State.bindMirror, State.millPop, State.mill_setMill, if_true, State.mill_setHand]
    rw [q]
  · simp only [t, State.bindMirror, State.millPop, State.hand_setMill, State.hand_setHand, if_neg n]
    rw [began.hand j id, hand_unbind]
  · have bound := (frame_unbind (R := Nothing) (C := Nothing) (M := (· = m)) s m (Record.argBits r 0 5)).trans
      (began.mono (fun _ => id) (fun _ => False.elim) (fun _ => id) (fun _ => id))
    exact ((bound.trans (frame_setHand _ _ _ trivial)).trans (frame_setMill_self _ _ _)).trans (frame_setMill_self _ _ _)
  · exact (show Quiet s (s.unbind m (Record.argBits r 0 5)) from ⟨rfl, rfl, rfl⟩).trans (ring.quiet.trans ⟨rfl, rfl, rfl⟩)

/-- A Mill that stops is halted, flagged and reported (R303, R432). -/
theorem millStop_stops (s : State) (m va : Nat) : ((s.millStop m va).mill m).halted = true ∧
    (s.millStop m va).flag (Reg.millStat m) 28 = true ∧ Notice.millStop m va ∈ (s.millStop m va).recov.notices ∧
    (∀ j, (s.millStop m va).hand j = s.hand j) ∧ (s.millStop m va).mem = s.mem ∧ (s.millStop m va).bell.cuts ≠ [] := by
  unfold State.millStop
  dsimp only
  obtain ⟨r, b, c, j, e, cuts, reg⟩ := reeveStop_rung
    (((s.setMill m { s.mill m with halted := true }).setBit (Reg.millStat m) 28).note (.millStop m va))
  refine ⟨?_, ?_, ?_, fun j => ?_, ?_, cuts_reeveStop _⟩
  · rw [e]
    change (((s.setMill m { s.mill m with halted := true }).setBit (Reg.millStat m) 28).mill m).halted = true
    simp [State.setBit, State.setField]
  · refine (State.flag_congr (reg _ ?_) 28).trans (State.flag_setBit _ _ 28 (by norm_num))
    simp only [Reg.millStat, Reg.bellStat, millBase, suitBase]
    omega
  · rw [State.recov_reeveStop]
    simp [State.note]
  · rw [State.hand_reeveStop]
    rfl
  · rw [State.mem_reeveStop]
    rfl

end

/-! ## What a hand sends, and what a Mill takes -/

section
variable {h : HandIx} {x : Bind} {b : Fin 8}

theorem mirrorSend_sends (bind : (s.hand h.val).binds[b.val]? = some x) (runs : s.handStopped h.val = false) :
    let v := s.evc h.val x.ctr
    (x.sent ≠ some v → Does (.mirrorSend h b) s fun t =>
      t.net = s.net ++ [ctlPacket (epHand h.val 25) (epMill x.mill) h.val (.mirror x.mir v)] ∧
      (t.hand h.val).binds = (s.hand h.val).binds.set b.val { x with sent := some v } ∧ t.recov = s.recov ∧
      Frame Nothing (· = h.val) Nothing Nothing s t) ∧
    (x.sent = some v → Does (.mirrorSend h b) s fun t => t = s) := by
  intro v
  have acts : exec (.mirrorSend h b) s = .next (if x.sent = some v ∨ s.handStopped h.val then s
      else (s.setHand h.val { s.hand h.val with binds := (s.hand h.val).binds.set b.val { x with sent := some v } }).send
        (epHand h.val 25) (epMill x.mill) 3 h.val (.mirror x.mir v)) := by
    show execMirrorSend h b s = _
    unfold execMirrorSend
    rw [bind]
  refine ⟨fun new => ?_, fun old => ?_⟩
  · rw [if_neg (by simp [new, runs])] at acts
    exact ⟨_, acts, rfl, by simp, rfl, (frame_setHand_self _ _ _).trans (frame_send _ _ _ _ _ _)⟩
  · rw [if_pos (.inl old)] at acts
    exact ⟨_, acts, rfl⟩

end

section
variable {m : MillIx} {mirror : BitVec 5} {p : Packet} {v : W32} {a b : List Packet}

/-- The MIRROR records of a mirror are complete. -/
def completeMirror (k : Nat) (c : Cmd) : Cmd :=
  if Record.opcode c.r = 3 ∧ Record.argBits c.r 0 5 = k then { c with complete := true } else c

theorem completeMirror_parts (k : Nat) (c : Cmd) : (completeMirror k c).r = c.r ∧
    (completeMirror k c).complete = (c.complete || (Record.opcode c.r == 3 && Record.argBits c.r 0 5 == k)) := by
  unfold completeMirror
  split_ifs with mine
  · exact ⟨rfl, by simp [mine.1, mine.2]⟩
  · refine ⟨rfl, ?_⟩
    have other : (Record.opcode c.r == 3 && Record.argBits c.r 0 5 == k) = false := by
      rw [Bool.and_eq_false_iff, beq_eq_false_iff_ne, beq_eq_false_iff_ne]
      tauto
    rw [other, Bool.or_false]

/-- A value taken from a packet becomes the mirror's. -/
def Machine.State.mirrorTaken (s : State) (m k : Nat) (v : W32) : State :=
  let b := s.setReg (Reg.millEvc m (32 + k)) v
  b.setMill m { b.mill m with q := (b.mill m).q.map (completeMirror k) }

/-- The sender of a packet is the hand that serves a mirror. -/
def Machine.State.servedBy (s : State) (m k src : Nat) : Bool :=
  match epToHand src with
  | some h => (s.hand h).serves m k
  | none => false

theorem exec_mirrorUpdate (net : s.net = a ++ p :: b) (arrived : p.arrived = true) (dest : p.dest.toNat = epMill m.val)
    (msg : p.msg = .mirror mirror.toNat v)
    (first : ∀ q ∈ a, q.arrived = true → q.dest = p.dest → ∀ w, q.msg ≠ .mirror mirror.toNat w) :
    exec (.mirrorUpdate m mirror) s = .next (if s.servedBy m.val mirror.toNat p.src.toNat then
      ({ s with net := a ++ b } : State).mirrorTaken m.val mirror.toNat v else { s with net := a ++ b }) := by
  have alone : p ∉ a := fun mem => first p mem arrived rfl v msg
  show execMirrorUpdate m mirror s = _
  unfold execMirrorUpdate
  dsimp only
  rw [net, find_append_cons _ (by simp [arrived, dest, msg])]
  · dsimp only
    rw [msg]
    dsimp only
    rw [erase_append_cons alone]
    unfold State.servedBy
    cases epToHand p.src.toNat with
    | none => rfl
    | some h =>
      cases hs : (s.hand h).serves m.val mirror.toNat
      · simp only [hs, Bool.not_false, if_true, Bool.false_eq_true, if_false]
      · simp only [hs, Bool.not_true, Bool.false_eq_true, if_true, if_false]
        rfl
  · intro q hq
    by_contra mine
    simp only [Bool.not_eq_false, Bool.and_eq_true, beq_iff_eq] at mine
    obtain ⟨⟨arr, to_⟩, kind⟩ := mine
    cases qm : q.msg with
    | mirror k w =>
      rw [qm] at kind
      have same : k = mirror.toNat := by simpa using kind
      exact first q hq arr (BitVec.eq_of_toNat_eq (to_.trans dest.symm)) w (by rw [qm, same])
    | _ => simp [qm] at kind

theorem mirrorUpdate_takes (net : s.net = a ++ p :: b) (arrived : p.arrived = true) (dest : p.dest.toNat = epMill m.val)
    (msg : p.msg = .mirror mirror.toNat v)
    (first : ∀ q ∈ a, q.arrived = true → q.dest = p.dest → ∀ w, q.msg ≠ .mirror mirror.toNat w) :
    let served := fun (h : Nat) => (s.hand h).serves m.val mirror.toNat
    ((∀ h, epToHand p.src.toNat = some h → served h = false) → Does (.mirrorUpdate m mirror) s fun t => t.net = a ++ b ∧
      t.recov = s.recov ∧ Frame Nothing Nothing Nothing Nothing s t) ∧
    (∀ h, epToHand p.src.toNat = some h → served h = true → Does (.mirrorUpdate m mirror) s fun t =>
      t.millEvc m.val (32 + mirror.toNat) = v ∧ t.net = a ++ b ∧
      (∀ (i : Nat) (c : Cmd), (s.mill m.val).q[i]? = some c → ∃ c', (t.mill m.val).q[i]? = some c' ∧ c'.r = c.r ∧
        c'.complete = (c.complete || (Record.opcode c.r == 3 && Record.argBits c.r 0 5 == mirror.toNat))) ∧
      t.recov = s.recov ∧ Frame (· = Reg.millEvc m.val (32 + mirror.toNat)) Nothing Nothing (· = m.val) s t) := by
  intro served
  have acts := exec_mirrorUpdate net arrived dest msg first
  refine ⟨fun none => ?_, fun h from_ serves => ?_⟩
  · have off : s.servedBy m.val mirror.toNat p.src.toNat = false := by
      unfold State.servedBy
      split
      · next h e => exact none h e
      · rfl
    rw [if_neg (by simp [off])] at acts
    exact ⟨_, acts, rfl, rfl, frame_setNet s _⟩
  · have on : s.servedBy m.val mirror.toNat p.src.toNat = true := by
      unfold State.servedBy
      rw [from_]
      exact serves
    rw [if_pos on] at acts
    refine ⟨_, acts, ?_, rfl, fun i c at_ => ⟨completeMirror mirror.toNat c, ?_, completeMirror_parts _ c⟩, rfl, ?_⟩
    · simp [State.mirrorTaken, State.millEvc]
    · simp only [State.mirrorTaken, State.mill_setMill, if_true, State.mill_setReg, List.getElem?_map]
      exact congrArg (Option.map _) at_
    · exact (frame_setNet s _).trans ((frame_setReg (R := (· = Reg.millEvc m.val (32 + mirror.toNat))) _ _ v rfl).trans
        (frame_setMill_self _ _ _))

end

/-! ## Signals (R80, R83) -/

/-- What a signal does at its destination (R80, R433). -/
def Machine.State.signalled (s : State) (dest : BitVec 16) (ctr amt : Nat) : State :=
  match epToHand dest.toNat, epToMill dest.toNat with
  | some h, _ =>
    if epUnit dest.toNat = 25 then (s.addEvc h ctr amt).setHand h (((s.addEvc h ctr amt).hand h).countInc ctr amt) else s
  | none, some m => if ctr < 32 then s.setReg (Reg.millEvc m ctr) (s.millEvc m ctr + BitVec.ofNat 32 amt) else s
  | none, none => s

section
variable {dest : BitVec 16} {ctr : BitVec 6} {amt : BitVec 8} {i : Instr}

/-- What a signal adds, wherever it comes from: `b` is the state without its packet. -/
theorem signalled_adds {b : State} {net' : List Packet} (acts : exec i s = .next (b.signalled dest ctr.toNat amt.toNat))
    (taken : b = { s with net := net' }) :
    (∀ h, epToHand dest.toNat = some h → epUnit dest.toNat = 25 → Does i s fun t =>
      t.evc h ctr.toNat = s.evc h ctr.toNat + BitVec.ofNat 32 amt.toNat ∧ t.net = net' ∧ t.recov = s.recov ∧
      Frame (· = Reg.evc h ctr.toNat) (· = h) Nothing Nothing s t) ∧
    (∀ m, epToHand dest.toNat = none → epToMill dest.toNat = some m → ctr.toNat < 32 → Does i s fun t =>
      t.millEvc m ctr.toNat = s.millEvc m ctr.toNat + BitVec.ofNat 32 amt.toNat ∧ t.net = net' ∧ t.recov = s.recov ∧
      Frame (· = Reg.millEvc m ctr.toNat) Nothing Nothing Nothing s t) := by
  subst taken
  unfold State.signalled at acts
  refine ⟨fun h hand unit => ?_, fun m none mill low => ?_⟩
  · simp only [hand, unit, if_true] at acts
    refine ⟨_, acts, ?_, rfl, rfl, ((frame_setNet s net').trans ?_).trans (frame_setHand_self _ _ _)⟩
    · simp only [State.evc, State.reg_setHand, State.addEvc, State.reg_setReg, if_true]
      rfl
    · exact frame_setReg _ _ _ rfl
  · simp only [none, mill, low, if_true] at acts
    refine ⟨_, acts, ?_, rfl, rfl, (frame_setNet s net').trans (frame_setReg _ _ _ rfl)⟩
    simp only [State.millEvc, State.reg_setReg, if_true]
    rfl

theorem exec_signalReceive_manor : exec (.signalReceive true dest ctr amt) s = .next (s.signalled dest ctr.toNat amt.toNat) := rfl

theorem exec_signalReceive_packet {p : Packet} {a b : List Packet} (net : s.net = a ++ p :: b) (arrived : p.arrived = true)
    (to_ : p.dest = dest) (msg : p.msg = .signal ctr.toNat amt.toNat)
    (first : ∀ q ∈ a, q.arrived = true → q.dest = dest → q.msg ≠ .signal ctr.toNat amt.toNat) :
    exec (.signalReceive false dest ctr amt) s =
      .next (({ s with net := a ++ b } : State).signalled dest ctr.toNat amt.toNat) := by
  have alone : p ∉ a := fun mem => first p mem arrived to_ msg
  show execSignalReceive false dest ctr amt s = _
  unfold execSignalReceive
  dsimp only
  rw [if_neg (by decide), net, find_append_cons _ (by simp [arrived, to_, msg])]
  · dsimp only
    rw [erase_append_cons alone]
    rfl
  · intro q hq
    by_contra mine
    simp only [Bool.not_eq_false, Bool.and_eq_true, beq_iff_eq] at mine
    exact first q hq mine.1.1 mine.1.2 mine.2
end

/-- Settles O33: the binding, what the hand sends, what the Mill takes, and the signals. -/
theorem mirrorsAndSignals : Obligations.MirrorsAndSignals := by
  unfold Obligations.MirrorsAndSignals
  refine ⟨fun m s va r h head hand => ?_, fun h b s x bind runs => mirrorSend_sends bind runs,
    fun m mirror s p v a b net arrived dest msg first => mirrorUpdate_takes net arrived dest msg first, fun dest ctr amt s => ?_⟩
  · have acts := exec_mirror head hand
    refine ⟨fun room => ?_, fun full => ?_⟩
    · rw [if_neg (by omega)] at acts
      exact ⟨_, acts, bindMirror_binds s m.val va h r⟩
    · rw [if_pos full] at acts
      obtain ⟨halted, flag, note, hands, mem, -⟩ := millStop_stops s m.val va
      exact ⟨_, acts, halted, flag, note, by rw [hands], mem⟩
  · exact ⟨signalled_adds exec_signalReceive_manor rfl, fun p a b net arrived to_ msg first =>
      signalled_adds (exec_signalReceive_packet net arrived to_ msg first) rfl⟩

end Sys2Proof
end

section
/-! PROOFS. P8 credits, recalls and tiles (R59, R60, R77). -/

namespace Sys2Proof

open Machine

variable {s t : State}

section
variable {i core n h : Nat} {p : Packet}

/-- A hand whose producer holds n credits more. -/
def Machine.Hand.earns (d : Hand) (key n : Nat) : Hand := { d with p8held := PMap.put d.p8held key (PMap.get 0 d.p8held key + n) }

/-- A hand whose producer is granted n credits. -/
def Machine.Hand.granted (d : Hand) (key n : Nat) : Hand :=
  { d.earns key n with p8grants := if d.p8grants.contains key then d.p8grants else d.p8grants ++ [key] }

/-- A hand whose producer has given back its credits and its grant. -/
def Machine.Hand.recalled (d : Hand) (key : Nat) : Hand :=
  { d with p8held := PMap.del d.p8held key, p8grants := d.p8grants.filter (· != key) }

theorem get_earns (d : Hand) (key n : Nat) : PMap.get 0 (d.earns key n).p8held key = PMap.get 0 d.p8held key + n :=
  PMap.get_put_same _ _ _ _

theorem mem_granted (d : Hand) (key n : Nat) : key ∈ (d.granted key n).p8grants := by
  show key ∈ if d.p8grants.contains key then d.p8grants else d.p8grants ++ [key]
  split_ifs with held
  · exact List.contains_iff_mem.1 held
  · simp

theorem not_mem_recalled (d : Hand) (key : Nat) : key ∉ (d.recalled key).p8grants := by simp [Hand.recalled]

/-- A credit or a grant that arrives at its endpoint. -/
def Machine.State.p8Credit (s : State) (e src core n h : Nat) (grant : Bool) : State :=
  let key := p8Key (epUnit e) core
  if e = epCore core ∧ !grant ∧ (src ≠ e ∨ !(s.hand h).p8grants.contains key) then
    s.setCore core { s.core core with p8own := (s.core core).p8own + n }
  else if grant then
    if !(s.hand h).p8Dests.contains core && decide (32 ≤ (s.hand h).p8Dests.length) then
      ((s.setBit (Reg.seqStat h) 28).note (.grantRefused h src)).reeveStop
    else (s.setHand h ((s.hand h).granted key n)).send e src 3 h (.p8ack core)
  else if (s.hand h).p8grants.contains key then s.setHand h ((s.hand h).earns key n)
  else s.send e (epCore core) 3 h (.p8credit core n false)

theorem exec_p8Credit {grant : Bool} (at_ : s.net[i]? = some p) (arrived : p.arrived = true) (msg : p.msg = .p8credit core n grant)
    (to_ : epToHand p.dest.toNat = some h) :
    exec (.p8Credit i) s = .next ((s.dropPacket i).p8Credit p.dest.toNat p.src.toNat core n h grant) := by
  show execP8Credit i s = _
  unfold execP8Credit
  rw [at_]
  dsimp only
  rw [msg, to_]
  dsimp only
  rw [arrived]
  rfl

theorem p8Credit_grants {e src : Nat} (b : State)
    (room : (b.hand h).p8Dests.contains core = true ∨ (b.hand h).p8Dests.length < 32) :
    b.p8Credit e src core n h true =
      (b.setHand h ((b.hand h).granted (p8Key (epUnit e) core) n)).send e src 3 h (.p8ack core) := by
  unfold State.p8Credit
  rw [if_neg (by simp), if_pos rfl, if_neg]
  simp only [Bool.and_eq_true, Bool.not_eq_true', decide_eq_true_eq, not_and, not_le]
  intro new
  rcases room with known | small
  · rw [new] at known
    cases known
  · exact small

theorem p8Credit_refuses {e src : Nat} (b : State) (new : (b.hand h).p8Dests.contains core = false)
    (full : 32 ≤ (b.hand h).p8Dests.length) :
    b.p8Credit e src core n h true = ((b.setBit (Reg.seqStat h) 28).note (.grantRefused h src)).reeveStop := by
  unfold State.p8Credit
  rw [if_neg (by simp), if_pos rfl, if_pos (by rw [new, decide_eq_true full]; rfl)]

theorem p8Grant_acts (at_ : s.net[i]? = some p) (arrived : p.arrived = true) (msg : p.msg = .p8credit core n true)
    (to_ : epToHand p.dest.toNat = some h) :
    let key := p8Key (epUnit p.dest.toNat) core
    (((s.hand h).p8Dests.contains core = true ∨ (s.hand h).p8Dests.length < 32) → Does (.p8Credit i) s fun t =>
      PMap.get 0 (t.hand h).p8held key = PMap.get 0 (s.hand h).p8held key + n ∧ key ∈ (t.hand h).p8grants ∧
      t.net = s.net.eraseIdx i ++ [ctlPacket p.dest.toNat p.src.toNat h (.p8ack core)] ∧ t.recov = s.recov ∧
      Frame Nothing (· = h) Nothing Nothing s t) ∧
    ((s.hand h).p8Dests.contains core = false → 32 ≤ (s.hand h).p8Dests.length → Does (.p8Credit i) s fun t =>
      t.flag (Reg.seqStat h) 28 = true ∧ Notice.grantRefused h p.src.toNat ∈ t.recov.notices ∧
      (t.hand h).p8held = (s.hand h).p8held ∧ t.bell.cuts ≠ [] ∧ t.mem = s.mem) := by
  intro key
  have acts := exec_p8Credit at_ arrived msg to_
  refine ⟨fun room => ?_, fun new full => ?_⟩
  · rw [p8Credit_grants (s.dropPacket i) room] at acts
    refine ⟨_, acts, ?_⟩
    dsimp only
    rw [net_send_ctl, show ∀ d, ((s.dropPacket i).setHand h d).net = (s.dropPacket i).net from fun _ => rfl, net_dropPacket, State.hand_send, State.hand_setHand, if_pos rfl]
    exact ⟨get_earns _ _ _, mem_granted _ _ _, rfl, rfl,
      ((frame_dropPacket s i).trans (frame_setHand_self _ h _)).trans (frame_send _ _ _ _ _ _)⟩
  · rw [p8Credit_refuses (s.dropPacket i) new full] at acts
    refine ⟨_, acts, ?_⟩
    dsimp only
    rw [flag_reeveStop _ (a := Reg.seqStat h) rfl, State.recov_reeveStop, State.hand_reeveStop, State.mem_reeveStop]
    exact ⟨State.flag_setBit _ _ 28 (by decide), by simp [State.note], rfl, cuts_reeveStop _, rfl⟩

theorem p8Return_acts (at_ : s.net[i]? = some p) (arrived : p.arrived = true) (msg : p.msg = .p8credit core n false)
    (to_ : epToHand p.dest.toNat = some h) :
    let key := p8Key (epUnit p.dest.toNat) core
    let home := p.dest.toNat = epCore core ∧ (p.src.toNat ≠ p.dest.toNat ∨ (s.hand h).p8grants.contains key = false)
    (home → Does (.p8Credit i) s fun t =>
      (t.core core).p8own = (s.core core).p8own + n ∧ t.net = s.net.eraseIdx i ∧ t.recov = s.recov ∧
      Frame Nothing Nothing (· = core) Nothing s t) ∧
    (¬ home → (s.hand h).p8grants.contains key = true → Does (.p8Credit i) s fun t =>
      PMap.get 0 (t.hand h).p8held key = PMap.get 0 (s.hand h).p8held key + n ∧ t.net = s.net.eraseIdx i ∧ t.recov = s.recov ∧
      Frame Nothing (· = h) Nothing Nothing s t) ∧
    (¬ home → (s.hand h).p8grants.contains key = false → Does (.p8Credit i) s fun t =>
      t.net = s.net.eraseIdx i ++ [ctlPacket p.dest.toNat (epCore core) h (.p8credit core n false)] ∧ t.recov = s.recov ∧
      Frame Nothing Nothing Nothing Nothing s t) := by
  intro key home
  have acts := exec_p8Credit at_ arrived msg to_
  have test : (p.dest.toNat = epCore core ∧ (!false) = true ∧
      (p.src.toNat ≠ p.dest.toNat ∨ (!((s.dropPacket i).hand h).p8grants.contains key) = true)) ↔ home := by
    show _ ∧ _ ∧ (_ ∨ (!(s.hand h).p8grants.contains key) = true) ↔ _ ∧ _
    simp
  unfold State.p8Credit at acts
  refine ⟨fun yes => ?_, fun no held => ?_, fun no none => ?_⟩
  · rw [if_pos (test.2 yes)] at acts
    refine ⟨_, acts, ?_, net_dropPacket s i, rfl, (frame_dropPacket s i).trans (frame_setCore_self _ core _)⟩
    dsimp only
    rw [State.core_setCore, if_pos rfl]
    rfl
  · have holds : ((s.dropPacket i).hand h).p8grants.contains key = true := held
    rw [if_neg (no ∘ test.1), if_neg (by decide), if_pos holds] at acts
    refine ⟨_, acts, ?_, net_dropPacket s i, rfl, (frame_dropPacket s i).trans (frame_setHand_self _ h _)⟩
    rw [State.hand_setHand, if_pos rfl]
    exact get_earns _ _ _
  · have free : ¬ ((s.dropPacket i).hand h).p8grants.contains key = true := by
      show ¬ (s.hand h).p8grants.contains key = true
      rw [none]
      decide
    rw [if_neg (no ∘ test.1), if_neg (by decide), if_neg free] at acts
    refine ⟨_, acts, ?_, rfl, (frame_dropPacket s i).trans (frame_send _ _ _ _ _ _)⟩
    rw [net_send_ctl, net_dropPacket]

theorem exec_p8Recall (at_ : s.net[i]? = some p) (arrived : p.arrived = true) (msg : p.msg = .p8recall core)
    (to_ : epToHand p.dest.toNat = some h) :
    let key := p8Key (epUnit p.dest.toNat) core
    let n := PMap.get 0 (s.hand h).p8held key
    let b := (s.dropPacket i).setHand h ((s.hand h).recalled key)
    exec (.p8Recall i) s = .next (if n = 0 then b else b.send p.dest.toNat (epCore core) 3 h (.p8credit core n false)) := by
  intro key n b
  show execP8Recall i s = _
  unfold execP8Recall
  rw [at_]
  dsimp only
  rw [msg, to_]
  dsimp only
  rw [arrived]
  rfl

theorem p8Recall_acts (at_ : s.net[i]? = some p) (arrived : p.arrived = true) (msg : p.msg = .p8recall core)
    (to_ : epToHand p.dest.toNat = some h) : Does (.p8Recall i) s fun t =>
      let key := p8Key (epUnit p.dest.toNat) core
      let n := PMap.get 0 (s.hand h).p8held key
      key ∉ (t.hand h).p8grants ∧ (t.hand h).p8held = PMap.del (s.hand h).p8held key ∧
      t.net = s.net.eraseIdx i ++ (if n = 0 then [] else [ctlPacket p.dest.toNat (epCore core) h (.p8credit core n false)]) ∧
      t.recov = s.recov ∧ Frame Nothing (· = h) Nothing Nothing s t := by
  have framed : ∀ d, Frame Nothing (· = h) Nothing Nothing s ((s.dropPacket i).setHand h d) := fun d =>
    (frame_dropPacket s i).trans (frame_setHand_self _ h d)
  refine ⟨_, exec_p8Recall at_ arrived msg to_, ?_⟩
  dsimp only
  split_ifs with none
  · rw [State.hand_setHand, if_pos rfl, show ∀ d, ((s.dropPacket i).setHand h d).net = (s.dropPacket i).net from fun _ => rfl, net_dropPacket, List.append_nil]
    exact ⟨not_mem_recalled _ _, rfl, rfl, rfl, framed _⟩
  · rw [net_send_ctl, State.hand_send, State.hand_setHand, if_pos rfl, show ∀ d, ((s.dropPacket i).setHand h d).net = (s.dropPacket i).net from fun _ => rfl, net_dropPacket]
    exact ⟨not_mem_recalled _ _, rfl, rfl, rfl, (framed _).trans (frame_send _ _ _ _ _ _)⟩
end

section
variable {i k : Nat} {p : Packet} {x : Tile}

/-- A core whose P8 holds one tile more. -/
def Machine.Core.takeP8 (c : Core) (x : Tile) (src : Nat) : Core :=
  let q := c.port 8
  (c.setSlot (portSlotOf 8 q q.count) x).setPort 8 { q with count := q.count + 1, srcs := q.srcs ++ [src] }

/-- The sender of a tile noted as a peer of the hand. -/
def Machine.State.notePeer (s : State) (h src : Nat) : State :=
  match epToHand src with
  | none => s
  | some f => s.setHand h ((s.hand h).notePeer f)

theorem notePeer_keeps (s : State) (h src : Nat) : (s.notePeer h src).core = s.core ∧ (s.notePeer h src).net = s.net ∧
    (s.notePeer h src).recov = s.recov ∧ Frame Nothing (· = h) Nothing Nothing s (s.notePeer h src) := by
  unfold State.notePeer
  split
  · exact ⟨rfl, rfl, rfl, Frame.refl _⟩
  · exact ⟨rfl, rfl, rfl, frame_setHand_self _ _ _⟩

theorem exec_p8TileReceive (at_ : s.net[i]? = some p) (arrived : p.arrived = true) (msg : p.msg = .p8tile x)
    (to_ : epToCore p.dest.toNat = some k) :
    let h := k / 17
    let l := s.logical h (k % 17)
    let b := s.dropPacket i
    exec (.p8TileReceive i) s = .next (
      if l < 16 ∧ s.portOpen h l 8 = true ∧ ((s.core k).port 8).count < 8 then
        ((b.setCore k ((s.core k).takeP8 x p.src.toNat)).notePeer h p.src.toNat).send p.dest.toNat p.src.toNat 1 h .tileAck
      else ((b.setBit (Reg.routerStat h) 29).setField (Reg.routerStat h) 0 16 p.src.toNat).note (.p8Drop h p.src.toNat)) := by
  intro h l b
  show execP8TileReceive i s = _
  unfold execP8TileReceive
  rw [at_]
  dsimp only
  rw [msg, to_]
  dsimp only
  rw [arrived]
  rfl

theorem p8TileReceive_acts (at_ : s.net[i]? = some p) (arrived : p.arrived = true) (msg : p.msg = .p8tile x)
    (to_ : epToCore p.dest.toNat = some k) :
    let q := (s.core k).port 8
    let l := s.logical (k / 17) (k % 17)
    (l < 16 → s.portOpen (k / 17) l 8 = true → q.count < 8 → Does (.p8TileReceive i) s fun t =>
      (t.core k).slot (portSlotOf 8 q q.count) = x ∧ ((t.core k).port 8).count = q.count + 1 ∧
      ((t.core k).port 8).srcs = q.srcs ++ [p.src.toNat] ∧
      t.net = s.net.eraseIdx i ++ [{ ctlPacket p.dest.toNat p.src.toNat (k / 17) .tileAck with vc := 1, ord := false }] ∧ t.recov = s.recov ∧
      Frame Nothing (· = k / 17) (· = k) Nothing s t) ∧
    ((16 ≤ l ∨ s.portOpen (k / 17) l 8 = false ∨ 8 ≤ q.count) → Does (.p8TileReceive i) s fun t =>
      t.flag (Reg.routerStat (k / 17)) 29 = true ∧ t.field (Reg.routerStat (k / 17)) 0 16 = p.src.toNat ∧
      Notice.p8Drop (k / 17) p.src.toNat ∈ t.recov.notices ∧ t.net = s.net.eraseIdx i ∧
      Frame (· = Reg.routerStat (k / 17)) Nothing Nothing Nothing s t) := by
  intro q l
  have acts := exec_p8TileReceive at_ arrived msg to_
  refine ⟨fun logical open_ room => ?_, fun refused => ?_⟩
  · dsimp only at acts
    rw [if_pos ⟨logical, open_, room⟩] at acts
    obtain ⟨core, net, recov, framed⟩ :=
      notePeer_keeps ((s.dropPacket i).setCore k ((s.core k).takeP8 x p.src.toNat)) (k / 17) p.src.toNat
    have port : ((s.core k).takeP8 x p.src.toNat).port 8 = { q with count := q.count + 1, srcs := q.srcs ++ [p.src.toNat] } :=
      PMap.get_put_same _ _ _ _
    refine ⟨_, acts, ?_⟩
    dsimp only
    rw [State.core_send, core, State.core_setCore, if_pos rfl, port]
    refine ⟨PMap.get_put_same _ _ _ _, rfl, rfl, ?_, recov, ?_⟩
    · show State.net _ ++ _ = _
      rw [net]
      exact congrArg (· ++ _) (net_dropPacket s i)
    · exact (((frame_dropPacket s i).trans (frame_setCore_self _ k _)).trans framed.someCore).trans (frame_send _ _ _ _ _ _)
  · have off : ¬ (l < 16 ∧ s.portOpen (k / 17) l 8 = true ∧ q.count < 8) := by
      rintro ⟨logical, open_, room⟩
      rcases refused with high | closed | full
      · omega
      · rw [open_] at closed
        cases closed
      · omega
    dsimp only at acts
    rw [if_neg off] at acts
    refine ⟨_, acts, ?_, ?_, by simp [State.note], net_dropPacket s i, ?_⟩
    · rw [State.flag_congr (State.reg_note _ _ _)]
      exact (State.flag_setField_other _ _ 0 16 _ (by decide) (by decide)).trans (State.flag_setBit _ _ 29 (by decide))
    · rw [State.field_congr (State.reg_note _ _ _)]
      exact (State.field_setField _ _ 0 16 _ (by decide)).trans (Nat.mod_eq_of_lt p.src.isLt)
    · exact (((frame_dropPacket s i).trans (frame_setBit (R := (· = Reg.routerStat (k / 17))) _ _ 29 rfl)).trans
        (frame_setField _ _ 0 16 _ rfl)).trans (frame_note _ _)
end

/-- Settles O35. -/
theorem p8CreditsAndTiles : Obligations.P8CreditsAndTiles := by
  unfold Obligations.P8CreditsAndTiles
  intro i s p at_ arrived net
  exact ⟨fun _ _ _ msg to_ => p8Grant_acts at_ arrived msg to_, fun _ _ _ msg to_ => p8Return_acts at_ arrived msg to_,
    fun _ _ msg to_ => p8Recall_acts at_ arrived msg to_, fun _ _ msg to_ => p8TileReceive_acts at_ arrived msg to_⟩

end Sys2Proof
end

section
/-! PROOFS. The elements of a payload, the tiles that a station uses up and puts out, and the records that it works on (R41, R56, R59). -/

namespace Sys2Proof

open Machine

variable {s t : State}

/-! ## Elements of a payload (R41) -/

theorem upTo_eq_range (n : Nat) : upTo n = List.range n := by
  induction n with
  | zero => rfl
  | succ n ih => rw [upTo, ih, List.range_succ]

theorem getD_map_upTo {α : Type} (f : Nat → α) (z : α) {n k : Nat} (lt : k < n) : ((upTo n).map f).getD k z = f k := by
  rw [upTo_eq_range, List.getD_eq_getElem _ _ (by simpa using lt), List.getElem_map, List.getElem_range]

theorem bits_packElems (size : Nat) (l : List Nat) (k : Nat) :
    bits (packElems size l) (8 * size * k) (8 * size) = l.getD k 0 % 2 ^ (8 * size) := by
  induction l generalizing k with
  | nil => simp [packElems, bits]
  | cons x l ih =>
    unfold packElems bits
    rw [Nat.shiftLeft_eq]
    cases k with
    | zero => simp
    | succ k =>
      have here : x % 2 ^ (8 * size) < 2 ^ (8 * size) := Nat.mod_lt _ (by positivity)
      rw [List.getD_cons_succ, ← ih k, bits, show 8 * size * (k + 1) = 8 * size + 8 * size * k by ring, Nat.shiftRight_add,
        Nat.shiftRight_eq_div_pow (_ + _), Nat.add_mul_div_right _ _ (by positivity), Nat.div_eq_of_lt here, Nat.zero_add]

theorem payElem_packElems {size : Nat} (l : List Nat) {k : Nat} (fits : 8 * size * (k + 1) ≤ 32768) :
    payElem (BitVec.ofNat 32768 (packElems size l)) size k = l.getD k 0 % 2 ^ (8 * size) := by
  have inside : 8 * size * k + 8 * size ≤ 32768 := by rwa [Nat.mul_add, Nat.mul_one] at fits
  rw [payElem, BitVec.toNat_ofNat, bits_low _ _ _ _ inside, bits_packElems]

theorem fmtSize_pos (f : Nat) : 0 < fmtSize f := by
  unfold fmtSize
  split <;> decide

theorem fmtCols_pos (f : Nat) : 0 < fmtCols f := by
  unfold fmtCols
  split <;> decide

/-- A tile's rows, columns and element size fill its payload (R41). -/
theorem fmt_fills (f : Nat) : fmtRows f * fmtCols f = 4096 / fmtSize f ∧ fmtSize f * (4096 / fmtSize f) = 4096 := by
  match f with
  | 0 | 1 | 2 | 3 | 4 | 5 | 6 | 7 => decide
  | _ + 8 => exact show 64 * 64 = 4096 / 1 ∧ 1 * (4096 / 1) = 4096 by decide

/-- The element index of row i and column j. -/
theorem elem_lt {f i j : Nat} (hi : i < fmtRows f) (hj : j < fmtCols f) : i * fmtCols f + j < 4096 / fmtSize f := by
  rw [← (fmt_fills f).1]
  calc i * fmtCols f + j < (i + 1) * fmtCols f := by rw [Nat.add_one_mul i]; omega
    _ ≤ _ := Nat.mul_le_mul_right _ hi

theorem elem_fits {f n : Nat} (lt : n < 4096 / fmtSize f) : 8 * fmtSize f * (n + 1) ≤ 32768 := by
  have fills := (fmt_fills f).2
  have le : fmtSize f * (n + 1) ≤ fmtSize f * (4096 / fmtSize f) := Nat.mul_le_mul_left _ lt
  rw [Nat.mul_assoc]
  omega

/-- An element inside the valid extent is the function's. -/
theorem payElem_payOf {f r c i j : Nat} (g : Nat → Nat) (hi : i < fmtRows f) (hj : j < fmtCols f) (vi : i < r) (vj : j < c) :
    payElem (payOf f r c g) (fmtSize f) (i * fmtCols f + j) = g (i * fmtCols f + j) % 2 ^ (8 * fmtSize f) := by
  have valid : inValid f r c (i * fmtCols f + j) = true := by
    rw [inValid, Nat.add_comm, Nat.add_mul_div_right _ _ (fmtCols_pos f), Nat.div_eq_of_lt hj, Nat.add_mul_mod_self_right,
      Nat.mod_eq_of_lt hj]
    simp [vi, vj]
  rw [payOf, payElem_packElems _ (elem_fits (elem_lt hi hj)), getD_map_upTo _ _ (elem_lt hi hj), valid]
  rfl

/-! ## The record that a station works on -/

theorem activeFrom_head {c : Cmd} {q : List Cmd} (e : activeFrom 0 q = some (0, c)) : q[0]? = some c ∧ c.complete = false := by
  have later : ∀ (q : List Cmd) (i : Nat), activeFrom (i + 1) q ≠ some (0, c) := by
    intro q
    induction q with
    | nil => exact fun _ => by simp [activeFrom]
    | cons d q ih =>
      intro i
      unfold activeFrom
      split_ifs
      · exact ih (i + 1)
      · simp
  cases q with
  | nil => simp [activeFrom] at e
  | cons d q =>
    unfold activeFrom at e
    split_ifs at e with done
    · exact absurd e (later q 0)
    · cases e
      exact ⟨rfl, by simpa using done⟩

theorem AtWork.head {st u op : Nat} {c : Cmd} (w : AtWork s st u op 0 c) : (s.queue st u)[0]? = some c ∧ c.complete = false :=
  activeFrom_head w.1

section
variable {st u i : Nat} {c d : Cmd}

theorem getElem_setCmd (lo : 1 ≤ st) (hi : st ≤ 8) (at_ : (s.queue st u)[i]? = some d) (c : Cmd) :
    ((s.setCmd st u i c).queue st u)[i]? = some c := by
  rw [State.setCmd, queue_setQueue_same _ lo hi]
  exact List.getElem?_set_self (List.getElem?_eq_some_iff.1 at_).1

theorem getElem_setCmd_other (lo : 1 ≤ st) (hi : st ≤ 8) {j : Nat} (n : j ≠ i) (c : Cmd) :
    ((s.setCmd st u i c).queue st u)[j]? = (s.queue st u)[j]? := by
  rw [State.setCmd, queue_setQueue_same _ lo hi]
  exact List.getElem?_set_ne (Ne.symm n)

theorem quiet_setCmd (s : State) (st u i : Nat) (c : Cmd) : Quiet s (s.setCmd st u i c) := quiet_setQueue _ _ _ _

theorem frame_setCmd {R H C M : Nat → Prop} (s : State) (st u i : Nat) (c : Cmd) (h : st = 6 ∨ st = 7 → H u)
    (k : 1 ≤ st → st ≤ 5 → C u) (m : st = 8 → M u) : Frame R H C M s (s.setCmd st u i c) := frame_setQueue s st u _ h k m

/-- The record that a station has finished. -/
def Machine.State.finished (s : State) (st u : Nat) (c : Cmd) : Cmd :=
  { c with complete := true, cnt1 := if st = 2 then c.cnt1 else s.countOf st u }

/-- A record that finishes passes its event count on to the record behind it. -/
theorem finish_eq (s : State) (st u i : Nat) (c : Cmd) : s.finish st u i c = s.setCmd st u i (s.finished st u c) ∨
    ∃ d, s.finish st u i c = (s.setCmd st u i (s.finished st u c)).setCmd st u (i + 1) d := by
  unfold State.finish
  dsimp only
  split
  · next d _ =>
    by_cases begun : d.begun = true
    · exact .inr ⟨_, if_pos begun⟩
    · exact .inl (if_neg begun)
  · exact .inl rfl

theorem getElem_finish (lo : 1 ≤ st) (hi : st ≤ 8) (at_ : (s.queue st u)[i]? = some d) (c : Cmd) :
    ((s.finish st u i c).queue st u)[i]? = some (s.finished st u c) := by
  obtain e | ⟨d, e⟩ := finish_eq s st u i c
  · rw [e]
    exact getElem_setCmd lo hi at_ _
  · rw [e, getElem_setCmd_other lo hi (by omega)]
    exact getElem_setCmd lo hi at_ _

theorem quiet_finish (s : State) (st u i : Nat) (c : Cmd) : Quiet s (s.finish st u i c) := by
  obtain e | ⟨d, e⟩ := finish_eq s st u i c
  · rw [e]
    exact quiet_setCmd _ _ _ _ _
  · rw [e]
    exact (quiet_setCmd _ _ _ _ _).trans (quiet_setCmd _ _ _ _ _)

theorem frame_finish {R H C M : Nat → Prop} (s : State) (st u i : Nat) (c : Cmd) (h : st = 6 ∨ st = 7 → H u)
    (k : 1 ≤ st → st ≤ 5 → C u) (m : st = 8 → M u) : Frame R H C M s (s.finish st u i c) := by
  obtain e | ⟨d, e⟩ := finish_eq s st u i c
  · rw [e]
    exact frame_setCmd _ _ _ _ _ h k m
  · rw [e]
    exact (frame_setCmd _ _ _ _ _ h k m).trans (frame_setCmd _ _ _ _ _ h k m)
end

theorem slots_setCore {u : Nat} (o : Core) (e : o.slots = (s.core u).slots) (k : Nat) :
    ((s.setCore u o).core k).slots = (s.core k).slots := by
  rw [State.core_setCore]
  split_ifs with same
  · rw [same, e]
  · rfl

/-- The slots of a core are no part of its stations' queues. -/
theorem slots_setQueue (s : State) (st u k : Nat) (q : List Cmd) : ((s.setQueue st u q).core k).slots = (s.core k).slots := by
  unfold State.setQueue
  split
  case h_1 | h_2 | h_3 | h_4 | h_5 => exact slots_setCore _ (by rfl) k
  all_goals rfl

theorem slots_finish (s : State) (st u i k : Nat) (c : Cmd) : ((s.finish st u i c).core k).slots = (s.core k).slots := by
  obtain e | ⟨d, e⟩ := finish_eq s st u i c
  · rw [e]
    exact slots_setQueue _ _ _ _ _
  · rw [e]
    exact (slots_setQueue _ _ _ _ _).trans (slots_setQueue _ _ _ _ _)

/-- Two cores hold the same records. -/
def SameQueues (a b : Core) : Prop := a.ld = b.ld ∧ a.cu = b.cu ∧ a.dr = b.dr ∧ a.ve = b.ve ∧ a.st = b.st

/-- A core written with its queues as they are leaves every queue as it is. -/
theorem queue_setCore {k : Nat} (o : Core) (same : SameQueues o (s.core k)) (x y : Nat) : (s.setCore k o).queue x y = s.queue x y := by
  obtain ⟨ld, cu, dr, ve, st⟩ := same
  have core : (s.setCore k o).core y = if y = k then o else s.core y := State.core_setCore ..
  unfold State.queue
  rw [core]
  by_cases e : y = k
  · subst e
    rw [if_pos rfl, ld, cu, dr, ve, st]
    rfl
  · rw [if_neg e]
    rfl

/-- A record goes on to its next step, or is complete after its last. -/
def Machine.State.onward (s : State) (last : Prop) [Decidable last] (st u i : Nat) (c : Cmd) : State :=
  if last then s.finish st u i c else s.setCmd st u i c

section
variable {last : Prop} [Decidable last] {st u i : Nat} {d : Cmd}

theorem record_onward (lo : 1 ≤ st) (hi : st ≤ 8) (at_ : (s.queue st u)[i]? = some d) (c : Cmd) (open_ : c.complete = false) :
    ∃ n, ((s.onward last st u i c).queue st u)[i]? = some { c with complete := decide last, cnt1 := n } := by
  unfold State.onward
  split_ifs with now
  · exact ⟨_, by rw [getElem_finish lo hi at_, decide_eq_true now]; rfl⟩
  · refine ⟨c.cnt1, ?_⟩
    rw [getElem_setCmd lo hi at_, decide_eq_false now]
    exact congrArg some (by rw [← open_])

theorem slots_onward (s : State) (last : Prop) [Decidable last] (st u i k : Nat) (c : Cmd) :
    ((s.onward last st u i c).core k).slots = (s.core k).slots := by
  unfold State.onward
  split_ifs
  · exact slots_finish _ _ _ _ _ _
  · exact slots_setQueue _ _ _ _ _

theorem quiet_onward (s : State) (last : Prop) [Decidable last] (st u i : Nat) (c : Cmd) : Quiet s (s.onward last st u i c) := by
  unfold State.onward
  split_ifs
  · exact quiet_finish _ _ _ _ _
  · exact quiet_setCmd _ _ _ _ _

theorem frame_onward {R H C M : Nat → Prop} (s : State) (last : Prop) [Decidable last] (st u i : Nat) (c : Cmd)
    (h : st = 6 ∨ st = 7 → H u) (k : 1 ≤ st → st ≤ 5 → C u) (m : st = 8 → M u) : Frame R H C M s (s.onward last st u i c) := by
  unfold State.onward
  split_ifs
  · exact frame_finish _ _ _ _ _ h k m
  · exact frame_setCmd _ _ _ _ _ h k m
end

/-! ## Tiles used up -/

/-- What releasing input tiles of core k may do: its ports change, and P8 credits travel. -/
structure Released (k : Nat) (s t : State) : Prop where
  frame : Frame Nothing Nothing (· = k) Nothing s t
  recov : t.recov = s.recov
  slots : (t.core k).slots = (s.core k).slots
  queue : ∀ st u, t.queue st u = s.queue st u

theorem Released.refl (k : Nat) (s : State) : Released k s s := ⟨Frame.refl s, rfl, rfl, fun _ _ => rfl⟩

theorem Released.trans {k : Nat} {r : State} (a : Released k r s) (b : Released k s t) : Released k r t :=
  ⟨a.frame.trans b.frame, b.recov.trans a.recov, b.slots.trans a.slots, fun st u => (b.queue st u).trans (a.queue st u)⟩

theorem released_setPort (s : State) (k p : Nat) (q : Port) : Released k s (s.setCore k ((s.core k).setPort p q)) :=
  ⟨frame_setCore_self s k _, rfl, slots_setCore _ (by rfl) k, fun st u => queue_setCore _ (by exact ⟨rfl, rfl, rfl, rfl, rfl⟩) st u⟩

theorem released_releaseTile (s : State) (k p : Nat) : Released k s (s.releaseTile k p) := by
  unfold State.releaseTile
  split_ifs
  · obtain ⟨frame, recov, slots, queue⟩ := released_setPort s k 8 _
    exact ⟨frame.trans (frame_send _ _ _ _ _ _), recov, slots, queue⟩
  · exact released_setPort s k p _

/-- The record of a station that has used up tiles: only the counts of its operands change. -/
def Machine.Cmd.FlowsOnly (c d : Cmd) : Prop := ∃ a b, d = { c with a := a, b := b }

theorem Machine.Cmd.FlowsOnly.trans {c d e : Cmd} (x : c.FlowsOnly d) (y : d.FlowsOnly e) : c.FlowsOnly e := by
  obtain ⟨_, _, rfl⟩ := x
  obtain ⟨_, _, rfl⟩ := y
  exact ⟨_, _, rfl⟩

theorem flowsOnly_setFlow (c : Cmd) (o : Nat) (f : Flow) : c.FlowsOnly (c.setFlow o f) := by
  unfold Cmd.setFlow
  split_ifs
  all_goals exact ⟨_, _, rfl⟩

theorem useUp_releases (s : State) (k : Nat) (c : Cmd) (o : Nat) :
    Released k s (s.useUp k c o).1 ∧ c.FlowsOnly (s.useUp k c o).2 := by
  unfold State.useUp
  dsimp only
  split_ifs
  · exact ⟨released_releaseTile s k _, flowsOnly_setFlow _ _ _⟩
  · exact ⟨Released.refl k s, flowsOnly_setFlow _ _ _⟩

theorem useUpN_releases (s : State) (k : Nat) (c : Cmd) (o n : Nat) :
    Released k s (s.useUpN k c o n).1 ∧ c.FlowsOnly (s.useUpN k c o n).2 := by
  induction n generalizing s c with
  | zero => exact ⟨Released.refl k s, ⟨_, _, rfl⟩⟩
  | succ n ih =>
    obtain ⟨released, flows⟩ := useUp_releases s k c o
    obtain ⟨more, on⟩ := ih (s.useUp k c o).1 (s.useUp k c o).2
    exact ⟨released.trans more, flows.trans on⟩

/-! ## Tiles put out -/

/-- The scratch slot of the j-th tile that a station puts out from n on. -/
def Machine.Core.outSlot (c : Core) (d : Desc) (n j : Nat) : Nat :=
  if d.kind = 2 then portSlotOf d.port (c.port d.port) ((c.port d.port).count + j) else d.row0 + n + j

section
variable {u n : Nat} {d : Desc}

theorem core_put (s : State) (u : Nat) (d : Desc) (n : Nat) (x : Tile) : (s.put u d n x).core u =
    if d.kind = 2 then (s.core u).push d.port x else (s.core u).setSlot (d.row0 + n) x := by
  unfold State.put
  split_ifs
  · rw [State.core_setCore, if_pos rfl]
  · rw [State.core_setCore, if_pos rfl]

theorem slot_put (s : State) (u : Nat) (d : Desc) (n : Nat) (x : Tile) (y : Nat) :
    ((s.put u d n x).core u).slot y = if y = (s.core u).outSlot d n 0 then x else (s.core u).slot y := by
  rw [core_put, Core.outSlot]
  split_ifs with port same same
  · rw [same]
    exact PMap.get_put_same _ _ _ _
  · exact PMap.get_put_other _ _ _ same
  · rw [same]
    exact PMap.get_put_same _ _ _ _
  · exact PMap.get_put_other _ _ _ same

theorem outSlot_put (s : State) (u : Nat) (d : Desc) (n : Nat) (x : Tile) (j : Nat) :
    ((s.put u d n x).core u).outSlot d (n + 1) j = (s.core u).outSlot d n (j + 1) := by
  rw [core_put, Core.outSlot, Core.outSlot]
  split_ifs
  · have port : ((s.core u).push d.port x).port d.port = { (s.core u).port d.port with
      count := ((s.core u).port d.port).count + 1, credits := ((s.core u).port d.port).credits - 1 } := PMap.get_put_same _ _ _ _
    rw [port, show ((s.core u).port d.port).count + (j + 1) = ((s.core u).port d.port).count + 1 + j by omega]
    rfl
  · omega

theorem count_put (s : State) (u : Nat) {d : Desc} (n : Nat) (x : Tile) (port : d.kind = 2) :
    (((s.put u d n x).core u).port d.port).count = ((s.core u).port d.port).count + 1 := by
  rw [core_put, if_pos port, Core.push, show ∀ (c : Core) q, (c.setPort d.port q).port d.port = q from
    fun c q => PMap.get_put_same _ _ _ _]

theorem portDepth_pos (p : Nat) : 0 < portDepth p := by
  unfold portDepth
  split <;> decide

/-- The tiles put out lie apart from each other. -/
theorem outSlot_apart (c : Core) {l i j : Nat} (room : d.kind = 2 → (c.port d.port).count + l ≤ portDepth d.port) (hi : i < l) (hj : j < l)
    (ne : i ≠ j) : c.outSlot d n i ≠ c.outSlot d n j := by
  unfold Core.outSlot portSlotOf
  split_ifs with port
  · have fits := room port
    generalize (c.port d.port).rd = r at *
    generalize (c.port d.port).count = m at *
    generalize portDepth d.port = p at *
    intro e
    have same : r + (m + i) ≡ r + (m + j) [MOD p] := by unfold Nat.ModEq; omega
    have close : m + i ≡ m + j [MOD p] := Nat.ModEq.add_left_cancel' r same
    have := Nat.ModEq.eq_of_lt_of_lt close (by omega) (by omega)
    omega
  · omega

theorem slot_putAll_other (ts : List Tile) (s : State) (n y : Nat) (off : ∀ j < ts.length, y ≠ (s.core u).outSlot d n j) :
    ((s.putAll u d n ts).core u).slot y = (s.core u).slot y := by
  induction ts generalizing s n with
  | nil => rfl
  | cons x ts ih =>
    rw [State.putAll, ih _ _ fun j lt => by rw [outSlot_put]; exact off (j + 1) (by simpa using lt), slot_put,
      if_neg (off 0 (by simp))]

theorem slot_putAll (ts : List Tile) (s : State) (n : Nat)
    (room : d.kind = 2 → ((s.core u).port d.port).count + ts.length ≤ portDepth d.port) {j : Nat} (lt : j < ts.length) (z : Tile) :
    ((s.putAll u d n ts).core u).slot ((s.core u).outSlot d n j) = ts.getD j z := by
  induction ts generalizing s n j with
  | nil => cases lt
  | cons x ts ih =>
    rw [State.putAll]
    cases j with
    | zero =>
      rw [slot_putAll_other, slot_put, if_pos rfl]
      · rfl
      · intro j hj
        rw [outSlot_put]
        exact outSlot_apart _ room (by simp) (by simpa using hj) (by omega)
    | succ j =>
      rw [← outSlot_put s u d n x j, ih]
      · rfl
      · intro port
        have := room port
        rw [count_put _ _ _ _ port]
        simp only [List.length_cons] at this
        omega
      · simpa using lt

theorem frame_put {R H M : Nat → Prop} (s : State) (u : Nat) (d : Desc) (n : Nat) (x : Tile) :
    Frame R H (· = u) M s (s.put u d n x) := by
  unfold State.put
  split_ifs
  · exact frame_setCore_self s u _
  · exact frame_setCore_self s u _

theorem quiet_put (s : State) (u : Nat) (d : Desc) (n : Nat) (x : Tile) : Quiet s (s.put u d n x) := by
  unfold State.put
  split_ifs
  · exact ⟨rfl, rfl, rfl⟩
  · exact ⟨rfl, rfl, rfl⟩

theorem frame_putAll {R H M : Nat → Prop} (ts : List Tile) (s : State) (n : Nat) : Frame R H (· = u) M s (s.putAll u d n ts) := by
  induction ts generalizing s n with
  | nil => exact Frame.refl s
  | cons x ts ih => exact (frame_put s u d n x).trans (ih _ _)

theorem quiet_putAll (ts : List Tile) (s : State) (n : Nat) : Quiet s (s.putAll u d n ts) := by
  induction ts generalizing s n with
  | nil => exact ⟨rfl, rfl, rfl⟩
  | cons x ts ih => exact (quiet_put s u d n x).trans (ih _ _)

theorem queue_put (s : State) (u : Nat) (d : Desc) (n : Nat) (x : Tile) (st k : Nat) : (s.put u d n x).queue st k = s.queue st k := by
  unfold State.put
  split_ifs
  · exact queue_setCore _ (by exact ⟨rfl, rfl, rfl, rfl, rfl⟩) st k
  · exact queue_setCore _ (by exact ⟨rfl, rfl, rfl, rfl, rfl⟩) st k

theorem queue_putAll (ts : List Tile) (s : State) (n st k : Nat) : (s.putAll u d n ts).queue st k = s.queue st k := by
  induction ts generalizing s n with
  | nil => rfl
  | cons x ts ih => exact (ih _ _).trans (queue_put s u d n x st k)
end

end Sys2Proof
end

section
/-! PROOFS. Partial sums: RADD (R193 to R195, R611, R612). -/

namespace Sys2Proof

open Machine

variable {s t : State}

/-! ## The tiles of a payload position -/

/-- Payload elements of a wide tile of 64-bit elements. -/
theorem payElem_wide {l : List Nat} {e : Nat} (lt : e < 512) :
    payElem (BitVec.ofNat 32768 (packElems 8 l)) 8 e = l.getD e 0 % 2 ^ 64 := payElem_packElems l (by omega)

/-- The wide tiles of a payload position hold as many elements as its payload tile, but in the double-double form. -/
theorem raddW_fills {r : BitVec 512} (f : Record.argBits r 26 4 ≤ 3) (dd : raddDd r = false) :
    raddW r * 512 = 4096 / fmtSize (Record.argBits r 26 4) := by
  unfold raddDd at dd
  unfold raddW
  generalize Record.argBits r 26 4 = n at *
  have cases_ : n = 0 ∨ n = 1 ∨ n = 2 ∨ n = 3 := by omega
  rcases cases_ with rfl | rfl | rfl | rfl
  · have plain : bit (Record.arg r) 31 = false := by simpa using dd
    rw [if_pos rfl, plain]
    rfl
  all_goals
    rw [if_neg (by decide)]
    rfl

theorem raddDd_fp64 {r : BitVec 512} (dd : raddDd r = true) : Record.argBits r 26 4 = 0 ∧ raddW r = 2 := by
  unfold raddDd at dd
  obtain ⟨wide, f⟩ : bit (Record.arg r) 31 = true ∧ Record.argBits r 26 4 = 0 := by simpa using dd
  exact ⟨f, by rw [raddW, if_pos f, if_pos wide]⟩

section
variable {r : BitVec 512} {n : Nat} {first : Head} {arr : Option (List Tile)} {loc : List Tile} {z : Tile}

/-- The sum of element e of a payload position, as RADD without FINAL forms it. -/
def raddSum (r : BitVec 512) (arr : Option (List Tile)) (loc : List Tile) (e : Nat) : Nat × Nat × Fl :=
  raddElem (raddDd r) (arr.map fun l => arrivingElem r l e) (localElem r loc e)

/-- The wide tile at place j from a list of elements. -/
def wideTile (r : BitVec 512) (n : Nat) (first : Head) (j : Nat) (l : List Nat) : Tile :=
  Tile.seal (wideHead r first (raddW r * n + j)) (BitVec.ofNat 32768 (packElems 8 l))

theorem raddOut_dd (final : bit (Record.arg r) 30 = false) (dd : raddDd r = true) : (raddOut r n first arr loc).1 =
    [wideTile r n first 0 (((upTo (4096 / fmtSize (Record.argBits r 26 4))).map (raddSum r arr loc)).map (·.1)),
      wideTile r n first 1 (((upTo (4096 / fmtSize (Record.argBits r 26 4))).map (raddSum r arr loc)).map (·.2.1))] := by
  unfold raddOut
  dsimp only
  rw [if_neg (by rw [final]; decide), if_pos dd]
  rfl

theorem raddOut_plain (final : bit (Record.arg r) 30 = false) (dd : raddDd r = false) : (raddOut r n first arr loc).1 =
    (upTo (raddW r)).map fun j => wideTile r n first j
      (((((upTo (4096 / fmtSize (Record.argBits r 26 4))).map (raddSum r arr loc)).drop (512 * j)).take 512).map (·.1)) := by
  unfold raddOut
  dsimp only
  rw [if_neg (by rw [final]; decide), if_neg (by rw [dd]; decide)]
  rfl

/-- The head of the payload tile that a RADD with FINAL writes. -/
def finalHead (r : BitVec 512) (n : Nat) (first : Head) (loc : List Tile) : Head :=
  let d := Record.desc r 2
  let p := d.pos n
  let h : Head := { tid := d.tid, row := p.1, col := p.2, fmt := Record.argBits r 26 4, scale := first.scale, wver := first.wver
                    last := n + 1 == d.count }
  if raddWide r 1 then h.full else h.validAs (loc.getD 0 { hdr := 0, pay := 0 }).head

theorem raddOut_final (final : bit (Record.arg r) 30 = true) : (raddOut r n first arr loc).1 =
    [Tile.seal (finalHead r n first loc) (payOf (Record.argBits r 26 4) (finalHead r n first loc).vrows (finalHead r n first loc).vcols
      fun m => (((upTo (4096 / fmtSize (Record.argBits r 26 4))).map fun e => raddFinal (Record.argBits r 26 4) (raddDd r)
        (arr.map fun l => arrivingElem r l e) (localElem r loc e)).getD m (0, 0)).1)] := by
  unfold raddOut finalHead
  dsimp only
  rw [if_pos final]

theorem finalHead_valid : (finalHead r n first loc).vrows =
      (if raddWide r 1 then fmtRows (Record.argBits r 26 4) else (loc.getD 0 { hdr := 0, pay := 0 }).head.vrows) ∧
    (finalHead r n first loc).vcols =
      (if raddWide r 1 then fmtCols (Record.argBits r 26 4) else (loc.getD 0 { hdr := 0, pay := 0 }).head.vcols) := by
  unfold finalHead
  dsimp only
  split_ifs
  · exact ⟨rfl, rfl⟩
  · exact ⟨rfl, rfl⟩

/-- The tiles that a payload position gives: one with FINAL, else as many as the wide form has. -/
def raddCount (r : BitVec 512) : Nat := if bit (Record.arg r) 30 then 1 else raddW r

theorem length_raddOut : (raddOut r n first arr loc).1.length = raddCount r := by
  unfold raddCount
  cases final : bit (Record.arg r) 30 with
  | true => rw [raddOut_final final, if_pos rfl]; rfl
  | false =>
    rw [if_neg (by decide)]
    cases dd : raddDd r with
    | true => rw [raddOut_dd final dd, (raddDd_fp64 dd).2]; rfl
    | false => rw [raddOut_plain final dd, List.length_map, upTo_eq_range, List.length_range]

theorem raddOut_plain_elem (f : Record.argBits r 26 4 ≤ 3) (final : bit (Record.arg r) 30 = false) (dd : raddDd r = false)
    {j e : Nat} (hj : j < raddW r) (he : e < 512) :
    payElem ((raddOut r n first arr loc).1.getD j z).pay 8 e = (raddSum r arr loc (512 * j + e)).1 % 2 ^ 64 := by
  have fills := raddW_fills f dd
  have inside : 512 * j + e < 4096 / fmtSize (Record.argBits r 26 4) := by omega
  rw [raddOut_plain final dd, getD_map_upTo _ _ hj, wideTile, Tile.seal, payElem_wide he]
  congr 1
  rw [List.getD_eq_getElem?_getD, List.getElem?_map, List.getElem?_take_of_lt he, List.getElem?_drop, List.getElem?_map, upTo_eq_range,
    List.getElem?_range inside]
  rfl

theorem raddOut_dd_elem (final : bit (Record.arg r) 30 = false) (dd : raddDd r = true) {e : Nat} (he : e < 512) :
    payElem ((raddOut r n first arr loc).1.getD 0 z).pay 8 e = (raddSum r arr loc e).1 % 2 ^ 64 ∧
    payElem ((raddOut r n first arr loc).1.getD 1 z).pay 8 e = (raddSum r arr loc e).2.1 % 2 ^ 64 := by
  have elems : 4096 / fmtSize (Record.argBits r 26 4) = 512 := by
    rw [(raddDd_fp64 dd).1]
    rfl
  rw [raddOut_dd final dd, elems]
  refine ⟨?_, ?_⟩
  · show payElem (BitVec.ofNat 32768 _) 8 e = _
    rw [payElem_wide he, List.map_map, getD_map_upTo _ _ he]
    rfl
  · show payElem (BitVec.ofNat 32768 _) 8 e = _
    rw [payElem_wide he, List.map_map, getD_map_upTo _ _ he]
    rfl

theorem raddOut_final_elem (final : bit (Record.arg r) 30 = true) {i j : Nat} (hi : i < fmtRows (Record.argBits r 26 4))
    (hj : j < fmtCols (Record.argBits r 26 4)) (vi : i < (finalHead r n first loc).vrows) (vj : j < (finalHead r n first loc).vcols) :
    ((raddOut r n first arr loc).1.getD 0 z).elem (Record.argBits r 26 4) i j =
      (raddFinal (Record.argBits r 26 4) (raddDd r)
        (arr.map fun l => arrivingElem r l (i * fmtCols (Record.argBits r 26 4) + j))
        (localElem r loc (i * fmtCols (Record.argBits r 26 4) + j))).1 % 2 ^ (8 * fmtSize (Record.argBits r 26 4)) := by
  rw [raddOut_final final]
  show payElem (payOf _ _ _ _) _ _ = _
  rw [payElem_payOf _ hi hj vi vj, getD_map_upTo _ _ (elem_lt hi hj)]
end

/-! ## The row -/

section
variable {k : CoreIx} {c : Cmd}

/-- The arriving tiles of a RADD's payload position, where it has an arriving operand. -/
def Machine.State.raddArrived (s : State) (k : Nat) (c : Cmd) : Option (List Tile) :=
  if (Record.desc c.r 0).kind ≠ 0 then some ((upTo (raddW c.r)).map fun j => s.heldTile k c 0 (raddW c.r * c.steps.length + j)) else none

/-- Tiles of the local operand in one payload position. -/
def raddLocals (r : BitVec 512) : Nat := if raddWide r 1 then raddW r else 1

/-- The local tiles of a RADD's payload position. -/
def Machine.State.raddLocal (s : State) (k : Nat) (c : Cmd) : List Tile :=
  (upTo (raddLocals c.r)).map fun j => s.heldTile k c 1 (raddLocals c.r * c.steps.length + j)

/-- What a RADD forms of the payload position that it is at. -/
def Machine.State.raddFormed (s : State) (k : Nat) (c : Cmd) : List Tile × Fl :=
  raddOut c.r c.steps.length (match c.b.first with | none => ({} : Head) | some h => Head.ofBits h) (s.raddArrived k c) (s.raddLocal k c)

/-- The output of a payload position written. -/
def Machine.State.raddWritten (s : State) (k : Nat) (c : Cmd) : State :=
  (s.putAll k (Record.desc c.r 2) c.out (s.raddFormed k c).1).flags (Reg.vectStat k) (s.raddFormed k c).2

/-- The operands of a payload position used up: the state and the record. -/
def Machine.State.raddUsed (s : State) (k : Nat) (c : Cmd) : State × Cmd :=
  let ra := if (Record.desc c.r 0).kind ≠ 0 then s.useUpN k c 0 (raddW c.r) else (s, c)
  ra.1.useUpN k ra.2 1 (raddLocals c.r)

theorem raddUsed_releases (s : State) (k : Nat) (c : Cmd) : Released k s (s.raddUsed k c).1 ∧ c.FlowsOnly (s.raddUsed k c).2 := by
  unfold State.raddUsed
  dsimp only
  split_ifs
  · obtain ⟨r0, f0⟩ := useUpN_releases s k c 0 (raddW c.r)
    obtain ⟨r1, f1⟩ := useUpN_releases (s.useUpN k c 0 (raddW c.r)).1 k (s.useUpN k c 0 (raddW c.r)).2 1 (raddLocals c.r)
    exact ⟨r0.trans r1, f0.trans f1⟩
  · exact useUpN_releases s k c 1 _

/-- The record of a RADD that has added one more payload position. -/
def raddNext (c d : Cmd) : Cmd := { d with out := c.out + raddCount c.r, steps := c.steps.length :: c.steps }

theorem exec_radd (w : AtWork s 4 k.val 2 0 c) (begun : c.begun = true)
    (here : (Record.desc c.r 0).kind ≠ 0 → raddW c.r * (c.steps.length + 1) ≤ c.a.got)
    (local_ : raddLocals c.r * (c.steps.length + 1) ≤ c.b.got) (room : s.canPutN k.val (Record.desc c.r 2) (raddCount c.r) = true) :
    let u := (s.raddWritten k.val c).raddUsed k.val c
    exec (.radd k) s = .next (u.1.onward (c.steps.length + 1 = raddT c.r) 4 k.val 0 (raddNext c u.2)) := by
  intro u
  obtain ⟨active, runs, op⟩ := w
  have row : s.runVect k.val 2 (fun s c => s.raddStep k.val c) = s.raddStep k.val c := by
    simp [State.runVect, active, runs, op, begun]
  have got1 : ¬ c.b.got < (if raddWide c.r 1 then raddW c.r * (c.steps.length + 1) else c.steps.length + 1) := by
    unfold raddLocals at local_
    split_ifs at local_ ⊢
    · omega
    · omega
  show Host.Outcome.next _ = _
  rw [row]
  unfold State.raddStep
  dsimp only
  rw [if_neg fun h => absurd (here h.1) (by omega), if_neg got1]
  rw [show (if bit (Record.arg c.r) 30 = true then 1 else raddW c.r) = raddCount c.r from rfl, room]
  rfl
/-- What a RADD has done with its payload position, whatever it then does with its record. -/
theorem radd_ends (w : AtWork s 4 k.val 2 0 c) (u : State × Cmd) (released : Released k.val (s.raddWritten k.val c) u.1)
    (flows : c.FlowsOnly u.2) :
    let t := u.1.onward (c.steps.length + 1 = raddT c.r) 4 k.val 0 (raddNext c u.2)
    (t.core k.val).slots = ((s.putAll k.val (Record.desc c.r 2) c.out (s.raddFormed k.val c).1).core k.val).slots ∧
    (∃ c', (t.queue 4 k.val)[0]? = some c' ∧ c'.r = c.r ∧ c'.steps = c.steps.length :: c.steps ∧ c'.out = c.out + raddCount c.r ∧
      c'.complete = decide (c.steps.length + 1 = raddT c.r)) ∧
    t.mem = s.mem ∧ t.recov = s.recov ∧ (∀ a, a ≠ Reg.vectStat k.val → t.reg a = s.reg a) := by
  obtain ⟨at_, open_⟩ := w.head
  obtain ⟨framed, recov, slots, queue⟩ := released
  obtain ⟨a, b, uc⟩ := flows
  have wrote : Frame (· = Reg.vectStat k.val) Nothing (· = k.val) Nothing s (s.raddWritten k.val c) :=
    (frame_putAll _ _ _).trans (frame_flags _ _ _ rfl)
  have before : (u.1.queue 4 k.val)[0]? = some c := by
    rw [queue]
    exact (congrArg (·[0]?) (queue_putAll _ _ _ _ _)).trans at_
  have ends : Frame (· = Reg.vectStat k.val) Nothing (· = k.val) Nothing s
      (u.1.onward (c.steps.length + 1 = raddT c.r) 4 k.val 0 (raddNext c u.2)) :=
    (wrote.trans (framed.mono (fun _ n => n.elim) (fun _ n => n) (fun _ e => e) (fun _ n => n))).trans
      (frame_onward _ _ 4 _ _ _ (by omega) (fun _ _ => rfl) (by omega))
  obtain ⟨n, front⟩ := record_onward (last := c.steps.length + 1 = raddT c.r) (by decide) (by decide) before (raddNext c u.2)
    (by rw [uc]; exact open_)
  refine ⟨?_, ⟨_, front, by rw [uc]; exact ⟨rfl, rfl, rfl, rfl⟩⟩, ends.mem, ?_, ends.reg⟩
  · rw [slots_onward, slots]
    rfl
  · rw [(quiet_onward _ _ _ _ _ _).2.1, recov]
    exact (quiet_putAll _ _ _).2.1
end

/-- Settles O34. -/
theorem raddAddsPartials : Obligations.RaddAddsPartials := by
  unfold Obligations.RaddAddsPartials
  intro k s c work begun format f w n d final nout w1 arr loc sum here local_ room depth
  have acts := exec_radd work begun here local_ room
  obtain ⟨released, flows⟩ := raddUsed_releases (s.raddWritten k.val c) k.val c
  obtain ⟨slots, ends⟩ := radd_ends work _ released flows
  have tile : ∀ j < nout, ((s.putAll k.val d c.out (s.raddFormed k.val c).1).core k.val).slot (if d.kind = 2 then
      portSlotOf d.port ((s.core k.val).port d.port) (((s.core k.val).port d.port).count + j) else d.row0 + c.out + j) =
      (s.raddFormed k.val c).1.getD j { hdr := 0, pay := 0 } := fun j lt =>
    slot_putAll (s.raddFormed k.val c).1 s c.out (fun port => by rw [State.raddFormed, length_raddOut]; exact depth port)
      (by rw [State.raddFormed, length_raddOut]; exact lt) _
  refine ⟨_, acts, ?_⟩
  dsimp only
  unfold Core.slot at tile ⊢
  rw [slots]
  refine ⟨fun fin dd j hj e he => ?_, fun fin dd e he => ?_, fun fin i hi j hj vi vj => ?_, ends⟩
  · rw [tile j (by rw [show nout = w from if_neg (by rw [fin]; decide)]; exact hj)]
    exact raddOut_plain_elem format fin dd hj he
  · have two : nout = 2 := (if_neg (by rw [fin]; decide)).trans (raddDd_fp64 dd).2
    rw [tile 0 (by omega), tile 1 (by omega)]
    exact raddOut_dd_elem fin dd he
  · rw [tile 0 (by rw [show nout = 1 from if_pos fin]; decide)]
    exact raddOut_final_elem fin hi hj (by rw [finalHead_valid.1]; exact vi) (by rw [finalHead_valid.2]; exact vj)

end Sys2Proof
end

section
/-! PROOFS. What a drain of trace rings leaves as it is, and the last report of a deal (R553, R561). -/

namespace Sys2Proof

open Machine

variable {s t : State}

/-! ## Registers of suits and hands (R532) -/

theorem not_granReg_suitBase {i x : Nat} (lt : x < 0x08000000) (off : x < 0x30100 ∨ 0x30200 ≤ x ∧ x < 0x90000 ∨ 0x90020 ≤ x) :
    ¬ GranReg (suitBase i + x) := by
  rintro ⟨j, e | ⟨n, hn, e⟩⟩
  · simp only [Reg.pfUsed, Reg.pfOnTime, Reg.pfLate, suitBase, List.mem_cons, List.not_mem_nil, or_false] at e
    omega
  · simp only [Reg.hbmPc, suitBase] at e
    omega

/-- Registers that a drain of hands' trace rings writes. -/
def FlushRegs (a : Nat) : Prop := ∃ h < 640, a = Reg.handLost h ∨ a = Reg.handObsStat h

theorem not_flushRegs_suitBase {i x : Nat} (lt : x < 0x01000000) : ¬ FlushRegs (suitBase i + x) := by
  rintro ⟨h, _, e⟩
  simp only [Reg.handLost, Reg.handObsStat, handBase, suitBase] at e
  omega

theorem not_flushRegs_handBase {h x : Nat} (lt : x < 0x1000) : ¬ FlushRegs (handBase h + x) := by
  rintro ⟨j, _, e⟩
  simp only [Reg.handLost, Reg.handObsStat, handBase, suitBase] at e
  omega

/-! ## Drains of a unit's trace ring (R561, R565) -/

/-- A drain of trace rings: only the rings, their counts and their registers change beside what accesses to HBM change. -/
structure Flushed (R : Nat → Prop) (s t : State) : Prop where
  frame : MemFrame R (fun _ => True) Nothing (fun _ => True) s t
  hand : ∀ i, (s.hand i).RingOnly (t.hand i)
  mill : ∀ i, (s.mill i).RingOnly (t.mill i)
  calm : Calm s t

theorem Calm.refl (s : State) : Calm s s := ⟨rfl, rfl, [], by simp⟩

section
variable {R : Nat → Prop} {r u : State}

theorem Flushed.refl {R : Nat → Prop} (s : State) : Flushed R s s := ⟨.refl s, fun _ => .refl _, fun _ => .refl _, .refl s⟩

theorem Machine.Mill.RingOnly.trans {d e f : Mill} (a : d.RingOnly e) (c : e.RingOnly f) : d.RingOnly f := by
  unfold Mill.RingOnly at a c ⊢
  rw [c, a]

theorem Flushed.trans (a : Flushed R r s) (b : Flushed R s t) : Flushed R r t :=
  ⟨a.frame.trans b.frame, fun i => (a.hand i).trans (b.hand i), fun i => (a.mill i).trans (b.mill i), a.calm.trans b.calm⟩

theorem flushed_setReg (s : State) {a : Nat} (v : W32) (p : R a) : Flushed R s (s.setReg a v) :=
  ⟨(frame_setReg s a v p).mem_frame, fun _ => .refl _, fun _ => .refl _, Quiet.calm ⟨rfl, rfl, rfl⟩⟩

theorem flushed_setHand (s : State) (h : Nat) (d : Hand) (p : (s.hand h).RingOnly d) : Flushed R s (s.setHand h d) := by
  refine ⟨(frame_setHand (H := fun _ => True) s h d trivial).mem_frame, fun i => ?_, fun _ => .refl _, Quiet.calm ⟨rfl, rfl, rfl⟩⟩
  rw [State.hand_setHand]
  split_ifs with e
  · rw [e]
    exact p
  · exact .refl _

theorem flushed_setMill (s : State) (m : Nat) (d : Mill) (p : (s.mill m).RingOnly d) : Flushed R s (s.setMill m d) := by
  refine ⟨(frame_setMill (M := fun _ => True) s m d trivial).mem_frame, fun _ => .refl _, fun i => ?_, Quiet.calm ⟨rfl, rfl, rfl⟩⟩
  rw [State.mill_setMill]
  split_ifs with e
  · rw [e]
    exact p
  · exact .refl _

theorem calm_storeVa (s : State) (unit tid va pa : Nat) (pcopy : Bool) (n v : Nat) : Calm s (s.storeVa unit tid va pa pcopy n v) := by
  have stored : ∀ (s : State) pa, Calm s (s.storePa tid pa n v) := fun s pa =>
    (memFrame_storePa (R := Nothing) (H := Nothing) (C := Nothing) (M := Nothing) s tid pa n v).2
  have home : Calm (s.walkLines unit va) ((s.walkLines unit va).storeHome tid pa pcopy n v) := by
    unfold State.storeHome
    dsimp only
    split_ifs
    · exact (stored _ _).trans (stored _ _)
    · exact stored _ _
  have trained := Demand.foldl (fun (s : State) l => s.trainOn (pa / 2 ^ 38) tid l (pa / 65536 * 65536))
    (fun s l => demand_trainOn s _ tid l _) (linesIn va n) ((s.walkLines unit va).storeHome tid pa pcopy n v)
  exact ((demand_walkLines s unit va).calm.trans home).trans trained.calm

theorem flushed_vwrite {unit tid va n v : Nat} (e : s.vwrite unit tid va n v = some t) : Flushed R s t := by
  unfold State.vwrite at e
  split at e
  · obtain rfl := Option.some.inj e
    have framed := memFrame_storeVa (R := R) (H := Nothing) (C := Nothing) (M := Nothing) s unit tid va
    refine ⟨memFrame_storeVa .., fun i => ?_, fun i => ?_, calm_storeVa ..⟩
    · rw [(framed _ _ n v).hand i id]
      exact .refl _
    · rw [(framed _ _ n v).mill i id]
      exact .refl _
  · cases e

theorem flushed_setRing (s : State) (x : Nat) (l : List (BitVec 256)) : Flushed R s (s.setRing x l) := by
  unfold State.setRing
  split_ifs
  · exact flushed_setHand s x _ rfl
  · exact flushed_setMill s _ _ rfl

section
variable {x : Nat} (p : x < 640 → R (Reg.handLost x) ∧ R (Reg.handObsStat x))
include p

theorem flushed_loseTrace (s : State) (n : Nat) : Flushed R s (s.loseTrace x n) := by
  unfold State.loseTrace
  split_ifs with lt
  · exact (flushed_setHand s x { s.hand x with lostNew := (s.hand x).lostNew + n } rfl).trans (flushed_setReg _ _ (p lt).1)
  · exact flushed_setMill s _ _ rfl

theorem flushed_loseDrain (s : State) (out : List (BitVec 256)) : Flushed R s (s.loseDrain x out) := by
  unfold State.loseDrain
  split
  · exact flushed_loseTrace p s _
  · dsimp only
    split_ifs with lt
    · exact (flushed_setRing s x _).trans (flushed_setReg _ _ (p lt).1)
    · exact (flushed_setRing s x _).trans (flushed_setMill _ _ _ rfl)

theorem flushed_drainWrite (s : State) : Flushed R s (s.drainWrite x) := by
  have taken : Flushed R s (s.setRing x ((s.ringOf x).drop 32)) := flushed_setRing s x ((s.ringOf x).drop 32)
  unfold State.drainWrite
  dsimp only
  generalize (s.job.wrap == 1 && _) = full
  cases full with
  | true =>
    rw [if_pos rfl]
    split_ifs with lt
    · exact (taken.trans (flushed_setReg _ _ (p lt).2)).trans (flushed_loseTrace p _ _)
    · exact taken.trans (flushed_loseTrace p _ _)
  | false =>
    rw [if_neg Bool.false_ne_true]
    split
    · exact taken.trans (flushed_loseDrain p _ _)
    · next w1 =>
      split
      · exact taken.trans (flushed_vwrite w1)
      · next w2 => exact (taken.trans (flushed_vwrite w1)).trans (flushed_vwrite w2)

theorem flushed_drainAll (n : Nat) (s : State) : Flushed R s (State.drainAll n s x) := by
  induction n generalizing s with
  | zero => exact .refl s
  | succ n ih =>
    unfold State.drainAll
    split_ifs
    · exact .refl s
    · exact (flushed_drainWrite p s).trans (ih _)

theorem flushed_flushRing (s : State) : Flushed R s (s.flushRing x) := flushed_drainAll p 80 s
end

/-- Every unit's ring drained. -/
theorem flushed_all (n : Nat) (s : State) : Flushed FlushRegs s ((upTo n).foldl (fun (s : State) u => s.flushRing u) s) := by
  have each : ∀ (l : List Nat) (s : State), Flushed FlushRegs s (l.foldl (fun (s : State) u => s.flushRing u) s) := by
    intro l
    induction l with
    | nil => exact .refl
    | cons x l ih => exact fun s => (flushed_flushRing (fun lt => ⟨⟨x, lt, .inl rfl⟩, x, lt, .inr rfl⟩) s).trans (ih _)
  exact each _ s
end

/-! ## Units in service and units left (R553) -/

section
variable {a b : State}

theorem Flushed.suitUp (e : Flushed R a b) (i : Nat) : b.suitUp i = a.suitUp i := by
  obtain ⟨g, d, n, suit⟩ := e.frame.suit i
  obtain ⟨_, _, l, recov⟩ := e.calm
  obtain ⟨_, part, _, _, _, _, _, _, _, _, _, _, _, _, _, _, _, _, _, _, _, ctl, _⟩ := e.frame.rest
  simp only [State.suitUp, State.fusedIn, part, ctl, suit, recov]

/-- None of the registers is in the fabric block of a suit, where fence and fold bits stand. -/
def OffFabric (R : Nat → Prop) : Prop := ∀ i x, x < 0x30100 → ¬ R (suitBase i + x)

theorem offFabric_flushRegs : OffFabric FlushRegs := fun _ _ lt => not_flushRegs_suitBase (by omega)

theorem Flushed.fabric (e : Flushed R a b) (off : OffFabric R) {i x r : Nat} (lt : x < 0x30100) (at_ : r = suitBase i + x) :
    b.reg r = a.reg r := by
  rw [at_]
  exact e.frame.reg _ (off i x lt) (not_granReg_suitBase (by omega) (.inl lt))

theorem Flushed.handUp (e : Flushed R a b) (clear : OffFabric R) (h : Nat) : b.handUp h = a.handUp h := by
  have up : b.suitUp = a.suitUp := funext e.suitUp
  have off : b.fusedOff = a.fusedOff := by
    obtain ⟨_, part, _, _, _, _, _, _, _, _, _, _, _, _, _, _, _, _, _, _, _, ctl, _⟩ := e.frame.rest
    simp only [State.fusedOff, State.fusedIn, part, ctl]
  have fence : b.fenced h = a.fenced h := State.flag_congr
    (e.fabric clear (i := h / 160) (x := 0x10 + 4 * (h % 160 / 32)) (by omega) (by unfold Reg.fence; omega)) _
  have mask : ∀ i, b.foldMask i = a.foldMask i := fun i => by
    unfold State.foldMask
    rw [off, State.field_congr (e.fabric clear (r := Reg.fabCtl i) (i := i) (x := 0) (by decide) (by unfold Reg.fabCtl; omega))]
  unfold State.handUp State.folded
  rw [up, fence]
  simp only [mask]

theorem Flushed.willStart (e : Flushed R a b) (u : Nat) : b.willStart u = a.willStart u := by
  obtain ⟨_, _, _, _, _, _, _, _, _, _, _, _, _, _, _, _, job, _⟩ := e.frame.rest
  simp only [State.willStart, job]

theorem Machine.Hand.RingOnly.reported {d e : Hand} (o : d.RingOnly e) : e.reported = d.reported := by rw [o]
theorem Machine.Hand.RingOnly.stream' {d e : Hand} (o : d.RingOnly e) : e.stream = d.stream := by rw [o]
theorem Machine.Mill.RingOnly.reported {d e : Mill} (o : d.RingOnly e) : e.reported = d.reported := by rw [o]
theorem Machine.Mill.RingOnly.stream {d e : Mill} (o : d.RingOnly e) : e.stream = d.stream := by rw [o]
theorem Machine.Mill.RingOnly.ended {d e : Mill} (o : d.RingOnly e) : e.ended = d.ended := by rw [o]

theorem Flushed.handsLeft (e : Flushed R a b) (clear : OffFabric R) : b.handsLeft = a.handsLeft := by
  unfold State.handsLeft
  refine List.filter_congr fun h _ => ?_
  rw [(e.hand h).reported, (e.hand h).stream', e.willStart, e.handUp clear]

theorem Flushed.millsLeft (e : Flushed R a b) : b.millsLeft = a.millsLeft := by
  unfold State.millsLeft
  refine List.filter_congr fun m _ => ?_
  rw [(e.mill m).reported, (e.mill m).stream, e.willStart, e.suitUp]

theorem Flushed.allDone (e : Flushed R a b) (clear : OffFabric R) : b.allDone = a.allDone := by
  have up : b.suitsUp = a.suitsUp := by
    unfold State.suitsUp
    exact List.filter_congr fun i _ => e.suitUp i
  unfold State.allDone
  rw [e.handsLeft clear, e.millsLeft, up]
end

/-- The deal's last unit has reported: every ring is drained and DONE set, and nothing else that a drain leaves changes. -/
theorem jobDone_drains (s : State) : Flushed (fun a => FlushRegs a ∨ a = Reg.jobStat) s s.jobDone := by
  unfold State.jobDone
  split_ifs
  · have drained := flushed_all 648 s
    have more : Flushed (fun a => FlushRegs a ∨ a = Reg.jobStat) s ((upTo 648).foldl (fun (s : State) u => s.flushRing u) s) :=
      ⟨{ drained.frame with reg := fun a n g => drained.frame.reg a (fun f => n (.inl f)) g }, drained.hand, drained.mill, drained.calm⟩
    exact more.trans (flushed_setReg _ _ (.inr rfl))
  · exact .refl s

theorem jobDone_sets (run : s.job.run = true) (all : s.allDone = true) : s.jobDone.flag Reg.jobStat 29 = true := by
  unfold State.jobDone
  rw [run, all, if_pos (by decide)]
  exact State.flag_setBit _ _ 29 (by decide)

end Sys2Proof
end

section
/-! PROOFS. The Mill's control records, and the done reports (R82, R83, R260, R263, R553). -/

namespace Sys2Proof

open Machine

variable {s t b : State}

/-! ## A Mill's record begins and commits -/

/-- The event counters of a Mill. -/
def MillEvcs (m a : Nat) : Prop := ∃ c < 64, a = Reg.millEvc m c

/-- A Mill's record has committed: its increments are applied, and it has left the front of the fetch buffer. -/
structure MillCommits (m : Nat) (r : BitVec 512) (s t : State) : Prop where
  evc : ∀ c < 64, t.millEvc m c = s.millEvc m c + incsOf r c
  frame : Frame (MillEvcs m) Nothing Nothing (· = m) s t
  quiet : Quiet s t

theorem quiet_millIncs (s : State) (m : Nat) (x : BitVec 512) : Quiet s (s.millIncs m x) :=
  (quiet_inc1 s _ x 0).trans (quiet_inc1 _ _ x 1)

theorem millCommits_millCommit (s : State) (m : Nat) (r : BitVec 512) : MillCommits m r s (s.millCommit m r) := by
  have ended : ∀ {R : Nat → Prop}, Frame R Nothing Nothing (· = m) (s.millIncs m r) (s.millCommit m r) := fun {R} =>
    ((frame_traceEnd (M := (· = m)) _ 8 m r 0 0 0 (fun n => absurd rfl n) (fun n => absurd rfl n) (fun _ => rfl)).trans
      (frame_setMill_self _ m _)).trans (frame_setMill_self _ m _)
  refine ⟨fun c _ => ?_, (frame_millIncs s m r fun c hc => ⟨c, hc, rfl⟩).trans ended,
    (quiet_millIncs s m r).trans (traced_traceEnd _ 8 m r 0 0 0).quiet⟩
  rw [← State.millEvc_millIncs]
  exact (ended (R := Nothing)).reg _ id

/-- A record begins, changes its Mill alone, and commits. -/
theorem MillCommits.after {m : Nat} {r : BitVec 512} (f : Frame Nothing Nothing Nothing (· = m) s b) (c : MillCommits m r b t) :
    (∀ i < 64, t.millEvc m i = s.millEvc m i + incsOf r i) ∧ Frame (MillEvcs m) Nothing Nothing (· = m) s t :=
  ⟨fun i hi => (c.evc i hi).trans (congrArg (· + _) (f.reg _ id)),
    (f.mono (fun _ => False.elim) (fun _ => id) (fun _ => id) (fun _ => id)).trans c.frame⟩

theorem frame_millBegin (s : State) (m : Nat) (r : BitVec 512) : Frame Nothing Nothing Nothing (· = m) s (s.traceBegin 8 m r 0) :=
  frame_traceBegin s 8 m r 0 (fun n => absurd rfl n) (fun n => absurd rfl n) (fun _ => rfl)

section
variable {m : MillIx} {va : Nat} {r : BitVec 512}

/-- The Mill of a record that has begun: only its trace ring differs. -/
theorem mill_begin (s : State) (m : Nat) (r : BitVec 512) : (s.mill m).RingOnly ((s.traceBegin 8 m r 0).mill m) :=
  (traced_traceBegin s 8 m r 0).mill m

theorem halted_begin {op : Nat} (e : s.millHead m.val op = .ready va r) : ((s.traceBegin 8 m.val r 0).mill m.val).halted = false := by
  rw [(mill_begin s m.val r).halted, halted_of_millHead e]

theorem exec_millNop (e : s.millHead m.val 0 = .ready va r) :
    exec (.millNop m) s = .next ((s.traceBegin 8 m.val r 0).millCommit m.val r) :=
  congrArg Host.Outcome.next (millRow_of_ready e rfl (halted_begin e))

theorem millNop_commits (e : s.millHead m.val 0 = .ready va r) : Does (.millNop m) s fun t =>
    (∀ c < 64, t.millEvc m.val c = s.millEvc m.val c + incsOf r c) ∧ (t.mill m.val).buf = (s.mill m.val).buf.drop 1 ∧
    (t.mill m.val).fetch = (s.mill m.val).fetch ∧ Frame (MillEvcs m.val) Nothing Nothing (· = m.val) s t ∧ Quiet s t := by
  have commits := millCommits_millCommit (s.traceBegin 8 m.val r 0) m.val r
  have ring := mill_begin s m.val r
  obtain ⟨buf, fetch, _⟩ := mill_millCommit (s.traceBegin 8 m.val r 0) m.val r
  obtain ⟨evc, framed⟩ := commits.after (frame_millBegin s m.val r)
  exact ⟨_, exec_millNop e, evc, by rw [buf, ring.buf], fetch.trans ring.fetch, framed,
    (traced_traceBegin s 8 m.val r 0).quiet.trans commits.quiet⟩

/-- The increment packet that a Mill's SIGNAL sends. -/
def Machine.State.millSignals (s : State) (m : Nat) (r : BitVec 512) : State :=
  s.send (epMill m) (Record.argBits r 0 16) 3 (640 + m / 2) (.signal (Record.argBits r 16 6) (Record.argBits r 22 8))

theorem exec_millSignal (e : s.millHead m.val 4 = .ready va r) :
    exec (.millSignal m) s = .next (((s.traceBegin 8 m.val r 0).millSignals m.val r).millCommit m.val r) :=
  congrArg Host.Outcome.next (millRow_of_ready e rfl (halted_begin e))

theorem millSignal_sends (e : s.millHead m.val 4 = .ready va r) : Does (.millSignal m) s fun t =>
    t.net = s.net ++ [ctlPacket (epMill m.val) (Record.argBits r 0 16) (640 + m.val / 2)
      (.signal (Record.argBits r 16 6) (Record.argBits r 22 8))] ∧
    (∀ c < 64, t.millEvc m.val c = s.millEvc m.val c + incsOf r c) ∧ (t.mill m.val).buf = (s.mill m.val).buf.drop 1 ∧
    t.recov = s.recov ∧ Frame (MillEvcs m.val) Nothing Nothing (· = m.val) s t := by
  have commits := millCommits_millCommit ((s.traceBegin 8 m.val r 0).millSignals m.val r) m.val r
  have begun := (traced_traceBegin s 8 m.val r 0).quiet
  obtain ⟨buf, _, _⟩ := mill_millCommit ((s.traceBegin 8 m.val r 0).millSignals m.val r) m.val r
  obtain ⟨evc, framed⟩ := commits.after ((frame_millBegin s m.val r).trans (frame_send _ _ _ _ _ _))
  refine ⟨_, exec_millSignal e, ?_, evc, ?_, commits.quiet.2.1.trans begun.2.1, framed⟩
  · rw [commits.quiet.1, State.millSignals, net_send_ctl, begun.1]
  · rw [buf]
    exact congrArg (List.drop 1) (mill_begin s m.val r).buf

theorem exec_millJump (e : s.millHead m.val 7 = .ready va r) :
    exec (.millJump m) s = .next (((s.traceBegin 8 m.val r 0).millRedirect m.val (Record.target r)).millCommit m.val r) := by
  refine congrArg Host.Outcome.next (millRow_of_ready e rfl ?_)
  rw [State.millRedirect, State.mill_setMill, if_pos rfl]
  exact halted_begin e

theorem frame_millRedirect (s : State) (m target : Nat) : Frame Nothing Nothing Nothing (· = m) s (s.millRedirect m target) :=
  frame_setMill_self s m _

theorem millJump_commits (e : s.millHead m.val 7 = .ready va r) : Does (.millJump m) s fun t =>
    (∀ c < 64, t.millEvc m.val c = s.millEvc m.val c + incsOf r c) ∧ (t.mill m.val).buf = [] ∧
    (t.mill m.val).fetch = Record.target r ∧ Frame (MillEvcs m.val) Nothing Nothing (· = m.val) s t ∧ Quiet s t := by
  have commits := millCommits_millCommit ((s.traceBegin 8 m.val r 0).millRedirect m.val (Record.target r)) m.val r
  obtain ⟨buf, fetch, _⟩ := mill_millCommit ((s.traceBegin 8 m.val r 0).millRedirect m.val (Record.target r)) m.val r
  obtain ⟨evc, framed⟩ := commits.after ((frame_millBegin s m.val r).trans (frame_millRedirect _ _ _))
  refine ⟨_, exec_millJump e, evc, ?_, ?_, framed, (traced_traceBegin s 8 m.val r 0).quiet.trans commits.quiet⟩
  · rw [buf, State.millRedirect, State.mill_setMill, if_pos rfl]
    simp
  · rw [fetch, State.millRedirect, State.mill_setMill, if_pos rfl]

theorem frame_millLoopStep (s : State) (m : Nat) (r : BitVec 512) : Frame Nothing Nothing Nothing (· = m) s (s.millLoopStep m r) := by
  unfold State.millLoopStep
  dsimp only
  split_ifs
  · exact frame_setMill_self s m _
  · exact (frame_setMill_self s m _).trans (frame_millRedirect _ _ _)

theorem quiet_millLoopStep (s : State) (m : Nat) (r : BitVec 512) : Quiet s (s.millLoopStep m r) := by
  unfold State.millLoopStep
  dsimp only
  split_ifs
  · exact ⟨rfl, rfl, rfl⟩
  · exact ⟨rfl, rfl, rfl⟩

theorem exec_millLoop_ready (e : s.millHead m.val 8 = .ready va r) :
    exec (.millLoop m) s = .next (((s.traceBegin 8 m.val r 0).millLoopStep m.val r).millCommit m.val r) := by
  refine (exec_millLoop m s).trans (congrArg _ (millRow_of_ready e rfl ?_))
  rw [mill_millLoopStep, apply_ite Mill.halted, ite_self]
  exact halted_begin e

theorem millLoop_counts (e : s.millHead m.val 8 = .ready va r) : Does (.millLoop m) s fun t =>
    let n := Record.argBits r 30 2
    let left := (if PMap.get 0 (s.mill m.val).loops n = 0 then max (Record.argBits r 0 28) 1 else PMap.get 0 (s.mill m.val).loops n) - 1
    (∀ c < 64, t.millEvc m.val c = s.millEvc m.val c + incsOf r c) ∧ PMap.get 0 (t.mill m.val).loops n = left ∧
    (left = 0 → (t.mill m.val).buf = (s.mill m.val).buf.drop 1 ∧ (t.mill m.val).fetch = (s.mill m.val).fetch) ∧
    (left ≠ 0 → (t.mill m.val).buf = [] ∧ (t.mill m.val).fetch = Record.target r) ∧
    Frame (MillEvcs m.val) Nothing Nothing (· = m.val) s t ∧ Quiet s t := by
  obtain ⟨t, acts, loops, more, last⟩ := millLoop_commits e
  obtain rfl : t = _ := Host.Outcome.next.inj (acts.symm.trans (exec_millLoop_ready e))
  have commits := millCommits_millCommit ((s.traceBegin 8 m.val r 0).millLoopStep m.val r) m.val r
  obtain ⟨evc, framed⟩ := commits.after ((frame_millBegin s m.val r).trans (frame_millLoopStep _ _ _))
  exact ⟨_, acts, evc, loops, last, more, framed,
    ((traced_traceBegin s 8 m.val r 0).quiet.trans (quiet_millLoopStep _ _ _)).trans commits.quiet⟩

/-- A Mill's record commits, and fetching stops. -/
def Machine.State.millEnds (s : State) (m : Nat) (r : BitVec 512) : State :=
  let b := (s.traceBegin 8 m r 0).millCommit m r
  b.setMill m { b.mill m with ended := true, buf := [] }

theorem exec_millEnd (e : s.millHead m.val 9 = .ready va r) :
    exec (.millEnd m) s = .next ((s.millEnds m.val r).flushRing (640 + m.val)) := by
  show execMillEnd m s = _
  unfold execMillEnd
  rw [e]
  rfl

/-- The registers of a Mill's counters are none that an access to HBM changes. -/
theorem not_granReg_millEvc {m c : Nat} (hc : c < 64) : ¬ GranReg (Reg.millEvc m c) := by
  rw [show Reg.millEvc m c = suitBase (m / 2) + (0x50000 + (m % 2) * 0x10000 + 0x100 + 4 * c) by
    unfold Reg.millEvc millBase; omega]
  exact not_granReg_suitBase (by omega) (.inr (.inl (by omega)))

theorem millEnd_commits (e : s.millHead m.val 9 = .ready va r) : Does (.millEnd m) s fun t =>
    (∀ c < 64, t.millEvc m.val c = s.millEvc m.val c + incsOf r c) ∧ (t.mill m.val).ended = true ∧ (t.mill m.val).buf = [] ∧
    t.millCanFetch m.val = false ∧ ∀ a, ¬ MillEvcs m.val a → ¬ GranReg a → t.reg a = s.reg a := by
  have commits := millCommits_millCommit (s.traceBegin 8 m.val r 0) m.val r
  obtain ⟨evc, framed⟩ := commits.after (frame_millBegin s m.val r)
  have flushed : Flushed Nothing (s.millEnds m.val r) ((s.millEnds m.val r).flushRing (640 + m.val)) :=
    flushed_flushRing (by omega) _
  have mill : (s.millEnds m.val r).mill m.val =
      { ((s.traceBegin 8 m.val r 0).millCommit m.val r).mill m.val with ended := true, buf := [] } := by
    rw [State.millEnds, State.mill_setMill, if_pos rfl]
  have ended : (((s.millEnds m.val r).flushRing (640 + m.val)).mill m.val).ended = true := by
    rw [(flushed.mill m.val).ended, mill]
  refine ⟨_, exec_millEnd e, fun c hc => ?_, ended, ?_, ?_, fun a no gran => ?_⟩
  · exact (flushed.frame.reg _ id (not_granReg_millEvc hc)).trans (evc c hc)
  · rw [(flushed.mill m.val).buf, mill]
  · simp [State.millCanFetch, ended]
  · exact (flushed.frame.reg _ id gran).trans (framed.reg a no)
end

/-! ## Done reports -/

/-- The first of the units left is one of them. -/
theorem head_left {p : Nat → Bool} {n u : Nat} (e : (upTo n).filter p = [u]) : p u = true := by
  have mem : u ∈ (upTo n).filter p := by rw [e]; exact List.mem_singleton_self u
  exact (List.mem_filter.1 mem).2

/-- A unit of those left that goes is left no more. -/
theorem left_gone {p q : Nat → Bool} {n u : Nat} (e : (upTo n).filter p = [u]) (gone : q u = false)
    (others : ∀ x, x ≠ u → q x = p x) : (upTo n).filter q = [] := by
  rw [List.filter_eq_nil_iff]
  intro x hx on
  by_cases same : x = u
  · rw [same, gone] at on
    cases on
  · rw [others x same] at on
    have mem : x ∈ (upTo n).filter p := List.mem_filter.2 ⟨hx, on⟩
    rw [e, List.mem_singleton] at mem
    exact same mem

theorem suitsUp_ne_nil {i : Nat} (lt : i < 4) (up : s.suitUp i = true) : s.suitsUp.isEmpty = false := by
  have mem : i ∈ s.suitsUp := List.mem_filter.2 ⟨by unfold suits4; simp; omega, up⟩
  cases e : s.suitsUp with
  | nil => rw [e] at mem; cases mem
  | cons => rfl

section
variable {m : MillIx}

/-- The Mill's report: the bit is set. -/
def Machine.State.millReports (s : State) (m : Nat) : State :=
  (s.setMill m { s.mill m with reported := true }).setBit (Reg.millStat m) 30

theorem exec_millDone (stream : (s.mill m.val).stream = true) (ended : (s.mill m.val).ended = true)
    (first : (s.mill m.val).reported = false) (idle : (s.mill m.val).q = []) (runs : s.millStopped m.val = false) :
    exec (.millDone m) s = .next ((s.millReports m.val).flushRing (640 + m.val)).jobDone := by
  show execMillDone m s = _
  unfold execMillDone
  dsimp only
  rw [if_pos (by simp [stream, ended, first, idle, runs])]
  rfl

theorem allDone_of_none {i : Nat} (hands : s.handsLeft = []) (mills : s.millsLeft = []) (lt : i < 4) (up : s.suitUp i = true) :
    s.allDone = true := by
  have some_ := suitsUp_ne_nil lt up
  rw [State.allDone, hands, mills, some_]
  rfl

theorem at_millStat (m : Nat) : Reg.millStat m = suitBase (m / 2) + (0x50000 + (m % 2) * 0x10000) := by
  unfold Reg.millStat millBase
  omega

theorem millReports_last (pending : s.willStart (640 + m.val) = false) (hands : s.handsLeft = [])
    (mills : s.millsLeft = [m.val]) : (s.millReports m.val).allDone = true := by
  have up : s.suitUp (m.val / 2) = true := (Bool.and_eq_true_iff.1 (head_left mills)).2
  have set : Flushed (· = Reg.millStat m.val) (s.setMill m.val { s.mill m.val with reported := true }) (s.millReports m.val) :=
    flushed_setReg _ _ rfl
  have none : (s.setMill m.val { s.mill m.val with reported := true }).millsLeft = [] := by
    refine left_gone mills ?_ fun x other => ?_
    · rw [State.mill_setMill, if_pos rfl]
      show ((_ && !true || s.willStart (640 + m.val)) && _) = false
      rw [pending]
      simp
    · rw [State.mill_setMill, if_neg other]
      rfl
  rw [set.allDone]
  · exact allDone_of_none (i := m.val / 2) hands none (by omega) up
  · intro i x lt e
    rw [at_millStat] at e
    unfold suitBase at e
    omega
/-- A flag that no drain touches stands through the drains. -/
theorem Flushed.flag {R : Nat → Prop} {a i : Nat} (e : Flushed R s t) (n : ¬ R a) (g : ¬ GranReg a) : t.flag a i = s.flag a i :=
  State.flag_congr (e.frame.reg a n g) i

theorem millDone_reports (stream : (s.mill m.val).stream = true) (ended : (s.mill m.val).ended = true)
    (first : (s.mill m.val).reported = false) (idle : (s.mill m.val).q = []) (runs : s.millStopped m.val = false) :
    Does (.millDone m) s fun t => (t.mill m.val).reported = true ∧ t.flag (Reg.millStat m.val) 30 = true ∧
      (s.job.run = true → s.willStart (640 + m.val) = false → s.handsLeft = [] → s.millsLeft = [m.val] →
        t.flag Reg.jobStat 29 = true) := by
  have flushed : Flushed FlushRegs (s.millReports m.val) ((s.millReports m.val).flushRing (640 + m.val)) :=
    flushed_flushRing (by omega) _
  have drained := jobDone_drains ((s.millReports m.val).flushRing (640 + m.val))
  have off : ¬ FlushRegs (Reg.millStat m.val) := by
    rw [at_millStat]
    exact not_flushRegs_suitBase (by omega)
  have gran : ¬ GranReg (Reg.millStat m.val) := by
    rw [at_millStat]
    exact not_granReg_suitBase (by omega) (.inr (.inl (by omega)))
  have job : Reg.millStat m.val ≠ Reg.jobStat := by
    unfold Reg.millStat millBase suitBase Reg.jobStat
    omega
  refine ⟨_, exec_millDone stream ended first idle runs, ?_, ?_, fun run pending hands mills => ?_⟩
  · rw [(drained.mill _).reported, (flushed.mill _).reported]
    show ((s.setMill _ _).mill m.val).reported = true
    rw [State.mill_setMill, if_pos rfl]
  · rw [drained.flag (by tauto) gran, flushed.flag off gran]
    exact State.flag_setBit _ _ 30 (by decide)
  · refine jobDone_sets ?_ ?_
    · obtain ⟨_, _, _, _, _, _, _, _, _, _, _, _, _, _, _, _, same, _⟩ := flushed.frame.rest
      rw [same]
      exact run
    · rw [flushed.allDone offFabric_flushRegs, millReports_last pending hands mills]
end

section
variable {h : HandIx}

/-- The hand's report: the bit is set. -/
def Machine.State.handReports (s : State) (h : Nat) : State :=
  (s.setHand h { s.hand h with reported := true }).setBit (Reg.seqStat h) 30

theorem exec_handDone (stream : (s.hand h.val).stream = true) (ended : (s.hand h.val).ended = true)
    (first : (s.hand h.val).reported = false) (idle : s.handIdle h.val = true) (home : (s.hand h.val).detour = none) :
    exec (.handDone h) s = .next ((s.handReports h.val).flushRing h.val).jobDone := by
  show execHandDone h s = _
  unfold execHandDone
  dsimp only
  rw [if_pos (by simp [stream, ended, first, idle, home])]
  rfl

theorem handReports_last (pending : s.willStart h.val = false) (hands : s.handsLeft = [h.val])
    (mills : s.millsLeft = []) : (s.handReports h.val).allDone = true := by
  have up : s.suitUp (h.val / 160) = true := by
    unfold State.handsLeft hands640 at hands
    have left := (Bool.and_eq_true_iff.1 (head_left hands)).2
    unfold State.handUp at left
    rw [Bool.and_eq_true_iff, Bool.and_eq_true_iff] at left
    exact left.1.1
  have set : Flushed (· = Reg.seqStat h.val) (s.setHand h.val { s.hand h.val with reported := true }) (s.handReports h.val) :=
    flushed_setReg _ _ rfl
  have none : (s.setHand h.val { s.hand h.val with reported := true }).handsLeft = [] := by
    unfold State.handsLeft hands640 at hands ⊢
    refine left_gone hands ?_ fun x other => ?_
    · rw [State.hand_setHand, if_pos rfl]
      show ((_ && !true || s.willStart h.val) && _) = false
      rw [pending]
      simp
    · rw [State.hand_setHand, if_neg other]
      rfl
  rw [set.allDone]
  · exact allDone_of_none (i := h.val / 160) none mills (by omega) up
  · intro i x lt e
    unfold Reg.seqStat handBase suitBase at e
    omega

theorem handDone_reports (stream : (s.hand h.val).stream = true) (ended : (s.hand h.val).ended = true)
    (first : (s.hand h.val).reported = false) (idle : s.handIdle h.val = true) (home : (s.hand h.val).detour = none) :
    Does (.handDone h) s fun t => (t.hand h.val).reported = true ∧ t.flag (Reg.seqStat h.val) 30 = true ∧
      (s.job.run = true → s.willStart h.val = false → s.handsLeft = [h.val] → s.millsLeft = [] →
        t.flag Reg.jobStat 29 = true) := by
  have flushed : Flushed FlushRegs (s.handReports h.val) ((s.handReports h.val).flushRing h.val) :=
    flushed_flushRing (fun lt => ⟨⟨_, lt, .inl rfl⟩, _, lt, .inr rfl⟩) _
  have drained := jobDone_drains ((s.handReports h.val).flushRing h.val)
  have off : ¬ FlushRegs (Reg.seqStat h.val) := not_flushRegs_handBase (by decide)
  have gran : ¬ GranReg (Reg.seqStat h.val) := not_granReg_handBase (by decide)
  have job : Reg.seqStat h.val ≠ Reg.jobStat := by
    unfold Reg.seqStat handBase suitBase Reg.jobStat
    omega
  refine ⟨_, exec_handDone stream ended first idle home, ?_, ?_, fun run pending hands mills => ?_⟩
  · rw [(drained.hand _).reported, (flushed.hand _).reported]
    show ((s.setHand _ _).hand h.val).reported = true
    rw [State.hand_setHand, if_pos rfl]
  · rw [drained.flag (by tauto) gran, flushed.flag off gran]
    exact State.flag_setBit _ _ 30 (by decide)
  · refine jobDone_sets ?_ ?_
    · obtain ⟨_, _, _, _, _, _, _, _, _, _, _, _, _, _, _, _, same, _⟩ := flushed.frame.rest
      rw [same]
      exact run
    · rw [flushed.allDone offFabric_flushRegs, handReports_last pending hands mills]
end

/-- Settles O30. -/
theorem millControlCommits : Obligations.MillControlCommits := by
  unfold Obligations.MillControlCommits
  refine ⟨?_, fun _ _ stream ended first idle home => handDone_reports stream ended first idle home⟩
  intro m s va r evs d
  exact ⟨millNop_commits, millSignal_sends, millJump_commits, millLoop_counts, millEnd_commits, millDone_reports⟩

end Sys2Proof
end

section
/-! PROOFS. JTAG, the sideband, STOP_N and the link registers (R458, R484, R486 to R488, R490, R493, R494). -/

namespace Sys2Proof

open Machine

variable {s t : State}

/-! ## The Bell rings -/

theorem ring_source (s : State) (scope suit hand source : Nat) :
    (s.ring scope suit hand source).field Reg.bellStat 25 4 = source % 16 := by
  have set : (s.setField Reg.bellStat 25 4 source).field Reg.bellStat 25 4 = source % 16 := State.field_setField _ _ 25 4 _ (by decide)
  unfold State.ring
  dsimp only
  split_ifs
  · exact set
  · obtain ⟨c, e⟩ := syncMode_eq ({ (s.setField Reg.bellStat 25 4 source).setBit Reg.bellStat 30 with bell := { s.bell with
      cuts := (s.bell.cuts.filter fun d => d.complete || !(Cut.covers { scope := scope, suit := suit, hand := hand, source := source, t0 := s.time } d)) ++
        [{ scope := scope, suit := suit, hand := hand, source := source, t0 := s.time }] } } : State)
    rw [e]
    exact (State.field_setField_other _ _ _ _ _ _ _ (by decide) (.inl (by decide))).trans set

/-- Of the control state a ringing Bell changes the module state and its interrupt count alone. -/
theorem ctl_ring (s : State) (scope suit hand source : Nat) :
    ∃ st n, (s.ring scope suit hand source).ctl = { s.ctl with state := st, ibis := n } := by
  unfold State.ring
  dsimp only
  split_ifs
  · exact ⟨_, _, rfl⟩
  · unfold State.syncMode
    split_ifs
    · exact ⟨_, _, rfl⟩
    · exact ⟨_, _, rfl⟩

theorem Rung.mem (r : Rung s t) : t.mem = s.mem := by
  obtain ⟨_, _, _, e⟩ := r.rest
  rw [e]

theorem Rung.net (r : Rung s t) : t.net = s.net := by
  obtain ⟨_, _, _, e⟩ := r.rest
  rw [e]

/-! ## JTAG (R483, R484) -/

theorem jtagBell_idle (run : s.job.run = false) : s.jtagBell = s := by
  unfold State.jtagBell
  rw [run]
  rfl

/-- While a deal runs the package Bell rings before the pins are driven. -/
theorem jtagBell_rings (run : s.job.run = true) : (s.jtagBell).bell.cuts ≠ [] ∧ s.jtagBell.mem = s.mem ∧ s.jtagBell.net = s.net ∧
    ∀ a, a ≠ Reg.bellStat → s.jtagBell.reg a = s.reg a := by
  have rung := rung_ring s 0 0 0 (s.fresh % 8)
  unfold State.jtagBell
  rw [if_pos run]
  exact ⟨rung.cuts, rung.mem, rung.net, rung.reg⟩

theorem jtag_drives (s : State) (ir : Nat) : (s.jtagBell.jtag ir).ctl.jtagIr = ir ∧
    (s.job.run = false → s.jtagBell.jtag ir = { s with ctl := { s.ctl with jtagIr := ir } }) ∧
    (s.job.run = true → (s.jtagBell.jtag ir).bell.cuts ≠ [] ∧ (s.jtagBell.jtag ir).mem = s.mem ∧ (s.jtagBell.jtag ir).net = s.net ∧
      ∀ a, a ≠ Reg.bellStat → (s.jtagBell.jtag ir).reg a = s.reg a) := by
  refine ⟨rfl, fun idle => by rw [jtagBell_idle idle]; rfl, fun run => ?_⟩
  obtain ⟨cuts, mem, net, reg⟩ := jtagBell_rings run
  exact ⟨cuts, mem, net, reg⟩

/-! ## The sideband (R486 to R488) -/

theorem i3cByte_state (s : State) : s.i3cByte 0x20 = BitVec.ofNat 8 s.ctl.state := rfl
theorem i3cByte_boot (s : State) : s.i3cByte 0x21 = BitVec.ofNat 8 (s.field Reg.bootStat 28 4) := rfl
theorem i3cByte_level (s : State) : s.i3cByte 0x30 = BitVec.ofNat 8 s.sec.level := rfl

theorem i3cRead_reads (s : State) (off len : Nat) : Does (.i3cRead off len) s fun t => ∃ l : List Byte, t.rsp = .bytes l ∧ l.length = len ∧
    (∀ i (q : i < l.length), (off + i = 0x20 → l[i] = BitVec.ofNat 8 s.ctl.state) ∧
      (off + i = 0x21 → l[i] = BitVec.ofNat 8 (s.field Reg.bootStat 28 4)) ∧ (off + i = 0x30 → l[i] = BitVec.ofNat 8 s.sec.level)) ∧
    t = { s with rsp := t.rsp, free := t.free } := by
  refine ⟨_, rfl, (upTo len).map fun i => s.i3cByte (off + i), rfl, by rw [List.length_map, upTo_eq_range, List.length_range], fun i q => ?_, rfl⟩
  simp only [List.getElem_map, upTo_eq_range, List.getElem_range]
  refine ⟨fun e => ?_, fun e => ?_, fun e => ?_⟩
  · rw [e, i3cByte_state]
  · rw [e, i3cByte_boot]
  · rw [e, i3cByte_level]

/-! ## STOP_N (R458) -/

theorem stopN_acts (s : State) (low : Bool) : Does (.stopN low) s fun t => t.ctl.stopNLow = low ∧ t.mem = s.mem ∧
    (low = true → s.ctl.stopNLow = false → s.flag Reg.bellCtl 0 = true → (∀ c ∈ s.bell.cuts, c.complete = true) →
      t.bell.cuts ≠ [] ∧ t.field Reg.bellStat 25 4 = 1) ∧
    ((low = false ∨ s.ctl.stopNLow = true ∨ s.flag Reg.bellCtl 0 = false ∨ ∃ c ∈ s.bell.cuts, c.complete = false) →
      t.bell = s.bell ∧ ∀ a, t.reg a = s.reg a) := by
  have acts : exec (.stopN low) s = .next (
      if (low && !s.ctl.stopNLow && s.flag Reg.bellCtl 0 && s.bell.cuts.all fun c => c.complete) = true then
        ({ s with ctl := { s.ctl with stopNLow := low } } : State).ring 0 0 0 1
      else { s with ctl := { s.ctl with stopNLow := low } }) := rfl
  by_cases rings : (low && !s.ctl.stopNLow && s.flag Reg.bellCtl 0 && s.bell.cuts.all fun c => c.complete) = true
  · rw [if_pos rings] at acts
    have rung := rung_ring ({ s with ctl := { s.ctl with stopNLow := low } } : State) 0 0 0 1
    obtain ⟨_, _, ctl⟩ := ctl_ring ({ s with ctl := { s.ctl with stopNLow := low } } : State) 0 0 0 1
    refine ⟨_, acts, by rw [ctl], rung.mem, fun _ _ _ _ => ⟨rung.cuts, ring_source _ 0 0 0 1⟩, fun off => ?_⟩
    simp only [Bool.and_eq_true, Bool.not_eq_true', List.all_eq_true] at rings
    obtain ⟨⟨⟨isLow, was⟩, on⟩, complete⟩ := rings
    rcases off with high | already | disabled | ⟨c, mem, busy⟩
    · rw [high] at isLow; cases isLow
    · rw [already] at was; cases was
    · rw [disabled] at on; cases on
    · rw [complete c mem] at busy; cases busy
  · rw [if_neg rings] at acts
    refine ⟨_, acts, rfl, rfl, fun isLow was on complete => absurd ?_ rings, fun _ => ⟨rfl, fun _ => rfl⟩⟩
    simp only [Bool.and_eq_true, Bool.not_eq_true', List.all_eq_true]
    exact ⟨⟨⟨isLow, was⟩, on⟩, complete⟩

/-! ## Link registers (R490, R493, R494) -/

theorem field_countSat (s : State) (a lo w n : Nat) (fits : lo + w ≤ 32) :
    (s.countSat a lo w n).field a lo w = min (2 ^ w - 1) (s.field a lo w + n) := by
  rw [State.countSat, State.field_setField _ _ _ _ _ fits, satAt]
  have pos : 0 < 2 ^ w := by positivity
  split_ifs with full
  · rw [Nat.mod_eq_of_lt (by omega)]
    omega
  · rw [Nat.mod_eq_of_lt (by omega)]
    omega

theorem flag_setField_top (s : State) (a : Nat) (up : Bool) : (s.setField a 31 1 (b2n up)).flag a 31 = up := by
  unfold State.flag
  rw [State.field_setField _ _ 31 1 _ (by decide)]
  cases up <;> decide

section
variable (s : State) (a : Nat) (up dpc again : Bool) (w r : Nat)

/-- The state fields of a PCIe link's register written. -/
def Machine.State.linkFields (s : State) (a : Nat) (up : Bool) (w r : Nat) : State :=
  ((s.setField a 31 1 (b2n up)).setField a 24 4 (if up then w else 0)).setField a 20 4 (if up then r else 15)

/-- Containment noted in a PCIe link's register, and a retraining counted. -/
def Machine.State.linkNoted (s : State) (a : Nat) (dpc again : Bool) : State :=
  let b := if dpc then s.setBit a 30 else s
  if again then b.countSat a 0 16 1 else b

/-- A field that ends below bit 30 and above bit 15 is not what containment and the count touch. -/
theorem field_linkNoted {lo n : Nat} (low : 16 ≤ lo) (high : lo + n ≤ 30 ∨ lo = 31) :
    (s.linkNoted a dpc again).field a lo n = s.field a lo n := by
  have noted : (if dpc then s.setBit a 30 else s).field a lo n = s.field a lo n := by
    cases dpc with
    | true => exact State.field_setField_other _ _ _ _ _ _ _ (by decide) (by omega)
    | false => rfl
  unfold State.linkNoted
  cases again with
  | true => exact (State.field_setField_other _ _ 0 16 _ _ _ (by decide) (.inr (by omega))).trans noted
  | false => exact noted

theorem flag_linkNoted : (s.linkNoted a dpc again).flag a 30 = (dpc || s.flag a 30) := by
  have noted : (if dpc then s.setBit a 30 else s).flag a 30 = (dpc || s.flag a 30) := by
    cases dpc with
    | true => exact State.flag_setBit _ _ 30 (by decide)
    | false => rfl
  unfold State.linkNoted
  dsimp only
  cases again with
  | true => exact (State.flag_setField_other _ _ 0 16 _ (by decide) (.inr (by decide))).trans noted
  | false => exact noted

theorem count_linkNoted : (s.linkNoted a dpc again).field a 0 16 =
    (if again then min 65535 (s.field a 0 16 + 1) else s.field a 0 16) := by
  have noted : (if dpc then s.setBit a 30 else s).field a 0 16 = s.field a 0 16 := by
    split_ifs
    · exact State.field_setField_other _ _ _ _ _ _ _ (by decide) (by omega)
    · rfl
  unfold State.linkNoted
  cases again with
  | true =>
    dsimp only
    rw [if_pos rfl, if_pos rfl, field_countSat _ _ _ _ _ (by decide), noted]
    rfl
  | false => exact noted

theorem frame_linkNoted : Frame (· = a) Nothing Nothing Nothing s (s.linkNoted a dpc again) ∧ Quiet s (s.linkNoted a dpc again) := by
  unfold State.linkNoted
  cases dpc <;> cases again
  · exact ⟨Frame.refl s, Quiet.refl s⟩
  · exact ⟨frame_countSat _ _ _ _ _ rfl, rfl, rfl, rfl⟩
  · exact ⟨frame_setBit _ _ _ rfl, rfl, rfl, rfl⟩
  · exact ⟨(frame_setBit (R := (· = a)) s a 30 rfl).trans (frame_countSat _ _ _ _ _ rfl), rfl, rfl, rfl⟩

/-- The state fields of a link's register hold what was written; the others are as they were. -/
theorem linkFields_sets (hw : w < 16) (hr : r < 16) : (s.linkFields a up w r).flag a 31 = up ∧
    (s.linkFields a up w r).field a 24 4 = (if up then w else 0) ∧ (s.linkFields a up w r).field a 20 4 = (if up then r else 15) ∧
    (s.linkFields a up w r).flag a 30 = s.flag a 30 ∧ (s.linkFields a up w r).field a 0 16 = s.field a 0 16 := by
  unfold State.linkFields
  refine ⟨?_, ?_, ?_, ?_, ?_⟩
  · rw [State.flag_setField_other _ _ 20 4 _ (by decide) (.inr (by decide)),
      State.flag_setField_other _ _ 24 4 _ (by decide) (.inr (by decide)), flag_setField_top]
  · rw [State.field_setField_other _ _ 20 4 _ _ _ (by decide) (.inr (by decide)), State.field_setField _ _ 24 4 _ (by decide),
      Nat.mod_eq_of_lt (by split_ifs <;> omega)]
  · rw [State.field_setField _ _ 20 4 _ (by decide), Nat.mod_eq_of_lt (by split_ifs <;> omega)]
  · rw [State.flag_setField_other _ _ 20 4 _ (by decide) (.inr (by decide)),
      State.flag_setField_other _ _ 24 4 _ (by decide) (.inr (by decide)),
      State.flag_setField_other _ _ 31 1 _ (by decide) (.inl (by decide))]
  · rw [State.field_setField_other _ _ 20 4 _ _ _ (by decide) (.inl (by decide)),
      State.field_setField_other _ _ 24 4 _ _ _ (by decide) (.inl (by decide)),
      State.field_setField_other _ _ 31 1 _ _ _ (by decide) (.inl (by decide))]

theorem frame_linkFields : Frame (· = a) Nothing Nothing Nothing s (s.linkFields a up w r) :=
  ((frame_setField (R := (· = a)) s a 31 1 _ rfl).trans (frame_setField _ a 24 4 _ rfl)).trans (frame_setField _ a 20 4 _ rfl)
end

section
variable {link : Fin 4} {up dpc : Bool} {width rate : BitVec 4}

theorem exec_pcieLinkChange : exec (.pcieLinkChange link up dpc width rate) s = .next (
    let a := Reg.pcieLink link.val
    if (!s.linkExists link.val) = true ∨ (up = true ∧ (!s.linkTrains link.val width.toNat rate.toNat) = true) then s
    else (s.linkFields a up width.toNat rate.toNat).linkNoted a dpc (up && (s.flag a 31 || s.field a 20 4 == 15))) := rfl

theorem pcieLinkChange_acts :
    let a := Reg.pcieLink link.val
    let can := s.linkExists link.val = true ∧ (up = true → s.linkTrains link.val width.toNat rate.toNat = true)
    (¬ can → Does (.pcieLinkChange link up dpc width rate) s fun t => t = s) ∧
    (can → Does (.pcieLinkChange link up dpc width rate) s fun t => t.flag a 31 = up ∧
      t.field a 24 4 = (if up then width.toNat else 0) ∧ t.field a 20 4 = (if up then rate.toNat else 15) ∧
      t.flag a 30 = (dpc || s.flag a 30) ∧ t.field a 0 16 =
        (if up && (s.flag a 31 || s.field a 20 4 == 15) then min 65535 (s.field a 0 16 + 1) else s.field a 0 16) ∧
      Frame (· = a) Nothing Nothing Nothing s t ∧ Quiet s t) := by
  intro a can
  have test : ((!s.linkExists link.val) = true ∨ (up = true ∧ (!s.linkTrains link.val width.toNat rate.toNat) = true)) ↔ ¬ can := by
    simp only [can, Bool.not_eq_true', not_and_or, Classical.not_imp, Bool.not_eq_true]
  refine ⟨fun no => ⟨_, exec_pcieLinkChange, if_pos (test.2 no)⟩, fun yes => ?_⟩
  have acts := exec_pcieLinkChange (s := s) (link := link) (up := up) (dpc := dpc) (width := width) (rate := rate)
  dsimp only at acts
  rw [if_neg (fun off => test.1 off yes)] at acts
  obtain ⟨top, w, r, held, count⟩ := linkFields_sets s a up width.toNat rate.toNat width.isLt rate.isLt
  obtain ⟨framed, quiet⟩ := frame_linkNoted (s.linkFields a up width.toNat rate.toNat) a dpc
    (up && (s.flag a 31 || s.field a 20 4 == 15))
  refine ⟨_, acts, ?_, ?_, ?_, ?_, ?_, (frame_linkFields s a up _ _).trans framed, quiet⟩
  · exact (congrArg (· == 1) (field_linkNoted _ _ _ _ (by decide) (.inr rfl))).trans top
  · exact (field_linkNoted _ _ _ _ (by decide) (.inl (by decide))).trans w
  · exact (field_linkNoted _ _ _ _ (by decide) (.inl (by decide))).trans r
  · exact (flag_linkNoted _ _ _ _).trans (congrArg (dpc || ·) held)
  · rw [count_linkNoted, count]
end

section
variable {up : Bool} {phy fec : BitVec 2}

/-- The management link's new state in its register. -/
def Machine.State.mgmtFields (s : State) (up : Bool) (phy fec : Nat) : State :=
  ((s.setField Reg.mgmtStat 31 1 (b2n up)).setField Reg.mgmtStat 29 2 (if up then phy else 3)).setField Reg.mgmtStat 27 2
    (if up then fec else 0)

/-- A loss of the management link counted. -/
def Machine.State.mgmtCounted (s : State) (up : Bool) : State := if up then s else s.countSat Reg.mgmtStat 0 16 1

theorem exec_mgmtLinkChange : exec (.mgmtLinkChange up phy fec) s = .next (
    if s.flag Reg.mgmtStat 31 = up ∨ (up = true ∧ (!s.phyOk phy.toNat fec.toNat) = true) then s
    else
      let b := (s.mgmtFields up phy.toNat fec.toNat).mgmtCounted up
      { b with recov := { b.recov with irq8 := true } }) := rfl

theorem mgmtFields_sets (s : State) (up : Bool) {phy fec : Nat} (hp : phy < 4) (hf : fec < 4) :
    (s.mgmtFields up phy fec).flag Reg.mgmtStat 31 = up ∧ (s.mgmtFields up phy fec).field Reg.mgmtStat 29 2 = (if up then phy else 3) ∧
    (s.mgmtFields up phy fec).field Reg.mgmtStat 27 2 = (if up then fec else 0) ∧
    (s.mgmtFields up phy fec).field Reg.mgmtStat 0 16 = s.field Reg.mgmtStat 0 16 ∧
    (s.mgmtFields up phy fec).flag Reg.mgmtStat 26 = s.flag Reg.mgmtStat 26 := by
  unfold State.mgmtFields
  refine ⟨?_, ?_, ?_, ?_, ?_⟩
  · rw [State.flag_setField_other _ _ 27 2 _ (by decide) (.inr (by decide)),
      State.flag_setField_other _ _ 29 2 _ (by decide) (.inr (by decide)), flag_setField_top]
  · rw [State.field_setField_other _ _ 27 2 _ _ _ (by decide) (.inr (by decide)), State.field_setField _ _ 29 2 _ (by decide),
      Nat.mod_eq_of_lt (by split_ifs <;> omega)]
  · rw [State.field_setField _ _ 27 2 _ (by decide), Nat.mod_eq_of_lt (by split_ifs <;> omega)]
  · rw [State.field_setField_other _ _ 27 2 _ _ _ (by decide) (.inl (by decide)),
      State.field_setField_other _ _ 29 2 _ _ _ (by decide) (.inl (by decide)),
      State.field_setField_other _ _ 31 1 _ _ _ (by decide) (.inl (by decide))]
  · rw [State.flag_setField_other _ _ 27 2 _ (by decide) (.inl (by decide)),
      State.flag_setField_other _ _ 29 2 _ (by decide) (.inl (by decide)),
      State.flag_setField_other _ _ 31 1 _ (by decide) (.inl (by decide))]

theorem frame_mgmtFields (s : State) (up : Bool) (phy fec : Nat) :
    Frame (· = Reg.mgmtStat) Nothing Nothing Nothing s (s.mgmtFields up phy fec) :=
  ((frame_setField (R := (· = Reg.mgmtStat)) s _ 31 1 _ rfl).trans (frame_setField _ _ 29 2 _ rfl)).trans (frame_setField _ _ 27 2 _ rfl)

/-- The count stands in bits 0 to 15, apart from the link's state. -/
theorem mgmtCounted_sets (s : State) (up : Bool) : (∀ lo n, 16 ≤ lo → (s.mgmtCounted up).field Reg.mgmtStat lo n = s.field Reg.mgmtStat lo n) ∧
    (s.mgmtCounted up).field Reg.mgmtStat 0 16 =
      (if up then s.field Reg.mgmtStat 0 16 else min 65535 (s.field Reg.mgmtStat 0 16 + 1)) ∧
    (s.mgmtCounted up).recov = s.recov ∧ Frame (· = Reg.mgmtStat) Nothing Nothing Nothing s (s.mgmtCounted up) := by
  cases up with
  | true => exact ⟨fun _ _ _ => rfl, rfl, rfl, Frame.refl s⟩
  | false =>
    exact ⟨fun lo n low => State.field_setField_other _ _ 0 16 _ _ _ (by decide) (.inr (by omega)), field_countSat _ _ 0 16 1 (by decide),
      rfl, frame_countSat _ _ _ _ _ rfl⟩

theorem mgmtLinkChange_acts :
    let a := Reg.mgmtStat
    let can := s.flag a 31 ≠ up ∧ (up = true → s.phyOk phy.toNat fec.toNat = true)
    (¬ can → Does (.mgmtLinkChange up phy fec) s fun t => t = s) ∧
    (can → Does (.mgmtLinkChange up phy fec) s fun t => t.flag a 31 = up ∧
      t.field a 29 2 = (if up then phy.toNat else 3) ∧ t.field a 27 2 = (if up then fec.toNat else 0) ∧
      t.field a 0 16 = (if up then s.field a 0 16 else min 65535 (s.field a 0 16 + 1)) ∧ t.flag a 26 = s.flag a 26 ∧
      t.recov = { s.recov with irq8 := true } ∧ Frame (· = a) Nothing Nothing Nothing s t) := by
  intro a can
  have test : (s.flag Reg.mgmtStat 31 = up ∨ (up = true ∧ (!s.phyOk phy.toNat fec.toNat) = true)) ↔ ¬ can := by
    simp only [can, a, ne_eq, Bool.not_eq_true', not_and_or, not_not, Classical.not_imp, Bool.not_eq_true]
  refine ⟨fun no => ⟨_, exec_mgmtLinkChange, if_pos (test.2 no)⟩, fun yes => ?_⟩
  have acts := exec_mgmtLinkChange (s := s) (up := up) (phy := phy) (fec := fec)
  rw [if_neg (fun off => test.1 off yes)] at acts
  obtain ⟨top, p, f, count, reject⟩ := mgmtFields_sets s up phy.isLt fec.isLt
  obtain ⟨others, counted, recov, framed⟩ := mgmtCounted_sets (s.mgmtFields up phy.toNat fec.toNat) up
  have same : ∀ (b : State) x lo n, ({ b with recov := x } : State).field a lo n = b.field a lo n := fun _ _ _ _ =>
    State.field_congr rfl _ _
  refine ⟨_, acts, ?_, ?_, ?_, ?_, ?_, ?_, ?_⟩
  · exact (congrArg (· == 1) ((same _ _ _ _).trans (others 31 1 (by decide)))).trans top
  · exact ((same _ _ _ _).trans (others 29 2 (by decide))).trans p
  · exact ((same _ _ _ _).trans (others 27 2 (by decide))).trans f
  · exact (same _ _ _ _).trans (by rw [counted, count])
  · exact (congrArg (· == 1) ((same _ _ _ _).trans (others 26 1 (by decide)))).trans reject
  · show { (State.mgmtCounted _ up).recov with irq8 := true } = _
    rw [recov]
    rfl
  · exact ((frame_mgmtFields s up _ _).trans framed).trans
      ⟨rfl, rfl, rfl, fun _ _ => rfl, fun _ _ => rfl, fun _ _ => rfl, fun _ _ => rfl, by simp⟩
end

/-- Settles O40. -/
theorem sidebandAndLinks : Obligations.SidebandAndLinks := by
  unfold Obligations.SidebandAndLinks
  intro s
  refine ⟨?_, ?_, fun setdasa static addr => ⟨fun on free match_ => ?_, fun off => ⟨_, rfl, if_pos off⟩⟩, i3cRead_reads s, stopN_acts s,
    fun _ _ _ _ _ => pcieLinkChange_acts, fun _ _ _ => mgmtLinkChange_acts⟩
  · intro x hx
    simp only [List.mem_cons, List.not_mem_nil, or_false] at hx
    rcases hx with rfl | rfl | rfl
    · exact ⟨_, rfl, rfl⟩
    · exact ⟨_, rfl, rfl⟩
    · exact ⟨_, rfl, rfl⟩
  · intro x hx
    simp only [List.mem_cons, List.not_mem_nil, or_false] at hx
    rcases hx with rfl | rfl | rfl
    · exact ⟨_, rfl, jtag_drives s 3⟩
    · exact ⟨_, rfl, jtag_drives s 4⟩
    · exact ⟨_, rfl, jtag_drives s 5⟩
  · refine ⟨_, rfl, if_neg ?_⟩
    rintro (early | held | ⟨set, other⟩)
    · omega
    · rw [free] at held
      cases held
    · exact other (match_ set)

end Sys2Proof
end

section
/-! PROOFS. Link replays, exhausted retries and retraining (R361, R392, R395), and the fields of a fault record (R418). -/

namespace Sys2Proof

open Machine

variable {s t : State}

/-! ## Fault records -/

section
variable (time sev code ep detail : Nat)

/-- The number in a fault record, its fields apart. -/
theorem faultWord_toNat : (faultWord time sev code ep detail).toNat = code % 256 + sev % 4 * 2 ^ 8 + ep % 65536 * 2 ^ 16 +
    time % 2 ^ 48 * 2 ^ 32 + detail % 2 ^ 48 * 2 ^ 80 := by
  unfold faultWord
  rw [BitVec.toNat_ofNat]
  simp only [Nat.shiftLeft_eq]
  omega

theorem faultWord_code : bits (faultWord time sev code ep detail).toNat 0 8 = code % 256 := by
  rw [faultWord_toNat, bits, Nat.shiftRight_eq_div_pow]
  omega

theorem faultWord_sev : recSev (faultWord time sev code ep detail) = sev % 4 := by
  rw [recSev, faultWord_toNat, bits, Nat.shiftRight_eq_div_pow]
  omega

theorem faultWord_ep : bits (faultWord time sev code ep detail).toNat 16 16 = ep % 65536 := by
  rw [faultWord_toNat, bits, Nat.shiftRight_eq_div_pow]
  omega

theorem faultWord_detail : bits (faultWord time sev code ep detail).toNat 80 48 = detail % 2 ^ 48 := by
  rw [faultWord_toNat, bits, Nat.shiftRight_eq_div_pow]
  omega
end

/-- What a unit posts goes onto its way to a reeve, behind the records before it. -/
theorem post_flies (s : State) (reeve sev code ep detail : Nat) : ∃ r w, (s.post reeve sev code ep detail).recov.flight =
    s.recov.flight ++ [(r, w)] ∧ bits w.toNat 0 8 = code % 256 ∧ recSev w = sev % 4 :=
  ⟨_, _, rfl, faultWord_code _ _ _ _ _, faultWord_sev _ _ _ _ _⟩

/-! ## Links -/

theorem link_setLink (s : State) (k j : Nat) (l : Link) : (s.setLink k l).link j = if j = k then l else s.link j :=
  PMap.get_put _ _ _ _ _

/-- The two directions of a link are kept apart. -/
theorem linkKey_apart (b : BridgeIx) (manor : Bool) : linkKey b.val manor true ≠ linkKey b.val manor false := by
  cases manor with
  | true => unfold linkKey b2n; simp
  | false =>
    show peerEnd b.val * 4 ≠ b.val * 4
    have apart : ∀ b : BridgeIx, peerEnd b.val ≠ b.val := by decide
    have := apart b
    omega

/-- The end that a link of the Manor is named by has the same keys. -/
theorem linkKey_end (b : BridgeIx) (manor sent : Bool) :
    linkKey (if manor then b.val / 2 * 2 else b.val) manor sent = linkKey b.val manor sent := by
  cases manor with
  | true =>
    show b.val / 2 * 2 / 2 * 8 + 2 + b2n sent = b.val / 2 * 8 + 2 + b2n sent
    omega
  | false => rfl

theorem setLinkDown_end (s : State) (b : BridgeIx) (manor down retrained : Bool) :
    s.setLinkDown (if manor then b.val / 2 * 2 else b.val) manor down retrained = s.setLinkDown b.val manor down retrained := by
  cases manor with
  | true =>
    have key : ∀ sent, linkKey (b.val / 2 * 2) true sent = linkKey b.val true sent := linkKey_end b true
    show s.setLinkDown (b.val / 2 * 2) true down retrained = _
    unfold State.setLinkDown
    simp only [key, if_true]
  | false => rfl

section
variable (b : BridgeIx) (manor down retrained : Bool)

/-- A link taken down or up at one of its directions. -/
def Link.taken (l : Link) (down retrained : Bool) : Link :=
  { l with down := down, tries := if retrained then 0 else l.tries, retrained := retrained || l.retrained }

/-- Both directions of a link taken down or up. -/
def Machine.State.linksTaken (s : State) (b : Nat) (manor down retrained : Bool) : State :=
  let one := s.setLink (linkKey b manor true) (Link.taken (s.link (linkKey b manor true)) down retrained)
  one.setLink (linkKey b manor false) (Link.taken (one.link (linkKey b manor false)) down retrained)

/-- The bits of a bridge end that show its link down, or up. -/
def Machine.State.endShows (s : State) (e : Nat) (down : Bool) : State :=
  if down then (s.setBit (Reg.bridgeEnd e) 30).clearBit (Reg.bridgeEnd e) 31
  else (s.clearBit (Reg.bridgeEnd e) 30).setBit (Reg.bridgeEnd e) 31

theorem setLinkDown_eq (s : State) : s.setLinkDown b.val manor down retrained =
    if manor then s.linksTaken b.val manor down retrained
    else ((s.linksTaken b.val manor down retrained).endShows b.val down).endShows (peerEnd b.val) down := rfl

theorem links_endShows (s : State) (e : Nat) : (s.endShows e down).links = s.links ∧ (s.endShows e down).recov = s.recov ∧
    (s.endShows e down).mem = s.mem ∧ (s.endShows e down).colls = s.colls := by
  cases down with
  | true => exact ⟨rfl, rfl, rfl, rfl⟩
  | false => exact ⟨rfl, rfl, rfl, rfl⟩

theorem endShows_shows (s : State) (e : Nat) : (s.endShows e down).flag (Reg.bridgeEnd e) 30 = down ∧
    (s.endShows e down).flag (Reg.bridgeEnd e) 31 = !down := by
  cases down with
  | true =>
    exact ⟨(State.flag_setField_other _ _ 31 1 _ (by decide) (.inl (by decide))).trans (State.flag_setBit _ _ 30 (by decide)),
      State.flag_clearBit _ _ 31 (by decide)⟩
  | false =>
    exact ⟨(State.flag_setField_other _ _ 31 1 _ (by decide) (.inl (by decide))).trans (State.flag_clearBit _ _ 30 (by decide)),
      State.flag_setBit _ _ 31 (by decide)⟩

theorem reg_endShows (s : State) {e a : Nat} (n : a ≠ Reg.bridgeEnd e) : (s.endShows e down).reg a = s.reg a := by
  cases down with
  | true =>
    exact (State.reg_setField_other _ _ _ _ _ _ n).trans (State.reg_setField_other _ _ _ _ _ _ n)
  | false =>
    exact (State.reg_setField_other _ _ _ _ _ _ n).trans (State.reg_setField_other _ _ _ _ _ _ n)

theorem bridgeEnd_apart : Reg.bridgeEnd b.val ≠ Reg.bridgeEnd (peerEnd b.val) := by
  have all : ∀ b : BridgeIx, Reg.bridgeEnd b.val ≠ Reg.bridgeEnd (peerEnd b.val) := by decide
  exact all b

theorem link_linksTaken (s : State) (sent : Bool) : (s.linksTaken b.val manor down retrained).link (linkKey b.val manor sent) =
    Link.taken (s.link (linkKey b.val manor sent)) down retrained := by
  have apart := linkKey_apart b manor
  unfold State.linksTaken
  dsimp only
  cases sent with
  | true => rw [link_setLink, if_neg apart, link_setLink, if_pos rfl]
  | false => rw [link_setLink, if_pos rfl, link_setLink, if_neg apart.symm]

/-- Both directions are down, or up, and the bits of both bridge ends show it. -/
theorem setLinkDown_takes (s : State) :
    (∀ sent, (s.setLinkDown b.val manor down retrained).link (linkKey b.val manor sent) =
      Link.taken (s.link (linkKey b.val manor sent)) down retrained) ∧
    (manor = false → ∀ a ∈ [Reg.bridgeEnd b.val, Reg.bridgeEnd (peerEnd b.val)],
      (s.setLinkDown b.val manor down retrained).flag a 30 = down ∧ (s.setLinkDown b.val manor down retrained).flag a 31 = !down) ∧
    (s.setLinkDown b.val manor down retrained).recov = s.recov ∧ (s.setLinkDown b.val manor down retrained).mem = s.mem ∧
    (s.setLinkDown b.val manor down retrained).colls = s.colls := by
  rw [setLinkDown_eq]
  cases manor with
  | true =>
    rw [if_pos rfl]
    exact ⟨fun sent => link_linksTaken b true down retrained s sent, (by nofun), rfl, rfl, rfl⟩
  | false =>
    have taken := link_linksTaken b false down retrained s
    have kept : (s.linksTaken b.val false down retrained).recov = s.recov ∧ (s.linksTaken b.val false down retrained).mem = s.mem ∧
      (s.linksTaken b.val false down retrained).colls = s.colls := ⟨rfl, rfl, rfl⟩
    rw [if_neg (by decide)]
    generalize s.linksTaken b.val false down retrained = u at taken kept
    obtain ⟨links, recov, mem, colls⟩ := links_endShows down u b.val
    obtain ⟨links', recov', mem', colls'⟩ := links_endShows down (u.endShows b.val down) (peerEnd b.val)
    refine ⟨fun sent => ?_, fun _ a at_ => ?_, recov'.trans (recov.trans kept.1), mem'.trans (mem.trans kept.2.1),
      colls'.trans (colls.trans kept.2.2)⟩
    · rw [← taken, State.link, links', links]
      rfl
    · have same := reg_endShows down (u.endShows b.val down) (bridgeEnd_apart b)
      rcases List.mem_cons.1 at_ with rfl | last
      · rw [State.flag_congr same, State.flag_congr same]
        exact endShows_shows down u b.val
      · rw [List.mem_singleton.1 last]
        exact endShows_shows down _ (peerEnd b.val)
end

/-! ## The rows -/

section
variable {b : BridgeIx} {manor sent : Bool}

theorem linkReplay_acts : let k := linkKey b.val manor sent
    ((s.link k).down = false → (s.link k).tries < 8 → Does (.linkReplay b manor sent) s fun t =>
      t.link k = { s.link k with tries := (s.link k).tries + 1 } ∧ (∀ j, j ≠ k → t.link j = s.link j) ∧ t = { s with links := t.links }) ∧
    (((s.link k).down = true ∨ 8 ≤ (s.link k).tries) → Does (.linkReplay b manor sent) s fun t => t = s) := by
  intro k
  refine ⟨fun up few => ⟨_, congrArg Host.Outcome.next (if_neg ?_), ?_, fun j n => ?_, rfl⟩, fun off => ⟨_, rfl, if_pos off⟩⟩
  · rintro (down | many)
    · rw [up] at down
      cases down
    · exact absurd many (Nat.not_le.2 few)
  · rw [link_setLink, if_pos rfl]
  · rw [link_setLink, if_neg n]

/-- The spare lane taken, and counted at the bridge end that receives. -/
def Machine.State.spareTaken (s : State) (b : BridgeIx) (manor sent : Bool) (g : Nat) : State :=
  let l := s.link (linkKey b.val manor sent)
  let s1 := s.setLink (linkKey b.val manor sent) { l with tries := 0, spared := PMap.put l.spared g (PMap.get 0 l.spared g + 1) }
  if manor then s1 else s1.countSat (Reg.bridgeEnd (if sent then peerEnd b.val else b.val)) 0 5 1

theorem exec_linkRetryExhausted {one : Bool} {g lane : Nat} : exec (.linkRetryExhausted b manor sent one g lane) s = .next (
    let l := s.link (linkKey b.val manor sent)
    let used := PMap.get 0 l.spared g
    let detail := fun (left : Nat) => g <<< 44 + lane <<< 38 + b2n sent <<< 37 + left <<< 35
    if l.tries < 8 ∨ l.down ∨ 34 ≤ lane ∨ (if manor then 6 else 12) ≤ g then s
    else if (one && decide (used < 2)) = true then
      (s.spareTaken b manor sent g).post (linkReeve b.val manor) 1 0x05 (linkEp b.val manor) (detail (1 - used))
    else (s.setLinkDown b.val manor true false).post (linkReeve b.val manor) 2 0x06 (linkEp b.val manor) (detail (2 - used))) := rfl

theorem spareTaken_takes {g : Nat} : let k := linkKey b.val manor sent
    let l := s.link k
    (s.spareTaken b manor sent g).link k = { l with tries := 0, spared := PMap.put l.spared g (PMap.get 0 l.spared g + 1) } ∧
    (∀ j, j ≠ k → (s.spareTaken b manor sent g).link j = s.link j) ∧
    (manor = false → let a := Reg.bridgeEnd (if sent then peerEnd b.val else b.val)
      (s.spareTaken b manor sent g).field a 0 5 = min 31 (s.field a 0 5 + 1)) ∧
    (s.spareTaken b manor sent g).recov = s.recov ∧ (s.spareTaken b manor sent g).mem = s.mem := by
  intro k l
  have taken : (s.spareTaken b manor sent g).link =
      (s.setLink k { l with tries := 0, spared := PMap.put l.spared g (PMap.get 0 l.spared g + 1) }).link := by
    unfold State.spareTaken
    cases manor with
    | true => rfl
    | false => rfl
  refine ⟨by rw [taken, link_setLink, if_pos rfl], fun j n => by rw [taken, link_setLink, if_neg n], fun bridge => ?_, ?_, ?_⟩
  · subst bridge
    exact field_countSat _ _ 0 5 1 (by decide)
  · cases manor with
    | true => rfl
    | false => rfl
  · cases manor with
    | true => rfl
    | false => rfl

theorem linkRetryExhausted_acts {one : Bool} {g lane : Nat} :
    let k := linkKey b.val manor sent
    let l := s.link k
    8 ≤ l.tries → l.down = false → lane < 34 → (if manor then g < 6 else g < 12) →
      (one = true → PMap.get 0 l.spared g < 2 → Does (.linkRetryExhausted b manor sent one g lane) s fun t =>
        t.link k = { l with tries := 0, spared := PMap.put l.spared g (PMap.get 0 l.spared g + 1) } ∧
        (∀ j, j ≠ k → t.link j = s.link j) ∧
        (manor = false → let a := Reg.bridgeEnd (if sent then peerEnd b.val else b.val); t.field a 0 5 = min 31 (s.field a 0 5 + 1)) ∧
        (∃ r w, t.recov.flight = s.recov.flight ++ [(r, w)] ∧ bits w.toNat 0 8 = 0x05 ∧ recSev w = 1) ∧ t.mem = s.mem) ∧
      ((one = false ∨ 2 ≤ PMap.get 0 l.spared g) → Does (.linkRetryExhausted b manor sent one g lane) s fun t =>
        (t.link (linkKey b.val manor true)).down = true ∧ (t.link (linkKey b.val manor false)).down = true ∧
        (manor = false → ∀ a ∈ [Reg.bridgeEnd b.val, Reg.bridgeEnd (peerEnd b.val)], t.flag a 30 = true ∧ t.flag a 31 = false) ∧
        (∃ r w, t.recov.flight = s.recov.flight ++ [(r, w)] ∧ bits w.toNat 0 8 = 0x06 ∧ recSev w = 2) ∧ t.mem = s.mem) := by
  intro k l tries up inLane inGroup
  have acts := exec_linkRetryExhausted (s := s) (b := b) (manor := manor) (sent := sent) (one := one) (g := g) (lane := lane)
  have goes : ¬ (l.tries < 8 ∨ l.down = true ∨ 34 ≤ lane ∨ (if manor then 6 else 12) ≤ g) := by
    rw [up]
    split_ifs at inGroup ⊢ <;> simp <;> omega
  dsimp only at acts
  rw [if_neg goes] at acts
  refine ⟨fun lane free => ?_, fun none => ?_⟩
  · rw [if_pos (by rw [lane, decide_eq_true free]; rfl)] at acts
    obtain ⟨here, others, count, recov, mem⟩ := spareTaken_takes (s := s) (b := b) (manor := manor) (sent := sent) (g := g)
    obtain ⟨r, w, flight, code, sev⟩ := post_flies (s.spareTaken b manor sent g) (linkReeve b.val manor) 1 0x05 (linkEp b.val manor) _
    exact ⟨_, acts, here, others, count, ⟨r, w, by rw [flight, recov], code, sev⟩, mem⟩
  · have no : ¬ (one && decide (PMap.get 0 l.spared g < 2)) = true := by
      rw [Bool.and_eq_true, decide_eq_true_iff]
      rintro ⟨is, few⟩
      rcases none with off | many
      · rw [off] at is
        cases is
      · omega
    rw [if_neg no] at acts
    obtain ⟨links, shows, recov, mem, _⟩ := setLinkDown_takes b manor true false s
    obtain ⟨r, w, flight, code, sev⟩ := post_flies (s.setLinkDown b.val manor true false) (linkReeve b.val manor) 2 0x06
      (linkEp b.val manor) _
    exact ⟨_, acts, congrArg Link.down (links true), congrArg Link.down (links false), shows,
      ⟨r, w, by rw [flight, recov], code, sev⟩, mem⟩

/-! ## Retraining -/

theorem links_foldl {α : Type} (f : State → α → State) (keep : ∀ s x, (f s x).links = s.links) (l : List α) (s : State) :
    (l.foldl f s).links = s.links := by
  induction l generalizing s with
  | nil => rfl
  | cons x l ih => exact (ih _).trans (keep s x)

/-- A collective that starts anew leaves the links as they are. -/
theorem links_restartColl (s : State) (c : Coll) : (s.restartColl c).links = s.links := by
  unfold State.restartColl
  dsimp only
  refine (links_foldl _ (by intros; rfl) _ _).trans ?_
  unfold State.delColl
  split_ifs
  · rfl
  · exact links_foldl _ (by intros; rfl) _ _

/-- The collectives over a bridge that stays down start anew. -/
def Machine.State.bridgeLost (s : State) (b : BridgeIx) : State :=
  (s.colls.filter fun c => c.admitted && (memberSuits c.desc).contains (b.val / 2) && (memberSuits c.desc).contains (peerEnd b.val / 2)).foldl
    (fun (s : State) c => s.restartColl c) s

theorem exec_bridgeRetrain {ok : Bool} : exec (.bridgeRetrain b manor ok) s = .next (
    if (!(s.link (linkKey b.val manor true)).down || (s.link (linkKey b.val manor true)).retrained || !s.mayRecover 660) = true then s
    else if (ok || manor) = true then s.setLinkDown b.val manor (!ok) true else (s.setLinkDown b.val manor (!ok) true).bridgeLost b) := by
  rw [← setLinkDown_end, ← linkKey_end]
  rfl

theorem bridgeRetrain_acts {ok : Bool} (down : (s.link (linkKey b.val manor true)).down = true)
    (first : (s.link (linkKey b.val manor true)).retrained = false) (may : s.mayRecover 660 = true) :
    Does (.bridgeRetrain b manor ok) s fun t =>
      (t.link (linkKey b.val manor true)).down = !ok ∧ (t.link (linkKey b.val manor false)).down = !ok ∧
      (t.link (linkKey b.val manor true)).retrained = true ∧
      (ok = true → manor = false → ∀ a ∈ [Reg.bridgeEnd b.val, Reg.bridgeEnd (peerEnd b.val)], t.flag a 31 = true ∧ t.flag a 30 = false) ∧
      (ok = true → t.colls = s.colls ∧ t.mem = s.mem) := by
  have acts := exec_bridgeRetrain (s := s) (b := b) (manor := manor) (ok := ok)
  rw [if_neg (by rw [down, first, may]; decide)] at acts
  obtain ⟨links, shows, recov, mem, colls⟩ := setLinkDown_takes b manor (!ok) true s
  by_cases stays : (ok || manor) = true
  · rw [if_pos stays] at acts
    refine ⟨_, acts, congrArg Link.down (links true), congrArg Link.down (links false), congrArg Link.retrained (links true),
      fun good bridge a at_ => ?_, fun _ => ⟨colls, mem⟩⟩
    obtain ⟨low, high⟩ := shows bridge a at_
    rw [good] at low high ⊢
    exact ⟨high, low⟩
  · rw [if_neg stays] at acts
    have same : ∀ j, ((s.setLinkDown b.val manor (!ok) true).bridgeLost b).link j = (s.setLinkDown b.val manor (!ok) true).link j := by
      intro j
      unfold State.link State.bridgeLost
      rw [links_foldl _ (fun s c => links_restartColl s c)]
    have bad : ¬ ok = true := fun good => stays (by rw [good]; rfl)
    refine ⟨_, acts, ?_, ?_, ?_, fun good => absurd good bad, fun good => absurd good bad⟩
    · rw [same, links]
      rfl
    · rw [same, links]
      rfl
    · rw [same, links]
      rfl
end

/-- Settles O45. -/
theorem linkErrorsAreHandled : Obligations.LinkErrorsAreHandled := by
  unfold Obligations.LinkErrorsAreHandled
  intro b manor sent s
  simp only [linkKey_end]
  refine ⟨linkReplay_acts.1, linkReplay_acts.2, fun one g lane tries up inLane inGroup =>
    linkRetryExhausted_acts tries up inLane inGroup, fun ok down first may => bridgeRetrain_acts down first may, fun ok off => ?_⟩
  refine ⟨_, exec_bridgeRetrain, if_pos ?_⟩
  simp only [Bool.or_eq_true, Bool.not_eq_true']
  rcases off with up | again | busy
  · exact .inl (.inl up)
  · exact .inl (.inr again)
  · exact .inr busy

end Sys2Proof
end

section
/-! PROOFS. What the aftermath of a fold leaves of the suits' power and of the records on their way (R360, R388, R440). -/

namespace Sys2Proof

open Machine

variable {s t : State}

/-- The suits' power and the lists of suits that are out stay as they were; no record on its way to a reeve is dropped. -/
structure Carries (s t : State) : Prop where
  powered : ∀ i, (t.suit i).powered = (s.suit i).powered
  folded : t.recov.foldedSuits = s.recov.foldedSuits
  out : t.recov.outSuits = s.recov.outSuits
  flight : s.recov.flight ⊆ t.recov.flight

section
variable {r : State}

theorem Carries.refl (s : State) : Carries s s := ⟨fun _ => rfl, rfl, rfl, fun _ => id⟩

theorem Carries.trans (a : Carries r s) (b : Carries s t) : Carries r t :=
  ⟨fun i => (b.powered i).trans (a.powered i), b.folded.trans a.folded, b.out.trans a.out, fun _ m => b.flight (a.flight m)⟩

theorem carries_foldl {α : Type} (f : State → α → State) (each : ∀ s x, Carries s (f s x)) (l : List α) (s : State) :
    Carries s (l.foldl f s) := by
  induction l generalizing s with
  | nil => exact .refl s
  | cons x l ih => exact (each s x).trans (ih _)

/-- A step that leaves the suits and the recovery state alone. -/
theorem carries_same (suits : t.suits = s.suits) (recov : t.recov = s.recov) : Carries s t :=
  ⟨fun i => by simp only [State.suit, suits], by rw [recov], by rw [recov], by rw [recov]; exact fun _ => id⟩

theorem carries_setReg (s : State) (a : Nat) (v : W32) : Carries s (s.setReg a v) := carries_same rfl rfl
theorem carries_setBit (s : State) (a i : Nat) : Carries s (s.setBit a i) := carries_setReg ..
theorem carries_clearBit (s : State) (a i : Nat) : Carries s (s.clearBit a i) := carries_setReg ..
theorem carries_setColl (s : State) (c : Coll) : Carries s (s.setColl c) := carries_same rfl rfl

theorem carries_postAt (s : State) (time reeve sev code ep detail : Nat) : Carries s (s.postAt time reeve sev code ep detail) :=
  ⟨fun _ => rfl, rfl, rfl, fun _ m => List.mem_append_left _ m⟩

theorem carries_post (s : State) (reeve sev code ep detail : Nat) : Carries s (s.post reeve sev code ep detail) :=
  carries_postAt ..

theorem carries_of_flushed {R : Nat → Prop} (f : Flushed R s t) : Carries s t := by
  obtain ⟨_, _, l, recov⟩ := f.calm
  refine ⟨fun i => ?_, by rw [recov], by rw [recov], by rw [recov]; exact fun _ m => List.mem_append_left _ m⟩
  obtain ⟨_, _, _, suit⟩ := f.frame.suit i
  rw [suit]

/-! ## Stations that stop -/

theorem carries_haltStation (s : State) (st u : Nat) : Carries s (s.haltStation st u) := by
  unfold State.haltStation
  split_ifs
  · exact carries_same rfl rfl
  · exact carries_same rfl rfl
  · exact carries_same rfl rfl

theorem carries_note (s : State) (n : Notice) : Carries s (s.note n) := ⟨fun _ => rfl, rfl, rfl, fun _ => id⟩

theorem carries_reeveStop (s : State) : Carries s s.reeveStop := by
  obtain ⟨r, b, c, j, e, _⟩ := reeveStop_rung s
  rw [e]
  exact carries_same rfl rfl

theorem carries_traceHand (s : State) (h : Nat) (x : Trace) : Carries s (s.traceHand h x) := by
  unfold State.traceHand
  dsimp only
  split_ifs
  · exact carries_same rfl rfl
  · exact carries_same rfl rfl

theorem carries_escalate (s : State) (st u tid kind : Nat) (refetched : Bool) (serial : Nat) :
    Carries s (s.escalate st u tid kind refetched serial) := by
  unfold State.escalate State.postHand
  exact (((carries_haltStation s st u).trans (carries_setBit _ _ _)).trans (carries_traceHand _ _ _)).trans (carries_post _ _ _ _ _ _)

theorem carries_pageFault (s : State) (st u va kind : Nat) (pcopy : Bool) (serial : Nat) :
    Carries s (s.pageFault st u va kind pcopy serial) := by
  have halted := carries_haltStation s st u
  unfold State.pageFault
  dsimp only
  generalize s.haltStation st u = b at halted ⊢
  have flagged : Carries b (if st = 1 then b.setBit (Reg.loadStat u) 30 else if st = 5 then b.setBit (Reg.storeStat u) 30 else b) := by
    split_ifs
    · exact carries_setBit _ _ _
    · exact carries_setBit _ _ _
    · exact .refl b
  generalize (if st = 1 then b.setBit (Reg.loadStat u) 30 else if st = 5 then b.setBit (Reg.storeStat u) 30 else b) = c at flagged ⊢
  refine ((halted.trans flagged).trans ?_).trans ((carries_note _ _).trans (carries_reeveStop _))
  by_cases again : c.flag (Reg.fstat (handOf st u)) 31 = true
  · rw [if_pos again]
    exact .refl c
  · rw [if_neg again]
    exact (carries_setReg _ _ _).trans ((carries_setReg _ _ _).trans (carries_setReg _ _ _))

theorem carries_refuse (s : State) (st u : Nat) (f : Refuse) (tid serial : Nat) : Carries s (s.refuse st u f tid serial) := by
  cases f with
  | fault a k p => exact carries_pageFault s st u a k p serial
  | poison => exact carries_escalate s st u tid 3 false serial

theorem carries_badRecord (s : State) (h va : Nat) : Carries s (s.badRecord h va) := by
  unfold State.badRecord
  exact ((carries_haltStation s 9 h).trans (carries_setBit _ _ _)).trans ((carries_note _ _).trans (carries_reeveStop _))

/-! ## Collectives that fail (R388) -/

theorem carries_writeTile {unit tid hva pva : Nat} {x : Tile} (e : s.writeTile unit tid hva pva x = .ok t) : Carries s t := by
  unfold State.writeTile at e
  split at e
  · cases e
  · split at e
    · cases e
    · next w1 =>
      split at e
      · cases e
      · next w2 =>
        obtain rfl := Except.ok.inj e
        exact (carries_of_flushed (flushed_vwrite (R := Nothing) w1)).trans (carries_of_flushed (flushed_vwrite (R := Nothing) w2))

theorem carries_writeCompl (s : State) (c : Coll) (status h : Nat) : Carries s (s.writeCompl c status h) := by
  unfold State.writeCompl
  dsimp only
  split_ifs
  · exact .refl s
  · split
    · next w => exact carries_writeTile w
    · exact carries_refuse _ _ _ _ _ _

theorem carries_collMalformed (s : State) (c : Coll) : Carries s (s.collMalformed c) := by
  unfold State.collMalformed
  exact (carries_setColl s _).trans (carries_foldl _ (by intros; exact carries_badRecord _ _ _) _ _)

theorem carries_giveSlots (s : State) (d : BitVec 2048) (n : Nat) : Carries s (s.giveSlots d n) :=
  carries_foldl _ (by intros; exact carries_setReg _ _ _) _ _

theorem carries_postDealer (s : State) (sl : List Nat) (code ep detail : Nat) : Carries s (s.postDealer sl code ep detail) :=
  carries_foldl _ (by intros; exact carries_postAt _ _ _ _ _ _ _) _ _

theorem carries_collFail (s : State) (c : Coll) : Carries s (s.collFail c) := by
  unfold State.collFail
  dsimp only
  refine Carries.trans ?_ (carries_foldl _ (by intros; exact carries_writeCompl _ _ _ _) _ _)
  refine Carries.trans ?_ (carries_foldl _ (by intros; exact carries_postDealer _ _ _ _ _) _ _)
  have cleared := carries_setColl s { c with aborted := true, slots := 0, places := [] }
  split_ifs
  · exact cleared
  · exact cleared.trans (carries_giveSlots _ _ _)

theorem carries_collFilled (s : State) (c : Coll) : Carries s (s.collFilled c) := by
  unfold State.collFilled
  split_ifs
  · exact carries_setColl s _
  · exact carries_setColl s _
  · exact (carries_setColl s c).trans (carries_collMalformed _ _)

theorem carries_failFenced (s : State) : Carries s s.failFenced :=
  carries_foldl _ (fun s c => by
    split_ifs
    · exact carries_collFail s c
    · exact carries_collFilled s c) _ _

/-! ## Tables that are applied (R360) -/

theorem carries_commitStaged (s : State) (p : Nat → Bool) : Carries s (s.commitStaged p) :=
  (carries_foldl (fun (s : State) (e : Nat × W32) => s.commitOne e.1 e.2) (by intros; exact carries_same rfl rfl) _ s).trans
    (carries_same rfl rfl)

theorem carries_copyTables (s : State) (i : Nat) : Carries s (s.copyTables i) := by
  unfold State.copyTables
  split_ifs
  · exact ((carries_commitStaged s _).trans (carries_clearBit _ _ _)).trans (carries_failFenced _)
  · exact .refl s

theorem carries_applyBit (s : State) (a i n : Nat) (on : Bool) : Carries s (s.applyBit a i n on) := by
  unfold State.applyBit
  dsimp only
  refine Carries.trans ?_ ((carries_setBit _ (Reg.fabCtl i) 31).trans (carries_copyTables _ i))
  exact carries_same rfl rfl

theorem carries_setFold (s : State) (i : Nat) (on : Bool) : Carries s (s.setFold i on) :=
  carries_foldl _ (by intros; exact carries_applyBit _ _ _ _ _) _ _

theorem carries_jobDone (s : State) : Carries s s.jobDone := carries_of_flushed (jobDone_drains s)
end

/-! ## A suit fold -/

/-- The tail of a fold: what has to fail does, the deal may be done, and the last suit out stops the job. -/
def Machine.State.foldTail (s : State) (done : Bool) : State :=
  let b := if done then s.failFenced else s.failFenced.jobDone
  if b.suitsUp.isEmpty then b.reeveStop else b

theorem carries_foldTail (s : State) (done : Bool) : Carries s (s.foldTail done) := by
  have failed := carries_failFenced s
  unfold State.foldTail
  dsimp only
  have ends : Carries s (if done then s.failFenced else s.failFenced.jobDone) := by
    split_ifs
    · exact failed
    · exact failed.trans (carries_jobDone _)
  generalize (if done then s.failFenced else s.failFenced.jobDone) = b at ends ⊢
  split_ifs
  · exact ends.trans (carries_reeveStop b)
  · exact ends

/-- The suit's links fenced, its rails off, and the suit entered among those that are folded. -/
def Machine.State.suitDown (s : State) (i : Nat) : State :=
  let b := ({ s with sec := { s.sec with fencedSuits := s.sec.fencedSuits.filter (· != i) } } : State).setBusy none
  let c := ((endsFacing i).foldl (fun (s : State) b => s.clearBit (Reg.bridgeEnd b) 31) (b.setLinkDown (2 * i) true true false)).darken i
  { c with recov := { c.recov with foldedSuits := c.recov.foldedSuits ++ [i]
                                   lostReeves := c.recov.lostReeves ++ (upTo 4).map (i * 4 + ·) } }

theorem foldSuit_eq (s : State) (i cause : Nat) (lit : s.suitDark i = false) : ∃ r mask done, s.foldSuit i cause =
    (((s.suitDown i).setFold i true).post r 3 0x09 (epReeve (i * 4)) (cause <<< 44 + mask <<< 40)).foldTail done := by
  unfold State.foldSuit
  rw [if_neg (by rw [lit]; decide)]
  extract_lets lead sec0 s0 s1 s2 recov3 s3 s4 mask s5 s6
  exact ⟨if lead / 4 = i then s4.leadReeve else lead, mask, s0.allDone, rfl⟩

theorem foldSuit_folds (s : State) (i cause : Nat) (lit : s.suitDark i = false) :
    i ∈ (s.foldSuit i cause).recov.foldedSuits ∧ ((s.foldSuit i cause).suit i).powered = false := by
  obtain ⟨r, mask, done, e⟩ := foldSuit_eq s i cause lit
  have carried : Carries (s.suitDown i) (s.foldSuit i cause) := by
    rw [e]
    exact ((carries_setFold _ i true).trans (carries_post _ _ _ _ _ _)).trans (carries_foldTail _ _)
  refine ⟨by rw [carried.folded]; simp [State.suitDown], ?_⟩
  rw [carried.powered]
  show (PMap.get ({} : Suit) (PMap.put _ i {}) i).powered = false
  rw [PMap.get_put_same]

end Sys2Proof
end

section
/-! PROOFS. Heartbeats, watchdogs and lost reeves (R423, R424, R461, R469). -/

namespace Sys2Proof

open Machine

variable {s t : State} {r : ReeveIx}

theorem reeveRuns_iff : s.reeveRuns r.val = true ↔
    (s.suit (r.val / 4)).powered = true ∧ r.val ∉ s.recov.haltedReeves ∧ r.val ∉ s.recov.lostReeves := by
  simp [State.reeveRuns, and_assoc]

/-! ## Heartbeats and watchdogs -/

theorem exec_heartbeat : exec (.heartbeat r) s = .next (
    if (s.reeveRuns r.val && decide (PMap.get 0 s.recov.beatT r.val + s.hbPeriod r.val ≤ s.time)) = true then
      { s with recov := { s.recov with beatT := PMap.put s.recov.beatT r.val s.time } }
    else s) := rfl

theorem heartbeat_acts {period : Nat} (hp : s.hbPeriod r.val = period) :
    let last := PMap.get 0 s.recov.beatT r.val
    let runs := (s.suit (r.val / 4)).powered = true ∧ r.val ∉ s.recov.haltedReeves ∧ r.val ∉ s.recov.lostReeves
    (runs → last + period ≤ s.time → Does (.heartbeat r) s fun t =>
      PMap.get 0 t.recov.beatT r.val = s.time ∧ t = { s with recov := { s.recov with beatT := t.recov.beatT } }) ∧
    ((¬ runs ∨ s.time < last + period) → Does (.heartbeat r) s fun t => t = s) := by
  intro last runs
  have acts := exec_heartbeat (s := s) (r := r)
  rw [hp] at acts
  refine ⟨fun on due => ⟨_, acts.trans (congrArg Host.Outcome.next (if_pos ?_)), PMap.get_put_same _ _ _ _, rfl⟩,
    fun off => ⟨_, acts, if_neg ?_⟩⟩
  · rw [reeveRuns_iff.2 on]
    exact decide_eq_true due
  · rw [Bool.and_eq_true, decide_eq_true_iff, reeveRuns_iff]
    rintro ⟨on, due⟩
    rcases off with stands | early
    · exact stands on
    · exact absurd early (Nat.not_lt.2 due)

theorem watchdogExpiry_acts :
    let runs := (s.suit (r.val / 4)).powered = true ∧ r.val ∉ s.recov.haltedReeves ∧ r.val ∉ s.recov.lostReeves
    (runs → Does (.watchdogExpiry r) s fun t => t = { s with recov := { s.recov with haltedReeves := s.recov.haltedReeves ++ [r.val] } }) ∧
    (¬ runs → Does (.watchdogExpiry r) s fun t => t = s) :=
  ⟨fun on => ⟨_, rfl, if_pos (reeveRuns_iff.2 on)⟩, fun off => ⟨_, rfl, if_neg (off ∘ reeveRuns_iff.1)⟩⟩

/-! ## A reeve that is lost -/

/-- The reeve entered among those that are lost. -/
def Machine.State.loseReeve (s : State) (r : Nat) : State := { s with recov := { s.recov with lostReeves := s.recov.lostReeves ++ [r] } }

/-- A record on its way to reeve r goes to reeve d. -/
def rerouted (r d : Nat) (x : Nat × BitVec 128) : Nat × BitVec 128 := if x.1 = r then (d, x.2) else x

/-- What was on its way to a lost reeve goes to the one that takes its duties, and the runtime is told. -/
def Machine.State.passReeve (s : State) (r : Nat) : State :=
  let b := s.loseReeve r
  let c : State := { b with recov := { b.recov with flight := b.recov.flight.map (rerouted r (b.dutyReeve r)) } }
  c.note (.reeveLost r)

theorem exec_reeveLost : exec (.reeveLost r) s = .next (
    if s.recov.lostReeves.contains r.val = true ∨ (!(s.suit (r.val / 4)).powered) = true ∨
        s.time < PMap.get 0 s.recov.beatT r.val + 3 * s.hbPeriod r.val then s
    else if ((s.passReeve r.val).mayFold (r.val / 4) && (upTo 4).all fun x =>
        (s.passReeve r.val).recov.lostReeves.contains (r.val / 4 * 4 + x)) = true then (s.passReeve r.val).foldSuit (r.val / 4) 0
    else s.passReeve r.val) := rfl

/-- A reeve that is lost hands its duties to another, as long as one of its suit is left. -/
theorem dutyReeve_other {b : State} {r x : Nat} (lost : r ∈ b.recov.lostReeves) (suit : x / 4 = r / 4) (other : x ≠ r)
    (left : x ∉ b.recov.lostReeves) : b.dutyReeve r ≠ r := by
  have among : x ∈ ([r, r / 4 * 4 + (r + 1) % 4, r / 4 * 4 + (r + 2) % 4, r / 4 * 4 + (r + 3) % 4].filter
      fun x => !(b.recov.lostReeves.contains x)) := by
    refine List.mem_filter.2 ⟨?_, by simpa using left⟩
    simp only [List.mem_cons, List.not_mem_nil, or_false]
    omega
  unfold State.dutyReeve
  dsimp only
  cases e : [r, r / 4 * 4 + (r + 1) % 4, r / 4 * 4 + (r + 2) % 4, r / 4 * 4 + (r + 3) % 4].filter
      fun x => !(b.recov.lostReeves.contains x) with
  | nil => rw [e] at among; cases among
  | cons y l =>
    have mem : y ∈ ([r, r / 4 * 4 + (r + 1) % 4, r / 4 * 4 + (r + 2) % 4, r / 4 * 4 + (r + 3) % 4].filter
      fun x => !(b.recov.lostReeves.contains x)) := by rw [e]; exact List.mem_cons_self
    have free := (List.mem_filter.1 mem).2
    rw [List.headD_cons]
    rintro rfl
    simp [lost] at free

theorem reeveLost_acts :
    let period := max 1 (s.field (Reg.reeveCtl (r.val / 4)) 24 8) * 1000000
    let last := PMap.get 0 s.recov.beatT r.val
    let due := r.val ∉ s.recov.lostReeves ∧ (s.suit (r.val / 4)).powered = true ∧ last + 3 * period ≤ s.time
    let others := ∃ x, x / 4 = r.val / 4 ∧ x ≠ r.val ∧ x ∉ s.recov.lostReeves
    (¬ due → Does (.reeveLost r) s fun t => t = s) ∧
    (due → others → Does (.reeveLost r) s fun t => t.recov.lostReeves = s.recov.lostReeves ++ [r.val] ∧
      t.recov.notices = s.recov.notices ++ [.reeveLost r.val] ∧ (∀ x ∈ t.recov.flight, x.1 ≠ r.val) ∧
      t.recov.flight.map (·.2) = s.recov.flight.map (·.2) ∧ (∀ x ∈ s.recov.flight, x.1 ≠ r.val → x ∈ t.recov.flight) ∧ t = { s with recov := t.recov }) ∧
    (due → ¬ others → s.suitDark (r.val / 4) = false → s.mayFold (r.val / 4) = true → Does (.reeveLost r) s fun t =>
      r.val / 4 ∈ t.recov.foldedSuits ∧ (t.suit (r.val / 4)).powered = false) := by
  intro period last due others
  have acts := exec_reeveLost (s := s) (r := r)
  have test : (s.recov.lostReeves.contains r.val = true ∨ (!(s.suit (r.val / 4)).powered) = true ∨
      s.time < PMap.get 0 s.recov.beatT r.val + 3 * s.hbPeriod r.val) ↔ ¬ due := by
    simp only [due, not_and_or, not_not, List.contains_iff_mem, Bool.not_eq_true', Bool.not_eq_true, not_le]
    rfl
  refine ⟨fun no => ⟨_, acts, if_pos (test.2 no)⟩, fun yes left => ?_, fun yes none lit may => ?_⟩
  · obtain ⟨x, suit, other, free⟩ := left
    rw [if_neg (fun off => test.1 off yes), if_neg] at acts
    · have taken : (s.loseReeve r.val).dutyReeve r.val ≠ r.val :=
        dutyReeve_other (x := x) (by simp [State.loseReeve]) suit other (by simp [State.loseReeve, free, other])
      refine ⟨_, acts, rfl, rfl, fun y hy => ?_, ?_, fun y hy away => ?_, rfl⟩
      · obtain ⟨z, _, rfl⟩ := List.mem_map.1 hy
        unfold rerouted
        split_ifs with mine
        · exact taken
        · exact mine
      · show (s.recov.flight.map _).map _ = _
        rw [List.map_map]
        refine List.map_congr_left fun y _ => ?_
        simp only [Function.comp, rerouted]
        split_ifs
        · rfl
        · rfl
      · exact List.mem_map.2 ⟨y, hy, if_neg away⟩
    · rw [Bool.and_eq_true, List.all_eq_true]
      rintro ⟨_, all⟩
      have held := all (x % 4) ((mem_upTo 4 _).2 (by omega))
      rw [show r.val / 4 * 4 + x % 4 = x by omega] at held
      have gone : x ∈ s.recov.lostReeves ++ [r.val] := List.contains_iff_mem.1 held
      rcases List.mem_append.1 gone with was | now
      · exact free was
      · exact other (List.mem_singleton.1 now)
  · rw [if_neg (fun off => test.1 off yes), if_pos] at acts
    · exact ⟨_, acts, foldSuit_folds _ _ _ lit⟩
    · rw [Bool.and_eq_true, List.all_eq_true]
      refine ⟨may, fun x hx => ?_⟩
      have lt := (mem_upTo 4 x).1 hx
      refine List.contains_iff_mem.2 (show _ ∈ s.recov.lostReeves ++ [r.val] from ?_)
      by_contra free
      rw [List.mem_append, List.mem_singleton, not_or] at free
      exact none ⟨r.val / 4 * 4 + x, by omega, free.2, free.1⟩

/-- Settles O50. -/
theorem reevesBeatAndPassOn : Obligations.ReevesBeatAndPassOn := by
  unfold Obligations.ReevesBeatAndPassOn
  intro r s period last runs
  obtain ⟨beats, waits⟩ := heartbeat_acts (s := s) (r := r) (period := period) rfl
  exact ⟨beats, waits, watchdogExpiry_acts.1, watchdogExpiry_acts.2, reeveLost_acts⟩

end Sys2Proof
end

section
/-! PROOFS. What the restart of units after a cut leaves as it is (R166, R294, R448). -/

namespace Sys2Proof

open Machine

variable {s t : State}

/-- What a restart of units leaves: memories, packets, the deal, the Manor's registers, the queues of XCHG, and of the recovery state
all but the suits in tensor-aware mode. -/
structure Restarts (s t : State) : Prop where
  mem : t.mem = s.mem
  ddr : t.ddr = s.ddr
  net : t.net = s.net
  job : t.job = s.job
  time : t.time = s.time
  recov : t.recov = { s.recov with aware := t.recov.aware }
  reg : ∀ a < 0x10000000, t.reg a = s.reg a
  xq : ∀ h, (t.hand h).xq = (s.hand h).xq

section
variable {r : State}

theorem Restarts.refl (s : State) : Restarts s s := ⟨rfl, rfl, rfl, rfl, rfl, rfl, fun _ _ => rfl, fun _ => rfl⟩

theorem Restarts.trans (a : Restarts r s) (b : Restarts s t) : Restarts r t where
  mem := b.mem.trans a.mem
  ddr := b.ddr.trans a.ddr
  net := b.net.trans a.net
  job := b.job.trans a.job
  time := b.time.trans a.time
  recov := by rw [b.recov, a.recov]
  reg x lt := (b.reg x lt).trans (a.reg x lt)
  xq h := (b.xq h).trans (a.xq h)

/-- A step of one unit, which leaves the cuts and the lists of stopped units alone. -/
structure Goes (s t : State) : Prop where
  bell : t.bell = s.bell
  restarts : Restarts s t

theorem Goes.refl (s : State) : Goes s s := ⟨rfl, .refl s⟩

theorem Goes.trans (a : Goes r s) (b : Goes s t) : Goes r t := ⟨b.bell.trans a.bell, a.restarts.trans b.restarts⟩

theorem goes_foldl {α : Type} (f : State → α → State) (each : ∀ s x, Goes s (f s x)) (l : List α) (s : State) : Goes s (l.foldl f s) := by
  induction l generalizing s with
  | nil => exact .refl s
  | cons x l ih => exact (each s x).trans (ih _)

theorem goes_setReg (s : State) {a : Nat} (v : W32) (high : 0x10000000 ≤ a) : Goes s (s.setReg a v) :=
  ⟨rfl, rfl, rfl, rfl, rfl, rfl, rfl, fun _ lt => State.reg_setReg_other _ _ (by omega), fun _ => rfl⟩

theorem goes_setHand (s : State) (h : Nat) (d : Hand) (xq : d.xq = (s.hand h).xq) : Goes s (s.setHand h d) := by
  refine ⟨rfl, rfl, rfl, rfl, rfl, rfl, rfl, fun _ _ => rfl, fun j => ?_⟩
  rw [State.hand_setHand]
  split_ifs with e
  · rw [e, xq]
  · rfl

theorem goes_setMill (s : State) (m : Nat) (d : Mill) : Goes s (s.setMill m d) :=
  ⟨rfl, rfl, rfl, rfl, rfl, rfl, rfl, fun _ _ => rfl, fun _ => rfl⟩

theorem goes_setCore (s : State) (k : Nat) (c : Core) : Goes s (s.setCore k c) :=
  ⟨rfl, rfl, rfl, rfl, rfl, rfl, rfl, fun _ _ => rfl, fun _ => rfl⟩

theorem high_handBase (h x : Nat) : 0x10000000 ≤ handBase h + x := by
  unfold handBase suitBase
  omega

theorem goes_traceHand (s : State) (h : Nat) (x : Trace) : Goes s (s.traceHand h x) := by
  unfold State.traceHand
  dsimp only
  split_ifs
  · exact goes_setHand s h _ (by rfl)
  · refine (goes_setHand s h _ (by rfl)).trans (goes_setReg _ _ ?_)
    exact high_handBase h _

theorem goes_traceUnit (s : State) (u event aux : Nat) : Goes s (s.traceUnit u event aux) := by
  unfold State.traceUnit
  split_ifs
  · exact goes_traceHand s u _
  · exact goes_setMill s _ _
  · exact .refl s

theorem goes_rampUp (s : State) (k : Nat) : Goes s (s.rampUp k) := by
  have counted : ∀ n : Nat, Goes s (if n = 0 then s else (s.addGapfill k (s.fresh % (n + 1))).spend) := fun n => by
    split_ifs
    · exact .refl s
    · obtain ⟨bell, rest⟩ := goes_setReg s (a := Reg.gapfill k)
        (s.reg (Reg.gapfill k) + BitVec.ofNat 32 (s.fresh % (n + 1))) (by unfold Reg.gapfill coreBase handBase suitBase; omega)
      exact ⟨bell, rest.mem, rest.ddr, rest.net, rest.job, rest.time, rest.recov, rest.reg, rest.xq⟩
  unfold State.rampUp
  split_ifs
  · exact .refl s
  · unfold State.cubeWork
    exact (counted _).trans (goes_setCore _ k _)

theorem goes_resumeHand (s : State) (h pause : Nat) : Goes s (s.resumeHand h pause) := by
  unfold State.resumeHand
  dsimp only
  refine Goes.trans ?_ (goes_foldl (fun (s : State) c => s.rampUp (h * 17 + c)) (fun s c => goes_rampUp s _) _ _)
  refine (goes_traceUnit s h 4 _).trans (goes_setHand _ h _ ?_)
  rfl

/-- A unit is marked and stopped no more. -/
def Machine.State.unmark (s : State) (u : Nat) : State :=
  { s with bell := { s.bell with marked := s.bell.marked.filter (· != u), stopped := s.bell.stopped.filter (· != u) } }

theorem restarts_unmark (s : State) (u : Nat) : Restarts s (s.unmark u) :=
  ⟨rfl, rfl, rfl, rfl, rfl, rfl, fun _ _ => rfl, fun _ => rfl⟩

/-- What goes on from a state that differs from another one in its cuts alone. -/
theorem Restarts.onward (first : Restarts r s) (rest : Goes s t) : Restarts r t ∧ t.bell = s.bell :=
  ⟨first.trans rest.restarts, rest.bell⟩

/-- One unit restarts: it is marked and stopped no more. -/
theorem resumeUnit_restarts (s : State) (u : Nat) : Restarts s (s.resumeUnit u) ∧ (s.resumeUnit u).bell = (s.unmark u).bell := by
  have first := restarts_unmark s u
  unfold State.resumeUnit
  dsimp only
  generalize (if s.bell.stopped.contains u = true then s.now u - PMap.get (s.now u) s.bell.stopT u else 0) = pause
  split_ifs
  · exact first.onward (goes_resumeHand (s.unmark u) u pause)
  · exact first.onward ((goes_traceUnit (s.unmark u) u 4 _).trans (goes_setMill _ (u - 640) _))
  · exact ⟨⟨rfl, rfl, rfl, rfl, rfl, rfl, fun _ _ => rfl, fun _ => rfl⟩, rfl⟩
  · exact ⟨first, rfl⟩

/-- Units restart one after another. -/
theorem resumeUnits_restart (l : List Nat) (s : State) : Restarts s (l.foldl (fun (s : State) u => s.resumeUnit u) s) ∧
    (l.foldl (fun (s : State) u => s.resumeUnit u) s).bell =
      { s.bell with marked := s.bell.marked.filter (· ∉ l), stopped := s.bell.stopped.filter (· ∉ l) } := by
  induction l generalizing s with
  | nil => exact ⟨.refl s, by simp⟩
  | cons u l ih =>
    obtain ⟨restarts, bell⟩ := resumeUnit_restarts s u
    obtain ⟨more, last⟩ := ih (s.resumeUnit u)
    refine ⟨restarts.trans more, last.trans ?_⟩
    have both : ∀ m : List Nat, (m.filter (· != u)).filter (· ∉ l) = m.filter (· ∉ u :: l) := fun m => by
      rw [List.filter_filter]
      refine List.filter_congr fun x _ => ?_
      rw [Bool.eq_iff_iff]
      simp [and_comm]
    rw [bell]
    unfold State.unmark
    dsimp only
    rw [both, both]

theorem goes_syncMode (s : State) : Goes s s.syncMode := by
  obtain ⟨c, e⟩ := syncMode_eq s
  rw [e]
  exact ⟨rfl, rfl, rfl, rfl, rfl, rfl, rfl, fun _ _ => rfl, fun _ => rfl⟩

theorem goes_startGrace (s : State) (a : Nat) : Goes s (s.startGrace a) :=
  ⟨rfl, rfl, rfl, rfl, rfl, rfl, rfl, fun _ _ => rfl, fun _ => rfl⟩

theorem goes_setGranMode (s : State) (i m : Nat) : Goes s (s.setGranMode i m) := by
  have high : 0x10000000 ≤ Reg.granCtl i := by unfold Reg.granCtl suitBase; omega
  have set : Goes s (if s.field (Reg.granCtl i) 16 2 = m then s else (s.setField (Reg.granCtl i) 16 2 m).startGrace (Reg.granCtl i)) := by
    split_ifs
    · exact .refl s
    · exact (goes_setReg s _ high).trans (goes_startGrace _ _)
  unfold State.setGranMode
  dsimp only
  split
  · exact set.trans ⟨rfl, rfl, rfl, rfl, rfl, rfl, rfl, fun _ _ => rfl, fun _ => rfl⟩
  · exact set

theorem goes_streams (s : State) : Goes s s.streams := by
  unfold State.streams
  dsimp only
  refine Goes.trans (goes_foldl (fun (s : State) i => s.setGranMode i 0) (fun s i => goes_setGranMode s i 0)
    (s.recov.aware.filter fun i => !s.bell.cuts.any fun c => c.scope == 0 || decide (3 ≤ c.scope) || c.suit == i) s) ?_
  exact ⟨rfl, rfl, rfl, rfl, rfl, rfl, rfl, fun _ _ => rfl, fun _ => rfl⟩
end

/-- The cuts that a resume of a scope leaves: the complete ones inside it have ended, those in progress remember it. -/
def resumedCuts (r : Cut) (l : List Cut) : List Cut :=
  (l.filter fun c => !(r.covers c && c.complete)).map fun c => if r.covers c then { c with resume := true } else c

/-- The units that a resume of a scope restarts. -/
def Machine.State.freed (s : State) (keep : List Cut) : List Nat :=
  s.bell.marked.filter fun u => !(keep.any fun c => s.inScope c u)

theorem resumeScope_restarts (s : State) (scope suit hand : Nat) :
    let keep := resumedCuts { scope := scope, suit := suit, hand := hand, source := 0, t0 := 0 } s.bell.cuts
    let free := ({ s with bell := { s.bell with cuts := keep } } : State).freed keep
    Restarts s (s.resumeScope scope suit hand) ∧ (s.resumeScope scope suit hand).bell =
      { s.bell with cuts := keep, marked := s.bell.marked.filter (· ∉ free), stopped := s.bell.stopped.filter (· ∉ free) } := by
  intro keep free
  obtain ⟨restarts, bell⟩ := resumeUnits_restart free { s with bell := { s.bell with cuts := keep } }
  obtain ⟨same, more⟩ := (goes_syncMode (free.foldl (fun (s : State) u => s.resumeUnit u) { s with bell := { s.bell with cuts := keep } })).trans
    (goes_streams _)
  have all := restarts.trans more
  exact ⟨⟨all.mem, all.ddr, all.net, all.job, all.time, all.recov, all.reg, all.xq⟩, same.trans bell⟩

end Sys2Proof
end

section
/-! PROOFS. The package fault log (R421, R422, R459, R460, R480). -/

namespace Sys2Proof

open Machine

variable {s t : State}

/-- The byte of DDR5 at which the record at HEAD stands. -/
def Machine.State.logPlace (s : State) : Nat := s.reg64 Reg.faultBase % 2 ^ 35 + s.field Reg.faultHead 0 16 * 16

/-- A record written at HEAD, before its signal. -/
def Machine.State.logged (s : State) (w : BitVec 128) : State :=
  ({ s with ddr := Memory.write s.ddr s.logPlace 16 w.toNat
            recov := { s.recov with log := s.recov.log ++ [w] }
            ctl := { s.ctl with fenceLogged := s.ctl.fenceLogged + b2n (decide (2 ≤ recSev w)) } } : State).setField
    Reg.faultHead 0 16 (s.field Reg.faultHead 0 16 + 1)

theorem logPut_low (low : recSev w < 2) : s.logPut w = (s.logged w).signalLog := if_pos low

theorem logPut_high (high : ¬ recSev w < 2) : s.logPut w = s.logged w := if_neg high

/-- The signal of the log, up to its rate limit. -/
structure Signals (s t : State) : Prop where
  same : t = { s with recov := { s.recov with logIrq := t.recov.logIrq, logPending := t.recov.logPending, logT := t.recov.logT } }

theorem signals_signalLog (s : State) : Signals s s.signalLog := by
  refine ⟨?_⟩
  unfold State.signalLog
  cases e : s.recov.logT with
  | none => rfl
  | some t0 =>
    dsimp only
    split_ifs
    · rfl
    · rw [e]

theorem signals_logPut (s : State) (w : BitVec 128) : Signals (s.logged w) (s.logPut w) := by
  by_cases low : recSev w < 2
  · rw [logPut_low low]
    exact signals_signalLog _
  · rw [logPut_high low]
    exact ⟨rfl⟩

theorem signalLog_due (due : ∀ t0, s.recov.logT = some t0 → t0 + 1000000 ≤ s.time) :
    s.signalLog.recov.logIrq = true ∧ s.signalLog.recov.logT = some s.time := by
  unfold State.signalLog
  cases e : s.recov.logT with
  | none => exact ⟨rfl, rfl⟩
  | some t0 =>
    dsimp only
    rw [if_pos (decide_eq_true (due t0 e))]
    exact ⟨rfl, rfl⟩

theorem signalLog_waits (e : s.recov.logT = some t0) (early : s.time < t0 + 1000000) :
    s.signalLog = { s with recov := { s.recov with logPending := true } } := by
  unfold State.signalLog
  rw [e]
  dsimp only
  rw [if_neg (by simp; omega)]

theorem reg_logged (s : State) (w : BitVec 128) (n : a ≠ Reg.faultHead) : (s.logged w).reg a = s.reg a :=
  State.reg_setField_other _ _ _ _ _ _ n

theorem reg_logPut (s : State) (w : BitVec 128) (n : a ≠ Reg.faultHead) : (s.logPut w).reg a = s.reg a := by
  rw [(signals_logPut s w).same]
  exact reg_logged s w n

theorem log_logPut (s : State) (w : BitVec 128) : (s.logPut w).recov.log = s.recov.log ++ [w] := by
  rw [(signals_logPut s w).same]
  rfl

theorem flight_logPut (s : State) (w : BitVec 128) : (s.logPut w).recov.flight = s.recov.flight := by
  rw [(signals_logPut s w).same]
  rfl

theorem reeveQ_logPut (s : State) (w : BitVec 128) : (s.logPut w).recov.reeveQ = s.recov.reeveQ := by
  rw [(signals_logPut s w).same]
  rfl

theorem mem_logPut (s : State) (w : BitVec 128) : (s.logPut w).mem = s.mem := by
  rw [(signals_logPut s w).same]
  rfl

theorem net_logPut (s : State) (w : BitVec 128) : (s.logPut w).net = s.net := by
  rw [(signals_logPut s w).same]
  rfl

theorem ddr_logPut (s : State) (w : BitVec 128) : (s.logPut w).ddr = Memory.write s.ddr s.logPlace 16 w.toNat := by
  rw [(signals_logPut s w).same]
  rfl

theorem head_logPut (s : State) (w : BitVec 128) : (s.logPut w).field Reg.faultHead 0 16 = (s.field Reg.faultHead 0 16 + 1) % 65536 := by
  have set : (s.logged w).field Reg.faultHead 0 16 = (s.field Reg.faultHead 0 16 + 1) % 2 ^ 16 := State.field_setField _ _ 0 16 _ (by decide)
  refine Eq.trans ?_ set
  rw [(signals_logPut s w).same]
  exact State.field_congr rfl 0 16

theorem read_logPut (wf : Memory.wf s.ddr = true) (w : BitVec 128) : Memory.read (s.logPut w).ddr s.logPlace 16 = w.toNat := by
  rw [ddr_logPut, Memory.read_write _ _ _ wf]
  exact Nat.mod_eq_of_lt w.isLt

/-- A lost record, with what else it leaves alone. -/
theorem lose_low (low : recSev w < 2) : s.loseRecord w = s.countSat Reg.faultStat 0 16 1 := if_neg (by omega)

section
variable {r : Nat} {w : BitVec 128}

/-- The record leaves its way to the reeve. -/
def Machine.State.taken (s : State) (r : Nat) (w : BitVec 128) : State :=
  { s with recov := { s.recov with flight := s.recov.flight.erase (r, w) } }

theorem faultRecord_waits (r : ReeveIx) (s : State)
    (waits : ∀ w, (s.recov.flight.find? fun x => x.1 == r.val) = some (r.val, w) → s.takes r.val = true →
      ∃ y ∈ s.recov.flight, y.1 ≠ r.val ∧ s.takes y.1 = true ∧ recTime y.2 < recTime w) :
    exec (.faultRecord r) s = .next s := by
  refine congrArg Host.Outcome.next ?_
  cases e : s.recov.flight.find? fun x => x.1 == r.val with
  | none => rfl
  | some x =>
    obtain ⟨i, w⟩ := x
    obtain rfl : i = r.val := by simpa using List.find?_some e
    refine if_pos ?_
    cases takes : s.takes r.val with
    | false => rfl
    | true => simpa [and_assoc] using waits w e takes

theorem faultRecord_takes (r : ReeveIx) (e : (s.recov.flight.find? fun x => x.1 == r.val) = some (r.val, w)) (takes : s.takes r.val = true)
    (first : ¬ ∃ y ∈ s.recov.flight, y.1 ≠ r.val ∧ s.takes y.1 = true ∧ recTime y.2 < recTime w) :
    exec (.faultRecord r) s = .next ((s.taken r.val w).logRecord r.val w) := by
  refine congrArg Host.Outcome.next ?_
  rw [e]
  refine if_neg ?_
  simpa [takes, and_assoc] using first

theorem takes_iff (s : State) (r : Nat) : s.takes r = true ↔
    ¬ (s.recov.haltedReeves.contains r = true ∨ s.recov.lostReeves.contains r = true) := by
  unfold State.takes
  cases s.recov.haltedReeves.contains r <;> cases s.recov.lostReeves.contains r <;> decide

theorem logRecord_buffers (closed : s.recov.baseWritten = false) (room : s.recov.startBuf.length < 256) :
    s.logRecord r w = { s with recov := { s.recov with startBuf := s.recov.startBuf ++ [w] } } := by
  unfold State.logRecord
  rw [closed]
  exact if_pos room

theorem logRecord_puts (opened : s.recov.baseWritten = true) (room : s.logFull = false) (none : s.recov.heldRecs = []) :
    s.logRecord r w = s.logPut w := by
  unfold State.logRecord
  rw [opened, room, none]
  rfl

theorem logRecord_loses (opened : s.recov.baseWritten = true) (full : s.logFull = true) (low : recSev w < 2) :
    s.logRecord r w = s.countSat Reg.faultStat 0 16 1 := by
  unfold State.logRecord
  rw [opened, full]
  exact (if_pos low).trans (lose_low low)

theorem logRecord_holds (opened : s.recov.baseWritten = true) (full : s.logFull = true) (high : 2 ≤ recSev w) :
    s.logRecord r w = s.holdRecord r w := by
  unfold State.logRecord
  rw [opened, full]
  exact if_neg (Nat.not_lt.mpr high)

theorem queueRecord_empty (s : State) (r : Nat) (w : BitVec 128) (none : s.recov.reeveQ = []) :
    s.queueRecord r w = { s with recov := { s.recov with reeveQ := [(r, w)] } } := by
  unfold State.queueRecord
  rw [none]
  rfl

/-- A record that finds the lead reeve holding 64 waits in its own reeve's queue, under a package Bell. -/
theorem holdRecord_queues (held : 64 ≤ s.recov.heldRecs.length) (none : s.recov.reeveQ = []) :
    (s.holdRecord r w).recov.reeveQ = [(r, w)] ∧ (s.holdRecord r w).recov.overCut = true ∧ (s.holdRecord r w).recov.log = s.recov.log ∧
      (s.recov.overCut = false → (s.holdRecord r w).bell.cuts ≠ []) := by
  have full : ¬ s.recov.heldRecs.length < 64 := by omega
  unfold State.holdRecord
  rw [if_neg full]
  cases cut : s.recov.overCut with
  | true =>
    rw [if_pos rfl, queueRecord_empty _ _ _ none]
    exact ⟨rfl, cut, rfl, nofun⟩
  | false =>
    obtain ⟨-, cuts, x, b, c, rest⟩ := rung_ring s 0 0 0 7
    have recov : (s.ring 0 0 0 7).recov = s.recov := by rw [rest]
    rw [if_neg (by decide)]
    dsimp only
    rw [queueRecord_empty _ _ _ (by rw [recov]; exact none)]
    exact ⟨rfl, rfl, by rw [← recov], fun _ => cuts⟩

end

/-- What lets go of held records: the ring grows at its end, memory stays. -/
structure Grows (s t : State) : Prop where
  log : s.recov.log <+: t.recov.log
  reeveQ : t.recov.reeveQ = s.recov.reeveQ
  mem : t.mem = s.mem
  reg : ∀ a, a ≠ Reg.faultHead → t.reg a = s.reg a

theorem releaseHeld_grows (n : Nat) (s : State) : Grows s (State.releaseHeld n s) := by
  induction n generalizing s with
  | zero => exact ⟨List.prefix_rfl, rfl, rfl, fun _ _ => rfl⟩
  | succ n ih =>
    unfold State.releaseHeld
    cases s.recov.heldRecs with
    | nil => exact ⟨List.prefix_rfl, rfl, rfl, fun _ _ => rfl⟩
    | cons w ws =>
      dsimp only
      split_ifs with full
      · exact ⟨List.prefix_rfl, rfl, rfl, fun _ _ => rfl⟩
      · obtain ⟨log, queue, mem, reg⟩ := ih (({ s with recov := { s.recov with heldRecs := ws } } : State).logPut w)
        rw [log_logPut] at log
        exact ⟨(List.prefix_append _ _).trans log, queue.trans (reeveQ_logPut _ _), mem.trans (mem_logPut _ _),
          fun a n => (reg a n).trans (reg_logPut _ _ n)⟩

/-- The oldest held record reaches the log where there is room. -/
theorem releaseHeld_first (n : Nat) (held : s.recov.heldRecs = w :: ws) (room : s.logFull = false) :
    w ∈ (State.releaseHeld (n + 1) s).recov.log := by
  unfold State.releaseHeld
  rw [held]
  dsimp only
  rw [if_neg (by simp [room])]
  refine (releaseHeld_grows n _).log.subset ?_
  rw [log_logPut]
  exact List.mem_append_right _ (List.mem_singleton_self _)

theorem releaseHeld_full (n : Nat) (full : s.logFull = true) : State.releaseHeld n s = s := by
  cases n with
  | zero => rfl
  | succ n =>
    unfold State.releaseHeld
    cases s.recov.heldRecs with
    | nil => rfl
    | cons w ws => exact if_pos full

/-- With nothing held, nothing follows. -/
theorem releaseHeld_none (n : Nat) (none : s.recov.heldRecs = []) : State.releaseHeld n s = s := by
  cases n with
  | zero => rfl
  | succ n =>
    unfold State.releaseHeld
    rw [none]

theorem releaseQueues_none (n : Nat) (none : s.recov.reeveQ = []) : State.releaseQueues n s = s := by
  cases n with
  | zero => rfl
  | succ n =>
    unfold State.releaseQueues
    rw [none]
    rfl

/-- While the lead reeve holds records and the ring is full, the queues' records join those, and the ring stays. -/
theorem releaseQueues_full (n : Nat) (s : State) (held : s.recov.heldRecs ≠ []) :
    ∃ q h, State.releaseQueues n s = { s with recov := { s.recov with reeveQ := q, heldRecs := h } } := by
  induction n generalizing s with
  | zero => exact ⟨_, _, rfl⟩
  | succ n ih =>
    unfold State.releaseQueues
    split
    · exact ⟨_, _, rfl⟩
    · next x _ =>
      have some : (!s.recov.heldRecs.isEmpty) = true := by simpa using held
      dsimp only
      rw [if_pos some]
      split_ifs
      · obtain ⟨q, h, e⟩ := ih ({ s with recov := { s.recov with reeveQ := s.recov.reeveQ.erase x, heldRecs := s.recov.heldRecs ++ [x.2] } }) (by simp)
        exact ⟨q, h, e⟩
      · exact ⟨_, _, rfl⟩

/-- What the reeves' queues add to the log. -/
theorem releaseQueues_same (n : Nat) (s : State) : (State.releaseQueues n s).mem = s.mem ∧
    ∀ a, a ≠ Reg.faultHead → (State.releaseQueues n s).reg a = s.reg a := by
  induction n generalizing s with
  | zero => exact ⟨rfl, fun _ _ => rfl⟩
  | succ n ih =>
    unfold State.releaseQueues
    split
    · exact ⟨rfl, fun _ _ => rfl⟩
    · next x _ =>
      dsimp only
      split_ifs
      · exact ih _
      · exact ⟨rfl, fun _ _ => rfl⟩
      · exact ih _
      · obtain ⟨mem, reg⟩ := ih (({ s with recov := { s.recov with reeveQ := s.recov.reeveQ.erase x } } : State).logPut x.2)
        exact ⟨mem.trans (mem_logPut _ _), fun a n => (reg a n).trans (reg_logPut _ _ n)⟩

theorem endOverCut_restarts (s : State) : s.endOverCut.mem = s.mem ∧ s.endOverCut.recov.log = s.recov.log ∧
    ∀ a < 0x10000000, s.endOverCut.reg a = s.reg a := by
  unfold State.endOverCut
  split_ifs
  · obtain ⟨restarts, -⟩ := resumeScope_restarts { s with recov := { s.recov with overCut := false } } 0 0 0
    exact ⟨restarts.mem, by rw [restarts.recov], restarts.reg⟩
  · exact ⟨rfl, rfl, fun _ _ => rfl⟩

theorem endOverCut_off (off : s.recov.overCut = false) : s.endOverCut = s := by
  unfold State.endOverCut
  rw [off]
  rfl

/-- TAIL written and LOST cleared, with the records that it passes gone: the first half of a write of FAULT.TAIL. -/
def Machine.State.tailSet (s : State) (v : W32) : State :=
  let n := (v.toNat % 65536 + 65536 - s.field Reg.faultTail 0 16) % 65536
  let log := s.recov.log.drop n
  let u := (s.setReg Reg.faultTail (BitVec.ofNat 32 (v.toNat % 65536))).setField Reg.faultStat 0 16 0
  { u with recov := { u.recov with log := log, logIrq := false, logPending := u.recov.logPending && log.any fun r => decide (recSev r < 2) } }

/-- What was held follows. -/
def Machine.State.follow (s : State) : State := (State.releaseQueues 256 (State.releaseHeld 64 s)).endOverCut

theorem writeTail_eq (s : State) (v : W32) : s.writeTail v = (s.tailSet v).follow := rfl

theorem follow_same (s : State) : s.follow.mem = s.mem ∧ ∀ a < 0x10000000, a ≠ Reg.faultHead → s.follow.reg a = s.reg a := by
  obtain ⟨mem, -, reg⟩ := endOverCut_restarts (State.releaseQueues 256 (State.releaseHeld 64 s))
  obtain ⟨queueMem, queueReg⟩ := releaseQueues_same 256 (State.releaseHeld 64 s)
  have held := releaseHeld_grows 64 s
  exact ⟨mem.trans (queueMem.trans held.mem), fun a lt n => (reg a lt).trans ((queueReg a n).trans (held.reg a n))⟩

theorem reg_tailSet (s : State) (v : W32) : (s.tailSet v).reg Reg.faultTail = BitVec.ofNat 32 (v.toNat % 65536) := by
  refine (State.reg_congr rfl _).trans ((State.reg_setField_other _ _ _ _ _ _ (by decide)).trans ?_)
  rw [State.reg_setReg, if_pos rfl]

theorem lost_tailSet (s : State) (v : W32) : (s.tailSet v).field Reg.faultStat 0 16 = 0 :=
  (State.field_congr rfl 0 16).trans (State.field_setField _ _ 0 16 0 (by decide))

theorem reg_tailSet_other (s : State) (v : W32) (tail : a ≠ Reg.faultTail) (stat : a ≠ Reg.faultStat) : (s.tailSet v).reg a = s.reg a := by
  refine (State.reg_congr rfl _).trans ((State.reg_setField_other _ _ _ _ _ _ stat).trans ?_)
  exact State.reg_setReg_other _ _ tail

theorem logFull_tailSet (s : State) (v : W32) :
    (s.tailSet v).logFull = ((s.field Reg.faultHead 0 16 + 1) % 65536 == v.toNat % 65536) := by
  have head : (s.tailSet v).field Reg.faultHead 0 16 = s.field Reg.faultHead 0 16 :=
    State.field_congr (reg_tailSet_other s v (by decide) (by decide)) 0 16
  have tail : (s.tailSet v).field Reg.faultTail 0 16 = v.toNat % 65536 := by
    unfold State.field
    rw [reg_tailSet]
    simp only [bits, BitVec.toNat_ofNat, Nat.shiftRight_zero]
    omega
  unfold State.logFull
  rw [head, tail]

/-- The record taken from its way is lost: LOST counts it. -/
theorem loses_taken (s : State) (r : Nat) (w : BitVec 128) : ((s.taken r w).countSat Reg.faultStat 0 16 1).recov =
      { s.recov with flight := s.recov.flight.erase (r, w) } ∧
    ((s.taken r w).countSat Reg.faultStat 0 16 1).field Reg.faultStat 0 16 = min 65535 (s.field Reg.faultStat 0 16 + 1) ∧
    ((s.taken r w).countSat Reg.faultStat 0 16 1).flag Reg.faultStat 30 = s.flag Reg.faultStat 30 ∧
    ((s.taken r w).countSat Reg.faultStat 0 16 1).ddr = s.ddr ∧
    ∀ a, a ≠ Reg.faultStat → ((s.taken r w).countSat Reg.faultStat 0 16 1).reg a = s.reg a := by
  refine ⟨rfl, field_countSat _ _ _ _ _ (by decide), ?_, rfl, fun a n => State.reg_setField_other _ _ _ _ _ _ n⟩
  exact State.flag_setField_other _ _ 0 16 _ (by decide) (.inr (by decide))

/-- A record reaches the ring at HEAD. -/
theorem logPut_puts (s : State) (w : BitVec 128) (wf : Memory.wf s.ddr = true) :
    (s.logPut w).recov.flight = s.recov.flight ∧ (s.logPut w).recov.log = s.recov.log ++ [w] ∧
    (s.logPut w).field Reg.faultHead 0 16 = (s.field Reg.faultHead 0 16 + 1) % 65536 ∧ Memory.read (s.logPut w).ddr s.logPlace 16 = w.toNat ∧
    (∀ a, (a < s.logPlace ∨ s.logPlace + 16 ≤ a) → Memory.byte (s.logPut w).ddr a = Memory.byte s.ddr a) ∧
    (recSev w < 2 → (∀ t0, s.recov.logT = some t0 → t0 + 1000000 ≤ s.time) →
      (s.logPut w).recov.logIrq = true ∧ (s.logPut w).recov.logT = some s.time) ∧
    (∀ t0, recSev w < 2 → s.recov.logT = some t0 → s.time < t0 + 1000000 →
      (s.logPut w).recov.logPending = true ∧ (s.logPut w).recov.logIrq = s.recov.logIrq) ∧
    (s.logPut w).mem = s.mem ∧ (s.logPut w).net = s.net ∧ ∀ a, a ≠ Reg.faultHead → (s.logPut w).reg a = s.reg a := by
  refine ⟨flight_logPut s w, log_logPut s w, head_logPut s w, read_logPut wf w, fun a apart => ?_, fun low due => ?_, fun t0 low e early => ?_,
    mem_logPut s w, net_logPut s w, fun a n => reg_logPut s w n⟩
  · rw [ddr_logPut]
    exact Memory.byte_write_other _ _ _ _ wf apart
  · rw [logPut_low low]
    exact signalLog_due (s := s.logged w) due
  · rw [logPut_low low, signalLog_waits (s := s.logged w) e early]
    exact ⟨rfl, rfl⟩

/-- With nothing held or queued, and no cut over the log, nothing follows. -/
theorem follow_none (held : s.recov.heldRecs = []) (queued : s.recov.reeveQ = []) (cut : s.recov.overCut = false) : s.follow = s := by
  unfold State.follow
  rw [releaseHeld_none _ held, releaseQueues_none _ queued, endOverCut_off cut]

/-- The oldest held record follows into a ring with room. -/
theorem follow_first {w : BitVec 128} {ws : List (BitVec 128)} (held : s.recov.heldRecs = w :: ws) (queued : s.recov.reeveQ = [])
    (room : s.logFull = false) : w ∈ s.follow.recov.log := by
  have first : w ∈ (State.releaseHeld 64 s).recov.log := releaseHeld_first 63 held room
  have queue : (State.releaseHeld 64 s).recov.reeveQ = [] := (releaseHeld_grows 64 s).reeveQ.trans queued
  unfold State.follow
  rw [releaseQueues_none _ queue, (endOverCut_restarts _).2.1]
  exact first

/-- A full ring takes nothing that is held. -/
theorem follow_full (held : s.recov.heldRecs ≠ []) (closed : s.logFull = true) : s.follow.recov.log = s.recov.log := by
  obtain ⟨q, h, e⟩ := releaseQueues_full 256 s held
  unfold State.follow
  rw [releaseHeld_full _ closed, (endOverCut_restarts _).2.1, e]

/-- Settles O49. -/
theorem faultLogKeepsRecords : Obligations.FaultLogKeepsRecords := by
  unfold Obligations.FaultLogKeepsRecords
  intro s safe base head
  obtain ⟨-, wf, -⟩ := safe
  refine ⟨fun r => ?_, fun v => ?_, fun t0 e pending due => ?_, fun early => ?_⟩
  · intro out earlier
    refine ⟨fun absent => ?_, fun w before found => ?_, fun w runs first found => ?_⟩
    · refine ⟨s, faultRecord_waits r s fun w found takes => ?_, rfl⟩
      rcases absent with stopped | none
      · exact absurd stopped ((takes_iff s r.val).1 takes)
      · exact absurd rfl (none _ (List.mem_of_find?_eq_some found))
    · refine ⟨s, faultRecord_waits r s fun w' found' _ => ?_, rfl⟩
      obtain rfl : w = w' := by simpa using found.symm.trans found'
      exact before
    · extract_lets f
      have acts := faultRecord_takes r found ((takes_iff s r.val).2 runs) first
      refine ⟨fun closed room => ?_, fun opened room none => ?_, fun opened full low => ?_, fun opened full high => ⟨fun room => ?_, fun held none => ?_⟩⟩
      · rw [logRecord_buffers (s := s.taken r w) closed room] at acts
        exact ⟨_, acts, rfl⟩
      · rw [logRecord_puts (s := s.taken r w) opened room none] at acts
        exact ⟨_, acts, logPut_puts (s.taken r w) w wf⟩
      · rw [logRecord_loses (s := s.taken r w) opened full low] at acts
        exact ⟨_, acts, loses_taken s r w⟩
      · rw [logRecord_holds (s := s.taken r w) opened full high, State.holdRecord, if_pos (show (s.taken r w).recov.heldRecs.length < 64 from room)] at acts
        exact ⟨_, acts, rfl⟩
      · rw [logRecord_holds (s := s.taken r w) opened full high] at acts
        obtain ⟨queue, cut, log, rings⟩ := holdRecord_queues (s := s.taken r w) (r := r.val) (w := w) held none
        exact ⟨_, acts, queue, cut, log, rings⟩
  · obtain ⟨mem, reg⟩ := follow_same (s.tailSet v)
    refine ⟨(s.tailSet v).follow, rfl, (reg _ (by decide) (by decide)).trans (reg_tailSet s v), ?_, mem, fun held queued cut => ?_,
      fun w ws held queued room => ?_, fun w ws held full => ?_⟩
    · exact (State.field_congr (reg _ (by decide) (by decide)) 0 16).trans (lost_tailSet s v)
    · rw [follow_none (s := s.tailSet v) held queued cut]
      exact ⟨rfl, rfl, rfl, fun a tail stat => reg_tailSet_other s v tail stat⟩
    · exact follow_first (s := s.tailSet v) held queued ((logFull_tailSet s v).trans (beq_eq_false_iff_ne.2 room))
    · refine follow_full ?_ ((logFull_tailSet s v).trans (beq_iff_eq.2 full))
      rw [show (s.tailSet v).recov.heldRecs = w :: ws from held]
      exact List.cons_ne_nil _ _
  · refine ⟨_, congrArg Host.Outcome.next ?_, rfl⟩
    rw [e]
    exact if_pos (by simpa [pending] using due)
  · refine ⟨s, congrArg Host.Outcome.next ?_, rfl⟩
    cases e : s.recov.logT with
    | none => rfl
    | some t0 =>
      refine if_neg ?_
      rcases early with off | early
      · simp [off]
      · have := early t0 e
        simp
        omega

end Sys2Proof
end

section
/-! PROOFS. The Bell: rings, stops, cuts and resumes (R372, R444 to R448, R457, R458). -/

namespace Sys2Proof

open Machine

variable {s t : State}

/-! ## The end of a job -/

theorem job_syncMode (s : State) : s.syncMode.job = s.job := by
  obtain ⟨c, e⟩ := syncMode_eq s
  rw [e]

theorem releaseReq_syncMode (s : State) : s.syncMode.ctl.releaseReq = s.ctl.releaseReq := by
  unfold State.syncMode
  split_ifs <;> rfl

/-- A step that leaves the deal and what a release waits for alone. -/
structure SameDeal (s t : State) : Prop where
  job : t.job = s.job
  release : t.ctl.releaseReq = s.ctl.releaseReq

theorem SameDeal.trans {u : State} (a : SameDeal s t) (b : SameDeal t u) : SameDeal s u :=
  ⟨b.job.trans a.job, b.release.trans a.release⟩

theorem sameDeal_setBit (s : State) (a i : Nat) : SameDeal s (s.setBit a i) := ⟨rfl, rfl⟩

theorem sameDeal_commitStaged (s : State) (p : Nat → Bool) : SameDeal s (s.commitStaged p) := by
  have each : ∀ (l : List (Nat × W32)) (s : State), SameDeal s (l.foldl (fun (s : State) (e : Nat × W32) => s.commitOne e.1 e.2) s) := by
    intro l
    induction l with
    | nil => exact fun _ => ⟨rfl, rfl⟩
    | cons x l ih => exact fun s => SameDeal.trans (t := s.commitOne x.1 x.2) ⟨rfl, rfl⟩ (ih _)
  exact (each _ s).trans ⟨rfl, rfl⟩

theorem sameDeal_of_flushed {R : Nat → Prop} (f : Flushed R s t) : SameDeal s t := by
  obtain ⟨-, -, -, -, -, -, -, -, -, -, -, -, -, -, -, -, job, -, -, -, -, ctl, -⟩ := f.frame.rest
  exact ⟨job, by rw [ctl]⟩

/-- The first part of a job's end: staged writes take effect, and the rings drain. -/
def Machine.State.endRings (s : State) : State :=
  (upTo 648).foldl (fun (s : State) u => s.flushRing u) (s.commitStaged fun a => isPkgStaged a || hands640.any fun h => isHandStaged h a)

/-- STOPPED is set where the deal was not done. -/
def Machine.State.endMark (s : State) : State := if s.allDone then s else s.setBit Reg.jobStat 28

/-- The staged limits of the governor take effect. -/
def Machine.State.endLimits (s : State) : State := match s.gov.staged with | none => s | some (f, p) => s.setLimits f p

/-- The deal is over, and its pages await the scrub. -/
def Machine.State.endDeal (s : State) : State :=
  let j := { s.job with run := false, scrub := true, stopWanted := 0, startPending := [], ckptArmed := false, pages := (s.job.pages ++ s.mappedPages).dedup }
  (State.setBusy { s with job := j } none).syncMode

/-- A release under way turns the rails off. -/
def Machine.State.endRelease (s : State) : State := if s.ctl.releaseReq.isSome then s.safeOff else s

theorem endLimits_none (h : s.gov.staged = none) : s.endLimits = s := by
  unfold State.endLimits
  rw [h]

theorem endLimits_some {f p : Nat} (h : s.gov.staged = some (f, p)) : s.endLimits = s.setLimits f p := by
  unfold State.endLimits
  rw [h]

theorem endJob_eq (s : State) : s.endJob = s.endRings.endMark.endLimits.endDeal.endRelease := by
  unfold State.endJob
  extract_lets a d e u j done
  have drains : s.endRings = d := rfl
  clear_value d
  have marks : d.endMark = e := rfl
  clear_value e
  have limits : e.endLimits = u := by
    dsimp only [u]
    rcases h : e.gov.staged with _ | ⟨f, p⟩
    · exact endLimits_none h
    · exact endLimits_some h
  clear_value u
  rw [drains, marks, limits]
  rfl

theorem sameDeal_endRings (s : State) : SameDeal s s.endRings :=
  (sameDeal_commitStaged s _).trans (sameDeal_of_flushed (flushed_all 648 _))

theorem sameDeal_endMark (s : State) : SameDeal s s.endMark := by
  unfold State.endMark
  split_ifs
  · exact ⟨rfl, rfl⟩
  · exact sameDeal_setBit s _ _

theorem sameDeal_endLimits (s : State) : SameDeal s s.endLimits := by
  unfold State.endLimits
  split <;> exact ⟨rfl, rfl⟩

theorem endDeal_stops (s : State) : s.endDeal.job.run = false ∧ s.endDeal.job.scrub = true ∧ s.endDeal.job.stopWanted = 0 ∧
    s.endDeal.ctl.releaseReq = s.ctl.releaseReq := by
  unfold State.endDeal
  rw [job_syncMode, releaseReq_syncMode]
  exact ⟨rfl, rfl, rfl, rfl⟩

/-- The deal stops: its pages are remembered, its scrub begins. -/
theorem endJob_stops (quiet : s.ctl.releaseReq = none) :
    s.endJob.job.run = false ∧ s.endJob.job.scrub = true ∧ s.endJob.job.stopWanted = 0 := by
  obtain ⟨-, release⟩ := ((sameDeal_endRings s).trans (sameDeal_endMark _)).trans (sameDeal_endLimits _)
  obtain ⟨run, scrub, wanted, same⟩ := endDeal_stops s.endRings.endMark.endLimits
  rw [endJob_eq, State.endRelease, if_neg (by rw [same, release, quiet]; decide)]
  exact ⟨run, scrub, wanted⟩

/-! ## Rings -/

theorem bell_syncMode (s : State) : s.syncMode.bell = s.bell := by
  obtain ⟨c, e⟩ := syncMode_eq s
  rw [e]

theorem marked_ring (s : State) (scope suit hand source : Nat) : (s.ring scope suit hand source).bell.marked = s.bell.marked ∧
    (s.ring scope suit hand source).bell.stopped = s.bell.stopped := by
  unfold State.ring
  dsimp only
  split_ifs
  · exact ⟨rfl, rfl⟩
  · rw [bell_syncMode]
    exact ⟨rfl, rfl⟩

section
variable {scope suit hand source : Nat} {c : Cut}

/-- A cut inside one in progress or held starts nothing. -/
theorem cuts_ring_covered (is : c = { scope := scope, suit := suit, hand := hand, source := source, t0 := s.time })
    (covered : ∃ d ∈ s.bell.cuts, d.covers c = true) : (s.ring scope suit hand source).bell.cuts = s.bell.cuts := by
  unfold State.ring
  dsimp only
  rw [← is, if_pos (List.any_eq_true.2 covered)]
  rfl

/-- Any other cut starts, and those inside it that are in progress are part of it. -/
theorem cuts_ring_starts (is : c = { scope := scope, suit := suit, hand := hand, source := source, t0 := s.time })
    (starts : ∀ d ∈ s.bell.cuts, d.covers c = false) : (s.ring scope suit hand source).bell.cuts =
      (s.bell.cuts.filter fun d => d.complete || !(c.covers d)) ++ [c] := by
  unfold State.ring
  dsimp only
  rw [← is, if_neg (by simpa using starts), bell_syncMode]
end

theorem bellRing_rings (v : W32) (rings : bit v.toNat 31 = true) : exec (.bellRing v) s =
    .next ((s.storeBellCtl v).ring (bellScope v.toNat).1 (bellScope v.toNat).2.1 (bellScope v.toNat).2.2 0) :=
  congrArg Host.Outcome.next (if_pos rings)

theorem reg_storeBellCtl (s : State) (v : W32) : (s.storeBellCtl v).reg Reg.bellCtl = BitVec.ofNat 32 (v.toNat &&& bellCtlMask) := by
  refine (State.reg_setReg _ _ _ _).trans ?_
  exact if_pos rfl

theorem reg_storeBellCtl_other (s : State) (v : W32) (n : a ≠ Reg.bellCtl) : (s.storeBellCtl v).reg a = s.reg a :=
  State.reg_setReg_other _ _ n

/-! ## Units stop (R446) -/

theorem seqRuns_of_marked {h : Nat} (marked : h ∈ s.bell.marked) : s.seqRuns h = false := by
  unfold State.seqRuns State.seqAwake State.marked
  rw [List.contains_iff_mem.2 marked]
  simp

theorem frame_traceUnit (s : State) (u event aux : Nat) :
    Frame (· = Reg.handLost u) (fun _ => True) Nothing (fun _ => True) s (s.traceUnit u event aux) := by
  unfold State.traceUnit
  split_ifs
  · exact frame_traceHand s u _ trivial rfl
  · exact frame_traceMill s _ _ trivial
  · exact .refl s

theorem traced_traceUnit (s : State) (u event aux : Nat) : Traced s (s.traceUnit u event aux) := by
  unfold State.traceUnit
  split_ifs
  · exact traced_traceHand s u _
  · exact traced_traceMill s _ _
  · exact .refl s

/-- Gaps that open in the cubes of a hand change their ramps alone. -/
structure Gaps (u : Nat) (s t : State) : Prop where
  core : ∀ k, t.core k = { s.core k with ramp := (t.core k).ramp } ∧ (k / 17 ≠ u → t.core k = s.core k)
  bell : t.bell = s.bell
  mem : t.mem = s.mem
  net : t.net = s.net
  hand : ∀ h, t.hand h = s.hand h
  reg : ∀ a, t.reg a = s.reg a

theorem gaps_openGap (s : State) (u c : Nat) (lt : c < 17) : Gaps u s (s.openGap (u * 17 + c)) := by
  unfold State.openGap
  split_ifs
  · refine ⟨fun k => ?_, rfl, rfl, rfl, fun _ => rfl, fun _ => rfl⟩
    rw [State.core_setCore]
    split_ifs with e
    · subst e
      exact ⟨rfl, fun apart => absurd (by omega) apart⟩
    · exact ⟨rfl, fun _ => rfl⟩
  · exact ⟨fun _ => ⟨rfl, fun _ => rfl⟩, rfl, rfl, rfl, fun _ => rfl, fun _ => rfl⟩

theorem gaps_openGaps (s : State) (u : Nat) : Gaps u s (s.openGaps u) := by
  have each : ∀ l : List Nat, (∀ c ∈ l, c < 17) → ∀ s : State, Gaps u s (l.foldl (fun (s : State) c => s.openGap (u * 17 + c)) s) := by
    intro l
    induction l with
    | nil => exact fun _ s => ⟨fun _ => ⟨rfl, fun _ => rfl⟩, rfl, rfl, rfl, fun _ => rfl, fun _ => rfl⟩
    | cons x l ih =>
      intro small s
      have first := gaps_openGap s u x (small x (List.mem_cons_self ..))
      have rest := ih (fun c m => small c (List.mem_cons_of_mem _ m)) (s.openGap (u * 17 + x))
      refine ⟨fun k => ⟨?_, fun apart => ((rest.core k).2 apart).trans ((first.core k).2 apart)⟩, rest.bell.trans first.bell,
        rest.mem.trans first.mem, rest.net.trans first.net, fun h => (rest.hand h).trans (first.hand h), fun a => (rest.reg a).trans (first.reg a)⟩
      rw [List.foldl_cons, (rest.core k).1, (first.core k).1]
  exact each _ (fun c m => (mem_upTo 17 c).1 m) s

/-- The unit that stops, once its record of the stop is written. -/
def Machine.State.halts (s : State) (u : Nat) : State :=
  { s with bell := { s.bell with stopped := s.bell.stopped ++ [u], stopT := PMap.put s.bell.stopT u (s.now u) } }

theorem unitStop_stops {u : UnitIx} (marked : s.marked u.val = true) (runs : s.bell.stopped.contains u.val = false)
    (point : s.atStopPoint u.val = true) : exec (.unitStop u) s = .next
      (let t := (s.traceUnit u.val 3 (s.field Reg.bellStat 25 4)).halts u.val
       if u.val < 640 then t.openGaps u.val else t) := by
  refine congrArg Host.Outcome.next (if_pos ?_)
  rw [marked, runs, point]
  rfl

/-- A unit that stops keeps its state but for its record of the stop and the gaps that open. -/
theorem unitStop_keeps (u : Nat) :
    let v := (s.traceUnit u 3 (s.field Reg.bellStat 25 4)).halts u
    let t := if u < 640 then v.openGaps u else v
    t.bell.stopped = s.bell.stopped ++ [u] ∧ t.bell.cuts = s.bell.cuts ∧ t.mem = s.mem ∧ t.net = s.net ∧
    (∀ k, t.core k = { s.core k with ramp := (t.core k).ramp } ∧ (k / 17 ≠ u → t.core k = s.core k)) ∧
    (∀ h, t.hand h = { s.hand h with ring := (t.hand h).ring, rseq := (t.hand h).rseq, lostNew := (t.hand h).lostNew }) ∧
    ∀ a, a ≠ Reg.handLost u → t.reg a = s.reg a := by
  intro v t
  have frame := frame_traceUnit s u 3 (s.field Reg.bellStat 25 4)
  obtain ⟨hand, -, net, -, -⟩ := traced_traceUnit s u 3 (s.field Reg.bellStat 25 4)
  have bell : (s.traceUnit u 3 (s.field Reg.bellStat 25 4)).bell = s.bell := by simp only [frame.rest]
  have gaps : Gaps u v t := by
    by_cases lt : u < 640
    · rw [show t = v.openGaps u from if_pos lt]
      exact gaps_openGaps v u
    · rw [show t = v from if_neg lt]
      exact ⟨fun _ => ⟨rfl, fun _ => rfl⟩, rfl, rfl, rfl, fun _ => rfl, fun _ => rfl⟩
  have core : ∀ k, v.core k = s.core k := fun k => frame.core k id
  refine ⟨?_, ?_, gaps.mem.trans frame.mem, gaps.net.trans net, fun k => ⟨?_, fun apart => ?_⟩, fun h => ?_,
    fun a n => (gaps.reg a).trans (frame.reg a n)⟩
  · rw [gaps.bell]
    exact congrArg (fun b => b.stopped ++ [u]) bell
  · rw [gaps.bell]
    exact (congrArg Bell.cuts bell : (s.traceUnit u 3 (s.field Reg.bellStat 25 4)).bell.cuts = s.bell.cuts)
  · have same := (gaps.core k).1
    rw [core] at same
    exact same
  · rw [(gaps.core k).2 apart, core]
  · rw [gaps.hand h]
    exact hand h

/-! ## The cut is complete (R447) -/

theorem satAt_min (n d : Nat) : satAt n d = min n d := by
  unfold satAt
  split_ifs <;> omega

/-- The record of a cut's time. -/
def Machine.State.timed (s : State) (c : Cut) : State :=
  let u := s.setField Reg.bellStat 0 20 (satAt (2 ^ 20 - 1) (s.time - c.t0))
  if 20000 < s.time - c.t0 then u.setBit Reg.bellStat 29 else u

theorem field_timed (s : State) (c : Cut) : (s.timed c).field Reg.bellStat 0 20 = min (2 ^ 20 - 1) (s.time - c.t0) := by
  have set : (s.setField Reg.bellStat 0 20 (satAt (2 ^ 20 - 1) (s.time - c.t0))).field Reg.bellStat 0 20 = min (2 ^ 20 - 1) (s.time - c.t0) := by
    rw [State.field_setField _ _ 0 20 _ (by decide), satAt_min]
    exact Nat.mod_eq_of_lt (by omega)
  unfold State.timed
  dsimp only
  split_ifs
  · exact (State.field_setField_other _ _ 29 1 _ _ _ (by decide) (.inl (by decide))).trans set
  · exact set

theorem late_timed {c : Cut} (late : 20000 < s.time - c.t0) : (s.timed c).flag Reg.bellStat 29 = true := by
  unfold State.timed
  dsimp only
  rw [if_pos late]
  exact State.flag_setBit _ _ 29 (by decide)

theorem reg_timed (s : State) (c : Cut) (n : a ≠ Reg.bellStat) : (s.timed c).reg a = s.reg a := by
  unfold State.timed
  dsimp only
  split_ifs
  · exact (State.reg_setField_other _ _ _ _ _ _ n).trans (State.reg_setField_other _ _ _ _ _ _ n)
  · exact State.reg_setField_other _ _ _ _ _ _ n

theorem same_timed (s : State) (c : Cut) : (s.timed c).bell = s.bell ∧ (s.timed c).job = s.job ∧ (s.timed c).mem = s.mem ∧
    (s.timed c).ctl = s.ctl ∧ (s.timed c).recov = s.recov := by
  unfold State.timed
  dsimp only
  split_ifs <;> exact ⟨rfl, rfl, rfl, rfl, rfl⟩

/-- A cut marked complete. -/
def Machine.State.completed (s : State) (c : Cut) : State :=
  { s with bell := { s.bell with cuts := s.bell.cuts.map fun x => if x = c then { x with complete := true } else x } }

theorem finishCut_eq {c : Cut} (stays : c.resume = false) : s.finishCut c =
    if (c.scope = 0 ∨ 3 ≤ c.scope) ∧ s.job.run ∧ s.job.stopWanted = 1 then ((s.timed c).completed c).endJob else (s.timed c).completed c := by
  unfold State.finishCut
  rw [stays]
  rfl

theorem finishCut_goes {c : Cut} (stays : c.resume = false) (runs : ¬ (c.scope = 0 ∧ s.job.run = true ∧ s.job.stopWanted = 1))
    (narrow : c.scope < 3) : s.finishCut c = (s.timed c).completed c := by
  rw [finishCut_eq stays]
  refine if_neg fun ⟨scope, run, wanted⟩ => runs ⟨?_, run, wanted⟩
  omega

theorem finishCut_ends {c : Cut} (stays : c.resume = false) (stops : c.scope = 0 ∧ s.job.run = true ∧ s.job.stopWanted = 1) :
    s.finishCut c = ((s.timed c).completed c).endJob := by
  obtain ⟨scope, run, wanted⟩ := stops
  rw [finishCut_eq stays]
  exact if_pos ⟨.inl scope, run, wanted⟩

theorem cutComplete_found {c : Cut} (found : (s.bell.cuts.find? fun c => !c.complete && s.allStopped c && s.quiet c) = some c) :
    s.cutComplete = s.finishCut c := by
  unfold State.cutComplete
  rw [found]

section
variable (still : ∀ c ∈ s.bell.cuts, c.complete = true ∨ s.allStopped c = false ∨ s.quiet c = false)
include still

theorem noCut_of_still : (s.bell.cuts.find? fun c => !c.complete && s.allStopped c && s.quiet c) = none := by
  refine List.find?_eq_none.2 fun c m => ?_
  rcases still c m with e | e | e <;> simp [e]

theorem cutComplete_still : s.cutComplete =
    if (s.bell.cuts.any fun c => c.complete && (c.scope == 0 || decide (3 ≤ c.scope))) && s.job.run && s.job.stopWanted == 1 then s.endJob
    else s := by
  unfold State.cutComplete
  rw [noCut_of_still still]

/-- A job stop that a complete package cut has waited for. -/
def Machine.State.stopHeld (s : State) : Prop :=
  s.job.run = true ∧ s.job.stopWanted = 1 ∧ ∃ c ∈ s.bell.cuts, c.complete = true ∧ (c.scope = 0 ∨ 3 ≤ c.scope)

theorem cutComplete_waits (no : ¬ s.stopHeld) : s.cutComplete = s := by
  rw [cutComplete_still still]
  refine if_neg fun held => no ?_
  simp only [Bool.and_eq_true, List.any_eq_true, Bool.or_eq_true, beq_iff_eq, decide_eq_true_eq] at held
  obtain ⟨⟨some, run⟩, wanted⟩ := held
  exact ⟨run, wanted, some⟩

theorem cutComplete_ends (held : s.stopHeld) : s.cutComplete = s.endJob := by
  obtain ⟨run, wanted, some⟩ := held
  rw [cutComplete_still still]
  refine if_pos ?_
  simp only [Bool.and_eq_true, List.any_eq_true, Bool.or_eq_true, beq_iff_eq, decide_eq_true_eq]
  exact ⟨⟨some, run⟩, wanted⟩
end

/-! ## The replay of an order fault (R372) -/

theorem replayPairs_none (empty : s.recov.pairs = []) : s.replayPairs = s := by
  have same : ({ s with recov := { s.recov with pairs := [] } } : State) = s := by
    rw [← empty]
  unfold State.replayPairs
  rw [empty]
  dsimp only [List.filter_nil, List.foldl_nil]
  rw [empty]
  exact same

/-- Without a deal no pair is replayed. -/
theorem job_replayPairs (idle : s.job.run = false) : s.replayPairs.job = s.job := by
  have unready : (s.recov.pairs.filter fun p => s.job.run && p.1.all s.handStopped) = [] := by
    rw [idle]
    simp
  unfold State.replayPairs
  rw [unready]
  rfl

/-- The two records of a pair move to the head of a hand's queue. -/
def Machine.State.reordered (s : State) (a b h : Nat) : State := s.setHand h { s.hand h with xq := reorder (s.hand h).xq a b }

/-- The queues of the hands of a pair are reordered, each once. -/
structure Reorders (hs : List Nat) (a b : Nat) (s t : State) : Prop where
  inside : ∀ h ∈ hs, (t.hand h).xq = reorder (s.hand h).xq a b
  outside : ∀ h, h ∉ hs → (t.hand h).xq = (s.hand h).xq
  mem : t.mem = s.mem
  net : t.net = s.net
  recov : t.recov = s.recov

theorem reorders_foldl (a b : Nat) {hs : List Nat} (nodup : hs.Nodup) (s : State) :
    Reorders hs a b s (hs.foldl (fun (s : State) h => s.reordered a b h) s) := by
  induction hs generalizing s with
  | nil => exact ⟨nofun, fun _ _ => rfl, rfl, rfl, rfl⟩
  | cons x hs ih =>
    obtain ⟨apart, nodup⟩ := List.nodup_cons.1 nodup
    obtain ⟨inside, outside, mem, net, recov⟩ := ih nodup (s.reordered a b x)
    have first : ((s.reordered a b x).hand x).xq = reorder (s.hand x).xq a b := by
      unfold State.reordered
      rw [State.hand_setHand, if_pos rfl]
    have other : ∀ h, h ≠ x → (s.reordered a b x).hand h = s.hand h := fun h n => by
      unfold State.reordered
      rw [State.hand_setHand, if_neg n]
    refine ⟨fun h m => ?_, fun h out => ?_, mem, net, recov⟩
    · rw [List.foldl_cons]
      rcases List.mem_cons.1 m with rfl | m
      · rw [outside h apart, first]
      · rw [inside h m, other h fun e => apart (e ▸ m)]
    · obtain ⟨n, out⟩ := not_or.1 (fun e => out (List.mem_cons.2 e))
      rw [List.foldl_cons, outside h out, other h n]

theorem resumes_foldl (hs : List Nat) (s : State) : Restarts s (hs.foldl (fun (s : State) h => s.resumeScope 2 (h / 160) (h % 160)) s) := by
  induction hs generalizing s with
  | nil => exact .refl s
  | cons x hs ih =>
    obtain ⟨first, -⟩ := resumeScope_restarts s 2 (x / 160) (x % 160)
    exact first.trans (ih _)

/-- With all its members stopped, a pair is replayed and forgotten. -/
theorem replayPairs_one {hs : List Nat} {a b : Nat} (pair : s.recov.pairs = [(hs, a, b)]) (nodup : hs.Nodup) (run : s.job.run = true)
    (stopped : ∀ h ∈ hs, s.handStopped h = true) :
    s.replayPairs.recov.pairs = [] ∧ (∀ h ∈ hs, (s.replayPairs.hand h).xq = reorder (s.hand h).xq a b) ∧
      (∀ h, h ∉ hs → (s.replayPairs.hand h).xq = (s.hand h).xq) ∧ s.replayPairs.mem = s.mem ∧ s.replayPairs.net = s.net := by
  have ready : ([(hs, a, b)].filter fun p => s.job.run && p.1.all s.handStopped) = [(hs, a, b)] := by
    simpa [run] using stopped
  obtain ⟨inside, outside, mem, net, recov⟩ := reorders_foldl a b nodup s
  have replays : s.replayPairs = hs.foldl (fun (s : State) h => s.resumeScope 2 (h / 160) (h % 160))
      { hs.foldl (fun (s : State) h => s.reordered a b h) s with
        recov := { (hs.foldl (fun (s : State) h => s.reordered a b h) s).recov with pairs := [] } } := by
    unfold State.replayPairs
    rw [pair, ready]
    dsimp only [List.foldl_cons, List.foldl_nil]
    rw [show (hs.foldl (fun (s : State) h => s.setHand h { s.hand h with xq := reorder (s.hand h).xq a b }) s).recov.pairs = [(hs, a, b)] from
      (congrArg Rec.pairs recov).trans pair]
    simp only [List.contains_cons, BEq.rfl, Bool.true_or, Bool.not_true, List.filter_cons_of_neg, Bool.false_eq_true, not_false_eq_true, List.filter_nil]
    rfl
  have onward := resumes_foldl hs { hs.foldl (fun (s : State) h => s.reordered a b h) s with
        recov := { (hs.foldl (fun (s : State) h => s.reordered a b h) s).recov with pairs := [] } }
  rw [replays]
  exact ⟨by rw [onward.recov], fun h m => (onward.xq h).trans (inside h m), fun h m => (onward.xq h).trans (outside h m),
    onward.mem.trans mem, onward.net.trans net⟩

/-! ## Resumes (R448) -/

section
variable {r : Cut} {l : List Cut}

theorem covers_resume (r c : Cut) : r.covers { c with resume := true } = r.covers c := rfl

theorem resumedCuts_ended {c : Cut} (inside : r.covers c = true) (complete : c.complete = true) : c ∉ resumedCuts r l := by
  intro m
  obtain ⟨d, mem, e⟩ := List.mem_map.1 m
  obtain ⟨-, stays⟩ := List.mem_filter.1 mem
  split_ifs at e with covered
  · rw [← e] at complete
    rw [covered, show d.complete = true from complete] at stays
    cases stays
  · rw [e, inside] at covered
    exact covered rfl

theorem resumedCuts_going {c : Cut} (m : c ∈ l) (inside : r.covers c = true) (going : c.complete = false) :
    { c with resume := true } ∈ resumedCuts r l :=
  List.mem_map.2 ⟨c, List.mem_filter.2 ⟨m, by rw [going, Bool.and_false]; rfl⟩, if_pos inside⟩

theorem resumedCuts_outside {c : Cut} (m : c ∈ l) (outside : r.covers c = false) : c ∈ resumedCuts r l :=
  List.mem_map.2 ⟨c, List.mem_filter.2 ⟨m, by rw [outside]; rfl⟩, if_neg (by rw [outside]; exact Bool.false_ne_true)⟩

theorem resumedCuts_all (all : ∀ c ∈ l, c.complete = true) (wide : r.scope = 0) : resumedCuts r l = [] := by
  have none : (l.filter fun c => !(r.covers c && c.complete)) = [] := by
    refine List.filter_eq_nil_iff.2 fun c m => ?_
    rw [all c m]
    unfold Cut.covers
    rw [wide]
    simp
  unfold resumedCuts
  rw [none]
  rfl
end

/-- With no cut left every unit goes on. -/
theorem freed_all (s : State) : s.freed [] = s.bell.marked := List.filter_eq_self.2 fun _ _ => rfl

/-- A resume resumes from the state, once BELL.CTL is written. -/
theorem bellResume_resumes (reeve : Bool) (v : W32) (resumes : reeve = true ∨ bit v.toNat 30 = true) : ∃ u : State,
    exec (.bellResume reeve v) s = .next (u.resumeScope (bellScope v.toNat).1 (bellScope v.toNat).2.1 (bellScope v.toNat).2.2) ∧
      u.bell = s.bell ∧ u.mem = s.mem := by
  cases reeve with
  | true => exact ⟨s, rfl, rfl, rfl⟩
  | false =>
    have set : bit v.toNat 30 = true := resumes.resolve_left Bool.false_ne_true
    exact ⟨s.storeBellCtl v, congrArg Host.Outcome.next (if_pos set), rfl, rfl⟩

/-- Settles O41. -/
theorem bellCutsAndResumes : Obligations.BellCutsAndResumes := by
  unfold Obligations.BellCutsAndResumes
  intro s
  refine ⟨fun v rings => ?_, fun v silent => ?_, fun u => ⟨fun cuts unmarked runs => ?_, fun free => ?_, fun marked runs point => ?_, fun waits => ?_⟩,
    fun c found stays => ⟨fun runs narrow pairs => ?_, fun stops release => ?_⟩, ⟨fun still held pairs => ?_, ?_, fun still held release => ?_⟩,
    fun late => ?_, fun early => ?_, fun u hand marked runs unflagged late => ?_, fun reeve v resumes => ?_, fun v silent => ?_⟩
  · obtain ⟨marked, stopped⟩ := marked_ring (s.storeBellCtl v) (bellScope v.toNat).1 (bellScope v.toNat).2.1 (bellScope v.toNat).2.2 0
    have rung := rung_ring (s.storeBellCtl v) (bellScope v.toNat).1 (bellScope v.toNat).2.1 (bellScope v.toNat).2.2 0
    refine ⟨_, bellRing_rings v rings, (rung.reg _ (by decide)).trans (reg_storeBellCtl s v), ring_source _ _ _ _ _, marked, stopped, rung.mem,
      fun covered => cuts_ring_covered rfl covered, fun starts => ?_⟩
    rw [cuts_ring_starts (s := s.storeBellCtl v) rfl starts]
    refine ⟨List.mem_append_right _ (List.mem_singleton_self _), fun d m => ?_⟩
    rcases List.mem_append.1 m with old | new
    · exact .inr (List.mem_filter.1 old).1
    · exact .inl (List.mem_singleton.1 new)
  · refine ⟨s.storeBellCtl v, congrArg Host.Outcome.next (if_neg (by rw [silent]; decide)), rfl, reg_storeBellCtl s v, fun a n => reg_storeBellCtl_other s v n⟩
  · refine ⟨_, congrArg Host.Outcome.next (if_pos (by rw [cuts, unmarked, runs]; rfl)), rfl, rfl, rfl, fun h e _ => ?_⟩
    exact seqRuns_of_marked (List.mem_append_right _ (by rw [e]; exact List.mem_singleton_self _))
  · exact ⟨s, congrArg Host.Outcome.next (if_neg (by rw [free]; exact Bool.false_ne_true)), rfl⟩
  · exact ⟨_, unitStop_stops marked runs point, unitStop_keeps u.val⟩
  · refine ⟨s, congrArg Host.Outcome.next (if_neg ?_), rfl⟩
    rcases waits with e | e <;> simp [e]
  · obtain ⟨bell, job, mem, -, recov⟩ := same_timed s c
    refine ⟨(s.timed c).completed c, ?_, ?_, ?_, ?_, ?_, job, mem, fun a n => reg_timed s c n⟩
    · show Host.Outcome.next s.cutComplete.replayPairs = _
      rw [cutComplete_found found, finishCut_goes stays runs narrow, replayPairs_none]
      exact (congrArg Rec.pairs recov).trans pairs
    · exact congrArg (fun b => b.cuts.map fun x => if x = c then { x with complete := true } else x) bell
    · exact (congrArg Bell.stopped bell : (s.timed c).bell.stopped = s.bell.stopped)
    · exact (State.field_congr rfl 0 20).trans (field_timed s c)
    · exact fun late => (State.flag_congr rfl 29).trans (late_timed late)
  · obtain ⟨-, -, -, ctl, -⟩ := same_timed s c
    obtain ⟨run, scrub, wanted⟩ := endJob_stops (s := (s.timed c).completed c) (by
      rw [show ((s.timed c).completed c).ctl = s.ctl from ctl, release])
    refine ⟨s.cutComplete.replayPairs, rfl, ?_⟩
    rw [cutComplete_found found, finishCut_ends stays stops]
    dsimp only
    rw [job_replayPairs run]
    exact ⟨run, scrub, wanted⟩
  · refine ⟨s, ?_, rfl⟩
    show Host.Outcome.next s.cutComplete.replayPairs = _
    rw [cutComplete_waits still held, replayPairs_none pairs]
  · intro hs a b still held pair nodup run stopped
    refine ⟨s.cutComplete.replayPairs, rfl, ?_⟩
    rw [cutComplete_waits still held]
    exact replayPairs_one pair nodup run fun h m => (stopped h m).2
  · obtain ⟨run, scrub, wanted⟩ := endJob_stops release
    refine ⟨s.cutComplete.replayPairs, rfl, ?_⟩
    rw [cutComplete_ends still held]
    dsimp only
    rw [job_replayPairs run]
    exact ⟨run, scrub, wanted⟩
  · refine ⟨s.setBit Reg.bellStat 29, congrArg Host.Outcome.next (if_pos ?_), State.flag_setBit _ _ 29 (by decide), frame_setBit _ _ _ rfl, rfl, rfl, rfl⟩
    simpa using late
  · refine ⟨s, congrArg Host.Outcome.next (if_neg ?_), rfl⟩
    simp only [List.any_eq_true, Bool.and_eq_true, Bool.not_eq_true', decide_eq_true_eq, not_exists, not_and]
    intro c m going late
    rcases early c m with complete | soon
    · rw [going] at complete
      cases complete
    · omega
  · refine ⟨(s.setBit (Reg.seqStat u.val) 27).note (.stall u.val), congrArg Host.Outcome.next (if_pos ?_), ?_, ?_, rfl, ?_⟩
    · rw [marked, runs, unflagged, decide_eq_true hand, decide_eq_true late]
      rfl
    · exact State.flag_setBit _ _ 27 (by decide)
    · exact List.mem_append_right _ (List.mem_singleton_self _)
    · exact (frame_setBit (R := (· = Reg.seqStat u.val)) _ _ _ rfl).trans (frame_note _ _)
  · intro x r
    obtain ⟨u, acts, bell, mem⟩ := bellResume_resumes reeve v resumes
    obtain ⟨restarts, same⟩ := resumeScope_restarts u x.1 x.2.1 x.2.2
    refine ⟨_, acts, ?_⟩
    dsimp only
    rw [same, bell, restarts.mem, mem]
    refine ⟨fun c _ inside complete => resumedCuts_ended inside complete, fun c m inside going => resumedCuts_going m inside going,
      fun c m outside => resumedCuts_outside m outside, rfl, fun all wide => ?_⟩
    rw [resumedCuts_all all wide, freed_all]
    dsimp only
    refine ⟨rfl, ?_, fun x m stopped => ?_⟩
    · exact List.filter_eq_nil_iff.2 fun x m => by simpa using m
    · exact absurd m (by simpa using (List.mem_filter.1 stopped).2)
  · refine ⟨s.storeBellCtl v, congrArg Host.Outcome.next ?_, rfl⟩
    exact if_neg (Bool.eq_false_iff.1 silent)

end Sys2Proof
end

section
/-! PROOFS. Power losses, the governor, throttles, trips and release (R454 to R456, R481, R497, R510, R578, R582 to R586, R591 to R593). -/

namespace Sys2Proof

open Machine

variable {s t : State}

/-! ## Every rail off (R455, R592) -/

/-- A loss in progress: the Bell has rung, the constable has counted it. -/
def Machine.State.counted (s : State) : State :=
  let u := s.ring 0 0 0 6
  { u with sec := { u.sec with pwrLoss := if u.sec.pwrLoss = 0xFFFFFFFF then u.sec.pwrLoss else u.sec.pwrLoss + 1 } }

/-- What no rail holds up is gone; flash and the keys stay. -/
structure Dark (s t : State) : Prop where
  mem : t.mem = []
  ddr : t.ddr = []
  flash : t.flash = s.flash
  hands : t.hands = []
  cores : t.cores = []
  reg : ∀ a, t.reg a = Reg.reset a
  run : t.job.run = false
  cmdKey : t.sec.cmdKey = s.sec.cmdKey
  lastCtr : t.sec.lastCtr = s.sec.lastCtr

theorem dark_unpowered (s : State) : Dark s s.unpowered := ⟨rfl, rfl, rfl, rfl, rfl, fun _ => rfl, rfl, rfl, rfl⟩

theorem Dark.setCtl {c : Ctl} (d : Dark s t) : Dark s { t with ctl := c } := ⟨d.1, d.2, d.3, d.4, d.5, d.6, d.7, d.8, d.9⟩

theorem Dark.syncMode (d : Dark s t) : Dark s t.syncMode := by
  obtain ⟨c, e⟩ := syncMode_eq t
  rw [e]
  exact d.setCtl

theorem switch_syncMode (s : State) : s.syncMode.ctl.mainSwitch = s.ctl.mainSwitch ∧ s.syncMode.ctl.safe = s.ctl.safe ∧
    s.syncMode.ctl.en = s.ctl.en ∧ s.syncMode.ctl.step = s.ctl.step ∧ s.syncMode.ctl.latchOpen = s.ctl.latchOpen ∧
    s.syncMode.ctl.halted = s.ctl.halted ∧ s.syncMode.ctl.endAtBoundary = s.ctl.endAtBoundary := by
  unfold State.syncMode
  split_ifs <;> exact ⟨rfl, rfl, rfl, rfl, rfl, rfl, rfl⟩

/-- One more loss, up to the counter's end. -/
theorem pwrLoss_counted (s : State) : s.counted.sec.pwrLoss.toNat = min 0xFFFFFFFF (s.sec.pwrLoss.toNat + 1) := by
  have same : (s.ring 0 0 0 6).sec = s.sec := sec_ring s 0 0 0 6
  unfold State.counted
  dsimp only
  rw [same]
  generalize s.sec.pwrLoss = n
  split_ifs with top
  · subst top
    decide
  · have : n.toNat ≠ 0xFFFFFFFF := fun e => top (BitVec.eq_of_toNat_eq e)
    bv_omega

theorem powerLoss_eq (s : State) : s.powerLoss = s.counted.unpowered.syncMode := rfl

theorem ring_kept (s : State) : s.counted.flash = s.flash ∧ s.counted.sec.cmdKey = s.sec.cmdKey ∧ s.counted.sec.lastCtr = s.sec.lastCtr := by
  obtain ⟨-, -, r, b, c, e⟩ := rung_ring s 0 0 0 6
  unfold State.counted
  rw [e]
  exact ⟨rfl, rfl, rfl⟩

/-- A power loss: every rail is off, the constable has counted it. -/
theorem powerLoss_dark (s : State) : Dark s s.powerLoss ∧ s.powerLoss.sec.pwrLoss.toNat = min 0xFFFFFFFF (s.sec.pwrLoss.toNat + 1) ∧
    s.powerLoss.ctl.mainSwitch = false := by
  obtain ⟨flash, key, ctr⟩ := ring_kept s
  obtain ⟨switch, -⟩ := switch_syncMode s.counted.unpowered
  have d := (dark_unpowered s.counted).syncMode
  rw [powerLoss_eq]
  exact ⟨⟨d.mem, d.ddr, d.flash.trans flash, d.hands, d.cores, d.reg, d.run, d.cmdKey.trans key, d.lastCtr.trans ctr⟩,
    (congrArg (·.pwrLoss.toNat) (sec_syncMode s.counted.unpowered)).trans (pwrLoss_counted s), switch⟩

/-! ## Settings of the suits -/

/-- Settings of suits, one after another, each from its own. -/
theorem suits_foldl (f : Gov → Nat → Suit → Suit) (g : State → Nat → State) (each : ∀ s i, g s i = s.setSuit i (f s.gov i (s.suit i)))
    {l : List Nat} (nodup : l.Nodup) (s : State) :
    l.foldl g s = { s with suits := (l.foldl g s).suits } ∧
      ∀ j, (l.foldl g s).suit j = if j ∈ l then f s.gov j (s.suit j) else s.suit j := by
  induction l generalizing s with
  | nil => exact ⟨rfl, fun _ => rfl⟩
  | cons i l ih =>
    obtain ⟨apart, nodup⟩ := List.nodup_cons.1 nodup
    obtain ⟨only, suit⟩ := ih nodup (g s i)
    have gov : (g s i).gov = s.gov := by rw [each]; rfl
    rw [List.foldl_cons]
    refine ⟨?_, fun j => ?_⟩
    · rw [only, each]
      rfl
    · rw [suit j, gov, each, State.suit_setSuit]
      by_cases e : j = i
      · subst e
        simp [apart]
      · simp [e]

theorem suitsOn_nodup (s : State) : s.suitsOn.Nodup := List.Nodup.filter _ (by decide)

theorem mem_suitsOn {i : Nat} (lt : i < 4) : i ∈ s.suitsOn ↔ (s.suit i).powered = true := by
  unfold State.suitsOn suits4
  rw [List.mem_filter]
  refine and_iff_right ?_
  interval_cases i <;> decide

/-- The throttle threshold reached in a suit, or the last tick's (R582, R585). -/
def Machine.Suit.hot (x : Suit) (i : Nat) (hot : List Nat) : Bool := x.throttled || hot.contains i

/-- One suit's setting at a tick of the governor. -/
def tickOf (a : Nat) (hot near : List Nat) (g : Gov) (i : Nat) (x : Suit) : Suit :=
  { x.govern a g.pLimit g.fMax (x.hot i hot) (near.contains i || x.hot i hot) with throttled := hot.contains i }

section
variable {x : Suit} {a i p f : Nat} {hot near : Bool}

theorem govern_floor (x : Suit) (a p f : Nat) (hot near : Bool) :
    (x.govern a p f hot near).floorTicks = if (x.govern a p f hot near).clock ≤ 600 then x.floorTicks + 1 else 0 := rfl

theorem govern_lowers (high : p < a ∨ hot = true) :
    (x.govern a p f hot near).clock = max (x.clock - 25) 600 ∧ (x.govern a p f hot near).cap = x.cap := by
  unfold Suit.govern
  rw [if_pos high]
  exact ⟨rfl, rfl⟩

theorem govern_raisesCap (low : a ≤ p) (cool : hot = false) (capped : x.cap < 8) :
    (x.govern a p f hot near).cap = x.cap + 1 ∧ (x.govern a p f hot near).clock = x.clock := by
  have calm : ¬ (p < a ∨ hot = true) := by rw [cool]; simpa using low
  unfold Suit.govern
  rw [if_neg calm, if_pos capped]
  exact ⟨rfl, rfl⟩

theorem govern_raisesClock (low : a ≤ p) (cool : hot = false) (uncapped : 8 ≤ x.cap) (room : a + 20 < p) (far : near = false) :
    (x.govern a p f hot near).clock = min (x.clock + 25) f ∧ (x.govern a p f hot near).cap = x.cap := by
  have calm : ¬ (p < a ∨ hot = true) := by rw [cool]; simpa using low
  unfold Suit.govern
  rw [if_neg calm, if_neg (Nat.not_lt.2 uncapped), if_pos ⟨room, by rw [far]; rfl⟩]
  exact ⟨rfl, rfl⟩

theorem govern_keeps (low : a ≤ p) (cool : hot = false) (uncapped : 8 ≤ x.cap) (tight : p ≤ a + 20 ∨ near = true) :
    (x.govern a p f hot near).clock = x.clock ∧ (x.govern a p f hot near).cap = x.cap := by
  have calm : ¬ (p < a ∨ hot = true) := by rw [cool]; simpa using low
  have still : ¬ (a + 20 < p ∧ (!near) = true) := by
    rintro ⟨room, far⟩
    rcases tight with tight | tight
    · omega
    · rw [tight] at far
      cases far
  unfold Suit.govern
  rw [if_neg calm, if_neg (Nat.not_lt.2 uncapped), if_neg still]
  exact ⟨rfl, rfl⟩
end

/-- The governor's rules for one suit at a tick. -/
theorem tickOf_governs (a : Nat) (hot near : List Nat) (g : Gov) (i : Nat) (x : Suit) :
    let y := tickOf a hot near g i x
    let isHot := x.throttled = true ∨ i ∈ hot
    (g.pLimit < a ∨ isHot → y.clock = max (x.clock - 25) 600 ∧ y.cap = x.cap) ∧
    (a ≤ g.pLimit → ¬ isHot → x.cap < 8 → y.cap = x.cap + 1 ∧ y.clock = x.clock) ∧
    (a ≤ g.pLimit → ¬ isHot → 8 ≤ x.cap → a + 20 < g.pLimit → i ∉ near → y.clock = min (x.clock + 25) g.fMax ∧ y.cap = x.cap) ∧
    (a ≤ g.pLimit → ¬ isHot → 8 ≤ x.cap → (g.pLimit ≤ a + 20 ∨ i ∈ near) → y.clock = x.clock ∧ y.cap = x.cap) ∧
    y.floorTicks = (if y.clock ≤ 600 then x.floorTicks + 1 else 0) ∧ y.throttled = decide (i ∈ hot) := by
  intro y isHot
  have hotIff : x.hot i hot = true ↔ isHot := by
    unfold Suit.hot
    rw [Bool.or_eq_true, List.contains_iff_mem]
  have cool : ¬ isHot → x.hot i hot = false := fun no => Bool.eq_false_iff.2 fun e => no (hotIff.1 e)
  refine ⟨fun high => govern_lowers (high.imp_right hotIff.2), fun low no capped => govern_raisesCap low (cool no) capped,
    fun low no up room far => govern_raisesClock low (cool no) up room ?_, fun low no up tight => govern_keeps low (cool no) up ?_, rfl, ?_⟩
  · rw [cool no, Bool.or_false]
    simpa using far
  · rw [cool no, Bool.or_false]
    exact tight.imp_right fun m => List.contains_iff_mem.2 m
  · exact (List.contains_eq_mem i hot)

/-! ## A trip (R586) -/

/-- The rails of all suits go off. -/
def Machine.State.allDark (s : State) : State := suits4.foldl (fun (s : State) j => s.darken j) s

/-- A PCIe link that was up has gone down. -/
def Machine.State.pcieDrop (s : State) (n : Nat) : State :=
  if s.flag (Reg.pcieLink n) 31 then ((s.clearBit (Reg.pcieLink n) 31).setField (Reg.pcieLink n) 24 4 0).setField (Reg.pcieLink n) 20 4 15 else s

/-- All four links have. -/
def Machine.State.pcieDown (s : State) : State := [0, 1, 2, 3].foldl (fun (s : State) n => s.pcieDrop n) s

/-- The job's status where a deal ran. -/
def Machine.State.tripStops (s : State) : State := if s.job.run then s.setBit Reg.jobStat 28 else s

/-- The module halts. -/
def Machine.State.tripHalts (s : State) : State :=
  (({ s with job := { ckptSlots := s.job.ckptSlots, ckptNext := s.job.ckptNext }, colls := [], net := [], served := [], inbox := []
             recov := { s.recov with busy := none, aware := [] }
             ctl := { s.ctl with halted := true } } : State).setBit Reg.pwrEvent 31).syncMode

theorem trip_trips {kind : Fin 2} {i : SuitIx} (on : s.ctl.mainSwitch = true) (runs : s.ctl.halted = false)
    (powered : kind = 1 → (s.suit i.val).powered = true) : exec (.trip kind i) s = .next s.counted.allDark.pcieDown.tripStops.tripHalts := by
  refine congrArg Host.Outcome.next (if_neg ?_)
  rintro (off | halted | ⟨one, off⟩)
  · rw [on] at off
    cases off
  · rw [runs] at halted
    cases halted
  · rw [powered one] at off
    cases off

theorem clearRange_apart {m : Memory} {lo hi k : Nat} {v : BitVec 8} (e : (k, v) ∈ Memory.clearRange m lo hi) : k < lo ∨ hi ≤ k := by
  simpa using (List.mem_filter.1 e).2

/-- Where no address below a bound is listed, the bytes below it are 0. -/
theorem byte_of_above {m : Memory} {top b : Nat} (above : ∀ c ∈ m, top ≤ c.1) (below : b < top) : Memory.byte m b = 0 := by
  cases m with
  | nil => rfl
  | cons c m =>
    obtain ⟨k, v⟩ := c
    have := above (k, v) (List.mem_cons_self ..)
    unfold Memory.byte
    rw [if_neg (by omega), if_pos (by omega)]

theorem mem_allDark (s : State) : s.allDark.mem =
    Memory.clearRange (Memory.clearRange (Memory.clearRange (Memory.clearRange s.mem (0 * 2 ^ 38) ((0 + 1) * 2 ^ 38)) (1 * 2 ^ 38) ((1 + 1) * 2 ^ 38))
      (2 * 2 ^ 38) ((2 + 1) * 2 ^ 38)) (3 * 2 ^ 38) ((3 + 1) * 2 ^ 38) := rfl

theorem byte_allDark (s : State) {b : Nat} (lt : b < 2 ^ 40) : Memory.byte s.allDark.mem b = 0 := by
  rw [mem_allDark]
  refine byte_of_above (top := 2 ^ 40) (fun ⟨k, v⟩ e => ?_) lt
  have three := clearRange_apart e
  have e := (List.mem_filter.1 e).1
  have two := clearRange_apart e
  have e := (List.mem_filter.1 e).1
  have one := clearRange_apart e
  have zero := clearRange_apart (List.mem_filter.1 e).1
  dsimp only
  omega

/-- What the rails of the suits leave: DDR5, flash, the constable, the pins and whether a deal runs. -/
structure Rails (s t : State) : Prop where
  ddr : t.ddr = s.ddr
  flash : t.flash = s.flash
  sec : t.sec = s.sec
  ctl : t.ctl = s.ctl
  run : t.job.run = s.job.run

theorem Rails.trans {u : State} (a : Rails s t) (b : Rails t u) : Rails s u :=
  ⟨b.ddr.trans a.ddr, b.flash.trans a.flash, b.sec.trans a.sec, b.ctl.trans a.ctl, b.run.trans a.run⟩

theorem rails_allDark (s : State) : Rails s s.allDark := ⟨rfl, rfl, rfl, rfl, rfl⟩

theorem suit_darken (s : State) (i j : Nat) : (s.darken i).suit j = if j = i then {} else s.suit j := PMap.get_put _ _ _ _ _

theorem suit_allDark {j : Nat} (lt : j < 4) : (s.allDark.suit j).powered = false := by
  unfold State.allDark suits4
  simp only [List.foldl_cons, List.foldl_nil, suit_darken]
  interval_cases j <;> rfl

/-- Writes of registers leave the rest. -/
def RegsOnly (s t : State) : Prop := t = { s with regs := t.regs }

theorem RegsOnly.rails (o : RegsOnly s t) : Rails s t := by
  rw [show t = _ from o]
  exact ⟨rfl, rfl, rfl, rfl, rfl⟩

theorem RegsOnly.mem (o : RegsOnly s t) : t.mem = s.mem := by rw [show t = _ from o]
theorem RegsOnly.suit (o : RegsOnly s t) (j : Nat) : t.suit j = s.suit j := by
  rw [show t = _ from o]
  rfl
theorem RegsOnly.trans {u : State} (a : RegsOnly s t) (b : RegsOnly t u) : RegsOnly s u := by
  unfold RegsOnly at a b ⊢
  rw [b, a]

theorem regsOnly_pcieDrop (s : State) (n : Nat) : RegsOnly s (s.pcieDrop n) := by
  unfold State.pcieDrop
  split_ifs <;> exact rfl

theorem regsOnly_pcieDown (s : State) : RegsOnly s s.pcieDown :=
  (((regsOnly_pcieDrop s 0).trans (regsOnly_pcieDrop _ 1)).trans (regsOnly_pcieDrop _ 2)).trans (regsOnly_pcieDrop _ 3)

theorem regsOnly_tripStops (s : State) : RegsOnly s s.tripStops := by
  unfold State.tripStops
  split_ifs <;> exact rfl

theorem flag_pcieDrop (s : State) (n : Nat) : (s.pcieDrop n).flag (Reg.pcieLink n) 31 = false := by
  unfold State.pcieDrop
  split_ifs with up
  · rw [State.flag_setField_other _ _ 20 4 _ (by decide) (.inr (by decide)), State.flag_setField_other _ _ 24 4 _ (by decide) (.inr (by decide))]
    exact State.flag_clearBit _ _ 31 (by decide)
  · exact Bool.eq_false_iff.2 up

theorem flag_pcieDrop_other (s : State) {n : Nat} {a : Nat} (apart : a ≠ Reg.pcieLink n) : (s.pcieDrop n).flag a 31 = s.flag a 31 := by
  unfold State.pcieDrop
  split_ifs
  · refine State.flag_congr ?_ 31
    rw [State.reg_setField_other _ _ _ _ _ _ apart, State.reg_setField_other _ _ _ _ _ _ apart]
    exact State.reg_setField_other _ _ _ _ _ _ apart
  · rfl

theorem pcieLink_apart {m n : Nat} (d : m ≠ n) : Reg.pcieLink m ≠ Reg.pcieLink n := by
  unfold Reg.pcieLink
  omega

theorem flag_pcieDown {n : Nat} (lt : n < 4) (s : State) : s.pcieDown.flag (Reg.pcieLink n) 31 = false := by
  have down : s.pcieDown = (((s.pcieDrop 0).pcieDrop 1).pcieDrop 2).pcieDrop 3 := rfl
  rw [down]
  by_cases three : n = 3
  · rw [three]
    exact flag_pcieDrop _ 3
  rw [flag_pcieDrop_other _ (pcieLink_apart three)]
  by_cases two : n = 2
  · rw [two]
    exact flag_pcieDrop _ 2
  rw [flag_pcieDrop_other _ (pcieLink_apart two)]
  by_cases one : n = 1
  · rw [one]
    exact flag_pcieDrop _ 1
  rw [flag_pcieDrop_other _ (pcieLink_apart one), show n = 0 by omega]
  exact flag_pcieDrop s 0

theorem reg_tripStops (s : State) (n : a ≠ Reg.jobStat) : s.tripStops.reg a = s.reg a := by
  unfold State.tripStops
  split_ifs
  · exact State.reg_setField_other _ _ _ _ _ _ n
  · rfl

theorem flag_tripStops (run : s.job.run = true) : s.tripStops.flag Reg.jobStat 28 = true := by
  unfold State.tripStops
  rw [if_pos run]
  exact State.flag_setBit _ _ 28 (by decide)

theorem reg_syncMode (s : State) (a : Nat) : s.syncMode.reg a = s.reg a := by
  obtain ⟨c, e⟩ := syncMode_eq s
  rw [e]
  rfl

theorem reg_tripHalts (s : State) (n : a ≠ Reg.pwrEvent) : s.tripHalts.reg a = s.reg a :=
  (reg_syncMode _ a).trans (State.reg_setField_other _ _ _ _ _ _ n)

theorem flag_tripHalts (s : State) : s.tripHalts.flag Reg.pwrEvent 31 = true :=
  (State.flag_congr (reg_syncMode _ _) 31).trans (State.flag_setBit _ _ 31 (by decide))

/-- What a halted module keeps of its memories and of the constable. -/
theorem tripHalts_keeps (s : State) : s.tripHalts.ctl.halted = true ∧ s.tripHalts.ctl.mainSwitch = s.ctl.mainSwitch ∧
    s.tripHalts.mem = s.mem ∧ s.tripHalts.ddr = s.ddr ∧ s.tripHalts.flash = s.flash ∧ s.tripHalts.job.run = false ∧ s.tripHalts.sec = s.sec ∧
    ∀ j, s.tripHalts.suit j = s.suit j := by
  unfold State.tripHalts
  generalize e : (State.setBit _ _ _ : State) = u
  obtain ⟨switch, -, -, -, -, halted, -⟩ := switch_syncMode u
  obtain ⟨c, same⟩ := syncMode_eq u
  rw [switch, halted, same]
  subst e
  exact ⟨rfl, rfl, rfl, rfl, rfl, rfl, rfl, fun _ => rfl⟩

theorem counted_keeps (s : State) : s.counted.ddr = s.ddr ∧ s.counted.ctl.mainSwitch = s.ctl.mainSwitch ∧ s.counted.job = s.job := by
  unfold State.counted State.ring
  dsimp only
  split_ifs
  · exact ⟨rfl, rfl, rfl⟩
  · obtain ⟨c, e⟩ := syncMode_eq ({ (s.setField Reg.bellStat 25 4 6).setBit Reg.bellStat 30 with bell := { s.bell with
      cuts := (s.bell.cuts.filter fun d => d.complete || !(Cut.covers { scope := 0, suit := 0, hand := 0, source := 6, t0 := s.time } d)) ++
        [{ scope := 0, suit := 0, hand := 0, source := 6, t0 := s.time }] } } : State)
    refine ⟨by rw [e]; rfl, (switch_syncMode _).1, by rw [e]; rfl⟩

/-! ## A release (R591, R592) -/

/-- The panel's flags of a request. -/
def Machine.State.panel (s : State) (byLatch : Bool) : State := (s.setBit Reg.pwrPanel 31).setField Reg.pwrPanel 30 1 (b2n byLatch)

/-- The release waits, since a time. -/
def Machine.State.awaits (s : State) (since : Nat) : State := { s with ctl := { s.ctl with releaseReq := some since } }

theorem reg_awaits (s : State) (since a : Nat) : (s.awaits since).reg a = s.reg a := rfl

/-- The request stands on the panel, with who asked. -/
def Machine.State.asked (s : State) (byLatch : Bool) : State :=
  (({ s with ctl := { s.ctl with latchOpen := s.ctl.latchOpen || byLatch } } : State).panel byLatch).awaits s.clock

theorem flag_panel (s : State) (byLatch : Bool) : (s.panel byLatch).flag Reg.pwrPanel 31 = true := by
  unfold State.panel
  rw [State.flag_setField_other _ _ 30 1 _ (by decide) (.inr (by decide)), State.flag_setBit _ _ 31 (by decide)]

theorem latch_panel (s : State) (byLatch : Bool) : (s.panel byLatch).flag Reg.pwrPanel 30 = byLatch := by
  unfold State.flag State.panel
  rw [State.field_setField _ _ 30 1 _ (by decide)]
  cases byLatch <;> rfl

theorem reg_panel (s : State) (byLatch : Bool) (n : a ≠ Reg.pwrPanel) : (s.panel byLatch).reg a = s.reg a :=
  (State.reg_setField_other _ _ _ _ _ _ n).trans (State.reg_setField_other _ _ _ _ _ _ n)

theorem reg_asked (s : State) (byLatch : Bool) (a : Nat) : (s.asked byLatch).reg a =
    (({ s with ctl := { s.ctl with latchOpen := s.ctl.latchOpen || byLatch } } : State).panel byLatch).reg a :=
  reg_awaits _ _ a

theorem release_ignored (byLatch : Bool) (off : s.ctl.mainSwitch = false ∨ s.ctl.releaseReq.isSome = true) :
    exec (.releaseRequest byLatch) s = .next { s with ctl := { s.ctl with latchOpen := s.ctl.latchOpen || byLatch } } :=
  congrArg Host.Outcome.next (if_pos (off.imp_left fun e => by rw [e]; rfl))

theorem release_taken (byLatch : Bool) (on : s.ctl.mainSwitch = true) (first : s.ctl.releaseReq = none) :
    exec (.releaseRequest byLatch) s = .next (
      if s.job.run then State.syncMode { s.asked byLatch with job := { s.job with ckptArmed := true } }
      else if s.starting then State.syncMode { s.asked byLatch with ctl := { (s.asked byLatch).ctl with endAtBoundary := true } }
      else (s.asked byLatch).safeOff) := by
  refine congrArg Host.Outcome.next (if_neg ?_)
  rw [on, first]
  decide

theorem panel_asked (s : State) (byLatch : Bool) : (s.asked byLatch).flag Reg.pwrPanel 31 = true ∧
    (s.asked byLatch).flag Reg.pwrPanel 30 = byLatch ∧ ∀ a, a ≠ Reg.pwrPanel → (s.asked byLatch).reg a = s.reg a :=
  ⟨(State.flag_congr (reg_asked s byLatch _) 31).trans (flag_panel _ byLatch), (State.flag_congr (reg_asked s byLatch _) 30).trans (latch_panel _ byLatch),
    fun a n => (reg_asked s byLatch a).trans (reg_panel _ byLatch n)⟩

theorem safeOff_dark (s : State) : Dark s s.safeOff ∧ s.safeOff.ctl.safe = true ∧ s.safeOff.ctl.mainSwitch = false ∧
    s.safeOff.sec.pwrLoss = s.sec.pwrLoss := by
  have d := (dark_unpowered s).setCtl (c := { s.unpowered.ctl with safe := true })
  obtain ⟨switch, safe, -⟩ := switch_syncMode { s.unpowered with ctl := { s.unpowered.ctl with safe := true } }
  refine ⟨d.syncMode, safe, switch, ?_⟩
  unfold State.safeOff
  rw [sec_syncMode]
  rfl

theorem restart_starts (s : State) : Dark s s.restart ∧ s.restart.ctl.safe = false ∧ s.restart.ctl.step = 1 ∧ s.restart.ctl.mainSwitch = true ∧
    s.restart.ctl.latchOpen = s.ctl.latchOpen := by
  have d := (dark_unpowered s).setCtl (c := { s.unpowered.ctl with mainSwitch := true, step := 1 })
  obtain ⟨switch, safe, -, step, latch, -⟩ := switch_syncMode { s.unpowered with ctl := { s.unpowered.ctl with mainSwitch := true, step := 1 } }
  exact ⟨d.syncMode, safe, step, switch, latch⟩

/-! ## The governor's fast path (R582) -/

/-- A duty cap one step lower. -/
def capDown (_ : Gov) (_ : Nat) (x : Suit) : Suit := { x with cap := x.cap - 1 }

/-- A suit that the governor's next tick slows. -/
def slowed (_ : Gov) (_ : Nat) (x : Suit) : Suit := { x with throttled := true }

/-- Suits whose duty cap can fall. -/
def Machine.State.lowerable (s : State) : List Nat := s.suitsOn.filter fun i => decide (4 < (s.suit i).cap)

theorem governs_iff (s : State) : s.governs = true ↔ s.ctl.halted = false ∧ s.suitsUp ≠ [] := by
  unfold State.governs
  simp

theorem governorFast_waits (p : Nat) (waits : ¬ (s.ctl.halted = false ∧ s.suitsUp ≠ []) ∨ p ≤ s.gov.pLimit + 50) :
    exec (.governorFast p) s = .next s := by
  refine congrArg Host.Outcome.next (if_pos ?_)
  refine waits.imp_left fun no => ?_
  rw [Bool.eq_false_iff.2 fun e => no ((governs_iff s).1 e)]
  rfl

theorem governorFast_lowers {p : Nat} (governs : s.ctl.halted = false ∧ s.suitsUp ≠ []) (high : s.gov.pLimit + 50 < p) :
    exec (.governorFast p) s = .next (
      let t := s.lowerable.foldl (fun (s : State) i => s.setSuit i (capDown s.gov i (s.suit i))) s
      if s.lowerable.isEmpty then t else t.setBit Reg.pwrEvent 26) := by
  refine congrArg Host.Outcome.next (if_neg ?_)
  rw [(governs_iff s).2 governs]
  simp only [Bool.not_true, Bool.false_eq_true, false_or]
  omega

theorem mem_lowerable {i : Nat} (lt : i < 4) : i ∈ s.lowerable ↔ (s.suit i).powered = true ∧ 4 < (s.suit i).cap := by
  unfold State.lowerable
  rw [List.mem_filter, mem_suitsOn lt, decide_eq_true_iff]

theorem lt_of_lowerable {i : Nat} (m : i ∈ s.lowerable) : i < 4 := by
  have four : i ∈ suits4 := (List.mem_filter.1 (List.mem_filter.1 m).1).1
  simp only [suits4, List.mem_cons, List.not_mem_nil, or_false] at four
  omega

/-- The caps of the suits that can fall have, and PWR.EVENT tells of it. -/
theorem lowered_keeps {u : State} (only : u = { s with suits := u.suits })
    (suit : ∀ j, u.suit j = if j ∈ s.lowerable then capDown s.gov j (s.suit j) else s.suit j) :
    let t := if s.lowerable.isEmpty then u else u.setBit Reg.pwrEvent 26
    (∀ i < 4, t.suit i = if (s.suit i).powered = true ∧ 4 < (s.suit i).cap then { s.suit i with cap := (s.suit i).cap - 1 } else s.suit i) ∧
    ((∃ i < 4, (s.suit i).powered = true ∧ 4 < (s.suit i).cap) → t.flag Reg.pwrEvent 26 = true) ∧
    (∀ a, a ≠ Reg.pwrEvent → t.reg a = s.reg a) ∧ t = { s with regs := t.regs, suits := t.suits } := by
  have regs : ∀ a, u.reg a = s.reg a := fun a => by rw [only]; rfl
  have suits : ∀ i < 4, u.suit i = if (s.suit i).powered = true ∧ 4 < (s.suit i).cap then { s.suit i with cap := (s.suit i).cap - 1 } else s.suit i :=
    fun i lt => by
      rw [suit i]
      simp only [mem_lowerable lt]
      rfl
  intro t
  cases e : s.lowerable.isEmpty with
  | true =>
    have same : t = u := if_pos e
    rw [same]
    refine ⟨suits, fun ⟨i, lt, low⟩ => ?_, fun a _ => regs a, by rw [only]⟩
    have none : i ∉ s.lowerable := by simp [List.isEmpty_iff.1 e]
    exact absurd ((mem_lowerable lt).2 low) none
  | false =>
    have same : t = u.setBit Reg.pwrEvent 26 := if_neg (Bool.eq_false_iff.1 e)
    rw [same]
    refine ⟨suits, fun _ => State.flag_setBit _ _ 26 (by decide), fun a n => (State.reg_setField_other _ _ _ _ _ _ n).trans (regs a), ?_⟩
    rw [only]
    rfl

theorem enLow_loses (on : s.ctl.mainSwitch = true) : exec (.enLow false) s = .next
    (State.syncMode { s.powerLoss with ctl := { s.powerLoss.ctl with en := false, safe := false } }) := by
  have same : (if s.ctl.mainSwitch then s.powerLoss else s) = s.powerLoss := if_pos on
  show Host.Outcome.next (State.syncMode { (if s.ctl.mainSwitch then s.powerLoss else s) with
    ctl := { (if s.ctl.mainSwitch then s.powerLoss else s).ctl with en := false, safe := false } }) = _
  rw [same]

theorem enLow_off (down : s.ctl.mainSwitch = false) : exec (.enLow false) s = .next
    (State.syncMode { s with ctl := { s.ctl with en := false, safe := false } }) := by
  have same : (if s.ctl.mainSwitch then s.powerLoss else s) = s := if_neg (Bool.eq_false_iff.1 down)
  show Host.Outcome.next (State.syncMode { (if s.ctl.mainSwitch then s.powerLoss else s) with
    ctl := { (if s.ctl.mainSwitch then s.powerLoss else s).ctl with en := false, safe := false } }) = _
  rw [same]

theorem governorTick_sets {a : Nat} {hot near : List Nat} (governs : s.ctl.halted = false ∧ s.suitsUp ≠ []) :
    exec (.governorTick a hot near) s =
      .next (s.suitsOn.foldl (fun (s : State) i => s.setSuit i (tickOf a hot near s.gov i (s.suit i))) s) := by
  refine congrArg Host.Outcome.next (if_neg ?_)
  rw [(governs_iff s).2 governs]
  decide

/-- The suits that a throttle of a kind slows. -/
def Machine.State.throttledBy (s : State) (kind : Fin 4) (i : Nat) : List Nat := if 2 ≤ kind.val then s.suitsOn else s.suitsOn.filter (· == i)

theorem throttled_nodup (s : State) (kind : Fin 4) (i : Nat) : (s.throttledBy kind i).Nodup := by
  unfold State.throttledBy
  split_ifs
  · exact suitsOn_nodup s
  · exact (suitsOn_nodup s).filter _

theorem mem_throttledBy {kind : Fin 4} {i j : Nat} (lt : j < 4) :
    j ∈ s.throttledBy kind i ↔ (s.suit j).powered = true ∧ (2 ≤ kind.val ∨ j = i) := by
  unfold State.throttledBy
  split_ifs with wide
  · simp [mem_suitsOn lt, wide]
  · simp [List.mem_filter, mem_suitsOn lt, wide]

theorem slowed_iff (g : Gov) (j i : Nat) (wide : Prop) [Decidable wide] (x : Suit) :
    (if x.powered = true ∧ (wide ∨ j = i) then slowed g j x else x) =
      { x with throttled := x.throttled || (x.powered && (decide wide || j == i)) } := by
  have same : (x.powered && (decide wide || j == i)) = decide (x.powered = true ∧ (wide ∨ j = i)) := by
    rw [Bool.eq_iff_iff]
    simp
  rw [same]
  split_ifs with e
  · rw [decide_eq_true e, Bool.or_true]
    rfl
  · rw [decide_eq_false e, Bool.or_false]

theorem throttle_sets {kind : Fin 4} {i : SuitIx} (on : s.ctl.mainSwitch = true) : exec (.throttle kind i) s = .next
    (((s.throttledBy kind i.val).foldl (fun (s : State) j => s.setSuit j (slowed s.gov j (s.suit j))) s).setBit Reg.pwrEvent
      (if kind.val = 2 then 29 else 30)) := by
  refine congrArg Host.Outcome.next (if_neg ?_)
  rw [on]
  decide

/-- Settles O55. -/
theorem powerAndRelease : Obligations.PowerAndRelease := by
  unfold Obligations.PowerAndRelease
  intro s lost governs
  obtain ⟨dark, count, off⟩ := powerLoss_dark s
  have all : ∀ t, Dark s t → t.ctl.mainSwitch = false → t.sec.pwrLoss.toNat = min 0xFFFFFFFF (s.sec.pwrLoss.toNat + 1) → lost t :=
    fun t d off count => ⟨off, d.mem, d.ddr, d.flash, d.hands, d.cores, d.reg, d.run, d.cmdKey, d.lastCtr, count⟩
  have loses := all _ dark off count
  refine ⟨fun on => ⟨⟨_, congrArg Host.Outcome.next (if_pos on), loses⟩, ⟨_, congrArg Host.Outcome.next (if_pos on), loses, rfl⟩, ?_, ?_⟩,
    fun down => ⟨?_, ?_, ?_, ?_⟩, ⟨_, rfl, rfl⟩, fun p => ⟨fun waits => ⟨s, governorFast_waits p waits, rfl⟩, fun runs high => ?_⟩,
    fun a hot near => ⟨fun no => ?_, fun runs => ?_⟩, fun i => ⟨fun long => ?_, fun short => ?_, fun kind => ⟨fun down => ?_, fun on => ?_⟩,
      fun kind => ⟨fun no => ?_, fun yes => ?_⟩⟩, fun byLatch => ⟨fun no => ⟨_, release_ignored byLatch no, rfl⟩, fun on first => ?_⟩, ?_, ?_⟩
  · obtain ⟨switch, -, en, -⟩ := switch_syncMode { s.powerLoss with ctl := { s.powerLoss.ctl with en := false, safe := false } }
    refine ⟨_, enLow_loses on, all _ (dark.setCtl.syncMode) (switch.trans off) ?_, en⟩
    rw [sec_syncMode]
    exact count
  · exact ⟨_, congrArg Host.Outcome.next (if_pos on), State.flag_setBit _ _ 27 (by decide), frame_setBit _ _ _ rfl, rfl, rfl, rfl⟩
  · exact ⟨s, congrArg Host.Outcome.next (if_neg (by rw [down]; decide)), rfl⟩
  · exact ⟨s, congrArg Host.Outcome.next (if_neg (by rw [down]; decide)), rfl⟩
  · exact ⟨s, congrArg Host.Outcome.next (if_neg (by rw [down]; decide)), rfl⟩
  · obtain ⟨switch, safe, en, -⟩ := switch_syncMode { s with ctl := { s.ctl with en := false, safe := false } }
    obtain ⟨c, e⟩ := syncMode_eq { s with ctl := { s.ctl with en := false, safe := false } }
    refine ⟨_, enLow_off down, en, safe, ?_⟩
    rw [e]
  · obtain ⟨only, suit⟩ := suits_foldl capDown (fun (s : State) i => s.setSuit i (capDown s.gov i (s.suit i))) (fun _ _ => rfl)
      (List.Nodup.filter (fun i => decide (4 < (s.suit i).cap)) (suitsOn_nodup s)) s
    refine ⟨_, governorFast_lowers runs high, ?_⟩
    exact lowered_keeps only suit
  · refine ⟨s, congrArg Host.Outcome.next (if_pos ?_), rfl⟩
    rw [Bool.eq_false_iff.2 fun e => no ((governs_iff s).1 e)]
    rfl
  · obtain ⟨only, suit⟩ := suits_foldl (tickOf a hot near) (fun (s : State) i => s.setSuit i (tickOf a hot near s.gov i (s.suit i))) (fun _ _ => rfl)
      (suitsOn_nodup s) s
    refine ⟨_, governorTick_sets runs, only, fun i lt => ?_⟩
    extract_lets x y isHot
    have set : y = if i ∈ s.suitsOn then tickOf a hot near s.gov i x else x := suit i
    simp only [mem_suitsOn lt] at set
    refine ⟨fun dark => ?_, fun powered => ?_⟩
    · rw [set, if_neg (Bool.eq_false_iff.1 dark)]
    · rw [set, if_pos powered]
      exact tickOf_governs a hot near s.gov i x
  · exact ⟨_, congrArg Host.Outcome.next (if_pos long), State.flag_setBit _ _ 28 (by decide), frame_setBit _ _ _ rfl, rfl, rfl, rfl⟩
  · exact ⟨s, congrArg Host.Outcome.next (if_neg (Nat.not_le.2 short)), rfl⟩
  · exact ⟨s, congrArg Host.Outcome.next (if_pos (by rw [down]; rfl)), rfl⟩
  · obtain ⟨only, suit⟩ := suits_foldl slowed (fun (s : State) i => s.setSuit i (slowed s.gov i (s.suit i))) (fun _ _ => rfl)
      (throttled_nodup s kind i.val) s
    refine ⟨_, throttle_sets on, State.flag_setBit _ _ _ (by split_ifs <;> decide), fun j lt => ?_, fun a n => ?_, ?_⟩
    · refine (suit j).trans ?_
      simp only [mem_throttledBy lt]
      exact slowed_iff s.gov j i.val (2 ≤ kind.val) (s.suit j)
    · refine (State.reg_setField_other _ _ _ _ _ _ n).trans ?_
      rw [only]
      rfl
    · rw [only]
      rfl
  · refine ⟨s, congrArg Host.Outcome.next (if_pos ?_), rfl⟩
    by_contra yes
    obtain ⟨on, rest⟩ := not_or.1 yes
    obtain ⟨runs, powered⟩ := not_or.1 rest
    refine no ⟨by simpa using on, by simpa using runs, fun one => ?_⟩
    by_contra dark
    exact powered ⟨one, by simpa using dark⟩
  · obtain ⟨on, runs, powered⟩ := yes
    obtain ⟨ddr, switch, job⟩ := counted_keeps s
    obtain ⟨flash, key, -⟩ := ring_kept s
    have rails := (rails_allDark s.counted).trans ((regsOnly_pcieDown _).rails.trans (regsOnly_tripStops _).rails)
    have only := (regsOnly_pcieDown s.counted.allDark).trans (regsOnly_tripStops _)
    obtain ⟨halted, same, mem, ddr', flash', run, sec, suit⟩ := tripHalts_keeps s.counted.allDark.pcieDown.tripStops
    refine ⟨_, trip_trips on runs powered, halted, ?_, flag_tripHalts _, fun j lt => ?_, fun b lt => ?_, ddr'.trans (rails.ddr.trans ddr),
      flash'.trans (rails.flash.trans flash), run, fun ran => ?_, fun n lt => ?_, ?_, ?_⟩
    · rw [same, rails.ctl, switch, on]
    · rw [suit, only.suit]
      exact suit_allDark lt
    · rw [mem, only.mem]
      exact byte_allDark _ lt
    · refine (State.flag_congr (reg_tripHalts _ (by decide)) 28).trans (flag_tripStops ?_)
      rw [(regsOnly_pcieDown _).rails.run, (rails_allDark _).run, job, ran]
    · refine (State.flag_congr (reg_tripHalts _ (by unfold Reg.pcieLink Reg.pwrEvent; omega)) 31).trans ?_
      refine (State.flag_congr (reg_tripStops _ (by unfold Reg.pcieLink Reg.jobStat; omega)) 31).trans (flag_pcieDown lt _)
    · rw [sec, rails.sec, key]
    · rw [sec, rails.sec]
      exact pwrLoss_counted s
  · have acts := release_taken byLatch on first
    obtain ⟨flag, latch, reg⟩ := panel_asked s byLatch
    refine ⟨fun run => ?_, fun idle starting => ?_, fun idle done => ?_⟩
    · rw [if_pos run] at acts
      obtain ⟨c, e⟩ := syncMode_eq { s.asked byLatch with job := { s.job with ckptArmed := true } }
      have kept := releaseReq_syncMode { s.asked byLatch with job := { s.job with ckptArmed := true } }
      refine ⟨_, acts, kept, ?_⟩
      rw [e]
      exact ⟨rfl, run, flag, latch, rfl, rfl, reg⟩
    · rw [if_neg (Bool.eq_false_iff.1 idle), if_pos starting] at acts
      have kept := releaseReq_syncMode { s.asked byLatch with ctl := { (s.asked byLatch).ctl with endAtBoundary := true } }
      obtain ⟨switch, -, -, -, -, -, boundary⟩ :=
        switch_syncMode { s.asked byLatch with ctl := { (s.asked byLatch).ctl with endAtBoundary := true } }
      obtain ⟨c, e⟩ := syncMode_eq { s.asked byLatch with ctl := { (s.asked byLatch).ctl with endAtBoundary := true } }
      refine ⟨_, acts, boundary, kept, switch.trans on, ?_⟩
      rw [e]
      rfl
    · rw [if_neg (Bool.eq_false_iff.1 idle), if_neg (Bool.eq_false_iff.1 done)] at acts
      obtain ⟨d, safe, off, loss⟩ := safeOff_dark (s.asked byLatch)
      exact ⟨_, acts, safe, off, d.mem, d.ddr, d.flash, d.cmdKey, loss⟩
  · intro safe en
    obtain ⟨d, still, step, on, latch⟩ := restart_starts { s with ctl := { s.ctl with latchOpen := false } }
    exact ⟨_, congrArg Host.Outcome.next (if_pos ⟨safe, en⟩), still, step, on, latch, d.mem, d.flash⟩
  · intro no
    refine ⟨s, congrArg Host.Outcome.next (if_neg fun ⟨safe, en⟩ => ?_), rfl⟩
    rcases no with e | e
    · rw [safe] at e
      cases e
    · rw [en] at e
      cases e

end Sys2Proof
end

section
/-! PROOFS. Attestation, key rotation, sensor trips and alarms (R498 to R500, R513 to R517). -/

namespace Sys2Proof

open Machine

variable {s t : State} {sensor level value : Nat}

/-! ## Alarms (R515 to R517) -/

/-- The level that a sensor now holds, with the module's. -/
def Machine.State.alarmHolds (s : State) (sensor level : Nat) : State :=
  { s with sec := { s.sec with holding := s.sec.holding ++ [(sensor, level)], level := max s.sec.level level,
                               tripped := if sensor ≤ 3 then s.sec.tripped ||| 2 ^ sensor else s.sec.tripped }
           recov := { s.recov with irq11 := s.recov.irq11 || decide (s.sec.level < level) } }

/-- The alarm's records, with the erase of the keys before them where the policy wants one. -/
def Machine.State.alarmTells (s : State) (sensor level value : Nat) (erase : Bool) : State :=
  let u := if erase then s.zeroKeys.secAlarm 5 3 0 true else s
  u.secAlarm sensor level value erase

/-- The hold of level 2, with its alarm counted. -/
def Machine.State.alarmCounts (s : State) : State :=
  { s with sec := { s.sec with hold := true, alarms := if s.sec.alarms = 0xFFFFFFFF then s.sec.alarms else s.sec.alarms + 1 }
           ctl := { s.ctl with ibis := s.ctl.ibis + 1 } }

/-- The package Bell of an alarm, which stops the job. -/
def Machine.State.alarmRings (s : State) : State :=
  let u := s.ring 0 0 0 4
  { u with job := { u.job with stopWanted := if u.job.run then 1 else u.job.stopWanted } }

theorem alarm_held (held : s.sec.holds sensor level = true) : s.alarm sensor level value = s := if_pos held

/-- The policy wants the keys erased. -/
def Machine.State.erases (s : State) (level : Nat) : Bool := level == 3 && s.sec.effective 0 == 1

theorem alarm_new (new : s.sec.holds sensor level = false) : s.alarm sensor level value =
    let u := (s.alarmHolds sensor level).alarmTells sensor level value (s.erases level)
    if level < 2 then u else u.alarmCounts.alarmRings :=
  if_neg (Bool.eq_false_iff.1 new)

theorem holds_alarmHolds (s : State) (sensor level : Nat) : (s.alarmHolds sensor level).sec.holds sensor level = true := by
  unfold Sec.holds
  refine List.any_eq_true.2 ⟨(sensor, level), List.mem_append_right _ (List.mem_singleton_self _), ?_⟩
  simp

/-- What the records of an alarm leave: all but the keys, where they are erased, and the records on their way. -/
theorem alarmTells_keeps (s : State) (sensor level value : Nat) (erase : Bool) :
    let t := s.alarmTells sensor level value erase
    t.mem = s.mem ∧ t.flash = s.flash ∧ t.bell = s.bell ∧ t.job = s.job ∧ t.ctl = s.ctl ∧
    t.recov.flight.length = s.recov.flight.length + (if erase then 2 else 1) ∧
    t.sec = if erase then s.zeroKeys.sec else s.sec := by
  cases erase with
  | false =>
    exact ⟨rfl, rfl, rfl, rfl, rfl, by simp [State.alarmTells, State.secAlarm, State.post, State.postAt], rfl⟩
  | true =>
    exact ⟨rfl, rfl, rfl, rfl, rfl, by simp [State.alarmTells, State.secAlarm, State.post, State.postAt, State.zeroKeys], rfl⟩

theorem alarms_alarmCounts (s : State) : s.alarmCounts.sec.alarms.toNat = min 0xFFFFFFFF (s.sec.alarms.toNat + 1) := by
  unfold State.alarmCounts
  dsimp only
  generalize s.sec.alarms = n
  split_ifs with top
  · subst top
    decide
  · have : n.toNat ≠ 0xFFFFFFFF := fun e => top (BitVec.eq_of_toNat_eq e)
    bv_omega

theorem ibis_syncMode (s : State) : s.ctl.ibis ≤ s.syncMode.ctl.ibis := by
  unfold State.syncMode
  split_ifs
  · exact le_refl _
  · exact Nat.le_succ _

theorem ibis_ring (s : State) : s.ctl.ibis ≤ (s.ring 0 0 0 4).ctl.ibis := by
  unfold State.ring
  dsimp only
  split_ifs
  · exact le_refl _
  · exact le_trans (le_of_eq (by rfl)) (ibis_syncMode _)

/-- The Bell of an alarm. -/
theorem alarmRings_rings (s : State) : s.alarmRings.bell.cuts ≠ [] ∧ s.alarmRings.sec = s.sec ∧ s.alarmRings.mem = s.mem ∧
    s.alarmRings.flash = s.flash ∧ s.alarmRings.recov = s.recov ∧ (s.job.run = true → s.alarmRings.job.stopWanted = 1) ∧
    s.ctl.ibis ≤ s.alarmRings.ctl.ibis := by
  obtain ⟨-, cuts, r, b, c, rest⟩ := rung_ring s 0 0 0 4
  have sec : (s.ring 0 0 0 4).sec = s.sec := sec_ring s 0 0 0 4
  have job : (s.ring 0 0 0 4).job = s.job := by rw [rest]
  refine ⟨cuts, sec, by unfold State.alarmRings; rw [rest], by unfold State.alarmRings; rw [rest], by unfold State.alarmRings; rw [rest],
    fun run => ?_, ?_⟩
  · unfold State.alarmRings
    dsimp only
    rw [job, run]
    rfl
  · exact ibis_ring s

/-! ## Attestation (R498, R500, R514) -/

/-- A request less than 10 ms after the last one that was answered. -/
def Machine.State.asksSoon (s : State) : Prop := ∃ t, s.sec.lastAtt = some t ∧ s.clock < t + 10000000

/-- A request in time: the report under the next index, which is used up first. -/
def Machine.State.attests (s : State) (nonce : BitVec 256) : State :=
  match s.sec.attSeed with
  | none => { s with rsp := .command 0x0100 0 0x22 0 }
  | some seed =>
    if s.sec.idOut ∨ 65536 ≤ s.sec.attNext then { s with rsp := .busy }
    else
      let i := s.sec.attNext
      let r := s.report nonce
      { s with sec := { s.sec with attNext := i + 1, rotating := s.sec.rotating || decide (60000 ≤ i + 1) }
               rsp := .bytes (r ++ xmssSignature 2692 seed i r ++ s.sec.attCert) }

/-- The time of the last request answered. -/
def Machine.State.attested (s : State) : State := { s with sec := { s.sec with lastAtt := some s.clock } }

section
variable {nonce seed : BitVec 256} (up : s.flag Reg.mgmtStat 31 = true) (runs : s.ctl.flashRecovery = false)
include up runs

theorem attest_dropped (soon : s.asksSoon) : exec (.attestationRequest nonce) s = .next { s with rsp := .dropped } := by
  obtain ⟨t, last, early⟩ := soon
  show execAttestationRequest nonce s = _
  unfold execAttestationRequest
  rw [up, runs, last]
  simp only [Bool.not_true, Bool.false_eq_true, if_false]
  exact congrArg Host.Outcome.next (if_pos (decide_eq_true early))

theorem attest_answers (late : ¬ s.asksSoon) : exec (.attestationRequest nonce) s = .next (s.attested.attests nonce) := by
  show execAttestationRequest nonce s = _
  unfold execAttestationRequest
  rw [up, runs]
  simp only [Bool.not_true, Bool.false_eq_true, if_false]
  cases e : s.sec.lastAtt with
  | none => rfl
  | some t =>
    have passes : ¬ decide (s.clock < t + 10000000) = true := fun early => late ⟨t, e, of_decide_eq_true early⟩
    exact congrArg Host.Outcome.next (if_neg passes)

end

section
variable {nonce seed : BitVec 256}

theorem attests_none (gone : s.sec.attSeed = none) : s.attests nonce = { s with rsp := .command 0x0100 0 0x22 0 } := by
  unfold State.attests
  rw [gone]

theorem attests_out (key : s.sec.attSeed = some seed) (out : s.sec.idOut = true ∨ 65536 ≤ s.sec.attNext) :
    s.attests nonce = { s with rsp := .busy } := by
  unfold State.attests
  rw [key]
  exact if_pos out

theorem attests_signs (key : s.sec.attSeed = some seed) (inn : s.sec.idOut = false) (left : s.sec.attNext < 65536) :
    s.attests nonce = { s with
      sec := { s.sec with attNext := s.sec.attNext + 1, rotating := s.sec.rotating || decide (60000 ≤ s.sec.attNext + 1) }
      rsp := .bytes (s.report nonce ++ xmssSignature 2692 seed s.sec.attNext (s.report nonce) ++ s.sec.attCert) } := by
  have within : ¬ (s.sec.idOut = true ∨ 65536 ≤ s.sec.attNext) := by
    simp only [inn, Bool.false_eq_true, false_or]
    omega
  unfold State.attests
  rw [key]
  exact if_neg within
end

/-- The rotation: the next key, certified, with a generation and indices of its own. -/
def Machine.State.certifies (s : State) (ids : BitVec 256) : State :=
  let seed := Config.keySeed s.sec.keysMade
  let m := xmssPublicKey seed ++ toBytes 4 (s.sec.attGen + 1)
  { s with sec := { s.sec with rotating := false, idNext := s.sec.idNext + 1, attGen := s.sec.attGen + 1, attNext := 0,
                               attSeed := some seed, keysMade := s.sec.keysMade + 1,
                               attCert := m ++ xmssSignature 2820 ids s.sec.idNext m } }

theorem keyRotation_certifies {ids : BitVec 256} (rotating : s.sec.rotating = true) (key : s.sec.idSeed = some ids) (left : s.sec.idNext < 2 ^ 20) :
    exec .keyRotation s = .next (s.certifies ids) := by
  show execKeyRotation s = _
  unfold execKeyRotation
  rw [rotating, key]
  exact congrArg Host.Outcome.next (if_neg (Nat.not_le.2 left))

theorem keyRotation_ends {ids : BitVec 256} (rotating : s.sec.rotating = true) (key : s.sec.idSeed = some ids) (spent : 2 ^ 20 ≤ s.sec.idNext) :
    exec .keyRotation s = .next { s with sec := { s.sec with rotating := false, idOut := true } } := by
  show execKeyRotation s = _
  unfold execKeyRotation
  rw [rotating, key]
  exact congrArg Host.Outcome.next (if_pos spent)

theorem trip_alarms {sensor : Fin 5} {level : Fin 4} {value : W32} {l : Nat} (trips : s.tripLevel sensor.val level.val = some l)
    (on : s.ctl.mainSwitch = true) : exec (.sensorTrip sensor level value) s = .next (s.spend.alarm sensor.val l value.toNat) := by
  show execSensorTrip sensor level value s = _
  unfold execSensorTrip
  rw [trips, on]
  rfl

/-- The alarm, before the actions from level 2 on. -/
def Machine.State.alarmTold (s : State) (sensor level value : Nat) : State :=
  (s.alarmHolds sensor level).alarmTells sensor level value (s.erases level)

theorem erases_iff (s : State) (level : Nat) : s.erases level = true ↔ level = 3 ∧ s.sec.effective 0 = 1 := by
  unfold State.erases
  simp

/-- What an alarm has done before the actions from level 2 on. -/
structure Told (sensor level : Nat) (s t : State) : Prop where
  top : t.sec.level = max s.sec.level level
  holds : t.sec.holds sensor level = true
  erased : level = 3 ∧ s.sec.effective 0 = 1 → t.sec.cmdKey = none ∧ t.sec.attSeed = none ∧ t.sec.erasePending = true ∧
    t.recov.flight.length = s.recov.flight.length + 2
  kept : ¬ (level = 3 ∧ s.sec.effective 0 = 1) → t.sec.cmdKey = s.sec.cmdKey ∧ t.sec.attSeed = s.sec.attSeed ∧
    t.recov.flight.length = s.recov.flight.length + 1
  lastCtr : t.sec.lastCtr = s.sec.lastCtr
  mem : t.mem = s.mem
  flash : t.flash = s.flash

/-- What the records of an alarm leave to its later actions. -/
structure Untold (s t : State) : Prop where
  hold : t.sec.hold = s.sec.hold
  alarms : t.sec.alarms = s.sec.alarms
  bell : t.bell = s.bell
  job : t.job = s.job
  ctl : t.ctl = s.ctl

theorem told_alarmTold (s : State) (sensor level value : Nat) : Told sensor level s (s.alarmTold sensor level value) ∧
    Untold s (s.alarmTold sensor level value) := by
  obtain ⟨mem, flash, bell, job, ctl, flight, sec⟩ := alarmTells_keeps (s.alarmHolds sensor level) sensor level value (s.erases level)
  have held := holds_alarmHolds s sensor level
  unfold State.alarmTold
  cases e : s.erases level with
  | true =>
    rw [e] at mem flash bell job ctl flight sec
    have want := (erases_iff s level).1 e
    exact ⟨⟨by rw [sec]; rfl, (congrArg (Sec.holds · sensor level) sec).trans held, fun _ => ⟨by rw [sec]; rfl, by rw [sec]; rfl,
      by rw [sec]; rfl, flight⟩, fun no => absurd want no, by rw [sec]; rfl, mem, flash⟩,
      ⟨by rw [sec]; rfl, by rw [sec]; rfl, bell, job, ctl⟩⟩
  | false =>
    rw [e] at mem flash bell job ctl flight sec
    have not : ¬ (level = 3 ∧ s.sec.effective 0 = 1) := fun want => by
      rw [(erases_iff s level).2 want] at e
      cases e
    exact ⟨⟨by rw [sec]; rfl, (congrArg (Sec.holds · sensor level) sec).trans held, fun want => absurd want not,
      fun _ => ⟨by rw [sec]; rfl, by rw [sec]; rfl, flight⟩, by rw [sec]; rfl, mem, flash⟩,
      ⟨by rw [sec]; rfl, by rw [sec]; rfl, bell, job, ctl⟩⟩

/-- What a trip's alarm does to the constable and the module. -/
theorem alarm_acts (new : s.sec.holds sensor level = false) :
    let t := s.alarm sensor level value
    let erase := level = 3 ∧ s.sec.effective 0 = 1
    t.sec.level = max s.sec.level level ∧ t.sec.holds sensor level = true ∧
    (erase → t.sec.cmdKey = none ∧ t.sec.attSeed = none ∧ t.sec.erasePending = true ∧ t.recov.flight.length = s.recov.flight.length + 2) ∧
    (¬ erase → t.sec.cmdKey = s.sec.cmdKey ∧ t.sec.attSeed = s.sec.attSeed ∧ t.recov.flight.length = s.recov.flight.length + 1) ∧
    (level < 2 → t.sec.hold = s.sec.hold ∧ t.bell = s.bell ∧ t.job = s.job) ∧
    (2 ≤ level → t.sec.hold = true ∧ t.bell.cuts ≠ [] ∧ t.sec.alarms.toNat = min 0xFFFFFFFF (s.sec.alarms.toNat + 1) ∧
      s.ctl.ibis < t.ctl.ibis ∧ (s.job.run = true → t.job.stopWanted = 1)) ∧
    t.sec.lastCtr = s.sec.lastCtr ∧ t.mem = s.mem ∧ t.flash = s.flash := by
  intro t erase
  obtain ⟨told, untold⟩ := told_alarmTold s sensor level value
  by_cases low : level < 2
  · have eq : t = s.alarmTold sensor level value := (alarm_new new).trans (if_pos low)
    rw [eq]
    exact ⟨told.top, told.holds, told.erased, told.kept, fun _ => ⟨untold.hold, untold.bell, untold.job⟩, fun high => absurd low (Nat.not_lt.2 high),
      told.lastCtr, told.mem, told.flash⟩
  · have eq : t = (s.alarmTold sensor level value).alarmCounts.alarmRings := (alarm_new new).trans (if_neg low)
    obtain ⟨cuts, sec, mem, flash, recov, stops, ibis⟩ := alarmRings_rings (s.alarmTold sensor level value).alarmCounts
    rw [eq, sec, mem, flash, recov]
    refine ⟨told.top, told.holds, told.erased, told.kept, fun lo => absurd lo low, fun _ => ⟨rfl, cuts, ?_, ?_, fun run => stops ?_⟩,
      told.lastCtr, told.mem, told.flash⟩
    · rw [alarms_alarmCounts, untold.alarms]
    · refine lt_of_lt_of_le ?_ ibis
      exact Nat.lt_succ_of_le (le_of_eq (congrArg Ctl.ibis untold.ctl).symm)
    · exact (congrArg Job.run untold.job).trans run

/-- Settles O39. -/
theorem attestationAndAlarms : Obligations.AttestationAndAlarms := by
  unfold Obligations.AttestationAndAlarms
  intro s
  refine ⟨fun nonce up runs => ⟨fun soon => ⟨_, attest_dropped up runs soon, rfl⟩, fun late gone => ?_, fun seed late key out => ?_,
      fun seed late key inn left => ?_⟩,
    fun up runs => ?_, fun up recovery nonce => ⟨?_, ?_⟩, fun seed rotating ids => ⟨fun left => ?_, fun spent => ?_⟩,
    fun sensor level value l trips on => ⟨fun held => ?_, fun new => ?_⟩⟩
  · have acts := attest_answers (nonce := nonce) up runs late
    rw [attests_none (s := s.attested) gone] at acts
    exact ⟨_, acts, rfl⟩
  · have acts := attest_answers (nonce := nonce) up runs late
    rw [attests_out (s := s.attested) key out] at acts
    exact ⟨_, acts, rfl, rfl⟩
  · have acts := attest_answers (nonce := nonce) up runs late
    rw [attests_signs (s := s.attested) key inn left] at acts
    refine ⟨_, acts, rfl, rfl, fun high => ?_, rfl⟩
    exact Bool.or_eq_true_iff.2 (.inr (decide_eq_true high))
  · refine ⟨_, ?_, rfl⟩
    show execIdentityRequest s = _
    unfold execIdentityRequest
    rw [up, runs]
    rfl
  · refine ⟨_, ?_, rfl⟩
    show execAttestationRequest nonce s = _
    unfold execAttestationRequest
    rw [up, recovery]
    rfl
  · refine ⟨_, ?_, rfl⟩
    show execIdentityRequest s = _
    unfold execIdentityRequest
    rw [up, recovery]
    rfl
  · refine ⟨_, keyRotation_certifies rotating ids left, rfl, rfl, rfl, rfl, rfl, rfl, rfl⟩
  · refine ⟨_, keyRotation_ends rotating ids spent, rfl, rfl, rfl, rfl⟩
  · refine ⟨_, trip_alarms trips on, ?_⟩
    exact alarm_held held
  · refine ⟨_, trip_alarms trips on, ?_⟩
    exact alarm_acts (s := s.spend) new

end Sys2Proof
end

section
/-! PROOFS. Critical commands that are accepted: firmware, keys and policy (R475, R501, R502, R511 to R513). -/

namespace Sys2Proof

open Machine

variable {s t : State} {f : CmdFrame} {code : Nat} {lenOk : Nat → Bool} {act : State → State × Nat}

/-! ## What an accepted command does -/

/-- An accepted command acts on the state with its counter used, and is answered with its status. -/
theorem accepted_acts (ok : Accepted s f code lenOk) (act : State → State × Nat) :
    s.critical f code lenOk act = (act (s.used f)).1.answer code f.counter.toNat (act (s.used f)).2 := by
  obtain ⟨up, inRate, form, small, len, target, ⟨k, key, tag⟩, new, permitted⟩ := ok
  exact critical_acts up inRate ⟨form, small⟩ len target key tag new permitted

/-- The constable's store once a command has used its counter. -/
structure Used (s : State) (f : CmdFrame) (x : Sec) : Prop where
  lastCtr : x.lastCtr = f.counter
  minSeq : x.minSeq = s.sec.minSeq
  fw : x.fw = s.sec.fw
  fwHeld : x.fwHeld = s.sec.fwHeld
  cmdKey : x.cmdKey = s.sec.cmdKey
  owner : x.owner = s.sec.owner
  policy : x.policy = s.sec.policy
  fencedHands : x.fencedHands = s.sec.fencedHands
  fencedSuits : x.fencedSuits = s.sec.fencedSuits

theorem used_used (s : State) (f : CmdFrame) : Used s f (s.used f).sec := ⟨rfl, rfl, rfl, rfl, rfl, rfl, rfl, rfl, rfl⟩

theorem used_eq (s : State) (f : CmdFrame) : s.used f = { s with sec := (s.used f).sec } := rfl

/-- An accepted command acts on the state with its counter used: of that state only the constable's store differs. -/
theorem accepted_uses (ok : Accepted s f code lenOk) : ∃ x, Used s f x ∧ ∀ act : State → State × Nat,
    s.critical f code lenOk act = (act { s with sec := x }).1.answer code f.counter.toNat (act { s with sec := x }).2 := by
  refine ⟨(s.used f).sec, used_used s f, fun act => ?_⟩
  rw [← used_eq]
  exact accepted_acts ok act

/-- The action keeps the counter, so that the command answers with its status. -/
theorem answers_answer {status : Nat} (same : t.sec.lastCtr = f.counter) : Answers (t.answer code f.counter.toNat status) f code status := by
  refine ⟨?_, answer_rsp t code f.counter.toNat status⟩
  rw [(frame_answer t code f.counter.toNat status).sec]
  exact same

section
variable (t : State) (code ctr status : Nat)

theorem answer_sec : (t.answer code ctr status).sec = t.sec := (frame_answer t code ctr status).sec
theorem answer_mem : (t.answer code ctr status).mem = t.mem := (frame_answer t code ctr status).mem
theorem answer_flash : (t.answer code ctr status).flash = t.flash := (frame_answer t code ctr status).flash
theorem answer_ctl : (t.answer code ctr status).ctl = t.ctl := by
  obtain ⟨-, -, -, -, -, -, -, -, -, -, -, -, -, -, -, -, -, -, -, -, -, -, -, -, -, -, -, ctl, -⟩ := (frame_answer t code ctr status).rest
  exact ctl
theorem answer_recov : (t.answer code ctr status).recov = t.recov := by
  unfold State.answer
  dsimp only
  split_ifs <;> rfl
theorem answer_job : (t.answer code ctr status).job = t.job := by
  unfold State.answer
  dsimp only
  split_ifs <;> rfl
end

/-- An answer that is no refusal changes the response alone. -/
theorem answer_done (t : State) (code ctr : Nat) {status : Nat} (done : status ≤ 1) :
    t.answer code ctr status = { t with rsp := .command code ctr status (t.respTag code ctr status) } := by
  unfold State.answer
  rw [if_pos done]

/-! ## Bytes of a list written to a memory -/

theorem Machine.Memory.byte_writeBytes {m : Memory} (w : Memory.wf m = true) (a : Nat) (bs : List (BitVec 8)) (i : Nat) (lt : i < bs.length) :
    Memory.byte (Memory.writeBytes m a bs) (a + i) = bs[i] := by
  induction bs generalizing m a i with
  | nil => simp at lt
  | cons b bs ih =>
    unfold Memory.writeBytes
    cases i with
    | zero =>
      rw [Memory.byte_writeBytes_other _ _ _ (Memory.wf_set _ _ w) (.inl (by omega)), Memory.byte_set _ _ _ w, if_pos (by omega)]
      rfl
    | succ i =>
      have step := ih (Memory.wf_set a b w) (a + 1) i (by simpa using lt)
      rw [show a + (i + 1) = a + 1 + i by omega, step]
      rfl

theorem Machine.Memory.length_bytes (m : Memory) (a n : Nat) : (Memory.bytes m a n).length = n := by
  induction n generalizing a with
  | zero => rfl
  | succ n ih => exact congrArg (· + 1) (ih (a + 1))

theorem Machine.Memory.getElem_bytes (m : Memory) (a n i : Nat) (lt : i < (Memory.bytes m a n).length) : (Memory.bytes m a n)[i] = Memory.byte m (a + i) := by
  induction n generalizing a i with
  | zero => simp [Memory.bytes] at lt
  | succ n ih =>
    cases i with
    | zero => rfl
    | succ i =>
      refine (ih (a + 1) i (by simpa [Memory.bytes] using lt)).trans ?_
      rw [show a + 1 + i = a + (i + 1) by omega]

theorem Machine.Memory.byte_writeBytes_bytes {m : Memory} (w : Memory.wf m = true) (h : Memory) (a n i : Nat) (lt : i < n) :
    Memory.byte (Memory.writeBytes m a (Memory.bytes h 0 n)) (a + i) = Memory.byte h i := by
  have within : i < (Memory.bytes h 0 n).length := by rw [Memory.length_bytes]; exact lt
  rw [Memory.byte_writeBytes w _ _ _ within, Memory.getElem_bytes, Nat.zero_add]

theorem Machine.Memory.byte_writeBytes_bytes_other {m : Memory} (w : Memory.wf m = true) (h : Memory) (a n y : Nat) (apart : y < a ∨ a + n ≤ y) :
    Memory.byte (Memory.writeBytes m a (Memory.bytes h 0 n)) y = Memory.byte m y :=
  Memory.byte_writeBytes_other _ _ _ w (by rw [Memory.length_bytes]; exact apart)

/-! ## Firmware (R502) -/

section
variable {b : List Byte}

/-- FW_BEGIN with a SEQ that the rollback rule admits. -/
def Machine.State.fwBegun (s : State) (b : List Byte) : State :=
  { s with flash := Memory.writeBytes s.flash (bankBase (1 - s.ctl.bank)) (List.replicate 8192 0xFF)
           sec := { s.sec with fw := some (1 - s.ctl.bank, bodyNat b 0 4, bodyNat b 4 4), fwHeld := [] } }

theorem Machine.Memory.byte_writeBytes_replicate {m : Memory} (w : Memory.wf m = true) (v : BitVec 8) (a n : Nat) :
    (∀ i < n, Memory.byte (Memory.writeBytes m a (List.replicate n v)) (a + i) = v) ∧
    (∀ y, y < a ∨ a + n ≤ y → Memory.byte (Memory.writeBytes m a (List.replicate n v)) y = Memory.byte m y) := by
  refine ⟨fun i lt => ?_, fun y apart => Memory.byte_writeBytes_other _ _ _ w (by rw [List.length_replicate]; exact apart)⟩
  rw [Memory.byte_writeBytes w _ _ i (by rw [List.length_replicate]; exact lt), List.getElem_replicate]

/-- The first 8 KiB of the unused bank, erased. -/
theorem fwBegun_bytes (flash : Memory.wf s.flash = true) :
    (∀ i < 8192, Memory.byte (s.fwBegun b).flash (bankBase (1 - s.ctl.bank) + i) = 0xFF) ∧
    (∀ a, a < bankBase (1 - s.ctl.bank) ∨ bankBase (1 - s.ctl.bank) + 8192 ≤ a → Memory.byte (s.fwBegun b).flash a = Memory.byte s.flash a) := by
  unfold State.fwBegun
  dsimp only
  exact Memory.byte_writeBytes_replicate flash _ _ 8192

theorem fwBegin_ok (seq : s.sec.minSeq.toNat ≤ bodyNat b 4 4) : s.fwBegin b = (s.fwBegun b, 0) := if_neg (Nat.not_lt.2 seq)

theorem fwBegin_old (old : bodyNat b 4 4 < s.sec.minSeq.toNat) : s.fwBegin b = (s, 0x30) := if_pos old

variable {x : Nat × Nat × Nat}

/-- FW_CHUNK's data: what lies below offset 8,192 is held, the rest written. -/
def Machine.State.fwWritten (s : State) (bank off : Nat) (data : List Byte) : State :=
  { s with flash := Memory.writeBytes s.flash (bankBase bank + max 8192 off) (data.drop (8192 - off))
           sec := { s.sec with fwHeld := Memory.writeBytes s.sec.fwHeld off (data.take (8192 - off)) } }

theorem fwChunk_ok (begun : s.sec.fw = some x) (aligned : bodyNat b 0 4 % 4096 = 0) (fits : bodyNat b 0 4 + (b.drop 4).length ≤ 0x2000000) :
    s.fwChunk b = (s.fwWritten x.1 (bodyNat b 0 4) (b.drop 4), 0) := by
  unfold State.fwChunk
  rw [begun]
  exact if_neg (by omega)

theorem fwChunk_fails (begun : s.sec.fw = some x) (bad : bodyNat b 0 4 % 4096 ≠ 0 ∨ 0x2000000 < bodyNat b 0 4 + (b.drop 4).length) :
    s.fwChunk b = (s, 0x30) := by
  unfold State.fwChunk
  rw [begun]
  exact if_pos bad

/-- The bytes of a chunk. -/
theorem fwWritten_bytes (flash : Memory.wf s.flash = true) (held : Memory.wf s.sec.fwHeld = true) (bank off : Nat) (data : List Byte) :
    (∀ i (q : i < data.length), (8192 ≤ off + i → Memory.byte (s.fwWritten bank off data).flash (bankBase bank + off + i) = data[i]) ∧
      (off + i < 8192 → Memory.byte (s.fwWritten bank off data).sec.fwHeld (off + i) = data[i])) ∧
    (∀ a, a < bankBase bank + max 8192 off ∨ bankBase bank + off + data.length ≤ a →
      Memory.byte (s.fwWritten bank off data).flash a = Memory.byte s.flash a) := by
  refine ⟨fun i q => ⟨fun high => ?_, fun low => ?_⟩, fun a apart => ?_⟩
  · have place : bankBase bank + off + i = bankBase bank + max 8192 off + (i - (8192 - off)) := by omega
    have within : i - (8192 - off) < (data.drop (8192 - off)).length := by
      rw [List.length_drop]
      omega
    have index : 8192 - off + (i - (8192 - off)) = i := by omega
    unfold State.fwWritten
    rw [place, Memory.byte_writeBytes flash _ _ _ within, List.getElem_drop]
    simp only [index]
  · have within : i < (data.take (8192 - off)).length := by
      rw [List.length_take]
      omega
    unfold State.fwWritten
    rw [Memory.byte_writeBytes held _ _ _ within, List.getElem_take]
  · by_cases none : data.length ≤ 8192 - off
    · unfold State.fwWritten
      rw [List.drop_eq_nil_of_le none]
      rfl
    · refine Memory.byte_writeBytes_other _ _ _ flash ?_
      rw [List.length_drop]
      omega

/-- The image that FW_COMMIT would commit verifies. -/
def Machine.State.imageGood (s : State) (bank : Nat) : Bool :=
  let h := s.sec.fwHeld
  imgMagic h 0 && imgLayout h 0 && imgDigests h 0 s.flash bank && imgSigned h 0 && decide (s.sec.minSeq.toNat ≤ imgSeq h 0)

/-- The header written. -/
def Machine.State.fwHeaded (s : State) (bank : Nat) : State :=
  { s with flash := Memory.writeBytes s.flash (bankBase bank) (Memory.bytes s.sec.fwHeld 0 8192) }

theorem fwCommit_good (begun : s.sec.fw = some x) (good : s.imageGood x.1 = true) :
    s.fwCommit = (if s.ctl.flashRecovery then (s.fwHeaded x.1).restart else s.fwHeaded x.1, 0) := by
  unfold State.fwCommit
  rw [begun]
  exact if_pos good

theorem fwCommit_bad (begun : s.sec.fw = some x) (bad : s.imageGood x.1 = false) : s.fwCommit = (s, 0x30) := by
  unfold State.fwCommit
  rw [begun]
  exact if_neg (Bool.eq_false_iff.1 bad)

theorem fwHeaded_bytes (flash : Memory.wf s.flash = true) (bank : Nat) :
    (∀ i < 8192, Memory.byte (s.fwHeaded bank).flash (bankBase bank + i) = Memory.byte s.sec.fwHeld i) ∧
    (∀ a, a < bankBase bank ∨ bankBase bank + 8192 ≤ a → Memory.byte (s.fwHeaded bank).flash a = Memory.byte s.flash a) := by
  unfold State.fwHeaded
  dsimp only
  exact ⟨fun i lt => Memory.byte_writeBytes_bytes flash _ _ 8192 i lt, fun a apart => Memory.byte_writeBytes_bytes_other flash _ _ 8192 a apart⟩
end

/-! ## Keys and policy (R511 to R513) -/

/-- The sensor of an alarm's record is the top of its detail. -/
theorem bits_top (x : Nat) : bits x 124 4 = bits x 80 48 / 2 ^ 44 := by
  unfold bits
  rw [Nat.shiftRight_eq_div_pow, Nat.shiftRight_eq_div_pow]
  omega

theorem eraseKeys_record (s : State) : ∃ r w, s.eraseKeys.recov.flight = s.recov.flight ++ [(r, w)] ∧ bits w.toNat 0 8 = 0x0F ∧
    bits w.toNat 124 4 = 5 := by
  refine ⟨_, _, rfl, faultWord_code _ _ _ _ _, ?_⟩
  refine (bits_top _).trans ?_
  rw [faultWord_detail]
  rw [show b2n true = 1 from rfl]
  simp only [Nat.shiftLeft_eq]
  have := Nat.mod_lt s.fresh (show 0 < 3 by decide)
  omega

/-- The owner's values after a POLICY_SET. -/
def ownerSet (x : Sec) (b : List Byte) : List (Option Nat) :=
  (upTo 5).map fun i => if (b.getD i 255).toNat = 255 then x.owner.getD i none else some (b.getD i 255).toNat

/-- The command key after a POLICY_SET. -/
def keySet (f : CmdFrame) (k : BitVec 256) : BitVec 256 :=
  if f.body.length = 37 then
    BitVec.ofNat 256 (bodyNat f.body 5 32) ^^^ BitVec.ofNat 256 (Config.kmac256 k (toBytes 8 f.counter.toNat) 256 "HYG KEY")
  else k

theorem policySet_ok (may : ∀ i < 5, s.sec.mayTake i (f.body.getD i 255).toNat = true) {k : BitVec 256} (key : s.sec.cmdKey = some k) :
    s.policySet f = ({ s with sec := { s.sec with owner := ownerSet s.sec f.body, cmdKey := some (keySet f k) } }, 0) := by
  have all : ((upTo 5).all fun i => s.sec.mayTake i (f.body.getD i 255).toNat) = true := List.all_eq_true.2 fun i m => may i ((mem_upTo 5 i).1 m)
  unfold State.policySet
  rw [key]
  refine (if_neg (by rw [all]; decide)).trans ?_
  unfold keySet
  split_ifs <;> rfl

theorem policySet_refused (no : ∃ i < 5, s.sec.mayTake i (f.body.getD i 255).toNat = false) : s.policySet f = (s, 0x12) := by
  obtain ⟨i, lt, no⟩ := no
  refine if_pos ?_
  rw [Bool.not_eq_true', Bool.eq_false_iff]
  intro all
  rw [List.all_eq_true.1 all i ((mem_upTo 5 i).2 lt)] at no
  cases no

theorem ownerSet_getD (x : Sec) (b : List Byte) {i : Nat} (lt : i < 5) :
    (ownerSet x b).getD i none = if (b.getD i 255).toNat = 255 then x.owner.getD i none else some (b.getD i 255).toNat := by
  unfold ownerSet
  exact getD_map_upTo _ _ lt

/-- The status 0 changes the response alone. -/
theorem answer_zero (t : State) (code ctr : Nat) : t.answer code ctr 0 = { t with rsp := .command code ctr 0 (t.respTag code ctr 0) } :=
  answer_done t code ctr (by decide)

theorem fwBegun_keeps (s : State) (b : List Byte) : (s.fwBegun b).mem = s.mem ∧ ∀ a, (s.fwBegun b).reg a = s.reg a := by
  unfold State.fwBegun State.reg
  dsimp only
  exact ⟨rfl, fun _ => rfl⟩

theorem fwWritten_keeps (s : State) (bank off : Nat) (data : List Byte) : (s.fwWritten bank off data).sec.fw = s.sec.fw ∧
    ∀ a, (s.fwWritten bank off data).reg a = s.reg a := by
  unfold State.fwWritten State.reg
  dsimp only
  exact ⟨rfl, fun _ => rfl⟩

theorem fwHeaded_keeps (s : State) (bank : Nat) : (s.fwHeaded bank).mem = s.mem ∧ (s.fwHeaded bank).ctl = s.ctl ∧
    (s.fwHeaded bank).sec = s.sec := by
  unfold State.fwHeaded
  dsimp only
  exact ⟨rfl, rfl, rfl⟩

/-- An answer of status 0 leaves all but the response. -/
theorem answer_zero_reg (t : State) (code ctr a : Nat) : (t.answer code ctr 0).reg a = t.reg a := by
  rw [answer_zero]
  rfl

theorem reg_setSec (s : State) (x : Sec) (a : Nat) : ({ s with sec := x } : State).reg a = s.reg a := rfl

theorem eraseKeys_keeps (s : State) : s.eraseKeys.mem = s.mem ∧ s.eraseKeys.flash = s.flash ∧ ∀ a, s.eraseKeys.reg a = s.reg a :=
  ⟨rfl, rfl, fun _ => rfl⟩

theorem mayTake_used {x : Sec} (used : Used s f x) (i v : Nat) : x.mayTake i v = s.sec.mayTake i v := by
  unfold Sec.mayTake
  rw [used.policy]

/-- FW_BEGIN erases the header's place in the unused bank. -/
theorem fwBegin_erases (flash : Memory.wf s.flash = true) (ok : Accepted s f 0x0001 (fun n => n == 8))
    (seq : s.sec.minSeq.toNat ≤ bodyNat f.body 4 4) : Does (.fwBegin f) s fun t => Answers t f 0x0001 0 ∧
      t.sec.fw = some (1 - s.ctl.bank, bodyNat f.body 0 4, bodyNat f.body 4 4) ∧ t.sec.fwHeld = [] ∧
      (∀ i < 8192, Memory.byte t.flash (bankBase (1 - s.ctl.bank) + i) = 0xFF) ∧
      (∀ a, a < bankBase (1 - s.ctl.bank) ∨ bankBase (1 - s.ctl.bank) + 8192 ≤ a → Memory.byte t.flash a = Memory.byte s.flash a) ∧
      t.mem = s.mem ∧ ∀ a, t.reg a = s.reg a := by
  obtain ⟨x, used, uses⟩ := accepted_uses ok
  have acts := uses fun s => s.fwBegin f.body
  rw [fwBegin_ok (s := { s with sec := x }) (by rw [used.minSeq]; exact seq)] at acts
  dsimp only at acts
  obtain ⟨bytes, rest⟩ := fwBegun_bytes (s := { s with sec := x }) (b := f.body) flash
  obtain ⟨mem, reg⟩ := fwBegun_keeps { s with sec := x } f.body
  refine ⟨_, congrArg Host.Outcome.next acts, answers_answer used.lastCtr, ?_⟩
  rw [answer_sec, answer_flash, answer_mem, mem]
  exact ⟨by rfl, by rfl, bytes, rest, rfl, fun a => (answer_zero_reg _ _ _ a).trans (reg a)⟩

/-- An accepted command that fails leaves flash, the constable's store beside the counter, and the Manor. -/
theorem refusal_keeps {x : Sec} (used : Used s f x) (code status : Nat) :
    Answers (({ s with sec := x } : State).answer code f.counter.toNat status) f code status ∧
      (({ s with sec := x } : State).answer code f.counter.toNat status).flash = s.flash ∧
      (({ s with sec := x } : State).answer code f.counter.toNat status).sec = x :=
  ⟨answers_answer used.lastCtr, answer_flash _ _ _ _, answer_sec _ _ _ _⟩

theorem fwChunk_writes {x : Nat × Nat × Nat} (flash : Memory.wf s.flash = true) (held : Memory.wf s.sec.fwHeld = true)
    (ok : Accepted s f 0x0002 (fun n => decide (4 ≤ n) && decide (n ≤ 8196))) (begun : s.sec.fw = some x)
    (aligned : bodyNat f.body 0 4 % 4096 = 0) (fits : bodyNat f.body 0 4 + (f.body.drop 4).length ≤ 0x2000000) :
    Does (.fwChunk f) s fun t => Answers t f 0x0002 0 ∧
      (∀ i (q : i < (f.body.drop 4).length),
        (8192 ≤ bodyNat f.body 0 4 + i → Memory.byte t.flash (bankBase x.1 + bodyNat f.body 0 4 + i) = (f.body.drop 4)[i]) ∧
        (bodyNat f.body 0 4 + i < 8192 → Memory.byte t.sec.fwHeld (bodyNat f.body 0 4 + i) = (f.body.drop 4)[i])) ∧
      (∀ a, a < bankBase x.1 + max 8192 (bodyNat f.body 0 4) ∨ bankBase x.1 + bodyNat f.body 0 4 + (f.body.drop 4).length ≤ a →
        Memory.byte t.flash a = Memory.byte s.flash a) ∧ t.sec.fw = s.sec.fw ∧ ∀ a, t.reg a = s.reg a := by
  obtain ⟨y, used, uses⟩ := accepted_uses ok
  have acts := uses fun s => s.fwChunk f.body
  rw [fwChunk_ok (s := { s with sec := y }) (by rw [used.fw]; exact begun) aligned fits] at acts
  dsimp only at acts
  obtain ⟨bytes, rest⟩ := fwWritten_bytes (s := { s with sec := y }) flash (by rw [used.fwHeld]; exact held) x.1 (bodyNat f.body 0 4) (f.body.drop 4)
  refine ⟨_, congrArg Host.Outcome.next acts, answers_answer used.lastCtr, ?_⟩
  obtain ⟨fw, reg⟩ := fwWritten_keeps { s with sec := y } x.1 (bodyNat f.body 0 4) (f.body.drop 4)
  rw [answer_sec, answer_flash, fw]
  exact ⟨bytes, rest, used.fw, fun a => (answer_zero_reg _ _ _ a).trans (reg a)⟩

/-- FW_COMMIT of an image that verifies writes its header. -/
theorem fwCommit_writes {x : Nat × Nat × Nat} {y : Sec} (used : Used s f y) (flash : Memory.wf s.flash = true) (begun : s.sec.fw = some x)
    (uses : s.critical f 0x0003 (fun n => n == 0) State.fwCommit =
      (State.fwCommit { s with sec := y }).1.answer 0x0003 f.counter.toNat (State.fwCommit { s with sec := y }).2)
    (good : ({ s with sec := y } : State).imageGood x.1 = true) : Does (.fwCommit f) s fun t => Answers t f 0x0003 0 ∧
      (∀ i < 8192, Memory.byte t.flash (bankBase x.1 + i) = Memory.byte s.sec.fwHeld i) ∧
      (∀ a, a < bankBase x.1 ∨ bankBase x.1 + 8192 ≤ a → Memory.byte t.flash a = Memory.byte s.flash a) ∧
      (s.ctl.flashRecovery = false → t.mem = s.mem ∧ t.ctl = s.ctl) ∧ (s.ctl.flashRecovery = true → t.ctl.step = 1 ∧ t.mem = []) := by
  rw [fwCommit_good (s := { s with sec := y }) (by rw [used.fw]; exact begun) good] at uses
  dsimp only at uses
  obtain ⟨bytes, rest⟩ := fwHeaded_bytes (s := { s with sec := y }) flash x.1
  rw [show ({ s with sec := y } : State).sec.fwHeld = s.sec.fwHeld from used.fwHeld] at bytes
  cases recovery : s.ctl.flashRecovery with
  | true =>
    rw [recovery, if_pos rfl] at uses
    obtain ⟨d, -, step, -⟩ := restart_starts (({ s with sec := y } : State).fwHeaded x.1)
    refine ⟨_, congrArg Host.Outcome.next uses, answers_answer (d.lastCtr.trans used.lastCtr), ?_⟩
    rw [answer_ctl, answer_mem, answer_flash, d.flash]
    exact ⟨bytes, rest, nofun, fun _ => ⟨step, d.mem⟩⟩
  | false =>
    rw [recovery, if_neg Bool.false_ne_true] at uses
    obtain ⟨mem, ctl, -⟩ := fwHeaded_keeps { s with sec := y } x.1
    refine ⟨_, congrArg Host.Outcome.next uses, answers_answer used.lastCtr, ?_⟩
    rw [answer_ctl, answer_mem, answer_flash, mem, ctl]
    exact ⟨bytes, rest, fun _ => ⟨rfl, rfl⟩, nofun⟩

theorem keyErase_erases (ok : Accepted s f 0x0010 (fun n => n == 0)) : Does (.keyErase f) s fun t => Answers t f 0x0010 0 ∧
    t.sec.cmdKey = none ∧ t.sec.idSeed = none ∧ t.sec.attSeed = none ∧ t.sec.erasePending = true ∧ t.sec.erased = true ∧
    (∃ r w, t.recov.flight = s.recov.flight ++ [(r, w)] ∧ bits w.toNat 0 8 = 0x0F ∧ bits w.toNat 124 4 = 5) ∧
    t.rsp = .command 0x0010 f.counter.toNat 0 0 ∧ t.mem = s.mem ∧ t.flash = s.flash ∧ ∀ a, t.reg a = s.reg a := by
  obtain ⟨x, used, uses⟩ := accepted_uses ok
  have acts := uses fun s => (s.eraseKeys, 0)
  dsimp only at acts
  obtain ⟨r, w, flight, kind, sensor⟩ := eraseKeys_record { s with sec := x }
  obtain ⟨mem, flash, reg⟩ := eraseKeys_keeps { s with sec := x }
  have response : ({ s with sec := x } : State).eraseKeys.respTag 0x0010 f.counter.toNat 0 = 0 := rfl
  refine ⟨_, congrArg Host.Outcome.next acts, answers_answer used.lastCtr, ?_⟩
  rw [answer_sec, answer_recov, answer_mem, answer_flash, answer_zero, response]
  exact ⟨rfl, rfl, rfl, rfl, rfl, ⟨r, w, flight, kind, sensor⟩, rfl, mem, flash, reg⟩

theorem policySet_sets (ok : Accepted s f 0x0020 (fun n => n == 5 || n == 37))
    (may : ∀ i < 5, s.sec.mayTake i (f.body.getD i 255).toNat = true) : Does (.policySet f) s fun t => Answers t f 0x0020 0 ∧
      (∀ i < 5, t.sec.owner.getD i none = if (f.body.getD i 255).toNat = 255 then s.sec.owner.getD i none else some (f.body.getD i 255).toNat) ∧
      (f.body.length = 5 → t.sec.cmdKey = s.sec.cmdKey) ∧
      (∀ k, s.sec.cmdKey = some k → f.body.length = 37 → t.sec.cmdKey = some (BitVec.ofNat 256 (bodyNat f.body 5 32) ^^^
        BitVec.ofNat 256 (Config.kmac256 k (toBytes 8 f.counter.toNat) 256 "HYG KEY"))) ∧
      t.sec.policy = s.sec.policy ∧ t.mem = s.mem ∧ ∀ a, t.reg a = s.reg a := by
  obtain ⟨x, used, uses⟩ := accepted_uses ok
  have acts := uses fun s => s.policySet f
  obtain ⟨-, -, -, -, -, -, ⟨k, key, -⟩, -⟩ := ok
  rw [policySet_ok (s := { s with sec := x }) (fun i lt => (mayTake_used used i _).trans (may i lt)) (used.cmdKey.trans key)] at acts
  dsimp only at acts
  refine ⟨_, congrArg Host.Outcome.next acts, answers_answer used.lastCtr, ?_⟩
  rw [answer_sec, answer_mem]
  refine ⟨fun i lt => ?_, fun five => ?_, fun k' key' long => ?_, used.policy, rfl, fun a => (answer_zero_reg _ _ _ a).trans (reg_setSec _ _ a)⟩
  · rw [← used.owner]
    exact ownerSet_getD x f.body lt
  · rw [key, keySet, if_neg (by omega)]
  · obtain rfl : k = k' := Option.some.inj (key.symm.trans key')
    rw [keySet, if_pos long]

/-- Settles O37. -/
theorem firmwareAndKeyCommands : Obligations.FirmwareAndKeyCommands := by
  unfold Obligations.FirmwareAndKeyCommands
  intro f s safe b bank
  obtain ⟨-, -, flash, -⟩ := safe
  refine ⟨fun ok => ⟨fun seq => fwBegin_erases flash ok seq, fun old => ?_⟩,
    fun x ok begun held => ⟨fun aligned fits => fwChunk_writes flash held ok begun aligned fits, fun bad => ?_⟩, fun x ok begun => ?_,
    keyErase_erases, fun ok => ⟨fun may => policySet_sets ok may, fun no => ?_⟩⟩
  all_goals obtain ⟨y, used, uses⟩ := accepted_uses ok
  · have acts := uses fun s => s.fwBegin f.body
    rw [fwBegin_old (s := { s with sec := y }) (by rw [used.minSeq]; exact old)] at acts
    obtain ⟨answers, same, sec⟩ := refusal_keeps used 1 0x30
    exact ⟨_, congrArg Host.Outcome.next acts, answers, same, (congrArg Sec.fw sec).trans used.fw⟩
  · have acts := uses fun s => s.fwChunk f.body
    rw [fwChunk_fails (s := { s with sec := y }) (used.fw.trans begun) bad] at acts
    obtain ⟨answers, same, sec⟩ := refusal_keeps used 2 0x30
    exact ⟨_, congrArg Host.Outcome.next acts, answers, same, (congrArg Sec.fwHeld sec).trans used.fwHeld⟩
  · have same : ({ s with sec := y } : State).imageGood x.1 = s.imageGood x.1 := by
      unfold State.imageGood
      rw [used.fwHeld, used.minSeq]
    cases good : s.imageGood x.1 with
    | true =>
      obtain ⟨t, acts, all⟩ := fwCommit_writes used flash begun (uses State.fwCommit) (same.trans good)
      exact ⟨t, acts, fun _ => all, fun bad => absurd (good.symm.trans bad) (by decide)⟩
    | false =>
      have acts := uses State.fwCommit
      rw [fwCommit_bad (s := { s with sec := y }) (used.fw.trans begun) (same.trans good)] at acts
      obtain ⟨answers, same, -⟩ := refusal_keeps used 3 0x30
      exact ⟨_, congrArg Host.Outcome.next acts, fun yes => absurd (yes.symm.trans good) (by decide), fun _ => ⟨answers, same⟩⟩
  · have acts := uses fun s => s.policySet f
    obtain ⟨i, lt, no⟩ := no
    rw [policySet_refused (s := { s with sec := y }) ⟨i, lt, (mayTake_used used i _).trans no⟩] at acts
    obtain ⟨answers, -, sec⟩ := refusal_keeps used 0x20 0x12
    exact ⟨_, congrArg Host.Outcome.next acts, answers, (congrArg Sec.owner sec).trans used.owner, (congrArg Sec.cmdKey sec).trans used.cmdKey⟩

end Sys2Proof
end

section
/-! PROOFS. What the aftermath of a fence or a fold leaves of the tables that R360 applies (R359, R360, R388, R393, R394). -/

namespace Sys2Proof

open Machine

variable {r s t : State}

/-- The addresses of a suit's own control block: its fold mask, its fences and what stands beside them (R523). -/
def TableAddr (a : Nat) : Prop := 0x10000000 ≤ a ∧ (a - 0x10000000) % 0x08000000 < 0x10000

theorem tableAddr_fabCtl (i : Nat) : TableAddr (Reg.fabCtl i) := by
  unfold TableAddr Reg.fabCtl suitBase
  omega

theorem tableAddr_fence {i n : Nat} (lt : n < 5) : TableAddr (Reg.fence i n) := by
  unfold TableAddr Reg.fence suitBase
  omega

theorem not_tableAddr_hand (h x : Nat) (lt : x < 0x40000) : ¬ TableAddr (handBase h + x) := by
  unfold TableAddr handBase suitBase
  omega

theorem not_tableAddr_bridgeEnd (b : Nat) : ¬ TableAddr (Reg.bridgeEnd b) := by
  unfold TableAddr Reg.bridgeEnd suitBase
  omega

theorem not_tableAddr_bellStat : ¬ TableAddr Reg.bellStat := by
  unfold TableAddr Reg.bellStat
  omega

theorem not_tableAddr_granReg {a : Nat} (g : GranReg a) : ¬ TableAddr a := by
  obtain ⟨i, pf | ⟨n, lt, rfl⟩⟩ := g
  · simp only [List.mem_cons, List.not_mem_nil, or_false, Reg.pfUsed, Reg.pfOnTime, Reg.pfLate, suitBase] at pf
    unfold TableAddr
    omega
  · unfold TableAddr Reg.hbmPc suitBase
    omega

/-- The tables, their pending values, and what tells whether a suit is drained stay as they were. -/
structure Tables (s t : State) : Prop where
  staged : t.staged = s.staged
  net : t.net = s.net
  inbox : t.inbox = s.inbox
  reg : ∀ a, TableAddr a → t.reg a = s.reg a

theorem Tables.refl (s : State) : Tables s s := ⟨rfl, rfl, rfl, fun _ _ => rfl⟩

theorem Tables.trans (a : Tables r s) (b : Tables s t) : Tables r t :=
  ⟨b.staged.trans a.staged, b.net.trans a.net, b.inbox.trans a.inbox, fun x m => (b.reg x m).trans (a.reg x m)⟩

theorem tables_foldl {α : Type} (f : State → α → State) (each : ∀ s x, Tables s (f s x)) (l : List α) (s : State) : Tables s (l.foldl f s) := by
  induction l generalizing s with
  | nil => exact .refl s
  | cons x l ih => exact (each s x).trans (ih _)

/-- A step that leaves registers, pending values and packets alone. -/
theorem tables_same (staged : t.staged = s.staged) (net : t.net = s.net) (inbox : t.inbox = s.inbox) (regs : t.regs = s.regs) : Tables s t :=
  ⟨staged, net, inbox, fun a _ => State.reg_congr regs a⟩

theorem tables_setReg (s : State) {a : Nat} (v : W32) (out : ¬ TableAddr a) : Tables s (s.setReg a v) :=
  ⟨rfl, rfl, rfl, fun _ m => State.reg_setReg_other _ _ fun e => out (e ▸ m)⟩

theorem tables_setColl (s : State) (c : Coll) : Tables s (s.setColl c) := tables_same rfl rfl rfl rfl
theorem tables_note (s : State) (n : Notice) : Tables s (s.note n) := tables_same rfl rfl rfl rfl
theorem tables_postAt (s : State) (time reeve sev code ep detail : Nat) : Tables s (s.postAt time reeve sev code ep detail) :=
  tables_same rfl rfl rfl rfl
theorem tables_post (s : State) (reeve sev code ep detail : Nat) : Tables s (s.post reeve sev code ep detail) := tables_postAt ..

theorem tables_memFrame {R H C M : Nat → Prop} (f : MemFrame R H C M s t) (none : ∀ a, R a → ¬ TableAddr a) (calm : Calm s t) : Tables s t := by
  obtain ⟨-, -, -, -, -, staged, -, -, -, -, -, -, -, -, -, -, -, -, inbox, -⟩ := f.rest
  exact ⟨staged, calm.1, inbox, fun a m => f.reg a (fun x => none a x m) fun g => not_tableAddr_granReg g m⟩

theorem tables_haltStation (s : State) (st u : Nat) : Tables s (s.haltStation st u) := by
  unfold State.haltStation
  split_ifs
  · exact tables_same rfl rfl rfl rfl
  · exact tables_same rfl rfl rfl rfl
  · exact tables_same rfl rfl rfl rfl

theorem tables_reeveStop (s : State) : Tables s s.reeveStop := by
  obtain ⟨x, b, c, j, e, -, reg⟩ := reeveStop_rung s
  refine ⟨by rw [e], by rw [e], by rw [e], fun a m => reg a fun here => not_tableAddr_bellStat (here ▸ m)⟩

theorem tables_traceHand (s : State) (h : Nat) (x : Trace) : Tables s (s.traceHand h x) := by
  unfold State.traceHand
  dsimp only
  split_ifs
  · exact tables_same rfl rfl rfl rfl
  · refine Tables.trans ?_ (tables_setReg _ _ (not_tableAddr_hand h 0x1008 (by decide)))
    exact tables_same rfl rfl rfl rfl

theorem tables_escalate (s : State) (st u tid kind : Nat) (refetched : Bool) (serial : Nat) :
    Tables s (s.escalate st u tid kind refetched serial) := by
  unfold State.escalate State.postHand
  exact (((tables_haltStation s st u).trans (tables_setReg _ _ (not_tableAddr_hand _ 4 (by decide)))).trans
    (tables_traceHand _ _ _)).trans (tables_post _ _ _ _ _ _)

theorem not_tableAddr_core (k x : Nat) (lt : x < 0x2000) : ¬ TableAddr (coreBase k + x) := by
  unfold TableAddr coreBase handBase suitBase
  omega

theorem tables_pageFault (s : State) (st u va kind : Nat) (pcopy : Bool) (serial : Nat) :
    Tables s (s.pageFault st u va kind pcopy serial) := by
  have halted := tables_haltStation s st u
  unfold State.pageFault
  dsimp only
  generalize s.haltStation st u = b at halted ⊢
  have flagged : Tables b (if st = 1 then b.setBit (Reg.loadStat u) 30 else if st = 5 then b.setBit (Reg.storeStat u) 30 else b) := by
    split_ifs
    · exact tables_setReg _ _ (not_tableAddr_core u _ (by decide))
    · exact tables_setReg _ _ (not_tableAddr_core u _ (by decide))
    · exact .refl b
  generalize (if st = 1 then b.setBit (Reg.loadStat u) 30 else if st = 5 then b.setBit (Reg.storeStat u) 30 else b) = c at flagged ⊢
  refine ((halted.trans flagged).trans ?_).trans ((tables_note _ _).trans (tables_reeveStop _))
  by_cases again : c.flag (Reg.fstat (handOf st u)) 31 = true
  · rw [if_pos again]
    exact .refl c
  · rw [if_neg again]
    refine Tables.trans ?_ (tables_setReg _ _ (not_tableAddr_hand _ 0x408 (by decide)))
    exact (tables_setReg _ _ (not_tableAddr_hand _ 0x400 (by decide))).trans (tables_setReg _ _ (not_tableAddr_hand _ 0x404 (by decide)))

theorem tables_refuse (s : State) (st u : Nat) (f : Refuse) (tid serial : Nat) : Tables s (s.refuse st u f tid serial) := by
  cases f with
  | fault a k p => exact tables_pageFault s st u a k p serial
  | poison => exact tables_escalate s st u tid 3 false serial

theorem tables_badRecord (s : State) (h va : Nat) : Tables s (s.badRecord h va) := by
  unfold State.badRecord
  exact ((tables_haltStation s 9 h).trans (tables_setReg _ _ (not_tableAddr_hand h 4 (by decide)))).trans
    ((tables_note _ _).trans (tables_reeveStop _))

/-! ## Collectives that fail (R388) -/

theorem tables_flushed (f : Flushed Nothing s t) : Tables s t := tables_memFrame f.frame (fun _ no => no.elim) f.calm

theorem tables_writeTile {unit tid hva pva : Nat} {x : Tile} (e : s.writeTile unit tid hva pva x = .ok t) : Tables s t := by
  unfold State.writeTile at e
  split at e
  · cases e
  · split at e
    · cases e
    · next w1 =>
      split at e
      · cases e
      · next w2 =>
        obtain rfl := Except.ok.inj e
        exact (tables_flushed (flushed_vwrite w1)).trans (tables_flushed (flushed_vwrite w2))

theorem tables_writeCompl (s : State) (c : Coll) (status h : Nat) : Tables s (s.writeCompl c status h) := by
  unfold State.writeCompl
  dsimp only
  split_ifs
  · exact .refl s
  · split
    · next w => exact tables_writeTile w
    · exact tables_refuse _ _ _ _ _ _

theorem tables_collMalformed (s : State) (c : Coll) : Tables s (s.collMalformed c) := by
  unfold State.collMalformed
  exact (tables_setColl s _).trans (tables_foldl _ (by intros; exact tables_badRecord _ _ _) _ _)

theorem tables_giveSlots (s : State) (d : BitVec 2048) (n : Nat) : Tables s (s.giveSlots d n) :=
  tables_foldl _ (by intros; exact tables_setReg _ _ (not_tableAddr_bridgeEnd _)) _ _

theorem tables_postDealer (s : State) (sl : List Nat) (code ep detail : Nat) : Tables s (s.postDealer sl code ep detail) :=
  tables_foldl _ (by intros; exact tables_postAt _ _ _ _ _ _ _) _ _

theorem tables_collFail (s : State) (c : Coll) : Tables s (s.collFail c) := by
  unfold State.collFail
  dsimp only
  refine Tables.trans ?_ (tables_foldl _ (by intros; exact tables_writeCompl _ _ _ _) _ _)
  refine Tables.trans ?_ (tables_foldl _ (by intros; exact tables_postDealer _ _ _ _ _) _ _)
  have cleared := tables_setColl s { c with aborted := true, slots := 0, places := [] }
  split_ifs
  · exact cleared
  · exact cleared.trans (tables_giveSlots _ _ _)

theorem tables_collFilled (s : State) (c : Coll) : Tables s (s.collFilled c) := by
  unfold State.collFilled
  split_ifs
  · exact tables_setColl s _
  · exact tables_setColl s _
  · exact (tables_setColl s c).trans (tables_collMalformed _ _)

theorem tables_failFenced (s : State) : Tables s s.failFenced :=
  tables_foldl _ (fun s c => by
    split_ifs
    · exact tables_collFail s c
    · exact tables_collFilled s c) _ _

end Sys2Proof
end

section
/-! PROOFS. One bit of a fence or fold table written to its pending copy, and the copy of the tables (R359, R360, R393, R394). -/

namespace Sys2Proof

open Machine

variable {r s t : State}

/-! ## Pending values -/

theorem Machine.PMap.get_filter (d : W32) {m : PMap W32} (rising : Rising m) (p : Nat → Bool) (x : Nat) :
    PMap.get d (m.filter fun e => p e.1) x = if p x then PMap.get d m x else d := by
  induction m with
  | nil => simp [PMap.get]
  | cons e m ih =>
    obtain ⟨k, v⟩ := e
    obtain ⟨low, tail⟩ := rising_tail rising
    have ih := ih tail
    have below : x ≤ k → PMap.get d (m.filter fun e => p e.1) x = d ∧ PMap.get d m x = d := fun le =>
      ⟨PMap.get_of_below fun e h => lt_of_le_of_lt le (low e (List.mem_filter.1 h).1), PMap.get_of_below fun e h => lt_of_le_of_lt le (low e h)⟩
    by_cases here : k = x
    · subst here
      cases mine : p k with
      | true =>
        rw [List.filter_cons_of_pos (by simpa using mine)]
        simp [PMap.get]
      | false =>
        rw [List.filter_cons_of_neg (by simp [mine]), (below le_rfl).1]
        rfl
    · cases mine : p k with
      | true =>
        rw [List.filter_cons_of_pos (by simpa using mine), PMap.get, PMap.get, if_neg here, if_neg here]
        by_cases lt : x < k
        · rw [if_pos lt, if_pos lt]
          split_ifs <;> rfl
        · rw [if_neg lt, if_neg lt, ih]
      | false =>
        rw [List.filter_cons_of_neg (by simp [mine]), ih, PMap.get, if_neg here]
        by_cases lt : x < k
        · rw [if_pos lt, (below (le_of_lt lt)).2]
        · rw [if_neg lt]

/-- Every address that a list of pending values names takes its value. -/
theorem reg_commitAll_get {l : PMap W32} (rising : Rising l) (s : State) (a : Nat) : (s.commitAll l).reg a = PMap.get (s.reg a) l a := by
  induction l generalizing s with
  | nil => rfl
  | cons e l ih =>
    obtain ⟨k, v⟩ := e
    obtain ⟨low, tail⟩ := rising_tail rising
    have first : (s.commitAll ((k, v) :: l)).reg a = ((s.commitOne k v).commitAll l).reg a := rfl
    rw [first, ih tail, reg_commitOne, PMap.get]
    by_cases here : a = k
    · subst here
      rw [if_pos rfl, if_pos rfl, PMap.get_of_below low]
    · rw [if_neg here, if_neg (Ne.symm here)]
      split_ifs with lt
      · exact PMap.get_of_below fun e h => lt.trans (low e h)
      · rfl

section
variable (rising : Rising s.staged) (i a : Nat)
include rising

/-- Tables applied: the pending values of the suit's are active. -/
theorem reg_applied_all : (s.applied i).reg a = if copiedBy i a then s.bound a else s.reg a := by
  have filtered : Rising (s.staged.filter fun e => copiedBy i e.1) := rising.filter _
  have same : (s.applied i).reg a = (s.commitAll (s.staged.filter fun e => copiedBy i e.1)).reg a := rfl
  rw [same, reg_commitAll_get filtered, PMap.get_filter _ rising]
  rfl

theorem bound_applied : (s.applied i).bound a = s.bound a := by
  obtain ⟨x, g, e⟩ := applied_eq s i
  have staged : (s.applied i).staged = s.staged.filter fun e => !copiedBy i e.1 := by rw [e]
  unfold State.bound
  rw [staged, reg_applied_all rising, PMap.get_filter _ rising fun b => !copiedBy i b]
  cases mine : copiedBy i a with
  | true => rfl
  | false => rfl
end

/-! ## One bit -/

/-- The word that one bit written gives to the pending copy of a table. -/
def Machine.State.tableWord (s : State) (a i n : Nat) (on : Bool) : W32 :=
  BitVec.ofNat 32 (setBits (PMap.get (s.reg a &&& (if a = Reg.fabCtl i then 0xF else 0xFFFFFFFF)) s.staged a).toNat n 1 (b2n on))

/-- The bit pending, and APPLY of its suit set. -/
def Machine.State.pended (s : State) (a i n : Nat) (on : Bool) : State :=
  ({ s with staged := PMap.put s.staged a (s.tableWord a i n on) } : State).setBit (Reg.fabCtl i) 31

theorem applyBit_eq (s : State) (a i n : Nat) (on : Bool) : s.applyBit a i n on = (s.pended a i n on).copyTables i := rfl

section
variable {a i n : Nat} {on : Bool}

theorem reg_pended {b : Nat} (apart : b ≠ Reg.fabCtl i) : (s.pended a i n on).reg b = s.reg b :=
  State.reg_setField_other _ _ _ _ _ _ apart

theorem bound_pended : (s.pended a i n on).bound a = s.tableWord a i n on := PMap.get_put_same _ _ _ _

theorem bound_pended_other {b : Nat} (other : b ≠ a) (apart : b ≠ Reg.fabCtl i) : (s.pended a i n on).bound b = s.bound b := by
  unfold State.bound
  rw [reg_pended apart]
  exact PMap.get_put_other _ _ _ other

theorem asked_pended (s : State) (a i n : Nat) (on : Bool) : (s.pended a i n on).flag (Reg.fabCtl i) 31 = true :=
  State.flag_setBit _ _ 31 (by decide)

theorem rising_pended (rising : Rising s.staged) : Rising (s.pended a i n on).staged := rising_put _ _ rising

theorem drained_pended (s : State) (a i n : Nat) (on : Bool) (j : Nat) : (s.pended a i n on).drained j = s.drained j := rfl

theorem Tables.bound (same : Tables s t) (b : Nat) (table : TableAddr b) : t.bound b = s.bound b := by
  unfold State.bound
  rw [same.staged, same.reg b table]

theorem Tables.drained (same : Tables s t) (j : Nat) : t.drained j = s.drained j := by
  unfold State.drained
  rw [same.net, same.inbox]

/-- What one bit written to a table does. -/
structure BitApplied (a i n : Nat) (on : Bool) (s t : State) : Prop where
  pending : ∀ m, (a ≠ Reg.fabCtl i ∨ m < 31) → (t.bound a).getLsbD m = (s.tableWord a i n on).getLsbD m
  active : s.drained i = true → ∀ m, (a ≠ Reg.fabCtl i ∨ m < 31) → (t.reg a).getLsbD m = (s.tableWord a i n on).getLsbD m
  other : ∀ b, TableAddr b → b ≠ a → b ≠ Reg.fabCtl i → t.bound b = s.bound b
  outside : ∀ b, TableAddr b → copiedBy i b = false → t.reg b = s.reg b
  rising : Rising t.staged
  drained : ∀ j, t.drained j = s.drained j
  calm : s.colls = [] → t.colls = [] ∧ t.mem = s.mem ∧ t.recov = s.recov

theorem getLsbD_clear_top (w : W32) {m : Nat} (lt : m < 31) : (BitVec.ofNat 32 (setBits w.toNat 31 1 0)).getLsbD m = w.getLsbD m := by
  have word := w.isLt
  rw [BitVec.getLsbD_ofNat, decide_eq_true (lt.trans (by decide)), Bool.true_and, testBit_eq_bits, bits_setBits_other _ _ _ _ _ _ (Or.inl (by omega)),
    ← testBit_eq_bits]
  rfl

theorem bitApplied (rising : Rising s.staged) (mine : copiedBy i a = true) (table : TableAddr a) : BitApplied a i n on s (s.applyBit a i n on) := by
  rw [applyBit_eq]
  have ris := rising_pended (a := a) (i := i) (n := n) (on := on) rising
  cases dry : s.drained i with
  | false =>
    have waits : (s.pended a i n on).copyTables i = s.pended a i n on := by
      unfold State.copyTables
      rw [drained_pended, dry, Bool.and_false]
      rfl
    rw [waits]
    refine ⟨fun m _ => by rw [bound_pended], fun wet => absurd (dry.symm.trans wet) (by decide), fun b _ other apart => bound_pended_other other apart,
      fun b _ out => reg_pended fun e => ?_, ris, fun _ => rfl, fun none => ⟨none, rfl, rfl⟩⟩
    rw [e, copiedBy_fabCtl] at out
    cases out
  | true =>
    rw [copyTables_eq (asked_pended s a i n on) dry]
    have bounds := bound_applied ris i
    have regs := reg_applied_all ris i
    obtain ⟨x, g, eq⟩ := applied_eq (s.pended a i n on) i
    have same := tables_failFenced (((s.pended a i n on).applied i).clearBit (Reg.fabCtl i) 31)
    have staged : (((s.pended a i n on).applied i).clearBit (Reg.fabCtl i) 31).staged =
        (s.pended a i n on).staged.filter fun e => !copiedBy i e.1 := by
      rw [eq]
      rfl
    have cleared : ∀ b, b ≠ Reg.fabCtl i → (((s.pended a i n on).applied i).clearBit (Reg.fabCtl i) 31).reg b = ((s.pended a i n on).applied i).reg b :=
      fun b apart => State.reg_setField_other _ _ _ _ _ _ apart
    have word : ∀ m, (a ≠ Reg.fabCtl i ∨ m < 31) →
        ((((s.pended a i n on).applied i).clearBit (Reg.fabCtl i) 31).reg a).getLsbD m = (s.tableWord a i n on).getLsbD m := by
      intro m low
      have active : ((s.pended a i n on).applied i).reg a = s.tableWord a i n on := by
        rw [regs a, if_pos mine, bound_pended]
      by_cases here : a = Reg.fabCtl i
      · have cleared : (((s.pended a i n on).applied i).clearBit (Reg.fabCtl i) 31).reg a =
            BitVec.ofNat 32 (setBits (((s.pended a i n on).applied i).reg a).toNat 31 1 0) := by
          rw [here]
          exact (State.reg_setReg _ _ _ _).trans (if_pos rfl)
        rw [cleared, getLsbD_clear_top _ (low.resolve_left (not_not_intro here)), active]
      · rw [cleared a here, active]
    refine ⟨fun m low => ?_, fun _ m low => ?_, fun b tab other apart => ?_, fun b tab out => ?_, ?_, fun j => ?_, fun none => ?_⟩
    · rw [same.bound a table]
      unfold State.bound
      rw [staged, PMap.get_filter _ ris fun b => !copiedBy i b, mine]
      exact word m low
    · rw [same.reg a table]
      exact word m low
    · rw [same.bound b tab]
      unfold State.bound
      rw [cleared b apart]
      exact (bounds b).trans (bound_pended_other other apart)
    · have apart : b ≠ Reg.fabCtl i := fun e => by
        rw [e, copiedBy_fabCtl] at out
        cases out
      rw [same.reg b tab, cleared b apart, regs b, out]
      exact reg_pended apart
    · rw [same.staged, staged]
      exact ris.filter _
    · rw [same.drained, eq]
      rfl
    · rw [failFenced_of_no_colls (by rw [eq]; exact none), eq]
      exact ⟨none, rfl, rfl⟩
end

end Sys2Proof
end

section
/-! PROOFS. FENCE and UNFENCE (R360, R509). -/

namespace Sys2Proof

open Machine

variable {s t : State}

/-! ## Bits of the pending copy -/

theorem flag_eq_getLsbD (s : State) (a : Nat) {i : Nat} : s.flag a i = (s.reg a).getLsbD i := by
  unfold State.flag State.field
  rw [BitVec.getLsbD, testBit_eq_bits]
  exact Bool.beq_eq_decide_eq _ _

section
variable {a i n m : Nat} {on : Bool}

theorem tableWord_bit (s : State) (lt : n < 32) : (s.tableWord a i n on).getLsbD n = on := by
  unfold State.tableWord
  rw [BitVec.getLsbD_ofNat, decide_eq_true lt, Bool.true_and, testBit_eq_bits, bits_setBits]
  cases on <;> rfl

theorem tableWord_other (s : State) (apart : a ≠ Reg.fabCtl i) (lt : m < 32) (other : m ≠ n) :
    (s.tableWord a i n on).getLsbD m = (s.bound a).getLsbD m := by
  have word : (s.reg a &&& 0xFFFFFFFF) = s.reg a := BitVec.and_allOnes
  unfold State.tableWord State.bound
  rw [if_neg apart, word, BitVec.getLsbD_ofNat, decide_eq_true lt, Bool.true_and, testBit_eq_bits,
    bits_setBits_other _ _ _ _ _ _ (by omega), ← testBit_eq_bits]
  rfl
end

/-! ## A fence bit -/

/-- The pending fence bit of a hand. -/
def Machine.State.fencePending (s : State) (h : Nat) : Bool := (s.bound (Reg.fence (h / 160) (h % 160 / 32))).getLsbD (h % 32)

/-- A fence bit set or cleared: pending at once, active at once where the suit is drained. -/
structure FenceSet (h : Nat) (on : Bool) (s t : State) : Prop where
  pending : t.fencePending h = on
  active : s.drained (h / 160) = true → t.fenced h = on
  other : ∀ h' < 640, h' ≠ h → t.fencePending h' = s.fencePending h'
  calm : s.colls = [] → t.mem = s.mem ∧ t.recov = s.recov

theorem setFence_sets {h : Nat} {on : Bool} (rising : Rising s.staged) : FenceSet h on s (s.setFence h on) := by
  have low : h % 160 / 32 < 5 := by omega
  have fit : h % 32 < 32 := Nat.mod_lt _ (by decide)
  have apart : Reg.fence (h / 160) (h % 160 / 32) ≠ Reg.fabCtl (h / 160) := by unfold Reg.fence Reg.fabCtl; omega
  obtain ⟨pending, active, other, -, -, -, calm⟩ :=
    bitApplied (a := Reg.fence (h / 160) (h % 160 / 32)) (i := h / 160) (n := h % 32) (on := on) rising (copiedBy_fence low) (tableAddr_fence low)
  refine ⟨(pending _ (.inl apart)).trans (tableWord_bit s fit), fun dry => ?_, fun h' _ ne => ?_, fun none => (calm none).2⟩
  · unfold State.fenced
    rw [flag_eq_getLsbD]
    exact (active dry _ (.inl apart)).trans (tableWord_bit s fit)
  · have low' : h' % 160 / 32 < 5 := by omega
    unfold State.fencePending
    by_cases same : Reg.fence (h' / 160) (h' % 160 / 32) = Reg.fence (h / 160) (h % 160 / 32)
    · rw [same]
      refine (pending _ (.inl apart)).trans (tableWord_other s apart (Nat.mod_lt _ (by decide)) fun e => ne ?_)
      unfold Reg.fence suitBase at same
      omega
    · exact congrArg (fun w : W32 => w.getLsbD (h' % 32)) (other _ (tableAddr_fence low') same (by unfold Reg.fence Reg.fabCtl suitBase; omega))

/-! ## A fold bit -/

/-- A fold bit set or cleared in the tables of some suits, in turn. -/
structure FoldSet (i : Nat) (on : Bool) (l : List Nat) (s t : State) : Prop where
  pending : ∀ j ∈ l, (t.bound (Reg.fabCtl j)).getLsbD i = on
  active : ∀ j ∈ l, s.drained j = true → t.flag (Reg.fabCtl j) i = on
  other : ∀ j ∉ l, t.bound (Reg.fabCtl j) = s.bound (Reg.fabCtl j) ∧ t.reg (Reg.fabCtl j) = s.reg (Reg.fabCtl j)
  drained : ∀ j, t.drained j = s.drained j
  calm : s.colls = [] → t.mem = s.mem ∧ t.recov = s.recov

theorem fabCtl_outside {j k : Nat} (ne : k ≠ j) : copiedBy j (Reg.fabCtl k) = false :=
  copiedBy_outside (by unfold Reg.fence Reg.fabCtl suitBase; omega)

theorem foldBits_set {i : Nat} {on : Bool} (lt : i < 31) (l : List Nat) (each : l.Nodup) (rising : Rising s.staged) :
    FoldSet i on l s (l.foldl (fun (s : State) j => s.applyBit (Reg.fabCtl j) j i on) s) := by
  induction l generalizing s with
  | nil => exact ⟨fun _ m => (by cases m), fun _ m => (by cases m), fun _ _ => ⟨rfl, rfl⟩, fun _ => rfl, fun _ => ⟨rfl, rfl⟩⟩
  | cons k l ih =>
    obtain ⟨out, each⟩ := List.nodup_cons.1 each
    obtain ⟨pending, active, other, outside, ris, drained, calm⟩ :=
      bitApplied (a := Reg.fabCtl k) (i := k) (n := i) (on := on) rising (copiedBy_fabCtl k) (tableAddr_fabCtl k)
    have rest := ih each ris
    have fit : i < 32 := by omega
    have apart : ∀ {j}, j ≠ k → Reg.fabCtl j ≠ Reg.fabCtl k := by
      intro j ne
      unfold Reg.fabCtl suitBase
      omega
    rw [List.foldl_cons]
    refine ⟨fun j m => ?_, fun j m dry => ?_, fun j m => ?_, fun j => (rest.drained j).trans (drained j), fun none => ?_⟩
    · rcases List.mem_cons.1 m with rfl | m
      · rw [(rest.other j out).1]
        exact (pending i (.inr lt)).trans (tableWord_bit s fit)
      · exact rest.pending j m
    · rcases List.mem_cons.1 m with rfl | m
      · rw [flag_eq_getLsbD, (rest.other j out).2]
        exact (active dry i (.inr lt)).trans (tableWord_bit s fit)
      · exact rest.active j m ((drained j).trans dry)
    · obtain ⟨ne, m⟩ := not_or.1 (mt List.mem_cons.2 m)
      obtain ⟨bound, reg⟩ := rest.other j m
      exact ⟨bound.trans (other _ (tableAddr_fabCtl j) (apart ne) (apart ne)), reg.trans (outside _ (tableAddr_fabCtl j) (fabCtl_outside ne))⟩
    · obtain ⟨empty, mem, recov⟩ := calm none
      obtain ⟨mem', recov'⟩ := rest.calm empty
      exact ⟨mem'.trans mem, recov'.trans recov⟩

theorem setFold_sets {i : Nat} {on : Bool} (lt : i < 31) (rising : Rising s.staged) :
    FoldSet i on (suits4.filter fun j => !s.suitDark j) s (s.setFold i on) :=
  foldBits_set lt _ ((by decide : suits4.Nodup).filter _) rising

theorem mem_litSuits {j : Nat} (lt : j < 4) (lit : s.suitDark j = false) : j ∈ suits4.filter fun j => !s.suitDark j := by
  refine List.mem_filter.2 ⟨?_, by rw [lit]; rfl⟩
  unfold suits4
  grind

/-! ## The commands -/

section
variable {f : CmdFrame} {code : Nat} {lenOk : Nat → Bool} {c : Instr} {P : State → Prop}

/-- An accepted command does what its action does on the state whose counter it has used. -/
theorem does_of_used (act : State → State × Nat) (runs : exec c s = .next (s.critical f code lenOk act)) (ok : Accepted s f code lenOk)
    (does : ∀ x, Used s f x → P ((act { s with sec := x }).1.answer code f.counter.toNat (act { s with sec := x }).2)) : Does c s P := by
  obtain ⟨x, used, acts⟩ := accepted_uses ok
  refine ⟨_, runs, ?_⟩
  rw [acts]
  exact does x used

theorem exec_fence (f : CmdFrame) (s : State) : exec (.fence f) s = .next (s.critical f 0x0030 (· == 2) fun s => s.fenceCmd f.body) := rfl
theorem exec_unfence (f : CmdFrame) (s : State) : exec (.unfence f) s = .next (s.critical f 0x0031 (· == 2) fun s => s.unfenceCmd f.body) := rfl

theorem answered_zero (t : State) (code ctr : Nat) :
    (t.answer code ctr 0).staged = t.staged ∧ (∀ a, (t.answer code ctr 0).reg a = t.reg a) ∧ (t.answer code ctr 0).mem = t.mem ∧
      (t.answer code ctr 0).recov = t.recov := by
  rw [answer_zero]
  exact ⟨rfl, fun _ => rfl, rfl, rfl⟩

theorem fencePending_answer (t : State) (code ctr h : Nat) : (t.answer code ctr 0).fencePending h = t.fencePending h := by
  rw [answer_zero]
  rfl

theorem fenced_answer (t : State) (code ctr h : Nat) : (t.answer code ctr 0).fenced h = t.fenced h := by
  rw [answer_zero]
  rfl

section
variable {h i : Nat} (rising : Rising s.staged)

/-- The action has set or cleared a hand's bit, and noted the command with the counter it has used. -/
theorem answers_setFence {x y : Sec} {on : Bool} (used : Used s f x) (kept : y.lastCtr = x.lastCtr) (code : Nat) (rising : Rising s.staged) :
    let t := ({ ({ s with sec := x } : State).setFence h on with sec := y } : State).answer code f.counter.toNat 0
    Answers t f code 0 ∧ FenceSet h on s t ∧ t.sec = y := by
  have set := setFence_sets (s := { s with sec := x }) (h := h) (on := on) rising
  generalize ({ s with sec := x } : State).setFence h on = u at set
  intro t
  obtain ⟨-, -, mem, recov⟩ := answered_zero { u with sec := y } code f.counter.toNat
  refine ⟨answers_answer (kept.trans used.lastCtr), ⟨?_, fun dry => ?_, fun h' lt ne => ?_, fun none => ?_⟩, answer_sec _ _ _ _⟩
  · exact (fencePending_answer _ _ _ _).trans set.pending
  · exact (fenced_answer _ _ _ _).trans (set.active dry)
  · exact (fencePending_answer _ _ _ _).trans (set.other h' lt ne)
  · obtain ⟨mem', recov'⟩ := set.calm none
    exact ⟨mem.trans mem', recov.trans recov'⟩

/-- A command with nothing to change is done. -/
theorem answers_unchanged {x : Sec} (used : Used s f x) (code : Nat) :
    let t := ({ s with sec := x } : State).answer code f.counter.toNat 0
    Answers t f code 0 ∧ t.staged = s.staged ∧ t.sec = x ∧ t.mem = s.mem ∧ t.recov = s.recov ∧ ∀ a, t.reg a = s.reg a := by
  intro t
  obtain ⟨staged, reg, mem, recov⟩ := answered_zero { s with sec := x } code f.counter.toNat
  exact ⟨answers_answer used.lastCtr, staged, answer_sec _ _ _ _, mem, recov, reg⟩

include rising in
theorem fence_hand (ok : Accepted s f 0x0030 fun n => n == 2) (target : fenceTarget (bodyNat f.body 0 2) = some (.inl h)) (free : s.fenced h = false) :
    Does (.fence f) s fun t => Answers t f 0x0030 0 ∧ FenceSet h true s t ∧ t.sec.fencedHands = s.sec.fencedHands ++ [h] := by
  refine does_of_used _ (exec_fence f s) ok fun x used => ?_
  have acts : ({ s with sec := x } : State).fenceCmd f.body =
      ({ ({ s with sec := x } : State).setFence h true with sec := { x with fencedHands := x.fencedHands ++ [h] } }, 0) := by
    have still : ({ s with sec := x } : State).fenced h = false := free
    unfold State.fenceCmd
    rw [target]
    dsimp only
    rw [still]
    rfl
  rw [acts]
  obtain ⟨answers, set, sec⟩ := answers_setFence (h := h) (on := true) (y := { x with fencedHands := x.fencedHands ++ [h] }) used rfl 0x0030 rising
  refine ⟨answers, set, ?_⟩
  rw [sec]
  exact congrArg (· ++ [h]) used.fencedHands

theorem fence_again (ok : Accepted s f 0x0030 fun n => n == 2) (target : fenceTarget (bodyNat f.body 0 2) = some (.inl h)) (fenced : s.fenced h = true) :
    Does (.fence f) s fun t => Answers t f 0x0030 0 ∧ t.staged = s.staged ∧ t.sec.fencedHands = s.sec.fencedHands ∧ t.mem = s.mem ∧
      t.recov = s.recov ∧ ∀ a, t.reg a = s.reg a := by
  refine does_of_used _ (exec_fence f s) ok fun x used => ?_
  have acts : ({ s with sec := x } : State).fenceCmd f.body = ({ s with sec := x }, 0) := by
    unfold State.fenceCmd
    rw [target]
    exact if_pos fenced
  rw [acts]
  obtain ⟨answers, staged, sec, mem, recov, reg⟩ := answers_unchanged used 0x0030
  exact ⟨answers, staged, (congrArg _ sec).trans used.fencedHands, mem, recov, reg⟩

theorem fence_nothing (ok : Accepted s f 0x0030 fun n => n == 2) (target : fenceTarget (bodyNat f.body 0 2) = none) :
    Does (.fence f) s fun t => Answers t f 0x0030 0x30 ∧ t.staged = s.staged ∧ t.sec.fencedHands = s.sec.fencedHands ∧ t.recov = s.recov := by
  refine does_of_used _ (exec_fence f s) ok fun x used => ?_
  have acts : ({ s with sec := x } : State).fenceCmd f.body = ({ s with sec := x }, 0x30) := by
    unfold State.fenceCmd
    rw [target]
  rw [acts]
  refine ⟨answers_answer used.lastCtr, ?_, (congrArg _ (answer_sec _ _ _ _)).trans used.fencedHands, answer_recov _ _ _ _⟩
  unfold State.answer
  dsimp only
  rw [if_neg (by decide)]
  rfl

include rising in
theorem unfence_hand (ok : Accepted s f 0x0031 fun n => n == 2) (target : fenceTarget (bodyNat f.body 0 2) = some (.inl h)) :
    Does (.unfence f) s fun t => Answers t f 0x0031 0 ∧ (s.colls = [] → t.mem = s.mem ∧ t.recov.flight = s.recov.flight) ∧
      (s.sec.fencedHands.contains h = true → t.fencePending h = false ∧ (s.drained (h / 160) = true → t.fenced h = false) ∧ h ∉ t.sec.fencedHands) ∧
      (s.sec.fencedHands.contains h = false → t.staged = s.staged ∧ ∀ a, t.reg a = s.reg a) := by
  refine does_of_used _ (exec_unfence f s) ok fun x used => ?_
  have hands := used.fencedHands
  cases mine : s.sec.fencedHands.contains h with
  | true =>
    have acts : ({ s with sec := x } : State).unfenceCmd f.body =
        ({ ({ s with sec := x } : State).setFence h false with sec := { x with fencedHands := x.fencedHands.filter (· != h) } }, 0) := by
      unfold State.unfenceCmd
      rw [target]
      dsimp only
      rw [hands, mine]
      rfl
    rw [acts]
    obtain ⟨answers, set, sec⟩ :=
      answers_setFence (h := h) (on := false) (y := { x with fencedHands := x.fencedHands.filter (· != h) }) used rfl 0x0031 rising
    refine ⟨answers, fun none => ?_, fun _ => ⟨set.pending, set.active, ?_⟩, fun no => (by cases no)⟩
    · obtain ⟨mem, recov⟩ := set.calm none
      exact ⟨mem, congrArg _ recov⟩
    · rw [sec]
      exact fun m => by simpa using (List.mem_filter.1 m).2
  | false =>
    have acts : ({ s with sec := x } : State).unfenceCmd f.body = ({ s with sec := x }, 0) := by
      unfold State.unfenceCmd
      rw [target]
      dsimp only
      rw [hands, mine]
      rfl
    rw [acts]
    obtain ⟨answers, staged, -, mem, recov, reg⟩ := answers_unchanged used 0x0031
    exact ⟨answers, fun _ => ⟨mem, congrArg _ recov⟩, fun no => (by cases no), fun _ => ⟨staged, reg⟩⟩

/-! ## A suit -/

theorem fenceTarget_suit {e : Nat} (target : fenceTarget e = some (.inr i)) : i < 4 := by
  unfold fenceTarget at target
  split_ifs at target with suit unit manor
  · cases target
    exact bits_lt _ _ 2
  · cases named : epToHand e with
    | none => rw [named] at target; cases target
    | some h => rw [named] at target; cases target

/-- The action has set or cleared a suit's bits, and noted the command and the suits that are out. -/
theorem answers_setFold {x y : Sec} {on : Bool} {o : List Nat} {u : State} (used : Used s f x) (kept : y.lastCtr = x.lastCtr) (code : Nat)
    (set : FoldSet i on (suits4.filter fun j => !s.suitDark j) { s with sec := x } u) :
    let t := ({ u with sec := y, recov := { u.recov with outSuits := o } } : State).answer code f.counter.toNat 0
    Answers t f code 0 ∧ t.sec = y ∧ t.recov.outSuits = o ∧ (s.colls = [] → t.mem = s.mem ∧ t.recov.flight = s.recov.flight) ∧
      ∀ j < 4, s.suitDark j = false → (t.bound (Reg.fabCtl j)).getLsbD i = on ∧ (s.drained j = true → t.flag (Reg.fabCtl j) i = on) := by
  intro t
  have done : t = { ({ u with sec := y, recov := { u.recov with outSuits := o } } : State) with rsp := t.rsp } := by
    have eq : t = _ := answer_zero _ _ _
    rw [eq]
  generalize rsp : t.rsp = r at done
  have answers : Answers t f code 0 := answers_answer (kept.trans used.lastCtr)
  rw [done] at *
  refine ⟨answers, rfl, rfl, fun none => ?_, fun j lt lit => ?_⟩
  · obtain ⟨mem, recov⟩ := set.calm none
    exact ⟨mem, by rw [recov]⟩
  · have m := mem_litSuits lt lit
    exact ⟨set.pending j m, set.active j m⟩

include rising in
theorem fence_suit (ok : Accepted s f 0x0030 fun n => n == 2) (target : fenceTarget (bodyNat f.body 0 2) = some (.inr i)) (up : s.suitUp i = true) :
    Does (.fence f) s fun t => Answers t f 0x0030 0 ∧
      t.suitUp i = false ∧ (∀ j < 4, s.suitDark j = false → (t.bound (Reg.fabCtl j)).getLsbD i = true ∧
        (s.drained j = true → t.flag (Reg.fabCtl j) i = true)) ∧
      t.sec.fencedSuits = s.sec.fencedSuits ++ [i] ∧ t.recov.outSuits = s.recov.outSuits ++ [i] ∧
      (s.colls = [] → t.mem = s.mem ∧ t.recov.flight = s.recov.flight) := by
  refine does_of_used _ (exec_fence f s) ok fun x used => ?_
  have sec := sec_setFold { s with sec := x } i true
  have out := (carries_setFold { s with sec := x } i true).out
  have acts : ({ s with sec := x } : State).fenceCmd f.body =
      ({ ({ s with sec := x } : State).setFold i true with
          sec := { x with fencedSuits := x.fencedSuits ++ [i] },
          recov := { (({ s with sec := x } : State).setFold i true).recov with outSuits := s.recov.outSuits ++ [i] } }, 0) := by
    have still : ({ s with sec := x } : State).suitUp i = true := up
    unfold State.fenceCmd
    rw [target]
    dsimp only
    rw [still, sec, out]
    rfl
  rw [acts]
  obtain ⟨answers, sec, out, calm, bits⟩ :=
    answers_setFold (i := i) (on := true) (y := { x with fencedSuits := x.fencedSuits ++ [i] }) (o := s.recov.outSuits ++ [i]) used rfl 0x0030
      (setFold_sets (s := { s with sec := x }) ((fenceTarget_suit target).trans (by decide)) rising)
  refine ⟨answers, ?_, bits, ?_, out, calm⟩
  · unfold State.suitUp
    rw [out]
    simp
  · rw [sec]
    exact congrArg (· ++ [i]) used.fencedSuits

include rising in
theorem unfence_suit (ok : Accepted s f 0x0031 fun n => n == 2) (target : fenceTarget (bodyNat f.body 0 2) = some (.inr i)) :
    Does (.unfence f) s fun t => Answers t f 0x0031 0 ∧ (s.colls = [] → t.mem = s.mem ∧ t.recov.flight = s.recov.flight) ∧
      (s.sec.fencedSuits.contains i = true → i ∉ t.recov.outSuits ∧ ∀ j < 4, s.suitDark j = false →
        (t.bound (Reg.fabCtl j)).getLsbD i = false ∧ (s.drained j = true → t.flag (Reg.fabCtl j) i = false)) ∧
      (s.sec.fencedSuits.contains i = false → t.recov.outSuits = s.recov.outSuits ∧ t.staged = s.staged) := by
  refine does_of_used _ (exec_unfence f s) ok fun x used => ?_
  have suits := used.fencedSuits
  cases mine : s.sec.fencedSuits.contains i with
  | true =>
    have sec := sec_setFold { s with sec := x } i false
    have out := (carries_setFold { s with sec := x } i false).out
    have acts : ({ s with sec := x } : State).unfenceCmd f.body =
        ({ ({ s with sec := x } : State).setFold i false with
            sec := { x with fencedSuits := x.fencedSuits.filter (· != i) },
            recov := { (({ s with sec := x } : State).setFold i false).recov with outSuits := s.recov.outSuits.filter (· != i) } }, 0) := by
      unfold State.unfenceCmd
      rw [target]
      dsimp only
      rw [suits, mine, sec, out, suits]
      rfl
    rw [acts]
    obtain ⟨answers, -, out, calm, bits⟩ :=
      answers_setFold (i := i) (on := false) (y := { x with fencedSuits := x.fencedSuits.filter (· != i) }) (o := s.recov.outSuits.filter (· != i)) used
        rfl 0x0031 (setFold_sets (s := { s with sec := x }) ((fenceTarget_suit target).trans (by decide)) rising)
    refine ⟨answers, calm, fun _ => ⟨?_, bits⟩, fun no => (by cases no)⟩
    rw [out]
    exact fun m => by simpa using (List.mem_filter.1 m).2
  | false =>
    have acts : ({ s with sec := x } : State).unfenceCmd f.body = ({ s with sec := x }, 0) := by
      unfold State.unfenceCmd
      rw [target]
      dsimp only
      rw [suits, mine]
      rfl
    rw [acts]
    obtain ⟨answers, staged, -, mem, recov, -⟩ := answers_unchanged used 0x0031
    exact ⟨answers, fun _ => ⟨mem, congrArg _ recov⟩, fun no => (by cases no), fun _ => ⟨congrArg _ recov, staged⟩⟩
end
end

end Sys2Proof
end

section
/-! PROOFS. Reads that answer alike, POWER_LIMIT, JOB_START and JOB_STOP (R63 to R65, R444, R507, R510). -/

namespace Sys2Proof

open Machine

variable {s t : State}

/-! ## States that map and hold memory alike -/

/-- Every page translates alike and reads the same bytes. -/
structure ReadsAlike (s t : State) : Prop where
  mem : t.mem = s.mem
  walkAt : ∀ va, t.walkAt va = s.walkAt va
  poisonIn : ∀ pa n, t.poisonIn pa n = s.poisonIn pa n
  capBytes : ∀ i, t.capBytes i = s.capBytes i
  partnerOk : ∀ i, t.partnerOk i = s.partnerOk i

section
variable (alike : ReadsAlike s t)
include alike

theorem ReadsAlike.walk (va : Nat) : t.walk va = s.walk va := by
  unfold State.walk
  rw [alike.walkAt, alike.mem]

theorem ReadsAlike.translate (va : Nat) (a : Acc) : t.translate va a = s.translate va a := by
  have bad : t.walkBad va = s.walkBad va := by
    unfold State.walkBad
    rw [alike.walkAt]
    exact congrArg (fun f => (s.walkAt va).any f) (funext fun a => alike.poisonIn a 8)
  unfold State.translate
  rw [bad, alike.walk]
  cases s.walk va with
  | none => rfl
  | some e =>
    dsimp only
    rw [alike.capBytes, alike.partnerOk]

theorem ReadsAlike.vread (va n : Nat) : t.vread va n = s.vread va n := by
  unfold State.vread
  rw [alike.translate, alike.mem]
  cases s.translate va .read with
  | ok pa p =>
    dsimp only
    rw [alike.poisonIn]
  | fault k p => rfl
  | poison => rfl

theorem ReadsAlike.rd (va n : Nat) : t.rd va n = s.rd va n := by
  unfold State.rd
  rw [alike.vread]

theorem ReadsAlike.accFault (a : Acc) (va : Nat) : t.accFault a va = s.accFault a va := by
  unfold State.accFault
  rw [alike.translate]

theorem ReadsAlike.traceOk (va : Nat) : t.traceOk va = s.traceOk va := by
  have page : t.pageRW = s.pageRW := funext fun a => by
    unfold State.pageRW
    rw [alike.accFault, alike.accFault]
  unfold State.traceOk
  rw [alike.rd, page]

theorem ReadsAlike.rootEntries (va : Nat) (l : List Nat) : t.rootEntries va l = s.rootEntries va l := by
  induction l with
  | nil => rfl
  | cons u l ih =>
    unfold State.rootEntries
    rw [ih, alike.rd]

theorem ReadsAlike.readRoot (va : Nat) : t.readRoot va = s.readRoot va := by
  have trace : t.traceOk = s.traceOk := funext alike.traceOk
  have entries : t.rootEntries = s.rootEntries := funext fun va => funext (alike.rootEntries va)
  unfold State.readRoot
  rw [alike.rd, trace, entries]
end

theorem readsAlike_setSec (s : State) (x : Sec) : ReadsAlike s { s with sec := x } := ⟨rfl, fun _ => rfl, fun _ _ => rfl, fun _ => rfl, fun _ => rfl⟩

/-! ## What a job start sets up -/

theorem PMap.get_of_absent {α : Type} {d : α} {m : PMap α} {x : Nat} (absent : ∀ e ∈ m, e.1 ≠ x) : PMap.get d m x = d := by
  induction m with
  | nil => rfl
  | cons e m ih =>
    obtain ⟨k, v⟩ := e
    rw [PMap.get, if_neg (absent _ List.mem_cons_self), ih fun e h => absent e (List.mem_cons_of_mem _ h)]
    exact ite_self _

theorem get_startRegs (d : W32) (m : PMap W32) {a : Nat} (zero : isStartZero a = true) : PMap.get d (startRegs m) a = d := by
  refine PMap.get_of_absent fun e h here => ?_
  unfold startRegs at h
  obtain ⟨e', h', rfl⟩ := List.mem_map.1 h
  have kept := (List.mem_filter.1 h').2
  rw [show e'.1 = a from here, zero] at kept
  cases kept

theorem resetManor_counters {a : Nat} (low : 0x000D0000 ≤ a) : Reg.resetManor a = 0 := by
  unfold Reg.resetManor Reg.bootStat Reg.cfgCtl Reg.dealerCtl Reg.bellCtl Reg.mgmtStat Reg.pwrLimit
  rw [if_neg, if_neg, if_neg, if_neg, if_neg, if_neg] <;> omega

theorem resetSuit_counters {o : Nat} (low : 0x50000 ≤ o) : Reg.resetSuit o = 0 := by
  unfold Reg.resetSuit
  rw [if_neg, if_neg, if_neg, if_neg, if_neg, if_neg, if_neg] <;> omega

theorem resetHand_counters {q : Nat} (low : 0x208 ≤ q) (apart : q ≠ 0x1000) : Reg.resetHand q = 0 := by
  unfold Reg.resetHand
  rw [if_neg, if_neg, if_neg, if_neg] <;> omega

theorem resetCore_counters {w : Nat} (low : 0x384 ≤ w) : Reg.resetCore w = 0 := by
  unfold Reg.resetCore
  rw [if_neg, if_neg, if_neg, if_neg] <;> omega

/-- What an address reads after reset, by the place it names. -/
def ResetAt (a : Nat) : Loc → Prop
  | .manor b => Reg.reset a = Reg.resetManor b
  | .suit _ o => Reg.reset a = Reg.resetSuit o
  | .hand _ q => Reg.reset a = Reg.resetHand q
  | .core _ w => Reg.reset a = Reg.resetCore w
  | .none => True

theorem resetAt (a : Nat) : ResetAt a (locate a) := by
  by_cases manor : a < 0x10000000
  · rw [show locate a = .manor a from if_pos manor]
    exact if_pos manor
  · obtain ⟨o, ho⟩ : ∃ o, (a - 0x10000000) % 0x08000000 = o := ⟨_, rfl⟩
    obtain ⟨i, hi⟩ : ∃ i, (a - 0x10000000) / 0x08000000 = i := ⟨_, rfl⟩
    have reads : Reg.reset a = (if o < 0x01000000 then Reg.resetSuit o else
        let q := (o - 0x01000000) % 0x40000
        if q < 0x10000 then Reg.resetHand q else Reg.resetCore ((q - 0x10000) % 0x2000)) := by
      unfold Reg.reset
      rw [if_neg manor, ho]
    have place : locate a = (if 0x30000000 ≤ a then .none else if o < 0x01000000 then .suit i o else if 0x03800000 ≤ o then .none else
        let h := i * 160 + (o - 0x01000000) / 0x40000
        let q := (o - 0x01000000) % 0x40000
        if q < 0x10000 then .hand h q
        else if q < 0x32000 then .core (h * 17 + (q - 0x10000) / 0x2000) ((q - 0x10000) % 0x2000)
        else .none) := by
      unfold locate
      rw [if_neg manor, ho, hi]
    obtain ⟨q, hq⟩ : ∃ q, (o - 0x01000000) % 0x40000 = q := ⟨_, rfl⟩
    rw [hq] at reads place
    rw [place]
    split_ifs with high suit gap
    · trivial
    · exact reads.trans (if_pos suit)
    · trivial
    · dsimp only
      split_ifs with hand core
      · exact reads.trans ((if_neg suit).trans (if_pos hand))
      · exact reads.trans ((if_neg suit).trans (if_neg hand))
      · trivial

theorem reset_startZero {a : Nat} (zero : isStartZero a = true) : Reg.reset a = 0 := by
  have reads := resetAt a
  unfold isStartZero at zero
  cases place : locate a with
  | manor b =>
    rw [place] at reads
    simp only [place, Bool.and_eq_true, decide_eq_true_eq] at zero
    exact reads.trans (resetManor_counters zero.1)
  | suit i o =>
    rw [place] at reads
    simp only [place, Bool.or_eq_true, Bool.and_eq_true, decide_eq_true_eq] at zero
    exact reads.trans (resetSuit_counters (by omega))
  | hand h q =>
    rw [place] at reads
    simp only [place, Bool.or_eq_true, Bool.and_eq_true, decide_eq_true_eq, beq_iff_eq] at zero
    exact reads.trans (resetHand_counters (by omega) (by omega))
  | core k w =>
    rw [place] at reads
    simp only [place, Bool.and_eq_true, decide_eq_true_eq] at zero
    exact reads.trans (resetCore_counters zero.1)
  | none =>
    rw [place] at zero
    cases zero

theorem locate_suitBase (i : Nat) {x : Nat} (lt : x < 0x01000000) : locate (suitBase i + x) = .suit i x ∨ locate (suitBase i + x) = .none := by
  have above : ¬ suitBase i + x < 0x10000000 := by unfold suitBase; omega
  have suit : (suitBase i + x - 0x10000000) / 0x08000000 = i := by unfold suitBase; omega
  have off : (suitBase i + x - 0x10000000) % 0x08000000 = x := by unfold suitBase; omega
  unfold locate
  rw [if_neg above]
  split_ifs with high
  · exact .inr rfl
  · left
    dsimp only
    rw [suit, off, if_pos lt]

theorem startZero_ne_granCtl {a : Nat} (zero : isStartZero a = true) (i : Nat) : a ≠ Reg.granCtl i := by
  intro here
  unfold isStartZero at zero
  have place := locate_suitBase i (x := 0x20000) (by decide)
  rw [show suitBase i + 0x20000 = Reg.granCtl i from rfl, ← here] at place
  rcases place with place | place
  · simp [place] at zero
  · rw [place] at zero
    cases zero

/-- A change of the granaries' modes. -/
structure GranModes (s t : State) : Prop where
  rest : ∃ r g p, t = { s with regs := r, cfg := g, staged := p }
  reg : ∀ a, (∀ i, a ≠ Reg.granCtl i) → t.reg a = s.reg a

theorem GranModes.trans {r : State} (x : GranModes r s) (y : GranModes s t) : GranModes r t := by
  obtain ⟨⟨a, b, c, e⟩, reg⟩ := x
  obtain ⟨⟨a', b', c', e'⟩, reg'⟩ := y
  exact ⟨⟨a', b', c', by rw [e', e]⟩, fun a apart => (reg' a apart).trans (reg a apart)⟩

theorem granModes_setGranMode (s : State) (i m : Nat) : GranModes s (s.setGranMode i m) := by
  have set : GranModes s (if s.field (Reg.granCtl i) 16 2 = m then s else (s.setField (Reg.granCtl i) 16 2 m).startGrace (Reg.granCtl i)) := by
    split_ifs
    · exact ⟨⟨_, _, _, rfl⟩, fun _ _ => rfl⟩
    · exact ⟨⟨_, _, _, rfl⟩, fun a apart => State.reg_setField_other _ _ _ _ _ _ (apart i)⟩
  refine set.trans ?_
  unfold State.setGranMode
  dsimp only
  generalize (if s.field (Reg.granCtl i) 16 2 = m then s else (s.setField (Reg.granCtl i) 16 2 m).startGrace (Reg.granCtl i)) = u
  split
  · exact ⟨⟨_, _, _, rfl⟩, fun _ _ => rfl⟩
  · exact ⟨⟨_, _, _, rfl⟩, fun _ _ => rfl⟩

theorem granModes_foldl (l : List Nat) (s : State) : GranModes s (l.foldl (fun (s : State) i => s.setGranMode i 0) s) := by
  induction l generalizing s with
  | nil => exact ⟨⟨_, _, _, rfl⟩, fun _ _ => rfl⟩
  | cons i l ih => exact (granModes_setGranMode s i 0).trans (ih _)

theorem flushRing_empty {v : Nat} (empty : s.ringOf v = []) : s.flushRing v = s := by
  unfold State.flushRing State.drainAll
  rw [empty]
  rfl

theorem ringOf_no_units (hands : s.hands = []) (mills : s.mills = []) (v : Nat) : s.ringOf v = [] := by
  unfold State.ringOf State.hand State.mill
  rw [hands, mills]
  exact ite_self _

theorem flushRings_empty (hands : s.hands = []) (mills : s.mills = []) (l : List Nat) : l.foldl (fun (s : State) v => s.flushRing v) s = s := by
  induction l with
  | nil => rfl
  | cons v l ih => rw [List.foldl_cons, flushRing_empty (ringOf_no_units hands mills v), ih]

/-- With no unit that holds trace records, the end of a deal sets DONE alone. -/
theorem jobDone_empty (hands : s.hands = []) (mills : s.mills = []) : (∃ r, s.jobDone = { s with regs := r }) ∧
    ∀ a, a ≠ Reg.jobStat → s.jobDone.reg a = s.reg a := by
  unfold State.jobDone
  rw [flushRings_empty hands mills]
  split_ifs
  · exact ⟨⟨_, rfl⟩, fun a apart => State.reg_setField_other _ _ _ _ _ _ apart⟩
  · exact ⟨⟨_, rfl⟩, fun _ _ => rfl⟩

/-- The package as a deal finds it, with the deal's own values. -/
structure DealFound (s : State) (j : Job) (t : State) : Prop where
  regs : t.regs = startRegs s.regs
  hands : t.hands = []
  cores : t.cores = []
  mills : t.mills = []
  colls : t.colls = []
  net : t.net = []
  mem : t.mem = s.mem
  job : ∃ p o c n, t.job = { j with run := true, startPending := p, outAt := o, ckptSlots := c, ckptNext := n } ∧ ∀ v ∈ p, v < 648

/-- The package as a job start clears it (R58, R302, R584). -/
def Machine.State.swept (s : State) : State :=
  { s with regs := startRegs s.regs, hands := [], cores := [], mills := [], colls := [], net := [], served := []
           inbox := [], tlb := [], recov := { s.recov with replayed := [], pairs := [] }
           suits := s.suits.map fun (x : Nat × Suit) => if x.2.throttled then x else (x.1, { x.2 with cap := 8, clock := s.gov.fMax }) }

/-- The deal's values in force, start packets on their way (R63). -/
def Machine.State.dealt (s : State) (j : Job) : State :=
  { s.swept with
    job := { j with run := true
                    startPending := (upTo 648).filter fun u => if u < 640 then s.swept.handUp u else s.swept.suitUp ((u - 640) / 2)
                    outAt := suits4.map fun i => (i, (s.swept.suit i).outPcs.length), ckptSlots := s.job.ckptSlots
                    ckptNext := s.job.ckptNext } }

theorem startJob_eq (s : State) (j : Job) (deal : Nat) : s.startJob j deal =
    State.syncMode (State.jobDone (State.setReg
      (let t := (s.dealt j).recov.aware.foldl (fun (s : State) i => s.setGranMode i 0) (s.dealt j)
       { t with recov := { t.recov with aware := [] } }) Reg.jobId (BitVec.ofNat 32 deal))) := rfl

theorem dealt_found (s : State) (j : Job) : DealFound s j (s.dealt j) :=
  ⟨rfl, rfl, rfl, rfl, rfl, rfl, rfl, _, _, _, _, rfl, fun _ m => (mem_upTo _ _).1 (List.mem_filter.1 m).1⟩

/-- What a started deal finds and shows. -/
structure DealStarted (s : State) (j : Job) (deal : Nat) (t : State) : Prop where
  found : ∃ p o c n, t.job = { j with run := true, startPending := p, outAt := o, ckptSlots := c, ckptNext := n } ∧ ∀ v ∈ p, v < 648
  id : t.reg Reg.jobId = BitVec.ofNat 32 deal
  zero : ∀ a, isStartZero a = true → t.reg a = 0
  hands : t.hands = []
  cores : t.cores = []
  net : t.net = []
  colls : t.colls = []
  mem : t.mem = s.mem

theorem startZero_ne {a b : Nat} (zero : isStartZero a = true) (not : isStartZero b = false) : a ≠ b := by
  rintro rfl
  rw [zero] at not
  cases not

theorem syncMode_started {j : Job} {deal : Nat} (started : DealStarted s j deal t) : DealStarted s j deal t.syncMode := by
  obtain ⟨c, e⟩ := syncMode_eq t
  rw [e]
  exact ⟨started.found, started.id, started.zero, started.hands, started.cores, started.net, started.colls, started.mem⟩

theorem jobDone_started {j : Job} {deal : Nat} (started : DealStarted s j deal t) (mills : t.mills = []) : DealStarted s j deal t.jobDone := by
  obtain ⟨⟨r, e⟩, reg⟩ := jobDone_empty started.hands mills
  refine ⟨?_, (reg _ (by decide)).trans started.id, fun a zero => (reg a (startZero_ne zero (by decide))).trans (started.zero a zero), ?_, ?_, ?_, ?_, ?_⟩ <;>
    rw [e]
  exacts [started.found, started.hands, started.cores, started.net, started.colls, started.mem]

theorem startJob_starts (s : State) (j : Job) (deal : Nat) : DealStarted s j deal (s.startJob j deal) := by
  rw [startJob_eq]
  have found := dealt_found s j
  have modes := granModes_foldl (s.dealt j).recov.aware (s.dealt j)
  generalize (s.dealt j).recov.aware.foldl (fun (s : State) i => s.setGranMode i 0) (s.dealt j) = t at modes
  generalize s.dealt j = d at found modes
  obtain ⟨⟨r, g, p, e⟩, reg⟩ := modes
  refine syncMode_started (jobDone_started ⟨?_, ?_, fun a zero => ?_, ?_, ?_, ?_, ?_, ?_⟩ ?_)
  · rw [e]
    exact found.job
  · exact (State.reg_setReg _ _ _ _).trans (if_pos rfl)
  · refine (State.reg_setReg_other _ _ (startZero_ne zero (by decide))).trans ((reg a (startZero_ne_granCtl zero)).trans ?_)
    unfold State.reg
    rw [found.regs, get_startRegs _ _ zero, reset_startZero zero]
  all_goals rw [e]
  exacts [found.hands, found.cores, found.net, found.colls, found.mem, found.mills]

/-! ## The commands -/

section
variable {f : CmdFrame}

theorem demand_seenRoot (s : State) (va : Nat) : Demand s (s.seenRoot va) := by
  unfold State.seenRoot
  dsimp only
  have table : ∀ l : List (Nat × Nat), Demand s (l.foldl (fun (s : State) x => s.seen 658 0 x.1 x.2) s) := fun l =>
    Demand.foldl (fun (s : State) (x : Nat × Nat) => s.seen 658 0 x.1 x.2) (by intro s x; exact demand_seen s 658 0 x.1 x.2) l s
  split
  · exact table _
  · exact (table _).trans (demand_seen _ _ _ _ _)

theorem exec_jobStart (f : CmdFrame) (s : State) : exec (.jobStart f) s = .next (s.critical f 0x0050 (· == 8) fun s => s.jobStart f.body) := rfl
theorem exec_jobStop (f : CmdFrame) (s : State) : exec (.jobStop f) s = .next (s.critical f 0x0051 (· == 1) fun s => s.jobStop f.body) := rfl
theorem exec_powerLimit (f : CmdFrame) (s : State) : exec (.powerLimit f) s = .next (s.critical f 0x0040 (· == 4) fun s => s.powerLimit f.body) := rfl

theorem started_answer {j : Job} {deal code ctr : Nat} (started : DealStarted s j deal t) : DealStarted s j deal (t.answer code ctr 0) := by
  rw [answer_zero]
  exact ⟨started.found, started.id, started.zero, started.hands, started.cores, started.net, started.colls, started.mem⟩

theorem jobStart_starts {j : Job} {deal : Nat} (ok : Accepted s f 0x0050 fun n => n == 8) (root : s.readRoot (bodyNat f.body 0 8) = some (j, deal)) :
    Does (.jobStart f) s fun t => Answers t f 0x0050 0 ∧ DealStarted s j deal t := by
  refine does_of_used _ (exec_jobStart f s) ok fun x used => ?_
  have acts : ({ s with sec := x } : State).jobStart f.body = ((({ s with sec := x } : State).seenRoot (bodyNat f.body 0 8)).startJob j deal, 0) := by
    unfold State.jobStart
    rw [(readsAlike_setSec s x).readRoot, root]
  rw [acts]
  have sec := sec_seenRoot { s with sec := x } (bodyNat f.body 0 8)
  have mem := (demand_seenRoot { s with sec := x } (bodyNat f.body 0 8)).mem
  generalize ({ s with sec := x } : State).seenRoot (bodyNat f.body 0 8) = u at sec mem
  have started := startJob_starts u j deal
  refine ⟨answers_answer ?_, started_answer { started with mem := started.mem.trans mem }⟩
  rw [sec_startJob, sec]
  exact used.lastCtr

theorem jobStart_refused (ok : Accepted s f 0x0050 fun n => n == 8) (root : s.readRoot (bodyNat f.body 0 8) = none) :
    Does (.jobStart f) s fun t => Answers t f 0x0050 0x20 ∧ t.job = s.job ∧ t.mem = s.mem := by
  refine does_of_used _ (exec_jobStart f s) ok fun x used => ?_
  have acts : ({ s with sec := x } : State).jobStart f.body = ({ s with sec := x }, 0x20) := by
    unfold State.jobStart
    rw [(readsAlike_setSec s x).readRoot, root]
  rw [acts]
  exact ⟨answers_answer used.lastCtr, answer_job _ _ _ _, answer_mem _ _ _ _⟩

/-! ### POWER_LIMIT (R510) -/

theorem powerLimit_idle (ok : Accepted s f 0x0040 fun n => n == 4) (idle : s.job.run = false) :
    Does (.powerLimit f) s fun t => Answers t f 0x0040 0 ∧
      t.gov = { fMax := limitOf (bodyNat f.body 0 2) 600 s.cfgFMax, pLimit := limitOf (bodyNat f.body 2 2) 300 s.cfgPLimit, staged := none } ∧
      (∀ x ∈ t.suits, x.2.clock ≤ limitOf (bodyNat f.body 0 2) 600 s.cfgFMax) ∧ t.mem = s.mem ∧ ∀ a, t.reg a = s.reg a := by
  refine does_of_used _ (exec_powerLimit f s) ok fun x used => ?_
  have acts : ({ s with sec := x } : State).powerLimit f.body =
      (({ s with sec := x } : State).setLimits (limitOf (bodyNat f.body 0 2) 600 s.cfgFMax) (limitOf (bodyNat f.body 2 2) 300 s.cfgPLimit), 0) :=
    if_neg (by rw [idle]; decide)
  rw [acts, answer_zero]
  refine ⟨⟨used.lastCtr, _, rfl⟩, rfl, fun e m => ?_, rfl, fun _ => rfl⟩
  obtain ⟨e', -, rfl⟩ := List.mem_map.1 m
  exact min_le_right _ _

theorem powerLimit_staged (ok : Accepted s f 0x0040 fun n => n == 4) (run : s.job.run = true) :
    Does (.powerLimit f) s fun t => Answers t f 0x0040 1 ∧
      t.gov = { s.gov with staged := some (limitOf (bodyNat f.body 0 2) 600 s.cfgFMax, limitOf (bodyNat f.body 2 2) 300 s.cfgPLimit) } ∧
      t.suits = s.suits ∧ t.mem = s.mem ∧ ∀ a, t.reg a = s.reg a := by
  refine does_of_used _ (exec_powerLimit f s) ok fun x used => ?_
  have acts : ({ s with sec := x } : State).powerLimit f.body =
      ({ ({ s with sec := x } : State) with gov := { s.gov with
          staged := some (limitOf (bodyNat f.body 0 2) 600 s.cfgFMax, limitOf (bodyNat f.body 2 2) 300 s.cfgPLimit) } }, 1) :=
    if_pos run
  rw [acts, answer_done (status := 1) _ _ _ (by decide)]
  exact ⟨⟨used.lastCtr, _, rfl⟩, rfl, rfl, rfl, fun _ => rfl⟩

/-! ### JOB_STOP (R444, R507) -/

theorem jobStop_now (ok : Accepted s f 0x0051 fun n => n == 1) (now : bodyNat f.body 0 1 = 0) :
    Does (.jobStop f) s fun t => Answers t f 0x0051 0 ∧ t.job.stopWanted = 1 ∧ t.bell.cuts ≠ [] ∧
      t.field Reg.bellStat 25 4 = 2 ∧ t.mem = s.mem := by
  refine does_of_used _ (exec_jobStop f s) ok fun x used => ?_
  have rung := rung_ring { s with sec := x } 0 0 0 2
  have source := ring_source { s with sec := x } 0 0 0 2
  have sec := sec_ring { s with sec := x } 0 0 0 2
  have acts : ({ s with sec := x } : State).jobStop f.body =
      ({ ({ s with sec := x } : State).ring 0 0 0 2 with job := { (({ s with sec := x } : State).ring 0 0 0 2).job with stopWanted := 1 } }, 0) := by
    unfold State.jobStop
    rw [now]
    rfl
  rw [acts, answer_zero]
  generalize ({ s with sec := x } : State).ring 0 0 0 2 = u at rung source sec
  exact ⟨⟨(congrArg Sec.lastCtr sec).trans used.lastCtr, _, rfl⟩, rfl, rung.cuts, source, rung.mem⟩

theorem jobStop_later (ok : Accepted s f 0x0051 fun n => n == 1) (later : bodyNat f.body 0 1 = 1) :
    Does (.jobStop f) s fun t => Answers t f 0x0051 1 ∧ t.job.stopWanted = 2 ∧ t.job.ckptArmed = true ∧ t.bell = s.bell ∧ t.mem = s.mem := by
  refine does_of_used _ (exec_jobStop f s) ok fun x used => ?_
  have acts : ({ s with sec := x } : State).jobStop f.body =
      ({ ({ s with sec := x } : State) with job := { s.job with stopWanted := 2, ckptArmed := true } }, 1) := by
    unfold State.jobStop
    rw [later]
    rfl
  rw [acts, answer_done (status := 1) _ _ _ (by decide)]
  exact ⟨⟨used.lastCtr, _, rfl⟩, rfl, rfl, rfl, rfl⟩

theorem jobStop_else (ok : Accepted s f 0x0051 fun n => n == 1) (else_ : 2 ≤ bodyNat f.body 0 1) :
    Does (.jobStop f) s fun t => Answers t f 0x0051 0x30 ∧ t.job = s.job ∧ t.bell = s.bell := by
  refine does_of_used _ (exec_jobStop f s) ok fun x used => ?_
  have acts : ({ s with sec := x } : State).jobStop f.body = ({ s with sec := x }, 0x30) := by
    unfold State.jobStop
    split
    · omega
    · omega
    · rfl
  rw [acts]
  refine ⟨answers_answer used.lastCtr, answer_job _ _ _ _, ?_⟩
  unfold State.answer
  dsimp only
  rw [if_neg (by decide)]
  rfl
end

/-- Settles O38. -/
theorem fenceLimitAndJobCommands : Obligations.FenceLimitAndJobCommands := by
  intro f s safe
  obtain ⟨-, -, -, -, rising⟩ := safe
  refine ⟨fun ok => ⟨fence_nothing ok, fun h target free => ?_, fun h target fenced => fence_again ok target fenced, fun i target up => ?_⟩,
    fun ok => ⟨fun h target => ?_, fun i target => unfence_suit rising ok target⟩,
    fun ok => ⟨powerLimit_idle ok, powerLimit_staged ok⟩, fun ok => ⟨fun j deal root => ?_, jobStart_refused ok⟩,
    fun ok => ⟨jobStop_now ok, jobStop_later ok, jobStop_else ok⟩⟩
  · obtain ⟨t, acts, answers, set, noted⟩ := fence_hand rising ok target free
    refine ⟨t, acts, answers, set.pending, set.active, set.other, noted, fun none => ?_⟩
    obtain ⟨mem, recov⟩ := set.calm none
    exact ⟨mem, congrArg _ recov⟩
  · exact fence_suit rising ok target up
  · exact unfence_hand rising ok target
  · obtain ⟨t, acts, answers, started⟩ := jobStart_starts ok root
    obtain ⟨p, o, c, n, job, low⟩ := started.found
    refine ⟨t, acts, answers, ?_⟩
    rw [job]
    refine ⟨rfl, rfl, rfl, rfl, rfl, rfl, rfl, low, started.id, started.zero, fun h => ?_, fun k => ?_, started.net, started.colls, started.mem⟩
    · unfold State.hand
      rw [started.hands]
      rfl
    · unfold State.core
      rw [started.cores]
      rfl

end Sys2Proof
end

section
/-! PROOFS. The commit of a station's record (R77). -/

namespace Sys2Proof

open Machine

variable {s t : State} {st u : Nat} {c : Cmd} {R : Nat → Prop}

/-- A queue lies with its core, its hand or its Mill. -/
theorem queue_of_units (core : t.core u = s.core u) (pivot : (t.hand u).pq = (s.hand u).pq) (xchg : (t.hand u).xq = (s.hand u).xq)
    (mill : (t.mill u).q = (s.mill u).q) : t.queue st u = s.queue st u := by
  unfold State.queue
  rw [core, pivot, xchg, mill]

/-- What a commit does besides the increments may change. -/
structure CommitActs (R : Nat → Prop) (st u : Nat) (s t : State) : Prop where
  queue : t.queue st u = s.queue st u
  frame : Frame R (· = handOf st u) (fun k => st = 2 ∧ k = u) Nothing s t

theorem CommitActs.trans {r : State} (x : CommitActs R st u r s) (y : CommitActs R st u s t) : CommitActs R st u r t :=
  ⟨y.queue.trans x.queue, x.frame.trans y.frame⟩

/-- A change of a hand's own values but its queues. -/
theorem commitActs_setHand (d : Hand) (pivot : d.pq = (s.hand (handOf st u)).pq) (xchg : d.xq = (s.hand (handOf st u)).xq) :
    CommitActs R st u s (s.setHand (handOf st u) d) := by
  refine ⟨queue_of_units rfl ?_ ?_ rfl, frame_setHand_self _ _ _⟩ <;> rw [State.hand_setHand] <;> split_ifs with here
  exacts [by rw [here, pivot], rfl, by rw [here, xchg], rfl]

theorem commitActs_traced (traced : Traced s t)
    (frame : Frame R (· = handOf st u) Nothing Nothing s t) : CommitActs R st u s t := by
  have ring := traced.hand u
  refine ⟨queue_of_units (frame.core _ id) ?_ ?_ ?_, frame.mono (fun _ => id) (fun _ => id) (fun _ => False.elim) (fun _ => id)⟩
  · rw [show t.hand u = _ from ring]
  · rw [show t.hand u = _ from ring]
  · rw [show t.mill u = _ from traced.mill u]

section
variable (hand : handOf st u = u) (lost : R (Reg.handLost u))
include hand lost

theorem commitActs_pivotReport (s : State) (code status : Nat) (c : Cmd) : CommitActs R st u s (s.pivotReport u code status c) := by
  unfold State.pivotReport
  split
  · exact ⟨rfl, .refl s⟩
  · unfold State.postHand
    dsimp only
    have traced : ∀ x, CommitActs R st u s (s.traceHand u x) := fun x =>
      commitActs_traced (traced_traceHand s u x) (frame_traceHand s u x hand.symm lost)
    exact (traced _).trans ⟨rfl, frame_post _ _ _ _ _ _⟩

theorem commitActs_pivotCommit (s : State) (c : Cmd) : CommitActs R st u s (s.pivotCommit u c) := by
  unfold State.pivotCommit
  extract_lets r d ended e
  have reported : CommitActs R st u s r := (commitActs_pivotReport hand lost s 0x10 3 c).trans (commitActs_pivotReport hand lost _ 0x0D 5 c)
  have same : e.pq = (r.hand u).pq ∧ e.xq = (r.hand u).xq := by
    unfold e
    split_ifs <;> exact ⟨rfl, rfl⟩
  clear_value e r
  have acts := commitActs_setHand (R := R) (s := r) (st := st) (u := u) { e with probs := [], turn := 0, frames := [] }
  rw [hand] at acts
  exact reported.trans (acts same.1 same.2)

omit lost in
theorem commitActs_countColl (s : State) : CommitActs R st u s (s.setHand u ((s.hand u).countColl)) := by
  have acts := commitActs_setHand (R := R) (s := s) (st := st) (u := u) ((s.hand u).countColl)
  rw [hand] at acts
  exact acts rfl rfl
end

/-- What a station's commit does besides the increments: a group handed over, a solve reported, a collective counted. -/
def Machine.State.commitActs (s : State) (st u : Nat) (c : Cmd) : State :=
  if st = 2 then s.setCore u ((s.core u).handOver c.r)
  else if st = 6 then s.pivotCommit (handOf st u) c
  else if st = 7 ∧ c.skip = false then s.setHand (handOf st u) ((s.hand (handOf st u)).countColl)
  else s

theorem queue_handOver (s : State) (u : Nat) (r : BitVec 512) (st v : Nat) : (s.setCore u ((s.core u).handOver r)).queue st v = s.queue st v := by
  refine queue_setCore _ ?_ st v
  unfold Core.handOver
  split_ifs
  · exact ⟨rfl, rfl, rfl, rfl, rfl⟩
  · split <;> exact ⟨rfl, rfl, rfl, rfl, rfl⟩

theorem commitActs_acts (lost : R (Reg.handLost (handOf st u))) (s : State) (c : Cmd) : CommitActs R st u s (s.commitActs st u c) := by
  unfold State.commitActs
  split_ifs with cube pivot xchg
  · exact ⟨queue_handOver s u _ st u, frame_setCore s u _ ⟨cube, rfl⟩⟩
  · have hand : handOf st u = u := by rw [pivot]; rfl
    rw [hand]
    exact commitActs_pivotCommit hand (by rw [← hand]; exact lost) s c
  · have hand : handOf st u = u := by rw [xchg.1]; rfl
    rw [hand]
    exact commitActs_countColl hand s
  · exact ⟨rfl, .refl s⟩

/-- The record's increments, and its END (R77, R556). -/
def Machine.State.commitEnds (s : State) (st u : Nat) (c : Cmd) (count : Nat) : State :=
  let s3 := (s.applyIncs (handOf st u) c.r).traceEnd st u c.r c.aux count c.starve
  if c.cleared then s3.spend else s3

/-- The state in which the commit ends but for the hang watch. -/
def Machine.State.commitRuns (s : State) (st u : Nat) (c : Cmd) : State :=
  ((s.setQueue st u ((s.queue st u).drop 1)).commitActs st u c).commitEnds st u c (s.countOfEnd st c)

/-- The hang watch starts anew. -/
def Machine.State.watched (s : State) (h : Nat) (det : Bool) : State :=
  s.setHand h { s.hand h with lastCommit := s.now h, detLeft := if det then (s.hand h).detLeft - 1 else (s.hand h).detLeft }

theorem commitHead_eq (s : State) (st u : Nat) (c : Cmd) : s.commitHead st u c = (s.commitRuns st u c).watched (handOf st u) c.det := by
  have acts : ∀ r : State, (let h := handOf st u
      let s2 := if st = 2 then r.setCore u ((r.core u).handOver c.r) else r
      let s2 := if st = 6 then s2.pivotCommit h c else s2
      if st = 7 ∧ !c.skip then s2.setHand h ((s2.hand h).countColl) else s2) = r.commitActs st u c := by
    intro r
    unfold State.commitActs
    dsimp only
    by_cases cube : st = 2
    · rw [if_pos cube, if_pos cube, if_neg (by omega), if_neg (by omega)]
    · by_cases pivot : st = 6
      · rw [if_neg cube, if_neg cube, if_pos pivot, if_pos pivot, if_neg (by omega)]
      · simp only [if_neg cube, if_neg pivot, Bool.not_eq_true']
  unfold State.commitRuns
  rw [← acts]
  rfl

theorem commitActs_commitEnds (evcs : ∀ n < 64, R (Reg.evc (handOf st u) n)) (lost : R (Reg.handLost (handOf st u))) (station : st ≠ 8) (s : State)
    (c : Cmd) (n : Nat) : CommitActs R st u s (s.commitEnds st u c n) := by
  have incs : CommitActs R st u s (s.applyIncs (handOf st u) c.r) := by
    have frame : ∀ {H C M : Nat → Prop}, Frame (fun _ => True) H C M s (s.applyIncs (handOf st u) c.r) := fun {H C M} =>
      frame_applyIncs s _ _ fun _ _ => trivial
    have hand : (s.applyIncs (handOf st u) c.r).hand u = s.hand u := (frame (H := Nothing) (C := Nothing) (M := Nothing)).hand u id
    exact ⟨queue_of_units ((frame (H := Nothing) (C := Nothing) (M := Nothing)).core u id) (by rw [hand]) (by rw [hand])
      (by rw [(frame (H := Nothing) (C := Nothing) (M := Nothing)).mill u id]), frame_applyIncs s _ _ evcs⟩
  have ended := incs.trans (commitActs_traced (traced_traceEnd (s.applyIncs (handOf st u) c.r) st u c.r c.aux n c.starve)
    (frame_traceEnd _ st u c.r c.aux n c.starve (fun _ => rfl) (fun _ => lost) fun e => absurd e station))
  unfold State.commitEnds
  dsimp only
  split_ifs
  · exact ended.trans ⟨rfl, frame_spend _⟩
  · exact ended

theorem evc_commitEnds (station : st ≠ 8) (s : State) (c : Cmd) (k : Nat) {n : Nat} (lt : n < 64) :
    (s.commitEnds st u c k).evc (handOf st u) n = s.evc (handOf st u) n + incsOf c.r n := by
  have ended : Frame (· = Reg.handLost (handOf st u)) (· = handOf st u) Nothing Nothing (s.applyIncs (handOf st u) c.r)
      ((s.applyIncs (handOf st u) c.r).traceEnd st u c.r c.aux k c.starve) :=
    frame_traceEnd _ st u c.r c.aux k c.starve (fun _ => rfl) (fun _ => rfl) fun e => absurd e station
  have same : (s.commitEnds st u c k).evc (handOf st u) n = (s.applyIncs (handOf st u) c.r).evc (handOf st u) n := by
    unfold State.commitEnds
    dsimp only
    split_ifs <;> exact ended.reg _ (evc_ne_handLost lt)
  rw [same, State.evc_applyIncs]

theorem core_commitEnds (station : st ≠ 8) (s : State) (c : Cmd) (k : Nat) : (s.commitEnds st u c k).core u = s.core u := by
  have incs : Frame (fun _ => True) Nothing Nothing Nothing s (s.applyIncs (handOf st u) c.r) := frame_applyIncs s _ _ fun _ _ => trivial
  have ended : Frame (fun _ => True) (· = handOf st u) Nothing Nothing (s.applyIncs (handOf st u) c.r)
      ((s.applyIncs (handOf st u) c.r).traceEnd st u c.r c.aux k c.starve) :=
    frame_traceEnd _ st u c.r c.aux k c.starve (fun _ => rfl) (fun _ => trivial) fun e => absurd e station
  unfold State.commitEnds
  dsimp only
  split_ifs <;> exact (ended.core u id).trans (incs.core u id)

theorem evc_commitActs (s : State) (c : Cmd) {n : Nat} (lt : n < 64) : (s.commitActs st u c).evc (handOf st u) n = s.evc (handOf st u) n :=
  (commitActs_acts (R := (· = Reg.handLost (handOf st u))) rfl s c).frame.reg _ (evc_ne_handLost lt)

theorem Frame.now {H C M : Nat → Prop} (frame : Frame R H C M s t) (h : Nat) : t.now h = s.now h := by
  obtain ⟨-, part, time, -⟩ := frame.rest
  unfold State.now
  rw [part, time]

/-- What the commit of a station's record does. -/
structure HeadCommits (st u : Nat) (c : Cmd) (q : List Cmd) (s t : State) : Prop where
  evc : ∀ n < 64, t.evc (handOf st u) n = s.evc (handOf st u) n + incsOf c.r n
  queue : t.queue st u = q
  watch : (t.hand (handOf st u)).lastCommit = s.now (handOf st u)
  handed : st = 2 → bit (Record.arg c.r) 29 = false → (t.core u).handed = (s.core u).handed ++ (s.core u).closing.take 1
  frame : Frame (CommitRegs (handOf st u)) (· = handOf st u) (fun k => st ≤ 5 ∧ k = u) Nothing s t

theorem handed_handOver {o : Core} {r : BitVec 512} (closes : bit (Record.arg r) 29 = false) :
    (o.handOver r).handed = o.handed ++ o.closing.take 1 := by
  unfold Core.handOver
  rw [if_neg (by rw [closes]; decide)]
  split
  · next none => rw [none]; simp
  · next g gs e => rw [e]; rfl

theorem headCommits_commitHead {q : List Cmd} (lo : 1 ≤ st) (hi : st ≤ 7) (at_ : s.queue st u = c :: q) :
    HeadCommits st u c q s (s.commitHead st u c) := by
  have station : st ≠ 8 := by omega
  rw [commitHead_eq]
  have evcs : ∀ n < 64, CommitRegs (handOf st u) (Reg.evc (handOf st u) n) := fun n lt => .inl ⟨n, lt, rfl⟩
  have popped : Frame (CommitRegs (handOf st u)) (· = handOf st u) (fun k => st ≤ 5 ∧ k = u) Nothing s (s.setQueue st u ((s.queue st u).drop 1)) :=
    frame_setQueue s st u _ (by rintro (e | e) <;> rw [e] <;> rfl) (fun _ le => ⟨le, rfl⟩) fun e => absurd e station
  have acts := commitActs_acts (R := CommitRegs (handOf st u)) (.inr rfl) (s.setQueue st u ((s.queue st u).drop 1)) c
  have ends := commitActs_commitEnds (R := CommitRegs (handOf st u)) evcs (.inr rfl) station
    ((s.setQueue st u ((s.queue st u).drop 1)).commitActs st u c) c (s.countOfEnd st c)
  have runs : CommitActs (CommitRegs (handOf st u)) st u (s.setQueue st u ((s.queue st u).drop 1)) (s.commitRuns st u c) := acts.trans ends
  have all := runs.trans (commitActs_setHand (s := s.commitRuns st u c) { (s.commitRuns st u c).hand (handOf st u) with
    lastCommit := (s.commitRuns st u c).now (handOf st u)
    detLeft := if c.det then ((s.commitRuns st u c).hand (handOf st u)).detLeft - 1 else ((s.commitRuns st u c).hand (handOf st u)).detLeft } rfl rfl)
  have widen : Frame (CommitRegs (handOf st u)) (· = handOf st u) (fun k => st ≤ 5 ∧ k = u) Nothing (s.setQueue st u ((s.queue st u).drop 1))
      (s.commitRuns st u c) := runs.frame.mono (fun _ => id) (fun _ => id) (fun k x => ⟨by omega, x.2⟩) (fun _ => id)
  have framed := popped.trans widen
  refine ⟨fun n lt => ?_, ?_, ?_, fun cube closes => ?_, framed.trans (frame_setHand_self _ _ _)⟩
  · have first : (s.setQueue st u ((s.queue st u).drop 1)).evc (handOf st u) n = s.evc (handOf st u) n :=
      (frame_setQueue (R := Nothing) (H := fun _ => True) (C := fun _ => True) (M := fun _ => True) s st u _ (fun _ => trivial) (fun _ _ => trivial)
        fun _ => trivial).reg _ id
    exact (evc_commitEnds station _ c _ lt).trans (by rw [evc_commitActs _ c lt, first])
  · exact all.queue.trans ((queue_setQueue_same _ lo (by omega) u _).trans (by rw [at_]; rfl))
  · have watch : ((s.commitRuns st u c).watched (handOf st u) c.det).hand (handOf st u) = _ := State.hand_setHand ..
    rw [watch, if_pos rfl]
    exact framed.now _
  · have same : ((s.commitRuns st u c).watched (handOf st u) c.det).core u = ((s.setQueue st u ((s.queue st u).drop 1)).commitActs st u c).core u :=
      core_commitEnds station _ _ _
    rw [same]
    unfold State.commitActs
    rw [if_pos cube, State.core_setCore, if_pos rfl, handed_handOver closes, cube, State.setQueue, State.core_setCore, if_pos rfl]

/-- A station of a hand commits the complete record at the head of its queue. -/
theorem commandCommit_station {ep : BitVec 16} {station : BitVec 4} {b : Bool} {q : List Cmd} (lo : 1 ≤ station.toNat) (hi : station.toNat ≤ 7)
    (unit : stationUnit ep.toNat station.toNat = some u) (at_ : s.queue station.toNat u = c :: q) (done : c.complete = true) (acks : c.acks = 0)
    (runs : s.handStopped (handOf station.toNat u) = false) :
    exec (.commandCommit ep station b) s = .next (s.commitHead station.toNat u c) := by
  show execCommandCommit ep station b s = _
  unfold execCommandCommit
  rw [unit]
  dsimp only
  rw [at_]
  dsimp only
  rw [if_neg (by simp [done, acks]), if_neg (by omega), if_neg (by rw [runs]; decide)]

/-! ## A Mill's record -/

/-- The commit of a Mill's record but for its telemetry. -/
def Machine.State.millPops (s : State) (m : Nat) (c : Cmd) (count : Nat) : State :=
  let s1 := (s.millIncs m c.r).traceEnd 8 m c.r 0 count 0
  let s1 := if c.cleared then s1.spend else s1
  s1.setMill m { s1.mill m with q := (s1.mill m).q.drop 1, lastCommit := s1.now (640 + m) }

structure MillHead (m : Nat) (c : Cmd) (s t : State) : Prop where
  queue : (t.mill m).q = (s.mill m).q.drop 1
  watch : (t.mill m).lastCommit = s.now (640 + m)
  evc : ∀ n < 64, t.millEvc m n = s.millEvc m n + incsOf c.r n
  quiet : Quiet s t
  frame : Frame (MillEvcs m) Nothing Nothing (· = m) s t

theorem millHead_millPops (s : State) (m : Nat) (c : Cmd) (count : Nat) : MillHead m c s (s.millPops m c count) := by
  have incs : Frame (MillEvcs m) Nothing Nothing Nothing s (s.millIncs m c.r) := frame_millIncs s m c.r fun n lt => ⟨n, lt, rfl⟩
  have ended : Frame Nothing Nothing Nothing (· = m) (s.millIncs m c.r) ((s.millIncs m c.r).traceEnd 8 m c.r 0 count 0) :=
    frame_traceEnd _ 8 m c.r 0 count 0 (fun n => absurd rfl n) (fun n => absurd rfl n) fun _ => rfl
  have traced := traced_traceEnd (s.millIncs m c.r) 8 m c.r 0 count 0
  have ring : (s.mill m).RingOnly (((s.millIncs m c.r).traceEnd 8 m c.r 0 count 0).mill m) := by
    rw [← incs.mill m id]
    exact traced.mill m
  have queue : (((s.millIncs m c.r).traceEnd 8 m c.r 0 count 0).mill m).q = (s.mill m).q := by rw [show _ = _ from ring]
  have evc : ∀ n < 64, ((s.millIncs m c.r).traceEnd 8 m c.r 0 count 0).millEvc m n = s.millEvc m n + incsOf c.r n := fun n _ =>
    (ended.reg _ id).trans (State.millEvc_millIncs s m c.r n)
  have quiet := (quiet_millIncs s m c.r).trans traced.quiet
  have framed : Frame (MillEvcs m) Nothing Nothing (· = m) s ((s.millIncs m c.r).traceEnd 8 m c.r 0 count 0) :=
    (incs.mono (fun _ => id) (fun _ => id) (fun _ => id) (fun _ => False.elim)).trans
      (ended.mono (fun _ => False.elim) (fun _ => id) (fun _ => id) (fun _ => id))
  unfold State.millPops
  dsimp only
  generalize (s.millIncs m c.r).traceEnd 8 m c.r 0 count 0 = r at queue evc quiet framed
  have spent : ∀ r' : State, r' = r ∨ r' = r.spend → MillHead m c s
      (r'.setMill m { r'.mill m with q := (r'.mill m).q.drop 1, lastCommit := r'.now (640 + m) }) := by
    rintro r' (rfl | rfl)
    · refine ⟨?_, ?_, evc, quiet, framed.trans (frame_setMill_self _ _ _)⟩ <;> rw [State.mill_setMill, if_pos rfl]
      · exact congrArg (List.drop 1) queue
      · exact framed.now _
    · refine ⟨?_, ?_, evc, quiet, (framed.trans (frame_spend r)).trans (frame_setMill_self _ _ _)⟩ <;> rw [State.mill_setMill, if_pos rfl]
      · exact congrArg (List.drop 1) queue
      · exact framed.now _
  refine spent _ ?_
  split_ifs
  · exact .inr rfl
  · exact .inl rfl

section
variable {m : Nat} {b : Bool}

/-- What the addition of an UPDATE's sums may change besides bytes of HBM. -/
def TeleRegs (m a : Nat) : Prop := a = Reg.millStat m ∨ ∃ j, a = Reg.atomics j ∨ a = Reg.atomics j + 4

structure TeleAdds (m : Nat) (s t : State) : Prop where
  frame : MemFrame (TeleRegs m) Nothing Nothing Nothing s t
  calm : Calm s t

theorem TeleAdds.trans {r : State} (x : TeleAdds m r s) (y : TeleAdds m s t) : TeleAdds m r t := ⟨x.frame.trans y.frame, x.calm.trans y.calm⟩

theorem teleAdds_setReg (s : State) {a : Nat} (v : W32) (mine : TeleRegs m a) : TeleAdds m s (s.setReg a v) :=
  ⟨(frame_setReg s a v mine).mem_frame, rfl, rfl, [], by simp⟩

theorem teleAdds_storeHome (s : State) (tid pa : Nat) (pcopy : Bool) (n v : Nat) : TeleAdds m s (s.storeHome tid pa pcopy n v) := by
  have stored : ∀ (s : State) (pa : Nat), TeleAdds m s (s.storePa tid pa n v) := fun s pa =>
    ⟨(memFrame_storePa s tid pa n v).1, (memFrame_storePa (R := Nothing) (H := Nothing) (C := Nothing) (M := Nothing) s tid pa n v).2⟩
  unfold State.storeHome
  dsimp only
  split_ifs
  · exact (stored s pa).trans (stored _ _)
  · exact stored s pa

theorem teleAdds_teleAdd {va v : Nat} (adds : s.teleAdd m va v = .ok t) : TeleAdds m s t := by
  unfold State.teleAdd at adds
  split at adds
  · cases adds
  · cases adds
  · next pa pc _ =>
    dsimp only at adds
    split_ifs at adds with bad
    obtain rfl := Except.ok.inj adds
    have met : Demand s (s.atHome (640 + m) 0 va pa 8) := (demand_walkLines s _ _).trans (demand_readLine _ _ _ _ _)
    have stored := teleAdds_storeHome (m := m) (s.atHome (640 + m) 0 va pa 8) 0 pa pc 8 (atomicFp 0 0 (Memory.read s.mem pa 8) v).1
    refine TeleAdds.trans ⟨met.mem_frame, met.calm⟩ (TeleAdds.trans stored ?_)
    exact (teleAdds_setReg _ _ (.inl rfl)).trans ((teleAdds_setReg _ _ (.inr ⟨_, .inl rfl⟩)).trans (teleAdds_setReg _ _ (.inr ⟨_, .inr rfl⟩)))

theorem teleAdds_telemetry (adds : s.telemetry m c = .ok t) : TeleAdds m s t := by
  unfold State.telemetry at adds
  dsimp only at adds
  split_ifs at adds
  · obtain rfl := Except.ok.inj adds
    exact teleAdds_setReg s _ (.inl rfl)
  · split at adds
    · cases adds
    · next first =>
      split at adds
      · cases adds
      · next second => exact (teleAdds_teleAdd first).trans ((teleAdds_teleAdd second).trans (teleAdds_teleAdd adds))

theorem TeleAdds.evc (adds : TeleAdds m s t) {n : Nat} (lt : n < 64) : t.millEvc m n = s.millEvc m n := by
  refine adds.frame.reg _ ?_ (not_granReg_millEvc lt)
  unfold TeleRegs Reg.millEvc Reg.millStat Reg.atomics millBase suitBase
  rintro (e | ⟨j, e | e⟩) <;> omega

theorem TeleAdds.now (adds : TeleAdds m s t) (h : Nat) : t.now h = s.now h := by
  obtain ⟨-, part, time, -⟩ := adds.frame.rest
  unfold State.now
  rw [part, time]

theorem MillHead.after {r : State} (adds : TeleAdds m r s) (head : MillHead m c s t) : (t.mill m).q = (r.mill m).q.drop 1 ∧
    (t.mill m).lastCommit = r.now (640 + m) ∧ (∀ n < 64, t.millEvc m n = r.millEvc m n + incsOf c.r n) ∧ t.mem = s.mem := by
  have mill := adds.frame.mill m id
  exact ⟨by rw [head.queue, mill], head.watch.trans (adds.now _), fun n lt => by rw [head.evc n lt, adds.evc lt], head.frame.mem⟩

/-- BOUND is met: the Mill stops and its reeve is told (R276). -/
def Machine.State.boundStops (s : State) (m : Nat) (c : Cmd) (diverged : Bool) : State :=
  let s4 := ((s.setMill m { s.mill m with halted := true }).setBit (Reg.millStat m) 26).note (.bound m (Record.layer c.r) c.va)
  if diverged then s4.reeveStop else s4

theorem commandCommit_mill {ep : BitVec 16} {q : List Cmd} (unit : epToMill ep.toNat = some m) (at_ : (s.mill m).q = c :: q)
    (done : c.complete = true) (acks : c.acks = 0) (whole : (s.mill m).broken = false) (runs : s.millStopped m = false) :
    exec (.commandCommit ep 8 b) s = .next (s.millHeadCommit m b c) := by
  have queue : s.queue 8 m = c :: q := at_
  have station : stationUnit ep.toNat (8 : BitVec 4).toNat = some m := unit
  show execCommandCommit ep 8 b s = _
  unfold execCommandCommit
  rw [station]
  dsimp only
  rw [show s.queue (8 : BitVec 4).toNat m = c :: q from at_]
  dsimp only
  rw [if_neg (by simp [done, acks]), if_pos (by rfl), if_neg (by simp [whole, runs])]

theorem millHeadCommit_other (op : Record.opcode c.r ≠ 1) : s.millHeadCommit m b c = s.millPops m c (s.countOfEnd 8 c) := if_neg op

theorem millHeadCommit_update {r : State} (op : Record.opcode c.r = 1) (adds : s.telemetry m c = .ok r) :
    s.millHeadCommit m b c =
      if boundHit c then (r.millPops m c (r.countOfEnd 8 c)).boundStops m c b else r.millPops m c (r.countOfEnd 8 c) := by
  unfold State.millHeadCommit
  dsimp only
  rw [if_pos op, adds]
  rfl

theorem boundStops_stops (s : State) (m : Nat) (c : Cmd) (b : Bool) :
    ((s.boundStops m c b).mill m) = { s.mill m with halted := true } ∧ (∀ n < 64, (s.boundStops m c b).millEvc m n = s.millEvc m n) ∧
      (s.boundStops m c b).mem = s.mem ∧ (s.boundStops m c b).flag (Reg.millStat m) 26 = true ∧
      Notice.bound m (Record.layer c.r) c.va ∈ (s.boundStops m c b).recov.notices ∧ (b = true → (s.boundStops m c b).bell.cuts ≠ []) := by
  have set : (((s.setMill m { s.mill m with halted := true }).setBit (Reg.millStat m) 26).note (.bound m (Record.layer c.r) c.va)).flag
      (Reg.millStat m) 26 = true := State.flag_setBit _ _ 26 (by decide)
  have mill : (((s.setMill m { s.mill m with halted := true }).setBit (Reg.millStat m) 26).note (.bound m (Record.layer c.r) c.va)).mill m =
      { s.mill m with halted := true } := (State.mill_setMill ..).trans (if_pos rfl)
  have noted : Notice.bound m (Record.layer c.r) c.va ∈
      (((s.setMill m { s.mill m with halted := true }).setBit (Reg.millStat m) 26).note (.bound m (Record.layer c.r) c.va)).recov.notices :=
    List.mem_append_right _ (List.mem_singleton_self _)
  have evc : ∀ n < 64, (((s.setMill m { s.mill m with halted := true }).setBit (Reg.millStat m) 26).note (.bound m (Record.layer c.r) c.va)).millEvc m n =
      s.millEvc m n := fun n _ => State.reg_setField_other _ _ _ _ _ _ (by unfold Reg.millEvc Reg.millStat; omega)
  have mem : (((s.setMill m { s.mill m with halted := true }).setBit (Reg.millStat m) 26).note (.bound m (Record.layer c.r) c.va)).mem = s.mem := rfl
  unfold State.boundStops
  dsimp only
  generalize ((s.setMill m { s.mill m with halted := true }).setBit (Reg.millStat m) 26).note (.bound m (Record.layer c.r) c.va) = r at *
  cases b with
  | false => exact ⟨mill, evc, mem, set, noted, fun no => by cases no⟩
  | true =>
    refine ⟨?_, fun n lt => ?_, ?_, ?_, ?_, fun _ => cuts_reeveStop r⟩
    · obtain ⟨x, y, z, j, e, -⟩ := reeveStop_rung r
      rw [if_pos rfl, e]
      exact mill
    · exact (reg_reeveStop r (by unfold Reg.millEvc millBase suitBase Reg.bellStat; omega)).trans (evc n lt)
    · exact (State.mem_reeveStop r).trans mem
    · exact (State.flag_congr (reg_reeveStop r (by unfold Reg.millStat millBase suitBase Reg.bellStat; omega)) 26).trans set
    · rw [if_pos rfl, State.recov_reeveStop]
      exact noted
end

/-- Settles O15. -/
theorem commandCommits : Obligations.CommandCommits := by
  refine ⟨fun ep st b s u c q lo hi unit at_ done acks runs => ?_, fun ep b s m c q unit at_ done acks whole runs => ?_⟩
  · obtain ⟨evc, queue, watch, handed, frame⟩ := headCommits_commitHead lo hi at_
    exact ⟨_, commandCommit_station lo hi unit at_ done acks runs, evc, queue, watch, handed, frame⟩
  · have acts := commandCommit_mill (b := b) unit at_ done acks whole runs
    refine ⟨fun op => ⟨_, acts, ?_⟩, fun s1 op adds calm => ⟨_, acts, ?_⟩, fun s1 op adds hit => ⟨_, acts, ?_⟩⟩
    · rw [millHeadCommit_other op]
      obtain ⟨queue, watch, evc, quiet, frame⟩ := millHead_millPops s m c (s.countOfEnd 8 c)
      exact ⟨⟨by rw [queue, at_]; rfl, watch, evc, frame.mem⟩, quiet, frame⟩
    · have told := teleAdds_telemetry adds
      have head := millHead_millPops s1 m c (s1.countOfEnd 8 c)
      obtain ⟨queue, watch, evc, mem⟩ := head.after told
      rw [millHeadCommit_update op adds, if_neg (by rw [calm]; decide)]
      refine ⟨⟨by rw [queue, at_]; rfl, watch, evc, mem⟩, told.calm.trans head.quiet.calm, MemFrame.trans (t := s1) ?_ ?_⟩
      · exact { told.frame with
          reg := fun a out => told.frame.reg a fun tele => out (.inr tele)
          mill := fun m out => told.frame.mill m id }
      · exact (head.frame.mono (fun _ => .inl) (fun _ => id) (fun _ => id) (fun _ => id)).mem_frame
    · have told := teleAdds_telemetry adds
      have head := millHead_millPops s1 m c (s1.countOfEnd 8 c)
      obtain ⟨queue, watch, evc, mem⟩ := head.after told
      rw [millHeadCommit_update op adds, if_pos hit]
      obtain ⟨mill, evc', mem', flag, noted, cuts⟩ := boundStops_stops (s1.millPops m c (s1.countOfEnd 8 c)) m c b
      dsimp only
      rw [mill]
      exact ⟨⟨queue.trans (by rw [at_]; rfl), watch, fun n lt => (evc' n lt).trans (evc n lt), mem'.trans mem⟩, rfl, flag, noted, cuts⟩

end Sys2Proof
end

section
/-! PROOFS. The begin of a station's record (R56, R62, R76). -/

namespace Sys2Proof

open Machine

variable {s t : State} {st u i : Nat} {c : Cmd}

/-! ## The record at work -/

/-- The record at work is the first that has not completed. -/
theorem activeFrom_iff {q : List Cmd} {j n : Nat} : activeFrom j q = some (n, c) ↔
    ∃ i, n = j + i ∧ q[i]? = some c ∧ c.complete = false ∧ ∀ m < i, ∃ d, q[m]? = some d ∧ d.complete = true := by
  induction q generalizing j with
  | nil => simp [activeFrom]
  | cons e q ih =>
    unfold activeFrom
    split_ifs with done
    · rw [ih]
      constructor
      · rintro ⟨i, at_, here, open_, before⟩
        refine ⟨i + 1, by omega, by simpa using here, open_, fun m lt => ?_⟩
        cases m with
        | zero => exact ⟨e, rfl, done⟩
        | succ m => simpa using before m (by omega)
      · rintro ⟨i, at_, here, open_, before⟩
        cases i with
        | zero =>
          obtain rfl : e = c := by simpa using here
          rw [done] at open_
          cases open_
        | succ i => exact ⟨i, by omega, by simpa using here, open_, fun m lt => by simpa using before (m + 1) (by omega)⟩
    · constructor
      · intro here
        cases here
        exact ⟨0, rfl, rfl, by simpa using done, fun m lt => absurd lt (Nat.not_lt_zero m)⟩
      · rintro ⟨i, at_, here, open_, before⟩
        cases i with
        | zero =>
          obtain rfl : e = c := by simpa using here
          rw [at_]
          rfl
        | succ i =>
          obtain ⟨d, here, complete⟩ := before 0 (by omega)
          obtain rfl : e = d := by simpa using here
          exact absurd complete done

theorem active_iff : s.active st u = some (i, c) ↔
    (s.queue st u)[i]? = some c ∧ c.complete = false ∧ ∀ m < i, ∃ d, (s.queue st u)[m]? = some d ∧ d.complete = true := by
  unfold State.active
  rw [activeFrom_iff]
  constructor
  · rintro ⟨j, at_, rest⟩
    obtain rfl : i = j := by omega
    exact rest
  · exact fun rest => ⟨i, by omega, rest⟩

/-- Where the records up to the one at work stay, it stays at work. -/
theorem active_kept {c' : Cmd} (at_ : s.active st u = some (i, c)) (here : (t.queue st u)[i]? = some c') (open_ : c'.complete = false)
    (before : ∀ m < i, (t.queue st u)[m]? = (s.queue st u)[m]?) : t.active st u = some (i, c') := by
  obtain ⟨-, -, done⟩ := active_iff.1 at_
  exact active_iff.2 ⟨here, open_, fun m lt => by rw [before m lt]; exact done m lt⟩

/-! ## A record begins -/

theorem MemFrame.mono {R R' H H' C C' M M' : Nat → Prop} (f : MemFrame R H C M s t) (r : ∀ x, R x → R' x) (h : ∀ x, H x → H' x)
    (k : ∀ x, C x → C' x) (m : ∀ x, M x → M' x) : MemFrame R' H' C' M' s t :=
  { f with
    reg := fun a out => f.reg a (mt (r a) out)
    hand := fun a out => f.hand a (mt (h a) out)
    core := fun a out => f.core a (mt (k a) out)
    mill := fun a out => f.mill a (mt (m a) out) }

theorem Demand.now (a : Demand s t) (h : Nat) : t.now h = s.now h := by
  obtain ⟨-, -, -, e⟩ := a
  rw [e]
  rfl

theorem queue_traceBegin (station : st ≠ 8) (s : State) (r : BitVec 512) (w : Nat) : (s.traceBegin st u r w).queue st u = s.queue st u := by
  have frame : Frame (fun _ => True) (fun _ => True) Nothing Nothing s (s.traceBegin st u r w) :=
    frame_traceBegin s st u r w (fun _ => trivial) (fun _ => trivial) fun e => absurd e station
  have traced := traced_traceBegin s st u r w
  refine queue_of_units (frame.core u id) ?_ ?_ ?_
  · rw [show (s.traceBegin st u r w).hand u = _ from traced.hand u]
  · rw [show (s.traceBegin st u r w).hand u = _ from traced.hand u]
  · rw [show (s.traceBegin st u r w).mill u = _ from traced.mill u]

/-- A record that begins. -/
structure Begins (st u i : Nat) (c : Cmd) (ver : List Nat) (s t : State) : Prop where
  record : ∃ c', (t.queue st u)[i]? = some c' ∧ c'.begun = true ∧ c'.r = c.r ∧ c'.out = c.out ∧ c'.ver = ver ∧ c'.complete = c.complete ∧
    c'.tBegin = s.now (unitOfEp (epOf st u))
  others : ∀ j, j ≠ i → (t.queue st u)[j]? = (s.queue st u)[j]?
  frame : MemFrame (· = Reg.handLost (handOf st u)) (· = handOf st u) (fun k => st ≤ 5 ∧ k = u) Nothing s t
  mem : t.mem = s.mem
  calm : Calm s t
  slots : ∀ k, (t.core k).slots = (s.core k).slots

/-- The reads that a begin makes of table entries and version records (R303). -/
def Machine.State.beginReads (s : State) (st u : Nat) (c : Cmd) : State :=
  (s.versionReads st c.r).foldl (fun (s : State) t => s.seen (cacheOf st u) 0 (Entry.verAddr (s.entry t)) 64)
    (s.seenEntries (cacheOf st u) (recordTids c.r))

theorem demand_beginReads (s : State) (st u : Nat) (c : Cmd) : Demand s (s.beginReads st u c) :=
  (demand_seenEntries s _ _).trans (Demand.foldl (fun (s : State) t => s.seen (cacheOf st u) 0 (Entry.verAddr (s.entry t)) 64)
    (by intro s t; exact demand_seen s _ _ _ _) _ _)

theorem beginCmd_begins {ver : List Nat} (lo : 1 ≤ st) (hi : st ≤ 7) (at_ : (s.queue st u)[i]? = some c) (free : BeginsFreely s st u c ver) :
    Begins st u i c ver s (s.beginCmd st u i c) := by
  obtain ⟨may, room, entries, ⟨sel, tid, selects, rfl⟩, faultless⟩ := free
  have context : (s.noContext st u && !(s.versionReads st c.r).isEmpty) = false := by
    rcases room with e | e <;> simp [e]
  have runs : ∃ c', c'.begun = true ∧ c'.r = c.r ∧ c'.out = c.out ∧ c'.ver = sel.map (·.1) ∧ c'.complete = c.complete ∧
      c'.tBegin = s.now (unitOfEp (epOf st u)) ∧
      s.beginCmd st u i c = ((s.beginReads st u c).setCmd st u i c').traceBegin st u c.r (if c.woke then 220 else 0) := by
    refine ⟨{ c with begun := true, tBegin := s.now (unitOfEp (epOf st u)), ver := sel.map (·.1), vtid := sel.map (·.2), cnt0 := s.countOf st u,
                     scales := [] }, rfl, rfl, rfl, rfl, rfl, rfl, ?_⟩
    unfold State.beginCmd
    dsimp only
    rw [if_pos may, context, entries, selects]
    dsimp only
    rw [faultless]
    rfl
  obtain ⟨c', begun, same, out, vers, complete, began, runs⟩ := runs
  have station : st ≠ 8 := by omega
  have reads := demand_beginReads s st u c
  rw [runs]
  generalize s.beginReads st u c = r at reads
  have queue := reads.queue st u
  have set : Frame (· = Reg.handLost (handOf st u)) (· = handOf st u) (fun k => st ≤ 5 ∧ k = u) Nothing r (r.setCmd st u i c') :=
    frame_setCmd r st u i c' (by rintro (e | e) <;> rw [e] <;> rfl) (fun _ le => ⟨le, rfl⟩) fun e => absurd e station
  have traced : Frame (· = Reg.handLost (handOf st u)) (· = handOf st u) (fun k => st ≤ 5 ∧ k = u) Nothing (r.setCmd st u i c')
      ((r.setCmd st u i c').traceBegin st u c.r (if c.woke then 220 else 0)) :=
    frame_traceBegin _ st u c.r _ (fun _ => rfl) (fun _ => rfl) fun e => absurd e station
  refine ⟨⟨c', ?_, begun, same, out, vers, complete, began⟩, fun j ne => ?_, reads.mem_frame.trans (set.trans traced).mem_frame,
    (traced.mem.trans set.mem).trans reads.mem,
    (reads.calm.trans (quiet_setCmd r st u i c').calm).trans (traced_traceBegin _ st u c.r _).quiet.calm, fun k => ?_⟩
  · rw [queue_traceBegin station]
    exact getElem_setCmd lo (by omega) (by rw [queue]; exact at_) c'
  · rw [queue_traceBegin station, getElem_setCmd_other lo (by omega) ne, queue]
  · have core : ((r.setCmd st u i c').traceBegin st u c.r (if c.woke then 220 else 0)).core k = (r.setCmd st u i c').core k :=
      (frame_traceBegin (R := fun _ => True) (H := fun _ => True) (C := Nothing) (M := Nothing) _ st u c.r _ (fun _ => trivial) (fun _ => trivial)
        fun e => absurd e station).core k id
    rw [core, State.setCmd, slots_setQueue, reads.core_eq]

theorem Begins.active {ver : List Nat} (begins : Begins st u i c ver s t) (at_ : s.active st u = some (i, c)) :
    ∃ c', t.active st u = some (i, c') ∧ c'.begun = true ∧ c'.r = c.r ∧ c'.out = c.out ∧ c'.ver = ver ∧
      c'.tBegin = s.now (unitOfEp (epOf st u)) := by
  obtain ⟨c', here, begun, same, out, vers, complete, began⟩ := begins.record
  obtain ⟨-, open_, -⟩ := active_iff.1 at_
  exact ⟨c', active_kept at_ here (complete.trans open_) (fun m lt => begins.others m (by omega)), begun, same, out, vers, began⟩

/-! ## The station's next step -/

section
variable {op : Nat} {work : State → Nat → Cmd → State}

/-- No record behind one that has not begun begins. -/
theorem beginNext_of_not_begun (waits : c.begun = false) : s.beginNext st u op i c = none := by
  unfold State.beginNext State.nextUp Cmd.issuedAll
  simp [waits]

theorem runStation_begins (at_ : AtWork s st u op i c) (waits : c.begun = false) : s.runStation st u op work = s.beginCmd st u i c := by
  obtain ⟨active, runs, opcode⟩ := at_
  unfold State.runStation
  rw [active]
  dsimp only
  rw [if_neg (by simp [runs]), beginNext_of_not_begun waits]
  dsimp only
  rw [if_neg (by simp [opcode]), if_pos (by simp [waits])]

theorem runStation_waits (at_ : AtWork s st u op i c) (waits : c.begun = false) (not : s.mayBegin st u c.r = false) :
    s.runStation st u op work = s := by
  rw [runStation_begins at_ waits]
  unfold State.beginCmd
  exact if_neg (by simp [not])

theorem runStation_next {n : Cmd} {ver : List Nat} (lo : 1 ≤ st) (hi : st ≤ 7) (at_ : AtWork s st u op i c) (next : s.nextUp st u op i c = some n)
    (free : BeginsFreely s st u n ver) : Begins st u (i + 1) n ver s (s.runStation st u op work) := by
  obtain ⟨active, runs, opcode⟩ := at_
  have behind : (s.queue st u)[i + 1]? = some n := by
    unfold State.nextUp at next
    split_ifs at next
    split at next
    · next d found =>
      split_ifs at next
      rw [found, Option.some.inj next]
    · cases next
  have begins := beginCmd_begins lo hi behind free
  obtain ⟨n', here, begun, -⟩ := begins.record
  have first : s.beginNext st u op i c = some (s.beginCmd st u (i + 1) n) := by
    unfold State.beginNext
    rw [next]
    dsimp only
    rw [here, if_pos (by simpa using begun)]
  unfold State.runStation
  rw [active]
  dsimp only
  rw [if_neg (by simp [runs]), first]
  exact begins
end

/-! ## The records of a hand's stations (O8) -/

/-- A hand's units carry its number (R344). -/
theorem unitOfEp_epHand (h : HandIx) {n : Nat} (lt : n < 32) : unitOfEp (epHand h.val n) = h.val := by
  have hand : epToHand (epHand h.val n) = some h.val := by
    have suit : h.val / 160 < 4 := by omega
    have parts : epHand h.val n = h.val / 160 * 8192 + h.val % 160 / 16 * 512 + h.val % 160 % 16 * 32 + n := by
      simp only [epHand, Nat.shiftLeft_eq]
    have low : bit (epHand h.val n) 15 = false := by
      unfold bit
      rw [bits, Nat.shiftRight_eq_div_pow, parts, beq_eq_false_iff_ne]
      omega
    have row : bits (epHand h.val n) 9 4 = h.val % 160 / 16 := by
      rw [bits, Nat.shiftRight_eq_div_pow, parts]
      omega
    have column : bits (epHand h.val n) 5 4 = h.val % 160 % 16 := by
      rw [bits, Nat.shiftRight_eq_div_pow, parts]
      omega
    have at_ : bits (epHand h.val n) 13 2 = h.val / 160 := by
      rw [bits, Nat.shiftRight_eq_div_pow, parts]
      omega
    unfold epToHand
    rw [low, row, column, at_, if_neg (by decide), if_neg (by omega)]
    exact congrArg some (by omega)
  unfold unitOfEp
  rw [hand]

section
variable {op : Nat} {run : State → Host.Outcome State Fault Refusal} {x : Instr} {work : State → Nat → Cmd → State}

/-- What O8 says of a record of a core's station. -/
theorem core_begins {k : CoreIx} (lo : 1 ≤ st) (hi : st ≤ 5) (runs : exec x s = .next (s.runStation st k.val op work)) (at_ : AtWork s st k.val op i c) :
    (∀ ver, c.begun = false → BeginsFreely s st k.val c ver → Does x s fun t =>
      (∃ c', t.active st k.val = some (i, c') ∧ c'.begun = true ∧ c'.r = c.r ∧ c'.out = c.out ∧ c'.ver = ver) ∧
      MemFrame (· = Reg.handLost (k.val / 17)) (· = k.val / 17) (· = k.val) Nothing s t ∧ t.mem = s.mem ∧ Calm s t) ∧
    (∀ n ver, s.nextUp st k.val op i c = some n → BeginsFreely s st k.val n ver → Does x s fun t =>
      (∃ n', (t.queue st k.val)[i + 1]? = some n' ∧ n'.begun = true ∧ n'.r = n.r ∧ n'.ver = ver) ∧
      t.active st k.val = some (i, c) ∧
      MemFrame (· = Reg.handLost (k.val / 17)) (· = k.val / 17) (· = k.val) Nothing s t ∧ t.mem = s.mem ∧ Calm s t) ∧
    (c.begun = false → s.mayBegin st k.val c.r = false → Does x s fun t => t = s) := by
  have hand : handOf st k.val = k.val / 17 := if_pos hi
  have framed : ∀ {t : State}, MemFrame (· = Reg.handLost (handOf st k.val)) (· = handOf st k.val) (fun j => st ≤ 5 ∧ j = k.val) Nothing s t →
      MemFrame (· = Reg.handLost (k.val / 17)) (· = k.val / 17) (· = k.val) Nothing s t := by
    rw [hand]
    exact fun f => f.mono (fun _ => id) (fun _ => id) (fun _ => And.right) (fun _ => id)
  obtain ⟨here, open_, -⟩ := active_iff.1 at_.1
  refine ⟨fun ver waits free => ⟨_, runs, ?_⟩, fun n ver next free => ⟨_, runs, ?_⟩, fun waits not => ⟨_, runs, runStation_waits at_ waits not⟩⟩
  · rw [runStation_begins at_ waits]
    have begins := beginCmd_begins lo (by omega) here free
    obtain ⟨c', active, begun, same, out, vers, -⟩ := begins.active at_.1
    exact ⟨⟨c', active, begun, same, out, vers⟩, framed begins.frame, begins.mem, begins.calm⟩
  · have begins : Begins st k.val (i + 1) n ver s (s.runStation st k.val op work) := runStation_next lo (by omega) at_ next free
    obtain ⟨n', behind, begun, same, -, vers, -⟩ := begins.record
    exact ⟨⟨n', behind, begun, same, vers⟩,
      active_kept at_.1 ((begins.others i (by omega)).trans here) open_ fun m lt => begins.others m (by omega),
      framed begins.frame, begins.mem, begins.calm⟩

/-- What O8 says of a record of a hand's station. -/
theorem hand_begins {h : HandIx} (station : st = 6 ∨ st = 7) (at_ : AtWork s st h.val op 0 c) (waits : c.begun = false) {ver : List Nat}
    (free : BeginsFreely s st h.val c ver) (runs : exec x s = .next (s.runStation st h.val op work)) : Does x s fun t =>
      (∃ c', t.active st h.val = some (0, c') ∧ c'.begun = true ∧ c'.r = c.r ∧ c'.tBegin = s.now h.val) ∧
      MemFrame (· = Reg.handLost h.val) (· = h.val) Nothing Nothing s t ∧ t.mem = s.mem ∧ Calm s t := by
  have hand : handOf st h.val = h.val := if_neg (by omega)
  have unit : unitOfEp (epOf st h.val) = h.val := by
    rcases station with rfl | rfl
    · exact unitOfEp_epHand h (by decide)
    · exact unitOfEp_epHand h (by decide)
  refine ⟨_, runs, ?_⟩
  rw [runStation_begins at_ waits]
  have begins := beginCmd_begins (by omega) (by omega) (active_iff.1 at_.1).1 free
  obtain ⟨c', active, begun, same, -, -, began⟩ := begins.active at_.1
  rw [unit] at began
  refine ⟨⟨c', active, begun, same, began⟩, ?_, begins.mem, begins.calm⟩
  have frame := begins.frame
  rw [hand] at frame
  exact frame.mono (fun _ => id) (fun _ => id) (fun _ no => by omega) (fun _ => id)
end

theorem pivotRow_of_active {h op : Nat} {work : State → Nat → Cmd → State} (at_ : s.active 6 h = some (0, c)) :
    s.pivotRow h op work = s.runStation 6 h op work := by
  simp only [State.pivotRow, at_]

theorem exec_coll {h : HandIx} (at_ : s.active 7 h.val = some (0, c)) : ∃ work, exec (.coll h) s = .next (s.runStation 7 h.val 1 work) := by
  show ∃ work, execColl h s = _
  unfold execColl
  rw [at_]
  exact ⟨_, rfl⟩

/-- Settles O8. -/
theorem stationRecordBegins : Obligations.StationRecordBegins := by
  refine ⟨fun k s i c x m at_ => ?_, fun h s c x m at_ waits ver free => ?_⟩
  · simp only [List.mem_cons, List.not_mem_nil, or_false] at m
    rcases m with rfl | rfl | rfl | rfl | rfl | rfl | rfl | rfl | rfl
    all_goals exact core_begins (by norm_num) (by norm_num) rfl at_
  · simp only [List.mem_cons, List.not_mem_nil, or_false] at m
    rcases m with rfl | rfl | rfl
    · exact hand_begins (.inl rfl) at_ waits free (congrArg Host.Outcome.next (pivotRow_of_active at_.1))
    · exact hand_begins (.inl rfl) at_ waits free (congrArg Host.Outcome.next (pivotRow_of_active at_.1))
    · obtain ⟨work, runs⟩ := exec_coll at_.1
      exact hand_begins (.inr rfl) at_ waits free runs

end Sys2Proof
end

section
/-! PROOFS. The arrival of an input tile (R50 to R54, R59). -/

namespace Sys2Proof

open Machine

variable {r s t : State} {st u i o n : Nat} {c d : Cmd}

/-! ## What an arrival changes -/

/-- Two states of a core that differ in the counts of checked tiles of its ports alone. -/
def Machine.Core.CheckedOnly (c d : Core) : Prop := d = { c with ports := d.ports } ∧ ∀ p, ∃ n, d.port p = { c.port p with checked := n }

theorem Machine.Core.CheckedOnly.refl (c : Core) : c.CheckedOnly c := ⟨rfl, fun _ => ⟨_, rfl⟩⟩

theorem Machine.Core.CheckedOnly.trans {c d e : Core} (x : c.CheckedOnly d) (y : d.CheckedOnly e) : c.CheckedOnly e := by
  obtain ⟨d', p⟩ := x
  obtain ⟨e', q⟩ := y
  refine ⟨by rw [e', d'], fun i => ?_⟩
  obtain ⟨n, hn⟩ := p i
  obtain ⟨m, hm⟩ := q i
  exact ⟨m, by rw [hm, hn]⟩

/-- Registers that an arrival may change, besides those that any access may. -/
def ArriveRegs (h a : Nat) : Prop := a = Reg.refetch h ∨ a = Reg.handLost h

/-- What the arrival of a tile at a station does. -/
structure Arrived (st u : Nat) (s t : State) : Prop where
  frame : MemFrame (ArriveRegs (handOf st u)) (· = handOf st u) (fun k => st ≤ 5 ∧ k = u) Nothing s t
  mem : t.mem = s.mem
  calm : Calm s t
  queue : ∀ x y, t.queue x y = s.queue x y
  core : ∀ k, (s.core k).CheckedOnly (t.core k)

theorem Arrived.refl (s : State) : Arrived st u s s := ⟨.refl s, rfl, .refl s, fun _ _ => rfl, fun _ => .refl _⟩

theorem Arrived.trans (x : Arrived st u r s) (y : Arrived st u s t) : Arrived st u r t :=
  ⟨x.frame.trans y.frame, y.mem.trans x.mem, x.calm.trans y.calm, fun a b => (y.queue a b).trans (x.queue a b), fun k => (x.core k).trans (y.core k)⟩

theorem arrived_of_demand (a : Demand s t) : Arrived st u s t :=
  ⟨a.mem_frame, a.mem, a.calm, a.queue, fun k => by rw [a.core_eq]; exact .refl _⟩

theorem demand_dropLines (s : State) (hva pva : Nat) : Demand s (s.dropLines hva pva) := by
  unfold State.dropLines
  dsimp only
  split_ifs
  · exact Demand.foldl (fun (s : State) (x : Nat × Nat) =>
      s.setSuit x.1 { s.suit x.1 with gran := (s.suit x.1).gran.filter fun g => g.line != x.2 })
      (by intro s x; exact demand_setSuit s _ _ ⟨_, _, _, rfl⟩) _ s
  · exact .refl s

theorem arrived_traceSt (station : st ≠ 8) (s : State) (x : Trace) : Arrived st u s (s.traceSt st u x) := by
  have frame : Frame (ArriveRegs (handOf st u)) (· = handOf st u) Nothing Nothing s (s.traceSt st u x) :=
    frame_traceSt s st u x (fun _ => rfl) (fun _ => .inr rfl) fun e => absurd e station
  have traced := traced_traceSt s st u x
  refine ⟨frame.mem_frame.mono (fun _ => id) (fun _ => id) (fun _ => False.elim) (fun _ => id), frame.mem, traced.quiet.calm, fun a b => ?_,
    fun k => by rw [frame.core k id]; exact .refl _⟩
  refine queue_of_units (frame.core b id) ?_ ?_ ?_
  · rw [show (s.traceSt st u x).hand b = _ from traced.hand b]
  · rw [show (s.traceSt st u x).hand b = _ from traced.hand b]
  · rw [frame.mill b id]

theorem arrived_refetch (s : State) : Arrived st u s (s.add32 (Reg.refetch (handOf st u)) 1) :=
  ⟨(frame_add32 s _ 1 (.inl rfl)).mem_frame, rfl, Quiet.calm ⟨rfl, rfl, rfl⟩, fun _ _ => rfl, fun _ => .refl _⟩

theorem arrived_arriveMem {x : Expect} {ver hva pva : Nat} {more : Head → Option Bool} {corrupt : Bool} {z : Tile} (station : st ≠ 8)
    (comes : s.arriveMem st u c x ver hva pva more corrupt = .ok t z) : Arrived st u s t := by
  unfold State.arriveMem at comes
  dsimp only at comes
  split_ifs at comes
  have seen : ∀ r : State, Demand r (r.seenTile (cacheOf st u) x.tid hva pva) := fun r => demand_seenTile r _ _ _ _
  split at comes
  · obtain ⟨rfl, -⟩ := Arr.ok.inj comes
    exact arrived_of_demand (seen s)
  · cases comes
  · cases comes
  · split at comes
    · obtain ⟨rfl, -⟩ := Arr.ok.inj comes
      exact (arrived_of_demand ((seen s).trans ((demand_dropLines _ _ _).trans (seen _)))).trans ((arrived_refetch _).trans (arrived_traceSt station _ _))
    · cases comes
    · cases comes

theorem arriveLocal_same {x : Expect} {z y : Tile} {more : Head → Option Bool} {corrupt : Bool}
    (comes : s.arriveLocal st u c x y more corrupt = .ok t z) : t = s := by
  unfold State.arriveLocal at comes
  split at comes <;> cases comes
  rfl

theorem arrived_arrive {fmt : Option Nat} {more : Head → Option Bool} {corrupt : Bool} {z : Tile} (station : st ≠ 8)
    (comes : s.arrive st u c o fmt more corrupt = .ok t z) : Arrived st u s t := by
  unfold State.arrive at comes
  dsimp only at comes
  by_cases all : (Record.desc c.r o).count ≤ (c.flow o).got
  · rw [if_pos all] at comes
    cases comes
  rw [if_neg all] at comes
  split at comes
  · split_ifs at comes
    exact arrived_arriveMem station comes
  · split at comes
    · cases comes
    · rw [arriveLocal_same comes]
      exact .refl s
  · rw [arriveLocal_same comes]
    exact .refl s
  · cases comes

theorem arrived_markChecked (hi : st ≤ 5) (s : State) (d : Desc) (n : Nat) : Arrived st u s (s.markChecked u d n) := by
  unfold State.markChecked
  dsimp only
  split_ifs
  · refine ⟨(frame_setCore s u _ ⟨hi, rfl⟩).mem_frame, rfl, Quiet.calm ⟨rfl, rfl, rfl⟩, fun x y => queue_setCore _ (by exact ⟨rfl, rfl, rfl, rfl, rfl⟩) x y, fun k => ?_⟩
    rw [State.core_setCore]
    split_ifs with same
    · subst same
      refine ⟨rfl, fun p => ?_⟩
      unfold Core.port Core.setPort
      dsimp only
      rw [PMap.get_put]
      split_ifs with here
      · rw [here]
        exact ⟨_, rfl⟩
      · exact ⟨_, rfl⟩
    · exact .refl _
  · exact .refl s

theorem arriveTile_arrives {corrupt : Bool} (hi : st ≤ 5) (comes : s.arriveTile st u i c o corrupt = .ok t d) :
    Arrived st u s t ∧ c.FlowsOnly d := by
  unfold State.arriveTile at comes
  dsimp only at comes
  split at comes
  · cases comes
  · split_ifs at comes
  · cases comes
  · next r z got =>
    cases comes
    exact ⟨(arrived_arrive (by omega) got).trans (arrived_markChecked hi _ _ _), flowsOnly_setFlow _ _ _⟩

/-! ## A tile that a record waits for -/

section
variable {x : Tile} {k : State → Cmd → Tile → State}

theorem TileComes.arrives (hi : st ≤ 5) (comes : TileComes s st u i c o n t d x) : Arrived st u s t ∧ c.FlowsOnly d := by
  obtain ⟨⟨-, rfl, rfl⟩ | ⟨-, arrives, -⟩, -⟩ := comes
  · exact ⟨.refl _, _, _, rfl⟩
  · exact arriveTile_arrives hi arrives

theorem TileComes.withTile (comes : TileComes s st u i c o n t d x) : s.withTile st u i c o n k = k t d x := by
  unfold State.withTile
  obtain ⟨⟨here, rfl, rfl⟩ | ⟨not, arrives, got⟩, rfl⟩ := comes
  · rw [if_pos here]
  · rw [if_neg (by omega), arrives]
    exact if_pos got
end

end Sys2Proof
end

section
/-! PROOFS. VEND: what O17 says of a step whose input came over P8 fails (R59, R181). -/

namespace Sys2Proof

open Machine

variable {s : State} {c : Cmd} {n : Kern} {w : KWord}

theorem exec_vend {k : CoreIx} (at_ : KernelAt s k.val 0 c n w) : exec (.vend k) s = .next (s.endStep k.val c n) := by
  obtain ⟨⟨active, runs, op⟩, begun, kern, running, low, rfl, word⟩ := at_
  show execVend k s = _
  unfold execVend State.runVect
  rw [active]
  simp only [runs, op, begun, kern, running, low, word]
  rfl

/-- A RUN record of two steps whose input tiles come through P8, with one output after the last step (R179, R181). -/
def p8Run : BitVec 512 := BitVec.ofNat 512 (0x401 + 2 ^ (208 + 11) + (0x82 + 2 ^ 72 + 2 * 2 ^ 80) * 2 ^ 240)

def p8Cmd : Cmd := { r := p8Run, begun := true, a := { got := 1 } }

/-- A kernel whose word 0 is VEND, in its first step. -/
def p8Kern : Kern :=
  { step := 0, pc := 0, w0 := { hdr := 0, pay := 0 }, w1 := { hdr := 0, pay := 0 }, wo := 0, scale := 0, wver := 0, running := true }

def p8State : State := { State.reset with cores := [(0, { ve := [p8Cmd], kern := some p8Kern })] }

theorem p8_kernelAt : KernelAt p8State 0 0 p8Cmd p8Kern (KWord.of 0) := by
  refine ⟨⟨by decide +kernel, by decide +kernel, by decide +kernel⟩, rfl, rfl, rfl, by decide +kernel, ?_, by decide +kernel⟩
  decide +kernel

/-- The credit of the step's tile leaves with a packet. -/
theorem p8_sends : (p8State.endStep 0 p8Cmd p8Kern).net.length = 1 := by
  decide +kernel

/-- Refutes O17: the credit of a tile that came over P8 travels to its producer as a packet (R59, R60), so that a VEND is not quiet. -/
theorem not_kernelStepsBeginAndEnd : ¬ Obligations.KernelStepsBeginAndEnd := by
  rintro ⟨-, ends⟩
  obtain ⟨-, waits⟩ := ends 0 p8State p8Cmd p8Kern (KWord.of 0) p8_kernelAt
  obtain ⟨t, acts, -, -, -, -, net, -⟩ := waits (by decide +kernel) (by decide +kernel)
  obtain rfl : p8State.endStep 0 p8Cmd p8Kern = t := Host.Outcome.next.inj ((exec_vend (k := 0) p8_kernelAt).symm.trans acts)
  have sent := p8_sends
  rw [net] at sent
  exact absurd sent (by decide +kernel)

end Sys2Proof
end

section
/-! PROOFS. LOAD TILES and GATHER (R307 to R309). -/

namespace Sys2Proof

open Machine

variable {r s t : State} {st u i o n : Nat} {c d : Cmd}

/-! ## What every station's work has in common -/

theorem runStation_works {op : Nat} {work : State → Nat → Cmd → State} (works : Works s st u op i c) : s.runStation st u op work = work s i c := by
  obtain ⟨⟨active, runs, opcode⟩, begun, next⟩ := works
  unfold State.runStation
  rw [active]
  dsimp only
  rw [if_neg (by simp [runs]), next]
  dsimp only
  rw [if_neg (by simp [opcode]), if_neg (by simp [begun])]

theorem Works.at_ {op : Nat} (works : Works s st u op i c) : (s.queue st u)[i]? = some c ∧ c.complete = false := by
  obtain ⟨here, open_, -⟩ := active_iff.1 works.1.1
  exact ⟨here, open_⟩

theorem reg64_add64 (s : State) (a n : Nat) : (s.add64 a n).reg64 a = (s.reg64 a + n) % 2 ^ 64 := by
  rw [State.add64, State.reg64_setReg64, Nat.mod_mod]

theorem ports_setQueue (s : State) (st u k : Nat) (q : List Cmd) : ((s.setQueue st u q).core k).ports = (s.core k).ports := by
  unfold State.setQueue
  split
  case h_1 | h_2 | h_3 | h_4 | h_5 =>
    rw [State.core_setCore]
    split_ifs with same
    · rw [same]
    · rfl
  all_goals rfl

theorem ports_onward (s : State) (last : Prop) [Decidable last] (st u i k : Nat) (c : Cmd) :
    ((s.onward last st u i c).core k).ports = (s.core k).ports := by
  unfold State.onward
  split_ifs
  · obtain e | ⟨d, e⟩ := finish_eq s st u i c
    · rw [e]
      exact ports_setQueue _ _ _ _ _
    · rw [e]
      exact (ports_setQueue _ _ _ _ _).trans (ports_setQueue _ _ _ _ _)
  · exact ports_setQueue _ _ _ _ _

theorem outputTile_eq (a b : Core) (e : Desc) (n : Nat) : outputTile a b e n = b.slot (a.outSlot e n 0) := by
  unfold outputTile Core.outSlot
  split_ifs
  · rfl
  · rfl

/-- A record that goes on with one more output tile. -/
theorem advanced_onward {total : Nat} (lo : 1 ≤ st) (hi : st ≤ 8) (at_ : (s.queue st u)[i]? = some d) {e : Cmd} (flows : c.FlowsOnly e)
    (open_ : c.complete = false) :
    Advanced (s.onward (c.out + 1 = total) st u i { e with out := c.out + 1 }) st u i c total := by
  obtain ⟨a, b, rfl⟩ := flows
  obtain ⟨m, here⟩ := record_onward (last := c.out + 1 = total) lo hi at_ { c with a := a, b := b, out := c.out + 1 } open_
  exact ⟨_, here, rfl, rfl, rfl⟩

/-! ## LOAD TILES -/

/-- What an output tile and the bytes of a LOAD do. -/
def Machine.State.loaded (s : State) (k : Nat) (d : Desc) (n : Nat) (x : Tile) (bytes : Nat) : State :=
  (s.put k d n x).add64 (Reg.ldbytes k) bytes

section
variable {c d : Cmd} (flows : c.FlowsOnly d)
include flows
theorem Machine.Cmd.FlowsOnly.record : d.r = c.r := by obtain ⟨_, _, rfl⟩ := flows; rfl
theorem Machine.Cmd.FlowsOnly.out : d.out = c.out := by obtain ⟨_, _, rfl⟩ := flows; rfl
theorem Machine.Cmd.FlowsOnly.complete : d.complete = c.complete := by obtain ⟨_, _, rfl⟩ := flows; rfl
end

section
variable {k : CoreIx} {c1 : Cmd} {s1 : State} {x : Tile}

theorem useUp_memory (s : State) (u : Nat) (memory : (Record.desc c.r o).kind = 1) : (s.useUp u c o).1 = s := by
  unfold State.useUp
  dsimp only
  rw [if_neg (by rw [memory]; decide)]

theorem loadTiles_moves (works : Works s 1 k.val 1 i c) (memory : (Record.desc c.r 0).kind = 1)
    (room : s.canPut k.val (Record.desc c.r 2) = true) (comes : TileComes s 1 k.val i c 0 c.out s1 c1 x) : ∃ e : Cmd, c1.FlowsOnly e ∧
      exec (.loadTiles k) s = .next ((s1.loaded k.val (Record.desc c.r 2) c.out x (tileBytes x.head)).onward
        (c.out + 1 = (Record.desc c.r 2).count) 1 k.val i { e with out := c.out + 1 }) := by
  have flows := (comes.arrives (by decide)).2
  refine ⟨_, (useUp_releases (s1.loaded k.val (Record.desc c.r 2) c.out x (tileBytes x.head)) k.val _ 0).2, ?_⟩
  have kept : ((s1.loaded k.val (Record.desc c.r 2) c.out x (tileBytes x.head)).useUp k.val c1 0).1 =
      s1.loaded k.val (Record.desc c.r 2) c.out x (tileBytes x.head) := useUp_memory _ _ (by rw [flows.record]; exact memory)
  show execLoadTiles k s = _
  unfold execLoadTiles
  rw [runStation_works works]
  unfold State.loadStep
  dsimp only
  rw [if_pos room, comes.withTile, flows.out]
  unfold State.loaded at kept ⊢
  rw [kept]
  rfl

/-- What a tile that a LOAD has put out leaves. -/
structure Loaded (k : Nat) (d : Desc) (n : Nat) (x : Tile) (bytes : Nat) (s t : State) : Prop where
  frame : Frame (fun a => a = Reg.ldbytes k ∨ a = Reg.ldbytes k + 4) Nothing (· = k) Nothing s t
  quiet : Quiet s t
  bytes : t.reg64 (Reg.ldbytes k) = (s.reg64 (Reg.ldbytes k) + bytes) % 2 ^ 64
  queue : ∀ st u, t.queue st u = s.queue st u
  tile : outputTile (s.core k) (t.core k) d n = x
  count : d.kind = 2 → ((t.core k).port d.port).count = ((s.core k).port d.port).count + 1

theorem loaded_loaded (s : State) (k : Nat) (d : Desc) (n : Nat) (x : Tile) (bytes : Nat) : Loaded k d n x bytes s (s.loaded k d n x bytes) := by
  have put : Frame Nothing Nothing (· = k) Nothing s (s.put k d n x) := frame_put s k d n x
  refine ⟨(frame_put s k d n x).trans (frame_add64 _ _ _ (.inl rfl) (.inr rfl)), Quiet.trans (quiet_put s k d n x) ⟨rfl, rfl, rfl⟩, ?_,
    fun st u => queue_put s k d n x st u, ?_, fun port => count_put s k n x port⟩
  · unfold State.loaded
    rw [reg64_add64, State.reg64_congr _ (put.reg _ id) (put.reg _ id)]
  · rw [outputTile_eq]
    exact (slot_put s k d n x _).trans (if_pos rfl)

/-- A record goes on: its core's tiles and ports stay. -/
theorem outputTile_onward (a : Core) (s : State) (last : Prop) [Decidable last] (st u i k : Nat) (c : Cmd) (e : Desc) (n : Nat) :
    outputTile a ((s.onward last st u i c).core k) e n = outputTile a (s.core k) e n := by
  rw [outputTile_eq, outputTile_eq]
  unfold Core.slot
  rw [slots_onward]

theorem count_onward (s : State) (last : Prop) [Decidable last] (st u i k p : Nat) (c : Cmd) :
    ((s.onward last st u i c).core k).port p = (s.core k).port p := by
  unfold Core.port
  rw [ports_onward]

theorem loadTiles_loads (works : Works s 1 k.val 1 i c) (memory : (Record.desc c.r 0).kind = 1)
    (room : s.canPut k.val (Record.desc c.r 2) = true) (comes : TileComes s 1 k.val i c 0 c.out s1 c1 x) : Does (.loadTiles k) s fun t =>
      outputTile (s1.core k.val) (t.core k.val) (Record.desc c.r 2) c.out = x ∧
      ((Record.desc c.r 2).kind = 2 → ((t.core k.val).port (Record.desc c.r 2).port).count =
        ((s1.core k.val).port (Record.desc c.r 2).port).count + 1) ∧
      t.reg64 (Reg.ldbytes k.val) = (s1.reg64 (Reg.ldbytes k.val) + tileBytes x.head) % 2 ^ 64 ∧
      Advanced t 1 k.val i c (Record.desc c.r 2).count ∧ t.mem = s.mem ∧ Calm s t ∧
      MemFrame (fun a => a = Reg.ldbytes k.val ∨ a = Reg.ldbytes k.val + 4 ∨ a = Reg.refetch (k.val / 17) ∨
        a = Reg.handLost (k.val / 17)) (· = k.val / 17) (· = k.val) Nothing s t := by
  obtain ⟨e, flows, acts⟩ := loadTiles_moves works memory room comes
  obtain ⟨arrived, same⟩ := comes.arrives (by decide)
  obtain ⟨here, open_⟩ := works.at_
  have loaded := loaded_loaded s1 k.val (Record.desc c.r 2) c.out x (tileBytes x.head)
  generalize s1.loaded k.val (Record.desc c.r 2) c.out x (tileBytes x.head) = b at acts loaded
  have queue : (b.queue 1 k.val)[i]? = some c := by rw [loaded.queue, arrived.queue, here]
  have moved : Frame Nothing Nothing (· = k.val) Nothing b (b.onward (c.out + 1 = (Record.desc c.r 2).count) 1 k.val i { e with out := c.out + 1 }) :=
    frame_onward _ _ 1 _ i _ (by omega) (fun _ _ => rfl) (by omega)
  have quiet := quiet_onward b (c.out + 1 = (Record.desc c.r 2).count) 1 k.val i { e with out := c.out + 1 }
  refine ⟨_, acts, (outputTile_onward _ _ _ _ _ _ _ _ _ _).trans loaded.tile, fun port => ?_, ?_,
    advanced_onward (by decide) (by decide) queue (same.trans flows) open_, (moved.mem.trans loaded.frame.mem).trans arrived.mem,
    arrived.calm.trans (loaded.quiet.trans quiet).calm, ?_⟩
  · rw [count_onward]
    exact loaded.count port
  · exact (State.reg64_congr _ (moved.reg _ id) (moved.reg _ id)).trans loaded.bytes
  · have rest : Frame (fun a => a = Reg.ldbytes k.val ∨ a = Reg.ldbytes k.val + 4) Nothing (· = k.val) Nothing s1 _ :=
      loaded.frame.trans (moved.mono (fun _ => False.elim) (fun _ => id) (fun _ => id) (fun _ => id))
    refine (arrived.frame.mono (fun a m => ?_) (fun _ => id) (fun _ => And.right) (fun _ => id)).trans
      (rest.mem_frame.mono (fun a m => ?_) (fun _ => False.elim) (fun _ => id) (fun _ => id))
    · exact .inr (.inr m)
    · exact m.imp_right .inl

end

end Sys2Proof
end

section
/-! PROOFS. GATHER: what O9 says of a poisoned element fails for a format code that names no format (R41, R96, R323). -/

namespace Sys2Proof

open Machine

/-- A GATHER of one index tile whose one output tile stands in a resident slot. -/
def oddGather : Cmd :=
  { r := BitVec.ofNat 512 (0x102 + (1 + 2 ^ 72 + 2 ^ 80) * 2 ^ 240 + (4 + 2 ^ 72 + 2 ^ 80) * 2 ^ 416)
    begun := true
    a := { got := 1, buf := [{ hdr := BitVec.ofNat 256 (2 ^ 112), pay := 0 }] } }

/-- Page 0 mapped to frame 3; at its start an entry of one tile at 0x1000 whose FMT is 8, and poison in that tile's first sector. -/
def oddState : State :=
  { State.reset with
    part := Part.hyg4_288
    suits := (upTo 4).map fun i => (i, { powered := true })
    mem := [(0, 1), (2, 1), (0x10000, 1), (0x10002, 2), (0x20000, 0x3F), (0x20002, 3), (0x30001, 0x10), (0x30010, 1), (0x30012, 0x10), (0x30015, 8)]
    poisoned := [0x31000]
    cores := [(0, { ld := [oddGather] })] }

theorem odd_works : Works oddState 1 0 2 0 oddGather := by
  refine ⟨⟨by decide +kernel, by decide +kernel, by decide +kernel⟩, rfl, by decide +kernel⟩

theorem odd_meets : oddState.vread 0x1000 1 = .poison ∧ Entry.fmt (oddState.entry (Record.desc oddGather.r 1).tid) = 8 ∧
    elemVa (oddState.entry (Record.desc oddGather.r 1).tid) 0 = some 0x1000 := by
  decide +kernel

/-- Refutes O9: FMT of a table entry has 4 bits, of which 0 to 7 name a format. With 8 an element has one byte, and a poisoned element is
to be the NaN of 64 bits that `nanFmt 8` gives; no byte of an output tile holds it. -/
theorem not_loadAndGather : ¬ Obligations.LoadAndGather := by
  rintro ⟨-, gathers⟩
  obtain ⟨poison, fmt, va⟩ := odd_meets
  obtain ⟨t, -, elements, -⟩ := gathers 0 oddState 0 oddGather odd_works (by decide +kernel) (by decide +kernel) (by decide +kernel)
    (by decide +kernel) (by decide +kernel) (by decide +kernel)
  rw [fmt] at elements
  have inside : 0 < (((oddGather.a.buf.flatMap tileIndices).drop (oddGather.out * (4096 / fmtSize 8))).take (4096 / fmtSize 8)).length := by
    decide +kernel
  have zero : (((oddGather.a.buf.flatMap tileIndices).drop (oddGather.out * (4096 / fmtSize 8))).take (4096 / fmtSize 8))[0] = 0 := by
    revert inside
    decide +kernel
  have first := elements 0 inside
  rw [zero, if_neg (by decide), va] at first
  dsimp only at first
  rw [show oddState.vread 0x1000 (fmtSize 8) = .poison from poison] at first
  have small : payElem (outputTile (oddState.core 0) (t.core 0) (Record.desc oddGather.r 2) oddGather.out).pay (fmtSize 8) 0 < 2 ^ 8 :=
    bits_lt _ _ 8
  have large : ¬ nanFmt 8 < 2 ^ 8 := by decide
  have nan : payElem (outputTile (oddState.core 0) (t.core 0) (Record.desc oddGather.r 2) oddGather.out).pay (fmtSize 8) 0 = nanFmt 8 :=
    first
  exact large (nan ▸ small)

end Sys2Proof
end

section
/-! PROOFS. DRAIN and DISCARD (R106 to R112, R150 to R163). -/

namespace Sys2Proof

open Machine

variable {s t r : State} {i : Nat} {c c1 : Cmd} {k : CoreIx} {g : Group} {gs : List Group}

/-! ## A record that goes on leaves the rest of its core -/

/-- Two states of a core that differ in the records of its stations alone. -/
def Machine.Core.QueuesOnly (a b : Core) : Prop := b = { a with ld := b.ld, cu := b.cu, dr := b.dr, ve := b.ve, st := b.st }

theorem Machine.Core.QueuesOnly.trans {a b d : Core} (x : a.QueuesOnly b) (y : b.QueuesOnly d) : a.QueuesOnly d := by
  unfold Core.QueuesOnly at *
  rw [y, x]

theorem queuesOnly_setQueue (s : State) (st u j : Nat) (q : List Cmd) : (s.core j).QueuesOnly ((s.setQueue st u q).core j) := by
  unfold State.setQueue
  split
  case h_1 | h_2 | h_3 | h_4 | h_5 =>
    rw [State.core_setCore]
    split_ifs with same
    · rw [same]
      rfl
    · rfl
  all_goals rfl

theorem queuesOnly_finish (s : State) (st u i j : Nat) (c : Cmd) : (s.core j).QueuesOnly ((s.finish st u i c).core j) := by
  obtain e | ⟨d, e⟩ := finish_eq s st u i c
  · rw [e]
    exact queuesOnly_setQueue _ _ _ _ _
  · rw [e]
    exact (queuesOnly_setQueue _ _ _ _ _).trans (queuesOnly_setQueue _ _ _ _ _)

theorem queuesOnly_onward (s : State) (last : Prop) [Decidable last] (st u i j : Nat) (c : Cmd) :
    (s.core j).QueuesOnly ((s.onward last st u i c).core j) := by
  unfold State.onward
  split_ifs
  · exact queuesOnly_finish _ _ _ _ _ _
  · exact queuesOnly_setQueue _ _ _ _ _

theorem useUp_ports (s : State) (u : Nat) (c : Cmd) (o : Nat) : ∃ p, (s.useUp u c o).1.core u = { s.core u with ports := p } := by
  unfold State.useUp State.releaseTile
  dsimp only
  split_ifs
  · exact ⟨_, (State.core_setCore ..).trans (if_pos rfl)⟩
  · exact ⟨_, (State.core_setCore ..).trans (if_pos rfl)⟩
  · exact ⟨_, rfl⟩

/-! ## The registers of a core -/

theorem not_granReg_coreBase {j x : Nat} (lt : x < 0x2000) : ¬ GranReg (coreBase j + x) := by
  rw [show coreBase j + x = handBase (j / 17) + (0x10000 + j % 17 * 0x2000 + x) by unfold coreBase; omega]
  exact not_granReg_handBase (by have := Nat.mod_lt j (show 0 < 17 by decide); omega)

theorem not_arriveRegs_coreBase {j x : Nat} : ¬ ArriveRegs (j / 17) (coreBase j + x) := by
  unfold ArriveRegs Reg.refetch Reg.handLost coreBase
  omega

/-- The arrival of a tile leaves the registers of its core. -/
theorem Arrived.reg_core {st x : Nat} (a : Arrived st k.val s t) (hi : st ≤ 5) (lt : x < 0x2000) : t.reg (coreBase k.val + x) = s.reg (coreBase k.val + x) := by
  have hand : handOf st k.val = k.val / 17 := if_pos hi
  exact a.frame.reg _ (by rw [hand]; exact not_arriveRegs_coreBase) (not_granReg_coreBase lt)

/-! ## The output tile -/

/-- The scales of a DRAIN are usable (R109). -/
def scalesOk (c : Cmd) : Bool :=
  scaleOk (c.scales.getD 0 0) && scaleOk (c.scales.getD 1 0) && scaleOk (c.scales.getD 2 0) &&
    ((DrainArg.of c.r).plain || scaleOk (c.scales.getD 3 0x3F800000))

/-- The value of the group's element that stands at row r and column cc of output tile c.out. -/
def Machine.State.tallied (s : State) (k : Nat) (c : Cmd) (g : Group) (r cc : Nat) : Val :=
  let a := DrainArg.of c.r
  let q := (Record.desc c.r 2).relPos c.out
  (PMap.get {} (s.core k).tally (cellKey (g.place (q.1 * fmtRows a.ofmt + r) (q.2 * fmtCols a.ofmt + cc)))).value (wordFmt g.wide)

/-- The second-stream value of an element, times its scale. -/
def secondValue (c : Cmd) (x : Option Tile) (r cc : Nat) : Val × Fl :=
  match x with
  | none => (Val.zero, (0 : Fl))
  | some y => round64 ((decodeFmt y.head.fmt (y.elem y.head.fmt r cc)).mul (v32 (c.scales.getD 3 0x3F800000)))

/-- A valid element of the output tile with its flags. -/
def Machine.State.drainElem (s : State) (k : Nat) (c : Cmd) (g : Group) (x : Option Tile) (r cc : Nat) : Nat × Fl :=
  let a := DrainArg.of c.r
  if !scalesOk c then (nanFmt a.ofmt, Fl.inv)
  else if a.plain then
    drainPlain a (scaleFactor (c.scales.getD 0 0) (c.scales.getD 1 0) (c.scales.getD 2 0)) (s.tallied k c g r cc)
  else
    drainFused a ((v32 (c.scales.getD 0 0)).mul (v32 (c.scales.getD 1 0))).1 (v32 (c.scales.getD 2 0)) (s.tallied k c g r cc)
      (secondValue c x r cc).1 (secondValue c x r cc).2

/-- Every element of the output tile. -/
def Machine.State.drainedElems (s : State) (k : Nat) (c : Cmd) (g : Group) (x : Option Tile) : List (Nat × Fl) :=
  let a := DrainArg.of c.r
  let q := (Record.desc c.r 2).relPos c.out
  let rc := drainValid g a.ofmt q.1 q.2
  drainElems a.ofmt rc.1 rc.2 (s.drainElem k c g x)

/-- The output tile that a DRAIN writes. -/
def Machine.State.drainTile (s : State) (k : Nat) (c : Cmd) (g : Group) (x : Option Tile) : Tile :=
  let a := DrainArg.of c.r
  let q := (Record.desc c.r 2).relPos c.out
  let rc := drainValid g a.ofmt q.1 q.2
  let h := s.drainHead c g c.out
  Tile.seal (if rc.1 = 0 ∨ rc.2 = 0 then h.padded else h.valid rc.1 rc.2)
    (BitVec.ofNat 32768 (packElems (fmtSize a.ofmt) ((s.drainedElems k c g x).map (·.1))))

theorem scalesOk_plain (plain : (DrainArg.of c.r).plain = true) (ok : ∀ j < 3, scaleOk (c.scales.getD j 0) = true) : scalesOk c = true := by
  unfold scalesOk
  rw [plain, ok 0 (by decide), ok 1 (by decide), ok 2 (by decide)]
  rfl

theorem getD_scales (more : 3 < c.scales.length) (z : Nat) : c.scales.getD 3 z = c.scales.getD 3 0 := by
  rw [List.getD_eq_getElem _ _ more, List.getD_eq_getElem _ _ more]

theorem scalesOk_fused (more : 3 < c.scales.length) (ok : ∀ j < 4, scaleOk (c.scales.getD j 0) = true) : scalesOk c = true := by
  unfold scalesOk
  rw [getD_scales more, ok 0 (by decide), ok 1 (by decide), ok 2 (by decide), ok 3 (by decide), Bool.or_true]
  rfl

theorem not_plain_of_second {a : DrainArg} (second : a.second = true) : a.plain = false := by
  unfold DrainArg.second at second
  unfold DrainArg.plain
  cases d : a.deriv <;> simp_all

theorem map_drainElems (f r cc : Nat) (el : Nat → Nat → Nat × Fl) : (drainElems f r cc el).map (·.1) =
    (upTo (4096 / fmtSize f)).map fun n => if inValid f r cc n then (el (n / fmtCols f) (n % fmtCols f)).1 else 0 := by
  unfold drainElems
  rw [List.map_map]
  refine List.map_congr_left fun n _ => ?_
  show (if _ then _ else _ : Nat × Fl).1 = _
  split_ifs <;> rfl

theorem drainTile_elem {x : Option Tile} {r cc : Nat}
    (hr : r < (drainValid g (DrainArg.of c.r).ofmt ((Record.desc c.r 2).relPos c.out).1 ((Record.desc c.r 2).relPos c.out).2).1)
    (hc : cc < (drainValid g (DrainArg.of c.r).ofmt ((Record.desc c.r 2).relPos c.out).1 ((Record.desc c.r 2).relPos c.out).2).2) :
    (s.drainTile k.val c g x).elem (DrainArg.of c.r).ofmt r cc = (s.drainElem k.val c g x r cc).1 % 2 ^ (8 * fmtSize (DrainArg.of c.r).ofmt) := by
  have row : r < fmtRows (DrainArg.of c.r).ofmt := lt_of_lt_of_le hr (min_le_left _ _)
  have col : cc < fmtCols (DrainArg.of c.r).ofmt := lt_of_lt_of_le hc (min_le_left _ _)
  have elem : (s.drainTile k.val c g x).elem (DrainArg.of c.r).ofmt r cc =
      payElem (payOf (DrainArg.of c.r).ofmt
        (drainValid g (DrainArg.of c.r).ofmt ((Record.desc c.r 2).relPos c.out).1 ((Record.desc c.r 2).relPos c.out).2).1
        (drainValid g (DrainArg.of c.r).ofmt ((Record.desc c.r 2).relPos c.out).1 ((Record.desc c.r 2).relPos c.out).2).2
        fun n => (s.drainElem k.val c g x (n / fmtCols (DrainArg.of c.r).ofmt) (n % fmtCols (DrainArg.of c.r).ofmt)).1)
        (fmtSize (DrainArg.of c.r).ofmt) (r * fmtCols (DrainArg.of c.r).ofmt + cc) := by
    show payElem (BitVec.ofNat 32768 (packElems _ ((drainElems _ _ _ _).map (·.1)))) _ _ = _
    rw [map_drainElems]
    rfl
  rw [elem, payElem_payOf _ row col hr hc, Nat.add_comm, Nat.add_mul_div_right _ _ (fmtCols_pos _), Nat.div_eq_of_lt col,
    Nat.add_mul_mod_self_right, Nat.mod_eq_of_lt col, Nat.zero_add]

/-! ## What is written with an output tile -/

/-- The output tile is put out and counted, and the tally tiles read with it are given back. -/
def Machine.State.written (s : State) (k : Nat) (d : Desc) (n : Nat) (x : Tile) (f : Fl) (long : Bool) (ts : List Nat) : State :=
  let s1 := ((s.put k d n x).flags (Reg.drainStat k) f).add32 (Reg.drtiles k) 1
  let s1 := if long then s1.setBit (Reg.drainStat k) 30 else s1
  s1.setCore k ((s1.core k).giveTally ts)

/-- What a DRAIN's output tile leaves. -/
structure DrainWrote (k : Nat) (d : Desc) (n : Nat) (x : Tile) (s t : State) : Prop where
  frame : Frame (fun a => a = Reg.drainStat k ∨ a = Reg.drtiles k) Nothing (· = k) Nothing s t
  quiet : Quiet s t
  tiles : t.reg (Reg.drtiles k) = s.reg (Reg.drtiles k) + 1
  queue : ∀ st u, t.queue st u = s.queue st u
  tile : outputTile (s.core k) (t.core k) d n = x
  handed : (t.core k).handed = (s.core k).handed

theorem drtiles_ne_drainStat (k : Nat) : Reg.drtiles k ≠ Reg.drainStat k := by
  unfold Reg.drtiles Reg.drainStat
  omega

theorem handed_put (s : State) (k : Nat) (d : Desc) (n : Nat) (x : Tile) : ((s.put k d n x).core k).handed = (s.core k).handed := by
  rw [core_put]
  split_ifs <;> rfl

theorem reg_add32 (s : State) (a n : Nat) : (s.add32 a n).reg a = s.reg a + BitVec.ofNat 32 n := by
  rw [State.add32, State.reg_setReg, if_pos rfl]

theorem drainWrote_written (s : State) (k : Nat) (d : Desc) (n : Nat) (x : Tile) (f : Fl) (long : Bool) (ts : List Nat) :
    DrainWrote k d n x s (s.written k d n x f long ts) := by
  have put : Frame Nothing Nothing (· = k) Nothing s (s.put k d n x) := frame_put s k d n x
  obtain ⟨m, hm⟩ : ∃ m, (s.put k d n x).flags (Reg.drainStat k) f = m := ⟨_, rfl⟩
  have flagged : m.reg (Reg.drtiles k) = s.reg (Reg.drtiles k) := by
    rw [← hm, ← put.reg (Reg.drtiles k) id]
    exact (State.reg_setReg ..).trans (if_neg (drtiles_ne_drainStat k))
  obtain ⟨b, hb⟩ : ∃ b, m.add32 (Reg.drtiles k) 1 = b := ⟨_, rfl⟩
  have tiles : b.reg (Reg.drtiles k) = s.reg (Reg.drtiles k) + 1 := by
    rw [← hb, reg_add32, flagged]
    rfl
  have frame : Frame (fun a => a = Reg.drainStat k ∨ a = Reg.drtiles k) Nothing (· = k) Nothing s b := by
    rw [← hb, ← hm]
    exact ((frame_put s k d n x).trans (frame_flags _ _ f (.inl rfl))).trans (frame_add32 _ _ 1 (.inr rfl))
  have core : b.core k = (s.put k d n x).core k := by rw [← hb, ← hm]; rfl
  have queue : ∀ st u, b.queue st u = s.queue st u := fun st u => by rw [← hb, ← hm]; exact queue_put s k d n x st u
  have quiet : Quiet s b := by rw [← hb, ← hm]; exact Quiet.trans (quiet_put s k d n x) ⟨rfl, rfl, rfl⟩
  obtain ⟨e, he⟩ : ∃ e, (if long then b.setBit (Reg.drainStat k) 30 else b) = e := ⟨_, rfl⟩
  have all : s.written k d n x f long ts = e.setCore k ((e.core k).giveTally ts) := by
    rw [← he, ← hb, ← hm]
    rfl
  have ecore : e.core k = b.core k ∧ e.reg (Reg.drtiles k) = b.reg (Reg.drtiles k) ∧ (∀ st u, e.queue st u = b.queue st u) ∧ Quiet b e ∧
      Frame (fun a => a = Reg.drainStat k ∨ a = Reg.drtiles k) Nothing (· = k) Nothing b e := by
    rw [← he]
    split_ifs
    · exact ⟨rfl, State.reg_setField_other _ _ _ _ _ _ (drtiles_ne_drainStat k), fun _ _ => rfl, ⟨rfl, rfl, rfl⟩, frame_setBit _ _ _ (.inl rfl)⟩
    · exact ⟨rfl, rfl, fun _ _ => rfl, ⟨rfl, rfl, rfl⟩, .refl b⟩
  obtain ⟨core1, reg1, queue1, quiet1, frame1⟩ := ecore
  have last : (e.setCore k ((e.core k).giveTally ts)).core k = (e.core k).giveTally ts := (State.core_setCore ..).trans (if_pos rfl)
  rw [all]
  refine ⟨(frame.trans frame1).trans (frame_setCore_self e k _), (quiet.trans quiet1).trans ⟨rfl, rfl, rfl⟩, reg1.trans tiles, fun st u => ?_, ?_, ?_⟩
  · rw [queue_setCore _ (by exact ⟨rfl, rfl, rfl, rfl, rfl⟩), queue1, queue]
  · rw [outputTile_eq, last]
    show (e.core k).slot _ = x
    rw [core1, core]
    exact (slot_put s k d n x _).trans (if_pos rfl)
  · rw [last]
    show (e.core k).handed = _
    rw [core1, core, handed_put]

/-- The last output tile of a group takes the group out of the tally's ring. -/
def Machine.State.groupLeaves (s : State) (k : Nat) (last : Prop) [Decidable last] : State :=
  if last then s.setCore k (s.core k).dropGroup else s

/-- A sum of squares goes into its slot, and the tile of the second stream is used up (R159, R161). -/
def Machine.State.drainRest (s : State) (k : Nat) (c : Cmd) (y : Tile) : State × Cmd :=
  let s1 := if (DrainArg.of c.r).sumsq then s.setCore k ((s.core k).setSlot (Record.desc c.r 1).row0 y) else s
  if (DrainArg.of c.r).second then s1.useUp k c 0 else (s1, c)

/-- The flags of an output tile's elements. -/
def Machine.State.drainFlags (s : State) (k : Nat) (c : Cmd) (g : Group) (x : Option Tile) : Fl :=
  (s.drainedElems k c g x).foldl (fun f e => f ||| e.2) (if scalesOk c then 0 else Fl.inv)

/-- The tile of sums of squares with the sum of the output tile in it (R161). -/
def Machine.State.sumTile (s w : State) (k : Nat) (c : Cmd) (g : Group) (x : Option Tile) : Tile :=
  let a := DrainArg.of c.r
  let q := (Record.desc c.r 2).relPos c.out
  let rc := drainValid g a.ofmt q.1 q.2
  let y := (w.core k).slot (Record.desc c.r 1).row0
  let pay := setPayElem y.pay (a.base + c.out) (sumSquares a.ofmt rc.1 rc.2 ((s.drainedElems k c g x).map (·.1)))
  if c.out + 1 == (Record.desc c.r 2).count then Tile.seal { fmt := 0, vrows := 16, vcols := 32 } pay else { y with pay := pay }

theorem drainOut_eq (s : State) (k i : Nat) (c : Cmd) (g : Group) (x : Option Tile) : ∃ f long ts y,
    let r := (s.written k (Record.desc c.r 2) c.out (s.drainTile k c g x) f long ts).drainRest k c y
    s.drainOut k i c g x = (r.1.groupLeaves k (c.out + 1 = (Record.desc c.r 2).count)).onward (c.out + 1 = (Record.desc c.r 2).count) 3 k i
      { r.2 with out := c.out + 1 } := by
  let a := DrainArg.of c.r
  let long := (s.core k).longRow g a.ofmt ((Record.desc c.r 2).relPos c.out).1
  let ts := readTallyTiles g a.ofmt c.out
  let w := s.written k (Record.desc c.r 2) c.out (s.drainTile k c g x) (s.drainFlags k c g x) long ts
  let r := w.drainRest k c (s.sumTile w k c g x)
  have out : s.drainOut k i c g x = if c.out + 1 == (Record.desc c.r 2).count then
      (r.1.setCore k (r.1.core k).dropGroup).finish 3 k i { r.2 with out := c.out + 1 } else r.1.setCmd 3 k i { r.2 with out := c.out + 1 } := rfl
  refine ⟨s.drainFlags k c g x, long, ts, s.sumTile w k c g x, out.trans ?_⟩
  clear out
  show _ = (r.1.groupLeaves k _).onward _ 3 k i _
  unfold State.groupLeaves State.onward
  by_cases last : c.out + 1 = (Record.desc c.r 2).count
  · rw [if_pos last, if_pos last, if_pos (beq_iff_eq.2 last)]
  · rw [if_neg last, if_neg last, if_neg (fun e => last (beq_iff_eq.1 e))]

/-- What an output tile of a DRAIN leaves with all that goes with it. -/
structure DrainGoes (k : Nat) (c : Cmd) (x : Tile) (s t : State) : Prop where
  frame : Frame (fun a => a = Reg.drainStat k ∨ a = Reg.drtiles k) Nothing (· = k) Nothing s t
  quiet : (DrainArg.of c.r).second = false → Quiet s t
  tiles : t.reg (Reg.drtiles k) = s.reg (Reg.drtiles k) + 1
  tile : (DrainArg.of c.r).sumsq = false → outputTile (s.core k) (t.core k) (Record.desc c.r 2) c.out = x
  handed : (t.core k).handed = if c.out + 1 = (Record.desc c.r 2).count then (s.core k).handed.drop 1 else (s.core k).handed

section
variable {j : Nat} {x y : Tile} {d : Desc} {n : Nat}

/-- Another tile of the core is written beside the output tile: all but the place of the output tile is as it was. -/
theorem DrainWrote.sum (w : DrainWrote j d n x s t) (b : Nat) :
    let e := t.setCore j ((t.core j).setSlot b y)
    Frame (fun a => a = Reg.drainStat j ∨ a = Reg.drtiles j) Nothing (· = j) Nothing s e ∧ Quiet s e ∧
      e.reg (Reg.drtiles j) = s.reg (Reg.drtiles j) + 1 ∧ (∀ st u, e.queue st u = s.queue st u) ∧ (e.core j).handed = (s.core j).handed := by
  refine ⟨w.frame.trans (frame_setCore_self t j _), w.quiet.trans ⟨rfl, rfl, rfl⟩, w.tiles, fun st u => ?_, ?_⟩
  · rw [queue_setCore _ (by exact ⟨rfl, rfl, rfl, rfl, rfl⟩), w.queue]
  · rw [State.core_setCore, if_pos rfl]
    exact w.handed

/-- The sum of squares, and the tile of the second stream used up. -/
theorem drainRest_goes (w : DrainWrote j (Record.desc c.r 2) c.out x s t) (y : Tile) :
    let r := t.drainRest j c y
    c.FlowsOnly r.2 ∧ Frame (fun a => a = Reg.drainStat j ∨ a = Reg.drtiles j) Nothing (· = j) Nothing s r.1 ∧
      ((DrainArg.of c.r).second = false → Quiet s r.1) ∧ r.1.reg (Reg.drtiles j) = s.reg (Reg.drtiles j) + 1 ∧
      (∀ st u, r.1.queue st u = s.queue st u) ∧
      ((DrainArg.of c.r).sumsq = false → outputTile (s.core j) (r.1.core j) (Record.desc c.r 2) c.out = x) ∧
      (r.1.core j).handed = (s.core j).handed := by
  obtain ⟨e, he⟩ : ∃ e, (if (DrainArg.of c.r).sumsq then t.setCore j ((t.core j).setSlot (Record.desc c.r 1).row0 y) else t) = e := ⟨_, rfl⟩
  have summed : Frame (fun a => a = Reg.drainStat j ∨ a = Reg.drtiles j) Nothing (· = j) Nothing s e ∧ Quiet s e ∧
      e.reg (Reg.drtiles j) = s.reg (Reg.drtiles j) + 1 ∧ (∀ st u, e.queue st u = s.queue st u) ∧ (e.core j).handed = (s.core j).handed := by
    rw [← he]
    split_ifs
    · exact w.sum _
    · exact ⟨w.frame, w.quiet, w.tiles, w.queue, w.handed⟩
  have tile : (DrainArg.of c.r).sumsq = false → outputTile (s.core j) (e.core j) (Record.desc c.r 2) c.out = x := fun none => by
    rw [← he, if_neg (by rw [none]; decide)]
    exact w.tile
  obtain ⟨frame, quiet, tiles, queue, handed⟩ := summed
  have rest : t.drainRest j c y = if (DrainArg.of c.r).second then e.useUp j c 0 else (e, c) := by rw [← he]; rfl
  dsimp only
  rw [rest]
  cases second : (DrainArg.of c.r).second with
  | false => exact ⟨⟨_, _, rfl⟩, frame, fun _ => quiet, tiles, queue, tile, handed⟩
  | true =>
    obtain ⟨released, flows⟩ := useUp_releases e j c 0
    obtain ⟨p, ports⟩ := useUp_ports e j c 0
    refine ⟨flows, frame.trans (released.frame.mono (fun _ => False.elim) (fun _ => id) (fun _ => id) (fun _ => id)), (by intro no; cases no),
      (released.frame.reg _ id).trans tiles, fun st u => (released.queue st u).trans (queue st u), fun none => ?_, ?_⟩
    · rw [← tile none, outputTile_eq, outputTile_eq]
      exact congrFun (congrArg (fun z : PMap Tile => PMap.get _ z) released.slots) _
    · exact (show ((e.useUp j c 0).1.core j).handed = (e.core j).handed by rw [ports]).trans handed

/-- The group leaves with its last output tile. -/
theorem groupLeaves_goes (w : DrainWrote j (Record.desc c.r 2) c.out x s t) (y : Tile) :
    let e := (t.drainRest j c y).1.groupLeaves j (c.out + 1 = (Record.desc c.r 2).count)
    DrainGoes j c x s e ∧ ∀ st u, e.queue st u = s.queue st u := by
  obtain ⟨-, frame, quiet, tiles, queue, tile, handed⟩ := drainRest_goes w y
  generalize (t.drainRest j c y).1 = e at *
  unfold State.groupLeaves
  split_ifs with last
  · have core : (e.setCore j (e.core j).dropGroup).core j = (e.core j).dropGroup := (State.core_setCore ..).trans (if_pos rfl)
    refine ⟨⟨frame.trans (frame_setCore_self e j _), fun n => (quiet n).trans ⟨rfl, rfl, rfl⟩, tiles, fun none => ?_, ?_⟩, fun st u => ?_⟩
    · rw [core, outputTile_eq]
      rw [outputTile_eq] at tile
      exact tile none
    · rw [core, if_pos last, ← handed]
      rfl
    · rw [queue_setCore _ (by exact ⟨rfl, rfl, rfl, rfl, rfl⟩), queue]
  · exact ⟨⟨frame, quiet, tiles, tile, by rw [if_neg last, handed]⟩, queue⟩

end

/-! ## The rows -/

/-- One output tile of a DRAIN, from the state in which its second-stream tile is there. -/
theorem drainOut_goes {d : Cmd} (here : (s.queue 3 k.val)[i]? = some d) (open_ : c.complete = false) (x : Option Tile) :
    DrainGoes k.val c (s.drainTile k.val c g x) s (s.drainOut k.val i c g x) ∧
      Advanced (s.drainOut k.val i c g x) 3 k.val i c (Record.desc c.r 2).count := by
  obtain ⟨f, long, ts, y, out⟩ := drainOut_eq s k.val i c g x
  dsimp only at out
  have wrote := drainWrote_written s k.val (Record.desc c.r 2) c.out (s.drainTile k.val c g x) f long ts
  generalize s.written k.val (Record.desc c.r 2) c.out (s.drainTile k.val c g x) f long ts = w at out wrote
  obtain ⟨goes, queues⟩ := groupLeaves_goes wrote y
  have flows := (drainRest_goes wrote y).1
  generalize (w.drainRest k.val c y).2 = e at out flows
  generalize (w.drainRest k.val c y).1.groupLeaves k.val (c.out + 1 = (Record.desc c.r 2).count) = b at out goes queues
  have queue : (b.queue 3 k.val)[i]? = some d := by rw [queues, here]
  have advanced := advanced_onward (total := (Record.desc c.r 2).count) (by decide) (by decide) queue flows open_
  have moved : Frame Nothing Nothing (· = k.val) Nothing b (b.onward (c.out + 1 = (Record.desc c.r 2).count) 3 k.val i { e with out := c.out + 1 }) :=
    frame_onward _ _ 3 _ i _ (by omega) (fun _ _ => rfl) (by omega)
  have only := queuesOnly_onward b (c.out + 1 = (Record.desc c.r 2).count) 3 k.val i k.val { e with out := c.out + 1 }
  have quiet := quiet_onward b (c.out + 1 = (Record.desc c.r 2).count) 3 k.val i { e with out := c.out + 1 }
  have tile := outputTile_onward (s.core k.val) b (c.out + 1 = (Record.desc c.r 2).count) 3 k.val i k.val { e with out := c.out + 1 }
    (Record.desc c.r 2) c.out
  rw [out]
  refine ⟨⟨goes.frame.trans (moved.mono (fun _ => False.elim) (fun _ => id) (fun _ => id) (fun _ => id)), fun n => (goes.quiet n).trans quiet,
    (moved.reg _ id).trans goes.tiles, fun n => tile.trans (goes.tile n), ?_⟩, advanced⟩
  rw [only]
  exact goes.handed

theorem drainElem_plain {x : Option Tile} {r cc : Nat} (plain : (DrainArg.of c.r).plain = true)
    (ok : ∀ j < 3, scaleOk (c.scales.getD j 0) = true) : s.drainElem k.val c g x r cc =
      drainPlain (DrainArg.of c.r) (scaleFactor (c.scales.getD 0 0) (c.scales.getD 1 0) (c.scales.getD 2 0)) (s.tallied k.val c g r cc) := by
  unfold State.drainElem
  dsimp only
  rw [if_neg (by rw [scalesOk_plain plain ok]; decide), if_pos plain]

theorem drainElem_fused {y : Tile} {r cc : Nat} (second : (DrainArg.of c.r).second = true) (more : 3 < c.scales.length)
    (ok : ∀ j < 4, scaleOk (c.scales.getD j 0) = true) : s.drainElem k.val c g (some y) r cc =
      drainFused (DrainArg.of c.r) ((v32 (c.scales.getD 0 0)).mul (v32 (c.scales.getD 1 0))).1 (v32 (c.scales.getD 2 0)) (s.tallied k.val c g r cc)
        (round64 ((decodeFmt y.head.fmt (y.elem y.head.fmt r cc)).mul (v32 (c.scales.getD 3 0)))).1
        (round64 ((decodeFmt y.head.fmt (y.elem y.head.fmt r cc)).mul (v32 (c.scales.getD 3 0)))).2 := by
  unfold State.drainElem secondValue
  dsimp only
  rw [if_neg (by rw [scalesOk_fused more ok]; decide), if_neg (by rw [not_plain_of_second second]; decide), getD_scales more]

theorem drain_writes (handed : (s.core k.val).handed = g :: gs) (works : Works s 3 k.val 1 i c) (scales : c.scales ≠ [])
    (room : s.canPut k.val (Record.desc c.r 2) = true) (second : (DrainArg.of c.r).second = false) :
    exec (.drain k) s = .next (s.drainOut k.val i c g none) := by
  show execDrain k s = _
  unfold execDrain
  rw [runStation_works works]
  unfold State.drainStep
  rw [handed]
  dsimp only
  rw [if_neg (by simpa using scales), if_neg (by rw [room]; decide), if_neg (by rw [second]; decide)]

theorem drain_writes_second {x : Tile} {s1 : State} (handed : (s.core k.val).handed = g :: gs) (works : Works s 3 k.val 1 i c)
    (more : 3 < c.scales.length) (room : s.canPut k.val (Record.desc c.r 2) = true) (second : (DrainArg.of c.r).second = true)
    (comes : TileComes s 3 k.val i c 0 c.out s1 c1 x) : exec (.drain k) s = .next (s1.drainOut k.val i c1 g (some x)) := by
  obtain ⟨a, b, rfl⟩ := (comes.arrives (by decide)).2
  show execDrain k s = _
  unfold execDrain
  rw [runStation_works works]
  unfold State.drainStep
  rw [handed]
  dsimp only
  rw [if_neg (by simp only [List.isEmpty_iff]; rintro e; simp [e] at more), if_neg (by rw [room]; decide), if_pos second, comes.withTile,
    if_neg (by show ¬ c.scales.length = 3; omega)]

theorem discard_returns (handed : (s.core k.val).handed = g :: gs) (works : Works s 3 k.val 2 i c) :
    exec (.discard k) s = .next ((s.setCore k.val ((s.core k.val).giveTally g.tiles).dropGroup).finish 3 k.val i c) := by
  show execDiscard k s = _
  unfold execDiscard
  rw [runStation_works works, handed]

/-- Settles O11. -/
theorem drainWritesTile : Obligations.DrainWritesTile := by
  intro k s i c g gs handed
  refine ⟨fun works scales => ?_, fun s1 c1 x works more => ?_, fun works => ?_⟩
  · intro a d room second
    obtain ⟨here, open_⟩ := works.at_
    obtain ⟨goes, advanced⟩ := drainOut_goes (g := g) here open_ none
    refine ⟨_, drain_writes handed works scales room second, advanced, goes.tiles, ?_, goes.quiet second, goes.frame, fun plain sumsq ok r cc hr hc => ?_⟩
    · rw [goes.handed, handed]
      rfl
    · rw [goes.tile sumsq, drainTile_elem hr hc, drainElem_plain plain ok]
      rfl
  · intro a d q room second comes
    obtain ⟨here, open_⟩ := works.at_
    obtain ⟨arrived, fa, fb, rfl⟩ := comes.arrives (by decide)
    have at1 : (s1.queue 3 k.val)[i]? = some c := by rw [arrived.queue, here]
    obtain ⟨goes, advanced⟩ := drainOut_goes (g := g) (c := { c with a := fa, b := fb }) at1 open_ (some x)
    have only := (arrived.core k.val).1
    have same : (s1.core k.val).handed = g :: gs := by rw [only]; exact handed
    refine ⟨_, drain_writes_second handed works more room second comes, advanced, ?_, ?_, goes.frame.mem.trans arrived.mem,
      fun sumsq ok r cc hr hc => ?_⟩
    · exact goes.tiles.trans (congrArg (· + 1) (arrived.reg_core (by decide) (by decide)))
    · rw [goes.handed, same]
      rfl
    · have tally : s1.tallied k.val { c with a := fa, b := fb } g r cc = s.tallied k.val c g r cc := by
        unfold State.tallied
        rw [only]
      exact (congrArg (fun y : Tile => y.elem a.ofmt r cc) (goes.tile sumsq)).trans
        ((drainTile_elem (c := { c with a := fa, b := fb }) hr hc).trans (by
          rw [drainElem_fused (c := { c with a := fa, b := fb }) second more ok, tally]
          rfl))
  · obtain ⟨here, open_⟩ := works.at_
    have core : (s.setCore k.val ((s.core k.val).giveTally g.tiles).dropGroup).core k.val = ((s.core k.val).giveTally g.tiles).dropGroup :=
      (State.core_setCore ..).trans (if_pos rfl)
    have queue : ((s.setCore k.val ((s.core k.val).giveTally g.tiles).dropGroup).queue 3 k.val)[i]? = some c := by
      rw [queue_setCore _ (by exact ⟨rfl, rfl, rfl, rfl, rfl⟩), here]
    have frame : Frame Nothing Nothing (· = k.val) Nothing s (s.setCore k.val ((s.core k.val).giveTally g.tiles).dropGroup) :=
      frame_setCore_self s _ _
    have quiet : Quiet s (s.setCore k.val ((s.core k.val).giveTally g.tiles).dropGroup) := ⟨rfl, rfl, rfl⟩
    have acts := discard_returns handed works
    generalize s.setCore k.val ((s.core k.val).giveTally g.tiles).dropGroup = e at *
    have only : (e.core k.val).QueuesOnly ((e.finish 3 k.val i c).core k.val) := queuesOnly_finish e 3 k.val i k.val c
    refine ⟨_, acts, ?_, fun x mem => ?_, ⟨_, getElem_finish (by decide) (by decide) queue c, rfl, rfl⟩, ?_, ?_,
      frame.trans (frame_finish _ 3 _ i c (by omega) (fun _ _ => rfl) (by omega)), quiet.trans (quiet_finish _ _ _ _ _)⟩
    · rw [only, core]
      show (s.core k.val).handed.drop 1 = gs
      rw [handed]
      rfl
    · rw [only, core]
      show _ ∨ x ∈ (s.core k.val).tallyRet ++ g.tiles.filter fun t => !(s.core k.val).drained.contains t
      by_cases drained : x ∈ (s.core k.val).drained
      · exact .inl drained
      · exact .inr (List.mem_append_right _ (List.mem_filter.2 ⟨mem, by simpa using drained⟩))
    · rw [only, core]
      rfl
    · rw [only, core]
      rfl

end Sys2Proof
end

section
/-! PROOFS. The work of a CUBE command (R135, R137, R140 to R142). -/

namespace Sys2Proof

open Machine

variable {r s t : State} {i : Nat} {c : Cmd} {k : CoreIx} {g : Group} {x : CubeShape}

/-! ## A group is taken (R135, R137) -/

theorem openGroup_takes {c d : Core} {e : GroupDecl} (open_ : c.openGroup e = some d) : ∃ g, d.grp = some g ∧ g.wide = e.wide ∧ g.br = e.br ∧
    g.bc = e.bc ∧ g.first = c.ringNext ∧ (∀ y ∈ d.tally, y.1 / 1024 ∉ g.tiles) ∧ (∀ a ∈ g.tiles, a ∉ c.busyTiles) ∧ SameQueues d c := by
  unfold Core.openGroup at open_
  dsimp only at open_
  split_ifs at open_ with busy
  cases open_
  refine ⟨_, rfl, rfl, rfl, rfl, rfl, fun y mem => ?_, fun a mem => ?_, rfl, rfl, rfl, rfl, rfl⟩
  · simpa using (List.mem_filter.1 mem).2
  · simp only [List.any_eq_true, not_exists, not_and] at busy
    simpa using busy a mem

theorem cube_opens {d : Core} (opens : bit (Record.arg c.r) 30 = true) (first : c.out = 0)
    (group : (s.core k.val).openGroup (groupDecl c.r) = some d) :
    s.cubeStep k.val i c = (s.setCore k.val d).setCmd 2 k.val i { c with out := 1 } := by
  unfold State.cubeStep
  rw [if_pos (by rw [opens, first]; rfl), group]

/-! ## An issue (R130, R140) -/

/-- Two states of a core that differ in the tally and its row counters alone. -/
def Machine.Core.TallyOnly (a b : Core) : Prop := b = { a with tally := b.tally, rows := b.rows }

theorem Machine.Core.TallyOnly.trans {a b d : Core} (p : a.TallyOnly b) (q : b.TallyOnly d) : a.TallyOnly d := by
  unfold Core.TallyOnly at *
  rw [q, p]

theorem tallyOnly_deliverAll (l : List (List Val)) (a : Core) (g : Group) (i j : Nat) : a.TallyOnly (a.deliverAll g i j l).1 := by
  induction l generalizing a with
  | nil => exact rfl
  | cons q l ih =>
    refine Core.TallyOnly.trans ?_ (ih (a.deliver g i j q).1)
    unfold Core.deliver
    split_ifs
    · exact rfl
    · exact rfl

theorem tallyOnly_issue (x : CubeShape) (ta tb : Nat → Tile) (n : Nat) (g : Group) (a : Core) : a.TallyOnly (x.issue ta tb n g a).1 := by
  unfold CubeShape.issue
  dsimp only
  generalize (0 : Fl) = f
  generalize (0 : Nat) = m
  generalize (x.rowsOf (x.block n)).flatMap (fun i => (x.colsOf (x.block n)).map fun j => (i, j)) = l
  induction l generalizing a f m with
  | nil => exact rfl
  | cons p l ih => exact (tallyOnly_deliverAll (x.terms ta tb (x.block n) p.1 p.2).1 a g p.1 p.2).trans (ih _ _ _)

theorem ready_mem {n : Nat} (mem : n ∈ x.ready c) : n < x.total ∧ n ∉ c.steps ∧ x.off n = false ∧ (∀ a ∈ x.tilesA n, a < c.a.got) ∧
    ∀ b ∈ x.tilesB n, b < c.b.got := by
  unfold CubeShape.ready CubeShape.due at mem
  rw [List.mem_filter, mem_upTo] at mem
  simp only [Bool.and_eq_true, List.all_eq_true, decide_eq_true_eq, Bool.not_eq_true'] at mem
  obtain ⟨lt, ⟨⟨⟨⟨new, off⟩, -⟩, -⟩, a⟩, b⟩ := mem
  exact ⟨lt, by simpa using new, off, a, b⟩

/-! ## What the work beside an issue leaves -/

/-- Tiles released, and a group that goes on: the registers, the records and the tally stay. -/
structure CubeKeeps (k : Nat) (s t : State) : Prop where
  frame : Frame Nothing Nothing (· = k) Nothing s t
  recov : t.recov = s.recov
  queue : ∀ st u, t.queue st u = s.queue st u
  tally : (t.core k).tally = (s.core k).tally

theorem CubeKeeps.refl (k : Nat) (s : State) : CubeKeeps k s s := ⟨.refl s, rfl, fun _ _ => rfl, rfl⟩

theorem CubeKeeps.trans {k : Nat} (a : CubeKeeps k r s) (b : CubeKeeps k s t) : CubeKeeps k r t :=
  ⟨a.frame.trans b.frame, b.recov.trans a.recov, fun st u => (b.queue st u).trans (a.queue st u), b.tally.trans a.tally⟩

theorem cubeKeeps_setCore (s : State) (k : Nat) (a : Core) (same : SameQueues a (s.core k)) (tally : a.tally = (s.core k).tally) :
    CubeKeeps k s (s.setCore k a) :=
  ⟨frame_setCore_self s k a, rfl, fun st u => queue_setCore _ same st u, (congrArg Core.tally ((State.core_setCore ..).trans (if_pos rfl))).trans tally⟩

theorem cubeKeeps_useUp (s : State) (k : Nat) (c : Cmd) (o : Nat) : CubeKeeps k s (s.useUp k c o).1 := by
  obtain ⟨released, -⟩ := useUp_releases s k c o
  obtain ⟨p, ports⟩ := useUp_ports s k c o
  exact ⟨released.frame, released.recov, released.queue, by rw [ports]⟩

theorem Machine.Cmd.FlowsOnly.steps {d : Cmd} (flows : c.FlowsOnly d) : d.steps = c.steps := by
  obtain ⟨_, _, rfl⟩ := flows
  rfl

theorem releaseSpent_keeps (s : State) (k : Nat) (x : CubeShape) (c : Cmd) (o n : Nat) :
    CubeKeeps k s (s.releaseSpent k x c o n).1 ∧ c.FlowsOnly (s.releaseSpent k x c o n).2 := by
  induction n generalizing s c with
  | zero => exact ⟨.refl k s, _, _, rfl⟩
  | succ n ih =>
    unfold State.releaseSpent
    split_ifs
    · obtain ⟨keeps, flows⟩ := ih (s.useUp k c o).1 (s.useUp k c o).2
      exact ⟨(cubeKeeps_useUp s k c o).trans keeps, (useUp_releases s k c o).2.trans flows⟩
    · exact ⟨.refl k s, _, _, rfl⟩

theorem releaseBoth_keeps (s : State) (k : Nat) (x : CubeShape) (c : Cmd) :
    CubeKeeps k s (s.releaseBoth k x c).1 ∧ c.FlowsOnly (s.releaseBoth k x c).2 := by
  obtain ⟨first, flows⟩ := releaseSpent_keeps s k x c 0 c.a.got
  obtain ⟨second, on⟩ := releaseSpent_keeps (s.releaseSpent k x c 0 c.a.got).1 k x (s.releaseSpent k x c 0 c.a.got).2 1
    (s.releaseSpent k x c 0 c.a.got).2.b.got
  exact ⟨first.trans second, flows.trans on⟩

/-- After an issue the record stands with its tiles released, complete when it is over. -/
theorem cubeSettle_settles (s : State) (k : CoreIx) (i : Nat) (c : Cmd) (x : CubeShape) (g : Group) :
    ∃ b c', CubeKeeps k.val s b ∧ s.cubeSettle k.val i c x g = b.onward (x.over c' = true) 2 k.val i c' ∧ c'.r = c.r ∧ c'.steps = c.steps ∧
      c'.complete = c.complete := by
  obtain ⟨keeps, flows⟩ := releaseBoth_keeps s k.val x c
  unfold State.cubeSettle
  generalize s.releaseBoth k.val x c = p at keeps flows
  obtain ⟨e, c'⟩ := p
  dsimp only
  unfold State.onward
  by_cases ends : x.over c' = true
  · rw [if_pos ends]
    refine ⟨_, c', keeps.trans (cubeKeeps_setCore e k.val ((e.core k.val).endCommand (g.extend c' x) (bit (Record.arg c.r) 29)) ?_ ?_), (if_pos ends).symm, flows.record, flows.steps, flows.complete⟩
    · unfold Core.endCommand
      split_ifs
      · exact ⟨rfl, rfl, rfl, rfl, rfl⟩
      · exact ⟨rfl, rfl, rfl, rfl, rfl⟩
    · unfold Core.endCommand
      split_ifs
      · rfl
      · rfl
  · rw [if_neg ends]
    exact ⟨e, c', keeps, (if_neg ends).symm, flows.record, flows.steps, flows.complete⟩

theorem openGap_keeps (s : State) (k : Nat) : CubeKeeps k s (s.openGap k) := by
  unfold State.openGap
  split_ifs
  · exact cubeKeeps_setCore s k _ (by exact ⟨rfl, rfl, rfl, rfl, rfl⟩) rfl
  · exact .refl k s

/-- The end of a gap, ahead of an issue: dummy cycles are counted and the ramp changes. -/
structure GapEnds (k : Nat) (s t : State) : Prop where
  frame : Frame (· = Reg.gapfill k) Nothing (· = k) Nothing s t
  recov : t.recov = s.recov
  queue : ∀ st u, t.queue st u = s.queue st u
  core : ∃ n, t.core k = { s.core k with ramp := n }

/-- The most dummy cycles that the stretch behind a cube can hold. -/
def Machine.State.gapMost (s : State) (k : Nat) : Nat :=
  match (s.core k).ramp with
  | 1 => s.gapFill k * s.duty k / 8
  | 2 => 4 * s.duty k
  | _ => 0

theorem cubeWork_eq (s e : State) (k : Nat)
    (counted : (if s.gapMost k = 0 then s else (s.addGapfill k (s.fresh % (s.gapMost k + 1))).spend) = e) :
    s.cubeWork k = e.setCore k { e.core k with ramp := if s.duty k < s.dutyTop k then 3 else 0 } := by
  rw [← counted]
  rfl

theorem cubeWork_ends (s : State) (k : Nat) : GapEnds k s (s.spend.cubeWork k) := by
  obtain ⟨e, he⟩ : ∃ e, (if s.spend.gapMost k = 0 then s.spend else (s.spend.addGapfill k (s.spend.fresh % (s.spend.gapMost k + 1))).spend) = e :=
    ⟨_, rfl⟩
  have counted : Frame (· = Reg.gapfill k) Nothing (· = k) Nothing s e ∧ e.recov = s.recov ∧ (∀ st u, e.queue st u = s.queue st u) ∧
      e.core k = s.core k := by
    rw [← he]
    split_ifs
    · exact ⟨frame_spend s, rfl, fun _ _ => rfl, rfl⟩
    · have gap : Frame (· = Reg.gapfill k) Nothing (· = k) Nothing s.spend (s.spend.addGapfill k (s.spend.fresh % (s.spend.gapMost k + 1))) :=
        frame_add32 _ (Reg.gapfill k) _ rfl
      exact ⟨((frame_spend s).trans gap).trans (frame_spend _), rfl, fun _ _ => rfl, rfl⟩
  obtain ⟨frame, recov, queue, core⟩ := counted
  rw [cubeWork_eq _ _ k he]
  refine ⟨frame.trans (frame_setCore_self e k _), recov, fun st u => ?_, _, ((State.core_setCore ..).trans (if_pos rfl)).trans (by rw [core])⟩
  rw [queue_setCore _ (by exact ⟨rfl, rfl, rfl, rfl, rfl⟩), queue]

theorem ops_apart (k : Nat) (x : CubeShape) : Reg.ops k x.cls ≠ Reg.gapfill k ∧ Reg.ops k x.cls + 4 ≠ Reg.gapfill k ∧
    Reg.ops k x.cls ≠ Reg.cubeStat k ∧ Reg.ops k x.cls + 4 ≠ Reg.cubeStat k := by
  have sig : ∀ f, sigClass f ≤ 3 := fun f => by unfold sigClass; split <;> decide
  have cls : x.cls ≤ 4 := by
    unfold CubeShape.cls pairClass
    have := sig x.fa
    have := sig x.fb
    dsimp only
    split_ifs
    · exact le_rfl
    · omega
  unfold Reg.ops Reg.gapfill Reg.cubeStat
  omega

theorem heldTile_congr {u o : Nat} (ports : (t.core u).ports = (s.core u).ports) (slots : (t.core u).slots = (s.core u).slots) :
    t.heldTile u c o = s.heldTile u c o := by
  funext n
  unfold State.heldTile
  dsimp only
  split
  · rfl
  · unfold Core.peek Core.port Core.slot
    rw [ports, slots]
  · unfold Core.slot
    rw [slots]

/-! ## The row -/

/-- One block step issued: the tally, the flags and the count of products. -/
def Machine.State.issued (s : State) (k : Nat) (x : CubeShape) (p : Core × Fl × Nat) : State :=
  ((s.setCore k p.1).flags (Reg.cubeStat k) p.2.1).add64 (Reg.ops k x.cls) ((if x.mma then 2 else 1) * p.2.2)

/-- What an issue leaves beside its record. -/
structure Issued (k : Nat) (x : CubeShape) (p : Core × Fl × Nat) (s t : State) : Prop where
  frame : Frame (fun a => a = Reg.ops k x.cls ∨ a = Reg.ops k x.cls + 4 ∨ a = Reg.cubeStat k ∨ a = Reg.gapfill k) Nothing (· = k) Nothing s t
  recov : t.recov = s.recov
  tally : (t.core k).tally = p.1.tally
  ops : t.reg64 (Reg.ops k x.cls) = (s.reg64 (Reg.ops k x.cls) + (if x.mma then 2 else 1) * p.2.2) % 2 ^ 64

theorem Issued.after {k : Nat} {p : Core × Fl × Nat} (a : Issued k x p r s) (frame : Frame Nothing Nothing (· = k) Nothing s t)
    (recov : t.recov = s.recov) (tally : (t.core k).tally = (s.core k).tally) : Issued k x p r t :=
  ⟨a.frame.trans (frame.mono (fun _ => False.elim) (fun _ => id) (fun _ => id) (fun _ => id)), recov.trans a.recov, tally.trans a.tally,
    (State.reg64_congr _ (frame.reg _ id) (frame.reg _ id)).trans a.ops⟩

theorem issued_issued {k : Nat} {p : Core × Fl × Nat} (a : GapEnds k s t) (only : (t.core k).TallyOnly p.1) (x : CubeShape) :
    Issued k x p s (t.issued k x p) ∧ ∀ st u, (t.issued k x p).queue st u = s.queue st u := by
  obtain ⟨lo, hi, lo', hi'⟩ := ops_apart k x
  have same : ((t.setCore k p.1).flags (Reg.cubeStat k) p.2.1).reg64 (Reg.ops k x.cls) = s.reg64 (Reg.ops k x.cls) :=
    State.reg64_congr _ (((State.reg_setReg ..).trans (if_neg lo')).trans (a.frame.reg _ lo)) (((State.reg_setReg ..).trans (if_neg hi')).trans (a.frame.reg _ hi))
  refine ⟨⟨?_, a.recov, congrArg Core.tally ((State.core_setCore ..).trans (if_pos rfl)), ?_⟩, fun st u => ?_⟩
  · refine (a.frame.mono (fun _ e => .inr (.inr (.inr e))) (fun _ => id) (fun _ => id) (fun _ => id)).trans ?_
    exact ((frame_setCore_self t k p.1).trans (frame_flags _ _ _ (.inr (.inr (.inl rfl))))).trans (frame_add64 _ _ _ (.inl rfl) (.inr (.inl rfl)))
  · unfold State.issued
    rw [reg64_add64, same]
  · refine (queue_setCore p.1 ?_ st u).trans (a.queue st u)
    rw [only]
    exact ⟨rfl, rfl, rfl, rfl, rfl⟩

theorem cubeStep_issues (group : bit (Record.arg c.r) 30 = false ∨ c.out ≠ 0) (first : s.arriveTile 2 k.val i c 0 false = .wait)
    (second : s.arriveTile 2 k.val i c 1 false = .wait) (shape : c.shape = some x) (taken : (s.core k.val).grp = some g) :
    s.cubeStep k.val i c = s.cubeIssue k.val i c x g := by
  unfold State.cubeStep
  rw [if_neg (by simp only [Bool.and_eq_true, beq_iff_eq]; rintro ⟨a, b⟩; rcases group with e | e; exacts [by simp [e] at a, e b]), first, second]
  dsimp only
  rw [shape, taken]

theorem cube_issues (here : (s.queue 2 k.val)[i]? = some c) (open_ : c.complete = false) (duty : 0 < s.duty k.val) (some_ : x.ready c ≠ []) :
    ∃ n ∈ x.ready c, ∃ c', ((s.cubeIssue k.val i c x g).queue 2 k.val)[i]? = some c' ∧ c'.r = c.r ∧ c'.steps = n :: c.steps ∧
      c'.complete = x.over c' ∧
      Issued k.val x (x.issue (s.heldTile k.val c 0) (s.heldTile k.val c 1) n g ((s.spend.cubeWork k.val).core k.val)) s (s.cubeIssue k.val i c x g) := by
  have pos : 0 < (x.ready c).length := List.length_pos_iff.2 some_
  have lt : s.fresh % (x.ready c).length < (x.ready c).length := Nat.mod_lt _ pos
  have at_ : (x.ready c)[s.fresh % (x.ready c).length]? = some (x.ready c)[s.fresh % (x.ready c).length] := List.getElem?_eq_getElem lt
  have mem : (x.ready c)[s.fresh % (x.ready c).length] ∈ x.ready c := List.getElem_mem lt
  generalize (x.ready c)[s.fresh % (x.ready c).length] = n at at_ mem
  have gap := cubeWork_ends s k.val
  refine ⟨n, mem, ?_⟩
  unfold State.cubeIssue
  dsimp only
  rw [at_]
  dsimp only
  generalize s.spend.cubeWork k.val = e at gap ⊢
  obtain ⟨ramp, core⟩ := gap.core
  have tiles : ∀ o, e.heldTile k.val c o = s.heldTile k.val c o := fun o => heldTile_congr (by rw [core]) (by rw [core])
  have still : e.duty k.val = s.duty k.val := State.field_congr (gap.frame.reg _ (by unfold Reg.cubeStat Reg.gapfill; omega)) 24 4
  rw [if_neg (by omega), tiles, tiles]
  have only := tallyOnly_issue x (s.heldTile k.val c 0) (s.heldTile k.val c 1) n g (e.core k.val)
  generalize x.issue (s.heldTile k.val c 0) (s.heldTile k.val c 1) n g (e.core k.val) = p at only ⊢
  obtain ⟨issued, queues⟩ := issued_issued gap only x
  obtain ⟨a, ha⟩ : ∃ a, ((e.setCore k.val p.1).flags (Reg.cubeStat k.val) p.2.1).add64 (Reg.ops k.val x.cls) ((if x.mma then 2 else 1) * p.2.2) = a :=
    ⟨_, rfl⟩
  have same : e.issued k.val x p = a := ha
  rw [same] at issued queues
  rw [ha]
  obtain ⟨b, c', keeps, settles, record, steps, complete⟩ := cubeSettle_settles a k i
    { c with steps := n :: c.steps, cnt0 := if c.steps.isEmpty then e.reg64 (Reg.ops k.val x.cls) else c.cnt0, cnt1 := a.reg64 (Reg.ops k.val x.cls),
             aux := x.cls + (if x.mma || x.eop == 0 then classPasses x.cls x.prec else 1) <<< 3 } x g
  rw [settles]
  have at1 : (b.queue 2 k.val)[i]? = some c := by rw [keeps.queue, queues, here]
  obtain ⟨m, rec⟩ := record_onward (last := x.over c' = true) (by decide) (by decide) at1 c' (complete.trans open_)
  have gapped := openGap_keeps (b.onward (x.over c' = true) 2 k.val i c') k.val
  have moved : Frame Nothing Nothing (· = k.val) Nothing b (b.onward (x.over c' = true) 2 k.val i c') :=
    frame_onward _ _ 2 _ i _ (by omega) (fun _ _ => rfl) (by omega)
  have only := queuesOnly_onward b (x.over c' = true) 2 k.val i k.val c'
  refine ⟨{ c' with complete := decide (x.over c' = true), cnt1 := m }, by rw [gapped.queue]; exact rec, record, steps, Bool.decide_eq_true,
    ((issued.after keeps.frame keeps.recov keeps.tally).after moved (quiet_onward _ _ _ _ _ _).2.1 ?_).after gapped.frame gapped.recov gapped.tally⟩
  rw [only]

theorem cubeRow_works {y : Instr × Nat} (mem : y ∈ ([(.mma k, 1), (.elem k, 2)] : List (Instr × Nat))) (works : Works s 2 k.val y.2 i c) :
    exec y.1 s = .next (s.cubeStep k.val i c) := by
  simp only [List.mem_cons, List.not_mem_nil, or_false] at mem
  obtain rfl | rfl := mem
  · show execMma k s = _
    unfold execMma
    rw [runStation_works works]
  · show execElem k s = _
    unfold execElem
    rw [runStation_works works]

/-- Settles O10. -/
theorem cubeIssuesBlocks : Obligations.CubeIssuesBlocks := by
  intro k s i c y mem works
  have acts := cubeRow_works mem works
  obtain ⟨here, open_⟩ := works.at_
  refine ⟨fun d opens first group => ?_, fun x g group first second shape taken duty some_ => ?_⟩
  · obtain ⟨g, grp, wide, br, bc, ring, clear, free, same⟩ := openGroup_takes group
    rw [cube_opens opens first group] at acts
    have only : d.QueuesOnly (((s.setCore k.val d).setCmd 2 k.val i { c with out := 1 }).core k.val) := by
      have only : ((s.setCore k.val d).core k.val).QueuesOnly (((s.setCore k.val d).setCmd 2 k.val i { c with out := 1 }).core k.val) :=
        queuesOnly_setQueue _ _ _ _ _
      rwa [State.core_setCore, if_pos rfl] at only
    refine ⟨_, acts, g, ?_, wide, br, bc, ring, ?_, free, (frame_setCore_self s k.val d).trans (frame_setCmd _ 2 _ i _ (by omega) (fun _ _ => rfl) (by omega)),
      Quiet.trans (s := s.setCore k.val d) ⟨rfl, rfl, rfl⟩ (quiet_setCmd _ _ _ _ _)⟩
    · rw [only]
      exact grp
    · rw [only]
      exact clear
  · rw [cubeStep_issues group first second shape taken] at acts
    obtain ⟨n, mem, c', rec, record, steps, complete, issued⟩ := cube_issues (g := g) here open_ duty some_
    obtain ⟨lt, new, off, a, b⟩ := ready_mem mem
    exact ⟨_, acts, n, c', lt, new, off, a, b, rec, record, steps, complete, issued.tally, issued.ops, issued.recov, issued.frame⟩

end Sys2Proof
end

section
/-! PROOFS. SCATTER and RESEAL (R312, R313). -/

namespace Sys2Proof

open Machine

variable {r s t s1 : State} {i : Nat} {c c1 : Cmd} {k : CoreIx} {x : Tile}

/-! ## The elements of a SCATTER -/

/-- One element of a SCATTER under its index. -/
def Machine.State.scatterPair (s : State) (k tid op e : Nat) (p : Nat × Nat) : State :=
  if p.1 = skipIx then s
  else match elemVa e p.1 with
    | none => s.setBit (Reg.storeStat k) 29
    | some va => s.scatterOne k tid op (Entry.fmt e) va p.2

theorem scatterTile_eq (s : State) (k tid op e : Nat) (ixs : List Nat) (x : Tile) :
    s.scatterTile k tid op e ixs x = (List.zip ixs (payElems (fmtSize (Entry.fmt e)) x.pay)).foldl (fun s p => s.scatterPair k tid op e p) s := rfl

theorem scatter_skips {j tid op e : Nat} (l : List (Nat × Nat)) (skip : ∀ p ∈ l, p.1 = 0xFFFFFFFF) (s : State) :
    l.foldl (fun s p => s.scatterPair j tid op e p) s = s := by
  induction l with
  | nil => rfl
  | cons p l ih =>
    rw [List.foldl_cons, show s.scatterPair j tid op e p = s from if_pos (skip p (List.mem_cons_self ..))]
    exact ih fun q mem => skip q (List.mem_cons_of_mem _ mem)

/-- A write at home behind demand accesses, where no partner copy is kept. -/
theorem Demand.storeHome (met : Demand s t) (tid pa n v : Nat) :
    ∃ u, Demand s u ∧ t.storeHome tid pa false n v = { u with mem := Memory.write s.mem pa n v } := by
  obtain ⟨u, stored, e⟩ := storePa_eq t tid pa n v
  exact ⟨u, met.trans stored, met.mem ▸ e⟩

theorem queue_flags (s : State) (a : Nat) (f : Fl) (st u : Nat) : (s.flags a f).queue st u = s.queue st u := rfl

theorem queue_add64 (s : State) (a n st u : Nat) : (s.add64 a n).queue st u = s.queue st u := rfl

/-- An atomic's counts and flags leave memory and the records. -/
theorem atomicCounts_keep (s : State) (a b d m n : Nat) (f : Fl) : (((s.flags a f).add64 b m).add64 d n).mem = s.mem ∧
    ∀ st u, (((s.flags a f).add64 b m).add64 d n).queue st u = s.queue st u :=
  ⟨rfl, fun st u => by rw [queue_add64, queue_add64, queue_flags]⟩

theorem scatterOne_eq {tid op f va v pa : Nat} (way : s.translate va .atomic = .ok pa false) (sound : s.poisonIn pa (fmtSize f) = false) : ∃ a b d m n g,
    s.scatterOne k.val tid op f va v = ((((s.atHome (k.val / 17) tid va pa (fmtSize f)).storeHome tid pa false (fmtSize f)
      (atomicFp op f (Memory.read s.mem pa (fmtSize f)) v).1).flags a g).add64 b m).add64 d n := by
  unfold State.scatterOne
  dsimp only
  rw [way]
  dsimp only
  rw [if_neg (by rw [sound]; decide)]
  exact ⟨_, _, _, _, _, _, rfl⟩

/-- An atomic of a SCATTER replaces the element, and leaves the records as they are. -/
theorem scatterOne_stores {tid op f va v pa : Nat} (way : s.translate va .atomic = .ok pa false) (sound : s.poisonIn pa (fmtSize f) = false) :
    let y := s.scatterOne k.val tid op f va v
    y.mem = Memory.write s.mem pa (fmtSize f) (atomicFp op f (Memory.read s.mem pa (fmtSize f)) v).1 ∧ ∀ st u, y.queue st u = s.queue st u := by
  obtain ⟨a, b, d, m, n, g, eq⟩ := scatterOne_eq (k := k) (tid := tid) (op := op) (v := v) way sound
  have met : Demand s (s.atHome (k.val / 17) tid va pa (fmtSize f)) := (demand_walkLines s _ _).trans (demand_readLine _ _ _ _ _)
  obtain ⟨u, stored, e⟩ := met.storeHome tid pa (fmtSize f) (atomicFp op f (Memory.read s.mem pa (fmtSize f)) v).1
  rw [e] at eq
  rw [eq]
  obtain ⟨mem, queue⟩ := atomicCounts_keep { u with mem := Memory.write s.mem pa (fmtSize f) (atomicFp op f (Memory.read s.mem pa (fmtSize f)) v).1 } a b d m n g
  exact ⟨mem, fun st w => (queue st w).trans (stored.queue st w)⟩

/-! ## A tile of a SCATTER -/

/-- A station's record goes on after an input tile. -/
def Machine.State.goOn (s : State) (st k i : Nat) (c : Cmd) (total : Nat) : State :=
  (s.useUp k c 0).1.onward (c.out + 1 = total) st k i { (s.useUp k c 0).2 with out := c.out + 1 }

theorem goOn_advances {total : Nat} (s1 : State) (here : (s1.queue 5 k.val)[i]? = some c) (flows : c.FlowsOnly c1) (open_ : c.complete = false) :
    (s1.goOn 5 k.val i c1 total).mem = s1.mem ∧ Advanced (s1.goOn 5 k.val i c1 total) 5 k.val i c total := by
  obtain ⟨released, on⟩ := useUp_releases s1 k.val c1 0
  unfold State.goOn
  rw [flows.out]
  refine ⟨?_, advanced_onward (by decide) (by decide) (by rw [released.queue]; exact here) (flows.trans on) open_⟩
  have moved : Frame Nothing Nothing (· = k.val) Nothing (s1.useUp k.val c1 0).1 ((s1.useUp k.val c1 0).1.onward (c.out + 1 = total) 5 k.val i
      { (s1.useUp k.val c1 0).2 with out := c.out + 1 }) := frame_onward _ _ 5 _ i _ (by omega) (fun _ _ => rfl) (by omega)
  exact moved.mem.trans released.frame.mem

theorem scatter_tile (works : Works s 5 k.val 2 i c) (indices : (Record.desc c.r 1).count ≤ c.b.got)
    (free : c.out = 0 → s.indexFault .atomic (s.entry (Record.desc c.r 2).tid)
      ((s.scatterIxs k.val c).take ((Record.desc c.r 0).count * (4096 / fmtSize (Entry.fmt (s.entry (Record.desc c.r 2).tid))))) = none)
    (context : s.noContext 5 k.val = false)
    (ways : ∀ y ∈ s.scatterIxs k.val c, s.elemWay (k.val / 17) (s.entry (Record.desc c.r 2).tid) y = true)
    (comes : TileComes s 5 k.val i c 0 c.out s1 c1 x) :
    exec (.scatter k) s = .next ((s1.scatterTile k.val (Record.desc c.r 2).tid (Record.argBits c.r 0 2) (s.entry (Record.desc c.r 2).tid)
      (((s.scatterIxs k.val c).drop (c.out * (4096 / fmtSize (Entry.fmt (s.entry (Record.desc c.r 2).tid))))).take
        (4096 / fmtSize (Entry.fmt (s.entry (Record.desc c.r 2).tid)))) x).goOn 5 k.val i c1 (Record.desc c.r 0).count) := by
  have flows := (comes.arrives (by decide)).2
  show execScatter k s = _
  unfold execScatter
  rw [runStation_works works]
  unfold State.scatterStep
  dsimp only
  rw [if_neg (by omega)]
  have none_ : (if c.out = 0 then s.indexFault .atomic (s.entry (Record.desc c.r 2).tid) ((s.scatterIxs k.val c).take
      ((Record.desc c.r 0).count * (4096 / fmtSize (Entry.fmt (s.entry (Record.desc c.r 2).tid))))) else none) = none := by
    split_ifs with first
    · exact free first
    · rfl
  rw [none_]
  dsimp only
  rw [if_neg (by rw [context]; decide), if_neg (by simpa using ways), comes.withTile, flows.out, flows.record]
  unfold State.goOn
  rw [flows.out]
  rfl

/-! ## RESEAL -/

theorem readTile_header {h p : Nat} (read : s.readTile h p = .ok x) : s.vread h 32 = .ok x.hdr.toNat := by
  unfold State.readTile at read
  split at read
  · cases read
  · cases read
  · next v e =>
    dsimp only at read
    split at read
    · cases read
    · cases read
    · split_ifs at read
      cases read
      rw [e, BitVec.toNat_ofNat, Nat.mod_eq_of_lt]
      exact vread_lt e

/-- The lower bits of the header that RESEAL writes: the tile's, with the payload's CRC. -/
def keptBits (x : Tile) : Nat := setBits (x.hdr.toNat % 2 ^ 240) 128 32 (crc32c (toBytes 4096 x.pay.toNat))

theorem sealKeep_toNat (x : Tile) : keptBits x < 2 ^ 240 ∧ hchkOf (keptBits x) < 2 ^ 16 ∧
    (sealKeep x).toNat = keptBits x + hchkOf (keptBits x) * 2 ^ 240 := by
  have low : keptBits x < 2 ^ 240 := setBits_lt _ _ _ _ _ (Nat.mod_lt _ (by positivity)) (by decide)
  have hchk : hchkOf (keptBits x) < 2 ^ 16 := crc16_lt _
  refine ⟨low, hchk, ?_⟩
  have word : (sealKeep x).toNat = (keptBits x + hchkOf (keptBits x) <<< 240) % 2 ^ 256 := BitVec.toNat_ofNat ..
  rw [word, Nat.shiftLeft_eq]
  omega

theorem bits_sealKeep {x : Tile} {lo w : Nat} (below : lo + w ≤ 240) : bits (sealKeep x).toNat lo w = bits (keptBits x) lo w := by
  obtain ⟨low, -, word⟩ := sealKeep_toNat x
  rw [← bits_low _ _ _ 240 below, word, Nat.add_mul_mod_self_right, Nat.mod_eq_of_lt low]

/-- The header that RESEAL writes has the payload's CRC and its own HCHK, and is else as it was. -/
theorem sealKeep_bits (x : Tile) : bits (sealKeep x).toNat 0 128 = bits x.hdr.toNat 0 128 ∧
    bits (sealKeep x).toNat 128 32 = crc32c (toBytes 4096 x.pay.toNat) ∧ bits (sealKeep x).toNat 160 80 = bits x.hdr.toNat 160 80 ∧
    bits (sealKeep x).toNat 240 16 = hchkOf (bits (sealKeep x).toNat 0 240) := by
  obtain ⟨low, hchk, word⟩ := sealKeep_toNat x
  refine ⟨?_, ?_, ?_, ?_⟩
  · rw [bits_sealKeep (by decide), keptBits, bits_setBits_other _ _ _ _ _ _ (.inl (by decide)), bits_low _ _ _ _ (by decide)]
  · rw [bits_sealKeep (by decide), keptBits, bits_setBits, Nat.mod_eq_of_lt (crc32c_lt _)]
  · rw [bits_sealKeep (by decide), keptBits, bits_setBits_other _ _ _ _ _ _ (.inr (by decide)), bits_low _ _ _ _ (by decide)]
  · have kept : bits (sealKeep x).toNat 0 240 = keptBits x := (bits_sealKeep (by decide)).trans (Nat.mod_eq_of_lt low)
    rw [kept, word, bits, Nat.shiftRight_eq_div_pow,
      Nat.add_mul_div_right _ _ (by positivity), Nat.div_eq_of_lt low, Nat.zero_add, Nat.mod_eq_of_lt hchk]

/-- What RESEAL leaves of a tile whose header's place is known. -/
theorem reseal_writes {pa : Nat} (works : Works s 5 k.val 3 i c) (context : s.noContext 5 k.val = false)
    (hw : s.wayTo (k.val / 17) (s.tileVa (Record.desc c.r 2) 256 c.out).1 = true)
    (pw : s.wayTo (k.val / 17) (s.tileVa (Record.desc c.r 2) 256 c.out).2 = true)
    (read : s.readTile (s.tileVa (Record.desc c.r 2) 256 c.out).1 (s.tileVa (Record.desc c.r 2) 256 c.out).2 = .ok x) (sound : x.headSound = true)
    (way : (s.seenTile (k.val / 17) (Record.desc c.r 2).tid (s.tileVa (Record.desc c.r 2) 256 c.out).1
      (s.tileVa (Record.desc c.r 2) 256 c.out).2).translate (s.tileVa (Record.desc c.r 2) 256 c.out).1 .write = .ok pa false) :
    ∃ u, Demand s u ∧ exec (.reseal k) s = .next ((({ u with mem := Memory.write s.mem pa 32 (sealKeep x).toNat } : State).add64
      (Reg.stbytes k.val) 32).onward (c.out + 1 = (Record.desc c.r 2).count) 5 k.val i { c with out := c.out + 1 }) := by
  have header := readTile_header read
  have seen := demand_seenTile s (k.val / 17) (Record.desc c.r 2).tid (s.tileVa (Record.desc c.r 2) 256 c.out).1
    (s.tileVa (Record.desc c.r 2) 256 c.out).2
  obtain ⟨u, stored, e⟩ := storeVa_eq (s.seenTile (k.val / 17) (Record.desc c.r 2).tid (s.tileVa (Record.desc c.r 2) 256 c.out).1
    (s.tileVa (Record.desc c.r 2) 256 c.out).2) (k.val / 17) (Record.desc c.r 2).tid (s.tileVa (Record.desc c.r 2) 256 c.out).1 pa 32 (sealKeep x).toNat
  refine ⟨u, seen.trans stored, ?_⟩
  show execReseal k s = _
  unfold execReseal
  rw [runStation_works works]
  unfold State.resealStep State.vwrite
  dsimp only
  rw [if_neg (by rw [context]; decide), if_neg (by rw [hw, pw]; decide), header]
  dsimp only
  rw [read]
  dsimp only
  rw [if_neg (by rw [sound]; decide), way]
  dsimp only
  rw [e, seen.mem]
  rfl

/-- Settles O13. -/
theorem scatterAndReseal : Obligations.ScatterAndReseal := by
  refine ⟨?_, ?_⟩
  · intro k s s1 i c c1 x safe works e size indices free context ways comes pairs
    have acts := scatter_tile works indices free context ways comes
    obtain ⟨here, open_⟩ := works.at_
    obtain ⟨arrived, flows⟩ := comes.arrives (by decide)
    have at1 : (s1.queue 5 k.val)[i]? = some c := by rw [arrived.queue, here]
    rw [scatterTile_eq] at acts
    refine ⟨fun skips => ?_, fun l l' ix v va pa split skips live addr way sound => ?_⟩
    · rw [scatter_skips _ skips] at acts
      obtain ⟨mem, advanced⟩ := goOn_advances s1 at1 flows open_ (total := (Record.desc c.r 0).count)
      exact ⟨_, acts, mem.trans arrived.mem, advanced⟩
    · have one : s1.scatterPair k.val (Record.desc c.r 2).tid (Record.argBits c.r 0 2) e (ix, v) =
          s1.scatterOne k.val (Record.desc c.r 2).tid (Record.argBits c.r 0 2) (Entry.fmt e) va v := by
        exact (if_neg (show ¬ ix = skipIx from live)).trans (by rw [addr])
      have all : pairs.foldl (fun s p => s.scatterPair k.val (Record.desc c.r 2).tid (Record.argBits c.r 0 2) e p) s1 =
          s1.scatterOne k.val (Record.desc c.r 2).tid (Record.argBits c.r 0 2) (Entry.fmt e) va v := by
        rw [split, List.foldl_append, List.foldl_cons, scatter_skips l fun p mem => skips p (List.mem_append_left _ mem), one,
          scatter_skips l' fun p mem => skips p (List.mem_append_right _ mem)]
      rw [show List.zip _ _ = pairs from rfl, all] at acts
      obtain ⟨stored, queue⟩ := scatterOne_stores (k := k) (tid := (Record.desc c.r 2).tid) (op := Record.argBits c.r 0 2) (v := v) way sound
      obtain ⟨mem, advanced⟩ := goOn_advances (c := c) (c1 := c1) (k := k) (i := i) (total := (Record.desc c.r 0).count)
        (s1.scatterOne k.val (Record.desc c.r 2).tid (Record.argBits c.r 0 2) (Entry.fmt e) va v) (by rw [queue]; exact at1) flows open_
      rw [stored, arrived.mem] at mem
      refine ⟨_, acts, ?_, fun a off => ?_, advanced⟩
      · rw [mem, Memory.read_write _ _ _ safe.1]
      · rw [mem]
        exact Memory.byte_write_other _ _ _ _ safe.1 off
  · intro k s i c x pa safe works d va context hw pw read sound way
    obtain ⟨u, met, acts⟩ := reseal_writes works context hw pw read sound way
    obtain ⟨here, open_⟩ := works.at_
    obtain ⟨crc, hchk⟩ := sealKeep_bits x
    have frame : MemFrame (fun a => a = Reg.stbytes k.val ∨ a = Reg.stbytes k.val + 4) Nothing (· = k.val) Nothing s
        (({ u with mem := Memory.write s.mem pa 32 (sealKeep x).toNat } : State).add64 (Reg.stbytes k.val) 32) :=
      (met.mem_frame.trans (memFrame_mem u _)).trans (frame_add64 _ _ _ (.inl rfl) (.inr rfl)).mem_frame
    have calm : Calm s (({ u with mem := Memory.write s.mem pa 32 (sealKeep x).toNat } : State).add64 (Reg.stbytes k.val) 32) := met.calm
    have queue : ((({ u with mem := Memory.write s.mem pa 32 (sealKeep x).toNat } : State).add64 (Reg.stbytes k.val) 32).queue 5 k.val)[i]? = some c :=
      (congrArg (fun q : List Cmd => q[i]?) (met.queue 5 k.val)).trans here
    have mem : (({ u with mem := Memory.write s.mem pa 32 (sealKeep x).toNat } : State).add64 (Reg.stbytes k.val) 32).mem =
      Memory.write s.mem pa 32 (sealKeep x).toNat := rfl
    generalize ({ u with mem := Memory.write s.mem pa 32 (sealKeep x).toNat } : State).add64 (Reg.stbytes k.val) 32 = b at *
    have moved : Frame Nothing Nothing (· = k.val) Nothing b (b.onward (c.out + 1 = (Record.desc c.r 2).count) 5 k.val i { c with out := c.out + 1 }) :=
      frame_onward _ _ 5 _ i _ (by omega) (fun _ _ => rfl) (by omega)
    have header : Memory.read (b.onward (c.out + 1 = (Record.desc c.r 2).count) 5 k.val i { c with out := c.out + 1 }).mem pa 32 = (sealKeep x).toNat := by
      rw [moved.mem, mem, Memory.read_write _ _ _ safe.1]
      exact Nat.mod_eq_of_lt (sealKeep x).isLt
    refine ⟨_, acts, ?_⟩
    dsimp only
    rw [header]
    refine ⟨crc, hchk.1, hchk.2.1, hchk.2.2, fun a off => ?_, advanced_onward (by decide) (by decide) queue ⟨_, _, rfl⟩ open_,
      calm.trans (quiet_onward _ _ _ _ _ _).calm, frame.trans (moved.mono (fun _ => False.elim) (fun _ => id) (fun _ => id) (fun _ => id)).mem_frame⟩
    rw [moved.mem, mem]
    exact Memory.byte_write_other _ _ _ _ safe.1 off

end Sys2Proof
end

section
/-! PROOFS. MARK and EPOCH (R84, R85, R449, R564). -/

namespace Sys2Proof

open Machine

variable {R H C M : Nat → Prop} {s t b : State}

/-! ## Parts of a number in memory -/

theorem read_append (m : Memory) (a n k : Nat) : Memory.read m a (n + k) = Memory.read m a n + 256 ^ n * Memory.read m (a + n) k := by
  induction n generalizing a with
  | zero => simp [Memory.read]
  | succ n ih =>
    rw [Nat.add_right_comm, Memory.read, Memory.read, ih, show a + 1 + n = a + (n + 1) by omega]
    ring

/-- The bytes in the middle of a number. -/
theorem read_part {m : Memory} {a n v : Nat} (whole : Memory.read m a n = v) (o k : Nat) (fits : o + k ≤ n) :
    Memory.read m (a + o) k = bits v (8 * o) (8 * k) := by
  obtain ⟨d, rfl⟩ := Nat.exists_eq_add_of_le fits
  have low : Memory.read m a o < 256 ^ o := Memory.read_lt _ _ _
  have mid : Memory.read m (a + o) k < 256 ^ k := Memory.read_lt _ _ _
  have base : ∀ n, (2 : Nat) ^ (8 * n) = 256 ^ n := fun n => pow_mul 2 8 n
  rw [← whole, Nat.add_assoc, read_append, read_append, bits, Nat.shiftRight_eq_div_pow, base, base, Nat.add_mul_div_left _ _ (by positivity),
    Nat.div_eq_of_lt low, Nat.zero_add, Nat.add_mul_mod_self_left, Nat.mod_eq_of_lt mid]

/-! ## Fields of a sum -/

theorem bits_add_below (a b m lo w : Nat) (le : lo + w ≤ m) : bits (a + b <<< m) lo w = bits a lo w := by
  rw [← bits_low _ _ _ m le, Nat.shiftLeft_eq, Nat.add_mul_mod_self_right, bits_low _ _ _ m le]

theorem bits_add_above {a m : Nat} (lt : a < 2 ^ m) (b lo w : Nat) (le : m ≤ lo) : bits (a + b <<< m) lo w = bits b (lo - m) w := by
  rw [bits_high _ _ _ m le, Nat.shiftLeft_eq, Nat.add_mul_div_right _ _ (by positivity), Nat.div_eq_of_lt lt, Nat.zero_add]

theorem add_shift_lt {a m b n : Nat} (lt : a < 2 ^ m) (lt' : b < 2 ^ n) : a + b <<< m < 2 ^ (m + n) := by
  rw [Nat.shiftLeft_eq, pow_add]
  calc a + b * 2 ^ m < 2 ^ m + b * 2 ^ m := by omega
    _ = (b + 1) * 2 ^ m := by ring
    _ ≤ 2 ^ n * 2 ^ m := Nat.mul_le_mul_right _ lt'
    _ = _ := by ring

/-! ## The image of a checkpoint slot (R564) -/

theorem word_lt (v : W32) : v.toNat < 2 ^ 32 := v.isLt

theorem packWords_succ (s : State) (f : Nat → Nat) (n i : Nat) :
    s.packWords f (n + 1) i = (s.reg (f i)).toNat + s.packWords f n (i + 1) <<< 32 := rfl

theorem packWords_lt (s : State) (f : Nat → Nat) (n i : Nat) : s.packWords f n i < 2 ^ (32 * n) := by
  induction n generalizing i with
  | zero => exact Nat.one_pos
  | succ n ih =>
    have word := word_lt (s.reg (f i))
    rw [packWords_succ, show 32 * (n + 1) = 32 + 32 * n by ring]
    exact add_shift_lt word (ih (i + 1))

theorem bits_packWords (s : State) (f : Nat → Nat) (n i : Nat) {c : Nat} (lt : c < n) :
    bits (s.packWords f n i) (32 * c) 32 = (s.reg (f (i + c))).toNat := by
  induction n generalizing i c with
  | zero => omega
  | succ n ih =>
    have word := word_lt (s.reg (f i))
    rw [packWords_succ]
    cases c with
    | zero =>
      rw [bits_add_below _ _ _ _ _ (by omega)]
      exact Nat.mod_eq_of_lt word
    | succ c =>
      rw [bits_add_above word _ _ _ (by omega), show 32 * (c + 1) - 32 = 32 * c by omega, ih _ (by omega),
        show i + 1 + c = i + (c + 1) by omega]

section
variable (p l f z y x w : Nat) {a b c d e g k : Nat}

/-- The counters of a slot's image, below all else. -/
theorem bits_slot_low {lo n : Nat} (below : lo + n ≤ a) (hb : a ≤ b) (hc : b ≤ c) (hd : c ≤ d) (he : d ≤ e) (hg : e ≤ g) :
    bits (p + l <<< a + f <<< b + z <<< c + y <<< d + x <<< e + w <<< g) lo n = bits p lo n := by
  rw [bits_add_below _ _ _ _ _ (by omega), bits_add_below _ _ _ _ _ (by omega), bits_add_below _ _ _ _ _ (by omega),
    bits_add_below _ _ _ _ _ (by omega), bits_add_below _ _ _ _ _ (by omega), bits_add_below _ _ _ _ _ (by omega)]

/-- Its fetch address and its serial number. -/
theorem bits_slot_mid {m n : Nat} (hp : p < 2 ^ a) (hl : l < 2 ^ k) (hf : f < 2 ^ m) (hb : a + k = b) (hc : b + m = c) (hd : c + n = d) (he : d ≤ e)
    (hg : e ≤ g) : bits (p + l <<< a + f <<< b + z <<< c + y <<< d + x <<< e + w <<< g) b m = f ∧
      bits (p + l <<< a + f <<< b + z <<< c + y <<< d + x <<< e + w <<< g) c n = z % 2 ^ n := by
  have loops : p + l <<< a < 2 ^ b := hb ▸ add_shift_lt hp hl
  have fetch : p + l <<< a + f <<< b < 2 ^ c := hc ▸ add_shift_lt loops hf
  refine ⟨?_, ?_⟩
  · rw [bits_add_below _ _ _ _ _ (by omega), bits_add_below _ _ _ _ _ (by omega), bits_add_below _ _ _ _ _ (by omega),
      bits_add_below _ _ _ _ _ (by omega), bits_add_above loops _ _ _ le_rfl, Nat.sub_self]
    exact Nat.mod_eq_of_lt hf
  · rw [bits_add_below _ _ _ _ _ (by omega), bits_add_below _ _ _ _ _ (by omega), bits_add_below _ _ _ _ _ (by omega),
      bits_add_above fetch _ _ _ le_rfl, Nat.sub_self]
    rfl
end

theorem slotImage_evc (s : State) (h next serial arg writes : Nat) {c : Nat} (lt : c < 64) :
    bits (s.slotImage h next serial arg writes) (32 * c) 32 = (s.evc h c).toNat := by
  unfold State.slotImage
  rw [bits_slot_low _ _ _ _ _ _ _ (by omega) (by decide) (by decide) (by decide) (by decide) (by decide), bits_packWords _ _ _ _ lt, Nat.zero_add]
  rfl

theorem slotImage_fetch (s : State) (h next serial arg writes : Nat) :
    bits (s.slotImage h next serial arg writes) 2176 64 = next % 2 ^ 48 ∧ bits (s.slotImage h next serial arg writes) 2240 32 = serial % 2 ^ 32 := by
  have fetch : next % 2 ^ 48 < 2 ^ 64 := lt_trans (Nat.mod_lt _ (by positivity)) (by decide)
  unfold State.slotImage
  obtain ⟨at_, number⟩ := bits_slot_mid _ _ _ (serial % 2 ^ 32) (arg % 2 ^ 32) (s.now h % 2 ^ 64) (writes % 2 ^ 32)
    (packWords_lt s (Reg.evc h) 64 0) (packWords_lt s (Reg.loopReg h) 4 0) fetch (b := 2176) (c := 2240) (d := 2272) (e := 2304) (g := 2368) (n := 32)
    (by decide) (by decide) (by decide) (by decide) (by decide)
  exact ⟨at_, number.trans (Nat.mod_mod _ _)⟩

/-! ## Reads through page tables -/

/-- A step that leaves HBM and the root of the page tables leaves every read as it was. -/
theorem Frame.readsAlike (f : Frame R H C M s t) (low : ¬ R Reg.mmuRoot) (high : ¬ R (Reg.mmuRoot + 4)) (folded : t.recov = s.recov) : ReadsAlike s t := by
  obtain ⟨-, part, -, -, -, -, -, -, suits, -, poisoned, -, lost, healed, latent, -, -, -, -, -, -, -, -, -, -, -, -, ctl, -, -, -⟩ := f.rest
  have suit : ∀ i, t.suit i = s.suit i := fun i => by unfold State.suit; rw [suits]
  have fused : ∀ i, t.fusedIn i = s.fusedIn i := fun i => by unfold State.fusedIn; rw [part, ctl]
  refine ⟨f.mem, fun va => ?_, fun pa n => ?_, fun i => ?_, fun i => ?_⟩
  · unfold State.walkAt State.field
    rw [f.mem, f.reg _ low, f.reg _ high]
  · have bad : t.sectorBad = s.sectorBad := funext fun p => by
      unfold State.sectorBad State.sectorCached State.hbmBad State.lostSector State.cellOf State.pcOf State.sectorNo State.outMask State.lineAt
      rw [suit, poisoned, lost, healed, latent, part]
    unfold State.poisonIn State.poisonFree
    rw [suit, poisoned, bad, lost, latent]
  · unfold State.capBytes State.capMB State.suitDark
    rw [fused, folded, part, suit]
  · unfold State.partnerOk
    rw [fused, folded]

theorem seqRegs_root {h : Nat} : ¬ SeqRegs h Reg.mmuRoot ∧ ¬ SeqRegs h (Reg.mmuRoot + 4) := by
  have low : Reg.mmuRoot + 4 < 0x10000000 := by decide
  have base : 0x10000000 ≤ handBase h := by unfold handBase suitBase; omega
  refine ⟨?_, ?_⟩
  · rintro (⟨c, -, e⟩ | ⟨c, -, e⟩ | e | e | e) <;> simp only [Reg.evc, Reg.loopReg, Reg.seqFetch, Reg.handLost] at e <;> omega
  · rintro (⟨c, -, e⟩ | ⟨c, -, e⟩ | e | e | e) <;> simp only [Reg.evc, Reg.loopReg, Reg.seqFetch, Reg.handLost] at e <;> omega

theorem readsAlike_seqBegin (s : State) (h : Nat) (r : BitVec 512) : ReadsAlike s (s.seqBegin h r) :=
  (frame_seqBegin s h r).readsAlike seqRegs_root.1 seqRegs_root.2 (seqKeeps_seqBegin s h r).quiet.2.1

/-! ## MARK (R85) -/

/-- A page's place in the partner suit is apart from its home. -/
theorem partnerPa_apart (pa : Nat) {n : Nat} (le : n ≤ 2 ^ 38) : pa + n ≤ partnerPa pa ∨ partnerPa pa + n ≤ pa := by
  unfold partnerPa
  have := Nat.div_add_mod pa (2 ^ 38)
  have := Nat.mod_lt pa (show 0 < 2 ^ 38 by decide)
  omega

theorem mem_storeVa (s : State) (unit tid va pa : Nat) (pcopy : Bool) (n v : Nat) : (s.storeVa unit tid va pa pcopy n v).mem =
    if pcopy then Memory.write (Memory.write s.mem pa n v) (partnerPa pa) n v else Memory.write s.mem pa n v := by
  have trained := Demand.foldl (fun (s : State) l => s.trainOn (pa / 2 ^ 38) tid l (pa / 65536 * 65536))
    (fun s l => demand_trainOn s _ tid l _) (linesIn va n) ((s.walkLines unit va).storeHome tid pa pcopy n v)
  refine (show (s.storeVa unit tid va pa pcopy n v).mem = _ from trained.mem).trans ?_
  unfold State.storeHome
  dsimp only
  split_ifs
  · rw [State.storePa_mem, State.storePa_mem, (demand_walkLines s unit va).mem]
  · rw [State.storePa_mem, (demand_walkLines s unit va).mem]

/-- Memory after a write with its partner copy, if one is kept. -/
def Machine.Memory.twice (m : Memory) (pa : Nat) (pcopy : Bool) (n v : Nat) : Memory :=
  if pcopy then Memory.write (Memory.write m pa n v) (partnerPa pa) n v else Memory.write m pa n v

section
variable {m : Memory} (wf : Memory.wf m = true) {pa n v : Nat} {pcopy : Bool}
include wf

theorem read_twice (le : n ≤ 2 ^ 38) : Memory.read (m.twice pa pcopy n v) pa n = v % 256 ^ n := by
  unfold Memory.twice
  cases pcopy with
  | false => exact Memory.read_write _ _ _ wf
  | true =>
    refine (Memory.read_congr pa n fun y lo hi => Memory.byte_write_other _ _ _ _ (Memory.wf_write pa n v wf) ?_).trans (Memory.read_write _ _ _ wf)
    have := partnerPa_apart pa le
    omega

/-- A part of what was written. -/
theorem read_twice_part (le : n ≤ 2 ^ 38) {o k : Nat} (fits : o + k ≤ n) :
    Memory.read (m.twice pa pcopy n v) (pa + o) k = bits v (8 * o) (8 * k) := by
  have base : (256 : Nat) ^ n = 2 ^ (8 * n) := (pow_mul 2 8 n).symm
  rw [read_part (read_twice wf le) o k fits, base, bits_low _ _ _ _ (by omega)]

theorem byte_twice {a : Nat} (off : a < pa ∨ pa + n ≤ a) (off' : pcopy = false ∨ a < partnerPa pa ∨ partnerPa pa + n ≤ a) :
    Memory.byte (m.twice pa pcopy n v) a = Memory.byte m a := by
  unfold Memory.twice
  cases pcopy with
  | false => exact Memory.byte_write_other _ _ _ _ wf off
  | true =>
    have other : a < partnerPa pa ∨ partnerPa pa + n ≤ a := off'.resolve_left (by decide)
    exact (Memory.byte_write_other _ _ _ _ (Memory.wf_write pa n v wf) other).trans (Memory.byte_write_other _ _ _ _ wf off)
end

section
variable {h : HandIx} {va pa : Nat} {r : BitVec 512} {pcopy : Bool}

/-- The image that MARK writes. -/
def Machine.State.markImage (s : State) (h va : Nat) (r : BitVec 512) : Nat :=
  s.slotImage h (va + 64) (Record.serial r) 0 ((s.hand h).writesLast + 1)

/-- A hand behind a checkpoint to its LAST slot. -/
def Machine.Hand.marked (d : Hand) : Hand :=
  { d with writesLast := d.writesLast + 1, sinceLast := {}, peers := [], morePeers := false, hasLast := true, hasEpoch := d.hasEpoch || false }

theorem checkpoint_last (way : s.translate (s.traceBlock h.val) .write = .ok pa pcopy) : s.checkpoint h.val va r false =
    ((s.storeVa h.val 0 (s.traceBlock h.val) pa pcopy 384 (s.markImage h.val va r)).setHand h.val
      ((s.storeVa h.val 0 (s.traceBlock h.val) pa pcopy 384 (s.markImage h.val va r)).hand h.val).marked).traceHand h.val
        (Trace.ofRecord 7 9 h.val r 0 0) := by
  unfold State.checkpoint State.vwrite
  dsimp only
  rw [way]
  rfl

/-- What a checkpoint to the LAST slot does. -/
structure Marks (h va : Nat) (r : BitVec 512) (pa : Nat) (pcopy : Bool) (s t : State) : Prop where
  mem : t.mem = Memory.twice s.mem pa pcopy 384 (s.markImage h va r)
  evc : ∀ c < 64, t.evc h c = s.evc h c
  frame : MemFrame (SeqRegs h) (· = h) Nothing Nothing s t
  calm : Calm s t

theorem checkpoint_marks (way : s.translate (s.traceBlock h.val) .write = .ok pa pcopy) :
    Marks h.val va r pa pcopy s (s.checkpoint h.val va r false) := by
  rw [checkpoint_last way]
  have mem := mem_storeVa s h.val 0 (s.traceBlock h.val) pa pcopy 384 (s.markImage h.val va r)
  have frame : MemFrame (· = Reg.handLost h.val) (· = h.val) Nothing Nothing s (s.storeVa h.val 0 (s.traceBlock h.val) pa pcopy 384 (s.markImage h.val va r)) :=
    memFrame_storeVa ..
  have calm := calm_storeVa s h.val 0 (s.traceBlock h.val) pa pcopy 384 (s.markImage h.val va r)
  generalize s.storeVa h.val 0 (s.traceBlock h.val) pa pcopy 384 (s.markImage h.val va r) = b at *
  have set : Frame (· = Reg.handLost h.val) (· = h.val) Nothing Nothing b (b.setHand h.val (b.hand h.val).marked) := frame_setHand_self b h.val _
  have traced : Frame (· = Reg.handLost h.val) (· = h.val) Nothing Nothing b
      ((b.setHand h.val (b.hand h.val).marked).traceHand h.val (Trace.ofRecord 7 9 h.val r 0 0)) :=
    set.trans (frame_traceHand _ h.val _ rfl rfl)
  have quiet := (traced_traceHand (b.setHand h.val (b.hand h.val).marked) h.val (Trace.ofRecord 7 9 h.val r 0 0)).quiet
  have all := frame.trans traced.mem_frame
  exact ⟨traced.mem.trans mem, fun c lt => all.reg _ (evc_ne_handLost lt) (granReg_evc _ _ lt),
    all.mono (fun _ e => .inr (.inr (.inr (.inr e)))) (fun _ => id) (fun _ => id) (fun _ => id),
    calm.trans (Calm.trans (t := b.setHand h.val (b.hand h.val).marked) (Quiet.calm ⟨rfl, rfl, rfl⟩) quiet.calm)⟩

theorem exec_mark (ready : s.seqReady h.val 4 = some (va, r)) (idle : s.handIdle h.val = true)
    (way : s.translate (s.traceBlock h.val) .write = .ok pa pcopy) :
    exec (.mark h) s = .next (((s.seqBegin h.val r).checkpoint h.val va r false).seqCommit h.val r) := by
  have alike := readsAlike_seqBegin s h.val r
  have job : (s.seqBegin h.val r).job = s.job := by
    obtain ⟨-, -, -, -, -, -, -, -, -, -, -, -, -, -, -, -, -, -, -, -, -, -, job, -⟩ := (frame_seqBegin s h.val r).rest
    exact job
  have block : (s.seqBegin h.val r).traceBlock h.val = s.traceBlock h.val := by unfold State.traceBlock; rw [job]
  show execMark h s = _
  unfold execMark
  rw [ready]
  dsimp only
  rw [if_pos idle, alike.accFault, block, State.accFault, way]

end

section
variable {h : HandIx} {va pa : Nat} {r : BitVec 512} {pcopy : Bool}

theorem mark_marks (safe : Safe s) (ready : s.seqReady h.val 4 = some (va, r)) (idle : s.handIdle h.val = true)
    (way : s.translate (s.traceBlock h.val) .write = .ok pa pcopy) : Does (.mark h) s fun t =>
      (∀ c < 64, Memory.read t.mem (pa + 4 * c) 4 = (s.evc h.val c).toNat) ∧
      Memory.read t.mem (pa + 272) 8 = (va + 64) % 2 ^ 48 ∧ Memory.read t.mem (pa + 280) 4 = Record.serial r ∧
      (∀ a, (a < pa ∨ pa + 384 ≤ a) → (pcopy = false ∨ a < partnerPa pa ∨ partnerPa pa + 384 ≤ a) →
        Memory.byte t.mem a = Memory.byte s.mem a) ∧
      (∀ c < 64, t.evc h.val c = s.evc h.val c + incsOf r c) ∧
      MemFrame (SeqRegs h.val) (· = h.val) Nothing Nothing s t ∧ Calm s t := by
  have begun := seqKeeps_seqBegin s h.val r
  have alike := readsAlike_seqBegin s h.val r
  have first := frame_seqBegin s h.val r
  have job : (s.seqBegin h.val r).job = s.job := by
    obtain ⟨-, -, -, -, -, -, -, -, -, -, -, -, -, -, -, -, -, -, -, -, -, -, job, -⟩ := first.rest
    exact job
  have block : (s.seqBegin h.val r).traceBlock h.val = s.traceBlock h.val := by unfold State.traceBlock; rw [job]
  have marks : Marks h.val va r pa pcopy (s.seqBegin h.val r) ((s.seqBegin h.val r).checkpoint h.val va r false) :=
    checkpoint_marks (by rw [block, alike.translate]; exact way)
  refine ⟨_, exec_mark ready idle way, ?_⟩
  have evc : ∀ c < 64, (s.seqBegin h.val r).evc h.val c = s.evc h.val c := begun.evc
  have mem1 : (s.seqBegin h.val r).mem = s.mem := first.mem
  have image := fun c (lt : c < 64) => slotImage_evc (s.seqBegin h.val r) h.val (va + 64) (Record.serial r) 0 (((s.seqBegin h.val r).hand h.val).writesLast + 1) lt
  obtain ⟨fetch, serial⟩ := slotImage_fetch (s.seqBegin h.val r) h.val (va + 64) (Record.serial r) 0 (((s.seqBegin h.val r).hand h.val).writesLast + 1)
  obtain ⟨v, hv⟩ : ∃ v, (s.seqBegin h.val r).markImage h.val va r = v := ⟨_, rfl⟩
  have stored := marks.mem
  rw [show (s.seqBegin h.val r).slotImage h.val (va + 64) (Record.serial r) 0 (((s.seqBegin h.val r).hand h.val).writesLast + 1) = v from hv] at fetch serial
  have commit := seqCommits_seqCommit ((s.seqBegin h.val r).checkpoint h.val va r false) h.val r
  have all : MemFrame (SeqRegs h.val) (· = h.val) Nothing Nothing s (((s.seqBegin h.val r).checkpoint h.val va r false).seqCommit h.val r) :=
    (first.mem_frame.trans marks.frame).trans (frame_seqCommit _ _ _).mem_frame
  have calm := (begun.quiet.calm.trans marks.calm).trans commit.quiet.calm
  have mem : (((s.seqBegin h.val r).checkpoint h.val va r false).seqCommit h.val r).mem = Memory.twice s.mem pa pcopy 384 v := by
    rw [commit.frame.mem, stored, mem1, hv]
  dsimp only
  rw [mem]
  have part : ∀ {o k : Nat}, o + k ≤ 384 → Memory.read (Memory.twice s.mem pa pcopy 384 v) (pa + o) k = bits v (8 * o) (8 * k) := fun fits =>
    read_twice_part safe.1 (by norm_num) fits
  refine ⟨fun c lt => ?_, ?_, ?_, fun a off off' => byte_twice safe.1 off off', fun c lt => ?_, all, calm⟩
  · rw [part (by omega), show 8 * (4 * c) = 32 * c by ring, ← evc c lt, ← image c lt, ← hv]
    rfl
  · exact (part (by decide)).trans fetch
  · refine (part (by decide)).trans (serial.trans (Nat.mod_eq_of_lt ?_))
    exact bits_lt _ _ _
  · rw [commit.evc c lt, marks.evc c lt, evc c lt]

end

end Sys2Proof
end

section
/-! PROOFS. EPOCH (R84, R449). -/

namespace Sys2Proof

open Machine

variable {s t b : State} {h : Nat}

/-! ## Registers of a hand (R532) -/

/-- Offsets in a hand's window of registers that no trace record and no access to HBM changes. -/
def OwnOff (x : Nat) : Prop := x < 0x40000 ∧ x ≠ 0x1004 ∧ x ≠ 0x1008

/-- The hand's registers stay, but for its count of lost records and the state of its ring. -/
def HandRegsStay (h : Nat) (s t : State) : Prop := ∀ x, OwnOff x → t.reg (handBase h + x) = s.reg (handBase h + x)

theorem HandRegsStay.trans (p : HandRegsStay h s t) (q : HandRegsStay h t b) : HandRegsStay h s b := fun x own => (q x own).trans (p x own)

theorem ownOff_apart {x : Nat} (own : OwnOff x) : handBase h + x ≠ Reg.handLost h ∧ handBase h + x ≠ Reg.handObsStat h := by
  unfold OwnOff at own
  unfold Reg.handLost Reg.handObsStat
  omega

theorem drainRegs_apart (x : Nat) (own : OwnOff x) : ¬ DrainRegs h (handBase h + x) :=
  fun e => e.elim (ownOff_apart own).1 (ownOff_apart own).2

theorem MemFrame.regsStay {R H C M : Nat → Prop} (f : MemFrame R H C M s t) (off : ∀ x, OwnOff x → ¬ R (handBase h + x)) : HandRegsStay h s t :=
  fun x own => f.reg _ (off x own) (not_granReg_handBase own.1)

/-- A register of the hand whose pending value an EPOCH of the hand makes active. -/
theorem handStaged_off {a : Nat} (staged : isHandStaged h a = true) : ∃ x, a = handBase h + x ∧ OwnOff x ∧ x ≠ 4 ∧ ¬ (0x100 ≤ x ∧ x < 0x200) := by
  simp only [isHandStaged, Bool.or_eq_true, beq_iff_eq, Bool.and_eq_true, decide_eq_true_eq] at staged
  unfold OwnOff
  obtain (e | e) | ⟨⟨lo, hi⟩, -⟩ := staged
  · exact ⟨0, e, by omega⟩
  · exact ⟨0x200, e, by omega⟩
  · exact ⟨a - handBase h, by omega, by omega⟩

/-- The package's staged registers stand in no hand's window. -/
theorem pkgStaged_outside {a : Nat} (staged : isPkgStaged a = true) {x : Nat} (lt : x < 0x40000) : a ≠ handBase h + x := by
  simp only [isPkgStaged, Bool.or_eq_true, beq_iff_eq, List.any_eq_true] at staged
  unfold handBase suitBase
  obtain e | ⟨i, -, (e | e) | e⟩ := staged
  · unfold Reg.dealerCtl at e
    omega
  · unfold Reg.granCtl suitBase at e
    omega
  · unfold Reg.hbmCtl suitBase at e
    omega
  · unfold Reg.reeveCtl suitBase at e
    omega

/-! ## Pending values that become active -/

theorem reg_commitAll_other {a : Nat} (l : PMap W32) (s : State) (off : ∀ e ∈ l, e.1 ≠ a) : (s.commitAll l).reg a = s.reg a := by
  induction l generalizing s with
  | nil => rfl
  | cons e l ih =>
    have first : s.commitAll (e :: l) = (s.commitOne e.1 e.2).commitAll l := rfl
    rw [first, ih _ fun d mem => off d (List.mem_cons_of_mem _ mem), reg_commitOne, if_neg (Ne.symm (off e (List.mem_cons_self ..)))]

theorem reg_commitStaged_other {p : Nat → Bool} {a : Nat} (off : p a = false) : (s.commitStaged p).reg a = s.reg a := by
  refine reg_commitAll_other (s.staged.filter fun e => p e.1) s fun e mem same => ?_
  have mine := (List.mem_filter.1 mem).2
  rw [same, off] at mine
  cases mine

theorem reg_commitStaged {p : Nat → Bool} {a : Nat} {v : W32} (mine : p a = true) (last : (s.staged.filter fun e => e.1 == a).getLast? = some (a, v)) :
    (s.commitStaged p).reg a = v := by
  refine reg_commitAll (s.staged.filter fun e => p e.1) s ?_
  rw [List.filter_filter, ← last]
  congr 1
  refine List.filter_congr fun e _ => ?_
  by_cases here : e.1 = a
  · simp [here, mine]
  · simp [here]

theorem staged_commitStaged (s : State) (p : Nat → Bool) : (s.commitStaged p).staged = s.staged.filter fun e => !p e.1 := by
  obtain ⟨r, g, e⟩ := commitAll_eq (s.staged.filter fun e => p e.1) s
  have same : (s.staged.filter fun e => p e.1).foldl (fun (s : State) (e : Nat × W32) => s.commitOne e.1 e.2) s = _ := e
  unfold State.commitStaged
  rw [same]

theorem filter_put {m : PMap W32} {k a : Nat} (v : W32) (other : k ≠ a) : (PMap.put m k v).filter (fun e => e.1 == a) = m.filter fun e => e.1 == a := by
  have first : ∀ (w : W32) (l : PMap W32), ((k, w) :: l).filter (fun e => e.1 == a) = l.filter fun e => e.1 == a := fun w l =>
    List.filter_cons_of_neg (by simpa using other)
  induction m with
  | nil => exact first v []
  | cons e m ih =>
    obtain ⟨x, w⟩ := e
    unfold PMap.put
    split_ifs with same lt
    · rw [same, first, first]
    · exact first _ _
    · rw [List.filter_cons, List.filter_cons, ih]

/-! ## The steps of an EPOCH -/

theorem setGranMode_eq (s : State) (i m : Nat) : ∃ e : State, e.staged = s.staged ∧ (∀ a, a ≠ Reg.granCtl i → e.reg a = s.reg a) ∧
    (s.setGranMode i m = e ∨ ∃ v, s.setGranMode i m = { e with staged := PMap.put s.staged (Reg.granCtl i) v }) := by
  obtain ⟨e, he⟩ : ∃ e, (if s.field (Reg.granCtl i) 16 2 = m then s else (s.setField (Reg.granCtl i) 16 2 m).startGrace (Reg.granCtl i)) = e := ⟨_, rfl⟩
  have kept : e.staged = s.staged ∧ ∀ a, a ≠ Reg.granCtl i → e.reg a = s.reg a := by
    rw [← he]
    split_ifs
    · exact ⟨rfl, fun _ _ => rfl⟩
    · exact ⟨rfl, fun a off => State.reg_setField_other _ _ _ _ _ _ off⟩
  refine ⟨e, kept.1, kept.2, ?_⟩
  unfold State.setGranMode
  dsimp only
  rw [he, kept.1]
  cases PMap.find s.staged (Reg.granCtl i) with
  | none => exact .inl rfl
  | some x => exact .inr ⟨_, rfl⟩

/-- What goes before the commit of a hand's pending values keeps them and the hand's registers. -/
structure BeforeCommit (h : Nat) (s t : State) : Prop where
  regs : HandRegsStay h s t
  staged : ∀ x, OwnOff x → (t.staged.filter fun e => e.1 == handBase h + x) = s.staged.filter fun e => e.1 == handBase h + x

theorem BeforeCommit.trans (p : BeforeCommit h s t) (q : BeforeCommit h t b) : BeforeCommit h s b :=
  ⟨p.regs.trans q.regs, fun x own => (q.staged x own).trans (p.staged x own)⟩

theorem beforeCommit_of_frame {R H C M : Nat → Prop} (f : Frame R H C M s t) (off : ∀ x, OwnOff x → ¬ R (handBase h + x)) : BeforeCommit h s t := by
  obtain ⟨-, -, -, -, -, staged, -⟩ := f.rest
  exact ⟨fun x own => f.reg _ (off x own), fun x own => by rw [staged]⟩

theorem granCtl_outside (i : Nat) {x : Nat} (own : OwnOff x) : Reg.granCtl i ≠ handBase h + x := by
  unfold OwnOff at own
  unfold Reg.granCtl handBase suitBase
  omega

theorem beforeCommit_setGranMode (s : State) (i m : Nat) : BeforeCommit h s (s.setGranMode i m) := by
  obtain ⟨e, staged, regs, eq | ⟨v, eq⟩⟩ := setGranMode_eq s i m
  · rw [eq]
    exact ⟨fun x own => regs _ (granCtl_outside i own).symm, fun x own => by rw [staged]⟩
  · rw [eq]
    exact ⟨fun x own => regs _ (granCtl_outside i own).symm, fun x own => filter_put v (granCtl_outside i own)⟩

theorem beforeCommit_kat (s : State) (n step times : Nat) : BeforeCommit h s (s.kat h n step times) := by
  have refl : ∀ s : State, BeforeCommit h s s := fun s => ⟨fun _ _ => rfl, fun _ _ => rfl⟩
  unfold State.kat
  dsimp only
  split_ifs
  · exact refl s
  · exact beforeCommit_setGranMode s _ 0
  all_goals
    exact (beforeCommit_setGranMode s _ 0).trans
      (beforeCommit_of_frame (R := (· = Reg.handLost h)) (H := (· = h)) (C := Nothing) (M := Nothing) (frame_postHand _ h _ _ _ _ _ _ _ rfl rfl)
        fun x own => (ownOff_apart own).1)

/-- What follows the commit keeps the hand's registers, and no value becomes pending. -/
structure AfterCommit (h : Nat) (s t : State) : Prop where
  regs : HandRegsStay h s t
  staged : ∀ e ∈ t.staged, e ∈ s.staged

theorem AfterCommit.trans (p : AfterCommit h s t) (q : AfterCommit h t b) : AfterCommit h s b :=
  ⟨p.regs.trans q.regs, fun e mem => p.staged e (q.staged e mem)⟩

theorem AfterCommit.refl (h : Nat) (s : State) : AfterCommit h s s := ⟨fun _ _ => rfl, fun _ => id⟩

theorem MemFrame.afterCommit {R H C M : Nat → Prop} (f : MemFrame R H C M s t) (off : ∀ x, OwnOff x → ¬ R (handBase h + x)) : AfterCommit h s t := by
  obtain ⟨-, -, -, -, -, staged, -⟩ := f.rest
  exact ⟨f.regsStay off, fun e mem => staged ▸ mem⟩

theorem afterCommit_vwrite (s : State) (va n v : Nat) : AfterCommit h s ((s.vwrite h 0 va n v).getD s) := by
  cases e : s.vwrite h 0 va n v with
  | none => exact .refl h s
  | some t => exact (flushed_vwrite (R := Nothing) e).frame.afterCommit fun _ _ => id

theorem afterCommit_checkpoint (s : State) (va : Nat) (r : BitVec 512) : AfterCommit h s (s.checkpoint h va r true) := by
  unfold State.checkpoint
  dsimp only
  rw [if_pos rfl]
  generalize s.slotImage h (va + 64) (Record.serial r) (if true then Record.arg r else 0) ((s.hand h).writesLast + 1) = v
  generalize s.slotImage h (va + 64) (Record.serial r) (if true then Record.arg r else 0) ((s.hand h).writesEpoch + 1) = w
  have last := afterCommit_vwrite (h := h) s (s.traceBlock h) 384 v
  generalize (s.vwrite h 0 (s.traceBlock h) 384 v).getD s = s1 at last ⊢
  have epoch := afterCommit_vwrite (h := h) s1 (s.traceBlock h + 0x180) 384 w
  generalize (s1.vwrite h 0 (s.traceBlock h + 0x180) 384 w).getD s1 = s2 at epoch ⊢
  exact (last.trans epoch).trans (((frame_setHand_self (R := (· = Reg.handLost h)) (C := Nothing) (M := Nothing) s2 h _).trans
    (frame_traceHand _ h _ rfl rfl)).mem_frame.afterCommit fun x own => (ownOff_apart own).1)

theorem afterCommit_commitStaged (s : State) : AfterCommit h s (s.commitStaged isPkgStaged) := by
  refine ⟨fun x own => reg_commitStaged_other ?_, fun e mem => ?_⟩
  · cases mine : isPkgStaged (handBase h + x) with
    | false => rfl
    | true => exact absurd rfl (pkgStaged_outside mine own.1)
  · rw [staged_commitStaged] at mem
    exact (List.mem_filter.1 mem).1

/-- Staged governor limits take effect. -/
def Machine.State.limited (s : State) : State :=
  match s.gov.staged with
  | none => s
  | some (f, p) => s.setLimits f p

/-- Hands have passed the epoch that the package has. -/
def Machine.State.passed (s : State) (n : Nat) (l : List Nat) : State :=
  l.foldl (fun (s : State) h => s.setHand h { s.hand h with epochs := ((s.hand h).epochs.dropWhile (· != n)).drop 1 }) s

/-- No step of an update is under way. -/
def Machine.State.stepOver (s : State) : State := { s with job := { s.job with rollForward := false } }

/-- The hands that a package epoch waits for. -/
def Machine.State.streaming (s : State) : List Nat := hands640.filter fun h => s.handUp h && ((s.hand h).stream || s.willStart h)

theorem packageEpoch_eq (s : State) (n : Nat) : s.packageEpoch n = s ∨
    ∃ l, s.packageEpoch n = ((s.commitStaged isPkgStaged).limited.passed n l).stepOver := by
  have all : s.packageEpoch n = if s.streaming.all fun h => !s.willStart h && (s.hand h).epochs.contains n then
      ((s.commitStaged isPkgStaged).limited.passed n s.streaming).stepOver else s := by
    unfold State.packageEpoch State.streaming
    generalize hands640 = hands
    rfl
  rw [all]
  split_ifs
  · exact .inr ⟨_, rfl⟩
  · exact .inl rfl

theorem afterCommit_limited (s : State) : AfterCommit h s s.limited := by
  unfold State.limited
  split
  · exact .refl h s
  · exact ⟨fun _ _ => rfl, fun _ => id⟩

theorem afterCommit_passed (n : Nat) (l : List Nat) (s : State) : AfterCommit h s (s.passed n l) := by
  induction l generalizing s with
  | nil => exact .refl h s
  | cons x l ih =>
    exact AfterCommit.trans (t := s.setHand x { s.hand x with epochs := ((s.hand x).epochs.dropWhile (· != n)).drop 1 }) ⟨fun _ _ => rfl, fun _ => id⟩ (ih _)

theorem afterCommit_stepOver (s : State) : AfterCommit h s s.stepOver := ⟨fun _ _ => rfl, fun _ => id⟩

theorem afterCommit_packageEpoch (s : State) (n : Nat) : AfterCommit h s (s.packageEpoch n) := by
  obtain e | ⟨l, e⟩ := packageEpoch_eq s n
  · rw [e]
    exact .refl h s
  · rw [e]
    exact (((afterCommit_commitStaged s).trans (afterCommit_limited _)).trans (afterCommit_passed n l _)).trans (afterCommit_stepOver _)

/-! ## The row -/

section
variable {h : HandIx} {va pa step times : Nat} {r : BitVec 512} {pcopy : Bool}

/-- The hand has passed the epoch. -/
def Machine.State.epochPassed (s : State) (h n : Nat) : State :=
  (s.setHand h { s.hand h with epochs := (s.hand h).epochs ++ [n] }).setField (Reg.seqStat h) 16 8 n

/-- The state of an EPOCH behind the hand's pending values. -/
def Machine.State.epochCommitted (s : State) (h : Nat) (r : BitVec 512) (step times : Nat) : State :=
  (((s.seqBegin h r).kat h (Record.arg r) step times).epochPassed h (Record.arg r)).commitStaged (isHandStaged h)

theorem exec_epoch (ready : s.seqReady h.val 3 = some (va, r)) (idle : s.handIdle h.val = true)
    (way : s.translate (s.traceBlock h.val) .write = .ok pa pcopy) : exec (.epoch h step times) s =
      .next (((((s.epochCommitted h.val r step times).checkpoint h.val va r true).flushRing h.val).seqCommit h.val r).packageEpoch (Record.arg r)) := by
  have alike := readsAlike_seqBegin s h.val r
  have job : (s.seqBegin h.val r).job = s.job := by
    obtain ⟨-, -, -, -, -, -, -, -, -, -, -, -, -, -, -, -, -, -, -, -, -, -, job, -⟩ := (frame_seqBegin s h.val r).rest
    exact job
  have block : (s.seqBegin h.val r).traceBlock h.val = s.traceBlock h.val := by unfold State.traceBlock; rw [job]
  show execEpoch h step times s = _
  unfold execEpoch
  rw [ready]
  dsimp only
  rw [if_pos idle, alike.accFault, block, State.accFault, way]
  rfl

theorem ownOff_evc {c : Nat} (lt : c < 64) : OwnOff (0x100 + 4 * c) := by unfold OwnOff; omega

theorem evc_eq (s : State) (h c : Nat) : s.evc h c = s.reg (handBase h + (0x100 + 4 * c)) := congrArg s.reg (Nat.add_assoc _ _ _)

/-- What the hand's registers and pending values are behind its commit. -/
theorem epochCommitted_regs (s : State) (h : HandIx) (r : BitVec 512) (step times : Nat) :
    let t := s.epochCommitted h.val r step times
    t.field (Reg.seqStat h.val) 16 8 = Record.arg r % 256 ∧
    (∀ a v, (s.staged.filter fun e => e.1 == a).getLast? = some (a, v) → isHandStaged h.val a = true → t.reg a = v) ∧
    (∀ e ∈ t.staged, isHandStaged h.val e.1 = false) ∧ ∀ c < 64, t.evc h.val c = s.evc h.val c := by
  have begun := seqKeeps_seqBegin s h.val r
  have kat := beforeCommit_kat (h := h.val) (s.seqBegin h.val r) (Record.arg r) step times
  have staged : (s.seqBegin h.val r).staged = s.staged := by
    obtain ⟨-, -, -, -, -, staged, -⟩ := begun.frame.rest
    exact staged
  unfold State.epochCommitted
  generalize (s.seqBegin h.val r).kat h.val (Record.arg r) step times = e at kat ⊢
  have pend : (e.epochPassed h.val (Record.arg r)).staged = e.staged := rfl
  have regs : ∀ a, a ≠ Reg.seqStat h.val → (e.epochPassed h.val (Record.arg r)).reg a = e.reg a := fun a off => State.reg_setField_other _ _ _ _ _ _ off
  have number : (e.epochPassed h.val (Record.arg r)).field (Reg.seqStat h.val) 16 8 = Record.arg r % 256 := State.field_setField _ _ _ _ _ (by decide)
  generalize e.epochPassed h.val (Record.arg r) = f at pend regs number ⊢
  have off : isHandStaged h.val (Reg.seqStat h.val) = false := by
    cases mine : isHandStaged h.val (Reg.seqStat h.val) with
    | false => rfl
    | true =>
      obtain ⟨x, e, -, ne, -⟩ := handStaged_off mine
      unfold Reg.seqStat at e
      omega
  refine ⟨(State.field_congr (reg_commitStaged_other off) 16 8).trans number, fun a v last mine => ?_, fun e mem => ?_, fun c lt => ?_⟩
  · obtain ⟨x, rfl, own, -, -⟩ := handStaged_off mine
    refine reg_commitStaged mine ?_
    rw [pend, kat.staged x own, staged]
    exact last
  · rw [staged_commitStaged] at mem
    simpa using (List.mem_filter.1 mem).2
  · have not_staged : isHandStaged h.val (handBase h.val + (0x100 + 4 * c)) = false := by
      cases mine : isHandStaged h.val (handBase h.val + (0x100 + 4 * c)) with
      | false => rfl
      | true =>
        obtain ⟨x, e, -, -, out⟩ := handStaged_off mine
        omega
    rw [← begun.evc c lt, evc_eq, evc_eq, reg_commitStaged_other not_staged, regs _ (by unfold Reg.seqStat; omega), kat.regs _ (ownOff_evc lt)]

/-- Settles O4. -/
theorem markAndEpoch : Obligations.MarkAndEpoch := by
  refine ⟨fun h s va r pa pcopy safe ready idle way => mark_marks safe ready idle way, fun h step times s va r pa pcopy ready idle way => ?_⟩
  obtain ⟨number, active, none_, evc⟩ := epochCommitted_regs s h r step times
  refine ⟨_, exec_epoch ready idle way, ?_⟩
  generalize s.epochCommitted h.val r step times = e at number active none_ evc ⊢
  have stored := (afterCommit_checkpoint (h := h.val) e va r).trans ((drained_flushRing (e.checkpoint h.val va r true) h.isLt).frame.afterCommit drainRegs_apart)
  generalize (e.checkpoint h.val va r true).flushRing h.val = f at stored ⊢
  have commits := seqCommits_seqCommit f h.val r
  have passes := afterCommit_packageEpoch (h := h.val) (f.seqCommit h.val r) (Record.arg r)
  have still : (f.seqCommit h.val r).staged = f.staged := by
    obtain ⟨-, -, -, -, -, staged, -⟩ := commits.frame.rest
    exact staged
  have kept : ∀ x, OwnOff x → ¬ (0x100 ≤ x ∧ x < 0x200) →
      ((f.seqCommit h.val r).packageEpoch (Record.arg r)).reg (handBase h.val + x) = e.reg (handBase h.val + x) := fun x own off => by
    rw [passes.regs x own, commits.frame.reg _ ?_, stored.regs x own]
    rintro (⟨c, lt, e⟩ | e)
    · unfold Reg.evc at e
      omega
    · exact (ownOff_apart own).1 e
  refine ⟨(State.field_congr (kept 4 (by unfold OwnOff; decide) (by decide)) 16 8).trans number, fun a v last mine => ?_, fun d mem => ?_, fun c lt => ?_⟩
  · rw [← active a v last mine]
    obtain ⟨x, rfl, own, -, off⟩ := handStaged_off mine
    exact kept x own off
  · exact none_ d (stored.staged d (still ▸ passes.staged d mem))
  · rw [evc_eq, passes.regs _ (ownOff_evc lt), ← evc_eq, commits.evc c lt, evc_eq, stored.regs _ (ownOff_evc lt), ← evc_eq, evc c lt]

end

end Sys2Proof
end

section
/-! PROOFS. What a collective moves: reductions, copies and the Shuffle (R380 to R387). -/

namespace Sys2Proof

open Machine

variable {s t r : State} {c : Coll} {g tag h n : Nat}

/-! ## The dealer's entry of a collective -/

theorem findColl_names (found : s.findColl g tag = some c) : c.g = g ∧ c.tag = tag := by
  have p := List.find?_some found
  simpa using p

theorem findColl_congr (e : t.colls = s.colls) (g tag : Nat) : t.findColl g tag = s.findColl g tag := by
  unfold State.findColl
  rw [e]

theorem findColl_setColl (found : s.findColl g tag = some c) {d : Coll} (eg : d.g = c.g) (et : d.tag = c.tag) :
    (s.setColl d).findColl g tag = some d := by
  obtain ⟨hg, ht⟩ := findColl_names found
  unfold State.findColl State.setColl at *
  dsimp only
  have here : (d.g == g && d.tag == tag) = true := by rw [eg, et, hg, ht]; simp
  rw [List.find?_map]
  have same : (fun x : Coll => x.g == g && x.tag == tag) ∘ (fun x : Coll => if x.g = d.g ∧ x.tag = d.tag then d else x) =
      fun x => x.g == g && x.tag == tag := by
    funext x
    rw [Function.comp_apply]
    split_ifs with e
    · rw [e.1, e.2]
    · rfl
  rw [same, found, Option.map_some, if_pos ⟨eg.symm, et.symm⟩]

theorem findColl_did (colls : r.colls = s.colls) (found : s.findColl g tag = some c) (u : Nat × Nat) :
    (r.collDid c u).findColl g tag = some { c with doneWork := u :: c.doneWork } := by
  unfold State.collDid
  exact findColl_setColl (s := r) (c := c) (by rw [findColl_congr colls]; exact found) rfl rfl

theorem collAt_found {g : BitVec 8} {tag : BitVec 28} {op : Nat} (row : s.collAt g tag op = some c) :
    s.findColl g.toNat tag.toNat = some c := by
  unfold State.collAt at row
  split at row
  · cases row
  · next found =>
    split_ifs at row
    obtain rfl := Option.some.inj row
    exact found

/-! ## Tiles read and written -/

theorem MemFrame.colls {R H C M : Nat → Prop} (f : MemFrame R H C M s t) : t.colls = s.colls := by simp [f.rest]

theorem arrived_collRead {fmt : Option Nat} {x : Tile} (read : s.collRead h n fmt = .ok (t, x)) : Arrived 7 h s t := by
  unfold State.collRead at read
  split at read
  · cases read
  · dsimp only at read
    split at read
    · cases read
    · cases read
    · cases read
    · next got =>
      cases read
      exact arrived_arriveMem (by decide) got

theorem colls_collRead {fmt : Option Nat} {x : Tile} (read : s.collRead h n fmt = .ok (t, x)) : t.colls = s.colls :=
  (arrived_collRead read).frame.colls

theorem colls_writeTile {unit tid hva pva : Nat} {x : Tile} (e : s.writeTile unit tid hva pva x = .ok t) : t.colls = s.colls := by
  unfold State.writeTile at e
  split at e
  · cases e
  · split at e
    · cases e
    · next w1 =>
      split at e
      · cases e
      · next w2 =>
        obtain rfl := Except.ok.inj e
        exact (flushed_vwrite (R := Nothing) w2).frame.colls.trans (flushed_vwrite (R := Nothing) w1).frame.colls

theorem colls_collWrite {x : Tile} (write : s.collWrite h n x = .ok t) : t.colls = s.colls := by
  unfold State.collWrite at write
  split at write
  · cases write
  · dsimp only at write
    split_ifs at write
    split at write
    · cases write
    · next stored =>
      obtain rfl := Except.ok.inj write
      unfold State.storeTileAt at stored
      exact colls_writeTile stored

theorem colls_collReads {fmt : Option Nat} {ns : List Nat} {xs : List Tile} (read : s.collReads h fmt ns = .ok (t, xs)) :
    t.colls = s.colls := by
  induction ns generalizing s xs with
  | nil =>
    cases read
    rfl
  | cons n ns ih =>
    unfold State.collReads at read
    split at read
    · cases read
    · next one =>
      split at read
      · cases read
      · next rest =>
        cases read
        exact (ih rest).trans (colls_collRead one)

theorem colls_strandReads {d : BitVec 2048} {k : Nat} {hs : List Nat} {xs : List (List Tile)} (read : s.strandReads d k hs = .ok (t, xs)) :
    t.colls = s.colls := by
  induction hs generalizing s xs with
  | nil =>
    cases read
    rfl
  | cons h hs ih =>
    unfold State.strandReads at read
    dsimp only at read
    split at read
    · cases read
    · next one =>
      split at read
      · cases read
      · next rest =>
        cases read
        exact (ih rest).trans (colls_collReads one)

theorem foldl_keeps {α β : Type} (f : State → α → State) (v : State → β) (each : ∀ s x, v (f s x) = v s) (l : List α) (s : State) :
    v (l.foldl f s) = v s := by
  induction l generalizing s with
  | nil => rfl
  | cons x l ih => exact (ih _).trans (each s x)

theorem colls_holdPartials (s : State) (c : Coll) (l : List (Nat × List (Nat × Nat))) (acc : List (Nat × Nat)) :
    (s.holdPartials c l acc).colls = s.colls := by
  induction l generalizing s acc with
  | nil => rfl
  | cons x l ih =>
    unfold State.holdPartials
    exact (ih _ _).trans ((foldl_keeps _ State.colls (by intro s x; rfl) _ _).trans rfl)

theorem colls_strandGather {k : Nat} {order : List Nat} {xs : List (List Tile)} (read : s.strandGather c k order = .ok (t, xs)) :
    t.colls = s.colls := by
  unfold State.strandGather at read
  dsimp only at read
  split at read
  · cases read
  · next one =>
    cases read
    exact (colls_holdPartials _ _ _ _).trans (colls_strandReads one)

theorem colls_writeResult {x : Head × BitVec 32768} {l : List (Nat × Nat)} (write : s.writeResult x l = .ok t) : t.colls = s.colls := by
  induction l generalizing s with
  | nil =>
    cases write
    rfl
  | cons y l ih =>
    unfold State.writeResult at write
    split at write
    · cases write
    · dsimp only at write
      split at write
      · cases write
      · next one => exact (ih write).trans (colls_collWrite one)

theorem colls_copyTo {x : Tile} {l : List (Nat × Nat)} (write : s.copyTo x l = .ok t) : t.colls = s.colls := by
  induction l generalizing s with
  | nil =>
    cases write
    rfl
  | cons y l ih =>
    unfold State.copyTo at write
    split at write
    · cases write
    · next one => exact (ih write).trans (colls_collWrite one)

theorem colls_blockReads {ns : List Nat} {xs : List Tile} (read : s.blockReads h ns = .ok (t, xs)) : t.colls = s.colls := by
  induction ns generalizing s xs with
  | nil =>
    cases read
    rfl
  | cons n ns ih =>
    unfold State.blockReads at read
    split at read
    · cases read
    · next one =>
      split_ifs at read
      · cases read
        exact colls_collRead one
      · split at read
        · cases read
        · next rest =>
          cases read
          exact (ih rest).trans (colls_collRead one)

theorem foldl_stuck {α : Type} (f : Except State State → α → Except State State) (stuck : ∀ e x, f (.error e) x = .error e) (l : List α)
    (e : State) : l.foldl f (.error e) = .error e := by
  induction l with
  | nil => rfl
  | cons x l ih =>
    rw [List.foldl_cons, stuck]
    exact ih

theorem colls_blockWrites {k m : Nat} {f : Nat → Tile} (write : s.blockWrites h k m f = .ok t) : t.colls = s.colls := by
  unfold State.blockWrites at write
  generalize upTo m = l at write
  induction l generalizing s with
  | nil =>
    cases write
    rfl
  | cons j l ih =>
    rw [List.foldl_cons] at write
    dsimp only at write
    cases one : s.collWrite h (k + j) (f j) with
    | error e =>
      rw [one, foldl_stuck _ (by intros; rfl)] at write
      cases write
    | ok r =>
      rw [one] at write
      exact (ih write).trans (colls_collWrite one)

theorem colls_sendP8 {unit src dest : Nat} {x : Tile} (sent : s.sendP8 h unit src dest x = some t) : t.colls = s.colls := by
  unfold State.sendP8 at sent
  split at sent
  · cases sent
  · dsimp only at sent
    split_ifs at sent
    obtain rfl := Option.some.inj sent
    rfl

theorem mem_sendP8 {unit src dest : Nat} {x : Tile} (sent : s.sendP8 h unit src dest x = some t) : t.mem = s.mem := by
  unfold State.sendP8 at sent
  split at sent
  · cases sent
  · dsimp only at sent
    split_ifs at sent
    obtain rfl := Option.some.inj sent
    rfl

/-! ## Copies -/

section
variable {g : BitVec 8} {tag : BitVec 28} {s1 s2 : State} {x : Tile}

/-- A piece of a collective's work done, in a state in which memory stands as the piece leaves it and the dealer's table is untouched. -/
theorem did_done (colls : r.colls = s.colls) (found : s.findColl g.toNat tag.toNat = some c) (u : Nat × Nat) :
    ∃ d, (r.collDid c u).findColl g.toNat tag.toNat = some d ∧ u ∈ d.doneWork :=
  ⟨_, findColl_did colls found u, List.mem_cons_self⟩

theorem execAllGather_moves {src tile : Nat} {cmd : Cmd} (row : s.collAt g tag 3 = some c) (todo : s.collTodo c (src, tile) = true)
    (joined : s.collCmd (c.member src) = some cmd) (read : s.collRead (c.member src) tile none = .ok (s1, x))
    (write : s1.copyTo x ((members c.desc).map fun h => (h, src * (Record.desc cmd.r 0).count + tile)) = .ok s2) :
    execAllGather g tag src tile s = .next ((s2.countSent (c.member src) x.head.bytes).collDid c (src, tile)) := by
  unfold execAllGather
  rw [row]
  dsimp only
  rw [todo, joined, read]
  dsimp only
  rw [write]
  rfl

theorem execBroadcast_prunes {dst tile : Nat} (row : s.collAt g tag 4 = some c) (todo : s.collTodo c (dst, tile) = true)
    (rank : dst < (ranked c.ring c.desc).length) (down : s.handUp (c.member dst) = false) (new : ∀ u ∈ c.doneWork, u.1 ≠ dst) :
    execBroadcast g tag dst tile s =
      .next ((s.pruneMember c (c.member dst) (c.member (CDesc.root c.desc))).collDid c (dst, tile)) := by
  unfold execBroadcast
  rw [row]
  dsimp only
  rw [todo, down, if_neg (by decide), if_neg (by omega), if_pos (by decide), if_neg]
  rw [List.any_eq_true]
  rintro ⟨u, mem, here⟩
  exact new u mem (by simpa using here)

theorem execBroadcast_prunesSuit {dst tile : Nat} (row : s.collAt g tag 4 = some c) (todo : s.collTodo c (dst, tile) = true)
    (rank : (ranked c.ring c.desc).length ≤ dst) : execBroadcast g tag dst tile s =
      .next ((s.pruneSuit c (c.foldedSuits.getD (dst - (ranked c.ring c.desc).length) 0) (c.member (CDesc.root c.desc))).collDid c (dst, tile)) := by
  unfold execBroadcast
  rw [row]
  dsimp only
  rw [todo, if_neg (by decide), if_pos rank]

/-- The root's count of bytes sent rises with the first branch of a tile. -/
def Machine.State.broadcastSent (s : State) (c : Coll) (root dst tile : Nat) (x : Tile) : State :=
  (if (s.findColl c.g c.tag).any fun y => y.doneWork.any fun u => u.2 == tile then s else s.countSent root x.head.bytes).collDid c (dst, tile)

theorem mem_broadcastSent (s : State) (c : Coll) (root dst tile : Nat) (x : Tile) : (s.broadcastSent c root dst tile x).mem = s.mem := by
  unfold State.broadcastSent
  split_ifs <;> rfl

theorem net_broadcastSent (s : State) (c : Coll) (root dst tile : Nat) (x : Tile) : (s.broadcastSent c root dst tile x).net = s.net := by
  unfold State.broadcastSent
  split_ifs <;> rfl

theorem broadcastSent_done {dst tile root : Nat} (colls : r.colls = s.colls) (found : s.findColl g.toNat tag.toNat = some c) :
    ∃ d, (r.broadcastSent c root dst tile x).findColl g.toNat tag.toNat = some d ∧ (dst, tile) ∈ d.doneWork := by
  unfold State.broadcastSent
  refine did_done (s := s) ?_ found _
  split_ifs
  · exact colls
  · exact colls

section
variable {dst tile : Nat} {cmd : Cmd} (row : s.collAt g tag 4 = some c) (todo : s.collTodo c (dst, tile) = true)
  (rank : dst < (ranked c.ring c.desc).length) (up : s.handUp (c.member dst) = true)
  (read : s.collRead (c.member (CDesc.root c.desc)) tile none = .ok (s1, x)) (run : s1.collRun (c.member dst) = some cmd)
include row todo rank up read run

theorem execBroadcast_writes (place : (Record.desc cmd.r 2).kind ≠ 3) (write : s1.collWrite (c.member dst) tile x = .ok s2) :
    execBroadcast g tag dst tile s = .next (s2.broadcastSent c (c.member (CDesc.root c.desc)) dst tile x) := by
  unfold execBroadcast
  rw [row]
  dsimp only
  rw [todo, up, if_neg (by decide), if_neg (by omega), if_neg (by decide), read]
  dsimp only
  rw [run]
  dsimp only
  rw [if_neg place, write]
  rfl

theorem execBroadcast_sends (place : (Record.desc cmd.r 2).kind = 3)
    (sent : s1.sendP8 (c.member dst) 26 (epHand (c.member dst) 26) (Record.desc cmd.r 2).dest x = some s2) :
    execBroadcast g tag dst tile s =
      .next ((s2.setCmd 7 (c.member dst) 0 { cmd with acks := cmd.acks + 1 }).broadcastSent c (c.member (CDesc.root c.desc)) dst tile x) := by
  unfold execBroadcast
  rw [row]
  dsimp only
  rw [todo, up, if_neg (by decide), if_neg (by omega), if_neg (by decide), read]
  dsimp only
  rw [run]
  dsimp only
  rw [if_pos place, sent]
  rfl

end

/-! ## Blocks -/

/-- The collective with what a block's sender lost added to its count of dropped tiles. -/
def Machine.Coll.drops (c : Coll) (h n : Nat) : Coll :=
  if n = 0 then c else { c with dropped := PMap.put c.dropped h (PMap.get 0 c.dropped h + n) }

theorem drops_names (c : Coll) (h n : Nat) : (c.drops h n).g = c.g ∧ (c.drops h n).tag = c.tag := by
  unfold Coll.drops
  split_ifs
  · exact ⟨rfl, rfl⟩
  · exact ⟨rfl, rfl⟩

theorem get_drops (c : Coll) (h n : Nat) : PMap.get 0 (c.drops h n).dropped h = PMap.get 0 c.dropped h + n := by
  unfold Coll.drops
  split_ifs with none
  · rw [none, Nat.add_zero]
  · exact (PMap.get_put ..).trans (if_pos rfl)

theorem moveBlock_moves {src from0 dst to0 : Nat} {u : Nat × Nat} {ts : List Tile} {cmd : Cmd} (found : s.findColl g.toNat tag.toNat = some c)
    (read : s.blockReads src ((upTo (CDesc.scap c.desc)).map (from0 + ·)) = .ok (s1, ts)) (run : s1.collRun dst = some cmd)
    (write : s1.blockWrites dst to0 (CDesc.capacity c.desc) (fun j => (ts.take (CDesc.capacity c.desc)).getD j
        (s1.padTile (Record.desc cmd.r 2) (to0 + j))) = .ok s2) :
    (s.moveBlock c src from0 dst to0 u).mem = s2.mem ∧ ∃ d, (s.moveBlock c src from0 dst to0 u).findColl g.toNat tag.toNat = some d ∧
      u ∈ d.doneWork ∧ PMap.get 0 d.dropped src = PMap.get 0 c.dropped src + (ts.length - CDesc.capacity c.desc) := by
  obtain ⟨n, hn⟩ : ∃ n, n = ts.length - (ts.take (CDesc.capacity c.desc)).length := ⟨_, rfl⟩
  have count : n = ts.length - CDesc.capacity c.desc := by
    rw [hn, List.length_take]
    omega
  have moved : s.moveBlock c src from0 dst to0 u = (if src = dst then s2 else
      s2.countSent src (sumL ((ts.take (CDesc.capacity c.desc)).map fun t => t.head.bytes))).collDid (c.drops src n) u := by
    unfold State.moveBlock
    dsimp only
    rw [read]
    dsimp only
    rw [run]
    dsimp only
    rw [write, hn]
    rfl
  rw [moved, ← count]
  have colls : s2.colls = s.colls := (colls_blockWrites write).trans (colls_blockReads read)
  refine ⟨?_, { c.drops src n with doneWork := u :: (c.drops src n).doneWork }, ?_, List.mem_cons_self, get_drops c src n⟩
  · split_ifs
    · rfl
    · rfl
  · refine findColl_setColl (c := c) ((findColl_congr (s := s) ?_ _ _).trans found) (drops_names c src n).1 (drops_names c src n).2
    split_ifs
    · exact colls
    · exact colls

end

/-- Settles O28. -/
theorem copyingCollectives : Obligations.CopyingCollectives := by
  unfold Obligations.CopyingCollectives
  intro g tag s c
  refine ⟨fun src tile s1 s2 x t0 row todo cmd read write => ?_, fun dst tile s1 x t0 row todo rank up read run => ?_,
    fun dst tile row todo rank down new => ?_, fun dst row todo rank => ?_, fun src dst s1 s2 ts x y mem => ?_, fun row todo => ?_⟩
  · exact ⟨_, execAllGather_moves row todo cmd read write, rfl,
      did_done (s := s) ((colls_copyTo write).trans (colls_collRead read)) (collAt_found row) _⟩
  · refine ⟨fun s2 place write => ⟨_, execBroadcast_writes row todo rank up read run place write, mem_broadcastSent .., ?_⟩,
      fun s2 place sent => ⟨_, execBroadcast_sends row todo rank up read run place sent, ?_, ?_, ?_⟩⟩
    · exact broadcastSent_done (s := s) ((colls_collWrite write).trans (colls_collRead read)) (collAt_found row)
    · exact net_broadcastSent ..
    · exact mem_broadcastSent ..
    · exact broadcastSent_done (s := s) ((colls_sendP8 sent).trans (colls_collRead read)) (collAt_found row)
  · refine ⟨_, execBroadcast_prunes row todo rank down new, ⟨_, rfl, rfl, rfl⟩, ?_, rfl⟩
    exact State.flag_setBit s (Reg.routerStat (c.member dst)) 30 (by decide)
  · exact ⟨_, execBroadcast_prunesSuit row todo rank, ⟨_, rfl, rfl, rfl⟩, rfl⟩
  · rcases List.mem_pair.mp mem with rfl | rfl
    · intro row todo read run write
      refine ⟨s.moveBlock c (c.member src) (dst * CDesc.scap c.desc) (c.member dst) (src * CDesc.capacity c.desc) (src, dst), ?_,
        moveBlock_moves (collAt_found row) read run write⟩
      show execAllToAll g tag src dst s = _
      unfold execAllToAll
      rw [show s.collAt g tag 5 = some c from row]
      exact congrArg _ (if_pos todo)
    · intro row todo read run write
      refine ⟨s.moveBlock c (c.member src) 0 (c.member (CDesc.root c.desc)) (src * CDesc.capacity c.desc) (src, 0), ?_,
        moveBlock_moves (collAt_found row) (by simpa using read) run write⟩
      show execCollGather g tag src s = _
      unfold execCollGather
      rw [show s.collAt g tag 6 = some c from row]
      exact congrArg _ (if_pos todo)
  · refine ⟨s.collDid c (0, 0), ?_, did_done (s := s) rfl (collAt_found row) _, rfl, ⟨rfl, rfl, rfl⟩, fun _ => rfl⟩
    show execBarrier g tag s = _
    unfold execBarrier
    rw [row]
    exact congrArg _ (if_pos todo)

end Sys2Proof
end

section
/-! PROOFS. Reductions and the Shuffle (R380 to R387). -/

namespace Sys2Proof

open Machine

variable {s t r s1 s2 : State} {c : Coll} {h n : Nat} {g : BitVec 8} {tag : BitVec 28}

/-! ## Bytes sent -/

theorem xbytes_apart {a b : Nat} (ne : a ≠ b) : Reg.xbytes a ≠ Reg.xbytes b ∧ Reg.xbytes a + 4 ≠ Reg.xbytes b ∧
    Reg.xbytes a ≠ Reg.xbytes b + 4 ∧ Reg.xbytes a + 4 ≠ Reg.xbytes b + 4 := by
  unfold Reg.xbytes handBase suitBase
  omega

theorem reg64_countSent_other (s : State) (n : Nat) {a b : Nat} (ne : a ≠ b) : (s.countSent b n).reg64 (Reg.xbytes a) = s.reg64 (Reg.xbytes a) := by
  obtain ⟨p, q, u, v⟩ := xbytes_apart ne
  refine State.reg64_congr _ ?_ ?_
  · exact (State.reg_setReg ..).trans ((if_neg u).trans ((State.reg_setReg ..).trans (if_neg p)))
  · exact (State.reg_setReg ..).trans ((if_neg v).trans ((State.reg_setReg ..).trans (if_neg q)))

theorem reg64_countSents_other {l : List Nat} (n : Nat) (out : h ∉ l) (s : State) :
    (l.foldl (fun (s : State) e => s.countSent e n) s).reg64 (Reg.xbytes h) = s.reg64 (Reg.xbytes h) := by
  induction l generalizing s with
  | nil => rfl
  | cons e l ih =>
    obtain ⟨ne, rest⟩ := not_or.mp (mt List.mem_cons.mpr out)
    exact (ih rest _).trans (reg64_countSent_other s n ne)

theorem reg64_countSents {l : List Nat} (n : Nat) (nodup : l.Nodup) (mem : h ∈ l) (s : State) :
    (l.foldl (fun (s : State) e => s.countSent e n) s).reg64 (Reg.xbytes h) = (s.reg64 (Reg.xbytes h) + n) % 2 ^ 64 := by
  induction l generalizing s with
  | nil => cases mem
  | cons e l ih =>
    obtain ⟨out, rest⟩ := List.nodup_cons.mp nodup
    rw [List.foldl_cons]
    rcases List.mem_cons.mp mem with rfl | later
    · rw [reg64_countSents_other n out]
      exact reg64_add64 s _ n
    · rw [ih rest later, reg64_countSent_other s n (by rintro rfl; exact out later)]

/-! ## Strands -/

theorem nodup_strand (d : BitVec 2048) (pos k : Nat) :
    (strandOrder ((Machine.ringOf d).map fun a => a * 160 + snakeHand pos) k).Nodup := by
  have ring : (Machine.ringOf d).Nodup := List.Nodup.filter _ (by decide)
  have ps : ((Machine.ringOf d).map fun a => a * 160 + snakeHand pos).Nodup := ring.map (by intro a b e; dsimp only at e; omega)
  unfold strandOrder
  rw [List.perm_append_comm.nodup_iff, List.take_append_drop]
  exact ps

theorem owner_not_dropLast {l : List Nat} (nodup : l.Nodup) {e : Nat} (mem : e ∈ l.dropLast) : e ≠ l.getLastD 640 := by
  have some_ : l ≠ [] := by rintro rfl; cases mem
  rw [← List.dropLast_append_getLast some_, List.nodup_append] at nodup
  rw [List.getLastD_eq_getLast?, List.getLast?_eq_getLast_of_ne_nil some_, Option.getD_some]
  exact nodup.2.2 e mem _ (List.mem_singleton_self _)

theorem reg64_collDid (s : State) (c : Coll) (u : Nat × Nat) (a : Nat) : (s.collDid c u).reg64 a = s.reg64 a := State.reg64_congr _ rfl rfl

/-- Where the sum of tile n of a strand is written: at every member, or at the owner alone. -/
def strandDests (ps : List Nat) (tt n : Nat) (all : Bool) : List (Nat × Nat) :=
  let cc := chunkC tt ps.length
  let ch := n / max 1 cc
  if all then ps.map fun h => (h, n) else [((strandOrder ps ch).getLastD 640, n - ch * cc)]

theorem reduceTile_sums {pos tile tt : Nat} {all : Bool} {parts : List (List Tile)} (found : s.findColl g.toNat tag.toNat = some c)
    {ps order : List Nat} (hps : ps = (Machine.ringOf c.desc).map fun a => a * 160 + snakeHand pos)
    (horder : order = strandOrder ps (tile / max 1 (chunkC tt ps.length)))
    (read : s.strandGather c tile order = .ok (s1, parts))
    (write : s1.writeResult (strandResult c.desc parts) (strandDests ps tt tile all) = .ok s2) :
    (s.reduceTile c pos tile tt all).mem = s2.mem ∧
    (∃ d, (s.reduceTile c pos tile tt all).findColl g.toNat tag.toNat = some d ∧ (pos, tile) ∈ d.doneWork) ∧
    ∀ e ∈ order.dropLast, (s.reduceTile c pos tile tt all).reg64 (Reg.xbytes e) = (s2.reg64 (Reg.xbytes e) + collW c.desc * 4096) % 2 ^ 64 := by
  have nodup : order.Nodup := by
    rw [horder, hps]
    exact nodup_strand _ _ _
  obtain ⟨s3, h3⟩ : ∃ s3, s3 = order.dropLast.foldl (fun (s : State) e => s.countSent e (collW c.desc * 4096)) s2 := ⟨_, rfl⟩
  have reduced : s.reduceTile c pos tile tt all = (if (all && decide (1 < ps.length)) = true then
      s3.countSent (order.getLastD 640) (strandResult c.desc parts).1.bytes else s3).collDid c (pos, tile) := by
    unfold State.reduceTile
    dsimp only
    rw [← hps, ← horder, read]
    dsimp only
    rw [h3]
    unfold strandDests at write
    dsimp only at write
    rw [← horder] at write
    rw [write]
  have colls : s3.colls = s.colls := by
    rw [h3]
    exact (foldl_keeps _ State.colls (by intro s x; rfl) _ _).trans ((colls_writeResult write).trans (colls_strandGather read))
  have mem : s3.mem = s2.mem := by
    rw [h3]
    exact foldl_keeps _ State.mem (by intro s x; rfl) _ _
  have sent : ∀ e ∈ order.dropLast, s3.reg64 (Reg.xbytes e) = (s2.reg64 (Reg.xbytes e) + collW c.desc * 4096) % 2 ^ 64 := by
    intro e out
    rw [h3]
    exact reg64_countSents _ (nodup.sublist (List.dropLast_sublist _)) out s2
  rw [reduced]
  split_ifs
  · exact ⟨mem, did_done (s := s) colls found _, fun e out =>
      (reg64_collDid ..).trans ((reg64_countSent_other s3 _ (owner_not_dropLast nodup out)).trans (sent e out))⟩
  · exact ⟨mem, did_done (s := s) colls found _, fun e out => (reg64_collDid ..).trans (sent e out)⟩

/-- Settles O27. -/
theorem reductionSumsStrand : Obligations.ReductionSumsStrand := by
  unfold Obligations.ReductionSumsStrand
  intro g tag pos tile s s1 s2 c parts x mem row todo
  extract_lets ps cc ch order owner
  intro read write
  rcases List.mem_pair.mp mem with rfl | rfl
  · refine ⟨s.reduceTile c pos.val tile (s.collT c) true, ?_, reduceTile_sums (collAt_found row) rfl rfl read write⟩
    show execAllreduce g tag pos tile s = _
    unfold execAllreduce
    rw [show s.collAt g tag 1 = some c from row]
    exact congrArg _ (if_pos todo)
  · refine ⟨s.reduceTile c pos.val tile (s.collT c) false, ?_, reduceTile_sums (collAt_found row) rfl rfl read write⟩
    show execReduceScatter g tag pos tile s = _
    unfold execReduceScatter
    rw [show s.collAt g tag 2 = some c from row]
    exact congrArg _ (if_pos todo)

/-! ## The Shuffle -/

theorem arrived_tableEntry {cmd : Cmd} {ref k e : Nat} (read : s.tableEntry h cmd ref n k = .ok (t, e)) : Arrived 7 h s t := by
  unfold State.tableEntry at read
  dsimp only at read
  split at read
  · cases read
  · cases read
  · cases read
  · next got =>
    cases read
    exact arrived_arriveMem (by decide) got

theorem arrived_shuffleSource {cmd : Cmd} {e : Nat} {x : Tile} (read : s.shuffleSource c h cmd e = .ok (t, x)) : Arrived 7 h s t := by
  unfold State.shuffleSource at read
  dsimp only at read
  split_ifs at read
  · split at read
    · cases read
    · cases read
    · cases read
    · next got =>
      cases read
      rw [arriveLocal_same got]
      exact .refl s
  · exact arrived_collRead read

/-- Where an entry of the map may take its tile from, and bring it to (R386). -/
def ShuffleFits (c : Coll) (cmd : Cmd) (e : Nat) : Prop :=
  bits e 0 30 < (if bit e 62 then 30 * CDesc.slots c.desc else (Record.desc cmd.r 0).count) ∧
  bits e 32 30 < (if bit e 63 then 30 * CDesc.slots c.desc else (Record.desc cmd.r 0).count)

section
variable {entry e : Nat} {cmd : Cmd} {x : Tile} (fits : ShuffleFits c cmd e) (source : s.shuffleSource c h cmd e = .ok (s1, x))
include fits source

theorem shuffleEntry_stashes (stash : bit e 63 = true) : s.shuffleEntry c entry h cmd e =
    ({ s1 with redMem := PMap.put s1.redMem (c.stashKey (h / 160) (bits e 32 30)) x }.countSent h x.head.bytes).collDid c (entry, 0) := by
  obtain ⟨src, dst⟩ := fits
  unfold State.shuffleEntry
  dsimp only
  rw [if_neg (by rw [Bool.or_eq_true, decide_eq_true_eq, decide_eq_true_eq]; omega), source]
  exact if_pos stash

theorem shuffleEntry_writes (stash : bit e 63 = false)
    (write : s1.collWrite h (bits e 32 30) (x.movedTo ((Record.desc cmd.r 2).pos (bits e 32 30))) = .ok s2) :
    s.shuffleEntry c entry h cmd e = (s2.countSent h x.head.bytes).collDid c (entry, 0) := by
  obtain ⟨src, dst⟩ := fits
  unfold State.shuffleEntry
  dsimp only
  rw [if_neg (by rw [Bool.or_eq_true, decide_eq_true_eq, decide_eq_true_eq]; omega), source]
  dsimp only
  rw [if_neg (by rw [stash]; decide), write]

end

theorem execShuffle_entry {entry e : Nat} {cmd : Cmd} (row : s.collAt g tag 8 = some c) (todo : s.collTodo c (entry, 0) = true)
    (next : s.sectionOpen c entry = true) (hh : h = c.member (entry % max 1 (ranked c.ring c.desc).length)) (run : s.collRun h = some cmd)
    (read : s.tableEntry h cmd (CDesc.map c.desc) 8 entry = .ok (t, e)) :
    execShuffle g tag entry s = .next (t.shuffleEntry c entry h cmd e) := by
  unfold execShuffle
  rw [row]
  dsimp only
  rw [todo, next, if_neg (by decide), ← hh, run]
  dsimp only
  rw [read]

end Sys2Proof
end

section
/-! PROOFS. What stops at an XCHG leave of the dealer, and the joins of a collective (R54, R303, R365 to R371). -/

namespace Sys2Proof

open Machine

variable {r s t : State} {c : Coll} {h n g tag : Nat}

/-! ## Stations that stop -/

/-- Registers of the package, but for the Bell's, and those of the bridge ends. -/
def DealerReg (a : Nat) : Prop := (a < 0x10000000 ∧ a ≠ Reg.bellStat) ∨ ∃ b, a = Reg.bridgeEnd b

theorem handBase_not_dealer {x : Nat} (lt : x < 0x40000) : ¬ DealerReg (handBase h + x) := by
  rintro (⟨low, -⟩ | ⟨b, e⟩)
  · unfold handBase suitBase at low
    omega
  · simp only [Reg.bridgeEnd, handBase, suitBase] at e
    omega

theorem dealerReg_not_gran {a : Nat} (dealer : DealerReg a) : ¬ GranReg a := by
  rcases dealer with ⟨low, -⟩ | ⟨b, rfl⟩
  · rintro ⟨i, e | ⟨n, hn, e⟩⟩
    · simp only [Reg.pfUsed, Reg.pfOnTime, Reg.pfLate, suitBase, List.mem_cons, List.not_mem_nil, or_false] at e
      omega
    · simp only [Reg.hbmPc, suitBase] at e
      omega
  · unfold Reg.bridgeEnd
    rw [Nat.add_assoc]
    exact not_granReg_suitBase (by omega) (by omega)

/-- Work at XCHG stations, and a stop of one: the dealer's table and registers stay, and the records at the stations; a stopped station
stays stopped, and no fault record is lost. -/
structure Stops (s t : State) : Prop where
  colls : t.colls = s.colls
  reg : ∀ a, DealerReg a → t.reg a = s.reg a
  queue : ∀ h, (t.hand h).xq = (s.hand h).xq
  halted : ∀ h, s.stHalted 7 h = true → t.stHalted 7 h = true
  flight : s.recov.flight ⊆ t.recov.flight

theorem Stops.refl (s : State) : Stops s s := ⟨rfl, fun _ _ => rfl, fun _ => rfl, fun _ => id, fun _ => id⟩

theorem Stops.trans (a : Stops r s) (b : Stops s t) : Stops r t :=
  ⟨b.colls.trans a.colls, fun x p => (b.reg x p).trans (a.reg x p), fun h => (b.queue h).trans (a.queue h), fun h p => b.halted h (a.halted h p),
    fun _ m => b.flight (a.flight m)⟩

theorem stops_foldl {α : Type} (f : State → α → State) (each : ∀ s x, Stops s (f s x)) (l : List α) (s : State) : Stops s (l.foldl f s) := by
  induction l generalizing s with
  | nil => exact .refl s
  | cons x l ih => exact (each s x).trans (ih _)

theorem stops_setReg (s : State) {a : Nat} (v : W32) (off : ¬ DealerReg a) : Stops s (s.setReg a v) :=
  ⟨rfl, fun _ p => (State.reg_setReg ..).trans (if_neg (by rintro rfl; exact off p)), fun _ => rfl, fun _ => id, fun _ => id⟩

theorem stops_setHand (s : State) (h : Nat) {d : Hand} (queue : d.xq = (s.hand h).xq)
    (halted : (s.hand h).halted.contains 7 = true → d.halted.contains 7 = true) : Stops s (s.setHand h d) := by
  refine ⟨rfl, fun _ _ => rfl, fun i => ?_, fun i => ?_, fun _ => id⟩
  · rw [State.hand_setHand]
    split_ifs with e
    · rw [e, queue]
    · rfl
  · show (s.hand i).halted.contains 7 = true → ((s.setHand h d).hand i).halted.contains 7 = true
    rw [State.hand_setHand]
    split_ifs with e
    · rw [e]
      exact halted
    · exact id

theorem stops_haltStation (s : State) (st h : Nat) (hi : 5 < st) (mill : st ≠ 8) : Stops s (s.haltStation st h) := by
  unfold State.haltStation
  rw [if_neg (by omega), if_neg mill]
  exact stops_setHand s h rfl fun e => by rw [List.contains_cons, e, Bool.or_true]

theorem stops_note (s : State) (n : Notice) : Stops s (s.note n) := ⟨rfl, fun _ _ => rfl, fun _ => rfl, fun _ => id, fun _ => id⟩

theorem stops_postAt (s : State) (time reeve sev code ep detail : Nat) : Stops s (s.postAt time reeve sev code ep detail) :=
  ⟨rfl, fun _ _ => rfl, fun _ => rfl, fun _ => id, fun _ m => List.mem_append_left _ m⟩

theorem stops_reeveStop (s : State) : Stops s s.reeveStop := by
  refine ⟨?_, fun a p => reg_reeveStop s ?_, fun h => by rw [State.hand_reeveStop], fun h e => ?_, by rw [State.recov_reeveStop]; exact fun _ => id⟩
  · obtain ⟨_, _, _, _, e, -⟩ := reeveStop_rung s
    rw [e]
  · rcases p with ⟨-, ne⟩ | ⟨b, rfl⟩
    · exact ne
    · simp only [Reg.bridgeEnd, suitBase, Reg.bellStat]
      omega
  · unfold State.stHalted at e ⊢
    rw [State.hand_reeveStop]
    exact e

theorem stops_traceHand (s : State) (h : Nat) (x : Trace) : Stops s (s.traceHand h x) := by
  have ringed := stops_setHand s h (d := { s.hand h with
    ring := (ringAdd (s.hand h).ring (s.hand h).rseq (s.hand h).lostNew (s.now h) x).1
    rseq := (ringAdd (s.hand h).ring (s.hand h).rseq (s.hand h).lostNew (s.now h) x).2.1
    lostNew := (ringAdd (s.hand h).ring (s.hand h).rseq (s.hand h).lostNew (s.now h) x).2.2.1 }) rfl id
  unfold State.traceHand
  dsimp only
  split_ifs
  · exact ringed
  · exact ringed.trans (stops_setReg _ _ (handBase_not_dealer (by decide)))

theorem stops_escalate (s : State) (h tid kind : Nat) (refetched : Bool) (serial : Nat) : Stops s (s.escalate 7 h tid kind refetched serial) := by
  unfold State.escalate State.postHand
  exact (((stops_haltStation s 7 h (by decide) (by decide)).trans (stops_setReg _ _ (handBase_not_dealer (by decide)))).trans
    (stops_traceHand _ _ _)).trans (stops_postAt _ _ _ _ _ _ _)

theorem stops_pageFault (s : State) (h va kind : Nat) (pcopy : Bool) (serial : Nat) : Stops s (s.pageFault 7 h va kind pcopy serial) := by
  have halted := stops_haltStation s 7 h (by decide) (by decide)
  unfold State.pageFault
  dsimp only
  rw [if_neg (c := (7 : Nat) = 1) (by decide), if_neg (c := (7 : Nat) = 5) (by decide)]
  generalize s.haltStation 7 h = b at halted ⊢
  refine (halted.trans ?_).trans ((stops_note _ _).trans (stops_reeveStop _))
  by_cases again : b.flag (Reg.fstat (handOf 7 h)) 31 = true
  · rw [if_pos again]
    exact .refl b
  · rw [if_neg again]
    refine Stops.trans ?_ (stops_setReg _ _ (handBase_not_dealer (by decide)))
    exact (stops_setReg _ _ (handBase_not_dealer (x := 0x400) (by decide))).trans (stops_setReg _ _ (handBase_not_dealer (x := 0x404) (by decide)))

theorem stops_refuse (s : State) (h : Nat) (f : Refuse) (tid serial : Nat) : Stops s (s.refuse 7 h f tid serial) := by
  cases f with
  | fault a k p => exact stops_pageFault s h a k p serial
  | poison => exact stops_escalate s h tid 3 false serial

theorem stops_badRecord (s : State) (h va : Nat) : Stops s (s.badRecord h va) := by
  unfold State.badRecord
  exact ((stops_haltStation s 9 h (by decide) (by decide)).trans (stops_setReg _ _ (handBase_not_dealer (by decide)))).trans
    ((stops_note _ _).trans (stops_reeveStop _))

theorem stops_flushed (f : Flushed Nothing s t) : Stops s t := by
  obtain ⟨_, _, l, recov⟩ := f.calm
  refine ⟨f.frame.colls, fun a p => f.frame.reg a id (dealerReg_not_gran p), fun h => ?_, fun h e => ?_, by rw [recov]; exact fun _ m => List.mem_append_left _ m⟩
  · rw [f.hand h]
  · unfold State.stHalted at e ⊢
    rw [f.hand h]
    exact e

/-! ## Completion (R389, R390, R570) -/

theorem stops_writeTile {unit tid hva pva : Nat} {x : Tile} (e : s.writeTile unit tid hva pva x = .ok t) : Stops s t := by
  unfold State.writeTile at e
  split at e
  · cases e
  · split at e
    · cases e
    · next w1 =>
      split at e
      · cases e
      · next w2 =>
        obtain rfl := Except.ok.inj e
        exact (stops_flushed (flushed_vwrite w1)).trans (stops_flushed (flushed_vwrite w2))

theorem stops_writeCompl (s : State) (c : Coll) (status h : Nat) : Stops s (s.writeCompl c status h) := by
  unfold State.writeCompl
  dsimp only
  split_ifs
  · exact .refl s
  · split
    · next w => exact stops_writeTile w
    · exact stops_refuse _ _ _ _ _

/-- What a completion does to the records of the XCHGs: the first record of each stays, and stays complete. -/
structure Completes (s t : State) : Prop where
  colls : t.colls = s.colls
  reg : ∀ a, DealerReg a → t.reg a = s.reg a
  halted : ∀ h, s.stHalted 7 h = true → t.stHalted 7 h = true
  head : ∀ h x, (s.hand h).xq.head? = some x → ∃ y, (t.hand h).xq.head? = some y ∧ y.r = x.r ∧ (x.complete = true → y.complete = true)

theorem Completes.refl (s : State) : Completes s s := ⟨rfl, fun _ _ => rfl, fun _ => id, fun _ x e => ⟨x, e, rfl, id⟩⟩

theorem Completes.trans (a : Completes r s) (b : Completes s t) : Completes r t := by
  refine ⟨b.colls.trans a.colls, fun x p => (b.reg x p).trans (a.reg x p), fun h p => b.halted h (a.halted h p), fun h x e => ?_⟩
  obtain ⟨y, hy, ry, cy⟩ := a.head h x e
  obtain ⟨z, hz, rz, cz⟩ := b.head h y hy
  exact ⟨z, hz, rz.trans ry, cz ∘ cy⟩

theorem Stops.completes (a : Stops s t) : Completes s t :=
  ⟨a.colls, a.reg, a.halted, fun h x e => ⟨x, by rw [a.queue h]; exact e, rfl, id⟩⟩

theorem stHalted_finish (s : State) (h u : Nat) (x : Cmd) : (s.finish 7 h 0 x).stHalted 7 u = s.stHalted 7 u := by
  have set_ : ∀ (s : State) (i : Nat) (y : Cmd), (s.setCmd 7 h i y).stHalted 7 u = s.stHalted 7 u := by
    intro s i y
    show ((s.setHand h { s.hand h with xq := _ }).hand u).halted.contains 7 = (s.hand u).halted.contains 7
    rw [State.hand_setHand]
    split_ifs with e
    · rw [e]
    · rfl
  rcases finish_eq s 7 h 0 x with e | ⟨_, e⟩
  · rw [e, set_]
  · rw [e, set_, set_]

theorem completes_finish {x : Cmd} {q : List Cmd} (queue : (s.hand h).xq = x :: q) : Completes s (s.finish 7 h 0 x) := by
  have frame : Frame Nothing (· = h) Nothing Nothing s (s.finish 7 h 0 x) := frame_finish s 7 h 0 x (fun _ => rfl) (fun _ e => absurd e (by decide)) (fun e => absurd e (by decide))
  refine ⟨frame.mem_frame.colls, fun a _ => frame.reg a id, fun u e => (stHalted_finish s h u x).trans e, fun u y e => ?_⟩
  by_cases same : u = h
  · subst same
    have done := getElem_finish (s := s) (st := 7) (u := u) (i := 0) (d := x) (by decide) (by decide) (by show (s.hand u).xq[0]? = _; rw [queue]; rfl) x
    rw [queue] at e
    obtain rfl := Option.some.inj e
    exact ⟨_, (List.head?_eq_getElem? ..).trans done, rfl, fun _ => rfl⟩
  · rw [frame.hand u same]
    exact ⟨y, e, rfl, id⟩

/-- A member's part of a completion: its record is written, and its COLL is complete. -/
def Machine.State.completeAt (c : Coll) (s : State) (h : Nat) : State :=
  let s1 := s.writeCompl c 1 h
  match (s1.hand h).xq with
  | x :: _ => if s1.stHalted 7 h then s1 else s1.finish 7 h 0 x
  | [] => s1

theorem completes_completeAt (c : Coll) (s : State) (h : Nat) : Completes s (State.completeAt c s h) := by
  have written := (stops_writeCompl s c 1 h).completes
  unfold State.completeAt
  dsimp only
  split
  · next queue =>
    split_ifs
    · exact written
    · exact written.trans (completes_finish queue)
  · exact written

theorem completeAt_completes {x : Cmd} (queue : (s.hand h).xq.head? = some x) (runs : (State.completeAt c s h).stHalted 7 h = false) :
    ∃ y, ((State.completeAt c s h).hand h).xq.head? = some y ∧ y.r = x.r ∧ y.complete = true := by
  have written := stops_writeCompl s c 1 h
  rw [← written.queue h] at queue
  revert runs
  unfold State.completeAt
  dsimp only
  generalize s.writeCompl c 1 h = b at queue
  cases q : (b.hand h).xq with
  | nil =>
    rw [q] at queue
    cases queue
  | cons y l =>
    rw [q] at queue
    obtain rfl := Option.some.inj queue
    dsimp only
    split_ifs with halted
    · intro runs
      rw [halted] at runs
      cases runs
    · have done := getElem_finish (s := b) (st := 7) (u := h) (i := 0) (d := y) (by decide) (by decide) (by show (b.hand h).xq[0]? = _; rw [q]; rfl) y
      exact fun _ => ⟨_, (List.head?_eq_getElem? ..).trans done, rfl, rfl⟩

theorem completes_completeAll (c : Coll) (hs : List Nat) (s : State) : Completes s (hs.foldl (State.completeAt c) s) := by
  induction hs generalizing s with
  | nil => exact .refl s
  | cons h hs ih => exact (completes_completeAt c s h).trans (ih _)

theorem completeAll_completes {hs : List Nat} (mem : h ∈ hs) {x : Cmd} (queue : (s.hand h).xq.head? = some x)
    (runs : (hs.foldl (State.completeAt c) s).stHalted 7 h = false) :
    ∃ y, ((hs.foldl (State.completeAt c) s).hand h).xq.head? = some y ∧ y.r = x.r ∧ y.complete = true := by
  induction hs generalizing s x with
  | nil => cases mem
  | cons k hs ih =>
    by_cases later : h ∈ hs
    · obtain ⟨y, hy, ry, -⟩ := (completes_completeAt c s k).head h x queue
      obtain ⟨z, hz, rz, cz⟩ := ih later hy runs
      exact ⟨z, hz, rz.trans ry, cz⟩
    · obtain rfl : h = k := (List.mem_cons.mp mem).resolve_right later
      have rest := completes_completeAll c hs (State.completeAt c s h)
      have now : (State.completeAt c s h).stHalted 7 h = false :=
        Bool.eq_false_iff.mpr fun e => by
          rw [List.foldl_cons, rest.halted h e] at runs
          cases runs
      obtain ⟨y, hy, ry, cy⟩ := completeAt_completes queue now
      obtain ⟨z, hz, rz, cz⟩ := rest.head h y hy
      exact ⟨z, hz, rz.trans ry, cz cy⟩

/-- Without a place for completion records, a completion writes nothing and stops nothing. -/
theorem completeAt_dry (none_ : CDesc.compl c.desc % 2 ^ 24 = 0) (s : State) (h : Nat) :
    (State.completeAt c s h).mem = s.mem ∧ ∀ u, (State.completeAt c s h).stHalted 7 u = s.stHalted 7 u := by
  have same : s.writeCompl c 1 h = s := by
    unfold State.writeCompl
    exact if_pos (.inl (by simpa [refTid, bits] using none_))
  unfold State.completeAt
  rw [same]
  dsimp only
  split
  · split_ifs
    · exact ⟨rfl, fun _ => rfl⟩
    · next x _ _ _ =>
      have frame : Frame Nothing (· = h) Nothing Nothing s (s.finish 7 h 0 x) :=
        frame_finish s 7 h 0 x (fun _ => rfl) (fun _ e => absurd e (by decide)) (fun e => absurd e (by decide))
      exact ⟨frame.mem, fun u => stHalted_finish s h u x⟩
  · exact ⟨rfl, fun _ => rfl⟩

theorem completeAll_dry (none_ : CDesc.compl c.desc % 2 ^ 24 = 0) (hs : List Nat) (s : State) :
    (hs.foldl (State.completeAt c) s).mem = s.mem ∧ ∀ u, (hs.foldl (State.completeAt c) s).stHalted 7 u = s.stHalted 7 u := by
  induction hs generalizing s with
  | nil => exact ⟨rfl, fun _ => rfl⟩
  | cons h hs ih =>
    obtain ⟨mem, halted⟩ := ih (State.completeAt c s h)
    obtain ⟨mem', halted'⟩ := completeAt_dry none_ s h
    exact ⟨mem.trans mem', fun u => (halted u).trans (halted' u)⟩

/-! ## The dealer's counts (R570) -/

def BridgeEndReg (a : Nat) : Prop := ∃ b, a = Reg.bridgeEnd b

theorem frame_giveSlots {H C M : Nat → Prop} (s : State) (d : BitVec 2048) (n : Nat) : Frame BridgeEndReg H C M s (s.giveSlots d n) :=
  frame_foldl _ _ (fun b _ s => frame_setField s (Reg.bridgeEnd b) _ _ _ ⟨b, rfl⟩) s

theorem bridgeEnd_high (b : Nat) : 0x10000000 ≤ Reg.bridgeEnd b := by
  unfold Reg.bridgeEnd suitBase
  omega

/-- The latest of the collectives so far, with the endpoint that came last. -/
def Machine.State.lateSeen (s : State) (c : Coll) : State :=
  if (s.reg Reg.maxLate).toNat < c.lateCyc then
    (s.setReg Reg.maxLate (BitVec.ofNat 32 c.lateCyc)).setReg Reg.maxLateEp (BitVec.ofNat 32 c.lastJoin) else s

/-- The dealer's part of a completion: slots given back, and the counters. -/
def Machine.State.completionCounts (s : State) (c : Coll) : State :=
  let s4 := (((if c.slots = 0 then s else s.giveSlots c.desc c.slots).add64 Reg.collDone 1).add64 Reg.collLate c.lateCyc).lateSeen c
  if c.pruned.isEmpty then s4 else s4.add32 Reg.pruned 1

/-- Registers that the dealer's part of a completion writes, its two counters of 64 bits apart. -/
def CompletionReg (a : Nat) : Prop := BridgeEndReg a ∨ a = Reg.maxLate ∨ a = Reg.maxLateEp ∨ a = Reg.pruned

theorem frame_lateSeen {H C M : Nat → Prop} (s : State) (c : Coll) : Frame CompletionReg H C M s (s.lateSeen c) := by
  unfold State.lateSeen
  split_ifs
  · exact (frame_setReg _ _ _ (.inr (.inl rfl))).trans (frame_setReg _ _ _ (.inr (.inr (.inl rfl))))
  · exact .refl s

theorem completionCounts_spec (s : State) (c : Coll) : (∀ h, (s.completionCounts c).hand h = s.hand h) ∧ (s.completionCounts c).mem = s.mem ∧
    (s.completionCounts c).reg64 Reg.collDone = (s.reg64 Reg.collDone + 1) % 2 ^ 64 ∧
    (s.completionCounts c).reg64 Reg.collLate = (s.reg64 Reg.collLate + c.lateCyc) % 2 ^ 64 := by
  have off : ∀ a, a < 0x000D0010 → ¬ CompletionReg a := by
    rintro a low (⟨b, e⟩ | e | e | e)
    · have := bridgeEnd_high b
      omega
    all_goals
      simp only [Reg.maxLate, Reg.maxLateEp, Reg.pruned] at e
      omega
  obtain ⟨b, hb⟩ : ∃ b, b = if c.slots = 0 then s else s.giveSlots c.desc c.slots := ⟨_, rfl⟩
  have given : Frame BridgeEndReg Nothing Nothing Nothing s b := by
    rw [hb]
    split_ifs
    · exact .refl s
    · exact frame_giveSlots s _ _
  have kept : ∀ a, a < 0x000D0010 → b.reg a = s.reg a := fun a low => given.reg a fun e => off a low (.inl e)
  obtain ⟨e, he⟩ : ∃ e, e = (b.add64 Reg.collDone 1).add64 Reg.collLate c.lateCyc := ⟨_, rfl⟩
  have last : Frame CompletionReg Nothing Nothing Nothing e (s.completionCounts c) := by
    unfold State.completionCounts
    dsimp only
    rw [← hb, ← he]
    split_ifs
    · exact frame_lateSeen e c
    · exact (frame_lateSeen e c).trans (frame_add32 _ _ _ (.inr (.inr (.inr rfl))))
  have done : e.reg64 Reg.collDone = (b.reg64 Reg.collDone + 1) % 2 ^ 64 := by
    rw [← reg64_add64, he]
    refine State.reg64_congr _ ?_ ?_
    · exact (State.reg_setReg ..).trans ((if_neg (by decide)).trans ((State.reg_setReg ..).trans (if_neg (by decide))))
    · exact (State.reg_setReg ..).trans ((if_neg (by decide)).trans ((State.reg_setReg ..).trans (if_neg (by decide))))
  have late : e.reg64 Reg.collLate = (b.reg64 Reg.collLate + c.lateCyc) % 2 ^ 64 := by
    rw [he, reg64_add64]
    congr 2
    refine State.reg64_congr _ ?_ ?_
    · exact (State.reg_setReg ..).trans ((if_neg (by decide)).trans ((State.reg_setReg ..).trans (if_neg (by decide))))
    · exact (State.reg_setReg ..).trans ((if_neg (by decide)).trans ((State.reg_setReg ..).trans (if_neg (by decide))))
  have hand : ∀ h, e.hand h = b.hand h := fun h => by rw [he]; rfl
  have mem : e.mem = b.mem := by rw [he]; rfl
  refine ⟨fun h => (last.hand h id).trans ((hand h).trans (given.hand h id)), last.mem.trans (mem.trans given.mem), ?_, ?_⟩
  · rw [State.reg64_congr _ (last.reg _ (off _ (by decide))) (last.reg _ (off _ (by decide))), done,
      State.reg64_congr _ (kept _ (by decide)) (kept _ (by decide))]
  · rw [State.reg64_congr _ (last.reg _ (off _ (by decide))) (last.reg _ (off _ (by decide))), late,
      State.reg64_congr _ (kept _ (by decide)) (kept _ (by decide))]

theorem findColl_delColl (s : State) (g tag : Nat) : (s.delColl g tag).findColl g tag = none := by
  unfold State.findColl State.delColl
  dsimp only
  rw [List.find?_eq_none]
  intro c mem
  have out := (List.mem_filter.mp mem).2
  rw [Bool.not_eq_true'] at out
  exact Bool.eq_false_iff.mp out

/-- Settles O29. -/
theorem shuffleAndCompletion : Obligations.ShuffleAndCompletion := by
  unfold Obligations.ShuffleAndCompletion
  intro g tag s c
  refine ⟨fun entry s0 s1 x e t0 row todo next => ?_, fun found admitted live good done => ?_⟩
  · extract_lets h n
    intro run read src dst source
    have arrived := (arrived_tableEntry read).trans (arrived_shuffleSource source)
    have executed := execShuffle_entry row todo next rfl run read
    refine ⟨fun stash => ⟨_, executed, ?_⟩, fun s2 stash write => ⟨_, executed, ?_⟩⟩
    · rw [shuffleEntry_stashes ⟨src, dst⟩ source stash]
      exact ⟨arrived.mem, (PMap.get_put ..).trans (if_pos rfl), did_done (s := s) arrived.frame.colls (collAt_found row) _⟩
    · rw [shuffleEntry_writes ⟨src, dst⟩ source stash write]
      exact ⟨rfl, did_done (s := s) ((colls_collWrite write).trans arrived.frame.colls) (collAt_found row) _⟩
  · obtain ⟨b, hb⟩ : ∃ b, b = (s.wanted c).foldl (State.completeAt c) s := ⟨_, rfl⟩
    have completes : Completes s b := hb ▸ completes_completeAll c _ s
    obtain ⟨hand, mem, counted, late⟩ := completionCounts_spec b c
    have same : ∀ h, (b.completionCounts c).stHalted 7 h = b.stHalted 7 h := fun h => by
      show ((b.completionCounts c).hand h).halted.contains 7 = (b.hand h).halted.contains 7
      rw [hand h]
    obtain ⟨hg, ht⟩ := findColl_names found
    refine ⟨(b.completionCounts c).delColl c.g c.tag, ?_, ?_, ?_, ?_, fun h m runs x queue => ?_, fun none_ => ?_⟩
    · show execCollComplete g tag s = _
      unfold execCollComplete
      rw [found]
      dsimp only
      rw [if_neg (by simp [admitted, live, good, done]), hb]
      rfl
    · rw [← hg, ← ht]
      exact findColl_delColl _ _ _
    · refine Eq.trans (State.reg64_congr _ rfl rfl) (counted.trans ?_)
      rw [State.reg64_congr _ (completes.reg _ (.inl (by decide))) (completes.reg _ (.inl (by decide)))]
    · refine Eq.trans (State.reg64_congr _ rfl rfl) (late.trans ?_)
      rw [State.reg64_congr _ (completes.reg _ (.inl (by decide))) (completes.reg _ (.inl (by decide)))]
    · obtain ⟨y, hy, rest⟩ := completeAll_completes (c := c) m queue (by rw [← hb, ← same h]; exact runs)
      refine ⟨y, ?_, rest⟩
      rw [← hb] at hy
      show ((b.completionCounts c).hand h).xq.head? = some y
      rw [hand h]
      exact hy
    · obtain ⟨dry, halted⟩ := completeAll_dry none_ (s.wanted c) s
      rw [← hb] at dry halted
      exact ⟨mem.trans dry, fun h => (same h).trans (halted h)⟩

end Sys2Proof
end

section
/-! PROOFS. The joins of a collective (R365, R369, R371). -/

namespace Sys2Proof

open Machine

variable {r s t : State} {c : Coll} {h n g tag : Nat}

/-! ## A COLL reads its descriptor and joins -/

section
variable {h : HandIx} {d : Cmd}

theorem execColl_works (works : Works s 7 h.val 1 0 d) (runs : d.skip = false) (unjoined : d.out = 0) :
    execColl h s = .next (if d.b.got = 0 then
      match s.arrive 7 h.val d 1 (some 6) (fun _ => none) false with
      | .wait | .ask _ => s
      | .stop s1 => s1
      | .ok s1 t => s1.setCmd 7 h.val 0 (d.setFlow 1 (d.b.take (Record.desc d.r 1) t 0 0))
    else (s.setCmd 7 h.val 0 { d with out := 1 }).send (epHand h.val 26) epDealer 3 h.val
      (.join (CDesc.group d.collDesc) d.collTag (crc32c (toBytes 256 d.collDesc.toNat)) h.val)) := by
  unfold execColl
  rw [runStation_works works, works.1.1]
  dsimp only
  rw [runs, if_neg (by decide), if_neg (by simp [unjoined])]
  rfl

theorem execColl_reads {x : Tile} (works : Works s 7 h.val 1 0 d) (runs : d.skip = false) (unjoined : d.out = 0) (unread : d.b.got = 0)
    (comes : s.arrive 7 h.val d 1 (some 6) (fun _ => none) false = .ok t x) :
    execColl h s = .next (t.setCmd 7 h.val 0 (d.setFlow 1 (d.b.take (Record.desc d.r 1) x 0 0))) := by
  rw [execColl_works works runs unjoined, if_pos unread, comes]

theorem execColl_joins (works : Works s 7 h.val 1 0 d) (runs : d.skip = false) (unjoined : d.out = 0) (read : d.b.got ≠ 0) :
    execColl h s = .next ((s.setCmd 7 h.val 0 { d with out := 1 }).send (epHand h.val 26) epDealer 3 h.val
      (.join (CDesc.group d.collDesc) d.collTag (crc32c (toBytes 256 d.collDesc.toNat)) h.val)) := by
  rw [execColl_works works runs unjoined, if_neg read]

end

/-! ## The dealer takes a join -/

theorem dropPacket_eq (s : State) (i : Nat) : s.dropPacket i = { s with net := s.net.eraseIdx i } := by
  unfold State.dropPacket
  rw [List.eraseIdx_eq_take_drop_succ]

theorem ReadsAlike.entry (alike : ReadsAlike s t) (job : t.job = s.job) (tid : Nat) : t.entry tid = s.entry tid := by
  unfold State.entry State.entryVa
  rw [alike.vread, job]

theorem ReadsAlike.names (alike : ReadsAlike s t) (job : t.job = s.job) (tid : Nat) : t.names tid = s.names tid := by
  unfold State.names
  rw [alike.entry job, job]

section
variable (s : State) (net : List Packet) (colls : List Coll)

theorem readsAlike_besides : ReadsAlike s { s with net := net, colls := colls } :=
  ⟨rfl, fun _ => rfl, fun _ _ => rfl, fun _ => rfl, fun _ => rfl⟩

theorem names_besides (tid : Nat) : State.names { s with net := net, colls := colls } tid = s.names tid :=
  (readsAlike_besides s net colls).names rfl tid

theorem joinOk_besides (ring : List Nat) (d : BitVec 2048) (h : Nat) (x : BitVec 512) :
    State.joinOk { s with net := net, colls := colls } ring d h x = s.joinOk ring d h x := by
  simp only [State.joinOk, State.collRefsOk, names_besides]

theorem collDoomed_besides (c : Coll) : State.collDoomed { s with net := net, colls := colls } c = s.collDoomed c := rfl

theorem fullyJoined_besides (c : Coll) : State.fullyJoined { s with net := net, colls := colls } c = s.fullyJoined c := rfl

theorem sizesAgree_besides (c : Coll) : State.sizesAgree { s with net := net, colls := colls } c = s.sizesAgree c := rfl
end

/-- The dealer's table with an entry for a collective, if it had none. -/
def Machine.State.tableWith (s : State) (g tag : Nat) (c : Coll) : List Coll := if (s.findColl g tag).isNone then s.colls ++ [c] else s.colls

section
variable {c0 : Coll} (names : c0.g = g ∧ c0.tag = tag)
include names

theorem find_tableWith (entry : ∀ d, s.findColl g tag = some d → c0 = d) : (s.tableWith g tag c0).find? (fun c => c.g == g && c.tag == tag) = some c0 := by
  unfold State.tableWith
  cases found : s.findColl g tag with
  | none =>
    rw [if_pos (by rfl), List.find?_append, show s.colls.find? _ = none from found]
    simp [names]
  | some d =>
    rw [if_neg (by simp), entry d found]
    exact found

theorem mem_tableWith {y : Coll} (mem : y ∈ s.tableWith g tag c0) : y ∈ s.colls ∨ (y.g = g ∧ y.tag = tag) := by
  unfold State.tableWith at mem
  split_ifs at mem
  · rcases List.mem_append.mp mem with old | new
    · exact .inl old
    · rw [List.mem_singleton.mp new]
      exact .inr names
  · exact .inl mem

end

/-! ## Malformed collectives -/

theorem flag_badRecord_other {k : Nat} (ne : k ≠ h) (s : State) (va : Nat) :
    (s.badRecord h va).flag (Reg.seqStat k) 28 = s.flag (Reg.seqStat k) 28 := by
  have apart : Reg.seqStat k ≠ Reg.seqStat h := by
    unfold Reg.seqStat handBase suitBase
    omega
  unfold State.badRecord
  rw [haltStation_seq]
  refine (flag_reeveStop _ (a := Reg.seqStat k) (h := k) (x := 4) rfl 28).trans (State.flag_congr ?_ 28)
  exact (State.reg_setReg ..).trans (if_neg apart)

theorem flag_badRecord_keeps {k : Nat} (set_ : s.flag (Reg.seqStat k) 28 = true) (h va : Nat) : (s.badRecord h va).flag (Reg.seqStat k) 28 = true := by
  by_cases same : k = h
  · rw [same]
    exact (badRecord_stops s h va).2.1
  · exact (flag_badRecord_other same s va).trans set_

theorem flags_badRecords {j : Join} (f : State → Join → Nat) (l : List Join) (mem : j ∈ l ∨ s.flag (Reg.seqStat j.hand) 28 = true) :
    (l.foldl (fun (s : State) j => s.badRecord j.hand (f s j)) s).flag (Reg.seqStat j.hand) 28 = true := by
  induction l generalizing s with
  | nil => exact mem.resolve_left (by simp)
  | cons x l ih =>
    refine ih ?_
    rcases mem with mem | set_
    · rcases List.mem_cons.mp mem with rfl | later
      · exact .inr (badRecord_stops s j.hand _).2.1
      · exact .inl later
    · exact .inr (flag_badRecord_keeps set_ _ _)

theorem collMalformed_stops {d : Coll} (found : s.findColl g tag = some c) (eg : d.g = c.g) (et : d.tag = c.tag) :
    (s.collMalformed d).findColl g tag = some { d with malformed := true } ∧
    ∀ j ∈ d.joins, (s.collMalformed d).flag (Reg.seqStat j.hand) 28 = true := by
  unfold State.collMalformed
  dsimp only
  refine ⟨?_, fun j m => flags_badRecords _ _ (.inl m)⟩
  rw [findColl_congr (stops_foldl _ (by intros; exact stops_badRecord _ _ _) _ _).colls]
  exact findColl_setColl found (by exact eg) (by exact et)

/-! ## The dealer takes a join -/

/-- The collective of a join: the dealer's entry, or a new one. -/
def Machine.State.joinEntry (s : State) (g tag : Nat) (x : Cmd) : Coll :=
  (s.findColl g tag).getD
    { g := g, tag := tag, desc := x.collDesc, flags := if s.recov.replayed.contains (g, tag) then 32 else 0
      ring := ring4.filter fun a => s.suitUp a && !s.folded a }

/-- The collective with a member's join, which takes the place of an earlier one. -/
def Machine.Coll.joinedBy (c : Coll) (h time crc : Nat) : Coll :=
  { c with joins := c.joins.filter (fun j => j.hand != h) ++ [{ hand := h, time := time, crc := crc }] }

theorem joinEntry_names (s : State) (g tag : Nat) (x : Cmd) : (s.joinEntry g tag x).g = g ∧ (s.joinEntry g tag x).tag = tag := by
  unfold State.joinEntry
  cases found : s.findColl g tag with
  | none => exact ⟨rfl, rfl⟩
  | some d => exact findColl_names found

theorem joinEntry_entry {d : Coll} (x : Cmd) (found : s.findColl g tag = some d) : s.joinEntry g tag x = d := by
  unfold State.joinEntry
  rw [found]
  rfl

/-- The dealer once it has taken a join's packet, with an entry for its collective. -/
def Machine.State.takesJoin (s : State) (i g tag : Nat) (x : Cmd) : State :=
  { s with net := s.net.eraseIdx i, colls := s.tableWith g tag (s.joinEntry g tag x) }

/-- What the dealer does with a join's collective once the join is in it. -/
def Machine.State.dealJoin (s : State) (c0 c1 : Coll) (crc h : Nat) (x : Cmd) : State :=
  if c1.malformed || !(c0.joins.all fun j => j.crc == crc) || !s.joinOk c1.ring x.collDesc h x.r then (s.setColl c1).collMalformed c1
  else if c1.aborted then s.setColl c1
  else if s.collDoomed c1 then s.collFail c1
  else
    match s.colls.find? fun y => !(y.g == c1.g && y.tag == c1.tag) && !y.admitted && !y.aborted && !y.malformed && orderFault c1 y with
    | some y => s.collOrder c1 y
    | none => s.collFilled c1

theorem find_takesJoin (s : State) (i g tag : Nat) (x : Cmd) : (s.takesJoin i g tag x).findColl g tag = some (s.joinEntry g tag x) :=
  find_tableWith (joinEntry_names s g tag x) fun _ found => joinEntry_entry x found

section
variable {i crc : Nat} {p : Packet} {x : Cmd} (at_ : s.net[i]? = some p) (msg : p.msg = .join g tag crc h) (there : p.arrived = true)
  (cmd : s.collCmd h = some x) (room : (s.findColl g tag).isSome = true ∨ s.colls.length < 256)
  (waits : (s.joinEntry g tag x).admitted = false)
include at_ msg there cmd room waits

theorem execCollJoin_eq : execCollJoin i s =
    .next ((s.takesJoin i g tag x).dealJoin (s.joinEntry g tag x) ((s.joinEntry g tag x).joinedBy h s.time crc) crc h x) := by
  have table : (if (s.findColl g tag).isNone then { s.dropPacket i with colls := (s.dropPacket i).colls ++ [s.joinEntry g tag x] }
      else s.dropPacket i) = s.takesJoin i g tag x := by
    unfold State.takesJoin State.tableWith
    rw [dropPacket_eq]
    split_ifs <;> rfl
  obtain ⟨hg, ht⟩ := joinEntry_names s g tag x
  rw [← table]
  unfold execCollJoin State.dealJoin
  rw [at_]
  dsimp only
  rw [msg]
  dsimp only
  rw [cmd]
  dsimp only
  rw [if_neg (by simp [there]), if_neg (by cases e : s.findColl g tag <;> simp_all)]
  have early : (((s.dropPacket i).findColl g tag).getD
    { g := g, tag := tag, desc := x.collDesc, flags := if s.recov.replayed.contains (g, tag) then 32 else 0
      ring := ring4.filter fun a => s.suitUp a && !s.folded a }) = s.joinEntry g tag x := rfl
  have old : (s.dropPacket i).findColl g tag = s.findColl g tag := rfl
  rw [early, old, if_neg (by simp [waits])]
  unfold Coll.joinedBy
  dsimp only
  rw [hg, ht] <;> rfl

end

theorem collFilled_fills {d : Coll} (found : s.findColl g tag = some c) (eg : d.g = c.g) (et : d.tag = c.tag)
    (sizes : s.fullyJoined d = true → s.sizesAgree d = true) :
    ∃ y, (s.collFilled d).findColl g tag = some y ∧ y.joins = d.joins ∧ y.desc = d.desc ∧ (s.fullyJoined d = true → y.tFull.isSome = true) ∧
      (s.fullyJoined d = false → y.tFull = d.tFull) ∧ (s.collFilled d).net = s.net ∧ (s.collFilled d).recov = s.recov ∧
      ∀ a, (s.collFilled d).reg a = s.reg a := by
  unfold State.collFilled
  by_cases full : d.tFull.isSome = true ∨ s.fullyJoined d = false
  · rw [if_pos (by simpa using full)]
    refine ⟨d, findColl_setColl found eg et, rfl, rfl, fun joined => ?_, fun _ => rfl, rfl, rfl, fun _ => rfl⟩
    exact full.resolve_right (by simp [joined])
  · obtain ⟨unfilled, joined⟩ := not_or.mp full
    rw [Bool.not_eq_false] at joined
    rw [if_neg (by simpa using full), if_pos (sizes joined)]
    exact ⟨{ d with tFull := some s.time, pausedFull := d.paused }, findColl_setColl found (by exact eg) (by exact et), rfl, rfl, fun _ => rfl,
      fun no => absurd joined (by simp [no]), rfl, rfl, fun _ => rfl⟩

section
variable {c0 c1 : Coll} {crc : Nat} {x : Cmd}

theorem dealJoin_fills (good : c1.malformed = false) (live : c1.aborted = false) (same : ∀ j ∈ c0.joins, j.crc = crc)
    (ok : s.joinOk c1.ring x.collDesc h x.r = true) (able : s.collDoomed c1 = false)
    (order : ∀ y ∈ s.colls, (y.g = c1.g ∧ y.tag = c1.tag) ∨ y.admitted = true ∨ y.aborted = true ∨ y.malformed = true ∨ orderFault c1 y = false) :
    s.dealJoin c0 c1 crc h x = s.collFilled c1 := by
  have all : (c0.joins.all fun j => j.crc == crc) = true := List.all_eq_true.mpr fun j m => by simpa using same j m
  have none_ : (s.colls.find? fun y => !(y.g == c1.g && y.tag == c1.tag) && !y.admitted && !y.aborted && !y.malformed && orderFault c1 y) = none := by
    rw [List.find?_eq_none]
    intro y mem
    rcases order y mem with ⟨eg, et⟩ | e | e | e | e
    · simp [eg, et]
    all_goals simp [e]
  unfold State.dealJoin
  rw [good, all, ok, live, able, none_]
  rfl

theorem dealJoin_malformed (differ : ∃ j ∈ c0.joins, j.crc ≠ crc) : s.dealJoin c0 c1 crc h x = (s.setColl c1).collMalformed c1 := by
  obtain ⟨j, m, ne⟩ := differ
  have some_ : (c0.joins.all fun j => j.crc == crc) = false :=
    List.all_eq_false.mpr ⟨j, m, by simpa using ne⟩
  unfold State.dealJoin
  rw [some_, if_pos (by simp)]

end

/-- Settles O25. -/
theorem collectiveJoins : Obligations.CollectiveJoins := by
  unfold Obligations.CollectiveJoins
  refine ⟨fun h s s1 c x works runs unjoined unread comes => ?_, fun h s c works runs unjoined read => ?_,
    fun i s p g tag crc h cmd at_ msg there joined room => ?_⟩
  · refine ⟨_, execColl_reads works runs unjoined unread comes, ?_⟩
    have arrived := arrived_arrive (by decide) comes
    have head : ((s1.setCmd 7 h.val 0 (c.setFlow 1 (c.b.take (Record.desc c.r 1) x 0 0))).hand h.val).xq[0]? = _ :=
      getElem_setCmd (st := 7) (u := h.val) (d := c) (by decide) (by decide) (by rw [arrived.queue]; exact works.1.head.1) _
    have set_ : Frame Nothing (· = h.val) Nothing Nothing s1 (s1.setCmd 7 h.val 0 (c.setFlow 1 (c.b.take (Record.desc c.r 1) x 0 0))) :=
      frame_setCmd _ _ _ _ _ (fun _ => rfl) (fun _ e => absurd e (by decide)) (fun e => absurd e (by decide))
    refine ⟨⟨_, (List.head?_eq_getElem? ..).trans head, rfl, unjoined, ?_, fun kind empty => ?_⟩, set_.mem.trans arrived.mem,
      arrived.calm.trans (quiet_setCmd ..).calm, ?_⟩
    · show c.b.got + 1 = 1
      rw [unread]
    · show (if (Record.desc c.r 1).kind = 1 then c.b.buf ++ [x] else c.b.buf) = [x]
      rw [if_pos kind, empty]
      rfl
    · exact (arrived.frame.mono (fun _ => id) (fun _ => id) (fun _ e => absurd e.1 (by decide)) (fun _ => id)).trans
        (set_.mem_frame.mono (fun _ => False.elim) (fun _ => id) (fun _ => id) (fun _ => id))
  · refine ⟨_, execColl_joins works runs unjoined read, rfl, rfl, rfl, ?_, ?_⟩
    · have head : ((s.setCmd 7 h.val 0 { c with out := 1 }).hand h.val).xq[0]? = _ :=
        getElem_setCmd (st := 7) (u := h.val) (d := c) (by decide) (by decide) works.1.head.1 _
      exact ⟨_, (List.head?_eq_getElem? ..).trans head, rfl, rfl⟩
    · have set_ : Frame Nothing (· = h.val) Nothing Nothing s (s.setCmd 7 h.val 0 { c with out := 1 }) :=
        frame_setCmd _ _ _ _ _ (fun _ => rfl) (fun _ e => absurd e (by decide)) (fun e => absurd e (by decide))
      exact set_.trans (frame_send ..)
  · intro c0 joins waits live good
    have c0_eq : c0 = s.joinEntry g tag cmd := rfl
    obtain ⟨hg, ht⟩ := joinEntry_names s g tag cmd
    have found : (s.takesJoin i g tag cmd).findColl g tag = some c0 := find_takesJoin s i g tag cmd
    have executed := execCollJoin_eq at_ msg there joined room waits
    rw [← c0_eq] at hg ht executed
    refine ⟨fun same ok able order sizes => ⟨_, executed, ?_⟩, fun differ => ⟨_, executed, ?_⟩⟩
    · have fills := dealJoin_fills (s := s.takesJoin i g tag cmd) (c0 := c0) (c1 := c0.joinedBy h s.time crc) (crc := crc) (h := h) (x := cmd)
        good live same ((joinOk_besides ..).trans ok) ((collDoomed_besides ..).trans able) fun y mem => ?_
      · rw [fills]
        obtain ⟨y, hy, hj, hd, full, unfull, net, recov, reg⟩ := collFilled_fills (d := c0.joinedBy h s.time crc) found rfl rfl
          (by
            intro all
            rw [show (s.takesJoin i g tag cmd).sizesAgree _ = s.sizesAgree _ from sizesAgree_besides ..]
            exact sizes ((fullyJoined_besides ..).symm.trans all))
        exact ⟨net, y, hy, hj, hd, fun e => full ((fullyJoined_besides ..).trans e), fun e => unfull ((fullyJoined_besides ..).trans e),
          recov, fun a => reg a⟩
      · rcases mem_tableWith (c0 := c0) ⟨hg, ht⟩ mem with old | ⟨eg, et⟩
        · rcases order y old with ⟨eg, et⟩ | rest
          · exact .inl ⟨eg.trans hg.symm, et.trans ht.symm⟩
          · exact .inr rest
        · exact .inl ⟨eg.trans hg.symm, et.trans ht.symm⟩
    · rw [dealJoin_malformed differ]
      have again : ((s.takesJoin i g tag cmd).setColl (c0.joinedBy h s.time crc)).findColl g tag = some (c0.joinedBy h s.time crc) :=
        findColl_setColl found rfl rfl
      obtain ⟨bad, flags⟩ := collMalformed_stops again rfl rfl
      exact ⟨⟨_, bad, rfl⟩, flags⟩

end Sys2Proof
end

section
/-! PROOFS. Collectives admitted, downgraded and reported (R363, R373 to R377, R388, R391). -/

namespace Sys2Proof

open Machine

variable {r s t : State} {c d : Coll} {h n g tag : Nat}

/-! ## What the dealer's own parts stay through -/

/-- The dealer's table and registers stay, and memory; no fault record is lost. -/
structure Spares (s t : State) : Prop where
  colls : t.colls = s.colls
  reg : ∀ a, DealerReg a → t.reg a = s.reg a
  mem : t.mem = s.mem
  flight : s.recov.flight ⊆ t.recov.flight

theorem Spares.refl (s : State) : Spares s s := ⟨rfl, fun _ _ => rfl, rfl, fun _ => id⟩

theorem Spares.trans (a : Spares r s) (b : Spares s t) : Spares r t :=
  ⟨b.colls.trans a.colls, fun x p => (b.reg x p).trans (a.reg x p), b.mem.trans a.mem, fun _ m => b.flight (a.flight m)⟩

theorem spares_foldl {α : Type} (f : State → α → State) (each : ∀ s x, Spares s (f s x)) (l : List α) (s : State) : Spares s (l.foldl f s) := by
  induction l generalizing s with
  | nil => exact .refl s
  | cons x l ih => exact (each s x).trans (ih _)

theorem Stops.spares (a : Stops s t) (mem : t.mem = s.mem) : Spares s t := ⟨a.colls, a.reg, mem, a.flight⟩

theorem spares_send (s : State) (a b p q : Nat) (m : Msg) : Spares s (s.send a b p q m) := ⟨rfl, fun _ _ => rfl, rfl, fun _ => id⟩

theorem spares_spend (s : State) : Spares s s.spend := ⟨rfl, fun _ _ => rfl, rfl, fun _ => id⟩

theorem mem_traceHand (s : State) (h : Nat) (x : Trace) : (s.traceHand h x).mem = s.mem := by
  unfold State.traceHand
  dsimp only
  split_ifs <;> rfl

theorem spares_escalate (s : State) (h tid kind : Nat) (refetched : Bool) (serial : Nat) : Spares s (s.escalate 7 h tid kind refetched serial) :=
  (stops_escalate s h tid kind refetched serial).spares (mem_traceHand _ _ _)

theorem spares_pageFault (s : State) (h va kind : Nat) (pcopy : Bool) (serial : Nat) : Spares s (s.pageFault 7 h va kind pcopy serial) := by
  refine (stops_pageFault s h va kind pcopy serial).spares ?_
  unfold State.pageFault
  dsimp only
  rw [State.mem_reeveStop, State.note_mem]
  split_ifs <;> rfl

theorem spares_demand (a : Demand s t) : Spares s t := by
  have arrived : Arrived 7 0 s t := arrived_of_demand a
  obtain ⟨_, _, l, recov⟩ := arrived.calm
  refine ⟨arrived.frame.colls, fun x p => a.1 x (dealerReg_not_gran p), arrived.mem, by rw [recov]; exact fun _ m => List.mem_append_left _ m⟩

theorem Arrived.spares (a : Arrived 7 h s t) : Spares s t := by
  obtain ⟨_, _, l, recov⟩ := a.calm
  refine ⟨a.frame.colls, fun x p => a.frame.reg x ?_ (dealerReg_not_gran p), a.mem, by rw [recov]; exact fun _ m => List.mem_append_left _ m⟩
  rintro (e | e)
  · rw [e] at p
    exact handBase_not_dealer (by decide) p
  · rw [e] at p
    exact handBase_not_dealer (by decide) p

theorem spares_arriveMem_stop {x : Expect} {ver hva pva : Nat} {more : Head → Option Bool} {corrupt : Bool} {k : Cmd}
    (stops : s.arriveMem 7 h k x ver hva pva more corrupt = .stop t) : Spares s t := by
  unfold State.arriveMem at stops
  dsimp only at stops
  split_ifs at stops
  · obtain rfl := Arr.stop.inj stops
    exact (spares_escalate ..).trans (spares_spend _)
  have seen : ∀ r : State, Spares r (r.seenTile (cacheOf 7 h) x.tid hva pva) := fun r => spares_demand (demand_seenTile r _ _ _ _)
  have dropped : ∀ r : State, Spares r (r.dropLines hva pva) := fun r => spares_demand (demand_dropLines r _ _)
  split at stops
  · cases stops
  · obtain rfl := Arr.stop.inj stops
    exact (seen s).trans (spares_pageFault ..)
  · obtain rfl := Arr.stop.inj stops
    exact (seen s).trans (spares_escalate ..)
  · split at stops
    · cases stops
    · obtain rfl := Arr.stop.inj stops
      exact (seen s).trans ((dropped _).trans ((seen _).trans (spares_pageFault ..)))
    · obtain rfl := Arr.stop.inj stops
      exact (seen s).trans ((dropped _).trans ((seen _).trans (spares_escalate ..)))

theorem spares_tableEntry {k : Cmd} {ref m e : Nat} (read : s.tableEntry h k ref n m = .ok (t, e)) : Spares s t :=
  (arrived_tableEntry read).spares

theorem spares_tableEntry_stop {k : Cmd} {ref m : Nat} (read : s.tableEntry h k ref n m = .error t) : Spares s t := by
  unfold State.tableEntry at read
  dsimp only at read
  split at read
  · cases read
    exact .refl s
  · cases read
    exact .refl s
  · next stops =>
    cases read
    exact spares_arriveMem_stop stops
  · cases read

theorem spares_sendDetours (s : State) (c : Coll) : Spares s (s.sendDetours c) := by
  unfold State.sendDetours
  refine spares_foldl _ (fun s x => ?_) _ s
  split
  · exact .refl s
  · split
    · next stops => exact spares_tableEntry_stop stops
    · next read => exact (spares_tableEntry read).trans (spares_send ..)

/-! ## The bridge ends' fields -/

/-- Every field of a bridge end's register but its count of free slots. -/
def EndsStay (s t : State) : Prop :=
  ∀ b lo w, lo + w ≤ 16 ∨ 27 ≤ lo → t.field (Reg.bridgeEnd b) lo w = s.field (Reg.bridgeEnd b) lo w

theorem EndsStay.trans (x : EndsStay r s) (y : EndsStay s t) : EndsStay r t := fun b lo w p => (y b lo w p).trans (x b lo w p)

theorem Spares.ends (a : Spares s t) : EndsStay s t := fun b _ _ _ => State.field_congr (a.reg _ (.inr ⟨b, rfl⟩)) _ _

theorem endsStay_slots (s : State) (b v : Nat) : EndsStay s (s.setField (Reg.bridgeEnd b) 16 11 v) := by
  intro k lo w p
  by_cases same : Reg.bridgeEnd k = Reg.bridgeEnd b
  · rw [same]
    exact State.field_setField_other _ _ _ _ _ _ _ (by decide) (by omega)
  · exact State.field_congr (State.reg_setField_other _ _ _ _ _ _ same) _ _

theorem endsStay_giveSlots (s : State) (x : BitVec 2048) (n : Nat) : EndsStay s (s.giveSlots x n) := by
  unfold State.giveSlots
  generalize slotEnds x = l
  induction l generalizing s with
  | nil => exact fun _ _ _ _ => rfl
  | cons b l ih => exact (endsStay_slots s b _).trans (ih _)

/-! ## The vector-engine path (R376, R377) -/

/-- A collective that runs on the vector-engine path from now on. -/
def Machine.Coll.vectored (c : Coll) (why time : Nat) : Coll :=
  { c with vector := true, admitted := true, slots := 0, places := [], doneWork := [], flags := c.flags ||| 4 ||| why
           tAdmit := if c.admitted then c.tAdmit else time }

/-- The slots of a collective given back, and its downgrade counted. -/
def Machine.State.freedFor (s : State) (c : Coll) (why : Nat) : State :=
  let s1 := if c.slots = 0 then s else s.giveSlots c.desc c.slots
  if why &&& 2 ≠ 0 ∧ c.flags &&& 2 = 0 then s1.add32 Reg.downgraded 1 else s1

theorem toVector_eq (s : State) (c : Coll) (why : Nat) :
    s.toVector c why = ((s.freedFor c why).setColl (c.vectored why s.time)).sendDetours (c.vectored why s.time) := rfl

/-- What a collective's move to the vector-engine path leaves as it is. -/
structure Diverts (s t : State) : Prop where
  mem : t.mem = s.mem
  ends : EndsStay s t
  flight : s.recov.flight ⊆ t.recov.flight

theorem Diverts.trans (x : Diverts r s) (y : Diverts s t) : Diverts r t :=
  ⟨y.mem.trans x.mem, x.ends.trans y.ends, fun _ m => y.flight (x.flight m)⟩

theorem bridgeEnd_ne_downgraded (b : Nat) : Reg.bridgeEnd b ≠ Reg.downgraded := by
  have := bridgeEnd_high b
  unfold Reg.downgraded
  omega

theorem freedFor_spec (s : State) (c : Coll) (why : Nat) : Diverts s (s.freedFor c why) ∧ (s.freedFor c why).colls = s.colls ∧
    (why &&& 2 ≠ 0 → c.flags &&& 2 = 0 → (s.freedFor c why).reg Reg.downgraded = s.reg Reg.downgraded + 1) := by
  obtain ⟨b, hb⟩ : ∃ b, b = if c.slots = 0 then s else s.giveSlots c.desc c.slots := ⟨_, rfl⟩
  have given : Frame BridgeEndReg Nothing Nothing Nothing s b ∧ EndsStay s b ∧ b.recov = s.recov := by
    rw [hb]
    split_ifs
    · exact ⟨.refl s, fun _ _ _ _ => rfl, rfl⟩
    · exact ⟨frame_giveSlots s _ _, endsStay_giveSlots s _ _, foldl_keeps _ State.recov (by intro s x; rfl) _ _⟩
  obtain ⟨frame, ends, recov⟩ := given
  have kept : b.reg Reg.downgraded = s.reg Reg.downgraded := frame.reg _ fun ⟨k, e⟩ => bridgeEnd_ne_downgraded k e.symm
  have flight : s.recov.flight ⊆ b.recov.flight := by rw [recov]; exact fun _ => id
  unfold State.freedFor
  dsimp only
  rw [← hb]
  split_ifs with counted
  · refine ⟨⟨frame.mem, fun k lo w p => ?_, flight⟩, frame.mem_frame.colls, fun _ _ => ?_⟩
    · exact (State.field_congr ((State.reg_setReg ..).trans (if_neg (bridgeEnd_ne_downgraded k))) _ _).trans (ends k lo w p)
    · rw [← kept]
      exact (State.reg_setReg ..).trans (if_pos rfl)
  · exact ⟨⟨frame.mem, ends, flight⟩, frame.mem_frame.colls, fun why new => absurd ⟨why, new⟩ counted⟩

theorem diverts_toVector (s : State) (c : Coll) (why : Nat) : Diverts s (s.toVector c why) := by
  rw [toVector_eq]
  have spares := spares_sendDetours ((s.freedFor c why).setColl (c.vectored why s.time)) (c.vectored why s.time)
  exact (freedFor_spec s c why).1.trans ⟨spares.mem, spares.ends, spares.flight⟩

theorem downgraded_toVector (why : Nat) (down : why &&& 2 ≠ 0) (new : c.flags &&& 2 = 0) :
    (s.toVector c why).reg Reg.downgraded = s.reg Reg.downgraded + 1 := by
  rw [toVector_eq]
  exact ((spares_sendDetours _ _).reg _ (.inl (by decide))).trans ((freedFor_spec s c why).2.2 down new)

theorem findColl_setColl_other (s : State) (ne : ¬ (d.g = g ∧ d.tag = tag)) : (s.setColl d).findColl g tag = s.findColl g tag := by
  unfold State.findColl State.setColl
  dsimp only
  induction s.colls with
  | nil => rfl
  | cons x l ih =>
    rw [List.map_cons, List.find?_cons, List.find?_cons, ih]
    split_ifs with same
    · have off : (d.g == g && d.tag == tag) = false := Bool.eq_false_iff.mpr (by simpa using ne)
      rw [same.1, same.2, off]
    · rfl

theorem find_toVector (found : s.findColl g tag = some c) (eg : d.g = c.g) (et : d.tag = c.tag) (why : Nat) :
    (s.toVector d why).findColl g tag = some (d.vectored why s.time) := by
  rw [toVector_eq, findColl_congr (spares_sendDetours _ _).colls]
  exact findColl_setColl (s := s.freedFor d why) ((findColl_congr (freedFor_spec s d why).2.1 _ _).trans found) (by exact eg) (by exact et)

theorem find_toVector_other (s : State) (ne : ¬ (d.g = g ∧ d.tag = tag)) (why : Nat) : (s.toVector d why).findColl g tag = s.findColl g tag := by
  rw [toVector_eq, findColl_congr (spares_sendDetours _ _).colls, findColl_setColl_other _ (by exact ne)]
  exact findColl_congr (freedFor_spec s d why).2.1 _ _

/-! ## Admission (R373 to R376) -/

theorem spares_setReg (s : State) {a : Nat} (v : W32) (off : ¬ DealerReg a) : Spares s (s.setReg a v) := (stops_setReg s v off).spares rfl

theorem spares_addCycles (s : State) (h : Nat) : Spares s (s.addCycles (Reg.xwait h)) :=
  (spares_setReg s _ (handBase_not_dealer (by decide))).trans (spares_spend _)

theorem spares_countWait (s : State) (c : Coll) : Spares s (s.countWait c) :=
  spares_foldl (fun (s : State) (j : Join) => s.addCycles (Reg.xwait j.hand)) (fun s j => spares_addCycles s j.hand) c.joins s

theorem time_countWait (s : State) (c : Coll) : (s.countWait c).time = s.time := foldl_keeps _ State.time (by intro s x; rfl) _ _

theorem quiet_countWait (s : State) (c : Coll) : Quiet s (s.countWait c) :=
  ⟨foldl_keeps _ State.net (by intro s x; rfl) _ _, foldl_keeps _ State.recov (by intro s x; rfl) _ _,
    foldl_keeps _ State.rsp (by intro s x; rfl) _ _⟩

theorem bridgeEnd_inj {a b : Nat} (e : Reg.bridgeEnd a = Reg.bridgeEnd b) : a = b := by
  unfold Reg.bridgeEnd suitBase at e
  omega

theorem nodup_slotEnds (x : BitVec 2048) : (slotEnds x).Nodup := by
  have ring : (Machine.ringOf x).Nodup := List.Nodup.filter _ (by decide)
  have low : ∀ a ∈ Machine.ringOf x, a ∈ [0, 1, 3, 2] := fun a m => (List.mem_filter.mp m).1
  unfold slotEnds
  split_ifs
  · refine ring.map_on fun a ha b hb e => ?_
    have all : ∀ a ∈ [0, 1, 3, 2], ∀ b ∈ [0, 1, 3, 2], reduceEnd a = reduceEnd b → a = b := by decide
    exact all a (low a ha) b (low b hb) e
  · refine List.nodup_flatMap.mpr ⟨fun a _ => by simp, ring.imp fun {a b} ne => ?_⟩
    intro k ha hb
    simp only [List.mem_cons, List.not_mem_nil, or_false] at ha hb
    omega
  · exact List.nodup_nil

theorem slotsFreeAt_setField_other (s : State) {a b : Nat} (ne : a ≠ b) (v : Nat) :
    (s.setField (Reg.bridgeEnd b) 16 11 v).slotsFreeAt a = s.slotsFreeAt a :=
  State.field_congr (State.reg_setField_other _ _ _ _ _ _ (fun e => ne (bridgeEnd_inj e))) _ _

theorem slotsFreeAt_takes {l : List Nat} (nodup : l.Nodup) {b : Nat} (n : Nat) (s : State) :
    (l.foldl (fun (s : State) b => s.setField (Reg.bridgeEnd b) 16 11 (s.slotsFreeAt b - n)) s).slotsFreeAt b =
      if b ∈ l then s.slotsFreeAt b - n else s.slotsFreeAt b := by
  induction l generalizing s with
  | nil => rfl
  | cons a l ih =>
    obtain ⟨out, rest⟩ := List.nodup_cons.mp nodup
    rw [List.foldl_cons, ih rest]
    by_cases same : b = a
    · have fits : s.slotsFreeAt a - n < 2 ^ 11 := lt_of_le_of_lt (Nat.sub_le _ _) (Nat.mod_lt _ (by decide))
      rw [same, if_neg out, if_pos List.mem_cons_self]
      exact (State.field_setField _ _ _ _ _ (by decide)).trans (Nat.mod_eq_of_lt fits)
    · rw [slotsFreeAt_setField_other s same]
      simp [same]

/-- A collective admitted to the bridge path. -/
def Machine.Coll.admittedAt (c : Coll) (time : Nat) : Coll := { c with admitted := true, tAdmit := time }

theorem execCollAdmit_cut {g : BitVec 8} {tag : BitVec 28} (found : s.findColl g.toNat tag.toNat = some c) (cut : s.marked 656 = true) :
    execCollAdmit g tag s = .next s := by
  unfold execCollAdmit
  rw [found]
  dsimp only
  rw [if_pos (by simp [cut])]

section
variable {g : BitVec 8} {tag : BitVec 28} (found : s.findColl g.toNat tag.toNat = some c) (full : c.tFull.isSome = true) (waits : c.admitted = false)
  (live : c.aborted = false) (good : c.malformed = false)
include found full waits live good

theorem execCollAdmit_free (free : s.marked 656 = false) (runs : s.bell.stopped.contains 656 = false) (able : s.collDoomed c = false) :
    execCollAdmit g tag s = .next (if s.vectorFromStart c then
        if !s.fallbackWay c then s else
        (s.countWait c).toVector c (if CDesc.slots c.desc != 0 && !s.flag Reg.dealerCtl 0 && (slotEnds c.desc).any (fun b => s.flag (Reg.bridgeEnd b) 29) then 2 else 0)
      else if (slotEnds c.desc).isEmpty then (s.countWait c).setColl (c.admittedAt s.time)
      else if s.canReserve c then ((s.countWait c).takeSlots c.desc (CDesc.slots c.desc)).setColl
        { c.admittedAt s.time with slots := CDesc.slots c.desc, places := s.slotPlaces c.desc (CDesc.slots c.desc) }
      else s) := by
  unfold execCollAdmit
  rw [found]
  dsimp only
  have filled : c.tFull.isNone = false := by rw [← Option.not_isSome, full]; rfl
  rw [if_neg (by rw [filled, waits, live, good, free, runs]; decide), if_neg (by rw [able]; decide)]
  rfl

end

theorem and_or_self (a b m : Nat) (e : b &&& m = m) : (a ||| b) &&& m = m := by
  rw [Nat.and_or_distrib_right, e]
  exact Nat.eq_of_testBit_eq fun i => by
    simp only [Nat.testBit_or, Nat.testBit_and]
    cases m.testBit i <;> simp

theorem vectored_flags (c : Coll) (why time : Nat) : (c.vectored why time).flags &&& 4 = 4 := by
  show (c.flags ||| 4 ||| why) &&& 4 = 4
  rw [Nat.or_right_comm]
  exact and_or_self _ 4 4 rfl

theorem vectored_downgraded (c : Coll) (time : Nat) : (c.vectored 2 time).flags &&& 6 = 6 := by
  show (c.flags ||| 4 ||| 2) &&& 6 = 6
  rw [Nat.or_assoc]
  exact and_or_self _ 6 6 rfl

theorem collsAdmitted {g : BitVec 8} {tag : BitVec 28} (found : s.findColl g.toNat tag.toNat = some c) (full : c.tFull.isSome = true)
    (waits : c.admitted = false) (live : c.aborted = false) (good : c.malformed = false) :
    (s.marked 656 = true → Does (.collAdmit g tag) s fun t => t = s) ∧
    (s.marked 656 = false → s.bell.stopped.contains 656 = false → s.collDoomed c = false → s.vectorFromStart c = true →
      s.fallbackWay c = true → Does (.collAdmit g tag) s fun t =>
        (∃ c', t.findColl g.toNat tag.toNat = some c' ∧ c'.admitted = true ∧ c'.vector = true ∧ c'.flags &&& 4 = 4) ∧ t.mem = s.mem) ∧
    (s.marked 656 = false → s.bell.stopped.contains 656 = false → s.collDoomed c = false → s.vectorFromStart c = false →
      (∀ j ∈ c.joins, j.hand < 640) → (slotEnds c.desc = [] ∨ s.canReserve c = true) → Does (.collAdmit g tag) s fun t =>
        (∃ c', t.findColl g.toNat tag.toNat = some c' ∧ c'.admitted = true ∧ c'.vector = c.vector ∧ c'.tAdmit = s.time ∧
          (slotEnds c.desc ≠ [] → c'.slots = CDesc.slots c.desc)) ∧
        (∀ b ∈ slotEnds c.desc, t.slotsFreeAt b = s.slotsFreeAt b - CDesc.slots c.desc) ∧ t.mem = s.mem ∧ Quiet s t) := by
  have counted := spares_countWait s c
  have quiet := quiet_countWait s c
  have now : (s.countWait c).findColl g.toNat tag.toNat = some c := (findColl_congr counted.colls _ _).trans found
  refine ⟨fun cut => ⟨s, execCollAdmit_cut found cut, rfl⟩, fun free runs able vector way => ?_, fun free runs able bridge hands room => ?_⟩
  · refine ⟨_, execCollAdmit_free found full waits live good free runs able, ?_⟩
    rw [if_pos vector, if_neg (by simp [way])]
    exact ⟨⟨_, find_toVector now rfl rfl _, rfl, rfl, vectored_flags ..⟩, (diverts_toVector _ _ _).mem.trans counted.mem⟩
  · refine ⟨_, execCollAdmit_free found full waits live good free runs able, ?_⟩
    rw [if_neg (by simp [bridge])]
    by_cases none_ : slotEnds c.desc = []
    · rw [if_pos (by simp [none_])]
      refine ⟨⟨_, findColl_setColl now rfl rfl, rfl, rfl, rfl, fun some_ => absurd none_ some_⟩, fun b m => ?_, counted.mem, quiet⟩
      rw [none_] at m
      cases m
    · rw [if_neg (by simpa using none_), if_pos (room.resolve_left none_)]
      have taken : ((s.countWait c).takeSlots c.desc (CDesc.slots c.desc)).findColl g.toNat tag.toNat = some c :=
        (findColl_congr (foldl_keeps _ State.colls (by intro s x; rfl) _ _) _ _).trans now
      refine ⟨⟨_, findColl_setColl taken rfl rfl, rfl, rfl, rfl, fun _ => rfl⟩, fun b m => ?_, ?_, ?_⟩
      · refine ((slotsFreeAt_takes (nodup_slotEnds _) _ _).trans (if_pos m)).trans ?_
        rw [show (s.countWait c).slotsFreeAt b = s.slotsFreeAt b from State.field_congr (counted.reg _ (.inr ⟨b, rfl⟩)) _ _]
      · exact (foldl_keeps _ State.mem (by intro s x; rfl) (slotEnds c.desc) (s.countWait c)).trans counted.mem
      · obtain ⟨net, recov, rsp⟩ := quiet
        exact ⟨(foldl_keeps _ State.net (by intro s x; rfl) (slotEnds c.desc) (s.countWait c)).trans net,
          (foldl_keeps _ State.recov (by intro s x; rfl) (slotEnds c.desc) (s.countWait c)).trans recov,
          (foldl_keeps _ State.rsp (by intro s x; rfl) (slotEnds c.desc) (s.countWait c)).trans rsp⟩

/-! ## Waits that end (R375, R391) -/

section
variable {g : BitVec 8} {tag : BitVec 28} (found : s.findColl g.toNat tag.toNat = some c)
include found

theorem execAdmitTimeout_downgrades {t0 : Nat} (full : c.tFull = some t0) (waits : s.waiting c = true)
    (late : t0 + max 1 (s.field Reg.dealerCtl 4 12) * 1000 + (c.paused - c.pausedFull) < s.time)
    (named : s.names (refTid (CDesc.fallback c.desc)) = true) (way : s.fallbackWay c = true) (free : s.marked 656 = false)
    (runs : s.bell.stopped.contains 656 = false) : execAdmitTimeout g tag s = .next ((s.countWait c).toVector c 2) := by
  unfold execAdmitTimeout
  rw [found]
  dsimp only
  rw [full]
  dsimp only
  rw [if_pos (by rw [waits, free, runs, decide_eq_true late]; decide), if_neg (by rw [named]; decide), if_neg (by rw [way]; decide)]

theorem execCollTimeout_reports {h : HandIx} (live : c.aborted = false) (good : c.malformed = false) (member : h.val ∈ s.wanted c)
    (absent : ∀ j ∈ c.joins, j.hand ≠ h.val) (new : h.val ∉ c.timedOut)
    (late : c.tFirst + max 1 (s.field Reg.dealerCtl 16 16) * 1000000 + c.paused ≤ s.time) (runs : s.bell.stopped.contains 656 = false) :
    execCollTimeout g tag h s = .next (((s.setColl { c with timedOut := c.timedOut ++ [h.val] }).add32 Reg.timeouts 1).postDealer [h.val / 160] 0x0B
      (epHand h.val 26) (collDetail c.g c.tag 0)) := by
  unfold execCollTimeout
  rw [found]
  dsimp only
  have joined : (c.joins.any fun j => j.hand == h.val) = false := by
    rw [List.any_eq_false]
    intro j m
    simpa using absent j m
  have told : c.timedOut.contains h.val = false := by simpa using new
  rw [if_pos]
  rw [List.contains_iff_mem.mpr member, joined, live, good, told, decide_eq_true late, runs]
  decide

end

theorem collTimeout_flight (s : State) (d c : Coll) (h : Nat) : ((((s.setColl d).add32 Reg.timeouts 1).postDealer [h / 160] 0x0B (epHand h 26)
    (collDetail c.g c.tag 0))).recov.flight =
      s.recov.flight ++ [(s.dutyReeve (h / 160 * 4), faultWord s.time 0 0x0B (epHand h 26) (c.g <<< 40 + c.tag <<< 12))] := by
  have detail : collDetail c.g c.tag 0 = c.g <<< 40 + c.tag <<< 12 := by
    unfold collDetail
    rw [Nat.zero_shiftLeft, Nat.add_zero]
  rw [detail]
  generalize c.g <<< 40 + c.tag <<< 12 = x
  rfl

/-! ## The adders' residue check (R363, R379) -/

/-- A collective that runs on the vector-engine path from its start on. -/
def Restarted (s : State) (g tag : Nat) : Prop := ∃ d, s.findColl g tag = some d ∧ d.vector = true ∧ d.doneWork = [] ∧ d.slots = 0

theorem restarted_toVectors {l : List Coll} (why : Nat) {d : Coll} (found : s.findColl g tag = some d)
    (some_ : (∃ y ∈ l, y.g = g ∧ y.tag = tag) ∨ Restarted s g tag) :
    Restarted (l.foldl (fun (s : State) y => s.toVector y why) s) g tag := by
  induction l generalizing s d with
  | nil => exact some_.resolve_left (by simp)
  | cons y l ih =>
    obtain ⟨hg, ht⟩ := findColl_names found
    by_cases same : y.g = g ∧ y.tag = tag
    · have next := find_toVector found (same.1.trans hg.symm) (same.2.trans ht.symm) why
      exact ih next (.inr ⟨_, next, rfl, rfl, rfl⟩)
    · have next := find_toVector_other s same why
      refine ih (next.trans found) ?_
      rcases some_ with ⟨z, m, ez⟩ | ⟨e, he, rest⟩
      · refine .inl ⟨z, (List.mem_cons.mp m).resolve_left ?_, ez⟩
        rintro rfl
        exact same ez
      · exact .inr ⟨e, next.trans he, rest⟩

theorem diverts_toVectors (l : List Coll) (why : Nat) (s : State) : Diverts s (l.foldl (fun (s : State) y => s.toVector y why) s) := by
  induction l generalizing s with
  | nil => exact ⟨rfl, fun _ _ _ _ => rfl, fun _ => id⟩
  | cons y l ih => exact (diverts_toVector s y why).trans (ih _)

/-- The detail of a record of the residue check. -/
def residueDetail (lane slot g twice : Nat) : Nat := (lane % 256) <<< 40 + (slot % 256) <<< 32 + g <<< 24 + twice <<< 23

/-- The adder fenced: a mismatch counted, posted, and the fence set. -/
def Machine.State.fenceAdder (s : State) (b lane slot g : Nat) : State :=
  ((s.countSat (Reg.bridgeEnd b) 8 8 1).post (linkReeve b false) 2 0x02 (epBridge b) (residueDetail lane slot g 1)).setBit (Reg.bridgeEnd b) 29

/-- A reduction that runs on the bridge path over an end. -/
def Machine.Coll.runsOver (y : Coll) (b : Nat) : Bool :=
  y.admitted && !y.vector && !y.aborted && !y.malformed && CDesc.reduces y.desc && (slotEnds y.desc).contains b

section
variable {g : BitVec 8} {tag : BitVec 28} {b : BridgeIx} (found : s.findColl g.toNat tag.toNat = some c) (bridge : c.runsOver b.val = true)
include found bridge

theorem runsOver_of (lane slot : Nat) (ok : Bool) : execResidueMismatch b lane slot g tag ok s = .next (
    if ok then ((s.countSat (Reg.bridgeEnd b.val) 8 8 1).setColl { c with flags := c.flags ||| 8 }).post (linkReeve b.val false) 1 0x02
      (epBridge b.val) (residueDetail lane slot c.g 0)
    else ((s.fenceAdder b.val lane slot c.g).colls.filter fun y => y.runsOver b.val).foldl (fun (s : State) y => s.toVector y 10)
      (s.fenceAdder b.val lane slot c.g)) := by
  unfold Coll.runsOver at bridge
  simp only [Bool.and_eq_true, Bool.not_eq_true'] at bridge
  obtain ⟨⟨⟨⟨⟨admitted, path⟩, live⟩, good⟩, reduces⟩, over_⟩ := bridge
  unfold execResidueMismatch
  rw [found]
  dsimp only
  rw [if_neg (by rw [admitted, path, live, reduces, over_]; decide)]
  rfl

end

theorem pruned_notice {i : Nat} {p : Packet} {hs : List Nat} (at_ : s.net[i]? = some p) (msg : p.msg = .prune g tag hs)
    (there : p.arrived = true) (found : s.findColl g tag = some c) : execPruneNotice i s = .next ((s.dropPacket i).setColl
      { c with pruned := c.pruned ++ hs.filter fun h => (members c.desc).contains h && !c.pruned.contains h }) := by
  unfold execPruneNotice
  rw [at_]
  dsimp only
  rw [msg]
  dsimp only
  rw [if_neg (by rw [there]; decide), show (s.dropPacket i).findColl g tag = some c from found]

/-- Settles O26. -/
theorem collectivesAdmittedAndReported : Obligations.CollectivesAdmittedAndReported := by
  unfold Obligations.CollectivesAdmittedAndReported
  refine ⟨fun g tag s c found full waits live good => ?_, fun g tag h s c found live good member absent new late runs => ?_,
    fun b lane slot g tag ok s c found admitted path live good reduces uses => ?_, fun i s p g tag hs c at_ msg there found => ?_⟩
  · obtain ⟨cut, vector, bridge⟩ := collsAdmitted found full waits live good
    refine ⟨cut, vector, bridge, fun t0 filled waiting _ late named way free runs =>
      ⟨_, execAdmitTimeout_downgrades found filled waiting late named way free runs, ?_⟩⟩
    have counted := spares_countWait s c
    refine ⟨⟨_, find_toVector ((findColl_congr counted.colls _ _).trans found) rfl rfl _, rfl, rfl, vectored_downgraded ..⟩, fun new => ?_,
      (diverts_toVector _ _ _).mem.trans counted.mem⟩
    rw [downgraded_toVector 2 (by decide) new, counted.reg _ (.inl (by decide))]
  · refine ⟨_, execCollTimeout_reports found live good member absent new late runs, ?_, ?_, ⟨_, findColl_setColl found rfl rfl, ?_, rfl⟩,
      fun a ne => ?_, rfl, rfl⟩
    · exact (State.reg_setReg ..).trans (if_pos rfl)
    · exact collTimeout_flight _ _ c h.val
    · exact List.mem_append_right _ (List.mem_singleton_self _)
    · exact (State.reg_setReg ..).trans (if_neg ne)
  · have bridge : c.runsOver b.val = true := by
      unfold Coll.runsOver
      rw [admitted, path, live, good, reduces, List.contains_iff_mem.mpr uses]
      decide
    refine ⟨_, runsOver_of found bridge lane slot ok, ?_⟩
    cases ok with
    | true =>
      rw [if_pos rfl]
      refine ⟨field_countSat s _ 8 8 1 (by decide), fun _ => ⟨_, findColl_setColl (s := s.countSat (Reg.bridgeEnd b.val) 8 8 1) found rfl rfl,
        and_or_self _ 8 8 rfl, path⟩, fun e => absurd e (by decide), ⟨_, _, _, List.mem_append_right _ (List.mem_singleton_self _)⟩, rfl⟩
    | false =>
      rw [if_neg (by decide)]
      have diverts := diverts_toVectors ((s.fenceAdder b.val lane slot c.g).colls.filter fun y => y.runsOver b.val) 10 (s.fenceAdder b.val lane slot c.g)
      have here : (s.fenceAdder b.val lane slot c.g).findColl g.toNat tag.toNat = some c := found
      refine ⟨?_, fun e => absurd e (by decide), fun _ => ⟨?_, ?_⟩, ⟨_, _, _, diverts.flight (List.mem_append_right _ (List.mem_singleton_self _))⟩, diverts.mem⟩
      · rw [diverts.ends b.val 8 8 (.inl (by decide))]
        exact (State.field_setField_other _ _ _ _ _ _ _ (by decide) (by decide)).trans (field_countSat s _ 8 8 1 (by decide))
      · exact (congrArg (· == 1) (diverts.ends b.val 29 1 (.inr (by decide)))).trans (State.flag_setBit _ _ 29 (by decide))
      · obtain ⟨hg, ht⟩ := findColl_names found
        exact restarted_toVectors 10 here (.inl ⟨c, List.mem_filter.mpr ⟨List.mem_of_find?_eq_some found, bridge⟩, hg, ht⟩)
  · refine ⟨_, pruned_notice at_ msg there found, ⟨_, findColl_setColl (s := s.dropPacket i) found rfl rfl, fun h m member => ?_, fun h m => ?_⟩, ?_, rfl, rfl,
      fun _ => rfl⟩
    · by_cases old : h ∈ c.pruned
      · exact List.mem_append_left _ old
      · exact List.mem_append_right _ (List.mem_filter.mpr ⟨m, by simp [member, old]⟩)
    · exact List.mem_append_left _ m
    · rw [dropPacket_eq]
      rfl

end Sys2Proof
end

section
/-! PROOFS. Schedule mode of the pivot engine (R212, R219). -/

namespace Sys2Proof

open Machine

variable {s t : State} {h kind : Nat} {c : Cmd} {p : Prob} {x : BitVec 128} {pa : Nat}

/-! ## A step that the engine can run -/

theorem schedRow_runs (step : s.schedStep h kind = some (c, p, x)) (ok : SchedStep.ok x (p.qp.n + p.qp.m) p.ranks = true)
    (f : State → Cmd → Prob → BitVec 128 → State) : s.schedRow h kind f = f s c p x := by
  unfold State.schedRow
  rw [step]
  exact if_pos ok

/-- What a schedule row does at a step that the engine can run. -/
theorem does_schedRow {i : Instr} {f : State → Cmd → Prob → BitVec 128 → State} {P : State → Prop} (row : exec i s = .next (s.schedRow h kind f))
    (step : s.schedStep h kind = some (c, p, x)) (ok : SchedStep.ok x (p.qp.n + p.qp.m) p.ranks = true) (post : P (f s c p x)) : Does i s P :=
  ⟨_, row.trans (congrArg _ (schedRow_runs step ok f)), post⟩

/-! ## The engine's arithmetic and the shared factor -/

/-- What the engine's arithmetic changes besides its registers and the free choices: nothing. -/
structure EngineOnly (s t : State) : Prop where
  hands : t.hands = s.hands
  slots : t.pvSlots = s.pvSlots
  mem : t.mem = s.mem
  quiet : Quiet s t

theorem engineOnly_eng {α : Type} (s : State) (h : Nat) (m : EngM α) : EngineOnly s (s.eng h m).2 := ⟨rfl, rfl, rfl, rfl, rfl, rfl⟩

theorem EngineOnly.trans {r : State} (a : EngineOnly r s) (b : EngineOnly s t) : EngineOnly r t :=
  ⟨b.hands.trans a.hands, b.slots.trans a.slots, b.mem.trans a.mem, a.quiet.trans b.quiet⟩

theorem engineOnly_addPert (s : State) (h n : Nat) : EngineOnly s (s.addPert h n) := by
  unfold State.addPert
  split_ifs
  · exact ⟨rfl, rfl, rfl, rfl, rfl, rfl⟩
  · exact ⟨rfl, rfl, rfl, rfl, rfl, rfl⟩

theorem EngineOnly.hand (a : EngineOnly s t) (i : Nat) : t.hand i = s.hand i := by simp only [State.hand, a.hands]

/-- A rank's work on the group's factor, and the step after it. -/
theorem factor_steps (a : EngineOnly s t) (slot : p.slot = some pa) (f : Fact) :
    ((t.setGroupFact p f).nextStep h).groupFact p = f ∧ (((t.setGroupFact p f).nextStep h).hand h).schedAt = (s.hand h).schedAt + 1 ∧
    ((t.setGroupFact p f).nextStep h).mem = s.mem ∧ Quiet s ((t.setGroupFact p f).nextStep h) := by
  obtain ⟨u, hu⟩ : ∃ u, u = t.setGroupFact p f := ⟨_, rfl⟩
  have set_ : u = { t with pvSlots := PMap.put t.pvSlots pa { t.slotAt pa with fact := f } } := by
    rw [hu]
    unfold State.setGroupFact
    rw [slot]
  have hands : u.hand h = s.hand h := (show u.hand h = t.hand h by rw [set_]; rfl).trans (a.hand h)
  rw [← hu]
  refine ⟨?_, ?_, ?_, a.quiet.trans ?_⟩
  · unfold State.groupFact State.nextStep
    rw [slot, set_]
    show (PMap.get {} (PMap.put t.pvSlots pa { t.slotAt pa with fact := f }) pa).fact = f
    rw [PMap.get_put, if_pos rfl]
  · unfold State.nextStep
    rw [State.hand_setHand, if_pos rfl, hands]
  · exact (show u.mem = t.mem by rw [set_]).trans a.mem
  · rw [set_]
    exact ⟨rfl, rfl, rfl⟩

/-! ## Tokens -/

theorem toRanks_net (s : State) (h : Nat) (p : Prob) (kind me col : Nat) : (s.toRanks h p kind me col).net =
    s.net ++ (otherRanks p me).map fun r => ctlPacket (epHand h 24) (epHand (h / 160 * 160 + PDesc.group p.desc r % 160) 24) h
      (.token kind me col p.tag) := by
  unfold State.toRanks
  induction otherRanks p me generalizing s with
  | nil => exact (List.append_nil _).symm
  | cons r l ih =>
    rw [List.foldl_cons, ih, List.map_cons]
    exact List.append_assoc _ [_] _

theorem toRanks_rest (s : State) (h : Nat) (p : Prob) (kind me col : Nat) {H : Nat → Prop} : (s.toRanks h p kind me col).recov = s.recov ∧
    (s.toRanks h p kind me col).rsp = s.rsp ∧ (s.toRanks h p kind me col).hands = s.hands ∧
    Frame Nothing H Nothing Nothing s (s.toRanks h p kind me col) :=
  ⟨foldl_keeps _ State.recov (by intro s x; rfl) _ _, foldl_keeps _ State.rsp (by intro s x; rfl) _ _,
    foldl_keeps _ State.hands (by intro s x; rfl) _ _, frame_foldl _ _ (fun r _ s => frame_send s ..) s⟩

theorem schedAt_dropToken (p : Prob) (kind r : Nat) (d : Hand) : (d.dropToken p kind r).schedAt = d.schedAt := by
  unfold Hand.dropToken
  split
  · rfl
  · rfl

/-- Tokens taken leave the hand's place in its list. -/
theorem schedAt_dropTokens (p : Prob) (kind : Nat) (l : List Nat) (d : Hand) :
    (l.foldl (fun (d : Hand) r => d.dropToken p kind r) d).schedAt = d.schedAt := by
  induction l generalizing d with
  | nil => rfl
  | cons r l ih =>
    exact (ih _).trans (schedAt_dropToken p kind r d)

theorem nextStep_at (s : State) (h : Nat) : ((s.nextStep h).hand h).schedAt = (s.hand h).schedAt + 1 ∧ ((s.nextStep h).hand h).syncSent = false ∧
    ((s.nextStep h).hand h).tokens = (s.hand h).tokens ∧ Frame Nothing (· = h) Nothing Nothing s (s.nextStep h) := by
  unfold State.nextStep
  rw [State.hand_setHand, if_pos rfl]
  exact ⟨rfl, rfl, rfl, frame_setHand s h _ rfl⟩

/-- Settles O24. -/
theorem scheduleSteps : Obligations.ScheduleSteps := by
  unfold Obligations.ScheduleSteps
  intro h s c p x pa slot ok
  extract_lets me at0 peerEp
  refine ⟨fun step => does_schedRow rfl step ok ?_, fun step => does_schedRow rfl step ok ?_, fun step => does_schedRow rfl step ok ?_,
    fun step covered => does_schedRow rfl step ok ?_, fun step unsent => does_schedRow rfl step ok ?_,
    fun step sent told => does_schedRow rfl step ok ?_, fun step => does_schedRow rfl step ok ?_⟩
  · exact factor_steps ((engineOnly_eng s h.val _).trans (engineOnly_addPert _ _ _)) slot _
  · exact factor_steps (engineOnly_eng s h.val _) slot _
  · obtain ⟨next, -, -, frame⟩ := nextStep_at (s.toRank h.val p 0 me (SchedStep.c0 x + SchedStep.len x * 2 ^ 32) (SchedStep.peer x)) h.val
    exact ⟨rfl, next, rfl, rfl, (frame_send s ..).trans frame⟩
  · rw [if_pos]
    · obtain ⟨next, -, tokens, frame⟩ := nextStep_at s h.val
      exact ⟨next, tokens, frame, rfl, rfl, rfl⟩
    · refine List.all_eq_true.mpr fun j m => ?_
      obtain ⟨y, hy, peer, tag, low, high⟩ := covered j ((mem_upTo ..).mp m)
      refine List.any_eq_true.mpr ⟨y, hy, ?_⟩
      unfold coversCol
      rw [decide_eq_true low, decide_eq_true high]
      simp [peer, tag]
  · dsimp only
    rw [if_pos (by simp [unsent])]
    obtain ⟨recov, rsp, hands, frame⟩ := toRanks_rest (s.setHand h.val { s.hand h.val with syncSent := true }) h.val p 3 me 0 (H := (· = h.val))
    have hand : ((s.setHand h.val { s.hand h.val with syncSent := true }).toRanks h.val p 3 me 0).hand h.val = { s.hand h.val with syncSent := true } := by
      rw [State.hand, hands]
      exact (State.hand_setHand ..).trans (if_pos rfl)
    refine ⟨?_, ?_, toRanks_net .., recov, rsp, (frame_setHand_self s h.val _).trans frame⟩
    · rw [hand]
    · rw [hand]
  · dsimp only
    rw [if_neg (by simp [sent])]
    have all : (s.hand h.val).allTokens p me 3 = some ((otherRanks p me).foldl (fun (d : Hand) r => d.dropToken p 3 r) (s.hand h.val)) :=
      if_pos (List.all_eq_true.mpr told)
    rw [all]
    dsimp only
    obtain ⟨next, unsent, -, frame⟩ := nextStep_at (s.setHand h.val ((otherRanks p me).foldl (fun (d : Hand) r => d.dropToken p 3 r) (s.hand h.val))) h.val
    refine ⟨?_, unsent, (frame_setHand_self s h.val _).trans frame, rfl, rfl, rfl⟩
    rw [next, State.hand_setHand, if_pos rfl, schedAt_dropTokens]
  · unfold State.pvListEnd
    dsimp only
    by_cases zero : me = 0
    · rw [if_pos zero]
      have hand : (s.setHand h.val { s.hand h.val with schedDone := true }).hand h.val = { s.hand h.val with schedDone := true } :=
        (State.hand_setHand ..).trans (if_pos rfl)
      exact ⟨by rw [hand], fun _ => ⟨⟨rfl, rfl, rfl⟩, by rw [hand]⟩, fun other => absurd zero other,
        frame_setHand_self s h.val _⟩
    · rw [if_neg zero]
      have hand : (((s.setHand h.val { s.hand h.val with schedDone := true }).toRank h.val p 4 me 0 0).setProb h.val 0 (p.enter 1)).hand h.val =
          { s.hand h.val with schedDone := true, probs := (s.hand h.val).probs.set 0 (p.enter 1) } := by
        refine (State.hand_setHand ..).trans ((if_pos rfl).trans ?_)
        rw [show ((s.setHand h.val { s.hand h.val with schedDone := true }).toRank h.val p 4 me 0 0).hand h.val = { s.hand h.val with schedDone := true } from
          (State.hand_setHand ..).trans (if_pos rfl)]
      exact ⟨by rw [hand], fun same => absurd same zero, fun _ => ⟨rfl, by rw [hand]⟩,
        (frame_setHand_self s h.val _).trans ((frame_send ..).trans (frame_setHand_self _ h.val _))⟩

end Sys2Proof
end

section
/-! PROOFS. TABLES, STEP and PUBLISH (R258, R263, R265). -/

namespace Sys2Proof

open Machine

variable {s t b : State} {R H C M : Nat → Prop}

/-! ## Writes of a Mill -/

theorem memFrame_vwrite {unit tid va n v : Nat} (e : s.vwrite unit tid va n v = some t) : MemFrame R H C M s t := by
  unfold State.vwrite at e
  split at e
  · obtain rfl := Option.some.inj e
    exact memFrame_storeVa ..
  · cases e

/-- Bytes written to HBM: all but memory stays, and no packet, answer or notice goes out. -/
structure OnlyWrites (s t : State) : Prop where
  frame : ∀ {R H C M : Nat → Prop}, MemFrame R H C M s t
  calm : Calm s t

theorem OnlyWrites.refl (s : State) : OnlyWrites s s := ⟨.refl s, .refl s⟩

theorem OnlyWrites.trans (x : OnlyWrites s t) (y : OnlyWrites t b) : OnlyWrites s b :=
  ⟨x.frame.trans y.frame, x.calm.trans y.calm⟩

theorem OnlyWrites.mill (x : OnlyWrites s t) (m : Nat) : t.mill m = s.mill m :=
  (x.frame (R := Nothing) (H := Nothing) (C := Nothing) (M := Nothing)).mill m id

theorem OnlyWrites.reg (x : OnlyWrites s t) {a : Nat} (off : ¬ GranReg a) : t.reg a = s.reg a :=
  (x.frame (R := Nothing) (H := Nothing) (C := Nothing) (M := Nothing)).reg a id off

theorem onlyWrites_vwrite {unit tid va n v : Nat} (e : s.vwrite unit tid va n v = some t) : OnlyWrites s t :=
  ⟨memFrame_vwrite e, (flushed_vwrite (R := Nothing) e).calm⟩

theorem onlyWrites_vzero {m fuel va n : Nat} (e : s.vzero m fuel va n = some t) : OnlyWrites s t := by
  induction fuel generalizing s va n with
  | zero =>
    unfold State.vzero at e
    split_ifs at e
    obtain rfl := Option.some.inj e
    exact .refl s
  | succ fuel ih =>
    unfold State.vzero at e
    split_ifs at e
    · obtain rfl := Option.some.inj e
      exact .refl s
    · dsimp only at e
      split at e
      · cases e
      · next first => exact (onlyWrites_vwrite first).trans (ih e)

theorem onlyWrites_zeroRow {m i : Nat} (e : s.zeroRow m i = some t) : OnlyWrites s t := onlyWrites_vzero e

theorem millEvc_not_gran {m c : Nat} (lt : c < 64) : ¬ GranReg (Reg.millEvc m c) := by
  have e : Reg.millEvc m c = suitBase (m / 2) + (0x50000 + (m % 2) * 0x10000 + 0x100 + 4 * c) := by
    unfold Reg.millEvc millBase
    omega
  rw [e]
  exact not_granReg_suitBase (by omega) (by omega)

theorem OnlyWrites.evc (x : OnlyWrites s t) {m c : Nat} (lt : c < 64) : t.millEvc m c = s.millEvc m c := x.reg (millEvc_not_gran lt)

section
variable {m : MillIx} {va op : Nat} {r : BitVec 512} {s1 s2 : State}

/-! ## A record of a Mill that has done its work -/

/-- A row's record commits behind what it has done, which left its Mill running. -/
theorem does_millRow {i : Instr} {f : State → Nat → BitVec 512 → Option State} {P : State → Prop} (row : exec i s = .next (s.millRow m.val op f))
    (head : s.millHead m.val op = .ready va r) (done : f (s.traceBegin 8 m.val r 0) va r = some t) (runs : (t.mill m.val).halted = false)
    (post : P (t.millCommit m.val r)) : Does i s P :=
  ⟨_, row.trans (congrArg _ (millRow_of_ready head done runs)), post⟩

/-- What a commit leaves of a Mill but for the front of its fetch buffer. -/
def Machine.Mill.CommitOnly (d e : Mill) : Prop := e = { d with buf := d.buf.drop 1, ring := e.ring, rseq := e.rseq, lostNew := e.lostNew
                                                                lostAll := e.lostAll, lastCommit := e.lastCommit }

theorem commitOnly_millCommit (s : State) (m : Nat) (r : BitVec 512) : (s.mill m).CommitOnly ((s.millCommit m r).mill m) := by
  have ring := (traced_traceEnd (s.millIncs m r) 8 m r 0 0 0).mill m
  simp only [State.millIncs, State.mill_inc1] at ring
  unfold Mill.RingOnly at ring
  unfold State.millCommit State.millPop State.millIncs
  dsimp only
  rw [State.mill_setMill, if_pos rfl, State.mill_setMill, if_pos rfl, ring]
  rfl

/-- A row's record that has done nothing but write: its increments and its frame. -/
theorem millCommits_written (begun : Frame Nothing Nothing Nothing (· = m.val) s b) (quiet : Quiet s b) (writes : OnlyWrites b t) :
    (∀ c < 64, (t.millCommit m.val r).millEvc m.val c = s.millEvc m.val c + incsOf r c) ∧ (t.millCommit m.val r).mem = t.mem ∧
    MemFrame (MillEvcs m.val) Nothing Nothing (· = m.val) s (t.millCommit m.val r) ∧ Calm s (t.millCommit m.val r) := by
  have commits := millCommits_millCommit t m.val r
  refine ⟨fun c lt => ?_, commits.frame.mem, ?_, (quiet.calm.trans writes.calm).trans commits.quiet.calm⟩
  · rw [commits.evc c lt, writes.evc lt, State.millEvc, begun.reg _ id]
    rfl
  · exact ((begun.mono (fun _ => False.elim) (fun _ => id) (fun _ => id) (fun _ => id)).mem_frame.trans writes.frame).trans commits.frame.mem_frame

/-! ## TABLES (R265) -/

/-- The table bases of a TABLES record. -/
def Machine.Mill.tables (d : Mill) (r : BitVec 512) : Mill :=
  { d with utab := bits (Record.opd r 0) 0 48, rtab := bits (Record.opd r 1) 0 48, tele := bits (Record.opd r 2) 0 48
           nlayers := if Record.argBits r 16 16 = 0 then 65536 else Record.argBits r 16 16, tlog := Record.argBits r 0 4, tabled := true }

theorem tables_sets (head : s.millHead m.val 5 = .ready va r)
    (zeroed : ((s.traceBegin 8 m.val r 0).setMill m.val (((s.traceBegin 8 m.val r 0).mill m.val).tables r)).zeroRow m.val 0 = some s1) :
    Does (.tables m) s fun t => ((s.mill m.val).tables r).CommitOnly (t.mill m.val) ∧ t.mem = s1.mem ∧
      (∀ c < 64, t.millEvc m.val c = s.millEvc m.val c + incsOf r c) ∧ MemFrame (MillEvcs m.val) Nothing Nothing (· = m.val) s t ∧ Calm s t := by
  have writes := onlyWrites_zeroRow zeroed
  have ring := mill_begin s m.val r
  have begun : Frame Nothing Nothing Nothing (· = m.val) s ((s.traceBegin 8 m.val r 0).setMill m.val (((s.traceBegin 8 m.val r 0).mill m.val).tables r)) :=
    (frame_millBegin s m.val r).trans (frame_setMill_self ..)
  have quiet : Quiet s ((s.traceBegin 8 m.val r 0).setMill m.val (((s.traceBegin 8 m.val r 0).mill m.val).tables r)) :=
    (traced_traceBegin s 8 m.val r 0).quiet.trans ⟨rfl, rfl, rfl⟩
  have mill : s1.mill m.val = ((s.traceBegin 8 m.val r 0).mill m.val).tables r :=
    (writes.mill m.val).trans ((State.mill_setMill ..).trans (if_pos rfl))
  obtain ⟨evc, mem, frame, calm⟩ := millCommits_written (r := r) begun quiet writes
  refine does_millRow (t := s1) rfl head zeroed (by rw [mill]; exact halted_begin head) ⟨?_, mem, evc, frame, calm⟩
  have commit := commitOnly_millCommit s1 m.val r
  unfold Mill.CommitOnly at commit ⊢
  unfold Mill.RingOnly at ring
  rw [commit, mill, ring]
  rfl

/-! ## STEP (R263, R425) -/

/-- What the known-answer update of a Mill changes: the mode of the suit's granary, the Mill's ring, and a record posted. -/
structure Katted (m : Nat) (s t : State) : Prop where
  mem : t.mem = s.mem
  mill : ∀ i, (s.mill i).RingOnly (t.mill i)
  reg : ∀ a, a ≠ Reg.granCtl (m / 2) → t.reg a = s.reg a
  calm : Calm s t

theorem Katted.refl (m : Nat) (s : State) : Katted m s s := ⟨rfl, fun _ => .refl _, fun _ _ => rfl, .refl s⟩

theorem katted_setGranMode (s : State) (m mode : Nat) : Katted m s (s.setGranMode (m / 2) mode) := by
  unfold State.setGranMode
  dsimp only
  obtain ⟨e, he⟩ : ∃ e, (if s.field (Reg.granCtl (m / 2)) 16 2 = mode then s
      else (s.setField (Reg.granCtl (m / 2)) 16 2 mode).startGrace (Reg.granCtl (m / 2))) = e := ⟨_, rfl⟩
  have kept : Katted m s e := by
    rw [← he]
    split_ifs
    · exact .refl m s
    · exact ⟨rfl, fun _ => .refl _, fun a off => State.reg_setField_other _ _ _ _ _ _ off, Quiet.calm ⟨rfl, rfl, rfl⟩⟩
  rw [he]
  obtain ⟨mem, mill, reg, calm⟩ := kept
  cases PMap.find e.staged (Reg.granCtl (m / 2)) with
  | none => exact ⟨mem, mill, reg, calm⟩
  | some x => exact ⟨mem, mill, reg, calm⟩

theorem katted_millKat (s : State) (m times : Nat) : Katted m s (s.millKat m times) ∧
    (s.field (Reg.reeveCtl (m / 2)) 8 16 = 0 → s.millKat m times = s) ∧
    (times ≠ 0 → s.field (Reg.reeveCtl (m / 2)) 8 16 ≠ 0 →
      ∃ x k tm, (x, faultWord tm 2 0x11 (epMill m) k) ∈ (s.millKat m times).recov.flight) := by
  have mode := katted_setGranMode s m 0
  unfold State.millKat
  dsimp only
  generalize s.setGranMode (m / 2) 0 = b at mode
  split_ifs with off zero
  · exact ⟨.refl m s, fun _ => rfl, fun _ on => absurd off on⟩
  · exact ⟨mode, fun e => absurd e off, fun some_ => absurd zero some_⟩
  · generalize faultTrace 8 (epMill m) 2 0x11 (4 <<< 45 + 7 <<< 40 + b2n (decide (2 ≤ times)) <<< 39) 0 0 = x
    generalize 4 <<< 45 + 7 <<< 40 + b2n (decide (2 ≤ times)) <<< 39 = y
    have posted : Calm b ((b.traceMill m x).post (m / 2 * 4 + 2 * (m % 2)) 2 0x11 (epMill m) y) := ⟨rfl, rfl, _, rfl⟩
    refine ⟨⟨mode.mem, fun i => (mode.mill i).trans ((traced_traceMill b m x).mill i), mode.reg, mode.calm.trans posted⟩, fun e => absurd e off,
      fun _ _ => ⟨_, y, _, List.mem_append_right _ (List.mem_singleton_self _)⟩⟩

theorem millStep_high (m : Nat) : ∀ c < 64, Reg.millEvc m c ≠ Reg.millStep m ∧ Reg.millEvc m c ≠ Reg.granCtl (m / 2) := by
  intro c _
  unfold Reg.millEvc Reg.millStep Reg.granCtl millBase
  omega

theorem millStep_not_gran (m : Nat) : ¬ GranReg (Reg.millStep m) ∧ ¬ MillEvcs m (Reg.millStep m) ∧ Reg.millStep m ≠ Reg.granCtl (m / 2) := by
  have e : Reg.millStep m = suitBase (m / 2) + (0x50000 + (m % 2) * 0x10000 + 0x10) := by
    unfold Reg.millStep millBase
    omega
  refine ⟨?_, fun ⟨c, lt, same⟩ => (millStep_high m c lt).1 same.symm, ?_⟩
  · rw [e]
    exact not_granReg_suitBase (by omega) (by omega)
  · unfold Reg.millStep Reg.granCtl millBase
    omega

/-- The STEP slot written, and the step traced. -/
def Machine.State.stepped (s : State) (m : Nat) (r : BitVec 512) (w n : Nat) : State :=
  (s.setMill m { s.mill m with writes := w, hasStep := true }).traceMill m (Trace.ofRecord 7 8 m r 2 n)

theorem stepped_mill (s : State) (m : Nat) (r : BitVec 512) (w n : Nat) :
    ((s.stepped m r w n).mill m).writes = w ∧ ((s.stepped m r w n).mill m).halted = (s.mill m).halted ∧
    ((s.stepped m r w n).mill m).buf = (s.mill m).buf ∧ Quiet s (s.stepped m r w n) ∧
    Frame Nothing Nothing Nothing (· = m) s (s.stepped m r w n) := by
  have ring := (traced_traceMill (s.setMill m { s.mill m with writes := w, hasStep := true }) m (Trace.ofRecord 7 8 m r 2 n)).mill m
  have set_ : (s.setMill m { s.mill m with writes := w, hasStep := true }).mill m = { s.mill m with writes := w, hasStep := true } :=
    (State.mill_setMill ..).trans (if_pos rfl)
  rw [set_] at ring
  unfold Mill.RingOnly at ring
  unfold State.stepped
  rw [ring]
  exact ⟨rfl, rfl, rfl, ⟨rfl, rfl, rfl⟩, (frame_setMill_self ..).trans (frame_traceMill _ _ _ rfl)⟩

theorem step_counts {kat : Nat} {n : W32} (hn : n = s.reg (Reg.millStep m.val) + 1) (head : s.millHead m.val 6 = .ready va r)
    (tabled : (s.mill m.val).tabled = true)
    (zeroed : (((s.traceBegin 8 m.val r 0).millKat m.val kat).setReg (Reg.millStep m.val) n).zeroRow m.val (n.toNat % 2 ^ (s.mill m.val).tlog) = some s1)
    (saved : s1.vwrite (640 + m.val) 0 (s1.traceBlock (640 + m.val)) 384 (s1.millSlot m.val (va + 64) ((s.mill m.val).writes + 1)) = some s2) :
    Does (.step m kat) s fun t => t.reg (Reg.millStep m.val) = n ∧ t.mem = s2.mem ∧ (t.mill m.val).writes = (s.mill m.val).writes + 1 ∧
      (t.mill m.val).buf = (s.mill m.val).buf.drop 1 ∧ (∀ c < 64, t.millEvc m.val c = s.millEvc m.val c + incsOf r c) ∧
      (∀ a, a ≠ Reg.millStep m.val → a ≠ Reg.granCtl (m.val / 2) → ¬ MillEvcs m.val a → ¬ GranReg a → t.reg a = s.reg a) ∧ Calm s t ∧
      (s.field (Reg.reeveCtl (m.val / 2)) 8 16 = 0 → t.reg (Reg.granCtl (m.val / 2)) = s.reg (Reg.granCtl (m.val / 2))) ∧
      (kat ≠ 0 → s.field (Reg.reeveCtl (m.val / 2)) 8 16 ≠ 0 → ∃ x k tm, (x, faultWord tm 2 0x11 (epMill m.val) k) ∈ t.recov.flight) := by
  have begun := frame_millBegin s m.val r
  have quiet := (traced_traceBegin s 8 m.val r 0).quiet
  have ring := mill_begin s m.val r
  have runs := halted_begin head
  obtain ⟨e, he⟩ : ∃ e, e = s.traceBegin 8 m.val r 0 := ⟨_, rfl⟩
  obtain ⟨katted, untested, told⟩ := katted_millKat e m.val kat
  obtain ⟨k, hk⟩ : ∃ k, k = (e.millKat m.val kat).setReg (Reg.millStep m.val) n := ⟨_, rfl⟩
  rw [← he] at begun quiet ring zeroed runs
  rw [← hk] at zeroed
  have writes := (onlyWrites_zeroRow zeroed).trans (onlyWrites_vwrite saved)
  have mill1 : (e.mill m.val).RingOnly (s1.mill m.val) := by
    rw [(onlyWrites_zeroRow zeroed).mill, hk]
    exact katted.mill m.val
  have mill2 : (e.mill m.val).RingOnly (s2.mill m.val) := by
    rw [writes.mill, hk]
    exact katted.mill m.val
  have kreg : ∀ a, a ≠ Reg.millStep m.val → k.reg a = (e.millKat m.val kat).reg a := fun a off => by
    rw [hk]
    exact (State.reg_setReg ..).trans (if_neg off)
  obtain ⟨written, halted, buf, quiet3, frame3⟩ := stepped_mill s2 m.val r ((s.mill m.val).writes + 1) n.toNat
  obtain ⟨p, hp⟩ : ∃ p, p = s2.stepped m.val r ((s.mill m.val).writes + 1) n.toNat := ⟨_, rfl⟩
  rw [← hp] at written halted buf quiet3 frame3
  have commits := millCommits_millCommit p m.val r
  have commit := commitOnly_millCommit p m.val r
  unfold Mill.CommitOnly at commit
  have calm3 : Calm k (p.millCommit m.val r) := (writes.calm.trans quiet3.calm).trans commits.quiet.calm
  have calm : Calm s (p.millCommit m.val r) :=
    ((quiet.calm.trans katted.calm).trans (show Calm (e.millKat m.val kat) k by rw [hk]; exact Quiet.calm ⟨rfl, rfl, rfl⟩)).trans calm3
  have reg : ∀ a, ¬ MillEvcs m.val a → ¬ GranReg a → (p.millCommit m.val r).reg a = k.reg a := fun a evc gran =>
    (commits.frame.reg a evc).trans ((frame3.reg a id).trans (writes.reg gran))
  refine does_millRow (t := p) rfl head ?_ ?_ ⟨?_, ?_, ?_, ?_, fun c lt => ?_, fun a step ctl evc gran => ?_, calm, fun unset => ?_, fun some_ on => ?_⟩
  · dsimp only
    have same : (s.traceBegin 8 m.val r 0).reg (Reg.millStep m.val) + 1 = n := by
      rw [hn, ← he, begun.reg _ id]
    have nreg : k.reg (Reg.millStep m.val) = n := by
      rw [hk]
      exact (State.reg_setReg ..).trans (if_pos rfl)
    have tlog : (k.mill m.val).tlog = (s.mill m.val).tlog := by
      rw [hk]
      show ((e.millKat m.val kat).mill m.val).tlog = _
      rw [katted.mill m.val, ring]
    rw [same, ← he, if_neg (by rw [ring]; simp [tabled]), ← hk, nreg, tlog, zeroed]
    dsimp only
    rw [show (s1.mill m.val).writes = (s.mill m.val).writes by rw [mill1, ring], saved]
    exact congrArg some hp.symm
  · rw [halted, mill2]
    exact runs
  · rw [reg _ (millStep_not_gran m.val).2.1 (millStep_not_gran m.val).1, hk]
    exact (State.reg_setReg ..).trans (if_pos rfl)
  · exact commits.frame.mem.trans frame3.mem
  · rw [commit]
    exact written
  · rw [commit]
    show (p.mill m.val).buf.drop 1 = _
    rw [buf, mill2]
    show (e.mill m.val).buf.drop 1 = _
    rw [ring]
  · obtain ⟨step, ctl⟩ := millStep_high m.val c lt
    have kept : p.millEvc m.val c = s.millEvc m.val c := by
      unfold State.millEvc
      rw [frame3.reg _ id, writes.reg (millEvc_not_gran lt), kreg _ step, katted.reg _ ctl, begun.reg _ id]
    rw [commits.evc c lt, kept]
  · rw [reg a evc gran, kreg a step, katted.reg a ctl, begun.reg a id]
  · have ctl : Reg.granCtl (m.val / 2) = suitBase (m.val / 2) + 0x20000 := rfl
    have low : ¬ MillEvcs m.val (Reg.granCtl (m.val / 2)) := fun ⟨c, lt, same⟩ => (millStep_high m.val c lt).2 same.symm
    rw [reg _ low (by rw [ctl]; exact not_granReg_suitBase (by decide) (by decide)), kreg _ (millStep_not_gran m.val).2.2.symm,
      untested (by rw [State.field_congr (begun.reg _ id)]; exact unset), begun.reg _ id]
  · obtain ⟨x, y, tm, mem⟩ := told some_ (by rw [State.field_congr (begun.reg _ id)]; exact on)
    obtain ⟨_, _, l, grows⟩ := calm3
    refine ⟨x, y, tm, ?_⟩
    rw [grows]
    refine List.mem_append_left _ ?_
    rw [hk]
    exact mem

end

end Sys2Proof
end

section
/-! PROOFS. PUBLISH (R250, R258). -/

namespace Sys2Proof

open Machine

variable {s t b : State}

/-! ## Bits of words under a mask -/

theorem bits_and (x y lo w : Nat) : bits (x &&& y) lo w = bits x lo w &&& bits y lo w := by
  unfold bits
  rw [Nat.shiftRight_and_distrib, Nat.and_mod_two_pow]

theorem bits_bits (x lo w a n : Nat) (fits : a + n ≤ w) : bits (bits x lo w) a n = bits x (lo + a) n := by
  rw [show bits x lo w = (x >>> lo) % 2 ^ w from rfl, bits_low _ _ _ _ fits]
  unfold bits
  rw [Nat.shiftRight_add]

theorem testBit_of_bits_zero {x lo w i : Nat} (zero : bits x lo w = 0) (low : lo ≤ i) (high : i < lo + w) : x.testBit i = false := by
  have e := congrArg (fun y => y.testBit (i - lo)) zero
  rw [bits, Nat.testBit_mod_two_pow, Nat.testBit_shiftRight, Nat.zero_testBit, Nat.add_sub_cancel' low] at e
  simpa [show i - lo < w by omega] using e

/-- A word whose reserved bits are 0 is what the mask of a BUF entry leaves of it. -/
theorem and_bufMask {x : Nat} (lt : x < 2 ^ 64) (low : bits x 11 5 = 0) (high : bits x 22 10 = 0) : x &&& bufMask = x := by
  refine Nat.eq_of_testBit_eq fun i => ?_
  rw [Nat.testBit_and]
  by_cases out : 64 ≤ i
  · rw [Nat.testBit_lt_two_pow (lt_of_lt_of_le lt (Nat.pow_le_pow_right (by decide) out)), Bool.false_and]
  by_cases a : 11 ≤ i ∧ i < 16
  · rw [testBit_of_bits_zero low a.1 a.2, Bool.false_and]
  by_cases b : 22 ≤ i ∧ i < 32
  · rw [testBit_of_bits_zero high b.1 b.2, Bool.false_and]
  have mask : ∀ i < 64, ¬ (11 ≤ i ∧ i < 16) → ¬ (22 ≤ i ∧ i < 32) → bufMask.testBit i = true := by decide
  rw [mask i (by omega) a b, Bool.and_true]

/-! ## The version record that a PUBLISH writes -/

/-- The word: the old buffer's release condition, the new buffer live, the version published. -/
def publishedWord (a old new e arg v : Nat) : Nat :=
  setBits (setBits (setBits (setBits (setBits a (8 * (24 + 8 * old) + 10) 1 1) (8 * (24 + 8 * old) + 16) 6 e) (8 * (24 + 8 * old) + 32) 32 arg)
    (8 * (24 + 8 * new) + 8) 2 1) 0 8 v

section
variable (a e arg v : Nat) {old new : Nat}

/-- A field that the write of a PUBLISH does not touch. -/
theorem bits_publishedWord {lo w : Nat} (first : 8 ≤ lo)
    (new_ : lo + w ≤ 8 * (24 + 8 * new) + 8 ∨ 8 * (24 + 8 * new) + 10 ≤ lo)
    (old_ : lo + w ≤ 8 * (24 + 8 * old) + 10 ∨ (8 * (24 + 8 * old) + 11 ≤ lo ∧ lo + w ≤ 8 * (24 + 8 * old) + 16) ∨
      (8 * (24 + 8 * old) + 22 ≤ lo ∧ lo + w ≤ 8 * (24 + 8 * old) + 32) ∨ 8 * (24 + 8 * old) + 64 ≤ lo) :
    bits (publishedWord a old new e arg v) lo w = bits a lo w := by
  unfold publishedWord
  rw [bits_setBits_other _ _ _ _ _ _ (by omega), bits_setBits_other _ _ _ _ _ _ (by omega), bits_setBits_other _ _ _ _ _ _ (by omega),
    bits_setBits_other _ _ _ _ _ _ (by omega), bits_setBits_other _ _ _ _ _ _ (by omega)]

theorem publishedWord_version : bits (publishedWord a old new e arg v) 0 8 = v % 2 ^ 8 := bits_setBits ..

theorem publishedWord_live : bits (publishedWord a old new e arg v) (8 * (24 + 8 * new) + 8) 2 = 1 := by
  unfold publishedWord
  rw [bits_setBits_other _ _ _ _ _ _ (by omega), bits_setBits]
  rfl

theorem publishedWord_rset : bits (publishedWord a old new e arg v) (8 * (24 + 8 * old) + 10) 1 = 1 := by
  unfold publishedWord
  rw [bits_setBits_other _ _ _ _ _ _ (by omega), bits_setBits_other _ _ _ _ _ _ (by omega), bits_setBits_other _ _ _ _ _ _ (by omega),
    bits_setBits_other _ _ _ _ _ _ (by omega), bits_setBits]
  rfl

theorem publishedWord_counter : bits (publishedWord a old new e arg v) (8 * (24 + 8 * old) + 16) 6 = e % 2 ^ 6 := by
  unfold publishedWord
  rw [bits_setBits_other _ _ _ _ _ _ (by omega), bits_setBits_other _ _ _ _ _ _ (by omega), bits_setBits_other _ _ _ _ _ _ (by omega), bits_setBits]

theorem publishedWord_value : bits (publishedWord a old new e arg v) (8 * (24 + 8 * old) + 32) 32 = arg % 2 ^ 32 := by
  unfold publishedWord
  rw [bits_setBits_other _ _ _ _ _ _ (by omega), bits_setBits_other _ _ _ _ _ _ (by omega), bits_setBits]
end

theorem publishedWord_lt {a old new e arg v : Nat} (lt : a < 2 ^ 512) (ho : old < 4) (hn : new < 4) : publishedWord a old new e arg v < 2 ^ 512 := by
  unfold publishedWord
  have one := setBits_lt a (8 * (24 + 8 * old) + 10) 1 1 512 lt (by omega)
  have two := setBits_lt _ (8 * (24 + 8 * old) + 16) 6 e 512 one (by omega)
  have three := setBits_lt _ (8 * (24 + 8 * old) + 32) 32 arg 512 two (by omega)
  have four := setBits_lt _ (8 * (24 + 8 * new) + 8) 2 1 512 three (by omega)
  exact setBits_lt _ 0 8 v 512 four (by omega)

/-- The record's unreserved bits, entry by entry. -/
theorem bufEntry_mask (rec : Nat) {b : Nat} (lt : b < 4) : bits (rec &&& verRecMask) (8 * (24 + 8 * b)) 64 = bufEntry rec b &&& bufMask := by
  have mask : ∀ b < 4, bits verRecMask (8 * (24 + 8 * b)) 64 = bufMask := by decide +kernel
  rw [bits_and, mask b lt]
  rfl

theorem bits_bufEntry_mask (rec : Nat) {b : Nat} (lt : b < 4) {lo w : Nat} (fits : lo + w ≤ 64) :
    bits (rec &&& verRecMask) (8 * (24 + 8 * b) + lo) w = bits (bufEntry rec b) lo w &&& bits bufMask lo w := by
  rw [← bits_bits _ _ 64 _ _ fits, bufEntry_mask rec lt, bits_and]

/-- What a PUBLISH writes: every entry's unreserved bits, the version, the new buffer live and the old buffer's release condition. -/
structure Published (rec old new e arg v w : Nat) : Prop where
  version : bits w 0 8 = v
  head : bits w 8 184 = bits (rec &&& verRecMask) 8 184
  live : bufState (bufEntry w new) = 1 ∧ bufVer (bufEntry w new) = bufVer (bufEntry rec new)
  release : bufRset (bufEntry w old) = true ∧ bits (bufEntry w old) 16 6 = e ∧ bits (bufEntry w old) 32 32 = arg
  others : ∀ b < 4, b ≠ new → b ≠ old → bufEntry w b = bufEntry rec b &&& bufMask
  reserved : (∀ b < 4, bufEntry w b &&& bufMask = bufEntry w b) ∧ bits w 448 64 = 0

theorem published_word (rec : Nat) {old new e arg v : Nat} (ho : old < 4) (hn : new < 4) (he : e < 2 ^ 6) (ha : arg < 2 ^ 32)
    (hv : v < 2 ^ 8) : Published rec old new e arg v (publishedWord (rec &&& verRecMask) old new e arg v) := by
  obtain ⟨w, hw⟩ : ∃ w, w = publishedWord (rec &&& verRecMask) old new e arg v := ⟨_, rfl⟩
  have entry : ∀ b lo n, lo + n ≤ 64 → bits (bufEntry w b) lo n = bits w (8 * (24 + 8 * b) + lo) n := fun b lo n fits => bits_bits _ _ 64 _ _ fits
  rw [← hw]
  refine ⟨?_, ?_, ⟨?_, ?_⟩, ⟨?_, ?_, ?_⟩, fun b lt n o => ?_, fun b lt => ?_, ?_⟩
  · rw [hw, publishedWord_version, Nat.mod_eq_of_lt hv]
  · rw [hw]
    exact bits_publishedWord _ _ _ _ (by decide) (by omega) (by omega)
  · rw [bufState, entry _ _ _ (by decide), hw]
    exact publishedWord_live ..
  · rw [bufVer, entry _ _ _ (by decide), hw, bits_publishedWord _ _ _ _ (by omega) (by omega) (by omega), bits_bufEntry_mask rec hn (by decide)]
    have low : bits bufMask 0 8 = 2 ^ 8 - 1 := by decide
    rw [low, Nat.and_two_pow_sub_one_eq_mod]
    exact Nat.mod_eq_of_lt (bits_lt _ _ _)
  · rw [bufRset, bit, entry _ _ _ (by decide), hw, publishedWord_rset]
    rfl
  · rw [entry _ _ _ (by decide), hw, publishedWord_counter, Nat.mod_eq_of_lt he]
  · rw [entry _ _ _ (by decide), hw, publishedWord_value, Nat.mod_eq_of_lt ha]
  · rw [← bufEntry_mask rec lt, bufEntry, hw]
    exact bits_publishedWord _ _ _ _ (by omega) (by omega) (by omega)
  · refine and_bufMask (bits_lt _ _ _) ?_ ?_
    · have zero : bits bufMask 11 5 = 0 := by decide
      rw [entry _ _ _ (by decide), hw, bits_publishedWord _ _ _ _ (by omega) (by omega) (by omega), bits_bufEntry_mask rec lt (by decide), zero, Nat.and_zero]
    · have zero : bits bufMask 22 10 = 0 := by decide
      rw [entry _ _ _ (by decide), hw, bits_publishedWord _ _ _ _ (by omega) (by omega) (by omega), bits_bufEntry_mask rec lt (by decide), zero, Nat.and_zero]
  · have zero : bits verRecMask 448 64 = 0 := by decide +kernel
    rw [hw, bits_publishedWord _ _ _ _ (by decide) (by omega) (by omega), bits_and, zero, Nat.and_zero]

/-! ## PUBLISH (R258) -/

theorem onlyWrites_demand (d : Demand s t) : OnlyWrites s t := ⟨d.mem_frame, d.calm⟩

theorem onlyWrites_storeVa (s : State) (unit tid va pa : Nat) (pcopy : Bool) (n v : Nat) : OnlyWrites s (s.storeVa unit tid va pa pcopy n v) :=
  ⟨memFrame_storeVa .., calm_storeVa ..⟩

section
variable {m : MillIx} {va : Nat} {r : BitVec 512} {rec pa tid rva n v new old : Nat} {q : State}

/-- A PUBLISH whose record answers, and whose target buffer is written. -/
theorem publish_writes (head : s.millHead m.val 2 = .ready va r) (ht : tid = (Record.desc r 0).tid) (ha : rva = Entry.verAddr (s.entry tid))
    (hn : n = Entry.nver (s.entry tid) + 1) (hv : v = (bits rec 0 8 + 1) % 256) (hnew : new = v % n) (hold : old = bits rec 0 8 % n)
    (hq : q = ((s.traceBegin 8 m.val r 0).seenEntries (640 + m.val) [tid]).seen (640 + m.val) 0 rva 64)
    (named : s.names tid = true) (versioned : s.versioned tid = true) (read : q.vread rva 64 = .ok rec)
    (written : bufState (bufEntry rec new) = 2) (holds : bufVer (bufEntry rec new) = v) (place : q.translate rva .write = .ok pa false)
    {P : State → Prop} (post : P ((q.storeVa (640 + m.val) 0 rva pa false 64
      (publishedWord (rec &&& verRecMask) old new (bits (Record.opd r 1) 0 6) (Record.arg r) v)).millCommit m.val r)) : Does (.publish m) s P := by
  have begun := frame_millBegin s m.val r
  have alike : ReadsAlike s (s.traceBegin 8 m.val r 0) := begun.readsAlike id id (traced_traceBegin s 8 m.val r 0).quiet.2.1
  have job : (s.traceBegin 8 m.val r 0).job = s.job := by simp [begun.rest]
  have reads : OnlyWrites (s.traceBegin 8 m.val r 0) q := by
    rw [hq]
    exact onlyWrites_demand ((demand_seenEntries _ _ _).trans (demand_seen _ _ _ _ _))
  refine does_millRow (t := q.storeVa (640 + m.val) 0 rva pa false 64
    (publishedWord (rec &&& verRecMask) old new (bits (Record.opd r 1) 0 6) (Record.arg r) v)) rfl head ?_ ?_ post
  · dsimp only
    have vers : (s.traceBegin 8 m.val r 0).versioned tid = true := by
      unfold State.versioned
      rw [alike.entry job]
      exact versioned
    rw [← ht, if_neg (by rw [alike.names job, named, vers]; decide), alike.entry job, ← ha, ← hq, read]
    dsimp only
    rw [← hn, ← hv, ← hnew, ← hold, if_neg (by rw [written, holds]; simp), State.vwrite, place]
    rfl
  · rw [(onlyWrites_storeVa ..).mill, reads.mill]
    exact halted_begin head

end

theorem bytes64 : (256 : Nat) ^ 64 = 2 ^ 512 := by rw [show (256 : Nat) = 2 ^ 8 from rfl, ← pow_mul]

/-- Settles O31. -/
theorem millTablesAndVersions : Obligations.MillTablesAndVersions := by
  unfold Obligations.MillTablesAndVersions
  intro m s va r d begun evs
  refine ⟨fun s1 head => ?_, fun kat s1 s2 head tabled => ?_, fun rec pa safe head => ?_⟩
  · intro nl d1 zeroed
    obtain ⟨t, ran, commit, mem, evc, frame, calm⟩ := tables_sets head zeroed
    unfold Mill.CommitOnly at commit
    refine ⟨t, ran, ?_⟩
    dsimp only
    rw [commit]
    exact ⟨rfl, rfl, rfl, rfl, rfl, rfl, rfl, mem, evc, frame, calm⟩
  · intro n
    exact fun zeroed saved => step_counts rfl head tabled zeroed saved
  · intro tid rva n v new old q named versioned read written holds _ place
    have fits : n ≤ 4 := bits_lt (s.entry tid) 192 2
    have newLt : new < 4 := lt_of_lt_of_le (Nat.mod_lt _ (Nat.succ_pos _)) fits
    have oldLt : old < 4 := lt_of_lt_of_le (Nat.mod_lt _ (Nat.succ_pos _)) fits
    have argLt : Record.arg r < 2 ^ 32 := bits_lt _ _ _
    obtain ⟨w, hw⟩ : ∃ w, w = publishedWord (rec &&& verRecMask) old new (bits (Record.opd r 1) 0 6) (Record.arg r) v := ⟨_, rfl⟩
    have recLt : rec < 2 ^ 512 := by
      have lt := vread_lt read
      rwa [bytes64] at lt
    have wLt : w < 2 ^ 512 := by
      rw [hw]
      exact publishedWord_lt (lt_of_le_of_lt Nat.and_le_left recLt) oldLt newLt
    have word : Published rec old new (bits (Record.opd r 1) 0 6) (Record.arg r) v w := by
      rw [hw]
      exact published_word rec oldLt newLt (bits_lt _ _ _) argLt (Nat.mod_lt _ (by decide))
    have reads : OnlyWrites begun q := onlyWrites_demand ((demand_seenEntries _ _ _).trans (demand_seen _ _ _ _ _))
    have qmem : q.mem = s.mem :=
      ((demand_seenEntries begun _ _).trans (demand_seen _ _ _ _ _)).mem.trans (frame_millBegin s m.val r).mem
    have stores := onlyWrites_storeVa q (640 + m.val) 0 rva pa false 64 w
    obtain ⟨evc, mem, frame, calm⟩ := millCommits_written (r := r) (frame_millBegin s m.val r) (traced_traceBegin s 8 m.val r 0).quiet (reads.trans stores)
    have commit := commitOnly_millCommit (q.storeVa (640 + m.val) 0 rva pa false 64 w) m.val r
    unfold Mill.CommitOnly at commit
    refine publish_writes head rfl rfl rfl rfl rfl rfl rfl named versioned read written holds place ?_
    rw [← hw]
    have stored : ((q.storeVa (640 + m.val) 0 rva pa false 64 w).millCommit m.val r).mem = Memory.write s.mem pa 64 w := by
      rw [mem, mem_storeVa, if_neg (by decide), qmem]
    have wf : Memory.wf s.mem = true := safe.1
    have back : Memory.read ((q.storeVa (640 + m.val) 0 rva pa false 64 w).millCommit m.val r).mem pa 64 = w := by
      rw [stored, Memory.read_write _ _ _ wf]
      exact Nat.mod_eq_of_lt (by rwa [bytes64])
    rw [back]
    refine ⟨word.version, word.head, word.live.1, word.live.2.trans holds, word.release.1, word.release.2.1, word.release.2.2, word.others, word.reserved.1,
      word.reserved.2, fun a out => ?_, evc, ?_, frame, calm⟩
    · rw [stored]
      exact Memory.byte_write_other _ _ _ _ wf out
    · rw [commit, (reads.trans stores).mill]
      exact congrArg (List.drop 1) (mill_begin s m.val r).buf

end Sys2Proof
end

section
/-! PROOFS. UPDATE: its begin and its claims (R257, R260, R264 to R268, R279). -/

namespace Sys2Proof

open Machine

variable {s t b : State} {m : MillIx} {va x rcp : Nat} {r : BitVec 512}

/-! ## An UPDATE begins -/

/-- The record of an UPDATE that begins. -/
def Machine.State.updCmd (s : State) (m va : Nat) (r : BitVec 512) (x rcp : Nat) : Cmd :=
  { r := r, va := va, begun := true, tBegin := s.now (640 + m), cnt0 := s.reg64 (Reg.obsMill m)
    scales := [x, rcp, biasOf rcp 1 (s.reg (Reg.millStep m)).toNat, biasOf rcp 2 (s.reg (Reg.millStep m)).toNat]
    ver := [if (Record.desc r 0).tid ≠ 0 ∧ s.versioned (Record.desc r 0).tid then 300 else 256,
      if Upd.shadow x ≠ 0 ∧ s.versioned (Upd.shadow x) then 300 else 256]
    vtid := [(Record.desc r 0).tid, Upd.shadow x], sums := List.replicate 96 0 }

/-- What the reads of an UPDATE's begin do to the granary. -/
def Machine.State.updSeen (s : State) (m : Nat) (r : BitVec 512) (x : Nat) : State :=
  ((s.seen (640 + m) 0 ((s.mill m).utab + Record.argBits r 0 24 * 32) 32).seen (640 + m) 0 ((s.mill m).rtab + Upd.rslot x * 256) 256).seenEntries
    (640 + m) ((updTensors x).map (·.2))

/-- The front record of a Mill enters its queue, and the training has gone on. -/
def Machine.State.updEnters (s : State) (m : Nat) (r : BitVec 512) (c : Cmd) : State :=
  let s1 := (s.traceBegin 8 m r 0).millPop m
  let s2 := { s1 with job := { s1.job with rollForward := true } }
  s2.setMill m { s2.mill m with q := (s2.mill m).q ++ [c] }

theorem updEnters_spec (s : State) (m : Nat) (r : BitVec 512) (c : Cmd) :
    ((s.updEnters m r c).mill m).q = (s.mill m).q ++ [c] ∧ ((s.updEnters m r c).mill m).buf = (s.mill m).buf.drop 1 ∧
    (s.updEnters m r c).job.rollForward = true ∧ (s.updEnters m r c).mem = s.mem ∧ (∀ a, (s.updEnters m r c).reg a = s.reg a) ∧
    Quiet s (s.updEnters m r c) := by
  have begun := frame_millBegin s m r
  have quiet := (traced_traceBegin s 8 m r 0).quiet
  have ring := mill_begin s m r
  unfold Mill.RingOnly at ring
  unfold State.updEnters
  generalize s.traceBegin 8 m r 0 = b at begun quiet ring
  dsimp only
  have popped : (b.millPop m).mill m = { b.mill m with buf := (b.mill m).buf.drop 1 } := (State.mill_setMill ..).trans (if_pos rfl)
  refine ⟨?_, ?_, rfl, begun.mem, fun a => begun.reg a id, quiet.trans ⟨rfl, rfl, rfl⟩⟩
  · rw [State.mill_setMill, if_pos rfl]
    show ((b.millPop m).mill m).q ++ [c] = _
    rw [popped, ring]
  · rw [State.mill_setMill, if_pos rfl]
    show ((b.millPop m).mill m).buf = _
    rw [popped, ring]

theorem updBegin_begins (tabled : (s.mill m.val).tabled = true)
    (entry : s.vread ((s.mill m.val).utab + Record.argBits r 0 24 * 32) 32 = .ok x)
    (recipe : s.vread ((s.mill m.val).rtab + Upd.rslot x * 256) 256 = .ok rcp) (tables : s.entryFault ((updTensors x).map (·.2)) = none)
    (param : s.tensorRefused (Record.desc r 0).tid = false) (shadow : s.tensorRefused (Upd.shadow x) = false)
    (rules : s.updEntryOk x (Record.desc r 0) = true) (program : (Recipe.program rcp).isSome = true)
    (owns : s.ownedBy m.val (Record.desc r 0).tid = true) (ownsShadow : Upd.shadow x = 0 ∨ s.ownedBy m.val (Upd.shadow x) = true) :
    s.updBegin m.val va r = (s.updSeen m.val r x).updEnters m.val r (s.updCmd m.val va r x rcp) := by
  have none_ : (Recipe.program rcp).isNone = false := by rw [← Option.not_isSome, program]; rfl
  have own : (Upd.shadow x != 0 && !s.ownedBy m.val (Upd.shadow x)) = false := by
    rcases ownsShadow with zero | yes
    · simp [zero]
    · simp [yes]
  unfold State.updBegin
  dsimp only
  rw [tabled, if_neg (by decide), entry]
  dsimp only
  rw [recipe]
  dsimp only
  rw [tables]
  dsimp only
  rw [if_neg (by rw [rules, none_, owns, own, param, shadow]; decide)]
  rfl

/-! ## A claim (R257) -/

/-- Tensor `tid`'s version record answers, and the buffer that the next version takes is free or its release condition is one that is set. -/
structure Claimable (s : State) (tid rec : Nat) : Prop where
  read : s.vread (Entry.verAddr (s.entry tid)) 64 = .ok rec
  state : bufState (bufEntry rec ((bits rec 0 8 + 1) % 256 % (Entry.nver (s.entry tid) + 1))) = 0 ∨
    (bufState (bufEntry rec ((bits rec 0 8 + 1) % 256 % (Entry.nver (s.entry tid) + 1))) = 1 ∧
      bufRset (bufEntry rec ((bits rec 0 8 + 1) % 256 % (Entry.nver (s.entry tid) + 1))) = true)

/-- The word of a claimed buffer: writing, at its version. -/
def claimedWord (y v : Nat) : Nat := setBits (setBits (y &&& bufMask) 8 2 2) 0 8 v

theorem claimedWord_spec (y : Nat) {v : Nat} (lt : v < 256) : bufState (claimedWord y v) = 2 ∧ bufVer (claimedWord y v) = v ∧ claimedWord y v < 2 ^ 64 := by
  unfold claimedWord bufState bufVer
  refine ⟨?_, ?_, ?_⟩
  · rw [bits_setBits_other _ _ _ _ _ _ (by decide), bits_setBits]
    rfl
  · rw [bits_setBits]
    exact Nat.mod_eq_of_lt lt
  · have masked : y &&& bufMask < 2 ^ 64 := lt_of_le_of_lt Nat.and_le_right (by decide)
    exact setBits_lt _ _ _ _ _ (setBits_lt _ _ _ _ _ masked (by decide)) (by decide)

/-- The buffer's word written by a compare-and-swap at its home. -/
def Machine.State.claimed (s : State) (m : Nat) (va ba pa y v : Nat) : State :=
  (((s.seen (640 + m) 0 va 64).atHome (640 + m) 0 ba pa 8).storeHome 0 pa false 8 (claimedWord y v)).add64 (Reg.atomics (pa / 2 ^ 38)) 1

section
variable {tid rec pa : Nat} {c : Cmd} (able : Claimable s tid rec)
include able

theorem claim_takes {m : Nat} (place : s.translate (Entry.verAddr (s.entry tid) + 24 + 8 * ((bits rec 0 8 + 1) % 256 % (Entry.nver (s.entry tid) + 1))) .atomic =
      .ok pa false)
    (free : bufState (bufEntry rec ((bits rec 0 8 + 1) % 256 % (Entry.nver (s.entry tid) + 1))) = 1 →
      waitMet (s.millEvc m (bits (bufEntry rec ((bits rec 0 8 + 1) % 256 % (Entry.nver (s.entry tid) + 1))) 16 6))
        (bits (bufEntry rec ((bits rec 0 8 + 1) % 256 % (Entry.nver (s.entry tid) + 1))) 32 32) = true) :
    s.claim m c tid = .got (s.claimed m (Entry.verAddr (s.entry tid))
      (Entry.verAddr (s.entry tid) + 24 + 8 * ((bits rec 0 8 + 1) % 256 % (Entry.nver (s.entry tid) + 1))) pa
      (bufEntry rec ((bits rec 0 8 + 1) % 256 % (Entry.nver (s.entry tid) + 1))) ((bits rec 0 8 + 1) % 256)) (bits rec 0 8) (bits rec 32 24) := by
  obtain ⟨read, state⟩ := able
  unfold State.claim
  dsimp only
  rw [read]
  dsimp only
  generalize bufEntry rec ((bits rec 0 8 + 1) % 256 % (Entry.nver (s.entry tid) + 1)) = y at *
  rw [place]
  dsimp only
  rcases state with zero | ⟨one, set_⟩
  · rw [if_neg (by unfold bufRefused; rw [zero]; simp), if_pos zero]
    rfl
  · rw [if_neg (by unfold bufRefused; rw [one, set_]; simp), if_neg (by rw [one]; decide), if_pos one, if_pos (free one)]
    rfl

theorem claim_waits {m : Nat} (one : bufState (bufEntry rec ((bits rec 0 8 + 1) % 256 % (Entry.nver (s.entry tid) + 1))) = 1)
    (waits : waitMet (s.millEvc m (bits (bufEntry rec ((bits rec 0 8 + 1) % 256 % (Entry.nver (s.entry tid) + 1))) 16 6))
        (bits (bufEntry rec ((bits rec 0 8 + 1) % 256 % (Entry.nver (s.entry tid) + 1))) 32 32) = false) :
    s.claim m c tid = .pinned := by
  obtain ⟨read, state⟩ := able
  unfold State.claim
  dsimp only
  rw [read]
  dsimp only
  generalize bufEntry rec ((bits rec 0 8 + 1) % 256 % (Entry.nver (s.entry tid) + 1)) = y at *
  have set_ : bufRset y = true := state.elim (fun zero => absurd (zero.symm.trans one) (by decide)) And.right
  rw [if_neg (by unfold bufRefused; rw [one, set_]; simp), if_neg (by rw [one]; decide), if_pos one, if_neg (by rw [waits]; decide)]

end

theorem demand_atHome (s : State) (unit tid va pa n : Nat) : Demand s (s.atHome unit tid va pa n) :=
  (demand_walkLines s unit va).trans (demand_readLine _ _ _ _ _)

/-- What a claim leaves as it is. -/
structure Taken (pa w : Nat) (s t : State) : Prop where
  mem : t.mem = Memory.write s.mem pa 8 w
  mill : ∀ i, t.mill i = s.mill i
  reg : ∀ a, ¬ GranReg a → a ≠ Reg.atomics (pa / 2 ^ 38) → a ≠ Reg.atomics (pa / 2 ^ 38) + 4 → t.reg a = s.reg a
  calm : Calm s t

theorem taken_claimed (s : State) (m va ba pa y v : Nat) : Taken pa (claimedWord y v) s (s.claimed m va ba pa y v) := by
  obtain ⟨u, met, e⟩ := ((demand_seen s (640 + m) 0 va 64).trans (demand_atHome _ (640 + m) 0 ba pa 8)).storeHome 0 pa 8 (claimedWord y v)
  have writes := onlyWrites_demand met
  unfold State.claimed
  rw [e]
  refine ⟨rfl, writes.mill, fun a gran low high => ?_, writes.calm.trans (Quiet.calm ⟨rfl, rfl, rfl⟩)⟩
  exact (State.reg_setReg ..).trans ((if_neg high).trans ((State.reg_setReg ..).trans ((if_neg low).trans (writes.reg gran))))

/-- The version that a claim notes in its record: past every version where the parameter's own cannot be read. -/
def Machine.State.claimedVer (s : State) (k tid rec : Nat) : Nat := if k = 0 ∧ s.readerOk tid = false then 512 + bits rec 0 8 else bits rec 0 8

/-- What a claim does to memory and to its record. -/
structure Claims (m i k pa v : Nat) (c : Cmd) (ver : Nat) (s t : State) : Prop where
  state : bufState (Memory.read t.mem pa 8) = 2
  version : bufVer (Memory.read t.mem pa 8) = v
  others : ∀ a, a < pa ∨ pa + 8 ≤ a → Memory.byte t.mem a = Memory.byte s.mem a
  record : ∃ d, (t.mill m).q[i]? = some d ∧ d.r = c.r ∧ d.ver = c.ver.set k ver
  calm : Calm s t

theorem queue_mill (s : State) (m : Nat) : s.queue 8 m = (s.mill m).q := rfl

section
variable {i k tid rec pa v y rtid : Nat} {c : Cmd}

theorem updClaim_claims {m : Nat} (safe : Memory.wf s.mem = true) (queued : (s.mill m).q[i]? = some c) (hv : v < 256)
    (taken : Taken pa (claimedWord y v) s t) (first : k = 0 → c.vtid.getD 0 0 = tid)
    (got : s.claim m c (c.vtid.getD k 0) = .got t (bits rec 0 8) rtid) :
    Claims m i k pa v c (s.claimedVer k tid rec) s (s.updClaim m i c k) ∧ ∃ d, s.updClaim m i c k = t.setUpd m i d := by
  have ver : (if k = 0 ∧ !s.readerOk (c.vtid.getD 0 0) then 512 + bits rec 0 8 else bits rec 0 8) = s.claimedVer k tid rec := by
    unfold State.claimedVer
    by_cases zero : k = 0
    · rw [first zero]
      simp
    · rw [if_neg (fun e => zero e.1), if_neg (fun e => zero e.1)]
  have step : s.updClaim m i c k = t.setUpd m i { c with ver := c.ver.set k (s.claimedVer k tid rec), vtid := c.vtid.set k rtid } := by
    unfold State.updClaim
    rw [got]
    dsimp only
    rw [ver]
  rw [step]
  refine ⟨?_, _, rfl⟩
  obtain ⟨state, version, lt⟩ := claimedWord_spec y hv
  have back : Memory.read (t.setUpd m i { c with ver := c.ver.set k (s.claimedVer k tid rec), vtid := c.vtid.set k rtid }).mem pa 8 = claimedWord y v := by
    rw [show (t.setUpd m i _).mem = t.mem from rfl, taken.mem, Memory.read_write _ _ _ safe]
    exact Nat.mod_eq_of_lt lt
  refine ⟨by rw [back, state], by rw [back, version], fun a out => ?_, ?_, taken.calm.trans (quiet_setCmd t 8 m i _).calm⟩
  · rw [show (t.setUpd m i _).mem = t.mem from rfl, taken.mem]
    exact Memory.byte_write_other _ _ _ _ safe out
  · refine ⟨_, getElem_setCmd (st := 8) (u := m) (d := c) (by decide) (by decide) ?_ _, rfl, rfl⟩
    rw [queue_mill, taken.mill]
    exact queued

end

/-! ## Claims that go on, and claims that wait (R257, R279) -/

/-- A stall ends: its cycles counted, and its flag cleared. -/
def Machine.State.unpinned (s : State) (m : Nat) : State :=
  let s1 := ((s.setReg64 (Reg.vpinCyc m) (min (2 ^ 64 - 1) (s.reg64 (Reg.vpinCyc m) + s.fresh))).clearBit (Reg.millStat m) 25).spend
  s1.setMill m { s1.mill m with pinT := none }

def PinRegs (m a : Nat) : Prop := a = Reg.vpinCyc m ∨ a = Reg.vpinCyc m + 4 ∨ a = Reg.millStat m

theorem frame_unpinned (s : State) (m : Nat) : Frame (PinRegs m) Nothing Nothing (· = m) s (s.unpinned m) := by
  unfold State.unpinned
  dsimp only
  generalize min (2 ^ 64 - 1) (s.reg64 (Reg.vpinCyc m) + s.fresh) = n
  refine Frame.trans ?_ (frame_setMill_self _ m _)
  exact ((frame_setReg64 s _ n (.inl rfl) (.inr (.inl rfl))).trans (frame_clearBit _ _ _ (.inr (.inr rfl)))).trans (frame_spend _)

theorem millBase_high (m : Nat) : 0x10000000 ≤ millBase m := by
  unfold millBase suitBase
  omega

theorem pinRegs_low {m a : Nat} (low : a < 0x10000000) : ¬ PinRegs m a := by
  have high := millBase_high m
  rintro (e | e | e) <;> simp only [Reg.vpinCyc, Reg.millStat] at e <;> omega

theorem pinRegs_evc {m c : Nat} : ¬ PinRegs m (Reg.millEvc m c) := by
  rintro (e | e | e) <;> simp only [Reg.vpinCyc, Reg.millStat, Reg.millEvc] at e <;> omega

theorem readerOk_alike (alike : ReadsAlike s t) (job : t.job = s.job) (tid : Nat) : t.readerOk tid = s.readerOk tid := by
  unfold State.readerOk
  rw [alike.entry job, alike.vread]

/-- A stall's end leaves what a claim reads. -/
structure ClaimsAlike (m : Nat) (s t : State) : Prop where
  alike : ReadsAlike s t
  job : t.job = s.job
  evc : ∀ c, t.millEvc m c = s.millEvc m c
  queue : (t.mill m).q = (s.mill m).q
  quiet : Quiet s t

theorem claimsAlike_unpinned (s : State) (m : Nat) : ClaimsAlike m s (s.unpinned m) := by
  have frame := frame_unpinned s m
  refine ⟨frame.readsAlike (pinRegs_low (by decide)) (pinRegs_low (by decide)) rfl, rfl, fun c => frame.reg _ pinRegs_evc, ?_, rfl, rfl, rfl⟩
  unfold State.unpinned
  dsimp only
  rw [State.mill_setMill, if_pos rfl]
  rfl

theorem ClaimsAlike.claimable {m tid rec : Nat} (a : ClaimsAlike m s t) (able : Claimable s tid rec) : Claimable t tid rec := by
  obtain ⟨read, state⟩ := able
  exact ⟨by rw [a.alike.entry a.job, a.alike.vread]; exact read, by rw [a.alike.entry a.job]; exact state⟩

theorem ClaimsAlike.claimedVer {m : Nat} (a : ClaimsAlike m s t) (k tid rec : Nat) : t.claimedVer k tid rec = s.claimedVer k tid rec := by
  unfold State.claimedVer
  rw [readerOk_alike a.alike a.job]

theorem Claims.before {m i k pa v ver : Nat} {c : Cmd} (x : Claims m i k pa v c ver b t) (mem : b.mem = s.mem) (quiet : Quiet s b) :
    Claims m i k pa v c ver s t := ⟨x.state, x.version, fun a out => by rw [x.others a out, mem], x.record, quiet.calm.trans x.calm⟩

section
variable {i k rec pa : Nat} {c : Cmd} (active : s.active 8 m.val = some (i, c)) (runs : s.stRuns 8 m.val = true) (open_ : c.unclaimed = some k)
include active runs open_

theorem execUpdate_claims (op : Record.opcode c.r = 1) (unpinned : (s.mill m.val).pinT = none) :
    execUpdate m s = .next (s.updClaim m.val i c k) := by
  unfold execUpdate
  rw [active]
  dsimp only
  rw [if_pos (by rw [runs, op]; rfl)]
  unfold State.updWork
  rw [open_]
  dsimp only
  rw [if_neg (by rw [unpinned]; decide)]

omit runs in
theorem execBufferClaim_waits (pinned : s.claim m.val c (c.vtid.getD k 0) = .pinned) : execBufferClaim m s = .next s := by
  unfold execBufferClaim
  rw [active]
  dsimp only
  rw [open_]
  dsimp only
  rw [pinned]
  split_ifs
  · rfl
  · rfl

theorem execBufferClaim_claims {pub rtid : Nat} (pinned : (s.mill m.val).pinT.isSome = true) (got : s.claim m.val c (c.vtid.getD k 0) = .got t pub rtid) :
    execBufferClaim m s = .next ((s.unpinned m.val).updClaim m.val i c k) := by
  have some_ : (s.mill m.val).pinT.isNone = false := by rw [← Option.not_isSome, pinned]; rfl
  unfold execBufferClaim
  rw [active]
  dsimp only
  rw [open_]
  dsimp only
  rw [got, if_neg (by rw [some_, runs]; decide)]
  rfl

end

theorem millStat_not_claimed (m pa : Nat) : ¬ GranReg (Reg.millStat m) ∧ Reg.millStat m ≠ Reg.atomics (pa / 2 ^ 38) ∧
    Reg.millStat m ≠ Reg.atomics (pa / 2 ^ 38) + 4 := by
  have e : Reg.millStat m = suitBase (m / 2) + (0x50000 + (m % 2) * 0x10000) := by
    unfold Reg.millStat millBase
    omega
  generalize pa / 2 ^ 38 = i
  refine ⟨?_, ?_, ?_⟩
  · rw [e]
    exact not_granReg_suitBase (by omega) (by omega)
  · rw [e]
    unfold Reg.atomics suitBase
    omega
  · rw [e]
    unfold Reg.atomics suitBase
    omega

/-- An UPDATE that stalls: the stall counted, flagged, and its time noted. -/
def Machine.State.stalled (s : State) (m n : Nat) : State :=
  let s1 := (s.setReg (Reg.vpinEvt m) (BitVec.ofNat 32 n)).setBit (Reg.millStat m) 25
  s1.setMill m { s1.mill m with pinT := some (s.now (640 + m)) }

theorem frame_stalled (s : State) (m n : Nat) :
    Frame Nothing Nothing Nothing (· = m) ((s.setReg (Reg.vpinEvt m) (BitVec.ofNat 32 n)).setBit (Reg.millStat m) 25) (s.stalled m n) :=
  frame_setMill_self _ m _

theorem vpinEvt_stalled (s : State) (m : Nat) {n : Nat} (fits : n < 2 ^ 32) : ((s.stalled m n).reg (Reg.vpinEvt m)).toNat = n := by
  have apart : Reg.vpinEvt m ≠ Reg.millStat m := by
    unfold Reg.vpinEvt Reg.millStat
    omega
  have e : (s.stalled m n).reg (Reg.vpinEvt m) = BitVec.ofNat 32 n :=
    ((frame_stalled s m n).reg _ id).trans ((State.reg_setField_other _ _ _ _ _ _ apart).trans ((State.reg_setReg ..).trans (if_pos rfl)))
  rw [e, BitVec.toNat_ofNat]
  exact Nat.mod_eq_of_lt fits

theorem stalled_spec (s : State) (m n : Nat) : ((s.stalled m n).mill m).pinT = some (s.now (640 + m)) ∧
    (s.stalled m n).flag (Reg.millStat m) 25 = true ∧ (s.stalled m n).mem = s.mem := by
  refine ⟨?_, (State.flag_congr ((frame_stalled s m n).reg _ id) 25).trans (State.flag_setBit _ _ 25 (by decide)), (frame_stalled s m n).mem.trans rfl⟩
  unfold State.stalled
  dsimp only
  rw [State.mill_setMill, if_pos rfl]

theorem updClaim_stalls {i k : Nat} {c : Cmd} (pinned : s.claim m.val c (c.vtid.getD k 0) = .pinned) :
    s.updClaim m.val i c k = s.stalled m.val (min (2 ^ 32 - 1) ((s.reg (Reg.vpinEvt m.val)).toNat + 1)) := by
  unfold State.updClaim
  rw [pinned]
  rfl

end Sys2Proof
end

section
/-! PROOFS. UPDATE: block after block (R265 to R274). -/

namespace Sys2Proof

open Machine

variable {s t b : State}

/-! ## Tiles read and written by a Mill -/

/-- A Mill's tiles read, or written: its registers and its records stay. -/
structure MillWorks (s t : State) : Prop where
  reg : ∀ a, ¬ GranReg a → t.reg a = s.reg a
  mill : ∀ i, (s.mill i).RingOnly (t.mill i)

theorem MillWorks.refl (s : State) : MillWorks s s := ⟨fun _ _ => rfl, fun _ => .refl _⟩

theorem MillWorks.trans (x : MillWorks s t) (y : MillWorks t b) : MillWorks s b :=
  ⟨fun a off => (y.reg a off).trans (x.reg a off), fun i => (x.mill i).trans (y.mill i)⟩

theorem OnlyWrites.works (x : OnlyWrites s t) : MillWorks s t := ⟨fun _ => x.reg, fun i => by rw [x.mill]; exact .refl _⟩

theorem millWorks_demand (d : Demand s t) : MillWorks s t := (onlyWrites_demand d).works

theorem millWorks_millTile {m tid rtid ver r c : Nat} {cmd : Cmd} {x : Tile} (read : s.millTile m cmd tid rtid ver r c = .ok (t, x)) : MillWorks s t := by
  unfold State.millTile at read
  dsimp only at read
  split at read
  · obtain ⟨rfl, -⟩ := Prod.mk.inj (Except.ok.inj read)
    exact millWorks_demand (demand_seenTile _ _ _ _ _)
  · cases read
  · cases read
  · split at read
    · obtain ⟨rfl, -⟩ := Prod.mk.inj (Except.ok.inj read)
      have seen : ∀ (s : State) (a b : Nat), MillWorks s (s.seenTile (640 + m) tid a b) := fun s a b => millWorks_demand (demand_seenTile s _ _ _ _)
      have dropped : ∀ (s : State) (a b : Nat), MillWorks s (s.dropLines a b) := fun s a b => millWorks_demand (demand_dropLines s _ _)
      have traced : ∀ (s : State) (x : Trace), MillWorks s (s.traceMill m x) := fun s x => ⟨fun _ _ => rfl, (traced_traceMill s m x).mill⟩
      exact (seen _ _ _).trans ((dropped _ _ _).trans ((seen _ _ _).trans (traced _ _)))
    · cases read
    · cases read

theorem millWorks_millTiles {m tid rtid ver : Nat} {cmd : Cmd} {l : List (Nat × Nat)} {xs : List UTile}
    (read : s.millTiles m cmd tid rtid ver l = .ok (t, xs)) : MillWorks s t := by
  induction l generalizing s xs with
  | nil =>
    cases read
    exact .refl _
  | cons p l ih =>
    unfold State.millTiles at read
    split at read
    · cases read
    · next one =>
      split at read
      · cases read
      · next rest =>
        obtain ⟨rfl, -⟩ := Prod.mk.inj (Except.ok.inj read)
        exact (millWorks_millTile one).trans (ih rest)

/-- The tiles of one tensor over a block, where there is one. -/
theorem millWorks_tensor {m tid rtid ver : Nat} {cmd : Cmd} {l : List (Nat × Nat)} {xs : List UTile}
    (read : (if tid = 0 then .ok (s, []) else s.millTiles m cmd tid rtid ver l) = (.ok (t, xs) : Except State (State × List UTile))) :
    MillWorks s t := by
  split_ifs at read
  · obtain ⟨rfl, -⟩ := Prod.mk.inj (Except.ok.inj read)
    exact .refl s
  · exact millWorks_millTiles read

theorem millWorks_updRead {m r0 c0 h w : Nat} {c : Cmd} {x : UBlock} (read : s.updRead m c r0 c0 h w = .ok (t, x)) : MillWorks s t := by
  unfold State.updRead at read
  dsimp only at read
  split at read
  · cases read
  · next p =>
    split at read
    · cases read
    · next g =>
      split at read
      · cases read
      · next a =>
        split at read
        · cases read
        · next e =>
          obtain ⟨rfl, -⟩ := Prod.mk.inj (Except.ok.inj read)
          exact (millWorks_tensor p).trans ((millWorks_tensor g).trans ((millWorks_tensor a).trans (millWorks_tensor e)))

theorem onlyWrites_writeTile {unit tid hva pva : Nat} {x : Tile} (e : s.writeTile unit tid hva pva x = .ok t) : OnlyWrites s t := by
  unfold State.writeTile at e
  split at e
  · cases e
  · split at e
    · cases e
    · next w1 =>
      split at e
      · cases e
      · next w2 =>
        obtain rfl := Except.ok.inj e
        exact (onlyWrites_vwrite w1).trans (onlyWrites_vwrite w2)

theorem onlyWrites_updWrite {m tid ver : Nat} {l : List (Nat × Nat × Tile)} (write : s.updWrite m tid ver l = .ok t) : OnlyWrites s t := by
  induction l generalizing s with
  | nil =>
    cases write
    exact .refl _
  | cons p l ih =>
    obtain ⟨r, c, x⟩ := p
    unfold State.updWrite at write
    dsimp only at write
    split at write
    · cases write
    · next one => exact (onlyWrites_writeTile one).trans (ih write)

/-- One tensor's tiles written, where there is one, behind the tensors before it. -/
def updNext (w : Except Refuse State) (k : Option Nat) (m tid ver : Nat) (tiles : Nat → List (Nat × Nat × Tile)) : Except Refuse State :=
  match w, k with
  | .ok s, some f => s.updWrite m tid ver (tiles f)
  | r, _ => r

theorem onlyWrites_updNext {w : Except Refuse State} {k : Option Nat} {m tid ver : Nat} {tiles : Nat → List (Nat × Nat × Tile)}
    (before : ∀ u, w = .ok u → OnlyWrites s u) (write : updNext w k m tid ver tiles = .ok t) : OnlyWrites s t := by
  cases w with
  | error f => cases k <;> cases write
  | ok u =>
    cases k with
    | none => exact before t write
    | some f => exact (before u rfl).trans (onlyWrites_updWrite write)

theorem updStore_eq (s : State) (m : Nat) (c : Cmd) (f : UpdFmts) (x : UBlock) (q : Nat × Nat × Nat × Nat) (lastR lastC : Nat)
    (res : List ((Nat × Nat) × Option UpdElem)) : s.updStore m c f x q lastR lastC res =
    let y := c.scales.getD 0 0
    let vp := c.ver.getD 0 256
    let vs := c.ver.getD 1 256
    let w1 := s.updWrite m (Upd.param y) (nextVer vp) (updOuts q lastR lastC res f.p (c.vtid.getD 0 0) vp x.p f.p (·.p))
    let w2 := updNext w1 f.m1 m (Upd.m1 y) (nextVer 256) fun k => updOuts q lastR lastC res k (Upd.m1 y) 256 x.m1 (f.m1.getD 0) (·.m1)
    let w3 := updNext w2 f.m2 m (Upd.m2 y) (nextVer 256) fun k => updOuts q lastR lastC res k (Upd.m2 y) 256 x.m2 (f.m2.getD 0) (·.m2)
    updNext w3 f.sh m (Upd.shadow y) (nextVer vs) fun k => updOuts q lastR lastC res k (c.vtid.getD 1 0) vs x.p f.p (·.sh) := rfl

theorem onlyWrites_updStore {m lastR lastC : Nat} {c : Cmd} {f : UpdFmts} {x : UBlock} {q : Nat × Nat × Nat × Nat}
    {res : List ((Nat × Nat) × Option UpdElem)} (write : s.updStore m c f x q lastR lastC res = .ok t) : OnlyWrites s t := by
  rw [updStore_eq] at write
  exact onlyWrites_updNext (fun _ w3 => onlyWrites_updNext (fun _ w2 => onlyWrites_updNext (fun _ w1 => onlyWrites_updWrite w1) w2) w3) write

end Sys2Proof
end

section
/-! PROOFS. UPDATE settled (R257, R260, R264 to R274, R279). -/

namespace Sys2Proof

open Machine

variable {s t b : State} {m : MillIx}

/-! ## The begin -/

theorem demand_updSeen (s : State) (m : Nat) (r : BitVec 512) (x : Nat) : Demand s (s.updSeen m r x) :=
  ((demand_seen s _ _ _ _).trans (demand_seen _ _ _ _ _)).trans (demand_seenEntries _ _ _)

theorem execUpdate_begin {va : Nat} {r : BitVec 512} (idle : s.active 8 m.val = none) (head : s.millHead m.val 1 = .ready va r) :
    execUpdate m s = .next (s.updBegin m.val va r) := by
  unfold execUpdate
  rw [idle]
  dsimp only
  rw [head]

/-! ## One block -/

theorem unclaimed_lt {c : Cmd} {k : Nat} (open_ : c.unclaimed = some k) : k = 0 ∨ k = 1 := by
  unfold Cmd.unclaimed at open_
  split_ifs at open_ <;> simp_all

section
variable {i : Nat} {c : Cmd} (active : s.active 8 m.val = some (i, c)) (runs : s.stRuns 8 m.val = true) (op : Record.opcode c.r = 1)
  (claimed : c.unclaimed = none)
include active runs op claimed

theorem execUpdate_works : execUpdate m s = .next (if c.out = 0 then
      match s.updFault c with
      | some f => (s.millRefuse m.val f (Record.serial c.r)).millFail m.val
      | none => s.setUpd m.val i { c with out := 1 }
    else s.updStep m.val i c) := by
  unfold execUpdate
  rw [active]
  dsimp only
  rw [if_pos (by rw [runs, op]; rfl)]
  unfold State.updWork
  rw [claimed] <;> rfl

end

/-- The record of an UPDATE once a block is written. -/
def Machine.State.updAfter (s : State) (m : Nat) (c : Cmd) (els : List UpdElem) (t : State) : Cmd :=
  let c1 := { c with out := c.out + 1, sums := lanesAfter s.free c.sums els }
  if c.out = s.updBlocks c then { c1 with complete := true, cnt1 := t.reg64 (Reg.obsMill m) } else c1

/-- Free choices spent. -/
def Machine.State.spending (s : State) (n : Nat) : State := { s with free := s.free + n }

theorem reg64_spending (s : State) (n a : Nat) : (s.spending n).reg64 a = s.reg64 a := rfl

/-- A block's elements counted, with the flags that they raised. -/
def Machine.State.updCounted (s : State) (m : Nat) (els : List UpdElem) : State :=
  ((s.flags (Reg.millStat m) (els.foldl (fun a e => a ||| e.fl) 0)).add64 (Reg.obsMill m) els.length).spending els.length

section
variable {i : Nat} {c : Cmd} {x : UBlock} {s1 s2 : State} {res : List ((Nat × Nat) × Option UpdElem)}

theorem updStep_writes
    (read : s.updRead m.val c (s.updAt c).1 (s.updAt c).2.1 (s.updAt c).2.2.1 (s.updAt c).2.2.2 = .ok (s1, x))
    (valid : badValidity (s.updFmts (c.scales.getD 0 0)) x (blockCells (s.updAt c).1 (s.updAt c).2.1 (s.updAt c).2.2.1 (s.updAt c).2.2.2) = none)
    (results : updResults (s.updFmts (c.scales.getD 0 0)) x c (blockCells (s.updAt c).1 (s.updAt c).2.1 (s.updAt c).2.2.1 (s.updAt c).2.2.2) = res)
    {g : Nat × Nat × Nat × Nat} (region : updRegion (s.entry (Upd.param (c.scales.getD 0 0))) (Record.desc c.r 0) = g)
    (store : s1.updStore m.val c (s.updFmts (c.scales.getD 0 0)) x (s.updAt c) (g.1 + g.2.2.1) (g.2.1 + g.2.2.2) res = .ok s2) :
    s.updStep m.val i c = (s2.updCounted m.val (res.filterMap Prod.snd)).setUpd m.val i
      (s.updAfter m.val c (res.filterMap Prod.snd) (s2.updCounted m.val (res.filterMap Prod.snd))) := by
  unfold State.updStep
  dsimp only
  rw [read]
  dsimp only
  rw [valid]
  dsimp only
  rw [results, region, store]
  dsimp only
  unfold State.updAfter
  dsimp only
  split_ifs
  · rfl
  · rfl

theorem updAfter_spec (waits : c.complete = false) (els : List UpdElem) (t : State) :
    (s.updAfter m.val c els t).r = c.r ∧ (s.updAfter m.val c els t).out = c.out + 1 ∧
      (s.updAfter m.val c els t).complete = decide (c.out = s.updBlocks c) := by
  unfold State.updAfter
  dsimp only
  split_ifs with last
  · exact ⟨rfl, rfl, (decide_eq_true last).symm⟩
  · exact ⟨rfl, rfl, waits.trans (decide_eq_false last).symm⟩

end

theorem obsMill_updCounted (s : State) (m : Nat) (els : List UpdElem) :
    (s.updCounted m els).reg64 (Reg.obsMill m) = (s.reg64 (Reg.obsMill m) + els.length) % 2 ^ 64 := by
  have apart : Reg.obsMill m ≠ Reg.millStat m ∧ Reg.obsMill m + 4 ≠ Reg.millStat m := by
    unfold Reg.obsMill Reg.millStat suitBase millBase suitBase
    omega
  unfold State.updCounted
  rw [reg64_spending, reg64_add64]
  refine congrArg (fun n => (n + els.length) % 2 ^ 64) ?_
  exact State.reg64_congr _ ((State.reg_setReg ..).trans (if_neg apart.1)) ((State.reg_setReg ..).trans (if_neg apart.2))

theorem updResults_valid {f : UpdFmts} {x : UBlock} {c : Cmd} {cells : List (Nat × Nat)} {y : (Nat × Nat) × Option UpdElem}
    (mem : y ∈ updResults f x c cells) (ok : validOf f.p x.p y.1.1 y.1.2 = true) : y.2 = some (updCell f x c y.1) := by
  obtain ⟨q, -, rfl⟩ := List.mem_map.1 mem
  exact if_pos ok

theorem obsMill_not_gran (m : Nat) : ¬ GranReg (Reg.obsMill m) ∧ ¬ GranReg (Reg.obsMill m + 4) := by
  have e : Reg.obsMill m = suitBase (m / 2) + (0x90038 + 8 * (m % 2)) := Nat.add_assoc _ _ _
  have e4 : Reg.obsMill m + 4 = suitBase (m / 2) + (0x9003C + 8 * (m % 2)) := by
    unfold Reg.obsMill
    omega
  rw [e4, e]
  exact ⟨not_granReg_suitBase (by omega) (by omega), not_granReg_suitBase (by omega) (by omega)⟩

/-! ## A stall that ends -/

theorem mill_setUpd (s : State) (m i : Nat) (c : Cmd) : ((s.setUpd m i c).mill m).pinT = (s.mill m).pinT := by
  have e : s.setUpd m i c = s.setMill m { s.mill m with q := (s.queue 8 m).set i c } := rfl
  rw [e, State.mill_setMill, if_pos rfl]

theorem reg_setUpd (s : State) (m i : Nat) (c : Cmd) (a : Nat) : (s.setUpd m i c).reg a = s.reg a := rfl

structure Unpinned (m : Nat) (s t : State) : Prop where
  mem : t.mem = s.mem
  pinT : (t.mill m).pinT = none
  flag : t.flag (Reg.millStat m) 25 = false

theorem pinT_setMill_none (s : State) (m : Nat) : ((s.setMill m { s.mill m with pinT := none }).mill m).pinT = none := by
  rw [State.mill_setMill, if_pos rfl]

theorem reg_setMill (s : State) (m : Nat) (d : Mill) (a : Nat) : (s.setMill m d).reg a = s.reg a :=
  (frame_setMill_self (R := Nothing) (H := Nothing) (C := Nothing) s m d).reg a id

theorem reg_spend (s : State) (a : Nat) : s.spend.reg a = s.reg a :=
  (frame_spend (R := Nothing) (H := Nothing) (C := Nothing) (M := Nothing) s).reg a id

theorem unpinned_spec (s : State) (m : Nat) : Unpinned m s (s.unpinned m) := by
  refine ⟨(frame_unpinned s m).mem, ?_, ?_⟩
  · unfold State.unpinned
    exact pinT_setMill_none _ m
  · unfold State.unpinned
    dsimp only
    generalize min (2 ^ 64 - 1) (s.reg64 (Reg.vpinCyc m) + s.fresh) = n
    refine (State.flag_congr ((reg_setMill ..).trans (reg_spend ..)) 25).trans ?_
    exact State.flag_clearBit _ _ 25 (by decide)

/-! ## Settled -/

section
variable {i k rec pa : Nat} {c : Cmd} (safe : Safe s) (active : s.active 8 m.val = some (i, c)) (runs : s.stRuns 8 m.val = true)
  (open_ : c.unclaimed = some k) (able : Claimable s (c.vtid.getD k 0) rec)
  (place : s.translate (Entry.verAddr (s.entry (c.vtid.getD k 0)) + 24 +
    8 * ((bits rec 0 8 + 1) % 256 % (Entry.nver (s.entry (c.vtid.getD k 0)) + 1))) .atomic = .ok pa false)
  (free : bufState (bufEntry rec ((bits rec 0 8 + 1) % 256 % (Entry.nver (s.entry (c.vtid.getD k 0)) + 1))) = 1 →
    waitMet (s.millEvc m.val (bits (bufEntry rec ((bits rec 0 8 + 1) % 256 % (Entry.nver (s.entry (c.vtid.getD k 0)) + 1))) 16 6))
      (bits (bufEntry rec ((bits rec 0 8 + 1) % 256 % (Entry.nver (s.entry (c.vtid.getD k 0)) + 1))) 32 32) = true)
include safe active runs open_ able place free

theorem update_claims (unpinned : (s.mill m.val).pinT = none) (op : Record.opcode c.r = 1) :
    Does (.update m) s (Claims m.val i k pa ((bits rec 0 8 + 1) % 256) c (s.claimedVer k (c.vtid.getD k 0) rec) s) := by
  obtain ⟨wf, -⟩ := safe
  have claims := updClaim_claims (tid := c.vtid.getD k 0) wf (active_iff.1 active).1 (Nat.mod_lt _ (by decide)) (taken_claimed s m.val _ _ pa _ _)
    (fun zero => congrArg (c.vtid.getD · 0) zero.symm) (claim_takes able place free)
  exact ⟨_, execUpdate_claims active runs open_ op unpinned, claims.1⟩

theorem bufferClaim_claims (pinned : (s.mill m.val).pinT.isSome = true) :
    Does (.bufferClaim m) s fun t => Claims m.val i k pa ((bits rec 0 8 + 1) % 256) c (s.claimedVer k (c.vtid.getD k 0) rec) s t ∧
      (t.mill m.val).pinT = none ∧ t.flag (Reg.millStat m.val) 25 = false := by
  obtain ⟨wf, -⟩ := safe
  have a := claimsAlike_unpinned s m.val
  have ended := unpinned_spec s m.val
  have step := execBufferClaim_claims active runs open_ pinned (claim_takes able place free)
  rw [← a.alike.entry a.job, ← a.alike.translate] at place
  simp only [← a.alike.entry a.job, ← a.evc] at free
  have queued : ((s.unpinned m.val).mill m.val).q[i]? = some c := by rw [a.queue]; exact (active_iff.1 active).1
  generalize s.unpinned m.val = b at *
  have taken := taken_claimed b m.val (Entry.verAddr (b.entry (c.vtid.getD k 0))) (Entry.verAddr (b.entry (c.vtid.getD k 0)) + 24 +
    8 * ((bits rec 0 8 + 1) % 256 % (Entry.nver (b.entry (c.vtid.getD k 0)) + 1))) pa
    (bufEntry rec ((bits rec 0 8 + 1) % 256 % (Entry.nver (b.entry (c.vtid.getD k 0)) + 1))) ((bits rec 0 8 + 1) % 256)
  obtain ⟨claims, d, e⟩ := updClaim_claims (tid := c.vtid.getD k 0) (by rw [ended.mem]; exact wf) queued (Nat.mod_lt _ (by decide)) taken (fun zero => congrArg (c.vtid.getD · 0) zero.symm)
    (claim_takes (a.claimable able) place free)
  rw [a.claimedVer] at claims
  refine ⟨_, step, claims.before ended.mem a.quiet, ?_, ?_⟩
  · rw [e, mill_setUpd, taken.mill]
    exact ended.pinT
  · obtain ⟨gran, low, high⟩ := millStat_not_claimed m.val pa
    rw [e]
    exact (State.flag_congr ((reg_setUpd _ _ _ _ _).trans (taken.reg _ gran low high)) 25).trans ended.flag

end

/-- Settles O32. -/
theorem updateClaimsAndWrites : Obligations.UpdateClaimsAndWrites := by
  unfold Obligations.UpdateClaimsAndWrites
  intro m s
  refine ⟨?_, ?_, ?_, ?_⟩
  · intro va r x rcp idle head tabled entry recipe tables param shadow rules program owns ownsShadow
    have met := onlyWrites_demand (demand_updSeen s m.val r x)
    obtain ⟨queue, buf, forward, mem, reg, quiet⟩ := updEnters_spec (s.updSeen m.val r x) m.val r (s.updCmd m.val va r x rcp)
    refine ⟨_, (execUpdate_begin idle head).trans (congrArg _ (updBegin_begins tabled entry recipe tables param shadow rules program owns
      ownsShadow)), ?_⟩
    refine ⟨⟨_, by rw [queue, met.mill], rfl, rfl, rfl, rfl, rfl⟩, by rw [buf, met.mill], forward, ?_, fun a off => ?_, met.calm.trans quiet.calm⟩
    · exact mem.trans (demand_updSeen s m.val r x).mem
    · rw [reg, met.reg off]
  · intro i c k rec pa safe active runs open_ tid e va v b y read free claimed
    have able : bufState y = 0 ∨ (bufState y = 1 ∧ bufRset y = true) → Claimable s tid rec := fun state => ⟨read, state⟩
    refine ⟨?_, ?_, ?_⟩
    · intro ok place unpinned op
      have met : bufState y = 1 → waitMet (s.millEvc m.val (bits y 16 6)) (bits y 32 32) = true := fun one =>
        ok.elim (fun zero => absurd (zero.symm.trans one) (by decide)) fun x => x.2.2
      obtain ⟨t, step, x⟩ := update_claims safe active runs open_ (able (ok.imp_right fun x => ⟨x.1, x.2.1⟩)) place met unpinned op
      exact ⟨t, step, x.state, x.version, x.others, x.record, x.calm⟩
    · intro ok place pinned
      have met : bufState y = 1 → waitMet (s.millEvc m.val (bits y 16 6)) (bits y 32 32) = true := fun one =>
        ok.elim (fun zero => absurd (zero.symm.trans one) (by decide)) fun x => x.2.2
      obtain ⟨t, step, x, rest⟩ := bufferClaim_claims safe active runs open_ (able (ok.imp_right fun x => ⟨x.1, x.2.1⟩)) place met pinned
      exact ⟨t, step, ⟨x.state, x.version, x.others, x.record, x.calm⟩, rest⟩
    · intro one set_ waits
      have pinned := claim_waits (m := m.val) (c := c) (able (.inr ⟨one, set_⟩)) one waits
      refine ⟨fun op unpinned => ?_, fun _ => ⟨_, execBufferClaim_waits active open_ pinned, rfl⟩⟩
      obtain ⟨noted, flag, mem⟩ := stalled_spec s m.val (min (2 ^ 32 - 1) ((s.reg (Reg.vpinEvt m.val)).toNat + 1))
      refine ⟨_, (execUpdate_claims active runs open_ op unpinned).trans (congrArg _ (updClaim_stalls pinned)), noted, flag, ?_, mem⟩
      exact vpinEvt_stalled s m.val (by omega)
  · intro i c active runs op claimed zero pages
    refine ⟨s.setUpd m.val i { c with out := 1 }, ?_, ?_, ?_, quiet_setCmd s 8 m.val i _⟩
    · refine (execUpdate_works active runs op claimed).trans ?_
      rw [if_pos zero, pages]
    · obtain ⟨at_, waits, -⟩ := active_iff.1 active
      exact active_kept active (getElem_setCmd (by decide) (by decide) at_ _) waits fun j lt =>
        getElem_setCmd_other (by decide) (by decide) (Nat.ne_of_lt lt) _
    · exact frame_setCmd s 8 m.val i _ (fun e => absurd e (by decide)) (fun _ e => absurd e (by decide)) fun _ => rfl
  · intro i c s1 x s2 active runs op claimed started q f g cells res read valid store
    obtain ⟨at_, waits, -⟩ := active_iff.1 active
    have works := (millWorks_updRead read).trans (onlyWrites_updStore store).works
    have step := updStep_writes (i := i) read valid rfl rfl store
    have ring := works.mill m.val
    unfold Mill.RingOnly at ring
    have queued : (s2.mill m.val).q[i]? = some c := by
      rw [ring]
      exact at_
    have counter := obsMill_not_gran m.val
    have counted : ∀ els, (s2.updCounted m.val els).reg64 (Reg.obsMill m.val) = (s.reg64 (Reg.obsMill m.val) + els.length) % 2 ^ 64 := fun els =>
      (obsMill_updCounted s2 m.val els).trans
        (congrArg (fun n => (n + els.length) % 2 ^ 64) (State.reg64_congr _ (works.reg _ counter.1) (works.reg _ counter.2)))
    refine ⟨_, (execUpdate_works active runs op claimed).trans ((congrArg _ (if_neg started)).trans (congrArg _ step)), rfl,
      fun y mem ok => updResults_valid mem ok, ?_, ?_⟩
    · exact ⟨_, getElem_setCmd (st := 8) (u := m.val) (d := c) (by decide) (by decide) queued _, updAfter_spec (m := m) waits _ _⟩
    · exact (State.reg64_congr _ (reg_setUpd ..) (reg_setUpd ..)).trans (counted _)

end Sys2Proof
end

section
/-! PROOFS. A map-out whose migration reads outside its suit (R286, R328). -/

namespace Sys2Proof

open Machine

/-- A part of 8,000 MB for each pseudo-channel, whose hash puts sector 0 of pseudo-channel 1 beyond the 2^38 bytes of its suit. -/
def widePart : Part := { Part.hyg4_288 with pcMB := 8000, hash := { sectors := [(0, 0, 1, 0, 150000000)] } }

/-- Suit 0 is quiesced for a map-out of its pseudo-channel 0; no deal runs. -/
def mappingState : State := { State.reset with part := widePart, suits := [(0, { powered := true, mapping := some 0 })] }

/-- A corrected error stands in sector 0 of pseudo-channel 1, and in the cell of suit 1 that its address names. -/
def strayState : State :=
  { mappingState with latent := [(hbmKey 0 1 0, 1), (mappingState.cellOf (mappingState.cellAt (hbmKey 0 1 0)), 1)] }

/-- The map-out counts an error in suit 1. -/
theorem stray_counts : (strayState.mapOutNow 0 0).reg (Reg.hbmPc 1 1) ≠ strayState.reg (Reg.hbmPc 1 1) := by
  decide +kernel

/-- Refutes O47: with a part whose hash puts a sector's address beyond its suit's range, the migration of a map-out reads, and counts an
error in, another suit. -/
theorem not_hbmIsKeptUp : ¬ Obligations.HbmIsKeptUp := by
  intro holds
  obtain ⟨-, -, mapOut, -⟩ := holds 0 strayState reset_empty.2.1
  obtain ⟨now, -⟩ := mapOut 0 0 (by decide +kernel) (by decide +kernel)
  obtain ⟨t, acts, -, -, -, -, -, -, -, regs, -⟩ := now (by decide +kernel) (.inr rfl)
  have step : execMapOut 0 0 0 strayState = .next (strayState.mapOutNow 0 0) := by
    unfold execMapOut
    dsimp only
    rw [if_neg (by decide +kernel), if_pos (by decide +kernel), if_pos (by decide +kernel)]
    rfl
  obtain rfl : strayState.mapOutNow 0 0 = t := Host.Outcome.next.inj (step.symm.trans acts)
  exact stray_counts (regs (Reg.hbmPc 1 1) (by decide +kernel))

end Sys2Proof
end

section
/-! PROOFS. Register writes by their access codes (R12, R84, R449, R520 to R531). -/

namespace Sys2Proof

open Machine

variable {s t : State} {reeve : Bool} {addr a : Nat} {v : W32} {r : RegRow}

/-! ## Words under their access codes (R12) -/

/-- A word after a write: RW bits from the write, W1C bits written 1 cleared, others kept. -/
def Mixed (r : RegRow) (v old w : W32) : Prop := ∀ i < 32, w.getLsbD i =
  (if r.rw.testBit i then v.getLsbD i else old.getLsbD i && !(r.w1c.testBit i && v.getLsbD i))

theorem mixed_mixWord (old : W32) (r : RegRow) (v : W32) : Mixed r v old (mixWord old r v) := by
  intro i lt
  unfold mixWord
  simp only [BitVec.getLsbD_or, BitVec.getLsbD_and, BitVec.getLsbD_not, BitVec.getLsbD_ofNat, lt, decide_true, Bool.true_and]
  cases r.rw.testBit i with
  | true => simp
  | false => simp [Bool.and_comm]

/-! ## Each way a write takes effect -/

/-- What a write of one register leaves. -/
structure Wrote (R : Nat → Prop) (s t : State) : Prop where
  regs : ∀ b, ¬ R b → t.reg b = s.reg b
  mem : t.mem = s.mem
  quiet : Quiet s t

theorem Wrote.trans {R : Nat → Prop} {b : State} (x : Wrote R s t) (y : Wrote R t b) : Wrote R s b :=
  ⟨fun c off => (y.regs c off).trans (x.regs c off), y.mem.trans x.mem, x.quiet.trans y.quiet⟩

theorem Wrote.mono {R Q : Nat → Prop} (x : Wrote R s t) (le : ∀ b, R b → Q b) : Wrote Q s t :=
  ⟨fun b off => x.regs b fun on => off (le b on), x.mem, x.quiet⟩

theorem wrote_commitOne (s : State) (a : Nat) (v : W32) : Wrote (· = a) s (s.commitOne a v) :=
  ⟨fun _ off => (reg_commitOne ..).trans (if_neg off), rfl, rfl, rfl, rfl⟩

theorem wrote_setReg (s : State) (a : Nat) (v : W32) : Wrote (· = a) s (s.setReg a v) :=
  ⟨fun _ off => (State.reg_setReg ..).trans (if_neg off), rfl, rfl, rfl, rfl⟩

theorem wrote_writeNow (s : State) (a : Nat) (r : RegRow) (v : W32) :
    Wrote (· = a) s (s.writeNow a r v) ∧ (s.writeNow a r v).reg a = mixWord (s.reg a) r v ∧ (s.writeNow a r v).staged = s.staged := by
  unfold State.writeNow
  dsimp only
  split_ifs
  · exact ⟨wrote_commitOne s a _, (reg_commitOne ..).trans (if_pos rfl), rfl⟩
  · exact ⟨wrote_setReg s a _, (State.reg_setReg ..).trans (if_pos rfl), rfl⟩

/-- The value that a write of a staged register works on: the pending one, or the active one where none is pending. -/
def Machine.State.pendingWord (s : State) (a : Nat) : W32 := (PMap.find s.staged a).getD (s.reg a)

theorem writeStaged_eq (s : State) (a : Nat) (r : RegRow) (v : W32) : s.writeStaged a r v =
    if !s.job.run || (r.how == 1 && (match locate a with | .hand h _ => s.noEpochs h | .core k _ => s.noEpochs (k / 17) | _ => false)) then
      { s.commitOne a (mixWord (s.pendingWord a) r v) with staged := PMap.del s.staged a }
    else { s with staged := PMap.put s.staged a (mixWord (s.pendingWord a) r v) } := by
  have word : (match PMap.find s.staged a with | some x => x | none => s.reg a) = s.pendingWord a := by
    unfold State.pendingWord
    cases PMap.find s.staged a <;> rfl
  rw [← word]
  rfl

theorem writeStaged_commits (run : s.job.run = false) :
    Wrote (· = a) s (s.writeStaged a r v) ∧ Mixed r v (s.pendingWord a) ((s.writeStaged a r v).reg a) ∧
      (s.writeStaged a r v).staged = PMap.del s.staged a := by
  rw [writeStaged_eq, if_pos (by rw [run]; rfl)]
  refine ⟨(wrote_commitOne s a (mixWord (s.pendingWord a) r v)).trans ⟨fun _ _ => rfl, rfl, rfl, rfl, rfl⟩, ?_, rfl⟩
  rw [show State.reg { s.commitOne a (mixWord (s.pendingWord a) r v) with staged := PMap.del s.staged a } a = (s.commitOne a _).reg a from rfl,
    reg_commitOne, if_pos rfl]
  exact mixed_mixWord _ r v

theorem writeStaged_waits (run : s.job.run = true)
    (epochs : r.how = 1 → (match locate a with | .hand h _ => s.noEpochs h | .core k _ => s.noEpochs (k / 17) | _ => false) = false) :
    s.writeStaged a r v = { s with staged := PMap.put s.staged a (mixWord (s.pendingWord a) r v) } := by
  rw [writeStaged_eq, if_neg]
  rw [run]
  by_cases one : r.how = 1
  · rw [epochs one]
    simp
  · simp [one]

/-! ## The dispatch of a write -/

section
variable (ok : regAccessOk addr 4 = true) (word : isAia addr = false)
include ok word

theorem exec_registerWrite : exec (.registerWrite reeve addr 4 v) s = .next (s.writeReg reeve (canon addr) v) := by
  show execRegisterWrite reeve addr 4 v s = _
  unfold execRegisterWrite State.writeWord
  rw [if_pos ok, if_neg (by rw [word]; decide)]

end

section
variable (row : regRow a = some r) (lit : s.darkAt a = false) (gate : s.gateOpen reeve a = true)
include row lit gate

theorem writeReg_open : s.writeReg reeve a v =
    if r.how = 6 then s.writeOwn a r v
    else if r.how = 4 then s.holdLow a v
    else if r.how = 5 then s.writePair a r v
    else if r.how = 3 then { s with staged := PMap.put s.staged a v }
    else if r.how = 0 then s.writeNow a r v
    else
      match locate a with
      | .suit i o => if o = 0x20000 then s.writeGran i v else s.writeStaged a r v
      | _ => s.writeStaged a r v := by
  unfold State.writeReg
  rw [row]
  dsimp only
  rw [if_neg (by rw [lit, gate]; decide)] <;> rfl

end

theorem writeReg_closed (closed : regRow a = none ∨ s.darkAt a = true ∨ s.gateOpen reeve a = false) : s.writeReg reeve a v = s := by
  unfold State.writeReg
  cases row : regRow a with
  | none => rfl
  | some r =>
    dsimp only
    rw [if_pos]
    simpa [row] using closed

/-- Where SUIT.GRAN.CTL stands. -/
theorem locate_granCtl {i o : Nat} (at_ : locate a = .suit i o) (off : o = 0x20000) : a = Reg.granCtl i := by
  unfold locate at at_
  dsimp only at at_
  split_ifs at at_ with low high suit window hand core
  obtain ⟨rfl, rfl⟩ := Loc.suit.inj at_
  unfold Reg.granCtl suitBase
  omega

theorem granCtl_how {i o : Nat} (at_ : locate a = .suit i o) (off : o = 0x20000) (row : regRow a = some r) : r.how = 2 := by
  unfold regRow at row
  rw [at_] at row
  dsimp only at row
  rw [off, if_neg (by decide)] at row
  obtain rfl : ({ rw := 0x301F1, how := 2 } : RegRow) = r := Option.some.inj ((show RegMap.find suitMap 0x20000 = _ by decide +kernel).symm.trans row)
  rfl

/-- A register of the map that is SUIT.GRAN.CTL of some suit stands in that suit. -/
theorem locate_of_granCtl (i : Nat) (low : Reg.granCtl i < 0x30000000) : locate (Reg.granCtl i) = .suit i 0x20000 := by
  unfold Reg.granCtl suitBase at *
  unfold locate
  dsimp only
  have base : (0x10000000 + i * 0x08000000 + 0x20000 - 0x10000000) / 0x08000000 = i := by omega
  have off : (0x10000000 + i * 0x08000000 + 0x20000 - 0x10000000) % 0x08000000 = 0x20000 := by omega
  rw [base, off, if_neg (by omega), if_neg (by omega), if_pos (by omega)]

theorem low_of_row (row : regRow a = some r) : a < 0x30000000 := by
  by_contra high
  unfold regRow locate at row
  dsimp only at row
  rw [if_neg (by omega), if_pos (by omega)] at row
  cases row

/-! ## MODE of SUIT.GRAN.CTL -/

theorem getLsbD_eq_of_flag (h : t.flag a j = s.flag a j) : (t.reg a).getLsbD j = (s.reg a).getLsbD j := by
  have bit_ : ∀ w : W32, w.getLsbD j = (bits w.toNat j 1 == 1) := fun w => by
    unfold bits
    rw [BitVec.getLsbD, Nat.testBit_eq_decide_div_mod_eq, Nat.shiftRight_eq_div_pow]
    rfl
  rw [bit_, bit_]
  exact h

/-- What a write of MODE leaves: the field, the register's other bits, and every other register. -/
structure ModeSet (i m : Nat) (s t : State) : Prop where
  field : t.field (Reg.granCtl i) 16 2 = m
  bits : ∀ j < 32, j ≠ 16 → j ≠ 17 → (t.reg (Reg.granCtl i)).getLsbD j = (s.reg (Reg.granCtl i)).getLsbD j
  wrote : Wrote (· = Reg.granCtl i) s t
  job : t.job = s.job

theorem modeSet_setGranMode (s : State) (i : Nat) {m : Nat} (lt : m < 4) : ModeSet i m s (s.setGranMode i m) := by
  obtain ⟨e, he⟩ : ∃ e, (if s.field (Reg.granCtl i) 16 2 = m then s else (s.setField (Reg.granCtl i) 16 2 m).startGrace (Reg.granCtl i)) = e := ⟨_, rfl⟩
  have set_ : ModeSet i m s e := by
    rw [← he]
    split_ifs with same
    · exact ⟨same, fun _ _ _ _ => rfl, ⟨fun _ _ => rfl, rfl, rfl, rfl, rfl⟩, rfl⟩
    · refine ⟨(State.field_setField s _ 16 2 m (by decide)).trans (Nat.mod_eq_of_lt lt), fun j high lo hi => ?_, ?_, rfl⟩
      · exact getLsbD_eq_of_flag (s := s) (t := s.setField (Reg.granCtl i) 16 2 m) (State.flag_setField_other _ _ _ _ _ (by omega) (by omega))
      · exact ⟨fun b off => State.reg_setField_other _ _ _ _ _ _ off, rfl, rfl, rfl, rfl⟩
  obtain ⟨field, bits, wrote, job⟩ := set_
  unfold State.setGranMode
  dsimp only
  rw [he]
  cases PMap.find e.staged (Reg.granCtl i) with
  | none => exact ⟨field, bits, wrote, job⟩
  | some x => exact ⟨field, bits, wrote.trans ⟨fun _ _ => rfl, rfl, rfl, rfl, rfl⟩, job⟩

theorem modeSet_writeGran (i : Nat) (v : W32) (run : s.job.run = true) : ModeSet i (bits v.toNat 16 2) s (s.writeGran i v) := by
  have set_ := modeSet_setGranMode s i (bits_lt v.toNat 16 2)
  unfold State.writeGran
  rw [writeStaged_waits (by rw [set_.job]; exact run) (fun one => absurd one (by decide))]
  exact ⟨set_.field, set_.bits, set_.wrote.trans ⟨fun _ _ => rfl, rfl, rfl, rfl, rfl⟩, set_.job⟩

/-! ## The two words of a 64-bit register (R528) -/

/-- What a high word does beside its write: of a hand, it discards the fetch buffer at the resume (R548); of MANOR.FAULT.BASE, it opens
the log (R480). -/
def Machine.State.afterPair (s : State) (a : Nat) : State :=
  match locate a with
  | .hand h _ => s.setHand h { s.hand h with discard := true }
  | .manor x => if x = Reg.faultBase + 4 then s.openLog else s
  | _ => s

theorem writePair_eq {x : W32} (held : PMap.find s.heldLow (a - 4) = some x) : s.writePair a r v =
    State.afterPair (State.writeNow { s.writeNow (a - 4) ((regRow (a - 4)).getD {}) x with
      heldLow := PMap.del (s.writeNow (a - 4) ((regRow (a - 4)).getD {}) x).heldLow (a - 4) } a r v) a := by
  unfold State.writePair
  dsimp only
  rw [held]
  rfl

theorem wrote_afterPair (s : State) {a : Nat} (off : a ≠ Reg.faultBase + 4) : Wrote Nothing s (s.afterPair a) ∧ ∀ b, (s.afterPair a).reg b = s.reg b := by
  have same : Wrote Nothing s s ∧ ∀ b, s.reg b = s.reg b := ⟨⟨fun _ _ => rfl, rfl, rfl, rfl, rfl⟩, fun _ => rfl⟩
  unfold State.afterPair
  cases at_ : locate a with
  | hand h q => exact ⟨⟨fun _ _ => rfl, rfl, rfl, rfl, rfl⟩, fun _ => rfl⟩
  | manor x =>
    have e : a = x := by
      unfold locate at at_
      dsimp only at at_
      split_ifs at at_
      exact Loc.manor.inj at_
    dsimp only
    rw [if_neg (e ▸ off)]
    exact same
  | suit _ _ => exact same
  | core _ _ => exact same
  | none => exact same

theorem writePair_writes {x : W32} (held : PMap.find s.heldLow (a - 4) = some x) (high : 4 ≤ a) (off : a ≠ Reg.faultBase + 4) :
    Mixed r v (s.reg a) ((s.writePair a r v).reg a) ∧ Wrote (fun b => b = a ∨ b = a - 4) s (s.writePair a r v) ∧
      Mixed ((regRow (a - 4)).getD {}) x (s.reg (a - 4)) ((s.writePair a r v).reg (a - 4)) := by
  have apart : a ≠ a - 4 := by omega
  obtain ⟨low, lowWord, -⟩ := wrote_writeNow s (a - 4) ((regRow (a - 4)).getD {}) x
  rw [writePair_eq held]
  generalize s.writeNow (a - 4) ((regRow (a - 4)).getD {}) x = s1 at low lowWord
  have freed : Wrote Nothing s1 { s1 with heldLow := PMap.del s1.heldLow (a - 4) } := ⟨fun _ _ => rfl, rfl, rfl, rfl, rfl⟩
  have word1 : State.reg { s1 with heldLow := PMap.del s1.heldLow (a - 4) } = s1.reg := rfl
  generalize ({ s1 with heldLow := PMap.del s1.heldLow (a - 4) } : State) = s2 at freed word1
  obtain ⟨top, topWord, -⟩ := wrote_writeNow s2 a r v
  generalize s2.writeNow a r v = s3 at top topWord
  obtain ⟨last, regs⟩ := wrote_afterPair s3 off
  refine ⟨?_, ?_, ?_⟩
  · rw [regs, topWord, word1, low.regs a apart]
    exact mixed_mixWord _ r v
  · exact (low.mono fun _ e => .inr e).trans ((freed.mono fun _ f => f.elim).trans ((top.mono fun _ e => .inl e).trans (last.mono fun _ f => f.elim)))
  · rw [regs, top.regs _ (Ne.symm apart), word1, lowWord]
    exact mixed_mixWord _ _ x

/-! ## Settled -/

theorem gateOpen_bellCtl (s : State) : s.gateOpen reeve Reg.bellCtl = true := by
  unfold State.gateOpen
  rw [show locate Reg.bellCtl = .manor Reg.bellCtl by decide]
  cases s.job.run <;> rfl

theorem gateOpen_faultTail (s : State) : s.gateOpen reeve Reg.faultTail = true := by
  unfold State.gateOpen
  rw [show locate Reg.faultTail = .manor Reg.faultTail by decide]
  cases s.job.run <;> rfl

/-- No register below the fifth byte is the high word of a pair. -/
theorem high_of_pair (row : regRow a = some r) (how : r.how = 5) : 4 ≤ a := by
  by_contra low
  have word : ∀ b < 4, regRow b = some {} := by decide +kernel
  obtain rfl : ({} : RegRow) = r := Option.some.inj ((word a (by omega)).symm.trans row)
  exact absurd how (by decide)

theorem writes_bellCtl (s : State) (off : bit v.toNat 30 = false) : s.writeReg reeve (canon Reg.bellCtl) v = s.bellRing v := by
  rw [show canon Reg.bellCtl = Reg.bellCtl by decide, writeReg_open (r := { how := 6 }) (by decide +kernel) rfl (gateOpen_bellCtl s), if_pos rfl]
  unfold State.writeOwn
  rw [if_pos rfl]
  dsimp only
  rw [if_neg (by rw [off]; decide)]

theorem writes_faultTail (s : State) : s.writeReg reeve (canon Reg.faultTail) v = s.writeTail v := by
  rw [show canon Reg.faultTail = Reg.faultTail by decide, writeReg_open (r := { how := 6 }) (by decide +kernel) rfl (gateOpen_faultTail s), if_pos rfl]
  unfold State.writeOwn
  rw [if_neg (by decide), if_pos rfl]

section
variable (row : regRow a = some r)
include row

/-- A staged register that is not SUIT.GRAN.CTL takes the common way. -/
theorem writeReg_staged (lit : s.darkAt a = false) (gate : s.gateOpen reeve a = true) (how : r.how = 1 ∨ r.how = 2)
    (off : r.how = 1 ∨ ∀ i, a ≠ Reg.granCtl i) : s.writeReg reeve a v = s.writeStaged a r v := by
  rw [writeReg_open row lit gate, if_neg (by omega), if_neg (by omega), if_neg (by omega), if_neg (by omega), if_neg (by omega)]
  cases at_ : locate a with
  | suit i o =>
    refine if_neg fun e => ?_
    rcases off with one | off
    · exact absurd (one.symm.trans (granCtl_how at_ e row)) (by decide)
    · exact off i (locate_granCtl at_ e)
  | _ => rfl

theorem writeReg_gran {i : Nat} (lit : s.darkAt a = false) (gate : s.gateOpen reeve a = true) (how : r.how = 2) (at_ : a = Reg.granCtl i) :
    s.writeReg reeve a v = s.writeGran i v := by
  have low := low_of_row row
  rw [writeReg_open row lit gate, how, if_neg (by decide), if_neg (by decide), if_neg (by decide), if_neg (by decide), if_neg (by decide)]
  subst at_
  rw [locate_of_granCtl i low]
  exact if_pos rfl

end

/-- Settles O42. -/
theorem registerWrites : Obligations.RegisterWrites := by
  unfold Obligations.RegisterWrites
  intro reeve addr v s a
  refine ⟨fun width bad => ⟨{ s with rsp := .accessFault }, congrArg _ (if_neg (by rw [bad]; decide)), rfl⟩, fun ok window => ?_, fun ok word => ?_⟩
  · refine ⟨_, ?_, rfl⟩
    show execRegisterWrite reeve addr 4 v s = _
    unfold execRegisterWrite State.writeWord
    rw [if_pos ok, if_pos window]
  have step : exec (.registerWrite reeve addr 4 v) s = .next (s.writeReg reeve a v) := exec_registerWrite ok word
  refine ⟨fun closed => ⟨_, step, writeReg_closed closed⟩, ?_, ?_, ?_⟩
  · intro r row lit gate mixed old
    have open_ := writeReg_open (v := v) row lit gate
    refine ⟨fun how => ?_, fun how off run => ?_, fun how off run => ?_, fun how run epochs => ?_, fun i at_ how run => ?_, fun how => ?_,
      fun how => ?_, fun x how off held => ?_⟩
    · rw [how, if_neg (by decide), if_neg (by decide), if_neg (by decide), if_neg (by decide), if_pos rfl] at open_
      obtain ⟨wrote, now, staged⟩ := wrote_writeNow s a r v
      refine ⟨_, step.trans (congrArg _ open_), ?_, wrote.regs, staged, wrote.mem, wrote.quiet⟩
      rw [now]
      exact mixed_mixWord _ r v
    · obtain ⟨wrote, now, staged⟩ := writeStaged_commits (a := a) (r := r) (v := v) run
      exact ⟨_, step.trans (congrArg _ (writeReg_staged row lit gate how (.inr off))), now, wrote.regs, staged, wrote.mem, wrote.quiet⟩
    · have waits := writeStaged_waits (a := a) (r := r) (v := v) run (fun one => absurd (one.symm.trans how) (by decide))
      exact ⟨_, step.trans (congrArg _ ((writeReg_staged row lit gate (.inr how) (.inr off)).trans waits)), fun _ => rfl,
        ⟨_, rfl, mixed_mixWord _ r v⟩, rfl, rfl, rfl, rfl⟩
    · have waits := writeStaged_waits (a := a) (r := r) (v := v) run (fun _ => epochs)
      exact ⟨_, step.trans (congrArg _ ((writeReg_staged row lit gate (.inl how) (.inl how)).trans waits)), fun _ => rfl,
        ⟨_, rfl, mixed_mixWord _ r v⟩, rfl, rfl, rfl, rfl⟩
    · obtain ⟨field, others, wrote, -⟩ := modeSet_writeGran i v run
      rw [← at_] at field others wrote
      exact ⟨_, step.trans (congrArg _ (writeReg_gran row lit gate how at_)), field, others, wrote.regs, wrote.mem, wrote.quiet⟩
    · rw [how, if_neg (by decide), if_neg (by decide), if_neg (by decide), if_pos rfl] at open_
      exact ⟨_, step.trans (congrArg _ open_), rfl⟩
    · rw [how, if_neg (by decide), if_pos rfl] at open_
      exact ⟨_, step.trans (congrArg _ open_), rfl⟩
    · rw [how, if_neg (by decide), if_neg (by decide), if_pos rfl] at open_
      obtain ⟨now, wrote, low⟩ := writePair_writes (r := r) (v := v) held (high_of_pair row how) off
      refine ⟨_, step.trans (congrArg _ open_), now, fun b n n' => wrote.regs b (not_or.2 ⟨n, n'⟩), fun i lt rw_ => ?_, wrote.mem, wrote.quiet⟩
      exact (low i lt).trans (if_pos rw_)
  · rintro at_ off
    rw [step]
    exact congrArg _ ((congrArg (fun a => s.writeReg reeve (canon a) v) at_).trans (writes_bellCtl s off))
  · intro at_
    rw [step]
    exact congrArg _ ((congrArg (fun a => s.writeReg reeve (canon a) v) at_).trans (writes_faultTail s))

end Sys2Proof
end

section
/-! PROOFS. What the rings and failures that a fold brings about leave of the module's condition (R360, R388, R432, R444). -/

namespace Sys2Proof

open Machine

variable {r s t : State}

/-- The part, the clocks, the start-up and power conditions, the links and the deal stay as they were, but for what the Manor's mode shows and
a stop that is wanted; of the suits only what accesses to HBM change; and a Bell that rings rings on. -/
structure Abides (s t : State) : Prop where
  fixed : t.part = s.part ∧ t.time = s.time ∧ t.clock = s.clock ∧ t.extRef = s.extRef ∧ t.gov = s.gov ∧ t.links = s.links
  ctl : ∃ m n, t.ctl = { s.ctl with state := m, ibis := n }
  job : ∃ w, t.job = { s.job with stopWanted := w }
  suit : ∀ i, ∃ g d n, t.suit i = { s.suit i with gran := g, dets := d, ueCounts := n }
  cuts : s.bell.cuts ≠ [] → t.bell.cuts ≠ []

theorem Abides.refl (s : State) : Abides s s := ⟨⟨rfl, rfl, rfl, rfl, rfl, rfl⟩, ⟨_, _, rfl⟩, ⟨_, rfl⟩, fun _ => ⟨_, _, _, rfl⟩, id⟩

theorem Abides.trans (a : Abides r s) (b : Abides s t) : Abides r t := by
  obtain ⟨part, time, clock, ref, gov, links⟩ := a.fixed
  obtain ⟨part', time', clock', ref', gov', links'⟩ := b.fixed
  refine ⟨⟨part'.trans part, time'.trans time, clock'.trans clock, ref'.trans ref, gov'.trans gov, links'.trans links⟩, ?_, ?_, fun i => ?_,
    b.cuts ∘ a.cuts⟩
  · obtain ⟨_, _, e⟩ := a.ctl
    obtain ⟨_, _, e'⟩ := b.ctl
    exact ⟨_, _, by rw [e', e]⟩
  · obtain ⟨_, e⟩ := a.job
    obtain ⟨_, e'⟩ := b.job
    exact ⟨_, by rw [e', e]⟩
  · obtain ⟨_, _, _, e⟩ := a.suit i
    obtain ⟨_, _, _, e'⟩ := b.suit i
    exact ⟨_, _, _, by rw [e', e]⟩

theorem abides_foldl {α : Type} (f : State → α → State) (each : ∀ s x, Abides s (f s x)) (l : List α) (s : State) : Abides s (l.foldl f s) := by
  induction l generalizing s with
  | nil => exact .refl s
  | cons x l ih => exact (each s x).trans (ih _)

/-- The suits in power and in service are the same. -/
theorem Abides.fusedIn (a : Abides s t) (i : Nat) : t.fusedIn i = s.fusedIn i := by
  obtain ⟨part, -⟩ := a.fixed
  obtain ⟨_, _, ctl⟩ := a.ctl
  unfold State.fusedIn
  rw [part, ctl]

theorem Abides.powered (a : Abides s t) (i : Nat) : (t.suit i).powered = (s.suit i).powered := by
  obtain ⟨_, _, _, e⟩ := a.suit i
  rw [e]

theorem Abides.run (a : Abides s t) : t.job.run = s.job.run := by
  obtain ⟨_, e⟩ := a.job
  rw [e]

theorem Abides.suitUp (a : Abides s t) (c : Carries s t) (i : Nat) : t.suitUp i = s.suitUp i := by
  unfold State.suitUp
  rw [a.fusedIn, c.powered, c.out, c.folded]

theorem Abides.suitDark (a : Abides s t) (c : Carries s t) (i : Nat) : t.suitDark i = s.suitDark i := by
  unfold State.suitDark
  rw [a.fusedIn, c.folded]

/-! ## Steps that touch none of it -/

/-- A step that leaves all of it alone. -/
theorem Abides.same (e : (t.part, t.time, t.clock, t.extRef, t.gov, t.links, t.ctl, t.job, t.suits, t.bell) =
    (s.part, s.time, s.clock, s.extRef, s.gov, s.links, s.ctl, s.job, s.suits, s.bell)) : Abides s t := by
  simp only [Prod.mk.injEq] at e
  obtain ⟨part, time, clock, ref, gov, links, ctl, job, suits, bell⟩ := e
  exact ⟨⟨part, time, clock, ref, gov, links⟩, ⟨_, _, ctl⟩, ⟨_, job⟩, fun i => ⟨_, _, _, by unfold State.suit; rw [suits]⟩, fun some => by rw [bell]; exact some⟩

theorem abides_setReg (s : State) (a : Nat) (v : W32) : Abides s (s.setReg a v) := .same rfl

theorem abides_setColl (s : State) (c : Coll) : Abides s (s.setColl c) := .same rfl

theorem abides_setHand (s : State) (h : Nat) (d : Hand) : Abides s (s.setHand h d) := .same rfl

theorem abides_note (s : State) (n : Notice) : Abides s (s.note n) := .same rfl

theorem abides_postAt (s : State) (time reeve sev code ep detail : Nat) : Abides s (s.postAt time reeve sev code ep detail) :=
  .same rfl

theorem abides_haltStation (s : State) (st u : Nat) : Abides s (s.haltStation st u) := by
  unfold State.haltStation
  split_ifs
  · exact .same rfl
  · exact .same rfl
  · exact abides_setHand s u _

theorem abides_traceHand (s : State) (h : Nat) (x : Trace) : Abides s (s.traceHand h x) := by
  unfold State.traceHand
  dsimp only
  split_ifs
  · exact abides_setHand s h _
  · exact (abides_setHand s h _).trans (abides_setReg _ _ _)

theorem abides_flushed {R : Nat → Prop} (f : Flushed R s t) : Abides s t := by
  obtain ⟨-, part, time, clock, ref, -, -, -, links, -, -, -, -, -, -, -, job, -, -, bell, -, ctl, gov, -⟩ := f.frame.rest
  exact ⟨⟨part, time, clock, ref, gov, links⟩, ⟨_, _, ctl⟩, ⟨_, job⟩, f.frame.suit, fun some => by rw [bell]; exact some⟩

/-! ## The Bell (R432, R444) -/

theorem abides_syncMode (s : State) : Abides s s.syncMode := by
  unfold State.syncMode
  split_ifs
  · exact .refl s
  · exact ⟨⟨rfl, rfl, rfl, rfl, rfl, rfl⟩, ⟨_, _, rfl⟩, ⟨_, rfl⟩, fun _ => ⟨_, _, _, rfl⟩, id⟩

/-- The cuts that a ring leaves. -/
def Machine.State.cutsRung (s : State) (c : Cut) : List Cut := (s.bell.cuts.filter fun d => d.complete || !(c.covers d)) ++ [c]

theorem ring_eq (s : State) (scope suit hand source : Nat) :
    let c : Cut := { scope := scope, suit := suit, hand := hand, source := source, t0 := s.time }
    let s1 := s.setField Reg.bellStat 25 4 source
    s.ring scope suit hand source = if s.bell.cuts.any (·.covers c) then s1
      else State.syncMode { s1.setBit Reg.bellStat 30 with bell := { s.bell with cuts := s.cutsRung c } } := rfl

theorem ring_rings (s : State) (scope suit hand source : Nat) : Abides s (s.ring scope suit hand source) ∧ (s.ring scope suit hand source).bell.cuts ≠ [] := by
  rw [ring_eq]
  dsimp only
  split_ifs with covered
  · refine ⟨abides_setReg s _ _, fun none => ?_⟩
    have none : s.bell.cuts = [] := none
    rw [none] at covered
    cases covered
  · have rung : s.cutsRung { scope := scope, suit := suit, hand := hand, source := source, t0 := s.time } ≠ [] := by
      unfold State.cutsRung
      simp
    generalize s.cutsRung { scope := scope, suit := suit, hand := hand, source := source, t0 := s.time } = l at rung
    refine ⟨Abides.trans ?_ (abides_syncMode _), by rw [bell_syncMode]; exact rung⟩
    exact ⟨⟨rfl, rfl, rfl, rfl, rfl, rfl⟩, ⟨_, _, rfl⟩, ⟨_, rfl⟩, fun _ => ⟨_, _, _, rfl⟩, fun _ => rung⟩

theorem reeveStop_stops (s : State) : Abides s s.reeveStop ∧ (s.job.run = true → s.reeveStop.job.stopWanted = 1) := by
  obtain ⟨rings, -⟩ := ring_rings s 0 0 0 7
  unfold State.reeveStop
  dsimp only
  have run := rings.run
  generalize s.ring 0 0 0 7 = b at rings run
  exact ⟨rings.trans ⟨⟨rfl, rfl, rfl, rfl, rfl, rfl⟩, ⟨_, _, rfl⟩, ⟨_, rfl⟩, fun _ => ⟨_, _, _, rfl⟩, id⟩, fun on => if_pos (run.trans on)⟩

theorem abides_reeveStop (s : State) : Abides s s.reeveStop := (reeveStop_stops s).1

theorem abides_setGranMode (s : State) (i m : Nat) : Abides s (s.setGranMode i m) := by
  have moded : Abides s (if s.field (Reg.granCtl i) 16 2 = m then s else (s.setField (Reg.granCtl i) 16 2 m).startGrace (Reg.granCtl i)) := by
    split_ifs
    · exact .refl s
    · exact .same rfl
  unfold State.setGranMode
  dsimp only
  generalize (if s.field (Reg.granCtl i) 16 2 = m then s else (s.setField (Reg.granCtl i) 16 2 m).startGrace (Reg.granCtl i)) = b at moded
  cases PMap.find b.staged (Reg.granCtl i) with
  | none => exact moded
  | some x => exact moded.trans (.same rfl)

theorem abides_recover (s : State) (l : List Nat) : Abides s (s.recover l) := by
  unfold State.recover
  split_ifs
  · exact .refl s
  · exact (abides_foldl (fun (s : State) i => s.setGranMode i 1) (fun s i => abides_setGranMode s i 1) l s).trans
      (.same rfl)

/-! ## Stations that stop, and collectives that fail (R388) -/

theorem abides_badRecord (s : State) (h va : Nat) : Abides s (s.badRecord h va) := by
  unfold State.badRecord
  exact ((abides_haltStation s 9 h).trans (abides_setReg _ _ _)).trans ((abides_note _ _).trans (abides_reeveStop _))

theorem abides_escalate (s : State) (st u tid kind : Nat) (refetched : Bool) (serial : Nat) : Abides s (s.escalate st u tid kind refetched serial) := by
  unfold State.escalate State.postHand
  exact (((abides_haltStation s st u).trans (abides_setReg _ _ _)).trans (abides_traceHand _ _ _)).trans (abides_postAt _ _ _ _ _ _ _)

theorem abides_pageFault (s : State) (st u va kind : Nat) (pcopy : Bool) (serial : Nat) : Abides s (s.pageFault st u va kind pcopy serial) := by
  have halted := abides_haltStation s st u
  unfold State.pageFault
  dsimp only
  generalize s.haltStation st u = b at halted ⊢
  have flagged : Abides b (if st = 1 then b.setBit (Reg.loadStat u) 30 else if st = 5 then b.setBit (Reg.storeStat u) 30 else b) := by
    split_ifs
    · exact abides_setReg _ _ _
    · exact abides_setReg _ _ _
    · exact .refl b
  generalize (if st = 1 then b.setBit (Reg.loadStat u) 30 else if st = 5 then b.setBit (Reg.storeStat u) 30 else b) = c at flagged ⊢
  refine ((halted.trans flagged).trans ?_).trans ((abides_note _ _).trans (abides_reeveStop _))
  by_cases again : c.flag (Reg.fstat (handOf st u)) 31 = true
  · rw [if_pos again]
    exact .refl c
  · rw [if_neg again]
    exact (abides_setReg _ _ _).trans ((abides_setReg _ _ _).trans (abides_setReg _ _ _))

theorem abides_refuse (s : State) (st u : Nat) (f : Refuse) (tid serial : Nat) : Abides s (s.refuse st u f tid serial) := by
  cases f with
  | fault a k p => exact abides_pageFault s st u a k p serial
  | poison => exact abides_escalate s st u tid 3 false serial

theorem abides_writeTile {unit tid hva pva : Nat} {x : Tile} (e : s.writeTile unit tid hva pva x = .ok t) : Abides s t := by
  unfold State.writeTile at e
  split at e
  · cases e
  · split at e
    · cases e
    · next w1 =>
      split at e
      · cases e
      · next w2 =>
        obtain rfl := Except.ok.inj e
        exact (abides_flushed (flushed_vwrite (R := Nothing) w1)).trans (abides_flushed (flushed_vwrite (R := Nothing) w2))

theorem abides_writeCompl (s : State) (c : Coll) (status h : Nat) : Abides s (s.writeCompl c status h) := by
  unfold State.writeCompl
  dsimp only
  split_ifs
  · exact .refl s
  · split
    · next w => exact abides_writeTile w
    · exact abides_refuse _ _ _ _ _ _

theorem abides_collMalformed (s : State) (c : Coll) : Abides s (s.collMalformed c) := by
  unfold State.collMalformed
  exact (abides_setColl s _).trans (abides_foldl _ (by intros; exact abides_badRecord _ _ _) _ _)

theorem abides_collFail (s : State) (c : Coll) : Abides s (s.collFail c) := by
  have posted : ∀ (s : State) (sl : List Nat) (code ep detail : Nat), Abides s (s.postDealer sl code ep detail) := fun s sl code ep detail =>
    abides_foldl _ (by intros; exact abides_postAt _ _ _ _ _ _ _) _ _
  have given : ∀ (s : State) (d : BitVec 2048) (n : Nat), Abides s (s.giveSlots d n) := fun s d n =>
    abides_foldl _ (by intros; exact abides_setReg _ _ _) _ _
  unfold State.collFail
  dsimp only
  refine Abides.trans ?_ (abides_foldl _ (by intros; exact abides_writeCompl _ _ _ _) _ _)
  refine Abides.trans ?_ (abides_foldl _ (by intros; exact posted _ _ _ _ _) _ _)
  have cleared := abides_setColl s { c with aborted := true, slots := 0, places := [] }
  split_ifs
  · exact cleared
  · exact cleared.trans (given _ _ _)

theorem abides_failFenced (s : State) : Abides s s.failFenced :=
  abides_foldl _ (fun s c => by
    split_ifs
    · exact abides_collFail s c
    · unfold State.collFilled
      split_ifs
      · exact abides_setColl s _
      · exact abides_setColl s _
      · exact (abides_setColl s c).trans (abides_collMalformed _ _)) _ _

/-! ## Tables that are applied (R360) -/

theorem abides_copyTables (s : State) (i : Nat) : Abides s (s.copyTables i) := by
  have committed : ∀ p, Abides s (s.commitStaged p) := fun p =>
    (abides_foldl (fun (s : State) (e : Nat × W32) => s.commitOne e.1 e.2)
      (by intros; exact .same rfl) _ s).trans
      (.same rfl)
  unfold State.copyTables
  split_ifs
  · exact ((committed _).trans (abides_setReg _ _ _)).trans (abides_failFenced _)
  · exact .refl s

theorem abides_applyBit (s : State) (a i n : Nat) (on : Bool) : Abides s (s.applyBit a i n on) := by
  rw [applyBit_eq]
  exact Abides.trans (s := s.pended a i n on) (.same rfl) (abides_copyTables _ i)

theorem abides_setFence (s : State) (h : Nat) (on : Bool) : Abides s (s.setFence h on) := abides_applyBit ..

theorem abides_setFold (s : State) (i : Nat) (on : Bool) : Abides s (s.setFold i on) :=
  abides_foldl _ (by intros; exact abides_applyBit _ _ _ _ _) _ _

theorem abides_foldTail (s : State) (done : Bool) : Abides s (s.foldTail done) := by
  have failed := abides_failFenced s
  unfold State.foldTail
  dsimp only
  have ends : Abides s (if done then s.failFenced else s.failFenced.jobDone) := by
    split_ifs
    · exact failed
    · exact failed.trans (abides_flushed (jobDone_drains _))
  generalize (if done then s.failFenced else s.failFenced.jobDone) = b at ends ⊢
  split_ifs
  · exact ends.trans (abides_reeveStop b)
  · exact ends

end Sys2Proof
end

section
/-! PROOFS. What the bits of the fence and fold tables leave beside themselves, and the steps before a fold (R294, R360, R439). -/

namespace Sys2Proof

open Machine

variable {r s t : State}

/-! ## Fence bits while fold bits are written -/

section
variable {i n h : Nat} {on : Bool}

/-- A fence bit that is set, pending or active, stays so while a fold bit is written. -/
structure FenceStays (h : Nat) (s t : State) : Prop where
  pending : t.fencePending h = s.fencePending h
  active : s.fencePending h = true → s.fenced h = true → t.fenced h = true
  rising : Rising t.staged
  drained : ∀ j, t.drained j = s.drained j

theorem fenceReg_ne_fabCtl (h k : Nat) : Reg.fence (h / 160) (h % 160 / 32) ≠ Reg.fabCtl k := by
  unfold Reg.fence Reg.fabCtl suitBase
  omega

theorem fencePending_eq (s : State) (h : Nat) : s.fencePending h = (s.bound (Reg.fence (h / 160) (h % 160 / 32))).getLsbD (h % 32) := rfl

theorem fenceStays_applyBit (rising : Rising s.staged) (h k i : Nat) (on : Bool) : FenceStays h s (s.applyBit (Reg.fabCtl k) k i on) := by
  obtain ⟨-, -, other, outside, ris, drained, -⟩ := bitApplied (n := i) (on := on) rising (copiedBy_fabCtl k) (tableAddr_fabCtl k)
  have table := tableAddr_fence (i := h / 160) (n := h % 160 / 32) (by omega)
  have apart := fenceReg_ne_fabCtl h k
  refine ⟨congrArg (fun w : W32 => w.getLsbD (h % 32)) (other _ table apart apart), fun pending active => ?_, ris, drained⟩
  by_cases mine : copiedBy k (Reg.fence (h / 160) (h % 160 / 32)) = true
  · unfold State.fenced at active ⊢
    rw [flag_eq_getLsbD] at active ⊢
    rw [applyBit_eq]
    have pended : (s.pended (Reg.fabCtl k) k i on).reg (Reg.fence (h / 160) (h % 160 / 32)) = s.reg (Reg.fence (h / 160) (h % 160 / 32)) := reg_pended apart
    cases dry : s.drained k with
    | false =>
      have waits : (s.pended (Reg.fabCtl k) k i on).copyTables k = s.pended (Reg.fabCtl k) k i on := by
        unfold State.copyTables
        rw [drained_pended, dry, Bool.and_false]
        rfl
      rw [waits, pended]
      exact active
    | true =>
      rw [copyTables_eq (asked_pended s _ k i on) dry, (tables_failFenced _).reg _ table]
      have cleared : (((s.pended (Reg.fabCtl k) k i on).applied k).clearBit (Reg.fabCtl k) 31).reg (Reg.fence (h / 160) (h % 160 / 32)) =
          ((s.pended (Reg.fabCtl k) k i on).applied k).reg (Reg.fence (h / 160) (h % 160 / 32)) := State.reg_setField_other _ _ _ _ _ _ apart
      rw [cleared, reg_applied_all (rising_pended rising), if_pos mine, bound_pended_other apart apart]
      exact pending
  · unfold State.fenced at active ⊢
    rw [flag_eq_getLsbD] at active ⊢
    rw [outside _ table (by simpa using mine)]
    exact active

theorem fenceStays_setFold (rising : Rising s.staged) (h i : Nat) (on : Bool) : FenceStays h s (s.setFold i on) := by
  unfold State.setFold
  generalize (suits4.filter fun j => !s.suitDark j) = l
  induction l generalizing s with
  | nil => exact ⟨rfl, fun _ => id, rising, fun _ => rfl⟩
  | cons k l ih =>
    have first := fenceStays_applyBit rising h k i on
    have rest := ih first.rising
    exact ⟨rest.pending.trans first.pending, fun p a => rest.active (first.pending.trans p) (first.active p a), rest.rising,
      fun j => (rest.drained j).trans (first.drained j)⟩

theorem rising_setFence (rising : Rising s.staged) (h : Nat) (on : Bool) : Rising (s.setFence h on).staged ∧
    ∀ j, (s.setFence h on).drained j = s.drained j := by
  obtain ⟨-, -, -, -, ris, drained, -⟩ := bitApplied (a := Reg.fence (h / 160) (h % 160 / 32)) (n := h % 32) (on := on) rising
    (copiedBy_fence (i := h / 160) (by omega)) (tableAddr_fence (by omega))
  exact ⟨ris, drained⟩

end

/-! ## Tables written while no collective stands -/

/-- The addresses of a suit's tables. -/
def SuitTables (i a : Nat) : Prop := Reg.fabCtl i ≤ a ∧ a ≤ Reg.fence i 4

/-- The addresses of the tables of the four suits. -/
def TableRange (a : Nat) : Prop := ∃ j < 4, SuitTables j a

theorem not_tableRange {a : Nat} (out : ∀ j < 4, a < Reg.fabCtl j ∨ Reg.fence j 4 < a) : ¬ TableRange a := by
  rintro ⟨j, lt, low, high⟩
  have := out j lt
  omega

/-- Only tables, their pending values and the grace of their blocks change. -/
structure TableStep (P : Nat → Prop) (s t : State) : Prop where
  eq : t = { s with regs := t.regs, staged := t.staged, cfg := t.cfg }
  reg : ∀ a, ¬ P a → t.reg a = s.reg a

section
variable {P Q : Nat → Prop}

theorem TableStep.refl (s : State) : TableStep P s s := ⟨rfl, fun _ _ => rfl⟩

theorem TableStep.trans (a : TableStep P r s) (b : TableStep P s t) : TableStep P r t :=
  ⟨by rw [b.eq, a.eq], fun x out => (b.reg x out).trans (a.reg x out)⟩

theorem TableStep.mono (a : TableStep P s t) (sub : ∀ x, P x → Q x) : TableStep Q s t := ⟨a.eq, fun x out => a.reg x (mt (sub x) out)⟩

theorem TableStep.colls (a : TableStep P s t) : t.colls = s.colls := by rw [a.eq]
end

theorem copiedBy_range {i a : Nat} (mine : copiedBy i a = true) : SuitTables i a := by
  by_contra out
  have off : a < Reg.fabCtl i ∨ Reg.fence i 4 < a := by
    by_contra both
    exact out ⟨by omega, by omega⟩
  rw [copiedBy_outside off] at mine
  cases mine

theorem tableStep_applyBit {a i n : Nat} {on : Bool} (rising : Rising s.staged) (none : s.colls = []) : TableStep (SuitTables i) s (s.applyBit a i n on) := by
  rw [applyBit_eq]
  have fab : ∀ b, ¬ SuitTables i b → b ≠ Reg.fabCtl i := fun b out e =>
    out ⟨by omega, by rw [e]; unfold Reg.fence Reg.fabCtl; omega⟩
  have first : TableStep (SuitTables i) s (s.pended a i n on) := ⟨rfl, fun b out => reg_pended (fab b out)⟩
  refine first.trans ?_
  have ris := rising_pended (a := a) (i := i) (n := n) (on := on) rising
  have none : (s.pended a i n on).colls = [] := none
  have asked := asked_pended s a i n on
  generalize s.pended a i n on = b at ris none asked
  cases dry : b.drained i with
  | false =>
    unfold State.copyTables
    rw [dry, Bool.and_false]
    exact .refl b
  | true =>
    obtain ⟨x, g, e⟩ := applied_eq b i
    rw [copyTables_eq asked dry, failFenced_of_no_colls (by rw [e]; exact none)]
    refine ⟨by rw [e]; rfl, fun c out => ?_⟩
    rw [show ((b.applied i).clearBit (Reg.fabCtl i) 31).reg c = (b.applied i).reg c from State.reg_setField_other _ _ _ _ _ _ (fab c out),
      reg_applied_all ris, if_neg fun mine => out (copiedBy_range mine)]

theorem tableStep_setFence {h : Nat} {on : Bool} (rising : Rising s.staged) (none : s.colls = []) :
    TableStep (SuitTables (h / 160)) s (s.setFence h on) :=
  tableStep_applyBit rising none

/-- The tables of the suits that have their rails. -/
def Machine.State.LitTables (s : State) (a : Nat) : Prop := ∃ j < 4, s.suitDark j = false ∧ SuitTables j a

theorem LitTables.range {a : Nat} (lit : s.LitTables a) : TableRange a := by
  obtain ⟨j, lt, -, tables⟩ := lit
  exact ⟨j, lt, tables⟩

theorem tableStep_setFold {i : Nat} {on : Bool} (rising : Rising s.staged) (none : s.colls = []) : TableStep s.LitTables s (s.setFold i on) := by
  unfold State.setFold
  have low : ∀ j ∈ suits4.filter fun j => !s.suitDark j, ∀ a, SuitTables j a → s.LitTables a := fun j m a mine => by
    obtain ⟨m, lit⟩ := List.mem_filter.1 m
    refine ⟨j, ?_, by simpa using lit, mine⟩
    unfold suits4 at m
    grind
  generalize s.LitTables = P at low
  generalize (suits4.filter fun j => !s.suitDark j) = l at low
  induction l generalizing s with
  | nil => exact .refl s
  | cons k l ih =>
    have first := (tableStep_applyBit (a := Reg.fabCtl k) (i := k) (n := i) (on := on) rising none).mono (low k (List.mem_cons_self ..))
    have ris := (bitApplied (n := i) (on := on) rising (copiedBy_fabCtl k) (tableAddr_fabCtl k)).rising
    exact first.trans (ih ris (first.colls.trans none) fun j m => low j (List.mem_cons_of_mem _ m))

/-! ## Rings and recoveries before a fold -/

/-- What goes before a fold leaves the packets, the collectives, memory and the units, and the pending values in canonical form. -/
structure Before (s t : State) : Prop where
  net : t.net = s.net
  inbox : t.inbox = s.inbox
  colls : t.colls = s.colls
  mem : t.mem = s.mem
  hands : t.hands = s.hands
  cores : t.cores = s.cores
  rising : Rising s.staged → Rising t.staged
  reg : ∀ a, a ≠ Reg.bellStat → (∀ j, a ≠ Reg.granCtl j) → t.reg a = s.reg a

theorem Before.refl (s : State) : Before s s := ⟨rfl, rfl, rfl, rfl, rfl, rfl, id, fun _ _ _ => rfl⟩

theorem Before.trans (a : Before r s) (b : Before s t) : Before r t :=
  ⟨b.net.trans a.net, b.inbox.trans a.inbox, b.colls.trans a.colls, b.mem.trans a.mem, b.hands.trans a.hands, b.cores.trans a.cores, b.rising ∘ a.rising,
    fun x p q => (b.reg x p q).trans (a.reg x p q)⟩

theorem before_foldl {α : Type} (f : State → α → State) (each : ∀ s x, Before s (f s x)) (l : List α) (s : State) : Before s (l.foldl f s) := by
  induction l generalizing s with
  | nil => exact .refl s
  | cons x l ih => exact (each s x).trans (ih _)

theorem Before.drained (a : Before s t) (j : Nat) : t.drained j = s.drained j := by
  unfold State.drained
  rw [a.net, a.inbox]

theorem before_syncMode (s : State) : Before s s.syncMode := by
  unfold State.syncMode
  split_ifs
  · exact .refl s
  · exact ⟨rfl, rfl, rfl, rfl, rfl, rfl, id, fun _ _ _ => rfl⟩

theorem before_bellStat (s : State) (v : W32) : Before s (s.setReg Reg.bellStat v) :=
  ⟨rfl, rfl, rfl, rfl, rfl, rfl, id, fun _ p _ => (State.reg_setReg ..).trans (if_neg p)⟩

theorem before_bellField (s : State) (lo n v : Nat) : Before s (s.setField Reg.bellStat lo n v) := before_bellStat s _

theorem before_bellBit (s : State) (n : Nat) : Before s (s.setBit Reg.bellStat n) := before_bellStat s _

theorem before_bell (s : State) (b : Bell) : Before s { s with bell := b } :=
  ⟨rfl, rfl, rfl, rfl, rfl, rfl, id, fun _ _ _ => rfl⟩

theorem before_ring (s : State) (scope suit hand source : Nat) : Before s (s.ring scope suit hand source) := by
  rw [ring_eq]
  dsimp only
  split_ifs
  · exact before_bellStat s _
  · generalize s.cutsRung { scope := scope, suit := suit, hand := hand, source := source, t0 := s.time } = l
    refine Before.trans ?_ (before_syncMode _)
    exact ((before_bellField s _ _ _).trans (before_bellBit _ _)).trans (before_bell _ _)

theorem before_setGranMode (s : State) (i m : Nat) : Before s (s.setGranMode i m) := by
  have moded : Before s (if s.field (Reg.granCtl i) 16 2 = m then s else (s.setField (Reg.granCtl i) 16 2 m).startGrace (Reg.granCtl i)) := by
    split_ifs
    · exact .refl s
    · exact ⟨rfl, rfl, rfl, rfl, rfl, rfl, id, fun a _ q => State.reg_setField_other _ _ _ _ _ _ (q i)⟩
  unfold State.setGranMode
  dsimp only
  generalize (if s.field (Reg.granCtl i) 16 2 = m then s else (s.setField (Reg.granCtl i) 16 2 m).startGrace (Reg.granCtl i)) = b at moded
  cases PMap.find b.staged (Reg.granCtl i) with
  | none => exact moded
  | some x => exact moded.trans ⟨rfl, rfl, rfl, rfl, rfl, rfl, rising_put _ _, fun _ _ _ => rfl⟩

theorem before_recover (s : State) (l : List Nat) : Before s (s.recover l) := by
  unfold State.recover
  split_ifs
  · exact .refl s
  · exact (before_foldl (fun (s : State) i => s.setGranMode i 1) (fun s i => before_setGranMode s i 1) l s).trans
      ⟨rfl, rfl, rfl, rfl, rfl, rfl, id, fun _ _ _ => rfl⟩

theorem before_reeveStop (s : State) : Before s s.reeveStop := by
  unfold State.reeveStop
  exact (before_ring s 0 0 0 7).trans ⟨rfl, rfl, rfl, rfl, rfl, rfl, id, fun _ _ _ => rfl⟩

theorem carries_syncMode (s : State) : Carries s s.syncMode := by
  unfold State.syncMode
  split_ifs
  · exact .refl s
  · exact carries_same rfl rfl

theorem carries_ring (s : State) (scope suit hand source : Nat) : Carries s (s.ring scope suit hand source) := by
  rw [ring_eq]
  dsimp only
  split_ifs
  · exact carries_setReg _ _ _
  · generalize s.cutsRung { scope := scope, suit := suit, hand := hand, source := source, t0 := s.time } = l
    refine Carries.trans ?_ (carries_syncMode _)
    exact carries_same rfl rfl

theorem carries_setGranMode (s : State) (i m : Nat) : Carries s (s.setGranMode i m) := by
  have moded : Carries s (if s.field (Reg.granCtl i) 16 2 = m then s else (s.setField (Reg.granCtl i) 16 2 m).startGrace (Reg.granCtl i)) := by
    split_ifs
    · exact .refl s
    · exact carries_same rfl rfl
  unfold State.setGranMode
  dsimp only
  generalize (if s.field (Reg.granCtl i) 16 2 = m then s else (s.setField (Reg.granCtl i) 16 2 m).startGrace (Reg.granCtl i)) = b at moded
  cases PMap.find b.staged (Reg.granCtl i) with
  | none => exact moded
  | some x => exact moded.trans (carries_same rfl rfl)

theorem carries_recover (s : State) (l : List Nat) : Carries s (s.recover l) := by
  unfold State.recover
  split_ifs
  · exact .refl s
  · exact (carries_foldl (fun (s : State) i => s.setGranMode i 1) (fun s i => carries_setGranMode s i 1) l s).trans
      ⟨fun _ => rfl, rfl, rfl, fun _ => id⟩

end Sys2Proof
end

section
/-! PROOFS. A hand fold (R439): the fence and fold bits, the suit out of service, the record. -/

namespace Sys2Proof

open Machine

variable {r s t : State}

/-! ## The tail of a fold -/

theorem not_tableAddr_flush {a : Nat} (flush : FlushRegs a ∨ a = Reg.jobStat) : ¬ TableAddr a := by
  rcases flush with ⟨h, -, rfl | rfl⟩ | rfl
  · exact not_tableAddr_hand h _ (by decide)
  · exact not_tableAddr_hand h _ (by decide)
  · unfold TableAddr Reg.jobStat
    omega

theorem tables_jobDone (s : State) : Tables s s.jobDone :=
  tables_memFrame (jobDone_drains s).frame (fun _ => not_tableAddr_flush) (jobDone_drains s).calm

theorem tables_foldTail (s : State) (done : Bool) : Tables s (s.foldTail done) := by
  have failed := tables_failFenced s
  unfold State.foldTail
  dsimp only
  have ends : Tables s (if done then s.failFenced else s.failFenced.jobDone) := by
    split_ifs
    · exact failed
    · exact failed.trans (tables_jobDone _)
  generalize (if done then s.failFenced else s.failFenced.jobDone) = b at ends ⊢
  split_ifs
  · exact ends.trans (tables_reeveStop b)
  · exact ends

/-- The last suit out stops the deal (R40). -/
theorem foldTail_stops {done : Bool} (run : s.job.run = true) (out : ∀ j < 4, (s.foldTail done).suitUp j = false) :
    (s.foldTail done).job.stopWanted = 1 := by
  have failed := abides_failFenced s
  unfold State.foldTail at out ⊢
  dsimp only at out ⊢
  have ends : Abides s (if done then s.failFenced else s.failFenced.jobDone) := by
    split_ifs
    · exact failed
    · exact failed.trans (abides_flushed (jobDone_drains _))
  generalize (if done then s.failFenced else s.failFenced.jobDone) = b at ends out ⊢
  obtain ⟨abides, stops⟩ := reeveStop_stops b
  have none : b.suitsUp = [] := by
    refine List.filter_eq_nil_iff.2 fun j m => ?_
    have lt : j < 4 := by
      unfold suits4 at m
      grind
    have off := out j lt
    split_ifs at off
    · rw [abides.suitUp (carries_reeveStop b)] at off
      rw [off]
      decide
    · rw [off]
      decide
  rw [if_pos (by rw [none]; rfl)]
  exact stops (ends.run.trans run)

/-- With no deal and no collective, the tail of a fold changes nothing but what the Bell shows. -/
theorem foldTail_calm {done : Bool} (idle : s.job.run = false) (none : s.colls = []) :
    (s.foldTail done).mem = s.mem ∧ (s.foldTail done).cores = s.cores ∧ (s.foldTail done).hands = s.hands ∧
      ∀ a, a ≠ Reg.bellStat → (s.foldTail done).reg a = s.reg a := by
  have still : s.jobDone = s := by
    unfold State.jobDone
    rw [idle]
    rfl
  have same : (if done then s.failFenced else s.failFenced.jobDone) = s := by
    rw [failFenced_of_no_colls none, still, ite_self]
  unfold State.foldTail
  dsimp only
  rw [same]
  split_ifs
  · obtain ⟨x, b, c, j, e, -, reg⟩ := reeveStop_rung s
    exact ⟨by rw [e], by rw [e], by rw [e], reg⟩
  · exact ⟨rfl, rfl, rfl, fun _ _ => rfl⟩

/-! ## A hand fold -/

/-- No recovery under way, and the suit's fence by the constable over. -/
def Machine.State.foldBusy (s : State) (i : Nat) : State :=
  ({ s with sec := { s.sec with fencedSuits := s.sec.fencedSuits.filter (· != i) } } : State).setBusy none

/-- The hand's local Bell, where a deal runs. -/
def Machine.State.handBell (s : State) (h : Nat) : State :=
  if s.job.run then (s.ring 2 (h / 160) (h % 160) 7).recover [h / 160] else s

/-- The suit out of service, its power and memory kept. -/
def Machine.State.suitOut (s : State) (i : Nat) : State :=
  { s with recov := { s.recov with outSuits := if s.recov.outSuits.contains i then s.recov.outSuits else s.recov.outSuits ++ [i] } }

theorem foldHand_eq (s : State) (h cause : Nat) : ∃ done, s.foldHand h cause =
    ((((((s.foldBusy (h / 160)).handBell h).setFence h true).setFold (h / 160) true).suitOut (h / 160)).postAt s.time (handReeve h) 3 0x08 (epHand h 31)
      (cause <<< 45 + 1 <<< 44)).foldTail done := by
  unfold State.foldHand
  extract_lets i sec0 s0 s1 s2 s3 s4 s5
  exact ⟨s0.allDone, rfl⟩

theorem handBell_before (s : State) (h : Nat) : Before s (s.handBell h) ∧ Abides s (s.handBell h) ∧ Carries s (s.handBell h) := by
  unfold State.handBell
  split_ifs
  · exact ⟨(before_ring _ _ _ _ _).trans (before_recover _ _), (ring_rings _ _ _ _ _).1.trans (abides_recover _ _),
      (carries_ring _ _ _ _ _).trans (carries_recover _ _)⟩
  · exact ⟨.refl s, .refl s, .refl s⟩

theorem handBell_rings {h : Nat} (run : s.job.run = true) : (s.handBell h).bell.cuts ≠ [] := by
  unfold State.handBell
  rw [if_pos run]
  exact (abides_recover _ _).cuts (ring_rings _ _ _ _ _).2

theorem suitOut_out (s : State) (i : Nat) : i ∈ (s.suitOut i).recov.outSuits := by
  unfold State.suitOut
  dsimp only
  split_ifs with there
  · simpa using there
  · simp

end Sys2Proof
end

section
/-! PROOFS. A core swap that folds its hand while the pending values of a fence register are no map (R426, R439). -/

namespace Sys2Proof

open Machine

/-- Suit 0 is in service, and its first fence register has two pending values, both 0. -/
def twiceState : State := { State.reset with suits := [(0, { powered := true })], staged := [(Reg.fence 0 0, 0), (Reg.fence 0 0, 0)] }

/-- The bit that the fold writes to the first pending value is lost when the second one is applied. -/
theorem twice_lost : (twiceState.foldHand 0 0).bound (Reg.fence 0 0) = 0 := by
  decide +kernel

theorem twice_swap : execCoreSwap 0 0 false twiceState = .next (twiceState.foldHand 0 0) := by
  have fit : (twiceState.flag (Reg.spare 0) 31 || twiceState.flag (Reg.spare 0) 0 || !false) = true := Bool.or_true _
  unfold execCoreSwap
  dsimp only
  rw [if_neg (by decide +kernel)]
  exact congrArg Host.Outcome.next (if_pos fit)

/-- Refutes O52: it speaks of every state, and where a fence register has two pending values the hand of a core that the kitty cannot
replace is folded without its fence bit. -/
theorem not_replayAndCoreSwap : ¬ Obligations.ReplayAndCoreSwap := by
  intro holds
  obtain ⟨-, swaps⟩ := holds twiceState
  obtain ⟨-, folds, -⟩ := swaps 0 0 false
  obtain ⟨t, acts, fenced, -⟩ := folds (by decide +kernel) (by decide +kernel)
  obtain rfl : twiceState.foldHand 0 0 = t := Host.Outcome.next.inj (twice_swap.symm.trans acts)
  have lost : (twiceState.foldHand 0 0).bound (Reg.fence ((0 : CoreIx).val / 17 / 160) ((0 : CoreIx).val / 17 % 160 / 32)) = 0 := twice_lost
  rw [lost] at fenced
  exact absurd fenced (by decide)

end Sys2Proof
end

section
/-! PROOFS. HAND_FOLD (R426, R428, R439). -/

namespace Sys2Proof

open Machine

variable {r s t : State}

/-- Everything that a hand fold writes before its tail. -/
def Machine.State.handFolded (s : State) (h cause : Nat) : State :=
  (((((s.foldBusy (h / 160)).handBell h).setFence h true).setFold (h / 160) true).suitOut (h / 160)).postAt s.time (handReeve h) 3 0x08 (epHand h 31)
    (cause <<< 45 + 1 <<< 44)

/-- What a hand fold does to its suit, and to the hand's fence bit. -/
structure HandFolds (h cause : Nat) (s t : State) : Prop where
  fence : t.fencePending h = true
  fenced : s.net = [] → s.inbox = [] → t.fenced h = true
  folds : ∀ j < 4, s.suitDark j = false → (t.bound (Reg.fabCtl j)).getLsbD (h / 160) = true
  out : h / 160 ∈ t.recov.outSuits
  powered : (t.suit (h / 160)).powered = (s.suit (h / 160)).powered
  record : ∃ r w, (r, w) ∈ t.recov.flight ∧ w = faultWord s.time 3 0x08 (epHand h 31) (cause <<< 45 + 1 <<< 44)
  cuts : s.job.run = true → t.bell.cuts ≠ []
  run : t.job.run = s.job.run

theorem handFolded_folds {h cause : Nat} (lt : h < 640) (rising : Rising s.staged) : HandFolds h cause s (s.handFolded h cause) := by
  have small : h / 160 < 4 := by omega
  obtain ⟨before, abides, carries⟩ := handBell_before (s.foldBusy (h / 160)) h
  have rings := handBell_rings (s := s.foldBusy (h / 160)) (h := h)
  have start : (s.foldBusy (h / 160)).net = s.net ∧ (s.foldBusy (h / 160)).inbox = s.inbox := ⟨rfl, rfl⟩
  have dark : ∀ j, ((s.foldBusy (h / 160)).handBell h).suitDark j = s.suitDark j := fun j => abides.suitDark carries j
  have powered : (((s.foldBusy (h / 160)).handBell h).suit (h / 160)).powered = (s.suit (h / 160)).powered := abides.powered _
  have run : ((s.foldBusy (h / 160)).handBell h).job.run = s.job.run := abides.run
  have ris := before.rising rising
  have net := before.net
  have inbox := before.inbox
  unfold State.handFolded
  generalize (s.foldBusy (h / 160)).handBell h = b at *
  have fence := setFence_sets (h := h) (on := true) ris
  obtain ⟨ris', dry⟩ := rising_setFence ris h true
  have abides' := abides_setFence b h true
  have carries' : Carries b (b.setFence h true) := carries_applyBit ..
  have dark' : ∀ j, (b.setFence h true).suitDark j = s.suitDark j := fun j => (abides'.suitDark carries' j).trans (dark j)
  generalize b.setFence h true = c at *
  have fold := setFold_sets (i := h / 160) (on := true) (by omega) ris'
  have stays := fenceStays_setFold ris' h (h / 160) true
  have abides'' := abides_setFold c (h / 160) true
  have carries'' := carries_setFold c (h / 160) true
  generalize c.setFold (h / 160) true = d at *
  refine ⟨stays.pending.trans fence.pending, fun noNet noInbox => ?_, fun j low lit => ?_, suitOut_out d _, ?_, ⟨_, _, List.mem_append_right _ (List.mem_singleton_self _), rfl⟩,
    fun on => ?_, ?_⟩
  · refine stays.active fence.pending (fence.active ?_)
    unfold State.drained
    rw [net, inbox, start.1, start.2, noNet, noInbox]
    rfl
  · exact fold.pending j (mem_litSuits low ((dark' j).trans lit))
  · exact (abides''.powered _).trans ((abides'.powered _).trans powered)
  · exact abides''.cuts (abides'.cuts (rings on))
  · exact abides''.run.trans (abides'.run.trans run)

theorem HandFolds.trans_tail {h cause : Nat} (folds : HandFolds h cause s t) (done : Bool) : HandFolds h cause s (t.foldTail done) := by
  have tables := tables_foldTail t done
  have carries := carries_foldTail t done
  have abides := abides_foldTail t done
  obtain ⟨fence, fenced, bits, out, powered, ⟨r, w, flies, word⟩, cuts, run⟩ := folds
  refine ⟨?_, fun noNet noInbox => ?_, fun j low lit => ?_, by rw [carries.out]; exact out, (carries.powered _).trans powered,
    ⟨r, w, carries.flight flies, word⟩, fun on => abides.cuts (cuts on), abides.run.trans run⟩
  · rw [fencePending_eq, tables.bound _ (tableAddr_fence (by omega))]
    exact fence
  · unfold State.fenced
    rw [flag_eq_getLsbD, tables.reg _ (tableAddr_fence (by omega)), ← flag_eq_getLsbD]
    exact fenced noNet noInbox
  · rw [tables.bound _ (tableAddr_fabCtl j)]
    exact bits j low lit

theorem foldHand_folds {h cause : Nat} (lt : h < 640) (rising : Rising s.staged) : HandFolds h cause s (s.foldHand h cause) := by
  obtain ⟨done, e⟩ := foldHand_eq s h cause
  rw [e]
  exact (handFolded_folds lt rising).trans_tail done

theorem suitUp_of_out {i : Nat} (out : i ∈ s.recov.outSuits) : s.suitUp i = false := by
  unfold State.suitUp
  rw [List.contains_iff_mem.2 out]
  simp

/-- With no deal and no collective, a hand fold leaves memory and units, and the registers but for the tables and the Bell's. -/
theorem foldHand_calm {h cause : Nat} (lt : h < 640) (rising : Rising s.staged) (idle : s.job.run = false) (none : s.colls = []) :
    (s.foldHand h cause).mem = s.mem ∧ (s.foldHand h cause).cores = s.cores ∧ (s.foldHand h cause).hands = s.hands ∧
      ∀ a, ¬ TableRange a → a ≠ Reg.bellStat → (s.foldHand h cause).reg a = s.reg a := by
  obtain ⟨done, e⟩ := foldHand_eq s h cause
  have quiet : (s.foldBusy (h / 160)).handBell h = s.foldBusy (h / 160) := by
    unfold State.handBell
    exact if_neg (by rw [show (s.foldBusy (h / 160)).job.run = s.job.run from rfl, idle]; decide)
  have step := (tableStep_setFence (s := s.foldBusy (h / 160)) (h := h) (on := true) rising none).mono (Q := TableRange) fun _ mine => ⟨_, by omega, mine⟩
  have step' := step.trans ((tableStep_setFold (i := h / 160) (on := true) (rising_setFence (s := s.foldBusy (h / 160)) rising h true).1 (step.colls.trans none)).mono
    fun _ => LitTables.range)
  rw [e, quiet]
  generalize ((s.foldBusy (h / 160)).setFence h true).setFold (h / 160) true = b at step'
  obtain ⟨mem, cores, hands, reg⟩ := foldTail_calm (s := (b.suitOut (h / 160)).postAt s.time (handReeve h) 3 0x08 (epHand h 31) (cause <<< 45 + 1 <<< 44))
    (done := done) (by show b.job.run = false; rw [step'.eq]; exact idle) (step'.colls.trans none)
  refine ⟨mem.trans ?_, cores.trans ?_, hands.trans ?_, fun a out bell => (reg a bell).trans (step'.reg a out)⟩
  · show b.mem = _
    rw [step'.eq]
    rfl
  · show b.cores = _
    rw [step'.eq]
    rfl
  · show b.hands = _
    rw [step'.eq]
    rfl

/-! ## The record HAND_FOLDED (R418, R439) -/

theorem bit_eq_getLsbD (w : W32) (n : Nat) : bit w.toNat n = w.getLsbD n := by
  rw [BitVec.getLsbD, testBit_eq_bits]
  exact Bool.beq_eq_decide_eq _ _

theorem foldedWord {time h cause : Nat} (low : cause ≤ 3) :
    let w := faultWord time 3 0x08 (epHand h 31) (cause <<< 45 + 1 <<< 44)
    bits w.toNat 0 8 = 0x08 ∧ recSev w = 3 ∧ bits w.toNat 16 16 = epHand h 31 % 65536 ∧ bit w.toNat 124 = true ∧ bits w.toNat 125 3 = cause := by
  intro w
  have detail : bits w.toNat 80 48 = (cause <<< 45 + 1 <<< 44) % 2 ^ 48 := faultWord_detail _ _ _ _ _
  refine ⟨faultWord_code _ _ _ _ _, faultWord_sev _ _ _ _ _, faultWord_ep _ _ _ _ _, ?_, ?_⟩
  · unfold bit
    rw [← bits_bits w.toNat 80 48 44 1 (by decide), detail]
    interval_cases cause <;> rfl
  · rw [← bits_bits w.toNat 80 48 45 3 (by decide), detail]
    interval_cases cause <;> rfl

theorem epHand_fits {h : Nat} (lt : h < 640) : epHand h 31 < 65536 := by
  unfold epHand
  simp only [Nat.shiftLeft_eq]
  omega

/-! ## The command -/

/-- When a hand fold acts. -/
def Machine.State.foldsHand (s : State) (h cause : Nat) : Prop :=
  cause ≤ 3 ∧ (s.suit (h / 160)).powered = true ∧ s.fenced h = false ∧ s.mayFold (h / 160) = true ∧ (cause = 3 → s.driftedTwice (Reg.seqCtl h) = true)

theorem execHandFold_folds {h : HandIx} {cause : Nat} (folds : s.foldsHand h.val cause) : execHandFold h cause s = .next (s.foldHand h.val cause) := by
  obtain ⟨low, power, free, may, drift⟩ := folds
  unfold execHandFold
  rw [if_neg]
  rintro (c | c | c | c | ⟨c, d⟩)
  · omega
  · rw [power] at c
    cases c
  · rw [free] at c
    cases c
  · rw [may] at c
    cases c
  · rw [drift c] at d
    cases d

theorem execHandFold_stays {h : HandIx} {cause : Nat} (not : ¬ s.foldsHand h.val cause) : execHandFold h cause s = .next s := by
  unfold execHandFold
  rw [if_pos]
  by_contra no
  simp only [not_or, not_and, Bool.not_eq_true, Bool.not_eq_eq_eq_not, Bool.not_true, not_lt] at no
  obtain ⟨low, power, free, may, drift⟩ := no
  exact not ⟨low, by simpa using power, by simpa using free, by simpa using may, fun c => by simpa using drift c⟩

theorem handFolds (safe : Safe s) (h : HandIx) (cause : Nat) :
    let i := h.val / 160
    (¬ s.foldsHand h.val cause → Does (.handFold h cause) s fun t => t = s) ∧
    (s.foldsHand h.val cause → Does (.handFold h cause) s fun t => bit (t.bound (Reg.fence i (h.val % 160 / 32))).toNat (h.val % 32) = true ∧
      (s.net = [] → s.inbox = [] → t.fenced h.val = true) ∧ (∀ j < 4, s.suitDark j = false → bit (t.bound (Reg.fabCtl j)).toNat i = true) ∧
      t.suitUp i = false ∧ i ∈ t.recov.outSuits ∧ (t.suit i).powered = true ∧
      (∃ r w, (r, w) ∈ t.recov.flight ∧ bits w.toNat 0 8 = 0x08 ∧ recSev w = 3 ∧ bits w.toNat 16 16 = epHand h.val 31 ∧ bit w.toNat 124 = true ∧
        bits w.toNat 125 3 = cause) ∧
      (s.job.run = true → t.bell.cuts ≠ []) ∧ (s.job.run = true → (∀ j < 4, t.suitUp j = false) → t.job.stopWanted = 1) ∧
      (s.job.run = false → s.colls = [] → t.mem = s.mem ∧ t.cores = s.cores ∧ t.hands = s.hands ∧
        ∀ a, (∀ j < 4, a < Reg.fabCtl j ∨ Reg.fence j 4 < a) → a ≠ Reg.bellStat → t.reg a = s.reg a)) := by
  have rising := safe.2.2.2.2
  refine ⟨fun not => ⟨s, execHandFold_stays not, rfl⟩, fun folds => ⟨_, execHandFold_folds folds, ?_⟩⟩
  obtain ⟨low, power, -⟩ := folds
  obtain ⟨fence, fenced, bits, out, powered, ⟨r, w, flies, rfl⟩, cuts, run⟩ := foldHand_folds (cause := cause) h.isLt rising
  obtain ⟨code, sev, ep, suitOut, caused⟩ := foldedWord (time := s.time) (h := h.val) low
  refine ⟨(bit_eq_getLsbD _ _).trans fence, fenced, fun j lt lit => (bit_eq_getLsbD _ _).trans (bits j lt lit), suitUp_of_out out, out,
    powered.trans power, ⟨r, _, flies, code, sev, ep.trans (Nat.mod_eq_of_lt (epHand_fits h.isLt)), suitOut, caused⟩, cuts, fun on all => ?_,
    fun idle none => ?_⟩
  · obtain ⟨done, e⟩ := foldHand_eq s h.val cause
    rw [e] at all ⊢
    exact foldTail_stops ((handFolded_folds (cause := cause) h.isLt rising).run.trans on) all
  · obtain ⟨mem, cores, hands, reg⟩ := foldHand_calm (cause := cause) h.isLt rising idle none
    exact ⟨mem, cores, hands, fun a out bell => reg a (not_tableRange out) bell⟩

end Sys2Proof
end

section
/-! PROOFS. A suit that loses its rails: its links, its registers and its memory (R440). -/

namespace Sys2Proof

open Machine

variable {r s t : State}

/-! ## Maps and memories with entries dropped -/

theorem Machine.PMap.get_dropped {α : Type} {d : α} {m : PMap α} {x : Nat} (none : ∀ e ∈ m, e.1 ≠ x) : PMap.get d m x = d := by
  induction m with
  | nil => rfl
  | cons e m ih =>
    obtain ⟨k, v⟩ := e
    unfold PMap.get
    rw [if_neg (none _ (List.mem_cons_self ..)), ih fun e m => none e (List.mem_cons_of_mem _ m)]
    split_ifs <;> rfl

theorem Machine.Memory.byteFrom_filter (p : Nat → Bool) (x : Nat) {m : Memory} {lo : Nat} (wf : Memory.wfFrom m lo = true) :
    Memory.byte (m.filter fun c => p c.1) x = if p x then Memory.byte m x else 0 := by
  induction m generalizing lo with
  | nil => simp [Memory.byte]
  | cons c m ih =>
    obtain ⟨k, v⟩ := c
    simp only [Memory.wfFrom, Bool.and_eq_true, decide_eq_true_eq] at wf
    have ih := ih wf.2
    have low : x ≤ k → Memory.byte m x = 0 := fun le => Memory.byte_of_lt m (k + 1) x (by omega) wf.2
    cases keeps : p k with
    | true =>
      rw [List.filter_cons_of_pos (by simpa using keeps)]
      unfold Memory.byte
      by_cases here : k = x
      · rw [if_pos here, if_pos here, ← here, if_pos keeps]
      · rw [if_neg here, if_neg here, ih]
        split_ifs <;> rfl
    | false =>
      rw [List.filter_cons_of_neg (by simp [keeps]), ih]
      split_ifs with mine
      · have here : k ≠ x := fun e => by rw [← e, keeps] at mine; cases mine
        rw [show Memory.byte ((k, v) :: m) x = if k = x then v else if x < k then 0 else Memory.byte m x from rfl, if_neg here]
        split_ifs with lt
        · exact low (le_of_lt lt)
        · rfl
      · rfl

theorem Machine.Memory.byte_filter (p : Nat → Bool) (x : Nat) {m : Memory} (wf : Memory.wf m = true) :
    Memory.byte (m.filter fun c => p c.1) x = if p x then Memory.byte m x else 0 := Memory.byteFrom_filter p x wf

/-! ## The links of a suit fenced -/

/-- The suit's Manor link down, and the bridge ends that face it fenced. -/
def Machine.State.linksFenced (s : State) (i : Nat) : State :=
  (endsFacing i).foldl (fun (s : State) b => s.clearBit (Reg.bridgeEnd b) 31) ((s.foldBusy i).setLinkDown (2 * i) true true false)

theorem regsOnly_foldl {α : Type} (f : State → α → State) (each : ∀ s x, RegsOnly s (f s x)) (l : List α) (s : State) : RegsOnly s (l.foldl f s) := by
  induction l generalizing s with
  | nil => exact rfl
  | cons x l ih => exact (each s x).trans (ih _)

theorem linksFenced_regs (s : State) (i : Nat) : RegsOnly ((s.foldBusy i).setLinkDown (2 * i) true true false) (s.linksFenced i) :=
  regsOnly_foldl (fun (s : State) b => s.clearBit (Reg.bridgeEnd b) 31) (by intros; exact rfl) _ _

theorem clearEnds_other {l : List Nat} {a : Nat} (off : ∀ b ∈ l, a ≠ Reg.bridgeEnd b) (s : State) :
    (l.foldl (fun (s : State) b => s.clearBit (Reg.bridgeEnd b) 31) s).reg a = s.reg a := by
  induction l generalizing s with
  | nil => rfl
  | cons b l ih =>
    exact (ih (fun c m => off c (List.mem_cons_of_mem _ m)) _).trans (State.reg_setField_other _ _ _ _ _ _ (off b (List.mem_cons_self ..)))

theorem clearEnds_stays {b : Nat} (l : List Nat) (clear : s.flag (Reg.bridgeEnd b) 31 = false) :
    (l.foldl (fun (s : State) b => s.clearBit (Reg.bridgeEnd b) 31) s).flag (Reg.bridgeEnd b) 31 = false := by
  induction l generalizing s with
  | nil => exact clear
  | cons k l ih =>
    refine ih ?_
    by_cases same : Reg.bridgeEnd b = Reg.bridgeEnd k
    · rw [same]
      exact State.flag_clearBit _ _ 31 (by decide)
    · exact (State.flag_congr (State.reg_setField_other _ _ _ _ _ _ same) 31).trans clear

theorem clearEnds_clear {b : Nat} {l : List Nat} (m : b ∈ l) (s : State) :
    (l.foldl (fun (s : State) b => s.clearBit (Reg.bridgeEnd b) 31) s).flag (Reg.bridgeEnd b) 31 = false := by
  induction l generalizing s with
  | nil => cases m
  | cons k l ih =>
    rcases List.mem_cons.1 m with rfl | m
    · exact clearEnds_stays l (State.flag_clearBit _ _ 31 (by decide))
    · exact ih m _

theorem rising_clearEnds (l : List Nat) (rising : Rising s.regs) : Rising (l.foldl (fun (s : State) b => s.clearBit (Reg.bridgeEnd b) 31) s).regs := by
  induction l generalizing s with
  | nil => exact rising
  | cons k l ih => exact ih (rising_put _ _ rising)

/-! ## The rails off (R440) -/

/-- What a suit that has lost its rails leaves. -/
structure SuitDown (i : Nat) (s t : State) : Prop where
  regs : Rising s.regs → ∀ a, t.reg a = if (locate a).suitOf = some i then Reg.reset a else (s.linksFenced i).reg a
  staged : Rising s.staged → Rising t.staged
  mem : t.mem = Memory.clearRange s.mem (i * 2 ^ 38) ((i + 1) * 2 ^ 38)
  hands : t.hands = s.hands.filter fun e => e.1 / 160 != i
  cores : t.cores = s.cores.filter fun e => e.1 / 2720 != i
  colls : t.colls = s.colls
  run : t.job.run = s.job.run
  packets : s.net = [] → s.inbox = [] → t.net = [] ∧ t.inbox = []
  dark : ∀ j, j ≠ i → t.suitDark j = s.suitDark j
  gone : t.suitDark i = true
  link : (t.link (linkKey (2 * i) true true)).down = true

theorem suitDown_eq (s : State) (i : Nat) : s.suitDown i =
    { (s.linksFenced i).darken i with
      recov := { ((s.linksFenced i).darken i).recov with
        foldedSuits := ((s.linksFenced i).darken i).recov.foldedSuits ++ [i]
        lostReeves := ((s.linksFenced i).darken i).recov.lostReeves ++ (upTo 4).map (i * 4 + ·) } } := rfl

theorem link_setLinkDown (s : State) (b : Nat) : ((s.setLinkDown b true true false).link (linkKey b true true)).down = true := by
  have apart : linkKey b true true ≠ linkKey b true false := by
    unfold linkKey b2n
    simp
  unfold State.setLinkDown
  dsimp only
  rw [if_pos rfl, link_setLink, if_neg apart, link_setLink, if_pos rfl]

theorem linksFenced_eq (s : State) (i : Nat) : ∃ regs links, s.linksFenced i = { s.foldBusy i with regs := regs, links := links } := by
  obtain ⟨links, e⟩ : ∃ links, (s.foldBusy i).setLinkDown (2 * i) true true false = { s.foldBusy i with links := links } := ⟨_, rfl⟩
  exact ⟨_, links, by rw [show s.linksFenced i = _ from linksFenced_regs s i, e]⟩

theorem link_suitDown (s : State) (i : Nat) : ((s.suitDown i).link (linkKey (2 * i) true true)).down = true := by
  have kept : (s.suitDown i).links = (s.linksFenced i).links := rfl
  have links : (s.linksFenced i).links = ((s.foldBusy i).setLinkDown (2 * i) true true false).links := by
    rw [show s.linksFenced i = _ from linksFenced_regs s i]
  have down := link_setLinkDown (s.foldBusy i) (2 * i)
  unfold State.link at down ⊢
  rw [kept, links]
  exact down

theorem reg_suitDown (rising : Rising s.regs) (i a : Nat) :
    (s.suitDown i).reg a = if (locate a).suitOf = some i then Reg.reset a else (s.linksFenced i).reg a := by
  have rising : Rising (s.linksFenced i).regs := rising_clearEnds (endsFacing i) (s := (s.foldBusy i).setLinkDown _ true true false) rising
  refine (PMap.get_filter (Reg.reset a) rising (fun a => (locate a).suitOf != some i) a).trans ?_
  by_cases mine : (locate a).suitOf = some i
  · rw [if_pos mine, mine, bne_self_eq_false, if_neg Bool.false_ne_true]
  · rw [if_neg mine, if_pos (bne_iff_ne.2 mine)]
    rfl

theorem suitDark_suitDown {i j : Nat} (ne : j ≠ i) : (s.suitDown i).suitDark j = s.suitDark j := by
  obtain ⟨regs, links, e⟩ := linksFenced_eq s i
  rw [suitDown_eq, e]
  unfold State.suitDark State.fusedIn State.darken State.foldBusy State.setBusy
  dsimp only
  rw [List.contains_append, List.contains_cons, List.contains_nil, beq_false_of_ne ne, Bool.or_false, Bool.or_false]

theorem suitDown_down (s : State) (i : Nat) : SuitDown i s (s.suitDown i) := by
  refine ⟨fun rising a => reg_suitDown rising i a, ?_, ?_, ?_, ?_, ?_, ?_, ?_, fun j ne => suitDark_suitDown ne, ?_, link_suitDown s i⟩
  all_goals
    obtain ⟨regs, links, e⟩ := linksFenced_eq s i
    rw [suitDown_eq, e]
  · exact fun rising => rising.filter _
  · rfl
  · rfl
  · rfl
  · rfl
  · rfl
  · intro net inbox
    unfold State.darken State.foldBusy State.setBusy
    dsimp only
    rw [net, inbox]
    exact ⟨rfl, rfl⟩
  · unfold State.suitDark State.darken
    simp

end Sys2Proof
end

section
/-! PROOFS. SUIT_FOLD (R360, R440). -/

namespace Sys2Proof

open Machine

variable {r s t : State}

/-! ## Bridge ends during a fold -/

theorem endsStay_of_reg (same : ∀ b, t.reg (Reg.bridgeEnd b) = s.reg (Reg.bridgeEnd b)) : EndsStay s t := fun b _ _ _ => State.field_congr (same b) _ _

theorem endsStay_refl (s : State) : EndsStay s s := fun _ _ _ _ => rfl

theorem Stops.ends (a : Stops s t) : EndsStay s t := endsStay_of_reg fun b => a.reg _ (.inr ⟨b, rfl⟩)

theorem endsStay_foldl {α : Type} (f : State → α → State) (each : ∀ s x, EndsStay s (f s x)) (l : List α) (s : State) : EndsStay s (l.foldl f s) := by
  induction l generalizing s with
  | nil => exact endsStay_refl s
  | cons x l ih => exact (each s x).trans (ih _)

theorem endsStay_collFail (s : State) (c : Coll) : EndsStay s (s.collFail c) := by
  have posted : ∀ (s : State) (sl : List Nat) (code ep detail : Nat), EndsStay s (s.postDealer sl code ep detail) := fun s sl code ep detail =>
    endsStay_foldl _ (by intros; exact (stops_postAt _ _ _ _ _ _ _).ends) _ _
  unfold State.collFail
  dsimp only
  refine EndsStay.trans ?_ (endsStay_foldl _ (by intros; exact (stops_writeCompl _ _ _ _).ends) _ _)
  refine EndsStay.trans ?_ (endsStay_foldl _ (by intros; exact posted _ _ _ _ _) _ _)
  have cleared : EndsStay s (s.setColl { c with aborted := true, slots := 0, places := [] }) := endsStay_of_reg fun _ => rfl
  split_ifs
  · exact cleared
  · exact cleared.trans (endsStay_giveSlots _ _ _)

theorem endsStay_collFilled (s : State) (c : Coll) : EndsStay s (s.collFilled c) := by
  unfold State.collFilled State.collMalformed
  split_ifs
  · exact endsStay_of_reg fun _ => rfl
  · exact endsStay_of_reg fun _ => rfl
  · exact EndsStay.trans (s := (s.setColl c).setColl _) (endsStay_of_reg fun _ => rfl) (endsStay_foldl _ (by intros; exact (stops_badRecord _ _ _).ends) _ _)

theorem endsStay_failFenced (s : State) : EndsStay s s.failFenced :=
  endsStay_foldl _ (fun s c => by
    split_ifs
    · exact endsStay_collFail s c
    · exact endsStay_collFilled s c) _ _

theorem SuitTables.tableAddr {i a : Nat} (mine : SuitTables i a) : TableAddr a := by
  unfold SuitTables Reg.fabCtl Reg.fence suitBase at mine
  unfold TableAddr
  omega

theorem endsStay_applyBit {a i n : Nat} {on : Bool} (rising : Rising s.staged) : EndsStay s (s.applyBit a i n on) := by
  have off : ∀ b, Reg.bridgeEnd b ≠ Reg.fabCtl i := fun b e => not_tableAddr_bridgeEnd b (e ▸ tableAddr_fabCtl i)
  rw [applyBit_eq]
  have ris := rising_pended (a := a) (i := i) (n := n) (on := on) rising
  have asked := asked_pended s a i n on
  refine EndsStay.trans (s := s.pended a i n on) (endsStay_of_reg fun b => reg_pended (off b)) ?_
  generalize s.pended a i n on = b at ris asked
  cases dry : b.drained i with
  | false =>
    unfold State.copyTables
    rw [dry, Bool.and_false]
    exact endsStay_refl b
  | true =>
    rw [copyTables_eq asked dry]
    refine EndsStay.trans (endsStay_of_reg fun e => ?_) (endsStay_failFenced _)
    refine (State.reg_setField_other _ _ _ _ _ _ (off e)).trans ?_
    rw [reg_applied_all ris, if_neg fun mine => not_tableAddr_bridgeEnd e (copiedBy_range mine).tableAddr]

theorem endsStay_setFold (rising : Rising s.staged) (i : Nat) (on : Bool) : EndsStay s (s.setFold i on) := by
  unfold State.setFold
  generalize (suits4.filter fun j => !s.suitDark j) = l
  induction l generalizing s with
  | nil => exact endsStay_refl s
  | cons k l ih =>
    exact (endsStay_applyBit rising).trans (ih (bitApplied (n := i) (on := on) rising (copiedBy_fabCtl k) (tableAddr_fabCtl k)).rising)

theorem endsStay_jobDone (s : State) : EndsStay s s.jobDone := by
  refine endsStay_of_reg fun b => (jobDone_drains s).frame.reg _ ?_ (dealerReg_not_gran (.inr ⟨b, rfl⟩))
  rintro (flush | e)
  · unfold Reg.bridgeEnd at flush
    rw [Nat.add_assoc] at flush
    exact not_flushRegs_suitBase (by omega) flush
  · have := bridgeEnd_high b
    unfold Reg.jobStat at e
    omega

theorem endsStay_foldTail (s : State) (done : Bool) : EndsStay s (s.foldTail done) := by
  have failed := endsStay_failFenced s
  unfold State.foldTail
  dsimp only
  have ends : EndsStay s (if done then s.failFenced else s.failFenced.jobDone) := by
    split_ifs
    · exact failed
    · exact failed.trans (endsStay_jobDone _)
  generalize (if done then s.failFenced else s.failFenced.jobDone) = b at ends ⊢
  split_ifs
  · exact ends.trans (stops_reeveStop b).ends
  · exact ends

/-! ## The fold mask and the record SUIT_FOLDED -/

theorem bit_or (x y i : Nat) : bit (x ||| y) i = (bit x i || bit y i) := by
  have bits : ∀ x, bit x i = x.testBit i := fun x => by
    rw [testBit_eq_bits]
    exact Bool.beq_eq_decide_eq _ _
  rw [bits, bits, bits, Nat.testBit_or]

theorem maskOf_lt (p : Nat → Bool) : sumL ((suits4.filter p).map (2 ^ ·)) < 16 := by
  unfold suits4
  simp only [List.filter_cons, List.filter_nil]
  split_ifs <;> decide

theorem foldMask_lt (s : State) (i : Nat) : s.foldMask i < 16 := Nat.or_lt_two_pow (n := 4) (bits_lt _ _ _) (maskOf_lt _)

/-- A suit fold, the record's mask a mask of suits. -/
theorem foldSuit_masked (s : State) {i : Nat} (cause : Nat) (lt : i < 4) (lit : s.suitDark i = false) : ∃ r mask done, mask < 16 ∧ s.foldSuit i cause =
    (((s.suitDown i).setFold i true).post r 3 0x09 (epReeve (i * 4)) (cause <<< 44 + mask <<< 40)).foldTail done := by
  unfold State.foldSuit
  rw [if_neg (by rw [lit]; decide)]
  extract_lets lead sec0 s0 s1 s2 recov3 s3 s4 mask s5 s6
  have low : mask < 16 := Nat.or_lt_two_pow (n := 4) (foldMask_lt _ _) (by interval_cases i <;> decide)
  exact ⟨if lead / 4 = i then s4.leadReeve else lead, mask, s0.allDone, low, rfl⟩

theorem suitWord {time cause mask e : Nat} (low : cause ≤ 5) (fits : mask < 16) :
    let w := faultWord time 3 0x09 e (cause <<< 44 + mask <<< 40)
    bits w.toNat 0 8 = 0x09 ∧ recSev w = 3 ∧ bits w.toNat 124 4 = cause := by
  intro w
  have detail : bits w.toNat 80 48 = (cause <<< 44 + mask <<< 40) % 2 ^ 48 := faultWord_detail _ _ _ _ _
  refine ⟨faultWord_code _ _ _ _ _, faultWord_sev _ _ _ _ _, ?_⟩
  rw [← bits_bits w.toNat 80 48 44 4 (by decide), detail]
  unfold bits
  simp only [Nat.shiftLeft_eq, Nat.shiftRight_eq_div_pow]
  omega

/-! ## The fold -/

/-- Everything that a suit fold writes before its tail. -/
def Machine.State.suitFolded (s : State) (i reeve detail : Nat) : State := ((s.suitDown i).setFold i true).post reeve 3 0x09 (epReeve (i * 4)) detail

/-- What a suit fold does to the suit's links and to the fold bits. -/
structure SuitFolds (i detail : Nat) (s t : State) : Prop where
  powered : (t.suit i).powered = false
  folded : i ∈ t.recov.foldedSuits
  ends : ∀ b ∈ endsFacing i, t.flag (Reg.bridgeEnd b) 31 = false
  link : (t.link (linkKey (2 * i) true true)).down = true
  pending : ∀ j < 4, j ≠ i → s.suitDark j = false → (t.bound (Reg.fabCtl j)).getLsbD i = true
  active : ∀ j < 4, s.net = [] → s.inbox = [] → j ≠ i → s.suitDark j = false → t.flag (Reg.fabCtl j) i = true
  record : ∃ r time, (r, faultWord time 3 0x09 (epReeve (i * 4)) detail) ∈ t.recov.flight
  run : t.job.run = s.job.run

theorem ends_away {i b : Nat} (lt : i < 4) (m : b ∈ endsFacing i) : (locate (Reg.bridgeEnd b)).suitOf ≠ some i := by
  have all : ∀ i < 4, ∀ b ∈ endsFacing i, (locate (Reg.bridgeEnd b)).suitOf ≠ some i := by decide
  exact all i lt b m

theorem suitFolded_folds {i : Nat} (reeve detail : Nat) (lt : i < 4) (safe : Safe s) : SuitFolds i detail s (s.suitFolded i reeve detail) := by
  obtain ⟨-, -, -, regs, staged⟩ := safe
  obtain ⟨reg, rising, -, -, -, -, run, packets, dark, -, link⟩ := suitDown_down s i
  have ris := rising staged
  have fenced : ∀ b ∈ endsFacing i, (s.suitDown i).flag (Reg.bridgeEnd b) 31 = false := fun b m =>
    (State.flag_congr ((reg regs _).trans (if_neg (ends_away lt m))) 31).trans (clearEnds_clear m _)
  have lists : i ∈ (s.suitDown i).recov.foldedSuits := by
    unfold State.suitDown
    simp
  have off : ((s.suitDown i).suit i).powered = false := by
    show (PMap.get ({} : Suit) (PMap.put _ i {}) i).powered = false
    rw [PMap.get_put_same]
  unfold State.suitFolded
  generalize s.suitDown i = b at *
  have ends := endsStay_setFold ris i true
  have set := setFold_sets (i := i) (on := true) (by omega) ris
  have carries := carries_setFold b i true
  have abides := abides_setFold b i true
  generalize b.setFold i true = c at *
  refine ⟨(carries.powered i).trans off, by rw [show (c.post reeve 3 0x09 (epReeve (i * 4)) detail).recov.foldedSuits = c.recov.foldedSuits from rfl, carries.folded]; exact lists,
    fun b m => ?_, ?_, fun j low ne lit => ?_, fun j low net inbox ne lit => ?_, ⟨_, _, List.mem_append_right _ (List.mem_singleton_self _)⟩, ?_⟩
  · have clear := fenced b m
    unfold State.flag at clear ⊢
    rw [show (c.post reeve 3 0x09 (epReeve (i * 4)) detail).field (Reg.bridgeEnd b) 31 1 = c.field (Reg.bridgeEnd b) 31 1 from rfl, ends b 31 1 (by omega)]
    exact clear
  · obtain ⟨-, -, -, -, -, links⟩ := abides.fixed
    unfold State.link at link ⊢
    rw [show (c.post reeve 3 0x09 (epReeve (i * 4)) detail).links = c.links from rfl, links]
    exact link
  · exact set.pending j (mem_litSuits low ((dark j ne).trans lit))
  · refine set.active j (mem_litSuits low ((dark j ne).trans lit)) ?_
    obtain ⟨noNet, noInbox⟩ := packets net inbox
    unfold State.drained
    rw [noNet, noInbox]
    rfl
  · exact abides.run.trans run

theorem SuitFolds.trans_tail {i detail : Nat} (folds : SuitFolds i detail s t) (done : Bool) : SuitFolds i detail s (t.foldTail done) := by
  have tables := tables_foldTail t done
  have carries := carries_foldTail t done
  have abides := abides_foldTail t done
  have stay := endsStay_foldTail t done
  obtain ⟨powered, folded, ends, link, pending, active, ⟨r, time, flies⟩, run⟩ := folds
  refine ⟨(carries.powered i).trans powered, by rw [carries.folded]; exact folded, fun b m => ?_, ?_, fun j low ne lit => ?_,
    fun j low net inbox ne lit => ?_, ⟨r, time, carries.flight flies⟩, abides.run.trans run⟩
  · have clear := ends b m
    unfold State.flag at clear ⊢
    rw [stay b 31 1 (by omega)]
    exact clear
  · obtain ⟨-, -, -, -, -, links⟩ := abides.fixed
    unfold State.link at link ⊢
    rw [links]
    exact link
  · rw [tables.bound _ (tableAddr_fabCtl j)]
    exact pending j low ne lit
  · rw [State.flag_congr (tables.reg _ (tableAddr_fabCtl j)) i]
    exact active j low net inbox ne lit

theorem bit_foldMask {j i : Nat} (lt : i < 4) (on : s.flag (Reg.fabCtl j) i = true) : bit (s.foldMask j) i = true := by
  have low : bit (s.field (Reg.fabCtl j) 0 4) i = s.flag (Reg.fabCtl j) i := by
    unfold bit State.field State.flag
    rw [bits_bits _ 0 4 i 1 (by omega), Nat.zero_add]
    rfl
  unfold State.foldMask
  rw [bit_or, low, on, Bool.true_or]

theorem suitUp_of_folded {i : Nat} (out : i ∈ s.recov.foldedSuits) : s.suitUp i = false := by
  unfold State.suitUp
  rw [List.contains_iff_mem.2 out]
  simp

/-! ## A suit fold with no deal -/

/-- What a suit fold with no deal and no collective leaves of memory, units and registers. -/
structure SuitGone (i : Nat) (s t : State) : Prop where
  lost : ∀ a, i * 2 ^ 38 ≤ a → a < (i + 1) * 2 ^ 38 → Memory.byte t.mem a = 0
  kept : ∀ a, (a < i * 2 ^ 38 ∨ (i + 1) * 2 ^ 38 ≤ a) → Memory.byte t.mem a = Memory.byte s.mem a
  hands : ∀ h, h / 160 = i → t.hand h = {}
  cores : ∀ k, k / 2720 = i → t.core k = {}
  reset : ∀ a, (locate a).suitOf = some i → t.reg a = Reg.reset a
  regs : ∀ a, (locate a).suitOf ≠ some i → ¬ TableRange a → (∀ b ∈ endsFacing i, a ≠ Reg.bridgeEnd b) → a ≠ Reg.bellStat → t.reg a = s.reg a

theorem suitTables_located {j a : Nat} (lt : j < 4) (mine : SuitTables j a) : (locate a).suitOf = some j := by
  obtain ⟨low, high⟩ := mine
  unfold Reg.fabCtl Reg.fence suitBase at *
  have suit : (a - 0x10000000) / 0x08000000 = j := by omega
  have within : (a - 0x10000000) % 0x08000000 < 0x01000000 := by omega
  unfold locate
  rw [if_neg (by omega), if_neg (by omega)]
  dsimp only
  rw [if_pos within, suit]
  rfl

theorem foldSuit_gone {i cause : Nat} (lt : i < 4) (lit : s.suitDark i = false) (safe : Safe s) (idle : s.job.run = false) (none : s.colls = []) :
    SuitGone i s (s.foldSuit i cause) := by
  obtain ⟨r, mask, done, e⟩ := foldSuit_eq s i cause lit
  obtain ⟨wf, -, -, regs, staged⟩ := safe
  obtain ⟨reg, rising, mem, hands, cores, colls, run, -, -, gone, -⟩ := suitDown_down s i
  have step := tableStep_setFold (i := i) (on := true) (rising staged) (colls.trans none)
  have dark : ∀ a, (locate a).suitOf = some i → ¬ (s.suitDown i).LitTables a := fun a mine ⟨j, low, lit, tables⟩ => by
    rw [suitTables_located low tables] at mine
    obtain rfl := Option.some.inj mine
    rw [gone] at lit
    cases lit
  rw [e]
  generalize s.suitDown i = b at *
  obtain ⟨mem', cores', hands', reg'⟩ := foldTail_calm (s := (b.setFold i true).post r 3 0x09 (epReeve (i * 4)) (cause <<< 44 + mask <<< 40)) (done := done)
    (by show (b.setFold i true).job.run = false; rw [step.eq]; exact run.trans idle) (step.colls.trans (colls.trans none))
  generalize ((b.setFold i true).post r 3 0x09 (epReeve (i * 4)) (cause <<< 44 + mask <<< 40)).foldTail done = t at *
  replace mem' : t.mem = Memory.clearRange s.mem (i * 2 ^ 38) ((i + 1) * 2 ^ 38) := by
    rw [mem', ← mem]
    show (b.setFold i true).mem = b.mem
    rw [step.eq]
  replace hands' : t.hands = s.hands.filter fun e => e.1 / 160 != i := by
    rw [hands', ← hands]
    show (b.setFold i true).hands = b.hands
    rw [step.eq]
  replace cores' : t.cores = s.cores.filter fun e => e.1 / 2720 != i := by
    rw [cores', ← cores]
    show (b.setFold i true).cores = b.cores
    rw [step.eq]
  have byte : ∀ a, Memory.byte t.mem a = if decide (a < i * 2 ^ 38) || decide ((i + 1) * 2 ^ 38 ≤ a) then Memory.byte s.mem a else 0 := fun a => by
    rw [mem']
    exact Memory.byte_filter (fun a => decide (a < i * 2 ^ 38) || decide ((i + 1) * 2 ^ 38 ≤ a)) a wf
  refine ⟨fun a low high => ?_, fun a out => ?_, fun h mine => ?_, fun k mine => ?_, fun a mine => ?_, fun a away table ends bell => ?_⟩
  · rw [byte, if_neg (by simp; omega)]
  · rw [byte, if_pos (by simpa using out)]
  · unfold State.hand
    rw [hands']
    exact PMap.get_dropped fun e m => by
      have := (List.mem_filter.1 m).2
      rintro rfl
      simp [mine] at this
  · unfold State.core
    rw [cores']
    exact PMap.get_dropped fun e m => by
      have := (List.mem_filter.1 m).2
      rintro rfl
      simp [mine] at this
  · have bell : a ≠ Reg.bellStat := fun e => by
      rw [e, show (locate Reg.bellStat).suitOf = Option.none from by decide] at mine
      cases mine
    exact (reg' a bell).trans ((step.reg a (dark a mine)).trans ((reg regs a).trans (if_pos mine)))
  · refine (reg' a bell).trans ((step.reg a (mt LitTables.range table)).trans ((reg regs a).trans ((if_neg away).trans ?_)))
    exact clearEnds_other ends _

end Sys2Proof
end

section
/-! PROOFS. SUIT_FOLD and SUIT_REJOIN, and the folds together (R360, R429, R439, R440). -/

namespace Sys2Proof

open Machine

variable {r s t : State}

/-- When a suit fold acts. -/
def Machine.State.foldsSuit (s : State) (i cause : Nat) : Prop :=
  cause ≤ 5 ∧ (s.suit i).powered = true ∧ s.suitDark i = false ∧ s.mayFold i = true ∧ (cause = 3 → s.isolated i = true)

theorem execSuitFold_folds {i : SuitIx} {cause : Nat} (folds : s.foldsSuit i.val cause) : execSuitFold i cause s = .next (s.foldSuit i.val cause) := by
  obtain ⟨low, power, -, may, alone⟩ := folds
  unfold execSuitFold
  rw [if_neg]
  rintro (c | c | c | ⟨c, d⟩)
  · omega
  · rw [power] at c
    cases c
  · rw [may] at c
    cases c
  · rw [alone c] at d
    cases d

theorem foldSuit_dark {i cause : Nat} (dark : s.suitDark i = true) : s.foldSuit i cause = s := by
  unfold State.foldSuit
  exact if_pos dark

theorem execSuitFold_stays {i : SuitIx} {cause : Nat} (not : ¬ s.foldsSuit i.val cause) : execSuitFold i cause s = .next s := by
  unfold execSuitFold
  split_ifs with c
  · rfl
  · simp only [not_or, not_and, Bool.not_eq_eq_eq_not, Bool.not_true, not_lt] at c
    obtain ⟨low, power, may, alone⟩ := c
    rw [foldSuit_dark]
    by_contra lit
    exact not ⟨low, by simpa using power, by simpa using lit, by simpa using may, fun e => by simpa using alone e⟩

theorem suitFolds (safe : Safe s) (i : SuitIx) (cause : Nat) :
    (¬ s.foldsSuit i.val cause → Does (.suitFold i cause) s fun t => t = s) ∧
    (s.foldsSuit i.val cause → Does (.suitFold i cause) s fun t => (t.suit i.val).powered = false ∧ i.val ∈ t.recov.foldedSuits ∧ t.suitUp i.val = false ∧
      (∀ b ∈ endsFacing i.val, t.flag (Reg.bridgeEnd b) 31 = false) ∧ (t.link (linkKey (2 * i.val) true true)).down = true ∧
      (∀ j < 4, j ≠ i.val → s.suitDark j = false → bit (t.bound (Reg.fabCtl j)).toNat i.val = true) ∧
      (∀ j < 4, s.net = [] → s.inbox = [] → s.colls = [] → j ≠ i.val → s.suitDark j = false → bit (t.foldMask j) i.val = true) ∧
      (∃ r w, (r, w) ∈ t.recov.flight ∧ bits w.toNat 0 8 = 0x09 ∧ recSev w = 3 ∧ bits w.toNat 124 4 = cause) ∧
      (s.job.run = true → (∀ j < 4, t.suitUp j = false) → t.job.stopWanted = 1) ∧
      (s.job.run = false → s.colls = [] →
        (∀ a, i.val * 2 ^ 38 ≤ a → a < (i.val + 1) * 2 ^ 38 → Memory.byte t.mem a = 0) ∧
        (∀ a, (a < i.val * 2 ^ 38 ∨ (i.val + 1) * 2 ^ 38 ≤ a) → Memory.byte t.mem a = Memory.byte s.mem a) ∧
        (∀ h, h / 160 = i.val → t.hand h = {}) ∧ (∀ k, k / 2720 = i.val → t.core k = {}) ∧
        (∀ a, (locate a).suitOf = some i.val → t.reg a = Reg.reset a) ∧
        ∀ a, (locate a).suitOf ≠ some i.val → (∀ j < 4, a < Reg.fabCtl j ∨ Reg.fence j 4 < a) → (∀ b ∈ endsFacing i.val, a ≠ Reg.bridgeEnd b) → a ≠ Reg.bellStat →
          t.reg a = s.reg a)) := by
  refine ⟨fun not => ⟨s, execSuitFold_stays not, rfl⟩, fun folds => ⟨_, execSuitFold_folds folds, ?_⟩⟩
  obtain ⟨low, power, lit, -⟩ := folds
  obtain ⟨r, mask, done, fits, e⟩ := foldSuit_masked s cause i.isLt lit
  have before := suitFolded_folds r (cause <<< 44 + mask <<< 40) i.isLt safe
  have after := before.trans_tail done
  unfold State.suitFolded at before after
  rw [← e] at after
  obtain ⟨powered, folded, ends, link, pending, active, ⟨x, time, flies⟩, -⟩ := after
  obtain ⟨code, sev, caused⟩ := suitWord (time := time) (e := epReeve (i.val * 4)) low fits
  refine ⟨powered, folded, suitUp_of_folded folded, ends, link, fun j lt ne lit => (bit_eq_getLsbD _ _).trans (pending j lt ne lit),
    fun j lt net inbox _ ne lit => bit_foldMask i.isLt (active j lt net inbox ne lit), ⟨x, _, flies, code, sev, caused⟩, fun on all => ?_, fun idle none => ?_⟩
  · rw [e] at all ⊢
    exact foldTail_stops (before.run.trans on) all
  · obtain ⟨lost, kept, hands, cores, reset, regs⟩ := foldSuit_gone (cause := cause) i.isLt lit safe idle none
    exact ⟨lost, kept, hands, cores, reset, fun a away out => regs a away (not_tableRange out)⟩

/-! ## A suit that rejoins (R360, R443) -/

/-- When a suit that left with a hand fold rejoins. -/
def Machine.State.rejoins (s : State) (i : Nat) : Prop :=
  i ∈ s.recov.outSuits ∧ i ∉ s.sec.fencedSuits ∧ s.suitDark i = false ∧ (s.job.run = true → s.allHeld = true)

/-- A state whose suit is out no more. -/
def Machine.State.suitIn (s : State) (i : Nat) : State := { s with recov := { s.recov with outSuits := s.recov.outSuits.filter (· != i) } }

theorem execSuitRejoin_joins {i : SuitIx} (joins : s.rejoins i.val) : execSuitRejoin i s = .next ((s.setFold i.val false).suitIn i.val) := by
  obtain ⟨out, free, lit, held⟩ := joins
  unfold execSuitRejoin
  rw [if_neg]
  · rfl
  · rintro (c | c | c | ⟨c, d⟩)
    · simp [out] at c
    · exact free (List.contains_iff_mem.1 c)
    · rw [lit] at c
      cases c
    · rw [held c] at d
      cases d

theorem execSuitRejoin_stays {i : SuitIx} (not : ¬ s.rejoins i.val) : execSuitRejoin i s = .next s := by
  unfold execSuitRejoin
  rw [if_pos]
  by_contra no
  simp only [not_or, not_and, Bool.not_eq_true] at no
  obtain ⟨out, free, lit, held⟩ := no
  exact not ⟨by simpa using out, by simpa using free, by simpa using lit, fun on => by simpa using held on⟩

theorem suitRejoins (safe : Safe s) (i : SuitIx) :
    (¬ s.rejoins i.val → Does (.suitRejoin i) s fun t => t = s) ∧
    (s.rejoins i.val → Does (.suitRejoin i) s fun t => i.val ∉ t.recov.outSuits ∧
      (∀ j < 4, s.suitDark j = false → bit (t.bound (Reg.fabCtl j)).toNat i.val = false) ∧
      (s.colls = [] → (∀ a, (∀ j < 4, a < Reg.fabCtl j ∨ Reg.fence j 4 < a) → t.reg a = s.reg a) ∧
      t = { s with regs := t.regs, staged := t.staged, cfg := t.cfg, recov := { s.recov with outSuits := s.recov.outSuits.filter (· != i.val) } })) := by
  have rising := safe.2.2.2.2
  refine ⟨fun not => ⟨s, execSuitRejoin_stays not, rfl⟩, fun joins => ⟨_, execSuitRejoin_joins joins, ?_, fun j lt lit => ?_, fun none => ?_⟩⟩
  · unfold State.suitIn
    simp
  · exact (bit_eq_getLsbD _ _).trans ((setFold_sets (on := false) (by omega) rising).pending j (mem_litSuits lt lit))
  · have step := tableStep_setFold (i := i.val) (on := false) rising none
    generalize s.setFold i.val false = b at step
    refine ⟨fun a out => step.reg a (mt LitTables.range (not_tableRange out)), ?_⟩
    have recov : b.recov = s.recov := by rw [step.eq]
    unfold State.suitIn
    rw [recov]
    exact congrArg (fun x : State => { x with recov := { s.recov with outSuits := s.recov.outSuits.filter (· != i.val) } }) step.eq

/-- Settles O51. -/
theorem foldsAndRejoins : Obligations.FoldsAndRejoins := by
  intro s safe
  exact ⟨fun h cause => handFolds safe h cause, fun i cause => suitFolds safe i cause, fun i => suitRejoins safe i⟩

end Sys2Proof
end
